-- ==== Sys2Proof/Word.lean ====
section
/-! DEFINITION. Word.lean: the word types of the part and their plainest arithmetic (R4 to R8). -/
namespace Sys2Proof

abbrev Byte := BitVec 8
abbrev W16 := BitVec 16
abbrev W32 := BitVec 32
abbrev W64 := BitVec 64
/-- A mask with one bit for each power domain (R41). -/
abbrev Mask64 := BitVec 64

/-- A counter that stays at its top value: `satAdd top n k` is `n + k`, at most `top`. -/
def satAdd (top n k : Nat) : Nat := min top (n + k)

/-- `ceilDiv n d` is n / d rounded up, 0 for d = 0. -/
def ceilDiv (n d : Nat) : Nat := (n + d - 1) / d

/-- Round n up to a multiple of d. -/
def roundUp (n d : Nat) : Nat := ceilDiv n d * d

end Sys2Proof
end

