-- ==== Sys2Proof/Table.lean ====
section
/-! DEFINITION. Table.lean: sparse tables with a key for each entry, kept with their keys strictly rising, so that equal tables are equal lists. -/
namespace Sys2Proof

/-- A sparse table: pairs of key and value, keys strictly rising. -/
abbrev Tbl (α : Type) := List (Nat × α)

/-- The entry at a key, if there is one. -/
def Tbl.find : Tbl α → Nat → Option α
  | [], _ => none
  | (k, v) :: t, n => if k = n then some v else Tbl.find t n

/-- The entry at a key, or the value that an unlisted key has. -/
def Tbl.getD (t : Tbl α) (n : Nat) (d : α) : α := (Tbl.find t n).getD d

/-- Put an entry at a key, in the place that keeps the keys rising. -/
def Tbl.set : Tbl α → Nat → α → Tbl α
  | [], n, a => [(n, a)]
  | (k, v) :: t, n, a =>
    if n < k then (n, a) :: (k, v) :: t
    else if n = k then (n, a) :: t
    else (k, v) :: Tbl.set t n a

/-- Take the entry at a key away. -/
def Tbl.del : Tbl α → Nat → Tbl α
  | [], _ => []
  | (k, v) :: t, n => if k = n then t else (k, v) :: Tbl.del t n

/-- Whether a key has an entry. -/
def Tbl.has (t : Tbl α) (n : Nat) : Bool := (Tbl.find t n).isSome

/-- Change the entry at a key, where there is one. -/
def Tbl.upd (t : Tbl α) (n : Nat) (f : α → α) : Tbl α :=
  match Tbl.find t n with
  | some a => Tbl.set t n (f a)
  | none => t

/-- Change every entry. -/
def Tbl.mapVals (t : Tbl α) (f : Nat → α → α) : Tbl α := t.map fun p => (p.1, f p.1 p.2)

/-- Keep the entries that a test accepts. -/
def Tbl.keep (t : Tbl α) (f : Nat → α → Bool) : Tbl α := t.filter fun p => f p.1 p.2

/-- The lowest key from `n` upward, among `fuel` keys, that has no entry. -/
def Tbl.freshFrom (t : Tbl α) : Nat → Nat → Nat
  | 0, n => n
  | fuel + 1, n => if Tbl.has t n then Tbl.freshFrom t fuel (n + 1) else n

/-- The canonical form: keys strictly rising. -/
def Tbl.wf (t : Tbl α) : Bool :=
  match t with
  | [] => true
  | [_] => true
  | (k, _) :: (k', v') :: t' => decide (k < k') && Tbl.wf ((k', v') :: t')

/-- Put an element before the first one that it must precede. -/
def insertBy (before : α → α → Bool) (a : α) : List α → List α
  | [] => [a]
  | b :: l => if before a b then a :: b :: l else b :: insertBy before a l

/-- Sort a list; elements that neither precede the other keep their order. -/
def sortBy (before : α → α → Bool) (l : List α) : List α := l.foldl (fun acc a => insertBy before a acc) []

end Sys2Proof
end

