-- ==== Sys2Proof/Types/Base.lean ====
section
/-! DEFINITION. Types/Base.lean: names and operand records of the pins, power, clocks, start-up, trust, control-port and error families. -/
namespace Sys2Proof

/-- The two control ports (R108). -/
inductive Port | a | b
deriving DecidableEq, Repr

/-- The discrete inputs with a rate limit (R57). -/
inductive Input | pwrgood | resetN | pwrfail | perstA | perstB | peerAlive | chainIn
deriving DecidableEq, Repr

/-- The references that the loss-of-clock detector watches, but for the system reference and the crystal (R53). -/
inductive RefClk | pcieA | pcieB | eth0 | eth1 | media0 | media1 | media2
deriving DecidableEq, Repr

/-- What the chip as a whole is doing: unpowered; held in reset; out of reset; flushing the vault; flush ended; fail-stopped; held by the loss of the system reference. -/
inductive Phase | unpowered | reset | run | flushing | vaulted | stopped | refHold
deriving DecidableEq, Repr

/-- What started a vault flush (R485): the power-fail pin, a critical temperature, a firmware fallback. -/
inductive FlushCause | pwrfail | critical | fallback
deriving DecidableEq, Repr

/-- CHIP_BOOT_STATUS.STAGE (R75). -/
inductive Stage
  | rom | fuses | stage1Load | stage1 | training | ccLoad | units | vaultReplay | journalReplay | ready | recovery | halted
deriving DecidableEq, Repr

/-- The three images of a region (R79). -/
inductive ImageType | stage1 | controlCore | bridge
deriving DecidableEq, Repr

/-- The source of a running image (R75 IMAGE_SRC). -/
inductive ImageSrc | primary | staging | download
deriving DecidableEq, Repr

/-- What a stream of one image brought into its load target (R80, R83): the 256 header bytes, the payload bytes, and what an upset flips in the pair of result registers (no bit where nothing upset it). -/
structure ImageObs where
  header : List Byte
  payload : List Byte
  flip : W32 := 0
  flipN : W32 := 0
deriving DecidableEq, Repr

/-- Read modes of the boot NOR (R76): 1-1-1 with command 0x13 at 25 MHz, for a device without valid SFDP; 1-1-1, 1-1-4 and 1-4-4 at up to 133 MHz. -/
inductive NorMode | slow13 | single111 | quadOut114 | quadIo144
deriving DecidableEq, Repr

/-- What the service processor finds between reset exit and the end of boot step 5 (R72, R74, R86, R492). -/
structure BootObs where
  /-- the lockstep and SRAM self-tests of step 3 pass -/
  selfTestOk : Bool
  /-- whole-row fuse rows that are sensed with wrong bits, each with the bits that read wrong -/
  rowErrors : List (Nat × W64)
  /-- the boot NOR can be read -/
  norReadable : Bool
  /-- the NOR carries valid SFDP -/
  sfdp : Bool
  /-- the fastest read mode that its Basic Flash Parameter Table offers -/
  mode : NorMode := .quadIo144
  /-- image headers as the NOR gives them, by offset in the NOR; an unlisted one is erased -/
  headers : List (Nat × List Byte) := []
  /-- slots of the repair partition that read otherwise than they were written, with the 32 bytes read -/
  repairReads : List (Nat × List Byte)
  /-- power domains whose unit fails its boot self-test -/
  unitFails : List Nat
  /-- the record that was being written at the reset is torn (R503) -/
  torn : Bool
  /-- the 4 KiB factory block, the device certificate and the intermediate certificate as the NOR gives them (R78) -/
  factory : List Byte
  devCert : List Byte
  intCert : List Byte
deriving DecidableEq, Repr

/-- One DIMM slot as training reads it (R24, R508 DDR_REFUSED). -/
structure Dimm where
  present : Bool
  ranks : Nat
  speed : Nat
  gib : Nat
deriving DecidableEq, Repr

/-- One copy of a pool's superblock as replay reads it (R285): whether its MAGIC and CRC are valid, and the fields that replay takes. -/
structure SuperCopy where
  pool : Nat
  valid : Bool
  sbGen : W64
  version : Nat
  ownerGen : W32
  head : Nat
deriving DecidableEq, Repr

/-- The header of a mailbox request as the device holds it (R121), with the port and the mailbox it came through. -/
structure MbxHdr where
  port : Port
  ring : Bool
  tag : W32
  version : Nat
deriving DecidableEq, Repr

/-- A mailbox message as it stands in memory: header fields and body (R121). -/
structure MbxMsg where
  opcode : Nat
  length : Nat
  version : Nat
  tag : W32
  body : List Byte
deriving DecidableEq, Repr

/-- Mailbox status codes (R135). -/
inductive MStatus
  | success | invalidOpcode | invalidField | lengthMismatch | helloRequired | versionUnsupported | semNotHeld | busy
  | notReady | noResource | notFound | existsAlready | inUse | authFailed | nonceInvalid | refusedState | rollbackRefused
  | rateLimited | contextBusy | noContext | keyExhausted | dmaError | aborted | fenced | debugLocked | limitExceeded
  | imageInvalid | internalError
deriving DecidableEq, Repr

/-- The signature part of a signed fuse or debug command (R90, R138). -/
structure Signed where
  signerSlot : Nat
  signerKey : List Byte
  nonce : List Byte
  signature : List Byte
deriving DecidableEq, Repr

/-- Outcome of a BAR0 access that R12 or R113 counts. -/
inductive AccessErr | narrowWrite | misalignedWrite | misalignedRead | unmappedWrite
deriving DecidableEq, Repr

/-- JTAG instructions of R71. -/
inductive JtagInstr | bypass | samplePreload | extest | idcode | clamp | highz | extestPulse | extestTrain
deriving DecidableEq, Repr

/-- An error as its detector reports it (R488, R496). -/
structure ErrObs where
  code : W16
  domain : Nat
  unit : Nat
  agent : Nat
  address : W64
  info0 : W64
  info1 : W64
  multi : Bool
  host : Bool
  /-- the host command whose work the error stands in, by its number; no part of the record -/
  cmd : Option Nat := none
deriving DecidableEq, Repr

/-- The fail-stop causes of R494, numbered as R508 numbers them. -/
inductive FailStopCause | lockstep | spSram | collectorParity | noSibling | sysref
deriving DecidableEq, Repr

/-- Who reads a shared register in one cycle: one port, or both at once (R14, R116). -/
inductive Readers | one (p : Port) | both
deriving DecidableEq, Repr

/-- The eight background activities of R480. -/
abbrev Activity := Fin 8

/-- Where a register access goes: BAR0 of a port, the doorbell page of a PCIe controller, or BAR4 of the upper endpoint of a port in x8+x8 mode (R109, R113, R189). -/
inductive RegTarget | bar0 (p : Port) (offset : BitVec 20) | page (port : Port) (upper : Bool) (slice : BitVec 12) (offset : BitVec 14) | bar4 (p : Port) (offset : BitVec 16)
deriving DecidableEq, Repr

/-- A configuration request: a read or a write of a doubleword of the header, or of a capability register, named by its register because the spec does not give the capability's place (log entry 173): message control of MSI-X, Power State of the power management capability, device control (Max_Payload_Size, Max_Read_Request_Size), a register of AER by its offset / 4 in the capability, the control registers of ATS, PRI and PASID, and Initiate Function Level Reset of device control. -/
inductive CfgReq
  | read (reg : BitVec 10) | write (reg : BitVec 10) (v : W32) | msixControl (enable funcMask : Bool)
  | powerState (d3hot : Bool) | powerStateRead | deviceControl (payload readRequest : BitVec 3) | deviceControlRead
  | aerRead (reg : Fin 7) | aerWrite (reg : Fin 7) (v : W32)
  | atsControl (enable : Bool) (stu : BitVec 5) | atsRead | priControl (enable : Bool) | priRead | pasidControl (enable : Bool) | pasidRead
  | initiateFlr
deriving DecidableEq, Repr

/-- A device read of host memory that gets no completion: a ring fetch of a port, the buffer that the body of a mailbox request names, the data of a host command. -/
inductive HostRead | ring (p : Port) | buffer (p : Port) (ring : Bool) (tag : W32) (addr : W64) | data (id : Nat) (addr : W64)
deriving DecidableEq, Repr

/-- SMBus Address Resolution Protocol commands to the part (R97). -/
inductive ArpCmd | prepare | reset | getUdid | assign (udid : List Byte) (addr : BitVec 7)
deriving DecidableEq, Repr

/-- A message on the sideband port as its bytes stand around the operands that its row names: those before them (address, MCTP header, message type, command), those after them, and the PEC, none where the sender sent none (R97). -/
structure SideMsg where
  head : List Byte
  tail : List Byte := []
  pec : Option Byte := none
deriving DecidableEq, Repr

/-- The numeric sensors that PLDM monitoring reads (R97). -/
inductive Sensor | die | hbm (stack : Fin 4) | power | life
deriving DecidableEq, Repr

/-- A trace entry as firmware writes it, but for its PATH (R501). DATA is 20 bytes. -/
structure TraceEnt where
  time : W64
  type : Byte
  source : W16
  data : List Byte
deriving DecidableEq, Repr

end Sys2Proof
end

