-- ==== Sys2Proof/Types/Cipher.lean ====
section
/-! DEFINITION. Types/Cipher.lean: operand records and names of the cipher, digest and signature engines (14). -/
namespace Sys2Proof

/-- The OP values of a cipher descriptor (R455). -/
inductive CipherOp | xtsEncrypt | xtsDecrypt | xtsReencrypt | gcmOpen | gcmData | gcmClose | rawEncrypt | rawDecrypt
deriving DecidableEq, Repr

/-- Engine status values (R456). -/
inductive EngStatus
  | ok | contextBusy | noContext | keyExhausted | keyAbsent | lengthFault | tagFail | fenced | accessFault | padFault | overrun
deriving DecidableEq, Repr

/-- A cipher descriptor (R455), with the agent that the hardware stamps on it (R457) and the bytes at its source address. -/
structure CipherReq where
  agent : Nat
  aad : Bool := false
  decrypt : Bool := false
  ctx : Nat := 0
  weight : Nat := 0
  keyIndex : W32
  gen : W16 := 0
  gen2 : W16 := 0
  keyIndex2 : W32 := 0
  dst : W64 := 0
  tweakIv : BitVec 128 := 0
  tweak2 : W64 := 0
  data : List Byte
deriving DecidableEq, Repr

/-- The parts of a digest context's control register that a write sets with OPEN (R463). -/
structure DgsCtrl where
  alg : BitVec 2
  hmac : Bool
  toSlot : Bool
  weight : BitVec 4
  feeder : BitVec 5
  feederEn : Bool
deriving DecidableEq, Repr

end Sys2Proof
end

