-- ==== Sys2Proof/Machine/Parts/Cipher.lean ====
section
/-! DEFINITION. Machine/Parts/Cipher.lean: the state of the key tables, key slots, GCM contexts, digest contexts and the ECDSA accelerator (14). -/
namespace Sys2Proof.Machine
open Sys2Proof

/-- One generation of a key index (R448). STATE: 1 active, 2 near limit, 3 exhausted, 4 unusable, 5 retired. -/
structure KeyGen where
  wrapped : List Byte
  kind : Nat
  state : Nat := 1
  gen : Nat := 0
  limitLog2 : Nat := 0
  uses : Nat := 0
  kcv : List Byte
  /-- for pools 0 to 7, the first unit encrypted under this generation -/
  firstUnit : List Nat := List.replicate 8 0
deriving DecidableEq, Repr

/-- A key index that is held: its current generation, the retired ones (newest first) and the slice it is bound to. -/
structure KeyEnt where
  cur : KeyGen
  retired : List KeyGen := []
  slice : Option Nat := none
deriving DecidableEq, Repr

/-- What a key slot holds (R454): a generation of an index, a traffic key, the vault key or the filler key. -/
inductive SlotUse | gen (index gen : Nat) | traffic (node gen : Nat) | derived | vault | filler
deriving DecidableEq, Repr

/-- A key slot that is filled (R454). -/
structure KeySlot where
  use : SlotUse
  gcmKind : Bool
  key : List Byte
  /-- pinned apart from the contexts that use it -/
  pinned : Bool := false
  /-- order of last use -/
  stamp : Nat := 0
deriving DecidableEq, Repr

/-- An open GCM context (R457, R463). -/
structure GcmCtx where
  owner : Nat
  decrypt : Bool := false
  final : Bool := false
  failed : Bool := false
  weight : Nat := 1
  slot : Nat
  iv : List Byte
  aad : List Byte := []
  text : List Byte := []
deriving DecidableEq, Repr

/-- A digest context (R459 to R463). -/
structure DgsCtx where
  owner : Option Nat := none
  alg : BitVec 2 := 0
  hmac : Bool := false
  toSlot : Bool := false
  weight : BitVec 4 := 1
  feeder : BitVec 5 := 0
  feederEn : Bool := false
  length : Nat := 0
  /-- message bytes taken -/
  msg : List Byte := []
  /-- padding bytes taken -/
  padTaken : Nat := 0
  done : Bool := false
  padFault : Bool := false
  overrun : Bool := false
  failed : Bool := false
  cmpDone : Bool := false
  cmpResult : W32 := 0
  cmpResultN : W32 := 0
  dest : BitVec 12 := 0
  key : W32 := 0
  digest : List Byte := List.replicate 64 0
  expect : List Byte := List.replicate 64 0
deriving DecidableEq, Repr

/-- The ECDSA accelerator (R462). -/
structure Ecdsa where
  op : BitVec 2 := 0
  busy : Bool := false
  done : Bool := false
  invalid : Bool := false
  owner : Nat := 0
  result : W32 := 0
  resultN : W32 := 0
  operands : List Byte := List.replicate 240 0
deriving DecidableEq, Repr

/-- A copy of the KTWK record of the boot NOR (R446): CUR and PREV are wrapped under the device sealing key. -/
structure KtwkRec where
  seq : Nat
  kcv : List Byte
  cur : List Byte
  prev : List Byte
deriving DecidableEq, Repr

/-- A request that waits for a slot fill (R454). -/
structure CipherWait where
  op : CipherOp
  req : CipherReq
deriving DecidableEq, Repr

/-- The cipher, digest and key state. -/
structure Cipher where
  keys : Tbl KeyEnt := []
  /-- sealing slots 0 to 2 (R444); slot 3 is the report key -/
  dsk : Option (List Byte) := none
  ktwk : Option (List Byte) := none
  ktwkPrev : Option (List Byte) := none
  /-- the two copies of the KTWK record -/
  record0 : Option KtwkRec := none
  record1 : Option KtwkRec := none
  slots : Tbl KeySlot := []
  stamp : Nat := 0
  waits : List CipherWait := []
  gcm : Tbl GcmCtx := []
  dgs : Tbl DgsCtx := []
  ecdsa : Ecdsa := {}
  laneErrors : Nat := 0
  fillFails : Nat := 0
  mismatch : Bool := false
  /-- opens and allocations refused for want of a free context -/
  noContext : Nat := 0
deriving DecidableEq, Repr

end Sys2Proof.Machine
end

