-- ==== Sys2Proof/Machine/Memory.lean ====
section
/-! DEFINITION. Machine/Memory.lean: a byte memory in one canonical form: addresses strictly rising, no entry equal to zero, which an unlisted address reads as. -/
namespace Sys2Proof.Machine

/-- A byte memory: the bytes that are not zero, addresses strictly rising. -/
abbrev Mem := List Host.Cell

/-- The byte at an address: zero where nothing is listed (DESIGN CHOICE, log entry 3). -/
def Mem.get (m : Mem) (a : Nat) : Byte := Tbl.getD m a 0

/-- Write one byte, keeping the canonical form. -/
def Mem.put (m : Mem) (a : Nat) (b : Byte) : Mem := if b = 0 then Tbl.del m a else Tbl.set m a b

/-- Write bytes from an address upward. -/
def Mem.putBytes (m : Mem) (a : Nat) : List Byte → Mem
  | [] => m
  | b :: bs => Mem.putBytes (Mem.put m a b) (a + 1) bs

/-- Read n bytes from an address upward. -/
def Mem.getBytes (m : Mem) (a : Nat) : Nat → List Byte
  | 0 => []
  | n + 1 => Mem.get m a :: Mem.getBytes m (a + 1) n

/-- The canonical form holds. -/
def Mem.wf (m : Mem) : Bool := Tbl.wf m && m.all fun c => c.2 != 0

end Sys2Proof.Machine
end

