-- ==== Sys2Proof/Types/Data.lean ====
section
/-! DEFINITION. Types/Data.lean: names and operand records of the host command path, slices, Grinder, Carafe, Hedgerow, Kamard link and flash management. -/
namespace Sys2Proof

/-- The peer states of R411, numbered from 0 in this order. -/
inductive PeerSt | alone | joining | mirrored | partitioned | takeover
deriving DecidableEq, Repr

/-- States of an ANA group on this head (R181). -/
inductive AnaState | optimized | nonOptimized | inaccessible | change
deriving DecidableEq, Repr

/-- Slice states of R196; an absent slice has no entry. -/
inductive SliceState | active | resetting | deleting
deriving DecidableEq, Repr

/-- I/O commands of R147. -/
inductive NvmOp | flush | write | read | writeUncorrectable | compare | compareWrite | writeZeroes | dsm | verify
deriving DecidableEq, Repr

/-- A keyed SGL Data Block descriptor (R146): `inval` asks for Send with Invalidate of its key. -/
structure KeyedSgl where
  addr : W64
  len : Nat
  key : W32
  inval : Bool := false
deriving DecidableEq, Repr

/-- Where a command's entry says that its data lies (R144 to R146): nowhere, in its capsule, by keyed SGL descriptors, by PCIe SGL descriptors (address and length), by PRP entries (the first, then PRP2 or the entries of the list), or by a descriptor of a type that is not supported. -/
inductive DataPtr
  | none
  | capsule (bytes : Nat)
  | keyed (l : List KeyedSgl)
  | sgl (l : List (W64 × Nat))
  | prp (first : W64) (rest : List W64)
  | other
deriving DecidableEq, Repr

/-- What a Connect carries beside its names (R154, R155): the keep-alive timeout in ms, and the priority class of an I/O queue (CATTR of the NVMe standard). -/
structure ConnAttr where
  kato : Nat := 0
  prio : Fin 4 := 0
deriving DecidableEq, Repr

/-- A slice doorbell page (R188): the endpoint whose BAR2 it lies in, and the slice. -/
structure PageId where
  port : Port
  upper : Bool := false
  slice : BitVec 12
deriving DecidableEq, Repr

/-- A submission queue entry as the engine reads it (R157), with the ranges that a Dataset Management command's data gives (none: its transfer failed) and the pages for which the host's address translation answers that they are absent (R187). -/
structure SubEntry where
  cid : Nat
  /-- the command of R147, none for an opcode outside its table -/
  op : Option NvmOp
  /-- every field lies in its range -/
  fieldsOk : Bool
  nsid : Nat
  slba : Nat
  /-- number of blocks, 1-based -/
  nlb : Nat
  /-- ranges of a Dataset Management command: first block and count -/
  ranges : Option (List (Nat × Nat)) := some []
  /-- DEAC of Write Zeroes; the Deallocate attribute of Dataset Management (R147) -/
  deac : Bool := false
  /-- command identifier of the Write of a fused Compare and Write, whose entry follows that of the Compare -/
  cid2 : Nat := 0
  ptr : DataPtr := .none
  /-- untranslated 4 KiB pages of the data that the host has to bring in -/
  absent : List Nat := []
deriving DecidableEq, Repr

/-- An NVMe status: status code type and status code (R169). -/
structure NStatus where
  sct : Nat
  sc : Nat
deriving DecidableEq, Repr

/-- Link states of a Kamard port (R328). -/
inductive KState | off | detect | acquire | negotiate | claimed | up | retrain | down
deriving DecidableEq, Repr

/-- Bridge statuses (R332). -/
inductive KStatus | ok | programFail | eraseFail | addressInvalid | ownerFenced | bankDenied | unsupported | dieFault | fwInvalid
deriving DecidableEq, Repr

/-- A slot of a Kamard frame (R323): 4,608 bytes of codeword or soft plane, and its trailer. -/
structure KSlot where
  data : List Byte
  index : Nat
  plane : Nat
  crc : W32
deriving DecidableEq, Repr

/-- The metadata of a codeword (R346). -/
structure CwMeta where
  version : Nat := 1
  /-- 1 data strip, 2 map strip, 3 filler -/
  kind : Nat := 1
  index : Nat
  pool : Nat
  stripAddr : Nat := 0
  stripe : Nat := 0
  bandSeq : Nat := 0
  hours : W32 := 0
  temp : Byte := 0
  dataCrc : W32
  metaCrc : W32
deriving DecidableEq, Repr

/-- What a Kamard command does (R330). Addresses are those of R342; a module is named by its port. -/
inductive KCmd
  | hello (minV maxV outstanding : Nat)
  | ack
  | nak (seq : Nat)
  /-- `background` is not on the wire: it orders the decoders' queues (R354) -/
  | read (addr : Nat) (sense : Nat) (thresh : Nat) (mask : Nat) (background : Bool)
  | program (area : Nat) (addr : Nat) (slc : Bool) (cws : List (List Byte))
  | erase (area : Nat) (addr : Nat)
  | threshLoad (die : Nat) (set : Nat) (offsets : List Int)
  | vaultProgram (area : Nat) (bank : Nat) (offset : Nat) (cws : List (List Byte))
  | vaultErase (area : Nat) (bank : Nat)
  | moduleInfo
  | claim (gen : W32) (reset : Bool)
  | fwWrite (offset : Nat) (data : List Byte)
  | fwActivate (length : Nat) (crc : W32)
  /-- a command of the other head, issued with PROXY set and the owner's generation (R335) -/
  | proxy (c : KCmd) (gen : W32)
deriving DecidableEq, Repr

/-- The module descriptor (R343); `tail` has the bytes that are reserved. -/
structure Descr where
  magic : W32
  version : Nat
  serial : W64
  dies : Nat
  blocksPerDie : Nat
  pagesPerBlock : Nat
  rawBytes : W64
  peRated : Nat
  cwPerPage : Nat := 16
  bitsPerCell : Nat := 3
  planes : Nat := 1
  dacStepMv : Nat := 0
  retentionHours : Nat := 0
  /-- T_READ, T_SOFT2, T_SOFT3, T_PROG, T_ERASE in µs -/
  times : List Nat := []
  /-- threshold sets of 7 signed offsets -/
  defaultSets : List (List Int) := []
  crc : W32
deriving DecidableEq, Repr

/-- Block states of R350. -/
inductive BState | free | opened | closed | source | dirty | retiring | retired
deriving DecidableEq, Repr

/-- How a frame was lost (R320, R324, R329). -/
inductive FrameFault | marks (sawPreamble : Bool) | headerCrc | trailerCrc | length | outOfOrder | duplicate | version (carried : Nat)
deriving DecidableEq, Repr

/-- How the retrain of a Kamard port ends (R318, R328): on both lanes, on one lane for a lane fault on the bridge's side, or not within 1 ms. -/
inductive RetrainEnd | both | oneLane | failed
deriving DecidableEq, Repr

/-- What a decoder made of a codeword (R353): it converged, with its corrected bits, data and metadata, or it did not. -/
inductive DecodeResult | ok (corrected : Nat) (data : List Byte) (md : CwMeta) | failed
deriving DecidableEq, Repr

/-- Damage met by an index operation (R238); an entry by its place in the pair. -/
inductive IndexDamage | none | tagLine | bucket | entry (place : Nat)
deriving DecidableEq, Repr

/-- Encodings of a unit (R221). -/
inductive Enc | raw | lz4 | zstd
deriving DecidableEq, Repr

/-- Map-cache policies (R248). -/
inductive CachePolicy | uc | wbA | wtNA | stream
deriving DecidableEq, Repr

end Sys2Proof
end

