-- ==== Sys2Proof/Machine/Parts/Data.lean ====
section
/-! DEFINITION. Machine/Parts/Data.lean: the state of the host command path, slices, Grinder, Carafe, journals, Hedgerow, Kamard ports and flash management.
A default value of a field is its value in State.reset, or of a fresh entry of a table. -/
namespace Sys2Proof.Machine
open Sys2Proof

/-! ## Host command path (05) and slices (06) -/

/-- A completion queue entry (R156), with the Privet entry that leaves when it is posted (R159) and the key that its Send invalidates (R146). -/
structure Cpl where
  sq : Nat
  cid : Nat
  status : NStatus
  dw0 : W32
  lock : Option Nat := none
  inval : Option W32 := none
deriving DecidableEq, Repr

/-- A submission queue: its completion queue, size, head, tail, and its priority class, 0 urgent to 3 low (R155). -/
structure Sq where
  cq : Nat
  size : Nat
  base : W64 := 0
  head : Nat := 0
  tail : Nat := 0
  prio : Nat := 0
deriving DecidableEq, Repr

/-- A completion queue: its phase tag (R145), size, head, tail, its vector in the slice's window, completions that wait for space, completions since the last message. -/
structure Cq where
  size : Nat
  base : W64 := 0
  head : Nat := 0
  tail : Nat := 0
  phase : Bool := true
  iv : Option Nat := none
  held : List Cpl := []
  coalesced : Nat := 0
deriving DecidableEq, Repr

/-- An Error Information log entry (R168, R171). -/
structure ErrLog where
  count : Nat
  sq : Nat
  cid : Nat
  status : NStatus
  location : Nat
  lba : Nat
  nsid : Nat
deriving DecidableEq, Repr

/-- A controller (R151, R154, R175, R178, R189), keyed by CNTLID. -/
structure Ctrl where
  slice : Nat
  fabrics : Bool
  /-- a discovery controller (R148) -/
  discovery : Bool := false
  /-- the endpoint of a PCIe controller's page (R188) -/
  port : Port := .a
  upper : Bool := false
  enabled : Bool := false
  cc : W32 := 0
  nssro : Bool := false
  aqa : W32 := 0
  asq : W64 := 0
  acq : W64 := 0
  sqs : Tbl Sq := []
  cqs : Tbl Cq := []
  /-- command identifiers of outstanding Asynchronous Event Requests, oldest first -/
  aers : List Nat := []
  /-- notices held until a request is posted: completion Dword 0 -/
  held : List W32 := []
  kato : Nat := 0
  kaEnd : Option Nat := none
  features : Tbl W32 := []
  /-- Host Identifier, 16 bytes, and the vectors of the window whose coalescing is disabled (R149) -/
  hostId : List Byte := []
  ivDisabled : Tbl Unit := []
  /-- arbitration (R155): the queue served last, what is left of its burst, and what is left of the weights of the high, medium and low classes -/
  rrLast : Nat := 0
  rrLeft : Nat := 0
  credits : List Nat := []
  /-- host reads, host writes and their bytes (R148 page 0x02) -/
  reads : Nat := 0
  writes : Nat := 0
  bytesRead : Nat := 0
  bytesWritten : Nat := 0
  /-- highest deferred-error SEQ reported through Flush, by namespace (R178) -/
  marks : Tbl Nat := []
  /-- TOTAL of the slice's log when the controller was created -/
  startMark : Nat := 0
  errLog : List ErrLog := []
  errCount : Nat := 0
  changed : List Nat := []
deriving DecidableEq, Repr

/-- A Deferred Error log entry (R177). -/
structure Deferred where
  seq : Nat
  nsid : Nat
  cause : Nat
  state : Nat := 0
  pool : Nat
  slba : Nat
  nlb : Nat
  time : W64
  epochFirst : W64 := 0
  epochLast : W64 := 0
  /-- the live namespace is among the views that include the run -/
  live : Bool := true
deriving DecidableEq, Repr

/-- A slice's dirty-page log (R203 to R205): chunks by address / 2 MiB, as 512-bit bitmaps. -/
structure DirtyLog where
  chunks : Tbl (BitVec 512) := []
  overflow : Bool := false
  harvests : Nat := 0
deriving DecidableEq, Repr

/-- A reset or a removal of a slice that runs (R198, R201): its mode, whether this head has the command, the commands squashed here, and what the other head has reported: its own count, once it has done. -/
structure SliceRun where
  squash : Bool
  deleting : Bool := false
  mine : Bool := true
  squashed : Nat := 0
  /-- end of the drain limit -/
  limit : Nat := 0
  /-- this head has done steps 1 to 4 -/
  torn : Bool := false
  peer : Option Nat := none
deriving DecidableEq, Repr

/-- A slice (R185, R190, R194, R196). -/
structure Slice where
  tenant : Bool
  bind : Nat
  queuePairs : Nat
  namespaces : Nat
  weight : Nat := 10
  vecBase : Nat := 0
  vecCount : Nat := 0
  state : SliceState := .active
  deficit : Nat := 0
  /-- BUDGET_PERMILLE in force in the running round (R194) -/
  quantum : Nat := 10
  /-- queue pairs that the other head has open (R197), and whether it logs dirty pages for the slice (R186) -/
  peerPairs : Nat := 0
  peerLogging : Bool := false
  /-- endpoints that have carried the slice's writes since its last reset (R198 step 3) -/
  wrote : List (Port × Bool) := []
  /-- a reset has set CSTS.NSSRO on the doorbell pages that have no controller yet (R198 step 4) -/
  nssro : Bool := false
  /-- deferred errors recorded since creation -/
  total : Nat := 0
  log : List Deferred := []
  /-- newest SEQ by namespace (R178) -/
  newest : Tbl Nat := []
  keys : List Nat := []
  dirty : Option DirtyLog := none
  run : Option SliceRun := none
  /-- a dirty-log stop that waits for the slice's commands: buffer address and length (R203) -/
  dirtyStop : Option (W64 × Nat × Bool) := none
deriving DecidableEq, Repr

/-- What a unit of a map names (R256): a stored unit or the zero marker; no entry is unmapped. -/
inductive MapEnt | zero | unit (id : Nat)
deriving DecidableEq, Repr

/-- A namespace (R152, R210): its policy, the current content of its written blocks (a block's bytes as a number; unlisted is unmapped and reads as zeroes), and its committed map by dedup unit. -/
structure Ns where
  slice : Nat
  pool : Nat
  size : Nat
  /-- size that an accepted shrink will leave (R153), and whether it is the other head's command that waits for it (R162) -/
  shrinkTo : Option Nat := none
  shrinkFor : Bool := false
  /-- cuts that the head that does not own the volume's pool has asked the owner for, and those that the owner has dealt with (R162, R419) -/
  cutAsked : Nat := 0
  cutDone : Nat := 0
  fmt512 : Bool := false
  unitLog : Nat := 12
  compress : Nat := 0
  level : Nat := 0
  key : Nat := 0
  blocks : Tbl Nat := []
  map : Tbl MapEnt := []
  /-- map pages that it shares with a snapshot or a clone, by page index, each under the number of the shared page (R222, R418) -/
  pages : Tbl Nat := []
deriving DecidableEq, Repr

/-- Where a command in flight stands (R159, R161, R166, R198, R244): `entryWait` waits for a Privet entry, `stopped` for the end of a read of host memory whose data is discarded. -/
inductive Stage5 | entryWait | stopped | lockWait | running | admitWait | staging | staged | grouped
deriving DecidableEq, Repr

/-- A command fetched and not completed (R154), keyed by the number given at its fetch. -/
structure Inflight where
  ctrl : Nat
  sq : Nat
  cid : Nat
  op : NvmOp
  nsid : Nat
  slba : Nat
  nlb : Nat
  ranges : List (Nat × Nat) := []
  deac : Bool := false
  slice : Nat
  ptr : DataPtr := .none
  /-- groups of its page requests that the host has not answered (R187) -/
  waits : List Nat := []
  stage : Stage5
  /-- the Privet entry it holds or waits for -/
  lock : Option Nat := none
  /-- staged data of a write, by block -/
  data : List Nat := []
  /-- it came from the other head by FORWARD_CMD -/
  forwarded : Bool := false
  /-- the other head executes it (R162), and an Abort of it waits: controller and command identifier (R164) -/
  away : Bool := false
  aborts : List (Nat × Nat) := []
  /-- Parameter Error Location and LBA of its Error Information entry -/
  errAt : Option (Nat × Nat) := none
  /-- a synchronous write that the source of a relationship sent (R431) -/
  replica : Bool := false
  /-- squashed: its completion is not posted (R198) -/
  mute : Bool := false
  /-- the Write of a fused pair: its identifier, and whether the Compare has matched (R147, R171) -/
  cid2 : Nat := 0
  matched : Bool := false
  /-- fetched-before set of a Flush: commands that must complete first (R179) -/
  after : List Nat := []
deriving DecidableEq, Repr

/-- A Privet entry (R159, R160), keyed by its sequence number. -/
structure Privet where
  nsid : Nat
  first : Nat
  last : Nat
  excl : Bool
  granted : Bool
  slice : Nat
  /-- the command that owns it; none for a resize or snapshot entry -/
  owner : Option Nat
deriving DecidableEq, Repr

/-- A poisoned range (R173); `epoch` names a snapshot's view, none the live namespace. -/
structure Poison where
  nsid : Nat
  epoch : Option Nat := none
  slba : Nat
  nlb : Nat
  /-- sequence number that the source of the poison took: a later write covers it -/
  at_ : Nat := 0
deriving DecidableEq, Repr

/-- The host queue engine of this head. -/
structure Host5 where
  ctrls : Tbl Ctrl := []
  inflight : Tbl Inflight := []
  privet : Tbl Privet := []
  /-- next head-wide sequence number (R160) -/
  nextSeq : Nat := 1
  /-- chip time at which a CNTLID ended (R151) -/
  ended : Tbl Nat := []
  /-- commands that wait for a Privet entry, oldest first (R161, R195) -/
  entryWait : List Nat := []
  /-- the slice whose turn it is (R194) -/
  turn : Option Nat := none
  poison : List Poison := []
  /-- ANA change count of the log page (R182) -/
  anaChanges : W64 := 0
  /-- admission of host commands stopped (R62, R273) -/
  stopped : Bool := false
deriving DecidableEq, Repr

/-! ## Grinder (07) -/

/-- A dedup unit on its way through the Grinder: the write that carries it, its namespace, unit index and plaintext. -/
structure GUnit where
  write : Nat
  nsid : Nat
  index : Nat
  content : Nat
  /-- outcome of its index operation: zero marker, reference to a stored unit, or a new unit -/
  ent : Option MapEnt := none
  fresh : Bool := false
  /-- chip time at which it arrived (R208) -/
  at_ : Nat := 0
deriving DecidableEq, Repr

/-- A batch (R208): units of one volume, on a lane. -/
structure Batch where
  nsid : Nat
  units : List GUnit
  lane : Nat
  /-- search effort that LEVEL selects (R230): match candidates per position, whether FSE_Compressed is tried, whether the parse is cost-optimal -/
  candidates : Nat := 0
  fse : Bool := false
  optimal : Bool := false
deriving DecidableEq, Repr

/-- A lane's standing (R236). -/
structure GLane where
  /-- it erred on its last batch -/
  erred : Bool := false
  removed : Bool := false
  /-- background work queued behind its foreground batches: pairs of units that cold deduplication compares (R209) -/
  back : List (Nat × Nat) := []
deriving DecidableEq, Repr

/-- An index entry as it stands in its slot, with its tag (R216, R217). -/
structure IdxEnt where
  tag : Nat
  fp : List Byte
  unit : Nat
  pool : Nat
  hits : Nat := 0
  age : Nat
  valid : Bool := true
  check : BitVec 16 := 0
deriving DecidableEq, Repr

/-- A unit record (R221) and the plaintext that its slot stands for. -/
structure UnitRec where
  group : Nat := 0
  offset : Nat := 0
  clen : Nat := 0
  live : Bool := true
  pending : Bool := true
  alias_ : Option Nat := none
  pinned : Bool := false
  lost : Bool := false
  /-- its stripe has reached WRITTEN -/
  placed : Bool := false
  enc : Enc := .raw
  digest : List Byte
  crc : W32
  creator : Nat
  content : Nat
  /-- its encrypted bytes, as the cipher stores them (R227) -/
  slot : List Byte := []
  /-- stored bytes charged to its creator (R239) -/
  stored : Nat := 0
  /-- full passes of cold deduplication that its pool had seen when the record became free (R221) -/
  freed : Option Nat := none
deriving DecidableEq, Repr

/-- An index shard (R232): fingerprint records sorted by digest, and the SHA-256 digest that ends the run. -/
structure Shard where
  records : List (List Byte) := []
  digest : List Byte := []
deriving DecidableEq, Repr

/-- The Grinder and its index. Units are keyed by pool * 2^44 + identifier. -/
structure Grinder where
  /-- units that wait for a batch, in order of their writes' completion -/
  ready : List GUnit := []
  batches : Tbl Batch := []
  nextBatch : Nat := 1
  lanes : Tbl GLane := []
  /-- index slots, keyed by pair * 32 + place (0 to 15 the even bucket) -/
  slots : Tbl IdxEnt := []
  inserts : Nat := 0
  /-- bucket-index bits B of R215, fixed at start-up -/
  bucketBits : Nat := 30
  units : Tbl UnitRec := []
  /-- next unit identifier by pool -/
  nextUnit : Tbl Nat := []
  /-- fingerprint log (R232): pool and record of 40 bytes; and the index shards by pool -/
  log : List (Nat × List Byte) := []
  shards : Tbl (List Shard) := []
  /-- pools with a discarded shard, whose records a later pass writes anew (R232) -/
  rebuild : Tbl Unit := []
  /-- cold deduplication cursors by pool: digest; and the full passes made (R221, R234) -/
  cursor : Tbl (List Byte) := []
  passes : Tbl Nat := []
  /-- index faults counted: tag lines, buckets, entries (R238) -/
  indexFaults : List Nat := [0, 0, 0]
  /-- pairs left as they are because both are targets (R233) -/
  leftPairs : Nat := 0
deriving DecidableEq, Repr

/-! ## Carafe, journals, vault (08) -/

/-- A write descriptor (R242) with its data by block, keyed by WRITE_SEQ. -/
structure Desc where
  nsid : Nat
  whole : Bool := false
  peerAck : Bool := false
  origin : Nat := 0
  granules : Nat
  /-- its granule list: numbers of 4 KiB granules of the dirty-data area -/
  list : List Nat := []
  slba : Nat
  bytes : Nat
  data : List Nat := []
  /-- the write has completed and its units have gone to the Grinder -/
  reduced : Bool := false
  /-- its map update is in a record group that has not committed -/
  grouped : Bool := false
  /-- a restored mirror copy whose data the vault has lost (R276) -/
  lost : Bool := false
  /-- units of the write whose place on flash is not yet settled -/
  left : Nat := 0
  /-- map entries that its units have earned so far: unit index and entry -/
  ents : List (Nat × MapEnt) := []
deriving DecidableEq, Repr

/-- What a record group changes beside the maps of its writes and its map entries (R256): ranges that read as zeroes, poison set, poison cleared, data rewritten by a repair, ring space freed by a COMPACT record, the switch-over of a reshape, a replicated epoch made current. `view` names a snapshot, none the live namespace; `at_` is the sequence number that the change takes. -/
inductive Effect
  | zero (nsid slba nlb at_ : Nat)
  | poison (nsid : Nat) (view : Option Nat) (slba nlb at_ : Nat)
  | repair (nsid : Nat) (view : Option Nat) (slba : Nat) (data : List Nat) (at_ : Nat)
  | compact (through : Nat)
  | deferred (slice : Nat) (e : Deferred)
  /-- repair from a replica is asked for, for these volumes (R305) -/
  | repairs (nsids : List Nat)
  | switchOver (pool : Nat)
  | replCommit (rel epoch : Nat)
  /-- LOST is set for some units (R225) -/
  | lose (units : List Nat)
  /-- units that may have lost their last reference (R222) -/
  | settle (units : List Nat)
  /-- one unit becomes an alias of another (R233) -/
  | alias_ (gone kept : Nat)
  /-- a strip of a segment stands on a spare or a replacement: pool, segment, place, module, strip address (R284, R300) -/
  | placed (pool seg place m addr : Nat)
  /-- the cursor of cold deduplication moves to a digest; `wraps`: a full pass has ended (R234) -/
  | cursor (pool : Nat) (digest : List Byte) (wraps : Bool)
deriving DecidableEq, Repr

/-- A segment in use (R295, R299), keyed by layout * 2^36 + number. -/
structure Seg where
  /-- the bytes of its data strips: compression groups back to back, then the encrypted tail (R226, R292) -/
  data : List Byte := []
  missing : Mask64 := 0
  suspect : Bool := false
  lost : Bool := false
  units : List Nat := []
  opened : W64 := 0
  /-- its stripe-in-flight entry is retired -/
  settled : Bool := false
  /-- Topiary has begun to copy it (R310) -/
  moving : Bool := false
  /-- a metadata segment: THROUGH_GSEQ of the compaction that wrote it; and the pages of the on-flash map in it that no later one has replaced (R259, R348) -/
  through : Option Nat := none
  pages : List Nat := []
deriving DecidableEq, Repr

/-- A record group (R255, R257): what it commits. -/
structure Group where
  pool : Nat
  writes : List Nat := []
  /-- commands whose lock is held until this commit (R159) -/
  cmds : List Nat := []
  /-- map entries of its MAP_SET records: namespace, unit, entry (none: unmapped) -/
  map : List (Nat × Nat × Option MapEnt) := []
  /-- units created -/
  units : List Nat := []
  effects : List Effect := []
  /-- stripes in flight that it commits (R264) -/
  sifs : List Nat := []
  /-- units moved: unit, its new GROUP and OFFSET -/
  moves : List (Nat × Nat × Nat) := []
  /-- moves of a block that begin once this group has committed (GC_INTENT): module and block -/
  intents : List (Nat × Nat) := []
  /-- strips moved within a module: module, source block, strip, new page -/
  stripMoves : List (Nat × Nat × Nat × Nat) := []
  /-- segments released: pool and segment -/
  released : List (Nat × Nat) := []
  /-- Privet entries of cuts and shrinks that end with this commit -/
  locks : List Nat := []
  /-- a mailbox command that answers SUCCESS once this group has committed: its opcode -/
  reply : Option Nat := none
  /-- in the copy of the peer's ring: the unit records created, the segments in use and the strip mappings (module, strip, page) of the stripes committed -/
  recs : List (Nat × UnitRec) := []
  segs : List (Nat × Seg) := []
  maps : List (Nat × Nat × Nat) := []
  /-- further records of the group: TYPE and payload -/
  notes : List (Nat × List Byte) := []
  /-- the group as it stands in the ring (R255) -/
  image : List Byte := []
  bytes : Nat := 0
  whole : Bool := true
  peerAck : Bool := false
  committed : Bool := false
deriving DecidableEq, Repr

/-- The metadata journal of this head and the copy of the peer's ring (R255 to R261). -/
structure Journal where
  groups : Tbl Group := []
  next : Nat := 1
  /-- THROUGH_GSEQ of the latest committed COMPACT -/
  through : Nat := 0
  /-- a running compaction's G -/
  compacting : Option Nat := none
  lastCompact : Nat := 0
  /-- record groups that wait for ring space, in order (R260) -/
  waiting : List Group := []
  /-- records of unknown TYPE that replay has skipped (R261) -/
  unknown : Nat := 0
  /-- the map roots that replay has loaded, by pool (R261) -/
  roots : Tbl Nat := []
  peerGroups : Tbl Group := []
  /-- format version in use (R262) -/
  version : Nat := 2
deriving DecidableEq, Repr

/-- SIF states (R263). -/
inductive SifState | opened | writing | written | committed
deriving DecidableEq, Repr

/-- A stripe-in-flight entry (R263), keyed by SEQ. -/
structure Sif where
  stripe : Nat
  pool : Nat
  k : Nat
  m : Nat
  state : SifState := .opened
  gseq : Nat := 0
  time : W64 := 0
  written : Mask64 := 0
  verified : Mask64 := 0
  missing : Mask64 := 0
  /-- module and strip address of each strip; none where it has no module -/
  placement : List (Option (Nat × Nat)) := []
  /-- the peer has acknowledged the opening; the commit -/
  openAck : Bool := false
  commitAck : Bool := false
  /-- its changes that the peer has not acknowledged, and how many of their acknowledgements are still to come until the commit's -/
  unacked : Nat := 0
  commitWait : Nat := 0
  /-- strips sent again to a spare, by place, until their acknowledgement updates PLACEMENT (R296) -/
  sent : Tbl (Nat × Nat) := []
  /-- writes whose data the stripe carries -/
  writes : List Nat := []
  units : List Nat := []
  /-- units that segment cleaning or Topiary has moved into the stripe, with their new GROUP and OFFSET -/
  moves : List (Nat × Nat × Nat) := []
  /-- programmed pages: module, strip address, page -/
  pages : List (Nat × Nat × Nat) := []
deriving DecidableEq, Repr

/-- What a flush has put on flash, as replay finds it (R269 to R271). -/
structure VaultImage where
  gen : Nat
  bank : Nat
  sealed : Bool := false
  own : Tbl Desc := []
  mirror : Tbl Desc := []
  groups : Tbl Group := []
  peerGroups : Tbl Group := []
  sif : Tbl Sif := []
  peerSif : Tbl Sif := []
  ownerGens : List Nat := []
  skipped : Nat := 0
  stripes : Nat := 0
  /-- its sections: TYPE, ITEMS, bytes of payload -/
  sections : List (Nat × Nat × Nat) := []
  wrapDsk : Bool := false
  /-- the wrapped vault key of its anchor (R269) -/
  wrapped : List Byte := []
deriving DecidableEq, Repr

/-- The bank whose anchor a reader finds valid: that of the highest GEN, the other one, or none (R275). -/
inductive AnchorRead | newest | older | neither
deriving DecidableEq, Repr

/-- What replay reads besides the vault: ownership generations of the superblocks, and what the other head gives of its copies of this head's stripe entries and ring (R275, R276). -/
structure VaultFound where
  owners : List (Nat × W32) := []
  sif : Tbl Sif := []
  ring : Tbl Group := []
deriving DecidableEq, Repr

/-- A running flush (R273): modules of the vault set, strips sent and not acknowledged, failed modules. -/
structure VaultRun where
  set : List Nat
  outstanding : Nat
  failed : List Nat := []
deriving DecidableEq, Repr

/-- The Carafe, the journals and the vault. -/
structure Carafe where
  own : Tbl Desc := []
  mirror : Tbl Desc := []
  /-- commands that wait for admission, in sequence order (R244) -/
  waiting : List Nat := []
  /-- mirror copies that wait for the mirror area, in order of arrival: WRITE_SEQ and descriptor -/
  mirrorWait : List (Nat × Desc) := []
  sif : Tbl Sif := []
  nextSif : Nat := 1
  peerSif : Tbl Sif := []
  vaultGen : Nat := 0
  run : Option VaultRun := none
  image : Option VaultImage := none
  /-- the vault of the other bank, kept until a newer one is sealed (R274) -/
  older : Option VaultImage := none
  /-- areas that the firmware has laid out: base and size, in the order of R241 -/
  areas : List (Nat × Nat) := []
  /-- vault key drawn at this boot (R272) -/
  vaultKey : Nat := 0
  /-- after an absence of the peer, the own data may still exceed L/2 (R246) -/
  returning : Bool := false
  /-- mirror copies that a vault has restored and the peer has not sent anew (R275) -/
  restored : List Nat := []
deriving DecidableEq, Repr

/-- A region descriptor: base, log2 of its size, policy (R248). -/
structure CacheRegion where
  base : Nat
  log2 : Nat
  policy : CachePolicy
deriving DecidableEq, Repr

/-- A line held in a way. -/
structure CacheLine where
  tag : Nat
  dirty : Bool := false
deriving DecidableEq, Repr

/-- A set: its ways that hold a line and its pseudo-LRU tree, node n in bit n (R247). -/
structure CacheWays where
  lines : Tbl CacheLine := []
  tree : Nat := 0
deriving DecidableEq, Repr

/-- A request at a bank, by its line number A[41:7]. -/
structure CacheReq where
  line : Nat
  write : Bool
  policy : CachePolicy
deriving DecidableEq, Repr

/-- An outstanding miss: the requests that have joined it and when DDR answers (R251). -/
structure CacheMiss where
  line : Nat
  policy : CachePolicy
  write : Bool
  prefetch : Bool := false
  due : Nat
  joined : Nat := 1
deriving DecidableEq, Repr

/-- A line of the side buffer; a STREAM line moves at its second hit (R252). -/
structure SideLine where
  line : Nat
  stream : Bool
  hit : Bool := false
deriving DecidableEq, Repr

/-- One bank: its sets, misses, waiting requests in order, side buffer oldest first, the line that missed last and the ascending run it ends (R247, R251, R252). -/
structure CacheBank where
  sets : Tbl CacheWays := []
  misses : List CacheMiss := []
  waiting : List CacheReq := []
  side : List SideLine := []
  last : Nat := 0
  run : Nat := 0
deriving DecidableEq, Repr

/-- The map cache (R247 to R254): region descriptors, banks and converted scratchpad ways. -/
structure MapCache where
  regions : List CacheRegion := []
  banks : Tbl CacheBank := []
  ways : Nat := 0
deriving DecidableEq, Repr

/-! ## Hedgerow (09) -/

/-- A layout descriptor (R286). -/
structure Layout where
  id : Nat := 0
  k : Nat
  m : Nat
  d : Nat
  n : Nat
  seed : W64
  periods : Nat
  members : List Nat
deriving DecidableEq, Repr

/-- A failure-list entry (R286): state 1 rebuilding, 2 rebuilt, 3 retiring, 4 copy-back. -/
structure FailEnt where
  module : Nat
  state : Nat
  replacement : Option Nat := none
  hours : W32 := 0
deriving DecidableEq, Repr

/-- An open gathering segment (R292). -/
structure Gather where
  granules : Nat := 0
  /-- the bytes of its groups, back to back (R226, R228) -/
  data : List Byte := []
  /-- a group did not fit in it -/
  full : Bool := false
  /-- it waits for the superblock that extends the open-segment list (R293) -/
  closing : Bool := false
  /-- pages of the on-flash map that a compaction writes, its THROUGH_GSEQ, and the strips of the segment issued against tokens so far (R35, R259) -/
  pages : List Nat := []
  through : Option Nat := none
  paid : Nat := 0
  /-- units that segment cleaning or Topiary has moved here, with their place in the segment and their OFFSET -/
  moves : List (Nat × Nat × Nat) := []
  units : List Nat := []
  writes : List Nat := []
  opened : W64 := 0
deriving DecidableEq, Repr

/-- A pool (R285 to R289). -/
structure Pool where
  reshaping : Bool := false
  deleting : Bool := false
  offline : Bool := false
  checking : Bool := false
  /-- POOL_CREATE is running (R289) -/
  creating : Bool := false
  /-- this head owns it; this head created it -/
  owned : Bool := true
  created : Bool := true
  ownerGen : W32 := 1
  sbGen : W64 := 1
  salt : List Byte := []
  cursor : Nat := 0
  cur : Layout
  target : Option Layout := none
  failed : List FailEnt := []
  /-- open-segment ranges: layout, first, count (R293); and the one whose superblock is still being written -/
  open_ : List (Nat × Nat × Nat) := []
  opening : Option (Nat × Nat × Nat) := none
  /-- pages of the on-flash map that have changed since the last compaction started (R259) -/
  changed : Tbl Unit := []
  segs : Tbl Seg := []
  gathers : Tbl Gather := []
  nextGather : Nat := 0
  lost : Nat := 0
  /-- rebuilt bits, by member * 2^48 + strip address, and copy-back bits, by (96 + replacement) * 2^48 + strip address (R284, R306) -/
  rebuilt : Tbl Unit := []
  ana : AnaState := .optimized
  /-- OWNER_FENCED met: nothing is written (R334) -/
  fenced : Bool := false
  /-- stall of R293 -/
  stalled : Bool := false
deriving DecidableEq, Repr

/-! ## Kamard link (10) and flash management (11) -/

/-- An unacknowledged frame (R325). -/
structure KFrame where
  seq : Nat
  cmd : KCmd
  tag : Nat
  /-- it failed once and was resent (R326) -/
  failedOnce : Bool := false
deriving DecidableEq, Repr

/-- A Kamard port (R325 to R329, R339), keyed by module number. -/
structure KPort where
  state : KState := .off
  version : Nat := 1
  limit : Nat := 256
  serial : W64 := 0
  fwVersion : W64 := 0
  attempts : Nat := 0
  hellos : Nat := 0
  oneLane : Bool := false
  txSeq : Nat := 0
  rxSeq : Nat := 0
  unacked : List KFrame := []
  /-- the frame expected next has failed once (R326) -/
  rxFailed : Bool := false
  /-- a NAK has been sent for the expected SEQ (R325) -/
  nakSent : Bool := false
  retrainFails : Nat := 0
  /-- commands outstanding, by TAG -/
  cmds : Tbl KCmd := []
  nextTag : Nat := 0
  /-- commands that wait for a free frame or for the outstanding limit -/
  queue : List KCmd := []
  downAt : Nat := 0
  /-- the 14 counters of R339 -/
  counters : List Nat := List.replicate 14 0
  /-- as the peer last reported its own port: UP, one lane -/
  peerUp : Bool := false
  peerOneLane : Bool := false
  peerSerial : Option W64 := none
deriving DecidableEq, Repr

/-- A block record (R348, R350). -/
structure Block where
  state : BState := .free
  pe : Nat := 0
  band : Nat := 0
  hours : W32 := 0
  temp : Byte := 0
  reads : Nat := 0
  lasting : Nat := 0
  /-- a move of its strips has been announced by GC_INTENT (R361) -/
  intent : Bool := false
  /-- its GC_INTENT has committed: its strips are copied -/
  copying : Bool := false
  /-- pages programmed since it was taken for a band -/
  written : Nat := 0
deriving DecidableEq, Repr

/-- A band (R347): die and block pairs, next page index, verified and unreleased parity indices. -/
structure Band where
  seq : Nat
  blocks : List (Nat × Nat)
  next : Nat := 0
  /-- next die place within the index -/
  place : Nat := 0
  released : Nat := 0
  lastWrite : W64 := 0
  /-- the parity page of each page index in the window: the exclusive or of the 4,160 data and metadata bytes of every codeword at the index (R351) -/
  parity : Tbl (List Byte) := []
  /-- blocks that have left the band, whose pages the parity covers -/
  left : List (Nat × Nat) := []
  /-- page indices that have lost a page (R352) -/
  lost : List Nat := []
deriving DecidableEq, Repr

/-- What a page was programmed for: a strip of a stripe in flight, a rebuilt strip, a strip copied back to a replacement, a strip moved within its module. -/
inductive PageUse | stripe (sif place : Nat) | rebuild (seg place : Nat) | copyBack (seg place : Nat) | reloc (source : Nat)
deriving DecidableEq, Repr

/-- A page on its way: sent, answered, and waiting for its verification (R352). -/
structure VPage where
  strip : Nat
  pool : Nat
  use : PageUse
  /-- it lies in the RELOC band -/
  inReloc : Bool := false
  answered : Bool := false
  /-- its verification has failed once -/
  failed : Bool := false
  /-- a verified copy that waits for the rest of its move -/
  done : Bool := false
  /-- chip time of its PROGRAM, then of the answer (R349, R352) -/
  at_ : Nat := 0
deriving DecidableEq, Repr

/-- The media of one module (R347 to R368). -/
structure Media where
  blocks : Tbl Block := []
  deadDies : List Nat := []
  /-- strip address to page address (R348) -/
  map : Tbl Nat := []
  newBand : Option Band := none
  relocBand : Option Band := none
  /-- bands that are closed, with pages still to be verified (R351) -/
  closing : List Band := []
  nextBand : Nat := 1
  verify : Tbl VPage := []
  /-- strips that wait for a page: the parity window is full, or the module is stalled (R351, R362) -/
  wait : List VPage := []
  /-- blocks queued for relocation, oldest first -/
  reloc : List Nat := []
  /-- codewords on their way through the decoders (R353): stage and whether it is the repeat of R355 -/
  decodes : Tbl (Nat × Bool) := []
  /-- measured offsets by die * 256 + set: the last 16 -/
  offsets : Tbl (List (List Int)) := []
  /-- threshold sets loaded since boot, by die * 256 + set (R356) -/
  loaded : Tbl (List Int) := []
  /-- hours that the module lay unpowered before this boot, for blocks programmed before it (R357) -/
  unpowered : Nat := 0
  unpoweredAt : W32 := 0
  counters : List Nat := List.replicate 14 0
  /-- the page that scrubbing has read last (R365) -/
  scrubbed : Option Nat := none
deriving DecidableEq, Repr

/-- What waits for codewords to be read and decoded: a host command; pages to program once the strips that they come from have been read, with whether it is the rebuild of a segment that had no redundancy left; units that are to be gathered anew; a page that is rebuilt from die parity (R352); the parity check of a stripe, with the strips found in error and how many could not be read (R265). -/
inductive JobUse | host (id : Nat) | program (pages : List (Nat × VPage)) (urgent : Bool) | gather (pool : Nat) (units : List Nat)
  | mend (module : Nat) (page : VPage)
  | check (sif : Option Nat) (pool seg : Nat) (bad : List Nat) (gone : Nat)
deriving DecidableEq, Repr

/-- Reads of the flash that something waits for: module and codeword address of each that has not been decoded (R297, R300); and the page reads, as module, strip address, page and mask, that are still to be issued against tokens (R35). -/
structure FlashJob where
  waits : List (Nat × Nat) := []
  todo : List (Nat × Nat × Nat × Nat) := []
  use : JobUse
deriving DecidableEq, Repr

/-- A codeword on its way through the decoders (R354). -/
structure DecJob where
  module : Nat
  cw : Nat
  stage : Nat
  background : Bool
  /-- read for the rebuild of a segment that has no redundancy left (R301) -/
  urgent : Bool := false
deriving DecidableEq, Repr

/-- An LDPC decoder (R354): the codeword it holds, and those that wait. -/
structure Decoder where
  holds : Option DecJob := none
  queue : List DecJob := []
deriving DecidableEq, Repr

/-- Standing of a module (R290): what the pools' own tables do not say. -/
inductive MStand | free | releasing | retired
deriving DecidableEq, Repr

/-- A module as this head knows it, keyed by its number. -/
structure Module where
  stand : MStand := .free
  /-- the pool that it is being released from (R290) -/
  left : Option Nat := none
  /-- it was declared failed and has returned since: free, whatever the failure list says (R291) -/
  returned : Bool := false
  retiredSerial : W64 := 0
  descr : Option Descr := none
  rawBytes : W64 := 0
  wear : Nat := 0
  temp : Byte := 0
  dieTemp : Byte := 0
  /-- vault banks of this head on the module: erased, generation last written -/
  erased0 : Bool := false
  erased1 : Bool := false
  gen0 : Nat := 0
  gen1 : Nat := 0
  /-- bridge firmware push: bytes written so far, activation sent, restart deadline -/
  push : Option Nat := none
  restartAt : Option Nat := none
  media : Media := {}
deriving DecidableEq, Repr

end Sys2Proof.Machine
end

