-- ==== Sys2Proof/Types/Net.lean ====
section
/-! DEFINITION. Types/Net.lean: names and operand records of the network ports, the two transports and work requests (12). -/
namespace Sys2Proof

/-- Work request opcodes (R395). -/
inductive WrOp | send | write | read | sendInv | nop
deriving DecidableEq, Repr

/-- A work request (R395). -/
structure WorkReq where
  signal : Bool := true
  fence : Bool := false
  triggered : Bool := false
  trigOut : Nat := 0
  dstNode : Nat := 0
  dstEp : Nat := 0
  length : Nat
  immKey : W32 := 0
  localAddr : W64 := 0
  remoteAddr : W64 := 0
  rkey : W32 := 0
  trigIn : Nat := 0
  remoteTrig : Nat := 0
  threshold : W32 := 0
  wrId : W64
deriving DecidableEq, Repr

/-- Whose send queue a work request goes to: a connected-class queue pair, or a datagram endpoint. -/
inductive NetQ | qp (n : Nat) | ep (n : Nat)
deriving DecidableEq, Repr

/-- Completion statuses (R396). -/
inductive WrStatus
  | ok | retryExceeded | rnrExceeded | remoteAccess | localAccess | remoteTooSmall | lengthFault | flushed | noEndpoint
deriving DecidableEq, Repr

/-- Reasons of a datagram NAK (R385). -/
inductive NakReason | rnr | lengthFault | access | tooSmall | noEndpoint | staleSession
deriving DecidableEq, Repr

/-- A datagram DATA packet as it arrives (R383). -/
structure DataPkt where
  node : Nat
  /-- DST_NODE -/
  dst : Nat
  session : W32
  version : Nat
  write : Bool
  attempt : Nat
  path : Nat
  pktLog2 : Nat
  srcEp : Nat
  dstEp : Nat
  msgId : W32
  totalLen : Nat
  offset : Nat
  payload : List Byte
  /-- PAYLOAD_LEN of the header -/
  payloadLen : Nat
  trig : Nat
  imm : W32
  rkey : W32
  remoteAddr : W64
  /-- it carries the congestion mark -/
  ce : Bool
  /-- the length of its UDP datagram, header included, and its CRC-32C (R384) -/
  udpLen : Nat
  crc : W32
  /-- bytes of the header whose reserved bits the sender did not leave zero (R9) -/
  dirty : List (Nat × Byte) := []
deriving DecidableEq, Repr

/-- What an incoming RoCE request asks (R377). -/
inductive RoceOp | send | sendImm | sendInv | write | readReq
deriving DecidableEq, Repr

/-- What a RoCE NAK says (R374, R379, R399): a sequence error, receiver not ready with its timer in ns, remote access, invalid request. -/
inductive RoceNak | sequence | rnr (timer : Nat) | access | invalid
deriving DecidableEq, Repr

/-- An incoming RoCE request of one message: its packets in PSN order (R377, R379). -/
structure RocePkt where
  qp : Nat
  lport : Nat
  pkey : W16 := 0xFFFF
  psn : Nat
  /-- packets of the message -/
  packets : Nat
  payload : List Byte
  imm : Option W32 := none
  invKey : Option W32 := none
  rkey : W32 := 0
  remoteAddr : W64 := 0
  /-- bytes that a READ request asks for -/
  readLen : Nat := 0
  ce : Bool := false
deriving DecidableEq, Repr

/-- A region key as firmware registers it (R399): on one queue pair, or for a set of node IDs. -/
structure RegionReq where
  key : W32
  qp : Option Nat
  nodes : List Nat
  base : W64
  len : Nat
  readable : Bool
  writable : Bool
  slice : Nat
deriving DecidableEq, Repr

/-- What firmware sets up on its side of a queue pair or endpoint (R393, R397, R399): region keys registered and destroyed, and a trigger counter bound to the receives of a queue pair. -/
structure FwSetup where
  register : List RegionReq := []
  destroy : List W32 := []
  bind : Option Nat := none
deriving DecidableEq, Repr

/-- What a connection manager MAD asks (R377): the connection request names the remote queue pair and its starting PSN. -/
inductive CmKind
  /-- `service`: the port number of its service identifier -/
  | connectRequest (lport service remoteQp psn : Nat)
  | readyToUse (qp : Nat)
  | disconnectRequest (qp : Nat)
  | other
deriving DecidableEq, Repr

/-- An address that an ICMP echo request names. -/
inductive IpAddr | v4 (a : W32) | v6 (a : BitVec 128)
deriving DecidableEq, Repr

/-- What a rate belongs to (R400): a queue pair, or a path to a datagram peer. -/
inductive RateOf | qp (n : Nat) | path (node path : Nat)
deriving DecidableEq, Repr

/-- What a received DHCPv4 reply says (R372). -/
inductive DhcpKind | offer | ack | nak
deriving DecidableEq, Repr

end Sys2Proof
end

