-- ==== Sys2Proof/Types/Peer.lean ====
section
/-! DEFINITION. Types/Peer.lean: operand records of the Jalras link, the cluster and replication (13). -/
namespace Sys2Proof

/-- A Jalras HELLO or HELLO_REPLY as it arrives (R408, R410). -/
structure JalHello where
  minV : Nat
  maxV : Nat
  journalMin : Nat
  journalMax : Nat
  head : Nat
  pair : Nat
  nodeId : Nat
  boardId : BitVec 4
  enclosure : Nat
  uid : BitVec 128
  session : W32
  fwVersion : W64
deriving DecidableEq, Repr

/-- The frames of a message on one sub-link (R406): SEQ of the first, how many, and the cumulative ACK that they carry. -/
structure JalPart where
  sub : Nat
  seq : Nat
  frames : Nat
  ack : Nat
deriving DecidableEq, Repr

/-- How a Jalras message arrives (R406, R409): its MSG_SEQ and its frames on each sub-link that carries it. -/
structure JalRx where
  msgSeq : Nat
  parts : List JalPart
deriving DecidableEq, Repr

/-- A MIRROR_DATA message (R242, R408): the descriptor and the write's blocks. -/
structure MirrorMsg where
  seq : Nat
  nsid : Nat
  origin : Nat
  slba : Nat
  bytes : Nat
  data : List Nat
deriving DecidableEq, Repr

/-- The envelope of a cluster message (R425): sender, view, key generation, counter, and its tag. -/
structure CluHdr where
  src : Nat
  version : Nat
  clusterId : W64
  view : Nat
  keyGen : W32
  counter : W64
  tag : List Byte
  /-- bytes of header and body whose reserved bits the sender did not leave zero (R9) -/
  dirty : List (Nat × Byte) := []
deriving DecidableEq, Repr

/-- A change of a view (R427). -/
structure ViewChange where
  node : Nat
  remove : Bool
  maxVersion : Nat
deriving DecidableEq, Repr

/-- Replication states, numbered as R437 gives them. -/
inductive ReplState | initial | inSync | idle | transferring | suspended | paused | keyExhausted | diverged | stopped
deriving DecidableEq, Repr

/-- A map entry as a delta carries it (R256, R434). -/
inductive WireEnt | unmapped | zero | unit (id : Nat)
deriving DecidableEq, Repr

/-- A unit as REPL_UNITS carries it (R434): source pool and identifier, and the plaintext that its slot stands for. -/
structure WireUnit where
  pool : Nat
  unit : Nat
  enc : Nat
  clen : Nat
  content : Nat
  slot : List Byte := []
  crc : W32 := 0
deriving DecidableEq, Repr

/-- Bodies of cluster messages (R427 to R436). -/
inductive CluMsg
  | joinRequest (uid : BitVec 128) (session : W32) (node minV maxV partner : Nat)
  | joinAccept (view leader : Nat) (members : List (Nat × Nat))
  | viewUpdate (view : Nat) (changes : List ViewChange)
  | viewAck (view : Nat)
  | probe (nonce : W64)
  | probeAck (nonce : W64)
  | probeIndirect (target : Nat) (nonce : W64)
  | suspect (node view : Nat)
  | leave
  | replOpen (rel src target : Nat) (sync : Bool) (unitLog size : Nat) (kcv : List Byte)
  | replOpenAck (rel : Nat) (status : W16)
  | replDelta (rel base epoch : Nat) (entries : List (Nat × WireEnt))
  | replDeltaAck (rel : Nat) (missing : List Nat) (changed : List (Nat × Nat))
  | replUnits (rel base epoch : Nat) (units : List WireUnit)
  | replCommit (rel epoch : Nat)
  | replCommitAck (rel epoch : Nat)
  | repairRequest (rel : Nat) (ranges : List (Nat × Nat))
  | repairData (rel : Nat) (entries : List (Nat × WireEnt)) (units : List WireUnit)
  | replWrite (rel byteOffset seq length : Nat) (data : List Nat)
  | replWriteAck (rel seq : Nat)
deriving DecidableEq, Repr

/-- The messages of the Jalras link that this head sends, as their contents are found in the state (R408); an Abort of a forwarded command goes as a FORWARD_CMD. -/
inductive PeerMsg
  | mirrorData (seq nsid slba : Nat) (data : List Nat)
  | mirrorAck (seqs : List Nat)
  | releaseMirror (seqs : List Nat)
  | journalGroup (gseq : Nat)
  | journalAck (gseq : Nat)
  | sifUpdate (seq : Nat)
  | sifAck (seq : Nat)
  | forwardCmd (id : Nat)
  | forwardAbort (id : Nat)
  | forwardRsp (id sct sc : Nat) (data : List Byte)
  | proxyMedia (module : Nat) (cmd : KCmd)
  | proxyRsp (module : Nat) (cmd : KCmd) (st : KStatus) (slots : List KSlot)
  | heartbeat (state : PeerSt) (vaulting failStopping : Bool) (owned : Byte)
  | vaultNotice
  | serials (list : List W64)
  | ownership (pool : Nat) (done : Bool) (gen : W32)
  | resyncDone
  | cluster (bytes : List Byte)
deriving DecidableEq, Repr

end Sys2Proof
end

