-- ==== Sys2Proof/Types/Out.lean ====
section
/-! DEFINITION. Types/Out.lean: what the part sends to the world outside it, as the model keeps it in its log of outputs. -/
namespace Sys2Proof

/-- The boot NOR's operations (R76): the SFDP header and Basic Flash Parameter Table are read at 25 MHz, a read, a 1-1-1 page program, an erase of 4 or 64 KiB. -/
inductive NorOp | sfdp | read (mode : NorMode) (offset len : Nat) | program (offset : Nat) (data : List Byte) | erase4 (offset : Nat) | erase64 (offset : Nat)
deriving DecidableEq, Repr

/-- One thing that leaves the part. -/
inductive Out
  /-- an MSI-X message on a vector of a control port (R134) -/
  | msix (p : Port) (vector : Nat)
  /-- an MSI-X message of the upper endpoint of a port -/
  | msixUpper (p : Port) (vector : Nat)
  /-- the data of a register read (R12, R13) -/
  | readData (p : Port) (offset : Nat) (value : W64)
  /-- the data of a read of a slice's doorbell page, and of BAR4 of the upper endpoint (R109, R189) -/
  | pageData (g : PageId) (offset : Nat) (value : W64)
  | upperData (p : Port) (offset : Nat) (value : W64)
  /-- a mailbox response, header and body, written to the response ring in host memory by address, or to the immediate buffer (R121, R124, R128) -/
  | mbxResponse (p : Port) (ring : Bool) (pieces : List (W64 × List Byte))
  /-- bytes written to host memory behind a control port -/
  | hostWrite (p : Port) (addr : W64) (data : List Byte)
  /-- a chain frame on CHAIN_OUT (R102): its bits, and the low and high time of each symbol in ns -/
  | chainFrame (bits : W32) (line : List (Nat × Nat))
  /-- an operation of the boot NOR's bus (R76, R77) -/
  | nor (op : NorOp)
  /-- an accepted image starts at its entry address (R83) -/
  | jump (t : ImageType) (addr : W64)
  /-- a domain's gate opened or closed -/
  | domainOn (d : Nat)
  | domainOff (d : Nat)
  /-- a configuration request answered: Request Retry Status or completion (R73) -/
  | configRetry (p : Port)
  | configReply (p : Port) (upper : Bool) (value : W32)
  /-- an MCTP or SMBus answer, packet by packet, each with its PEC (R97 to R99) -/
  | sideband (packets : List (List Byte))
  /-- the pins driven by the test access port (R71) -/
  | jtag (i : JtagInstr)
  | jtagId (code : W32)
  /-- what SAMPLE has captured leaves the boundary register -/
  | jtagSampled (cells : List Bool)
  /-- an ATS invalidation completion, a page answered (R110) -/
  | atsDone (p : Port) (tag : Nat)
  | pageDone (p : Port) (group : Nat) (granted : Bool)
  /-- an ATS translation request and a PRI page request, under a PASID (R110, R187) -/
  | atsRequest (p : Port) (upper : Bool) (pasid page : Nat)
  | pageRequest (p : Port) (upper : Bool) (group pasid page : Nat)
  /-- a zero-length read that follows the posted writes of a slice (R198) -/
  | zeroRead (p : Port) (upper : Bool) (pasid : Nat)
  /-- a submission queue entry is read (R187); `pasid` of this and of the following outputs is that of the slice's binding, none on fabrics -/
  | nvmeQueueRead (ctrl sq index : Nat) (pasid : Option Nat)
  /-- an NVMe completion, with the submission queue's head, the phase tag and the key that its Send invalidates (R145, R146, R156); the data of a read; a page of an admin command (R148, R153) -/
  | nvmeCpl (ctrl sq cid sct sc : Nat) (dw0 : W32) (sqHead : Nat) (phase : Bool) (pasid : Option Nat) (inval : Option W32)
  | nvmeData (ctrl sq cid : Nat) (blocks : List Nat) (pasid : Option Nat) (ptr : DataPtr)
  | nvmePage (ctrl cid page : Nat) (data : List Byte) (pasid : Option Nat) (ptr : DataPtr)
  /-- the host's data of a write is asked for (R166) -/
  | nvmeFetch (ctrl sq cid : Nat) (pasid : Option Nat) (ptr : DataPtr)
  /-- a connection answered: accepted with a CNTLID, or refused with a status (R150, R191) -/
  | connected (cntlid : Nat)
  | connectRefused (sct sc : Nat)
  | nvmeList (ctrl sq cid : Nat) (pasid : Option Nat)
  | property (ctrl offset : Nat) (value : W64)
  | disconnected (ctrl : Nat)
  /-- a Kamard command on a port (R330): its frame header and its slots (R322, R323) -/
  | kam (port tag : Nat) (cmd : KCmd) (head : List Byte) (slots : List KSlot)
  /-- a frame resent on a Kamard port, with RETX (R325) -/
  | kamResend (port seq : Nat) (head : List Byte) (slots : List KSlot)
  /-- a frame on a Jalras sub-link: header, payload and CRC of the payload (R406) -/
  | jal (sub : Nat) (bytes : List Byte)
  /-- the acknowledgement that falls due on a sub-link, and a NAK for a gap: the next SEQ expected (R404, R407) -/
  | jalAck (sub seq : Nat)
  | jalNak (sub seq : Nat)
  /-- a cipher request completes: status, context, bytes, and what is written at the destination (R455) -/
  | cipherDone (agent : Nat) (status : EngStatus) (ctx bytes : Nat) (dst : W64) (data : List Byte)
  /-- an access of the firmware view to a digest or ECDSA register is refused, or DGS_ALLOC answers (R457, R463) -/
  | dgsRefused (agent : Nat) (status : EngStatus) (context : Nat)
  | dgsAlloc (agent : Nat) (value : W32)
  /-- connected class (R377 to R380, R400) -/
  | roceReq (qp : Nat) (op : WrOp) (psn packets : Nat) (wr : WorkReq) (data : List Byte)
  | roceAck (qp psn : Nat)
  | roceNak (qp psn : Nat) (reason : RoceNak)
  | roceRead (qp psn : Nat) (data : List Byte)
  | cnp (qp : Nat)
  | cm (lport qp : Nat) (accepted : Bool)
  /-- a completion record of a work request or receive, 32 bytes (R396) -/
  | wrRecord (q : NetQ) (bytes : List Byte)
  /-- a frame of a logical port: its priority, the DSCP of its packet where R372 marks it, and what it carries -/
  | frame (lport prio : Nat) (dscp : Option Nat) (o : Out)
  /-- a packet of the datagram class to a node: UDP ports, then header, payload and CRC (R383) -/
  | dg (node srcPort dstPort : Nat) (packet : List Byte)
  /-- a post that the device refuses to the posting firmware (R373, R398) -/
  | wrRefused (wrId : W64)
  /-- answers and frames of a logical port (R371, R372) -/
  | arpReply (lport : Nat) (mac : BitVec 48) (ip : W32)
  | ndReply (lport : Nat) (mac : BitVec 48) (ip : BitVec 128)
  | echoReply (lport : Nat)
  | dhcpRequest (lport : Nat)
  | pfcPause (port priority : Nat)
  /-- bytes that a utility DMA channel writes into a host space, its records and firmware interrupts (R467, R472, R474) -/
  | udmaWrite (chan : Nat) (space : Nat) (addr : W64) (data : List Byte)
  | udmaRecord (chan : Nat) (space : Nat) (addr : W64) (data : List Byte)
  | udmaIrq (chan : Nat)
deriving DecidableEq, Repr

end Sys2Proof
end

