-- ==== Sys2Proof/Machine/Parts/Net.lean ====
section
/-! DEFINITION. Machine/Parts/Net.lean: the state of the network ports, the connected class, the datagram class and triggered work requests (12). -/
namespace Sys2Proof.Machine
open Sys2Proof

/-- A logical port (R369 to R372, R401). -/
structure LPort where
  up : Bool := false
  training : Bool := false
  ipv4 : Option W32 := none
  /-- chip times at which the IPv4 lease is renewed and expires -/
  renewAt : Nat := 0
  expireAt : Nat := 0
  /-- a DHCP exchange is under way -/
  dhcpAsking : Bool := true
  /-- IPv6 addresses, each with the chip time at which it expires -/
  ipv6 : List (BitVec 128 × Option Nat) := []
  /-- pause ends by priority; 8 stands for PAUSE of the whole port -/
  paused : Tbl Nat := []
  /-- frames held back by a pause, oldest first, each with its priority -/
  held : List (Nat × Out) := []
  /-- the 12 counters of R401 -/
  counters : List Nat := List.replicate 12 0
deriving DecidableEq, Repr

/-- A network port's settings and FEC counts (R370). -/
structure NetPort where
  breakout : Nat := 0
  mtu : Nat := 9000
  pfcMask : BitVec 8 := 8
  fecCorrected : W64 := 0
  fecUncorrected : W64 := 0
deriving DecidableEq, Repr

/-- A posted receive buffer (R394). -/
structure RecvBuf where
  wrId : W64
  addr : W64
  len : Nat
deriving DecidableEq, Repr

/-- A request of this device on a queue pair that waits for its acknowledgement. -/
structure QpReq where
  op : WrOp
  wr : WorkReq
  firstPsn : Nat
  packets : Nat
  sentAt : Nat
  retransmitted : Bool := false
deriving DecidableEq, Repr

/-- Queue-pair states that the model tells apart. -/
inductive QpState | connecting | ready | error
deriving DecidableEq, Repr

/-- A packet for a queue pair: a request, or an answer to this device's own requests (R378). -/
inductive QpPkt | request (op : RoceOp) (pk : RocePkt) | ack (psn : Nat) | readRsp (psn : Nat) (data : List Byte) (cmd : Option Nat)
  | nak (psn : Nat) (why : RoceNak) (cmd : Option Nat) | cnp
deriving DecidableEq, Repr

/-- A connected-class queue pair (R374, R377 to R380, R393, R400). -/
structure Qp where
  state : QpState := .connecting
  lport : Nat
  remoteQp : Nat := 0
  /-- the NVMe-oF controller that it serves -/
  nvme : Option Nat := none
  /-- and the queue of that controller -/
  nvmeSq : Nat := 0
  /-- last PSN of RDMA writes of host data that are not acknowledged (R198) -/
  dataPsn : Option Nat := none
  ePsn : Nat := 0
  sPsn : Nat := 0
  recv : List RecvBuf := []
  /-- posted and not yet sent (R395 FENCE) -/
  queue : List (WrOp × WorkReq) := []
  sent : List QpReq := []
  retries : Nat := 0
  rnrRetries : Nat := 0
  /-- smoothed round-trip time in ns -/
  srtt : Nat := 32000
  /-- a NAK has been sent for the expected PSN -/
  nakSent : Bool := false
  /-- trigger counter bound to its receive completions -/
  trig : Option Nat := none
  /-- chip time from which the running wait counts -/
  waitFrom : Nat := 0
  /-- the end of an RNR wait -/
  rnrUntil : Option Nat := none
  /-- rate in 10^-9 of the port rate -/
  rate : Nat := 1000000000
  lastCut : Option Nat := none
  /-- chip time of the last CNP received, or of the last rise -/
  calmFrom : Nat := 0
  /-- chip time of the last CNP sent -/
  lastCnp : Option Nat := none
  cached : Bool := false
  stamp : Nat := 0
  /-- packets parked for its context -/
  parked : List QpPkt := []
deriving DecidableEq, Repr

/-- A region key (R399). -/
structure Region where
  qp : Option Nat
  nodes : List Nat := []
  base : W64
  len : Nat
  readable : Bool := true
  writable : Bool := true
  destroying : Bool := false
  slice : Nat := 0
deriving DecidableEq, Repr

/-- A datagram endpoint (R393). -/
structure Endpoint where
  recv : List RecvBuf := []
  queue : List (WrOp × WorkReq) := []
deriving DecidableEq, Repr

/-- Path states (R387). -/
inductive PathState | up | suspect | down
deriving DecidableEq, Repr

/-- A path to a datagram peer. -/
structure Path where
  state : PathState := .up
  /-- PROBEs sent and not answered since it left UP -/
  probes : Nat := 0
  /-- chip time at which a PROBE last failed -/
  lastFail : Nat := 0
  /-- chip time at which the last PROBE was sent -/
  probeAt : Nat := 0
  rate : Nat := 1000000000
  lastCut : Option Nat := none
  calmFrom : Nat := 0
deriving DecidableEq, Repr

/-- A message to be sent: its endpoint and request; a cluster message that the device composes itself (R424). -/
structure SendReq where
  ep : Nat
  op : WrOp
  wr : WorkReq
  msg : Option CluMsg := none
deriving DecidableEq, Repr

/-- A message that this chip has sent and that has not ended; a cluster message with its sealed bytes. -/
structure MsgOut where
  ep : Nat
  op : WrOp
  wr : WorkReq
  msg : Option CluMsg := none
  bytes : List Byte := []
  pktLog2 : Nat
  packets : Nat
  acked : Tbl Unit := []
  /-- attempt, path and chip time of each packet's latest transmission, by packet -/
  tries : Tbl (Nat × Nat × Nat) := []
  /-- the highest attempt that ended with a NAK RNR -/
  rnr : Option Nat := none
deriving DecidableEq, Repr

/-- A datagram peer, keyed by node ID (R381, R382, R386, R391). -/
structure DPeer where
  /-- version for sending, once HELLO is answered -/
  version : Option Nat := none
  /-- version of the session last accepted -/
  rxVersion : Nat := 1
  /-- the peer's session last accepted -/
  session : Option W32 := none
  /-- the peer's session last seen, 0 for none -/
  seen : W32 := 0
  paths : List Path := []
  /-- a HELLO is unanswered since this time -/
  helloAt : Option Nat := none
  helloLast : Nat := 0
  nextMsg : W32 := 1
  out : Tbl MsgOut := []
  /-- messages that wait for the session or the window -/
  waiting : List SendReq := []
  hwm : W32 := 0
  window : BitVec 1024 := 0
  srtt : Nat := 32000
deriving DecidableEq, Repr

/-- A reassembly entry (R388 to R390), keyed by node * 2^32 + message ID. -/
structure Reasm where
  write : Bool
  srcEp : Nat
  dstEp : Nat
  totalLen : Nat
  pktLog2 : Nat
  imm : W32
  trig : Nat
  rkey : W32
  remoteAddr : W64
  buffer : Option RecvBuf := none
  /-- a WRITE's key has been checked -/
  checked : Bool := false
  got : Tbl Unit := []
  bytes : Nat := 0
  /-- OFFSET and ATTEMPT of the first faulty packet -/
  fault : Option (Nat × Nat) := none
  lastAt : Nat := 0
  /-- packets placed and not yet acknowledged -/
  unacked : List Nat := []
  /-- chip time of the first packet that is not yet acknowledged -/
  ackFrom : Nat := 0
  /-- logical port and path of the latest packet, and its version -/
  lport : Nat := 0
  path : Nat := 0
  version : Nat := 1
  session : W32 := 0
  ce : Bool := false
deriving DecidableEq, Repr

/-- A triggered work request that waits (R398). -/
structure TrigWait where
  q : NetQ
  op : WrOp
  wr : WorkReq
deriving DecidableEq, Repr

/-- The network side. -/
structure Net where
  ports : Tbl NetPort := []
  lports : Tbl LPort := []
  macBase : BitVec 48 := 0
  qps : Tbl Qp := []
  nextQp : Nat := 2
  regions : Tbl Region := []
  eps : Tbl Endpoint := []
  peers : Tbl DPeer := []
  /-- this boot's session (R381) -/
  session : W32 := 0
  reasm : Tbl Reasm := []
  /-- the 13 counters of GROUP 0x3100 -/
  dgCounters : List Nat := List.replicate 13 0
  trig : Tbl W32 := []
  trigWaiting : List TrigWait := []
  /-- stamp of the latest use of a queue-pair context -/
  stamp : Nat := 0
deriving DecidableEq, Repr

end Sys2Proof.Machine
end

