-- ==== Sys2Proof/Machine/Parts/Peer.lean ====
section
/-! DEFINITION. Machine/Parts/Peer.lean: the state of the Jalras link, snapshots, the cluster and replication (13). -/
namespace Sys2Proof.Machine
open Sys2Proof

/-- Sub-link states of a Jalras port. -/
inductive SubState | detect | training | hello | up | retrain | down
deriving DecidableEq, Repr

/-- A frame's worth of a message (R406): type, class, MSG_SEQ, MSG_OFFSET, FIRST and LAST, payload; and the sub-link that it is bound to, if any (R410). -/
structure JalPiece where
  type : Nat
  cls : Nat
  msgSeq : Nat
  offset : Nat := 0
  first : Bool := true
  last : Bool := true
  payload : List Byte
  home : Option Nat := none
deriving DecidableEq, Repr

/-- An unacknowledged frame, and whether it has failed once. -/
structure JalFrame where
  seq : Nat
  piece : JalPiece
  sentAt : Nat
  failedOnce : Bool := false
deriving DecidableEq, Repr

/-- A sub-link (R404 to R407), keyed by 2 * port + half. -/
structure SubLink where
  state : SubState := .detect
  /-- a cross sub-link to the other pair of the board -/
  cross : Bool := false
  /-- the node at its far end, and the next MSG_SEQ of the cluster messages to it -/
  node : Nat := 0
  crossMsg : Nat := 0
  /-- what is left of the round of 4, 2 and 1 frames of the classes mirror, journal and forward (R409) -/
  credit : Nat × Nat × Nat := (4, 2, 1)
  txSeq : Nat := 0
  rxSeq : Nat := 0
  nakSent : Bool := false
  unacked : List JalFrame := []
  retrainFails : Nat := 0
  lastFrame : Nat := 0
  /-- chip time of the oldest frame not yet acknowledged to the partner -/
  ackFrom : Nat := 0
  ackDue : Bool := false
  /-- the partner's HELLO seen on it -/
  partner : Option (BitVec 128) := none
deriving DecidableEq, Repr

/-- A snapshot (R418 to R422), keyed by epoch. -/
structure Snap where
  nsid : Nat
  /-- blocks of the view; unlisted reads as zeroes -/
  blocks : Tbl Nat := []
  map : Tbl MapEnt := []
  /-- its shared map pages, as a namespace has them -/
  pages : Tbl Nat := []
  size : Nat
  /-- writes before the cut that have not committed -/
  pending : List Nat := []
  /-- blocks of the view that a late write of the clone's source may no longer change (R420) -/
  changed : Tbl Unit := []
  held : Bool := false
  /-- every write before the cut has committed (R420) -/
  sealed_ : Bool := false
deriving DecidableEq, Repr

/-- Why a snapshot is being cut: for this head's command, for the other head's, for a relationship. -/
inductive CutFor | mailbox | peer | repl (rel : Nat)
deriving DecidableEq, Repr

/-- A cut or a shrink that waits for its Privet entry, keyed by the entry (R153, R419). -/
inductive LockJob | cut (nsid : Nat) (why : CutFor) (since : Nat) | shrink (nsid size : Nat)
deriving DecidableEq, Repr

/-- A clone's debt to the epoch it was made from (R420): writes of the source still to be applied, and the blocks that the clone has changed since. -/
structure Inherit where
  pending : List Nat
  changed : Tbl Unit := []
deriving DecidableEq, Repr

/-- Epochs and snapshots of the pair. -/
structure Snaps where
  next : Nat := 1
  views : Tbl Snap := []
  jobs : Tbl LockJob := []
  /-- cuts and shrinks that wait for a Privet entry, oldest first: namespace, first and last block, slice (R161, R195) -/
  jobWait : List (Nat × Nat × Nat × Nat × LockJob) := []
  clones : Tbl Inherit := []
  /-- next number of a shared map page -/
  nextPage : Nat := 1
deriving DecidableEq, Repr

/-- A probe that waits for its answer (R429), keyed by its target; one made for another member by (that member + 1) * 8192 + target. -/
structure Probe where
  nonce : W64
  /-- chip time of the direct probe, then of the indirect probes -/
  sentAt : Nat
  /-- sent through 3 other members -/
  indirect : Bool := false
  /-- the member for which this node probes -/
  onBehalf : Option Nat := none
deriving DecidableEq, Repr

/-- A view change under way (R429). -/
structure Change where
  view : Nat
  changes : List ViewChange
  acks : List Nat
  /-- the node that waits for JOIN_ACCEPT -/
  joiner : Option Nat := none
  /-- chip time at which VIEW_UPDATE was sent -/
  at_ : Nat := 0
deriving DecidableEq, Repr

/-- Traffic-key state with one node (R426). -/
structure Traffic where
  txGen : W32 := 0
  counter : Nat := 0
  rxGen : W32 := 0
  /-- the previous generation is still accepted -/
  prevOk : Bool := false
  /-- chip time of the change of generation -/
  changedAt : Nat := 0
deriving DecidableEq, Repr

/-- Cluster membership (R423 to R429). -/
structure Cluster where
  member : Bool := false
  id : W64 := 0
  view : Nat := 0
  /-- highest version of each member -/
  members : Tbl Nat := []
  /-- the seed of a running CLUSTER_JOIN, and when it began -/
  joining : Option Nat := none
  joinAt : Nat := 0
  leaving : Bool := false
  leaveAt : Nat := 0
  change : Option Change := none
  /-- changes that wait for the one under way, each with its joining node -/
  queue : List (List ViewChange × Option Nat) := []
  suspects : Tbl Nat := []
  probes : Tbl Probe := []
  traffic : Tbl Traffic := []
  tagFails : Nat := 0
  /-- members that the rotation has still to probe, and the last tick -/
  rotation : List Nat := []
  tickAt : Nat := 0
deriving DecidableEq, Repr

/-- A replication relationship (R430 to R439), keyed by REL_ID. -/
structure Repl where
  source : Bool
  nsid : Nat
  sync : Bool
  node : Nat
  remoteNsid : Nat
  interval : Nat := 0
  state : ReplState := .initial
  /-- REPL_OPEN_ACK has arrived -/
  opened : Bool := false
  base : Nat := 0
  /-- epoch of the running cycle -/
  cycle : Option Nat := none
  waiting : Bool := false
  nextDue : Nat := 0
  /-- logical bytes written since the base, and since the running cycle's cut -/
  lag : Nat := 0
  lagCut : Nat := 0
  /-- the partner is outside the view (R429) -/
  away : Bool := false
  /-- REPL_DELTA messages of the running cycle not yet acknowledged -/
  deltasOut : Nat := 0
  /-- units that the target lacks and that have not been read yet, and those read for the REPL_UNITS message being filled (R433, R434) -/
  toSend : List Nat := []
  ready : List WireUnit := []
  kcv : List Byte := []
  /-- generation under which slots are sent (R451) -/
  transferGen : Nat := 0
  /-- state before a pause -/
  resumeTo : ReplState := .idle
  /-- translation table of a target: pool * 2^44 + source unit to own unit -/
  xlat : Tbl Nat := []
  /-- entries of the epoch being built at a target -/
  built : List (Nat × WireEnt) := []
  builtEpoch : Nat := 0
  /-- the built epoch waits for its units to be settled on flash -/
  wanted : Bool := false
  /-- the changed ranges have been reported for the epoch being built -/
  reported : Bool := false
  /-- the target's own snapshot of the last checkpoint (R431) -/
  checkpoint : Option Nat := none
  /-- staged synchronous writes that wait for the other head: WRITE_SEQ of the source and of this head -/
  staged : List (Nat × Nat) := []
  /-- synchronous writes of a source that wait for the target -/
  owed : List Nat := []
  /-- ranges of a target changed since the checkpoint -/
  changed : List (Nat × Nat) := []
  repairing : Bool := false
  /-- staged writes that rewrite repaired runs (R436) -/
  fixing : List Nat := []
deriving DecidableEq, Repr

/-- What the other head's pair-wide and replication records set (R256, R418, R439): namespaces, slices, snapshots and relationships, none where they are deleted. -/
structure PairConfig where
  ns : List (Nat × Option Ns) := []
  slices : List (Nat × Option Slice) := []
  views : List (Nat × Option Snap) := []
  repls : List (Nat × Option Repl) := []
  /-- queue pairs open on the other head, by slice (R197) -/
  pairs : List (Nat × Nat) := []
  /-- resets and removals of slices that the other head has begun, with `squash`, or has done its part of, with its count of squashed commands (R196, R198) -/
  resets : List (Nat × Bool) := []
  resetsDone : List (Nat × Nat) := []
  /-- share and ceiling that a GOV_SHARES_SET of the other head gives an activity (R486) -/
  shares : List (Nat × Nat × Nat) := []
  /-- KEY_BIND records of key indexes, and a new KTWK wrapped under the old one (R446, R448) -/
  keys : List (Nat × Option KeyEnt) := []
  ktwk : Option (List Byte) := none
  /-- POOL records of the pools that the other head owns -/
  pools : List (Nat × Option Pool) := []
deriving DecidableEq, Repr

/-- A message of the peer (R408), as it is handed over in the order of its class (R409). -/
inductive JalMsg
  | heartbeat (failStopping : Bool) (owned : Byte) (session : W32)
  | vaultNotice (session : W32)
  | serials (list : List W64)
  | ownership (pool : Fin 8) (done : Bool) (gen : W32)
  | resyncDone (session : W32)
  | sifUpdate (seq : Nat) (x : Option Sif)
  | sifAck (seq : Nat)
  | journalGroup (gseq : Nat) (g : Group) (cfg : PairConfig)
  | journalAck (gseq : Nat)
  | release (seqs : List Nat)
  | mirrorData (m : MirrorMsg)
  | mirrorAck (seqs : List Nat)
  | forwardCmd (id slice : Nat) (e : Option SubEntry)
  | forwardRsp (id sct sc : Nat) (err : Option (Nat × Nat)) (data : List Nat)
  | proxyMedia (module : Fin 96) (cmd : KCmd) (gen : W32)
  | proxyRsp (module : Fin 96) (cmd : KCmd) (st : KStatus) (temp : Byte) (held : W32)
deriving DecidableEq, Repr

/-- An ownership hand-over that waits for the peer's message (R183, R415, R416). -/
structure HandOver where
  pools : List Nat
  taking : Bool
deriving DecidableEq, Repr

/-- The peer link and the peer (R403 to R417). -/
structure Jalras where
  subs : Tbl SubLink := []
  version : Nat := 1
  journalVersion : Nat := 2
  partnerUid : Option (BitVec 128) := none
  partnerNode : Nat := 0
  refused : Bool := false
  peerSession : W32 := 0
  /-- this boot's Jalras session -/
  session : W32 := 0
  /-- chip time of the newest frame from the peer -/
  heard : Option Nat := none
  peerOwned : Byte := 0
  /-- the state before JOINING -/
  before : PeerSt := .alone
  /-- mirror copies of a resync not yet acknowledged -/
  resync : List Nat := []
  resyncDone : Bool := false
  /-- versions of the Jalras link and the journal that the peer announced in its last HELLO -/
  peerRange : Nat × Nat × Nat × Nat := (1, 1, 1, 1)
  /-- the peer's module serial numbers -/
  serials : List W64 := []
  hand : Option HandOver := none
  /-- frames that wait for room among the 256, oldest first -/
  waiting : List JalPiece := []
  /-- next MSG_SEQ of each class, to the peer and from it (R406, R409) -/
  txMsg : List Nat := [0, 0, 0, 0]
  rxMsg : List Nat := [0, 0, 0, 0]
  /-- messages that have come ahead of their turn: class, MSG_SEQ -/
  early : List (Nat × Nat × JalMsg) := []
  /-- chip time of the last HEARTBEAT sent -/
  beatAt : Nat := 0
  /-- sub-link that takes the next frame -/
  turn : Nat := 0
deriving DecidableEq, Repr

end Sys2Proof.Machine
end

