-- ==== Sys2Proof/Machine/Parts/Base.lean ====
section
/-! DEFINITION. Machine/Parts/Base.lean: the state of the pins, power, clocks, start-up, trust, control ports, mailboxes, errors, alarms, recorder and governor.
A default value of a field is its value in State.reset. -/
namespace Sys2Proof.Machine
open Sys2Proof

/-! ## Pins, power and clocks (02) -/

/-- One discrete input behind the conditioner (R57, R59): its filtered level (asserted; for CHAIN_IN: high), the times of the accepted edges of the window it is judged by, its flags and its latch. -/
structure InputCond where
  level : Bool := false
  edges : List Nat := []
  chatter : Bool := false
  stuck : Bool := false
  latched : Bool := false
  /-- the last accepted level when a latch that holds it began (PEER_ALIVE, R57) -/
  held : Bool := false
deriving DecidableEq, Repr

/-- A repair (R69, R70): a spare row of an SRAM macro for a faulty row, or the spare SerDes slice for a lane. -/
structure Repair where
  domain : Nat
  serdes : Bool
  macroId : W32
  fault : W16
  spare : Nat
  hours : W32
deriving DecidableEq, Repr

/-- The input conditioner (R57, R59), in the always-on domain. -/
structure Conditioner where
  pwrgood : InputCond := {}
  resetN : InputCond := { level := true }
  pwrfail : InputCond := {}
  perstA : InputCond := {}
  perstB : InputCond := {}
  peerAlive : InputCond := {}
  chainIn : InputCond := { level := true }
  /-- CHIP_INPUT_COND.IGNORED_EDGES, saturating at 255 -/
  ignoredEdges : Nat := 0
  /-- RESET_N edges counted since the window that exceeded the limit (R57) -/
  resetEdgeCount : Nat := 0
  /-- the count to record in a RESET_CHATTER event after the next boot -/
  resetChatter : Option Nat := none
deriving DecidableEq, Repr

/-- The discrete outputs of R54. -/
structure OutPins where
  faultAsserted : Bool := true
  tempAlert : Bool := false
  chainOutHigh : Bool := true
  vaulted : Bool := false
  /-- SMB_ALERT_N asserted (R498) -/
  smbAlert : Bool := false
deriving DecidableEq, Repr

/-- A fail-stop kept for the next boot (R494, R508 FAIL_STOP). -/
structure FailStopRec where
  cause : Nat
  /-- CODE of the error record written at the next boot -/
  code : W16
  faultReg : W64
  /-- the reading of R532 for a lost system reference -/
  reading : W32
deriving DecidableEq, Repr

/-- The always-on domain (R29, R45, R66, R111, R504): kept across chip resets, set when VDD_AON comes up. -/
structure Aon where
  powerCycles : W64 := 0
  hours : W32 := 0
  ms : W32 := 0
  lifeHours : W32 := 0
  /-- life consumption below one hour, in 1/2^32 s -/
  lifeFrac : Nat := 0
  /-- the always-on timer runs from the crystal (R45) -/
  onCrystal : Bool := false
  /-- EVR_SUPPRESSED, saturating -/
  suppressed : W32 := 0
  failStop : Option FailStopRec := none
  /-- pools this head owned when its Carafe was lost without a vault (R494, CARAFE_LOST) -/
  carafeLost : Option Byte := none
  /-- x8+x8 selected for a port's next fundamental reset (R111) -/
  x8A : Bool := false
  x8B : Bool := false
deriving DecidableEq, Repr

/-- The 64 power domains (R41, R42, R531): bit n is domain n. -/
structure Power where
  on : Mask64 := 1
  ramping : Mask64 := 0
  /-- switch-on requests waiting for a ramp, in order of arrival -/
  waiting : List Nat := []
  /-- switch-off requests that take effect when the ramp ends -/
  offPending : Mask64 := 0
  fenced : Mask64 := 0
  /-- domains fenced because their reference is lost (R53) -/
  refFenced : Mask64 := 0
  /-- domains fenced at least twice since reset -/
  fencedTwice : Mask64 := 0
  /-- domains fenced at least once since reset -/
  fencedOnce : Mask64 := 0
  /-- chip time of a domain's latest fence for an error -/
  fencedAt : Tbl Nat := []
  /-- the fault that led to the fence produced a repair record (R492) -/
  repairable : Mask64 := 0
  /-- port domains judged unused (R531) -/
  unused : Mask64 := 0
  /-- port domains under a 100 ms judgement (R531) -/
  judging : Mask64 := 0
  /-- network ports named by NET_PORT_CONFIG since the last chip reset (R531) -/
  named : Mask64 := 0
  /-- repairs in effect in domains that are on (R43, R68, R69) -/
  applied : List Repair := []
deriving DecidableEq, Repr

/-- A lane's standing under R68: failed checks in a row, marked for substitution. -/
structure Lane where
  fails : Nat := 0
  marked : Bool := false
  substituted : Bool := false
deriving DecidableEq, Repr

/-- Clocks, rails and temperatures (R53, R62, R500). -/
structure Physical where
  /-- lost references: bit i as R532 numbers them, 0 system to 8 crystal -/
  refLost : BitVec 9 := 0
  /-- rails outside tolerance, R532's numbering -/
  railAlarm : BitVec 11 := 0
  dieMax : Byte := 0
  hbm : List Byte := [0, 0, 0, 0]
  /-- crossed thresholds: bit 0 the logic die, 1 to 4 the HBM3E stacks -/
  alert : BitVec 5 := 0
  throttle : BitVec 5 := 0
  critical : BitVec 5 := 0
  refresh : BitVec 5 := 0
  /-- data-path clock in eighths (R62) -/
  clockEighths : Nat := 8
  /-- lanes by domain * 64 + lane (R68) -/
  lanes : Tbl Lane := []
  /-- the repairs that the service processor knows: the fuses' entries that are read, the records that it accepts, and those it has made since (R69, R70) -/
  known : List Repair := []
  /-- host ports whose last training gave less than full rate and width (R110) -/
  hostNarrow : BitVec 2 := 0
  /-- lanes left at reduced width with no spare, by domain -/
  reduced : Mask64 := 0
deriving DecidableEq, Repr

/-- The vault flush as a whole chip sees it (R48 to R51). -/
structure Flush where
  cause : Option FlushCause := none
  /-- chip time of the first assertion of PWRFAIL_N -/
  firstAt : Option Nat := none
  /-- a RESET_N latched during the flush -/
  resetHeld : Bool := false
  /-- stays held until a reset (critical trip, R62) -/
  holdUntilReset : Bool := false
  /-- the flush ended and its vault is sealed or empty -/
  ended : Bool := false
deriving DecidableEq, Repr

/-! ## Start-up and trust (03) -/

/-- An image that has been accepted (R81). -/
structure ImageInfo where
  fwVersion : W64 := 0
  securityVersion : Nat := 0
  keySlot : Nat := 0
  measurement : List Byte := []
  /-- SHA-384 of the payload alone -/
  payload : List Byte := []
deriving DecidableEq, Repr

/-- Boot progress and CHIP_BOOT_STATUS (R72, R75, R533). -/
structure Boot where
  stage : Stage := .rom
  src : ImageSrc := .primary
  failCode : Byte := 0
  keySlot : Nat := 0
  replayed : Bool := false
  hbmTrained : Bool := false
  ddrTrained : Bool := false
  /-- the service processor serves the immediate mailbox (step 10) -/
  served : Bool := false
  sp : Option ImageInfo := none
  cc : Option ImageInfo := none
  bridge : Option ImageInfo := none
  /-- the image that streams from the NOR: its load target is closed to every other writer and its digest context is open (R83) -/
  stream : Option ImageType := none
  /-- where each accepted image was loaded and jumped to, by IMAGE_TYPE: load address, entry address, payload length -/
  loads : Tbl (W64 × W64 × Nat) := []
  /-- service-processor SRAM: the stage-1 payload (R79) -/
  sram : List Byte := []
  /-- control-core firmware runs (step 14) -/
  started : Bool := false
  /-- how the boot NOR is read: with command 0x13 at 25 MHz until step 5 has read valid SFDP (R72, R76) -/
  norMode : NorMode := .slow13
  /-- the load target that the streaming image closes to other writers: address and bytes of HBM (R83) -/
  target : Option (Nat × Nat) := none
  ddrBytes : Nat := 0
  boardId : BitVec 4 := 0
  /-- BOARD_ID sampled since reset exit (R58) -/
  boardSampled : Bool := false
  exitTime : W64 := 0
  /-- stripes in flight whose entries were lost with the Carafe before this boot (R277) -/
  sifLost : Bool := false
  /-- VAULT_REPLAY of this boot has ended -/
  vaultRead : Bool := false
  /-- the chip is held not ready: its DDR5 population was refused (R24) -/
  held : Bool := false
deriving DecidableEq, Repr

/-- An owner key slot of the fuses (R85, R86): blank when the hash is all zero and its rows pass ECC. -/
structure OwnerSlot where
  hash : List Byte := List.replicate 48 0
  /-- the 8 reserved bits of its seven rows -/
  rsv : Byte := 0
  programmed : Bool := false
  damaged : Bool := false
deriving DecidableEq, Repr

/-- The fuse array (R85), kept for ever: the data bits of the whole-row rows by field, and the incremental area fuse by fuse. -/
structure Fuses where
  uid : BitVec 128 := 0
  stepping : BitVec 4 := 1
  orderCode : BitVec 2 := 0
  extScreen : Bool := false
  lot : BitVec 33 := 0
  /-- DEVICE_SECRET, 32 bytes, and the 24 reserved bits of its rows -/
  secret : List Byte := List.replicate 32 0
  secretRsv : List Byte := List.replicate 3 0
  vendorHash : List Byte := List.replicate 48 0
  vendorRsv : Byte := 0
  owner0 : OwnerSlot := {}
  owner1 : OwnerSlot := {}
  owner2 : OwnerSlot := {}
  owner3 : OwnerSlot := {}
  /-- the FACTORY_REPAIR entries of rows 43 to 210, two to a row; unlisted ones are all zero -/
  factoryRepairs : List (BitVec 28) := []
  /-- TRIM, rows 211 to 234, and the reserved rows 235 to 239, seven bytes to a row -/
  trim : List Byte := List.replicate 168 0
  reservedRows : List Byte := List.replicate 35 0
  /-- the 1,024 fuses of rows 240 to 255: fuse 3i, 3i + 1 and 3i + 2 make logical bit i; at reset DEBUG_LOCK is blown (R92) -/
  incr : BitVec 1024 := BitVec.ofNat 1024 (7 * 2 ^ 204)
deriving DecidableEq, Repr

/-- Trust state of this run (R90, R92 to R96). -/
structure Trust where
  debugOpen : Bool := false
  /-- debug has been opened since the reset: no key is loaded until the next one (R93) -/
  keysClosed : Bool := false
  nonce : Option (List Byte) := none
  /-- attestation requests waiting beyond the second's 1,000 (R96) -/
  attestWaiting : Nat := 0
  /-- reports signed in the second that began at attestEpoch -/
  attestCount : Nat := 0
  attestEpoch : Nat := 0
  /-- MEAS_CONFIG, taken at boot (R95) -/
  measConfig : List Byte := []
  /-- the sensed copy of DEVICE_SECRET, until step 8 erases it (R94) -/
  secretCopy : Option (List Byte) := none
  /-- the repair key: the first 32 bytes of HMAC-SHA-384 under "MZ-REPAIR" (R70, R94) -/
  repairKey : List Byte := []
  /-- identity seed and identity private scalar, until step 8 erases them (R94) -/
  identitySeed : Option (List Byte) := none
  identityScalar : Option Nat := none
  /-- stage-1 alias seed, and the alias private key until the report key is certified (R94) -/
  aliasSeed : Option (List Byte) := none
  aliasScalar : Option Nat := none
  aliasCert : List Byte := []
  reportCert : List Byte := []
  /-- the report key has been derived: sealing slot 3 holds its scalar (R94, R462) -/
  reportKey : Bool := false
deriving DecidableEq, Repr

/-- What the boot NOR holds besides the image regions, the event recorder, the update record and the key-table wrapping key record, which State holds elsewhere (R77, R78). -/
structure Nor where
  /-- the repair partition: its 32-byte records in the order appended (R70) -/
  repairs : List (List Byte) := []
  factory : List Byte := []
  devCert : List Byte := []
  intCert : List Byte := []
  /-- image headers as the last boot found them, by offset in the NOR (R79) -/
  headers : List (Nat × List Byte) := []
deriving DecidableEq, Repr

/-- The address chain (R101 to R107). -/
structure Chain where
  head : Bool := false
  position : Option (BitVec 4) := none
  version : BitVec 4 := 0
  /-- POSITION of the valid frame before this one -/
  lastPos : Option (BitVec 4) := none
  /-- valid frames in a row that a head received -/
  headFrames : Nat := 0
  /-- frames in a row that disagree with the held position -/
  disagree : Nat := 0
  enclosure : Option (BitVec 5) := none
  fault : Bool := false
  /-- boot step 9 has started the chain -/
  started : Bool := false
  /-- BOARD_ID and ENCLOSURE last recorded as differing (R105, R106) -/
  boardSeen : Option Nat := none
  enclosureSeen : Option Nat := none
deriving DecidableEq, Repr

/-- The sideband endpoint (R97 to R99). -/
structure Sideband where
  eid : Byte := 0
  /-- address assigned by ARP -/
  arpAddr : Option (BitVec 7) := none
  /-- the address-resolved flag of SMBus address resolution -/
  arpResolved : Bool := false
  tid : Byte := 0
deriving DecidableEq, Repr

/-- The test access port (R71). -/
structure Jtag where
  instr : JtagInstr := .idcode
  /-- what SAMPLE/PRELOAD has left in the boundary cells, to be driven by EXTEST and CLAMP -/
  cells : List Bool := []
  /-- what the last SAMPLE captured at the pins -/
  sampled : List Bool := []
deriving DecidableEq, Repr

/-! ## Control ports, semaphores and mailboxes (04) -/

/-- One entry of a port's MSI-X table. -/
structure MsixEntry where
  addr : W64 := 0
  data : W32 := 0
  masked : Bool := true
deriving DecidableEq, Repr

/-- A mailbox response that is ready to be written (R128). -/
structure MReply where
  status : MStatus
  detail : W32
  body : List Byte
deriving DecidableEq, Repr

/-- A command of the mailbox as it was received: header, opcode, and the body's bytes (R121). -/
structure MCmd where
  hdr : MbxHdr
  opcode : Nat
  body : List Byte := []
deriving DecidableEq, Repr

/-- A completed command whose response has not been written. -/
structure MDone where
  cmd : MCmd
  reply : MReply
  /-- VERSION of the response: 1 for MAILBOX_HELLO, else the session's (R121) -/
  version : Nat := 1
deriving DecidableEq, Repr

/-- The capability registers of an endpoint that the PCI Express Base Specification lays out and R110 supports; reset values as that specification gives them (log entry 173). -/
structure PcieCaps where
  /-- Power State: D3hot; else D0 -/
  d3hot : Bool := false
  /-- Max_Payload_Size and Max_Read_Request_Size of device control -/
  payload : BitVec 3 := 0
  readRequest : BitVec 3 := 2
  /-- AER: uncorrectable status, mask, severity, correctable status, mask, and the ECRC enables of capabilities and control -/
  aerUncor : W32 := 0
  aerUncorMask : W32 := 0
  aerSeverity : W32 := 0x00462030
  aerCor : W32 := 0
  aerCorMask : W32 := 0x00002000
  ecrcGen : Bool := false
  ecrcCheck : Bool := false
  /-- ATS control: Enable and Smallest Translation Unit; PRI control: Enable; PASID control: Enable -/
  atsEnable : Bool := false
  atsStu : BitVec 5 := 0
  priEnable : Bool := false
  pasidEnable : Bool := false
deriving DecidableEq, Repr

/-- The upper endpoint of a port in x8+x8 mode (R109, R111): configuration space, MSI-X table and pending bits. -/
structure UpperEnd where
  caps : PcieCaps := {}
  cfg : Tbl W32 := []
  msixEnable : Bool := false
  msixFuncMask : Bool := false
  msix : Tbl MsixEntry := []
  msixPending : Tbl Unit := []
deriving DecidableEq, Repr

/-- Registers and mailbox of one control port (R112 to R134). -/
structure PortRegs where
  /-- data-link layer up -/
  linkUp : Bool := false
  speed : BitVec 4 := 0
  width : BitVec 5 := 0
  x8 : Bool := false
  spareInUse : Bool := false
  busMaster : Bool := false
  inReset : Bool := false
  /-- 100 ms limit for answering configuration requests runs from here (R47, R72) -/
  configFrom : Option Nat := none
  scratch : W32 := 0
  errCount : Nat := 0
  errOffset : W16 := 0
  /-- high halves latched by reads of low halves (R13), by the offset of the low half -/
  latch : Tbl W32 := []
  leaseCfg : BitVec 7 := 10
  /-- chip time at which the running lease ends -/
  leaseEnd : Option Nat := none
  expired : Bool := false
  linkReleased : Bool := false
  foreignWrites : Nat := 0
  /-- MBX_IMM_BUF -/
  immBuf : Mem := []
  immBusy : Bool := false
  immDone : Bool := false
  immOverrun : Bool := false
  immLast : W16 := 0
  /-- doorbell LENGTH of a request that waits for SERVED (R124) -/
  immDeferred : Option Nat := none
  reqBase : W64 := 0
  reqCfg : BitVec 5 := 14
  reqTail : Nat := 0
  reqHead : Nat := 0
  rspBase : W64 := 0
  rspCfg : BitVec 5 := 14
  rspTail : Nat := 0
  rspHead : Nat := 0
  enable : Bool := false
  notify : Bool := true
  fetchErr : Bool := false
  tailErr : Bool := false
  rspStall : Bool := false
  outstanding : Nat := 0
  /-- the open session's version -/
  session : Option Nat := none
  renegotiate : Bool := false
  intCause : BitVec 11 := 0
  intEnable : BitVec 11 := 0
  msixEnable : Bool := false
  msixFuncMask : Bool := false
  msix : Tbl MsixEntry := []
  msixPending : Tbl Unit := []
  evrIndex : Nat := 0
  evrAutoInc : Bool := false
  /-- cached translations of the ATS (R110): PASID * 2^52 + page -/
  ats : Tbl W64 := []
  /-- page requests that the host has not answered, by page request group: PASID, page and the command that waits (R110, R187) -/
  pageReqs : Tbl (Nat × Nat × Nat) := []
  nextGroup : Nat := 0
  /-- writable configuration registers as written, by doubleword: command and base addresses (R109) -/
  cfg : Tbl W32 := []
  caps : PcieCaps := {}
  upper : UpperEnd := {}
deriving DecidableEq, Repr

/-- One semaphore (R115, R116). -/
structure Sem where
  owner : Option Port := none
  grants : W16 := 0
  /-- the port that won the last tie -/
  lastTie : Option Port := none
deriving DecidableEq, Repr

/-- What the mailboxes share (R120, R128). -/
structure Mbx where
  /-- requests fetched or taken from the immediate mailbox and not yet started, in order of arrival -/
  accepted : List MCmd := []
  /-- commands started that go on (R129) -/
  running : List MCmd := []
  /-- the running command that needed the control semaphore (R120) -/
  semRunning : Option MCmd := none
  /-- running commands whose response is to be discarded and whose port keeps its registers (R112) -/
  orphans : List MCmd := []
  /-- running commands whose port's registers were reset since: nothing follows their end (R112) -/
  forgotten : List MCmd := []
  /-- completed commands whose response waits to be written, oldest first -/
  done : List MDone := []
deriving DecidableEq, Repr

/-! ## Governor, errors, alarms, recorder, traces (16) -/

/-- One background activity of the governor (R480 to R487). -/
structure GovAct where
  share : Nat
  ceiling : Nat
  /-- most recently accepted setting, in effect from the next boundary (R486) -/
  newShare : Nat
  newCeiling : Nat
  /-- balance by resource index -/
  bal : List Int := List.replicate 10 0
  /-- issue of this period by resource index, in tokens -/
  issued : List Nat := List.replicate 10 0
  used : W64 := 0
  /-- a request of the activity waits, and what its block draws: resource and tokens -/
  waiting : Bool := false
  wants : List (Nat × Nat) := []
  atCeiling : Bool := false
  stopped : Bool := false
  waitPeriods : Nat := 0
deriving DecidableEq, Repr

/-- The budget governor (R487). -/
structure Gov where
  acts : List GovAct := [
    { share := 200, ceiling := 600, newShare := 200, newCeiling := 600 },
    { share := 250, ceiling := 500, newShare := 250, newCeiling := 500 },
    { share := 30, ceiling := 100, newShare := 30, newCeiling := 100 },
    { share := 100, ceiling := 400, newShare := 100, newCeiling := 400 },
    { share := 25, ceiling := 300, newShare := 25, newCeiling := 300 },
    { share := 50, ceiling := 300, newShare := 50, newCeiling := 300 },
    { share := 50, ceiling := 200, newShare := 50, newCeiling := 200 },
    { share := 10, ceiling := 20, newShare := 10, newCeiling := 20 }]
  caps : List Nat := List.replicate 10 0
  periods : W64 := 0
deriving DecidableEq, Repr

/-- An error record (R496). -/
structure ErrRec where
  seq : W32
  code : W16
  action : Nat
  multi : Bool
  nested : Bool
  host : Bool
  time : W64
  domain : Nat
  unit : Nat
  agent : Nat
  transients : W32
  address : W64
  info0 : W64
  info1 : W64
deriving DecidableEq, Repr

/-- The error handler and transient counts of one unit of R20, named by its domain (R489, R490). -/
structure UnitErr where
  /-- the error whose handler is active, and the chip time of its detection -/
  handler : Option ErrObs := none
  handlerAt : Nat := 0
  transients : W32 := 0
  /-- chip times of the transient faults of the last 3,600 s -/
  recent : List Nat := []
  /-- the count is above 1,000 in this episode (R489) -/
  episode : Bool := false
deriving DecidableEq, Repr

/-- The error collector (R495). -/
structure ErrQueue where
  records : List ErrRec := []
  nextSeq : W32 := 1
  overflow : Bool := false
  overflowCount : W32 := 0
  units : Tbl UnitErr := []
  /-- retired 4 KiB pages, by domain * 2^52 + page: of DDR5 for good, of HBM3E until the next reset repairs the row (R489) -/
  retired : Tbl Unit := []
  /-- locations that have given one correctable error, by domain * 2^64 + address -/
  suspects : Tbl Unit := []
deriving DecidableEq, Repr

/-- An alarm slot (R497). -/
structure AlarmSlot where
  active : Bool := false
  unacked : Bool := false
  saturated : Bool := false
  critical : Bool := false
  count : W32 := 0
  firstTime : W64 := 0
  lastTime : W64 := 0
deriving DecidableEq, Repr

/-- The alarm table (R497, R498): slots that are not empty, and the kinds with a pending notification. -/
structure Alarms where
  slots : Tbl AlarmSlot := []
  pending : Tbl Unit := []
deriving DecidableEq, Repr

/-- An event record (R505), fixed at the moment of its event; MAGIC, VERSION, CRC and MARK are those of every record. -/
structure EvrRec where
  severity : Nat
  code : W16
  index : Nat
  powerCycles : W32
  hours : W32
  msInHour : W32
  chipTime : W64
  nodeId : W16
  domain : Byte
  fromBoot : Bool
  errSeq : W32
  snapStatus : W32
  snapBoot : W32
  snapInput : W32
  snapTemp : W32
  snapFenced : W64
  detail : List Byte
deriving DecidableEq, Repr

/-- The event recorder (R503 to R507). EVR_SUPPRESSED is in the always-on domain. -/
structure Evr where
  /-- records in the NOR by slot -/
  slots : Tbl EvrRec := []
  /-- slots found torn -/
  tornSlots : Tbl Unit := []
  /-- a record was being written when the chip was last reset (R503) -/
  begun : Bool := false
  /-- waiting records, oldest first -/
  buffer : List EvrRec := []
  /-- next slot to be assigned -/
  nextSlot : Nat := 0
  torn : Nat := 0
  /-- the first event that did not fit has had its RECORDER_FULL record made -/
  fullNoted : Bool := false
  /-- a clear is running: EVR_NEXT, EVR_SUPPRESSED and EVR_TORN before it -/
  clearing : Option (Nat × W32 × Nat) := none
  retry : Bool := false
  /-- firmware or an update record is being written to the NOR -/
  norBusy : Bool := false
deriving DecidableEq, Repr

/-- One trace ring (R501): entries waiting, drops since the last gap, and the drop counter. -/
structure TraceRing where
  entries : List (List Byte) := []
  drops : W64 := 0
  gapDrops : Nat := 0
  gapFirst : W64 := 0
  gapLast : W64 := 0
  /-- chip time of the newest entry -/
  last : W64 := 0
deriving DecidableEq, Repr

end Sys2Proof.Machine
end

