-- ==== Sys2Proof/Machine/Parts/Service.lean ====
section
/-! DEFINITION. Machine/Parts/Service.lean: the state of the utility DMA engine (15) and of firmware update (17). -/
namespace Sys2Proof.Machine
open Sys2Proof

/-- A completion record that waits for queue space (R474, R476). -/
structure UdmaRec where
  time : W64
  dstNext : W64
  bytes : Nat
  seq : Nat
  status : Nat
deriving DecidableEq, Repr

/-- A utility DMA channel (R464 to R479). -/
structure Chan where
  src : W64 := 0
  dst : W64 := 0
  count : W32 := 0
  enable : Bool := false
  srcSpace : BitVec 3 := 0
  dstSpace : BitVec 3 := 0
  srcInc : Bool := true
  dstInc : Bool := true
  cqEn : Bool := false
  irq : Bool := false
  repeat_ : Bool := false
  srcReload : Bool := false
  dstReload : Bool := false
  busy : Bool := false
  armed : Bool := false
  done : Bool := false
  error : Bool := false
  aborted : Bool := false
  cqStall : Bool := false
  startIgnored : Bool := false
  irqPend : Bool := false
  faulted : Bool := false
  pendOvf : Bool := false
  errCode : BitVec 4 := 0
  pending : Nat := 0
  missed : Nat := 0
  remain : W32 := 0
  ring : W32 := 0
  pace : W32 := 0
  cqBase : W64 := 0
  cqCfg : BitVec 7 := 0
  cqTail : BitVec 12 := 0
  cqHead : BitVec 12 := 0
  /-- PHASE of the pass of the queue -/
  phase : Bool := true
  owner : Option Port := none
  lastTie : Option Port := none
  /-- runs since ENABLE was last set -/
  seq : W32 := 0
  /-- current addresses of the run -/
  curSrc : W64 := 0
  curDst : W64 := 0
  /-- bytes of the running burst -/
  burst : Nat := 0
  nextTick : Nat := 0
  held : Option UdmaRec := none
deriving DecidableEq, Repr

/-- What the NOR holds of one image (R79, R80, R516). -/
structure ImgRec where
  /-- the 256 header bytes and the payload bytes -/
  header : List Byte
  payload : List Byte
deriving DecidableEq, Repr

/-- An image region of the boot NOR. -/
structure Region_ where
  stage1 : Option ImgRec := none
  control : Option ImgRec := none
  bridge : Option ImgRec := none
deriving DecidableEq, Repr

/-- The update record, the regions and the running update (R510 to R529). STATE numbers are those of R517. -/
structure FwUpdate where
  state : Nat := 0
  mode : Nat := 255
  seq : W64 := 0
  running : W64 := 0
  staged : W64 := 0
  trialStarts : Nat := 0
  windowEnd : Option Nat := none
  primary : Region_ := {}
  staging : Region_ := {}
  /-- interface ranges of the staged control-core image -/
  iface : List (Nat × Nat) := []
  /-- images that FW_STAGE has accepted and that are being written -/
  next : Region_ := {}
  nextVersion : W64 := 0
  /-- PARTS of the bundle being staged -/
  nextParts : Nat := 0
  /-- the trial runs without a fallback image (R525) -/
  noFall : Bool := false
  /-- the half of the control cores that holds control: false is half 0 -/
  half : Bool := false
  /-- the service processor copies the staging region over the primary one (true) or the reverse -/
  copyToPrimary : Bool := false
  /-- a copy that makes the regions agree is under way -/
  copying : Bool := false
  /-- an image set of the old firmware still in HBM for a hitless fallback -/
  oldControl : Option ImageInfo := none
  /-- its mailbox versions -/
  oldMbx : Nat × Nat := (1, 3)
  /-- mailbox versions that the running control-core image supports (R131, R132) -/
  mbxMin : Nat := 1
  mbxMax : Nat := 3
  /-- a fallback has erased the header of the primary region -/
  erased : Bool := false
deriving DecidableEq, Repr

end Sys2Proof.Machine
end

