-- ==== Sys2Proof/Types/Service.lean ====
section
/-! DEFINITION. Types/Service.lean: operand records of the utility DMA (15) and of firmware update (17). -/
namespace Sys2Proof

/-- What firmware writes into its channel's registers before a START, in its own address map (log entry 20). -/
structure UdmaSetup where
  src : W64
  dst : W64
  count : W32
  ring : W32
  pace : W32
  cqBase : W64
  cqCfg : BitVec 7
deriving DecidableEq, Repr

/-- Who writes a channel's registers: a control port through BAR0, or firmware. -/
inductive UdmaBy | port (p : Port) | firmware (setup : Option UdmaSetup)
deriving DecidableEq, Repr

/-- How a burst ends (R475, R478, R479): moved, with the bytes that a host-space source gave; a failed access of one side; a parity error inside the channel whose second attempt passes, or fails. -/
inductive UdmaEnd | moved (data : List Byte) | readError | writeError | transient (data : List Byte) | lasting
deriving DecidableEq, Repr

/-- One entry of the part table of a Damfa bundle, with its body (R512). -/
structure BundlePart where
  image : ImageType
  delta : Bool
  start : Nat
  body : List Byte
  resultLength : Nat
  fwVersion : W64
  digest : List Byte
  /-- BASE_MEAS -/
  base : List Byte
deriving DecidableEq, Repr

/-- The manifest of a Damfa bundle and its parts (R511); `digest` is SHA-384 of the signed message. -/
structure Bundle where
  keySlot : Nat
  publicKey : List Byte
  securityVersion : Nat
  manifestVersion : W64
  deviceBound : Bool
  debugOnly : Bool
  deviceUid : BitVec 128
  /-- MIN and MAX of the eight interfaces -/
  iface : List (Nat × Nat)
  digest : List Byte
  signature : List Byte
  parts : List BundlePart
deriving DecidableEq, Repr

end Sys2Proof
end

