-- ==== Sys2Proof/Syntax.lean ====
section
/-! DEFINITION. Syntax.lean: the commands, one constructor for each row of spec/opcode_table.json, with the rule that the row cites.
A row has its fields as operands, and what the part observes of the outside world in it: what host memory or media gave, how a physical operation ended, the chip time `at_` of an edge. -/
namespace Sys2Proof
open Machine

/-- A command to the part, or an event on its pins, links and timers. -/
inductive Instr
  -- Pins, power, clocks and temperature (02)
  /-- PWRGOOD_ASSERT (R29): Filtered assertion of PWRGOOD raises the power-cycle count and starts chip time from zero. -/
  | pwrgoodAssert (at_ : Nat)
  /-- PWRGOOD_DEASSERT (R46): PWRGOOD deasserted while running puts the chip into reset within 2 µs; the Carafe is lost, and a running flush ends unsealed. -/
  | pwrgoodDeassert (at_ : Nat)
  /-- RESET_N_ASSERT (R51): Accepted RESET_N assertion resets the chip, or is latched and held off while a vault flush runs. -/
  | resetNAssert (at_ : Nat)
  /-- CHIP_RESET_EXIT (R45): PWRGOOD and RESET_N both reach run levels; the service processor starts the mask ROM, self-test, fuse sensing and the boot of R72. -/
  | chipResetExit (obs : BootObs) (at_ : Nat)
  /-- BOARD_ID_SAMPLE (R58): BOARD_ID straps are sampled once they have been steady for 1 ms, or anyway at 100 ms after reset exit with an event. -/
  | boardIdSample (straps : BitVec 4) (steady : Bool)
  /-- PWRFAIL_N_ASSERT (R48): First filtered assertion of PWRFAIL_N starts the vault flush and switches off 26 domains; later edges are ignored. -/
  | pwrfailNAssert (asserted : Bool) (at_ : Nat)
  /-- PWRFAIL_STABLE_DEASSERT (R51): After the flush has ended and PWRFAIL_N has been stable deasserted for 50 ms, VAULTED is deasserted and the chip is reset and booted. -/
  | pwrfailStableDeassert
  /-- PWRFAIL_STUCK (R51): PWRFAIL_N asserted for more than 1 s sets the stuck flag and raises an alarm over MCTP; the chip stays vaulted. -/
  | pwrfailStuck
  /-- INPUT_LATCH_RELEASE (R57): A chatter latch releases once its input has held the release level stable for its time, 100 ms or 50 ms. -/
  | inputLatchRelease (x : Input)
  /-- PERST_ASSERT (R47): PERST_x_N resets one host port domain and its link and releases the port's semaphores and lendable channels. -/
  | perstAssert (p : Port) (at_ : Nat)
  /-- PERST_STUCK (R57): PERST_x_N asserted for 10 s sets the stuck flag and raises an alarm; the port stays in reset. -/
  | perstStuck (p : Port)
  /-- PEER_ALIVE_CHANGE (R411): An accepted change of PEER_ALIVE moves the peer state, so that deassertion in MIRRORED or PARTITIONED starts takeover. -/
  | peerAliveChange (alive : Bool) (at_ : Nat)
  /-- PEER_ALIVE_TIMEOUT (R411): A head at READY without a peer link enters TAKEOVER once PEER_ALIVE has read deasserted for 2 s continuously. -/
  | peerAliveTimeout
  /-- CHAIN_HEAD_TAKEN (R101): CHAIN_IN low for the first 1 ms after reset exit gives the chip position 0 and the head role. -/
  | chainHeadTaken
  /-- CHAIN_HEAD_FRAME_SEND (R101): Every 10 ms from boot step 9, the chain head sends a frame carrying its position, straps and enclosure. -/
  | chainHeadFrameSend
  /-- CHAIN_FRAME_RECEIVED (R105): A chain frame is received and decoded at the common version; the chip takes or checks its position and enclosure and forwards the frame. -/
  | chainFrameReceived (lows : List Nat) (at_ : Nat)
  /-- CHAIN_NO_FRAME_TIMEOUT (R105): No valid frame within 100 ms of boot step 9 sets CHAIN_IN_STUCK and CHAIN_FAULT; no position is taken. -/
  | chainNoFrameTimeout
  /-- DOMAIN_SWITCH_ON_REQUEST (R42): A request to switch on a power domain is granted under the four-ramp limit or refused during power fail and vault flush. -/
  | domainSwitchOnRequest (d : Fin 64)
  /-- DOMAIN_SWITCH_OFF_REQUEST (R42): A request to switch off a power domain clamps its outputs and opens its gate, or is refused while work remains in it. -/
  | domainSwitchOffRequest (d : Fin 64) (idle : Bool)
  /-- DOMAIN_RAMP_DONE (R42): A domain's switch-on time ends; its clamps release, its repairs are applied and waiting switch-on requests proceed. -/
  | domainRampDone (d : Fin 64)
  /-- PORT_DOMAIN_JUDGE (R531): 100 ms after a port domain is switched on, it is judged in use or unused, and an unused domain is switched off again. -/
  | portDomainJudge (d : Fin 64) (signal : Bool)
  /-- UNUSED_DOMAIN_RETRY (R531): Every 10 s, one unused port domain is switched on again for a new judgement. -/
  | unusedDomainRetry (d : Fin 64)
  /-- REFCLK_LOST (R53): A PCIe, Ethernet or media reference out of range for 10 µs takes its ports down, fences them and raises an alarm. -/
  | refclkLost (r : RefClk) (reading : W32)
  /-- REFCLK_RESTORED (R53): A lost reference that has been back for 1 ms lets its ports retrain. -/
  | refclkRestored (r : RefClk)
  /-- CRYSTAL_LOST (R53): Loss of the crystal moves the always-on timer onto the divided system reference without losing a count, and raises an alarm. -/
  | crystalLost (reading : W32)
  /-- CRYSTAL_SWITCHOVER (R45): After 65,536 stable crystal cycles, the always-on timer switches from the system reference to the crystal. -/
  | crystalSwitchover
  /-- SYSREF_LOST (R53): Loss of the system reference asserts FAULT_N and holds the chip in reset without a vault. -/
  | sysrefLost (reading : W32)
  /-- SYSREF_RESTORED (R53): The system reference back within tolerance for 1 ms ends the hold, and the chip leaves reset and boots. -/
  | sysrefRestored
  /-- RAIL_ALARM (R500): The on-die monitor reads a rail outside its tolerance for 10 µs; the alarm is raised and a class 0x06 error record is written. -/
  | railAlarm (rail : Fin 11) (mV : W32)
  /-- RAIL_RESTORED (R500): A rail within tolerance for 1 ms clears RAIL_ALARM. -/
  | railRestored (rail : Fin 11)
  /-- TEMP_SAMPLE (R62): Every 100 µs the die and HBM sensors are read and compared with the alert, throttle and critical thresholds. -/
  | tempSample (dies hbm : List Byte)
  /-- LIFE_COUNT_TICK (R66): Once a second, elapsed time weighted by the Arrhenius factor is added to the life-consumption count. -/
  | lifeCountTick
  /-- AON_HOUR_TICK (R29): The always-on timer advances the millisecond count and, at the end of each hour, the powered-hours count. -/
  | aonHourTick (elapsed : Nat)
  /-- LANE_EYE_CHECK (R68): A periodic eye-margin check of a lane; two successive failures mark the lane for spare substitution. -/
  | laneEyeCheck (d : Fin 64) (lane : Fin 16) (ok : Bool)
  -- Start-up and replay (03, 08, 17)
  /-- IMAGE_VERIFY_DONE (R83): Digest and signature verification of a streamed image ends; the loader accepts and jumps, or records FAIL_CODE and tries the next region. -/
  | imageVerifyDone (t : ImageType) (o : ImageObs)
  /-- HBM_TRAINING_DONE (R72): Training of the four HBM3E stacks completes during boot. -/
  | hbmTrainingDone
  /-- DDR_TRAINING_DONE (R24): DDR5 training ends and the population is checked; a refused population holds the chip not ready with FAULT_N asserted. -/
  | ddrTrainingDone (dimms : List Dimm) (ok : Bool)
  /-- CONTROL_CORE_START (R72): Once both memories are trained and the control-core image verified, the unit domains are switched on and firmware starts on cluster 0. -/
  | controlCoreStart
  /-- VAULT_REPLAY (R275): At boot step 16, the newest valid vault bank is read and its dirty data, descriptors and mirror copies are restored. -/
  | vaultReplay (anchor : AnchorRead) (bad : BitVec 5) (unread : List (Nat × Nat)) (found : VaultFound)
  /-- JOURNAL_REPLAY (R261): Record groups after the latest COMPACT are applied in GSEQ order up to the first invalid group, at boot or takeover. -/
  | journalReplay (supers : List SuperCopy) (unpowered : List (Nat × Nat × Nat))
  /-- PRIMARY_REGION_RESTORE (R525): After READY from the staging region, stage 1 copies the staging region over the primary region. -/
  | primaryRegionRestore
  -- Host ports (04)
  /-- HOT_RESET (R112): Hot reset of a host port releases its semaphores, disables its rings and resets its registers. -/
  | hotReset (p : Port)
  /-- FUNCTION_LEVEL_RESET (R112): Function-level reset of a host port releases its semaphores and resets its registers within 100 ms. -/
  | functionLevelReset (p : Port)
  /-- DATA_LINK_DOWN (R112): Loss of a control port's data-link layer releases its semaphores, sets LINK_RELEASED and disables its rings. -/
  | dataLinkDown (p : Port)
  /-- HOST_LINK_UP (R110): A host port completes link training; an alarm is raised when it runs slower or narrower than 64 GT/s x16. -/
  | hostLinkUp (p : Port) (speed : BitVec 4) (width : BitVec 5)
  /-- BUS_MASTER_ENABLE_CLEARED (R112): Clearing Bus Master Enable stops ring fetching and holds responses. -/
  | busMasterEnableCleared (p : Port)
  /-- BUS_MASTER_ENABLE_SET (R128): Setting Bus Master Enable again writes the responses held meanwhile. -/
  | busMasterEnableSet (p : Port)
  -- Semaphores, mailboxes and registers (04)
  /-- SEM_READ (R116): A read of SEM_n grants a free semaphore to the reading port and renews its lease, or reports the owner. -/
  | semRead (n : Fin 64) (who : Readers)
  /-- SEM_RELEASE_WRITE (R117): A write of 0 to SEM_n.LOCKED from the owner releases the semaphore; other writes count as foreign writes. -/
  | semReleaseWrite (p : Port) (n : Fin 64) (v : W32)
  /-- SEM_LEASE_RENEW (R118): Any write to SEM_LEASE_RENEW resets the port's lease to LEASE × 100 ms. -/
  | semLeaseRenew (p : Port)
  /-- SEM_LEASE_EXPIRY (R118): The lease runs out and every semaphore the port holds is released, with SEM_LOST, SEM_FREED and an alarm for semaphore 0. -/
  | semLeaseExpiry (p : Port)
  /-- MBX_IMM_DOORBELL (R124): A write of MBX_IMM_DOORBELL submits the immediate request, which is checked for length and executed, unless BUSY is 1 and it is discarded. -/
  | mbxImmDoorbell (p : Port) (len : BitVec 13)
  /-- MBX_IMM_DEFERRED_SERVE (R124): A doorbell accepted before SERVED is served once the service processor starts serving the mailbox at boot step 10. -/
  | mbxImmDeferredServe (p : Port)
  /-- MBX_REQ_TAIL (R127): A write of the request ring tail is the doorbell; misaligned values set TAIL_ERR and are discarded. -/
  | mbxReqTail (p : Port) (v : BitVec 20)
  /-- RING_REQUEST_FETCH (R127): The device fetches the next request from the request ring while OUTSTANDING is below the version limit and a session is open. -/
  | ringRequestFetch (p : Port) (got : Option MbxMsg)
  /-- MBX_RSP_HEAD (R128): A write of the response ring head frees space, so that a stalled response is written and fetching resumes. -/
  | mbxRspHead (p : Port) (v : BitVec 20)
  /-- MBX_RING_CTRL_WRITE (R128): A write of ENABLE starts or stops the rings; enabling while not IDLE is refused and counted. -/
  | mbxRingCtrlWrite (p : Port) (v : W32)
  /-- MAILBOX_RESPONSE (R128): A command completes; its response is written to the response ring or the immediate buffer, the tail advances and an interrupt is raised. -/
  | mailboxResponse (p : Port) (ring : Bool) (tag : W32)
  /-- INT_ENABLE_WRITE (R134): A write of INT_ENABLE that makes an enable and a pending cause both 1 sends the cause's MSI-X message. -/
  | intEnableWrite (p : Port) (v : W32)
  /-- BAR0_ACCESS_ERROR (R12): A narrow, misaligned or unmapped BAR0 write, or a misaligned read, is discarded or returns zero and is counted in CHIP_ACCESS_ERR. -/
  | bar0AccessError (p : Port) (offset : BitVec 20) (kind : AccessErr)
  /-- REGISTER_WRITE (R14): A write to a register that has no row of its own takes effect under its access code: RW, W1C, or ignored. -/
  | registerWrite (t : RegTarget) (wide : Bool) (v : W64)
  /-- REGISTER_RC_READ (R14): A read of an RC field returns its value and clears it. -/
  | registerRcRead (t : RegTarget) (size : Fin 4)
  /-- REGISTER_LOW_HALF_READ (R13): A 32-bit read of the low half of a 64-bit register latches its high half for the next read from the same port. -/
  | registerLowHalfRead (p : Port) (off : BitVec 20)
  -- Session and chip commands (04)
  /-- MAILBOX_HELLO (R130): Opens or renews the port's mailbox session at the highest common version. -/
  | mailboxHello (h : MbxHdr) (minV maxV : Byte) (hostId : W64)
  /-- CHIP_INFO_GET (R137): Returns chip identity, firmware versions, memory sizes and the modules present. -/
  | chipInfoGet (h : MbxHdr)
  /-- BOOT_STATUS_GET (R137): Returns CHIP_BOOT_STATUS and CHIP_NODE_ID. -/
  | bootStatusGet (h : MbxHdr)
  /-- NODE_ENCLOSURE_SET (R106): Sets the chain head's enclosure number, held until reset and refused while the chip is a cluster member. -/
  | nodeEnclosureSet (h : MbxHdr) (enclosure : Byte)
  /-- HOST_PORT_CONFIG (R111): Selects x16 or x8+x8 mode for a host port, kept in the always-on domain and applied at its next fundamental reset. -/
  | hostPortConfig (h : MbxHdr) (port mode : Byte)
  /-- ALARM_LIST (R499): Returns a run of alarm slots. -/
  | alarmList (h : MbxHdr) (first count : Byte)
  /-- ALARM_ACK (R499): Acknowledges an alarm slot when COUNT_SEEN matches, clearing UNACKED or emptying the slot. -/
  | alarmAck (h : MbxHdr) (kind : Byte) (seen : W32)
  /-- ERROR_QUEUE_READ (R495): Returns error records from FIRST_SEQ, and releases older records when the port holds the control semaphore. -/
  | errorQueueRead (h : MbxHdr) (first : W32) (max_ : W16)
  -- Trust (03)
  /-- FUSE_READ (R138): Returns the readable fuse fields and the debug state. -/
  | fuseRead (h : MbxHdr)
  /-- FUSE_NONCE_GET (R90): Issues a new nonce for signed fuse and debug commands, expiring the previous one. -/
  | fuseNonceGet (h : MbxHdr)
  /-- FUSE_OWNER_KEY_PROGRAM (R89): Programs a public key's hash into a blank owner slot after the signed-command checks. -/
  | fuseOwnerKeyProgram (h : MbxHdr) (slot : Byte) (key : List Byte) (g : Signed) (bad : Option (Fin 7))
  /-- FUSE_OWNER_KEY_REVOKE (R89): Blows the REVOKE bit of an owner slot after the signed-command checks. -/
  | fuseOwnerKeyRevoke (h : MbxHdr) (slot : Byte) (g : Signed) (blown : BitVec 3)
  /-- FUSE_ROLLBACK_ADVANCE (R91): Blows the next anti-rollback bit when the target, the update state and the running SECURITY_VERSION allow it. -/
  | fuseRollbackAdvance (h : MbxHdr) (target : Byte) (blown : BitVec 3)
  /-- FUSE_DEBUG_PERMANENT (R92): Blows DEBUG_PERMANENT under a signed command. -/
  | fuseDebugPermanent (h : MbxHdr) (g : Signed) (blown : BitVec 3)
  /-- DEBUG_UNLOCK (R93): Zeroes every key slot and opens debug until reset under a signed token. -/
  | debugUnlock (h : MbxHdr) (g : Signed)
  /-- ATTEST_REPORT (R96): Signs an attestation report over the nonce and writes it with the certificate chain to the host buffer, rate limited. -/
  | attestReport (h : MbxHdr) (nonce : List Byte) (addr : W64) (len : W32) (ok : Bool)
  /-- RECOVERY_LOAD (R84): Streams one image into its load target in the recovery state and verifies it. -/
  | recoveryLoad (h : MbxHdr) (imageType : W16) (len : W32) (addr : W64) (got : Option ImageObs)
  -- Firmware update (17)
  /-- FW_STAGE (R514): Reads and checks a Damfa bundle and builds its images into the staging region. -/
  | fwStage (h : MbxHdr) (addr : W64) (len flags : W32) (got : Option (List Byte))
  /-- FW_STAGING_DONE (R515): The staged images are written and verified in the NOR; the update record goes to STAGED. -/
  | fwStagingDone (ok : Bool)
  /-- FW_ACTIVATE_HITLESS (R519): FW_ACTIVATE MODE 0 loads the new control-core image and hands control from one half of the control cores to the other. -/
  | fwActivateHitless (h : MbxHdr)
  /-- FW_HANDOVER_FREEZE (R519): After the new image is loaded and started, control work freezes, the state passes to the new image and the health window opens. -/
  | fwHandoverFreeze (ok : Bool)
  /-- FW_ACTIVATE_NEXT_START (R522): FW_ACTIVATE MODE 1 exchanges the two image regions so that the new images run from the next start. -/
  | fwActivateNextStart (h : MbxHdr) (mode : Byte)
  /-- FW_CONFIRM (R526): Confirms the trial firmware and makes the two regions agree in the background. -/
  | fwConfirm (h : MbxHdr)
  /-- FW_REGIONS_SYNCED (R517): The background copy makes the regions agree; STATE becomes SETTLED and the bridge firmware push is checked. -/
  | fwRegionsSynced
  /-- FW_STATUS_GET (R517): Returns the update STATE, the running and staged versions and the window left. -/
  | fwStatusGet (h : MbxHdr)
  /-- FW_ABORT (R528): Discards a staged or armed bundle, or starts fallback during a trial. -/
  | fwAbort (h : MbxHdr)
  /-- FW_WINDOW_EXPIRY (R523): The 600 s health window ends without FW_CONFIRM and fallback starts. -/
  | fwWindowExpiry
  /-- FW_HEARTBEAT_GAP (R523): Control cores miss their heartbeat for 100 ms during a trial, and fallback starts. -/
  | fwHeartbeatGap
  -- Pools and modules (09)
  /-- POOL_CREATE (R288): Creates a pool with its first layout, superblocks and ANA group and returns its capacity. -/
  | poolCreate (h : MbxHdr) (pool k m : Byte) (map : BitVec 96)
  /-- POOL_DELETE (R288): Marks an empty pool DELETING and trims its members in the background. -/
  | poolDelete (h : MbxHdr) (pool : Byte)
  /-- MEMBER_TRIM_DONE (R288): The background trim of a releasing module ends and the module becomes free. -/
  | memberTrimDone (module : Fin 96)
  /-- POOL_QUERY (R289): Returns a pool's geometry, state, lost and exposed stripe counts and capacity. -/
  | poolQuery (h : MbxHdr) (pool : Byte)
  /-- POOL_MODULE_ADD (R306): Assigns replacement modules to failure-list entries and starts copy-back. -/
  | poolModuleAdd (h : MbxHdr) (pool : Byte) (map : BitVec 96)
  /-- POOL_RESHAPE (R308): Creates a target layout and starts a Topiary reshape. -/
  | poolReshape (h : MbxHdr) (pool k m : Byte) (map : BitVec 96)
  /-- MODULE_QUERY (R290): Returns a module's state, pool, port status, capacity and wear. -/
  | moduleQuery (h : MbxHdr) (module : Byte)
  /-- MODULE_RETIRE (R307): Retires a free module at once, or adds a member to the failure list for copy-out. -/
  | moduleRetire (h : MbxHdr) (module : Byte)
  -- Volumes, slices, keys and snapshots (05, 06, 13, 14)
  /-- VOLUME_CREATE (R210): Creates a namespace in a slice and pool with its fixed reduction policy and key index. -/
  | volumeCreate (h : MbxHdr) (nsid : W32) (slice : W16) (pool unit : Byte) (size : W64) (compress level : Byte) (key : W32)
  /-- VOLUME_DELETE (R422): Deletes a volume and its snapshots unless a replication relationship names it. -/
  | volumeDelete (h : MbxHdr) (nsid : W32)
  /-- VOLUME_RESIZE (R153): Changes a namespace's size; a shrink first locks the removed range exclusively. -/
  | volumeResize (h : MbxHdr) (nsid : W32) (size : W64)
  /-- VOLUME_QUERY (R239): Returns a volume's slice, pool, size, used logical and physical bytes and poisoned ranges. -/
  | volumeQuery (h : MbxHdr) (nsid : W32)
  /-- SLICE_CREATE (R197): Creates a slice with its binding, reservations and vector window. -/
  | sliceCreate (h : MbxHdr) (slice : W16) (bindType : Byte) (bind qp ns : W32)
  /-- SLICE_RESIZE (R197): Changes a slice's queue-pair reservation, namespace allowance and weight on both heads. -/
  | sliceResize (h : MbxHdr) (slice : W16) (qp ns : W32) (permille : W16)
  /-- SLICE_RESET (R198): Stops, drains or squashes every command of a slice and returns its controllers to their initial state. -/
  | sliceReset (h : MbxHdr) (slice : W16) (mode : Byte)
  /-- SLICE_RESET_DRAIN_TIMEOUT (R198): Commands still outstanding 1 s into a drain reset are squashed. -/
  | sliceResetDrainTimeout (slice : Fin 4096)
  /-- SLICE_DELETE (R201): Squash-resets an empty slice and releases its resources. -/
  | sliceDelete (h : MbxHdr) (slice : W16)
  /-- SLICE_DIRTY_LOG_START (R203): Clears the slice's dirty-page log and begins marking pages. -/
  | sliceDirtyLogStart (h : MbxHdr) (slice : W16) (op : Byte)
  /-- SLICE_DIRTY_LOG_HARVEST (R203): Writes the marked chunks to the buffer and clears them. -/
  | sliceDirtyLogHarvest (h : MbxHdr) (slice : W16) (addr : W64) (len : W32) (ok : Bool)
  /-- SLICE_DIRTY_LOG_STOP (R203): Waits for earlier commands, harvests and ends dirty-page logging. -/
  | sliceDirtyLogStop (h : MbxHdr) (slice : W16) (addr : W64) (len : W32) (late ok : Bool)
  /-- KEY_LOAD (R449): Loads a wrapped tenant key into the wrapped key table after its checks. -/
  | keyLoad (h : MbxHdr) (index : W32) (kind : Nat) (wrapped : List Byte)
  /-- KTWK_LOAD (R446): KEY_LOAD at index 0xFFFF_FFFF provisions the KTWK, seals it under the DSK and writes the KTWK record. -/
  | ktwkLoad (h : MbxHdr) (wrapped : List Byte)
  /-- KEY_ROTATE (R448): Adds a new generation for a key index and sets FIRST_UNIT for each pool. -/
  | keyRotate (h : MbxHdr) (index : W32) (wrapped : List Byte)
  /-- KTWK_ROTATE (R446): KEY_ROTATE at index 0xFFFF_FFFF installs a new KTWK and re-wraps the whole key table within 5 s. -/
  | ktwkRotate (h : MbxHdr) (wrapped : List Byte)
  /-- KEY_DESTROY (R449): Zeroes the slots of a key index and removes its entry and generations. -/
  | keyDestroy (h : MbxHdr) (index : W32)
  /-- KEY_QUERY (R448): Returns a key's kind, state, uses and limit. -/
  | keyQuery (h : MbxHdr) (index : W32)
  /-- SNAPSHOT_CREATE (R419): Takes an exclusive entry over the namespace and cuts a new epoch when it is granted. -/
  | snapshotCreate (h : MbxHdr) (nsid : W32)
  /-- SNAPSHOT_CUT_TIMEOUT (R419): A snapshot entry not granted within 40 ms is removed and the command refused with BUSY. -/
  | snapshotCutTimeout (n : Nat)
  /-- SNAPSHOT_SEALED (R420): Every write before the cut has committed its map update, so the snapshot is sealed. -/
  | snapshotSealed (epoch : Nat)
  /-- SNAPSHOT_DELETE (R422): Removes a snapshot view at once and frees its pages in the background. -/
  | snapshotDelete (h : MbxHdr) (nsid : W32) (epoch : W64)
  /-- CLONE_CREATE (R421): Makes a writable volume that shares the source's pages at an epoch. -/
  | cloneCreate (h : MbxHdr) (src new : W32) (epoch : W64)
  -- Replication, peer, cluster, network and governor commands (12, 13, 16)
  /-- REPL_CREATE (R430): Binds a source volume to a target volume by REPL_OPEN and starts a full copy. -/
  | replCreate (h : MbxHdr) (nsid : W32) (mode : Byte) (target : W16) (remote interval : W32)
  /-- REPL_CONTROL_PAUSE (R437): REPL_CONTROL OP 0 pauses a relationship. -/
  | replControlPause (h : MbxHdr) (nsid : W32) (op : Byte)
  /-- REPL_CONTROL_RESUME (R437): REPL_CONTROL OP 1 resumes a relationship. -/
  | replControlResume (h : MbxHdr) (nsid : W32)
  /-- REPL_CONTROL_STOP (R437): REPL_CONTROL OP 2 stops a relationship and deletes its snapshots and translation table. -/
  | replControlStop (h : MbxHdr) (nsid : W32)
  /-- REPL_CONTROL_REPAIR (R436): REPL_CONTROL OP 3 starts repair from the replica for every poisoned range of the volume. -/
  | replControlRepair (h : MbxHdr) (nsid : W32)
  /-- REPL_QUERY (R437): Returns a relationship's state, lag and last committed epoch. -/
  | replQuery (h : MbxHdr) (nsid : W32)
  /-- REPL_CYCLE_DUE (R433): INTERVAL_MS elapses and an async cycle starts, or waits behind the running one. -/
  | replCycleDue (rel : Nat)
  /-- PEER_STATUS_GET (R411): Returns the peer state, Jalras status, heartbeat age and mirrored bytes. -/
  | peerStatusGet (h : MbxHdr)
  /-- FAILOVER_TAKE_OVER (R416): FAILOVER OP 0 takes the peer's pools by handover, or by forced takeover when partitioned. -/
  | failoverTakeOver (h : MbxHdr) (op : Byte)
  /-- FAILOVER_GIVE_BACK (R416): FAILOVER OP 1 hands the pools that the peer created back to the peer. -/
  | failoverGiveBack (h : MbxHdr)
  /-- CLUSTER_JOIN (R428): Joins a cluster through a seed node and returns the members once the view is accepted. -/
  | clusterJoin (h : MbxHdr) (clusterId : W64) (seed : W16)
  /-- CLUSTER_LEAVE (R428): Leaves the cluster once a quorum acknowledges the view without the node. -/
  | clusterLeave (h : MbxHdr)
  /-- NET_PORT_CONFIG (R370): Sets a network port's breakout, MTU and lossless priorities, and retrains it. -/
  | netPortConfig (h : MbxHdr) (port breakout pfc : Byte) (mtu : W16)
  /-- NET_PORT_QUERY (R372): Returns a network port's state, breakout, links up and FEC counts. -/
  | netPortQuery (h : MbxHdr) (port : Byte) (corrected uncorrected : Nat)
  /-- GOV_SHARES_SET (R486): Sets an activity's share and ceiling, journaled pair-wide and applied at the next period. -/
  | govSharesSet (h : MbxHdr) (activity : Byte) (share ceiling : W16)
  /-- STATS_GET (R339): Writes a counter group to a host buffer. -/
  | statsGet (h : MbxHdr) (g : W16) (addr : W64) (len : W32) (ok : Bool)
  /-- STATS_GET_TRACE (R502): Exports and removes the oldest trace entries of one path, limited by the telemetry balance. -/
  | statsGetTrace (h : MbxHdr) (path : Fin 8) (addr : W64) (len : W32) (wrote : List TraceEnt) (ok : Bool)
  -- Sideband (03, 16)
  /-- MCTP_SET_ENDPOINT_ID (R97): MCTP control message that assigns the endpoint ID. -/
  | mctpSetEndpointId (m : SideMsg) (op : BitVec 2) (eid : Byte)
  /-- MCTP_GET_ENDPOINT_ID (R97): MCTP control message that returns the endpoint ID. -/
  | mctpGetEndpointId (m : SideMsg)
  /-- MCTP_GET_VERSION_SUPPORT (R97): MCTP control message that returns the supported versions. -/
  | mctpGetVersionSupport (m : SideMsg) (type : Byte)
  /-- MCTP_GET_MESSAGE_TYPE_SUPPORT (R97): MCTP control message that returns the message types 0x00, 0x01 and 0x7E. -/
  | mctpGetMessageTypeSupport (m : SideMsg)
  /-- SMBUS_ARP (R98): SMBus Address Resolution Protocol assigns the target address from a UDID built from DEVICE_UID. -/
  | smbusArp (m : SideMsg) (c : ArpCmd)
  /-- PLDM_GET_TID (R97): PLDM GetTID request. -/
  | pldmGetTid (m : SideMsg)
  /-- PLDM_GET_PLDM_VERSION (R97): PLDM GetPLDMVersion request. -/
  | pldmGetPldmVersion (m : SideMsg) (type : Byte)
  /-- PLDM_GET_PLDM_TYPES (R97): PLDM GetPLDMTypes request. -/
  | pldmGetPldmTypes (m : SideMsg)
  /-- PLDM_GET_PLDM_COMMANDS (R97): PLDM GetPLDMCommands request. -/
  | pldmGetPldmCommands (m : SideMsg) (type : Byte)
  /-- PLDM_SENSOR_READ (R97): PLDM monitoring read of a numeric sensor for temperature, power or life consumption. -/
  | pldmSensorRead (m : SideMsg) (x : Sensor)
  /-- POLL_FOR_PLATFORM_EVENT_MESSAGE (R498): PLDM poll that returns the lowest pending alarm notification as an OEM event and clears it. -/
  | pollForPlatformEventMessage (m : SideMsg)
  /-- MOLZON_ATTESTATION_REQUEST (R99): MCTP type 0x7E code 0x01 carries an attestation request as R96 defines it. -/
  | molzonAttestationRequest (m : SideMsg) (nonce : List Byte)
  /-- MOLZON_ALARM_NOTIFICATION_REQUEST (R498): MCTP type 0x7E code 0x02 returns the lowest pending alarm slot and clears its notification. -/
  | molzonAlarmNotificationRequest (m : SideMsg)
  /-- MOLZON_BOOT_STATUS_REQUEST (R99): MCTP type 0x7E code 0x03 returns CHIP_BOOT_STATUS and CHIP_NODE_ID. -/
  | molzonBootStatusRequest (m : SideMsg) (code : Byte)
  -- Test access port (02)
  /-- JTAG_BYPASS (R71): IEEE 1149.1 BYPASS instruction. -/
  | jtagBypass
  /-- JTAG_SAMPLE_PRELOAD (R71): SAMPLE/PRELOAD instruction on the boundary cells. -/
  | jtagSamplePreload (cells : List Bool)
  /-- JTAG_EXTEST (R71): EXTEST, accepted only while RESET_N is asserted, otherwise executed as BYPASS. -/
  | jtagExtest
  /-- JTAG_IDCODE (R71): IDCODE instruction returns the version and part number. -/
  | jtagIdcode
  /-- JTAG_CLAMP (R71): CLAMP, accepted only while RESET_N is asserted. -/
  | jtagClamp
  /-- JTAG_HIGHZ (R71): HIGHZ, accepted only while RESET_N is asserted. -/
  | jtagHighz
  /-- JTAG_EXTEST_PULSE (R71): IEEE 1149.6 EXTEST_PULSE, accepted only while RESET_N is asserted. -/
  | jtagExtestPulse
  /-- JTAG_EXTEST_TRAIN (R71): IEEE 1149.6 EXTEST_TRAIN, accepted only while RESET_N is asserted. -/
  | jtagExtestTrain
  -- NVMe commands (05)
  /-- SQ_TAIL_DOORBELL (R156): A write of a submission queue tail doorbell makes new commands available for fetching in queue order. -/
  | sqTailDoorbell (g : PageId) (sq : Nat) (v : W32)
  /-- CQ_HEAD_DOORBELL (R145): A write of a completion queue head doorbell frees completion queue entries. -/
  | cqHeadDoorbell (g : PageId) (cq : Nat) (v : W32)
  /-- CC_WRITE (R200): A host write of CC on a slice doorbell page enables or resets one controller; it is discarded while the slice resets. -/
  | ccWrite (g : PageId) (v : W32)
  /-- NVME_COMMAND_FETCH (R157): A command is fetched, checked in order, given a Privet entry and started, or completed with a status. -/
  | nvmeCommandFetch (ctrl sq : Nat) (e : SubEntry)
  /-- DELETE_IO_SUBMISSION_QUEUE (R147): Admin command that deletes an I/O submission queue. -/
  | deleteIoSubmissionQueue (ctrl cid qid : Nat)
  /-- CREATE_IO_SUBMISSION_QUEUE (R197): Admin command that creates an I/O submission queue against the slice reservation. -/
  | createIoSubmissionQueue (ctrl cid qid size cqid : Nat) (contiguous : Bool) (base : W64) (prio : Fin 4)
  /-- GET_LOG_PAGE (R148): Admin command that returns a supported log page. -/
  | getLogPage (ctrl cid lid off len : Nat) (ptr : DataPtr)
  /-- DELETE_IO_COMPLETION_QUEUE (R147): Admin command that deletes an I/O completion queue. -/
  | deleteIoCompletionQueue (ctrl cid qid : Nat)
  /-- CREATE_IO_COMPLETION_QUEUE (R158): Admin command that creates a completion queue whose IV lies in the slice's vector window. -/
  | createIoCompletionQueue (ctrl cid qid size : Nat) (contiguous : Bool) (base : W64) (iv : Option Nat)
  /-- IDENTIFY (R153): Admin command that returns controller or namespace data for the supported CNS values. -/
  | identify (ctrl cid cns nsid : Nat) (ptr : DataPtr)
  /-- ABORT (R164): Removes a command still waiting for its lock, or reports that a running command was not aborted. -/
  | abort (ctrl cid sq tcid : Nat)
  /-- SET_FEATURES (R149): Admin command that sets a supported feature. -/
  | setFeatures (ctrl cid fid : Nat) (v : W32) (data : List Byte) (ptr : DataPtr)
  /-- GET_FEATURES (R149): Admin command that returns a supported feature. -/
  | getFeatures (ctrl cid fid : Nat) (arg : W32) (ptr : DataPtr)
  /-- ASYNCHRONOUS_EVENT_REQUEST (R175): Admin command held until a notice completes it. -/
  | asynchronousEventRequest (ctrl cid : Nat)
  /-- KEEP_ALIVE (R154): Admin command that restarts the keep-alive timer. -/
  | keepAlive (ctrl cid : Nat)
  /-- KEEP_ALIVE_TIMEOUT (R154): The keep-alive timer expires and the controller ends under NVMe rules. -/
  | keepAliveTimeout (ctrl : Nat)
  /-- FORMAT_NVM (R147): Admin command that switches the LBA format of a namespace whose NUSE is 0. -/
  | formatNvm (ctrl cid nsid lbaf ses : Nat)
  /-- CONNECT (R191): Fabrics Connect resolves the Host NQN to a slice and creates a controller or a queue. -/
  | connect (qp cntlid qid size : Nat) (attr : ConnAttr) (host sub : List Byte)
  /-- PROPERTY_GET (R146): Fabrics command that reads a controller property. -/
  | propertyGet (ctrl cid off : Nat)
  /-- PROPERTY_SET (R146): Fabrics command that writes a controller property. -/
  | propertySet (ctrl cid off : Nat) (v : W32)
  /-- DISCONNECT (R200): Fabrics Disconnect ends one controller's queue or connection. -/
  | disconnect (ctrl qid cid : Nat)
  /-- FLUSH (R179): Completes after earlier writes to its namespace, and reports an unreported deferred error with Write Fault. -/
  | flush (id : Nat)
  /-- WRITE (R30): Stages the data whole in the Carafe, mirrors it and completes once the peer acknowledges it. -/
  | write (id : Nat)
  /-- READ (R32): Returns data from the Carafe or from flash through decode, decrypt and decompress. -/
  | read (id : Nat)
  /-- WRITE_UNCORRECTABLE (R170): Poisons the blocks of its range. -/
  | writeUncorrectable (id : Nat)
  /-- COMPARE (R147): Compares the host data with the stored data under a shared lock. -/
  | compare (id : Nat) (host : Option (List Nat))
  /-- COMPARE_AND_WRITE (R159): Fused compare and write under one exclusive entry; the write is skipped on miscompare. -/
  | compareAndWrite (id : Nat) (host : Option (List Nat))
  /-- WRITE_ZEROES (R159): Maps its range to zeroes and holds its lock until its group commits. -/
  | writeZeroes (id : Nat)
  /-- DATASET_MANAGEMENT (R159): Deallocates its ranges one at a time, each under its own exclusive lock. -/
  | datasetManagement (id : Nat)
  /-- VERIFY (R147): Reads and checks its range without transfer. -/
  | verify (id : Nat)
  -- Write path, Grinder, journals and pools at work (05, 07, 08, 09)
  /-- PRIVET_LOCK_GRANT (R160): A waiting Privet entry is granted once no earlier conflicting entry remains, and its command proceeds. -/
  | privetLockGrant (n : Nat)
  /-- WRITE_ADMISSION (R244): A waiting write is admitted to staging in sequence order once its granules fit and a descriptor is free. -/
  | writeAdmission
  /-- WRITE_STAGED_WHOLE (R166): The last byte of a write arrives and its length check passes; the staging is marked whole and the mirror is issued. -/
  | writeStagedWhole (id : Nat) (got : Option (List Nat))
  /-- BATCH_CLOSE (R208): A batch closes 10 µs after its first unit when no further unit of its volume has arrived, and is dispatched. -/
  | batchClose (nsid : Nat)
  /-- INDEX_LOOKUP (R218): A lookup-and-insert operation on a fingerprint pair runs once the pair lock is granted. -/
  | indexLookup (batch i : Nat) (damage : IndexDamage)
  /-- BATCH_DONE (R209): A lane finishes a batch, or reports a lane error under which the batch is redone on another lane. -/
  | batchDone (id : Nat) (res : Option (List (List Byte)))
  /-- DECOMPRESS_DONE (R237): A decompressor finishes a unit; a decode or CRC error is retried, rebuilt or marks the unit lost. -/
  | decompressDone (unit : Nat) (lane : Fin 40) (failures : Fin 4)
  /-- COLD_DEDUP_MATCH (R233): The cold pass finds two records with equal digests and makes one unit an alias of the other. -/
  | coldDedupMatch (a b : Nat) (idle : Bool)
  /-- SEGMENT_CLOSE (R292): A gathering segment closes because a group does not fit, 50 ms have passed or dirty data is above 90 %; its stripe is written. -/
  | segmentClose (pool : Fin 8) (gather : Nat)
  /-- JOURNAL_GROUP_COMMIT (R258): A record group whole here and acknowledged by the peer commits in GSEQ order, and its writes are released. -/
  | journalGroupCommit
  /-- COMPACTION_START (R259): Compaction starts when the live journal exceeds 256 MiB or 2 s have passed, and writes changed pages to flash. -/
  | compactionStart (idle : Bool)
  /-- COMPACTION_PAGES_PROGRAMMED (R259): The compacted pages are programmed; the COMPACT record commits and frees ring space. -/
  | compactionPagesProgrammed
  /-- SCRATCHPAD_CONVERT (R253): A 4 MiB step of cache ways is written back, invalidated and zeroed and becomes scratchpad. -/
  | scratchpadConvert
  /-- SCRATCHPAD_RETURN (R253): A scratchpad way is zeroed and returned to the cache. -/
  | scratchpadReturn
  /-- VAULT_FLUSH_DONE (R273): Every sent vault strip is acknowledged; seals are written, domains are switched off and VAULTED is asserted. -/
  | vaultFlushDone
  /-- OPEN_SEGMENT_CHECK (R277): With the vault unreadable and the peer gone, every open-list stripe is parity-checked and suspect stripes are poisoned. -/
  | openSegmentCheck (pool : Fin 8) (bad : List Nat)
  /-- MEMBER_FAILED (R291): A member unreachable from both heads, or reported failed, is added to the failure list and rebuild begins. -/
  | memberFailed (module : Fin 96)
  /-- REBUILD_SEGMENT (R300): Rebuild reads k surviving strips of an exposed segment and writes every missing strip to its target. -/
  | rebuildSegment (pool : Fin 8) (seg : Nat) (idle : Bool)
  /-- SEGMENT_RELEASE (R295): A segment without live units is trimmed and its number returned to the free list. -/
  | segmentRelease (pool : Fin 8) (seg : Nat)
  /-- TOPIARY_MOVE (R310): Topiary copies an old-layout segment's live slots into the target layout and releases the old segment. -/
  | topiaryMove (pool : Fin 8) (seg : Nat) (idle : Bool)
  /-- RESHAPE_SWITCH_OVER (R311): The target layout becomes current in one POOL record, and modules outside it are trimmed. -/
  | reshapeSwitchOver (pool : Fin 8)
  -- Kamard link (10)
  /-- KAMARD_SIGNAL_DETECT (R328): Signal on a Kamard port in DETECT moves it to ACQUIRE and training. -/
  | kamardSignalDetect (port : Fin 96) (oneLane : Bool)
  /-- KAMARD_ACQUIRE_DONE (R328): Equalisers converge and the port sends HELLO. -/
  | kamardAcquireDone (port : Fin 96)
  /-- KAMARD_ACQUIRE_TIMEOUT (R328): 30 ms without convergence returns the port to DETECT, or sends it DOWN after 3 attempts. -/
  | kamardAcquireTimeout (port : Fin 96)
  /-- KAMARD_HELLO_RETRY (R328): No HELLO reply within 1 ms resends HELLO; after 100 ms the port goes DOWN. -/
  | kamardHelloRetry (port : Fin 96)
  /-- KAMARD_HELLO_REPLY (R329): A HELLO reply settles the version and the serial number and leads to CLAIM or UP. -/
  | kamardHelloReply (port : Fin 96) (version limit : Nat) (serial fw : W64)
  /-- KAMARD_MODULE_INFO_RESPONSE (R343): The module descriptor arrives and is checked, along with the module and die temperatures. -/
  | kamardModuleInfoResponse (port : Fin 96) (tag : Nat) (d : Descr) (temp dieTemp : Byte)
  /-- KAMARD_CLAIM_RESPONSE (R334): A CLAIM answer moves the link to UP, or its OWNER_FENCED makes the head stop writing the pool. -/
  | kamardClaimResponse (port : Fin 96) (tag : Nat) (st : KStatus) (held : W32)
  /-- KAMARD_READ_RESPONSE (R331): A READ response delivers hard or soft codeword planes to the LDPC decoders. -/
  | kamardReadResponse (port : Fin 96) (tag : Nat) (st : KStatus) (slots : List KSlot)
  /-- KAMARD_PROGRAM_RESPONSE (R359): A PROGRAM answer sets the strip's WRITTEN bit, or handles PROGRAM_FAIL and DIE_FAULT. -/
  | kamardProgramResponse (port : Fin 96) (tag : Nat) (st : KStatus) (temp : Byte) (held : W32)
  /-- KAMARD_ERASE_RESPONSE (R350): An ERASE answer frees the block, or retires it on ERASE_FAIL. -/
  | kamardEraseResponse (port : Fin 96) (tag : Nat) (st : KStatus) (held : W32)
  /-- KAMARD_THRESH_LOAD_RESPONSE (R357): A THRESH_LOAD answer confirms that a threshold set was loaded on a die. -/
  | kamardThreshLoadResponse (port : Fin 96) (tag : Nat) (st : KStatus)
  /-- KAMARD_VAULT_PROGRAM_RESPONSE (R273): A VAULT_PROGRAM answer acknowledges a vault strip. -/
  | kamardVaultProgramResponse (port : Fin 96) (tag : Nat) (st : KStatus)
  /-- KAMARD_VAULT_ERASE_RESPONSE (R274): A VAULT_ERASE answer reports a vault bank erased, which lets writes wait no longer for admission. -/
  | kamardVaultEraseResponse (port : Fin 96) (tag : Nat) (st : KStatus)
  /-- KAMARD_BRIDGE_FW_WRITE_RESPONSE (R337): A BRIDGE_FW_WRITE answer acknowledges a slice of the bridge image. -/
  | kamardBridgeFwWriteResponse (port : Fin 96) (tag : Nat) (st : KStatus)
  /-- KAMARD_BRIDGE_FW_ACTIVATE_RESPONSE (R337): A BRIDGE_FW_ACTIVATE answer precedes the bridge restart. -/
  | kamardBridgeFwActivateResponse (port : Fin 96) (tag : Nat) (st : KStatus)
  /-- BRIDGE_RESTART_TIMEOUT (R337): A bridge that does not return within 1 s of activation is declared failed. -/
  | bridgeRestartTimeout (port : Fin 96)
  /-- KAMARD_ACK (R325): A link-control ACK releases the acknowledged frames cumulatively. -/
  | kamardAck (port : Fin 96) (next : W16)
  /-- KAMARD_NAK (R325): A NAK makes the sender resend every unacknowledged frame from the named SEQ. -/
  | kamardNak (port : Fin 96) (seq : W16)
  /-- KAMARD_FRAME_DROPPED (R324): A burst with failed marks, CRC or length is dropped whole and a NAK is sent. -/
  | kamardFrameDropped (port : Fin 96) (fault : FrameFault)
  /-- KAMARD_RETRANSMIT_TIMEOUT (R325): 10 µs without acknowledgement resends the unacknowledged frames. -/
  | kamardRetransmitTimeout (port : Fin 96)
  /-- KAMARD_KEEPALIVE (R325): A side with nothing to send returns an ACK within 1 µs and sends a frame at least every 100 µs. -/
  | kamardKeepalive (port : Fin 96)
  /-- KAMARD_LINK_LOSS (R326): 500 µs without a frame, or a lasting frame fault, enters RETRAIN. -/
  | kamardLinkLoss (port : Fin 96)
  /-- KAMARD_RETRAIN_DONE (R318, R328): A retrain within 1 ms returns the port to UP and resends its frames; a second failure sends it DOWN. -/
  | kamardRetrainDone (port : Fin 96) (how : RetrainEnd)
  /-- KAMARD_DOWN_RETRY (R328): A management request, or a signal seen after 1 s, returns a DOWN port to DETECT. -/
  | kamardDownRetry (port : Fin 96) (management : Bool)
  -- Flash (11)
  /-- PAGE_VERIFY (R352): Once wordline w + 1 is programmed or 200 ms have passed, a page is hard-read for verification. -/
  | pageVerify (module : Fin 96) (page : Nat) (res : List DecodeResult)
  /-- LDPC_DECODE_DONE (R353): A decoder finishes a codeword; failure escalates to the next stage, or to the repeat of all stages. -/
  | ldpcDecodeDone (module : Fin 96) (cw : Nat) (res : DecodeResult) (offsets : List Int)
  /-- BAND_IDLE_CLOSE (R347): A band with no write for 1 h is closed with filler codewords. -/
  | bandIdleClose (module : Fin 96) (inReloc : Bool)
  /-- MODULE_INFO_POLL (R356): Every 1 s MODULE_INFO is sent to read the module temperatures. -/
  | moduleInfoPoll (module : Fin 96)
  /-- BLOCK_RECLAIM (R361): A source block's valid strips are copied to the RELOC band, verified, remapped and the block erased. -/
  | blockReclaim (module : Fin 96) (block_ : Nat) (idle : Bool)
  /-- SEGMENT_CLEANING (R362): Live units of a sparsely used segment are moved into gathering segments so the segment can be released. -/
  | segmentCleaning (pool : Fin 8) (seg : Nat) (idle : Bool)
  /-- SCRUB_PAGE (R365): Scrubbing hard-reads a closed-band page and queues relocation when the trigger is met. -/
  | scrubPage (module : Fin 96) (page : Nat) (idle : Bool)
  -- Network (12)
  /-- NET_LINK_DOWN (R370): A logical network port goes down; its datagram paths go DOWN and its queue pairs fail over. -/
  | netLinkDown (l : Fin 32)
  /-- NET_LINK_UP (R372): A logical network port comes up and joins spraying. -/
  | netLinkUp (l : Fin 32)
  /-- ARP_REQUEST (R372): The device answers ARP for its logical port address. -/
  | arpRequest (l : Fin 32) (target : W32)
  /-- NEIGHBOR_SOLICITATION (R372): The device answers IPv6 Neighbor Discovery. -/
  | neighborSolicitation (l : Fin 32) (target : BitVec 128)
  /-- ICMP_ECHO (R372): The device answers ICMP echo. -/
  | icmpEcho (l : Fin 32) (dst : IpAddr)
  /-- CM_MAD (R377): An RDMA connection manager MAD on QP1 sets up or tears down a connection. -/
  | cmMad (kind : CmKind) (setup : FwSetup)
  /-- ROCE_SEND (R379): An incoming RoCE SEND is judged by PSN and placed in the posted receive. -/
  | roceSend (pk : RocePkt)
  /-- ROCE_SEND_WITH_IMMEDIATE (R377): An incoming SEND with Immediate is placed and completed with its immediate value. -/
  | roceSendWithImmediate (pk : RocePkt)
  /-- ROCE_SEND_WITH_INVALIDATE (R377): An incoming SEND with Invalidate is placed and invalidates the named key. -/
  | roceSendWithInvalidate (pk : RocePkt)
  /-- ROCE_RDMA_WRITE (R399): An incoming RDMA WRITE is checked against its region key and placed. -/
  | roceRdmaWrite (pk : RocePkt)
  /-- ROCE_RDMA_READ_REQUEST (R379): An incoming RDMA READ request is executed from the region's current contents. -/
  | roceRdmaReadRequest (pk : RocePkt)
  /-- ROCE_READ_RESPONSE (R377): An RDMA READ response arrives for this device's request and its data is placed. -/
  | roceReadResponse (n psn : Nat) (data : List Byte) (cmd : Option Nat)
  /-- ROCE_ACK (R379): A RoCE acknowledgement completes the acknowledged work requests. -/
  | roceAck (n psn : Nat)
  /-- ROCE_NAK (R374): A RoCE NAK triggers a go-back retransmission or an RNR wait. -/
  | roceNak (n psn : Nat) (why : RoceNak) (cmd : Option Nat)
  /-- ROCE_CNP (R400): A CNP halves the queue pair's rate at most once per 50 µs. -/
  | roceCnp (n : Nat)
  /-- RATE_INCREASE_TICK (R400): Each 55 µs without a CNP raises the rate by 1 % of the port rate. -/
  | rateIncreaseTick (r : RateOf)
  /-- QP_CONTEXT_FETCHED (R378): A queue-pair context arrives from DDR5 and the packets parked for it are processed. -/
  | qpContextFetched (n : Nat)
  /-- QP_RETRANSMIT_TIMEOUT (R374): A queue pair's wait ends and the request is resent, or fails with RETRY_EXCEEDED after the seventh retry. -/
  | qpRetransmitTimeout (n : Nat)
  /-- WR_SEND (R395): A posted SEND work request is transmitted. -/
  | wrSend (q : NetQ) (wr : WorkReq)
  /-- WR_WRITE (R395): A posted WRITE work request is transmitted. -/
  | wrWrite (q : NetQ) (wr : WorkReq)
  /-- WR_READ (R395): A posted connected-class READ work request is issued. -/
  | wrRead (qp : Nat) (wr : WorkReq)
  /-- WR_SEND_WITH_INVALIDATE (R395): A posted SEND with Invalidate work request is transmitted. -/
  | wrSendWithInvalidate (qp : Nat) (wr : WorkReq)
  /-- WR_NOP (R395): A posted NOP work request only completes and counts its trigger. -/
  | wrNop (q : NetQ) (wr : WorkReq)
  /-- RECEIVE_BUFFER_POST (R394): Firmware posts a receive buffer at the tail of an endpoint's receive queue. -/
  | receiveBufferPost (q : NetQ) (b : RecvBuf) (setup : FwSetup)
  /-- DATAGRAM_DATA (R388): A DATA packet is checked, placed at its offset and completes its message when all bytes are in. -/
  | datagramData (l : Fin 32) (pk : DataPkt)
  /-- DATAGRAM_ACK (R385): An ACK marks packets delivered, and with DONE completes the sender's work request. -/
  | datagramAck (l : Fin 32) (node : Nat) (session id base : W32) (bitmap : W64) (done echo : Bool)
  /-- DATAGRAM_NAK (R385): A NAK ends the attempt or fails the message according to its reason. -/
  | datagramNak (l : Fin 32) (node : Nat) (session id : W32) (why : NakReason)
  /-- DATAGRAM_HELLO (R381): A HELLO from a peer settles the version and paths and resets the window on a new session. -/
  | datagramHello (l : Fin 32) (node lo hi paths : Nat) (session peerSession : W32)
  /-- DATAGRAM_HELLO_REPLY (R382): A HELLO_REPLY completes the session setup with a peer. -/
  | datagramHelloReply (l : Fin 32) (node version paths : Nat) (session : W32)
  /-- DATAGRAM_HELLO_RETRY (R382): HELLO is resent every 1 ms and abandoned with an alarm after 100 ms. -/
  | datagramHelloRetry (node : Nat)
  /-- DATAGRAM_PROBE (R387): A PROBE on a path is answered with PROBE_REPLY. -/
  | datagramProbe (l : Fin 32) (node path : Nat)
  /-- DATAGRAM_PROBE_REPLY (R387): A PROBE_REPLY returns a SUSPECT or DOWN path to UP. -/
  | datagramProbeReply (l : Fin 32) (node path : Nat)
  /-- DATAGRAM_RETRANSMIT_TIMEOUT (R374): A packet's wait ends; it is resent on another path, its path becomes SUSPECT, or the message fails. -/
  | datagramRetransmitTimeout (node : Nat) (id : W32) (i : Nat)
  /-- DATAGRAM_ACK_DUE (R385): 2 µs after the first unacknowledged packet, the receiver sends an ACK. -/
  | datagramAckDue (node : Nat) (id : W32)
  /-- PATH_PROBE_TIMEOUT (R387): An unanswered PROBE on a SUSPECT path sends a second PROBE, and then takes the path DOWN. -/
  | pathProbeTimeout (node path : Nat)
  /-- PATH_DOWN_PROBE (R387): Every 1 ms a PROBE is sent on a DOWN path. -/
  | pathDownProbe (node path : Nat)
  /-- REASSEMBLY_EXPIRY (R389): An entry with no packet for 32.5 ms is freed and its buffer returned to the head of its receive queue. -/
  | reassemblyExpiry (node : Nat) (id : W32)
  -- Peer link (13)
  /-- JALRAS_HELLO (R410): A Jalras HELLO settles the link and journal versions and checks the partner's identity. -/
  | jalrasHello (sub : Fin 4) (h : JalHello)
  /-- JALRAS_HELLO_REPLY (R410): A HELLO_REPLY completes the link; SERIALS follows and the peer state moves to JOINING. -/
  | jalrasHelloReply (sub : Fin 4) (h : JalHello)
  /-- JALRAS_HEARTBEAT (R412): A peer HEARTBEAT refreshes the heartbeat age, and FAIL_STOPPING in it starts takeover. -/
  | jalrasHeartbeat (rx : JalRx) (failStopping : Bool) (owned : Byte) (session : W32)
  /-- JALRAS_HEARTBEAT_SEND (R412): Every 100 µs a HEARTBEAT is sent on each up sub-link. -/
  | jalrasHeartbeatSend
  /-- VAULT_NOTICE (R411): A peer's VAULT_NOTICE starts takeover. -/
  | vaultNotice (rx : JalRx) (session : W32)
  /-- SERIALS (R315): The peer's module serial list is compared with this head's, and a mismatching module is taken down on both heads. -/
  | serials (rx : JalRx) (list : List W64)
  /-- OWNERSHIP (R415): An OWNERSHIP request or done message hands a pool between the heads with a new generation. -/
  | ownership (rx : JalRx) (pool : Fin 8) (done : Bool) (gen : W32)
  /-- RESYNC_DONE (R411): The peer's RESYNC_DONE, with every resync copy acknowledged, moves the state to MIRRORED. -/
  | resyncDone (rx : JalRx) (session : W32)
  /-- SIF_UPDATE (R264): A mirrored stripe-in-flight entry is stored and acknowledged with SIF_ACK. -/
  | sifUpdate (rx : JalRx) (seq : Nat) (x : Option Sif)
  /-- SIF_ACK (R264): The peer's acknowledgement of a stripe-in-flight change lets the next action proceed. -/
  | sifAck (rx : JalRx) (seq : Nat)
  /-- JOURNAL_GROUP (R258): A mirrored record group is stored in the peer ring and acknowledged with JOURNAL_ACK. -/
  | journalGroup (rx : JalRx) (gseq : Nat) (g : Group) (cfg : PairConfig)
  /-- JOURNAL_ACK (R258): The peer's acknowledgement lets a whole record group commit. -/
  | journalAck (rx : JalRx) (gseq : Nat)
  /-- RELEASE (R245): The peer releases the mirror copies of the named writes. -/
  | release (rx : JalRx) (seqs : List Nat)
  /-- MIRROR_DATA (R244): A mirror copy is admitted under the mirror limit, staged and acknowledged once whole. -/
  | mirrorData (rx : JalRx) (m : MirrorMsg)
  /-- MIRROR_ACK (R30): The peer's acknowledgement makes the named writes completable; completions are posted and locks released. -/
  | mirrorAck (rx : JalRx) (seqs : List Nat)
  /-- FORWARD_CMD (R162): A command forwarded from the other head takes its Privet entry at the owner and executes. -/
  | forwardCmd (rx : JalRx) (id slice : Nat) (e : Option SubEntry)
  /-- FORWARD_RSP (R162): The owner's completion for a forwarded command is returned to the host. -/
  | forwardRsp (rx : JalRx) (id sct sc : Nat) (err : Option (Nat × Nat)) (data : List Nat)
  /-- PROXY_MEDIA (R335): The peer issues a Kamard command with PROXY set on its own port for the owner. -/
  | proxyMedia (rx : JalRx) (module : Fin 96) (cmd : KCmd) (gen : W32)
  /-- PROXY_RSP (R335): The response to a proxied Kamard command returns to the owner. -/
  | proxyRsp (rx : JalRx) (module : Fin 96) (cmd : KCmd) (st : KStatus) (temp : Byte) (held : W32)
  /-- JALRAS_RETRANSMIT_TIMEOUT (R407): A frame unacknowledged after 4 µs is resent with those after it. -/
  | jalrasRetransmitTimeout (sub : Fin 4)
  /-- JALRAS_SUBLINK_LOSS (R407): 500 µs without a frame sends a sub-link to RETRAIN; failing twice takes it DOWN. -/
  | jalrasSublinkLoss (sub : Fin 4)
  /-- PEER_PARTITION_TIMEOUT (R411): 50 ms without a frame on every peer sub-link moves the state to PARTITIONED, or abandons JOINING. -/
  | peerPartitionTimeout
  -- Cluster and replication (13)
  /-- JOIN_REQUEST (R428): A node's request to join is passed to the leader, which starts a view change. -/
  | joinRequest (h : CluHdr) (uid : BitVec 128) (session : W32) (node minV maxV partner : Nat)
  /-- JOIN_ACCEPT (R428): The leader's acceptance completes CLUSTER_JOIN with the members. -/
  | joinAccept (h : CluHdr) (view leader : Nat) (members : Tbl Nat)
  /-- VIEW_UPDATE (R429): A new view adding or removing members is applied and acknowledged. -/
  | viewUpdate (h : CluHdr) (view : Nat) (changes : List ViewChange)
  /-- VIEW_ACK (R429): Acknowledgements that reach a quorum make the view change take effect. -/
  | viewAck (h : CluHdr) (view : Nat)
  /-- CLUSTER_PROBE_TICK (R429): Every 25 ms a member probes the next member of its rotation. -/
  | clusterProbeTick
  /-- CLUSTER_PROBE (R429): A cluster PROBE is answered with PROBE_ACK. -/
  | clusterProbe (h : CluHdr) (nonce : W64)
  /-- CLUSTER_PROBE_ACK (R429): A PROBE_ACK ends the probe of a member or cancels its suspicion. -/
  | clusterProbeAck (h : CluHdr) (nonce : W64)
  /-- CLUSTER_PROBE_TIMEOUT (R429): A direct probe unanswered after 10 ms leads to indirect probes; after 20 ms more, SUSPECT is sent. -/
  | clusterProbeTimeout (node : Nat)
  /-- PROBE_INDIRECT (R429): A member probes a target on another member's behalf. -/
  | probeIndirect (h : CluHdr) (target : Nat) (nonce : W64)
  /-- SUSPECT (R429): The leader notes a suspected member. -/
  | suspect (h : CluHdr) (node view : Nat)
  /-- SUSPECT_TIMEOUT (R429): 2 s after suspicion the leader removes the member by view change. -/
  | suspectTimeout (node : Nat)
  /-- LEAVE (R428): A member's LEAVE makes the leader remove it from the view. -/
  | leave (h : CluHdr)
  /-- TRAFFIC_KEY_PREVIOUS_EXPIRY (R426): 32.5 ms after a key generation change, the previous generation is no longer accepted. -/
  | trafficKeyPreviousExpiry (node : Nat)
  /-- REPL_OPEN (R430): The target checks a new relationship and answers REPL_OPEN_ACK. -/
  | replOpen (h : CluHdr) (rel src remote : Nat) (sync : Bool) (unitLog size : Nat) (kcv : List Byte)
  /-- REPL_OPEN_ACK (R430): The target's answer completes REPL_CREATE and starts the full copy. -/
  | replOpenAck (h : CluHdr) (rel : Nat) (status : W16)
  /-- REPL_DELTA (R433): The target receives changed map entries and answers with the units it lacks. -/
  | replDelta (h : CluHdr) (rel base epoch : Nat) (entries : List (Nat × WireEnt))
  /-- REPL_DELTA_ACK (R433): The source sends the missing units listed by the target. `idle`: log entry 42. -/
  | replDeltaAck (h : CluHdr) (rel : Nat) (missing : List Nat) (changed : List (Nat × Nat)) (idle : Bool)
  /-- REPL_UNITS (R435): The target re-encrypts and stores received units and updates its translation table. -/
  | replUnits (h : CluHdr) (rel base epoch : Nat) (units : List WireUnit)
  /-- REPL_COMMIT (R433): The target makes the built epoch current and answers REPL_COMMIT_ACK. -/
  | replCommit (h : CluHdr) (rel epoch : Nat)
  /-- REPL_COMMIT_ACK (R433): The source deletes the previous base snapshot and ends the cycle. -/
  | replCommitAck (h : CluHdr) (rel epoch : Nat)
  /-- REPAIR_REQUEST (R436): The partner answers poisoned ranges with base-epoch data in REPAIR_DATA. -/
  | repairRequest (h : CluHdr) (rel : Nat) (ranges : List (Nat × Nat))
  /-- REPAIR_DATA (R436): Repair data rewrites poisoned runs and clears their poison. -/
  | repairData (h : CluHdr) (rel : Nat) (entries : List (Nat × WireEnt)) (units : List WireUnit)
  /-- REPL_WRITE (R431): The target stages a synchronous write on both heads and answers REPL_WRITE_ACK. -/
  | replWrite (h : CluHdr) (rel off seq len : Nat) (data : List Nat)
  /-- REPL_WRITE_ACK (R431): The target's acknowledgement lets the source complete a synchronous write. -/
  | replWriteAck (h : CluHdr) (rel seq : Nat)
  -- Cipher, digest and signatures (14)
  /-- XTS_ENCRYPT (R443): A cipher descriptor with OP 1 encrypts one XTS data unit and counts a use. -/
  | xtsEncrypt (r : CipherReq)
  /-- XTS_DECRYPT (R455): A cipher descriptor with OP 2 decrypts one XTS data unit. -/
  | xtsDecrypt (r : CipherReq)
  /-- XTS_REENCRYPT (R451): A cipher descriptor with OP 3 decrypts and re-encrypts a slot under a target key and tweak in one pass. -/
  | xtsReencrypt (r : CipherReq)
  /-- GCM_OPEN (R457): A cipher descriptor with OP 4 opens a GCM context for its agent, or is refused with NO_CONTEXT. -/
  | gcmOpen (r : CipherReq)
  /-- GCM_DATA (R458): A cipher descriptor with OP 5 feeds AAD or data to an owned GCM context. -/
  | gcmData (r : CipherReq)
  /-- GCM_CLOSE (R456): A cipher descriptor with OP 6 closes a context and writes or checks the tag. -/
  | gcmClose (r : CipherReq)
  /-- RAW_ENCRYPT (R442): A cipher descriptor with OP 7 encrypts independent AES blocks. -/
  | rawEncrypt (r : CipherReq)
  /-- RAW_DECRYPT (R442): A cipher descriptor with OP 8 decrypts independent AES blocks. -/
  | rawDecrypt (r : CipherReq)
  /-- KEY_SLOT_FILL (R454): A needed key is unwrapped into the least recently used unpinned slot, or marked unusable on failure. -/
  | keySlotFill (index gen : Nat)
  /-- DGS_ALLOC (R463): A read of DGS_ALLOC grants the lowest free digest context to the reader, or reports none free. -/
  | dgsAlloc (agent : Nat)
  /-- DGS_CTX_OPEN (R459): A write of DGS_CTXn_CTRL.OPEN opens a digest context for the writer. -/
  | dgsCtxOpen (agent : Nat) (n : Fin 8) (v : DgsCtrl) (key : W32) (dest : BitVec 12)
  /-- DGS_CTX_CLOSE (R463): A write of DGS_CTXn_CTRL.CLOSE frees a digest context and clears its state. -/
  | dgsCtxClose (agent : Nat) (n : Fin 8)
  /-- DGS_CTX_LENGTH_WRITE (R459): A write of DGS_CTXn_LENGTH sets the message length, or fails the context when data is queued. -/
  | dgsCtxLengthWrite (agent : Nat) (n : Fin 8) (len : W64)
  /-- DGS_DATA_PORT_WRITE (R459): A write to a context's data port feeds message and padding bytes, with padding and overrun checks. -/
  | dgsDataPortWrite (agent : Nat) (n : Fin 8) (data : List Byte)
  /-- DGS_CTX_CMP (R461): A write of DGS_CTXn_CMP compares DIGEST with EXPECT and writes the result pair. -/
  | dgsCtxCmp (agent : Nat) (n : Fin 8) (expect : List Byte)
  /-- DGS_ECDSA_VERIFY (R462): START with OP 1 verifies a signature on brainpoolP384r1. -/
  | dgsEcdsaVerify (agent : Nat) (operands : List Byte)
  /-- DGS_ECDSA_SIGN (R462): START with OP 2 signs with the report key and self-verifies the result. -/
  | dgsEcdsaSign (agent : Nat) (operands : List Byte)
  /-- ECDSA_OPERATION_DONE (R462): The accelerator finishes and writes the result pair and DONE. -/
  | ecdsaOperationDone
  -- Utility DMA (15)
  /-- UDMA_OWNER_READ (R465): A read of UDMA_CHn_OWNER grants a free lendable channel to the reading port. -/
  | udmaOwnerRead (n : Fin 32) (who : Readers)
  /-- UDMA_OWNER_RELEASE (R465): A write of CLAIMED 0 from the owner disables and releases the channel. -/
  | udmaOwnerRelease (n : Fin 32) (p : Port)
  /-- UDMA_START (R470): A write of CTRL.START checks the configuration and starts or arms the channel. -/
  | udmaStart (n : Fin 32) (who : UdmaBy) (ctrl : W32)
  /-- UDMA_ENABLE_CLEAR (R477): A write of ENABLE 0 stops the channel without completing its run. -/
  | udmaEnableClear (n : Fin 32) (who : UdmaBy) (ctrl : W32)
  /-- UDMA_CQ_HEAD_WRITE (R476): A write of CQ_HEAD frees queue space and lets a stalled record be written. -/
  | udmaCqHeadWrite (n : Fin 32) (who : UdmaBy) (v : BitVec 12)
  /-- UDMA_TIMER_TICK (R473): A paced tick moves one burst, or counts in MISSED while the channel is busy. -/
  | udmaTimerTick (n : Fin 32)
  /-- UDMA_RUN_COMPLETE (R472): A run ends; its record, DONE, chain releases, interrupt and next run follow in order. -/
  | udmaRunComplete (n : Fin 32) (how : UdmaEnd)
  -- Errors, governor and recorder (16)
  /-- ERROR_DETECTED (R489): A detected error is recorded and repeated once, or, while the unit's handler is active, fences the unit. -/
  | errorDetected (e : ErrObs) (fatal : Option (Fin 3))
  /-- ERROR_REPEAT_RESULT (R489): The repeat of a failed operation ends; the fault is transient or lasting and the unit's rule applies. -/
  | errorRepeatResult (d : Fin 64) (pass : Bool)
  /-- HANDLER_TIMEOUT (R490): An error handler active for 10 ms takes the outcome as lasting. -/
  | handlerTimeout (d : Fin 64)
  /-- FENCED_UNIT_RETRY (R492): 1 s after a fence that produced a repair record, the domain is switched on and the unit self-tested. -/
  | fencedUnitRetry (d : Fin 64)
  /-- UNIT_SELF_TEST_DONE (R492): A repaired unit that passes its self-test returns to dispatch with a UNIT_RETURNED event. -/
  | unitSelfTestDone (d : Fin 64) (pass : Bool)
  /-- GOV_PERIOD_BOUNDARY (R482): Every 100 µs the governor recomputes capacities and refills every activity's balance. -/
  | govPeriodBoundary
  /-- EVR_RECORD_WRITTEN (R503): The NOR program of a record's MARK completes; the record is valid, INT_CAUSE.EVR is set and the next waiting record is written. -/
  | evrRecordWritten
  /-- EVR_CLEAR (R507): A write of EVR_CLEAR.CLEAR from the semaphore holder starts erasing the recorder partition. -/
  | evrClear (p : Port)
  /-- EVR_CLEAR_DONE (R507): The erase ends; RECORDER_CLEARED is written to slot 0 and the counters are reset. -/
  | evrClearDone
  /-- EVR_WINDOW_READ (R506): A read of EVR_WINDOW returns the slot at INDEX, or zeros with RETRY when the NOR is busy, and advances INDEX with AUTO_INC. -/
  | evrWindowRead (p : Port) (k : Fin 64)
  -- Further events
  /-- PERST_DEASSERT (R47): Deassertion of PERST_x_N takes one host port out of reset and starts its link training and the 100 ms limit for answering configuration requests. -/
  | perstDeassert (p : Port) (at_ : Nat)
  /-- RESET_HOLD_OFF_EXPIRY (R51): 450 ms after the first assertion of PWRFAIL_N a RESET_N latched during the flush takes effect even if VAULTED is not asserted. -/
  | resetHoldOffExpiry
  /-- CHAIN_IN_STUCK (R57): CHAIN_IN held at one level for 100 ms while the chain protocol expects traffic is judged stuck; the chain is treated as broken at this chip and an alarm raised. -/
  | chainInStuck (level : Bool)
  /-- KAMARD_NAK_REPEAT (R325): A receiver that sent a NAK resends it when the expected frame has not arrived 10 µs later. -/
  | kamardNakRepeat (port : Fin 96)
  /-- JALRAS_NAK (R407): A Jalras NAK for a gap makes the sender resend every unacknowledged frame from the named SEQ. -/
  | jalrasNak (sub : Fin 4) (seq : W32)
  /-- JALRAS_ACK_DUE (R404): A Jalras receiver acknowledges within 1 µs of a received frame. -/
  | jalrasAckDue (sub : Fin 4)
  /-- JALRAS_TRAINING_DONE (R405): A Jalras sub-link finishes its 40 ms training and sends HELLO, merging with its sibling when both reach the same partner. -/
  | jalrasTrainingDone (sub : Fin 4)
  /-- JALRAS_RETRAIN_DONE (R407): A Jalras sub-link in RETRAIN retrains within 1 ms and resumes, or after failing twice goes DOWN and its frames move to other sub-links. -/
  | jalrasRetrainDone (sub : Fin 4) (ok : Bool)
  /-- ROUTER_ADVERTISEMENT (R372): A received IPv6 Router Advertisement drives SLAAC address assignment on a logical port. -/
  | routerAdvertisement (l : Fin 32) (pre : BitVec 64) (autonomous : Bool) (valid preferred : W32)
  /-- DHCPV4_MESSAGE (R372): A received DHCPv4 reply assigns or confirms the IPv4 address of a logical port. -/
  | dhcpv4Message (l : Fin 32) (kind : DhcpKind) (ip lease : W32)
  /-- DHCPV4_LEASE_TIMER (R372): A DHCPv4 lease renewal or expiry timer runs out and the port renews or drops its address. -/
  | dhcpv4LeaseTimer (l : Fin 32)
  /-- PFC_FRAME (R371): A received PAUSE or PFC frame stops transmission on the port or priority for its pause time. -/
  | pfcFrame (l : Fin 32) (prio : Option (Fin 8)) (quanta : W16)
  /-- CLUSTER_JOIN_TIMEOUT (R428): CLUSTER_JOIN fails with NOT_FOUND when the seed does not answer in 40 ms, or with BUSY at 1.1 s without JOIN_ACCEPT, and then sends LEAVE. -/
  | clusterJoinTimeout (answered : Bool)
  /-- CLUSTER_LEAVE_TIMEOUT (R428): CLUSTER_LEAVE is refused with BUSY when the quorum has not acknowledged the new view within 1.1 s, and the node stays a member. -/
  | clusterLeaveTimeout
  /-- VIEW_CHANGE_TIMEOUT (R429): A leader that gets no quorum of VIEW_ACK within 1 s keeps the old view and raises CLUSTER_NO_QUORUM. -/
  | viewChangeTimeout
  /-- FW_ARMED (R522): The region exchange of a next-start activation ends; the record is written with STATE 6 and the command responds. -/
  | fwArmed (fail : Option (Fin 3))
  /-- INTERRUPT_COALESCING_TIMEOUT (R154): The interrupt coalescing time of a completion queue runs out and its MSI-X vector is sent. -/
  | interruptCoalescingTimeout (ctrl cq : Nat)
  /-- PCIE_COMPLETION_TIMEOUT (R488): A device read of host memory reaches its completion timeout; the command or transfer fails and a class 0x05 record with cause 0x04 is written. -/
  | pcieCompletionTimeout (r : HostRead)
  /-- CONFIGURATION_REQUEST (R73): A PCIe configuration read or write reaches a host port, answered with Request Retry Status before boot step 10 and served afterwards. -/
  | configurationRequest (p : Port) (upper : Bool) (q : CfgReq) (serves : Bool)
  /-- ATS_INVALIDATION_REQUEST (R110): An ATS Invalidate Request from the host drops cached translations and is completed. -/
  | atsInvalidationRequest (p : Port) (upper : Bool) (pasid : BitVec 20) (page : BitVec 52) (count : Nat) (itag : BitVec 5)
  /-- PAGE_REQUEST_GROUP_RESPONSE (R110): A PRI Page Request Group Response from the host lets a stalled translation proceed or fail. -/
  | pageRequestGroupResponse (p : Port) (group : BitVec 9) (granted : Bool)
  /-- VDD_AON_UP (R11): VDD_AON comes up; always-on fields take their aon values and the always-on timer starts on the system reference. -/
  | vddAonUp
  /-- VDD_AON_DOWN (R504): VDD_AON is removed and every always-on count, flag and suppressed-event count is lost. -/
  | vddAonDown
deriving DecidableEq, Repr

end Sys2Proof
end

