-- ==== Sys2Proof/Config.lean ====
section
/-! DEFINITION. Config.lean: the free values and the functions to which neither the spec nor a standard that it names gives a value.
A constant here has no body: nothing can be proved of its value, so a claim holds whatever it is. -/
namespace Sys2Proof.Config

/-- FREE VALUE: the n-th value that the spec leaves open in a run (random draws, undefined contents, unstated results), as a number that the reader cuts to the width it needs. The step reads it at `State.freeCtr` and advances the counter (log entry 1). -/
opaque freeValue : Nat → Nat

/-- Payload bytes of a firmware-private journal record, by its type (R256). -/
opaque privateBytes : Nat → Nat
/-- FREE VALUE: the content of a firmware-private journal record, by its type (R256). -/
opaque privateRecord : Nat → List Byte
/-- FREE VALUE: what the root page of a pool's on-flash map says, by the pool and THROUGH_GSEQ (R259): the spec names the page and not its layout (log entry 222). -/
opaque mapRootPage : Nat → Nat → List Byte
/-- ECDSA signature of a digest by a private scalar over brainpoolP384r1, whose k the device draws (R96, R441, R462). -/
opaque ecdsaSign : Nat → List Byte → List Byte
/-- FREE VALUE: how the stage-1 alias seed follows from the identity seed, the stage-1 measurement and the debug state, and a private scalar from a seed (R94): the spec names the inputs and not the derivation. -/
opaque aliasSeed : List Byte → List Byte → Bool → List Byte
opaque seedScalar : List Byte → Nat
/-- The DER certificate that an issuer's private scalar signs for a subject's public key, with the measurements that it names (R94); X.509 v3 defines it. -/
opaque certify : Nat → List Byte → List Byte → List Byte
/-- The check byte of a whole-row fuse row: a SEC-DED code over 56 bits (R85), which the spec does not give. -/
opaque secdedCheck : Nat → Byte
/-- The 448 parity bytes that a Kamard port appends to the 4,160 bytes of a codeword (R345): the spec gives the code no generator. -/
opaque ldpcParity : List Byte → List Byte
/-- FREE VALUE: Molzon's manufacturer code, which the BSDL file gives (R71). -/
opaque jtagManufacturer : BitVec 11
/-- The SMBus UDID that is built from DEVICE_UID (R97); the spec does not say how. -/
opaque smbusUdid : List Byte → List Byte

/-- FREE VALUE: the on-flash map root that a pool's superblock names before its first compaction (R285). -/
opaque mapRoot : Nat → Nat
/-- FREE VALUES: where the firmware places the DDR regions of R249 (base and size in units that R248 allows) and an item within a region (log entry 195). -/
opaque ddrRegion : Nat → Nat × Nat
opaque ddrItem : Nat → Nat → Nat
/-- FREE VALUES: the bytes of Identify Controller to which the spec gives no content, and the NGUID of a namespace of a cluster (log entry 183). -/
opaque identByte : Nat → BitVec 8
opaque nguid : BitVec 64 → Nat → BitVec 128

end Sys2Proof.Config
end

