-- ==== Sys2Proof/Machine/Operands.lean ====
section
/-! DEFINITION. Machine/Operands.lean: byte order and packing of the structures of the part (R7, R136), numbering of operands, signed readings. -/
namespace Sys2Proof.Machine
open Sys2Proof

/-- The n low bytes of a number, least significant first (R7). -/
def leBytes : Nat → Nat → List Byte
  | 0, _ => []
  | n + 1, v => BitVec.ofNat 8 v :: leBytes n (v / 256)

/-- The number that bytes spell, least significant first (R7). -/
def ofLe : List Byte → Nat
  | [] => 0
  | b :: bs => b.toNat + 256 * ofLe bs

def le8 (v : Nat) : List Byte := leBytes 1 v
def le16 (v : Nat) : List Byte := leBytes 2 v
def le32 (v : Nat) : List Byte := leBytes 4 v
def le64 (v : Nat) : List Byte := leBytes 8 v
/-- Reserved bytes are written as zero (R9). -/
def zeros (n : Nat) : List Byte := List.replicate n 0

/-- Bytes as they arrive: `dirty` names bytes that the sender did not leave zero, and of those `mask` says which bits are reserved; the others are as they are (R9). -/
def withReserved (mask : Nat → Byte) (dirty : List (Nat × Byte)) (l : List Byte) : List Byte :=
  l.zipIdx.map fun x => x.1 ||| (mask x.2 &&& ((dirty.find? fun d => d.1 = x.2).map (·.2)).getD 0)

/-- Cut or fill with zeros to n bytes. -/
def fit (n : Nat) (l : List Byte) : List Byte := l.take n ++ zeros (n - l.length)

/-- A byte read as two's complement (CHIP_TEMP, R114). -/
def tempOf (b : Byte) : Int := b.toInt

/-- The hottest of the readings of the logic-die sensors (R62). -/
def hottest : List Byte → Byte
  | [] => 0
  | [b] => b
  | b :: bs => let m := hottest bs; if tempOf m < tempOf b then b else m

/-- The other control port. -/
def otherPort : Port → Port
  | .a => .b
  | .b => .a

/-- 0 for port A, 1 for port B (R137 HOST_PORT_CONFIG, R508). -/
def portNum : Port → Nat
  | .a => 0
  | .b => 1

/-- SEM_n.OWNER coding (R115): 0 none, 1 port A, 2 port B. -/
def ownerNum : Option Port → Nat
  | none => 0
  | some .a => 1
  | some .b => 2

/-- STAGE coding (R75). -/
def stageNum : Stage → Nat
  | .rom => 0 | .fuses => 1 | .stage1Load => 2 | .stage1 => 3 | .training => 4 | .ccLoad => 5 | .units => 6
  | .vaultReplay => 7 | .journalReplay => 8 | .ready => 9 | .recovery => 14 | .halted => 15

/-- IMAGE_SRC coding (R75). -/
def srcNum : ImageSrc → Nat
  | .primary => 0 | .staging => 1 | .download => 2

/-- IMAGE_TYPE coding (R79). -/
def imageNum : ImageType → Nat
  | .stage1 => 1 | .controlCore => 2 | .bridge => 3

/-- Status code of a mailbox response (R135). -/
def statusNum : MStatus → Nat
  | .success => 0 | .invalidOpcode => 1 | .invalidField => 2 | .lengthMismatch => 3 | .helloRequired => 4
  | .versionUnsupported => 5 | .semNotHeld => 6 | .busy => 7 | .notReady => 8 | .noResource => 9 | .notFound => 10
  | .existsAlready => 11 | .inUse => 12 | .authFailed => 13 | .nonceInvalid => 14 | .refusedState => 15
  | .rollbackRefused => 16 | .rateLimited => 17 | .contextBusy => 18 | .noContext => 19 | .keyExhausted => 20
  | .dmaError => 21 | .aborted => 22 | .fenced => 23 | .debugLocked => 24 | .limitExceeded => 25
  | .imageInvalid => 26 | .internalError => 27

/-- Numbering of the references in R532; 0 is the system reference and 8 the crystal. -/
def refNum : RefClk → Nat
  | .pcieA => 1 | .pcieB => 2 | .eth0 => 3 | .eth1 => 4 | .media0 => 5 | .media1 => 6 | .media2 => 7

/-- FAIL_STOP CAUSE (R508). -/
def failStopNum : FailStopCause → Nat
  | .lockstep => 1 | .spSram => 2 | .collectorParity => 3 | .noSibling => 4 | .sysref => 5

/-- The domains of the host ports, peer ports, network ports and media quads (R41). -/
def hostDomain (p : Port) : Nat := 28 + portNum p
def peerDomain (i : Nat) : Nat := 30 + i
def netDomain (i : Nat) : Nat := 32 + i
def quadDomain (q : Nat) : Nat := 40 + q
/-- Media quad q holds Kamard ports 4q to 4q + 3 (R41). -/
def quadOf (module : Nat) : Nat := module / 4

/-- One bit of a mask as a mask. -/
def bit64 (n : Nat) : Mask64 := BitVec.ofNat 64 (2 ^ n)
def hasBit (m : Mask64) (n : Nat) : Bool := m.getLsbD n
def setBit (m : Mask64) (n : Nat) : Mask64 := m ||| bit64 n
def clrBit (m : Mask64) (n : Nat) : Mask64 := m &&& ~~~ bit64 n

/-- Number of bits of a mask that are 1, over its low n bits. -/
def countBits (m : Nat) : Nat → Nat
  | 0 => 0
  | n + 1 => countBits m n + (if m.testBit n then 1 else 0)

/-- The mask of the bits lo to lo + n - 1. -/
def maskOf (lo : Nat) : Nat → Mask64
  | 0 => 0
  | n + 1 => setBit (maskOf lo n) (lo + n)

/-- The bits of a number below n that are 1, rising. -/
def bitsOf (m : Nat) : Nat → List Nat
  | 0 => []
  | n + 1 => bitsOf m n ++ (if m.testBit n then [n] else [])

/-- CRC-8 with polynomial 0x07 and initial value 0 over bits, first bit first (R103). -/
def crc8 : List Bool → Byte → Byte
  | [], c => c
  | b :: bs, c =>
    let fb := c.getLsbD 7 != b
    let c' := c <<< 1
    crc8 bs (if fb then c' ^^^ 0x07 else c')

/-- The low n bits of a number, bit 0 first. -/
def lowBits (v : Nat) : Nat → List Bool
  | 0 => []
  | n + 1 => v.testBit 0 :: lowBits (v / 2) n

/-! ## Fields of structures as bytes (R78, R80) -/

/-- A little-endian field of a header: its offset and size. -/
def hdrNat (h : List Byte) (off size : Nat) : Nat := ofLe ((h.drop off).take size)

/-- The fields of a header (R80). -/
def hdrKeySlot (h : List Byte) : Nat := hdrNat h 0x0C 1
def hdrSecurity (h : List Byte) : Nat := hdrNat h 0x0D 1
def hdrVersion (h : List Byte) : W64 := BitVec.ofNat 64 (hdrNat h 0x10 8)
def hdrLength (h : List Byte) : Nat := hdrNat h 0x18 4
def hdrEntry (h : List Byte) : Nat := hdrNat h 0x1C 4
def hdrLoad (h : List Byte) : W64 := BitVec.ofNat 64 (hdrNat h 0x20 8)
def hdrUid (h : List Byte) : BitVec 128 := BitVec.ofNat 128 (hdrNat h 0x28 16)
def hdrKey (h : List Byte) : List Byte := (h.drop 0x38).take 97
def hdrSignature (h : List Byte) : List Byte := (h.drop 0xA0).take 96
def hdrDebugOnly (h : List Byte) : Bool := (hdrNat h 0x0A 2).testBit 0
def hdrDeviceBound (h : List Byte) : Bool := (hdrNat h 0x0A 2).testBit 1

/-- The header is absent: its MAGIC reads erased (R79). -/
def hdrAbsent (h : List Byte) : Bool := decide (hdrNat h 0 4 = 0xFFFFFFFF)

end Sys2Proof.Machine
end

