-- ==== Sys2Proof/Machine/State.lean ====
section
/-! DEFINITION. Machine/State.lean: the state of the part, plain data, and its value at reset. -/
namespace Sys2Proof.Machine
open Sys2Proof

/-- The ways a command can stop with a fault. -/
inductive Fault
  /-- No rule of the spec stops the block with a fault of this kind: raised by no meaning. Safe. -/
  | none
deriving DecidableEq, Repr

/-- The ways a command can be refused by the model. -/
inductive Refusal
  /-- The command has no meaning in the model yet, by its mnemonic. Safe. -/
  | notModelled (mnemonic : String)
  /-- An access to a DBG_ register while debug is open: the spec gives the block's range and lock and none of its registers (R113, R92). Raised by REGISTER_WRITE, REGISTER_RC_READ and REGISTER_LOW_HALF_READ. Safe. -/
  | dbgBlock (offset : Nat)
deriving DecidableEq, Repr

/-- The machine. A default value of a field is its value in State.reset. -/
structure State where
  /-- chip time in ns (R29) -/
  time : W64 := 0
  /-- MODEL'S OWN: how many free values have been taken (log entry 1) -/
  freeCtr : Nat := 0
  phase : Phase := .reset
  aon : Aon := {}
  cond : Conditioner := {}
  pins : OutPins := {}
  power : Power := {}
  phys : Physical := {}
  flush : Flush := {}
  /-- the boot NOR's repair and certificate partitions -/
  nor : Nor := {}
  boot : Boot := {}
  fuses : Fuses := {}
  trust : Trust := {}
  chain : Chain := {}
  side : Sideband := {}
  jtag : Jtag := {}
  /-- CHIP_STATUS.PEER_OK -/
  peerOk : Bool := false
  portA : PortRegs := {}
  portB : PortRegs := {}
  sems : Tbl Sem := []
  mbx : Mbx := {}
  gov : Gov := {}
  err : ErrQueue := {}
  alarms : Alarms := {}
  evr : Evr := {}
  traces : Tbl TraceRing := []
  slices : Tbl Slice := []
  host : Host5 := {}
  /-- namespaces by NSID -/
  ns : Tbl Ns := []
  grinder : Grinder := {}
  carafe : Carafe := {}
  journal : Journal := {}
  mapCache : MapCache := {}
  pools : Tbl Pool := []
  kports : Tbl KPort := []
  mods : Tbl Module := []
  /-- LDPC decoders 0 to 63 (R354) -/
  ldpc : Tbl Decoder := []
  /-- reads of the flash that commands and moves wait for, by number (R297, R300, R361) -/
  jobs : Tbl FlashJob := []
  peerState : PeerSt := .alone
  jal : Jalras := {}
  snaps : Snaps := {}
  cluster : Cluster := {}
  repls : Tbl Repl := []
  cipher : Cipher := {}
  net : Net := {}
  /-- utility DMA channels, by number -/
  chans : Tbl Chan := []
  fw : FwUpdate := {}
  /-- on-chip memory (HBM, DDR5, scratchpad) that work requests and utility DMA name by address -/
  onchip : Mem := []
  /-- MODEL'S OWN: the commands that wait, first in, first out -/
  pending : List Instr := []
  /-- MODEL'S OWN: what has left the part, oldest first -/
  out : List Out := []
deriving DecidableEq, Repr

/-- The part with VDD_AON up and held in reset, before its first power-good: every field at its reset value. -/
def State.reset : State := {}

end Sys2Proof.Machine
end

