-- ==== Sys2Proof/Machine/Flags.lean ====
section
/-! DEFINITION. Machine/Flags.lean: the registers of BAR0 as functions of the state: status words, flag fields and read values (R59, R75, R107, R114, R115, R123, R126, R133, R487, R506). -/
namespace Sys2Proof.Machine
open Sys2Proof

/-- A Bool as a bit at a place of a word. -/
def flag (n : Nat) (b : Bool) : Nat := if b then 2 ^ n else 0

/-- The register block of a control port. -/
def State.port (s : State) : Port → PortRegs
  | .a => s.portA
  | .b => s.portB

def State.setPort (s : State) : Port → PortRegs → State
  | .a, r => { s with portA := r }
  | .b, r => { s with portB := r }

def State.modPort (s : State) (p : Port) (f : PortRegs → PortRegs) : State := s.setPort p (f (s.port p))

/-- A semaphore; unlisted is free and never granted. -/
def State.sem (s : State) (n : Nat) : Sem := Tbl.getD s.sems n {}

/-- The semaphores that a port holds. -/
def State.heldBy (s : State) (p : Port) : List Nat := (s.sems.filter fun e => e.2.owner = some p).map (·.1)

/-- CHIP_STATUS as a port reads it (R114). -/
def chipStatus (s : State) (p : Port) : W32 :=
  let fenced := countBits s.power.fenced.toNat 64
  BitVec.ofNat 32 (flag 0 (s.boot.stage = .ready) + flag 1 s.pins.faultAsserted + flag 2 (s.phase = .flushing)
    + flag 3 (s.phys.throttle != 0) + flag 4 s.pins.tempAlert + flag 5 (fenced != 0) + flag 6 s.peerOk
    + flag 7 (s.port p).renegotiate + 256 * min 255 fenced)

/-! ## The fuse array (R85) -/

/-- A logical bit of the incremental area reads 1 when at least two of its three fuses are blown. -/
def Fuses.bit (f : Fuses) (i : Nat) : Bool :=
  (f.incr.getLsbD (3 * i) && f.incr.getLsbD (3 * i + 1)) || (f.incr.getLsbD (3 * i) && f.incr.getLsbD (3 * i + 2))
    || (f.incr.getLsbD (3 * i + 1) && f.incr.getLsbD (3 * i + 2))

/-- `n` logical bits from `lo` upward as a number. -/
def Fuses.bits (f : Fuses) (lo : Nat) : Nat → Nat
  | 0 => 0
  | n + 1 => (if f.bit lo then 1 else 0) + 2 * Fuses.bits f (lo + 1) n

def Fuses.rollback (f : Fuses) : W64 := BitVec.ofNat 64 (f.bits 0 64)
def Fuses.revoke (f : Fuses) : BitVec 4 := BitVec.ofNat 4 (f.bits 64 4)
def Fuses.debugLock (f : Fuses) : Bool := f.bit 68
def Fuses.debugPermanent (f : Fuses) : Bool := f.bit 69

/-- Blow fuses of a logical bit: a fuse only moves from intact to blown. -/
def Fuses.blow (f : Fuses) (i : Nat) (fuses : BitVec 3) : Fuses := { f with incr := f.incr ||| (fuses.setWidth 1024 <<< (3 * i)) }

/-- MFG_ID, the 21 bytes of rows 0 to 2. -/
def Fuses.mfg (f : Fuses) : List Byte :=
  leBytes 21 (f.uid.toNat + 2 ^ 128 * f.stepping.toNat + 2 ^ 132 * f.orderCode.toNat + 2 ^ 134 * (if f.extScreen then 1 else 0) + 2 ^ 135 * f.lot.toNat)

def OwnerSlot.rows (x : OwnerSlot) : List Byte := x.hash ++ [x.rsv]

/-- A row of FACTORY_REPAIR: its two 28-bit entries. -/
def Fuses.repairRow (f : Fuses) (n : Nat) : List Byte :=
  leBytes 7 ((f.factoryRepairs.getD (2 * n) 0).toNat + 2 ^ 28 * (f.factoryRepairs.getD (2 * n + 1) 0).toNat)

/-- The data bits of rows 0 to 239, seven bytes to a row. -/
def Fuses.data (f : Fuses) : List Byte :=
  f.mfg ++ fit 32 f.secret ++ fit 3 f.secretRsv ++ fit 48 f.vendorHash ++ [f.vendorRsv] ++ f.owner0.rows ++ f.owner1.rows ++ f.owner2.rows ++ f.owner3.rows
    ++ (List.range 168).flatMap f.repairRow ++ fit 168 f.trim ++ fit 35 f.reservedRows

/-- The 64 fuses of a row: data and check byte of a whole-row row, fuses of the incremental area (R85). -/
def Fuses.row (f : Fuses) (n : Nat) : W64 :=
  if n < 240 then
    let d := ofLe ((f.data.drop (7 * n)).take 7)
    BitVec.ofNat 64 (d + 2 ^ 56 * (Config.secdedCheck d).toNat)
  else (f.incr >>> (64 * (n - 240))).setWidth 64

/-- The anti-rollback value: the number of ROLLBACK bits that read 1 (R91). -/
def rollbackValue (s : State) : Nat := countBits s.fuses.rollback.toNat 64

/-- The chip is owned: an owner slot is programmed, whatever its state (R88). -/
def isOwned (s : State) : Bool :=
  s.fuses.owner0.programmed || s.fuses.owner1.programmed || s.fuses.owner2.programmed || s.fuses.owner3.programmed

/-- Debug is open now: opened under R93, or in the factory state of R92; the permanent state closes it. -/
def debugIsOpen (s : State) : Bool := !s.fuses.debugPermanent && (s.trust.debugOpen || !s.fuses.debugLock)

/-- Debug state of R92, by its fuses: 0 open, 1 locked, 2 permanent. A locked chip that DEBUG_UNLOCK opened is still in the locked state. -/
def debugState (s : State) : Nat :=
  if s.fuses.debugPermanent then 2 else if s.fuses.debugLock then 1 else 0

/-- CHIP_BOOT_STATUS (R75). -/
def bootStatus (s : State) : W32 :=
  BitVec.ofNat 32 (stageNum s.boot.stage + 16 * srcNum s.boot.src + 256 * s.boot.failCode.toNat
    + 2 ^ 16 * (s.boot.keySlot % 16) + 2 ^ 20 * (rollbackValue s % 16) + flag 24 (debugIsOpen s)
    + flag 25 (isOwned s) + flag 26 s.boot.replayed)

/-- The node ID and its validity (R106). -/
def nodeId (s : State) : Option Nat :=
  match s.chain.enclosure, s.chain.position with
  | some e, some p => some (e.toNat * 256 + s.boot.boardId.toNat * 16 + p.toNat)
  | _, _ => none

/-- CHIP_NODE_ID (R107). -/
def nodeIdReg (s : State) : W32 :=
  BitVec.ofNat 32 ((nodeId s).getD 0 + 2 ^ 16 * (s.chain.position.getD 0).toNat + 2 ^ 20 * s.boot.boardId.toNat
    + 2 ^ 24 * s.chain.version.toNat + flag 28 (nodeId s).isSome + flag 29 s.chain.position.isSome
    + flag 30 s.chain.head + flag 31 s.chain.fault)

/-- CHIP_INPUT_COND (R59), without the side effect of its RC field. -/
def inputCondReg (s : State) : W32 :=
  let c := s.cond
  BitVec.ofNat 32 (flag 0 c.pwrfail.level + flag 1 c.peerAlive.level + flag 2 c.chainIn.level + flag 3 c.perstA.level
    + flag 4 c.perstB.level + flag 8 c.pwrfail.chatter + flag 9 c.peerAlive.chatter + flag 10 c.chainIn.chatter
    + flag 11 c.perstA.chatter + flag 12 c.perstB.chatter + flag 16 c.pwrfail.stuck + flag 17 c.chainIn.stuck
    + flag 18 c.perstA.stuck + flag 19 c.perstB.stuck + 2 ^ 24 * c.ignoredEdges)

/-- CHIP_TEMP (R114). -/
def tempReg (s : State) : W32 :=
  BitVec.ofNat 32 (s.phys.dieMax.toNat + 256 * (hottest s.phys.hbm).toNat)

/-- CHIP_ID (R114). -/
def chipIdReg (s : State) : W32 :=
  BitVec.ofNat 32 (0x9600 + 2 ^ 16 * s.fuses.stepping.toNat + 2 ^ 20 * s.fuses.orderCode.toNat + flag 22 s.fuses.extScreen)

/-- CHIP_PORT as a port reads it (R114). -/
def chipPortReg (s : State) (p : Port) : W32 :=
  let r := s.port p
  BitVec.ofNat 32 (portNum p + flag 1 (s.port (otherPort p)).linkUp + flag 2 r.x8 + 16 * r.speed.toNat
    + 256 * r.width.toNat + flag 13 r.spareInUse)

/-- SEM_n as a read returns it (R115): the state before the read. -/
def semReg (s : State) (n : Nat) : W32 :=
  let m := s.sem n
  BitVec.ofNat 32 (flag 0 m.owner.isSome + 2 * ownerNum m.owner + 2 ^ 16 * m.grants.toNat)

/-- SEM_LEASE_STATUS (R115): REMAINING_MS is rounded up and is 0 without a running lease. -/
def leaseStatusReg (s : State) (p : Port) : W32 :=
  let r := s.port p
  let left := match r.leaseEnd with
    | some t => ceilDiv (t - s.time.toNat) 1000000
    | none => 0
  BitVec.ofNat 32 (left % 2 ^ 14 + flag 14 r.expired + flag 15 r.linkReleased + 2 ^ 16 * r.foreignWrites)

/-- A mask of semaphores (SEM_HELD, SEM_HELD_OTHER). -/
def semMask (s : State) (p : Port) : W64 := (s.heldBy p).foldl (fun m n => setBit m n) 0

/-- MBX_IMM_STATUS (R123). -/
def immStatusReg (s : State) (p : Port) : W32 :=
  let r := s.port p
  BitVec.ofNat 32 (flag 0 r.immBusy + flag 1 r.immDone + flag 2 r.immOverrun + flag 3 s.boot.served + 2 ^ 16 * r.immLast.toNat)

/-- A response of the port's ring waits to be written. -/
def ringWaiting (s : State) (p : Port) : Bool := s.mbx.done.any fun d => d.cmd.hdr.port = p && d.cmd.hdr.ring

/-- MBX_RING_STATUS.IDLE (R126): no command outstanding and no response waiting. -/
def ringIdle (s : State) (p : Port) : Bool := (s.port p).outstanding = 0 && !ringWaiting s p

/-- MBX_RING_STATUS (R126). -/
def ringStatusReg (s : State) (p : Port) : W32 :=
  let r := s.port p
  BitVec.ofNat 32 (flag 0 (ringIdle s p) + flag 1 r.fetchErr + flag 2 r.tailErr + flag 3 r.rspStall + 2 ^ 16 * r.outstanding)

/-- The size of a ring in bytes: LOG2_SIZE outside 14 to 20 acts as the nearer bound (R126). -/
def ringSize (cfg : BitVec 5) : Nat := 2 ^ max 14 (min 20 cfg.toNat)

/-- The boot NOR is programming or erasing: a record waits, a clear runs, or firmware is written (R503 to R507, R516). -/
def norBusyNow (s : State) : Bool := s.evr.norBusy || s.evr.buffer ≠ [] || s.evr.clearing.isSome

/-- EVR_STATUS (R506). -/
def evrStatusReg (s : State) : W32 :=
  BitVec.ofNat 32 (flag 0 (Tbl.has s.evr.slots 32766) + flag 1 s.evr.clearing.isSome + flag 2 s.evr.retry
    + flag 3 (norBusyNow s) + 256 * min 64 s.evr.buffer.length)

/-- The slots that the buffer's records have not yet filled lie after the next slot to write. -/
def evrNextToWrite (s : State) : Nat :=
  match s.evr.buffer with
  | r :: _ => r.index
  | [] => s.evr.nextSlot

/-- GOV_STATUS (R487). -/
def govStatusReg (priority : Bool) (s : State) : W32 :=
  BitVec.ofNat 32 (flag 0 priority + flag 1 (s.phys.throttle != 0) + 256 * s.phys.clockEighths)

/-- GOV_ACTa_CFG and GOV_ACTa_STAT (R487). -/
def govCfgReg (a : GovAct) : W32 := BitVec.ofNat 32 (a.share % 1024 + 2 ^ 16 * (a.ceiling % 1024))
def govStatReg (a : GovAct) : W32 :=
  BitVec.ofNat 32 (flag 0 a.waiting + flag 1 a.atCeiling + flag 2 a.stopped + 2 ^ 16 * a.waitPeriods)

end Sys2Proof.Machine
end

