-- ==== Sys2Proof/Machine/Standards.lean ====
section
/-! DEFINITION. Machine/Standards.lean: the published functions that the spec names: SHA-2 and HMAC (FIPS 180-4, FIPS 198-1), AES-256 with its XTS, GCM and key-wrap uses (FIPS 197, IEEE 1619, SP 800-38D, RFC 3394), brainpoolP384r1 (RFC 5639, FIPS 186-5), the cyclic codes, and Zstandard's decoder (RFC 8878). They are written from those standards (R213, R229, R231, R441; log entry 2); no proof has to unfold them. -/
namespace Sys2Proof.Config
open Sys2Proof

/-! ## Bytes and numbers -/

/-- The number that bytes spell, most significant first; and n bytes that spell a number. -/
def natBe (l : List Byte) : Nat := l.foldl (fun a b => a * 256 + b.toNat) 0
def bytesBe : Nat → Nat → List Byte
  | 0, _ => []
  | n + 1, x => BitVec.ofNat 8 (x / 256 ^ n) :: bytesBe n x
/-- The same, least significant first. -/
def natLe (l : List Byte) : Nat := l.foldr (fun b a => b.toNat + 256 * a) 0
def bytesLe : Nat → Nat → List Byte
  | 0, _ => []
  | n + 1, x => BitVec.ofNat 8 x :: bytesLe n (x / 256)

/-- A list in pieces of n, at most `fuel` of them. -/
def pieces (n : Nat) : Nat → List α → List (List α)
  | 0, _ => []
  | f + 1, l => if l.length = 0 then [] else l.take n :: pieces n f (l.drop n)

/-- Exclusive or of two byte strings, as long as the first. -/
def xorBytes (a b : List Byte) : List Byte := (a.zip (b ++ List.replicate a.length 0)).map fun x => x.1 ^^^ x.2

/-! ## SHA-2 (FIPS 180-4) and HMAC (FIPS 198-1) -/

def isPrime (n : Nat) : Bool := decide (2 ≤ n) && (List.range n).all fun d => decide (d < 2) || decide (n % d ≠ 0)
def primes : List Nat := (List.range 410).filter isPrime

/-- The greatest x below 2^n above a start whose k-th power does not exceed a number. -/
def rootGo (k num : Nat) : Nat → Nat → Nat
  | 0, x => x
  | n + 1, x => let y := x + 2 ^ n; rootGo k num n (if y ^ k ≤ num then y else x)

/-- The first w bits of the fractional part of a k-th root. -/
def rootBits (k w p : Nat) : Nat := rootGo k (p * 2 ^ (k * w)) (w + 5) 0 % 2 ^ w

/-- What sets the two word sizes apart: rotations and shifts of the four sigma functions, rounds. -/
structure ShaShape where
  w : Nat
  big0 : Nat × Nat × Nat
  big1 : Nat × Nat × Nat
  small0 : Nat × Nat × Nat
  small1 : Nat × Nat × Nat
  rounds : Nat
deriving DecidableEq, Repr

def sha32 : ShaShape := ⟨32, (2, 13, 22), (6, 11, 25), (7, 18, 3), (17, 19, 10), 64⟩
def sha64 : ShaShape := ⟨64, (28, 34, 39), (14, 18, 41), (1, 8, 7), (19, 61, 6), 80⟩

def rotr (w n x : Nat) : Nat := x / 2 ^ n + x % 2 ^ n * 2 ^ (w - n)
def bigSigma (w : Nat) (r : Nat × Nat × Nat) (x : Nat) : Nat := rotr w r.1 x ^^^ rotr w r.2.1 x ^^^ rotr w r.2.2 x
def smallSigma (w : Nat) (r : Nat × Nat × Nat) (x : Nat) : Nat := rotr w r.1 x ^^^ rotr w r.2.1 x ^^^ (x / 2 ^ r.2.2)

/-- The message schedule, newest word first. -/
def shaSchedule (c : ShaShape) : Nat → List Nat → List Nat
  | 0, l => l
  | n + 1, l => shaSchedule c n
      (((smallSigma c.w c.small1 (l.getD 1 0) + l.getD 6 0 + smallSigma c.w c.small0 (l.getD 14 0) + l.getD 15 0) % 2 ^ c.w) :: l)

/-- One round on the eight working words. -/
def shaRound (c : ShaShape) (v : List Nat) (kw : Nat × Nat) : List Nat :=
  match v with
  | [a, b, d, e, f, g, h, i] =>
    let m := 2 ^ c.w
    let t1 := i + bigSigma c.w c.big1 f + ((f &&& g) ^^^ ((m - 1 - f) &&& h)) + kw.1 + kw.2
    let t2 := bigSigma c.w c.big0 a + ((a &&& b) ^^^ (a &&& d) ^^^ (b &&& d))
    [(t1 + t2) % m, a, b, d, (e + t1) % m, f, g, h]
  | l => l

def shaBlock (c : ShaShape) (ks : List Nat) (h : List Nat) (block : List Byte) : List Nat :=
  let ws := (pieces (c.w / 8) 16 block).map natBe
  let sched := (shaSchedule c (c.rounds - 16) ws.reverse).reverse
  (h.zip ((ks.zip sched).foldl (shaRound c) h)).map fun x => (x.1 + x.2) % 2 ^ c.w

/-- The padded message. -/
def shaPad (c : ShaShape) (m : List Byte) : List Byte :=
  let b := 2 * c.w
  let len := c.w / 4
  let z := (2 * b - (m.length + 1 + len) % b) % b
  m ++ [0x80] ++ List.replicate z 0 ++ bytesBe len (8 * m.length)

def sha (c : ShaShape) (iv : List Nat) (out : Nat) (m : List Byte) : List Byte :=
  let p := shaPad c m
  let ks := (primes.take c.rounds).map (rootBits 3 c.w)
  (((pieces (2 * c.w) (p.length + 1) p).foldl (shaBlock c ks) iv).flatMap (bytesBe (c.w / 8))).take out

/-- SHA-256, SHA-384 and SHA-512 of a byte string (R81, R217, R441). -/
@[irreducible] def sha256 (m : List Byte) : List Byte := sha sha32 ((primes.take 8).map (rootBits 2 32)) 32 m
@[irreducible] def sha384 (m : List Byte) : List Byte := sha sha64 (((primes.drop 8).take 8).map (rootBits 2 64)) 48 m
@[irreducible] def sha512 (m : List Byte) : List Byte := sha sha64 ((primes.take 8).map (rootBits 2 64)) 64 m

/-- HMAC with a hash of `block`-byte blocks. -/
def hmac (h : List Byte → List Byte) (block : Nat) (key m : List Byte) : List Byte :=
  let k0 := if block < key.length then h key else key
  let k := k0 ++ List.replicate (block - k0.length) 0
  h (k.map (· ^^^ 0x5C) ++ h (k.map (· ^^^ 0x36) ++ m))

/-- HMAC-SHA-256, HMAC-SHA-384 and HMAC-SHA-512 of a message under a key (R70, R94, R441). -/
@[irreducible] def hmacSha256 (key m : List Byte) : List Byte := hmac sha256 64 key m
@[irreducible] def hmacSha384 (key m : List Byte) : List Byte := hmac sha384 128 key m
@[irreducible] def hmacSha512 (key m : List Byte) : List Byte := hmac sha512 128 key m

/-! ## Cyclic codes -/

/-- One byte through a reflected code of n bits. -/
def crcStep (poly : Nat) : Nat → Nat → Nat
  | 0, c => c
  | n + 1, c => crcStep poly n (if c % 2 = 1 then c / 2 ^^^ poly else c / 2)

def crcReflected (poly : Nat) (l : List Byte) : BitVec 32 :=
  BitVec.ofNat 32 (l.foldl (fun c b => crcStep poly 8 (c ^^^ b.toNat)) 0xFFFFFFFF ^^^ 0xFFFFFFFF)

/-- CRC-32C, the Castagnoli code (R221, R406, R505), and CRC-32 (DSP0240). -/
@[irreducible] def crc32c (l : List Byte) : BitVec 32 := crcReflected 0x82F63B78 l
@[irreducible] def crc32 (l : List Byte) : BitVec 32 := crcReflected 0xEDB88320 l

def crc16Step : Nat → Nat → Nat
  | 0, c => c
  | n + 1, c => crc16Step n (if 0x8000 ≤ c then (2 * c) % 65536 ^^^ 0x1021 else 2 * c)

/-- CRC-16 with polynomial 0x1021 and initial value 0xFFFF (R217). -/
@[irreducible] def crc16 (l : List Byte) : BitVec 16 := BitVec.ofNat 16 (l.foldl (fun c b => crc16Step 8 (c ^^^ (b.toNat * 256))) 0xFFFF)

/-! ## AES-256 (FIPS 197) -/

def xtime (a : Nat) : Nat := if 128 ≤ a then (2 * a) % 256 ^^^ 0x1B else 2 * a
def aesMulGo (a b : Nat) : Nat → Nat
  | 0 => 0
  | n + 1 => (if b % 2 = 1 then a else 0) ^^^ aesMulGo (xtime a) (b / 2) n
def aesMul (a b : Nat) : Nat := aesMulGo a b 8

/-- The multiplicative inverse, a^254. -/
def aesInv (a : Nat) : Nat :=
  let a2 := aesMul a a
  let a3 := aesMul a2 a
  let a12 := aesMul (aesMul a3 a3) (aesMul a3 a3)
  let a15 := aesMul a12 a3
  let sq := fun (x : Nat) => aesMul x x
  aesMul (aesMul (sq (sq (sq (sq a15)))) a12) a2

def subByte (a : Nat) : Nat :=
  let b := aesInv a
  let rot := fun (n : Nat) => (b * 2 ^ n + b * 2 ^ n / 256) % 256
  b ^^^ rot 1 ^^^ rot 2 ^^^ rot 3 ^^^ rot 4 ^^^ 0x63

def invSubByte (a : Nat) : Nat :=
  let rot := fun (n : Nat) => (a * 2 ^ n + a * 2 ^ n / 256) % 256
  aesInv (rot 1 ^^^ rot 3 ^^^ rot 6 ^^^ 0x05)

/-- Words of the key schedule, newest first; `i` counts them. -/
def keyWords : Nat → Nat → List (List Nat) → List (List Nat)
  | 0, _, l => l
  | n + 1, i, l =>
    let prev := l.headD []
    let back := l.getD 7 []
    let t := if i % 8 = 0 then
        (match (prev.drop 1 ++ prev.take 1).map subByte with
        | [] => []
        | x :: xs => (x ^^^ (2 ^ (i / 8 - 1))) :: xs)
      else if i % 8 = 4 then prev.map subByte else prev
    keyWords n (i + 1) (((t.zip back).map fun x => x.1 ^^^ x.2) :: l)

/-- The 15 round keys of a 32-byte key. -/
def roundKeys (key : List Byte) : List (List Nat) :=
  (pieces 4 16 ((keyWords 52 8 ((pieces 4 8 (key.map BitVec.toNat)).reverse)).reverse)).map List.flatten

def xorNats (a b : List Nat) : List Nat := (a.zip b).map fun x => x.1 ^^^ x.2

/-- Row r of the state moves r columns: the byte of place 4c + r comes from column c + r, or c - r in the inverse. -/
def shiftRows (inv : Bool) (s : List Nat) : List Nat :=
  (List.range 16).map fun i => s.getD (((i / 4 + (if inv then 4 - i % 4 else i % 4)) % 4) * 4 + i % 4) 0

def mixColumn (m : List Nat) (c : List Nat) : List Nat :=
  (List.range 4).map fun r => ((List.range 4).map fun j => aesMul (m.getD ((4 + j - r) % 4) 0) (c.getD j 0)).foldl (· ^^^ ·) 0
def mixColumns (m : List Nat) (s : List Nat) : List Nat := (pieces 4 4 s).flatMap (mixColumn m)

def aesBlock (rk : List (List Nat)) (b : List Byte) : List Byte :=
  let s0 := xorNats (b.map BitVec.toNat) (rk.headD [])
  let s1 := ((rk.drop 1).take 13).foldl (fun s k => xorNats (mixColumns [2, 3, 1, 1] (shiftRows false (s.map subByte))) k) s0
  (xorNats (shiftRows false (s1.map subByte)) (rk.getD 14 [])).map (BitVec.ofNat 8)

def aesUnblock (rk : List (List Nat)) (b : List Byte) : List Byte :=
  let s0 := xorNats (b.map BitVec.toNat) (rk.getD 14 [])
  let s1 := ((rk.drop 1).take 13).reverse.foldl (fun s k => mixColumns [14, 11, 13, 9] (xorNats ((shiftRows true s).map invSubByte) k)) s0
  (xorNats ((shiftRows true s1).map invSubByte) (rk.headD [])).map (BitVec.ofNat 8)

/-- AES-256 on independent blocks: encrypt or decrypt, key, data (R441). -/
@[irreducible] def aes (enc : Bool) (key data : List Byte) : List Byte :=
  let rk := roundKeys key
  (pieces 16 (data.length + 1) data).flatMap (if enc then aesBlock rk else aesUnblock rk)

/-! ## XTS (IEEE 1619) -/

def xtsDouble (t : Nat) : Nat := (if 2 ^ 127 ≤ t then 0x87 else 0) ^^^ (2 * t % 2 ^ 128)

/-- One block under a tweak. -/
def xtsBlock (enc : Bool) (rk : List (List Nat)) (t : Nat) (b : List Byte) : List Byte :=
  let m := bytesLe 16 t
  xorBytes ((if enc then aesBlock rk else aesUnblock rk) (xorBytes b m)) m

/-- The blocks of a data unit; a last part of fewer than 16 bytes steals from the block before it. -/
def xtsBlocks (enc : Bool) (rk : List (List Nat)) (t : Nat) : List (List Byte) → List Byte
  | [] => []
  | [b] => xtsBlock enc rk t b
  | [b, l] =>
    if l.length = 16 then xtsBlock enc rk t b ++ xtsBlock enc rk (xtsDouble t) l
    else
      let c := xtsBlock enc rk (if enc then t else xtsDouble t) b
      xtsBlock enc rk (if enc then xtsDouble t else t) (l ++ c.drop l.length) ++ c.take l.length
  | b :: l => xtsBlock enc rk t b ++ xtsBlocks enc rk (xtsDouble t) l

/-- XTS-AES-256: encrypt or decrypt, key K1 ‖ K2, tweak, data unit (R441, R443). -/
@[irreducible] def xts (enc : Bool) (key : List Byte) (tweak : BitVec 128) (data : List Byte) : List Byte :=
  let t := natLe (aesBlock (roundKeys (key.drop 32)) (bytesLe 16 tweak.toNat))
  xtsBlocks enc (roundKeys (key.take 32)) t (pieces 16 (data.length + 1) data)

/-! ## GCM (SP 800-38D) -/

/-- The product in the field of GHASH: bit 0 of the field is the most significant bit of the block. -/
def ghashMulGo (y : Nat) : Nat → Nat → Nat → Nat
  | 0, _, z => z
  | n + 1, v, z => ghashMulGo y n (if v % 2 = 1 then v / 2 ^^^ (0xE1 * 2 ^ 120) else v / 2) (if y / 2 ^ n % 2 = 1 then z ^^^ v else z)

def ghash (h : Nat) (blocks : List (List Byte)) : Nat :=
  blocks.foldl (fun y b => ghashMulGo (y ^^^ natBe (b ++ List.replicate (16 - b.length) 0)) 128 h 0) 0

/-- The key stream from a byte offset on. -/
def gcmStream (rk : List (List Nat)) (iv : List Byte) (off n : Nat) : List Byte :=
  (((List.range (n / 16 + 2)).flatMap fun i => aesBlock rk (iv ++ bytesBe 4 (off / 16 + 2 + i))).drop (off % 16)).take n

/-- The AES-256-GCM stream: key, IV, offset, text; encryption and decryption are one function (R441). -/
@[irreducible] def gcmText (key iv : List Byte) (off : Nat) (text : List Byte) : List Byte :=
  xorBytes text (gcmStream (roundKeys key) iv off text.length)

/-- The tag of AES-256-GCM over additional data and ciphertext: key, IV, both. -/
@[irreducible] def gcmTag (key iv aad text : List Byte) : List Byte :=
  let rk := roundKeys key
  let cut := fun (l : List Byte) => pieces 16 (l.length + 1) l
  let y := ghash (natBe (aesBlock rk (List.replicate 16 0))) (cut aad ++ cut text ++ [bytesBe 8 (8 * aad.length) ++ bytesBe 8 (8 * text.length)])
  xorBytes (bytesBe 16 y) (aesBlock rk (iv ++ [0, 0, 0, 1]))

/-! ## Key wrap (RFC 3394) -/

/-- One step over a half block: the integrity register with t mixed in. -/
def wrapPass (rk : List (List Nat)) (n j : Nat) : Nat → List Byte → List (List Byte) → List Byte × List (List Byte)
  | _, a, [] => (a, [])
  | i, a, r :: rs =>
    let b := aesBlock rk (a ++ r)
    let x := wrapPass rk n j (i + 1) (xorBytes (b.take 8) (bytesBe 8 (n * j + i))) rs
    (x.1, b.drop 8 :: x.2)

/-- The inverse pass takes the half blocks from the last to the first. -/
def unwrapPass (rk : List (List Nat)) (n j : Nat) : Nat → List Byte → List (List Byte) → List Byte × List (List Byte)
  | _, a, [] => (a, [])
  | i, a, r :: rs =>
    let b := aesUnblock rk (xorBytes a (bytesBe 8 (n * j + i)) ++ r)
    let x := unwrapPass rk n j (i - 1) (b.take 8) rs
    (x.1, b.drop 8 :: x.2)

/-- Wrap an integrity value of 8 bytes and a plaintext; unwrap to the integrity value and the plaintext (R447). -/
@[irreducible] def keyWrap (kek icv plain : List Byte) : List Byte :=
  let rk := roundKeys kek
  let n := plain.length / 8
  let r := (List.range 6).foldl (fun x j => wrapPass rk n j 1 x.1 x.2) (icv, pieces 8 n plain)
  r.1 ++ r.2.flatten

@[irreducible] def keyUnwrap (kek wrapped : List Byte) : List Byte × List Byte :=
  let rk := roundKeys kek
  let n := wrapped.length / 8 - 1
  let r := (List.range 6).foldl (fun x j => unwrapPass rk n (5 - j) n x.1 x.2) (wrapped.take 8, (pieces 8 n (wrapped.drop 8)).reverse)
  (r.1, r.2.reverse.flatten)

/-! ## brainpoolP384r1 (RFC 5639) and ECDSA (FIPS 186-5) -/

def bpP : Nat := 0x8CB91E82A3386D280F5D6F7E50E641DF152F7109ED5456B412B1DA197FB71123ACD3A729901D1A71874700133107EC53
def bpA : Nat := 0x7BC382C63D8C150C3C72080ACE05AFA0C2BEA28E4FB22787139165EFBA91F90F8AA5814A503AD4EB04A8C7DD22CE2826
def bpB : Nat := 0x04A8C7DD22CE28268B39B55416F0447C2FB77DE107DCD2A62E880EA53EEB62D57CB4390295DBC9943AB78696FA504C11
def bpG : Nat × Nat :=
  (0x1D1C64F068CF45FFA2A63A81B7C13F6B8847A3E77EF14FE3DB7FCAFE0CBD10E8E826E03436D646AAEF87B2E247D4AF1E,
   0x8ABE1D7520F9C2A45CB1EB8E95CFD55262B70B29FEEC5864E19C054FF99129280E4646217791811142820341263C5315)
def bpN : Nat := 0x8CB91E82A3386D280F5D6F7E50E641DF152F7109ED5456B31F166E6CAC0425A7CF3AB6AF6B7FC3103B883202E9046565

/-- a^e modulo m over the low n bits of e. -/
def powMod (m a : Nat) : Nat → Nat → Nat
  | 0, _ => 1 % m
  | n + 1, e => let h := powMod m (a * a % m) n (e / 2); if e % 2 = 1 then a * h % m else h
def invMod (m a : Nat) : Nat := powMod m (a % m) 384 (m - 2)

/-- Addition of points; none is the point at infinity. -/
def ecAdd : Option (Nat × Nat) → Option (Nat × Nat) → Option (Nat × Nat)
  | none, q => q
  | p, none => p
  | some (x1, y1), some (x2, y2) =>
    if x1 = x2 && (y1 + y2) % bpP = 0 then none
    else
      let l := if x1 = x2 then (3 * x1 * x1 + bpA) * invMod bpP (2 * y1) % bpP else (y2 + bpP - y1) * invMod bpP (x2 + bpP - x1) % bpP
      let x3 := (l * l + 2 * bpP - x1 - x2) % bpP
      some (x3, (l * (x1 + bpP - x3) + bpP - y1) % bpP)

/-- A multiple of a point, over the low n bits of the factor. -/
def ecMul (p : Option (Nat × Nat)) : Nat → Nat → Option (Nat × Nat)
  | 0, _ => none
  | n + 1, k => ecAdd (if k % 2 = 1 then p else none) (ecMul (ecAdd p p) n (k / 2))

/-- The public point (97 bytes, 0x04 ‖ X ‖ Y) of a private scalar (R94). -/
@[irreducible] def ecPublic (d : Nat) : List Byte :=
  match ecMul (some bpG) 384 d with
  | some (x, y) => 4 :: (bytesBe 48 x ++ bytesBe 48 y)
  | none => List.replicate 97 0

/-- The point lies on the curve and r and s lie in range (R462). -/
@[irreducible] def ecdsaInRange (point sig : List Byte) : Bool :=
  let x := natBe (point.take 48)
  let y := natBe (point.drop 48)
  let r := natBe (sig.take 48)
  let t := natBe (sig.drop 48)
  decide (x < bpP) && decide (y < bpP) && decide (y * y % bpP = (x * x * x + bpA * x + bpB) % bpP)
    && decide (1 ≤ r) && decide (r < bpN) && decide (1 ≤ t) && decide (t < bpN)

/-- ECDSA verification: public point (96 bytes), SHA-384 digest, signature r ‖ s (R81, R90, R462). -/
@[irreducible] def ecdsaVerify (point digest sig : List Byte) : Bool :=
  let r := natBe (sig.take 48)
  let w := invMod bpN (natBe (sig.drop 48))
  let q := some (natBe (point.take 48), natBe (point.drop 48))
  match ecAdd (ecMul (some bpG) 384 (natBe digest * w % bpN)) (ecMul q 384 (r * w % bpN)) with
  | some (x, _) => decide (x % bpN = r)
  | none => false

end Sys2Proof.Config
end

