-- ==== Sys2Proof/Machine/Ops.lean ====
section
/-! DEFINITION. Machine/Ops.lean: the operations that many commands share: outputs, interrupts, events, alarms, error records, semaphores, mailbox replies, boot stage. -/
namespace Sys2Proof.Machine
open Sys2Proof

/-- What a command does on every path that goes on. -/
abbrev Res := Host.Outcome State Fault Refusal

/-- An effect that takes place only while the chip is out of reset and not vaulting; at any other time the part does not answer and nothing changes (log entry 5). -/
def onRun (s : State) (f : State → State) : Res := if s.phase = .run then .next (f s) else .next s

/-- An effect of units that also work during a vault flush. -/
def onLive (s : State) (f : State → State) : Res :=
  if s.phase = .run ∨ s.phase = .flushing then .next (f s) else .next s

/-- The service processor runs: out of reset and not stopped, a flush and a vaulted chip included (R48, R51). -/
def spRuns (s : State) : Bool := s.phase = .run || s.phase = .flushing || s.phase = .vaulted

/-- An effect of the service processor. -/
def onSp (s : State) (f : State → State) : Res := if spRuns s then .next (f s) else .next s

/-- PEER_ALIVE as the part judges it: its filtered level, or the level at which chatter latched it (R57). -/
def peerAlive (s : State) : Bool := if s.cond.peerAlive.latched then s.cond.peerAlive.held else s.cond.peerAlive.level

/-- An effect of the always-on domain. -/
def onAon (s : State) (f : State → State) : Res := if s.phase = .unpowered then .next s else .next (f s)

/-- Send something out of the part. -/
def emit (o : Out) (s : State) : State := { s with out := s.out ++ [o] }

/-- Bytes of on-chip memory lie in the load target of a streaming image, which is closed to every other writer (R83). -/
def targetClosed (a n : Nat) (s : State) : Bool := match s.boot.target with
  | some (lo, len) => decide (a < lo + len) && decide (lo < a + n)
  | none => false

/-- Any writer but the loader puts bytes into on-chip memory; a closed load target stays as it is (R83). -/
def chipPut (a : Nat) (l : List Byte) (s : State) : State :=
  if targetClosed a l.length s then s else { s with onchip := Mem.putBytes s.onchip a l }

/-- Take the next free value (log entry 1). -/
def draw (s : State) : Nat × State := (Config.freeValue s.freeCtr, { s with freeCtr := s.freeCtr + 1 })

/-- Chip time is at least t from here on: a timer's own end has been reached (log entry 4). -/
def reachTime (t : Nat) (s : State) : State :=
  if s.time.toNat < t then { s with time := BitVec.ofNat 64 t } else s

/-! ## Capability registers of an endpoint (R110) -/

def modCaps (p : Port) (upper : Bool) (f : PcieCaps → PcieCaps) (s : State) : State :=
  s.modPort p fun r => if upper then { r with upper := { r.upper with caps := f r.upper.caps } } else { r with caps := f r.caps }

/-- A bit of AER's uncorrectable status is set (R110): 12 poisoned TLP, 14 completion timeout (PCI Express Base Specification; log entry 173). -/
def aerUncor (p : Port) (upper : Bool) (bit : Nat) (s : State) : State :=
  modCaps p upper (fun c => { c with aerUncor := c.aerUncor ||| BitVec.ofNat 32 (2 ^ bit) }) s

/-- An endpoint's capability registers. -/
def capsOf (p : Port) (upper : Bool) (s : State) : PcieCaps := if upper then (s.port p).upper.caps else (s.port p).caps

/-- A memory request that the function does not take (R110): bit 20 of AER's uncorrectable status, and for a request that waits for a completion, where that error is not fatal, bit 13 of the correctable status, Advisory Non-Fatal (PCI Express Base Specification; log entry 173). -/
def unsupported (p : Port) (upper posted : Bool) (s : State) : State :=
  modCaps p upper (fun c => { c with
    aerUncor := c.aerUncor ||| 0x00100000, aerCor := if posted || c.aerSeverity.getLsbD 20 then c.aerCor else c.aerCor ||| 0x00002000 }) s

/-- A memory request to an endpoint: in D3hot the function takes none (R110). -/
def onMem (p : Port) (upper posted : Bool) (s : State) (f : State → State) : Res :=
  onRun s fun s => if (capsOf p upper s).d3hot then unsupported p upper posted s else f s

/-! ## Interrupts (R133, R134) -/

/-- Send one MSI-X message of an endpoint, or hold it pending while MSI-X is off, the vector is masked (R134), or the function is in D3hot, where it issues no request (R110). -/
def sendVia (p : Port) (upper : Bool) (v : Nat) (s : State) : State :=
  let r := s.port p
  if upper then
    let u := r.upper
    if u.msixEnable && !u.msixFuncMask && !u.caps.d3hot && !(Tbl.getD u.msix v {}).masked then emit (.msixUpper p v) s
    else s.setPort p { r with upper := { u with msixPending := Tbl.set u.msixPending v () } }
  else if r.msixEnable && !r.msixFuncMask && !r.caps.d3hot && !(Tbl.getD r.msix v {}).masked then emit (.msix p v) s
  else s.setPort p { r with msixPending := Tbl.set r.msixPending v () }

/-- Send a message of the control endpoint. -/
def sendMsix (p : Port) (v : Nat) (s : State) : State := sendVia p false v s

/-- Bits of INT_CAUSE (R133); each uses the vector of its own number. -/
def cMbxRsp : Nat := 0
def cImmDone : Nat := 1
def cAlarm : Nat := 2
def cSemLost : Nat := 3
def cSemFreed : Nat := 4
def cEvr : Nat := 5
def cErrq : Nat := 6
def cRenegotiate : Nat := 7
def cBootStage : Nat := 8
def cPeerState : Nat := 9
def cThermal : Nat := 10

/-- Set an INT_CAUSE bit of a port; the message is sent when the bit and its enable become both 1 (R134). -/
def raiseCause (p : Port) (c : Nat) (s : State) : State :=
  let r := s.port p
  if r.intCause.getLsbD c then s
  else
    let s1 := s.setPort p { r with intCause := r.intCause ||| BitVec.ofNat 11 (2 ^ c) }
    if r.intEnable.getLsbD c then sendMsix p c s1 else s1

def raiseBoth (c : Nat) (s : State) : State := raiseCause .b c (raiseCause .a c s)

/-! ## Event records (R503 to R508) -/

/-- The record of an event, its fields and snapshots fixed now (R504, R505); CHIP_STATUS is taken as port A reads it (log entry 6). -/
def mkEvent (sev : Nat) (code : Nat) (dom : Nat) (fromBoot : Bool) (errSeq : W32) (detail : List Byte) (index : Nat) (s : State) : EvrRec :=
  { severity := sev, code := BitVec.ofNat 16 code, index := index, powerCycles := s.aon.powerCycles.setWidth 32,
    hours := s.aon.hours, msInHour := s.aon.ms, chipTime := s.time,
    nodeId := match nodeId s with
      | some n => BitVec.ofNat 16 (n + 2 ^ 15)
      | none => 0,
    domain := BitVec.ofNat 8 dom, fromBoot := fromBoot, errSeq := errSeq, snapStatus := chipStatus s .a,
    snapBoot := bootStatus s, snapInput := inputCondReg s, snapTemp := tempReg s, snapFenced := s.power.fenced,
    detail := detail }

/-- EVR_SUPPRESSED rises by one, saturating. -/
def suppressOne (s : State) : State :=
  { s with aon := { s.aon with suppressed := if s.aon.suppressed = -1 then s.aon.suppressed else s.aon.suppressed + 1 } }

/-- An event enters the recorder, or is counted as not kept; the second part names an alarm that this raises (R504). -/
def event0 (sev code dom : Nat) (fromBoot : Bool) (errSeq : W32) (detail : List Byte) (s : State) : State × Option Nat :=
  if s.evr.clearing.isSome then
    if 64 ≤ s.evr.buffer.length then (suppressOne s, some 0x18)
    else ({ s with evr := { s.evr with buffer := s.evr.buffer ++ [mkEvent sev code dom fromBoot errSeq detail (s.evr.buffer.length + 1) s] } }, none)
  else if 32767 ≤ s.evr.nextSlot then
    if s.evr.fullNoted then (suppressOne s, none)
    else
      let r := mkEvent 2 8 0xFF false 0 (le16 code ++ zeros 6 ++ le64 s.time.toNat) 32767 s
      (suppressOne { s with evr := { s.evr with buffer := s.evr.buffer ++ [r], fullNoted := true, nextSlot := 32768 } }, some 0x17)
  else if 64 ≤ s.evr.buffer.length then (suppressOne s, some 0x18)
  else ({ s with evr := { s.evr with
            buffer := s.evr.buffer ++ [mkEvent sev code dom fromBoot errSeq detail s.evr.nextSlot s],
            nextSlot := s.evr.nextSlot + 1 } }, none)

/-! ## Alarms (R497 to R500) -/

/-- Type of an alarm kind (R500): condition kinds. -/
def alarmIsCond (k : Nat) : Bool :=
  [0x02, 0x05, 0x06, 0x09, 0x0A, 0x0B, 0x0C, 0x0D, 0x0E, 0x0F, 0x10, 0x13, 0x17, 0x19, 0x20, 0x21, 0x23, 0x24, 0x43, 0x44, 0x45,
   0x46, 0x48, 0x4A, 0x60, 0x61, 0x62, 0x81, 0x82, 0x83, 0x84, 0x85, 0x86].contains k

/-- Kinds that R500 marks C. -/
def alarmIsCritical (k : Nat) : Bool :=
  [0x01, 0x02, 0x0A, 0x0D, 0x0E, 0x0F, 0x14, 0x20, 0x22, 0x24, 0x40, 0x41, 0x49, 0x4A, 0x80, 0x81].contains k

/-- Severity of the ALARM_RAISED event of a kind (R508). -/
def alarmSeverity (k : Nat) : Nat := if alarmIsCritical k then 3 else if alarmIsCond k then 2 else 1

/-- A slot as it reads before its kind has ever been raised. -/
def emptySlot : AlarmSlot := {}

/-- The 24 bytes of a slot (R137 ALARM_LIST, R497). -/
def slotBytes (k : Nat) (a : AlarmSlot) : List Byte :=
  le8 k ++ le8 (flag 0 a.active + flag 1 a.unacked + flag 2 a.saturated + flag 3 a.critical) ++ zeros 2
    ++ le32 a.count.toNat ++ le64 a.firstTime.toNat ++ le64 a.lastTime.toNat

/-- The slot after one more raise (R497). -/
def slotRaised (k : Nat) (t : W64) (a : AlarmSlot) : AlarmSlot :=
  { active := alarmIsCond k, unacked := true, saturated := a.saturated || decide (a.count = -2) || decide (a.count = -1),
    critical := alarmIsCritical k, count := if a.count = -1 then a.count else a.count + 1,
    firstTime := if a.count = 0 then t else a.firstTime, lastTime := t }

/-- A raise, but for its ALARM_RAISED event: the slot counts, the cause is set on both ports, a notification is pending (R497, R498). -/
def raiseSlot (k : Nat) (s : State) : State :=
  let a := Tbl.getD s.alarms.slots k emptySlot
  let s1 := { s with alarms := { s.alarms with slots := Tbl.set s.alarms.slots k (slotRaised k s.time a), pending := Tbl.set s.alarms.pending k () },
                     pins := { s.pins with smbAlert := true } }
  raiseBoth cAlarm s1

/-- The ALARM_RAISED event of a kind, and the alarm this in turn raises. -/
def alarmEvent (k : Nat) (s : State) : State × Option Nat :=
  event0 (alarmSeverity k) 0x20 0xFF false 0 (slotBytes k (Tbl.getD s.alarms.slots k emptySlot)) s

/-- A condition kind whose condition persists counts no further (R497). -/
def alarmHolds (k : Nat) (s : State) : Bool := alarmIsCond k && (Tbl.getD s.alarms.slots k emptySlot).active

/-- Raise the recorder's own alarms (RECORDER_FULL, RECORDER_SUPPRESSED), whose event is again an event (R504). -/
def raiseRecorder (k : Nat) (s : State) : State :=
  if alarmHolds k s then s
  else
    let a := Tbl.getD s.alarms.slots k emptySlot
    let s1 := raiseSlot k s
    if a.unacked then s1
    else match alarmEvent k s1 with
      | (s2, some k2) => if alarmHolds k2 s2 then s2 else raiseSlot k2 s2
      | (s2, none) => s2

/-- Write an event (R504), with the alarm that a full recorder or buffer raises. -/
def eventFull (sev code dom : Nat) (fromBoot : Bool) (errSeq : W32) (detail : List Byte) (s : State) : State :=
  match event0 sev code dom fromBoot errSeq detail s with
  | (s1, some k) => raiseRecorder k s1
  | (s1, none) => s1

/-- An event of the current run with no domain and no error record. -/
def event (sev code : Nat) (detail : List Byte) (s : State) : State := eventFull sev code 0xFF false 0 detail s

/-- Raise an alarm (R497, R498): an occurrence, or a condition that did not hold; UNACKED going from 0 to 1 writes ALARM_RAISED. -/
def raiseAlarm (k : Nat) (s : State) : State :=
  if alarmHolds k s then s
  else
    let a := Tbl.getD s.alarms.slots k emptySlot
    let s1 := raiseSlot k s
    if a.unacked then s1
    else match alarmEvent k s1 with
      | (s2, some k2) => raiseRecorder k2 s2
      | (s2, none) => s2

/-- The condition of a kind clears: ACTIVE falls, the slot keeps the rest (R499). -/
def clearAlarm (k : Nat) (s : State) : State :=
  match Tbl.find s.alarms.slots k with
  | some a => { s with alarms := { s.alarms with slots := Tbl.set s.alarms.slots k { a with active := false } } }
  | none => s

/-- Raise or clear a condition kind by whether its condition holds. -/
def alarmIs (k : Nat) (b : Bool) (s : State) : State := if b then raiseAlarm k s else clearAlarm k s

/-! ## Error records (R495, R496) -/

/-- The record number after n: 0 never names a record (R495). -/
def nextSeqOf (n : W32) : W32 := if n = -1 then 1 else n + 1

/-- Queue an error record, or count it as lost when 1,024 are held; answers its SEQ, 0 for none (R495). -/
def errorRecord (action : Nat) (nested : Bool) (e : ErrObs) (s : State) : W32 × State :=
  if 1024 ≤ s.err.records.length then
    (0, raiseAlarm 0x16 { s with err := { s.err with overflow := true, overflowCount := if s.err.overflowCount = -1 then -1 else s.err.overflowCount + 1 } })
  else
    let r : ErrRec := {
      seq := s.err.nextSeq, code := e.code, action := action, multi := e.multi, nested := nested, host := e.host, time := s.time,
      domain := e.domain, unit := e.unit, agent := e.agent, transients := (Tbl.getD s.err.units e.domain {}).transients,
      address := e.address, info0 := e.info0, info1 := e.info1 }
    (s.err.nextSeq, raiseBoth cErrq { s with err := { s.err with records := s.err.records ++ [r], nextSeq := nextSeqOf s.err.nextSeq } })

/-- A class 0x06 record (R532): power, clock and thermal events. -/
def powerRecordSeq (action kind index : Nat) (info1 : W64) (s : State) : W32 × State :=
  errorRecord action false {
    code := 0x060A, domain := 0, unit := 0, agent := 0, address := 0,
    info0 := BitVec.ofNat 64 (index + 256 * kind), info1 := info1, multi := false, host := false } s

def powerRecord (action kind index : Nat) (info1 : W64) (s : State) : State := (powerRecordSeq action kind index info1 s).2

/-! ## Boot stage (R533) -/

/-- STAGE changes: every change raises INT_CAUSE.BOOT_STAGE (R533); within one boot it only rises, but for RECOVERY and HALTED. -/
def setStage (st : Stage) (s : State) : State :=
  if stageNum s.boot.stage < stageNum st then raiseBoth cBootStage { s with boot := { s.boot with stage := st } } else s

/-- CHIP_STATUS.PEER_OK changes (R133 PEER_STATE). -/
def setPeerOk (b : Bool) (s : State) : State :=
  if s.peerOk = b then s else raiseBoth cPeerState { s with peerOk := b }

/-- The first failure of a boot is the one that FAIL_CODE keeps (R75). -/
def failCode (c : Byte) (s : State) : State :=
  if s.boot.failCode = 0 then { s with boot := { s.boot with failCode := c } } else s

/-- A BOOT_FAIL event (R74, R508). -/
def bootFailEvent (s : State) : State :=
  event 3 1 (le8 s.boot.failCode.toNat ++ le8 (stageNum s.boot.stage) ++ le8 (srcNum s.boot.src)) s

/-! ## Access errors, semaphores (R12, R115 to R119) -/

/-- Count an access error of a port (R12, R114 CHIP_ACCESS_ERR). -/
def accessError (p : Port) (offset : Nat) (s : State) : State :=
  s.modPort p fun r => { r with errCount := satAdd 65535 r.errCount 1, errOffset := BitVec.ofNat 16 (offset / 16) }

/-- The lease of a port starts over: LEASE x 100 ms, with 0 acting as 1 and values above 100 as 100 (R115, R118). -/
def leaseTime (r : PortRegs) : Nat := max 1 (min 100 r.leaseCfg.toNat) * 100000000

def renewLease (p : Port) (s : State) : State :=
  s.modPort p fun r => { r with leaseEnd := some (s.time.toNat + leaseTime r) }

/-- Grant a free semaphore to a port: GRANTS counts, the lease is renewed (R116). -/
def grantSem (n : Nat) (p : Port) (s : State) : State :=
  let m := s.sem n
  renewLease p { s with sems := Tbl.set s.sems n { m with owner := some p, grants := m.grants + 1 } }

/-- A port that holds no semaphore has no running lease (R118). -/
def settleLease (p : Port) (s : State) : State :=
  if s.heldBy p = [] then s.modPort p fun r => { r with leaseEnd := none } else s

/-- Why a port loses its semaphores (R508 CONTROL_SEMAPHORE_LOST REASON). -/
inductive LoseReason | lease | link | reset
deriving DecidableEq, Repr

def LoseReason.num : LoseReason → Nat
  | .lease => 0 | .link => 1 | .reset => 2

/-! ## Mailbox commands (R120 to R131) -/

/-- Opcode, first version, body length and need of the control semaphore of every command of the catalogue (R137 to R142). -/
def catalogue : List (Nat × Nat × Nat × Bool) := [
  (0x0001, 1, 16, false), (0x0002, 1, 0, false), (0x0003, 1, 0, false), (0x0004, 1, 4, true), (0x0005, 1, 4, true),
  (0x0006, 2, 4, false), (0x0007, 2, 8, true), (0x0008, 2, 8, false), (0x0101, 1, 0, false), (0x0102, 1, 0, true),
  (0x0103, 1, 332, true), (0x0104, 1, 232, true), (0x0105, 1, 4, true), (0x0106, 1, 232, true), (0x0107, 1, 232, true),
  (0x0108, 1, 48, false), (0x0109, 1, 16, true), (0x0201, 1, 24, true), (0x0202, 1, 4, true), (0x0203, 1, 0, true),
  (0x0204, 1, 0, false), (0x0205, 1, 0, true), (0x0301, 2, 16, true), (0x0302, 2, 4, true), (0x0303, 2, 4, false),
  (0x0304, 2, 16, true), (0x0305, 3, 16, true), (0x0306, 2, 4, false), (0x0307, 2, 4, true), (0x0401, 2, 24, true),
  (0x0402, 2, 4, true), (0x0403, 2, 16, true), (0x0404, 2, 4, false), (0x0501, 2, 16, true), (0x0502, 3, 16, true),
  (0x0503, 2, 4, true), (0x0504, 2, 4, true), (0x0505, 3, 20, true), (0x0601, 2, 80, true), (0x0602, 2, 80, true),
  (0x0603, 2, 4, true), (0x0604, 2, 4, false), (0x0701, 2, 8, true), (0x0702, 2, 16, true), (0x0703, 2, 16, true),
  (0x0704, 3, 16, true), (0x0705, 3, 8, true), (0x0706, 3, 4, false), (0x0801, 2, 0, false), (0x0802, 2, 4, true),
  (0x0803, 3, 16, true), (0x0804, 3, 0, true), (0x0901, 2, 8, true), (0x0902, 2, 4, false), (0x0903, 3, 8, true),
  (0x0904, 2, 20, false)]

/-- The row of an opcode: first version and body length. -/
def catalogueRow (op : Nat) : Option (Nat × Nat) := (catalogue.find? fun r => r.1 = op).map fun r => (r.2.1, r.2.2.1)

/-- The command needs the control semaphore. -/
def cmdSem (op : Nat) : Bool := (catalogue.find? fun r => r.1 = op).any fun r => r.2.2.2

/-- The groups that R125 serves by chip state. -/
inductive CmdGroup | session | trust | attest | fwStatus | other
deriving DecidableEq, Repr

/-- One row of the command catalogue (R137 to R142). -/
structure CmdInfo where
  opcode : Nat
  /-- first version that has it -/
  since : Nat
  /-- needs the control semaphore -/
  sem : Bool
  group : CmdGroup := .other
  /-- served in the recovery state (R125) -/
  recovery : Bool := false
deriving DecidableEq, Repr

def replyOk (body : List Byte) : MReply := ⟨.success, 0, body⟩
def replyErr (st : MStatus) (detail : Nat) : MReply := ⟨st, BitVec.ofNat 32 detail, []⟩

/-- Refusals that name the first faulty field of a body, by its offset from the start of the message (R135). -/
def limitAt (off : Nat) : MReply := replyErr .limitExceeded (16 + off)
def fieldAt (off : Nat) : MReply := replyErr .invalidField (16 + off)

/-- Whether the chip's state serves a command (R125). -/
def servedNow (info : CmdInfo) (s : State) : Bool :=
  match s.boot.stage with
  | .recovery => info.recovery
  | .ready => true
  | .halted => false
  | _ => match info.group with
    | .session | .trust | .fwStatus => true
    | .attest => s.boot.cc.isSome
    | .other => false

/-- What refuses a command before it starts, in order: no session, version, opcode of a higher version, chip state (R125, R130, R131; log entry 7). -/
def mbxRefusal (info : CmdInfo) (h : MbxHdr) (s : State) : Option MReply :=
  match (s.port h.port).session with
  | none => some (replyErr .helloRequired 0)
  | some v =>
    if (s.port h.port).renegotiate then some (replyErr .helloRequired 0)
    else if h.version ≠ v then some (replyErr .invalidField 6)
    else if v < info.since then some (replyErr .invalidOpcode 0)
    else if !servedNow info s then some (replyErr .notReady (stageNum s.boot.stage))
    else none

/-- The command is no longer waiting to start. -/
def mbxUnqueue (c : MCmd) (s : State) : State := { s with mbx := { s.mbx with accepted := s.mbx.accepted.erase c } }

/-- The version of a response: 1 for MAILBOX_HELLO, else the session's; a response of a port without a session echoes its request's (R121; log entry 168). -/
def replyVersion (c : MCmd) (s : State) : Nat := if c.opcode = 1 then 1 else (s.port c.hdr.port).session.getD c.hdr.version

/-- A response as it is written: DETAIL is zero in a version-1 response that is not of MAILBOX_HELLO; BUSY carries the port's OUTSTANDING; a refusal has no body (R121, R122, R135). -/
def dressReply (c : MCmd) (r : MReply) (s : State) : MDone :=
  let v := replyVersion c s
  let n := (s.port c.hdr.port).outstanding
  { cmd := c, version := v
    reply := { r with
      detail := if c.opcode = 1 then r.detail else if v ≤ 1 then 0 else if r.status = .busy then BitVec.ofNat 32 n else r.detail
      body := if r.status = .success then r.body else [] } }

/-- A response waits to be written. -/
def mbxAnswer (c : MCmd) (r : MReply) (s : State) : State := { s with mbx := { s.mbx with done := s.mbx.done ++ [dressReply c r s] } }

/-- A running command completes: its response waits to be written, or is discarded where its port has left; where that port kept its registers, OUTSTANDING or BUSY follows (R112, R128). -/
def mbxComplete (c : MCmd) (r : MReply) (s : State) : State :=
  let m := s.mbx
  let m1 := { m with running := m.running.erase c, semRunning := if m.semRunning = some c then none else m.semRunning }
  if m.forgotten.contains c then { s with mbx := { m1 with forgotten := m1.forgotten.erase c } }
  else if m.orphans.contains c then
    let s1 := { s with mbx := { m1 with orphans := m1.orphans.erase c } }
    s1.modPort c.hdr.port fun p => if c.hdr.ring then { p with outstanding := p.outstanding - 1 } else { p with immBusy := false }
  else mbxAnswer c r { s with mbx := m1 }

/-- A field of a request body: a little-endian number at an offset, or bytes at an offset (R136). -/
inductive BodyField | num (off size value : Nat) | bytes (off : Nat) (b : List Byte)
deriving DecidableEq, Repr

/-- The body carries a field. -/
def BodyField.isIn (body : List Byte) : BodyField → Bool
  | .num off size v => decide (ofLe ((body.drop off).take size) = v)
  | .bytes off b => decide ((body.drop off).take b.length = b)

/-- The body carries every field, at its place in the catalogue's layout (R136). -/
def carries (fs : List BodyField) (body : List Byte) : Bool := fs.all (BodyField.isIn body)

/-- The request, received and not yet started, that a row of the mailbox names: its header, its opcode and its fields. -/
def mbxFind (op : Nat) (h : MbxHdr) (fs : List BodyField) (s : State) : Option MCmd :=
  s.mbx.accepted.find? fun c => decide (c.hdr = h) && decide (c.opcode = op) && carries fs c.body

/-- Requests that arrived before one. -/
def earlier (c : MCmd) (s : State) : List MCmd := s.mbx.accepted.takeWhile fun x => x ≠ c

/-- Commands from one ring start in ring order (R128). -/
def ringTurn (c : MCmd) (s : State) : Bool := !c.hdr.ring || (earlier c s).all fun x => !x.hdr.ring || x.hdr.port ≠ c.hdr.port

/-- Commands that need the control semaphore run one at a time, in order of arrival (R120). -/
def semTurn (c : MCmd) (s : State) : Bool := s.mbx.semRunning.isNone && (earlier c s).all fun x => !cmdSem x.opcode

/-- The device starts a request (R120): refused, or run; `body` has the request's bytes. A body that answers `none` goes on; a later step completes it. A request whose turn has not come stays where it is. -/
def mbxStartWith (info : CmdInfo) (h : MbxHdr) (fs : List BodyField) (body : List Byte → State → Option MReply × State) (s : State) : State :=
  match mbxFind info.opcode h fs s with
  | none => s
  | some c =>
    if !ringTurn c s || (info.sem && !semTurn c s) then s
    else
      let s1 := mbxUnqueue c s
      match mbxRefusal info h s with
      | some r => mbxAnswer c r s1
      | none =>
        if info.sem && (s.sem 0).owner ≠ some h.port then mbxAnswer c (replyErr .semNotHeld (ownerNum (s.sem 0).owner)) s1
        else match body c.body s1 with
          | (some r, s2) => mbxAnswer c r s2
          | (none, s2) => { s2 with mbx := { s2.mbx with running := s2.mbx.running ++ [c], semRunning := if info.sem then some c else s2.mbx.semRunning } }

/-- A request whose bytes only its fields matter of. -/
def mbxStart (info : CmdInfo) (h : MbxHdr) (fs : List BodyField) (body : State → Option MReply × State) (s : State) : State :=
  mbxStartWith info h fs (fun _ => body) s

/-- A body that only answers and changes nothing. -/
def answer (f : State → MReply) (s : State) : Option MReply × State := (some (f s), s)

/-- A body that answers SUCCESS with nothing in it, or a refusal that changes nothing. -/
def tryDo (r : Option MReply) (f : State → State) (s : State) : Option MReply × State :=
  match r with
  | some e => (some e, s)
  | none => (some (replyOk []), f s)

/-- The running command with an opcode, if there is one (R120: at most one that needs the semaphore). -/
def runningOp (op : Nat) (s : State) : Option MCmd := s.mbx.running.find? fun c => c.opcode = op

/-- Complete the running command with an opcode. -/
def finishOp (op : Nat) (r : MReply) (s : State) : State :=
  match runningOp op s with
  | some c => mbxComplete c r s
  | none => s

/-- First of a list of checks that fails. -/
def firstFail : List (Bool × MReply) → Option MReply
  | [] => none
  | (bad, r) :: t => if bad then some r else firstFail t

/-- Requests of a port that need the control semaphore and have not started are refused with SEM_NOT_HELD (R119). -/
def refuseSem (p : Port) : List MCmd → State → State
  | [], s => s
  | c :: cs, s => refuseSem p cs (if c.hdr.port = p && cmdSem c.opcode then
      mbxAnswer c (replyErr .semNotHeld (ownerNum (s.sem 0).owner)) (mbxUnqueue c s) else s)

/-- A port loses every semaphore it holds (R112, R118, R119); its registers survive unless the reason is a reset. -/
def loseSems (p : Port) (why : LoseReason) (s : State) : State :=
  let held := s.heldBy p
  if held = [] then s
  else
    let s1 := { s with sems := Tbl.mapVals s.sems fun _ m => if m.owner = some p then { m with owner := none } else m }
    let s2 := s1.modPort p fun r => { r with leaseEnd := none, expired := r.expired || decide (why = .lease), linkReleased := r.linkReleased || decide (why = .link) }
    let s3 := if why = .reset then s2 else raiseCause p cSemLost s2
    let s4 := refuseSem p s3.mbx.accepted (raiseCause (otherPort p) cSemFreed s3)
    if held.contains 0 then event 1 0x24 (le8 (portNum p) ++ le8 why.num) (raiseAlarm 0x11 s4) else s4

/-! ## Owner slots and the report key (R85, R94, R96) -/

def ownerSlot (s : State) (n : Nat) : OwnerSlot :=
  if n = 0 then s.fuses.owner0 else if n = 1 then s.fuses.owner1 else if n = 2 then s.fuses.owner2 else s.fuses.owner3

/-- The hash of the slot that verified the running images; zero for the vendor key (R96). -/
def verifierHash (s : State) : List Byte := if s.boot.keySlot < 4 then (ownerSlot s s.boot.keySlot).hash else zeros 48

/-- The private scalar of the report key: it follows from the alias seed, the measurements, the owner key hash, and whether debug is open (R93, R94). -/
def reportScalar (s : State) : Nat :=
  Config.seedScalar (s.trust.aliasSeed.getD [] ++ (match s.boot.cc with | some i => i.measurement | none => []) ++ s.trust.measConfig ++ verifierHash s
    ++ le8 (if debugIsOpen s then 1 else 0))

/-- Units of R87: programming fuses is refused while PWRFAIL_N is asserted, while a flush runs, or while a rail alarm is active. -/
def powerRefused (s : State) : Bool := s.cond.pwrfail.level || s.phase = .flushing || s.phys.railAlarm != 0

/-- Write bytes to host memory behind a port (DMA of a mailbox command). -/
def hostWrite (p : Port) (addr : W64) (data : List Byte) (s : State) : State := emit (.hostWrite p addr data) s

end Sys2Proof.Machine
end

