-- ==== Sys2Proof/Machine/MapCache.lean ====
section
/-! DEFINITION. Machine/MapCache.lean: the map cache: banks, sets and ways, misses, side buffers, scratchpad ways, fenced banks (R247 to R254). The values that DDR holds stand in the tables of State; R250 makes every read of them coherent. -/
namespace Sys2Proof.Machine
open Sys2Proof

/-- First address of the scratchpad window, its bytes, and those of one way (R253). -/
def scratchBase : Nat := 0x00F000000000
def scratchSize : Nat := 32 * 2 ^ 20
def scratchWay : Nat := 4 * 2 ^ 20

/-! ## Addresses (R247, R248) -/

/-- The set within a bank, A[21:9]; the tag, A[41:22] with A[7] below it, so that a bank may serve its neighbour's lines (R254). -/
def cacheSet (line : Nat) : Nat := line / 4 % 8192
def cacheTag (line : Nat) : Nat := line / 2 ^ 15 * 2 + line % 2

/-- The six regions of R249 with the policies of the installed DDR5; their places are the firmware's (free values). -/
def regionsFor (bytes : Nat) : List CacheRegion :=
  let big := decide (2 * 2 ^ 40 ≤ bytes)
  ([if big then .wtNA else .wbA, if big then .wtNA else .wbA, if big then .stream else .wbA, .uc, .wbA, .wtNA] : List CachePolicy).zipIdx.map fun x =>
    let log2 := 30 + (Config.ddrRegion x.2).2
    { base := (Config.ddrRegion x.2).1 * 2 ^ log2, log2 := log2, policy := x.1 }

/-- The policy of an address; one that no descriptor covers is uncached. -/
def policyAt (l : List CacheRegion) (a : Nat) : CachePolicy :=
  match l.find? fun r => decide (r.base ≤ a) && decide (a < r.base + 2 ^ r.log2) with
  | some r => r.policy
  | none => .uc

/-- Where the firmware keeps an item of a region of R249: 0 maps, 1 unit tables, 2 snapshot trees, 3 fingerprint index, 4 spilled state, 5 wrapped keys. -/
def itemAddr (l : List CacheRegion) (region key : Nat) : Nat :=
  match l[region]? with
  | some r => r.base + Config.ddrItem region key % 2 ^ r.log2
  | none => 0

/-! ## Pseudo-LRU tree (R247) -/

/-- The nodes of the tree are 1 to 15; a node's bit says that the next victim is to its right. -/
def treeSet (tree node : Nat) (right : Bool) : Nat := if tree.testBit node = right then tree else tree ^^^ 2 ^ node

/-- A used way turns the nodes on its path away from itself; `n` levels are left below `node`. -/
def treeTouch (way : Nat) : Nat → Nat → Nat → Nat
  | 0, _, tree => tree
  | n + 1, node, tree =>
    let right := way / 2 ^ n % 2 = 1
    treeTouch way n (2 * node + (if right then 1 else 0)) (treeSet tree node (!right))

/-- The way that the tree names among the first `ways` ways. -/
def treeVictim (tree ways : Nat) : Nat → Nat → Nat → Nat
  | 0, _, lo => lo
  | n + 1, node, lo =>
    if tree.testBit node && decide (lo + 2 ^ n < ways) then treeVictim tree ways n (2 * node + 1) (lo + 2 ^ n)
    else treeVictim tree ways n (2 * node) lo

/-! ## One bank (R248, R251, R252) -/

def setOf (b : CacheBank) (line : Nat) : CacheWays := Tbl.getD b.sets (cacheSet line) {}

/-- The way that holds a line. -/
def wayOf (b : CacheBank) (line : Nat) : Option Nat := ((setOf b line).lines.find? fun e => e.2.tag = cacheTag line).map (·.1)

/-- A hit: the tree turns, a write under write-back leaves the line dirty. -/
def cacheHit (dirty : Bool) (line way : Nat) (b : CacheBank) : CacheBank :=
  let w := setOf b line
  { b with sets := Tbl.set b.sets (cacheSet line) {
      lines := if dirty then Tbl.upd w.lines way fun x => { x with dirty := true } else w.lines, tree := treeTouch way 4 1 w.tree } }

/-- Allocate a line: a free way, else the tree's victim. -/
def cacheFill (ways : Nat) (dirty : Bool) (line : Nat) (b : CacheBank) : CacheBank :=
  let w := setOf b line
  let way := ((List.range ways).find? fun i => !Tbl.has w.lines i).getD (treeVictim w.tree ways 4 1 0)
  { b with sets := Tbl.set b.sets (cacheSet line) { lines := Tbl.set w.lines way { tag := cacheTag line, dirty := dirty }, tree := treeTouch way 4 1 w.tree } }

/-- The side buffer takes a line, first in first out. -/
def sideFill (line : Nat) (stream : Bool) (b : CacheBank) : CacheBank :=
  let l := b.side ++ [{ line := line, stream := stream }]
  { b with side := l.drop (l.length - 64) }

/-- A line held in the side buffer is met: a write updates it there; a read moves it into the cache, a STREAM line on its second hit. -/
def sideHit (ways : Nat) (write : Bool) (x : SideLine) (b : CacheBank) : CacheBank :=
  if write then b
  else if x.stream && !x.hit then { b with side := b.side.map fun y => if y.line = x.line then { y with hit := true } else y }
  else cacheFill ways false x.line { b with side := b.side.filter fun y => y.line ≠ x.line }

/-- A line on its way from DDR; `now` is when it was asked for. -/
def askLine (now line : Nat) (policy : CachePolicy) (write prefetch : Bool) (b : CacheBank) : CacheBank :=
  { b with misses := b.misses ++ [{ line := line, policy := policy, write := write, prefetch := prefetch, due := now + 110 }] }

/-- The bank has a line, or waits for it. -/
def knowsLine (b : CacheBank) (line : Nat) : Bool :=
  (wayOf b line).isSome || b.side.any (fun x => x.line = line) || b.misses.any fun m => m.line = line

/-- Lines of a 4 KiB page behind a line, in the same bank. -/
def nextLines (line : Nat) : List Nat := ((List.range 8).map fun i => line + 4 * (i + 1)).filter fun x => x / 32 = line / 32

/-- Prefetch, while fewer than 48 of the miss entries are in use. -/
def prefetch (now : Nat) (policy : CachePolicy) : List Nat → CacheBank → CacheBank
  | [], b => b
  | x :: xs, b => prefetch now policy xs (if b.misses.length < 48 && !knowsLine b x then askLine now x policy false true b else b)

/-- A further ascending miss in one page counts; the fourth starts the prefetch. -/
def noteMiss (now line : Nat) (policy : CachePolicy) (b : CacheBank) : CacheBank :=
  let run := if b.last / 32 = line / 32 && decide (b.last < line) then b.run + 1 else 1
  let b1 := { b with last := line, run := run }
  if 4 ≤ run then prefetch now policy (nextLines line) b1 else b1

/-- One request at a bank (R248): a hit, a side-buffer hit, a write that passes to DDR, a miss that joins one under way, up to 8 requests, a new miss, up to 64, or a request that waits. -/
def bankAccess (now ways : Nat) (q : CacheReq) (b : CacheBank) : CacheBank :=
  match wayOf b q.line with
  | some w => cacheHit (q.write && q.policy = .wbA) q.line w b
  | none => match b.side.find? fun x => x.line = q.line with
    | some x => sideHit ways q.write x b
    | none =>
      if q.write && q.policy ≠ .wbA then b
      else match b.misses.find? fun m => m.line = q.line with
        | some m =>
          if m.joined < 8 then { b with misses := b.misses.map fun x => if x.line = q.line then { x with joined := x.joined + 1, write := x.write || q.write, prefetch := false } else x }
          else { b with waiting := b.waiting ++ [q] }
        | none =>
          if 64 ≤ b.misses.length then { b with waiting := b.waiting ++ [q] }
          else noteMiss now q.line q.policy (askLine now q.line q.policy q.write false b)

/-- A line arrives: prefetches and STREAM reads fill the side buffer only. -/
def lineArrives (ways : Nat) (m : CacheMiss) (b : CacheBank) : CacheBank :=
  if m.prefetch then sideFill m.line (m.policy = .stream) b
  else if m.policy = .stream then sideFill m.line true b
  else cacheFill ways m.write m.line b

/-- Lines whose time has come arrive, and the requests that waited go on in order. -/
def bankSettle (now ways : Nat) (b : CacheBank) : CacheBank :=
  let here := b.misses.filter fun m => decide (m.due ≤ now)
  if here = [] then b
  else
    let b1 := here.foldl (fun b m => lineArrives ways m b) { b with misses := b.misses.filter fun m => decide (now < m.due) }
    b1.waiting.foldl (fun b q => bankAccess now ways q b) { b1 with waiting := [] }

/-! ## The cache (R247, R254) -/

/-- A line fill that meets an uncorrectable DDR error reaches its requesters as an error and is not allocated (R254). -/
def fillLost (addr : Nat) (s : State) : State :=
  { s with mapCache := { s.mapCache with banks := Tbl.mapVals s.mapCache.banks fun _ b => { b with
      misses := b.misses.filter fun m => m.line ≠ addr / 128
      waiting := b.waiting.filter fun q => q.line ≠ addr / 128 } } }

/-- A bank's domain is on and not fenced. -/
def bankUp (s : State) (b : Nat) : Bool := hasBit s.power.on (9 + b) && !hasBit s.power.fenced (9 + b)

/-- The bank that serves a line: its own, else the other of its pair. -/
def bankFor (s : State) (line : Nat) : Option Nat :=
  let b := line % 4
  if bankUp s b then some b else if bankUp s (b ^^^ 1) then some (b ^^^ 1) else none

/-- A unit reads or writes an item of a DDR region through the cache. -/
def cacheAccess (region key : Nat) (write : Bool) (s : State) : State :=
  let a := itemAddr s.mapCache.regions region key
  let policy := policyAt s.mapCache.regions a
  if policy = .uc then s
  else match bankFor s (a / 128) with
    | none => s
    | some b =>
      let ways := 16 - s.mapCache.ways
      let now := s.time.toNat
      let bank := bankAccess now ways { line := a / 128, write := write, policy := policy } (bankSettle now ways (Tbl.getD s.mapCache.banks b {}))
      { s with mapCache := { s.mapCache with banks := Tbl.set s.mapCache.banks b bank } }

def cacheRead (region key : Nat) (s : State) : State := cacheAccess region key false s
def cacheWrite (region key : Nat) (s : State) : State := cacheAccess region key true s

/-- The number under which a map entry is kept: namespace and unit. -/
def mapItem (nsid unit : Nat) : Nat := nsid * 2 ^ 48 + unit

/-- A way leaves every set of every bank; its dirty lines have been written back (R253). -/
def dropWay (way : Nat) (l : Tbl CacheBank) : Tbl CacheBank :=
  Tbl.mapVals l fun _ b => { b with sets := Tbl.mapVals b.sets fun _ w => { w with lines := Tbl.del w.lines way } }

/-- A fenced bank has lost its lines; its neighbour serves both. -/
def bankLost (b : Nat) (l : Tbl CacheBank) : Tbl CacheBank := Tbl.del l b

/-- A bank is back: its neighbour no longer serves its lines. -/
def bankBack (b : Nat) (l : Tbl CacheBank) : Tbl CacheBank :=
  Tbl.upd l (b ^^^ 1) fun x => { x with
    sets := Tbl.mapVals x.sets fun _ w => { w with lines := Tbl.keep w.lines fun _ y => y.tag % 2 ≠ b % 2 }
    side := x.side.filter fun y => y.line % 4 ≠ b, misses := x.misses.filter fun y => y.line % 4 ≠ b, waiting := x.waiting.filter fun y => y.line % 4 ≠ b }

end Sys2Proof.Machine
end

