-- ==== Sys2Proof/Machine/ErrOps.lean ====
section
/-! DEFINITION. Machine/ErrOps.lean: counting transient faults and recording lasting ones (R489, R496). -/
namespace Sys2Proof.Machine
open Sys2Proof

def State.unitErr (s : State) (dom : Nat) : UnitErr := Tbl.getD s.err.units dom {}
def State.modUnitErr (s : State) (dom : Nat) (f : UnitErr → UnitErr) : State :=
  { s with err := { s.err with units := Tbl.set s.err.units dom (f (s.unitErr dom)) } }

/-- Chip times within the last 3,600 s. -/
def lastHour (now : Nat) (l : List Nat) : List Nat := l.filter fun t => decide (now < t + 3600000000000)

/-- Count one transient fault of a unit; above 1,000 in 3,600 s the alarm is raised once per episode (R489, R497). -/
def countTransient (dom : Nat) (s : State) : State :=
  let u := s.unitErr dom
  let recent := lastHour s.time.toNat u.recent ++ [s.time.toNat]
  let many := decide (1000 < recent.length)
  let s1 := s.modUnitErr dom fun u => { u with
    transients := if u.transients = -1 then u.transients else u.transients + 1
    recent := recent
    episode := many }
  if many && (!u.episode || decide ((lastHour s.time.toNat u.recent).length ≤ 1000)) then raiseAlarm 0x15 s1 else s1

/-- An error as a unit's own hardware reports it, without an agent. -/
def plainErr (code dom unit : Nat) (address info0 info1 : Nat) : ErrObs :=
  { code := BitVec.ofNat 16 code, domain := dom, unit := unit, agent := 0, address := BitVec.ofNat 64 address,
    info0 := BitVec.ofNat 64 info0, info1 := BitVec.ofNat 64 info1, multi := false, host := false }

/-- A transient fault: counted, and recorded with ACTION 1. -/
def transientFault (e : ErrObs) (s : State) : State := (errorRecord 1 false e (countTransient e.domain s)).2

/-- A lasting fault: recorded with ACTION 2; the unit's own rule follows. -/
def lastingFault (e : ErrObs) (s : State) : State := (errorRecord 2 false e s).2

/-- A host-memory read or write of a mailbox command fails: DMA_ERROR and a class 0x05 record (R135, R488). -/
def dmaFault (h : MbxHdr) (addr : W64) (wr : Bool) (s : State) : MReply × State :=
  (replyErr .dmaError (if wr then 1 else 0), (errorRecord 4 false {
    code := 0x0502, domain := hostDomain h.port, unit := 0, agent := 0, address := addr, info0 := BitVec.ofNat 64 (portNum h.port),
    info1 := h.tag.setWidth 64, multi := false, host := true } s).2)

/-- No common version with a partner: the link or session is refused, with the alarm and the event (R17, R508). -/
def noCommonVersion (iface peer lmin lmax rmin rmax : Nat) (s : State) : State :=
  raiseAlarm 0x12 (event 2 0x33 (le8 iface ++ zeros 1 ++ le16 peer ++ le8 lmin ++ le8 lmax ++ le8 rmin ++ le8 rmax) s)

/-- A frame of a version other than the one agreed (R329, R382, R508). -/
def versionFrame (iface version peer : Nat) (s : State) : State := event 1 0x34 (le8 iface ++ le8 version ++ le16 peer) s

end Sys2Proof.Machine
end

