-- ==== Sys2Proof/Machine/LinkFmt.lean ====
section
/-! DEFINITION. Machine/LinkFmt.lean: what goes over the Kamard and Jalras links, as bytes: frames and messages (R242, R263, R322, R323, R330, R406, R408). -/
namespace Sys2Proof.Machine
open Sys2Proof

/-- The head index h of R402: the chain position. -/
def headIndex (s : State) : Nat := (s.chain.position.getD 0).toNat % 2

/-- Bytes of a logical block (R152). -/
def blockBytes (n : Ns) : Nat := if n.fmt512 then 512 else 4096

/-- The granules that hold some bytes (R242). -/
def granules (bytes : Nat) : Nat := max 1 (ceilDiv bytes 4096)

/-! ## Kamard ports (R325, R330) -/

def State.kport (s : State) (n : Nat) : KPort := Tbl.getD s.kports n {}
def State.modK (s : State) (n : Nat) (f : KPort → KPort) : State := { s with kports := Tbl.set s.kports n (f (s.kport n)) }
def State.mod (s : State) (n : Nat) : Module := Tbl.getD s.mods n {}
def State.modMod (s : State) (n : Nat) (f : Module → Module) : State := { s with mods := Tbl.set s.mods n (f (s.mod n)) }

/-- Count in a port counter of R339, by its place in the list from 0. -/
def bumpK (port i n : Nat) (s : State) : State :=
  s.modK port fun k => { k with counters := k.counters.set i (k.counters.getD i 0 + n) }

/-- A TAG that no outstanding command of the port has. -/
def freeTag (k : KPort) : Nat := Tbl.freshFrom k.cmds k.cmds.length (k.nextTag % 65536)

/-- The port may take one more command now. -/
def kamRoom (k : KPort) : Bool := decide (k.unacked.length < 32) && decide (k.cmds.length < k.limit)

/-- The die of the pool area that a command acts on (R342). -/
def cmdDie : KCmd → Option Nat
  | .read a _ _ _ _ => some (a / 2 ^ 30)
  | .program 0 a _ _ => some (a / 2 ^ 30)
  | .erase 0 a => some (a / 2 ^ 30)
  | .threshLoad die _ _ => some die
  | .proxy c _ => cmdDie c
  | _ => none

/-- The page of the pool area that a command programs (R342). -/
def progPage : KCmd → Option Nat
  | .program 0 a _ _ => some (a / 16)
  | .proxy c _ => progPage c
  | _ => none

/-- The block of the pool area that a command erases. -/
def erasedBlk : KCmd → Option Nat
  | .erase 0 a => some (a / 2 ^ 16)
  | .proxy c _ => erasedBlk c
  | _ => none

/-- The page of the pool area that a command reads or programs. -/
def usedPage : KCmd → Option Nat
  | .read a _ _ _ _ => some (a / 16)
  | .program 0 a _ _ => some (a / 16)
  | .proxy c _ => usedPage c
  | _ => none

/-- A command waits for an unanswered one on its die: a whole wordline is being programmed there; or it would program another wordline than the one under way; or both touch one page and either programs it, or one erases the block of the other's page (R327, R340, R349). -/
def dieWaits (o c : KCmd) : Bool :=
  decide ((cmdDie c).isSome ∧ cmdDie o = cmdDie c) &&
    match progPage o, progPage c with
    | some p, some q => decide (p / 4096 ≠ q / 4096) || decide (p % 4096 / 3 ≠ q % 4096 / 3)
    | some p, none => decide (p % 4096 % 3 = 2) || decide (usedPage c = some p) || decide (erasedBlk c = some (p / 4096))
    | none, _ => ((progPage c).isSome && decide (usedPage o = usedPage c))
        || ((erasedBlk c).isSome && decide ((usedPage o).map (· / 4096) = erasedBlk c)) || ((erasedBlk o).isSome && decide ((usedPage c).map (· / 4096) = erasedBlk o))

/-- A command may go on the port now: there is room, and neither an unanswered command nor one that waits before it holds up its die (R327). -/
def kamMay (k : KPort) (c : KCmd) : Bool :=
  kamRoom k && !(k.cmds.any fun e => dieWaits e.2 c) && !(k.queue.any fun q => decide ((cmdDie c).isSome ∧ cmdDie q = cmdDie c))

/-! ## Frames on the wire (R322, R323, R330) -/

/-- The trailer's CRC covers the slot's bytes and trailer bytes 0 to 3 (R323). -/
def slotCrc (d : List Byte) (index plane : Nat) : W32 := Config.crc32c (d ++ le8 index ++ le8 plane ++ zeros 2)

/-- A slot at its position in the frame. -/
def mkSlot (d : List Byte) (index plane : Nat) : KSlot := { data := d, index := index, plane := plane, crc := slotCrc d index plane }

/-- Slots of one plane each, in order. -/
def hardSlots (l : List (List Byte)) : List KSlot := l.zipIdx.map fun x => mkSlot x.1 x.2 0

/-- Cut bytes into slots of 4,608, the last filled with zeros. -/
def slotPieces : Nat → List Byte → List (List Byte)
  | 0, _ => []
  | n + 1, l => if l = [] then [] else fit 4608 l :: slotPieces n (l.drop 4608)

/-- The slots that a command carries. -/
def cmdSlots : KCmd → List KSlot
  | .program _ _ _ cws => hardSlots cws
  | .vaultProgram _ _ _ cws => hardSlots cws
  | .fwWrite _ d => hardSlots (slotPieces 16 d)
  | .proxy c _ => cmdSlots c
  | _ => []

/-- OPCODE (R330). -/
def cmdOpcode : KCmd → Nat
  | .hello _ _ _ => 0x01 | .ack => 0x02 | .nak _ => 0x03 | .read _ _ _ _ _ => 0x10 | .program _ _ _ _ => 0x11 | .erase _ _ => 0x12
  | .threshLoad _ _ _ => 0x13 | .vaultProgram _ _ _ _ => 0x14 | .vaultErase _ _ => 0x15 | .moduleInfo => 0x16 | .claim _ _ => 0x18
  | .fwWrite _ _ => 0x19 | .fwActivate _ _ => 0x1A
  | .proxy c _ => cmdOpcode c

/-- AREA and the address within it (R322, R342); a vault bank follows the other (log entry 191). -/
def cmdAddress (s : State) : KCmd → Nat
  | .hello _ _ _ => (nodeId s).getD 0 % 2 ^ 13 + (s.chain.position.getD 0).toNat % 2 * 2 ^ 16
  | .read a _ _ _ _ => a
  | .program area a _ _ => area * 2 ^ 56 + a
  | .erase area a => area * 2 ^ 56 + a
  | .threshLoad die _ _ => die * 2 ^ 30
  | .vaultProgram area bank off _ => area * 2 ^ 56 + bank * 1610612736 + off
  | .vaultErase area bank => area * 2 ^ 56 + bank * 1610612736
  | .fwWrite off _ => 4 * 2 ^ 56 + off
  | .proxy c _ => cmdAddress s c
  | _ => 0

/-- PARAM (R329, R330). DESIGN CHOICE: VAULT_PROGRAM sends zeros, for R330 puts SLC in PARAM [0] of PROGRAM alone (log entry 229). -/
def cmdParam : KCmd → List Byte
  | .hello lo hi n => le8 lo ++ le8 hi ++ le16 n ++ zeros 4
  | .read _ sense thresh mask _ => le8 sense ++ le8 thresh ++ le16 mask ++ zeros 4
  | .program _ _ slc _ => le64 (if slc then 1 else 0)
  | .threshLoad _ set offs => le8 set ++ fit 7 (offs.map fun x => BitVec.ofInt 8 x)
  | .claim _ reset => le64 (if reset then 1 else 0)
  | .fwActivate n crc => le32 n ++ le32 crc.toNat
  | .proxy c _ => cmdParam c
  | _ => zeros 8

/-- The ownership generation under which this head writes a module's pool (R333). -/
def poolGen (s : State) (n : Nat) : W32 :=
  match s.pools.find? fun e => e.2.cur.members.contains n || (match e.2.target with | some t => t.members.contains n | none => false)
      || e.2.failed.any fun f => f.module = n || f.replacement = some n with
  | some e => e.2.ownerGen
  | none => 0

/-- OWNER_GEN: of a CLAIM, of a command that the peer sent, of the pool otherwise. -/
def cmdGen (s : State) (port : Nat) : KCmd → W32
  | .claim g _ => g
  | .proxy _ g => g
  | .hello _ _ _ | .ack | .nak _ => 0
  | _ => poolGen s port

def isProxy : KCmd → Bool
  | .proxy _ _ => true
  | _ => false

/-- Link-control frames: KIND 4 (R322). -/
def isControl : KCmd → Bool
  | .hello _ _ _ | .ack | .nak _ => true
  | _ => false

/-- The frame header (R322); ACK names the SEQ expected next, which a NAK asks for. -/
def frameHead (s : State) (port tag seq : Nat) (retx : Bool) (c : KCmd) : List Byte :=
  let k := s.kport port
  let n := (cmdSlots c).length
  let v := match c with | .hello _ _ _ => 1 | _ => k.version
  let b := le8 ((if isControl c then 4 else 1) + 16 * v) ++ le8 (cmdOpcode c) ++ le16 tag ++ le8 n ++ le8 (if n = 0 then 0 else 1)
    ++ le8 ((if retx then 1 else 0) + (if isProxy c then 2 else 0)) ++ zeros 1 ++ le64 (cmdAddress s c) ++ cmdParam c
    ++ le32 (cmdGen s port c).toNat ++ le16 seq ++ le16 k.rxSeq ++ zeros 4
  b ++ le32 (Config.crc32c b).toNat

/-- A slot with its trailer (R323). -/
def kslotBytes (x : KSlot) : List Byte := x.data ++ le8 x.index ++ le8 x.plane ++ zeros 2 ++ le32 x.crc.toNat

/-- STATUS of a response (R332). -/
def kStatusNum : KStatus → Nat
  | .ok => 0 | .programFail => 1 | .eraseFail => 2 | .addressInvalid => 3 | .ownerFenced => 4 | .bankDenied => 5 | .unsupported => 6 | .dieFault => 7 | .fwInvalid => 8

/-- The header of a response as PROXY_RSP carries it (R322, R408). -/
def rspHead (s : State) (port : Nat) (c : KCmd) (st : KStatus) (n : Nat) : List Byte :=
  let b := le8 (2 + 16 * (s.kport port).version) ++ le8 (cmdOpcode c) ++ zeros 2 ++ le8 n ++ le8 (if n = 0 then 0 else 1) ++ le8 2 ++ le8 (kStatusNum st)
    ++ le64 (cmdAddress s c) ++ cmdParam c ++ le32 (cmdGen s port c).toNat ++ zeros 8
  b ++ le32 (Config.crc32c b).toNat

/-! ## Entries that the journal and the vault share with the link (R242, R263) -/

/-- STATE of a stripe-in-flight entry (R263). -/
def sifNum : SifState → Nat
  | .opened => 1 | .writing => 2 | .written => 3 | .committed => 4

/-- A stripe-in-flight entry of 384 bytes (R263). -/
def sifBytes (version seq : Nat) (x : Sif) : List Byte :=
  let b := le64 seq ++ le64 x.stripe ++ le64 x.gseq ++ le64 x.time.toNat ++ le64 x.written.toNat ++ le64 x.verified.toNat
    ++ le8 x.pool ++ le8 x.k ++ le8 x.m ++ le8 (sifNum x.state) ++ le8 version ++ zeros 3 ++ le64 (x.missing.toNat % 2 ^ 36)
    ++ (List.range 36).flatMap (fun i => le64 (match x.placement.getD i none with | some (m, a) => m + a * 256 | none => 0)) ++ zeros 28
  b ++ le32 (Config.crc32c b).toNat

/-- A descriptor of 32 bytes (R242); DATA_GRANULE counts within the data section. -/
def descBytes (s : State) (mirror : Bool) (seq granule : Nat) (d : Desc) : List Byte :=
  let f := fun (n : Nat) (b : Bool) => if b then 2 ^ n else 0
  let off := match Tbl.find s.ns d.nsid with
    | some v => d.slba * blockBytes v
    | none => d.slba * 4096
  le64 seq ++ le32 d.nsid ++ le8 (f 0 mirror + f 1 d.whole + f 2 d.peerAck) ++ le8 d.origin ++ le16 d.granules ++ le64 off ++ le32 d.bytes ++ le32 granule

/-- The data of a write as the host sent it. -/
def hostBytes (s : State) (nsid : Nat) (data : List Nat) : List Byte :=
  let n := match Tbl.find s.ns nsid with
    | some v => blockBytes v
    | none => 4096
  data.flatMap fun x => leBytes n x

/-! ## Jalras messages (R408) -/

/-- Opcodes of the NVM command set. -/
def nvmOpcode : NvmOp → Nat
  | .flush => 0 | .write => 1 | .read => 2 | .writeUncorrectable => 4 | .compare => 5 | .compareWrite => 5 | .writeZeroes => 8 | .dsm => 9 | .verify => 12

/-- The submission entry of a forwarded command, with its number as command identifier (log entry 196). -/
def sqeBytes (id : Nat) (c : Inflight) : List Byte :=
  let prp := match c.ptr with
    | .prp a l => le64 a.toNat ++ le64 (l.headD 0).toNat
    | _ => zeros 16
  let rng := if c.op = .dsm then le32 (c.ranges.length - 1) ++ le32 4 ++ zeros 4 else le64 c.slba ++ le32 (c.nlb - 1 + (if c.deac then 2 ^ 25 else 0))
  le8 (nvmOpcode c.op) ++ le8 (if c.op = .compareWrite then 1 else 0) ++ le16 (id % 65536) ++ le32 c.nsid ++ zeros 16 ++ prp ++ rng ++ zeros 12

/-- TYPE and CLASS of a message; the types of the acknowledgements that the table leaves out follow their requests (log entry 196). -/
def peerType : PeerMsg → Nat × Nat
  | .heartbeat _ _ _ _ => (0x03, 0) | .vaultNotice => (0x04, 0) | .serials _ => (0x05, 0) | .ownership _ _ _ => (0x06, 0) | .resyncDone => (0x07, 0)
  | .sifUpdate _ => (0x10, 1) | .sifAck _ => (0x11, 1) | .journalGroup _ => (0x12, 1) | .journalAck _ => (0x13, 1) | .releaseMirror _ => (0x14, 1)
  | .mirrorData _ _ _ _ => (0x20, 2) | .mirrorAck _ => (0x21, 2)
  | .forwardCmd _ | .forwardAbort _ => (0x30, 3) | .forwardRsp _ _ _ _ => (0x31, 3) | .proxyMedia _ _ => (0x32, 3) | .proxyRsp _ _ _ _ => (0x33, 3)
  | .cluster _ => (0x40, 3)

def peerStNum : PeerSt → Nat
  | .alone => 0 | .joining => 1 | .mirrored => 2 | .partitioned => 3 | .takeover => 4

/-- A count and a list of WRITE_SEQ values. -/
def seqList (l : List Nat) : List Byte := le32 l.length ++ zeros 4 ++ l.flatMap le64

/-- The body of a message (R408). -/
def peerBody (s : State) : PeerMsg → List Byte
  | .heartbeat st vaulting stopping owned =>
    le8 (peerStNum st) ++ le8 (flag 0 vaulting + flag 1 stopping) ++ le8 owned.toNat ++ zeros 1 ++ le32 s.jal.session.toNat ++ le64 s.time.toNat
  | .vaultNotice | .resyncDone => le32 s.jal.session.toNat ++ zeros 4
  | .serials l => (List.range 96).flatMap fun i => le64 (l.getD i 0).toNat
  | .ownership pool done gen => le8 pool ++ le8 (if done then 1 else 0) ++ zeros 2 ++ le32 gen.toNat
  | .sifUpdate q => (match Tbl.find s.carafe.sif q with
    | some x => sifBytes s.jal.journalVersion q { x with state := if x.gseq ≠ 0 then .committed else x.state }
    | none => fit 384 (le64 q))
  | .sifAck q => le64 q
  | .journalGroup n => (match Tbl.find s.journal.groups n with
    | some g => g.image
    | none => [])
  | .journalAck n => le64 n
  | .releaseMirror l | .mirrorAck l => seqList l
  | .mirrorData seq nsid slba data =>
    let len := (hostBytes s nsid data).length
    let own := Tbl.find s.carafe.own seq
    let d : Desc := {
      nsid := nsid, whole := true, origin := own.elim (headIndex s) (·.origin), granules := granules len, slba := slba, bytes := len, data := data }
    descBytes s true seq (own.elim 0 fun d => d.list.headD 0) d ++ hostBytes s nsid data
  | .forwardCmd id => (match Tbl.find s.host.inflight id with
    | some c => sqeBytes id c ++ le16 c.ctrl ++ zeros 6 ++ hostBytes s c.nsid c.data
    | none => [])
  | .forwardAbort id => le8 8 ++ zeros 1 ++ le16 (id % 65536) ++ zeros 36 ++ le32 (id % 65536 * 65536) ++ zeros 28
  | .forwardRsp id sct sc data => zeros 12 ++ le16 (id % 65536) ++ le16 (2 * sc + 512 * sct) ++ data
  | .proxyMedia n c => frameHead s n 0 0 false (.proxy c (cmdGen s n c)) ++ (cmdSlots c).flatMap kslotBytes
  | .proxyRsp n c st slots => rspHead s n c st slots.length ++ slots.flatMap kslotBytes
  | .cluster b => b

/-! ## Jalras frames (R406) -/

/-- A frame: its header with CRC, the payload, the CRC of the payload. -/
def jalBytes (version seq ack : Nat) (retx : Bool) (p : JalPiece) : List Byte :=
  let h := le8 version ++ le8 p.type ++ le8 (flag 0 p.first + flag 1 p.last + flag 2 retx) ++ le8 p.cls ++ le32 seq ++ le32 ack ++ le32 p.msgSeq
    ++ le32 p.payload.length ++ le32 p.offset ++ zeros 4
  h ++ le32 (Config.crc32c h).toNat ++ p.payload ++ le32 (Config.crc32c p.payload).toNat

/-- Largest payload of a frame at a link version (R404, R410). -/
def jalMax (version : Nat) : Nat := if version = 1 then 4096 else 8192

/-- Cut a message into frames. -/
def jalPieces (type cls msg size : Nat) (home : Option Nat) : Nat → Nat → List Byte → List JalPiece
  | 0, _, _ => []
  | f + 1, off, b =>
    let rest := b.drop size
    { type := type, cls := cls, msgSeq := msg, offset := off, first := off = 0, last := rest = [], payload := b.take size, home := home }
      :: (if rest = [] then [] else jalPieces type cls msg size home f (off + size) rest)

def cutMessage (version type cls msg : Nat) (home : Option Nat) (b : List Byte) : List JalPiece :=
  jalPieces type cls msg (jalMax version) home (b.length / jalMax version + 1) 0 b

/-- HELLO and HELLO_REPLY (R408), as frames of version 1 that are not numbered. -/
def jalHelloHead (s : State) (v : List Byte) : List Byte :=
  v ++ le8 (headIndex s) ++ le8 ((s.chain.position.getD 0).toNat / 2) ++ le16 ((nodeId s).getD 0xFFFF)

def jalHelloTail (s : State) : List Byte :=
  leBytes 16 s.fuses.uid.toNat ++ le32 s.jal.session.toNat ++ le64 (match s.boot.cc with | some i => i.fwVersion.toNat | none => 0)

def jalHello (n : Nat) (s : State) : State :=
  emit (.jal n (jalBytes 1 0 0 false { type := 1, cls := 0, msgSeq := 0, payload := jalHelloHead s (le8 1 ++ le8 2 ++ le8 1 ++ le8 2) ++ jalHelloTail s })) s

def jalHelloReply (n v j : Nat) (s : State) : State :=
  emit (.jal n (jalBytes 1 0 0 false { type := 2, cls := 0, msgSeq := 0, payload := jalHelloHead s (le8 v ++ le8 j) ++ zeros 2 ++ jalHelloTail s })) s

end Sys2Proof.Machine
end

