-- ==== Sys2Proof/Machine/LinkOps.lean ====
section
/-! DEFINITION. Machine/LinkOps.lean: sending on the Jalras link and on Kamard ports, and the peer states that other rules ask about (R325, R330, R404 to R413). -/
namespace Sys2Proof.Machine
open Sys2Proof

/-! ## The peer -/

/-- Single-head rules hold: ALONE and TAKEOVER (R413). -/
def singleHead (s : State) : Bool := s.peerState = .alone || s.peerState = .takeover

/-- The peer counts as present for the dirty limits and for acknowledgements (R243, R413, R414). -/
def peerPresent (s : State) : Bool := !singleHead s

def State.sub (s : State) (n : Nat) : SubLink := Tbl.getD s.jal.subs n {}
def State.modSub (s : State) (n : Nat) (f : SubLink → SubLink) : State := { s with jal := { s.jal with subs := Tbl.set s.jal.subs n (f (s.sub n)) } }

/-- Sub-links to the peer that are up. -/
def peerSubs (s : State) : List Nat := (s.jal.subs.filter fun e => e.2.state = .up && !e.2.cross).map (·.1)
/-- Cross sub-links that are up. -/
def crossSubs (s : State) : List Nat := (s.jal.subs.filter fun e => e.2.state = .up && e.2.cross).map (·.1)

/-! ## Sending on Jalras (R404, R406, R409, R410) -/

def State.modJal (s : State) (f : Jalras → Jalras) : State := { s with jal := f s.jal }

/-- Number a frame on a sub-link, send it and keep it until it is acknowledged. -/
def jalPut (n : Nat) (p : JalPiece) (credit : Nat × Nat × Nat) (s : State) : State :=
  let l := s.sub n
  let s1 := s.modSub n fun l => { l with
    txSeq := (l.txSeq + 1) % 2 ^ 32, credit := credit, ackDue := false, unacked := l.unacked ++ [{ seq := l.txSeq, piece := p, sentAt := s.time.toNat }] }
  emit (.jal n (jalBytes s.jal.version l.txSeq l.rxSeq false p)) (s1.modJal fun j => { j with waiting := j.waiting.erase p, turn := j.turn + 1 })

/-- The frames that may go on a sub-link: those bound to it, and on a peer sub-link those bound to none. -/
def jalReadyOn (s : State) (n : Nat) : List JalPiece := s.jal.waiting.filter fun p => p.home = some n || (p.home.isNone && !(s.sub n).cross)

/-- Weighted round robin among mirror, journal and forward, within what is left of a round (R409). -/
def wrrPick (m j f : Option JalPiece) (c : Nat × Nat × Nat) : Option (JalPiece × Nat × Nat × Nat) :=
  match m, j, f with
  | some p, _, _ => if 0 < c.1 then some (p, c.1 - 1, c.2.1, c.2.2) else wrrJournal j f c
  | none, j, f => wrrJournal j f c
where
  wrrJournal (j f : Option JalPiece) (c : Nat × Nat × Nat) : Option (JalPiece × Nat × Nat × Nat) :=
    match j with
    | some p => if 0 < c.2.1 then some (p, c.1, c.2.1 - 1, c.2.2) else wrrForward f c
    | none => wrrForward f c
  wrrForward (f : Option JalPiece) (c : Nat × Nat × Nat) : Option (JalPiece × Nat × Nat × Nat) :=
    match f with
    | some p => if 0 < c.2.2 then some (p, c.1, c.2.1, c.2.2 - 1) else none
    | none => none

/-- The next frame of a sub-link: control first, then the classes by weight; a round that is used up starts again (R409). -/
def jalPick (credit : Nat × Nat × Nat) (l : List JalPiece) : Option (JalPiece × Nat × Nat × Nat) :=
  let of := fun c => l.find? fun p => p.cls = c
  match of 0 with
  | some p => some (p, credit)
  | none => (wrrPick (of 2) (of 1) (of 3) credit).orElse fun _ => wrrPick (of 2) (of 1) (of 3) (4, 2, 1)

/-- Up sub-links in turn. -/
def subsInTurn (s : State) : List Nat :=
  let l := peerSubs s ++ crossSubs s
  let k := s.jal.turn % max 1 l.length
  l.drop k ++ l.take k

/-- Send waiting frames while a sub-link has room. -/
def jalPump : Nat → State → State
  | 0, s => s
  | f + 1, s =>
    match (subsInTurn s).findSome? fun n => if (s.sub n).unacked.length < 256 then (jalPick (s.sub n).credit (jalReadyOn s n)).map fun x => (n, x) else none with
    | none => s
    | some (n, p, c) => jalPump f (jalPut n p c s)

def jalFlow (s : State) : State := jalPump s.jal.waiting.length s

/-- Queue a message to the peer, bound to a sub-link or to none. -/
def jalQueue (home : Option Nat) (m : PeerMsg) (s : State) : State :=
  let t := peerType m
  let n := s.jal.txMsg.getD t.2 0
  jalFlow (s.modJal fun j => { j with
    txMsg := j.txMsg.set t.2 ((n + 1) % 2 ^ 32), waiting := j.waiting ++ cutMessage j.version t.1 t.2 n home (peerBody s m) })

/-- Send a message to the peer; at version 1 the whole of it goes on one sub-link (R410); without a link up nothing is sent. -/
def jalSend (m : PeerMsg) (s : State) : State :=
  match peerSubs s with
  | [] => s
  | l => jalQueue (if s.jal.version = 1 then l[s.jal.turn % l.length]? else none) m s

def jalSendAll : List PeerMsg → State → State
  | [], s => s
  | m :: ms, s => jalSendAll ms (jalSend m s)

/-- Send a cluster message on a cross sub-link (R405, R424). -/
def jalCross (n : Nat) (b : List Byte) (s : State) : State :=
  let m := (s.sub n).crossMsg
  jalFlow ((s.modSub n fun l => { l with crossMsg := (m + 1) % 2 ^ 32 }).modJal fun j => { j with
    waiting := j.waiting ++ cutMessage j.version 0x40 3 m (some n) b })

/-! ## Sending on Kamard ports (R325, R330) -/

/-- Send a command with a new TAG, as a frame that is kept until acknowledged. -/
def kamPut (port : Nat) (c : KCmd) (s : State) : State :=
  let k := s.kport port
  let tag := freeTag k
  let f : KFrame := { seq := k.txSeq, cmd := c, tag := tag }
  let s1 := s.modK port fun k => { k with
    txSeq := (k.txSeq + 1) % 65536, unacked := k.unacked ++ [f], cmds := Tbl.set k.cmds tag c, nextTag := (tag + 1) % 65536 }
  bumpK port 0 1 (emit (.kam port tag c (frameHead s port tag k.txSeq false c) (cmdSlots c)) s1)

/-- Issue a command, or let it wait for room or for its die. -/
def kamSend (port : Nat) (c : KCmd) (s : State) : State :=
  if kamMay (s.kport port) c then kamPut port c s else s.modK port fun k => { k with queue := k.queue ++ [c] }

/-- Send the waiting commands that may go. -/
def kamDrain (port : Nat) : List KCmd → State → State
  | [], s => s
  | c :: cs, s => if kamMay (s.kport port) c then kamDrain port cs (kamPut port c s)
    else kamDrain port cs (s.modK port fun k => { k with queue := k.queue ++ [c] })

def kamFlow (port : Nat) (s : State) : State := kamDrain port (s.kport port).queue (s.modK port fun k => { k with queue := [] })

/-- A link-control frame: never kept, never answered by TAG. DESIGN CHOICE: it carries the next SEQ of the direction and does not use it up, for R325 numbers the frames that an ACK releases (log entry 229). -/
def kamControl (port : Nat) (c : KCmd) (s : State) : State := bumpK port 0 1 (emit (.kam port 0 c (frameHead s port 0 (s.kport port).txSeq false c) []) s)

/-- A command for a member: on this head's own port, or through the peer when only the peer reaches it (R335). -/
def mediaSend (module : Nat) (c : KCmd) (s : State) : State :=
  let k := s.kport module
  if k.state = .up ∨ k.state = .retrain then kamSend module c s
  else if k.peerUp then jalSend (.proxyMedia module c) s
  else s

end Sys2Proof.Machine
end

