-- ==== Sys2Proof/Machine/Records.lean ====
section
/-! DEFINITION. Machine/Records.lean: units and their counts, and the records of the metadata journal as bytes (R177, R221, R222, R255, R256). -/
namespace Sys2Proof.Machine
open Sys2Proof


/-! ## Units (R221, R222) -/

def unitKey (pool id : Nat) : Nat := pool * 2 ^ 44 + id
def unitPool (key : Nat) : Nat := key / 2 ^ 44

/-- The unit that an entry names. -/
def entUnit : Option MapEnt → List Nat
  | some (.unit k) => [k]
  | _ => []

/-! ## Map pages (R222, R418)

A volume's map and the map of a snapshot's view are trees of pages of 512 entries. A page that several trees share has one number in all of them; a change of an entry gives the tree a page of its own. -/

def putEnt (t : Tbl MapEnt) (i : Nat) : Option MapEnt → Tbl MapEnt
  | some e => Tbl.set t i e
  | none => Tbl.del t i

def Ns.putEnt (i : Nat) (e : Option MapEnt) (v : Ns) : Ns := { v with map := Machine.putEnt v.map i e, pages := Tbl.del v.pages (i / 512) }
def Snap.putEnt (i : Nat) (e : Option MapEnt) (w : Snap) : Snap := { w with map := Machine.putEnt w.map i e, pages := Tbl.del w.pages (i / 512) }

/-- A copy of a tree shares its pages: those that had no number yet take the next ones of this head (R222, R418). -/
def sharePages (s : State) (map : Tbl MapEnt) (pages : Tbl Nat) : Tbl Nat × State :=
  let fresh := ((map.map fun e => e.1 / 512).eraseDups.filter fun p => !Tbl.has pages p)
  (fresh.zipIdx.foldl (fun t x => Tbl.set t x.1 (2 * (s.snaps.nextPage + x.2) + headIndex s)) pages,
    { s with snaps := { s.snaps with nextPage := s.snaps.nextPage + fresh.length } })

/-- Every tree: its entries and its shared pages. -/
def trees (s : State) : List (Tbl MapEnt × Tbl Nat) := s.ns.map (fun e => (e.2.map, e.2.pages)) ++ s.snaps.views.map fun e => (e.2.map, e.2.pages)

/-- Entries of a tree's own pages that name a unit. -/
def ownRefs (key : Nat) (t : Tbl MapEnt × Tbl Nat) : Nat := (t.1.filter fun e => e.2 = .unit key && !Tbl.has t.2 (e.1 / 512)).length

/-- Entries of shared pages that name a unit, each once: page number and entry. -/
def sharedRefs (key : Nat) (l : List (Tbl MapEnt × Tbl Nat)) : List (Nat × Nat) :=
  (l.flatMap fun t => t.1.filterMap fun e => if e.2 = .unit key then (Tbl.find t.2 (e.1 / 512)).map fun n => (n, e.1) else none).eraseDups

/-- The entries of a write from before a cut that a tree still waits for: all of them in a view of the write's own volume, else those that have not changed since (R420). -/
def lateEnts (id : Nat) (pending : List Nat) (own : Bool) (changed : Tbl Unit) (d : Desc) : List (Nat × MapEnt) :=
  if pending.contains id then d.ents.filter fun x => own || !Tbl.has changed x.1 else []

/-- What a write's commit does to the maps of the views and clones that wait for it. -/
def mapLate (id : Nat) (d : Desc) (s : State) : State :=
  { s with
    snaps := { s.snaps with views := Tbl.mapVals s.snaps.views fun _ w =>
      (lateEnts id w.pending (w.nsid = d.nsid) w.changed d).foldl (fun w x => w.putEnt x.1 (some x.2)) w }
    ns := Tbl.mapVals s.ns fun n v => match Tbl.find s.snaps.clones n with
      | some i => (lateEnts id i.pending false i.changed d).foldl (fun v x => v.putEnt x.1 (some x.2)) v
      | none => v }

/-- What the MAP_SET entries of a group do to the maps of its volumes. -/
def mapLive : List (Nat × Nat × Option MapEnt) → State → State
  | [], s => s
  | (nsid, i, e) :: l, s => mapLive l { s with ns := Tbl.upd s.ns nsid (Ns.putEnt i e) }

/-- An alias names its target. -/
def mapAlias (s : State) : Effect → State
  | .alias_ gone kept => { s with grinder := { s.grinder with units := Tbl.upd s.grinder.units gone fun u => { u with alias_ := some kept } } }
  | _ => s

/-- Everything that a group changes in the trees and among the aliases. -/
def mapGroup (g : Group) (s : State) : State :=
  g.writes.foldl (fun s id => match Tbl.find s.carafe.own id with
    | some d => mapLate id d s
    | none => s) (g.effects.foldl mapAlias (mapLive g.map s))

/-- Record groups that have not committed, in order: those of the ring, then those that wait for it. -/
def openGroups (s : State) : List Group := (s.journal.groups.filter fun e => !e.2.committed).map (·.2) ++ s.journal.waiting

/-- The trees as they will stand once every group made so far has committed. -/
def ahead (s : State) : State := (openGroups s).foldl (fun s g => mapGroup g s) s

/-! ## Reference counts (R222 to R224) -/

/-- Entries of an epoch being built that a received unit answers. -/
def builtRefs (key : Nat) (x : Repl) : Nat :=
  (x.built.filter fun b => match b.2 with
    | .unit k => decide (Tbl.find x.xlat k = some key)
    | _ => false).length

/-- References to a unit: map entries, each entry of a shared page once, and aliases (R222, R233). -/
def refCount (s : State) (key : Nat) : Nat :=
  ((trees s).map (ownRefs key)).sum + (sharedRefs key (trees s)).length
    + (s.grinder.units.filter fun e => e.2.live && e.2.alias_ = some key).length

/-- What keeps a unit: its references, and the entries of an epoch being built at a replication target. -/
def heldCount (s : State) (key : Nat) : Nat := refCount s key + (s.repls.map fun e => builtRefs key e.2).sum

/-- Some group of a list takes a unit's last reference, or sets it LOST. -/
def goneScan (key : Nat) : List Group → State → Bool
  | [], _ => false
  | g :: gs, s =>
    let t := mapGroup g s
    (g.effects.any fun e => match e with
      | .lose l => l.contains key
      | .settle l => l.contains key && decide (heldCount t key = 0)
      | _ => false)
      || (decide (0 < heldCount s key) && decide (heldCount t key = 0)) || goneScan key gs t

/-- A unit that a group made now can no longer name: it is free or LOST, or a group made before makes it so (R224, R225). -/
def unitGone (s : State) (key : Nat) : Bool :=
  match Tbl.find s.grinder.units key with
  | none => true
  | some u => !u.live || u.lost || goneScan key (openGroups s) s

/-- The units whose count a group may change: those of the pages on which it changes an entry, and those that its entries name. -/
def touched (s : State) (g : Group) : List Nat :=
  let ds := g.writes.filterMap fun id => Tbl.find s.carafe.own id
  let l := g.map.map (·.2.1) ++ ds.flatMap fun d => d.ents.map (·.1)
  let pages := (l.map fun i => i / 512).eraseDups
  ((trees s).flatMap fun t => (t.1.filter fun e => pages.contains (e.1 / 512)).flatMap fun e => entUnit (some e.2))
    ++ (g.map.flatMap fun x => entUnit x.2.2) ++ (ds.flatMap fun d => d.ents.flatMap fun x => entUnit (some x.2))
    ++ g.effects.flatMap fun e => match e with
      | .alias_ gone kept => [gone, kept]
      | .settle l => l
      | _ => []

/-- ENC of a unit record (R221). -/
def encNum : Enc → Nat
  | .raw => 0 | .lz4 => 1 | .zstd => 2
def encFrom (n : Nat) : Enc := if n = 1 then .lz4 else if n = 2 then .zstd else .raw

/-- The unit record of 32 bytes (R221). -/
def unitBytes (s : State) (key : Nat) (u : UnitRec) : List Byte :=
  let f := fun (n : Nat) (b : Bool) => if b then 2 ^ n else 0
  leBytes 6 (match u.alias_ with | some t => t % 2 ^ 44 | none => u.group) ++ le16 (u.offset % 2 ^ 12) ++ le16 (u.clen % 2 ^ 15)
    ++ le8 (f 0 u.live + f 1 u.pending + f 2 u.alias_.isSome + f 3 u.pinned + f 4 u.lost + encNum u.enc * 32) ++ zeros 1
    ++ le32 (if u.pinned then 0xFFFFFFFF else min 0xFFFFFFFF (refCount s key)) ++ fit 8 (u.digest.take 8) ++ le32 u.crc.toNat ++ zeros 4

/-- A Deferred Error log entry of 64 bytes (R177). -/
def deferredBytes (e : Deferred) : List Byte :=
  le64 e.seq ++ le32 e.nsid ++ le8 e.cause ++ le8 e.state ++ le8 e.pool ++ zeros 1 ++ le64 e.slba ++ le64 e.nlb ++ le64 e.time.toNat
    ++ le64 e.epochFirst.toNat ++ le64 e.epochLast.toNat ++ zeros 8

/-! ## Records (R256) -/

/-- A record: TYPE, LENGTH, the payload padded to 8 bytes. -/
def jrnRecord (r : Nat × List Byte) : List Byte := le16 r.1 ++ le16 r.2.length ++ zeros 4 ++ fit (roundUp r.2.length 8) r.2

/-- A map entry of 8 bytes. -/
def mapEntBytes : Option MapEnt → List Byte
  | none => zeros 8
  | some .zero => le64 (2 * 2 ^ 62)
  | some (.unit k) => le64 (k % 2 ^ 44 + 2 ^ 62)

/-- MAP_SET records of runs of consecutive units, at most 4,096 entries each: namespace, first unit, entries so far. -/
def mapSets (nsid first : Nat) (acc : List (Option MapEnt)) : List (Nat × Nat × Option MapEnt) → List (Nat × List Byte)
  | [] => [one nsid first acc]
  | (n, i, e) :: l =>
    if n = nsid ∧ i = first + acc.length ∧ acc.length < 4096 then mapSets nsid first (acc ++ [e]) l
    else one nsid first acc :: mapSets n i [e] l
where
  one (nsid first : Nat) (acc : List (Option MapEnt)) : Nat × List Byte :=
    (0x0001, le32 nsid ++ le32 acc.length ++ le64 first ++ acc.flatMap mapEntBytes)

def mapRecords : List (Nat × Nat × Option MapEnt) → List (Nat × List Byte)
  | [] => []
  | (n, i, e) :: l => mapSets n i [e] l

/-- UNIT_SET of a unit, its record changed by f and counted in a state. -/
def setRecord (s : State) (f : UnitRec → UnitRec) (key : Nat) : List (Nat × List Byte) :=
  match Tbl.find s.grinder.units key with
  | some u => [(0x0002, le8 (unitPool key) ++ zeros 1 ++ leBytes 6 (key % 2 ^ 44) ++ unitBytes s key (f u))]
  | none => []

/-- The record of a unit that a group creates: it is pending no longer (R220). -/
def unitRecord (s : State) (key : Nat) : List (Nat × List Byte) := setRecord s (fun u => { u with pending := false }) key

/-- The unit record that a move leaves. -/
def movedRecord (s : State) (x : Nat × Nat × Nat) : List (Nat × List Byte) := setRecord s (fun u => { u with group := x.2.1, offset := x.2.2 }) x.1

/-- REF_DELTA entries of one unit: a delta fills 20 bits with its sign, a greater change takes several. -/
def deltaWords (key : Nat) (neg : Bool) (n : Nat) : List (List Byte) :=
  let word := fun (m : Nat) => le64 (key % 2 ^ 44 + (if neg then 2 ^ 20 - m else m) * 2 ^ 44)
  List.replicate (n / 524287) (word 524287) ++ (if n % 524287 = 0 then [] else [word (n % 524287)])

/-- REF_DELTA records of the counts of some units between two states; a record's LENGTH allows 8,190 entries, and a pinned unit's count changes no further (R223). -/
def deltaRecords (pool : Nat) (s t : State) (units : List Nat) : List (Nat × List Byte) :=
  let l := (units.filter fun k => !(Tbl.find s.grinder.units k).any (·.pinned)).flatMap fun k =>
    let a := refCount s k
    let b := refCount t k
    if a < b then deltaWords k false (b - a) else deltaWords k true (a - b)
  (List.range (ceilDiv l.length 8190)).map fun i =>
    let part := (l.drop (8190 * i)).take 8190
    (0x0003, le8 pool ++ zeros 3 ++ le32 part.length ++ part.flatten)

/-- The REF_DELTA records of a group: what it makes of the counts that stand once every group before it has committed; a unit that it creates starts with the count of its UNIT_SET. -/
def refDeltas (s : State) (g : Group) : List (Nat × List Byte) :=
  let a := ahead s
  deltaRecords g.pool a (mapGroup g a) ((touched a g).eraseDups.filter fun k => !g.units.contains k)

/-- POISON. -/
def poisonRecord (nsid op slba nlb : Nat) : Nat × List Byte := (0x0004, le32 nsid ++ le8 op ++ zeros 3 ++ le64 slba ++ le64 nlb)

/-- A firmware-private record: its layout version, and content that concerns only firmware (log entry 23). -/
def privateRecord (type : Nat) : Nat × List Byte := (type, fit (Config.privateBytes type) (Config.privateRecord type))

def effectRecords : Effect → List (Nat × List Byte)
  | .zero nsid a n _ => [poisonRecord nsid 1 a n]
  | .poison nsid _ a n _ => [poisonRecord nsid 0 a n]
  | .repair nsid _ a data _ => [poisonRecord nsid 1 a data.length]
  | .deferred slice e => [(0x0005, le16 slice ++ zeros 6 ++ deferredBytes e)]
  | .compact _ | .repairs _ | .lose _ | .settle _ | .alias_ _ _ => []
  | .cursor _ _ _ => [privateRecord 0x0015]
  | .switchOver _ | .placed _ _ _ _ _ => [privateRecord 0x0014]
  | .replCommit _ _ => [privateRecord 0x0013]

/-- GC_INTENT names the source block and the target blocks, GC_DONE the source (R256, R361); addresses as R342 gives them: module and die * 2^14 + block. -/
def blockAddr (n key : Nat) : Nat := key * 2 ^ 16 + n * 2 ^ 56
def intentRecord (n key : Nat) (targets : List Nat) : Nat × List Byte :=
  (0x0006, le64 (blockAddr n key) ++ le8 targets.length ++ zeros 7 ++ targets.flatMap fun t => le64 (blockAddr n t))
def doneRecord (n key : Nat) : Nat × List Byte := (0x0007, le64 (blockAddr n key))
/-- COMPACT, with the root of the on-flash map in the form of R342. -/
def compactRecord (through root : Nat) : Nat × List Byte := (0x0008, le64 through ++ le64 root)

/-- The records of a group, in the order of R256's table (log entry 194). -/
def groupRecords (s : State) (g : Group) : List (Nat × List Byte) :=
  let t := mapGroup g (ahead s)
  sortBy (fun a b => decide (a.1 < b.1)) (mapRecords g.map ++ g.units.flatMap (unitRecord t) ++ g.moves.flatMap (movedRecord t) ++ refDeltas s g
    ++ g.effects.flatMap effectRecords ++ g.notes
    ++ (if g.stripMoves ≠ [] ∨ g.released ≠ [] then [privateRecord 0x0014] else []))

/-- Bytes of a group with some records: header, further WRITE_SEQ values, records, up to a multiple of 64 (R255). -/
def groupLength (g : Group) (recs : List (Nat × List Byte)) : Nat :=
  roundUp (64 + 8 * (g.writes.length - 1) + (recs.map fun r => 8 + roundUp r.2.length 8).sum) 64

/-- The group header with its CRC at some value (R255). -/
def groupHead (s : State) (n : Nat) (crc : W32) (g : Group) (records : Nat) : List Byte :=
  le32 0x474A5A4D ++ le8 s.journal.version ++ le8 (headIndex s) ++ le8 g.pool ++ le8 g.writes.length ++ le32 g.bytes ++ le32 records
    ++ le64 n ++ le64 s.time.toNat ++ le64 (g.writes.headD 0) ++ zeros 20 ++ le32 crc.toNat

/-- A group as it stands in the ring: header, further WRITE_SEQ values, records, zeros to its length; the CRC covers all of it (R255). -/
def groupImageOf (s : State) (n : Nat) (g : Group) (recs : List (Nat × List Byte)) : List Byte :=
  let body := (g.writes.drop 1).flatMap le64 ++ recs.flatMap jrnRecord
  let at_ := fun (crc : W32) => fit g.bytes (groupHead s n crc g recs.length ++ body)
  at_ (Config.crc32c (at_ 0))

/-! ## Reading groups back (R261) -/

/-- A group's MAGIC, LENGTH and CRC are right; one that came as a message has been checked with its frames and has no image here. -/
def groupSound (b : List Byte) : Bool :=
  b = [] || (decide (hdrNat b 0 4 = 0x474A5A4D) && decide (hdrNat b 8 4 = b.length)
    && decide (hdrNat b 0x3C 4 = (Config.crc32c (b.take 0x3C ++ zeros 4 ++ b.drop 0x40)).toNat))

/-- The types of the first n records of some bytes, each skipped by its LENGTH. -/
def recordTypes : Nat → List Byte → List Nat
  | 0, _ => []
  | n + 1, b => hdrNat b 0 2 :: recordTypes n (b.drop (8 + roundUp (hdrNat b 2 2) 8))

/-- A record type of R256. -/
def knownType (t : Nat) : Bool := (decide (1 ≤ t) && decide (t ≤ 8)) || (decide (0x10 ≤ t) && decide (t ≤ 0x15))

/-- Records of unknown TYPE are skipped and counted (R261). -/
def countUnknown (b : List Byte) (s : State) : State :=
  let recs := recordTypes (hdrNat b 12 4) (b.drop (64 + 8 * (hdrNat b 7 1 - 1)))
  { s with journal := { s.journal with unknown := s.journal.unknown + (recs.filter fun t => !knownType t).length } }

end Sys2Proof.Machine
end

