-- ==== Sys2Proof/Machine/HostOps.lean ====
section
/-! DEFINITION. Machine/HostOps.lean: what the host commands, slices, Grinder, journals and media share: completions, notices, Privet entries, poison, deferred errors, ANA states, the dirty limit, record groups (05, 06, 08, 09). -/
namespace Sys2Proof.Machine
open Sys2Proof

/-! ## Statuses (R169) -/
def nsOk : NStatus := ⟨0, 0⟩
/-- Invalid Command Opcode: the name is R147's, the code 0x01 is the NVMe standard's (log entry 8). -/
def nsInvalidOpcode : NStatus := ⟨0, 1⟩
def nsInvalidField : NStatus := ⟨0, 2⟩
def nsDataTransfer : NStatus := ⟨0, 4⟩
def nsInternal : NStatus := ⟨0, 6⟩
def nsAborted : NStatus := ⟨0, 7⟩
def nsInvalidNs : NStatus := ⟨0, 0x0B⟩
def nsSglType : NStatus := ⟨0, 0x11⟩
def nsLbaRange : NStatus := ⟨0, 0x80⟩
def nsCapacity : NStatus := ⟨0, 0x81⟩
def nsQueueId : NStatus := ⟨1, 1⟩
def nsQueueSize : NStatus := ⟨1, 2⟩
def nsVector : NStatus := ⟨1, 8⟩
/-- Feature Not Changeable: named by R149, the code 0x0E is the NVMe standard's (log entry 8). -/
def nsNotChangeable : NStatus := ⟨1, 0x0E⟩
/-- Command Sequence Error and Abort Command Limit Exceeded: the NVMe standard's (log entry 8). -/
def nsSequence : NStatus := ⟨0, 0x0C⟩
def nsAbortLimit : NStatus := ⟨1, 3⟩
/-- Command Aborted due to Failed Fused Command: the NVMe standard's (log entry 8). -/
def nsFailedFused : NStatus := ⟨0, 9⟩
def nsWriteFault : NStatus := ⟨2, 0x80⟩
def nsUnrecovered : NStatus := ⟨2, 0x81⟩
def nsCompareFail : NStatus := ⟨2, 0x85⟩
def nsAnaInaccessible : NStatus := ⟨3, 2⟩
def nsAnaTransition : NStatus := ⟨3, 3⟩

/-! ## Accessors -/

def State.modSlice (s : State) (n : Nat) (f : Slice → Slice) : State := { s with slices := Tbl.upd s.slices n f }
def State.modCtrl (s : State) (n : Nat) (f : Ctrl → Ctrl) : State := { s with host := { s.host with ctrls := Tbl.upd s.host.ctrls n f } }
def State.modNs (s : State) (n : Nat) (f : Ns → Ns) : State := { s with ns := Tbl.upd s.ns n f }
def State.modPool (s : State) (n : Nat) (f : Pool → Pool) : State := { s with pools := Tbl.upd s.pools n f }
def State.modCmd (s : State) (n : Nat) (f : Inflight → Inflight) : State := { s with host := { s.host with inflight := Tbl.upd s.host.inflight n f } }
def State.modOwn (s : State) (n : Nat) (f : Desc → Desc) : State := { s with carafe := { s.carafe with own := Tbl.upd s.carafe.own n f } }

/-- Logical blocks of the namespace. -/
def nsBlocks (n : Ns) : Nat := n.size / blockBytes n
/-- Logical blocks that a command fetched now may name: an accepted shrink has taken the removed range away (R153). -/
def openBlocks (n : Ns) : Nat := min n.size (n.shrinkTo.getD n.size) / blockBytes n
/-- Logical blocks of one dedup unit (R211). -/
def unitBlocks (n : Ns) : Nat := 2 ^ n.unitLog / blockBytes n

/-! ## Dirty-page log (R202, R205) -/

/-- Mark one 4 KiB page, by its number, in a log. -/
def markPage (d : DirtyLog) (page : Nat) : DirtyLog :=
  let c := page / 512
  if !Tbl.has d.chunks c && 65536 ≤ d.chunks.length then { d with overflow := true }
  else { d with chunks := Tbl.set d.chunks c (Tbl.getD d.chunks c 0 ||| BitVec.ofNat 512 (2 ^ (page % 512))) }

/-- Mark the pages that the device is about to write for a slice. -/
def markPages (slice : Nat) (pages : List Nat) (s : State) : State :=
  s.modSlice slice fun sl => { sl with dirty := sl.dirty.map fun d => pages.foldl markPage d }

/-! ## Host memory of a slice (R145, R146, R187) -/

/-- The PASID of every access that the device makes for a controller; a fabrics controller has none (R187). -/
def pasidOf (c : Ctrl) (s : State) : Option Nat :=
  if c.fabrics then none else (Tbl.find s.slices c.slice).map (·.bind)

/-- The key of a cached translation (R110). -/
def atsKey (upper : Bool) (pasid page : Nat) : Nat := (if upper then 2 ^ 72 else 0) + pasid * 2 ^ 52 + page

/-- A translation request for each page that is not cached, where the host has enabled ATS on the endpoint (R110, R187); the address that the host answers is a free value (log entry 174). -/
def translate (p : Port) (upper : Bool) (pasid : Nat) : List Nat → State → State
  | [], s => s
  | g :: gs, s =>
    translate p upper pasid gs (
      if !(capsOf p upper s).atsEnable || Tbl.has (s.port p).ats (atsKey upper pasid g) then s
      else
        let d := draw s
        emit (.atsRequest p upper pasid g) (d.2.modPort p fun r => { r with ats := Tbl.set r.ats (atsKey upper pasid g) (BitVec.ofNat 64 d.1) }))

/-- The pages that a controller's command is about to touch are translated. -/
def reachPages (c : Ctrl) (pages : List Nat) (s : State) : State :=
  match pasidOf c s with
  | some x => translate c.port c.upper x pages s
  | none => s

/-- The pages that the device is about to write for a controller: translated, then marked (R187, R202). -/
def writePages (c : Ctrl) (pages : List Nat) (s : State) : State :=
  let s1 := markPages c.slice pages (reachPages c pages s)
  if c.fabrics then s1
  else s1.modSlice c.slice fun x => if x.wrote.contains (c.port, c.upper) then x else { x with wrote := x.wrote ++ [(c.port, c.upper)] }

/-- A command's descriptors fill more than its entry holds: a PRP list, or an SGL segment, lies in host memory (R145). -/
def listed : DataPtr → Bool
  | .prp _ l => decide (1 < l.length)
  | .sgl l => decide (1 < l.length)
  | _ => false

/-- The list of a command's descriptors is read from host memory, under the slice's PASID (R187). -/
def fetchList (ctrl sq cid : Nat) (d : DataPtr) (s : State) : State :=
  match Tbl.find s.host.ctrls ctrl with
  | some t => if listed d && !t.fabrics then emit (.nvmeList ctrl sq cid (pasidOf t s)) s else s
  | none => s

/-- The data of a command is asked for from the host (R187). -/
def askData (ctrl sq cid : Nat) (d : DataPtr) (s : State) : State :=
  emit (.nvmeFetch ctrl sq cid ((Tbl.find s.host.ctrls ctrl).bind fun t => pasidOf t s) d) (fetchList ctrl sq cid d s)

/-- Memory page size that CC.MPS selects. -/
def pageSize (cc : W32) : Nat := 2 ^ (12 + min 4 (cc.toNat / 2 ^ 7 % 16))

/-- The pieces of host memory that PRP entries describe, up to a length: the first from its offset, the others whole pages (R145). -/
def prpPieces (ps : Nat) : Nat → List W64 → List (Nat × Nat)
  | _, [] => []
  | n, a :: as =>
    let k := min n (ps - a.toNat % ps)
    (a.toNat, k) :: prpPieces ps (n - k) as

/-- The pieces of host memory that a command's data lies in. -/
def piecesOf (ps len : Nat) : DataPtr → List (Nat × Nat)
  | .sgl l => l.map fun x => (x.1.toNat, x.2)
  | .prp a as => prpPieces ps len (a :: as)
  | _ => []

/-- Untranslated 4 KiB pages of some pieces. -/
def pagesOf (l : List (Nat × Nat)) : List Nat :=
  (l.flatMap fun x => if x.2 = 0 then [] else (List.range ((x.1 + x.2 - 1) / 4096 + 1 - x.1 / 4096)).map (x.1 / 4096 + ·)).eraseDups

/-- The pages of a command's data. -/
def dataPages (c : Ctrl) (len : Nat) (d : DataPtr) : List Nat := pagesOf (piecesOf (pageSize c.cc) len d)

/-- A PRP entry that the transfer needs is missing or misaligned: found when the entry is fetched (R168). -/
def prpBad (c : Ctrl) (len : Nat) : DataPtr → Bool
  | .prp a as =>
    let ps := pageSize c.cc
    let need := ceilDiv (len - min len (ps - a.toNat % ps)) ps
    decide (as.length < need) || (as.take need).any fun x => x.toNat % ps ≠ 0
  | _ => false

/-- Checks of the data descriptors (R144, R146, R157, R168): their type for the transport and the command, their number, their sum. `capsule`: the command may carry its data in the capsule. More descriptors, or more in-capsule data, than R154 allows is an Invalid Field (log entry 175). -/
def ptrCheck (c : Ctrl) (len : Nat) (capsule : Bool) (d : DataPtr) : Option NStatus :=
  if len = 0 then none
  else match d with
    | .none => some nsDataTransfer
    | .other => some nsSglType
    | .capsule n =>
      if !c.fabrics || !capsule then some nsSglType
      else if n ≠ len then some nsDataTransfer
      else if 8192 < n then some nsInvalidField else none
    | .keyed l =>
      if !c.fabrics then some nsSglType
      else if 16 < l.length then some nsInvalidField
      else if (l.map (·.len)).sum ≠ len then some nsDataTransfer else none
    | .sgl l =>
      if c.fabrics then some nsSglType
      else if 256 < l.length then some nsInvalidField
      else if (l.map (·.2)).sum ≠ len then some nsDataTransfer else none
    | .prp _ _ => if c.fabrics then some nsSglType else none

/-- The key that the completion's Send invalidates (R146). -/
def invalOf : DataPtr → Option W32
  | .keyed l => (l.find? (·.inval)).map (·.key)
  | _ => none

/-! ## Completions (R145, R156, R158) -/

/-- Send the message of a completion queue's vector through its controller's endpoint, or count toward coalescing (R149, R154). -/
def cqInterrupt (ctrl cqid : Nat) (s : State) : State :=
  match Tbl.find s.host.ctrls ctrl with
  | none => s
  | some c => match Tbl.find c.cqs cqid with
    | none => s
    | some q => match q.iv, Tbl.find s.slices c.slice with
      | some iv, some sl =>
        let f := (Tbl.getD c.features 8 0).toNat
        let thr := f % 256
        let time := f / 256 % 256
        if 0 < time && cqid ≠ 0 && q.coalesced + 1 ≤ thr && !Tbl.has c.ivDisabled iv then
          s.modCtrl ctrl fun c => { c with cqs := Tbl.upd c.cqs cqid fun q => { q with coalesced := q.coalesced + 1 } }
        else sendVia c.port c.upper (sl.vecBase + iv)
          (s.modCtrl ctrl fun c => { c with cqs := Tbl.upd c.cqs cqid fun q => { q with coalesced := 0 } })
      | _, _ => s

/-- A Privet entry leaves the table (R159). -/
def dropPrivet (n : Nat) (s : State) : State := { s with host := { s.host with privet := Tbl.del s.host.privet n } }

def dropLock (l : Option Nat) (s : State) : State :=
  match l with
  | some n => dropPrivet n s
  | none => s

/-- Head of a submission queue, as a completion carries it. -/
def sqHead (c : Ctrl) (sq : Nat) : Nat :=
  match Tbl.find c.sqs sq with
  | some q => q.head
  | none => 0

/-- A completion queue with one more entry: the phase tag turns when its tail returns to 0 (R145). -/
def cqStep (q : Cq) : Cq :=
  let t := (q.tail + 1) % max 1 q.size
  { q with tail := t, phase := if t = 0 then !q.phase else q.phase }

/-- Post a completion: by RDMA Send on fabrics; on PCIe into the completion queue, or held while it is full. The command's Privet entry leaves when it is posted (R159). -/
def postCpl (ctrl : Nat) (e : Cpl) (s : State) : State :=
  match Tbl.find s.host.ctrls ctrl with
  | none => dropLock e.lock s
  | some c =>
    let o := fun (phase : Bool) => Out.nvmeCpl ctrl e.sq e.cid e.status.sct e.status.sc e.dw0 (sqHead c e.sq) phase (pasidOf c s) e.inval
    if c.fabrics then dropLock e.lock (emit (o false) s)
    else
      let cqid := match Tbl.find c.sqs e.sq with
        | some q => q.cq
        | none => 0
      match Tbl.find c.cqs cqid with
      | none => dropLock e.lock s
      | some q =>
        if (q.tail + 1) % max 1 q.size = q.head then
          s.modCtrl ctrl fun c => { c with cqs := Tbl.upd c.cqs cqid fun q => { q with held := q.held ++ [e] } }
        else
          let s1 := writePages c [(q.base.toNat + 16 * q.tail) / 4096] s
          let s2 := s1.modCtrl ctrl fun c => { c with cqs := Tbl.upd c.cqs cqid cqStep }
          dropLock e.lock (cqInterrupt ctrl cqid (emit (o q.phase) s2))

/-- The completions that a controller holds are given up, and their Privet entries leave. -/
def dropHeld (ctrl : Nat) (s : State) : State :=
  match Tbl.find s.host.ctrls ctrl with
  | none => s
  | some c =>
    let l := c.cqs.flatMap fun q => q.2.held.filterMap (·.lock)
    l.foldl (fun s n => dropPrivet n s) (s.modCtrl ctrl fun c => { c with cqs := Tbl.mapVals c.cqs fun _ q => { q with held := [] } })

/-- Complete an admin command. -/
def adminCpl (ctrl cid : Nat) (st : NStatus) (dw0 : W32) (s : State) : State := postCpl ctrl { sq := 0, cid := cid, status := st, dw0 := dw0 } s

/-- Parameter Error Location (R168): the data pointer at byte 24, PRP2 at byte 32, or 0xFFFF where no field is at fault; bytes as the NVMe standard counts them (log entry 176). -/
def locDptr : Nat := 24
def locPrp2 : Nat := 32
def locNone : Nat := 0xFFFF

/-- An entry of the Error Information log: the newest 64 are kept (R148, R168). -/
def errLog (ctrl : Nat) (c : Inflight) (st : NStatus) (location lba : Nat) (s : State) : State :=
  s.modCtrl ctrl fun t => { t with errCount := t.errCount + 1, errLog := (⟨t.errCount + 1, c.sq, c.cid, st, location, lba, c.nsid⟩ :: t.errLog).take 64 }

/-- The entry of a command in flight; the other head writes that of a command it forwarded. -/
def noteErr (id : Nat) (c : Inflight) (st : NStatus) (location lba : Nat) (s : State) : State :=
  if c.forwarded then s.modCmd id fun c => { c with errAt := some (location, lba) } else errLog c.ctrl c st location lba s

/-- The Aborts of a forwarded command complete with it (R164). -/
def endAborts (st : NStatus) : List (Nat × Nat) → State → State
  | [], s => s
  | (ctrl, cid) :: l, s => endAborts st l (adminCpl ctrl cid nsOk (if st = nsAborted then 0 else 1) s)

/-- The two completions of a fused Compare and Write (NVMe standard; log entry 213): the Write's status beside a Compare that has matched, else the Compare's beside a Write that is aborted. -/
def fusedEnds (matched : Bool) (st : NStatus) : NStatus × NStatus :=
  if st = nsOk || matched || st = nsCapacity then (nsOk, st) else (st, nsFailedFused)

/-- The completions of a command, the Privet entry with the last. -/
def cplsOf (c : Inflight) (st : NStatus) : List Cpl :=
  let one := fun (cid : Nat) (st : NStatus) (lock : Option Nat) => ({ sq := c.sq, cid := cid, status := st, dw0 := 0, lock := lock, inval := invalOf c.ptr } : Cpl)
  if c.op = .compareWrite then [one c.cid (fusedEnds c.matched st).1 none, one c.cid2 (fusedEnds c.matched st).2 c.lock] else [one c.cid st c.lock]

def postCpls (ctrl : Nat) : List Cpl → State → State
  | [], s => s
  | e :: es, s => postCpls ctrl es (postCpl ctrl e s)

/-- A command ends: its completion goes to the host, or to the other head for a forwarded one, and its entry leaves. -/
def endCmd (id : Nat) (st : NStatus) (s : State) : State :=
  match Tbl.find s.host.inflight id with
  | none => s
  | some c =>
    let s1 := { s with host := { s.host with inflight := Tbl.del s.host.inflight id, entryWait := s.host.entryWait.filter (· ≠ id) } }
    if c.mute then dropLock c.lock s1
    else if c.forwarded then dropLock c.lock (jalSend (.forwardRsp c.cid st.sct st.sc (if c.op = .read then hostBytes s c.nsid c.data else [])) s1)
    else endAborts st c.aborts (postCpls c.ctrl (cplsOf c st) s1)

/-! ## Notices (R149, R175, R182) -/

/-- Asynchronous Event Configuration before the host sets it: the notices of R153 and R182 (log entry 177). -/
def asyncDefault : W32 := 0x900

/-- A notice that Asynchronous Event Configuration enables (R149); vendor-specific ones always are (R175). -/
def noticeOn (c : Ctrl) (dw0 : W32) : Bool :=
  dw0.toNat % 8 ≠ 2 || (Tbl.getD c.features 0x0B asyncDefault).getLsbD (8 + dw0.toNat / 256 % 256)

/-- Complete the oldest outstanding Asynchronous Event Request with a notice, or hold the notice. -/
def notifyCtrl (ctrl : Nat) (dw0 : W32) (s : State) : State :=
  match Tbl.find s.host.ctrls ctrl with
  | none => s
  | some c =>
    if !noticeOn c dw0 then s
    else match c.aers with
      | cid :: rest => adminCpl ctrl cid nsOk dw0 (s.modCtrl ctrl fun c => { c with aers := rest })
      | [] => s.modCtrl ctrl fun c => { c with held := c.held ++ [dw0] }

/-- Give a notice to every controller of a list. -/
def notifyAll (dw0 : W32) : List Nat → State → State
  | [], s => s
  | c :: cs, s => notifyAll dw0 cs (notifyCtrl c dw0 s)

/-- The controllers of a slice. -/
def sliceCtrls (slice : Nat) (s : State) : List Nat := (s.host.ctrls.filter fun e => e.2.slice = slice).map (·.1)
def noticeAna : W32 := 0x000C0302
def noticeDeferred : W32 := 0x00C0C007
def noticeNsChanged : W32 := 0x00040002

/-- The slices with a namespace in a pool. -/
def poolSlices (pool : Nat) (s : State) : List Nat := ((s.ns.filter fun e => e.2.pool = pool).map (·.2.slice)).eraseDups

/-- An ANA group changes state on this head: change count, notices (R181, R182). -/
def setAna (pool : Nat) (st : AnaState) (s : State) : State :=
  match Tbl.find s.pools pool with
  | none => s
  | some p =>
    if p.ana = st then s
    else
      let s1 := s.modPool pool fun p => { p with ana := st }
      let s2 := { s1 with host := { s1.host with anaChanges := s1.host.anaChanges + 1 } }
      notifyAll noticeAna ((s2.host.ctrls.filter fun e => (poolSlices pool s2).contains e.2.slice).map (·.1)) s2

/-! ## Record groups (R255 to R260) -/

/-- Bytes of the live journal (R259). -/
def liveJournal (s : State) : Nat := ((s.journal.groups.filter fun e => s.journal.through < e.1).map (·.2.bytes)).sum

def State.modSif (s : State) (q : Nat) (f : Sif → Sif) : State := { s with carafe := { s.carafe with sif := Tbl.upd s.carafe.sif q f } }

/-- A stripe entry's change goes to the peer, which acknowledges it (R264). -/
def sifTell (q : Nat) (s : State) : State :=
  if peerPresent s then jalSend (.sifUpdate q) (s.modSif q fun x => { x with unacked := x.unacked + 1 }) else s

/-- Stripes take the number of the group that commits them; the peer is told, and that change's acknowledgement comes before the group's commit counts (R264). -/
def stampSifs (n : Nat) : List Nat → State → State
  | [], s => s
  | q :: qs, s =>
    let s1 := sifTell q (s.modSif q fun x => { x with gseq := n, commitAck := !peerPresent s })
    stampSifs n qs (s1.modSif q fun x => { x with commitWait := x.unacked })

/-- A record group is whole in this head's ring and goes to the peer, behind the changes of the stripes that it commits; with the peer absent its own ring suffices (R258, R264). -/
def putGroup (g : Group) (s0 : State) : State :=
  let n := s0.journal.next
  let s := stampSifs n g.sifs s0
  let alone := !peerPresent s
  let recs := groupRecords s g
  let g1 : Group := { g with bytes := groupLength g recs }
  let s1 := { s with journal := { s.journal with groups := Tbl.set s.journal.groups n { g1 with peerAck := alone, image := groupImageOf s n g1 recs }, next := n + 1 } }
  let s2 := if alone then s1 else jalSend (.journalGroup n) s1
  alarmIs 0x21 (decide (2 ^ 29 ≤ liveJournal s2)) s2

/-- A group makes room in the ring: it carries COMPACT. -/
def compacts (g : Group) : Bool := g.notes.any fun r => r.1 = 0x0008

/-- A new record group: it waits for ring space where the live journal has reached 512 MiB, behind those that wait already; one that compacts the ring goes ahead (R260; log entry 216). -/
def addGroup (g : Group) (s : State) : State :=
  if !compacts g && (s.journal.waiting ≠ [] || decide (2 ^ 29 ≤ liveJournal s)) then
    raiseAlarm 0x21 { s with journal := { s.journal with waiting := s.journal.waiting ++ [g] } }
  else putGroup g s

/-- Groups that wait take the ring space that has become free, in order. -/
def drainGroups : Nat → State → State
  | 0, s => s
  | f + 1, s => match s.journal.waiting with
    | [] => s
    | g :: rest =>
      if 2 ^ 29 ≤ liveJournal s then s
      else drainGroups f (putGroup g { s with journal := { s.journal with waiting := rest } })

/-- A configuration record of a firmware-private type enters the journal as a group of its own (R256; its length is free, log entry 1). -/
def configGroup (pool type : Nat) (s : State) : State :=
  addGroup { pool := pool, notes := [privateRecord type] } s

/-- As `configGroup`, for a change of the pair's configuration that answers its command once the group has committed. -/
def configReply (type op : Nat) (s : State) : State :=
  addGroup { pool := 255, reply := some op, notes := [privateRecord type] } s

/-- The other head learns of a slice's standing here: its open queue pairs, and whether it logs dirty pages (R186, R197). -/
def tellSlice (s : State) : State := if peerPresent s then configGroup 255 0x11 s else s

/-! ## Privet (R159 to R161) -/

def privetOverlap (a b : Privet) : Bool := a.nsid = b.nsid && decide (a.first ≤ b.last) && decide (b.first ≤ a.last)

/-- No earlier conflicting entry remains, granted or not (R160). -/
def privetFree (t : Tbl Privet) (n : Nat) (e : Privet) : Bool :=
  t.all fun x => decide (n ≤ x.1) || !(privetOverlap x.2 e && (x.2.excl || e.excl))

/-- Make an entry with the next sequence number; it is granted at once where nothing conflicts. -/
def makePrivet (nsid first last : Nat) (excl : Bool) (slice : Nat) (owner : Option Nat) (s : State) : Nat × State :=
  let n := s.host.nextSeq
  let e : Privet := { nsid := nsid, first := first, last := last, excl := excl, granted := false, slice := slice, owner := owner }
  let g := privetFree s.host.privet n e
  (n, { s with host := { s.host with privet := Tbl.set s.host.privet n { e with granted := g }, nextSeq := n + 1 } })

def isGranted (n : Nat) (s : State) : Bool := (Tbl.find s.host.privet n).any (·.granted)

/-- The Privet entries that a slice holds on this head (R186, R195). -/
def sliceEntries (slice : Nat) (s : State) : Nat := (s.host.privet.filter fun e => e.2.slice = slice).length
def privetShare (weight : Nat) : Nat := max 256 (65536 * weight / 1000)

/-- One more entry may be made for a slice: one is free on this head, and the slice is below its share (R161, R195). -/
def entryFree (slice : Nat) (s : State) : Bool :=
  decide (s.host.privet.length < 65536) && match Tbl.find s.slices slice with
    | some x => decide (sliceEntries slice s < privetShare x.weight)
    | none => true

/-- A range of blocks widened outward to whole dedup units: first and last block (R159). -/
def widen (v : Ns) (a n : Nat) : Nat × Nat :=
  let u := max 1 (unitBlocks v)
  (a / u * u, (a + max 1 n - 1) / u * u + u - 1)

/-- The lock mode of a command that locks (R159). -/
def exclusive : NvmOp → Bool
  | .read | .compare | .verify => false
  | _ => true

/-- Put a command in flight under the next sequence number, without an entry. -/
def enterBare (c : Inflight) (s : State) : State :=
  let id := s.host.nextSeq
  { s with host := { s.host with inflight := Tbl.set s.host.inflight id c, nextSeq := id + 1 } }

/-- Put a command in flight with its sequence number and, where it locks, its Privet entry, or let it wait for one (R159 to R161). -/
def enterCmd (c : Inflight) (s : State) : State :=
  let id := s.host.nextSeq
  match Tbl.find s.ns c.nsid with
  | none => enterBare c s
  | some v =>
    if c.op = .flush then enterBare c s
    else if !entryFree c.slice s then
      let s1 := enterBare { c with stage := .entryWait } s
      { s1 with host := { s1.host with entryWait := s1.host.entryWait ++ [id] } }
    else
      let r := if c.op = .dsm then c.ranges.headD (0, 1) else (c.slba, c.nlb)
      let w := widen v r.1 r.2
      let m := makePrivet c.nsid w.1 w.2 (exclusive c.op) c.slice (some id) s
      let c1 : Inflight := { c with lock := some m.1, stage := if isGranted m.1 m.2 then .running else .lockWait }
      { m.2 with host := { m.2.host with inflight := Tbl.set m.2.host.inflight id c1 } }

/-- A command in flight enters anew, under a new number; a Flush that waits for it goes on waiting (R179). -/
def reenter (id : Nat) (c : Inflight) (s : State) : State :=
  let n := s.host.nextSeq
  let s1 := { s with host := { s.host with inflight := Tbl.mapVals (Tbl.del s.host.inflight id) fun _ x => { x with after := x.after.map fun k => if k = id then n else k } } }
  enterCmd c s1

/-- Waiting commands take entries, oldest first. -/
def fillCmds : List Nat → State → State
  | [], s => s
  | id :: l, s =>
    fillCmds l (match Tbl.find s.host.inflight id with
      | none => s
      | some c =>
        if entryFree c.slice s then reenter id c { s with host := { s.host with entryWait := s.host.entryWait.filter (· ≠ id) } } else s)

/-- A cut or shrink takes its entry; PRIVET_LOCK_GRANT grants it. -/
def enterJob (nsid first last slice : Nat) (j : LockJob) (s : State) : State :=
  let r := makePrivet nsid first last true slice none s
  { r.2 with
    host := { r.2.host with privet := Tbl.upd r.2.host.privet r.1 fun e => { e with granted := false } }
    snaps := { r.2.snaps with jobs := Tbl.set r.2.snaps.jobs r.1 j } }

/-- Waiting cuts and shrinks take entries, oldest first. -/
def fillJobs : List (Nat × Nat × Nat × Nat × LockJob) → State → State
  | [], s => s
  | (nsid, a, b, slice, j) :: l, s =>
    fillJobs l (if entryFree slice s then enterJob nsid a b slice j s
      else { s with snaps := { s.snaps with jobWait := s.snaps.jobWait ++ [(nsid, a, b, slice, j)] } })

/-- Entries have left: what waits for one goes on (R161). -/
def fillEntries (s : State) : State :=
  let s1 := fillCmds s.host.entryWait s
  fillJobs s1.snaps.jobWait { s1 with snaps := { s1.snaps with jobWait := [] } }

/-! ## Flush (R178, R179) -/

/-- The SEQ of the newest deferred error of a namespace in a slice. -/
def newestDeferred (slice nsid : Nat) (s : State) : Nat :=
  match Tbl.find s.slices slice with
  | none => 0
  | some sl => Tbl.getD sl.newest nsid 0

/-- The highest SEQ that a controller has reported through Flush for a namespace (R178). -/
def flushMark (c : Ctrl) (nsid : Nat) : Nat := Tbl.getD c.marks nsid c.startMark

/-- The namespaces of a slice. -/
def sliceNs (s : State) (slice : Nat) : List Nat := (s.ns.filter fun e => e.2.slice = slice).map (·.1)

/-- The namespaces that a Flush names. -/
def flushNs (c : Inflight) (s : State) : List Nat := if c.nsid = 0xFFFFFFFF then sliceNs s c.slice else [c.nsid]

/-- How a Flush whose earlier commands have completed ends: an unreported deferred error makes it Write Fault and raises the marks (R178). The head that has the host's controller judges a forwarded one. -/
def judgeFlush (c : Inflight) (s : State) : NStatus × State :=
  match Tbl.find s.host.ctrls c.ctrl with
  | none => (nsOk, s)
  | some t =>
    if c.forwarded then (nsOk, s)
    else
      let late := (flushNs c s).filter fun n => flushMark t n < newestDeferred c.slice n s
      let s1 := s.modCtrl c.ctrl fun t => { t with marks := late.foldl (fun m n => Tbl.set m n (newestDeferred c.slice n s)) t.marks }
      (if late = [] then nsOk else nsWriteFault, s1)

def endFlush (id : Nat) (c : Inflight) (s : State) : State :=
  let r := judgeFlush c s
  endCmd id r.1 r.2

/-- End every waiting Flush of a list whose earlier commands have all completed. -/
def endFlushes : List (Nat × Inflight) → State → State
  | [], s => s
  | (id, c) :: l, s => endFlushes l (if c.op = .flush && c.stage = .grouped && c.after.isEmpty then endFlush id c s else s)

/-! ## The end of a slice reset and of dirty-page logging (R196 to R198, R201, R203, R204) -/

/-- A controller in its initial state. -/
def freshCtrl (c : Ctrl) (total : Nat) (nssro : Bool) : Ctrl :=
  { slice := c.slice, fabrics := c.fabrics, port := c.port, upper := c.upper, nssro := nssro, startMark := total }

/-- Queue pairs that serve some controllers are closed. -/
def closeQps (gone : Nat → Nat → Bool) (s : State) : State :=
  { s with net := { s.net with qps := Tbl.mapVals s.net.qps fun _ q => match q.nvme with
      | some c => if gone c q.nvmeSq then { q with state := .error, nvme := none, dataPsn := none } else q
      | none => q } }

/-- A controller ends: its identifier rests for 10 s (R151); the connections of a fabrics controller are closed. -/
def dropCtrl (id : Nat) (s : State) : State :=
  let s0 := dropHeld id s
  emit (.disconnected id) (closeQps (fun c _ => c = id) { s0 with
    host := { s0.host with ctrls := Tbl.del s0.host.ctrls id, ended := Tbl.set s0.host.ended id s0.time.toNat } })

def dropCtrls : List Nat → State → State
  | [], s => s
  | c :: cs, s => dropCtrls cs (dropCtrl c s)

/-- TOTAL of a slice's log. -/
def sliceTotal (slice : Nat) (s : State) : Nat := match Tbl.find s.slices slice with
  | some sl => sl.total
  | none => 0

def dropHelds : List Nat → State → State
  | [], s => s
  | c :: cs, s => dropHelds cs (dropHeld c s)

/-- Step 4 of R198: fabrics controllers are disconnected, doorbell pages return to their reset values with NSSRO set. -/
def teardownSlice (slice : Nat) (s : State) : State :=
  let total := sliceTotal slice s
  let s1 := dropHelds (sliceCtrls slice s) (dropCtrls ((s.host.ctrls.filter fun e => e.2.slice = slice && e.2.fabrics).map (·.1)) s)
  let s2 := { s1 with host := { s1.host with ctrls := Tbl.mapVals s1.host.ctrls fun _ c => if c.slice = slice then freshCtrl c total true else c } }
  s2.modSlice slice fun x => { x with nssro := !x.tenant }

/-- A queue pair of a slice has an RDMA write that is not acknowledged (R198 step 3). -/
def sliceWriting (slice : Nat) (s : State) : Bool :=
  s.net.qps.any fun q => q.2.dataPsn.isSome && match q.2.nvme with
    | some c => (Tbl.find s.host.ctrls c).any fun x => x.slice = slice
    | none => false

/-- Commands of a slice are in flight. -/
def sliceBusy (slice : Nat) (s : State) : Bool := s.host.inflight.any fun e => e.2.slice = slice

/-- A zero-length read on each endpoint that carried the slice's writes; it completes within the step (R198 step 3; log entry 178). -/
def zeroReads (slice : Nat) (s : State) : State :=
  match Tbl.find s.slices slice with
  | none => s
  | some x => (x.wrote.foldl (fun s e => emit (.zeroRead e.1 e.2 x.bind) s) s).modSlice slice fun x => { x with wrote := [] }

/-- Steps 2 to 4 of R201: what the slice holds is released. -/
def releaseSlice (slice : Nat) (s : State) : State :=
  let s2 := dropCtrls (sliceCtrls slice s) s
  { s2 with
    slices := Tbl.del s2.slices slice
    cipher := { s2.cipher with keys := Tbl.mapVals s2.cipher.keys fun _ e => if e.slice = some slice then { e with slice := none } else e } }

/-- A removal goes into the journal (R201). -/
def removeSlice (slice : Nat) (s : State) : State := configGroup 255 0x11 (releaseSlice slice s)

/-- A reset or removal of a slice is done on both heads: it responds (R198 step 5, R201). A run that the other head began ends with that head's record, or here once that head is lost (R199). -/
def answerReset (slice : Nat) (r : SliceRun) (s : State) : State :=
  if !r.mine then
    if peerPresent s then s
    else if r.deleting then removeSlice slice s
    else s.modSlice slice fun sl => { sl with state := .active, run := none }
  else if peerPresent s && r.peer.isNone then s
  else if r.deleting then finishOp 0x0504 (replyOk []) (removeSlice slice s)
  else finishOp 0x0503 ⟨.success, BitVec.ofNat 32 (r.squashed + r.peer.getD 0), []⟩
    (configGroup 255 0x11 (s.modSlice slice fun sl => { sl with state := .active, run := none }))

/-- This head has no command of a resetting slice left: it does steps 3 and 4 of R198 and tells the other head (R196). -/
def finishReset (slice : Nat) (s : State) : State :=
  match (Tbl.find s.slices slice).bind (·.run) with
  | none => s
  | some r =>
    if r.mine && (runningOp (if r.deleting then 0x0504 else 0x0503) s).isNone then s
    else if r.torn then answerReset slice r s
    else if sliceBusy slice s || sliceWriting slice s then s
    else
      let s1 := (teardownSlice slice (zeroReads slice s)).modSlice slice fun sl => { sl with run := some { r with torn := true } }
      answerReset slice r (if r.mine then s1 else configGroup 255 0x11 s1)

/-- Records of a harvest (R204): at most n chunks in ascending order. -/
def dirtyRecords (d : DirtyLog) (n : Nat) : List Byte :=
  (d.chunks.take n).flatMap fun c => le64 (c.1 * 2 ^ 21) ++ leBytes 64 c.2.toNat

/-- The buffer of a harvest. -/
def dirtyBuffer (d : DirtyLog) (n : Nat) : List Byte :=
  le32 (d.chunks.take n).length ++ le8 (flag 0 (decide (n < d.chunks.length)) + flag 1 d.overflow) ++ le8 1 ++ zeros 2
    ++ le64 (d.harvests + 1) ++ dirtyRecords d n

def dirtyBits (d : DirtyLog) (n : Nat) : Nat := ((d.chunks.take n).map fun c => countBits c.2.toNat 512).sum

/-- Harvest through the port that issued the command; answers BITS_SET (R203). -/
def harvest (p : Port) (slice : Nat) (addr : W64) (len : Nat) (s : State) : Nat × State :=
  match Tbl.find s.slices slice with
  | none => (0, s)
  | some sl => match sl.dirty with
    | none => (0, s)
    | some d =>
      let n := (len - 16) / 72
      (dirtyBits d n, hostWrite p addr (dirtyBuffer d n)
        (s.modSlice slice fun sl => { sl with dirty := some { d with chunks := d.chunks.drop n, harvests := d.harvests + 1 } }))

/-- A slice's queues hold entries that have not been fetched. -/
def slicePosted (s : State) (slice : Nat) : Bool :=
  s.host.ctrls.any fun c => c.2.slice = slice && !c.2.fabrics && c.2.sqs.any fun q => q.2.head ≠ q.2.tail

/-- A controller of a slice holds a completion for want of space in its queue. -/
def sliceHeld (s : State) (slice : Nat) : Bool := s.host.ctrls.any fun c => c.2.slice = slice && c.2.cqs.any fun q => !q.2.held.isEmpty

/-- Commands of a slice whose doorbell write has arrived and that have not completed, or whose completion is not written yet (R203). -/
def sliceLeft (s : State) (slice : Nat) : Bool := sliceBusy slice s || slicePosted s slice || sliceHeld s slice

/-- A waiting stop of a dirty-page log ends once the slice's commands have completed (R203); where its buffer cannot be written, the logging goes on (log entry 33). -/
def finishStop (slice : Nat) (s : State) : State :=
  match Tbl.find s.slices slice, runningOp 0x0505 s with
  | some sl, some c => match sl.dirtyStop with
    | some (addr, len, ok) =>
      if sliceLeft s slice then s
      else if !ok then
        let x := dmaFault c.hdr addr true s
        mbxComplete c x.1 (x.2.modSlice slice fun sl => { sl with dirtyStop := none })
      else
        let r := harvest c.hdr.port slice addr len s
        mbxComplete c (replyOk (le64 r.1)) (tellSlice (r.2.modSlice slice fun sl => { sl with dirty := none, dirtyStop := none }))
    | none => s
  | _, _ => s

/-- Slices that wait for their commands. -/
def settleSlices : List Nat → State → State
  | [], s => s
  | n :: ns, s => settleSlices ns (finishStop n (finishReset n s))

/-- Every slice that waits for its commands is looked at. -/
def settleAll (s : State) : State := settleSlices ((s.slices.filter fun e => e.2.run.isSome || e.2.dirtyStop.isSome).map (·.1)) s

/-- A command completes: it no longer holds back a Flush (R179), a slice reset or a stop of logging, and what waits for a Privet entry goes on. -/
def completeCmd (id : Nat) (st : NStatus) (s : State) : State :=
  let s1 := endCmd id st s
  let s2 := { s1 with host := { s1.host with inflight := Tbl.mapVals s1.host.inflight fun _ c => { c with after := c.after.filter (· ≠ id) } } }
  settleAll (fillEntries (endFlushes s2.host.inflight s2))

/-- A waiting command's Privet entry is removed (R164). -/
def leaveEntry (id : Nat) (c : Inflight) (s : State) : State := dropLock c.lock (s.modCmd id fun c => { c with lock := none })

/-! ## Poison and deferred errors (R170 to R177) -/

/-- A poisoned range of a view that overlaps a range of blocks. -/
def poisonHits (nsid : Nat) (ep : Option Nat) (a n : Nat) (p : Poison) : Bool :=
  p.nsid = nsid && p.epoch = ep && decide (p.slba < a + n) && decide (a < p.slba + p.nlb)

/-- Cut a block range out of the poisoned ranges of one view that are older than a sequence number (R172). -/
def poisonCut (nsid : Nat) (ep : Option Nat) (a n at_ : Nat) : List Poison → List Poison
  | [] => []
  | p :: ps =>
    if poisonHits nsid ep a n p && decide (p.at_ < at_) then
      (if p.slba < a then [{ p with nlb := a - p.slba }] else [])
        ++ (if a + n < p.slba + p.nlb then [{ p with slba := a + n, nlb := p.slba + p.nlb - (a + n) }] else [])
        ++ poisonCut nsid ep a n at_ ps
    else p :: poisonCut nsid ep a n at_ ps

/-- The distance between two ranges of one view that do not overlap. -/
def poisonGap (p q : Poison) : Nat := if p.slba ≤ q.slba then q.slba - (p.slba + p.nlb) else p.slba - (q.slba + q.nlb)

/-- The pair of entries of one view with the least distance, over a list (R173). -/
def closestPair : List Poison → Option (Poison × Poison)
  | [] => none
  | p :: ps =>
    let here := ps.foldl (fun (b : Option (Poison × Poison)) q =>
      if q.nsid = p.nsid ∧ q.epoch = p.epoch then
        match b with
        | none => some (p, q)
        | some (x, y) => if poisonGap p q < poisonGap x y then some (p, q) else b
      else b) none
    match here, closestPair ps with
    | some (a, b), some (c, d) => if poisonGap c d < poisonGap a b then some (c, d) else some (a, b)
    | some x, none => some x
    | none, r => r

/-- Widen two entries to one while the table holds more than its limit, with the POISON_MERGED event (R173). -/
def mergePoison : Nat → State → State
  | 0, s => s
  | f + 1, s =>
  if s.host.poison.length ≤ 262144 then s
  else match closestPair s.host.poison with
    | none => s
    | some (p, q) =>
      let a := min p.slba q.slba
      let e := max (p.slba + p.nlb) (q.slba + q.nlb)
      let w : Poison := { p with slba := a, nlb := e - a, at_ := max p.at_ q.at_ }
      mergePoison f (event 2 0x45 (le32 p.nsid ++ zeros 4 ++ le64 a ++ le64 (e - a))
        { s with host := { s.host with poison := w :: (s.host.poison.erase p).erase q } })

/-- The poison table is within its limit again. -/
def settlePoison (s : State) : State := mergePoison s.host.poison.length s

/-- Clear the poison of exactly the blocks of a range (R172). -/
def clearPoison (nsid : Nat) (ep : Option Nat) (a n at_ : Nat) (s : State) : State :=
  settlePoison { s with host := { s.host with poison := poisonCut nsid ep a n at_ s.host.poison } }

/-- Poison a range of a view (R170), as of a sequence number. -/
def addPoison (nsid : Nat) (ep : Option Nat) (a n at_ : Nat) (s : State) : State :=
  let w : Poison := { nsid := nsid, epoch := ep, slba := a, nlb := n, at_ := at_ }
  settlePoison { s with host := { s.host with poison := w :: poisonCut nsid ep a n (at_ + 1) s.host.poison } }

/-- Poisoned ranges of a namespace (VOLUME_QUERY.POISONED_RANGES, R239). -/
def poisonRanges (nsid : Nat) (s : State) : Nat := (s.host.poison.filter fun p => p.nsid = nsid).length

/-- The newest dirty write of this head that covers a block, and the block's data in it (R32). -/
def dirtyBlock (t : Tbl Desc) (nsid b : Nat) : Option (Nat × Nat) :=
  t.foldl (fun r e => if e.2.whole && e.2.nsid = nsid && decide (e.2.slba ≤ b) && decide (b < e.2.slba + e.2.data.length)
    then some (e.1, e.2.data.getD (b - e.2.slba) 0) else r) none

/-- The newest dirty write of its source that a clone still waits for and that covers a block whose unit the clone has not changed (R420). -/
def inheritedBlock (s : State) (nsid b : Nat) : Option (Nat × Nat) :=
  match Tbl.find s.snaps.clones nsid, Tbl.find s.ns nsid with
  | some i, some v =>
    if Tbl.has i.changed (b / max 1 (unitBlocks v)) then none
    else (s.carafe.own.filter fun e => i.pending.contains e.1).foldl (fun r e =>
      if e.2.whole && decide (e.2.slba ≤ b) && decide (b < e.2.slba + e.2.data.length) then some (e.1, e.2.data.getD (b - e.2.slba) 0) else r) none
  | _, _ => none

/-- The newest dirty data of a block: the volume's own, else what a clone inherits. -/
def dirtyOf (s : State) (nsid b : Nat) : Option (Nat × Nat) :=
  match dirtyBlock s.carafe.own nsid b with
  | some x => some x
  | none => inheritedBlock s nsid b

/-- A block as a read returns it: from the Carafe while it is dirty there, else the committed content (R32). -/
def liveBlock (s : State) (nsid b : Nat) : Nat :=
  match dirtyOf s nsid b, Tbl.find s.ns nsid with
  | some (_, v), _ => v
  | none, some v => Tbl.getD v.blocks b 0
  | none, none => 0

/-- Poison of record groups that have not committed, which a cut made meanwhile takes with it (R170). -/
def pendingPoison (s : State) : List Poison :=
  (openGroups s).flatMap fun g => g.effects.filterMap fun e => match e with
    | .poison nsid ep a n at_ => some { nsid := nsid, epoch := ep, slba := a, nlb := n, at_ := at_ }
    | _ => none

/-- A block is poisoned, and no newer dirty write covers it. -/
def blockPoisoned (s : State) (nsid b : Nat) : Bool :=
  s.host.poison.any fun p => poisonHits nsid none b 1 p && match dirtyOf s nsid b with
    | some (q, _) => decide (q ≤ p.at_)
    | none => true

/-- The first poisoned block of a range (R171). -/
def firstPoison (s : State) (nsid a n : Nat) : Option Nat := (List.range n).find? (fun i => blockPoisoned s nsid (a + i)) |>.map (a + ·)

/-- The blocks of a range as a read returns them. -/
def liveBlocks (s : State) (nsid a n : Nat) : List Nat := (List.range n).map fun i => liveBlock s nsid (a + i)

/-- Record a deferred error in a slice's log under its next SEQ, tell its controllers, write the event and raise the alarm (R174, R175); one that the log has is not recorded again. -/
def deferError (slice : Nat) (e : Deferred) (s : State) : State :=
  match Tbl.find s.slices slice with
  | none => s
  | some sl =>
    if sl.log.any (fun x => x.nsid = e.nsid && x.slba = e.slba && x.nlb = e.nlb && x.time = e.time) then s
    else
      let n := sl.total + 1
      let s1 := s.modSlice slice fun sl => { sl with
        total := n, log := (sl.log ++ [{ e with seq := n }]).drop (sl.log.length + 1 - 256), newest := Tbl.set sl.newest e.nsid n }
      let s2 := notifyAll noticeDeferred (sliceCtrls slice s1) s1
      raiseAlarm 0x42 (event 2 0x44 (le16 slice ++ zeros 2 ++ le32 e.nsid ++ le64 n ++ le64 e.slba ++ le64 e.nlb) s2)

/-- Entries of the log whose run a host's command has rid of all live poison change to overwritten (R177 STATE 3). -/
def deferSettle (nsid a n : Nat) (s : State) : State :=
  match Tbl.find s.ns nsid with
  | none => s
  | some v => s.modSlice v.slice fun sl => { sl with log := sl.log.map fun e =>
      if (decide (e.nsid = nsid) && e.live && decide (e.state < 2) && decide (e.slba < a + n) && decide (a < e.slba + e.nlb)
        && !(s.host.poison.any (poisonHits nsid none e.slba e.nlb))) then ({ e with state := 3 } : Deferred) else e }

/-- A poisoned range lies in a run of a deferred error, in one of the views that include it (R177). -/
def runPoisoned (s : State) (e : Deferred) : Bool :=
  s.host.poison.any fun p => p.nsid = e.nsid && decide (p.slba < e.slba + e.nlb) && decide (e.slba < p.slba + p.nlb) && match p.epoch with
    | none => e.live
    | some x => decide (e.epochFirst.toNat ≤ x) && decide (x ≤ e.epochLast.toNat)

/-- Entries under repair whose run holds no poison any more are repaired (R177 STATE 2). -/
def settleRepairs (nsid : Nat) (s : State) : State :=
  match Tbl.find s.ns nsid with
  | none => s
  | some v => s.modSlice v.slice fun sl => { sl with log := sl.log.map fun e =>
      if e.nsid = nsid && e.state = 1 && !runPoisoned s e then { e with state := 2 } else e }

/-! ## The dirty limit (R243 to R246) -/

/-- A bank of this head is erased on a module. -/
def bankErased (m : Module) (bank : Nat) : Bool := if bank = 0 then m.erased0 else m.erased1
def bankGen (m : Module) (bank : Nat) : Nat := if bank = 0 then m.gen0 else m.gen1

/-- Modules whose link is UP and on which a bank of this head is erased, ascending. -/
def bankSet (s : State) (bank : Nat) : List Nat := (List.range 96).filter fun n => (s.kport n).state = .up && bankErased (s.mod n) bank

/-- The bank that the next flush will write: the erased one whose previous use has the lower GEN; a bank that holds a vault still needed is none (R273 step 2, R274). -/
def flushBank (s : State) : Nat :=
  let kept := (match s.carafe.image with | some i => [i.bank] | none => []) ++ (match s.carafe.older with | some i => [i.bank] | none => [])
  let gen := fun b => (List.range 96).foldl (fun g n => max g (bankGen (s.mod n) b)) 0
  let ok := fun b => !kept.contains b && bankSet s b ≠ []
  if ok 0 && (!ok 1 || decide (gen 0 ≤ gen 1)) then 0 else if ok 1 then 1 else if gen 0 ≤ gen 1 then 0 else 1

/-- Modules of the vault set: link UP and the vault bank of the next flush erased, ascending (R267; log entry 217). -/
def vaultSet (s : State) : List Nat := bankSet s (flushBank s)

/-- The dirty limit L in bytes for n vault-set modules (R243, R267). -/
def dirtyLimitOf (n : Nat) : Nat :=
  if n < 8 then 0 else min (32 * 2 ^ 30) ((n * 997500000 - 1342177280) / 2 ^ 28 * 2 ^ 28)

def dirtyLimit (s : State) : Nat := dirtyLimitOf (vaultSet s).length

def granulesOf (t : Tbl Desc) : Nat := (t.map (·.2.granules)).sum
def ownDirty (s : State) : Nat := granulesOf s.carafe.own
def mirrorDirty (s : State) : Nat := granulesOf s.carafe.mirror

/-- Own and mirror limits in granules (R243, R246). -/
def ownLimit (s : State) : Nat := (if peerPresent s then dirtyLimit s / 2 else dirtyLimit s) / 4096
def mirrorLimit (s : State) : Nat :=
  if peerPresent s then
    if s.carafe.returning then (dirtyLimit s - max (ownDirty s * 4096) (dirtyLimit s / 2)) / 4096 else dirtyLimit s / 2 / 4096
  else 0

/-- The erase of the bank that the next flush will write is still going on (R274). -/
def bankErasing (s : State) : Bool :=
  let is := fun (c : KCmd) => match c with
    | .vaultErase _ b => decide (b = flushBank s)
    | _ => false
  s.kports.any fun e => e.2.queue.any is || e.2.cmds.any fun c => is c.2

/-- A write descriptor is free, and the total of dirty data does not exceed L (R240, R244, R246). -/
def roomFor (g : Nat) (s : State) : Bool :=
  decide (s.carafe.own.length + s.carafe.mirror.length < 2097152) && decide ((ownDirty s + mirrorDirty s + g) * 4096 ≤ dirtyLimit s)

/-- A write of g granules fits now (R244, R246, R274). -/
def admits (g : Nat) (s : State) : Bool :=
  decide (ownDirty s + g ≤ ownLimit s) && roomFor g s && !s.host.stopped && !bankErasing s

/-- The lowest free granules of the dirty-data area (R242). -/
def takeGranules (n : Nat) (s : State) : List Nat :=
  let used := (s.carafe.own ++ s.carafe.mirror).flatMap fun e => e.2.list
  ((List.range (used.length + n)).filter fun i => !used.contains i).take n

/-- Copies that waited enter the mirror area in the order of their arrival (R244). -/
def admitMirrors : List (Nat × Desc) → State → State
  | [], s => s
  | (id, d) :: l, s =>
    if mirrorDirty s + d.granules ≤ mirrorLimit s && roomFor d.granules s then
      admitMirrors l (jalSend (.mirrorAck [id]) { s with carafe := { s.carafe with mirror := Tbl.set s.carafe.mirror id { d with list := takeGranules d.granules s } } })
    else { s with carafe := { s.carafe with mirrorWait := (id, d) :: l } }

def mirrorFlow (s : State) : State := admitMirrors s.carafe.mirrorWait { s with carafe := { s.carafe with mirrorWait := [] } }

/-- L or the dirty data has changed: the absence of the peer is made good once the own data fits in L/2, copies that waited may enter, and the vault-margin alarm follows (R244, R246, R267). -/
def vaultSetRecompute (s : State) : State :=
  let s1 := mirrorFlow { s with carafe := { s.carafe with returning := s.carafe.returning && decide (dirtyLimit s / 2 / 4096 < ownDirty s) } }
  alarmIs 0x20 (dirtyLimit s1 = 0 || decide (dirtyLimit s1 < (ownDirty s1 + mirrorDirty s1) * 4096)) s1

/-- The staged bytes of a write are discarded (R168, R246). -/
def dropOwn (id : Nat) (s : State) : State := vaultSetRecompute { s with carafe := { s.carafe with own := Tbl.del s.carafe.own id } }

end Sys2Proof.Machine
end

