-- ==== Sys2Proof/Machine/Repairs.lean ====
section
/-! DEFINITION. Machine/Repairs.lean: SRAM row repairs and spare SerDes slices: the fuses' entries, the records of the boot NOR, and what is in effect in a domain (R43, R67 to R70, R77, R84 to R86). -/
namespace Sys2Proof.Machine
open Sys2Proof

/-! ## The boot NOR (R76, R77, R84) -/

/-- A recovery boot writes nothing to the NOR: from the recovery state until READY (R84). -/
def norFrozen (s : State) : Bool := s.boot.stage = .recovery || (s.boot.src = .download && decide (stageNum s.boot.stage < 9))

/-- A read of the NOR in the mode that is set (R76). -/
def norRead (offset len : Nat) (s : State) : State := emit (.nor (.read s.boot.norMode offset len)) s

/-- Operations of the NOR; a recovery boot writes nothing to it (R84). -/
def norWrites (ops : List NorOp) (s : State) : State := if norFrozen s then s else { s with out := s.out ++ ops.map Out.nor }

/-- Where an image region stands in the NOR: the primary one, or the staging one (R77). -/
def regionBase (staging : Bool) : Nat := if staging then 0x01840000 else 0x00040000

/-- The repair partition starts at this offset and holds this many records (R77). -/
def repairBase : Nat := 0x10000
def repairMax : Nat := 2048

/-! ## Repair records (R70) -/

/-- Bytes 0x00 to 0x0F of a record. -/
def repairHead (r : Repair) : List Byte :=
  le8 1 ++ le8 r.domain ++ le16 (flag 0 r.serdes) ++ le32 r.macroId.toNat ++ le16 r.fault.toNat ++ le8 r.spare ++ zeros 1 ++ le32 r.hours.toNat

/-- The MAC over them: HMAC-SHA-256 under the repair key, truncated to 128 bits. -/
def repairMac (key head : List Byte) : List Byte := fit 16 (Config.hmacSha256 key head)

/-- The 32 bytes of a record. -/
def repairRecord (key : List Byte) (r : Repair) : List Byte := repairHead r ++ repairMac key (repairHead r)

/-- What a record says. -/
def repairOf (b : List Byte) : Repair :=
  { domain := (b.getD 1 0).toNat, serdes := (b.getD 2 0).getLsbD 0, macroId := BitVec.ofNat 32 (ofLe ((b.drop 4).take 4))
    fault := BitVec.ofNat 16 (ofLe ((b.drop 8).take 2)), spare := (b.getD 10 0).toNat, hours := BitVec.ofNat 32 (ofLe ((b.drop 12).take 4)) }

/-- Why a record is ignored: 1 its MAC fails, 2 its version is not supported; a record with both faults is reported for its MAC (R70, R508; log entry 163). -/
def repairReject (key b : List Byte) : Option Nat :=
  if b.drop 16 ≠ repairMac key (b.take 16) then some 1 else if b.head? ≠ some 1 then some 2 else none

/-! ## The fuses' entries (R85, R86) -/

def factoryRepair (e : BitVec 28) : Repair :=
  { domain := e.toNat % 64, serdes := false, macroId := BitVec.ofNat 32 (e.toNat / 2 ^ 6 % 2 ^ 12), spare := e.toNat / 2 ^ 18 % 2
    fault := BitVec.ofNat 16 (e.toNat / 2 ^ 19), hours := 0 }

/-- The entries that are read, from place i: an all-zero entry ends the list, a row that cannot be corrected is skipped (R85, R86). -/
def factoryFrom (bad : List Nat) : Nat → List (BitVec 28) → List Repair
  | _, [] => []
  | i, e :: es =>
    if bad.contains (43 + i / 2) then factoryFrom bad (i + 1) es
    else if e = 0 then [] else factoryRepair e :: factoryFrom bad (i + 1) es

/-! ## Repairs in effect (R43, R68, R69) -/

/-- The domain that names the port group of a domain: the four network ports of a group share one spare (R67). -/
def laneGroup (d : Nat) : Nat := if 32 ≤ d ∧ d < 40 then 32 + (d - 32) / 4 * 4 else d

/-- The group's spare slice is in use. -/
def spareTaken (g : Nat) (s : State) : Bool := s.phys.known.any fun r => r.serdes && decide (laneGroup r.domain = g)

/-- Spare rows of a macro that repairs use. -/
def sparesUsed (d macroId : Nat) (s : State) : List Nat :=
  (s.phys.known.filter fun r => !r.serdes && decide (r.domain = d) && decide (r.macroId = BitVec.ofNat 32 macroId)).map (·.spare)

/-- The next free spare row of a macro, of its four (R69). -/
def nextSpare (d macroId : Nat) (s : State) : Option Nat := (List.range 4).find? fun i => !(sparesUsed d macroId s).contains i

def State.lane (s : State) (d lane : Nat) : Lane := Tbl.getD s.phys.lanes (d * 64 + lane) {}
def State.modLane (s : State) (d lane : Nat) (f : Lane → Lane) : State :=
  { s with phys := { s.phys with lanes := Tbl.set s.phys.lanes (d * 64 + lane) (f (s.lane d lane)) } }

/-- The spare slice stands in for the lane that a repair names; a host port shows it in CHIP_PORT (R68, R114). -/
def slicePlaced (r : Repair) (s : State) : State :=
  if !r.serdes then s
  else
    let s1 := s.modLane r.domain r.fault.toNat fun _ => { substituted := true }
    if r.domain = 28 then s1.modPort .a fun x => { x with spareInUse := true }
    else if r.domain = 29 then s1.modPort .b fun x => { x with spareInUse := true }
    else s1

/-- A repair takes effect in its domain. -/
def applyRepair (r : Repair) (s : State) : State :=
  slicePlaced r { s with power := { s.power with applied := s.power.applied ++ [r] } }

def applyEach : List Repair → State → State
  | [], s => s
  | r :: rs, s => applyEach rs (applyRepair r s)

/-- A domain's repairs, from the fuses and the repair records, are applied afresh at its switch-on (R43). -/
def applyRepairs (d : Nat) (s : State) : State := applyEach (s.phys.known.filter fun r => decide (r.domain = d)) s

/-- At switch-off a domain's repairs and the standing of its lanes are lost with its state (R43). -/
def dropRepairs (d : Nat) (s : State) : State :=
  { s with
    power := { s.power with applied := s.power.applied.filter fun r => r.domain ≠ d }
    phys := { s.phys with lanes := Tbl.keep s.phys.lanes fun k _ => decide (k / 64 ≠ d) } }

/-- A new repair: the service processor knows it, and its record is appended to the repair partition, unless the partition is full or the boot is a recovery boot (R70, R77, R84; log entry 164). -/
def addRepair (d : Nat) (serdes : Bool) (macroId fault spare : Nat) (s : State) : State :=
  let r : Repair := { domain := d, serdes := serdes, macroId := BitVec.ofNat 32 macroId, fault := BitVec.ofNat 16 fault, spare := spare, hours := s.aon.hours }
  let s1 := { s with phys := { s.phys with known := s.phys.known ++ [r] } }
  if norFrozen s || decide (repairMax ≤ s.nor.repairs.length) then s1
  else
    let b := repairRecord s.trust.repairKey r
    emit (.nor (.program (repairBase + 32 * s.nor.repairs.length) b)) { s1 with nor := { s1.nor with repairs := s1.nor.repairs ++ [b] } }

/-- The spare slice of a lane's group takes the lane's place: in effect at once, and recorded (R68, R70). -/
def placeSpare (d lane : Nat) (s : State) : State :=
  applyRepair { domain := d, serdes := true, macroId := BitVec.ofNat 32 (laneGroup d), fault := BitVec.ofNat 16 lane, spare := 0, hours := s.aon.hours }
    (addRepair d true (laneGroup d) lane 0 s)

/-- A host port at its link-down takes the spare for its first marked lane; a further marked lane leaves it narrow (R68). -/
def hostSpare (p : Port) (s : State) : State :=
  let d := hostDomain p
  match (s.phys.lanes.filter fun e => decide (e.1 / 64 = d) && e.2.marked).map (fun e => e.1 % 64) with
  | [] => s
  | lane :: _ => if spareTaken d s then s else placeSpare d lane s

end Sys2Proof.Machine
end

