-- ==== Sys2Proof/Machine/CipherOps.lean ====
section
/-! DEFINITION. Machine/CipherOps.lean: keys, generations, key slots, uses and cipher requests, as the commands of 14 and the write path share them (R444 to R458). -/
namespace Sys2Proof.Machine
open Sys2Proof

def State.ciph (s : State) (f : Cipher → Cipher) : State := { s with cipher := f s.cipher }

/-! ## Generations (R447, R448, R452, R453) -/

def genOf (e : KeyEnt) (g : Nat) : Option KeyGen := if e.cur.gen = g then some e.cur else e.retired.find? fun r => r.gen = g

/-- The newest generation whose FIRST_UNIT for the pool is at or below the unit (R448). -/
def genForUnit (e : KeyEnt) (pool unit : Nat) : Option KeyGen :=
  (e.cur :: e.retired).find? fun g => g.firstUnit.getD pool 0 ≤ unit

def genLimit (g : KeyGen) : Nat := 2 ^ (if g.limitLog2 = 0 then (if g.kind = 0 then 40 else 32) else g.limitLog2)
def genExhaust (g : KeyGen) : Nat := if g.kind = 0 then genLimit g - 2 ^ 23 else genLimit g
def genNear (g : KeyGen) : Nat :=
  if g.kind = 0 then min (genLimit g / 8 * 7) (genExhaust g - 2 ^ 22) else genLimit g / 8 * 7

/-- STATE of a generation in service for its uses (R452, R453). -/
def genState (g : KeyGen) : Nat :=
  if g.state = 1 ∨ g.state = 2 then (if genExhaust g ≤ g.uses then 3 else if genNear g ≤ g.uses then 2 else 1) else g.state

def mapGen (e : KeyEnt) (g : Nat) (f : KeyGen → KeyGen) : KeyEnt :=
  if e.cur.gen = g then { e with cur := f e.cur } else { e with retired := e.retired.map fun r => if r.gen = g then f r else r }

/-- KEY_LIMIT holds while a generation is in state 2 (R500). -/
def keyLimitAlarm (s : State) : State :=
  alarmIs 0x23 (s.cipher.keys.any fun e => (e.2.cur :: e.2.retired).any fun g => g.state = 2) s

/-- Count a use of a generation; each crossing of a multiple of 2^20 is journaled (R452). -/
def countUse (index gen : Nat) (s : State) : State :=
  match Tbl.find s.cipher.keys index with
  | none => s
  | some e => match genOf e gen with
    | none => s
    | some g =>
      let bump := fun (g : KeyGen) => let g1 := { g with uses := g.uses + 1 }; { g1 with state := genState g1 }
      let s1 := s.ciph fun c => { c with keys := Tbl.set c.keys index (mapGen e gen bump) }
      let s2 := if (g.uses + 1) % 2 ^ 20 = 0 then configGroup 255 0x12 s1 else s1
      if (bump g).state = g.state then s2 else keyLimitAlarm s2

/-- The current generation of a key is exhausted (R453). -/
def keyExhausted (index : Nat) (s : State) : Bool :=
  match Tbl.find s.cipher.keys index with
  | some e => e.cur.state = 3
  | none => false

/-! ## Wrapping (R447) -/

def zeroKey : List Byte := zeros 32

/-- The integrity value of a wrapped key. -/
def wrapIcv (kind limit index : Nat) : List Byte := [0xA6, 0x4D] ++ le8 kind ++ le8 limit ++ le32 index

/-- The plaintext and LIMIT_LOG2 of a wrapped key, where its integrity check holds for a kind and an index (R447, R449). -/
def unwrapAs (kek wrapped : List Byte) (kind index : Nat) : Option (List Byte × Nat) :=
  let r := Config.keyUnwrap kek wrapped
  let lim := (r.1.getD 3 0).toNat
  let limOk := decide (lim = 0) || (kind = 0 && decide (24 ≤ lim) && decide (lim ≤ 40)) || (kind = 1 && decide (20 ≤ lim) && decide (lim ≤ 32))
  if r.1 = wrapIcv kind lim index ∧ limOk then some (r.2, lim) else none

def bytesOf (str : String) : List Byte := str.toUTF8.toList.map fun b => BitVec.ofNat 8 b.toNat
def kcvOf (plain : List Byte) : List Byte := (Config.hmacSha384 plain (bytesOf "MZ-KCV")).take 8

/-- K1 = K2, or padding that is not zero (R447, R449). -/
def plainBad (kind : Nat) (plain : List Byte) : Bool :=
  if kind = 0 then plain.take 32 == plain.drop 32 else plain.drop 32 != zeros 32

/-- Key bytes as the engines use them. -/
def usable (kind : Nat) (plain : List Byte) : List Byte := if kind = 0 then plain else plain.take 32

/-- Unwrap a generation under the held KTWK, or the previous one. -/
def genPlain (s : State) (index : Nat) (g : KeyGen) : Option (List Byte) :=
  match s.cipher.ktwk with
  | none => none
  | some k => (unwrapAs k g.wrapped g.kind index).map fun r => usable g.kind r.1

/-! ## Key slots (R454) -/

/-- The slot that holds a use. -/
def slotOf (u : SlotUse) (s : State) : Option Nat := (s.cipher.slots.find? fun e => e.2.use = u).map (·.1)

/-- A slot is pinned: by itself, or by an open GCM context. -/
def slotPinned (s : State) (n : Nat) : Bool :=
  (match Tbl.find s.cipher.slots n with | some k => k.pinned | none => false) || s.cipher.gcm.any fun c => c.2.slot = n

/-- The slot to fill: the lowest empty one, else the least recently used one that is not pinned. -/
def victimSlot (s : State) : Option Nat :=
  match (List.range 4096).find? fun n => !Tbl.has s.cipher.slots n with
  | some n => some n
  | none => (s.cipher.slots.foldl (fun (b : Option (Nat × Nat)) e =>
      if slotPinned s e.1 then b else match b with
        | none => some (e.1, e.2.stamp)
        | some (m, st) => if e.2.stamp < st then some (e.1, e.2.stamp) else some (m, st)) none).map (·.1)

/-- Put a key into a slot. -/
def fillSlot (n : Nat) (k : KeySlot) (s : State) : State :=
  s.ciph fun c => { c with slots := Tbl.set c.slots n { k with stamp := c.stamp }, stamp := c.stamp + 1 }

/-- A slot has been used now. -/
def touchSlot (n : Nat) (s : State) : State :=
  s.ciph fun c => { c with slots := Tbl.upd c.slots n fun k => { k with stamp := c.stamp }, stamp := c.stamp + 1 }

/-- Zero every key slot and sealing slot (R93, R445). -/
def zeroSlots (s : State) : State := s.ciph fun c => { c with slots := [], dsk := none, ktwk := none, ktwkPrev := none, gcm := [] }

/-- What a request's key reference leads to. -/
inductive KeyRef | slot (n : Nat) (k : KeySlot) | fill (index gen : Nat) | absent
deriving DecidableEq, Repr

/-- Resolve KEY_INDEX and GEN of a request (R448, R454, R455); `unit` is the tweak's number for GEN 0xFFFF. -/
def keyRef (s : State) (keyIndex : W32) (gen : W16) (unit : Option Nat) : KeyRef :=
  if keyIndex.getLsbD 31 then
    match Tbl.find s.cipher.slots (keyIndex.toNat % 2 ^ 31) with
    | some k => .slot (keyIndex.toNat % 2 ^ 31) k
    | none => .absent
  else match Tbl.find s.cipher.keys keyIndex.toNat with
    | none => .absent
    | some e =>
      let g := if gen = 0xFFFF then (match unit with
          | some u => genForUnit e (u / 2 ^ 44) (u % 2 ^ 44)
          | none => some e.cur) else genOf e gen.toNat
      match g with
      | none => .absent
      | some g =>
        if g.state = 4 then .absent
        else match slotOf (.gen keyIndex.toNat g.gen) s with
          | some n => match Tbl.find s.cipher.slots n with
            | some k => .slot n k
            | none => .absent
          | none => .fill keyIndex.toNat g.gen

/-- Count a use of the generation that a slot holds. -/
def countSlotUse (k : KeySlot) (s : State) : State :=
  match k.use with
  | .gen i g => countUse i g s
  | _ => s

/-! ## Requests (R442, R455 to R458) -/

/-- Cipher group g is powered and not fenced. -/
def groupUp (s : State) (g : Nat) : Bool := hasBit s.power.on (24 + g) && !hasBit s.power.fenced (24 + g)

/-- A request completes (R455): its output, or the tag of a close, is written at DST, and the record after it. A destination in a closed load target takes nothing (R83) and the record says ACCESS_FAULT (log entry 230). -/
def cipherDone (r : CipherReq) (st : EngStatus) (ctx bytes : Nat) (data : List Byte) (s : State) : State :=
  if data ≠ [] ∧ targetClosed r.dst.toNat data.length s then emit (.cipherDone r.agent .accessFault ctx 0 r.dst []) s
  else emit (.cipherDone r.agent st ctx bytes r.dst data) (chipPut r.dst.toNat data s)

/-- The request waits for its key. -/
def cipherWait (op : CipherOp) (r : CipherReq) (s : State) : State := s.ciph fun c => { c with waits := c.waits ++ [⟨op, r⟩] }

/-- A refusal whose status the spec does not name: a free one of the statuses other than OK (log entry 1). -/
def openStatus (s : State) : EngStatus × State :=
  let d := draw s
  ([EngStatus.contextBusy, .noContext, .keyExhausted, .keyAbsent, .lengthFault, .tagFail, .fenced, .accessFault, .padFault, .overrun].getD (d.1 % 10) .accessFault, d.2)

def xtsBad (r : CipherReq) : Bool := decide (r.data.length < 16) || decide (65536 < r.data.length)

/-- XTS encryption or decryption of one data unit. -/
def runXts (enc : Bool) (r : CipherReq) (s : State) : State :=
  let op := if enc then CipherOp.xtsEncrypt else .xtsDecrypt
  if !groupUp s 0 && !groupUp s 1 then cipherDone r .fenced 0 0 [] s
  else if xtsBad r then cipherDone r .lengthFault 0 0 [] s
  else match keyRef s r.keyIndex r.gen (some r.tweakIv.toNat) with
    | .absent => cipherDone r .keyAbsent 0 0 [] s
    | .fill _ _ => cipherWait op r s
    | .slot n k =>
      let s1 := touchSlot n s
      let s2 := if enc then countSlotUse k s1 else s1
      cipherDone r .ok 0 r.data.length (Config.xts enc k.key r.tweakIv r.data) s2

/-- Re-encryption in one pass: the plaintext never leaves the lane (R451). -/
def runReencrypt (r : CipherReq) (s : State) : State :=
  if !groupUp s 0 && !groupUp s 1 then cipherDone r .fenced 0 0 [] s
  else if xtsBad r then cipherDone r .lengthFault 0 0 [] s
  else match keyRef s r.keyIndex r.gen (some r.tweakIv.toNat), keyRef s r.keyIndex2 r.gen2 (some r.tweak2.toNat) with
    | .absent, _ => cipherDone r .keyAbsent 0 0 [] s
    | _, .absent => cipherDone r .keyAbsent 0 0 [] s
    | .slot n k, .slot n2 k2 =>
      let plain := Config.xts false k.key r.tweakIv r.data
      cipherDone r .ok 0 r.data.length (Config.xts true k2.key (r.tweak2.setWidth 128) plain) (countSlotUse k2 (touchSlot n2 (touchSlot n s)))
    | _, _ => cipherWait .xtsReencrypt r s

/-- A context can be opened: of a group that is up, and free. -/
def freeCtxs (s : State) : List Nat := (List.range 64).filter fun n => groupUp s (n / 32) && !Tbl.has s.cipher.gcm n

/-- The context that a GCM_OPEN gets: the named one, or any free one for 0xFF. -/
def pickContext (r : CipherReq) (s : State) : State × Option Nat × EngStatus :=
  if r.ctx = 0xFF then
    match freeCtxs s with
    | [] => (s.ciph fun c => { c with noContext := c.noContext + 1 }, none, if groupUp s 0 || groupUp s 1 then .noContext else .fenced)
    | l => let d := draw s; (d.2, some (l.getD (d.1 % l.length) 0), .ok)
  else if 64 ≤ r.ctx then (let o := openStatus s; (o.2, none, o.1))
  else if !groupUp s (r.ctx / 32) then (s, none, .fenced)
  else match Tbl.find s.cipher.gcm r.ctx with
    | some c => if c.owner = r.agent then (s, some r.ctx, .ok) else (s, none, .contextBusy)
    | none => (s, some r.ctx, .ok)

/-- Open a GCM context (R453, R455, R457): a named one, or any free one. -/
def runGcmOpen (r : CipherReq) (s : State) : State :=
  match pickContext r s with
  | (s0, none, st) => cipherDone r st r.ctx 0 [] s0
  | (s0, some n, _) => match keyRef s0 r.keyIndex r.gen none with
    | .absent => cipherDone r .keyAbsent n 0 [] s0
    | .fill _ _ => cipherWait .gcmOpen r s
    | .slot m k =>
      let spent := match k.use with
        | .gen i g => (match Tbl.find s0.cipher.keys i with
          | some e => (match genOf e g with
            | some x => !r.decrypt && decide (genExhaust x ≤ x.uses)
            | none => false)
          | none => false)
        | _ => false
      if !k.gcmKind then (let o := openStatus s0; cipherDone r o.1 n 0 [] o.2)
      else if spent then cipherDone r .keyExhausted n 0 [] s0
      else
        let s1 := touchSlot m s0
        let s2 := if r.decrypt then s1 else countSlotUse k s1
        let x : GcmCtx := { owner := r.agent, decrypt := r.decrypt, weight := max 1 r.weight, slot := m, iv := leBytes 12 r.tweakIv.toNat }
        let s3 := s2.ciph fun c => { c with gcm := Tbl.set c.gcm n x }
        cipherDone r .ok n 0 [] s3

def slotKey (s : State) (n : Nat) : List Byte :=
  match Tbl.find s.cipher.slots n with
  | some k => k.key
  | none => []

/-- A context of the requesting agent, or the status that refuses the request (R457). -/
def ownCtx (r : CipherReq) (s : State) : Option GcmCtx × EngStatus × State :=
  match Tbl.find s.cipher.gcm r.ctx with
  | some c => if c.owner = r.agent then (some c, .ok, s) else (none, .contextBusy, s)
  | none => let o := openStatus s; (none, o.1, o.2)

/-- AAD or data for an owned context (R442, R458). -/
def runGcmData (r : CipherReq) (s : State) : State :=
  match ownCtx r s with
  | (none, st, s0) => cipherDone r st r.ctx 0 [] s0
  | (some c, _, s0) =>
    let len := r.data.length
    if c.failed then cipherDone r .lengthFault r.ctx 0 [] s0
    else if r.aad then
      if 65536 < c.aad.length + len then
        cipherDone r .lengthFault r.ctx 0 [] (s0.ciph fun k => { k with gcm := Tbl.set k.gcm r.ctx { c with failed := true } })
      else cipherDone r .ok r.ctx len [] (s0.ciph fun k => { k with gcm := Tbl.set k.gcm r.ctx { c with aad := c.aad ++ r.data } })
    else if c.final ∨ 2 ^ 32 - 1 < c.text.length + len then
      cipherDone r .lengthFault r.ctx 0 [] (s0.ciph fun k => { k with gcm := Tbl.set k.gcm r.ctx { c with failed := true } })
    else
      let outp := Config.gcmText (slotKey s0 c.slot) c.iv c.text.length r.data
      let text := c.text ++ (if c.decrypt then r.data else outp)
      cipherDone r .ok r.ctx len outp (s0.ciph fun k => { k with gcm := Tbl.set k.gcm r.ctx { c with text := text, final := c.final || decide (len % 16 ≠ 0) } })

/-- Close an owned context: write the tag, or compare it (R455, R456). -/
def runGcmClose (r : CipherReq) (s : State) : State :=
  match ownCtx r s with
  | (none, st, s0) => cipherDone r st r.ctx 0 [] s0
  | (some c, _, s0) =>
    let tag := Config.gcmTag (slotKey s0 c.slot) c.iv c.aad c.text
    let s1 := s0.ciph fun k => { k with gcm := Tbl.del k.gcm r.ctx }
    if c.failed then cipherDone r .lengthFault r.ctx 0 [] s1
    else if c.decrypt then
      cipherDone r (if tag = leBytes 16 r.tweakIv.toNat then .ok else .tagFail) r.ctx c.text.length [] s1
    else cipherDone r .ok r.ctx c.text.length tag s1

/-- Raw AES on independent blocks: only GCM-kind keys (R442, R454). -/
def runRaw (enc : Bool) (r : CipherReq) (s : State) : State :=
  let op := if enc then CipherOp.rawEncrypt else .rawDecrypt
  let len := r.data.length
  if !groupUp s 0 && !groupUp s 1 then cipherDone r .fenced 0 0 [] s
  else if len = 0 ∨ len % 16 ≠ 0 ∨ 2 ^ 32 - 16 < len then cipherDone r .lengthFault 0 0 [] s
  else match keyRef s r.keyIndex r.gen none with
    | .absent => cipherDone r .keyAbsent 0 0 [] s
    | .fill _ _ => cipherWait op r s
    | .slot n k =>
      if k.gcmKind then cipherDone r .ok 0 len (Config.aes enc k.key r.data) (touchSlot n s)
      else let o := openStatus s; cipherDone r o.1 0 0 [] o.2

/-- Run a request by its OP. -/
def runCipher (op : CipherOp) (r : CipherReq) (s : State) : State :=
  match op with
  | .xtsEncrypt => runXts true r s
  | .xtsDecrypt => runXts false r s
  | .xtsReencrypt => runReencrypt r s
  | .gcmOpen => runGcmOpen r s
  | .gcmData => runGcmData r s
  | .gcmClose => runGcmClose r s
  | .rawEncrypt => runRaw true r s
  | .rawDecrypt => runRaw false r s

/-- Run the waiting requests again, in order of arrival; those whose key is still not held wait on. -/
def runWaits : List CipherWait → State → State
  | [], s => s
  | w :: ws, s => runWaits ws (runCipher w.op w.req s)

def retryWaits (s : State) : State := runWaits s.cipher.waits (s.ciph fun c => { c with waits := [] })

/-- The contexts of agents that are reset or fenced become free (R458). -/
def freeAgent (p : Nat → Bool) (s : State) : State :=
  s.ciph fun c => { c with
    gcm := c.gcm.filter fun e => !p e.2.owner
    dgs := c.dgs.filter fun e => match e.2.owner with
      | some a => !p a
      | none => true }

/-- A fenced cipher group's contexts become free (R458). -/
def fenceGroup (g : Nat) (s : State) : State := s.ciph fun c => { c with gcm := c.gcm.filter fun e => e.1 / 32 ≠ g }

/-- A key is marked unusable, with its event (R449, R454, R508). -/
def keyUnusable (index gen reason : Nat) (s : State) : State :=
  let s1 := s.ciph fun c => { c with keys := Tbl.upd c.keys index fun e => mapGen e gen fun g => { g with state := 4 } }
  event 2 0x60 (le32 index ++ le16 gen ++ le8 reason) s1

/-! ## The KTWK and its record (R445, R446) -/

def ktwkIndex : Nat := 0xFFFFFFFF

/-- The KTWK record of 4 KiB as the boot NOR holds it. -/
def ktwkRecordBytes (r : KtwkRec) : List Byte :=
  let b := le32 0x544B5A4D ++ le16 1 ++ zeros 2 ++ le64 r.seq ++ fit 8 r.kcv ++ fit 72 r.cur ++ fit 72 r.prev ++ zeros 3924
  b ++ le32 (Config.crc32c b).toNat

/-- The NOR offset of a copy of the record. -/
def ktwkOffset (copy : Nat) : Nat := 0x3E000 + 0x1000 * copy

/-- A KTWK wrapped under the device sealing key. -/
def sealKtwk (s : State) (k : List Byte) : List Byte := Config.keyWrap (s.cipher.dsk.getD zeroKey) (wrapIcv 3 0 ktwkIndex) (fit 64 k)

/-- The plaintext that a sealed KTWK gives under the device sealing key. -/
def unsealOne (s : State) (w : List Byte) : Option (List Byte) :=
  match s.cipher.dsk with
  | some d => (unwrapAs d w 3 ktwkIndex).map fun r => r.1.take 32
  | none => none

/-- The newer of the two copies. -/
def newestKtwk (s : State) : Option KtwkRec :=
  match s.cipher.record0, s.cipher.record1 with
  | some a, some b => some (if a.seq < b.seq then b else a)
  | some a, none => some a
  | none, b => b

/-- The KTWK goes into sealing slot 1, the one before it into slot 2, and a new record over the copy with the lower SEQ (R446). -/
def writeKtwk (cur : List Byte) (prev : Option (List Byte)) (s : State) : State :=
  let r : KtwkRec := {
    seq := (match newestKtwk s with | some o => o.seq + 1 | none => 1), kcv := kcvOf cur, cur := sealKtwk s cur
    prev := match prev with | some p => sealKtwk s p | none => zeros 72 }
  let second := match s.cipher.record0, s.cipher.record1 with
    | none, _ => false
    | some _, none => true
    | some a, some b => decide (b.seq < a.seq)
  let s1 := s.ciph fun c => { c with ktwk := some cur, ktwkPrev := prev }
  if norFrozen s then s1
  else
    let off := ktwkOffset (if second then 1 else 0)
    let s2 := s1.ciph fun c => if second then { c with record1 := some r } else { c with record0 := some r }
    emit (.nor (.program off (ktwkRecordBytes r))) (emit (.nor (.erase4 off)) s2)

/-- The newest record is unsealed into sealing slots 1 and 2 (R445, R446): the sealing key of a chip with debug open does not unseal one made while it was closed. -/
def unsealKtwk (s : State) : State :=
  match newestKtwk s with
  | none => s
  | some r => match unsealOne s r.cur with
    | some k => s.ciph fun c => { c with ktwk := some k, ktwkPrev := if r.prev = zeros 72 then none else unsealOne s r.prev }
    | none => s

/-- Re-wrap one generation under a new KTWK. -/
def rewrap (old new : List Byte) (index : Nat) (g : KeyGen) : KeyGen :=
  match unwrapAs old g.wrapped g.kind index with
  | some (plain, lim) => { g with wrapped := Config.keyWrap new (wrapIcv g.kind lim index) plain }
  | none => g

/-- A new KTWK in the place of the one held: the whole table is re-wrapped and a record is written with the old key as PREV (R446). -/
def rekeyTable (old new : List Byte) (s : State) : State :=
  (writeKtwk new (some old) s).ciph fun c => { c with keys := Tbl.mapVals c.keys fun i e => {
    e with cur := rewrap old new i e.cur, retired := e.retired.map (rewrap old new i) } }

/-- A generation that this head's KTWK unwraps again returns to use. -/
def genBack (s : State) (index retired : Nat) (g : KeyGen) : KeyGen :=
  if g.state = 4 && (genPlain s index g).isSome then
    let g1 := { g with state := if retired = 0 then 1 else 5 }; { g1 with state := genState g1 }
  else g

/-- Keys marked unusable return once the two heads' KTWKs agree, and KTWK_MISMATCH falls (R449). -/
def recheckKeys (s : State) : State :=
  let s1 := s.ciph fun c => { c with keys := Tbl.mapVals c.keys fun i e => { e with cur := genBack s i 0 e.cur, retired := e.retired.map (genBack s i 1) } }
  if s1.cipher.keys.any fun e => (e.2.cur :: e.2.retired).any fun g => g.state = 4 then s1
  else alarmIs 0x24 false (s1.ciph fun c => { c with mismatch := false })

/-- The heads' KTWKs differ (R449). -/
def ktwkMismatch (s : State) : State := alarmIs 0x24 true (s.ciph fun c => { c with mismatch := true })

/-- A key index leaves the table, and every slot that holds a generation of it is zeroed (R449). -/
def dropKey (i : Nat) (s : State) : State :=
  s.ciph fun c => { c with
    slots := c.slots.filter fun e => match e.2.use with
      | .gen j _ => j ≠ i
      | _ => true
    keys := Tbl.del c.keys i }

end Sys2Proof.Machine
end

