-- ==== Sys2Proof/Machine/Zstd.lean ====
section
/-! DEFINITION. Machine/Zstd.lean: the Zstandard decoder, from RFC 8878: any frame without a dictionary (R229, R231). -/
namespace Sys2Proof.Config
open Sys2Proof

/-! ## Bit streams -/

/-- Bits read backward: the number that the bytes spell, and how many of its low bits are left. -/
structure BackBits where
  num : Nat
  left : Nat
deriving DecidableEq, Repr

/-- A backward stream ends below the highest set bit of its last byte. -/
def backBits (l : List Byte) : Option BackBits :=
  match l.reverse with
  | [] => none
  | b :: _ => if b = 0 then none else some ⟨natLe l, 8 * (l.length - 1) + Nat.log2 b.toNat⟩

/-- The next n bits, zeros behind the end; how many bits are left, none once more have been read than there were. -/
def BackBits.peek (s : BackBits) (n : Nat) : Nat :=
  if n ≤ s.left then s.num / 2 ^ (s.left - n) % 2 ^ n else s.num % 2 ^ s.left * 2 ^ (n - s.left)
def BackBits.read (s : BackBits) (n : Nat) : Option (Nat × BackBits) :=
  if n ≤ s.left then some (s.peek n, { s with left := s.left - n }) else none

/-! ## FSE tables -/

/-- A cell: its symbol, the bits to the next state and their base. -/
structure FseCell where
  sym : Nat
  bits : Nat
  base : Nat
deriving DecidableEq, Repr, Inhabited

structure FseTable where
  log : Nat
  cells : List FseCell
deriving DecidableEq, Repr

/-- Zero probabilities that a repeat flag counts, in pieces of 2 bits. -/
def fseZeros (num : Nat) : Nat → Nat → List Int → Nat × List Int
  | 0, at_, acc => (at_, acc)
  | f + 1, at_, acc =>
    let r := num / 2 ^ at_ % 4
    let acc2 := acc ++ List.replicate r 0
    if r = 3 then fseZeros num f (at_ + 2) acc2 else (at_ + 2, acc2)

/-- The probabilities of a table description: bits used, and a probability for each symbol, -1 for one that is below 1. -/
def fseProbs (num : Nat) : Nat → Nat → Nat → List Int → Nat × List Int × Nat
  | 0, at_, rest, acc => (at_, acc, rest)
  | f + 1, at_, rest, acc =>
    if rest = 0 then (at_, acc, 0)
    else
      let bits := Nat.log2 (rest + 1) + 1
      let v := num / 2 ^ at_ % 2 ^ bits
      let low := v % 2 ^ (bits - 1)
      let thr := 2 ^ bits - 1 - (rest + 1)
      let short := decide (low < thr)
      let x := if short then low else if 2 ^ (bits - 1) ≤ v then v - thr else v
      let at2 := at_ + (if short then bits - 1 else bits)
      let p : Int := (x : Int) - 1
      let rest2 := rest - p.natAbs
      if p = 0 then
        let z := fseZeros num 256 at2 (acc ++ [0])
        fseProbs num f z.1 rest2 z.2
      else fseProbs num f at2 rest2 (acc ++ [p])

/-- Place a symbol at the next free places of the spread. -/
def fseSpread (size high step : Nat) : Nat → Nat → Nat → List Nat → Nat × List Nat
  | 0, _, _, t => (0, t)
  | f + 1, pos, sym, t =>
    if pos < high then (pos, t.set pos sym) else fseSpread size high step f ((pos + step) % size) sym t

def fsePlace (size high step sym : Nat) : Nat → Nat → List Nat → Nat × List Nat
  | 0, pos, t => (pos, t)
  | n + 1, pos, t =>
    let r := fseSpread size high step size pos sym t
    fsePlace size high step sym n ((r.1 + step) % size) r.2

/-- The table of some probabilities. -/
def fseTable (log : Nat) (probs : List Int) : FseTable :=
  let size := 2 ^ log
  let low := (probs.zipIdx.filter fun x => x.1 = -1).map (·.2)
  let high := size - low.length
  let step := size / 2 + size / 8 + 3
  let t0 := List.replicate high 0 ++ low.reverse
  let t := (probs.zipIdx.foldl (fun (a : Nat × List Nat) x => if 0 < x.1 then fsePlace size high step x.2 x.1.toNat a.1 a.2 else a) (0, t0)).2
  let start := probs.map fun p => if p = -1 then 1 else p.toNat
  let r := t.foldl (fun (a : List Nat × List FseCell) sym =>
    let n := a.1.getD sym 1
    let bits := log - Nat.log2 n
    (a.1.set sym (n + 1), { sym := sym, bits := bits, base := n * 2 ^ bits - size } :: a.2)) (start, [])
  ⟨log, r.2.reverse⟩

/-- A table description at the head of some bytes: the table and the bytes that it takes. -/
def fseDescribed (maxLog maxSym : Nat) (l : List Byte) : Option (FseTable × Nat) :=
  let num := natLe (l.take 512)
  let log := num % 16 + 5
  if maxLog < log || l.length = 0 then none
  else
    let r := fseProbs num 300 4 (2 ^ log) []
    let used := (r.1 + 7) / 8
    if r.2.2 ≠ 0 || decide (maxSym + 1 < r.2.1.length) || decide (l.length < used) then none else some (fseTable log r.2.1, used)

/-- A table whose one state gives one symbol. -/
def fseRle (sym : Nat) : FseTable := ⟨0, [{ sym := sym, bits := 0, base := 0 }]⟩
def FseTable.cell (t : FseTable) (state : Nat) : FseCell := t.cells.getD state default

/-- The next state of a cell. -/
def fseNext (c : FseCell) (s : BackBits) : Option (Nat × BackBits) := (s.read c.bits).map fun r => (c.base + r.1, r.2)

/-! ## Huffman trees -/

/-- Symbols of two interleaved states until the stream is used up: `a` gives the next symbol. -/
def fseTwo (t : FseTable) : Nat → Nat → Nat → BackBits → List Nat
  | 0, _, _, _ => []
  | f + 1, a, b, s =>
    let c := t.cell a
    match fseNext c s with
    | some (a2, s2) => c.sym :: fseTwo t f b a2 s2
    | none => [c.sym, (t.cell b).sym]

/-- The weights of a tree description and the bytes that it takes. -/
def huffWeights (l : List Byte) : Option (List Nat × Nat) :=
  match l with
  | [] => none
  | h :: r =>
    if 128 ≤ h.toNat then
      let n := h.toNat - 127
      let bytes := (n + 1) / 2
      if r.length < bytes then none
      else some (((r.take bytes).flatMap fun b => [b.toNat / 16, b.toNat % 16]).take n, 1 + bytes)
    else
      let body := r.take h.toNat
      if body.length < h.toNat then none
      else match fseDescribed 6 12 body with
        | none => none
        | some (t, used) => match backBits (body.drop used) with
          | none => none
          | some s => match s.read t.log with
            | none => none
            | some (a, s1) => (s1.read t.log).map fun x => (fseTwo t 256 a x.1 x.2, 1 + h.toNat)

/-- A tree as a table over its longest code: for each prefix, the symbol and its length. -/
structure HuffTable where
  log : Nat
  cells : List (Nat × Nat)
deriving DecidableEq, Repr

def huffTable (w : List Nat) : Option HuffTable :=
  let sum := (w.map fun x => if x = 0 then 0 else 2 ^ (x - 1)).sum
  if sum = 0 || decide (255 < w.length) then none
  else
    let log := Nat.log2 sum + 1
    let rest := 2 ^ log - sum
    if 2 ^ Nat.log2 rest ≠ rest || decide (11 < log) then none
    else
      let ws := w ++ [Nat.log2 rest + 1]
      some ⟨log, (List.range log).flatMap fun i => (ws.zipIdx.filter fun x => x.1 = i + 1).flatMap fun x => List.replicate (2 ^ i) (x.2, log - i)⟩

/-- n symbols of one stream, which they use up. -/
def huffDecode (t : HuffTable) : Nat → BackBits → Option (List Nat)
  | 0, s => if s.left = 0 then some [] else none
  | n + 1, s =>
    let c := t.cells.getD (s.peek t.log) (0, 0)
    match s.read c.2 with
    | none => none
    | some r => (huffDecode t n r.2).map (c.1 :: ·)

/-! ## Literals -/

/-- What later blocks of a frame may refer to: the tree, the three tables, the repeat offsets. -/
structure ZState where
  huff : Option HuffTable := none
  ll : Option FseTable := none
  off : Option FseTable := none
  ml : Option FseTable := none
  reps : List Nat := [1, 4, 8]
deriving DecidableEq, Repr

/-- The streams of compressed literals: one, or four behind a table of three sizes. -/
def huffStreams (t : HuffTable) (four : Bool) (n : Nat) (l : List Byte) : Option (List Nat) :=
  if !four then (backBits l).bind (huffDecode t n)
  else if l.length < 6 then none
  else
    let a := natLe (l.take 2)
    let b := natLe ((l.drop 2).take 2)
    let c := natLe ((l.drop 4).take 2)
    let r := l.drop 6
    let q := (n + 3) / 4
    if r.length < a + b + c || n < 3 * q then none
    else do
      let w ← (backBits (r.take a)).bind (huffDecode t q)
      let x ← (backBits ((r.drop a).take b)).bind (huffDecode t q)
      let y ← (backBits ((r.drop (a + b)).take c)).bind (huffDecode t q)
      let z ← (backBits (r.drop (a + b + c))).bind (huffDecode t (n - 3 * q))
      pure (w ++ x ++ y ++ z)

/-- The literals of a block, the bytes of their section, and the tree that stands afterwards. -/
def zLiterals (z : ZState) (l : List Byte) : Option (List Byte × Nat × Option HuffTable) :=
  let h := natLe (l.take 5)
  let fmt := h / 4 % 4
  if h % 4 < 2 then
    let head := if fmt % 2 = 0 then 1 else if fmt = 1 then 2 else 3
    let n := if fmt % 2 = 0 then h % 256 / 8 else if fmt = 1 then h % 2 ^ 16 / 16 else h % 2 ^ 24 / 16
    if h % 4 = 0 then (if l.length < head + n then none else some ((l.drop head).take n, head + n, z.huff))
    else if l.length < head + 1 then none
    else some (List.replicate n (l.getD head 0), head + 1, z.huff)
  else
    let bits := if fmt < 2 then 10 else if fmt = 2 then 14 else 18
    let head := if fmt < 2 then 3 else if fmt = 2 then 4 else 5
    let n := h / 16 % 2 ^ bits
    let comp := h / 2 ^ (4 + bits) % 2 ^ bits
    let body := (l.drop head).take comp
    if l.length < head + comp then none
    else if h % 4 = 2 then do
      let w ← huffWeights body
      let t ← huffTable w.1
      let s ← huffStreams t (fmt ≠ 0) n (body.drop w.2)
      pure (s.map (BitVec.ofNat 8), head + comp, some t)
    else do
      let t ← z.huff
      let s ← huffStreams t (fmt ≠ 0) n body
      pure (s.map (BitVec.ofNat 8), head + comp, some t)

/-! ## Sequences -/

def llProbs : List Int := [4, 3, 2, 2, 2, 2, 2, 2, 2, 2, 2, 2, 2, 1, 1, 1, 2, 2, 2, 2, 2, 2, 2, 2, 2, 3, 2, 1, 1, 1, 1, 1, -1, -1, -1, -1]
def mlProbs : List Int := [1, 4, 3, 2, 2, 2, 2, 2, 2] ++ List.replicate 37 1 ++ List.replicate 7 (-1)
def ofProbs : List Int := [1, 1, 1, 1, 1, 1, 2, 2, 2, 1, 1, 1, 1, 1, 1, 1, 1, 1, 1, 1, 1, 1, 1, 1, -1, -1, -1, -1, -1]

/-- Base and extra bits of a literal-length code and of a match-length code. -/
def llCode (c : Nat) : Nat × Nat :=
  if c < 16 then (c, 0)
  else ([(16, 1), (18, 1), (20, 1), (22, 1), (24, 2), (28, 2), (32, 3), (40, 3), (48, 4), (64, 6)].getD (c - 16) (2 ^ (c - 19), c - 19))
def mlCode (c : Nat) : Nat × Nat :=
  if c < 32 then (c + 3, 0)
  else ([(35, 1), (37, 1), (39, 1), (41, 1), (43, 2), (47, 2), (51, 3), (59, 3), (67, 4), (83, 4), (99, 5)].getD (c - 32) (2 ^ (c - 36) + 3, c - 36))

/-- The table that a mode selects: predefined, one symbol, described, or the last one; and the bytes that it takes. -/
def zTable (mode : Nat) (preset : FseTable) (last : Option FseTable) (maxLog maxSym : Nat) (l : List Byte) : Option (FseTable × Nat) :=
  match mode with
  | 0 => some (preset, 0)
  | 1 => (match l with
    | b :: _ => if maxSym < b.toNat then none else some (fseRle b.toNat, 1)
    | [] => none)
  | 2 => fseDescribed maxLog maxSym l
  | _ => last.map (·, 0)

/-- The offset of a match, and the repeat offsets after it. -/
def zOffset (v ll : Nat) (reps : List Nat) : Nat × List Nat :=
  let a := reps.getD 0 1
  let b := reps.getD 1 4
  let c := reps.getD 2 8
  if 3 < v then (v - 3, [v - 3, a, b])
  else match v - 1 + (if ll = 0 then 1 else 0) with
    | 0 => (a, [a, b, c])
    | 1 => (b, [b, a, c])
    | 2 => (c, [c, a, b])
    | _ => (a - 1, [a - 1, a, b])

/-- Copy a match from what has been decoded, held newest byte first. -/
def zCopy (off : Nat) : Nat → List Byte → List Byte
  | 0, out => out
  | n + 1, out => zCopy off n (out.getD (off - 1) 0 :: out)

/-- The sequences of a block: `out` is what the frame has given so far, newest byte first. -/
def zSequences (tl tO tm : FseTable) : Nat → Nat → Nat → Nat → BackBits → List Byte → List Nat → List Byte → Option (List Byte × List Nat)
  | 0, _, _, _, s, lits, reps, out => if s.left = 0 then some (lits.reverse ++ out, reps) else none
  | n + 1, sl, so, sm, s, lits, reps, out => do
    let cl := tl.cell sl
    let co := tO.cell so
    let cm := tm.cell sm
    let o ← s.read co.sym
    let m ← o.2.read (mlCode cm.sym).2
    let k ← m.2.read (llCode cl.sym).2
    let len := (llCode cl.sym).1 + k.1
    let mlen := (mlCode cm.sym).1 + m.1
    let x := zOffset (2 ^ co.sym + o.1) len reps
    let out1 := (lits.take len).reverse ++ out
    if lits.length < len || x.1 = 0 || decide (out1.length < x.1) then none
    else
      let out2 := zCopy x.1 mlen out1
      if n = 0 then zSequences tl tO tm 0 0 0 0 k.2 (lits.drop len) x.2 out2
      else
        let a ← fseNext cl k.2
        let b ← fseNext cm a.2
        let c ← fseNext co b.2
        zSequences tl tO tm n a.1 c.1 b.1 c.2 (lits.drop len) x.2 out2

/-- Number of sequences and the bytes that say it. -/
def zCount (l : List Byte) : Option (Nat × Nat) :=
  match l with
  | [] => none
  | a :: r => if a.toNat < 128 then some (a.toNat, 1)
    else match r with
      | [] => none
      | b :: r2 => if a.toNat < 255 then some ((a.toNat - 128) * 256 + b.toNat, 2)
        else match r2 with
          | [] => none
          | c :: _ => some (b.toNat + 256 * c.toNat + 0x7F00, 3)

/-- A compressed block. -/
def zCompressed (z : ZState) (l : List Byte) (out : List Byte) : Option (ZState × List Byte) := do
  let lit ← zLiterals z l
  let r := l.drop lit.2.1
  let n ← zCount r
  let z1 := { z with huff := lit.2.2 }
  if n.1 = 0 then (if r.length = n.2 then some (z1, lit.1.reverse ++ out) else none)
  else
    let modes := (r.getD n.2 0).toNat
    let r1 := r.drop (n.2 + 1)
    if modes % 4 ≠ 0 then none
    else
      let a ← zTable (modes / 64) (fseTable 6 llProbs) z.ll 9 35 r1
      let b ← zTable (modes / 16 % 4) (fseTable 5 ofProbs) z.off 8 31 (r1.drop a.2)
      let c ← zTable (modes / 4 % 4) (fseTable 6 mlProbs) z.ml 9 52 (r1.drop (a.2 + b.2))
      let s ← backBits (r1.drop (a.2 + b.2 + c.2))
      let sl ← s.read a.1.log
      let so ← sl.2.read b.1.log
      let sm ← so.2.read c.1.log
      let x ← zSequences a.1 b.1 c.1 n.1 sl.1 so.1 sm.1 sm.2 lit.1 z.reps out
      pure ({ z1 with ll := some a.1, off := some b.1, ml := some c.1, reps := x.2 }, x.1)

/-! ## Frames -/

/-- XXH64 with seed 0, whose low 4 bytes are the content checksum. -/
def xx1 : Nat := 0x9E3779B185EBCA87
def xx2 : Nat := 0xC2B2AE3D27D4EB4F
def xx3 : Nat := 0x165667B19E3779F9
def xx4 : Nat := 0x85EBCA77C2B2AE63
def xx5 : Nat := 0x27D4EB2F165667C5
def xxRot (n x : Nat) : Nat := (x * 2 ^ n + x / 2 ^ (64 - n)) % 2 ^ 64
def xxRound (a x : Nat) : Nat := xxRot 31 ((a + x * xx2) % 2 ^ 64) * xx1 % 2 ^ 64
def xxMerge (h a : Nat) : Nat := ((h ^^^ xxRound 0 a) * xx1 + xx4) % 2 ^ 64

/-- The bytes behind the last whole stripe of 32. -/
def xxTail (h : Nat) (l : List Byte) : Nat :=
  let w := pieces 8 (l.length / 8) l
  let h1 := w.foldl (fun h p => (xxRot 27 (h ^^^ xxRound 0 (natLe p)) * xx1 + xx4) % 2 ^ 64) h
  let r := l.drop (8 * w.length)
  let h2 := if 4 ≤ r.length then (xxRot 23 (h1 ^^^ (natLe (r.take 4) * xx1 % 2 ^ 64)) * xx2 + xx3) % 2 ^ 64 else h1
  (if 4 ≤ r.length then r.drop 4 else r).foldl (fun h b => xxRot 11 (h ^^^ (b.toNat * xx5 % 2 ^ 64)) * xx1 % 2 ^ 64) h2

def xxHash (l : List Byte) : Nat :=
  let stripes := pieces 32 (l.length / 32) l
  let v := stripes.foldl (fun (v : List Nat) s => (v.zip ((pieces 8 4 s).map natLe)).map fun x => xxRound x.1 x.2)
    [(xx1 + xx2) % 2 ^ 64, xx2, 0, (2 ^ 64 - xx1) % 2 ^ 64]
  let h0 := if l.length < 32 then xx5
    else v.foldl xxMerge ((xxRot 1 (v.getD 0 0) + xxRot 7 (v.getD 1 0) + xxRot 12 (v.getD 2 0) + xxRot 18 (v.getD 3 0)) % 2 ^ 64)
  let h1 := xxTail ((h0 + l.length) % 2 ^ 64) (l.drop (32 * stripes.length))
  let h2 := (h1 ^^^ (h1 / 2 ^ 33)) * xx2 % 2 ^ 64
  let h3 := (h2 ^^^ (h2 / 2 ^ 29)) * xx3 % 2 ^ 64
  h3 ^^^ (h3 / 2 ^ 32)

/-- The blocks of a frame: what they give, newest byte first, and the bytes behind them. -/
def zBlocks : Nat → ZState → List Byte → List Byte → Option (List Byte × List Byte)
  | 0, _, _, _ => none
  | f + 1, z, l, out =>
    let h := natLe (l.take 3)
    let size := h / 8
    let body := l.drop 3
    let next := fun (z : ZState) (r : List Byte) (out : List Byte) => if h % 2 = 1 then some (out, r) else zBlocks f z r out
    if l.length < 3 then none
    else match h / 2 % 4 with
      | 0 => if body.length < size then none else next z (body.drop size) ((body.take size).reverse ++ out)
      | 1 => (match body with
        | b :: r => if 131072 < size then none else next z r (List.replicate size b ++ out)
        | [] => none)
      | 2 => if body.length < size then none else (zCompressed z (body.take size) out).bind fun x => next x.1 (body.drop size) x.2
      | _ => none

/-- The plaintext of a Zstandard frame without a dictionary; none where the bytes begin with no such frame. -/
@[irreducible] def zstdDecode (l : List Byte) : Option (List Byte) :=
  let d := (l.getD 4 0).toNat
  let single := decide (d / 32 % 2 = 1)
  let dict := [0, 1, 2, 4].getD (d % 4) 0
  let fcs := if d / 64 = 0 then (if single then 1 else 0) else 2 ^ (d / 64)
  let at_ := 5 + (if single then 0 else 1)
  let head := at_ + dict + fcs
  if natLe (l.take 4) ≠ 0xFD2FB528 || decide (l.length < head) || decide (d / 8 % 2 = 1) || natLe ((l.drop at_).take dict) ≠ 0 then none
  else match zBlocks (l.length + 1) {} (l.drop head) [] with
    | none => none
    | some (out, rest) =>
      let given := natLe ((l.drop (at_ + dict)).take fcs) + (if fcs = 2 then 256 else 0)
      let plain := out.reverse
      if fcs ≠ 0 && given ≠ plain.length then none
      else if d / 4 % 2 = 1 && (decide (rest.length < 4) || natLe (rest.take 4) ≠ xxHash plain % 2 ^ 32) then none
      else some plain

end Sys2Proof.Config
end

