-- ==== Sys2Proof/Machine/Codec.lean ====
section
/-! DEFINITION. Machine/Codec.lean: encoded units as the compressors emit them, slots as the cipher stores them, and compression groups as bytes (R226 to R231, R443). -/
namespace Sys2Proof.Machine
open Sys2Proof

/-! ## LZ4 block format (R230) -/

/-- A sequence of an LZ4 block: its literals, then a match by offset and length. -/
structure Lz4Seq where
  lits : List Byte
  offset : Nat
  len : Nat
deriving DecidableEq, Repr

/-- A length that its 4-bit field continues in further bytes: each 255 adds, the first other byte ends it. -/
def lz4More : Nat → List Byte → Option (Nat × List Byte)
  | _, [] => none
  | n, b :: bs => if b = 255 then lz4More (n + 255) bs else some (n + b.toNat, bs)

def lz4Length (field : Nat) (bs : List Byte) : Option (Nat × List Byte) := if field = 15 then lz4More 15 bs else some (field, bs)

/-- The sequences of a block and the literals that end it; each sequence takes at least 3 bytes. -/
def lz4Parse : Nat → List Byte → Option (List Lz4Seq × List Byte)
  | 0, _ => none
  | _, [] => none
  | f + 1, t :: bs => match lz4Length (t.toNat / 16) bs with
    | none => none
    | some (n, r) =>
      if r.length < n then none
      else match r.drop n with
        | [] => if t.toNat % 16 = 0 then some ([], r) else none
        | [_] => none
        | a :: b :: r2 => match lz4Length (t.toNat % 16) r2 with
          | none => none
          | some (m, r3) => match lz4Parse f r3 with
            | none => none
            | some (l, last) => some ({ lits := r.take n, offset := a.toNat + 256 * b.toNat, len := m + 4 } :: l, last)

/-- Copy a match byte by byte from what has been decoded. -/
def lz4Copy (offset : Nat) : Nat → List Byte → List Byte
  | 0, acc => acc
  | n + 1, acc => lz4Copy offset n (acc ++ [acc.getD (acc.length - offset) 0])

/-- The plaintext of sequences behind what has been decoded. -/
def lz4Run : List Lz4Seq → List Byte → List Byte
  | [], acc => acc
  | q :: l, acc => lz4Run l (lz4Copy q.offset q.len (acc ++ q.lits))

def lz4Decode (bs : List Byte) : Option (List Byte) := (lz4Parse (bs.length + 1) bs).map fun r => lz4Run r.1 [] ++ r.2

/-- Offsets lie within the unit, and no match starts within 12 bytes of its end; `at_` counts the bytes decoded so far. -/
def lz4Matches (u : Nat) : Nat → List Lz4Seq → Bool
  | _, [] => true
  | at_, q :: l =>
    let start := at_ + q.lits.length
    decide (1 ≤ q.offset) && decide (q.offset ≤ start) && decide (start + 12 ≤ u) && lz4Matches u (start + q.len) l

/-- A block has only what the compressor emits: the last 5 bytes are literals. -/
def lz4Emitted (u : Nat) (bs : List Byte) : Bool :=
  match lz4Parse (bs.length + 1) bs with
  | some (l, last) => lz4Matches u 0 l && decide (5 ≤ last.length)
  | none => false

/-! ## Zstandard frames (R230, RFC 8878) -/

/-- Bytes of a literals section from its first byte on: its header and content; none for treeless literals. -/
def zstdLiterals (bs : List Byte) : Option Nat :=
  let b := hdrNat bs 0 1
  let fmt := b / 4 % 4
  match b % 4 with
  | 0 => some (if fmt % 2 = 0 then 1 + b / 8 else if fmt = 1 then 2 + hdrNat bs 0 2 / 16 else 3 + hdrNat bs 0 3 / 16)
  | 1 => some (if fmt % 2 = 0 then 2 else if fmt = 1 then 3 else 4)
  | 2 => some (if fmt ≤ 1 then 3 + hdrNat bs 0 3 / 2 ^ 14 else if fmt = 2 then 4 + hdrNat bs 0 4 / 2 ^ 18 else 5 + hdrNat bs 0 5 / 2 ^ 22)
  | _ => none

/-- The modes of a sequences section; none where it has no sequences. -/
def zstdModes (bs : List Byte) : Option Nat :=
  let b := hdrNat bs 0 1
  if b = 0 then none else some (hdrNat bs (if b < 128 then 1 else if b < 255 then 2 else 3) 1)

/-- The modes of literal lengths, offsets and match lengths: none repeats, and FSE_Compressed only where the level tries it. -/
def zstdModesOk (fse : Bool) (m : Nat) : Bool :=
  decide (m % 4 = 0) && [m / 64, m / 16 % 4, m / 4 % 4].all fun x => decide (x < 2) || (x = 2 && fse)

/-- The one block of a frame: raw, RLE, or compressed with the features of the table. -/
def zstdBlock (u : Nat) (fse : Bool) (bs : List Byte) : Bool :=
  let h := hdrNat bs 0 3
  let size := h / 8
  let body := bs.drop 3
  decide (h % 2 = 1) && match h / 2 % 4 with
    | 0 => decide (size = u) && decide (body.length = u)
    | 1 => decide (size = u) && decide (body.length = 1)
    | 2 => decide (body.length = size) && (match zstdLiterals body with
      | some n => decide (n < size) && (match zstdModes (body.drop n) with
        | some m => zstdModesOk fse m
        | none => true)
      | none => false)
    | _ => false

/-- A frame has only what the compressor emits: Single_Segment_Flag 1, Frame_Content_Size in 2 bytes, one last block. -/
def zstdEmitted (u : Nat) (fse : Bool) (bs : List Byte) : Bool :=
  decide (hdrNat bs 0 4 = 0xFD2FB528) && decide (hdrNat bs 4 1 = 0x60) && decide (hdrNat bs 5 2 = u - 256) && zstdBlock u fse (bs.drop 7)

/-! ## Search effort (R230) -/

/-- Match candidates per position. -/
def effortOf (compress level : Nat) : Nat :=
  if compress = 1 then (if level = 0 then 1 else 4) else if compress = 2 then 2 ^ (level - 1) else 0

/-- Entropy modes tried: FSE_Compressed from level 3, a cost-optimal parse from level 6. -/
def triesFse (compress level : Nat) : Bool := compress = 2 && decide (3 ≤ level)
def optimalParse (compress level : Nat) : Bool := compress = 2 && decide (6 ≤ level)

/-! ## Encoded units (R226, R229) -/

/-- The compressor's output for a unit has only the features of R230. -/
def emitted (v : Ns) (bs : List Byte) : Bool :=
  let u := 2 ^ v.unitLog
  if v.compress = 1 then lz4Emitted u bs else if v.compress = 2 then zstdEmitted u (triesFse v.compress v.level) bs else true

/-- What the verify decoder makes of it (R229). -/
def verifyDecode (v : Ns) (bs : List Byte) : Option (List Byte) := if v.compress = 1 then lz4Decode bs else Config.zstdDecode bs

/-- The CRC-32C of the decoded unit is that of the input (R229); a unit of a volume without compression is not encoded. -/
def verifyMatches (v : Ns) (crc : W32) (bs : List Byte) : Bool :=
  v.compress = 0 || (match verifyDecode v bs with
    | some p => decide (Config.crc32c p = crc)
    | none => false)

/-- Encoding and bytes of a unit: raw where the volume does not compress, or where the padded encoding is not shorter than the unit (R226). -/
def encodedOf (v : Ns) (plain bs : List Byte) : Enc × List Byte :=
  if v.compress = 0 || decide (2 ^ v.unitLog ≤ roundUp bs.length 16) then (.raw, plain) else (if v.compress = 1 then .lz4 else .zstd, bs)

/-- CLEN of a unit record: the exact encoded length; R226 gives it from 16 on, and an encoding shorter than that is recorded as 16 (log entry 188). -/
def clenOf (bs : List Byte) : Nat := max 16 bs.length

/-- Encoded bytes padded to a slot (R226). -/
def padSlot (bs : List Byte) : List Byte := fit (roundUp (clenOf bs) 16) bs

/-! ## Slots (R227, R443) -/

/-- The tweak of a compression-group slot: POOL_ID * 2^44 + unit identifier. -/
def slotTweak (unit : Nat) : BitVec 128 := BitVec.ofNat 128 unit

/-- The key bytes of a generation of a key index. -/
def genKey (s : State) (index gen : Nat) : List Byte :=
  match Tbl.find s.cipher.keys index with
  | some e => (match genOf e gen with
    | some g => (genPlain s index g).getD []
    | none => [])
  | none => []

/-- Encrypt an encoded unit as one XTS data unit (R227). -/
def sealSlot (s : State) (index gen unit : Nat) (bs : List Byte) : List Byte := Config.xts true (genKey s index gen) (slotTweak unit) (padSlot bs)

/-- Decrypt a slot and encrypt it again under another generation and tweak, in one pass (R435, R451). -/
def reseal (s : State) (fromIndex fromGen fromUnit toIndex toGen toUnit : Nat) (slot : List Byte) : List Byte :=
  Config.xts true (genKey s toIndex toGen) (slotTweak toUnit) (Config.xts false (genKey s fromIndex fromGen) (slotTweak fromUnit) slot)

/-- The plaintext of an encoded unit: any LZ4 block, or any Zstandard frame without a dictionary, of at most 16,384 bytes (R231). -/
def decodeEnc (e : Enc) (bs : List Byte) : Option (List Byte) :=
  (match e with
    | .raw => some bs
    | .lz4 => lz4Decode bs
    | .zstd => Config.zstdDecode bs).filter fun p => decide (p.length ≤ 16384)

/-- What reading a slot gives: the unit's plaintext, no key for it, or bytes that do not decode to the CRC of the unit record. -/
inductive SlotRead | plain (bytes : List Byte) | noKey | bad
deriving DecidableEq, Repr

/-- The unit whose slot a unit's readers take: an alias leads one hop to its target (R233). -/
def slotUnit (s : State) (key : Nat) : Nat :=
  match Tbl.find s.grinder.units key with
  | some u => u.alias_.getD key
  | none => key

/-- A stored unit as the read path decodes it: decrypted under the generation that its place in the pool's identifiers asks for, decoded, and held against the CRC of its record (R227, R231). -/
def readSlot (s : State) (v : Ns) (key : Nat) : SlotRead :=
  let t := slotUnit s key
  match Tbl.find s.grinder.units t with
  | none => .bad
  | some u => match (Tbl.find s.cipher.keys v.key).bind (fun e => (genForUnit e (unitPool t) (t % 2 ^ 44)).bind fun g => genPlain s v.key g) with
    | none => .noKey
    | some k => match decodeEnc u.enc ((Config.xts false k (slotTweak t) u.slot).take u.clen) with
      | some p => if Config.crc32c p = u.crc then .plain p else .bad
      | none => .bad

/-! ## Compression groups (R228) -/

/-- One slot of a group: unit, encoding, encrypted bytes. -/
structure GroupSlot where
  unit : Nat
  enc : Nat
  data : List Byte
deriving DecidableEq, Repr

/-- The SLOT entries, from a slot's start in units of 16 bytes on, and PAYLOAD_END. -/
def slotEntries : Nat → List GroupSlot → List Byte × Nat
  | at_, [] => ([], at_)
  | at_, g :: l =>
    let r := slotEntries (at_ + g.data.length / 16) l
    (le64 (g.unit % 2 ^ 44 + at_ % 2 ^ 12 * 2 ^ 44 + g.enc * 2 ^ 56) ++ r.1, r.2)

/-- The header with its CRC field at some value. -/
def headerWith (crc : W32) (pool unitLog key : Nat) (slots : List GroupSlot) : List Byte :=
  let r := slotEntries 10 slots
  le32 0x47435A4D ++ le8 1 ++ le8 slots.length ++ le8 unitLog ++ le8 pool ++ le16 (ceilDiv (r.2 * 16) 512) ++ le16 r.2 ++ le32 key
    ++ zeros 12 ++ le32 crc.toNat ++ fit 128 r.1

/-- The header of 160 bytes: HDR_CRC is taken over it with its own field zero. -/
def groupHeader (pool unitLog key : Nat) (slots : List GroupSlot) : List Byte :=
  headerWith (Config.crc32c (headerWith 0 pool unitLog key slots)) pool unitLog key slots

/-- A whole group: header in clear, slots back to back, zero padding to granules of 512 bytes (R226, R227). -/
def groupImage (pool unitLog key : Nat) (slots : List GroupSlot) : List Byte :=
  let body := groupHeader pool unitLog key slots ++ slots.flatMap (·.data)
  fit (roundUp body.length 512) body

/-- The group of some units that the Grinder holds, in order. -/
def groupOf (s : State) (pool unitLog key : Nat) (units : List Nat) : List Byte :=
  groupImage pool unitLog key (units.filterMap fun k => (Tbl.find s.grinder.units k).map fun u => { unit := k, enc := encNum u.enc, data := u.slot })

/-- UNIT_LOG2 and KEY_INDEX of a group, from its header: flash management needs no key for them (R227). -/
def headerUnitLog (h : List Byte) : Nat := hdrNat h 6 1
def headerKey (h : List Byte) : Nat := hdrNat h 12 4

end Sys2Proof.Machine
end

