-- ==== Sys2Proof/Machine/Layout.lean ====
section
/-! DEFINITION. Machine/Layout.lean: Hedgerow's placement, spares, segment numbers, capacities and the GF(2^8) code (R278 to R286, R344). -/
namespace Sys2Proof.Machine
open Sys2Proof

/-! ## The code (R279) -/

/-- Product in GF(2^8) with polynomial 0x11D, over the low n bits of b. -/
def gfMulGo (a b : Nat) : Nat → Nat
  | 0 => 0
  | n + 1 =>
    let a2 := if 128 ≤ a then (2 * a) % 256 ^^^ 0x1D else 2 * a
    (if b % 2 = 1 then a else 0) ^^^ gfMulGo a2 (b / 2) n

def gfMul (a b : Nat) : Nat := gfMulGo a b 8

/-- The inverse of a field element, 0 for 0. -/
def gfInv (a : Nat) : Nat := ((List.range 256).find? fun x => gfMul a x = 1).getD 0

/-- The coefficient c(p, i) of data strip i in parity strip p. -/
def parityCoef (p i : Nat) : Nat := gfInv (p ^^^ (4 + i))

/-- One byte of parity strip p from the bytes of the data strips. -/
def parityByte (p : Nat) (d : List Nat) : Nat :=
  (d.zipIdx.map fun x => gfMul (parityCoef p x.2) x.1).foldl (· ^^^ ·) 0

/-! ## Geometry (R278, R280, R282) -/

def Layout.w (l : Layout) : Nat := l.k + l.m
/-- Stripes in one period. -/
def Layout.per (l : Layout) : Nat := l.n - l.d
/-- SEGS. -/
def Layout.segs (l : Layout) : Nat := l.periods * l.per
/-- The free-space reserve Z. -/
def Layout.reserve (l : Layout) : Nat := max (ceilDiv l.segs 20) 4096
/-- Usable bytes: (SEGS - Z) segments (R288). -/
def Layout.capacity (l : Layout) : Nat := (l.segs - l.reserve) * l.k * 65536
/-- Granules of one segment. -/
def Layout.granules (l : Layout) : Nat := l.k * 128

/-- Distributed spare depth for N members (R278). -/
def spareDepth (n : Nat) : Nat := if n ≤ 47 then 1 else 2

/-- A segment's key in the model: its stripe identifier (R282). -/
def segKey (layout num : Nat) : Nat := layout * 2 ^ 36 + num
def segNum (key : Nat) : Nat := key % 2 ^ 36
def segLayout (key : Nat) : Nat := key / 2 ^ 36

/-- Swap two places of a list. -/
def swapAt (l : List Nat) (i j : Nat) : List Nat := (l.set i (l.getD j 0)).set j (l.getD i 0)

/-- The Fisher-Yates procedure of R281, from x downward. -/
def shuffle (seed : W64) (t : Nat) : Nat → List Nat → List Nat
  | 0, l => l
  | x + 1, l =>
    let h := Config.sha256 (le64 seed.toNat ++ le64 t ++ le32 (x + 1))
    shuffle seed t x (swapAt l (x + 1) (ofLe (h.take 8) % (x + 2)))

/-- pi_t. -/
def permOf (l : Layout) (t : Nat) : List Nat := shuffle l.seed t (l.n - 1) (List.range l.n)

/-- The module of a position in period t, before spare substitution. -/
def posModule (l : Layout) (t pos : Nat) : Nat := l.members.getD ((permOf l t).getD pos 0) 255

/-- Where segment s places strip i: module before substitution, and module slot (R280). -/
def homeOf (l : Layout) (s i : Nat) : Nat × Nat :=
  let t := s / l.per
  let q := s % l.per * l.w + i
  (posModule l t (q % l.per), t * l.w + q / l.per)

/-- The strip address within a module (R282). -/
def stripAddr (l : Layout) (slot : Nat) : Nat := l.id * 2 ^ 36 + slot

/-! ## Spares (R283, R284) -/

/-- Members that count as failed for the assignment: failed, rebuilt or retiring, not those being copied back. -/
def failedMods (p : Pool) : List Nat := (p.failed.filter fun e => e.state ≠ 4).map (·.module)

/-- Spare modules of a period that are not failed, in order of position. -/
def availSpares (p : Pool) (l : Layout) (t : Nat) : List Nat :=
  ((List.range l.d).map fun x => posModule l t (l.per + x)).filter fun m => !(failedMods p).contains m

/-- The spare of each failed member in a period, by the failure list in order (R283). -/
def assignSpares (p : Pool) (l : Layout) (t : Nat) : List FailEnt → List Nat → List (Nat × Nat)
  | [], _ => []
  | f :: fs, avail =>
    let sits := ((List.range l.d).map fun x => posModule l t (l.per + x)).contains (f.replacement.getD f.module)
    if sits then assignSpares p l t fs avail
    else match avail with
      | [] => assignSpares p l t fs []
      | a :: rest => (f.module, a) :: assignSpares p l t fs rest

def spareOf (p : Pool) (l : Layout) (t m : Nat) : Option Nat :=
  ((assignSpares p l t p.failed (availSpares p l t)).find? fun x => x.1 = m).map (·.2)

/-- The strip on a module is marked as rebuilt, or as copied back (R284, R306). -/
def isRebuilt (p : Pool) (m addr : Nat) : Bool := Tbl.has p.rebuilt (m * 2 ^ 48 + addr)
def markRebuilt (m addr : Nat) (p : Pool) : Pool := { p with rebuilt := Tbl.set p.rebuilt (m * 2 ^ 48 + addr) () }
def isBack (p : Pool) (r addr : Nat) : Bool := isRebuilt p (96 + r) addr

def failEnt (p : Pool) (m : Nat) : Option FailEnt := p.failed.find? fun e => e.module = m
/-- The entry that a module replaces (R306). -/
def replaces (p : Pool) (m : Nat) : Option FailEnt := p.failed.find? fun e => e.replacement = some m

/-- Where a strip of a new stripe, or a rebuilt strip, goes (R284, R306): module and strip address, or none. -/
def stripTarget (p : Pool) (l : Layout) (s i : Nat) : Option (Nat × Nat) :=
  let h := homeOf l s i
  let a := stripAddr l h.2
  match failEnt p h.1 with
  | some e => if e.state = 4 then some (h.1, a) else (spareOf p l (s / l.per) h.1).map fun m => (m, a)
  | none => some (h.1, a)

/-- Where a strip can be read (R284, R306): the member itself, its replacement, or its spare where the bitmaps mark it. -/
def stripValid (p : Pool) (l : Layout) (s i : Nat) : Option (Nat × Nat) :=
  let h := homeOf l s i
  let a := stripAddr l h.2
  let spare := fun m => (spareOf p l (s / l.per) m).map fun x => (x, a)
  match replaces p h.1 with
  | some e => if isBack p h.1 a then some (h.1, a) else if isRebuilt p e.module a then spare e.module else none
  | none => match failEnt p h.1 with
    | some e => if isRebuilt p h.1 a then spare h.1 else if e.state = 3 then some (h.1, a) else none
    | none => some (h.1, a)

/-- The layout of a pool by its identifier. -/
def layoutOf (p : Pool) (id : Nat) : Option Layout :=
  if p.cur.id = id then some p.cur
  else match p.target with
    | some t => if t.id = id then some t else none
    | none => none

/-- The layout that takes new segments (R293, R309). -/
def writeLayout (p : Pool) : Layout := p.target.getD p.cur

/-- The segment and place whose strip stands at a strip address of a module. -/
def segOfStrip (p : Pool) (m addr : Nat) : Option (Nat × Nat) :=
  p.segs.findSome? fun e => match layoutOf p (segLayout e.1) with
    | none => none
    | some l => ((List.range l.w).find? fun i => stripValid p l (segNum e.1) i = some (m, addr)).map fun i => (e.1, i)

/-- Strip i of a stripe of k data strips: its data, or parity over the data strips (R279). -/
def codedStrip (k : Nat) (data : List Byte) (i : Nat) : List Byte :=
  if i < k then fit 65536 ((data.drop (i * 65536)).take 65536)
  else (List.range 65536).map fun b => BitVec.ofNat 8 (parityByte (i - k) ((List.range k).map fun j => (data.getD (j * 65536 + b) 0).toNat))

def stripBytes (l : Layout) (data : List Byte) (i : Nat) : List Byte := codedStrip l.k data i

/-- Redundancy left of a segment (R299); none below 0: lost. -/
def redundancy (l : Layout) (g : Seg) : Option Nat :=
  let x := countBits g.missing.toNat l.w
  if l.m < x then none else some (l.m - x)

/-- A segment in use is exposed (R299). -/
def exposed (p : Pool) (key : Nat) (g : Seg) : Bool :=
  match layoutOf p (segLayout key) with
  | some l => !g.lost && g.missing.toNat % 2 ^ l.w ≠ 0
  | none => false

def anyExposed (p : Pool) : Bool := p.segs.any fun e => exposed p e.1 e.2

/-- Free segments of the layout that takes new ones. -/
def freeSegs (p : Pool) : Nat :=
  let l := writeLayout p
  l.segs - (p.segs.filter fun e => segLayout e.1 = l.id).length

/-- Bytes of segments in use (POOL_QUERY USED). -/
def poolUsed (p : Pool) : Nat := (p.segs.map fun e => match layoutOf p (segLayout e.1) with
  | some l => l.k * 65536
  | none => 0).sum

/-! ## Allocation (R293) -/

/-- Strips of a segment that have a module. -/
def placedStrips (p : Pool) (l : Layout) (s : Nat) : Nat := ((List.range l.w).filter fun i => (stripTarget p l s i).isSome).length

/-- A free number whose placement qualifies. -/
def segOk (p : Pool) (l : Layout) (s : Nat) : Bool :=
  !Tbl.has p.segs (segKey l.id s) && decide ((if l.m = 1 then l.w else l.k + 1) ≤ placedStrips p l s)

/-- The lowest qualifying number, over the numbers still to look at. -/
def lowestSeg (p : Pool) (l : Layout) : Nat → Option Nat
  | 0 => none
  | n + 1 => let s := l.segs - (n + 1); if segOk p l s then some s else lowestSeg p l n

def inOpen (p : Pool) (l : Layout) (s : Nat) : Bool := p.open_.any fun r => r.1 = l.id && decide (r.2.1 ≤ s) && decide (s < r.2.1 + r.2.2)

/-- Ranges with a segment in use whose stripe-in-flight entry is not retired stay; the others leave at a superblock write. -/
def keepOpen (p : Pool) : List (Nat × Nat × Nat) :=
  p.open_.filter fun r => p.segs.any fun e => segLayout e.1 = r.1 && decide (r.2.1 ≤ segNum e.1) && decide (segNum e.1 < r.2.1 + r.2.2) && !e.2.settled

/-- A superblock write to every member (R285). -/
def writeSuper (p : Pool) : Pool := { p with sbGen := p.sbGen + 1, open_ := keepOpen p }

/-- The open-segment list takes a range that begins with a segment number, by a superblock write; none while it is full (R293). -/
def extendOpen (p : Pool) (l : Layout) (num : Nat) : Option Pool :=
  let p1 := writeSuper p
  let r := (l.id, num, min 65536 (l.segs - num))
  if 64 ≤ p1.open_.length then none else some { p1 with open_ := p1.open_ ++ [r], opening := some r }

/-- The number lies in the range whose superblock is still being written. -/
def isOpening (p : Pool) (l : Layout) (num : Nat) : Bool :=
  p.opening.any fun r => r.1 = l.id && decide (r.2.1 ≤ num) && decide (num < r.2.1 + r.2.2)

/-! ## Capacity of a module (R344) -/

/-- Good pool-area blocks of a module. -/
def goodBlocks (m : Module) : Nat :=
  match m.descr with
  | some d => d.dies * d.blocksPerDie - (m.media.blocks.filter fun e => e.2.state = .retired).length
  | none => 0

/-- The capacity C that a module offers at pool creation. -/
def moduleOffer (m : Module) : Nat :=
  match m.descr with
  | some d => let b := goodBlocks m; 9 * (b - ceilDiv (2 * b) 100) / 10 * d.pagesPerBlock * 65536
  | none => 0

end Sys2Proof.Machine
end

