-- ==== Sys2Proof/Machine/GovOps.lean ====
section
/-! DEFINITION. Machine/GovOps.lean: the budget governor's judgement of background work (R35, R36, R480 to R485). -/
namespace Sys2Proof.Machine
open Sys2Proof

def State.act (s : State) (a : Nat) : GovAct := s.gov.acts.getD a { share := 0, ceiling := 0, newShare := 0, newCeiling := 0 }
def State.modAct (s : State) (a : Nat) (f : GovAct → GovAct) : State := { s with gov := { s.gov with acts := s.gov.acts.modify a f } }

/-- A segment of some pool has no redundancy left: its rebuild has priority (R301, R485). -/
def noneLeft (s : State) : Bool := s.pools.any fun e => e.2.segs.any fun g =>
  match layoutOf e.2 (segLayout g.1) with
  | some l => !g.2.lost && decide (redundancy l g.2 = some 0)
  | none => false

/-- The resources that an activity draws (R480). -/
def drawn (a : Nat) : List Nat :=
  [[0, 1, 2, 3, 5, 6], [0, 1, 2, 3, 5], [1, 2], [0, 1, 2, 3, 5, 6], [1, 2, 5, 7, 8], [0, 6], [1, 2, 4, 6], [7, 9]].getD a []

/-- The effective ceiling in permille: zero while a throttle threshold is crossed, but for rebuild; 500 for a rebuild with priority (R485). -/
def effCeiling (s : State) (a : Nat) : Nat :=
  if a = 1 && noneLeft s then 500 else if s.phys.throttle != 0 && a ≠ 1 then 0 else (s.act a).ceiling

/-- Tokens that an activity may issue on a resource in a period (R483). -/
def ceilTokens (s : State) (a r : Nat) : Nat := effCeiling s a * s.gov.caps.getD r 0 / 1000

/-- Tokens left below the ceiling on a resource. -/
def govRoom (s : State) (a r : Nat) : Nat := ceilTokens s a r - (s.act a).issued.getD r 0

/-- A block fits below an activity's ceiling on each resource that it uses (R483). -/
def govFits (a : Nat) (cost : List (Nat × Nat)) (s : State) : Bool := cost.all fun c => decide (c.2 ≤ govRoom s a c.1)

/-- The activity holds tokens on every resource that the block uses (R483). -/
def govTokens (a : Nat) (cost : List (Nat × Nat)) (s : State) : Bool := cost.all fun c => decide (0 < (s.act a).bal.getD c.1 0)

/-- An activity whose request waits for a resource and that is below its ceiling there. -/
def govWaits (s : State) (b r : Nat) : Bool := (s.act b).waiting && (s.act b).wants.any (·.1 = r) && decide (0 < govRoom s b r)

/-- Activity a has the lower ratio of this period's issue on a resource to its share; ties go to the lower index (R483, R484). -/
def govLower (s : State) (r a b : Nat) : Bool :=
  let x := (s.act a).issued.getD r 0 * (s.act b).share
  let y := (s.act b).issued.getD r 0 * (s.act a).share
  decide (x < y) || (decide (x = y) && decide (a < b))

/-- Idle capacity goes to the waiting activity with the lowest ratio on every resource of the block (R36, R484). -/
def govFair (a : Nat) (cost : List (Nat × Nat)) (s : State) : Bool :=
  cost.all fun c => (List.range 8).all fun b => b = a || !govWaits s b c.1 || govLower s c.1 a b

/-- A block that draws on the resources of `cost` may be issued (R35, R483 to R485): it fits below the ceiling on each of them; and the activity holds tokens, or the block's unit queues are `idle` and the capacity falls to it. While rebuild has priority every block without it issues, with tokens or not, only into what foreground work and rebuild leave idle. -/
def govMay (a : Nat) (idle : Bool) (cost : List (Nat × Nat)) (s : State) : Bool :=
  govFits a cost s &&
    ((govTokens a cost s && (!noneLeft s || (idle && cost.all fun c => a = 1 || !govWaits s 1 c.1)))
      || (!govTokens a cost s && idle && govFair a cost s))

/-- Charge one resource: the block is this period's issue, and a tokened one is taken from the balance. -/
def govCharge (a : Nat) (tokened : Bool) (s : State) (c : Nat × Nat) : State :=
  s.modAct a fun x => { x with
    issued := x.issued.modify c.1 (· + c.2)
    bal := if tokened then x.bal.modify c.1 (· - (c.2 : Int)) else x.bal
    used := x.used + BitVec.ofNat 64 c.2 }

/-- The block is issued (R483, R484). -/
def govIssueAs (tokened : Bool) (a : Nat) (cost : List (Nat × Nat)) (s : State) : State :=
  let s1 := cost.foldl (govCharge a tokened) s
  s1.modAct a fun x => { x with waiting := false, wants := [], atCeiling := x.atCeiling || (drawn a).any fun r => govRoom s1 a r = 0 }

def govIssue (a : Nat) (cost : List (Nat × Nat)) (s : State) : State := govIssueAs (govTokens a cost s) a cost s

/-- The activity's request waits (R35). -/
def govWait (a : Nat) (cost : List (Nat × Nat)) (s : State) : State :=
  s.modAct a fun x => { x with waiting := true, wants := cost, atCeiling := x.atCeiling || cost.any fun c => decide (govRoom s a c.1 < c.2) }

/-- One block of an activity's work: issued and done, or its request waits and takes no capacity until a later attempt may issue it (R35). `idle`: no foreground request, and no background request backed by tokens, stands in the queues of the units that the block uses at this moment (R484; log entry 42). -/
def govRun (a : Nat) (idle : Bool) (cost : List (Nat × Nat)) (f : State → State) (s : State) : State :=
  if govMay a idle cost s then f (govIssue a cost s) else govWait a cost s

/-- A block of rebuild may be issued now; one of a segment without redundancy (`urgent`) needs no tokens and stands ahead of foreground work, up to the ceiling of R485 (R301). -/
def rebuildMay (urgent idle : Bool) (cost : List (Nat × Nat)) (s : State) : Bool := if urgent then govFits 1 cost s else govMay 1 idle cost s

/-- One block of rebuild. -/
def rebuildRun (urgent idle : Bool) (cost : List (Nat × Nat)) (f : State → State) (s : State) : State :=
  if urgent then (if govFits 1 cost s then f (govIssueAs false 1 cost s) else govWait 1 cost s) else govRun 1 idle cost f s

/-- Tokens of moving strips: link bytes with parity for each strip read or written, decoder bytes for each read, 64 KiB of parity input for each strip coded, HBM written and read (R35, R302, R481). -/
def stripCost (reads writes coded : Nat) : List (Nat × Nat) :=
  (if writes = 0 then [] else [(0, 1152 * writes)]) ++ (if reads = 0 then [] else [(1, 1152 * reads), (2, 1152 * reads)])
    ++ (if coded = 0 then [] else [(3, 1024 * coded)]) ++ [(5, 2048 * (reads + writes))]

/-- Tokens of moving one compression group of `n` granules of 512 bytes into a gathering segment: read with its LDPC parity, decoded, coded into a stripe of k + m strips, written and staged in HBM, its map records in DDR5 (R35, R302, R310, R481). -/
def moveCost (k m n : Nat) : List (Nat × Nat) :=
  [(0, (9 * n * (k + m) + k - 1) / max 1 k), (1, 9 * n), (2, 9 * n), (3, 8 * n), (5, 32 * n), (6, 1)]

end Sys2Proof.Machine
end

