-- ==== Sys2Proof/Machine/MediaOps.lean ====
section
/-! DEFINITION. Machine/MediaOps.lean: blocks, bands, page allocation, the strip map and retirement on one module (R341 to R367). -/
namespace Sys2Proof.Machine
open Sys2Proof

def State.modMedia (s : State) (n : Nat) (f : Media → Media) : State := s.modMod n fun m => { m with media := f m.media }

/-! ## Addresses (R342) -/

def pageAddr (die block page : Nat) : Nat := die * 2 ^ 30 + block * 2 ^ 16 + page * 16
/-- A block's key: die * 2^14 + block. -/
def blkOf (page : Nat) : Nat := page / 2 ^ 16
def dieOf (page : Nat) : Nat := page / 2 ^ 30
def pageIdx (page : Nat) : Nat := page / 16 % 4096
def dieOfBlk (key : Nat) : Nat := key / 2 ^ 14

/-! ## Blocks (R350) -/

def dies (m : Module) : Nat := match m.descr with | some d => d.dies | none => 0
def blocksPerDie (m : Module) : Nat := match m.descr with | some d => d.blocksPerDie | none => 0
def pagesPerBlock (m : Module) : Nat := match m.descr with | some d => d.pagesPerBlock | none => 0
def peRated (m : Module) : Nat := match m.descr with | some d => d.peRated | none => 1

def block (m : Module) (key : Nat) : Block := Tbl.getD m.media.blocks key {}
def State.modBlock (s : State) (n key : Nat) (f : Block → Block) : State :=
  s.modMedia n fun d => { d with blocks := Tbl.set d.blocks key (f (Tbl.getD d.blocks key {})) }

/-- Free blocks of a die. -/
def dieFree (m : Module) (die : Nat) : Nat :=
  if m.media.deadDies.contains die then 0
  else blocksPerDie m - (m.media.blocks.filter fun e => dieOfBlk e.1 = die && e.2.state ≠ .free).length

def freeBlocks (m : Module) : Nat := ((List.range (dies m)).map (dieFree m)).sum

/-- Write stall of R362: fewer than 1 % of the pool-area blocks are free. -/
def mediaStalled (m : Module) : Bool := decide (freeBlocks m * 100 < dies m * blocksPerDie m)

/-- Strips whose mapping points into a block. -/
def validStrips (m : Module) (key : Nat) : List (Nat × Nat) := m.media.map.filter fun e => blkOf e.2 = key

/-- Retired blocks, with those of retired dies (R359). -/
def retiredBlocks (m : Module) : Nat :=
  m.media.deadDies.length * blocksPerDie m
    + (m.media.blocks.filter fun e => e.2.state = .retired && !m.media.deadDies.contains (dieOfBlk e.1)).length

/-- The retirement reserve: 2 % of the pool-area blocks, rounded up (R340). -/
def retireReserve (m : Module) : Nat := ceilDiv (2 * dies m * blocksPerDie m) 100

/-- MEDIA_SPACE and RETIREMENT_RESERVE follow the modules (R362, R367, R500). -/
def mediaAlarms (s : State) : State :=
  alarmIs 0x46 (s.mods.any fun e => e.2.descr.isSome && decide (3 * retireReserve e.2 ≤ 4 * retiredBlocks e.2) && decide (0 < retiredBlocks e.2))
    (alarmIs 0x44 (s.mods.any fun e => e.2.descr.isSome && mediaStalled e.2) s)

/-- Mean program/erase count of the good blocks in thousandths of PE_RATED, capped (R366 WEAR_PERMILLE). -/
def wearOf (m : Module) : Nat :=
  let good := dies m * blocksPerDie m - retiredBlocks m
  let sum := ((m.media.blocks.filter fun e => e.2.state ≠ .retired && !m.media.deadDies.contains (dieOfBlk e.1)).map (·.2.pe)).sum
  min 65535 (sum * 1000 / (max 1 good * max 1 (peRated m)))

/-- MODULE_WEAR at 900 (R366). -/
def wearCheck (n : Nat) (s : State) : State :=
  let s1 := s.modMod n fun m => { m with wear := wearOf m }
  if 900 ≤ wearOf (s1.mod n) then raiseAlarm 0x45 s1 else s1

/-- Count in a module counter of R368, by its place in the list from 0. -/
def bumpMedia (n i k : Nat) (s : State) : State :=
  s.modMedia n fun d => { d with counters := d.counters.set i (d.counters.getD i 0 + k) }

/-- A closed block joins the relocation queue (R358). -/
def queueReloc (n key : Nat) (s : State) : State :=
  if (block (s.mod n) key).state = .closed && !(s.mod n).media.reloc.contains key then
    s.modMedia n fun d => { d with reloc := d.reloc ++ [key] }
  else s

/-- Wear levelling on a die (R366): the closed block with the lowest count is queued when the counts lie too far apart. -/
def levelWear (n die : Nat) (s : State) : State :=
  let m := s.mod n
  let closed := m.media.blocks.filter fun e => dieOfBlk e.1 = die && e.2.state = .closed
  match closed with
  | [] => s
  | c :: cs =>
    let lo := cs.foldl (fun a e => if e.2.pe < a.2.pe then e else a) c
    let hi := cs.foldl (fun a e => max a e.2.pe) c.2.pe
    if peRated m < 10 * (hi - lo.2.pe) then queueReloc n lo.1 s else s

/-- Blocks leave a band, which goes on with its other dies; parity still covers the pages that they hold (R351, R359). -/
def bandWithout (gone : Nat × Nat → Bool) (b : Band) : Band :=
  let place := b.place - ((b.blocks.take b.place).filter gone).length
  let blocks := b.blocks.filter fun x => !gone x
  let b1 : Band := { b with blocks := blocks, left := b.left ++ b.blocks.filter gone }
  if b.blocks.length ≠ blocks.length && blocks.length ≤ place then { b1 with place := 0, next := b.next + 1 } else { b1 with place := place }

/-- Blocks leave the bands of their module. -/
def outOfBands (gone : Nat × Nat → Bool) (d : Media) : Media :=
  { d with newBand := d.newBand.map (bandWithout gone), relocBand := d.relocBand.map (bandWithout gone), closing := d.closing.map (bandWithout gone) }

/-- A block leaves the bands of its module. -/
def leaveBands (key : Nat) (d : Media) : Media := outOfBands (fun x => x.1 * 2 ^ 14 + x.2 = key) d

/-- A block is retired (R350, R359). -/
def retireBlock (n key : Nat) (s : State) : State :=
  let s1 := (s.modBlock n key fun b => { b with state := .retired }).modMedia n (leaveBands key)
  mediaAlarms (bumpMedia n 10 1 s1)

/-- An erase of a block is sent (R361 step 5). -/
def eraseBlock (n key : Nat) (s : State) : State := mediaSend n (.erase 0 (key * 2 ^ 16)) s

/-- What follows when a block may have lost its last valid strip (R350): CLOSED by trims and SOURCE by its move become DIRTY and are erased, RETIRING is retired. -/
def settleBlock (n key : Nat) (s : State) : State :=
  if validStrips (s.mod n) key ≠ [] then s
  else match (block (s.mod n) key).state with
    | .closed | .source => eraseBlock n key (s.modBlock n key fun b => { b with state := .dirty })
    | .retiring => retireBlock n key s
    | _ => s

/-- A block becomes RETIRING and leaves its band (R350, R359); it is retired at once when nothing valid lies in it. -/
def blockRetiring (n key : Nat) (s : State) : State :=
  if (block (s.mod n) key).state = .retired then s
  else settleBlock n key ((s.modBlock n key fun b => { b with state := .retiring }).modMedia n (leaveBands key))

/-! ## Strip map (R348) -/

/-- Map a strip to a page; the page mapped before becomes garbage. -/
def mapStrip (n strip page : Nat) (s : State) : State :=
  let old := Tbl.find (s.mod n).media.map strip
  let s1 := s.modMedia n fun d => { d with map := Tbl.set d.map strip page }
  match old with
  | some p => if blkOf p = blkOf page then s1 else settleBlock n (blkOf p) s1
  | none => s1

/-- Trim a strip (R295). -/
def trimStrip (n strip : Nat) (s : State) : State :=
  match Tbl.find (s.mod n).media.map strip with
  | some p => settleBlock n (blkOf p) (s.modMedia n fun d => { d with map := Tbl.del d.map strip })
  | none => s

/-! ## Bands (R347, R351) -/

/-- The free block of a die with the lowest program/erase count. -/
def pickBlock (m : Module) (die : Nat) : Option Nat :=
  let lo := die * 2 ^ 14
  let fresh := Tbl.freshFrom m.media.blocks (blocksPerDie m) lo
  if fresh < lo + blocksPerDie m then some (fresh - lo)
  else match m.media.blocks.filter fun e => dieOfBlk e.1 = die && e.2.state = .free with
    | [] => none
    | c :: cs => some ((cs.foldl (fun a e => if e.2.pe < a.2.pe then e else a) c).1 - lo)

/-- The dies of a new band: every die with at least 8 free blocks, or 8 of them in rotation for the RELOC band. -/
def bandDies (m : Module) (inReloc : Bool) : List Nat :=
  let ok := (List.range (dies m)).filter fun x => decide (8 ≤ dieFree m x)
  if inReloc then
    let start := match m.media.relocBand with
      | some b => (match b.blocks.getLast? with | some x => x.1 + 1 | none => 0)
      | none => 0
    ((ok.filter fun x => decide (start ≤ x)) ++ (ok.filter fun x => decide (x < start))).take 8
  else ok

def bandOf (d : Media) (inReloc : Bool) : Option Band := if inReloc then d.relocBand else d.newBand

/-- Open a band; the one before it is closed, and keeps its parity until its pages are verified (R347, R351). -/
def openBand (m : Module) (inReloc : Bool) (now : W64) : Option Module :=
  let blocks := (bandDies m inReloc).filterMap fun x => (pickBlock m x).map fun b => (x, b)
  if blocks = [] then none
  else
    let d := m.media
    let band : Band := { seq := d.nextBand, blocks := blocks, lastWrite := now }
    let bs := blocks.foldl (fun t x => Tbl.set t (x.1 * 2 ^ 14 + x.2) { Tbl.getD t (x.1 * 2 ^ 14 + x.2) {} with state := .opened, band := d.nextBand, reads := 0, lasting := 0, written := 0 }) d.blocks
    let d1 : Media := { d with blocks := bs, nextBand := d.nextBand + 1, closing := d.closing ++ (bandOf d inReloc).toList }
    some { m with media := if inReloc then { d1 with relocBand := some band } else { d1 with newBand := some band } }

def setBand (b : Band) (inReloc : Bool) (d : Media) : Media := if inReloc then { d with relocBand := some b } else { d with newBand := some b }

/-- Take the next page of an open band; none while the die-parity window is full (R351). -/
def bandPage (m : Module) (inReloc : Bool) (b : Band) (now : W64) : Option (Nat × Module) :=
  if b.released + 96 ≤ b.next then none
  else match b.blocks[b.place]? with
    | none => none
    | some (die, blk) =>
      let last := b.place + 1 = b.blocks.length
      let b1 : Band := { b with place := if last then 0 else b.place + 1, next := if last then b.next + 1 else b.next, lastWrite := now }
      some (pageAddr die blk b.next, { m with media := setBand b1 inReloc m.media })

/-- Take the next page of a module's NEW or RELOC band, opening a band where there is none or the last is full. -/
def allocPage (m : Module) (inReloc : Bool) (now : W64) : Option (Nat × Module) :=
  let open_ := match bandOf m.media inReloc with
    | some b => decide (b.next < pagesPerBlock m) && b.blocks ≠ []
    | none => false
  let m1 := if open_ then some m else openBand m inReloc now
  match m1 with
  | none => none
  | some m1 => match bandOf m1.media inReloc with
    | some b => bandPage m1 inReloc b now
    | none => none

/-! ## Codewords (R345, R346) -/

/-- Bytes 0x00 to 0x3B of the metadata, and all 64 of them. -/
def metaHead (m : CwMeta) : List Byte :=
  le8 m.version ++ le8 m.kind ++ le8 m.index ++ le8 m.pool ++ zeros 4 ++ le64 m.stripAddr ++ le64 m.stripe ++ le64 m.bandSeq
    ++ le32 m.hours.toNat ++ [m.temp] ++ zeros 3 ++ le32 m.dataCrc.toNat ++ zeros 16
def metaBytes (m : CwMeta) : List Byte := metaHead m ++ le32 m.metaCrc.toNat

/-- Metadata with its CRCs over the data and over its own first 60 bytes. -/
def sealMeta (data : List Byte) (m : CwMeta) : CwMeta :=
  let m1 := { m with dataCrc := Config.crc32c data }
  { m1 with metaCrc := Config.crc32c (metaHead m1) }

/-- Metadata of a codeword that is no part of a strip (log entry 192). -/
def plainMeta (pool index : Nat) (data : List Byte) : CwMeta := sealMeta data { index := index, pool := pool, dataCrc := 0, metaCrc := 0 }

/-- A codeword: 4,096 data bytes, 64 metadata bytes, 448 parity bytes (R345). -/
def encodeCw (data : List Byte) (m : CwMeta) : List Byte := data ++ metaBytes m ++ Config.ldpcParity (data ++ metaBytes m)

/-- A decode that converged holds: its DATA_CRC and META_CRC are right (R346). -/
def cwHolds (data : List Byte) (m : CwMeta) : Bool := m.dataCrc = Config.crc32c data && m.metaCrc = Config.crc32c (metaHead m)

/-- The segment and the place in it that a page is programmed for: pool, segment, place. -/
def pageSource (s : State) (n : Nat) (v : VPage) : Option (Nat × Nat × Nat) :=
  match v.use with
  | .stripe q i => (Tbl.find s.carafe.sif q).map fun x => (x.pool, x.stripe, i)
  | .rebuild seg i => some (v.pool, seg, i)
  | .copyBack seg i => some (v.pool, seg, i)
  | .reloc _ => s.pools.findSome? fun e => (segOfStrip e.2 n v.strip).map fun x => (e.1, x)

/-- The bytes of the strip of a segment. -/
def sourceStrip (s : State) (src : Option (Nat × Nat × Nat)) : List Byte :=
  match src with
  | none => zeros 65536
  | some (pool, seg, i) => match Tbl.find s.pools pool with
    | none => zeros 65536
    | some p => match Tbl.find p.segs seg, layoutOf p (segLayout seg) with
      | some g, some l => stripBytes l g.data i
      | _, _ => zeros 65536

/-- The 16 codewords of a page (R345, R346). -/
def pageCws (s : State) (n page kind pool strip stripe : Nat) (data : List Byte) : List (List Byte) :=
  let m := s.mod n
  (List.range 16).map fun i =>
    let d := (data.drop (i * 4096)).take 4096
    encodeCw d (sealMeta d {
      kind := kind, index := i, pool := pool, stripAddr := strip, stripe := stripe, bandSeq := (block m (blkOf page)).band
      hours := s.aon.hours, temp := m.dieTemp, dataCrc := 0, metaCrc := 0 })

/-- KIND of a strip: 1 data, 2 map (R346, R348). -/
def stripKind (s : State) (src : Option (Nat × Nat × Nat)) : Nat :=
  if (src.bind fun x => (Tbl.find s.pools x.1).bind fun p => (Tbl.find p.segs x.2.1).bind (·.through)).isSome then 2 else 1

/-- The codewords of a page that carries a strip. -/
def stripCws (s : State) (n page : Nat) (v : VPage) : List (List Byte) :=
  let src := pageSource s n v
  pageCws s n page (stripKind s src) v.pool v.strip (match src with | some x => x.2.1 | none => 0) (sourceStrip s src)

/-- A band of a module that a page belongs to: the open ones and those still to be verified. -/
def bandsOf (d : Media) : List Band := d.newBand.toList ++ d.relocBand.toList ++ d.closing
def inBand (page : Nat) (b : Band) : Bool := (b.blocks ++ b.left).contains (dieOf page, blkOf page % 2 ^ 14)

/-- A change to every band of a module. -/
def overBands (f : Band → Band) (d : Media) : Media := { d with newBand := d.newBand.map f, relocBand := d.relocBand.map f, closing := d.closing.map f }

/-- The 4,160 data and metadata bytes of each codeword of a page join the parity page of their index (R351). -/
def noteParity (n page : Nat) (cws : List (List Byte)) (s : State) : State :=
  let add := fun (b : Band) =>
    if inBand page b then { b with parity := Tbl.set b.parity (pageIdx page) (Config.xorBytes (Tbl.getD b.parity (pageIdx page) (zeros 66560)) (cws.flatMap (·.take 4160))) }
    else b
  s.modMedia n (overBands add)

/-- Program one page: one frame of 16 codewords at version 2, two of 8 at version 1 (R349). -/
def sendPage (n page : Nat) (cws : List (List Byte)) (s0 : State) : State :=
  let s := noteParity n page cws s0
  if 2 ≤ (s.kport n).version then mediaSend n (.program 0 page false cws) s
  else mediaSend n (.program 0 (page + 8) false (cws.drop 8)) (mediaSend n (.program 0 page false (cws.take 8)) s)

/-! ## Reading (R331, R345, R356) -/

/-- Codewords of a strip that a byte range touches, as a READ mask (R345). -/
def cwMask (off len : Nat) : Nat :=
  (List.range 16).foldl (fun m i => if off / 4096 ≤ i ∧ i ≤ (off + max 1 len - 1) / 4096 then m + 2 ^ i else m) 0

/-- Threshold set of a page by its block record and the die's temperature (R356). -/
def ageBand (h : Nat) : Nat :=
  if h < 1 then 0 else if h < 24 then 1 else if h < 168 then 2 else if h < 720 then 3 else if h < 2160 then 4
  else if h < 8760 then 5 else if h < 26280 then 6 else 7

def threshSet (s : State) (n page : Nat) : Nat :=
  let m := s.mod n
  let b := block m (blkOf page)
  let a := ageBand (s.aon.hours.toNat - b.hours.toNat + (if b.hours.toNat ≤ m.media.unpoweredAt.toNat then m.media.unpowered else 0))
  let x := tempOf m.dieTemp - tempOf b.temp
  let d := if x < -25 then 0 else if x < 0 then 1 else if x < 25 then 2 else 3
  let e := if 2 * b.pe < peRated m then 0 else 1
  let t := tempOf b.temp
  let g := if t < 25 then 0 else if t < 45 then 1 else if t < 65 then 2 else 3
  if 2 ≤ (s.kport n).version then ((g * 8 + a) * 4 + d) * 2 + e else (a * 4 + d) * 2 + e

/-- The threshold set that a die holds: DEFAULT_SETS of the module's descriptor, until another has been loaded (R356). -/
def loadedSet (m : Module) (die set : Nat) : List Int :=
  match Tbl.find m.media.loaded (die * 256 + set) with
  | some l => l
  | none => match m.descr with
    | some d => d.defaultSets.getD set (List.replicate 7 0)
    | none => List.replicate 7 0

/-- A set that a die does not hold yet is loaded from DEFAULT_SETS before it is used (R356). -/
def loadSet (n die set : Nat) (s : State) : State :=
  if (Tbl.find (s.mod n).media.loaded (die * 256 + set)).isSome then s
  else
    let offs := loadedSet (s.mod n) die set
    mediaSend n (.threshLoad die set offs) (s.modMedia n fun d => { d with loaded := Tbl.set d.loaded (die * 256 + set) offs })

/-- READs of some codewords of a page, cut to what one frame may carry (R331), with a threshold set that its die holds; `bg`: for background work (R354). -/
def readPage (bg : Bool) (n page mask sense : Nat) (s0 : State) : State :=
  let s := loadSet n (dieOf page) (threshSet s0 n page) s0
  let per := if 2 ≤ (s.kport n).version then (if sense = 0 then 16 else if sense = 1 then 8 else 5) else (if sense = 0 then 8 else if sense = 1 then 4 else 2)
  let cws := bitsOf mask 16
  (List.range 16).foldl (fun s i =>
    let part := (cws.drop (i * per)).take per
    if part = [] then s else mediaSend n (.read page sense (threshSet s n page) (part.foldl (fun m c => m + 2 ^ c) 0) bg) s) s

/-! ## Programming strips (R349, R351) -/

/-- Send a strip to a page of its module, or let it wait for one (R351, R362). -/
def programStrip (n : Nat) (v : VPage) (s : State) : State :=
  let wait := s.modMedia n fun d => { d with wait := d.wait ++ [v] }
  let k := s.kport n
  if k.state ≠ .up && k.state ≠ .retrain && !k.peerUp then wait
  else if mediaStalled (s.mod n) && !v.inReloc then mediaAlarms wait
  else match allocPage (s.mod n) v.inReloc s.time with
    | none => wait
    | some (page, m) =>
      let x : VPage := { v with answered := false, failed := false, done := false, at_ := s.time.toNat }
      let m1 : Module := { m with media := { m.media with verify := Tbl.set m.media.verify page x } }
      sendPage n page (stripCws (s.modMod n fun _ => m1) n page x) (s.modMod n fun _ => m1)

/-- Send the strips that have waited. -/
def programAll (n : Nat) : List VPage → State → State
  | [], s => s
  | v :: vs, s => programAll n vs (programStrip n v s)

def drainWait (n : Nat) (s : State) : State :=
  programAll n (s.mod n).media.wait (s.modMedia n fun d => { d with wait := [] })

/-- Every page of an index of a band is verified, and every page of the next wordline has been answered. -/
def indexSettled (d : Media) (b : Band) (p : Nat) : Bool :=
  d.verify.all fun e => !inBand e.1 b ||
    (pageIdx e.1 ≠ p || e.2.done) && (decide (p / 3 * 3 + 5 < pageIdx e.1) || e.2.answered)

/-- Release parity indices in order (R351). -/
def releaseIdx (d : Media) (b : Band) : Nat → Band
  | 0 => b
  | f + 1 =>
    if b.released < b.next && indexSettled d b b.released && decide (b.released / 3 * 3 + 6 ≤ b.next) then
      releaseIdx d { b with released := b.released + 1, parity := Tbl.del b.parity b.released, lost := b.lost.filter (· ≠ b.released) } f
    else b

/-- A closed band still has a page to be verified. -/
def bandUnverified (d : Media) (b : Band) : Bool := d.verify.any fun e => inBand e.1 b && !e.2.done

def releaseParity (n : Nat) (s : State) : State :=
  drainWait n (s.modMedia n fun d =>
    { d with newBand := d.newBand.map fun b => releaseIdx d b 96, relocBand := d.relocBand.map fun b => releaseIdx d b 96, closing := d.closing.filter (bandUnverified d) })

/-- A block whose last page has been programmed is CLOSED. -/
def closeIfFull (n page : Nat) (s : State) : State :=
  if pageIdx page + 1 = pagesPerBlock (s.mod n) && (block (s.mod n) (blkOf page)).state = .opened then
    levelWear n (dieOf page) (s.modBlock n (blkOf page) fun b => { b with state := .closed })
  else s

/-- A page has been programmed: its block keeps the hours and temperature (R346, R356). -/
def pageProgrammed (n page : Nat) (temp : Byte) (s : State) : State :=
  let s1 := s.modBlock n (blkOf page) fun b => { b with hours := s.aon.hours, temp := temp, written := max b.written (pageIdx page + 1) }
  closeIfFull n page (s1.modMedia n fun d => { d with verify := Tbl.upd d.verify page fun v => { v with answered := true, at_ := s.time.toNat } })

/-- Valid strips of a die, for its retirement (R359). -/
def dieStrips (m : Module) (die : Nat) : List Nat := (m.media.map.filter fun e => dieOf e.2 = die).map (·.1)

/-- Retire a die with all its blocks: it leaves every band, its mappings go (R359 DIE_FAULT). -/
def retireDie (n die : Nat) (s : State) : State :=
  if (s.mod n).media.deadDies.contains die then s
  else
    let before := retiredBlocks (s.mod n)
    let s1 := s.modMedia n fun d => outOfBands (fun x => x.1 = die) { d with
      deadDies := d.deadDies ++ [die]
      map := d.map.filter fun e => dieOf e.2 ≠ die
      verify := d.verify.filter fun e => dieOf e.1 ≠ die }
    mediaAlarms (bumpMedia n 9 1 (bumpMedia n 10 (retiredBlocks (s1.mod n) - before) s1))

/-- Flash management finds the module at its end: reserve used up, or more than 1/8 of its dies retired (R367). -/
def moduleSpent (m : Module) : Bool :=
  m.descr.isSome && (decide (dies m < 8 * m.media.deadDies.length) || (decide (retireReserve m ≤ retiredBlocks m) && decide (0 < retiredBlocks m)))

end Sys2Proof.Machine
end

