-- ==== Sys2Proof/Machine/PowerOps.lean ====
section
/-! DEFINITION. Machine/PowerOps.lean: switching power domains on (R41 to R43, R531). -/
namespace Sys2Proof.Machine
open Sys2Proof

/-- The 26 domains that a vault flush switches off (R48): control-core clusters 1 to 3, the map-cache banks, both DDR groups, the Grinder groups, the host, peer and network ports. -/
def vaultOffDomains : List Nat := [6, 7, 8, 9, 10, 11, 12, 17, 18, 19, 20, 21, 22, 23, 28, 29, 30, 31, 32, 33, 34, 35, 36, 37, 38, 39]

/-- A domain that the vault flush needs (R42): of the media quads those in use (R48). -/
def flushNeeds (d : Nat) (s : State) : Bool := !vaultOffDomains.contains d && !(decide (40 ≤ d) && hasBit s.power.unused d)

/-- Switch-on is refused while PWRFAIL_N is asserted and from the start of a flush until the chip next leaves reset (R42). -/
def switchRefused (d : Nat) (s : State) : Bool :=
  (s.cond.pwrfail.level || decide (s.phase ≠ .run)) && !flushNeeds d s

/-- Domains ramping now. -/
def rampCount (s : State) : Nat := countBits s.power.ramping.toNat 64

/-- Begin a ramp, or wait behind the requests that wait already for one of the four ramps to end (R42). -/
def rampOrWait (d : Nat) (s : State) : State :=
  if rampCount s < 4 && s.power.waiting.isEmpty then { s with power := { s.power with ramping := setBit s.power.ramping d } }
  else { s with power := { s.power with waiting := s.power.waiting ++ [d] } }

/-- Ask for a domain to be switched on (R42); one that is on, ramping, waiting, fenced or refused stays as it is. -/
def switchOn (d : Nat) (s : State) : State :=
  if hasBit s.power.on d || hasBit s.power.ramping d || s.power.waiting.contains d || hasBit s.power.fenced d || switchRefused d s then s
  else rampOrWait d s

def switchOnAll : List Nat → State → State
  | [], s => s
  | d :: ds, s => switchOnAll ds (switchOn d s)

/-- Start waiting ramps while fewer than four run. -/
def startWaiting : List Nat → State → State
  | [], s => s
  | d :: ds, s =>
    if rampCount s < 4 then startWaiting ds { s with power := { s.power with ramping := setBit s.power.ramping d, waiting := ds } }
    else s

end Sys2Proof.Machine
end

