-- ==== Sys2Proof/Machine/NetOps.lean ====
section
/-! DEFINITION. Machine/NetOps.lean: logical ports, trigger counters, work requests and their completion (R369 to R373, R393 to R398). -/
namespace Sys2Proof.Machine
open Sys2Proof

/-! ## Ports -/

def State.modNet (s : State) (f : Net → Net) : State := { s with net := f s.net }
def State.lport (s : State) (l : Nat) : LPort := Tbl.getD s.net.lports l {}
def State.modLport (s : State) (l : Nat) (f : LPort → LPort) : State := s.modNet fun n => { n with lports := Tbl.set n.lports l (f (s.lport l)) }
def State.netPort (s : State) (p : Nat) : NetPort := Tbl.getD s.net.ports p {}
def State.modNetPort (s : State) (p : Nat) (f : NetPort → NetPort) : State := s.modNet fun n => { n with ports := Tbl.set n.ports p (f (s.netPort p)) }
def State.modQp (s : State) (n : Nat) (f : Qp → Qp) : State := s.modNet fun t => { t with qps := Tbl.upd t.qps n f }
def State.modEp (s : State) (n : Nat) (f : Endpoint → Endpoint) : State := s.modNet fun t => { t with eps := Tbl.upd t.eps n f }
def State.dpeer (s : State) (node : Nat) : DPeer := Tbl.getD s.net.peers node {}
def State.modPeer (s : State) (node : Nat) (f : DPeer → DPeer) : State := s.modNet fun t => { t with peers := Tbl.set t.peers node (f (s.dpeer node)) }

/-- The logical ports that a breakout gives (R369). -/
def lportExists (s : State) (l : Nat) : Bool :=
  decide (l < 32) && match (s.netPort (l / 4)).breakout with
    | 0 => l % 4 = 0
    | 1 => l % 2 = 0
    | _ => true

def lportUp (s : State) (l : Nat) : Bool := lportExists s l && (s.lport l).up
/-- Up logical ports, ascending. -/
def upLports (s : State) : List Nat := (List.range 32).filter (lportUp s)

/-- Rate of a logical port in Gb/s (R369). -/
def lportRate (s : State) (l : Nat) : Nat :=
  match (s.netPort (l / 4)).breakout with
  | 0 => 400
  | 1 => 200
  | _ => 100

/-- MAC address of a logical port (R372). -/
def macOf (s : State) (l : Nat) : BitVec 48 := s.net.macBase + BitVec.ofNat 48 l

/-- The EUI-64 interface identifier of a MAC address, which RFC 4862 addresses end with (PRESUMED, log entry 10). -/
def eui64 (m : BitVec 48) : BitVec 64 :=
  let n := m.toNat
  BitVec.ofNat 64 ((n / 2 ^ 24 * 2 ^ 40 + 0xFFFE * 2 ^ 24 + n % 2 ^ 24)) ^^^ BitVec.ofNat 64 (2 ^ 57)

/-- The link-local address of a logical port (R372). -/
def linkLocal (s : State) (l : Nat) : BitVec 128 := BitVec.ofNat 128 (0xFE80 * 2 ^ 112 + (eui64 (macOf s l)).toNat)

/-- An IPv6 address that a logical port holds now. -/
def holdsV6 (s : State) (l : Nat) (a : BitVec 128) : Bool :=
  (s.lport l).ipv6.any fun e => e.1 = a && (match e.2 with | some t => decide (s.time.toNat < t) | none => true)

/-- Path MTU under an IP MTU (R373). -/
def pathMtu (mtu : Nat) : Nat := if 4200 ≤ mtu then 4096 else if 2152 ≤ mtu then 2048 else 1024

/-- Count in a counter of a logical port, by its place in R401's list from 0. -/
def bumpL (l i n : Nat) (s : State) : State := s.modLport l fun p => { p with counters := p.counters.set i (p.counters.getD i 0 + n) }
/-- Count in a counter of GROUP 0x3100, by its place from 0. -/
def bumpDg (i n : Nat) (s : State) : State := s.modNet fun t => { t with dgCounters := t.dgCounters.set i (t.dgCounters.getD i 0 + n) }

/-- A frame arrives: it and its bytes are counted; the spec gives no frame length for the model's commands, so that is a free value (R401). -/
def frameIn (l : Nat) (s : State) : State :=
  let d := draw s
  bumpL l 3 d.1 (bumpL l 1 1 d.2)

/-- Priorities of R372: data, and control packets; the DSCP that marks them. -/
def prioData : Nat := 3
def prioCtl : Nat := 6
def dscpOf (prio : Nat) : Option Nat := if prio = prioData then some 26 else if prio = prioCtl then some 48 else none

/-- A frame leaves and is counted. -/
def frameOut (l prio : Nat) (o : Out) (s : State) : State :=
  let d := draw s
  emit (.frame l prio (dscpOf prio) o) (bumpL l 2 d.1 (bumpL l 0 1 d.2))

/-- A pause of the port or of the priority still runs (R371). -/
def pausedNow (s : State) (l prio : Nat) : Bool :=
  decide (s.time.toNat < Tbl.getD (s.lport l).paused prio 0) || decide (s.time.toNat < Tbl.getD (s.lport l).paused 8 0)

/-- Send the held frames whose pause has ended, in order. -/
def releaseFrames (l : Nat) : List (Nat × Out) → State → State
  | [], s => s
  | (p, o) :: t, s =>
    if pausedNow s l p then releaseFrames l t (s.modLport l fun x => { x with held := x.held ++ [(p, o)] })
    else releaseFrames l t (frameOut l p o s)

def releaseHeld (l : Nat) (s : State) : State := releaseFrames l (s.lport l).held (s.modLport l fun x => { x with held := [] })

/-- Send a frame of a priority on a logical port; a paused priority holds it back (R371, R372). -/
def netEmit (l prio : Nat) (o : Out) (s : State) : State :=
  let s1 := releaseHeld l s
  if pausedNow s1 l prio then s1.modLport l fun x => { x with held := x.held ++ [(prio, o)] } else frameOut l prio o s1

/-! ## Trigger counters (R397, R398) -/

/-- A queue of work requests takes one more at its tail. -/
def enqueue (q : NetQ) (op : WrOp) (wr : WorkReq) (s : State) : State :=
  match q with
  | .qp n => s.modQp n fun x => { x with queue := x.queue ++ [(op, wr)] }
  | .ep n => s.modNet fun t => { t with eps := Tbl.set t.eps n (let e := Tbl.getD t.eps n {}; { e with queue := e.queue ++ [(op, wr)] }) }

def enqueueAll : List TrigWait → State → State
  | [], s => s
  | w :: ws, s => enqueueAll ws (enqueue w.q w.op w.wr s)

/-- A counter has reached a threshold (R398). -/
def reached (counter threshold : W32) : Bool := decide ((counter - threshold).toNat < 2 ^ 31)

/-- Count a trigger counter; released requests join their queues in order of THRESHOLD, then of posting (R397, R398). Answers the queues that got one. -/
def countTrig (c : Nat) (s : State) : State × List NetQ :=
  let v := Tbl.getD s.net.trig c 0 + 1
  let hit := s.net.trigWaiting.filter fun w => w.wr.trigIn = c + 1 && reached v w.wr.threshold
  let rest := s.net.trigWaiting.filter fun w => !(w.wr.trigIn = c + 1 && reached v w.wr.threshold)
  let ordered := sortBy (fun a b => decide ((v - b.wr.threshold).toNat < (v - a.wr.threshold).toNat)) hit
  (enqueueAll ordered (s.modNet fun t => { t with trig := Tbl.set t.trig c v, trigWaiting := rest }), ordered.map (·.q))

/-- Count the counter that a TRIG or TRIG_OUT field names, counter plus 1; 0 for none. -/
def countField (f : Nat) (s : State) : State × List NetQ := if f = 0 ∨ 4096 < f then (s, []) else countTrig (f - 1) s

/-! ## Completions (R396) -/

/-- KIND of a request's completion record; of a NOP it is not stated. -/
def kindOf (op : WrOp) (free : Nat) : Nat :=
  match op with
  | .send | .sendInv => 0
  | .write => 2
  | .read => 3
  | .nop => free % 4

/-- STATUS of a completion record. -/
def wrStatusNum : WrStatus → Nat
  | .ok => 0 | .retryExceeded => 1 | .rnrExceeded => 2 | .remoteAccess => 3 | .localAccess => 4 | .remoteTooSmall => 5 | .lengthFault => 6
  | .flushed => 7 | .noEndpoint => 8

/-- A completion record of 32 bytes (R396). -/
def wrRecordBytes (wrId : W64) (bytes : Nat) (imm : W32) (st : WrStatus) (kind phase node ep : Nat) (time : W64) : List Byte :=
  le64 wrId.toNat ++ le32 bytes ++ le32 imm.toNat ++ le16 (wrStatusNum st) ++ le8 kind ++ le8 (phase % 2) ++ le16 node ++ le16 ep ++ le64 time.toNat

/-- Write a completion record; its PHASE depends on the length of the completion queue, which the spec leaves open. -/
def record (q : NetQ) (wrId : W64) (bytes : Nat) (imm : W32) (st : WrStatus) (kind node ep : Nat) (s : State) : State :=
  let d := draw s
  emit (.wrRecord q (wrRecordBytes wrId bytes imm st kind d.1 node ep s.time)) d.2

/-- A work request completes: its record, where it asks for one or fails, then its trigger (R395, R396). -/
def wrComplete (q : NetQ) (op : WrOp) (wr : WorkReq) (st : WrStatus) (s : State) : State × List NetQ :=
  let ok := st = .ok
  let d := draw s
  let s1 := if wr.signal || !ok then record q wr.wrId (if ok then wr.length else 0) 0 st (kindOf op d.1) 0 0 d.2 else d.2
  if ok then countField wr.trigOut s1 else (s1, [])

def wrCompleteAll (q : NetQ) (st : WrStatus) : List (WrOp × WorkReq) → State → State × List NetQ
  | [], s => (s, [])
  | (op, wr) :: t, s =>
    let a := wrComplete q op wr st s
    let b := wrCompleteAll q st t a.1
    (b.1, a.2 ++ b.2)

/-- Posted receives end with FLUSHED (R396). -/
def flushRecvs (q : NetQ) : List RecvBuf → State → State
  | [], s => s
  | r :: rs, s => flushRecvs q rs (record q r.wrId 0 0 .flushed 1 0 0 s)

/-! ## Access violations (R399) -/

/-- The record of a violation: slice and key, and the node ID (low half) with the queue pair or endpoint (high half). -/
def accessRecord (l : Nat) (addr : W64) (slice : Nat) (key : W32) (node who : Nat) (host : Bool) (s : State) : State :=
  (errorRecord 4 false { plainErr 0x0407 (netDomain (l / 4)) l addr.toNat ((slice % 4096) * 2 ^ 20 + key.toNat * 2 ^ 32) (node + who * 2 ^ 32) with host := host } s).2

/-- A region covers some bytes. -/
def regionHolds (r : Region) (addr : W64) (len : Nat) : Bool :=
  decide (r.base.toNat ≤ addr.toNat) && decide (addr.toNat + len ≤ r.base.toNat + r.len)

/-- The slice that a key names, 0 where the key does not exist. -/
def keySlice (s : State) (key : W32) : Nat := match Tbl.find s.net.regions key.toNat with
  | some r => r.slice
  | none => 0

end Sys2Proof.Machine
end

