-- ==== Sys2Proof/Machine/NetSend.lean ====
section
/-! DEFINITION. Machine/NetSend.lean: packets of the datagram class and cluster messages as bytes, and sending messages to a node (R381 to R387, R392, R424 to R427, R430 to R436). -/
namespace Sys2Proof.Machine
open Sys2Proof

/-! ## Who is who -/

/-- This head's node number; 8,192 stands for none. -/
def ownNode (s : State) : Nat := (nodeId s).getD 8192

/-- The cluster version that this head and a member share (R427). -/
def clusterVersion (s : State) (node : Nat) : Nat := min 2 (Tbl.getD s.cluster.members node 2)

def State.clu (s : State) (f : Cluster → Cluster) : State := { s with cluster := f s.cluster }

/-! ## Cluster messages (R425 to R427, R430, R431, R434, R436) -/

/-- TYPE of a cluster message. -/
def cluType : CluMsg → Nat
  | .joinRequest _ _ _ _ _ _ => 0x01 | .joinAccept _ _ _ => 0x02 | .viewUpdate _ _ => 0x03 | .viewAck _ => 0x04 | .probe _ => 0x05 | .probeAck _ => 0x06
  | .probeIndirect _ _ => 0x07 | .suspect _ _ => 0x08 | .leave => 0x09 | .replOpen _ _ _ _ _ _ _ => 0x10 | .replOpenAck _ _ => 0x11
  | .replDelta _ _ _ _ => 0x12 | .replDeltaAck _ _ _ => 0x13 | .replUnits _ _ _ _ => 0x14 | .replCommit _ _ => 0x15 | .replCommitAck _ _ => 0x16
  | .repairRequest _ _ => 0x17 | .repairData _ _ _ => 0x18 | .replWrite _ _ _ _ _ => 0x19 | .replWriteAck _ _ => 0x1A

/-- A map entry as R256 gives it. -/
def wireEntBytes : WireEnt → List Byte
  | .unmapped => zeros 8
  | .zero => le64 (2 * 2 ^ 62)
  | .unit k => le64 (k % 2 ^ 44 + 2 ^ 62)

/-- A unit of REPL_UNITS: its record of 16 bytes and its slot (R434); `r` fills the reserved bytes. -/
def wireUnitBytes (r : Byte) (u : WireUnit) : List Byte :=
  leBytes 6 (u.unit % 2 ^ 44) ++ le8 u.enc ++ le8 u.pool ++ le16 u.clen ++ List.replicate 2 r ++ le32 u.crc.toNat ++ fit (roundUp u.clen 16) u.slot

/-- The 32 bytes that begin REPL_DELTA and REPL_UNITS. -/
def replHead (r : Byte) (rel count base epoch : Nat) : List Byte := le32 rel ++ le32 count ++ le64 base ++ le64 epoch ++ List.replicate 8 r

def deltaBody (r : Byte) (rel base epoch : Nat) (l : List (Nat × WireEnt)) : List Byte :=
  replHead r rel l.length base epoch ++ l.flatMap fun e => le64 e.1 ++ wireEntBytes e.2
def unitsBody (r : Byte) (rel base epoch : Nat) (l : List WireUnit) : List Byte := replHead r rel l.length base epoch ++ l.flatMap (wireUnitBytes r)
def rangeBytes (l : List (Nat × Nat)) : List Byte := l.flatMap fun r => le64 r.1 ++ le64 r.2

/-- The body of a cluster message, its reserved bytes filled with `r`; those of REPL_WRITE_ACK and of the ranges in REPL_DELTA_ACK are laid out as their neighbours are (log entry 198). -/
def cluBodyFill (r : Byte) : CluMsg → List Byte
  | .joinRequest uid session node lo hi partner =>
    leBytes 16 uid.toNat ++ le16 node ++ le8 lo ++ le8 hi ++ le16 partner ++ List.replicate 2 r ++ le32 session.toNat
  | .joinAccept view leader members =>
    le64 view ++ le16 leader ++ List.replicate 6 r ++ leBytes 1024 ((members.map fun e => 2 ^ (e.1 % 8192)).sum)
      ++ (List.range 8192).flatMap fun n => le8 (match members.find? fun e => e.1 = n with | some e => e.2 | none => 0)
  | .viewUpdate view xs => le64 view ++ le32 xs.length ++ List.replicate 4 r ++ xs.flatMap fun x => le16 x.node ++ le8 (if x.remove then 1 else 0) ++ le8 x.maxVersion
  | .viewAck view => le64 view
  | .probe n | .probeAck n => le64 n.toNat
  | .probeIndirect target n => le16 target ++ List.replicate 6 r ++ le64 n.toNat
  | .suspect node view => le16 node ++ List.replicate 6 r ++ le64 view
  | .leave => []
  | .replOpen rel src target sync unitLog size kcv =>
    le32 rel ++ le32 src ++ le32 target ++ le8 (if sync then 0 else 1) ++ le8 unitLog ++ List.replicate 2 r ++ le64 size ++ fit 8 kcv
  | .replOpenAck rel st => le32 rel ++ le16 st.toNat ++ List.replicate 2 r
  | .replDelta rel base epoch l => deltaBody r rel base epoch l
  | .replDeltaAck rel missing changed => le32 rel ++ le32 missing.length ++ missing.flatMap le64 ++ rangeBytes changed
  | .replUnits rel base epoch l => unitsBody r rel base epoch l
  | .replCommit rel epoch | .replCommitAck rel epoch => le32 rel ++ List.replicate 4 r ++ le64 epoch
  | .repairRequest rel l => le32 rel ++ le32 l.length ++ rangeBytes l
  | .repairData rel l us => deltaBody r rel 0 0 l ++ unitsBody r rel 0 0 us
  | .replWrite rel off seq len data => le32 rel ++ le32 len ++ le64 off ++ le64 seq ++ data.flatMap (leBytes (len / max 1 data.length))
  | .replWriteAck rel seq => le32 rel ++ List.replicate 4 r ++ le64 seq

/-- The body as this head sends it: reserved bytes are zero (R9). -/
def cluBody (m : CluMsg) : List Byte := cluBodyFill 0 m

/-- The reserved bits of a message, by byte of its header and body: FLAGS, the top bits of SRC_NODE, DST_NODE and IV, and what the body reserves (R9, R425). -/
def cluReserved (m : CluMsg) (i : Nat) : Byte :=
  if i < 48 then
    if i = 6 ∨ i = 7 ∨ i = 0x2A ∨ i = 0x2B then 0xFF else if i = 0x19 ∨ i = 0x1B ∨ i = 0x29 then 0xE0 else 0
  else (cluBodyFill 0xFF m).getD (i - 48) 0 ^^^ (cluBody m).getD (i - 48) 0

/-- The traffic key of this node and another at a generation (R426). -/
def trafficKey (s : State) (node gen : Nat) : List Byte :=
  let own := ownNode s
  let mine := le32 s.net.session.toNat
  let theirs := le32 (s.dpeer node).seen.toNat
  let key := match Tbl.find s.cipher.keys 1048575 with
    | some e => (genPlain s 1048575 e.cur).getD []
    | none => []
  (Config.hmacSha384 key (bytesOf "MZ-CLUSTER" ++ le16 (min own node) ++ le16 (max own node) ++ (if own < node then mine ++ theirs else theirs ++ mine) ++ le32 gen)).take 32

/-- The IV: the sender's counter, its node number (R425). -/
def cluIv (counter src : Nat) : List Byte := leBytes 12 (counter % 2 ^ 64 + src % 2 ^ 13 * 2 ^ 64)

/-- The header of 48 bytes (R425). -/
def cluHeader (version type : Nat) (id : W64) (view src dst gen counter len : Nat) : List Byte :=
  le32 0x4D435A4D ++ le8 version ++ le8 type ++ zeros 2 ++ le64 id.toNat ++ le64 view ++ le16 src ++ le16 dst ++ le32 gen ++ cluIv counter src ++ le32 len

/-- The encrypted body and the tag (R425). -/
def cluSeal (key iv head body : List Byte) : List Byte × List Byte :=
  let text := Config.gcmText key iv 0 body
  (text, Config.gcmTag key iv head text)

/-- Seal a message for a node: the counter under the traffic key rises, and KEY_GEN with it at 2^31 (R426). -/
def cluPack (node : Nat) (m : CluMsg) (s : State) : List Byte × State :=
  let t := Tbl.getD s.cluster.traffic node {}
  let t1 : Traffic := if 2 ^ 31 ≤ t.counter then { t with txGen := t.txGen + 1, counter := 0 } else t
  let body := cluBody m
  let head := cluHeader (clusterVersion s node) (cluType m) s.cluster.id s.cluster.view (ownNode s) node t1.txGen.toNat t1.counter body.length
  let x := cluSeal (trafficKey s node t1.txGen.toNat) (cluIv t1.counter (ownNode s)) head body
  (head ++ x.1 ++ x.2, s.clu fun c => { c with traffic := Tbl.set c.traffic node { t1 with counter := t1.counter + 1 } })

/-- The tag of a message that has arrived holds (R425), over the bytes that arrived, reserved ones as the sender left them (R9). -/
def cluTagHolds (s : State) (h : CluHdr) (m : CluMsg) : Bool :=
  let plain := cluHeader h.version (cluType m) h.clusterId h.view h.src (ownNode s) h.keyGen.toNat h.counter.toNat (cluBody m).length ++ cluBody m
  let got := withReserved (cluReserved m) h.dirty plain
  h.tag = (cluSeal (trafficKey s h.src h.keyGen.toNat) ((got.drop 0x20).take 12) (got.take 48) (got.drop 48)).2

/-! ## Datagram packets (R383, R385) -/

def packetsOf (len mtu : Nat) : Nat := max 1 (ceilDiv len mtu)

/-- TYPE of a datagram packet. -/
inductive DgType | data | ack | nak | hello | helloReply | probe | probeReply
deriving DecidableEq, Repr
def dgTypeNum : DgType → Nat
  | .data => 1 | .ack => 2 | .nak => 3 | .hello => 4 | .helloReply => 5 | .probe => 6 | .probeReply => 7

/-- The header of 48 bytes (R383). -/
def dgHeader (t : DgType) (version op flags lg src dst srcEp dstEp session id total off len trig imm rkey addr : Nat) : List Byte :=
  le8 (dgTypeNum t + 16 * version) ++ le8 op ++ le8 flags ++ le8 lg ++ le16 src ++ le16 dst ++ le16 srcEp ++ le16 dstEp ++ le32 session ++ le32 id
    ++ le32 total ++ le32 off ++ le16 len ++ le16 trig ++ le32 imm ++ le32 rkey ++ le64 addr

/-- Header and payload with their CRC. -/
def dgSealed (b : List Byte) : List Byte := b ++ le32 (Config.crc32c b).toNat

/-- Header and payload of a DATA packet from a node to another. -/
def dataBytes (src : Nat) (pk : DataPkt) : List Byte :=
  dgHeader .data pk.version (if pk.write then 2 else 1) (pk.attempt % 8 + 16 * pk.path) pk.pktLog2 src pk.dst pk.srcEp pk.dstEp pk.session.toNat pk.msgId.toNat
    pk.totalLen pk.offset pk.payloadLen pk.trig pk.imm.toNat pk.rkey.toNat pk.remoteAddr.toNat ++ pk.payload

/-- The reserved bits of a datagram header: those above the node IDs (R383). -/
def dgReserved (i : Nat) : Byte := if i = 5 ∨ i = 7 then 0xE0 else 0

/-- A packet without message: HELLO, HELLO_REPLY, PROBE, PROBE_REPLY. -/
def ctlBytes (s : State) (t : DgType) (version node path : Nat) (payload : List Byte) : List Byte :=
  dgSealed (dgHeader t version 0 (16 * path) 0 (ownNode s) node 0 0 s.net.session.toNat 0 0 0 payload.length 0 0 0 0 ++ payload)

/-- An ACK or NAK: it echoes the session and the message, with the endpoints changed round. -/
def replyPkt (s : State) (t : DgType) (version node path : Nat) (echo : Bool) (lg srcEp dstEp : Nat) (session id : W32) (payload : List Byte) : List Byte :=
  dgSealed (dgHeader t version 0 (flag 3 echo + 16 * path) lg (ownNode s) node srcEp dstEp session.toNat id.toNat 0 0 payload.length 0 0 0 0 ++ payload)

/-- UDP source port of a path (R383). -/
def dgPort (s : State) (path : Nat) : Nat := 49152 + 16 * (ownNode s % 1024) + path

/-- A packet as it leaves. -/
def dgOut (s : State) (node path : Nat) (b : List Byte) : Out := .dg node (dgPort s path) 47960 b

/-- The payload of an ACK (R385). -/
def ackPayload (base : Nat) (done : Bool) (bits : List Nat) : List Byte :=
  le32 base ++ le8 (flag 0 done) ++ zeros 3 ++ le64 ((bits.map fun i => 2 ^ (i - base)).sum)

/-- The packets of a list in spans of 64 from the lowest: BASE and the packets within. -/
def ackSpans : Nat → List Nat → List (Nat × List Nat)
  | 0, _ => []
  | f + 1, l => match l with
    | [] => []
    | a :: t =>
      let b := t.foldl min a
      (b, l.filter fun i => decide (i < b + 64)) :: ackSpans f (l.filter fun i => decide (b + 64 ≤ i))

def nakNum : NakReason → Nat
  | .rnr => 1 | .lengthFault => 2 | .access => 3 | .tooSmall => 4 | .noEndpoint => 5 | .staleSession => 6

/-- The payload of a NAK (R385). -/
def nakPayload (r : NakReason) (detail : Nat) : List Byte := le8 (nakNum r) ++ zeros 3 ++ le32 detail ++ zeros 8

/-! ## Paths (R386, R387) -/

/-- Paths in the UP state. -/
def upPaths (p : DPeer) : List Nat := (List.range p.paths.length).filter fun i => (p.paths.getD i {}).state = .up

/-- The path whose last PROBE failed longest ago. -/
def stalePath (p : DPeer) : Nat :=
  (List.range p.paths.length).foldl (fun b i => if (p.paths.getD i {}).lastFail < (p.paths.getD b {}).lastFail then i else b) 0

/-- The path of a first transmission: the x-th in the UP state, counted round (R386; log entry 12). -/
def sprayPath (p : DPeer) (x : Nat) : Nat := match upPaths p with
  | [] => stalePath p
  | l => l.getD (x % l.length) 0

/-- The next UP path after the one that last carried a packet. -/
def nextPath (p : DPeer) (last : Nat) : Nat := match upPaths p with
  | [] => stalePath p
  | a :: l => ((a :: l).find? fun i => decide (last < i)).getD a

/-- Path i leaves on the (i mod U)-th up logical port. -/
def pathPort (s : State) (i : Nat) : Option Nat := match upLports s with
  | [] => none
  | l => l[i % l.length]?

def modPath (node i : Nat) (f : Path → Path) (s : State) : State := s.modPeer node fun p => { p with paths := p.paths.set i (f (p.paths.getD i {})) }

/-- Send a packet on a path; without an up logical port nothing leaves. -/
def pathEmit (i prio : Nat) (o : Out) (s : State) : State := match pathPort s i with
  | none => s
  | some l => netEmit l prio o s

/-- The error of a path: class link, cause timeout, on the network port that carries it. -/
def pathErr (s : State) (node i : Nat) : ErrObs :=
  let l := (pathPort s i).getD 0
  plainErr 0x0204 (netDomain (l / 4)) l 0 l node

/-- A path leaves spraying for good until a PROBE is answered. -/
def pathDown (node i : Nat) (s : State) : State :=
  if ((s.dpeer node).paths.getD i {}).state = .down then s
  else bumpDg 9 1 (modPath node i (fun x => { x with state := .down, probes := 0, probeAt := s.time.toNat }) s)

def pathsDown (node : Nat) : List Nat → State → State
  | [], s => s
  | i :: is, s => pathsDown node is (pathDown node i s)

/-- The paths of each peer that leave on a logical port go DOWN. -/
def portPathsDown (l : Nat) (hit : Nat → Bool) : List (Nat × DPeer) → State → State
  | [], s => s
  | (node, p) :: t, s => portPathsDown l hit t (pathsDown node ((List.range p.paths.length).filter hit) s)

/-! ## Sessions (R381, R382) -/

/-- HELLO goes out on path 0, with versions 1 to 2 and 16 paths offered. -/
def sendHelloTo (node : Nat) (s : State) : State :=
  let p := s.dpeer node
  pathEmit 0 prioCtl (dgOut s node 0 (ctlBytes s .hello 1 node 0 (le8 1 ++ le8 2 ++ le8 16 ++ zeros 1 ++ le32 s.net.session.toNat ++ le32 p.seen.toNat ++ zeros 4)))
    (s.modPeer node fun p => { p with helloAt := p.helloAt.orElse (fun _ => some s.time.toNat), helloLast := s.time.toNat })

/-! ## Sending messages (R384, R386, R392) -/

/-- The packet size of a new message: the smallest path MTU of the up logical ports. -/
def packetLog (s : State) : Nat :=
  let m := (upLports s).foldl (fun m l => min m (pathMtu (s.netPort (l / 4)).mtu)) 4096
  if m = 4096 then 12 else if m = 2048 then 11 else 10

/-- Packet i of a message, as attempt a on a path. -/
def dataPacket (s : State) (node : Nat) (id : W32) (m : MsgOut) (i a path : Nat) : DataPkt :=
  let size := 2 ^ m.pktLog2
  let len := min size (m.wr.length - i * size)
  let data := if m.msg.isSome then (m.bytes.drop (i * size)).take len else Mem.getBytes s.onchip (m.wr.localAddr.toNat + i * size) len
  { node := node, dst := node, session := s.net.session, version := ((s.dpeer node).version).getD 1, write := decide (m.op = .write), attempt := a
    path := path, pktLog2 := m.pktLog2, srcEp := m.ep, dstEp := m.wr.dstEp, msgId := id, totalLen := m.wr.length, offset := i * size
    payload := data, payloadLen := len
    trig := if (s.dpeer node).version = some 2 then m.wr.remoteTrig else 0, imm := m.wr.immKey, rkey := m.wr.rkey
    remoteAddr := m.wr.remoteAddr, ce := false, udpLen := 60 + len, crc := 0 }

/-- Send packet i of a message as attempt a on a path, and note it. -/
def sendPacket (node : Nat) (id : W32) (i a path : Nat) (s : State) : State :=
  match Tbl.find (s.dpeer node).out id.toNat with
  | none => s
  | some m =>
    pathEmit path prioData (dgOut s node path (dgSealed (dataBytes (ownNode s) (dataPacket s node id m i a path))))
      (s.modPeer node fun p => { p with out := Tbl.set p.out id.toNat { m with tries := Tbl.set m.tries i (a, path, s.time.toNat) } })

def sendPackets (node : Nat) (id : W32) : List Nat → State → State
  | [], s => s
  | i :: is, s => sendPackets node id is (sendPacket node id i 0 (sprayPath (s.dpeer node) (id.toNat + i)) s)

/-- Message ID x may be used: x - 1,024 has ended (R392), and fewer than 1,024 are outstanding (R373). -/
def mayStart (p : DPeer) : Bool :=
  decide (p.out.length < 1024) && p.out.all fun e => decide ((p.nextMsg - BitVec.ofNat 32 e.1).toNat < 1024)

/-- A WRITE needs version 2; the status of one posted to a peer of version 1 is not stated. -/
def versionStatus (free : Nat) : WrStatus := match free % 8 with
  | 0 => .retryExceeded | 1 => .rnrExceeded | 2 => .remoteAccess | 3 => .localAccess | 4 => .remoteTooSmall
  | 5 => .lengthFault | 6 => .flushed | _ => .noEndpoint

/-- A message enters the window: its ID, its packets. -/
def openMsg (node lg : Nat) (m : MsgOut) (s : State) : State :=
  let p := s.dpeer node
  let s1 := s.modPeer node fun p => { p with nextMsg := p.nextMsg + 1, out := Tbl.set p.out p.nextMsg.toNat m }
  sendPackets node p.nextMsg (List.range (packetsOf m.wr.length (2 ^ lg))) s1

/-- Start a message to a peer whose session stands; a cluster message is sealed now, under the session's traffic key (R424, R426). -/
def startMsg (node : Nat) (r : SendReq) (s : State) : State × List NetQ :=
  let p := s.dpeer node
  let lg := packetLog s
  match r.msg with
  | some m =>
    let b := cluPack node m s
    let wr := { r.wr with length := b.1.length }
    (openMsg node lg { ep := r.ep, op := r.op, wr := wr, msg := some m, bytes := b.1, pktLog2 := lg, packets := packetsOf wr.length (2 ^ lg) } b.2, [])
  | none =>
    if r.op = .write && p.version = some 1 then
      let d := draw s
      wrComplete (.ep r.ep) r.op r.wr (versionStatus d.1) (bumpDg 7 1 d.2)
    else if 1024 * 2 ^ lg < r.wr.length then wrComplete (.ep r.ep) r.op r.wr .lengthFault (bumpDg 7 1 s)
    else (openMsg node lg { ep := r.ep, op := r.op, wr := r.wr, pktLog2 := lg, packets := packetsOf r.wr.length (2 ^ lg) } s, [])

/-- Messages that waited start while the rules allow it. -/
def drainPeer (node : Nat) : List SendReq → State → State × List NetQ
  | [], s => (s, [])
  | r :: t, s =>
    if mayStart (s.dpeer node) then
      let a := startMsg node r s
      let b := drainPeer node t a.1
      (b.1, .ep r.ep :: a.2 ++ b.2)
    else (s.modPeer node fun p => { p with waiting := r :: t }, [])

def startWaitingMsgs (node : Nat) (s : State) : State × List NetQ :=
  if ((s.dpeer node).version).isSome then drainPeer node (s.dpeer node).waiting (s.modPeer node fun p => { p with waiting := [] }) else (s, [])

/-- A request goes to its peer: started, or waiting behind HELLO or the window (R382, R392). -/
def submitMsg (node : Nat) (r : SendReq) (s : State) : State × List NetQ :=
  let p := s.dpeer node
  let s1 := s.modPeer node fun p => { p with waiting := p.waiting ++ [r] }
  if p.version.isSome then startWaitingMsgs node s1
  else if p.helloAt.isSome then (s1, [])
  else (sendHelloTo node s1, [])

/-! ## Sending a cluster message (R405, R424) -/

/-- The up cross sub-link that leads to a node. -/
def crossTo (s : State) (node : Nat) : Option Nat := (crossSubs s).find? fun n => (s.sub n).node = node

/-- Send a cluster message: on a cross sub-link that leads to the node once its session is known, else as a SEND to endpoint 0 (log entry 198). -/
def cluSend (node : Nat) (m : CluMsg) (s : State) : State :=
  match crossTo s node with
  | some n => if (s.dpeer node).version.isSome then (let b := cluPack node m s; jalCross n b.1 b.2) else (submitMsg node (cluReq node m) s).1
  | none => (submitMsg node (cluReq node m) s).1
where
  cluReq (node : Nat) (m : CluMsg) : SendReq := { ep := 0, op := .send, wr := { signal := false, dstNode := node, length := 0, wrId := 0 }, msg := some m }

def cluSendAll (m : CluMsg) : List Nat → State → State
  | [], s => s
  | n :: ns, s => cluSendAll m ns (cluSend n m s)

end Sys2Proof.Machine
end

