-- ==== Sys2Proof/Machine/PeerOps.lean ====
section
/-! DEFINITION. Machine/PeerOps.lean: relationships of a volume, and what replication does with writes and poison (R424 to R438). -/
namespace Sys2Proof.Machine
open Sys2Proof

def State.modRepl (s : State) (r : Nat) (f : Repl → Repl) : State := { s with repls := Tbl.upd s.repls r f }

/-- The relationship that names a volume. -/
def replOf (nsid : Nat) (s : State) : Option (Nat × Repl) := s.repls.find? fun e => e.2.nsid = nsid && e.2.state ≠ .stopped

/-- A relationship in sync mode that takes new writes now (R431, R437). -/
def syncActive (r : Repl) : Bool := r.source && r.sync && r.state = .inSync

/-- REPL_SUSPENDED, REPL_DIVERGED, REPL_KEY_EXHAUSTED follow the states of all relationships (R500). -/
def replAlarms (s : State) : State :=
  alarmIs 0x86 (s.repls.any fun e => e.2.state = .keyExhausted)
    (alarmIs 0x85 (s.repls.any fun e => e.2.state = .diverged)
      (alarmIs 0x84 (s.repls.any fun e => e.2.sync && (e.2.state = .suspended || e.2.state = .keyExhausted)) s))

def setRepl (r : Nat) (st : ReplState) (s : State) : State := replAlarms (s.modRepl r fun x => { x with state := st })

/-- A target's map entry for an entry of the source, once the unit that it names is here and settled on flash (R435). -/
def resolveEnt (x : Repl) (s : State) : WireEnt → Option (Option MapEnt)
  | .unmapped => some none
  | .zero => some (some .zero)
  | .unit k => match Tbl.find x.xlat k with
    | none => none
    | some u => match Tbl.find s.grinder.units u with
      | some r => if r.live && r.placed && !r.lost then some (some (.unit u)) else none
      | none => none

/-- The built epoch is current at the target, which says so (R433 step 5). -/
def replCommitted (rel epoch : Nat) (s : State) : State :=
  match Tbl.find s.repls rel with
  | none => s
  | some x =>
    let done := fun (y : Repl) => { y with base := epoch, built := [], wanted := false, reported := false, changed := [] }
    cluSend x.node (.replCommitAck (rel % 2 ^ 32) epoch) (setRepl rel (if x.sync then .inSync else .idle) (s.modRepl rel done))

/-- The key of a target takes a new generation: the relationships that its exhaustion held resume, and their sources are told (R438). -/
def rekeyed (index : Nat) : List (Nat × Repl) → State → State
  | [], s => s
  | (rel, x) :: l, s =>
    let named := match Tbl.find s.ns x.nsid with
      | some v => decide (v.key = index)
      | none => false
    rekeyed index l (if !x.source && x.state = .keyExhausted && named then
      cluSend x.node (.replOpenAck (rel % 2 ^ 32) 0) (setRepl rel (if x.sync then .inSync else .idle) s) else s)

/-- Poisoned ranges that a replica can restore: those of the live view, and, at an asynchronous source, those of the base snapshot, which the target's volume holds (R172, R436; log entry 200). -/
def repairRanges (nsid : Nat) (r : Repl) (s : State) : List (Nat × Nat) :=
  (s.host.poison.filter fun p => p.nsid = nsid && (p.epoch = none || (r.source && !r.sync && p.epoch = some r.base))).map fun p => (p.slba, p.nlb)

/-- Ask the partner for the data of poisoned ranges of a volume; the deferred errors of the volume move to STATE 1 (R436, R305). -/
def startRepair (nsid : Nat) (s : State) : State :=
  match replOf nsid s with
  | none => s
  | some (id, r) =>
    let ranges := repairRanges nsid r s
    if ranges = [] || !r.opened then s
    else
      let s1 := s.modRepl id fun x => { x with repairing := true }
      let slice := match Tbl.find s.ns nsid with
        | some v => v.slice
        | none => 0
      let s2 := s1.modSlice slice fun sl => { sl with log := sl.log.map fun e => if e.nsid = nsid && e.state = 0 then { e with state := 1 } else e }
      cluSend r.node (.repairRequest (id % 2 ^ 32) ranges) s2

end Sys2Proof.Machine
end

