-- ==== Sys2Proof/Machine/StripeOps.lean ====
section
/-! DEFINITION. Machine/StripeOps.lean: gathering, stripes in flight, record groups and their commit, units, lost stripes, member failures (R165, R220 to R225, R256 to R264, R291 to R307). -/
namespace Sys2Proof.Machine
open Sys2Proof

/-- A member can be reached by this head or through the peer. -/
def reachable (s : State) (m : Nat) : Bool := (s.kport m).state = .up || (s.kport m).state = .retrain || (s.kport m).peerUp

/-! ## Superblocks (R285, R341) -/

/-- The modules that hold a pool's superblock: the members of both layouts. -/
def poolMembers (p : Pool) : List Nat :=
  ((p.cur.members ++ (match p.target with | some t => t.members | none => [])).filter (· < 96)).eraseDups

/-- A layout descriptor (R286). -/
def layoutBytes (l : Layout) : List Byte :=
  le8 l.id ++ le8 l.k ++ le8 l.m ++ le8 l.d ++ le8 l.n ++ zeros 3 ++ le64 l.seed.toNat ++ le64 l.periods
    ++ (List.range 96).flatMap (fun i => le8 (l.members.getD i 255)) ++ zeros 8

def failBytes (f : FailEnt) : List Byte := le8 f.module ++ le8 f.state ++ le8 (f.replacement.getD 255) ++ zeros 1 ++ le32 f.hours.toNat
def openBytes (r : Nat × Nat × Nat) : List Byte := le8 r.1 ++ zeros 3 ++ le32 r.2.2 ++ le64 r.2.1

/-- The pool superblock (R285); the on-flash map root before the first compaction is a free value (log entry 23). -/
def superBytes (s : State) (pool : Nat) (p : Pool) : List Byte :=
  let b := le32 0x53505A4D ++ le16 1 ++ le8 pool ++ le8 ((if p.reshaping then 1 else 0) + (if p.deleting then 2 else 0)) ++ le64 p.sbGen.toNat
    ++ le32 p.ownerGen.toNat ++ le8 (if p.owned then headIndex s else 1 - headIndex s) ++ zeros 3 ++ fit 32 p.salt ++ le64 (Config.mapRoot pool)
    ++ le64 p.cursor ++ zeros 8 ++ layoutBytes p.cur ++ (match p.target with | some t => layoutBytes t | none => zeros 128)
    ++ fit 64 (p.failed.flatMap failBytes) ++ fit 1024 (p.open_.flatMap openBytes) ++ zeros 2668
  b ++ le32 (Config.crc32c b).toNat

/-- Write one superblock record to each of a list of modules; a half is erased before it is entered, and a record is one codeword (R341). -/
def superTo (pool : Nat) (p : Pool) : List Nat → State → State
  | [], s => s
  | m :: ms, s =>
    let rec_ := p.sbGen.toNat % 1024
    let s1 := if rec_ % 512 = 0 then mediaSend m (.erase 3 rec_) s else s
    superTo pool p ms (mediaSend m (.program 3 rec_ true [encodeCw (superBytes s pool p) (plainMeta pool 0 (superBytes s pool p))]) s1)

/-- Write a new superblock to every member (R285). -/
def superWrite (pool : Nat) (s : State) : State :=
  match Tbl.find s.pools pool with
  | none => s
  | some p => let p1 := writeSuper p; superTo pool p1 (poolMembers p1) (s.modPool pool fun _ => p1)

/-- A superblock write of a pool is unanswered. -/
def superOut (s : State) (p : Pool) : Bool :=
  let sb := fun (c : KCmd) => match c with
    | .program 3 _ _ _ => true
    | _ => false
  (poolMembers p).any fun m => ((s.kport m).cmds.any fun e => sb e.2) || (s.kport m).queue.any sb

/-! ## Units (R221 to R225) -/

def State.modUnit (s : State) (k : Nat) (f : UnitRec → UnitRec) : State := { s with grinder := { s.grinder with units := Tbl.upd s.grinder.units k f } }

/-- Take a unit out of the segments that list it. -/
def dropFromSegs (key : Nat) (p : Pool) : Pool :=
  { p with
    segs := Tbl.mapVals p.segs fun _ g => { g with units := g.units.filter (· ≠ key) }
    gathers := Tbl.mapVals p.gathers fun _ g => { g with units := g.units.filter (· ≠ key) } }

/-- A unit's record is free: its slot is garbage, and cold deduplication has made so many passes (R221, R223). -/
def freeUnit (key : Nat) (s : State) : State :=
  (s.modUnit key fun u => { u with live := false, freed := some (Tbl.getD s.grinder.passes (unitPool key) 0) }).modPool (unitPool key) (dropFromSegs key)

/-- A committed unit without references is freed, and an alias's target looked at in turn; a count that has reached its end pins the unit (R223, R233). -/
def unitSettle (key : Nat) : Nat → State → State
  | 0, s => s
  | f + 1, s => match Tbl.find s.grinder.units key with
    | none => s
    | some u =>
      if 0xFFFFFFFF ≤ refCount s key then s.modUnit key fun u => { u with pinned := true }
      else if u.live && !u.pinned && !u.pending && heldCount s key = 0 then
        match u.alias_ with
        | some t => unitSettle t f (freeUnit key s)
        | none => freeUnit key s
      else s

def settleUnits : List Nat → State → State
  | [], s => s
  | k :: ks, s => settleUnits ks (unitSettle k 2 s)

/-! ## Maps and content -/

/-- Content of a block in a table without zero entries. -/
def putBlock (t : Tbl Nat) (b v : Nat) : Tbl Nat := if v = 0 then Tbl.del t b else Tbl.set t b v

/-- Put a run of blocks. -/
def putBlocks (t : Tbl Nat) (a : Nat) : List Nat → Tbl Nat
  | [] => t
  | v :: vs => putBlocks (putBlock t a v) (a + 1) vs

/-- Blocks of a run whose dedup unit of ub blocks is not among those that a clone has changed since it was made. -/
def putUnchanged (ub : Nat) (changed : Tbl Unit) (t : Tbl Nat) (a : Nat) : List Nat → Tbl Nat
  | [] => t
  | v :: vs => putUnchanged ub changed (if Tbl.has changed (a / ub) then t else putBlock t a v) (a + 1) vs

/-- Blocks of a run that a clone may still take. -/
def unchangedBlocks (ub : Nat) (changed : Tbl Unit) (a n : Nat) : List Nat := ((List.range n).map (a + ·)).filter fun b => !Tbl.has changed (b / ub)

/-- Note the dedup units of a run of blocks. -/
def markUnits (ub : Nat) (t : Tbl Unit) (a n : Nat) : Tbl Unit :=
  (List.range ((a + max 1 n - 1) / ub + 1 - a / ub)).foldl (fun t k => Tbl.set t (a / ub + k) ()) t

/-- The content of a view takes a committed write that its cut follows; a write that a clone inherits changes only what the clone has not (R419, R420). -/
def viewWrite (ub id : Nat) (d : Desc) (w : Snap) : Snap :=
  if w.pending.contains id then
    if w.nsid = d.nsid then
      { w with
        blocks := putBlocks w.blocks d.slba d.data
        pending := w.pending.filter (· ≠ id)
        changed := markUnits ub w.changed d.slba d.data.length }
    else { w with blocks := putUnchanged ub w.changed w.blocks d.slba d.data, pending := w.pending.filter (· ≠ id) }
  else w

/-- A clone waits for the write no longer. -/
def cloneDone (id : Nat) (i : Inherit) : Inherit := { i with pending := i.pending.filter (· ≠ id) }

/-- A clone takes a late write of its source where it has not changed the entry, and poison there goes (R172, R420). -/
def cloneTake (ub id : Nat) (d : Desc) (s : State) (e : Nat × Inherit) : State :=
  (unchangedBlocks ub e.2.changed d.slba d.data.length).foldl (fun s b => clearPoison e.1 none b 1 id s)
    (s.modNs e.1 fun v => { v with blocks := putUnchanged ub e.2.changed v.blocks d.slba d.data })

/-- A committed write reaches the namespace, the snapshot views whose cut it precedes, and the clones of those views (R258, R419, R420). -/
def applyWrite (id : Nat) (d : Desc) (s0 : State) : State :=
  let s := mapLate id d s0
  let ub := (Tbl.find s.ns d.nsid).elim 1 fun v => max 1 (unitBlocks v)
  let s1 := s.modNs d.nsid fun v => { v with blocks := putBlocks v.blocks d.slba d.data }
  let c2 := clearPoison d.nsid none d.slba d.data.length id s1
  let s2 := if s.repls.any (fun e => e.2.fixing.contains id) then settleRepairs d.nsid c2 else deferSettle d.nsid d.slba d.data.length c2
  let views := (s2.snaps.views.filter fun e => e.2.nsid = d.nsid && e.2.pending.contains id).map (·.1)
  let s3 := { s2 with snaps := { s2.snaps with views := Tbl.mapVals s2.snaps.views fun _ w => viewWrite ub id d w } }
  let s4 := views.foldl (fun s e => clearPoison d.nsid (some e) d.slba d.data.length id s) s3
  let s5 := (s4.snaps.clones.filter fun e => e.2.pending.contains id).foldl (cloneTake ub id d) s4
  { s5 with snaps := { s5.snaps with clones := Tbl.mapVals s5.snaps.clones fun _ i => cloneDone id i } }

/-- Take a range of blocks out of a table. -/
def dropBlocks (t : Tbl Nat) (a n : Nat) : Tbl Nat := t.filter fun e => decide (e.1 < a) || decide (a + n ≤ e.1)

/-- A module leaves a pool: its trim runs, unless it is retired (R288, R290, R311). -/
def releaseMod (pool : Nat) (m : Module) : Module := if m.stand = .retired then m else { m with stand := .releasing, left := some pool }

/-- The switch-over record commits (R311): the target layout is current, the failure list keeps the modules of the new layout, the superblock goes to every module of both layouts, and modules outside the new layout are trimmed. -/
def switchOver (pool : Nat) (s : State) : State :=
  match Tbl.find s.pools pool with
  | none => s
  | some p => match p.target with
    | none => s
    | some t =>
      let out := p.cur.members.filter fun m => !t.members.contains m
      let q : Pool := { p with
        cur := t, target := none, reshaping := false, cursor := 0
        failed := p.failed.filter fun f => t.members.contains f.module || (match f.replacement with | some r => t.members.contains r | none => false)
        open_ := p.open_.filter fun r => r.1 = t.id
        rebuilt := p.rebuilt.filter fun e => e.1 % 2 ^ 48 / 2 ^ 36 = t.id }
      let q1 := writeSuper q
      let s1 := superTo pool q1 (poolMembers p) (s.modPool pool fun _ => q1)
      let s2 := out.foldl (fun s m => s.modMod m (releaseMod pool)) s1
      event 0 0x48 (le8 pool ++ le8 p.cur.id ++ le8 t.id ++ le8 t.k ++ le8 t.m ++ le8 t.n) s2

/-- Start repair from a replica for each of a list of volumes (R305, R436). -/
def repairAll : List Nat → State → State
  | [], s => s
  | n :: ns, s => repairAll ns (startRepair n s)

/-- A POOL record marks a strip on its spare or replacement, and it is missing no longer; a record that comes too late for the segment or for the spare changes nothing (R284, R295, R303). -/
def placeStrip (pool seg place m addr : Nat) (s : State) : State :=
  s.modPool pool fun p => match Tbl.find p.segs seg, layoutOf p (segLayout seg) with
    | some _, some l =>
      if stripTarget p l (segNum seg) place = some (m, addr) then
        let home := (homeOf l (segNum seg) place).1
        let q := match replaces p home with
          | some e => if home = m then markRebuilt (96 + m) addr p else markRebuilt e.module addr p
          | none => if home ≠ m then markRebuilt home addr p else p
        { q with segs := Tbl.upd q.segs seg fun g => { g with missing := clrBit g.missing place } }
      else p
    | _, _ => p

/-- The pages of an older metadata segment that a later one, up to a compaction, has replaced (R259). -/
def dropOldPages (g : Nat) (p : Pool) : Pool :=
  { p with segs := Tbl.mapVals p.segs fun _ x => match x.through with
      | some n => { x with pages := x.pages.filter fun i => !(p.segs.any fun e => e.2.pages.contains i && match e.2.through with
          | some m => decide (n < m) && decide (m ≤ g)
          | none => false) }
      | none => x }

/-- One change of a record group that is no write (R159, R170, R436). -/
def applyEffect (e : Effect) (s : State) : State :=
  match e with
  | .zero nsid a n at_ => deferSettle nsid a n (clearPoison nsid none a n at_ (s.modNs nsid fun v => { v with blocks := dropBlocks v.blocks a n }))
  | .poison nsid view a n at_ => addPoison nsid view a n at_ s
  | .repair nsid none a data at_ => settleRepairs nsid (clearPoison nsid none a data.length at_ (s.modNs nsid fun v => { v with blocks := putBlocks v.blocks a data }))
  | .deferred slice d => deferError slice d s
  | .repairs l => repairAll l s
  | .switchOver pool => switchOver pool s
  | .replCommit rel epoch => replCommitted rel epoch s
  | .lose units => units.foldl (fun s u => s.modUnit u fun r => { r with lost := true }) s
  | .settle units => settleUnits units s
  | .alias_ gone kept => (s.modUnit gone fun u => { u with alias_ := some kept }).modPool (unitPool gone) (dropFromSegs gone)
  | .cursor pool d wraps => { s with grinder := { s.grinder with
      cursor := Tbl.set s.grinder.cursor pool d
      passes := if wraps then Tbl.set s.grinder.passes pool (Tbl.getD s.grinder.passes pool 0 + 1) else s.grinder.passes } }
  | .placed pool seg place m addr => placeStrip pool seg place m addr s
  | .compact g => { s with
      journal := { s.journal with groups := s.journal.groups.filter (fun e => decide (g < e.1)), through := max s.journal.through g, compacting := none }
      pools := Tbl.mapVals s.pools fun _ p => dropOldPages g p }
  | .repair nsid (some w) a data at_ =>
    settleRepairs nsid <| clearPoison nsid (some w) a data.length at_ { s with snaps := { s.snaps with views := Tbl.upd s.snaps.views w fun x => { x with blocks := putBlocks x.blocks a data } } }

def applyEffects : List Effect → State → State
  | [], s => s
  | e :: es, s => applyEffects es (applyEffect e s)

/-- A clone has changed one of its entries (R420). -/
def cloneMark (i : Nat) (x : Inherit) : Inherit := { x with changed := Tbl.set x.changed i () }

/-- Map entries take effect. -/
def applyMap : List (Nat × Nat × Option MapEnt) → State → State
  | [], s => s
  | (nsid, i, e) :: l, s =>
    let s1 := cacheWrite 0 (mapItem nsid i) (s.modNs nsid (Ns.putEnt i e))
    applyMap l { s1 with snaps := { s1.snaps with clones := Tbl.upd s1.snaps.clones nsid (cloneMark i) } }

/-! ## Stripes in flight (R263, R264) -/

def State.sifAt (s : State) (q : Nat) : Option Sif := Tbl.find s.carafe.sif q

/-- Strips of the stripe that are on their way: not written, and not missing unless they have been sent again (R296). -/
def sifOpen (x : Sif) : List Nat := (List.range (x.k + x.m)).filter fun i => !hasBit x.written i && (!hasBit x.missing i || Tbl.has x.sent i)

/-- Send the strips of a list of places to their modules (R294 step 3). -/
def sendStrips (q pool : Nat) (x : Sif) : List Nat → State → State
  | [], s => s
  | i :: is, s => match x.placement.getD i none with
    | some (m, a) => sendStrips q pool x is (programStrip m { strip := a, pool := pool, use := .stripe q i } s)
    | none => sendStrips q pool x is s

/-- Missing strips of a segment in use: add one bit. -/
def segMissing (pool key i : Nat) (s : State) : State :=
  s.modPool pool fun p => { p with segs := Tbl.upd p.segs key fun g => { g with missing := setBit g.missing i } }

/-- The stripe entry that a segment still has. -/
def sifOfSeg (s : State) (pool key : Nat) : Option (Nat × Sif) := s.carafe.sif.find? fun e => e.2.pool = pool && e.2.stripe = key

/-! ## Record groups of writes (R166, R209, R257, R258, R294) -/

def descPool (d : Desc) (s : State) : Nat := match Tbl.find s.ns d.nsid with | some v => v.pool | none => 255

/-- Units of the namespace that a write touches. -/
def descUnits (d : Desc) (s : State) : Nat × Nat :=
  match Tbl.find s.ns d.nsid with
  | some v => let b := max 1 (unitBlocks v); (d.slba / b, (d.slba + d.data.length - 1) / b)
  | none => (0, 0)

def unitsOverlap (s : State) (d e : Desc) : Bool :=
  let x := descUnits d s
  let y := descUnits e s
  d.nsid = e.nsid && decide (x.1 ≤ y.2) && decide (y.1 ≤ x.2)

/-- Every unit that a write's entries name is settled on flash. -/
def entsPlaced (s : State) (d : Desc) : Bool :=
  d.ents.all fun x => match x.2 with
    | .zero => true
    | .unit k => (Tbl.find s.grinder.units k).any (·.placed) && !unitGone s k

/-- The writes of a pool whose map updates can be journaled now, in sequence order; a write waits for every earlier one that touches a unit of its own. -/
def readyWrites (s : State) (pool : Nat) : List (Nat × Desc) → List Desc → List (Nat × Desc)
  | [], _ => []
  | (id, d) :: l, held =>
    if d.grouped then readyWrites s pool l held
    else if d.reduced && d.left = 0 && descPool d s = pool && entsPlaced s d && !(held.any (unitsOverlap s d)) then
      (id, d) :: readyWrites s pool l held
    else readyWrites s pool l (d :: held)

/-- Of some units those that a group naming them creates: pending, and created by no earlier group. -/
def newUnits (s : State) (units : List Nat) : List Nat :=
  (units.filter fun k => (Tbl.find s.grinder.units k).any (·.pending) && !((openGroups s).any fun g => g.units.contains k)).eraseDups

/-- Writes that a group may commit, and its greatest length (R240, R262). -/
def maxWrites (s : State) : Nat := if 2 ≤ s.journal.version then 64 else 1
def maxGroup (s : State) : Nat := if 2 ≤ s.journal.version then 2 ^ 20 else 2 ^ 18

/-- The poison that a write clears, as the records of its group (R172, R257). -/
def clearRecords (s : State) (id : Nat) (d : Desc) : List (Nat × List Byte) :=
  (s.host.poison.filter fun p => poisonHits d.nsid none d.slba d.data.length p && decide (p.at_ < id)).map fun p =>
    let a := max p.slba d.slba
    poisonRecord d.nsid 1 a (min (p.slba + p.nlb) (d.slba + d.data.length) - a)

/-- Stripes that reached WRITTEN, name one of these units and have no group yet. -/
def sifsFor (s : State) (pool : Nat) (units : List Nat) : List Nat :=
  (s.carafe.sif.filter fun e => e.2.pool = pool && e.2.state = .written && e.2.gseq = 0 && e.2.units.any units.contains).map (·.1)

/-- One group of writes, their units and the mappings of the stripes that carry them. -/
def writeGroup (s : State) (pool : Nat) (ws : List (Nat × Desc)) : Group :=
  let units := ws.flatMap fun w => w.2.ents.flatMap fun x => entUnit (some x.2)
  { pool := pool, writes := ws.map (·.1), units := newUnits s units, sifs := sifsFor s pool units
    map := ws.flatMap fun w => w.2.ents.map fun x => (w.2.nsid, x.1, some x.2)
    notes := ws.flatMap fun w => clearRecords s w.1 w.2 }

/-- The first n writes of a list or fewer, as one group holds them; one write always does. -/
def fitWrites (s : State) (pool : Nat) (ws : List (Nat × Desc)) : Nat → List (Nat × Desc)
  | 0 => []
  | n + 1 =>
    let g := writeGroup s pool (ws.take (n + 1))
    if n = 0 || decide (groupLength g (groupRecords s g) ≤ maxGroup s) then ws.take (n + 1) else fitWrites s pool ws n

/-- Make one group of writes. -/
def makeWriteGroup (pool : Nat) (ws : List (Nat × Desc)) (s : State) : State :=
  ws.foldl (fun s w => s.modOwn w.1 fun d => { d with grouped := true }) (addGroup (writeGroup s pool ws) s)

/-- A stripe in WRITTEN that no staged write needs gets a group with its mappings alone. -/
def spareSif (s : State) (pool : Nat) : Option Nat :=
  (s.carafe.sif.find? fun e => e.2.pool = pool && e.2.state = .written && e.2.gseq = 0
    && !(s.carafe.own.any fun d => !d.2.grouped && d.2.ents.any fun x => (entUnit (some x.2)).any e.2.units.contains)).map (·.1)

/-- Make every group that can be made now, within the ring's room (R260). -/
def formGroups (pool : Nat) : Nat → State → State
  | 0, s => s
  | f + 1, s =>
    if s.journal.waiting ≠ [] || decide (2 ^ 29 ≤ liveJournal s) then s
    else
      let ready := readyWrites s pool s.carafe.own []
      match fitWrites s pool ready (min (maxWrites s) ready.length) with
      | [] => (match spareSif s pool with
        | some q => formGroups pool f (addGroup { pool := pool, sifs := [q] } s)
        | none => s)
      | ws => formGroups pool f (makeWriteGroup pool ws s)

/-- Blocks of a dedup unit's content. -/
def contentBlocks (v : Ns) (content : Nat) : List Nat :=
  (List.range (unitBlocks v)).map fun j => content / 2 ^ (8 * blockBytes v * j) % 2 ^ (8 * blockBytes v)

/-- What a replicated entry does to the volume's blocks. -/
def entEffect (s : State) (nsid : Nat) (v : Ns) (at_ : Nat) (i : Nat) (e : Option MapEnt) : Effect :=
  match e with
  | some (.unit k) => .repair nsid none (i * unitBlocks v) (contentBlocks v (match Tbl.find s.grinder.units k with | some u => u.content | none => 0)) at_
  | _ => .zero nsid (i * unitBlocks v) (unitBlocks v) at_

/-- Entries of a built epoch as the target will hold them; none while a unit is not settled. -/
def resolveAll (x : Repl) (s : State) : List (Nat × WireEnt) → Option (List (Nat × Option MapEnt))
  | [] => some []
  | (i, e) :: l => match resolveEnt x s e, resolveAll x s l with
    | some r, some rs => some ((i, r) :: rs)
    | _, _ => none

/-- Map entries that one group takes, with room for their records. -/
def chunkEnts (s : State) : Nat := if 2 ≤ s.journal.version then 32768 else 8192

/-- A change of many map entries fills as many groups as the limit of a group's length asks for; the last one carries everything else (R240, R262; log entry 218). -/
def addChunks (g : Group) (ents : List (Nat × Nat × Option MapEnt)) : Nat → State → State
  | 0, s => addGroup { g with map := ents, units := newUnits s (ents.flatMap fun e => entUnit e.2.2) } s
  | f + 1, s =>
    if ents.length ≤ chunkEnts s then addGroup { g with map := ents, units := newUnits s (ents.flatMap fun e => entUnit e.2.2) } s
    else
      let part := ents.take (chunkEnts s)
      addChunks g (ents.drop (chunkEnts s)) f (addGroup { pool := g.pool, map := part, units := newUnits s (part.flatMap fun e => entUnit e.2.2) } s)

def addMapGroups (g : Group) (ents : List (Nat × Nat × Option MapEnt)) (s : State) : State := addChunks g ents (ents.length / 8192) s

/-- The target makes a built epoch current in one record group, once all its units are settled (R433 step 5, R294). -/
def formRepl (rel : Nat) (x : Repl) (s : State) : State :=
  match Tbl.find s.ns x.nsid, resolveAll x s x.built with
  | some v, some l =>
    let at_ := s.host.nextSeq
    let g : Group := { pool := v.pool, effects := l.map (fun e => entEffect s x.nsid v at_ e.1 e.2) ++ [.replCommit rel x.builtEpoch] }
    addMapGroups g (l.map fun e => (x.nsid, e.1, e.2)) ({ s with host := { s.host with nextSeq := at_ + 1 } }.modRepl rel fun y => { y with wanted := false })
  | _, _ => s

def formRepls (pool : Nat) : List (Nat × Repl) → State → State
  | [], s => s
  | (rel, x) :: l, s => formRepls pool l (if x.wanted && (match Tbl.find s.ns x.nsid with | some v => decide (v.pool = pool) | none => false) then formRepl rel x s else s)

/-- Staged writes that no group carries yet and that name one of some units are reduced again: their data is still dirty (R224, R258). -/
def redoUnits (units : List Nat) (s : State) : State :=
  let hit := fun (d : Desc) => !d.grouped && d.ents.any fun x => (entUnit (some x.2)).any units.contains
  let again := s.carafe.own.flatMap fun e => if hit e.2 then
      (e.2.ents.filter fun x => (entUnit (some x.2)).any units.contains).map fun x => ({
        write := e.1, nsid := e.2.nsid, index := x.1, at_ := s.time.toNat
        content := (match (entUnit (some x.2)).head? with
          | some k => (match Tbl.find s.grinder.units k with | some u => u.content | none => 0)
          | none => 0) } : GUnit)
    else []
  let fix := fun (d : Desc) => if hit d then
      let bad := d.ents.filter fun x => (entUnit (some x.2)).any units.contains
      { d with left := d.left + bad.length, ents := d.ents.filter fun x => !bad.contains x }
    else d
  if again = [] then s
  else { s with carafe := { s.carafe with own := Tbl.mapVals s.carafe.own fun _ d => fix d }, grinder := { s.grinder with ready := s.grinder.ready ++ again } }

/-- Units that staged writes name and that are gone: the writes store fresh copies (R224, R225). -/
def redoGone (s : State) : State :=
  redoUnits (((s.carafe.own.filter fun e => !e.2.grouped).flatMap fun e => e.2.ents.flatMap fun x => entUnit (some x.2)).eraseDups.filter (unitGone s)) s

def formAll (pool : Nat) (s0 : State) : State :=
  let s := redoGone s0
  formRepls pool s.repls (formGroups pool (s.carafe.own.length + s.carafe.sif.length + 1) s)

/-- A repaired run has been rewritten (R436). -/
def repairedWrite (id : Nat) (s : State) : State :=
  match s.repls.find? fun e => e.2.fixing.contains id with
  | none => s
  | some (rel, x) =>
    let rest := x.fixing.filter (· ≠ id)
    s.modRepl rel fun y => { y with fixing := rest, repairing := y.repairing && rest ≠ [] }

/-! ## The on-flash map (R259, R348)

Pages of 4 KiB: 512 entries of a namespace's map or of a snapshot's view, 128 unit records, 512 entries of a module's strip map, and a root page for each pool (log entry 222). -/

def mapPage (nsid page : Nat) : Nat := (nsid * 2 ^ 40 + page) * 8
def viewPage (view page : Nat) : Nat := (view * 2 ^ 40 + page) * 8 + 1
def unitPage (key : Nat) : Nat := (key / 128) * 8 + 2
def stripPage (m addr : Nat) : Nat := (m * 2 ^ 48 + addr / 512) * 8 + 3
def rootPage : Nat := 4

/-- The pages of a pool's on-flash map that a group changes, as they stand before it commits. -/
def changedPages (s : State) (g : Group) : List (Nat × Nat) :=
  let nsPool := fun (n : Nat) => (Tbl.find s.ns n).elim 255 (·.pool)
  let writes := g.writes.filterMap fun id => (Tbl.find s.carafe.own id).map fun d => (id, d)
  let views := writes.flatMap fun w => (s.snaps.views.filter fun e => e.2.pending.contains w.1).flatMap fun e => w.2.ents.map fun x => (nsPool e.2.nsid, viewPage e.1 (x.1 / 512))
  let clones := writes.flatMap fun w => (s.snaps.clones.filter fun e => e.2.pending.contains w.1).flatMap fun e => w.2.ents.map fun x => (nsPool e.1, mapPage e.1 (x.1 / 512))
  let units := (g.units ++ touched s g ++ g.moves.map (·.1) ++ g.effects.flatMap fun e => match e with
    | .lose l => l
    | _ => []).map fun k => (unitPool k, unitPage k)
  let strips := (g.sifs.flatMap fun q => (Tbl.find s.carafe.sif q).elim [] fun x => x.pages.map fun y => (x.pool, stripPage y.1 y.2.1))
    ++ g.stripMoves.map (fun x => (g.pool, stripPage x.1 x.2.2.1))
    ++ g.effects.filterMap (fun e => match e with
      | .placed pool _ _ m addr => some (pool, stripPage m addr)
      | _ => none)
    ++ g.released.flatMap fun r => match (Tbl.find s.pools r.1).bind fun p => (layoutOf p (segLayout r.2)).map fun l => (p, l) with
      | some (p, l) => (List.range l.w).filterMap fun i => (stripValid p l (segNum r.2) i).map fun x => (r.1, stripPage x.1 x.2)
      | none => []
  (g.map.map fun e => (nsPool e.1, mapPage e.1 (e.2.1 / 512))) ++ views ++ clones ++ units ++ strips

/-- Pages have changed since the last compaction started. -/
def notePages (l : List (Nat × Nat)) (s : State) : State :=
  { s with pools := Tbl.mapVals s.pools fun n p => { p with changed := (l.filter fun x => x.1 = n).foldl (fun t x => Tbl.set t x.2 ()) p.changed } }

/-- Pages that a compaction could not write are changed pages again, and the compaction starts anew. -/
def redoPages (pool : Nat) (pages : List Nat) (s : State) : State :=
  let s1 := notePages (pages.map fun i => (pool, i)) s
  { s1 with journal := { s1.journal with compacting := none } }

/-! ## Gathering (R292) -/

/-- The open gathering segment with the least free space that still holds n granules. -/
def gatherFor (p : Pool) (n : Nat) : Option Nat :=
  let room := (writeLayout p).granules
  (p.gathers.foldl (fun (b : Option (Nat × Nat)) e =>
    if e.2.full || decide (room < e.2.granules + n) then b else match b with
      | none => some (e.1, e.2.granules)
      | some (k, g) => if g < e.2.granules then some (e.1, e.2.granules) else some (k, g)) none).map (·.1)

/-- Bytes of the gathering area in use: gathering segments, and stripes whose data stays until their group commits (R23, R241, R296). -/
def gatherUsed (s : State) : Nat :=
  ((s.pools.map fun p => p.2.gathers.length * (writeLayout p.2).k * 65536).sum) + ((s.carafe.sif.filter fun x => x.2.state ≠ .committed).map fun x => x.2.k * 65536).sum

/-- The gathering area of 4 GiB takes one more compression group of a pool (R241). -/
def gatherRoom (s : State) (pool : Nat) : Bool :=
  match Tbl.find s.pools pool with
  | none => false
  | some p => (gatherFor p 129).isSome || decide (gatherUsed s + (writeLayout p).k * 65536 ≤ 2 ^ 32)

/-- Open a new gathering segment; the others close, since a group did not fit in them. -/
def openGather (now : W64) (p : Pool) : Nat × Pool :=
  let full := Tbl.mapVals p.gathers fun _ g => { g with full := true }
  (p.nextGather, { p with gathers := Tbl.set full p.nextGather { opened := now }, nextGather := p.nextGather + 1 })

/-- Slot bytes of a unit: its encoded bytes padded to 16 (R226). -/
def slotBytesOf (u : UnitRec) : Nat := roundUp u.clen 16

/-- Granules of a compression group of some slots (R226). -/
def groupGranules (slots : List Nat) : Nat := ceilDiv (160 + slots.sum) 512

/-! ## Writing a stripe (R292 to R296) -/

/-- The unused tail of a segment: zero granules that the cipher encrypts under the filler key, each with the tweak of its reduced address (R292, R443). -/
def fillerTail (s : State) (base from_ : Nat) : Nat → List Byte
  | 0 => []
  | n + 1 =>
    let key := match s.cipher.slots.find? fun e => e.2.use = .filler with
      | some e => e.2.key
      | none => []
    Config.xts true key (BitVec.ofNat 128 (2 ^ 127 + base + from_)) (zeros 512) ++ fillerTail s base (from_ + 1) n

/-- A closed gathering segment takes a number of the open-segment list: its entry is opened, and its strips leave once the peer has the entry (R293, R294). -/
def writeStripe (pool gi : Nat) (l : Layout) (num : Nat) (s : State) : State :=
  match Tbl.find s.pools pool with
  | none => s
  | some p => match Tbl.find p.gathers gi with
    | none => s
    | some g =>
      let q := s.carafe.nextSif
      let key := segKey l.id num
      let base := l.id * 2 ^ 45 + num * l.granules
      let place := (List.range l.w).map (stripTarget p l num)
      let miss := place.zipIdx.foldl (fun m x => if x.1.isNone then setBit m x.2 else m) (0 : Mask64)
      let x : Sif := {
        stripe := key, pool := pool, k := l.k, m := l.m, time := s.time, missing := miss, placement := place,
        openAck := !peerPresent s, writes := g.writes, units := g.units, moves := g.moves.map fun y => (y.1, base + y.2.1, y.2.2) }
      let seg : Seg := {
        data := g.data ++ fillerTail s base g.granules (l.granules - g.granules), missing := miss, units := g.units, opened := s.time, through := g.through, pages := g.pages }
      let s1 := s.modPool pool fun p => { p with segs := Tbl.set p.segs key seg, gathers := Tbl.del p.gathers gi, stalled := false }
      let s3 := g.units.foldl (fun s u => s.modUnit u fun r => { r with group := base + r.group }) s1
      let s4 := { s3 with carafe := { s3.carafe with sif := Tbl.set s3.carafe.sif q x, nextSif := q + 1 } }
      let s5 := alarmIs 0x43 (s4.pools.any fun e => e.2.stalled) s4
      if peerPresent s then sifTell q s5
      else sendStrips q pool x (sifOpen x) (s5.modSif q fun x => { x with state := .writing })

/-- A gathering segment is closed: it takes the lowest number that qualifies; one outside the open-segment list waits until the superblock that extends the list has been written, and with none the pool is stalled (R292, R293). -/
def closeGather (pool gi : Nat) (s : State) : State :=
  match Tbl.find s.pools pool with
  | none => s
  | some p =>
    let l := writeLayout p
    let stall := raiseAlarm 0x43 (s.modPool pool fun p => { p with stalled := true })
    let wait := fun (s : State) => s.modPool pool fun p => { p with gathers := Tbl.upd p.gathers gi fun g => { g with full := true, closing := true } }
    if 262144 ≤ s.carafe.sif.length || p.fenced || !p.owned then s
    else match lowestSeg p l l.segs with
      | none => stall
      | some num =>
        if isOpening p l num then wait s
        else if inOpen p l num then writeStripe pool gi l num s
        else match extendOpen p l num with
          | none => stall
          | some p1 =>
            let s1 := superTo pool p1 (poolMembers p1) (s.modPool pool fun _ => p1)
            if superOut s1 p1 then wait s1 else writeStripe pool gi l num (s1.modPool pool fun p => { p with opening := none })

/-- The superblock that extends the open-segment list is written: segments that waited for it are closed (R293). -/
def superDone (pool : Nat) (s : State) : State :=
  match Tbl.find s.pools pool with
  | none => s
  | some p =>
    if p.opening.isNone || superOut s p then s
    else ((p.gathers.filter fun e => e.2.closing).map (·.1)).foldl (fun s gi => closeGather pool gi s) (s.modPool pool fun p => { p with opening := none })

/-- Put a compression group, given as bytes, into a gathering segment: its slots' units take their place in it, at once for new units, when their move commits for moved ones, whose offsets are given (R292, R361). -/
def gatherPut (pool n : Nat) (units : List Nat) (writes : List Nat) (offs : Option (List Nat)) (bytes : List Byte) (s : State) : State :=
  match Tbl.find s.pools pool with
  | none => s
  | some p =>
    let gp : Nat × Pool := match gatherFor p n with
      | some i => (i, p)
      | none => openGather s.time p
    let at_ := (Tbl.getD gp.2.gathers gp.1 {}).granules
    let put := fun (g : Gather) => { g with
      granules := g.granules + n,
      data := g.data ++ bytes,
      moves := g.moves ++ (match offs with
        | some l => units.zipIdx.map fun u => (u.1, at_, l.getD u.2 0)
        | none => []),
      units := if offs.isSome then g.units else g.units ++ units,
      writes := (g.writes ++ writes).eraseDups }
    let s1 := s.modPool pool fun _ => { gp.2 with gathers := Tbl.upd gp.2.gathers gp.1 put }
    if offs.isSome then s1 else units.foldl (fun s u => s.modUnit u fun r => { r with group := at_ }) s1

/-- One compression group of a gathering segment, by its first granule, is gathered again with the units that lie in it. -/
def putAgain (pool : Nat) (g : Gather) (s : State) (at_ : Nat) : State :=
  let here := fun (u : Nat) => (Tbl.find s.grinder.units u).any fun r => decide (r.group = at_)
  let moved := g.moves.filter fun x => x.2.1 = at_
  let n := hdrNat (g.data.drop (at_ * 512)) 8 2
  let bytes := (g.data.drop (at_ * 512)).take (n * 512)
  if moved = [] then gatherPut pool n (g.units.filter here) g.writes none bytes s
  else gatherPut pool n (moved.map (·.1)) g.writes (some (moved.map fun x => x.2.2)) bytes s

/-- A gathering segment's groups are gathered again, one by one, into segments of the layout that takes new ones; units of new groups lie at the granule that their record gives (R296, R309). -/
def gatherAgain (pool : Nat) (g : Gather) (s : State) : State :=
  let starts := ((g.units.filterMap fun u => (Tbl.find s.grinder.units u).map (·.group)) ++ g.moves.map fun x => x.2.1).eraseDups
  (sortBy (fun a b => decide (a < b)) starts).foldl (putAgain pool g) s

/-- A stripe that would keep fewer than k strips: its data is gathered again and its number goes back; pages of the on-flash map are written by the compaction anew (R296). -/
def regather (q : Nat) (x : Sif) (s : State) : State :=
  let s2 := sifTell q { s with carafe := { s.carafe with sif := Tbl.del s.carafe.sif q } }
  match Tbl.find s2.pools x.pool with
  | none => s2
  | some p =>
    let base := match layoutOf p (segLayout x.stripe) with
      | some l => l.id * 2 ^ 45 + segNum x.stripe * l.granules
      | none => 0
    let seg := Tbl.getD p.segs x.stripe {}
    let g : Gather := { data := seg.data, moves := x.moves.map fun y => (y.1, y.2.1 - base, y.2.2), units := x.units, writes := x.writes }
    let s3 := x.units.foldl (fun s u => s.modUnit u fun r => { r with group := r.group - base }) (s2.modPool x.pool fun p => { p with segs := Tbl.del p.segs x.stripe })
    if seg.through.isSome then redoPages x.pool seg.pages s3 else gatherAgain x.pool g s3

/-- Strips that a stripe in flight has on modules that have not failed since (R296). -/
def stripsHeld (p : Pool) (x : Sif) : Nat :=
  ((List.range (x.k + x.m)).filter fun i => hasBit x.written i && match x.placement.getD i none with
    | some (m, _) => !(p.failed.any fun f => f.module = m && (f.state = 1 || f.state = 2))
    | none => false).length

/-- Every strip of a stripe is written or missing: it is WRITTEN and its map updates can be journaled, or it is gathered again (R264, R294, R296). -/
def sifCheck (q : Nat) (s : State) : State :=
  match s.sifAt q with
  | none => s
  | some x =>
    if x.state ≠ .writing || sifOpen x ≠ [] then s
    else if (match Tbl.find s.pools x.pool with
      | some p => decide (stripsHeld p x < x.k)
      | none => false) then regather q x s
    else
      let s1 := sifTell q (s.modSif q fun x => { x with state := .written })
      let s2 := x.units.foldl (fun s u => s.modUnit u fun r => { r with placed := true }) s1
      formAll x.pool s2

/-- The peer has the opening of a stripe: its strips leave (R264). -/
def sifOpened (q : Nat) (s : State) : State :=
  match s.sifAt q with
  | some x =>
    if x.state = .opened then
      sifCheck q (sendStrips q x.pool x (sifOpen x) (sifTell q (s.modSif q fun x => { x with openAck := true, state := .writing })))
    else s
  | none => s

/-- A strip that stands on a spare or on a replacement is valid there only when its bit is set, by a POOL record (R284, R306). -/
def markPlaced (pool key i m addr : Nat) (s : State) : State :=
  match Tbl.find s.pools pool with
  | none => s
  | some p => match layoutOf p (segLayout key) with
    | none => s
    | some l =>
      let home := (homeOf l (segNum key) i).1
      if home ≠ m || (replaces p home).isSome then addGroup { pool := pool, effects := [.placed pool key i m addr] } s else s

/-- A strip of a stripe in flight has been programmed where it was sent last: PLACEMENT and WRITTEN follow, and a strip on a spare is marked by a POOL record (R264, R296). -/
def stripWritten (q i m addr page : Nat) (s : State) : State :=
  match s.sifAt q with
  | none => s
  | some x =>
    let sent := match Tbl.find x.sent i with
      | some t => some t
      | none => x.placement.getD i none
    if sent ≠ some (m, addr) then s
    else
      let s1 := s.modSif q fun x => { x with
        written := setBit x.written i, missing := clrBit x.missing i, placement := x.placement.set i (some (m, addr)), sent := Tbl.del x.sent i
        pages := (x.pages.filter fun y => !(y.1 = m && y.2.1 = addr)) ++ [(m, addr, page)] }
      let s2 := sifTell q s1
      let s3 := if x.state = .committed then mapStrip m addr page s2 else s2
      sifCheck q (markPlaced x.pool x.stripe i m addr s3)

/-- A strip of a stripe in flight whose module has failed is sent again to its spare, or stays missing; one that has not left yet takes its new place (R296). -/
def stripResend (q i : Nat) (s : State) : State :=
  match s.sifAt q with
  | none => s
  | some x => match Tbl.find s.pools x.pool with
    | none => s
    | some p => match layoutOf p (segLayout x.stripe) with
      | none => s
      | some l =>
        match stripTarget p l (segNum x.stripe) i with
        | some (m, a) =>
          if x.state = .opened then s.modSif q fun x => { x with placement := x.placement.set i (some (m, a)) }
          else programStrip m { strip := a, pool := x.pool, use := .stripe q i } (sifTell q (s.modSif q fun x => { x with missing := setBit x.missing i, sent := Tbl.set x.sent i (m, a) }))
        | none =>
          sifCheck q (segMissing x.pool x.stripe i (sifTell q (s.modSif q fun x => { x with placement := x.placement.set i none, missing := setBit x.missing i, sent := Tbl.del x.sent i })))

/-! ## Lost stripes (R225, R305) -/

/-- Maximal runs of consecutive numbers in a rising list. -/
def runsGo : Nat → Nat → List Nat → List (Nat × Nat)
  | a, n, [] => [(a, n)]
  | a, n, x :: xs => if x = a + n then runsGo a (n + 1) xs else (a, n) :: runsGo x 1 xs

def runsOf : List Nat → List (Nat × Nat)
  | [] => []
  | x :: xs => runsGo x 1 xs

/-- Unit indices of a map that name one of these units, or an alias of one. -/
def namesIn (s : State) (t : Tbl MapEnt) (units : List Nat) : List Nat :=
  (t.filter fun e => match e.2 with
    | .zero => false
    | .unit k => units.contains k || (match Tbl.find s.grinder.units k with
      | some u => (match u.alias_ with | some a => units.contains a | none => false)
      | none => false)).map (·.1)

/-- Runs of units of a volume, in blocks. -/
def blockRuns (v : Ns) (l : List Nat) : List (Nat × Nat) := (runsOf l).map fun r => (r.1 * unitBlocks v, r.2 * unitBlocks v)

/-- Units of a namespace that name some units in the live volume (none) or in a snapshot's view (R170). -/
def lostViews (s : State) (units : List Nat) (nsid : Nat) (v : Ns) : List (Option Nat × List Nat) :=
  ((none, namesIn s v.map units) :: (s.snaps.views.filter fun e => e.2.nsid = nsid).map fun e => (some e.1, namesIn s e.2.map units)).filter fun x => x.2 ≠ []

/-- The poisoned runs of a namespace over all its views, in blocks (R305). -/
def lostRuns (s : State) (units : List Nat) (nsid : Nat) (v : Ns) : List (Nat × Nat) :=
  blockRuns v (sortBy (fun a b => decide (a < b)) ((lostViews s units nsid v).flatMap (·.2))).eraseDups

/-- The deferred error of one maximal run of a namespace's poisoned blocks, over all its views (R174, R177); the live view is the epoch that the next cut will make. -/
def deferredOf (s : State) (cause pool nsid : Nat) (v : Ns) (views : List (Option Nat × List Nat)) (r : Nat × Nat) : Deferred :=
  let in_ := (views.filter fun x => x.2.any fun u => decide (r.1 ≤ u) && decide (u < r.1 + r.2)).map (·.1)
  let eps := in_.map fun e => e.getD s.snaps.next
  { seq := 0, nsid := nsid, cause := cause, pool := pool, slba := r.1 * unitBlocks v, nlb := r.2 * unitBlocks v, time := s.time
    epochFirst := BitVec.ofNat 64 (eps.foldl min (eps.headD 0)), epochLast := BitVec.ofNat 64 (eps.foldl max 0), live := in_.contains none }

/-- What the loss of some units does to one namespace, for the record group that carries it: the poison of every view, and its deferred errors (R170, R174). -/
def lossEffects (s : State) (cause pool : Nat) (units : List Nat) (nsid : Nat) (v : Ns) : List Effect :=
  let views := lostViews s units nsid v
  let all := (sortBy (fun a b => decide (a < b)) (views.flatMap (·.2))).eraseDups
  views.flatMap (fun x => (blockRuns v x.2).map fun r => .poison nsid x.1 r.1 r.2 0)
    ++ (runsOf all).map fun r => .deferred v.slice (deferredOf s cause pool nsid v views r)

/-- STRIPE_LOST or STRIPE_SUSPECT records, each with at most 8 ranges (R508). -/
def stripeEvents (code pool key : Nat) : Nat → List (Nat × Nat × Nat) → State → State
  | 0, _, s => s
  | f + 1, rs, s =>
    let part := rs.take 8
    let body := le8 pool ++ le8 part.length ++ zeros 6 ++ le64 key ++ part.flatMap fun r => le32 r.1 ++ le64 r.2.1 ++ le64 r.2.2
    let s1 := event 3 code body s
    if 8 < rs.length then stripeEvents code pool key f (rs.drop 8) s1 else s1

/-- Units with data in a segment are lost, as the maps stand once every group made so far has committed: LOST, the poison of every view, the deferred errors and the repair that follows go into one record group (R170, R174, R225, R305; code 0x42 with CAUSE 1, or 0x43 with CAUSE 2 for a suspect stripe). Until it commits, reads of the segment end with Unrecovered Read Error (R298). -/
def loseUnits (code alarm cause pool key : Nat) (units : List Nat) (s : State) : State :=
  let fresh := units.filter fun u => (Tbl.find s.grinder.units u).any (fun r => !r.lost) && !((openGroups s).any fun g => g.effects.any fun e => match e with
    | .lose l => l.contains u
    | _ => false)
  let t := ahead s
  let hit := (t.ns.map fun e => (e.1, lostRuns t fresh e.1 e.2)).filter fun e => e.2 ≠ []
  let ranges := hit.flatMap fun e => e.2.map fun r => (e.1, r.1, r.2)
  let s2 := raiseAlarm alarm (stripeEvents code pool key (ranges.length + 1) ranges s)
  let eff := t.ns.flatMap fun e => lossEffects t cause pool fresh e.1 e.2
  redoGone (addGroup { pool := pool, effects := eff ++ [.lose fresh, .repairs (hit.map (·.1))], notes := fresh.flatMap (setRecord t fun u => { u with lost := true }) } s2)

/-- A segment with more than m strips missing is lost (R305). -/
def stripeLost (pool key : Nat) (s : State) : State :=
  match Tbl.find s.pools pool with
  | none => s
  | some p => match Tbl.find p.segs key with
    | none => s
    | some g =>
      if g.lost then s
      else
        let s1 := s.modPool pool fun p => { p with lost := p.lost + 1, segs := Tbl.upd p.segs key fun g => { g with lost := true } }
        loseUnits 0x42 0x40 1 pool key g.units s1

/-- Look at one segment: fewer than k strips left means it is lost. -/
def segCheck (pool key : Nat) (s : State) : State :=
  match Tbl.find s.pools pool with
  | none => s
  | some p => match Tbl.find p.segs key, layoutOf p (segLayout key) with
    | some g, some l =>
      if (redundancy l g).isNone && (sifOfSeg s pool key).all (fun x => x.2.state = .committed) then stripeLost pool key s else s
    | _, _ => s

def segChecks (pool : Nat) : List Nat → State → State
  | [], s => s
  | k :: ks, s => segChecks pool ks (segCheck pool k s)

/-- A strip of a segment cannot be produced: it is missing until rebuild has written it again (R299, R304). -/
def stripLost (pool key i : Nat) (s : State) : State := segCheck pool key (segMissing pool key i s)

/-- A strip at an address of a module is lost, whichever pool it belongs to. -/
def stripLostAt (m addr : Nat) (s : State) : State :=
  match s.pools.findSome? fun e => (segOfStrip e.2 m addr).map fun x => (e.1, x) with
  | some (pool, key, i) => stripLost pool key i s
  | none => s

def stripsLostAt (m : Nat) : List Nat → State → State
  | [], s => s
  | a :: as, s => stripsLostAt m as (stripLostAt m a s)

/-! ## Members (R283, R291, R303, R306, R307) -/

/-- Rebuilt bits stay valid while the spare that the list assigns stays the same, copy-back bits while the replacement is being filled (R283, R303, R306). -/
def keepBits (old new : Pool) : Pool :=
  { new with rebuilt := new.rebuilt.filter fun e =>
      let m := e.1 / 2 ^ 48
      let addr := e.1 % 2 ^ 48
      if 96 ≤ m then (replaces new (m - 96)).isSome && !(new.failed.any fun f => f.module = m - 96 && f.state ≠ 4)
      else match layoutOf new (addr / 2 ^ 36) with
        | some l => let t := addr % 2 ^ 36 / l.w; spareOf new l t m = spareOf old l t m
        | none => false }

/-- Recount the missing strips of every segment by the placement that now holds (R299, R303). -/
def recount (p : Pool) : Pool :=
  { p with segs := Tbl.mapVals p.segs fun key g => match layoutOf p (segLayout key) with
      | none => g
      | some l => { g with missing := (List.range l.w).foldl (fun m i =>
          if (stripValid p l (segNum key) i).isNone then setBit m i else m) g.missing } }

/-- Strips of stripes in flight that were on their way to a module and are not acknowledged go to their spares (R296). -/
def resendFrom (m : Nat) : List (Nat × Sif) → State → State
  | [], s => s
  | (q, x) :: l, s =>
    let mine := (List.range (x.k + x.m)).filter fun i => !hasBit x.written i && match Tbl.find x.sent i, x.placement.getD i none with
      | some (n, _), _ => n = m
      | none, some (n, _) => n = m
      | none, none => false
    resendFrom m l (if x.state = .writing ∨ x.state = .opened then mine.foldl (fun s i => stripResend q i s) s else s)

/-- The pool that a module is a member of, or whose failure list names it. -/
def poolOf (s : State) (m : Nat) : Option Nat :=
  (s.pools.find? fun e => (poolMembers e.2).contains m || e.2.failed.any fun f => f.module = m || f.replacement = some m).map (·.1)

/-- A member joins the failure list; its segments are recounted, bits on it fall, strips in flight are sent to spares (R291, R296, R303). -/
def failMember (pool m st : Nat) (s : State) : State :=
  match Tbl.find s.pools pool with
  | none => s
  | some p =>
    if 8 ≤ p.failed.length && !(p.failed.any fun f => f.module = m) then s
    else
      let ent : FailEnt := { module := m, state := st, hours := s.aon.hours }
      let p2 := { p with failed := if p.failed.any fun f => f.module = m then p.failed.map fun f => if f.module = m then { f with state := st, replacement := f.replacement.filter (· ≠ m) } else f
                                   else p.failed ++ [ent] }
      let s1 := configGroup pool 0x14 (superWrite pool (s.modPool pool fun _ => recount (keepBits p p2)))
      let s2 := if st = 1 then resendFrom m s1.carafe.sif s1 else s1
      segChecks pool (match Tbl.find s2.pools pool with | some p => p.segs.map (·.1) | none => []) s2

/-- A module is declared failed: event, alarm, failure list of its pool, or state 7 for a free one (R290, R291, R508). -/
def declareFailed (m cause : Nat) (s : State) : State :=
  let ev := fun (pool : Nat) (s : State) => raiseAlarm 0x47 (event 2 0x41 (le8 m ++ le8 pool ++ le8 cause) s)
  match poolOf s m with
  | some pool => failMember pool m 1 ((ev pool s).modMod m fun x => { x with returned := false })
  | none => ev 0xFF (if cause = 1 then s else s.modMod m fun x => { x with stand := .retired, retiredSerial := match x.descr with | some d => d.serial | none => 0 })

/-- Entries of the failure list without a replacement. -/
def openFails (p : Pool) : Nat := (p.failed.filter fun f => f.replacement.isNone).length

/-- A block of the module can still give space: one queued, one whose move or erase is under way, or a closed one that holds garbage (R362, R367). -/
def reclaimLeft (m : Module) : Bool :=
  m.media.reloc ≠ [] || m.media.blocks.any fun e => match e.2.state with
    | .source | .dirty => true
    | .closed => decide ((validStrips m e.1).length < e.2.written)
    | _ => false

/-- Flash management retires a module at its end as MODULE_RETIRE does; refused, it goes on until its writes stall with nothing to reclaim (R367). -/
def endModule (m : Nat) (s : State) : State :=
  if !moduleSpent (s.mod m) then s
  else match poolOf s m with
    | none => s.modMod m fun x => { x with stand := .retired, retiredSerial := match x.descr with | some d => d.serial | none => 0 }
    | some pool => match Tbl.find s.pools pool with
      | none => s
      | some p =>
        if p.failed.any fun f => f.module = m || f.replacement = some m then s
        else if openFails p < p.cur.d then failMember pool m 3 s
        else if mediaStalled (s.mod m) && !reclaimLeft (s.mod m) then declareFailed m 2 s
        else s

/-- OWNER_FENCED on a pool that this head believes it owns (R334, R508). -/
def ownerFenced (m : Nat) (held : W32) (s : State) : State :=
  match poolOf s m with
  | none => s
  | some pool => match Tbl.find s.pools pool with
    | none => s
    | some p =>
      if !p.owned then s
      else
        let s1 := s.modPool pool fun p => { p with fenced := true }
        raiseAlarm 0x49 (event 3 0x47 (le8 pool ++ le8 m ++ zeros 2 ++ le32 p.ownerGen.toNat ++ le32 held.toNat) (setAna pool .inaccessible s1))

/-! ## Commit of a record group (R245, R258, R264) -/

/-- The fingerprint record of 40 bytes: the digest, the UNIT field of R217, 2 reserved bytes (R232). -/
def printRecord (key : Nat) (digest : List Byte) : List Byte := fit 32 digest ++ leBytes 6 (key % 2 ^ 44 + unitPool key % 8 * 2 ^ 44) ++ zeros 2

/-- Units created by the group are pending no longer and enter the fingerprint log (R220, R232). -/
def commitUnits : List Nat → State → State
  | [], s => s
  | k :: ks, s => match Tbl.find s.grinder.units k with
    | none => commitUnits ks s
    | some u =>
      let s1 := cacheWrite 1 k (s.modUnit k fun u => { u with pending := false })
      commitUnits ks { s1 with grinder := { s1.grinder with log := s1.grinder.log ++ [(unitPool k, printRecord k u.digest)] } }

/-- Writes of a committed group reach the maps and leave the Carafe (R245). -/
def commitWrites : List Nat → State → State
  | [], s => s
  | id :: ids, s => match Tbl.find s.carafe.own id with
    | none => commitWrites ids s
    | some d =>
      let s1 := repairedWrite id (applyWrite id d s)
      commitWrites ids { s1 with carafe := { s1.carafe with own := Tbl.del s1.carafe.own id } }

/-- The stored bytes of a slot in a group, by the group's header: the slot and an equal share of header and final padding (R239). -/
def storedShare (s : State) (pool grp clen : Nat) : Nat :=
  match Tbl.find s.pools pool with
  | none => roundUp clen 16
  | some p => match layoutOf p (grp / 2 ^ 45) with
    | none => roundUp clen 16
    | some l => match Tbl.find p.segs (segKey l.id (grp % 2 ^ 45 / max 1 l.granules)) with
      | none => roundUp clen 16
      | some g =>
        let h := (g.data.drop (grp % 2 ^ 45 % max 1 l.granules * 512)).take 16
        roundUp clen 16 + (hdrNat h 8 2 * 512 - (hdrNat h 10 2 * 16 - 160)) / max 1 (hdrNat h 5 1)

/-- A unit has moved (R310, R361): it takes its new GROUP and its new segment; one that has been freed meanwhile stays garbage. -/
def commitMove (u grp off : Nat) (s : State) : State :=
  match Tbl.find s.grinder.units u with
  | none => s
  | some r =>
    if !r.live || r.lost then s
    else
      let pool := unitPool u
      let s1 := s.modPool pool (dropFromSegs u)
      let s2 := s1.modPool pool fun p => match layoutOf p (grp / 2 ^ 45) with
        | none => p
        | some l => { p with segs := Tbl.upd p.segs (segKey l.id (grp % 2 ^ 45 / max 1 l.granules)) fun g => { g with units := g.units ++ [u] } }
      s2.modUnit u fun r => { r with group := grp, offset := off, stored := storedShare s2 pool grp r.clen }

def commitMoves : List (Nat × Nat × Nat) → State → State
  | [], s => s
  | (u, g, o) :: l, s => commitMoves l (commitMove u g o s)

/-- Trim every strip of a segment (R295). -/
def trimSeg (p : Pool) (key : Nat) (s : State) : State :=
  match layoutOf p (segLayout key) with
  | none => s
  | some l => (List.range l.w).foldl (fun s i => match stripValid p l (segNum key) i with
      | some (m, a) => trimStrip m a s
      | none => s) s

/-- A released segment's number is free once its record commits; a lost one leaves the count (R295, R305). -/
def commitRelease (pool key : Nat) (s : State) : State :=
  match Tbl.find s.pools pool with
  | none => s
  | some p =>
    let wasLost := match Tbl.find p.segs key with | some g => g.lost | none => false
    (trimSeg p key s).modPool pool fun p => { p with segs := Tbl.del p.segs key, lost := if wasLost then p.lost - 1 else p.lost }

/-- A stripe whose group commits is COMMITTED and its strips are mapped (R264, R348). -/
def commitSif (q : Nat) (s : State) : State :=
  match s.sifAt q with
  | none => s
  | some x => x.pages.foldl (fun s y => mapStrip y.1 y.2.1 y.2.2 s) (s.modSif q fun x => { x with state := .committed })

/-- A stripe-in-flight entry is retired once VERIFIED covers every written strip; moves carried by the stripe are then journaled (R264, R361 steps 2 and 3). -/
def sifRetire (q : Nat) (s : State) : State :=
  match s.sifAt q with
  | none => s
  | some x =>
    if x.state = .committed && x.written &&& ~~~ x.verified = 0 then
      let s1 := sifTell q { s with carafe := { s.carafe with sif := Tbl.del s.carafe.sif q } }
      let s2 := s1.modPool x.pool fun p => { p with segs := Tbl.upd p.segs x.stripe fun g => { g with settled := true } }
      if x.moves = [] then s2 else addGroup { pool := x.pool, moves := x.moves } s2
    else s

def endLocks : List Nat → State → State
  | [], s => s
  | n :: ns, s => endLocks ns (fillEntries (dropPrivet n s))

/-- Dataset Management locks its next range (R159). -/
def nextRange (id : Nat) (c : Inflight) (s : State) : State :=
  let s1 := dropLock c.lock s
  if c.ranges.drop 1 = [] then completeCmd id nsOk s1
  else fillEntries (reenter id { c with ranges := c.ranges.drop 1, lock := none, stage := .running } s1)

/-- The group of a command has committed: it completes, or goes on with its next range. -/
def commitCmd (id : Nat) (s : State) : State :=
  match Tbl.find s.host.inflight id with
  | none => s
  | some c => if c.op = .dsm && !c.mute && decide (1 < c.ranges.length) then nextRange id c s else completeCmd id nsOk s

def completeAll : List Nat → State → State
  | [], s => s
  | id :: ids, s => completeAll ids (commitCmd id s)

/-- The group that commits next (R258). -/
def nextCommit (s : State) : Option (Nat × Group) := s.journal.groups.find? fun e => !e.2.committed

/-- A group may commit: whole, acknowledged, and so are the stripes that it commits. -/
def mayCommit (s : State) (n : Nat) (g : Group) : Bool :=
  g.whole && (g.peerAck || !peerPresent s) && s.carafe.sif.all fun e => e.2.gseq ≠ n || e.2.commitAck || !peerPresent s

/-! ## Moves within a module (R361) -/

/-- GC_INTENT has committed: the strips of the source may be copied (R361). -/
def startMove (n key : Nat) (s : State) : State := s.modBlock n key fun b => { b with copying := true }

/-- One strip takes its new page, unless it has been trimmed or written anew meanwhile. -/
def commitStrip (n key strip page : Nat) (s : State) : State :=
  match Tbl.find (s.mod n).media.map strip with
  | some p => if blkOf p = key then bumpMedia n 11 1 (mapStrip n strip page s) else s
  | none => s

def commitStrips : List (Nat × Nat × Nat × Nat) → State → State
  | [], s => s
  | (n, key, strip, page) :: l, s => commitStrips l (commitStrip n key strip page s)

/-- Everything that a committing group changes. -/
def commitGroup (n : Nat) (g : Group) (s : State) : State :=
  let counted := (touched s g).eraseDups
  let pages := changedPages s g
  let sifs := (s.carafe.sif.filter fun e => e.2.gseq = n).map (·.1)
  let s1 := { s with journal := { s.journal with groups := Tbl.upd s.journal.groups n fun g => { g with committed := true } } }
  let s2 := sifs.foldl (fun s q => commitSif q s) s1
  let s3 := applyEffects g.effects (applyMap g.map (commitUnits g.units s2))
  let s4 := commitMoves g.moves (commitWrites g.writes s3)
  let s5 := g.released.foldl (fun s r => commitRelease r.1 r.2 s) s4
  let s5 := g.intents.foldl (fun s x => startMove x.1 x.2 s) (commitStrips g.stripMoves s5)
  let s6 := if g.writes ≠ [] && peerPresent s5 then jalSend (.releaseMirror g.writes) s5 else s5
  let s6 := match g.reply with
    | some op => finishOp op (replyOk []) s6
    | none => s6
  let s7 := completeAll g.cmds (endLocks g.locks s6)
  sifs.foldl (fun s q => sifRetire q s) (notePages pages (settleUnits counted s7))

end Sys2Proof.Machine
end

