-- ==== Sys2Proof/Machine/HostIo.lean ====
section
/-! DEFINITION. Machine/HostIo.lean: fetching host commands, their Privet entries, staging and completion of writes, and the I/O commands (R155 to R179, R184, R194, R244, R277). -/
namespace Sys2Proof.Machine
open Sys2Proof

/-! ## Small readings -/

def cmdAt (s : State) (id : Nat) : Option Inflight := Tbl.find s.host.inflight id

/-- Commands that carry data between host and device. -/
def transfers : NvmOp → Bool
  | .write | .read | .compare | .compareWrite => true
  | _ => false

/-- Bytes that a command transfers between host and device. -/
def xferBytes (v : Ns) (op : NvmOp) (nlb : Nat) (ranges : List (Nat × Nat)) : Nat :=
  if transfers op then nlb * blockBytes v else if op = .dsm then 16 * ranges.length else 0

/-- Bytes that a command moves, for its cost in the round robin (R194). -/
def cmdCost (v : Ns) (e : SubEntry) : Nat :=
  match e.op with
  | some op => (if op = .compareWrite then 2 else 1) * max 4096 (if transfers op then e.nlb * blockBytes v else 0)
  | none => 4096

/-! ## The checks of a fetched command (R157) -/

/-- Counts beyond R154 in the entry's own fields. -/
def countBad (e : SubEntry) (op : NvmOp) : Bool :=
  (op = .writeZeroes && decide (65536 < e.nlb)) || (op = .dsm && match e.ranges with
    | some l => decide (256 < l.length) || l.isEmpty
    | none => false)

/-- A transfer above 2 MiB (R154). -/
def lengthBad (v : Ns) (e : SubEntry) (op : NvmOp) : Bool := transfers op && decide (2 * 2 ^ 20 < e.nlb * blockBytes v)

/-- The range lies beyond the namespace. -/
def rangeBad (v : Ns) (e : SubEntry) (op : NvmOp) : Bool :=
  match op with
  | .flush => false
  | .dsm => (e.ranges.getD []).any fun r => decide (openBlocks v < r.1 + r.2)
  | _ => decide (openBlocks v < e.slba + e.nlb)

/-- What a fetched command's checks find: a refusal, to be forwarded, or to be executed here. -/
inductive Fetched | refuse (st : NStatus) | forward | execute
deriving DecidableEq, Repr

/-- The ANA state of a group on this head decides last (R157, R184). -/
def anaCheck (s : State) (pool : Nat) : Fetched :=
  match Tbl.find s.pools pool with
  | none => .refuse nsAnaInaccessible
  | some p => match p.ana with
    | .optimized => .execute
    | .nonOptimized => .forward
    | .inaccessible => .refuse nsAnaInaccessible
    | .change => .refuse nsAnaTransition

/-- A Flush of every namespace of a slice: refused while one of their groups is in Change or Inaccessible here, else executed here (R184; log entry 179). -/
def anaAll (s : State) (slice : Nat) : Fetched :=
  let l := (sliceNs s slice).map fun n => anaCheck s ((Tbl.find s.ns n).elim 255 (·.pool))
  if l.contains (.refuse nsAnaTransition) then .refuse nsAnaTransition
  else if l.contains (.refuse nsAnaInaccessible) then .refuse nsAnaInaccessible else .execute

/-- The checks of R157 in order, for a command on a controller of a slice; a command that the other head forwards has had its descriptors checked there (`c` none). -/
def fetchCheck (c : Option Ctrl) (slice : Nat) (e : SubEntry) (s : State) : Fetched :=
  match e.op with
  | none => .refuse nsInvalidOpcode
  | some op =>
    if !e.fieldsOk || countBad e op then .refuse nsInvalidField
    else if op = .flush && e.nsid = 0xFFFFFFFF then anaAll s slice
    else match Tbl.find s.ns e.nsid with
      | none => .refuse nsInvalidNs
      | some v =>
        if v.slice ≠ slice then .refuse nsInvalidNs
        else if lengthBad v e op then .refuse nsInvalidField
        else if rangeBad v e op then .refuse nsLbaRange
        else match c.bind fun x => ptrCheck x (xferBytes v op e.nlb (e.ranges.getD [])) (op = .write) e.ptr with
          | some st => .refuse st
          | none => if op = .dsm && e.ranges.isNone then .refuse nsDataTransfer else anaCheck s v.pool

/-- The command as it stands in flight. -/
def asInflight (ctrl sq slice : Nat) (op : NvmOp) (e : SubEntry) : Inflight :=
  { ctrl := ctrl, sq := sq, cid := e.cid, op := op, nsid := e.nsid, slba := e.slba, nlb := e.nlb, ranges := e.ranges.getD [],
    deac := e.deac, slice := slice, ptr := e.ptr, cid2 := e.cid2, stage := .running }

/-- Put a command in flight that the other head executes (R162). -/
def forwardOut (c : Inflight) (s : State) : State := jalSend (.forwardCmd s.host.nextSeq) (enterBare { c with away := true } s)

/-! ## Page requests (R110, R187) -/

/-- One page request, in a group of its own, for each page that the host has to bring in; the command waits for the answers. -/
def requestPages (c : Ctrl) (pasid id : Nat) : List Nat → State → State
  | [], s => s
  | g :: gs, s =>
    let n := (s.port c.port).nextGroup
    let s1 := s.modPort c.port fun r => { r with nextGroup := (n + 1) % 512, pageReqs := Tbl.set r.pageReqs n (pasid, g, id) }
    requestPages c pasid id gs (emit (.pageRequest c.port c.upper n pasid g) (s1.modCmd id fun x => { x with waits := x.waits ++ [n] }))

/-- The command that has just entered under a number has its data's pages translated; those that are absent are asked for. -/
def reachCmd (id : Nat) (c : Ctrl) (e : SubEntry) (len : Nat) (s : State) : State :=
  match pasidOf c s with
  | none => s
  | some x =>
    let pages := dataPages c len e.ptr
    let here := pages.filter fun g => !e.absent.contains g
    let asked := emitAts c x (pages.filter e.absent.contains) (translate c.port c.upper x here s)
    if (capsOf c.port c.upper s).priEnable then requestPages c x id (pages.filter e.absent.contains) asked else asked
where
  emitAts (c : Ctrl) (x : Nat) (gs : List Nat) (s : State) : State :=
    if (capsOf c.port c.upper s).atsEnable then gs.foldl (fun s g => emit (.atsRequest c.port c.upper x g) s) s else s

/-! ## Arbitration among the queues of a controller (R154, R155) -/

/-- The queues of a class with an entry to fetch, in the order that follows the queue served last. -/
def busyQueues (c : Ctrl) (prio : Option Nat) : List Nat :=
  let l := (c.sqs.filter fun q => q.1 ≠ 0 && q.2.head ≠ q.2.tail && (match prio with | some p => decide (q.2.prio = p) | none => true)).map (·.1)
  (l.filter fun n => decide (c.rrLast < n)) ++ l.filter fun n => decide (n ≤ c.rrLast)

/-- Round robin with the arbitration burst: the queue served last goes on while its burst lasts. -/
def rrNext (c : Ctrl) (prio : Option Nat) : Option Nat :=
  let l := busyQueues c prio
  if 0 < c.rrLeft && l.contains c.rrLast then some c.rrLast else l.head?

/-- Arbitration Burst: 2^AB commands, values of AB above 6 acting as 6 (R154). -/
def burst (c : Ctrl) : Nat := 2 ^ min 6 ((Tbl.getD c.features 1 0).toNat % 8)

/-- Weights of the high, medium and low classes, 0-based in the Arbitration feature. -/
def weights (c : Ctrl) : List Nat :=
  let f := (Tbl.getD c.features 1 0).toNat
  [f / 2 ^ 24 % 256 + 1, f / 2 ^ 16 % 256 + 1, f / 2 ^ 8 % 256 + 1]

/-- CC.AMS selects weighted round robin with an urgent class. -/
def isWrr (c : Ctrl) : Bool := c.cc.toNat / 2 ^ 11 % 8 = 1

/-- The first class, high to low, with an entry and weight left. -/
def classOf (c : Ctrl) (left : List Nat) : Option Nat := [1, 2, 3].find? fun p => busyQueues c (some p) ≠ [] && decide (0 < left.getD (p - 1) 0)

/-- The queue that the controller's arbitration serves next, and what is left of the weights before it: a new round begins where none has weight left. -/
def arbNext (c : Ctrl) : Option (Nat × List Nat) :=
  if !isWrr c then (rrNext c none).map fun n => (n, c.credits)
  else match rrNext c (some 0) with
    | some n => some (n, c.credits)
    | none => match classOf c c.credits, classOf c (weights c) with
      | some p, _ => (rrNext c (some p)).map fun n => (n, c.credits)
      | none, some p => (rrNext c (some p)).map fun n => (n, weights c)
      | none, none => none

/-- What serving a queue leaves: its burst, and the weight of its class. -/
def arbServed (sq : Nat) (left : List Nat) (c : Ctrl) : Ctrl :=
  let p := (Tbl.find c.sqs sq).elim 0 (·.prio)
  { c with
    rrLeft := (if c.rrLast = sq && decide (0 < c.rrLeft) then c.rrLeft else burst c) - 1
    rrLast := sq
    credits := if isWrr c && p ≠ 0 then left.set (p - 1) (left.getD (p - 1) 0 - 1) else left }

/-! ## Deficit round robin among slices (R155, R194) -/

/-- A slice has a command that the engine could start: an entry in a submission queue, and a Privet entry to take. -/
def hasWork (s : State) (slice : Nat) : Bool :=
  entryFree slice s && (Tbl.find s.slices slice).any (fun x => x.state = .active)
    && s.host.ctrls.any fun c => c.2.slice = slice && c.2.enabled && !c.2.discovery && (arbNext c.2).isSome

/-- The next slice with work after one, in order of number; `wrap` says that a new round begins with it. -/
def nextSlice (s : State) (after : Option Nat) : Option (Nat × Bool) :=
  let l := (s.slices.map (·.1)).filter (hasWork s)
  match after with
  | none => l.head?.map fun n => (n, true)
  | some a => match l.find? fun n => decide (a < n) with
    | some n => some (n, false)
    | none => l.head?.map fun n => (n, true)

/-- The turn of a slice passes by on the way from one slice to another, `wrap` over the end of the table. -/
def turnPasses (after : Option Nat) (to_ : Nat) (wrap : Bool) (n : Nat) : Bool :=
  match after with
  | none => n ≠ to_
  | some a => if wrap then decide (a < n) || decide (n < to_) else decide (a < n) && decide (n < to_)

/-- The turn passes to the next slice with work, whose deficit grows by its quantum; a slice passed over has nothing to start and loses its deficit; a new round takes the weights that now hold. -/
def passTurn (s : State) : State :=
  match nextSlice s s.host.turn with
  | none => { s with slices := Tbl.mapVals s.slices (fun _ x => { x with deficit := 0 }), host := { s.host with turn := none } }
  | some (n, wrap) =>
    let s0 := { s with slices := Tbl.mapVals s.slices fun k x => if turnPasses s.host.turn n wrap k then { x with deficit := 0 } else x }
    let s1 := if wrap then { s0 with slices := Tbl.mapVals s0.slices fun _ x => { x with quantum := x.weight } } else s0
    { s1.modSlice n (fun x => { x with deficit := x.deficit + x.quantum * 4096 }) with host := { s1.host with turn := some n } }

/-- A slice with nothing to start loses its deficit at the end of its turn. -/
def endTurn (s : State) : State :=
  match s.host.turn with
  | none => s
  | some n => if hasWork s n then s else { s.modSlice n (fun sl => { sl with deficit := 0 }) with host := { s.host with turn := some n } }

/-- Rounds pass until a slice that alone has work has a deficit that covers a cost, at most n of them. -/
def soloRounds (slice cost : Nat) : Nat → State → State
  | 0, s => s
  | n + 1, s => if (Tbl.find s.slices slice).any (fun x => decide (x.deficit < cost)) && (nextSlice s (some slice)).any (fun x => decide (x.1 = slice))
      then soloRounds slice cost n (passTurn s) else s

/-- The turn stands where a slice may be served: it moves on from a slice without work. -/
def findTurn (s : State) : State :=
  match s.host.turn with
  | some n => if hasWork s n then s else passTurn (endTurn s)
  | none => passTurn s

/-! ## NVME_COMMAND_FETCH -/

/-- Host commands may be fetched from a controller now (R156, R198). -/
def mayFetch (c : Ctrl) (s : State) : Bool :=
  s.boot.stage = .ready && c.enabled && !s.host.stopped && decide (s.host.inflight.length < 262144)
    && (Tbl.find s.slices c.slice).any fun x => x.state = .active

/-- The queue's head moves past the entry, which a PCIe controller reads from host memory (R187). -/
def takeEntry (ctrl sq : Nat) (s : State) : State :=
  match Tbl.find s.host.ctrls ctrl with
  | none => s
  | some c => match Tbl.find c.sqs sq with
    | none => s
    | some q =>
      let s1 := if c.fabrics then s else emit (.nvmeQueueRead ctrl sq q.head (pasidOf c s)) (reachPages c [(q.base.toNat + 64 * q.head) / 4096] s)
      s1.modCtrl ctrl fun c => { c with sqs := Tbl.upd c.sqs sq fun q => { q with head := (q.head + 1) % max 1 q.size } }

/-- A command that fails a check completes at once; a length fault enters the Error Information log (R157, R168). -/
def refuseCmd (ctrl sq slice : Nat) (e : SubEntry) (st : NStatus) (s : State) : State :=
  let c : Inflight := asInflight ctrl sq slice (e.op.getD .flush) e
  let s1 := if st = nsDataTransfer then errLog ctrl c st locDptr e.slba s else s
  settleAll (postCpls ctrl (cplsOf c st) s1)

/-- A command of a queue whose turn has come is fetched and checked (R156, R157). -/
def startCmd (ctrl sq : Nat) (c : Ctrl) (e : SubEntry) (s : State) : State :=
  let len := match Tbl.find s.ns e.nsid, e.op with
    | some v, some op => xferBytes v op e.nlb (e.ranges.getD [])
    | _, _ => 0
  let id := s.host.nextSeq
  match fetchCheck (some c) c.slice e s, e.op with
  | .refuse st, _ => refuseCmd ctrl sq c.slice e st s
  | .forward, some op => reachCmd id c e len (forwardOut (asInflight ctrl sq c.slice op e) (if (transfers op && op ≠ .read) || op = .dsm then askData ctrl sq e.cid e.ptr s else s))
  | .execute, some op => reachCmd id c e len (enterCmd (asInflight ctrl sq c.slice op e) (if op = .dsm then askData ctrl sq e.cid e.ptr s else s))
  | _, none => s

/-- The entries of a command leave the queue: two of a fused pair. -/
def takeEntries (ctrl sq : Nat) (e : SubEntry) (s : State) : State :=
  if e.op = some .compareWrite then takeEntry ctrl sq (takeEntry ctrl sq s) else takeEntry ctrl sq s

/-- Entries that wait in a submission queue. -/
def queued (c : Ctrl) (sq : Nat) : Nat :=
  match Tbl.find c.sqs sq with
  | some q => (q.tail + q.size - q.head) % max 1 q.size
  | none => 0

/-- The fetch of a slice whose turn it is: with too little deficit for the command the turn passes, and the command stays in its queue (R194). -/
def fetchCmd (ctrl sq : Nat) (left : List Nat) (c : Ctrl) (e : SubEntry) (s : State) : State :=
  let cost := match Tbl.find s.ns e.nsid with
    | some v => cmdCost v e
    | none => 4096
  let s1 := soloRounds c.slice cost (ceilDiv cost 4096) s
  if (Tbl.find s1.slices c.slice).any (fun x => decide (x.deficit < cost)) then passTurn s1
  else
    let s2 := (takeEntries ctrl sq e (s1.modCtrl ctrl (arbServed sq left))).modSlice c.slice fun x => { x with deficit := x.deficit - cost }
    endTurn (startCmd ctrl sq c e s2)

/-- An admin command outside the table of R147: taken from the admin queue, it completes with Invalid Command Opcode. -/
def badAdmin (ctrl : Nat) (c : Ctrl) (e : SubEntry) (s : State) : State :=
  match Tbl.find c.sqs 0, e.op with
  | some q, none => if q.head = q.tail || !c.enabled then s else adminCpl ctrl e.cid nsInvalidOpcode 0 (takeEntry ctrl 0 s)
  | _, _ => s

/-- NVME_COMMAND_FETCH: of an I/O queue when its slice has the turn and its controller's arbitration serves it; of the admin queue for a command that has no row (R147, R155, R157). -/
def execNvmeCommandFetch (ctrl sq : Nat) (e : SubEntry) (s : State) : Res := onRun s fun s =>
  match Tbl.find s.host.ctrls ctrl with
  | none => s
  | some c =>
    if !mayFetch c s then s
    else if sq = 0 then badAdmin ctrl c e s
    else
      let s1 := findTurn s
      match arbNext c with
      | some (n, left) =>
        if n = sq && s1.host.turn = some c.slice && hasWork s1 c.slice && (e.op ≠ some .compareWrite || decide (2 ≤ queued c sq)) then fetchCmd ctrl sq left c e s1 else s1
      | none => s1

/-! ## Completion of a staged write (R30, R165, R208) -/

/-- Content of a dedup unit, its blocks as they read now. -/
def unitContent (s : State) (nsid u : Nat) : Nat :=
  match Tbl.find s.ns nsid with
  | none => 0
  | some v => (liveBlocks s nsid (u * unitBlocks v) (unitBlocks v)).zipIdx.foldl (fun n x => n + x.1 * 2 ^ (8 * blockBytes v * x.2)) 0

/-- The units of a completed write, widened and filled (R211). -/
def writeUnits (s : State) (id : Nat) (d : Desc) : List GUnit :=
  let r := descUnits d s
  (List.range (r.2 + 1 - r.1)).map fun i => { write := id, nsid := d.nsid, index := r.1 + i, content := unitContent s d.nsid (r.1 + i), at_ := s.time.toNat }

/-- A staged write's units go to the Grinder. -/
def reduceWrite (id : Nat) (s : State) : State :=
  match Tbl.find s.carafe.own id with
  | none => s
  | some d =>
    if d.reduced then s
    else
      let us := writeUnits s id d
      let s1 := s.modOwn id fun d => { d with reduced := true, left := us.length }
      { s1 with grinder := { s1.grinder with ready := s1.grinder.ready ++ us } }

/-- A synchronous relationship still waits for the target (R431). -/
def owesTarget (id : Nat) (s : State) : Bool := s.repls.any fun e => e.2.owed.contains id

/-- The write may complete: whole, acknowledged by the peer or under single-head rules, acknowledged by a synchronous target (R30, R413, R431). -/
def writeDone (id : Nat) (s : State) : Bool :=
  match Tbl.find s.carafe.own id with
  | some d => d.whole && !d.reduced && (d.peerAck || singleHead s) && !owesTarget id s
  | none => false

/-- LAG_BYTES of a source rises by what a host writes (R437). -/
def countLag (nsid bytes : Nat) (s : State) : State :=
  match replOf nsid s with
  | some (rel, r) => if r.source then s.modRepl rel fun x => { x with lag := x.lag + bytes, lagCut := x.lagCut + bytes } else s
  | none => s

/-- A synchronous write is whole on both heads of the target: the source is told (R431). -/
def ackReplica (id : Nat) (d : Desc) (s : State) : State :=
  match replOf d.nsid s with
  | some (rel, r) => (match r.staged.find? fun x => x.2 = id with
    | some (seq, _) =>
      let s1 := s.modRepl rel fun x => { x with staged := x.staged.filter fun y => y.2 ≠ id, changed := x.changed ++ [(d.slba, d.data.length)] }
      cluSend r.node (.replWriteAck (rel % 2 ^ 32) seq) s1
    | none => s)
  | none => s

/-- What a completing write means for the relationship of its volume. -/
def replFinish (id : Nat) (d : Desc) (s : State) : State :=
  match cmdAt s id with
  | some c => if c.replica then ackReplica id d s else countLag d.nsid d.bytes s
  | none => s

/-- Host reads and writes of a controller are counted (R148 page 0x02). -/
def countHost (id bytes : Nat) (s : State) : State :=
  match cmdAt s id with
  | none => s
  | some c => if c.forwarded then s else s.modCtrl c.ctrl fun t =>
      if c.op = .read || c.op = .verify || c.op = .compare then { t with reads := t.reads + 1, bytesRead := t.bytesRead + bytes }
      else { t with writes := t.writes + 1, bytesWritten := t.bytesWritten + bytes }

/-- Complete a write if it may, and hand it to the Grinder. -/
def tryFinish (id : Nat) (s : State) : State :=
  if writeDone id s then
    match Tbl.find s.carafe.own id with
    | none => s
    | some d =>
      reduceWrite id (completeCmd id nsOk (countHost id d.bytes (replFinish id d s)))
  else s

def tryFinishAll : List Nat → State → State
  | [], s => s
  | id :: ids, s => tryFinishAll ids (tryFinish id s)

/-- A synchronous relationship is suspended: the waiting writes complete without the target (R432). -/
def suspendRepl (rel : Nat) (st : ReplState) (s : State) : State :=
  match Tbl.find s.repls rel with
  | none => s
  | some x =>
    if x.source && x.sync then tryFinishAll x.owed (setRepl rel st (s.modRepl rel fun y => { y with owed := [] })) else setRepl rel st s

/-! ## Admission and staging (R168, R244) -/

/-- A write enters staging: its descriptor is taken and its data asked for. -/
def stageWrite (id : Nat) (c : Inflight) (s : State) : State :=
  let bytes := match Tbl.find s.ns c.nsid with
    | some v => c.nlb * blockBytes v
    | none => 0
  let d : Desc := { nsid := c.nsid, origin := if c.forwarded then 1 - headIndex s else headIndex s, granules := granules bytes, list := takeGranules (granules bytes) s, slba := c.slba, bytes := bytes }
  let s1 := { s with carafe := { s.carafe with own := Tbl.set s.carafe.own id d } }
  if c.replica then
    let s2 := (s1.modOwn id fun d => { d with whole := true, data := c.data }).modCmd id fun c => { c with stage := .staged }
    tryFinish id (if peerPresent s2 then jalSend (.mirrorData id c.nsid c.slba c.data) s2 else s2)
  else
    let s2 := s1.modCmd id fun c => { c with stage := .staging }
    if c.forwarded || c.op = .compareWrite then s2 else askData c.ctrl c.sq c.cid c.ptr s2

/-- Complete with Unrecovered Read Error at the first poisoned block (R171). -/
def poisonEnd (id : Nat) (c : Inflight) (lba : Nat) (s : State) : State :=
  completeCmd id nsUnrecovered (noteErr id c nsUnrecovered locNone lba s)

/-- A key that cannot encrypt new data: no wrapping key is held, the index is gone, or its generation is exhausted (R444, R453). -/
def keyBlocks (s : State) (v : Ns) : Bool :=
  keyExhausted v.key s || s.cipher.ktwk.isNone || !Tbl.has s.cipher.keys v.key

/-- A write of a volume that is a replication target diverges the relationship (R430). -/
def divergeTarget (nsid : Nat) (s : State) : State :=
  match replOf nsid s with
  | some (id, r) => if !r.source && r.state ≠ .diverged then setRepl id .diverged s else s
  | none => s

/-- Every unit of a kind, named by its first domain and their number, is fenced: no usable unit is left (R169, R493). -/
def kindGone (first n : Nat) (s : State) : Bool := (List.range n).all fun i => hasBit s.power.fenced (first + i)

/-- No cipher engine or no LDPC and parity unit is usable: a read of stored data has no unit (R169). -/
def readGone (s : State) : Bool := kindGone 24 2 s || kindGone 26 2 s

/-- Nor has a write, without a Grinder group. -/
def writeGone (s : State) : Bool := kindGone 19 5 s || readGone s

/-- The transfer of a command's data fails (R168): its staged bytes are discarded, its lock is released. -/
def failTransfer (id : Nat) (c : Inflight) (location : Nat) (s : State) : State :=
  completeCmd id nsDataTransfer (noteErr id c nsDataTransfer location c.slba (dropOwn id s))

/-- A host command whose data could not be moved ends with Data Transfer Error (R168); a stopped read of host memory has ended (R198). -/
def transferFails (id : Nat) (s : State) : State :=
  match cmdAt s id with
  | some c =>
    if c.stage = .stopped then completeCmd id nsAborted s
    else if (transfers c.op || c.op = .dsm) && c.stage ≠ .staged && c.stage ≠ .grouped then failTransfer id c locDptr s else s
  | none => s

/-- A PRP entry that the command needs is missing or misaligned (R168). -/
def listBad (c : Inflight) (s : State) : Bool :=
  match Tbl.find s.host.ctrls c.ctrl, Tbl.find s.ns c.nsid with
  | some t, some v => !c.forwarded && prpBad t (xferBytes v c.op c.nlb c.ranges) c.ptr
  | _, _ => false

/-- A write starts: capacity and key first, then admission; those that wait stand in Privet sequence order (R169, R244, R453). -/
def startWrite (id : Nat) (c : Inflight) (s : State) : State :=
  match Tbl.find s.ns c.nsid with
  | none => completeCmd id nsInvalidNs s
  | some v => match Tbl.find s.pools v.pool with
    | none => completeCmd id nsAnaInaccessible s
    | some p =>
      if freeSegs p < (writeLayout p).reserve then completeCmd id nsCapacity s
      else if keyBlocks s v || writeGone s then completeCmd id nsInternal s
      else
        let s1 := if c.replica then s else divergeTarget c.nsid s
        if s1.carafe.waiting = [] && admits (granules (c.nlb * blockBytes v)) s1 then stageWrite id c s1
        else { s1.modCmd id (fun c => { c with stage := .admitWait }) with carafe := { s1.carafe with waiting := sortBy (fun a b => decide (a < b)) (s1.carafe.waiting ++ [id]) } }

/-- A host command that a device fault has met, in a unit that has no sibling to redo it, ends with Internal Error unless its data is safe already; a write's staged bytes go (R169, R493). -/
def strandCmd (id : Nat) (s : State) : State :=
  match cmdAt s id with
  | none => s
  | some c =>
    if c.away || c.stage = .staged || c.stage = .grouped then s
    else completeCmd id nsInternal (dropOwn id { s with carafe := { s.carafe with waiting := s.carafe.waiting.filter (· ≠ id) } })

/-- A command waits for stored data. -/
def readingCmd (s : State) (id : Nat) : Bool := s.jobs.any fun e => decide (e.2.use = .host id)

/-- A running command with one of the given operations. -/
def runningCmd (s : State) (id : Nat) (op : NvmOp) : Option Inflight :=
  match cmdAt s id with
  | some c => if c.op = op && c.stage = .running && !c.away && c.waits.isEmpty && !readingCmd s id && (c.forwarded || c.replica || Tbl.has s.host.ctrls c.ctrl) then some c else none
  | none => none

def execWrite (id : Nat) (s : State) : Res := onRun s fun s =>
  match runningCmd s id .write with
  | some c => startWrite id c s
  | none => s

/-- The waiting write at the head of the line is admitted (R244). -/
def execWriteAdmission (s : State) : Res := onRun s fun s =>
  match s.carafe.waiting with
  | [] => s
  | id :: rest => match cmdAt s id with
    | none => { s with carafe := { s.carafe with waiting := rest } }
    | some c =>
      let bytes := match Tbl.find s.ns c.nsid with
        | some v => c.nlb * blockBytes v
        | none => 0
      if admits (granules bytes) s then stageWrite id c { s with carafe := { s.carafe with waiting := rest } } else s

/-- Send a synchronous write to the target of its relationship (R431). -/
def sendSync (id : Nat) (c : Inflight) (data : List Nat) (s : State) : State :=
  match replOf c.nsid s, Tbl.find s.ns c.nsid with
  | some (rel, r), some v =>
    if syncActive r then
      cluSend r.node (.replWrite rel (c.slba * blockBytes v) id (data.length * blockBytes v) data) (s.modRepl rel fun x => { x with owed := x.owed ++ [id] })
    else s
  | _, _ => s

/-- The last byte of a write has arrived and its length check passed (`some` blocks), or its transfer failed (R166, R168); a read that a squash has stopped ends here (R198). -/
def execWriteStagedWhole (id : Nat) (got : Option (List Nat)) (s : State) : Res := onRun s fun s =>
  match cmdAt s id with
  | none => s
  | some c =>
    if c.stage = .stopped then completeCmd id nsAborted s
    else if c.stage ≠ .staging then s
    else match got with
      | none => failTransfer id c locDptr s
      | some data =>
        if listBad c s then failTransfer id c locPrp2 s
        else if data.length ≠ c.nlb then s
        else
          let s1 := (s.modOwn id fun d => { d with whole := true, data := data }).modCmd id fun c => { c with stage := .staged }
          let s2 := if peerPresent s1 then jalSend (.mirrorData id c.nsid c.slba data) s1 else s1
          tryFinish id (sendSync id c data s2)

/-! ## Commands that only change maps (R159, R170, R172) -/

/-- Whole units that a block range covers: first unit and count. -/
def wholeUnits (v : Ns) (a n : Nat) : Nat × Nat :=
  let u := max 1 (unitBlocks v)
  let f := ceilDiv a u
  (f, (a + n) / u - f)

/-- The group of a command over one range: the blocks read as zeroes; whole units take a zero marker or lose their entry. -/
def zeroGroup (id : Nat) (c : Inflight) (v : Ns) (a n : Nat) (ent : Option MapEnt) (s : State) : State :=
  let w := wholeUnits v a n
  addMapGroups { pool := v.pool, cmds := [id], effects := [.zero c.nsid a n (c.lock.getD id)] }
    ((List.range w.2).map fun i => (c.nsid, w.1 + i, ent)) (divergeTarget c.nsid (s.modCmd id fun c => { c with stage := .grouped }))

/-- A completed write over some blocks has not had its map update journaled: a change of the same blocks is journaled after it (R165). -/
def stagedOver (nsid a n : Nat) (s : State) : Bool :=
  s.carafe.own.any fun e => !e.2.grouped && e.2.nsid = nsid && decide (e.2.slba < a + n) && decide (a < e.2.slba + e.2.data.length)

/-- WRITE ZEROES, once every earlier write of its blocks has been journaled (R165). -/
def execWriteZeroes (id : Nat) (s : State) : Res := onRun s fun s =>
  match runningCmd s id .writeZeroes with
  | none => s
  | some c => match Tbl.find s.ns c.nsid with
    | none => s
    | some v =>
      if stagedOver c.nsid c.slba c.nlb s then s else zeroGroup id c v c.slba c.nlb (if c.deac then none else some .zero) s

/-- DATASET MANAGEMENT: an attribute other than Deallocate is ignored; else the range whose lock is held now is deallocated, once every earlier write of its blocks has been journaled; its list of ranges comes from a data transfer (R168). -/
def execDatasetManagement (id : Nat) (s : State) : Res := onRun s fun s =>
  match runningCmd s id .dsm with
  | none => s
  | some c => match Tbl.find s.ns c.nsid, c.ranges with
    | some v, (a, n) :: _ => if !c.deac then completeCmd id nsOk s else if listBad c s then failTransfer id c locPrp2 s else if stagedOver c.nsid a n s then s else zeroGroup id c v a n none s
    | _, _ => completeCmd id nsOk s

/-- WRITE UNCORRECTABLE poisons its blocks through a record group (R170). -/
def execWriteUncorrectable (id : Nat) (s : State) : Res := onRun s fun s =>
  match runningCmd s id .writeUncorrectable with
  | none => s
  | some c => match Tbl.find s.ns c.nsid with
    | none => s
    | some v =>
      addGroup { pool := v.pool, cmds := [id], effects := [.poison c.nsid none c.slba c.nlb (c.lock.getD id)] }
        (divergeTarget c.nsid (s.modCmd id fun c => { c with stage := .grouped }))

/-- A Flush ends (R178). -/
def finishFlush (id : Nat) (c : Inflight) (s : State) : State :=
  let r := judgeFlush c s
  completeCmd id r.1 r.2

/-- FLUSH waits for the writes, Write Zeroes and Deallocates of its namespaces that were fetched before it (R179). -/
def execFlush (id : Nat) (s : State) : Res := onRun s fun s =>
  match runningCmd s id .flush with
  | none => s
  | some c =>
    let names := flushNs c s
    let before := (s.host.inflight.filter fun e => decide (e.1 < id) && names.contains e.2.nsid
      && [NvmOp.write, .compareWrite, .writeZeroes, .dsm].contains e.2.op).map (·.1)
    if before = [] then finishFlush id c s else s.modCmd id fun c => { c with stage := .grouped, after := before }

/-! ## Locks -/

/-- Commands that have waited for an entry since before a shrink was accepted and have come behind it: their blocks are gone (R153). -/
def endBeyond (nsid keep : Nat) (s : State) : State :=
  let l := s.host.inflight.filter fun e => e.2.nsid = nsid && (e.2.stage = .entryWait || e.2.stage = .lockWait) && e.2.op ≠ .flush && e.2.op ≠ .dsm
    && decide (keep < e.2.slba + e.2.nlb)
  l.foldl (fun s e => completeCmd e.1 nsLbaRange s) s

/-- A cut that is granted is made by `cutSnapshot` of the snapshot rules; a shrink commits with its group (R153, R419). -/
def runShrink (n nsid size : Nat) (s : State) : State :=
  match Tbl.find s.ns nsid with
  | none => dropPrivet n s
  | some v =>
    let keep := size / blockBytes v
    let gone := nsBlocks v - keep
    let w := wholeUnits v keep gone
    let g : Group := { pool := v.pool, locks := [n], effects := [.zero nsid keep gone n] }
    let ents := (v.map.filter fun e => decide (w.1 ≤ e.1)).map fun e => (nsid, e.1, none)
    let s1 := endBeyond nsid keep (s.modNs nsid fun v => { v with size := size, shrinkTo := none, shrinkFor := false })
    notifyAll noticeNsChanged (sliceCtrls v.slice s1)
      (addMapGroups g ents { s1 with host := { s1.host with ctrls := Tbl.mapVals s1.host.ctrls fun _ c => if c.slice = v.slice then { c with changed := c.changed ++ [nsid] } else c } })

end Sys2Proof.Machine
end

