-- ==== Sys2Proof/Machine/Reads.lean ====
section
/-! DEFINITION. Machine/Reads.lean: reading stored units from flash, what waits for the reads, and the commands that read (R32, R171, R231, R297 to R300, R345). -/
namespace Sys2Proof.Machine
open Sys2Proof

/-! ## Which strips a read takes (R297, R298, R330) -/

/-- The number under which an entry of the strip map is kept (R348). -/
def stripItem (module strip : Nat) : Nat := 2 ^ 60 + module * 2 ^ 48 + strip

/-- A read of some codewords of a page: module, strip address, page, mask. -/
abbrev PageRead := Nat × Nat × Nat × Nat

/-- Where a strip of a segment can be read: it is not missing, its module is reachable and maps it (R284, R297, R348). -/
def stripAt (s : State) (p : Pool) (l : Layout) (key i : Nat) : Option (Nat × Nat × Nat) :=
  match Tbl.find p.segs key, stripValid p l (segNum key) i with
  | some g, some (m, a) => if hasBit g.missing i || !reachable s m then none else (Tbl.find (s.mod m).media.map a).map fun page => (m, a, page)
  | _, _ => none

/-- The die of a page is being programmed, and is expected to be for more than 500 µs more (R349). -/
def dieSlow (s : State) (n page : Nat) : Bool :=
  (s.mod n).media.verify.any fun e => decide (dieOf e.1 = dieOf page) && !e.2.answered && decide (pageIdx e.1 % 3 = 2)
    && decide (s.time.toNat + 500000 < e.2.at_ + 1000 * (s.mod n).descr.elim 0 fun d => d.times.getD 3 0)

/-- The reads that give a byte range of a strip: of the strip itself, or of the same range of k others of the stripe, lower indexes first; none where too few of them can be read (R297). A foreground read goes round a die that is busy with a long program where it can (R349). -/
def stripReads (s : State) (fg : Bool) (p : Pool) (l : Layout) (key i off len : Nat) : Option (List PageRead) :=
  let mask := cwMask off len
  let read := fun (x : Nat × Nat × Nat) => ((x.1, x.2.1, x.2.2, mask) : PageRead)
  let others := ((List.range l.w).filter (· ≠ i)).filterMap (stripAt s p l key)
  let ready := (others.filter fun x => !dieSlow s x.1 x.2.2).take l.k
  match stripAt s p l key i with
  | some x => if fg && dieSlow s x.1 x.2.2 && decide (l.k ≤ ready.length) then some (ready.map read) else some [read x]
  | none => if others.length < l.k then none else if fg && decide (l.k ≤ ready.length) then some (ready.map read) else some ((others.take l.k).map read)

/-- Where a slot lies: its pool, layout and segment, its first byte in the segment and its length; an alias leads to its target (R226, R233). -/
structure SlotPlace where
  pool : Pool
  layout : Layout
  seg : Nat
  at_ : Nat
  len : Nat
deriving DecidableEq, Repr

def slotPlace (s : State) (key : Nat) : Option SlotPlace :=
  match Tbl.find s.grinder.units (slotUnit s key), Tbl.find s.pools (unitPool key) with
  | some u, some p => (layoutOf p (u.group / 2 ^ 45)).map fun l =>
      { pool := p, layout := l, seg := segKey l.id (u.group % 2 ^ 45 / max 1 l.granules), at_ := u.group % 2 ^ 45 % max 1 l.granules * 512 + u.offset * 16, len := u.clen }
  | _, _ => none

/-- The reads that give a unit's slot; none where the stripe is lost or suspect, or too few of its strips can be read (R277, R298; log entry 219); `fg`: for a host command. -/
def unitReads (s : State) (fg : Bool) (key : Nat) : Option (List PageRead) :=
  (slotPlace s key).bind fun x => match Tbl.find x.pool.segs x.seg with
    | none => none
    | some g =>
      if g.lost || g.suspect then none
      else
        let first := x.at_ / 65536
        let last := (x.at_ + max 1 x.len - 1) / 65536
        let here := stripReads s fg x.pool x.layout x.seg first (x.at_ % 65536) (min x.len (65536 - x.at_ % 65536))
        if last = first then here
        else match here, stripReads s fg x.pool x.layout x.seg last 0 (x.at_ + x.len - last * 65536) with
          | some a, some b => some (a ++ b)
          | _, _ => none

/-- The codewords that some reads ask for. -/
def readCws (l : List PageRead) : List (Nat × Nat) := (l.flatMap fun x => (bitsOf x.2.2.2 16).map fun c => (x.1, x.2.2.1 + c)).eraseDups

/-- Send some reads; `bg`: for background work (R35, R354). -/
def issueReads (bg : Bool) (l : List PageRead) (s : State) : State :=
  l.foldl (fun s x => readPage bg x.1 x.2.2.1 x.2.2.2 0 (cacheRead 1 (stripItem x.1 x.2.1) s)) s

/-- Read a stored unit's slot in the background. -/
def readUnit (key : Nat) (s : State) : State := issueReads true ((unitReads s false key).getD []) (cacheRead 1 key s)

/-! ## What waits for reads -/

/-- The next free number of a job. -/
def jobKey (s : State) : Nat := (s.jobs.getLast?.map (·.1)).getD 0 + 1

/-- Something waits until some codewords have been read and decoded. -/
def addJob (use : JobUse) (cws : List (Nat × Nat)) (s : State) : State := { s with jobs := Tbl.set s.jobs (jobKey s) { waits := cws, use := use } }

/-- A rebuild with the priority of R301 waits for a codeword. -/
def urgentCw (s : State) (n cw : Nat) : Bool :=
  s.jobs.any fun e => e.2.waits.contains (n, cw) && match e.2.use with
    | .program _ u => u
    | _ => false

/-- The data of a read goes to the host; an RDMA write of it is awaited on its queue pair (R187, R198, R202). -/
def sendData (c : Inflight) (data : List Nat) (s : State) : State :=
  match Tbl.find s.host.ctrls c.ctrl with
  | none => s
  | some t =>
    let len := (Tbl.find s.ns c.nsid).elim 0 fun v => xferBytes v c.op c.nlb c.ranges
    let s1 := emit (.nvmeData c.ctrl c.sq c.cid data (pasidOf t s) c.ptr) (writePages t (dataPages t len c.ptr) (fetchList c.ctrl c.sq c.cid c.ptr s))
    let n := max 1 (ceilDiv len 4096)
    let wrote : Qp → Qp := fun q =>
      if q.nvme = some c.ctrl && q.nvmeSq = c.sq then { q with sPsn := (q.sPsn + n) % 2 ^ 24, dataPsn := some ((q.sPsn + n - 1) % 2 ^ 24) } else q
    if t.fabrics then { s1 with net := { s1.net with qps := Tbl.mapVals s1.net.qps fun _ q => wrote q } } else s1

/-- The stored units that a command must read: those of its range that are mapped and not dirty in the Carafe (R32). -/
def storedUnits (s : State) (c : Inflight) : List (Nat × Nat) :=
  match Tbl.find s.ns c.nsid with
  | none => []
  | some v =>
    let ub := max 1 (unitBlocks v)
    (List.range ((c.slba + max 1 c.nlb - 1) / ub + 1 - c.slba / ub)).flatMap fun i =>
      let u := c.slba / ub + i
      let dirty := (List.range ub).all fun j => decide (u * ub + j < c.slba) || decide (c.slba + c.nlb ≤ u * ub + j) || (dirtyOf s c.nsid (u * ub + j)).isSome
      if dirty then [] else (entUnit (Tbl.find v.map u)).map fun k => (max c.slba (u * ub), k)

def cmdBytes (c : Inflight) (s : State) : Nat := (Tbl.find s.ns c.nsid).elim 0 fun v => c.nlb * blockBytes v

/-- A command has the stored data of its range: a read delivers it, a verify is done, a compare looks at the host's blocks, and the write half of a fused pair starts on a match (R171). -/
def readEnd (id : Nat) (c : Inflight) (s : State) : State :=
  let data := liveBlocks s c.nsid c.slba c.nlb
  match c.op with
  | .read => completeCmd id nsOk (countHost id (cmdBytes c s) (if c.forwarded then s.modCmd id fun c => { c with data := data } else sendData c data s))
  | .verify => completeCmd id nsOk (countHost id (cmdBytes c s) s)
  | .compare => completeCmd id (if c.data = data then nsOk else nsCompareFail) (countHost id (cmdBytes c s) s)
  | .compareWrite =>
    if c.data = data then startWrite id { c with matched := true } (s.modCmd id fun c => { c with matched := true }) else completeCmd id nsCompareFail s
  | _ => s

/-- A unit's slot does not decode to the CRC of its record on any lane nor after a rebuild: it is lost (R237). -/
def slotLost (key : Nat) (s : State) : State :=
  let t := slotUnit s key
  match slotPlace s key with
  | some x => loseUnits 0x42 0x40 1 (unitPool t) x.seg [t] s
  | none => s

/-- The slots of a command's range have been read: every unit is decoded and held against its CRC before it is passed on (R171, R231, R237, R453). -/
def finishRead (id : Nat) (s : State) : State :=
  match cmdAt s id with
  | none => s
  | some c => match Tbl.find s.ns c.nsid, firstPoison s c.nsid c.slba c.nlb with
    | none, _ => s
    | some _, some lba => poisonEnd id c lba s
    | some v, none =>
      let us := storedUnits s c
      match us.find? fun x => decide (readSlot s v x.2 = .bad) with
      | some (lba, k) => poisonEnd id c lba (slotLost k s)
      | none => if us.any fun x => decide (readSlot s v x.2 = .noKey) then completeCmd id nsInternal s else readEnd id c s

/-- A command reads its range: map entries first, then the slots of stored units, which it waits for; a unit of a lost or suspect stripe ends it with Unrecovered Read Error (R32, R277, R298). -/
def startRead (id : Nat) (c : Inflight) (s : State) : State :=
  let us := storedUnits s c
  let s1 := (mapUnits c s).foldl (fun s u => cacheRead 0 (mapItem c.nsid u) s) s
  match us.find? fun x => (unitReads s true x.2).isNone with
  | some (lba, _) => poisonEnd id c lba s1
  | none =>
    let reads := us.flatMap fun x => (unitReads s true x.2).getD []
    let s2 := issueReads false reads (us.foldl (fun s x => cacheRead 1 x.2 s) s1)
    if reads = [] then finishRead id s2 else addJob (.host id) (readCws reads) s2
where
  mapUnits (c : Inflight) (s : State) : List Nat :=
    match Tbl.find s.ns c.nsid with
    | none => []
    | some v => let ub := max 1 (unitBlocks v); (List.range ((c.slba + max 1 c.nlb - 1) / ub + 1 - c.slba / ub)).map (c.slba / ub + ·)

/-! ## Moving units (R226, R361) -/

/-- Offsets of the slots of a new compression group, in units of 16 bytes, behind its header (R226). -/
def slotOffsets : Nat → List Nat → List Nat
  | _, [] => []
  | off, n :: ns => off / 16 :: slotOffsets (off + n) ns

/-- The live ones of some units: never a lost one (R305, R361). -/
def liveOf (s : State) (units : List Nat) : List (Nat × UnitRec) :=
  units.filterMap fun u => match Tbl.find s.grinder.units u with
    | some r => if r.live && !r.lost then some (u, r) else none
    | none => none

/-- The header of the compression group that a unit lies in. -/
def headOf (s : State) (key : Nat) : List Byte :=
  match Tbl.find s.grinder.units key, Tbl.find s.pools (unitPool key) with
  | some u, some p => (match layoutOf p (u.group / 2 ^ 45) with
    | some l => (match Tbl.find p.segs (segKey l.id (u.group % 2 ^ 45 / max 1 l.granules)) with
      | some g => (g.data.drop (u.group % 2 ^ 45 % max 1 l.granules * 512)).take 160
      | none => [])
    | none => [])
  | _, _ => []

/-- The live slots of one compression group, still encrypted, join a gathering segment as a new group, whose header takes UNIT_LOG2 and KEY_INDEX from the old one's (R227, R361 step 1). -/
def gatherUnits (pool : Nat) (units : List Nat) (s : State) : State :=
  match liveOf s units, gatherRoom s pool with
  | [], _ | _, false => s
  | u :: us, true =>
    let keys := (u :: us).map (·.1)
    let slots := (u :: us).map fun x => slotBytesOf x.2
    let head := headOf s u.1
    gatherPut pool (groupGranules slots) keys [] (some (slotOffsets 160 slots)) (groupOf s pool (headerUnitLog head) (headerKey head) keys) s

/-! ## The parity check of a stripe (R265) -/

/-- The strips of a stripe are read whole, to be held against its parity; a strip that cannot be read is a located erasure. -/
def checkStripe (q : Option Nat) (pool key : Nat) (s : State) : State :=
  match (Tbl.find s.pools pool).bind fun p => (layoutOf p (segLayout key)).map fun l => (p, l) with
  | none => s
  | some (p, l) =>
    let reads := ((List.range l.w).filterMap (stripAt s p l key)).map fun x => (x.1, x.2.1, x.2.2, 0xFFFF)
    addJob (.check q pool key [] (l.w - reads.length)) (readCws reads) (issueReads true reads s)

/-- The stripe has been checked: u strips in error without a located erasure, beside e located ones, can be corrected where u is at most m / 2 and e + 2u at most m; the strips in error then go to rebuild, else the stripe is lost (R265; log entry 226). Its entry is free. -/
def checkDone (q : Option Nat) (pool key : Nat) (bad : List Nat) (gone : Nat) (s : State) : State :=
  let m := ((Tbl.find s.pools pool).bind fun p => layoutOf p (segLayout key)).elim 0 (·.m)
  let s1 := if bad = [] then s
    else if bad.length ≤ m / 2 && decide (gone + 2 * bad.length ≤ m) then bad.foldl (fun s i => segMissing pool key i s) s
    else stripeLost pool key s
  let s2 := s1.modPool pool fun p => { p with segs := Tbl.upd p.segs key fun g => { g with settled := true } }
  match q with
  | some n => sifTell n { s2 with carafe := { s2.carafe with sif := Tbl.del s2.carafe.sif n } }
  | none => s2

/-- A strip of a stripe under check has been decoded: one that differs from what the stripe's other strips determine is in error. -/
def checkCw (n cw : Nat) (place : Option (Nat × Nat × Nat)) (data : List Byte) (s : State) : State :=
  { s with jobs := Tbl.mapVals s.jobs fun _ j => match j.use, place with
    | .check q pool key bad gone, some (p, k, i) =>
      let want := (Tbl.find s.pools pool).bind fun x => (layoutOf x (segLayout key)).bind fun l => (Tbl.find x.segs key).map fun g => ((codedStrip l.k g.data i).drop (4096 * (cw % 16))).take 4096
      if j.waits.contains (n, cw) && decide (p = pool) && decide (k = key) && want ≠ some data then { j with use := .check q pool key (bad ++ [i]).eraseDups gone } else j
    | _, _ => j }

/-- A check goes on without a strip that cannot be read: it is a located erasure. -/
def checkLost (lost : Nat × Nat → Bool) (j : FlashJob) : FlashJob :=
  match j.use with
  | .check q pool key bad gone =>
    let pages := ((j.waits.filter lost).map fun x => (x.1, x.2 / 16)).eraseDups
    { j with waits := j.waits.filter fun x => !pages.contains (x.1, x.2 / 16), use := .check q pool key bad (gone + pages.length) }
  | _ => j

/-! ## The end of a job -/

/-- A page is still to be programmed: a strip of a segment in use whose place is still there, a strip that its source block still holds (R295, R303, R361). -/
def stillWanted (s : State) (n : Nat) (v : VPage) : Bool :=
  let place := fun (seg i : Nat) => match Tbl.find s.pools v.pool with
    | none => false
    | some p => match Tbl.find p.segs seg, layoutOf p (segLayout seg) with
      | some g, some l => !g.lost && decide (stripTarget p l (segNum seg) i = some (n, v.strip))
      | _, _ => false
  match v.use with
  | .stripe _ _ => true
  | .rebuild seg i | .copyBack seg i => place seg i
  | .reloc key => (Tbl.find (s.mod n).media.map v.strip).any fun page => blkOf page = key

/-- Everything that a job waited for has been read. -/
def jobDone (s : State) : JobUse → State
  | .host id => finishRead id s
  | .program pages _ => pages.foldl (fun s x => if stillWanted s x.1 x.2 then programStrip x.1 x.2 s else s) s
  | .gather pool units => gatherUnits pool units s
  | .mend n v => if stillWanted s n v then programStrip n v s else s
  | .check q pool key bad gone => checkDone q pool key bad gone s

/-- Jobs that wait for nothing more are done. -/
def jobsEnd (s : State) : State :=
  let done := fun (j : FlashJob) => decide (j.waits = []) && decide (j.todo = [])
  ((s.jobs.filter fun e => done e.2).map (·.2.use)).foldl jobDone { s with jobs := s.jobs.filter fun e => !done e.2 }

/-- A codeword has been decoded: what waited for it alone goes on. -/
def jobsRead (n cw : Nat) (s : State) : State :=
  jobsEnd { s with jobs := Tbl.mapVals s.jobs fun _ j => { j with waits := j.waits.filter (· ≠ (n, cw)) } }

/-- Some codewords cannot be read: a host command reads other strips in their place (R297); a page that die parity cannot rebuild goes to rebuild (R352); rebuild and moves take the strip's loss into account when their turn comes again (R304, R307); a check counts the strip as an erasure (R265). -/
def jobsLost (lost : Nat × Nat → Bool) (s0 : State) : State :=
  let s := { s0 with jobs := Tbl.mapVals s0.jobs fun _ j => checkLost lost j }
  jobsEnd <| (s.jobs.filter fun e => e.2.waits.any lost).foldl (fun s e => match e.2.use with
    | .host id => (match cmdAt s id with
      | some c => startRead id c s
      | none => s)
    | .mend n v => (match v.use with
      | .reloc _ => s
      | _ => stripLostAt n v.strip s)
    | _ => s) { s with jobs := s.jobs.filter fun e => !e.2.waits.any lost }

/-- Work that waits for its reads and will put a page where the predicate says. -/
def jobPages (s : State) (is : Nat → VPage → Bool) : Bool :=
  s.jobs.any fun e => match e.2.use with
    | .program pages _ => pages.any fun x => is x.1 x.2
    | .mend n v => is n v
    | _ => false

/-! ## Reads and checks (R171) -/

/-- A read, compare or verify: what stops it before it looks at the data, else what it does (R168, R169, R171). -/
def ifReadable (id : Nat) (c : Inflight) (f : State → State) (s : State) : State :=
  match firstPoison s c.nsid c.slba c.nlb with
  | some lba => poisonEnd id c lba s
  | none =>
    if readGone s then completeCmd id nsInternal s
    else if listBad c s then failTransfer id c locPrp2 s
    else f s

/-- READ: poison first, else the data goes to the host once it has been read. -/
def execRead (id : Nat) (s : State) : Res := onRun s fun s =>
  match runningCmd s id .read with
  | none => s
  | some c => ifReadable id c (startRead id c) s

/-- VERIFY: as a read, without transfer. -/
def execVerify (id : Nat) (s : State) : Res := onRun s fun s =>
  match runningCmd s id .verify with
  | none => s
  | some c => ifReadable id c (startRead id c) s

/-- The host's blocks of a Compare are read; those of a forwarded one have come with it (R162, R187). -/
def hostHalf (c : Inflight) (s : State) : State := if c.forwarded then s else askData c.ctrl c.sq c.cid c.ptr s

/-- The host's blocks have come, or their transfer failed (R168); the stored data is read next. -/
def compareWith (id : Nat) (c : Inflight) (host : Option (List Nat)) (s : State) : State :=
  match host with
  | none => failTransfer id c locDptr (hostHalf c s)
  | some d => startRead id { c with data := d } ((hostHalf c s).modCmd id fun c => { c with data := d })

/-- COMPARE with the host's blocks; none where their transfer failed (R168). -/
def execCompare (id : Nat) (host : Option (List Nat)) (s : State) : Res := onRun s fun s =>
  match runningCmd s id .compare with
  | none => s
  | some c => ifReadable id c (compareWith id c host) s

/-- Fused COMPARE AND WRITE: the write half starts only on a match (R159, R171). -/
def execCompareAndWrite (id : Nat) (host : Option (List Nat)) (s : State) : Res := onRun s fun s =>
  match runningCmd s id .compareWrite with
  | none => s
  | some c => ifReadable id c (compareWith id c host) s

end Sys2Proof.Machine
end

