-- ==== Sys2Proof/Machine/VaultFmt.lean ====
section
/-! DEFINITION. Machine/VaultFmt.lean: what the vault holds, as bytes: stripe-in-flight entries, descriptors, sections, dirty data, anchor and seal (R242, R263, R268 to R272). -/
namespace Sys2Proof.Machine
open Sys2Proof

/-- Descriptors in order, each naming the first granule of its data. -/
def descList (s : State) (mirror : Bool) : Nat → Tbl Desc → List Byte
  | _, [] => []
  | g, (seq, d) :: l => descBytes s mirror seq g d ++ descList s mirror (g + d.granules) l

/-- The data of a write, filled to whole granules. -/
def descData (s : State) (d : Desc) : List Byte :=
  let n := match Tbl.find s.ns d.nsid with
    | some v => blockBytes v
    | none => 4096
  fit (4096 * d.granules) (d.data.flatMap fun v => leBytes n v)

/-- The dirty-data section: each granule is one XTS data unit, its tweak GEN * 2^40 + g (R272). -/
def cipherGranules (key : List Byte) (gen : Nat) (data : List Byte) (n : Nat) : List Byte :=
  (List.range n).flatMap fun g => Config.xts true key (BitVec.ofNat 128 (gen * 2 ^ 40 + g)) ((data.drop (4096 * g)).take 4096)

/-- A section: its header of 64 bytes and its payload, up to the next multiple of 4 KiB (R271). -/
def sectionBytes (type version items : Nat) (payload : List Byte) (len : Nat) : List Byte :=
  fit (roundUp (64 + len) 4096)
    (le32 0x53564D5A ++ le16 type ++ le16 version ++ le64 items ++ le64 len ++ le32 (Config.crc32c (fit len payload)).toNat ++ zeros 36 ++ fit len payload)

def wholeDescs (t : Tbl Desc) : Tbl Desc := t.filter fun e => e.2.whole

/-- Live groups of a ring: those after the latest committed COMPACT. -/
def liveGroups (s : State) : Tbl Group := s.journal.groups.filter fun e => decide (s.journal.through < e.1) && e.2.whole

/-- The vault key of this boot, in its slot (R272). -/
def vaultKeyBytes (s : State) : List Byte :=
  match s.cipher.slots.find? fun e => e.2.use = .vault with
  | some e => e.2.key
  | none => []

/-- TYPE, ITEMS and payload length of the five sections (R271). -/
def sectionSizes (s : State) : List (Nat × Nat × Nat) :=
  let own := wholeDescs s.carafe.own
  let mir := wholeDescs s.carafe.mirror
  let sifs := s.carafe.sif.length + s.carafe.peerSif.length
  [(1, sifs, 384 * sifs),
   (2, (liveGroups s).length, ((liveGroups s).map (·.2.bytes)).sum),
   (3, s.journal.peerGroups.length, (s.journal.peerGroups.map (·.2.bytes)).sum),
   (4, own.length + mir.length, 32 * (own.length + mir.length)),
   (5, granulesOf own + granulesOf mir, 4096 * (granulesOf own + granulesOf mir))]

/-- The payload of a section. -/
def sectionPayload (s : State) (gen type : Nat) : List Byte :=
  let own := wholeDescs s.carafe.own
  let mir := wholeDescs s.carafe.mirror
  let v := s.journal.version
  if type = 1 then (s.carafe.sif ++ s.carafe.peerSif).flatMap fun e => sifBytes v e.1 e.2
  else if type = 2 then (liveGroups s).flatMap (·.2.image)
  else if type = 3 then s.journal.peerGroups.flatMap (·.2.image)
  else if type = 4 then descList s false 0 own ++ descList s true (granulesOf own) mir
  else cipherGranules (vaultKeyBytes s) gen ((own ++ mir).flatMap fun e => descData s e.2) (granulesOf own + granulesOf mir)

/-- Stream offsets of the sections, one behind the other. -/
def sectionOffsets : Nat → List (Nat × Nat × Nat) → List Nat
  | _, [] => []
  | off, x :: l => off :: sectionOffsets (off + roundUp (64 + x.2.2) 4096) l

/-- STREAM_BYTES of a flush: the last section ends with its payload. -/
def streamBytes (s : State) : Nat :=
  ((sectionSizes s).map fun x => if x.1 = 5 then 64 + x.2.2 else roundUp (64 + x.2.2) 4096).sum

/-- The vault stream (R271). -/
def vaultStreamBytes (s : State) (gen : Nat) : List Byte :=
  (sectionSizes s).flatMap fun x => sectionBytes x.1 s.journal.version x.2.1 (sectionPayload s gen x.1) x.2.2

/-- STRIPES: vault stripes of 6 data strips of 64 KiB (R268). -/
def vaultStripes (bytes : Nat) : Nat := ceilDiv bytes 393216

/-- A mask of modules in 12 bytes. -/
def moduleMask (l : List Nat) : List Byte := leBytes 12 ((List.range 96).foldl (fun m i => if l.contains i then m + 2 ^ i else m) 0)

/-- The vault key wrapped under the key-table wrapping key, or under the device sealing key where this head holds none (R272, R447). -/
def wrappedVaultKey (s : State) (gen : Nat) : List Byte :=
  let kek := match s.cipher.ktwk with
    | some k => k
    | none => s.cipher.dsk.getD []
  Config.keyWrap kek (wrapIcv 2 0 (gen % 2 ^ 32)) (fit 64 (vaultKeyBytes s))

/-- The anchor of 4 KiB (R269). -/
def anchorBytes (s : State) (bank gen skipped : Nat) (set : List Nat) : List Byte :=
  let secs := (sectionSizes s).zip (sectionOffsets 0 (sectionSizes s))
  let b := le32 0x41565A4D ++ le16 s.journal.version ++ le8 (headIndex s) ++ le8 bank ++ le64 gen ++ leBytes 16 s.fuses.uid.toNat
    ++ le64 s.time.toNat ++ le64 s.aon.powerCycles.toNat ++ le16 set.length ++ le8 (if s.cipher.ktwk.isSome then 0 else 1) ++ zeros 1
    ++ le32 (vaultStripes (streamBytes s)) ++ le64 (streamBytes s) ++ moduleMask set ++ le32 skipped
    ++ (List.range 8).flatMap (fun p => le32 (match Tbl.find s.pools p with | some x => x.ownerGen.toNat | none => 0))
    ++ fit 72 (wrappedVaultKey s gen) ++ secs.flatMap (fun x => le16 x.1.1 ++ zeros 2 ++ le32 x.1.2.1 ++ le64 x.2) ++ zeros 3828
  b ++ le32 (Config.crc32c b).toNat

/-- The seal of 4 KiB (R270). -/
def sealBytes (s : State) (gen stripes : Nat) (failed : List Nat) : List Byte :=
  let b := le32 0x5A565A4D ++ le16 s.journal.version ++ zeros 2 ++ le64 gen ++ le32 stripes ++ moduleMask failed ++ le64 s.time.toNat ++ zeros 4052
  b ++ le32 (Config.crc32c b).toNat

/-- Strip i of vault stripe j of a stream: data, or parity under Hedgerow's code with k = 6 and m = 2 (R268, R279). -/
def vaultStripBytes (stream : List Byte) (j i : Nat) : List Byte :=
  codedStrip 6 (fit 393216 ((stream.drop (393216 * j)).take 393216)) i

/-- Codewords of vault data (log entry 192). -/
def vaultCws (data : List Byte) : List (List Byte) :=
  (List.range (data.length / 4096)).map fun i => let d := (data.drop (4096 * i)).take 4096; encodeCw d (plainMeta 0 (i % 16) d)

end Sys2Proof.Machine
end

