-- ==== Sys2Proof/Machine/VaultOps.lean ====
section
/-! DEFINITION. Machine/VaultOps.lean: the vault: bank choice, stream, strips, acknowledgements, seal, erasing of banks (R266 to R276). -/
namespace Sys2Proof.Machine
open Sys2Proof

def State.caraf (s : State) (f : Carafe → Carafe) : State := { s with carafe := f s.carafe }

/-- A bank is written on a module: no longer erased, with its generation. -/
def useBank (bank gen : Nat) (m : Module) : Module :=
  if bank = 0 then { m with erased0 := false, gen0 := gen } else { m with erased1 := false, gen1 := gen }

/-- Where strip i of vault stripe j goes: module and bank offset (R268). -/
def vaultPlace (set : List Nat) (j i : Nat) : Nat × Nat :=
  let x := 8 * j + i
  (set.getD (x % set.length) 0, 65536 * (1 + x / set.length))

/-- The vault area of this head, as a Kamard area number (R330, R341). -/
def vaultArea (s : State) : Nat := 1 + headIndex s

/-- What the flush puts on flash, as replay may find it. -/
def vaultImage (s : State) (gen bank skipped stripes : Nat) : VaultImage :=
  { gen := gen, bank := bank, stripes := stripes, own := wholeDescs s.carafe.own, mirror := wholeDescs s.carafe.mirror,
    groups := liveGroups s, peerGroups := s.journal.peerGroups.filter (fun e => e.2.whole),
    sif := s.carafe.sif, peerSif := s.carafe.peerSif,
    ownerGens := (List.range 8).map (fun p => match Tbl.find s.pools p with | some x => x.ownerGen.toNat | none => 0),
    skipped := skipped, sections := sectionSizes s, wrapDsk := s.cipher.ktwk.isNone, wrapped := fit 72 (wrappedVaultKey s gen) }

/-- Send one vault command and count it as outstanding. -/
def vaultSend (n area bank off : Nat) (cws : List (List Byte)) (s : State) : State :=
  kamSend n (.vaultProgram area bank off cws) (s.caraf fun c => { c with run := c.run.map fun r => { r with outstanding := r.outstanding + 1 } })

/-- A strip of 16 codewords is one frame at version 2 and two at version 1 (R316). -/
def vaultStrip (n area bank off : Nat) (cws : List (List Byte)) (s : State) : State :=
  if 2 ≤ (s.kport n).version then vaultSend n area bank off cws s
  else vaultSend n area bank (off + 32768) (cws.drop 8) (vaultSend n area bank off (cws.take 8) s)

/-- Send the strips of the stripes still to come, counting downward; a strip that the bank of 1.5 GiB cannot hold is missing (R240). -/
def sendVault (set : List Nat) (area bank total : Nat) (stream : List Byte) : Nat → State → State
  | 0, s => s
  | f + 1, s =>
    let x := total - (f + 1)
    let t := vaultPlace set (x / 8) (x % 8)
    sendVault set area bank total stream f (if 1610612736 < t.2 + 65536 then s else vaultStrip t.1 area bank t.2 (vaultCws (vaultStripBytes stream (x / 8) (x % 8))) s)

/-- The dirty bytes of the whole copies. -/
def wholeDirty (s : State) : Nat := 4096 * (granulesOf (wholeDescs s.carafe.own) + granulesOf (wholeDescs s.carafe.mirror))

/-- Start writing the vault (R273 steps 1 to 3): incomplete copies and groups are abandoned, the anchors and every strip are sent. -/
def vaultStream (s : State) : State :=
  let set := vaultSet s
  let skipped := (s.carafe.own.length - (wholeDescs s.carafe.own).length) + (s.carafe.mirror.length - (wholeDescs s.carafe.mirror).length)
  let s0 := s.caraf fun c => { c with own := wholeDescs c.own, mirror := wholeDescs c.mirror }
  let s1 := { s0 with journal := { s0.journal with groups := s0.journal.groups.filter fun e => e.2.whole, peerGroups := s0.journal.peerGroups.filter fun e => e.2.whole } }
  let bank := flushBank s
  let gen := s1.carafe.vaultGen + 1
  let strips := 8 * vaultStripes (streamBytes s1)
  let img := vaultImage s1 gen bank skipped (vaultStripes (streamBytes s1))
  let s2 := event 2 0x10 (le64 gen ++ le16 set.length ++ zeros 6 ++ le64 (wholeDirty s1)) s1
  let s3 := s2.caraf fun c => { c with vaultGen := gen, image := some img, older := c.image.or c.older, run := some { set := set, outstanding := 0 } }
  let s4 := set.foldl (fun s n => (vaultSend n (vaultArea s) bank 0 (vaultCws (anchorBytes s1 bank gen skipped set)) s).modMod n (useBank bank gen)) s3
  sendVault set (vaultArea s) bank strips (vaultStreamBytes s1 gen) strips s4

/-- The Carafe holds dirty data, and vault links have trained (R50). -/
def vaultNeeded (s : State) : Bool := (s.carafe.own ≠ [] || s.carafe.mirror ≠ []) && vaultSet s ≠ []

/-- A vault strip, anchor or seal is answered; a module that does not acknowledge is marked failed (R273 steps 4, 5). -/
def vaultAck (n : Nat) (ok : Bool) (s : State) : State :=
  s.caraf fun c => { c with run := c.run.map fun r => { r with
    outstanding := r.outstanding - 1
    failed := if ok || r.failed.contains n then r.failed else r.failed ++ [n] } }

/-- A module that has failed receives nothing more: its unsent strips count as missing (R273 step 4). -/
def vaultDrop (n : Nat) (s : State) : State :=
  let isV := fun (c : KCmd) => match c with | .vaultProgram _ _ _ _ => true | _ => false
  let k := s.kport n
  let gone := (k.queue.filter isV).length + (k.cmds.filter fun e => isV e.2).length
  let s1 := s.modK n fun k => { k with queue := k.queue.filter fun c => !isV c, cmds := k.cmds.filter fun e => !isV e.2 }
  s1.caraf fun c => { c with run := c.run.map fun r => { r with
    outstanding := r.outstanding - gone
    failed := if r.failed.contains n then r.failed else r.failed ++ [n] } }

/-- Write the seal to every surviving module of the set: the vault is sealed (R270, R273 step 5). -/
def vaultSeal (s : State) : State :=
  match s.carafe.run, s.carafe.image with
  | some r, some img =>
    let live := r.set.filter fun n => !r.failed.contains n
    let s1 := live.foldl (fun s n => kamSend n (.vaultProgram (vaultArea s) img.bank 4096 (vaultCws (sealBytes s img.gen img.stripes r.failed))) s) s
    s1.caraf fun c => { c with run := none, image := some { img with sealed := true } }
  | _, _ => s.caraf fun c => { c with run := none }

/-- Banks of this head that hold a vault which is still needed (R274). -/
def keptBanks (s : State) : List Nat := (s.carafe.image.toList ++ s.carafe.older.toList).map (·.bank)

/-- Erase a bank of this head on a module where it is not erased, over this head's own link (R274, R334). -/
def eraseOn (bank n : Nat) (s : State) : State :=
  let is := fun (c : KCmd) => decide (c = .vaultErase (vaultArea s) bank)
  let k := s.kport n
  if (k.state = .up || k.state = .retrain) && (s.mod n).descr.isSome && !bankErased (s.mod n) bank && !k.queue.any is && !k.cmds.any (fun c => is c.2) then
    kamSend n (.vaultErase (vaultArea s) bank) s
  else s

/-- Erase a bank of this head on every module (R274). -/
def eraseBank (bank : Nat) (s : State) : State := (List.range 96).foldl (fun s n => eraseOn bank n s) s

/-- A module's banks that hold nothing needed are kept erased (R266, R274). -/
def eraseUnused (n : Nat) (s : State) : State :=
  if s.carafe.run.isSome then s
  else [0, 1].foldl (fun s b => if (keptBanks s).contains b then s else eraseOn b n s) s

/-- A lost write with the peer gone: its range is poisoned and reported with CAUSE 2, in one record group (R174, R276). -/
def poisonLost : List (Nat × Desc) → State → State
  | [], s => s
  | (id, d) :: l, s =>
    let e : Deferred := {
      seq := 0, nsid := d.nsid, cause := 2, pool := descPool d s, slba := d.slba, nlb := d.data.length, time := s.time
      epochFirst := BitVec.ofNat 64 s.snaps.next, epochLast := BitVec.ofNat 64 s.snaps.next }
    poisonLost l (match Tbl.find s.ns d.nsid with
      | none => s
      | some v => addGroup { pool := v.pool, effects := [.poison d.nsid none d.slba d.data.length id, .deferred v.slice e] } s)

/-- A vault whose restored writes are all committed again gives its bank back (R274). -/
def vaultSpent (s : State) : State :=
  match s.carafe.image with
  | none => s
  | some img =>
    if s.carafe.run.isNone && s.phase = .run && s.boot.replayed
        && !(img.own.any fun e => Tbl.has s.carafe.own e.1) && !(img.mirror.any fun e => Tbl.has s.carafe.mirror e.1) then
      eraseBank img.bank (s.caraf fun c => { c with image := none })
    else s

end Sys2Proof.Machine
end

