-- ==== Sys2Proof/Machine/KamOps.lean ====
section
/-! DEFINITION. Machine/KamOps.lean: the Kamard port as a whole: coming up, going down, resending, bridge firmware, and what a bridge's answers mean (R325 to R337, R359, R360). -/
namespace Sys2Proof.Machine
open Sys2Proof

/-! ## Alarms of the links and members -/

/-- This head cannot serve a pool: it is offline, no member can be reached, or the check of open segments still runs, before which no pool of this head serves reads (R181, R277, R287; log entry 215). -/
def poolShut (s : State) (p : Pool) : Bool :=
  p.offline || !((poolMembers p).any (reachable s)) || (p.owned && s.pools.any fun e => e.2.owned && e.2.checking)

/-- Pools that this head owns become Optimized, or Inaccessible where it cannot serve them (R181). -/
def openPools : List Nat → State → State
  | [], s => s
  | n :: ns, s => openPools ns (match Tbl.find s.pools n with
      | some p => setAna n (if poolShut s p then .inaccessible else .optimized) s
      | none => s)

/-- Both heads are up and a Jalras link is (R181). -/
def jalServes (s : State) : Bool := peerPresent s && peerSubs s ≠ []

/-- ANA state and offline standing of one pool follow the reach of its members (R181, R289). -/
def poolReach (pool : Nat) (s : State) : State :=
  match Tbl.find s.pools pool with
  | none => s
  | some p =>
    if poolShut s p then setAna pool .inaccessible s
    else if p.ana ≠ .inaccessible then s
    else if p.owned then (if p.fenced then s else setAna pool .optimized s)
    else if jalServes s then setAna pool .nonOptimized s
    else s

/-- Pools that are offline: no member reachable, or a loss of the vault (R276, R289, R500 POOL_OFFLINE). -/
def poolsReach (s : State) : State :=
  if s.boot.stage = .ready then
    let s1 := (s.pools.map (·.1)).foldl (fun s p => poolReach p s) s
    alarmIs 0x4A (s1.pools.any fun p => p.2.offline || !((poolMembers p.2).any (reachable s1))) s1
  else s

/-- KAMARD_LINK_DOWN clears once no port is down; MEMBER_VIA_PEER follows this head's reach of its pools' members (R291, R500). -/
def kamAlarms (s0 : State) : State :=
  let s := poolsReach s0
  let s1 := if s.kports.any (fun e => e.2.state = .down) then s else clearAlarm 0x61 s
  alarmIs 0x48 (s1.pools.any fun p => p.2.owned && (poolMembers p.2).any fun m =>
    (s1.kport m).state ≠ .up && (s1.kport m).state ≠ .retrain && (s1.kport m).peerUp) s1

/-- Both links to a module are in use only while the heads agree on its serial number (R315, R500). -/
def serialAlarm (s : State) : State :=
  if s.kports.any (fun e => match e.2.peerSerial with | some x => e.2.serial ≠ 0 && x ≠ e.2.serial | none => false) then s else clearAlarm 0x60 s

/-! ## Frames (R325, R326) -/

/-- Resend frames in order, with RETX (R325). DESIGN CHOICE: such a frame counts among the retransmissions of R339 alone, not again among the frames sent (log entry 229). -/
def resendFrames (port : Nat) : List KFrame → State → State
  | [], s => s
  | f :: fs, s => resendFrames port fs (bumpK port 2 1 (emit (.kamResend port f.seq (frameHead s port f.tag f.seq true f.cmd) (cmdSlots f.cmd)) s))

/-- A frame from the bridge is accepted: it counts, the next is expected, and one that had failed once was a transient fault (R326). -/
def kamAccept (port : Nat) (s : State) : State :=
  let failed := (s.kport port).rxFailed
  let s1 := bumpK port 1 1 (s.modK port fun k => { k with rxSeq := (k.rxSeq + 1) % 65536, rxFailed := false, nakSent := false })
  if failed then transientFault (plainErr 0x0205 (quadDomain (quadOf port)) (port % 4) 0 port (s.kport port).rxSeq) (bumpK port 8 1 s1) else s1

/-- The port runs on one lane from here on: MODULE_QUERY's PORTS_UP shows it, and the reduced-width alarm is raised (R290, R318). -/
def kamNarrow (port : Nat) (s : State) : State := raiseAlarm 0x62 (s.modK port fun k => { k with oneLane := true })

/-- The port enters RETRAIN; frames are kept (R328). -/
def kamRetrain (port : Nat) (s : State) : State :=
  if (s.kport port).state = .up then vaultSetRecompute (bumpK port 10 1 (s.modK port fun k => { k with state := .retrain })) else s

/-- A lasting frame fault (R326). -/
def kamLasting (port : Nat) (s : State) : State :=
  kamRetrain port (lastingFault (plainErr 0x0205 (quadDomain (quadOf port)) (port % 4) 0 port (s.kport port).rxSeq) (bumpK port 9 1 s))

/-- Take the answered command of a TAG; the queue then moves on. -/
def kamTake (port tag : Nat) (s : State) : Option KCmd × State :=
  (Tbl.find (s.kport port).cmds tag, kamFlow port (s.modK port fun k => { k with cmds := Tbl.del k.cmds tag }))

/-! ## What a bridge's answer means (R350, R352, R357, R359, R361) -/

/-- Take a page on its way off its place and send its strip again (R359, R360). -/
def resendPage (n page : Nat) (s : State) : State :=
  match Tbl.find (s.mod n).media.verify page with
  | none => s
  | some v => programStrip n v (s.modMedia n fun d => { d with verify := Tbl.del d.verify page })

def resendPages (n : Nat) : List Nat → State → State
  | [], s => s
  | p :: ps, s => resendPages n ps (resendPage n p s)

/-- Pages of one wordline of a block that are on their way. -/
def wordline (m : Module) (page : Nat) : List Nat :=
  (m.media.verify.filter fun e => blkOf e.1 = blkOf page && pageIdx e.1 / 3 = pageIdx page / 3).map (·.1)

/-- A RELOC band with room is open where one can be opened. -/
def relocReady (n : Nat) (s : State) : State :=
  let m := s.mod n
  if m.media.relocBand.any fun b => decide (b.next < pagesPerBlock m) && b.blocks ≠ [] then s
  else match openBand m true s.time with
    | some m1 => s.modMod n fun _ => m1
    | none => s

/-- The targets that a GC_INTENT of a source names: the blocks of the RELOC band, and those of the next one where it has too little room left (R361). -/
def relocTargets (s : State) (n key : Nat) : List Nat :=
  let m := s.mod n
  let blocks := fun (b : Band) => b.blocks.map fun x => x.1 * 2 ^ 14 + x.2
  match m.media.relocBand with
  | none => []
  | some b =>
    if (validStrips m key).length + b.place ≤ b.blocks.length * (pagesPerBlock m - b.next) then (blocks b).take 16
    else (blocks b ++ (((openBand m true s.time).bind fun m1 => m1.media.relocBand).elim [] blocks)).take 16

/-- A revised GC_INTENT for the sources whose copies a failed target held (R363). -/
def reviseIntent (n : Nat) (pages : List Nat) (s : State) : State :=
  let hit := (pages.flatMap fun p => match Tbl.find (s.mod n).media.verify p with
    | some v => (match v.use with | .reloc key => [key] | _ => [])
    | none => []).eraseDups
  let left := fun (s : State) (key : Nat) => (relocTargets s n key).filter fun t => !pages.any fun p => blkOf p = t
  if hit = [] then s
  else
    let s1 := relocReady n s
    addGroup { pool := (poolOf s n).getD 255, notes := hit.flatMap fun key => if left s1 key = [] then [] else [intentRecord n key (left s1 key)] } s1

/-- A die is retired: its strips are missing until rebuild has written them again, and those on their way are sent to other dies (R298, R359). -/
def dieFault (n die : Nat) (s : State) : State :=
  let strips := dieStrips (s.mod n) die
  let going := ((s.mod n).media.verify.filter fun e => dieOf e.1 = die && !e.2.done).map (·.2)
  endModule n (jobsLost (fun x => x.1 = n && dieOf x.2 = die) (programAll n going (stripsLostAt n strips (retireDie n die s))))

/-- A rebuilt or copied-back strip has been programmed: it is mapped, and a POOL record marks it and ends its being missing; one that comes too late, for a segment that is no longer in use or lost or for a place that the failure list no longer gives, is garbage (R295, R300, R303, R306). -/
def rebuiltStrip (pool n seg place page : Nat) (addr : Nat) (s : State) : State :=
  match Tbl.find s.pools pool with
  | none => s
  | some p => match Tbl.find p.segs seg, layoutOf p (segLayout seg) with
    | some g, some l =>
      if g.lost || stripTarget p l (segNum seg) place ≠ some (n, addr) then s
      else addGroup { pool := pool, effects := [.placed pool seg place n addr] } (mapStrip n addr page s)
    | _, _ => s

/-- No strip of a failed member is still to be rebuilt: its places in the segments in use, those of its replacement where it has one, are all marked (R290, R303, R307). -/
def memberRebuilt (p : Pool) (m : Nat) : Bool :=
  let at_ := ((failEnt p m).bind (·.replacement)).getD m
  p.segs.all fun e => match layoutOf p (segLayout e.1) with
    | none => true
    | some l => (List.range l.w).all fun i => let h := homeOf l (segNum e.1) i
      h.1 ≠ at_ || isRebuilt p m (stripAddr l h.2)

/-- Copy-back onto a replacement has reached every segment in use (R306). -/
def memberBack (p : Pool) (e : FailEnt) : Bool :=
  match e.replacement with
  | none => false
  | some r => p.segs.all fun x => match layoutOf p (segLayout x.1) with
    | none => true
    | some l => (List.range l.w).all fun i => let h := homeOf l (segNum x.1) i
      h.1 ≠ r || isBack p r (stripAddr l h.2)

/-- Strips that a failed member's spares still hold once copy-back has ended (R306). -/
def spareStrips (p : Pool) (m : Nat) : List (Nat × Nat) :=
  (p.rebuilt.filter fun e => e.1 / 2 ^ 48 = m).filterMap fun e =>
    let addr := e.1 % 2 ^ 48
    match layoutOf p (addr / 2 ^ 36) with
    | some l => (spareOf p l (addr % 2 ^ 36 / l.w) m).map fun x => (x, addr)
    | none => none

/-- The failure list moves on: rebuilt members take STATE 2, retiring ones leave for state 7, copied-back ones leave the list (R306, R307). -/
def settleFails (pool : Nat) (s : State) : State :=
  match Tbl.find s.pools pool with
  | none => s
  | some p =>
    let back := p.failed.filter fun e => e.state = 4 && memberBack p e
    let done := p.failed.filter fun e => (e.state = 1 || e.state = 3) && memberRebuilt p e.module
    if back = [] && done = [] then s
    else
      let trims := back.flatMap fun e => spareStrips p e.module
      let s1 := trims.foldl (fun s x => trimStrip x.1 x.2 s) s
      let gone := back.flatMap fun e => [e.module, 96 + e.replacement.getD 0]
      let p1 : Pool := { p with
        failed := (p.failed.filter fun e => !back.contains e).map fun e => if done.contains e then { e with state := 2 } else e
        rebuilt := p.rebuilt.filter fun e => !gone.contains (e.1 / 2 ^ 48) }
      let p1 := recount (keepBits p p1)
      let s2 := (done.filter fun e => e.state = 3).foldl (fun s e => s.modMod e.module fun m =>
        { m with stand := .retired, retiredSerial := match m.descr with | some d => d.serial | none => 0 }) (s1.modPool pool fun _ => p1)
      configGroup pool 0x14 (superWrite pool s2)

/-- A page has been programmed (R264, R300, R346). -/
def programOk (n page : Nat) (temp : Byte) (s : State) : State :=
  match Tbl.find (s.mod n).media.verify page with
  | none => s.modBlock n (blkOf page) fun b => { b with hours := s.aon.hours, temp := temp, written := max b.written (pageIdx page + 1) }
  | some v =>
    let s1 := drainWait n (pageProgrammed n page temp s)
    match v.use with
    | .stripe q i => stripWritten q i n v.strip page s1
    | .rebuild seg i => rebuiltStrip v.pool n seg i page v.strip s1
    | .copyBack seg i => rebuiltStrip v.pool n seg i page v.strip s1
    | .reloc _ => s1

/-- Another frame of the same page is still unanswered (version 1 sends two, R349). -/
def halfOut (k : KPort) (page : Nat) : Bool :=
  let same := fun (c : KCmd) => match c with | .program 0 a _ _ => a / 16 = page / 16 | _ => false
  (k.cmds.any fun e => same e.2) || k.queue.any same

/-- The answer to a PROGRAM of the pool area (R359). -/
def programAnswer (n addr : Nat) (st : KStatus) (temp : Byte) (held : W32) (s : State) : State :=
  let page := addr / 16 * 16
  match st with
  | .ok => if halfOut (s.kport n) page then s else endModule n (programOk n page temp s)
  | .programFail =>
    let line := wordline (s.mod n) page
    let s1 := reviseIntent n line (bumpMedia n 7 1 s)
    endModule n (resendPages n line (blockRetiring n (blkOf page) s1))
  | .dieFault => dieFault n (dieOf page) s
  | .addressInvalid => endModule n (resendPages n (((s.mod n).media.verify.filter (fun e => blkOf e.1 = blkOf page)).map (·.1)) (retireBlock n (blkOf page) s))
  | .ownerFenced => ownerFenced n held (bumpK n 13 1 (s.modMedia n fun d => { d with verify := Tbl.del d.verify page }))
  | _ => s

/-- The answer to an ERASE (R350, R359). -/
def eraseAnswer (n area addr : Nat) (st : KStatus) (held : W32) (s : State) : State :=
  let key := blkOf addr
  match st with
  | .ok =>
    if area ≠ 0 then s
    else
      let b := block (s.mod n) key
      let s1 := s.modBlock n key fun b => { b with state := .free, pe := b.pe + 1, reads := 0, lasting := 0, written := 0, intent := false, copying := false }
      let s2 := if b.intent then addGroup { pool := (poolOf s n).getD 255, notes := [doneRecord n key] } s1 else s1
      mediaAlarms (drainWait n (wearCheck n s2))
  | .eraseFail => if area ≠ 0 then s else endModule n (retireBlock n key (bumpMedia n 8 1 s))
  | .addressInvalid => if area ≠ 0 then s else endModule n (retireBlock n key s)
  | .dieFault => if area ≠ 0 then s else dieFault n (dieOf addr) s
  | .ownerFenced => ownerFenced n held (bumpK n 13 1 s)
  | _ => s

/-- Means, read level by read level, of the offsets last measured for a die and set (R357). -/
def meanOffsets (l : List (List Int)) : List Int :=
  (List.range 7).map fun i => if l = [] then 0 else (l.map fun x => x.getD i 0).foldl (· + ·) 0 / l.length

/-- The answer to a THRESH_LOAD: a set that the die did not hold before has been reloaded (R356, R357). -/
def threshAnswer (n die set : Nat) (offs : List Int) (st : KStatus) (s : State) : State :=
  match st with
  | .ok => if Tbl.find (s.mod n).media.loaded (die * 256 + set) = some offs then s
    else bumpMedia n 13 1 (s.modMedia n fun d => { d with loaded := Tbl.set d.loaded (die * 256 + set) offs })
  | .dieFault => dieFault n die s
  | _ => s

/-- A codeword pending in the exchange stage reads its neighbours on wordlines w - 1 and w + 1 (R353). -/
def feedsExchange (d : Media) (cw : Nat) : Bool :=
  d.decodes.any fun e => e.2.1 = 4 && e.1 % 16 = cw % 16 && blkOf e.1 = blkOf cw
    && (pageIdx cw / 3 = pageIdx e.1 / 3 + 1 || pageIdx cw / 3 + 1 = pageIdx e.1 / 3)

/-! ## Decoders (R354) -/

/-- Bytes of a codeword at a decoder: one plane at the hard stage, two, and three. -/
def jobBytes (j : DecJob) : Nat := 4608 * min 3 j.stage

/-- A decoder's parity group is on and not fenced. -/
def decoderUp (s : State) (n : Nat) : Bool := hasBit s.power.on (26 + n / 32) && !hasBit s.power.fenced (26 + n / 32)

def decoderBytes (x : Decoder) : Nat := ((x.queue.map jobBytes).sum) + (match x.holds with | some j => jobBytes j | none => 0)

/-- The unfenced decoder with the fewest bytes queued, the lowest number first. -/
def pickDecoder (s : State) : Option Nat :=
  (((List.range 64).filter (decoderUp s)).foldl (fun (b : Option (Nat × Nat)) n =>
    let x := decoderBytes (Tbl.getD s.ldpc n {})
    match b with
    | none => some (n, x)
    | some (m, y) => if x < y then some (n, x) else some (m, y)) none).map (·.1)

/-- Rebuild of a segment without redundancy goes ahead of everything (R301); then hard-stage codewords go ahead of soft stages, foreground reads ahead of background reads; within one rank the order of arrival holds (log entry 193). -/
def jobRank (j : DecJob) : Nat := if j.urgent then 0 else 1 + (if j.stage = 1 then 0 else 1) + (if j.background then 1 else 0)

def enqueueJob (j : DecJob) (q : List DecJob) : List DecJob :=
  q.takeWhile (fun x => decide (jobRank x ≤ jobRank j)) ++ [j] ++ q.dropWhile (fun x => decide (jobRank x ≤ jobRank j))

/-- A decoder that holds nothing takes the head of its queue. -/
def decoderTake (x : Decoder) : Decoder :=
  match x.holds, x.queue with
  | none, j :: l => { holds := some j, queue := l }
  | _, _ => x

/-- The dispatcher gives a codeword to a decoder; with none up it waits at decoder 0. -/
def dispatchJob (j : DecJob) (s : State) : State :=
  let n := (pickDecoder s).getD 0
  let x := Tbl.getD s.ldpc n {}
  { s with ldpc := Tbl.set s.ldpc n (decoderTake { x with queue := enqueueJob j x.queue }) }

/-- The decoder that holds a codeword, and its job. -/
def holderOf (s : State) (n cw : Nat) : Option (Nat × DecJob) :=
  s.ldpc.findSome? fun e => match e.2.holds with
    | some j => if j.module = n && j.cw = cw then some (e.1, j) else none
    | none => none

/-- A decoder has done with its codeword. -/
def decoderFree (n : Nat) (s : State) : State :=
  { s with ldpc := Tbl.upd s.ldpc n fun x => decoderTake { x with holds := none } }

/-- The codewords of a parity group that is gone go to the other's decoders. -/
def moveJobs (group : Nat) (s : State) : State :=
  let mine := s.ldpc.filter fun e => e.1 / 32 = group
  let jobs := mine.flatMap fun e => (match e.2.holds with | some j => [j] | none => []) ++ e.2.queue
  jobs.foldl (fun s j => dispatchJob j s) { s with ldpc := s.ldpc.filter fun e => e.1 / 32 ≠ group }

/-- Codewords of a page go to the decoders at the stage of the read's sense (R353, R354). -/
def decodeStart (n page sense mask : Nat) (bg : Bool) (s : State) : State :=
  let s1 := s.modBlock n (blkOf page) fun b => { b with reads := b.reads + 1 }
  (bitsOf mask 16).foldl (fun s c =>
    if feedsExchange (s.mod n).media (page + c) then s
    else
      let again := (Tbl.getD (s.mod n).media.decodes (page + c) (1, false)).2
      dispatchJob { module := n, cw := page + c, stage := sense + 1, background := bg, urgent := urgentCw s n (page + c) }
        (s.modMedia n fun d => { d with decodes := Tbl.set d.decodes (page + c) (sense + 1, again) })) s1

/-- The answer to a READ (R331, R332); one without data leaves what waited for it to other strips (R297). -/
def readAnswer (n addr sense mask : Nat) (bg : Bool) (st : KStatus) (s : State) : State :=
  match st with
  | .ok => decodeStart n addr sense mask bg s
  | .dieFault => dieFault n (dieOf addr) s
  | _ =>
    let page := addr / 16 * 16
    let s1 := match (s.mod n).media.map.find? fun e => e.2 = page with
      | some e => stripLostAt n e.1 s
      | none => s
    jobsLost (fun x => x.1 = n && (bitsOf mask 16).any fun c => x.2 = page + c) s1

/-! ## Bridge firmware (R337) -/

/-- The module-bridge image of the running region. -/
def bridgeImage (s : State) : Option ImgRec :=
  match s.boot.src with
  | .primary => s.fw.primary.bridge
  | .staging => s.fw.staging.bridge
  | .download => none

/-- Head 0 pushes, or head 1 when head 0 is absent. -/
def mayPush (s : State) : Bool := headIndex s = 0 || singleHead s

/-- A module's bridge runs another version than the image. -/
def wantsPush (s : State) (n : Nat) : Bool :=
  match bridgeImage s with
  | some i => (s.kport n).state = .up && (s.kport n).fwVersion ≠ (hdrVersion i.header)
  | none => false

/-- Another module of the pool is being pushed, or restarts. -/
def pushBusy (s : State) (n : Nat) : Bool :=
  s.mods.any fun e => e.1 ≠ n && (e.2.push.isSome || e.2.restartAt.isSome) && (poolOf s e.1).isSome && poolOf s e.1 = poolOf s n

/-- The module's pool has no exposed segment and no failure-list entry. -/
def poolCalm (s : State) (n : Nat) : Bool :=
  match poolOf s n with
  | none => true
  | some p => match Tbl.find s.pools p with
    | some x => !anyExposed x && x.failed = []
    | none => true

/-- Bytes of image data in one BRIDGE_FW_WRITE: codeword-sized slots. -/
def pushStep (k : KPort) : Nat := if 2 ≤ k.version then 16 * 4608 else 8 * 4608

/-- The image data of one BRIDGE_FW_WRITE. -/
def pushData (s : State) (n : Nat) (img : ImgRec) (off : Nat) : List Byte := (img.payload.drop off).take (pushStep (s.kport n))

/-- A push command to the module is unanswered. -/
def pushOut (k : KPort) : Bool :=
  let is := fun (c : KCmd) => match c with | .fwWrite _ _ => true | .fwActivate _ _ => true | _ => false
  (k.cmds.any fun e => is e.2) || k.queue.any is

/-- Start or carry on the push to one module. -/
def pushOne (n : Nat) (s : State) : State :=
  match bridgeImage s with
  | none => s
  | some img =>
    let m := s.mod n
    if !mayPush s || m.restartAt.isSome || pushOut (s.kport n) || (s.kport n).state ≠ .up then s
    else match m.push with
      | none => if wantsPush s n && !pushBusy s n then kamSend n (.fwWrite 0 (pushData s n img 0)) (s.modMod n fun m => { m with push := some 0 }) else s
      | some off =>
        if off < img.payload.length then kamSend n (.fwWrite off (pushData s n img off)) s
        else if poolCalm s n then kamSend n (.fwActivate img.payload.length (Config.crc32c img.payload)) s else s

/-- Carry on the pushes of every module (R337). -/
def pushAll (s : State) : State := (s.mods.map (·.1)).foldl (fun s n => pushOne n s) s

/-! ## Coming up and going down (R328, R336, R360) -/

/-- A running POOL_CREATE completes once no superblock write of its members is unanswered (R288). -/
def poolCreated (pool : Nat) (s : State) : State :=
  match Tbl.find s.pools pool with
  | none => s
  | some p =>
    if p.creating && !superOut s p then
      finishOp 0x0301 (replyOk (le64 p.cur.capacity)) (s.modPool pool fun p => { p with creating := false })
    else s

/-- Superblock writes may have been answered: what waits for them goes on (R288, R293). -/
def poolsCreated (s : State) : State := (s.pools.map (·.1)).foldl (fun s p => superDone p (poolCreated p s)) s

/-- A link is UP: what waited for the module leaves, blocks whose erase went unanswered are erased again, and so are vault banks that hold nothing needed (R267, R274). -/
def kamUp (port : Nat) (s : State) : State :=
  let s1 := s.modK port fun k => { k with state := .up, attempts := 0, hellos := 0, retrainFails := 0 }
  let dirty := ((s1.mod port).media.blocks.filter fun e => e.2.state = .dirty).map (·.1)
  let s2 := dirty.foldl (fun s key => eraseBlock port key s) s1
  pushAll (drainWait port (kamAlarms (vaultSetRecompute (eraseUnused port s2))))

/-- What becomes of one outstanding command when its port goes down (R336, R360). -/
def kamOrphan (port : Nat) (peer : Bool) (c : KCmd) (s : State) : State :=
  match c with
  | .read a _ _ mask _ => if peer then jalSend (.proxyMedia port c) s else jobsLost (fun x => x.1 = port && (bitsOf mask 16).any fun i => x.2 = a / 16 * 16 + i) s
  | .program 0 a _ _ =>
    let page := a / 16 * 16
    let line := (wordline (s.mod port) page).filter fun p => match Tbl.find (s.mod port).media.verify p with
      | some v => !v.answered
      | none => false
    let s1 := if (block (s.mod port) (blkOf page)).state = .opened then
        queueReloc port (blkOf page) ((s.modBlock port (blkOf page) fun b => { b with state := .closed }).modMedia port (leaveBands (blkOf page)))
      else s
    resendPages port line s1
  | _ => s

def kamOrphans (port : Nat) (peer : Bool) : List KCmd → State → State
  | [], s => s
  | c :: cs, s => kamOrphans port peer cs (kamOrphan port peer c s)

/-- A port leaves UP, or never reached it, for DOWN or OFF (R328, R336). DESIGN CHOICE: SEQ starts from 0 again in both directions, for R325 gives no first value and R327 completes every command of the port (log entry 229). -/
def kamDown (port : Nat) (next : KState) (s : State) : State :=
  let k := s.kport port
  let cmds := k.cmds.map (·.2) ++ k.queue
  let s0 := if s.carafe.run.isSome then vaultDrop port s else s
  let s1 := s0.modK port fun k => { k with
    state := next, unacked := [], cmds := [], queue := [], txSeq := 0, rxSeq := 0, rxFailed := false, nakSent := false,
    downAt := s.time.toNat, attempts := 0, hellos := 0, retrainFails := 0 }
  let s2 := s1.modMod port fun m => { m with push := none }
  poolsCreated (kamAlarms (vaultSetRecompute (kamOrphans port k.peerUp cmds s2)))

/-- DOWN with the link alarm (R328). -/
def kamDownAlarm (port : Nat) (s : State) : State := raiseAlarm 0x61 (kamDown port .down s)

/-- The serial numbers of a module differ between the heads (R315). -/
def serialDiffers (port : Nat) (own peer : W64) (s : State) : State :=
  kamDown port .down (raiseAlarm 0x60 (event 2 0x40 (le8 port ++ zeros 7 ++ le64 own.toNat ++ le64 peer.toNat) s))

end Sys2Proof.Machine
end

