-- ==== Sys2Proof/Machine/Flash.lean ====
section
/-! DEFINITION. Machine/Flash.lean: events of flash management: verification, decoding, bands, reclaim, segment cleaning, scrubbing (R347 to R366). -/
namespace Sys2Proof.Machine
open Sys2Proof

/-! ## Read-back verification (R352) -/

/-- Copies of a move are all verified: its strip-map records are journaled (R361 step 3). -/
def moveVerified (n key : Nat) (s : State) : State :=
  let d := (s.mod n).media
  let mine := fun (v : VPage) => v.use = .reloc key
  let copies := d.verify.filter fun e => mine e.2
  let uncopied := (validStrips (s.mod n) key).any fun e => !copies.any fun c => c.2.strip = e.1
  if copies = [] || copies.any (fun e => !e.2.done) || d.wait.any mine || uncopied then s
  else
    let s1 := (s.modMedia n fun d => { d with verify := d.verify.filter fun e => !mine e.2 }).modBlock n key fun b => { b with copying := false }
    addGroup { pool := (poolOf s n).getD 255, stripMoves := copies.map fun e => (n, key, e.2.strip, e.1) } s1

/-- A page has passed its verification. -/
def pageVerified (n page : Nat) (v : VPage) (s : State) : State :=
  match v.use with
  | .reloc key => moveVerified n key (releaseParity n (s.modMedia n fun d => { d with verify := Tbl.set d.verify page { v with done := true } }))
  | .stripe q i =>
    let s1 := releaseParity n (s.modMedia n fun d => { d with verify := Tbl.del d.verify page })
    sifRetire q (sifTell q (s1.modSif q fun x => { x with verified := setBit x.verified i }))
  | _ => releaseParity n (s.modMedia n fun d => { d with verify := Tbl.del d.verify page })

/-- The programmed pages at the index of a page on the other dies of its band; none where die parity cannot rebuild it: the parity is released, or the index has lost another page (R351, R352). -/
def parityMates (m : Module) (page : Nat) : Option (List Nat) :=
  match (bandsOf m.media).find? (inBand page) with
  | none => none
  | some b =>
    if b.lost.contains (pageIdx page) || (Tbl.find b.parity (pageIdx page)).isNone then none
    else some (((b.blocks ++ b.left).filter fun x => x ≠ (dieOf page, blkOf page % 2 ^ 14) && decide (pageIdx page < (block m (x.1 * 2 ^ 14 + x.2)).written)).map
      fun x => pageAddr x.1 x.2 (pageIdx page))

/-- A lost page is rebuilt from its index's parity page and the pages of the other dies, and its strip written to the NEW band (R352). -/
def fromParity (n : Nat) (v : VPage) (mates : List Nat) (s : State) : State :=
  if mates = [] then programStrip n v s
  else addJob (.mend n v) (mates.flatMap fun p => (List.range 16).map fun c => (n, p + c)) (mates.foldl (fun s p => readPage true n p 0xFFFF 0 s) s)

/-- A lost page that die parity cannot rebuild: its strip goes to the rebuild queue (R298, R352); the strip of a move is copied from its source again. -/
def beyondParity (n : Nat) (v : VPage) (s : State) : State :=
  match v.use with
  | .reloc _ => s
  | .stripe q i => sifRetire q (stripLostAt n v.strip (s.modSif q fun x => { x with written := x.written &&& ~~~ setBit 0 i }))
  | _ => stripLostAt n v.strip s

/-- A page has failed its verification twice: its strip is rebuilt and written again, its block retires (R352). -/
def verifyLost (n page : Nat) (v : VPage) (s : State) : State :=
  let s1 := bumpMedia n 6 1 (lastingFault (plainErr 0x0106 (quadDomain (quadOf n)) (n % 4) page 0 0) s)
  let s2 := reviseIntent n [page] s1
  let mates := parityMates (s2.mod n) page
  let s3 := s2.modMedia n fun d => overBands (fun b => if inBand page b then { b with lost := b.lost ++ [pageIdx page] } else b) { d with verify := Tbl.del d.verify page }
  let again : VPage := { v with failed := false, answered := false, inReloc := false }
  let s4 := match mates with
    | some l => fromParity n again l s3
    | none => beyondParity n again s3
  endModule n (releaseParity n (blockRetiring n (blkOf page) s4))

/-- The wordline after a page's own on its die has been programmed (R352). -/
def lineAfter (m : Module) (page : Nat) : Bool := decide (3 * (pageIdx page / 3 + 2) ≤ (block m (blkOf page)).written)

/-- A page is read back once the wordline after its own has been programmed, or 200 ms after its answer (R352). -/
def verifyTime (n page : Nat) (v : VPage) (s : State) : State := if lineAfter (s.mod n) page then s else reachTime (v.at_ + 200000000) s

/-- Every codeword of a page decodes at the hard stage with at most 96 corrected bits, and its CRCs hold (R346, R352). -/
def pagePasses (res : List DecodeResult) : Bool :=
  res.length = 16 && res.all fun r => match r with
    | .ok c d m => decide (c ≤ 96) && cwHolds d m
    | .failed => false

/-- A page is hard-read for verification, and passes or not, by what the hard stage made of its 16 codewords (R352). -/
def execPageVerify (module : Fin 96) (page : Nat) (res : List DecodeResult) (s : State) : Res := onLive s fun s =>
  match Tbl.find (s.mod module).media.verify page with
  | none => s
  | some v =>
    if !v.answered || v.done then s
    else
      let s1 := readPage false module page 0xFFFF 0 (verifyTime module page v s)
      if pagePasses res then
        let s2 := if v.failed then transientFault (plainErr 0x0106 (quadDomain (quadOf module)) (module % 4) page 0 0) s1 else s1
        pageVerified module page v s2
      else if v.failed then verifyLost module page v s1
      else s1.modMedia module fun d => { d with verify := Tbl.set d.verify page { v with failed := true } }

/-! ## Decoding (R353, R355, R357, R358) -/

/-- The strip that a page holds. -/
def stripOfPage (d : Media) (page : Nat) : Option Nat := (d.map.find? fun e => e.2 = page).map (·.1)

/-- A THRESH_LOAD of a die's set is unanswered. -/
def reloading (k : KPort) (die set : Nat) : Bool :=
  let is := fun (c : KCmd) => match c with | .threshLoad x y _ => decide (x = die) && decide (y = set) | _ => false
  (k.cmds.any fun e => is e.2) || k.queue.any is

/-- A measured offset joins the mean of its die and set; a mean 2 DAC steps away reloads the set (R357). -/
def noteOffset (n page : Nat) (offsets : List Int) (s : State) : State :=
  let die := dieOf page
  let set := threshSet s n page
  let key := die * 256 + set
  let l := Tbl.getD (s.mod n).media.offsets key [] ++ [offsets]
  let l16 := l.drop (l.length - 16)
  let s1 := s.modMedia n fun d => { d with offsets := Tbl.set d.offsets key l16 }
  let mean := meanOffsets l16
  if !reloading (s1.kport n) die set && (mean.zip (loadedSet (s1.mod n) die set)).any fun x => 2 ≤ x.1 - x.2 || x.1 - x.2 ≤ -2 then mediaSend n (.threshLoad die set mean) s1 else s1

/-- A codeword has decoded, and what waited for it goes on. -/
def decodeOk (n cw stage : Nat) (again : Bool) (corrected : Nat) (offsets : List Int) (s : State) : State :=
  let page := cw / 16 * 16
  let s1 := s.modMedia n fun d => { d with decodes := Tbl.del d.decodes cw }
  let s2 := if again then bumpMedia n 4 1 (transientFault (plainErr 0x0301 (quadDomain (quadOf n)) (n % 4) cw 0 0) s1) else s1
  let s3 := if again || 2 ≤ stage || 180 < corrected then queueReloc n (blkOf page) s2 else s2
  jobsRead n cw (if 2 ≤ stage then noteOffset n page offsets s3 else s3)

/-- Neighbouring wordlines of a page are hard-read for the exchange stage (R353 stage 4). -/
def readNeighbours (bg : Bool) (n cw : Nat) (s : State) : State :=
  let page := cw / 16 * 16
  let w := pageIdx page / 3
  let base := page - 16 * pageIdx page
  let last := pagesPerBlock (s.mod n) / 3
  let mask := 2 ^ (cw % 16)
  let up := fun (s : State) => if w + 1 < last then readPage bg n (base + 16 * (3 * (w + 1) + pageIdx page % 3)) mask 0 s else s
  let down := fun (s : State) => if 1 ≤ w then readPage bg n (base + 16 * (3 * (w - 1) + pageIdx page % 3)) mask 0 s else s
  down (up s)

/-- A codeword has failed all stages twice: its strip is unreadable, and what waited for it reads others in its place (R297, R355). -/
def decodeLost (n cw : Nat) (s : State) : State :=
  let page := cw / 16 * 16
  let s1 := bumpMedia n 5 1 (lastingFault (plainErr 0x0302 (quadDomain (quadOf n)) (n % 4) cw 0 0) (s.modMedia n fun d => { d with decodes := Tbl.del d.decodes cw }))
  let s2 := jobsLost (fun x => decide (x = (n, cw))) (match stripOfPage (s1.mod n).media page with
    | some a => stripLostAt n a s1
    | none => s1)
  let s3 := s2.modBlock n (blkOf page) fun b => { b with lasting := b.lasting + 1 }
  if 2 ≤ (block (s3.mod n) (blkOf page)).lasting then endModule n (blockRetiring n (blkOf page) s3) else s3

/-- The corrected bits of a decode whose CRCs hold. -/
def decodedBits : DecodeResult → Option Nat
  | .ok c d m => if cwHolds d m then some c else none
  | .failed => none

/-- The data of a decode. -/
def decodedData : DecodeResult → List Byte
  | .ok _ d _ => d
  | .failed => []

/-- The pool, segment and place whose strip a page holds. -/
def placeOfPage (s : State) (n page : Nat) : Option (Nat × Nat × Nat) :=
  (stripOfPage (s.mod n).media page).bind fun a => s.pools.findSome? fun e => (segOfStrip e.2 n a).map fun x => (e.1, x)

/-- A decoder finishes the codeword that it holds, with the offsets that it measured at the 7 read levels: the next stage, the repeat of all stages, or the end (R353, R355). A decode that converges but whose CRCs fail counts as a failure of its stage (R346). -/
def execLdpcDecodeDone (module : Fin 96) (cw : Nat) (res : DecodeResult) (offsets : List Int) (s : State) : Res := onLive s fun s =>
  match Tbl.find (s.mod module).media.decodes cw, holderOf s module cw with
  | some (stage, again), some (dec, job) =>
    let s1 := decoderFree dec (bumpMedia module (stage - 1) 1 s)
    let page := cw / 16 * 16
    let mask := 2 ^ (cw % 16)
    let go := fun (st : Nat) (r : Bool) => s1.modMedia module fun d => { d with decodes := Tbl.set d.decodes cw (st, r) }
    match decodedBits res with
    | some corrected => decodeOk module cw stage again corrected offsets (checkCw module cw (placeOfPage s1 module page) (decodedData res) s1)
    | none =>
      if stage < 3 then readPage job.background module page mask stage (go (stage + 1) again)
      else if stage = 3 then dispatchJob { job with stage := 4 } (readNeighbours job.background module cw (go 4 again))
      else if again then decodeLost module cw s1
      else readPage job.background module page mask 0 (go 1 true)
  | _, _ => s

/-! ## Bands (R347) -/

/-- Fill the current wordline of each die of a band with filler codewords. -/
def fillBand (n : Nat) (b : Band) (s : State) : State :=
  b.blocks.zipIdx.foldl (fun s x =>
    let next := if x.2 < b.place then b.next + 1 else b.next
    (List.range ((3 - next % 3) % 3)).foldl (fun s i =>
      let page := pageAddr x.1.1 x.1.2 (next + i)
      sendPage n page (pageCws s n page 3 ((poolOf s n).getD 0) 0 0 (zeros 65536)) s) s) s

/-- A band without a write for 1 h is closed. -/
def execBandIdleClose (module : Fin 96) (inReloc : Bool) (s : State) : Res := onRun s fun s =>
  match bandOf (s.mod module).media inReloc with
  | none => s
  | some b =>
    let s1 := fillBand module b (reachTime (b.lastWrite.toNat + 3600000000000) s)
    let s2 := s1.modMedia module fun d => { if inReloc then { d with relocBand := none } else { d with newBand := none } with closing := d.closing ++ [b] }
    let s3 := b.blocks.foldl (fun s x => s.modBlock module (x.1 * 2 ^ 14 + x.2) fun k => { k with state := if k.state = .opened then .closed else k.state }) s2
    drainWait module (b.blocks.foldl (fun s x => levelWear module x.1 s) s3)

/-- Every second MODULE_INFO is sent to read the temperatures (R356). -/
def execModuleInfoPoll (module : Fin 96) (s : State) : Res := onRun s fun s =>
  if (s.kport module).state = .up then kamSend module .moduleInfo s else s

/-! ## Garbage collection (R361, R362) -/

/-- A strip of a source block is read, and copied to the RELOC band once it has been: one block of garbage collection's work (R35, R361 step 1). -/
def copyStrip (n key : Nat) (idle : Bool) (s : State) (e : Nat × Nat) : State :=
  govRun 0 idle (stripCost 1 1 0) (fun s =>
    let v : VPage := { strip := e.1, pool := (poolOf s n).getD 255, use := .reloc key, inReloc := true }
    addJob (.program [(n, v)] false) (readCws [(n, e.1, e.2, 0xFFFF)]) (issueReads true [(n, e.1, e.2, 0xFFFF)] s)) s

/-- Strips of a source block whose copy has not begun. -/
def notCopied (s : State) (n key : Nat) : List (Nat × Nat) :=
  let m := s.mod n
  let going := fun (v : VPage) (a : Nat) => v.use = .reloc key && v.strip = a
  (validStrips m key).filter fun e => !(m.media.verify.any fun x => going x.2 e.1) && !(m.media.wait.any fun v => going v e.1)
    && !jobPages s fun k v => k = n && going v e.1

/-- A move of the block is under way: pages copied, or a record group of it that has not committed. -/
def moveGoing (s : State) (n key : Nat) : Bool :=
  (s.mod n).media.verify.any (fun e => e.2.use = .reloc key) || (s.mod n).media.wait.any (fun v => v.use = .reloc key)
    || jobPages s (fun k v => k = n && v.use = .reloc key)
    || (openGroups s).any fun g => g.intents.contains (n, key) || g.stripMoves.any fun x => x.1 = n && x.2.1 = key

/-- Block reclaim runs on a die (R340, R362). -/
def reclaimRuns (m : Module) (die : Nat) : Bool := decide (100 * dieFree m die < 3 * blocksPerDie m)

/-- Reclaim prefers one closed block to another: fewer valid strips, then the lower band sequence (R362). -/
def reclaimBefore (m : Module) (a b : Nat) : Bool :=
  let x := (validStrips m a).length
  let y := (validStrips m b).length
  decide (x < y) || (decide (x = y) && decide ((block m a).band < (block m b).band))

/-- The closed block is the one that its die's reclaim takes next: the first of the die in the relocation queue; with none there, and too few free blocks on the die, the closed block with the fewest valid strips (R358, R362). -/
def reclaimTakes (m : Module) (key : Nat) : Bool :=
  match m.media.reloc.find? fun b => dieOfBlk b = dieOfBlk key && decide ((block m b).state = .closed) with
  | some b => decide (b = key)
  | none => reclaimRuns m (dieOfBlk key) && !(m.media.blocks.any fun e =>
      dieOfBlk e.1 = dieOfBlk key && decide (e.2.state = .closed) && validStrips m e.1 ≠ [] && reclaimBefore m e.1 key)

/-- Block reclaim takes a closed block, or moves what a retiring one still holds: GC_INTENT is journaled, and once it has committed the strips are copied, each against tokens of its own (R35, R361); it waits where the die has no target block. -/
def execBlockReclaim (module : Fin 96) (block_ : Nat) (idle : Bool) (s : State) : Res := onRun s fun s =>
  let b := block (s.mod module) block_
  if b.copying then (notCopied s module block_).foldl (copyStrip module block_ idle) s
  else if ((b.state = .closed ∧ reclaimTakes (s.mod module) block_) ∨ (b.state = .retiring ∧ !moveGoing s module block_)) ∧ validStrips (s.mod module) block_ ≠ [] then
    let s1 := s.modBlock module block_ fun b => { b with state := if b.state = .closed then .source else b.state, intent := true }
    let s2 := relocReady module (s1.modMedia module fun d => { d with reloc := d.reloc.filter (· ≠ block_) })
    let to_ := relocTargets s2 module block_
    if to_ = [] then s
    else addGroup { pool := (poolOf s module).getD 255, intents := [(module, block_)], notes := [intentRecord module block_ to_] } s2
  else s

/-- Units of a segment that garbage collection moves: live ones, never lost ones (R305, R361). -/
def liveUnits (s : State) (g : Seg) : List (Nat × UnitRec) := liveOf s g.units

/-- The live slots of one compression group are read, and join a gathering segment once they have been (R227, R361 step 1). -/
def moveGroup (pool : Nat) (units : List Nat) (s : State) : State :=
  let l := units.filter fun u => (unitReads s false u).isSome
  let reads := l.flatMap fun u => (unitReads s false u).getD []
  if reads = [] then s
  else addJob (.gather pool l) (readCws reads) (issueReads true reads (l.foldl (fun s u => cacheRead 1 u s) s))

/-- Move compression groups one after another out of a segment, each against tokens of the activity (R35); what may not be issued stays where it is for a later attempt. `mark` notes that the segment's copying has begun. -/
def moveGroups (a : Nat) (idle : Bool) (pool : Nat) (shape : Layout) (mark : State → State) (units : List (Nat × UnitRec)) : List Nat → State → State
  | [], s => s
  | g :: gs, s =>
    let us := units.filter fun u => u.2.group = g
    moveGroups a idle pool shape mark units gs
      (if !gatherRoom s pool then s else govRun a idle (moveCost shape.k shape.m (groupGranules (us.map fun u => slotBytesOf u.2))) (fun s => moveGroup pool (us.map (·.1)) (mark s)) s)

/-- Units that are already on their way to another segment. -/
def movingUnits (s : State) : List Nat :=
  (s.jobs.flatMap fun e => match e.2.use with
      | .gather _ units => units
      | _ => [])
    ++ (s.pools.flatMap fun p => p.2.gathers.flatMap fun g => g.2.moves.map (·.1)) ++ s.carafe.sif.flatMap (fun x => x.2.moves.map (·.1))
    ++ (openGroups s).flatMap fun g => g.moves.map (·.1)

/-- Move the live units of a segment into gathering segments, as an activity's work (R310 step 1, R361); Topiary's are counted until their release. -/
def moveSegment (a : Nat) (idle : Bool) (pool key : Nat) (s : State) : State :=
  match Tbl.find s.pools pool with
  | none => s
  | some p => match Tbl.find p.segs key with
    | none => s
    | some g =>
      if !g.settled || !p.owned || p.fenced || p.offline || p.checking then s
      else
        let busy := movingUnits s
        let units := (liveUnits s g).filter fun u => !busy.contains u.1
        let mark := fun (s : State) => if a = 3 then s.modPool pool fun p => { p with segs := Tbl.upd p.segs key fun g => { g with moving := true } } else s
        moveGroups a idle pool (p.target.getD p.cur) mark units (units.map fun u => u.2.group).eraseDups s

/-- Bytes of live slots in a segment, and of its data strips: its live fraction (R362). -/
def liveShare (s : State) (p : Pool) (e : Nat × Seg) : Nat × Nat :=
  (((liveUnits s e.2).map fun u => slotBytesOf u.2).sum, match layoutOf p (segLayout e.1) with
    | some l => l.k * 65536
    | none => 1)

/-- A closed segment with live units that are not all on their way yet. -/
def cleanable (s : State) (e : Nat × Seg) : Bool :=
  let busy := movingUnits s
  e.2.settled && (liveUnits s e.2).any fun u => !busy.contains u.1

/-- Cleaning prefers one segment to another: the lower live fraction, then the older (R362). -/
def cleanBefore (s : State) (p : Pool) (a b : Nat × Seg) : Bool :=
  let x := liveShare s p a
  let y := liveShare s p b
  decide (x.1 * y.2 < y.1 * x.2) || (decide (x.1 * y.2 = y.1 * x.2) && decide (a.2.opened < b.2.opened))

/-- Segment cleaning takes the segment now: free segments run short or its live fraction is below a quarter, and no other comes before it (R362). -/
def cleanTakes (s : State) (p : Pool) (e : Nat × Seg) : Bool :=
  let x := liveShare s p e
  (decide (freeSegs p < 3 * (writeLayout p).reserve) || decide (4 * x.1 < x.2))
    && !(p.segs.any fun o => cleanable s o && cleanBefore s p o e)

/-- Segment cleaning takes a sparsely used segment (R361, R362). -/
def execSegmentCleaning (pool : Fin 8) (seg : Nat) (idle : Bool) (s : State) : Res := onRun s fun s =>
  match Tbl.find s.pools pool with
  | none => s
  | some p => match Tbl.find p.segs seg with
    | none => s
    | some g => if cleanTakes s p (seg, g) then moveSegment 0 idle pool seg s else s

/-! ## Scrubbing (R358, R365) -/

/-- One closed block comes before another in scrubbing: the older band first (R365). -/
def scrubBefore (m : Module) (a b : Nat) : Bool :=
  decide ((block m a).band < (block m b).band) || (decide ((block m a).band = (block m b).band) && decide (a < b))

/-- The first of some closed blocks. -/
def scrubFirst (m : Module) : List Nat → Option Nat
  | [] => none
  | b :: l => some (l.foldl (fun x y => if scrubBefore m y x then y else x) b)

/-- The page that scrubbing reads next: the one after the last in its block, then the programmed pages of the next closed block, oldest band first, and from the oldest again (R365). -/
def scrubNext (m : Module) : Option Nat :=
  let closed := (m.media.blocks.filter fun e => decide (e.2.state = .closed) && decide (0 < e.2.written)).map (·.1)
  match m.media.scrubbed with
  | none => (scrubFirst m closed).map (· * 2 ^ 16)
  | some p =>
    if closed.contains (blkOf p) && decide (pageIdx p + 1 < (block m (blkOf p)).written) then some (p + 16)
    else ((scrubFirst m (closed.filter fun k => scrubBefore m (blkOf p) k)).orElse fun _ => scrubFirst m closed).map (· * 2 ^ 16)

/-- Scrubbing hard-reads the page whose turn it is; the last page of a block resets a read count that has reached the limit and queued nothing (R358, R365). -/
def execScrubPage (module : Fin 96) (page : Nat) (idle : Bool) (s : State) : Res := onRun s fun s =>
  let b := block (s.mod module) (blkOf page)
  if scrubNext (s.mod module) = some page then
    govRun 2 idle [(1, 1152), (2, 1152)] (fun s =>
      let s1 := bumpMedia module 12 1 (readPage true module page 0xFFFF 0 (s.modMedia module fun d => { d with scrubbed := some page }))
      if pageIdx page + 1 = b.written ∧ 100000 ≤ b.reads ∧ ¬ (s1.mod module).media.reloc.contains (blkOf page) then
        s1.modBlock module (blkOf page) fun b => { b with reads := 0 }
      else s1) s
  else s

end Sys2Proof.Machine
end

