-- ==== Sys2Proof/Machine/Carafe.lean ====
section
/-! DEFINITION. Machine/Carafe.lean: gathering segments, commit of record groups, compaction, scratchpad, the open-segment check (R245 to R277, R292 to R295). -/
namespace Sys2Proof.Machine
open Sys2Proof

/-- A gathering segment closes: a group did not fit in it, dirty data is above 90 % of the own limit, or 50 ms have passed since its first group (R292). -/
def execSegmentClose (pool : Fin 8) (gather : Nat) (s : State) : Res := onRun s fun s =>
  match Tbl.find s.pools pool with
  | none => s
  | some p => match Tbl.find p.gathers gather with
    | none => s
    | some g =>
      if g.granules = 0 || g.through.isSome || g.closing then s
      else if g.full || decide (9 * ownLimit s < 10 * ownDirty s) then closeGather pool gather s
      else closeGather pool gather (reachTime (g.opened.toNat + 50000000) s)

/-- What follows a commit: ring space for the groups that wait, the next groups of every pool, the failure lists, the dirty limit, the vault bank of a replayed vault (R246, R258, R260, R274, R306). -/
def afterCommit (s : State) : State :=
  let s1 := drainGroups s.journal.waiting.length (alarmIs 0x21 (decide (2 ^ 29 ≤ liveJournal s) || s.journal.waiting ≠ []) s)
  let s2 := (s1.pools.map (·.1)).foldl (fun s p => settleFails p (formAll p s)) s1
  vaultSpent (vaultSetRecompute s2)

/-- The next record group in GSEQ order commits, once it is whole here and acknowledged (R258). -/
def execJournalGroupCommit (s : State) : Res := onRun s fun s =>
  match nextCommit s with
  | none => s
  | some (n, g) => if mayCommit s n g then afterCommit (commitGroup n g s) else s

/-- Highest committed GSEQ (R259 step 1). -/
def highestCommitted (s : State) : Nat := (s.journal.groups.filter fun g => g.2.committed).foldl (fun m g => max m g.1) s.journal.through

/-- The bytes of a page of the on-flash map; what the root page says of the others is a free value (R221, R256, R342, R348). -/
def pageBytes (s : State) (pool g item : Nat) : List Byte :=
  let n := item / 8
  let map := fun (t : Tbl MapEnt) => (List.range 512).flatMap fun i => mapEntBytes (Tbl.find t (n % 2 ^ 40 * 512 + i))
  fit 4096 (match item % 8 with
    | 0 => (Tbl.find s.ns (n / 2 ^ 40)).elim [] fun v => map v.map
    | 1 => (Tbl.find s.snaps.views (n / 2 ^ 40)).elim [] fun w => map w.map
    | 2 => (List.range 128).flatMap fun i => match Tbl.find s.grinder.units (n * 128 + i) with
      | some u => unitBytes s (n * 128 + i) u
      | none => zeros 32
    | 3 => (List.range 512).flatMap fun i => le64 (match Tbl.find (s.mod (n / 2 ^ 48)).media.map (n % 2 ^ 48 * 512 + i) with
      | some page => n / 2 ^ 48 * 2 ^ 56 + page
      | none => 0)
    | _ => Config.mapRootPage pool g)

/-- A pool's changed pages go, with a new root page behind them, into metadata segments of their own (R259 step 2, R348). -/
def pageGathers (g : Nat) (s : State) (pool : Nat) : State :=
  match Tbl.find s.pools pool with
  | none => s
  | some p =>
    let items := p.changed.map (·.1) ++ [rootPage]
    let per := (writeLayout p).granules / 8
    if p.changed = [] || !p.owned then s
    else s.modPool pool fun p => (List.range (ceilDiv items.length (max 1 per))).foldl (fun p i =>
      let part := (items.drop (i * per)).take per
      { p with
        gathers := Tbl.set p.gathers p.nextGather { granules := 8 * part.length, data := part.flatMap (pageBytes s pool g), full := true, pages := part, through := some g, opened := s.time }
        nextGather := p.nextGather + 1 }) { p with changed := [] }

/-- Strips of a metadata segment that have not been issued yet go out one by one, each a block of the compaction's work: a strip of Kamard transmit and 64 KiB read from DDR; with the last one the segment is written (R35, R259; log entry 223). -/
def payPages (idle : Bool) (pool gi : Nat) : Nat → State → State
  | 0, s => s
  | f + 1, s => match (Tbl.find s.pools pool).bind fun p => (Tbl.find p.gathers gi).map fun g => (g, (writeLayout p).w) with
    | none => s
    | some (g, w) =>
      if w ≤ g.paid then (if g.closing then s else closeGather pool gi s)
      else if govMay 5 idle [(0, 1152), (6, 1024)] s then
        payPages idle pool gi f (govRun 5 idle [(0, 1152), (6, 1024)] (fun s => s.modPool pool fun p => { p with gathers := Tbl.upd p.gathers gi fun g => { g with paid := g.paid + 1 } }) s)
      else govRun 5 idle [(0, 1152), (6, 1024)] id s

/-- Every metadata segment that waits. -/
def payAll (idle : Bool) (s : State) : State :=
  (s.pools.flatMap fun p => (p.2.gathers.filter fun g => g.2.through.isSome).map fun g => (p.1, g.1)).foldl (fun s x => payPages idle x.1 x.2 40 s) s

/-- Compaction starts: the live journal exceeds 256 MiB, or 2 s have passed since the last start; the pages that have changed are gathered, and leave strip by strip; a compaction that waits for tokens goes on (R259 steps 1, 2). -/
def execCompactionStart (idle : Bool) (s : State) : Res := onRun s fun s =>
  if s.journal.compacting.isSome then payAll idle s
  else
    let s1 := if 2 ^ 28 < liveJournal s then s else reachTime (s.journal.lastCompact + 2000000000) s
    let g := highestCommitted s1
    payAll idle ((s1.pools.map (·.1)).foldl (pageGathers g) { s1 with journal := { s1.journal with compacting := some g, lastCompact := s1.time.toNat } })

/-- The reduced address of a pool's root page, in the newest metadata segment that has one; before the first compaction the superblock's root holds (R282, R285, R342). -/
def rootOf (s : State) (pool : Nat) : Nat :=
  match Tbl.find s.pools pool with
  | none => 0
  | some p =>
    let newest := p.segs.foldl (fun (b : Option (Nat × Nat × Seg)) e => match e.2.through, b with
      | some n, some (m, _, _) => if e.2.pages.contains rootPage && decide (m ≤ n) then some (n, e.1, e.2) else b
      | some n, none => if e.2.pages.contains rootPage then some (n, e.1, e.2) else none
      | none, _ => b) none
    match newest with
    | some (_, key, g) => (match layoutOf p (segLayout key) with
      | some l => 2 ^ 63 + l.id * 2 ^ 45 + segNum key * l.granules + 8 * g.pages.length - 8
      | none => Config.mapRoot pool)
    | none => Config.mapRoot pool

/-- A COMPACT record for each owned pool, with its root; ring space is freed when the last of them commits (R256, R259 step 4, R261). -/
def compactGroups (g : Nat) : List Nat → State → State
  | [], s => addGroup { pool := 255, notes := [compactRecord g 0], effects := [.compact g] } s
  | [p], s => addGroup { pool := p, notes := [compactRecord g (rootOf s p)], effects := [.compact g] } s
  | p :: q :: ps, s => compactGroups g (q :: ps) (addGroup { pool := p, notes := [compactRecord g (rootOf s p)] } s)

/-- Pages of the compaction are still on their way: a segment waits, or a stripe of one has not committed. -/
def pagesOut (s : State) : Bool :=
  (s.pools.any fun p => p.2.gathers.any fun g => g.2.through.isSome)
    || s.carafe.sif.any fun x => x.2.state ≠ .committed && (Tbl.find s.pools x.2.pool).any fun p => (Tbl.find p.segs x.2.stripe).any fun g => g.through.isSome

/-- The pages of the compaction are programmed (R259 steps 3, 4). -/
def execCompactionPagesProgrammed (s : State) : Res := onRun s fun s =>
  match s.journal.compacting with
  | none => s
  | some g =>
    if pagesOut s || (openGroups s).any fun x => x.effects.contains (.compact g) then s
    else compactGroups g ((s.pools.filter fun p => p.2.owned).map (·.1)) s

/-- Zero the k-th way's part of the window. -/
def zeroWay (k : Nat) (m : Mem) : Mem :=
  m.filter fun c => decide (c.1 < scratchBase + k * scratchWay) || decide (scratchBase + (k + 1) * scratchWay ≤ c.1)

/-- One way of every set is written back, invalidated and zeroed, and becomes scratchpad: way 15 first, then down to way 8 (R253). -/
def execScratchpadConvert (s : State) : Res := onRun s fun s =>
  if s.mapCache.ways < 8 then { s with mapCache := { s.mapCache with ways := s.mapCache.ways + 1, banks := dropWay (15 - s.mapCache.ways) s.mapCache.banks }, onchip := zeroWay s.mapCache.ways s.onchip } else s

/-- The last converted way is zeroed and returns to the cache (R253). -/
def execScratchpadReturn (s : State) : Res := onRun s fun s =>
  if 0 < s.mapCache.ways then { s with mapCache := { s.mapCache with ways := s.mapCache.ways - 1 }, onchip := zeroWay (s.mapCache.ways - 1) s.onchip } else s

/-- Any fence of a map-cache bank withdraws the whole scratchpad (R254). -/
def scratchWithdraw (s : State) : State :=
  { s with mapCache := { s.mapCache with ways := 0 }, onchip := (List.range s.mapCache.ways).foldl (fun m k => zeroWay k m) s.onchip }

/-- A stripe whose parity does not match and cannot be repaired is suspect (R277). -/
def suspectSeg (pool key : Nat) (s : State) : State :=
  match Tbl.find s.pools pool with
  | none => s
  | some p => match Tbl.find p.segs key with
    | none => s
    | some g =>
      if g.suspect then s
      else loseUnits 0x43 0x41 2 pool key g.units (s.modPool pool fun p => { p with segs := Tbl.upd p.segs key fun g => { g with suspect := true } })

def suspectSegs (pool : Nat) : List Nat → State → State
  | [], s => s
  | k :: ks, s => suspectSegs pool ks (suspectSeg pool k s)

/-- A segment lies in a range of its pool's open-segment list. -/
def inOpenList (p : Pool) (key : Nat) : Bool :=
  p.open_.any fun r => r.1 = segLayout key && decide (r.2.1 ≤ segNum key) && decide (segNum key < r.2.1 + r.2.2)

/-- The open-segment check of a pool ends: the stripes that it found unrepairable are marked suspect, and the pool comes online (R277). -/
def execOpenSegmentCheck (pool : Fin 8) (bad : List Nat) (s : State) : Res := onRun s fun s =>
  match Tbl.find s.pools pool with
  | none => s
  | some p =>
    if p.checking then
      poolsReach ((suspectSegs pool (bad.filter (inOpenList p)) s).modPool pool fun p => { p with checking := false })
    else s

end Sys2Proof.Machine
end

