-- ==== Sys2Proof/Machine/Grinder.lean ====
section
/-! DEFINITION. Machine/Grinder.lean: batches, the fingerprint index, compression groups, decode errors and cold deduplication (R207 to R239). -/
namespace Sys2Proof.Machine
open Sys2Proof

def State.grind (s : State) (f : Grinder → Grinder) : State := { s with grinder := f s.grinder }

/-! ## Lanes and batches (R207 to R209) -/

/-- Units of a compression group, at most (R226). -/
def groupUnits (v : Ns) : Nat := 65536 / 2 ^ v.unitLog

def laneDomain (lane : Nat) : Nat := 19 + lane / 8
def laneUp (s : State) (lane : Nat) : Bool :=
  hasBit s.power.on (laneDomain lane) && !hasBit s.power.fenced (laneDomain lane) && !(Tbl.getD s.grinder.lanes lane {}).removed

/-- Batches and input bytes queued at a lane. -/
def laneBatches (s : State) (lane : Nat) : List (Nat × Batch) := s.grinder.batches.filter fun e => e.2.lane = lane
def laneBytes (s : State) (lane : Nat) : Nat :=
  ((laneBatches s lane).map fun e => e.2.units.length * (match Tbl.find s.ns e.2.nsid with | some v => 2 ^ v.unitLog | none => 0)).sum

/-- The lane for a batch: unfenced, fewer than 4 batches, fewest bytes, lowest number; `but` is left out (R209, R236). -/
def pickLane (s : State) (but : Option Nat) : Option Nat :=
  (((List.range 40).filter fun l => laneUp s l && some l ≠ but && decide ((laneBatches s l).length < 4)).foldl
    (fun (b : Option (Nat × Nat)) l => match b with
      | none => some (l, laneBytes s l)
      | some (m, n) => if laneBytes s l < n then some (l, laneBytes s l) else some (m, n)) none).map (·.1)

/-- A unit of a write has its map entry: the write needs one unit less (R209). -/
def resolveUnit (u : GUnit) (e : MapEnt) (s : State) : State :=
  s.modOwn u.write fun d => { d with ents := d.ents ++ [(u.index, e)], left := d.left - 1 }

/-- Zero units take the zero marker (R214). -/
def resolveZeros : List GUnit → State → State
  | [], s => s
  | u :: us, s => resolveZeros us (if u.content = 0 then resolveUnit u .zero s else s)

/-- BATCH_CLOSE: a volume's waiting units go to a lane, with the search effort of the volume's LEVEL: as soon as they fill a group's count, or 10 µs after the first of them (R208, R209, R230). -/
def execBatchClose (nsid : Nat) (s : State) : Res := onRun s fun s =>
  match Tbl.find s.ns nsid, pickLane s none with
  | some v, some lane =>
    match (s.grinder.ready.filter fun u => u.nsid = nsid).take (groupUnits v) with
    | [] => s
    | u :: us =>
      let take := u :: us
      let s := if take.length = groupUnits v then s else reachTime (u.at_ + 10000) s
      let rest := take.foldl (fun l u => l.erase u) s.grinder.ready
      let units := take.map fun u => if u.content = 0 then { u with ent := some .zero } else u
      let b : Batch := {
        nsid := nsid, units := units, lane := lane, candidates := effortOf v.compress v.level
        fse := triesFse v.compress v.level, optimal := optimalParse v.compress v.level }
      let s1 := s.grind fun g => { g with ready := rest, batches := Tbl.set g.batches g.nextBatch b, nextBatch := g.nextBatch + 1 }
      formAll v.pool (resolveZeros take s1)
  | _, _ => s

/-! ## Fingerprints and the index (R213 to R219) -/

/-- The domain block (R213). -/
def domainBlock (v : Ns) (salt : List Byte) : List Byte :=
  le32 0x50465A4D ++ le8 1 ++ le8 v.unitLog ++ le8 v.pool ++ zeros 1 ++ le32 v.key ++ zeros 4 ++ fit 32 salt ++ zeros 16

def saltOf (s : State) (pool : Nat) : List Byte := match Tbl.find s.pools pool with | some p => p.salt | none => []

/-- A unit's plaintext and fingerprint. -/
def plainOf (v : Ns) (content : Nat) : List Byte := leBytes (2 ^ v.unitLog) content
def digestOf (s : State) (v : Ns) (content : Nat) : List Byte := Config.sha256 (domainBlock v (saltOf s v.pool) ++ plainOf v content)

/-- Bucket, tag and stored fingerprint (R216). -/
def bucketOf (bits : Nat) (d : List Byte) : Nat := ofLe ((d.drop 24).take 4) % 2 ^ bits
def tagOf (d : List Byte) : Nat := let t := ofLe ((d.drop 28).take 2); if t = 0 then 1 else t
def fpOf (d : List Byte) : List Byte := d.take 20

/-- Places of a pair in search order: home bucket first, lowest slot first. -/
def pairPlaces (b : Nat) : List Nat :=
  if b % 2 = 0 then List.range 32 else (List.range 16).map (16 + ·) ++ List.range 16

def idxKey (b place : Nat) : Nat := b / 2 * 32 + place

/-- Where the tag line of a pair, a bucket and a slot lie, from the bases of the tag filter and of the index (R216). -/
def tagLineAt (base pair : Nat) : Nat := base + pair * 64
def bucketAt (base bucket : Nat) : Nat := base + bucket * 512
def slotAt (base bucket slot : Nat) : Nat := bucketAt base bucket + slot * 32

/-- The 64-byte tag line of a pair: the 16 tags of its even bucket, then those of the odd one; 0 marks an empty slot (R216). -/
def tagLine (g : Grinder) (pair : Nat) : List Byte := (List.range 32).flatMap fun i => le16 ((Tbl.find g.slots (pair * 32 + i)).elim 0 (·.tag))

/-- Bytes 0x00 to 0x1D of an entry, its CHECK, and its 32 bytes (R217). -/
def entryHead (e : IdxEnt) : List Byte :=
  fit 20 e.fp ++ leBytes 6 (e.unit % 2 ^ 44 + e.pool % 8 * 2 ^ 44) ++ le16 e.hits ++ le8 e.age ++ le8 (if e.valid then 1 else 0)
def entryCheck (e : IdxEnt) : BitVec 16 := Config.crc16 (entryHead e)
def entryBytes (e : IdxEnt) : List Byte := entryHead e ++ le16 e.check.toNat

/-- An entry as it is written: its CHECK is that of its bytes. -/
def sealEntry (e : IdxEnt) : IdxEnt := { e with check := entryCheck e }

/-- A slot is occupied: its tag is not zero and its entry has VALID set with a correct CHECK (R217). -/
def occupied (e : IdxEnt) : Bool := e.tag ≠ 0 && e.valid && decide (e.check = entryCheck e)

/-- Usable for a fingerprint: LIVE, not LOST, FP_CHECK equal, and no record group made so far frees it or sets it LOST (R218, R224). -/
def usableFor (s : State) (unit : Nat) (d : List Byte) : Bool :=
  match Tbl.find s.grinder.units unit with
  | some u => u.digest.take 8 = d.take 8 && !unitGone s unit
  | none => false

/-- INDEX_DAMAGE: each fault is counted and recorded (R238, R508). -/
def indexEvent (kind pair : Nat) (s : State) : State :=
  event 1 0x46 (le8 kind ++ zeros 3 ++ le32 pair) (s.grind fun g => { g with indexFaults := g.indexFaults.modify (kind - 1) (· + 1) })

/-- The places of a pair whose bucket is read: a slot of that bucket has the tag (R218). -/
def readPlaces (g : Grinder) (b t : Nat) : List Nat :=
  (pairPlaces b).filter fun p => (List.range 16).any fun i => (Tbl.find g.slots (idxKey b (p / 16 * 16 + i))).any fun e => e.tag = t

/-- Entries of the buckets read whose CHECK fails are cleared (R238). -/
def clearBad (b : Nat) : List Nat → State → State
  | [], s => s
  | p :: ps, s =>
    clearBad b ps (if (Tbl.find s.grinder.slots (idxKey b p)).any fun e => decide (e.check ≠ entryCheck e) then
      indexEvent 3 (b / 2) (s.grind fun g => { g with slots := Tbl.del g.slots (idxKey b p) }) else s)

/-- Look the candidates up in order; stale ones are cleared (R218, R224). -/
def lookupIn (b : Nat) (d : List Byte) : List Nat → State → Option Nat × State
  | [], s => (none, s)
  | p :: ps, s => match Tbl.find s.grinder.slots (idxKey b p) with
    | none => lookupIn b d ps s
    | some e =>
      if e.tag ≠ tagOf d || e.fp ≠ fpOf d || !occupied e then lookupIn b d ps s
      else if usableFor s e.unit d then
        (some e.unit, s.grind fun g => { g with slots := Tbl.set g.slots (idxKey b p) (sealEntry { e with hits := min 65535 (e.hits + 1) }) })
      else lookupIn b d ps (s.grind fun g => { g with slots := Tbl.del g.slots (idxKey b p) })

/-- Age of an entry (R217). -/
def ageOf (g : Grinder) (e : IdxEnt) : Nat := (g.inserts / 2 ^ 24 + 256 - e.age) % 256

/-- The victim of a full pair: lowest HITS, then greatest age, then first in search order (R219). -/
def victimOf (g : Grinder) (b : Nat) : Nat :=
  ((pairPlaces b).foldl (fun (w : Option (Nat × IdxEnt)) p => match Tbl.find g.slots (idxKey b p), w with
    | none, w => w
    | some e, none => some (p, e)
    | some e, some (q, f) => if e.hits < f.hits ∨ (e.hits = f.hits ∧ ageOf g f < ageOf g e) then some (p, e) else some (q, f)) none).map (·.1) |>.getD 0

/-- Place an entry for a new unit (R219). -/
def insertEntry (b : Nat) (d : List Byte) (unit pool : Nat) (g : Grinder) : Grinder :=
  let p := ((pairPlaces b).find? fun p => !(Tbl.find g.slots (idxKey b p)).any occupied).getD (victimOf g b)
  let e : IdxEnt := { tag := tagOf d, fp := fpOf d, unit := unit, pool := pool, age := g.inserts / 2 ^ 24 % 256 }
  { g with slots := Tbl.set g.slots (idxKey b p) (sealEntry e), inserts := g.inserts + 1 }

/-- The lowest record of a pool that has been free for a full pass of cold deduplication: the pass that ran when it became free has ended, and one more after it (R221). -/
def reusable (g : Grinder) (pool : Nat) : Option Nat :=
  (g.units.find? fun e => unitPool e.1 = pool && !e.2.live && match e.2.freed with
    | some n => decide (n + 2 ≤ Tbl.getD g.passes pool 0)
    | none => false).map fun e => e.1 % 2 ^ 44

/-- Allocate a unit identifier of a pool with its record, pending: the next one up to 2^44, then those that may be used again; none is left otherwise (R218, R220, R221). -/
def newUnit (v : Ns) (nsid content : Nat) (d : List Byte) (s : State) : Option (Nat × State) :=
  let next := Tbl.getD s.grinder.nextUnit v.pool 0
  (if next < 2 ^ 44 then some next else reusable s.grinder v.pool).map fun id =>
    let key := unitKey v.pool id
    let r : UnitRec := { digest := d, crc := Config.crc32c (plainOf v content), creator := nsid, content := content }
    (key, s.grind fun g => { g with units := Tbl.set g.units key r, nextUnit := Tbl.set g.nextUnit v.pool (max next (id + 1)) })

/-- Mark every slot of a pair free. -/
def clearPair (b : Nat) (g : Grinder) : Grinder := { g with slots := Tbl.keep g.slots fun k _ => k / 32 ≠ b / 2 }

/-- The unit of a batch with its outcome. -/
def setUnit (batch i : Nat) (e : MapEnt) (fresh : Bool) (s : State) : State :=
  s.grind fun g => { g with batches := Tbl.upd g.batches batch fun b => { b with units := match b.units[i]? with
    | some u => b.units.set i { u with ent := some e, fresh := fresh }
    | none => b.units } }

/-- A fault that an operation on a pair meets: an entry's bytes no longer match its CHECK. -/
def spoilEntry (b : Nat) (damage : IndexDamage) (s : State) : State :=
  match damage with
  | .entry p => s.grind fun g => { g with slots := Tbl.upd g.slots (idxKey b (p % 32)) fun e => { e with check := ~~~ entryCheck e } }
  | _ => s

/-- A miss stores a new unit, with its index entry or without; where the pool has no identifier left the unit waits (R218, R221, R238; log entry 220). -/
def storeUnit (batch i : Nat) (v : Ns) (u : GUnit) (d : List Byte) (enter : Nat → Grinder → Grinder) (s : State) : State :=
  match newUnit v u.nsid u.content d s with
  | some r => setUnit batch i (.unit r.1) true (r.2.grind (enter r.1))
  | none => s

/-- One operation on a pair (R218, R238). -/
def lookupUnit (batch i : Nat) (v : Ns) (u : GUnit) (damage : IndexDamage) (s : State) : State :=
  let d := digestOf s v u.content
  let b := bucketOf s.grinder.bucketBits d
  let miss := fun (kind : Nat) => storeUnit batch i v u d (fun _ => clearPair b) (indexEvent kind (b / 2) s)
  match damage with
  | .tagLine => miss 1
  | .bucket => miss 2
  | _ =>
    let s0 := cacheRead 3 b (spoilEntry b damage s)
    let places := readPlaces s0.grinder b (tagOf d)
    match lookupIn b d places (clearBad b places s0) with
    | (some k, s1) => formAll v.pool (resolveUnit u (.unit k) (setUnit batch i (.unit k) false s1))
    | (none, s1) => storeUnit batch i v u d (fun k => insertEntry b d k v.pool) s1

def execIndexLookup (batch i : Nat) (damage : IndexDamage) (s : State) : Res := onRun s fun s =>
  match Tbl.find s.grinder.batches batch with
  | none => s
  | some b => match b.units[i]?, Tbl.find s.ns b.nsid with
    | some u, some v => if u.ent.isSome then s else lookupUnit batch i v u damage s
    | _, _ => s

/-! ## Compression groups (R226) -/

/-- Place the slots of a group one behind the other; every slot is one XTS data unit (R226, R227, R452). -/
def placeSlots (v : Ns) (gen share : Nat) : List (Nat × Enc × List Byte) → Nat → State → State
  | [], _, s => s
  | (k, e) :: l, off, s =>
    let slot := roundUp (clenOf e.2) 16
    let s1 := s.modUnit k fun u => { u with offset := off / 16, clen := clenOf e.2, enc := e.1, stored := slot + share, slot := sealSlot s v.key gen k e.2 }
    placeSlots v gen share l (off + slot) (countUse v.key gen s1)

/-- The group of a batch's new units goes to a gathering segment (R226, R292). -/
def gatherGroup (v : Ns) (units : List GUnit) (encs : List (List Byte)) (s : State) : State :=
  let fresh := units.filter (·.fresh)
  let keys := fresh.flatMap fun u => entUnit u.ent
  if keys = [] then s
  else
    let coded := (keys.zip (fresh.map (·.content))).zipIdx.map fun x => (x.1.1, encodedOf v (plainOf v x.1.2) (encs.getD x.2 []))
    let slots := coded.map fun x => roundUp (clenOf x.2.2) 16
    let g := groupGranules slots
    let gen := match Tbl.find s.cipher.keys v.key with
      | some e => e.cur.gen
      | none => 0
    let s1 := placeSlots v gen ((g * 512 - slots.sum) / keys.length) coded 160 s
    let s2 := gatherPut v.pool g keys (fresh.map (·.write)).eraseDups none (groupOf s1 v.pool v.unitLog v.key keys) s1
    fresh.foldl (fun s u => match u.ent with
      | some e => resolveUnit u e s
      | none => s) s2

/-! ## Reads that fail to decode (R237) -/

/-- What a decompressor found of a unit: right; wrong once and right on another lane; wrong twice and right after the strip's rebuild; wrong after it. -/
def execDecompressDone (unit : Nat) (lane : Fin 40) (failures : Fin 4) (s : State) : Res := onRun s fun s =>
  match Tbl.find s.grinder.units unit with
  | none => s
  | some u =>
    let pool := unitPool unit
    let e := plainErr 0x0306 (laneDomain lane) (lane % 8) (u.group * 512) 0 0
    if failures.val = 0 then s
    else if failures.val = 1 then transientFault e s
    else match slotPlace s unit with
      | none => s
      | some x =>
        let s1 := stripLost pool x.seg (x.at_ / 65536) (lastingFault e s)
        if failures.val = 2 then s1 else slotLost unit s1

/-! ## Cold deduplication (R209, R232 to R234) -/

/-- Digest and unit of a fingerprint record (R232). -/
def recDigest (r : List Byte) : List Byte := r.take 32
def recUnit (r : List Byte) : Nat := let n := ofLe ((r.drop 32).take 6); unitKey (n / 2 ^ 44 % 8) (n % 2 ^ 44)

/-- Order of digests, first byte first. -/
def digestLt : List Byte → List Byte → Bool
  | [], _ :: _ => true
  | a :: as, b :: bs => decide (a.toNat < b.toNat) || (decide (a = b) && digestLt as bs)
  | _, [] => false

/-- A sorted run of records with the SHA-256 digest that ends it. -/
def shardOf (l : List (List Byte)) : Shard :=
  let run := sortBy (fun a b => digestLt (recDigest a) (recDigest b)) l
  { records := run, digest := Config.sha256 run.flatten }

def shardGood (x : Shard) : Bool := decide (x.digest = Config.sha256 x.records.flatten)

/-- A pool with 256 shards has its two smallest merged before another is written. -/
def roomForShard (l : List Shard) : List Shard :=
  if l.length < 256 then l
  else match sortBy (fun a b => decide (a.records.length < b.records.length)) l with
    | a :: b :: rest => shardOf (a.records ++ b.records) :: rest
    | l => l

/-- The pool's fingerprint log is sorted into shards of at most 2^24 records each. -/
def addShards : Nat → List (List Byte) → List Shard → List Shard
  | 0, _, l => l
  | _, [], l => l
  | f + 1, r :: rs, l => addShards f ((r :: rs).drop (2 ^ 24)) (roomForShard l ++ [shardOf ((r :: rs).take (2 ^ 24))])

/-- Records of the units that a pool stores, from their unit records. -/
def poolRecords (s : State) (pool : Nat) : List (List Byte) :=
  (s.grinder.units.filter fun e => unitPool e.1 = pool && e.2.live && !e.2.pending).map fun e => printRecord e.1 e.2.digest

/-- The pass reads a pool's shards: one that fails its verification is discarded, and rebuilt from the unit records by a later pass; the records logged since make new shards (R232). -/
def passShards (pool : Nat) (s : State) : State :=
  let g := s.grinder
  let old := Tbl.getD g.shards pool []
  let good := old.filter shardGood
  let logged := (g.log.filter fun e => e.1 = pool).map (·.2)
  let fresh := if Tbl.has g.rebuild pool then poolRecords s pool else logged
  let kept := if Tbl.has g.rebuild pool then [] else good
  s.grind fun g => { g with
    log := g.log.filter fun e => e.1 ≠ pool
    shards := Tbl.set g.shards pool (addShards (fresh.length + 1) fresh kept)
    rebuild := if good.length < old.length then Tbl.set g.rebuild pool () else Tbl.del g.rebuild pool }

/-- A record that the pass may merge: LIVE, not PENDING, not LOST, no alias, and not made one by a record group that has not committed (R233). -/
def mergeable (s : State) (k : Nat) : Bool :=
  match Tbl.find s.grinder.units k with
  | some u => u.live && !u.pending && !u.lost && u.alias_.isNone && !((openGroups s).any fun g => g.effects.any fun e => match e with
    | .alias_ gone _ => decide (gone = k)
    | _ => false)
  | none => false

def isTarget (s : State) (k : Nat) : Bool :=
  (s.grinder.units.any fun e => e.2.live && e.2.alias_ = some k) || (openGroups s).any fun g => g.effects.any fun e => match e with
    | .alias_ _ kept => decide (kept = k)
    | _ => false

/-- The digests of a pool under which two records can be merged, from its shards. -/
def openDigests (s : State) (pool : Nat) : List (List Byte) :=
  let l := ((Tbl.getD s.grinder.shards pool []).flatMap (·.records)).eraseDups.filter fun r => mergeable s (recUnit r)
  (l.filter fun r => l.any fun q => recDigest q = recDigest r && q ≠ r && !(isTarget s (recUnit q) && isTarget s (recUnit r))).map recDigest

/-- The pool's cursor as it will stand once every record group made so far has committed. -/
def cursorOf (s : State) (pool : Nat) : List Byte :=
  (openGroups s).foldl (fun d g => g.effects.foldl (fun d e => match e with
    | .cursor p x _ => if p = pool then x else d
    | _ => d) d) (Tbl.getD s.grinder.cursor pool [])

/-- A pass takes a digest now: none that it could merge lies between the cursor and it; or, with none ahead of the cursor, it is the lowest, and a full pass has ended (R234). Answers whether the pass wraps. -/
def digestTurn (s : State) (pool : Nat) (d : List Byte) : Option Bool :=
  let cur := cursorOf s pool
  let others := openDigests s pool
  if !digestLt d cur then (if others.any fun x => !digestLt x cur && digestLt x d then none else some false)
  else if others.any fun x => !digestLt x cur || digestLt x d then none else some true

/-- One unit becomes an alias of the other; its slot becomes garbage, and the cursor has come to their digest (R233, R234). -/
def makeAlias (gone kept : Nat) (move : Effect) (s : State) : State :=
  let g : Group := { pool := unitPool gone, effects := [.alias_ gone kept, move] }
  addGroup { g with notes := setRecord (mapGroup g (ahead s)) id gone } s

/-- The lane that a pair of background work queues at: the one that has it, else the lane with the fewest bytes (R209). -/
def backLane (s : State) (pair : Nat × Nat) : Option Nat :=
  let up := (List.range 40).filter (laneUp s)
  match up.find? fun l => (Tbl.getD s.grinder.lanes l {}).back.contains pair with
  | some l => some l
  | none => (up.foldl (fun (b : Option (Nat × Nat)) l => match b with
    | none => some (l, laneBytes s l)
    | some (m, n) => if laneBytes s l < n then some (l, laneBytes s l) else some (m, n)) none).map (·.1)

/-- Background work of a lane runs once no foreground batch stands in its queue; until then it waits behind them (R209). -/
def runBack (pair : Nat × Nat) (f : State → State) (s : State) : State :=
  match backLane s pair with
  | none => s
  | some lane =>
    let set := fun (back : List (Nat × Nat)) (s : State) => s.grind fun g => { g with lanes := Tbl.set g.lanes lane { Tbl.getD g.lanes lane {} with back := back } }
    let back := (Tbl.getD s.grinder.lanes lane {}).back
    if laneBatches s lane = [] then f (set (back.filter (· ≠ pair)) s)
    else if back.contains pair then s else set (back ++ [pair]) s

/-- The pass has come to two records of one pool with equal digests (R233): the target of an alias survives, else the lower identifier; a pair of targets is left as it is and counted. -/
def mergePair (a b : Nat) (move : Effect) (s : State) : State :=
  match isTarget s a, isTarget s b with
  | true, true => addGroup { pool := unitPool a, effects := [move] } (s.grind fun g => { g with leftPairs := g.leftPairs + 1 })
  | true, false => makeAlias b a move s
  | false, true => makeAlias a b move s
  | false, false => if a < b then makeAlias b a move s else makeAlias a b move s

/-- COLD_DEDUP_MATCH of two units of one pool whose records lie in its shards with equal digests, when the pass has come to that digest (R209, R232 to R234). -/
def execColdDedupMatch (a b : Nat) (idle : Bool) (s : State) : Res := onRun s fun s =>
  match Tbl.find s.grinder.units a, Tbl.find s.grinder.units b with
  | some x, some y =>
    let pool := unitPool a
    if pool ≠ unitPool b || a = b || x.digest ≠ y.digest then s
    else runBack (a, b) (govRun 6 idle [(1, 1152), (2, 1152), (4, 1024), (6, 1)] (fun s =>
      let s0 := passShards pool s
      let held := (Tbl.getD s0.grinder.shards pool []).flatMap (·.records)
      if !held.contains (printRecord a x.digest) || !held.contains (printRecord b y.digest) || !mergeable s0 a || !mergeable s0 b then s0
      else match digestTurn s0 pool x.digest with
        | some wraps => mergePair a b (.cursor pool x.digest wraps) s0
        | none => s0)) s
  | _, _ => s

end Sys2Proof.Machine
end

