-- ==== Sys2Proof/Machine/Kamard.lean ====
section
/-! DEFINITION. Machine/Kamard.lean: events of the Kamard media link (R314 to R339). -/
namespace Sys2Proof.Machine
open Sys2Proof

/-- Send HELLO: versions 1 to 2, up to 1,024 outstanding commands (R329). -/
def sendHello (port : Nat) (s : State) : State := kamControl port (.hello 1 2 1024) s

/-- Signal in DETECT: on both lanes, or on one lane for 1 ms (R328, R318). -/
def execKamardSignalDetect (port : Fin 96) (oneLane : Bool) (s : State) : Res := onRun s fun s =>
  if (s.kport port).state = .detect then
    let s1 := s.modK port fun k => { k with state := .acquire, oneLane := false }
    if oneLane then kamNarrow port s1 else s1
  else s

/-- The equalisers converge: HELLO is sent (R328). -/
def execKamardAcquireDone (port : Fin 96) (s : State) : Res := onRun s fun s =>
  if (s.kport port).state = .acquire then sendHello port (s.modK port fun k => { k with state := .negotiate, hellos := 1 }) else s

/-- 30 ms without convergence (R328). -/
def execKamardAcquireTimeout (port : Fin 96) (s : State) : Res := onRun s fun s =>
  let k := s.kport port
  if k.state = .acquire then
    if 3 ≤ k.attempts + 1 then kamDownAlarm port s
    else s.modK port fun k => { k with state := .detect, attempts := k.attempts + 1 }
  else s

/-- No HELLO reply within 1 ms; after 100 ms the port goes DOWN (R328). -/
def execKamardHelloRetry (port : Fin 96) (s : State) : Res := onRun s fun s =>
  let k := s.kport port
  if k.state = .negotiate then
    if 100 ≤ k.hellos then kamDownAlarm port s else sendHello port (s.modK port fun k => { k with hellos := k.hellos + 1 })
  else s

/-- The serial number that the peer holds for the module differs (R315). -/
def serialClash (k : KPort) (serial : W64) : Option W64 :=
  match k.peerSerial with
  | some x => if x ≠ 0 && x ≠ serial then some x else none
  | none => none

/-- The serial numbers of all modules, for the peer (R315). -/
def ownSerials (s : State) : List W64 := (List.range 96).map fun n => (s.kport n).serial

/-- A module whose serial number differs from the one held as retired is free again (R290). -/
def freshModule (n : Nat) (serial : W64) (s : State) : State :=
  if (s.mod n).stand = .retired && (s.mod n).retiredSerial ≠ serial then s.modMod n fun m => { m with stand := .free } else s

/-- A module that was declared failed and returns is free (R291). -/
def returnedMod (n : Nat) (s : State) : State :=
  if ((poolOf s n).bind (Tbl.find s.pools)).any fun p => p.failed.any fun f => f.module = n && (f.state = 1 || f.state = 2) then
    s.modMod n fun m => { m with returned := true }
  else s

/-- A bridge that has come back after activation has ended its push (R337). -/
def pushReturned (n : Nat) (s : State) : State := s.modMod n fun m => { m with restartAt := none, push := none }

/-- A HELLO reply (R315, R328, R329): version, serial number, CLAIM for a member, else UP; the module descriptor is asked for. -/
def execKamardHelloReply (port : Fin 96) (version limit : Nat) (serial fw : W64) (s : State) : Res := onRun s fun s =>
  let k := s.kport port
  if k.state ≠ .negotiate then s
  else if version = 0 || 2 < version then kamDown port .down (noCommonVersion 1 port 1 2 version version s)
  else
    let s1 := s.modK port fun k => { k with
      version := version, limit := min limit (if version = 1 then 256 else 1024), serial := serial, fwVersion := fw }
    let s2 := if peerSubs s1 = [] then s1 else jalSend (.serials (ownSerials s1)) s1
    match serialClash k serial with
    | some x => serialDiffers port serial x s2
    | none =>
      let s3 := pushReturned port (freshModule port serial (serialAlarm s2))
      let s4 := kamSend port .moduleInfo (s3.modK port fun k => { k with state := .claimed })
      let s5 := returnedMod port s4
      match if (s5.mod port).returned then none else (poolOf s5 port).bind (Tbl.find s5.pools) with
      | some p => kamSend port (.claim p.ownerGen false) s5
      | none => kamUp port s5

/-- The descriptor as bytes 0x000 to 0x11FB (R343). -/
def descrBytes (d : Descr) : List Byte :=
  le32 d.magic.toNat ++ le16 d.version ++ le16 d.dies ++ le64 d.serial.toNat ++ le64 d.rawBytes.toNat ++ le16 d.pagesPerBlock ++ le16 d.blocksPerDie
    ++ le8 d.cwPerPage ++ le8 d.bitsPerCell ++ le8 d.planes ++ le8 d.dacStepMv ++ le32 d.peRated ++ le32 d.retentionHours
    ++ (List.range 5).flatMap (fun i => le16 (d.times.getD i 0)) ++ zeros 14
    ++ fit 1792 (d.defaultSets.flatMap fun l => (List.range 7).map fun i => BitVec.ofInt 8 (l.getD i 0)) ++ zeros 2748

/-- MAGIC, VERSION and CRC of a descriptor hold (R343). -/
def descrHolds (d : Descr) : Bool := d.magic = 0x444D5A4D && d.version = 1 && d.crc = Config.crc32c (descrBytes d)

/-- The module descriptor and the temperatures arrive; a descriptor that fails its check is treated as no reply (R343, R356). -/
def execKamardModuleInfoResponse (port : Fin 96) (tag : Nat) (d : Descr) (temp dieTemp : Byte) (s : State) : Res := onLive s fun s =>
  match kamTake port tag (kamAccept port s) with
  | (some .moduleInfo, s1) =>
    if descrHolds d then
      s1.modMod port fun m => { m with descr := some d, rawBytes := d.rawBytes, temp := temp, dieTemp := dieTemp }
    else if (s1.mod port).descr.isSome then s1
    else sendHello port (s1.modK port fun k => { k with state := .negotiate, hellos := k.hellos + 1 })
  | _ => s

/-- The answer to a CLAIM (R328, R334). -/
def execKamardClaimResponse (port : Fin 96) (tag : Nat) (st : KStatus) (held : W32) (s : State) : Res := onLive s fun s =>
  match kamTake port tag (kamAccept port s) with
  | (some (.claim _ _), s1) =>
    let s2 := if (s1.kport port).state = .claimed then kamUp port s1 else s1
    if st = .ownerFenced then ownerFenced port held (bumpK port 13 1 s2) else s2
  | _ => s

/-- The answer to a command that the other head sent through this port goes back to it (R335); a TAG that names nothing is ignored. -/
def proxied (port : Nat) (st : KStatus) (slots : List KSlot) (r : Option KCmd × State) (s : State) : State :=
  match r with
  | (some (.proxy c _), s1) => jalSend (.proxyRsp port c st slots) s1
  | _ => s

/-- Send a NAK for the frame expected. -/
def sendNak (port : Nat) (s : State) : State := kamControl port (.nak (s.kport port).rxSeq) (s.modK port fun k => { k with nakSent := true })

/-- A frame dropped for a fault of its own fails its attempt; the second failure is lasting (R326). -/
def rxFault (port : Nat) (nak : Bool) (s : State) : State :=
  if (s.kport port).rxFailed then kamLasting port (s.modK port fun k => { k with rxFailed := false })
  else
    let s1 := s.modK port fun k => { k with rxFailed := true }
    if nak then sendNak port s1 else s1

/-- A burst is dropped whole, by what is wrong with it (R320, R321, R324, R325, R329). -/
def frameDropped (port : Nat) (fault : FrameFault) (s : State) : State :=
  match fault with
  | .marks sawPreamble => rxFault port sawPreamble (bumpK port 4 1 s)
  | .headerCrc => rxFault port true (bumpK port 5 1 s)
  | .trailerCrc => rxFault port true (bumpK port 6 1 s)
  | .length => rxFault port true (bumpK port 7 1 s)
  | .outOfOrder => if (s.kport port).nakSent then s else sendNak port s
  | .duplicate => kamControl port .ack s
  | .version v => versionFrame 1 v port (bumpK port 12 1 s)

/-- Planes and codewords that the answer to a command has. -/
def readShape : KCmd → Nat × Nat
  | .read _ sense _ mask _ => (sense + 1, (bitsOf mask 16).length)
  | .proxy c _ => readShape c
  | _ => (1, 0)

/-- What is wrong with the slots of a READ's answer: their number, INDEX or PLANE, or a trailer CRC (R323, R324, R331). -/
def slotsFault (c : KCmd) (st : KStatus) (slots : List KSlot) : Option FrameFault :=
  let shape := readShape c
  let want := if st = .ok then shape.1 * shape.2 else 0
  let placed := slots.zipIdx.all fun x => x.1.index = x.2 && x.1.plane = x.2 % shape.1
  if slots.length ≠ want || !placed then some .length
  else if slots.all fun x => x.crc = slotCrc x.data x.index x.plane then none
  else some .trailerCrc

/-- The answer to a READ: a frame with a faulty slot is dropped whole; otherwise its codewords go to the decoders (R323, R324, R331, R353). -/
def execKamardReadResponse (port : Fin 96) (tag : Nat) (st : KStatus) (slots : List KSlot) (s : State) : Res := onLive s fun s =>
  match (Tbl.find (s.kport port).cmds tag).bind fun c => slotsFault c st slots with
  | some f => frameDropped port f s
  | none => match kamTake port tag (kamAccept port s) with
    | (some (.read a sense _ mask bg), s1) => readAnswer port a sense mask bg st s1
    | r => proxied port st slots r s

/-- The die temperature that a PROGRAM response gives: its own at version 2, the polled one at version 1 (R356). -/
def progTemp (s : State) (port : Nat) (temp : Byte) : Byte := if 2 ≤ (s.kport port).version then temp else (s.mod port).dieTemp

/-- The answer to a PROGRAM (R264, R359). -/
def execKamardProgramResponse (port : Fin 96) (tag : Nat) (st : KStatus) (temp : Byte) (held : W32) (s : State) : Res := onLive s fun s =>
  match kamTake port tag (kamAccept port s) with
  | (some (.program area a _ _), s1) =>
    if area = 0 then programAnswer port a st (progTemp s1 port temp) held s1
    else poolsCreated (if st = .ownerFenced then ownerFenced port held (bumpK port 13 1 s1) else s1)
  | r => proxied port st [] r s

/-- The answer to an ERASE (R350, R361). -/
def execKamardEraseResponse (port : Fin 96) (tag : Nat) (st : KStatus) (held : W32) (s : State) : Res := onLive s fun s =>
  match kamTake port tag (kamAccept port s) with
  | (some (.erase area a), s1) => eraseAnswer port area a st held s1
  | r => proxied port st [] r s

/-- The answer to a THRESH_LOAD (R357). -/
def execKamardThreshLoadResponse (port : Fin 96) (tag : Nat) (st : KStatus) (s : State) : Res := onLive s fun s =>
  match kamTake port tag (kamAccept port s) with
  | (some (.threshLoad die set offs), s1) => threshAnswer port die set offs st s1
  | r => proxied port st [] r s

/-- The answer to a VAULT_PROGRAM: a strip is acknowledged, or its module receives nothing more (R273). -/
def execKamardVaultProgramResponse (port : Fin 96) (tag : Nat) (st : KStatus) (s : State) : Res := onLive s fun s =>
  match kamTake port tag (kamAccept port s) with
  | (some (.vaultProgram _ _ _ _), s1) => if st = .ok then vaultAck port true s1 else vaultDrop port (vaultAck port false s1)
  | _ => s

/-- The answer to a VAULT_ERASE: the bank counts toward the vault set again (R267, R274). -/
def execKamardVaultEraseResponse (port : Fin 96) (tag : Nat) (st : KStatus) (s : State) : Res := onLive s fun s =>
  match kamTake port tag (kamAccept port s) with
  | (some (.vaultErase _ bank), s1) =>
    if st = .ok then
      vaultSetRecompute (s1.modMod port fun m => if bank = 0 then { m with erased0 := true } else { m with erased1 := true })
    else s1
  | _ => s

/-- The answer to a BRIDGE_FW_WRITE: the next slice follows (R337). -/
def execKamardBridgeFwWriteResponse (port : Fin 96) (tag : Nat) (st : KStatus) (s : State) : Res := onLive s fun s =>
  match kamTake port tag (kamAccept port s) with
  | (some (.fwWrite off _), s1) =>
    if st = .ok then pushAll (s1.modMod port fun m => { m with push := m.push.map fun _ => off + pushStep (s1.kport port) })
    else s1.modMod port fun m => { m with push := none }
  | _ => s

/-- The answer to a BRIDGE_FW_ACTIVATE: the bridge restarts, or its image was wrong and nothing is activated (R332, R337). -/
def execKamardBridgeFwActivateResponse (port : Fin 96) (tag : Nat) (st : KStatus) (s : State) : Res := onLive s fun s =>
  match kamTake port tag (kamAccept port s) with
  | (some (.fwActivate _ _), s1) =>
    if st = .ok then s1.modMod port fun m => { m with push := none, restartAt := some (s1.time.toNat + 1000000000) }
    else s1.modMod port fun m => { m with push := none }
  | _ => s

/-- A bridge does not return within 1 s of its activation (R337). -/
def execBridgeRestartTimeout (port : Fin 96) (s : State) : Res := onRun s fun s =>
  match (s.mod port).restartAt with
  | some t => pushAll (declareFailed port 3 ((reachTime t s).modMod port fun m => { m with restartAt := none }))
  | none => s

/-- Frames of a list before a sequence number, modulo 2^16 (R322 ACK: the next frame expected). -/
def beforeSeq (next : Nat) (f : KFrame) : Bool := decide ((f.seq + 65536 - next) % 65536 ≥ 32768)

/-- Acknowledged frames leave; one that had failed once passed when resent (R325, R326). -/
def kamAcked (port next : Nat) (s : State) : State :=
  let gone := (s.kport port).unacked.filter (beforeSeq next)
  let s1 := s.modK port fun k => { k with unacked := k.unacked.filter fun f => !beforeSeq next f }
  gone.foldl (fun s f => if f.failedOnce then transientFault (plainErr 0x0205 (quadDomain (quadOf port)) (port % 4) 0 port f.seq) (bumpK port 8 1 s) else s) s1

/-- A link-control ACK; `next` is the SEQ that the bridge expects next (R322, R325). -/
def execKamardAck (port : Fin 96) (next : W16) (s : State) : Res := onLive s fun s =>
  kamFlow port (kamAcked port next.toNat (bumpK port 1 1 s))

/-- A frame that fails again when resent is a lasting fault (R326). -/
def frameFailed (port seq : Nat) (s : State) : State :=
  match (s.kport port).unacked.find? fun f => f.seq = seq with
  | none => s
  | some f =>
    if f.failedOnce then kamLasting port s
    else s.modK port fun k => { k with unacked := k.unacked.map fun f => if f.seq = seq then { f with failedOnce := true } else f }

/-- A NAK for a SEQ: everything unacknowledged from it is resent (R325). -/
def execKamardNak (port : Fin 96) (seq : W16) (s : State) : Res := onLive s fun s =>
  let s1 := frameFailed port seq.toNat (kamAcked port seq.toNat (bumpK port 1 1 s))
  if (s1.kport port).state = .retrain then s1 else resendFrames port (s1.kport port).unacked s1

/-- A NAK of a missing frame is repeated 10 µs later (R325). -/
def execKamardNakRepeat (port : Fin 96) (s : State) : Res := onLive s fun s =>
  if (s.kport port).nakSent then kamControl port (.nak (s.kport port).rxSeq) s else s

/-- A burst is dropped whole (R320, R321, R324, R325, R329). -/
def execKamardFrameDropped (port : Fin 96) (fault : FrameFault) (s : State) : Res := onLive s (frameDropped port fault)

/-- 10 µs without acknowledgement: the unacknowledged frames are resent (R325). -/
def execKamardRetransmitTimeout (port : Fin 96) (s : State) : Res := onLive s fun s => resendFrames port (s.kport port).unacked s

/-- A side with nothing to send returns an ACK (R325). -/
def execKamardKeepalive (port : Fin 96) (s : State) : Res := onLive s fun s => kamControl port .ack s

/-- 500 µs without a frame: the port enters RETRAIN (R326, R328). -/
def execKamardLinkLoss (port : Fin 96) (s : State) : Res := onLive s fun s => kamRetrain port s

/-- Reads that have waited out a failed retrain, 1 ms, are past the 100 µs of R336: what waits for them goes to other strips, and their late answers feed nothing. -/
def readsAround (port : Nat) (s : State) : State :=
  (s.kport port).cmds.foldl (fun s e => match e.2 with
    | .read a _ _ mask _ => jobsLost (fun x => x.1 = port && (bitsOf mask 16).any fun i => x.2 = a / 16 * 16 + i) s
    | _ => s) s

/-- KAMARD_RETRAIN_DONE: a retrain ends within 1 ms, on one lane where the bridge has lost one, or it fails; two failures running take the port DOWN (R318, R328). -/
def execKamardRetrainDone (port : Fin 96) (how : RetrainEnd) (s : State) : Res := onLive s fun s =>
  let k := s.kport port
  if k.state ≠ .retrain then s
  else if how = .failed then
    if 2 ≤ k.retrainFails + 1 then kamDownAlarm port s
    else readsAround port (s.modK port fun k => { k with retrainFails := k.retrainFails + 1 })
  else
    let s0 := if how = .oneLane then kamNarrow port s else s
    let s1 := s0.modK port fun k => { k with state := .up, retrainFails := 0 }
    resendFrames port k.unacked (kamFlow port (kamAlarms (vaultSetRecompute s1)))

/-- A DOWN port returns to DETECT: on a management request, or on a signal once 1 s has passed (R328). -/
def execKamardDownRetry (port : Fin 96) (management : Bool) (s : State) : Res := onRun s fun s =>
  let k := s.kport port
  if k.state = .down then
    let s1 := if management then s else reachTime (k.downAt + 1000000000) s
    kamAlarms (s1.modK port fun k => { k with state := .detect })
  else s

end Sys2Proof.Machine
end

