-- ==== Sys2Proof/Machine/Cipher.lean ====
section
/-! DEFINITION. Machine/Cipher.lean: the key commands, the cipher requests, slot fills, the digest engine and the ECDSA accelerator (R446 to R463). -/
namespace Sys2Proof.Machine
open Sys2Proof

/-! ## Key commands (R446, R448, R449) -/

/-- No key is loaded while debug is open, nor until the next reset once DEBUG_UNLOCK has opened it: refused with REFUSED_STATE (R93; log entry 34). -/
def keysRefused (s : State) : Bool := debugIsOpen s || s.trust.keysClosed

/-- KEY_INDEX above 1,048,575 and not the KTWK's (R449). -/
def keyIndexBad (i : Nat) : Bool := decide (1048575 < i) && i ≠ ktwkIndex

/-- KEY_LOAD of the KTWK (R446): KIND is ignored; the wrap is under the all-zero key. -/
def ktwkLoad (wrapped : List Byte) (s : State) : Option MReply × State :=
  if keysRefused s then (some (replyErr .refusedState 0), s)
  else if s.cipher.ktwk.isSome then (some (replyErr .existsAlready 0), s)
  else match unwrapAs zeroKey wrapped 3 ktwkIndex with
    | none => (some (replyErr .authFailed 0), s)
    | some (plain, _) =>
      if plainBad 3 plain then (some (fieldAt 8), s)
      else (some (replyOk []), recheckKeys (writeKtwk (plain.take 32) none s))

/-- KEY_LOAD of a tenant index (R449). -/
def keyLoad (index kind : Nat) (wrapped : List Byte) (s : State) : Option MReply × State :=
  if keyIndexBad index then (some (limitAt 0), s)
  else if keysRefused s then (some (replyErr .refusedState 0), s)
  else if 1 < kind then (some (fieldAt 4), s)
  else if Tbl.has s.cipher.keys index then (some (replyErr .existsAlready 0), s)
  else match s.cipher.ktwk with
    | none => (some (replyErr .notFound 0), s)
    | some k => match unwrapAs k wrapped kind index with
      | none => (some (replyErr .authFailed 0), s)
      | some (plain, lim) =>
        if plainBad kind plain then (some (fieldAt 8), s)
        else
          let g : KeyGen := { wrapped := wrapped, kind := kind, limitLog2 := lim, kcv := kcvOf plain }
          let s1 := s.ciph fun c => { c with keys := Tbl.set c.keys index { cur := g } }
          (some (replyOk []), configGroup 255 0x12 s1)

def execKeyLoad (h : MbxHdr) (index : W32) (kind : Nat) (wrapped : List Byte) (s : State) : Res := onRun s fun s =>
  mbxStart ⟨0x0601, 2, true, .other, false⟩ h [.num 0 4 index.toNat, .num 4 1 kind, .bytes 8 wrapped] (fun s =>
    if index.toNat = ktwkIndex then ktwkLoad wrapped s else keyLoad index.toNat kind wrapped s) s

def execKtwkLoad (h : MbxHdr) (wrapped : List Byte) (s : State) : Res := onRun s fun s =>
  mbxStart ⟨0x0601, 2, true, .other, false⟩ h [.num 0 4 0xFFFFFFFF, .bytes 8 wrapped] (ktwkLoad wrapped) s

/-- Retired generations held across the pair. -/
def retiredCount (s : State) : Nat := (s.cipher.keys.map fun e => e.2.retired.length).sum

/-- Next unallocated unit identifier of the pools 0 to 7. -/
def firstUnits (s : State) : List Nat := (List.range 8).map fun p => Tbl.getD s.grinder.nextUnit p 0

/-- KEY_ROTATE of a tenant index: a new current generation, the old one retired (R448, R449). -/
def keyRotate (index : Nat) (wrapped : List Byte) (s : State) : Option MReply × State :=
  if keyIndexBad index then (some (limitAt 0), s)
  else if keysRefused s then (some (replyErr .refusedState 0), s)
  else match s.cipher.ktwk, Tbl.find s.cipher.keys index with
    | some k, some e => (match unwrapAs k wrapped e.cur.kind index with
      | none => (some (replyErr .authFailed 0), s)
      | some (plain, lim) =>
        if plainBad e.cur.kind plain || (e.cur :: e.retired).any fun g => g.kcv = kcvOf plain then (some (fieldAt 8), s)
        else if 255 ≤ e.retired.length || 1048576 ≤ retiredCount s then (some (replyErr .noResource 0), s)
        else
          let g : KeyGen := {
            wrapped := wrapped, kind := e.cur.kind, gen := e.cur.gen + 1, limitLog2 := lim, kcv := kcvOf plain, firstUnit := firstUnits s }
          let e1 : KeyEnt := { e with cur := g, retired := { e.cur with state := 5 } :: e.retired }
          (some (replyOk []), rekeyed index s.repls (keyLimitAlarm (configGroup 255 0x12 (s.ciph fun c => { c with keys := Tbl.set c.keys index e1 })))))
    | _, _ => (some (replyErr .notFound 0), s)

/-- KEY_ROTATE at 0xFFFF_FFFF: the whole table is re-wrapped, a record is written with the old key as PREV (R446). -/
def ktwkRotate (wrapped : List Byte) (s : State) : Option MReply × State :=
  if keysRefused s then (some (replyErr .refusedState 0), s)
  else match s.cipher.ktwk with
  | none => (some (replyErr .notFound 0), s)
  | some k => match unwrapAs k wrapped 3 ktwkIndex with
    | none => (some (replyErr .authFailed 0), s)
    | some (plain, _) =>
      if plainBad 3 plain || plain.take 32 == k then (some (fieldAt 8), s)
      else
        (some (replyOk []), configGroup 255 0x12 (recheckKeys (rekeyTable k (plain.take 32) s)))

def execKeyRotate (h : MbxHdr) (index : W32) (wrapped : List Byte) (s : State) : Res := onRun s fun s =>
  mbxStart ⟨0x0602, 2, true, .other, false⟩ h [.num 0 4 index.toNat, .bytes 8 wrapped] (fun s =>
    if index.toNat = ktwkIndex then ktwkRotate wrapped s else keyRotate index.toNat wrapped s) s

def execKtwkRotate (h : MbxHdr) (wrapped : List Byte) (s : State) : Res := onRun s fun s =>
  mbxStart ⟨0x0602, 2, true, .other, false⟩ h [.num 0 4 0xFFFFFFFF, .bytes 8 wrapped] (ktwkRotate wrapped) s

/-- A volume or relationship names the index, or it is the cluster key of a member (R449). -/
def keyNamed (index : Nat) (s : State) : Bool :=
  (s.ns.any fun e => e.2.key = index) || (index = 1048575 && s.cluster.member)

/-- KEY_DESTROY (R449): every slot of the index is zeroed, then the entry and its generations leave. The KTWK has no entry in the key table (log entry 9). -/
def execKeyDestroy (h : MbxHdr) (index : W32) (s : State) : Res := onRun s fun s =>
  let i := index.toNat
  mbxStart ⟨0x0603, 2, true, .other, false⟩ h [.num 0 4 index.toNat] (tryDo
    (firstFail [(keyIndexBad i, limitAt 0), (!Tbl.has s.cipher.keys i, replyErr .notFound 0), (keyNamed i s, replyErr .inUse 0)])
    (fun s => keyLimitAlarm (configGroup 255 0x12 (dropKey i s)))) s

/-- KEY_QUERY (R141, R448). -/
def execKeyQuery (h : MbxHdr) (index : W32) (s : State) : Res := onRun s fun s =>
  let i := index.toNat
  mbxStart ⟨0x0604, 2, false, .other, false⟩ h [.num 0 4 index.toNat] (answer fun s =>
    if keyIndexBad i then limitAt 0
    else match Tbl.find s.cipher.keys i with
      | none => replyErr .notFound 0
      | some e => replyOk (le8 e.cur.kind ++ le8 e.cur.state ++ zeros 2 ++ le64 e.cur.uses ++ le64 (genLimit e.cur))) s

/-! ## Cipher descriptors (R455) -/

def execXtsEncrypt (r : CipherReq) (s : State) : Res := onLive s (runXts true r)
def execXtsDecrypt (r : CipherReq) (s : State) : Res := onLive s (runXts false r)
def execXtsReencrypt (r : CipherReq) (s : State) : Res := onLive s (runReencrypt r)
def execGcmOpen (r : CipherReq) (s : State) : Res := onLive s (runGcmOpen r)
def execGcmData (r : CipherReq) (s : State) : Res := onLive s (runGcmData r)
def execGcmClose (r : CipherReq) (s : State) : Res := onLive s (runGcmClose r)
def execRawEncrypt (r : CipherReq) (s : State) : Res := onLive s (runRaw true r)
def execRawDecrypt (r : CipherReq) (s : State) : Res := onLive s (runRaw false r)

/-- A slot fill (R454): the entry is unwrapped under the KTWK, or marked unusable and its requests complete with KEY_ABSENT. -/
def execKeySlotFill (index gen : Nat) (s : State) : Res := onLive s fun s =>
  match Tbl.find s.cipher.keys index with
  | none => s
  | some e =>
    let s := cacheRead 5 index s
    match genOf e gen, slotOf (.gen index gen) s, victimSlot s with
    | some g, none, some n => (match genPlain s index g with
      | some key => retryWaits (fillSlot n { use := .gen index gen, gcmKind := decide (g.kind = 1), key := key } s)
      | none => retryWaits (keyUnusable index gen 1 (s.ciph fun c => { c with fillFails := satAdd 65535 c.fillFails 1 })))
    | _, _, _ => s

/-! ## Digest engine (R457 to R461) -/

/-- Refuse an access to a digest context or the accelerator that another agent owns (R457). -/
def dgsBusy (agent context : Nat) (s : State) : State := emit (.dgsRefused agent .contextBusy context) s

/-- A read of DGS_ALLOC (R463). -/
def execDgsAlloc (agent : Nat) (s : State) : Res := onLive s fun s =>
  match (List.range 8).find? fun n => !Tbl.has s.cipher.dgs n with
  | some n => emit (.dgsAlloc agent (BitVec.ofNat 32 n)) (s.ciph fun c => { c with dgs := Tbl.set c.dgs n { owner := some agent } })
  | none => emit (.dgsAlloc agent 0x80000000) (s.ciph fun c => { c with noContext := c.noContext + 1 })

/-- Do something with a context that no other agent owns. -/
def withDgs (agent : Nat) (n : Nat) (f : DgsCtx → State → State) (s : State) : State :=
  match Tbl.find s.cipher.dgs n with
  | some c => if c.owner = some agent then f c s else dgsBusy agent (0x40 + n) s
  | none => s

/-- A write of DGS_CTXn_CTRL with OPEN, with the KEY and DEST registers as they then stand (R459, R460, R463). -/
def execDgsCtxOpen (agent : Nat) (n : Fin 8) (v : DgsCtrl) (key : W32) (dest : BitVec 12) (s : State) : Res := onLive s fun s =>
  let fresh : DgsCtx := {
    owner := some agent, alg := v.alg, hmac := v.hmac, toSlot := v.toSlot, weight := v.weight, feeder := v.feeder,
    feederEn := v.feederEn, key := key, dest := dest }
  match Tbl.find s.cipher.dgs n with
  | some c => if c.owner = some agent then s.ciph fun k => { k with dgs := Tbl.set k.dgs n fresh } else dgsBusy agent (0x40 + n) s
  | none => s.ciph fun k => { k with dgs := Tbl.set k.dgs n fresh }

/-- A write of CLOSE frees the context and clears its state (R463). -/
def execDgsCtxClose (agent : Nat) (n : Fin 8) (s : State) : Res := onLive s
  (withDgs agent n fun _ s => s.ciph fun k => { k with dgs := Tbl.del k.dgs n })

def State.modDgs (s : State) (n : Nat) (c : DgsCtx) : State := s.ciph fun k => { k with dgs := Tbl.set k.dgs n c }

/-- A write of LENGTH; with data queued it is discarded and the context is failed (R459). -/
def execDgsCtxLengthWrite (agent : Nat) (n : Fin 8) (len : W64) (s : State) : Res := onLive s
  (withDgs agent n fun c s =>
    if c.msg ≠ [] ∨ c.padTaken ≠ 0 then s.modDgs n { c with failed := true } else s.modDgs n { c with length := len.toNat })

/-- Block bytes and bytes of the length field by algorithm (R442). -/
def dgsBlock (a : BitVec 2) : Nat := if a = 0 then 64 else 128
def dgsLenField (a : BitVec 2) : Nat := if a = 0 then 8 else 16
/-- T of R442. -/
def dgsTotal (a : BitVec 2) (len : Nat) : Nat := roundUp (len + 1 + dgsLenField a) (dgsBlock a)

/-- The padding that FIPS 180-4 asks for, with the bit length that R460 gives under HMAC. -/
def dgsPad (c : DgsCtx) : List Byte :=
  let lf := dgsLenField c.alg
  let bits := 8 * (c.length + if c.hmac then dgsBlock c.alg else 0)
  (0x80 : Byte) :: zeros (dgsTotal c.alg c.length - c.length - 1 - lf) ++ (leBytes lf bits).reverse

/-- The hash of a context's message; ALG 3 is reserved and its result is open (log entry 1). -/
def dgsHash (c : DgsCtx) (key : List Byte) (free : Nat) : List Byte :=
  match c.alg.toNat, c.hmac with
  | 0, false => Config.sha256 c.msg
  | 1, false => Config.sha384 c.msg
  | 2, false => Config.sha512 c.msg
  | 0, true => Config.hmacSha256 key c.msg
  | 1, true => Config.hmacSha384 key c.msg
  | 2, true => Config.hmacSha512 key c.msg
  | _, _ => leBytes 64 free

/-- The key that KEY names: a sealing slot, or the current generation of an index (R460). -/
def dgsKey (s : State) (key : W32) : Option (List Byte) :=
  if key.getLsbD 31 then
    match key.toNat % 4 with
    | 0 => s.cipher.dsk
    | 1 => s.cipher.ktwk
    | 2 => s.cipher.ktwkPrev
    | _ => none
  else match Tbl.find s.cipher.keys (key.toNat % 2 ^ 20) with
    | some e => genPlain s (key.toNat % 2 ^ 20) e.cur
    | none => none

/-- The T-th byte has been taken: DONE, with the digest, or the derived key in its slot (R459, R460). -/
def dgsFinish (n : Nat) (c : DgsCtx) (s : State) : State :=
  let d := draw s
  match c.hmac, dgsKey s c.key with
  | true, none => s.modDgs n { c with failed := true }
  | _, k =>
    let out := dgsHash c (k.getD []) d.1
    let s0 := if c.alg = 3 then d.2 else s
    if c.toSlot then
      fillSlot c.dest.toNat { use := .derived, gcmKind := true, key := out.take 32 } (s0.modDgs n { c with done := true, digest := zeros 64 })
    else s0.modDgs n { c with done := true, digest := fit 64 out }

/-- Take bytes of a stream one by one (R459). -/
def dgsFeed (pad : List Byte) (total : Nat) : List Byte → DgsCtx → DgsCtx
  | [], c => c
  | b :: bs, c =>
    if c.failed then c
    else if c.msg.length < c.length then dgsFeed pad total bs { c with msg := c.msg ++ [b] }
    else if c.length + c.padTaken < total then
      if pad.getD c.padTaken 0 = b then dgsFeed pad total bs { c with padTaken := c.padTaken + 1 }
      else { c with padFault := true, failed := true }
    else { c with overrun := true, failed := true }

/-- A write to a context's data port (R459): from the owner, or from the utility DMA channel that FEEDER names. -/
def execDgsDataPortWrite (agent : Nat) (n : Fin 8) (data : List Byte) (s : State) : Res := onLive s fun s =>
  match Tbl.find s.cipher.dgs n with
  | none => s
  | some c =>
    if c.owner = some agent ∨ (c.feederEn ∧ agent = 0x20 + c.feeder.toNat) then
      let total := dgsTotal c.alg c.length
      let c1 := dgsFeed (dgsPad c) total data c
      if !c1.failed && !c1.done && c1.length + c1.padTaken = total && c1.msg.length = c1.length then dgsFinish n c1 s else s.modDgs n c1
    else dgsBusy agent (0x40 + n) s

/-- Digest bytes by algorithm. -/
def dgsLen (a : BitVec 2) : Nat := if a = 0 then 32 else if a = 1 then 48 else 64

/-- A write of 1 to DGS_CTXn_CMP, with EXPECT as it then stands (R461); before DONE the outcome is open (log entry 1). -/
def execDgsCtxCmp (agent : Nat) (n : Fin 8) (expect : List Byte) (s : State) : Res := onLive s
  (withDgs agent n fun c s =>
    let d := draw s
    let same := if c.done then c.digest.take (dgsLen c.alg) == expect.take (dgsLen c.alg) else decide (d.1 % 2 = 1)
    let s0 := if c.done then s else d.2
    s0.modDgs n { c with
      expect := fit 64 expect, cmpDone := true, cmpResult := if same then 0xC35AA53C else 0x0F0F0F0F,
      cmpResultN := if same then 0x3CA55AC3 else 0xF0F0F0F0 })

/-! ## ECDSA accelerator (R462) -/

/-- START with an OP: refused while BUSY, whoever sends it. -/
def ecdsaStart (agent : Nat) (op : BitVec 2) (operands : List Byte) (s : State) : State :=
  if s.cipher.ecdsa.busy then dgsBusy agent 0x48 s
  else s.ciph fun c => { c with ecdsa := { op := op, busy := true, owner := agent, operands := fit 240 operands } }

def execDgsEcdsaVerify (agent : Nat) (operands : List Byte) (s : State) : Res := onLive s (ecdsaStart agent 1 operands)
def execDgsEcdsaSign (agent : Nat) (operands : List Byte) (s : State) : Res := onLive s (ecdsaStart agent 2 operands)

/-- A span of bytes. -/
def span (l : List Byte) (off n : Nat) : List Byte := (l.drop off).take n

/-- The accelerator finishes (R462): verification of the operands; for a signature, r and s are written first and then verified. Without a report key r and s are open (log entry 1). -/
def execEcdsaOperationDone (s : State) : Res := onLive s fun s =>
  let e := s.cipher.ecdsa
  if !e.busy then s
  else
    let d := draw s
    let q := span e.operands 0 96
    let digest := span e.operands 0xC0 48
    let sig := if e.op = 2 then fit 96 (if s.trust.reportKey then Config.ecdsaSign (reportScalar s) digest else leBytes 96 d.1) else span e.operands 0x60 96
    let s0 := if e.op = 2 && !s.trust.reportKey then d.2 else s
    let okRange := Config.ecdsaInRange q sig
    let good := okRange && Config.ecdsaVerify q digest sig
    s0.ciph fun c => { c with ecdsa := { e with
      busy := false, done := true, invalid := !okRange,
      result := if good then 0xA5C33C5A else 0x0F0F0F0F, resultN := if good then 0x5A3CC3A5 else 0xF0F0F0F0,
      operands := q ++ sig ++ digest } }

end Sys2Proof.Machine
end

