-- ==== Sys2Proof/Machine/SnapOps.lean ====
section
/-! DEFINITION. Machine/SnapOps.lean: cuts, clones, shrinks and the granting of Privet entries (R153, R160, R418 to R422). -/
namespace Sys2Proof.Machine
open Sys2Proof

/-- This head owns a pool. -/
def ownsPool (s : State) (pool : Nat) : Bool := (Tbl.find s.pools pool).any (·.owned)

/-- A tree has gone: the counts of the units that it named change in a record group of the pool's owner, which frees those without references when it commits (R222, R223). -/
def treeGone (pool : Nat) (map : Tbl MapEnt) (before s : State) : State :=
  let units := (map.flatMap fun x => entUnit (some x.2)).eraseDups
  if units = [] || !ownsPool s pool then s
  else addGroup { pool := pool, effects := [.settle units], notes := deltaRecords pool (ahead before) (ahead s) units } s

/-- Writes of a namespace that have not committed: a cut's view waits for them (R420). -/
def uncommitted (s : State) (nsid : Nat) : List Nat := (s.carafe.own.filter fun e => e.2.nsid = nsid).map (·.1)

/-- Copy the poison of a view of one namespace to a view of another, that of groups not yet committed with it; the table is merged where it overflows (R170, R173). -/
def copyPoison (nsid : Nat) (ep : Option Nat) (nsid2 : Nat) (ep2 : Option Nat) (s : State) : State :=
  let add := ((s.host.poison ++ pendingPoison s).filter fun p => p.nsid = nsid && p.epoch = ep).map fun p => { p with nsid := nsid2, epoch := ep2 }
  settlePoison { s with host := { s.host with poison := add ++ s.host.poison } }

/-- The cut of an epoch, at the grant of its Privet entry: the view shares the volume's pages, and the entry ends when the SNAPSHOT record commits (R222, R418, R419). -/
def cutSnapshot (n nsid : Nat) (held : Bool) (s : State) : Nat × State :=
  let e := s.snaps.next
  match Tbl.find s.ns nsid with
  | none => (0, dropPrivet n s)
  | some v =>
    let inh := Tbl.getD s.snaps.clones nsid { pending := [] }
    let r := sharePages s v.map v.pages
    let w : Snap := {
      nsid := nsid, blocks := v.blocks, map := v.map, pages := r.1, size := v.size, pending := uncommitted s nsid ++ inh.pending,
      changed := inh.changed, held := held }
    let s0 := r.2.modNs nsid fun v => { v with pages := r.1 }
    let s1 := copyPoison nsid none nsid (some e) { s0 with snaps := { s0.snaps with next := e + 1, views := Tbl.set s0.snaps.views e w } }
    (e, addGroup { pool := 255, locks := [n], notes := [privateRecord 0x13] } s1)

/-- Remove a view: its poison goes at once, the counts of the units that it named in a record group (R222, R422). -/
def dropView (e : Nat) (s : State) : State :=
  match Tbl.find s.snaps.views e with
  | none => s
  | some w =>
    let s1 := { s with
      snaps := { s.snaps with views := Tbl.del s.snaps.views e }
      host := { s.host with poison := s.host.poison.filter fun p => !(p.nsid = w.nsid && p.epoch = some e) } }
    treeGone ((Tbl.find s.ns w.nsid).elim 255 (·.pool)) w.map s s1

def dropViewOpt (e : Option Nat) (s : State) : State :=
  match e with
  | some x => dropView x s
  | none => s

/-- A relationship in a state that runs no cycle. -/
def replHalted (x : Repl) : Bool := [ReplState.paused, .stopped, .diverged, .keyExhausted].contains x.state

/-- The cut of a cycle or checkpoint has been made (R431, R433): a source in sync sends REPL_COMMIT at once, for no write is in flight at the grant; a target answers that its matching snapshot is taken. -/
def cutRepl (rel e : Nat) (s : State) : State :=
  match Tbl.find s.repls rel with
  | none => dropView e s
  | some x =>
    if replHalted x || x.away then dropView e s
    else if x.source then
      let st := if x.state = .idle then ReplState.transferring else x.state
      let s1 := s.modRepl rel fun y => { y with cycle := some e, lagCut := 0, state := st }
      if syncActive x then cluSend x.node (.replCommit rel e) s1 else s1
    else
      let s1 := (dropViewOpt x.checkpoint s).modRepl rel fun y => { y with checkpoint := some e, base := y.builtEpoch, changed := [] }
      cluSend x.node (.replCommitAck (rel % 2 ^ 32) x.builtEpoch) s1

/-- The job of a granted entry that no command owns. -/
def runJob (n : Nat) (s : State) : State :=
  match Tbl.find s.snaps.jobs n with
  | none => s
  | some j =>
    let s0 := { s with snaps := { s.snaps with jobs := Tbl.del s.snaps.jobs n } }
    match j with
    | .shrink nsid size =>
      if (Tbl.find s0.ns nsid).any (·.shrinkFor) then runShrink n nsid size s0 else finishOp 0x0403 (replyOk []) (runShrink n nsid size s0)
    | .cut nsid .mailbox _ =>
      let r := cutSnapshot n nsid false s0
      finishOp 0x0701 (replyOk (le64 r.1)) r.2
    | .cut nsid .peer _ => (cutSnapshot n nsid false (s0.modNs nsid fun v => { v with cutDone := v.cutAsked })).2
    | .cut nsid (.repl rel) _ =>
      let r := cutSnapshot n nsid true s0
      cutRepl rel r.1 r.2

/-- A shrink is granted once every write into the removed range has been journaled, so that no earlier write lands behind it (R153, R165). -/
def jobMay (s : State) : LockJob → Bool
  | .shrink nsid size => match Tbl.find s.ns nsid with
    | some v => !stagedOver nsid (size / blockBytes v) (nsBlocks v - size / blockBytes v) s
    | none => true
  | .cut _ _ _ => true

/-- The job of an entry, if it has one, may run. -/
def entryMay (n : Nat) (s : State) : Bool := (Tbl.find s.snaps.jobs n).all (jobMay s)

/-- A waiting entry is granted (R160): its command runs, or its cut or shrink is made. -/
def execPrivetLockGrant (n : Nat) (s : State) : Res := onRun s fun s =>
  match Tbl.find s.host.privet n with
  | none => s
  | some e =>
    if e.granted || !privetFree s.host.privet n e || !entryMay n s then s
    else
      let s1 := { s with host := { s.host with privet := Tbl.set s.host.privet n { e with granted := true } } }
      match e.owner with
      | some id => s1.modCmd id fun c => { c with stage := if c.stage = .lockWait then .running else c.stage }
      | none => runJob n s1

/-- Take an entry over a range for a cut or a shrink, or wait for one (R161, R195); the job runs at once where the entry is granted at once. -/
def lockJob (nsid first last slice : Nat) (j : LockJob) (s : State) : Nat × Bool × State :=
  if !entryFree slice s then (0, false, { s with snaps := { s.snaps with jobWait := s.snaps.jobWait ++ [(nsid, first, last, slice, j)] } })
  else
    let r := makePrivet nsid first last true slice none s
    let g := isGranted r.1 r.2 && jobMay s j
    (r.1, g, { r.2 with
      host := { r.2.host with privet := Tbl.upd r.2.host.privet r.1 fun e => { e with granted := g } }
      snaps := { r.2.snaps with jobs := Tbl.set r.2.snaps.jobs r.1 j } })

/-- Snapshots of a volume. -/
def viewsOf (s : State) (nsid : Nat) : List Nat := (s.snaps.views.filter fun e => e.2.nsid = nsid).map (·.1)

def dropViews : List Nat → State → State
  | [], s => s
  | e :: es, s => dropViews es (dropView e s)

/-- Start the cut of a replication cycle (R433). -/
def startCut (rel nsid : Nat) (s : State) : State :=
  match Tbl.find s.ns nsid with
  | none => s
  | some v =>
    let r := lockJob nsid 0 (nsBlocks v - 1) v.slice (.cut nsid (.repl rel) s.time.toNat) s
    if r.2.1 then runJob r.1 r.2.2 else r.2.2

/-- The cut of a relationship's cycle waits for its entry. -/
def cutting (rel : Nat) (s : State) : Bool :=
  (s.snaps.jobs.map (·.2) ++ s.snaps.jobWait.map (·.2.2.2.2)).any fun j => match j with
    | .cut _ (.repl r) _ => decide (r = rel)
    | _ => false

/-- A cycle starts, or waits behind the one that runs (R433). -/
def startCycle (rel : Nat) (s : State) : State :=
  match Tbl.find s.repls rel with
  | none => s
  | some x =>
    if !x.source || !x.opened || replHalted x || x.away then s
    else if x.cycle.isSome || cutting rel s then s.modRepl rel fun y => { y with waiting := true }
    else startCut rel x.nsid (s.modRepl rel fun y => { y with waiting := false })

/-- The running cycle is given up: its snapshot goes, and it starts again from the base (R439). -/
def dropCycle (rel : Nat) (s : State) : State :=
  match Tbl.find s.repls rel with
  | none => s
  | some x => dropViewOpt x.cycle (s.modRepl rel fun y => { y with
      cycle := none
      deltasOut := 0
      toSend := []
      ready := []
      state := if y.state = .transferring then .idle else y.state })

/-- After a power loss or a takeover the owning head resumes its relationships (R439). -/
def resumeRepls : List (Nat × Repl) → State → State
  | [], s => s
  | (rel, x) :: l, s =>
    let s1 := if x.source then
        let s0 := dropCycle rel s
        let s1 := if syncActive x then suspendRepl rel .suspended s0 else s0
        if x.cycle.isSome || syncActive x then startCycle rel s1 else s1
      else s.modRepl rel fun y => { y with built := [], builtEpoch := 0, wanted := false, reported := false, staged := [] }
    resumeRepls l s1

/-- The relationships whose volume lies in one of some pools. -/
def replsIn (pools : List Nat) (s : State) : List (Nat × Repl) :=
  s.repls.filter fun e => match Tbl.find s.ns e.2.nsid with
    | some v => pools.contains v.pool
    | none => false

end Sys2Proof.Machine
end

