-- ==== Sys2Proof/Machine/Volumes.lean ====
section
/-! DEFINITION. Machine/Volumes.lean: volumes, snapshots and clones (R152, R153, R210, R239, R418 to R422, R450). -/
namespace Sys2Proof.Machine
open Sys2Proof

/-- Namespaces of a slice. -/
def nsCount (s : State) (slice : Nat) : Nat := (s.ns.filter fun e => e.2.slice = slice).length

/-- NSID outside 1 to 65,536 (R152). -/
def nsidBad (n : Nat) : Bool := n = 0 || decide (65536 < n)

/-- SIZE_BYTES outside R152. -/
def sizeBad (n : Nat) : Bool := n % 2 ^ 20 ≠ 0 || decide (2 ^ 54 < n)

/-- LEVEL outside its range for COMPRESS (R210). -/
def levelBad (c l : Nat) : Bool :=
  if c = 0 then l ≠ 0 else if c = 1 then decide (1 < l) else l = 0 || decide (9 < l)

/-- Every controller of a slice learns of a change of its namespaces (R153). -/
def tellNsChanged (slice nsid : Nat) (s : State) : State :=
  let mark := fun (c : Ctrl) => if c.slice = slice then { c with changed := (c.changed ++ [nsid]).eraseDups } else c
  notifyAll noticeNsChanged (sliceCtrls slice s) { s with host := { s.host with ctrls := Tbl.mapVals s.host.ctrls fun _ c => mark c } }

/-- The XTS generation held at an index (R450). -/
def xtsHeld (s : State) (key : Nat) : Bool :=
  s.cipher.ktwk.isSome && match Tbl.find s.cipher.keys key with
    | some e => e.cur.kind = 0
    | none => false

/-- A key index that a volume of a slice may not name (R206, R424). -/
def keyTaken (s : State) (key slice : Nat) : Bool :=
  key = 1048575 || match Tbl.find s.cipher.keys key with
    | some e => (match e.slice with
      | some x => x ≠ slice
      | none => false)
    | none => false

/-- VOLUME_CREATE (R152, R185, R210, R450): limits first, then what must exist, then what must not. -/
def execVolumeCreate (h : MbxHdr) (nsid : W32) (slice : W16) (pool unit : Byte) (size : W64) (compress level : Byte) (key : W32) (s : State) : Res := onRun s fun s =>
  let n := nsid.toNat
  let sl := slice.toNat
  let p := pool.toNat
  mbxStart ⟨0x0401, 2, true, .other, false⟩ h [.num 0 4 nsid.toNat, .num 4 2 slice.toNat, .num 6 1 pool.toNat, .num 7 1 unit.toNat, .num 8 8 size.toNat, .num 16 1 compress.toNat, .num 17 1 level.toNat, .num 20 4 key.toNat] (fun s => tryDo
    (firstFail [
      (nsidBad n, limitAt 0), (decide (4095 < sl), limitAt 4), (decide (7 < p), limitAt 6), (decide (2 < unit.toNat), limitAt 7),
      (sizeBad size.toNat, limitAt 8), (decide (2 < compress.toNat), limitAt 16), (levelBad compress.toNat level.toNat, limitAt 17),
      (decide (1048575 < key.toNat), limitAt 20),
      (!Tbl.has s.slices sl || !Tbl.has s.pools p, replyErr .notFound 0),
      (Tbl.has s.ns n, replyErr .existsAlready 0),
      (keyTaken s key.toNat sl, replyErr .inUse 0),
      (!xtsHeld s key.toNat, replyErr .notFound 0),
      ((match Tbl.find s.slices sl with | some x => decide (x.namespaces ≤ nsCount s sl) | none => false), replyErr .noResource 0)])
    (fun s =>
      let v : Ns := { slice := sl, pool := p, size := size.toNat, unitLog := 12 + unit.toNat, compress := compress.toNat, level := level.toNat, key := key.toNat }
      let s1 := s.ciph fun c => { c with keys := Tbl.upd c.keys key.toNat fun e => { e with slice := some sl } }
      let s2 := s1.modSlice sl fun x => { x with keys := (x.keys ++ [key.toNat]).eraseDups }
      tellNsChanged sl n (configGroup p 0x10 { s2 with ns := Tbl.set s2.ns n v })) s) s

/-- Units that no record group has created and that no staged write or batch names any more, with those of some batches that will not be stored. -/
def strayUnits (nsid : Nat) (lost : List Batch) (s : State) : List Nat :=
  let named := (s.carafe.own.flatMap fun e => e.2.ents.flatMap fun x => entUnit (some x.2)) ++ s.grinder.batches.flatMap fun b => b.2.units.flatMap fun u => entUnit u.ent
  (lost.flatMap fun b => b.units.flatMap fun u => if u.fresh then entUnit u.ent else [])
    ++ (s.grinder.units.filter fun e => e.2.live && e.2.pending && e.2.creator = nsid && !named.contains e.1 && !(openGroups s).any fun g => g.units.contains e.1).map (·.1)

/-- What a deleted namespace leaves in the Carafe and the Grinder goes with it: staged writes, batches, and the units that they alone would have created (log entry 225). -/
def dropNsWork (nsid : Nat) (s : State) : State :=
  let gone := uncommitted s nsid
  let s1 := { s with
    carafe := { s.carafe with own := Tbl.keep s.carafe.own fun _ d => d.nsid ≠ nsid }
    grinder := { s.grinder with
      ready := s.grinder.ready.filter fun u => u.nsid ≠ nsid
      batches := Tbl.keep s.grinder.batches fun _ b => b.nsid ≠ nsid } }
  let s2 := (strayUnits nsid ((s.grinder.batches.filter fun b => b.2.nsid = nsid).map (·.2)) s1).foldl (fun s k => freeUnit k s) s1
  vaultSetRecompute (if gone ≠ [] && peerPresent s2 then jalSend (.releaseMirror gone) s2 else s2)

/-- A volume leaves the tables; its stored units are nobody's creation any more, for its NSID may be given anew (R222, R239). -/
def removeVolume (n : Nat) (v : Ns) (s : State) : State :=
  let s1 := { s with
    ns := Tbl.del s.ns n
    snaps := { s.snaps with clones := Tbl.del s.snaps.clones n }
    host := { s.host with poison := s.host.poison.filter fun p => p.nsid ≠ n }
    grinder := { s.grinder with units := Tbl.mapVals s.grinder.units fun _ u => if u.creator = n then { u with creator := 0 } else u } }
  formAll v.pool (treeGone v.pool v.map s s1)

/-- VOLUME_DELETE (R222, R422). -/
def deleteVolume (n : Nat) (v : Ns) (s : State) : State :=
  tellNsChanged v.slice n (configGroup v.pool 0x10 (removeVolume n v (dropViews (viewsOf s n) (dropNsWork n s))))

def execVolumeDelete (h : MbxHdr) (nsid : W32) (s : State) : Res := onRun s fun s =>
  mbxStart ⟨0x0402, 2, true, .other, false⟩ h [.num 0 4 nsid.toNat] (fun s => tryDo
    (firstFail [(nsidBad nsid.toNat, limitAt 0), (!Tbl.has s.ns nsid.toNat, replyErr .notFound 0),
      ((replOf nsid.toNat s).isSome, replyErr .inUse 0)])
    (fun s => match Tbl.find s.ns nsid.toNat with
      | some v => deleteVolume nsid.toNat v s
      | none => s) s) s

/-- A shrink takes its exclusive entry here, and is made where that is granted at once. -/
def shrinkHere (n size : Nat) (v : Ns) (s : State) : State :=
  let r := lockJob n (size / blockBytes v) (nsBlocks v - 1) v.slice (.shrink n size) s
  if r.2.1 then runJob r.1 r.2.2 else r.2.2

/-- VOLUME_RESIZE (R152, R153, R162): on the head that owns the pool a shrink waits for its exclusive entry over the removed range, which commands fetched from now on no longer reach. -/
def resizeVolume (n size : Nat) (s : State) : Option MReply × State :=
  match Tbl.find s.ns n with
  | none => (some (replyErr .notFound 0), s)
  | some v =>
    if v.size ≤ size then
      (some (replyOk []), tellNsChanged v.slice n (configGroup v.pool 0x10 (s.modNs n fun v => { v with size := size })))
    else
      let s1 := s.modNs n fun v => { v with shrinkTo := some size }
      if !ownsPool s v.pool && peerPresent s then (none, configGroup v.pool 0x10 s1)
      else
        let r := lockJob n (size / blockBytes v) (nsBlocks v - 1) v.slice (.shrink n size) s1
        if r.2.1 then (some (replyOk []), runJob r.1 r.2.2) else (none, r.2.2)

def execVolumeResize (h : MbxHdr) (nsid : W32) (size : W64) (s : State) : Res := onRun s fun s =>
  mbxStart ⟨0x0403, 2, true, .other, false⟩ h [.num 0 4 nsid.toNat, .num 8 8 size.toNat] (fun s =>
    if nsidBad nsid.toNat then (some (limitAt 0), s)
    else if sizeBad size.toNat then (some (limitAt 8), s)
    else resizeVolume nsid.toNat size.toNat s) s

/-- A namespace's map: the entries that hold here, under those that the other head's journal shows for a pool that it owns. -/
def nsMap (s : State) (n : Nat) (v : Ns) : Tbl MapEnt :=
  (s.journal.peerGroups.flatMap fun g => if g.2.committed then [] else g.2.map.filter fun x => x.1 = n).foldl (fun t x => match x.2.2 with
    | some e => Tbl.set t x.2.1 e
    | none => Tbl.del t x.2.1) v.map

/-- USED_LOGICAL and USED_PHYSICAL (R239). -/
def usedLogical (s : State) (n : Nat) (v : Ns) : Nat := ((nsMap s n v).filter fun e => e.2 ≠ .zero).length * 2 ^ v.unitLog
def usedPhysical (s : State) (n : Nat) : Nat := ((s.grinder.units.filter fun e => e.2.creator = n && e.2.live).map (·.2.stored)).sum

/-- VOLUME_QUERY (R141, R173, R239). The spec gives the FLAGS byte no bits: it is a free value (log entry 1). -/
def execVolumeQuery (h : MbxHdr) (nsid : W32) (s : State) : Res := onRun s fun s =>
  mbxStart ⟨0x0404, 2, false, .other, false⟩ h [.num 0 4 nsid.toNat] (fun s =>
    if nsidBad nsid.toNat then (some (limitAt 0), s)
    else match Tbl.find s.ns nsid.toNat with
      | none => (some (replyErr .notFound 0), s)
      | some v =>
        let f := draw s
        (some (replyOk (le16 v.slice ++ le8 v.pool ++ le8 f.1 ++ le64 v.size ++ le64 (usedLogical s nsid.toNat v) ++ le64 (usedPhysical s nsid.toNat)
          ++ le32 (poisonRanges nsid.toNat s) ++ zeros 4)), f.2)) s

/-! ## Snapshots and clones -/

/-- A cut takes its exclusive entry here, and is made where that is granted at once. -/
def cutHere (n : Nat) (why : CutFor) (v : Ns) (s : State) : State :=
  let r := lockJob n 0 (nsBlocks v - 1) v.slice (.cut n why s.time.toNat) s
  if r.2.1 then runJob r.1 r.2.2 else r.2.2

/-- SNAPSHOT_CREATE (R162, R418, R419): the cut is made on the head that owns the pool. -/
def execSnapshotCreate (h : MbxHdr) (nsid : W32) (s : State) : Res := onRun s fun s =>
  let n := nsid.toNat
  mbxStart ⟨0x0701, 2, true, .other, false⟩ h [.num 0 4 nsid.toNat] (fun s =>
    match firstFail [(nsidBad n, limitAt 0), (!Tbl.has s.ns n, replyErr .notFound 0),
        (decide (1048576 ≤ s.snaps.views.length) || decide (16384 ≤ (viewsOf s n).length), replyErr .noResource 0)], Tbl.find s.ns n with
    | some r, _ => (some r, s)
    | none, none => (some (replyErr .notFound 0), s)
    | none, some v =>
      if !ownsPool s v.pool && peerPresent s then (none, configGroup v.pool 0x13 (s.modNs n fun v => { v with cutAsked := v.cutAsked + 1 }))
      else
      let r := lockJob n 0 (nsBlocks v - 1) v.slice (.cut n .mailbox s.time.toNat) s
      if r.2.1 then
        let c := cutSnapshot r.1 n false { r.2.2 with snaps := { r.2.2.snaps with jobs := Tbl.del r.2.2.snaps.jobs r.1 } }
        (some (replyOk (le64 c.1)), c.2)
      else (none, r.2.2)) s

/-- A cut that was not granted in time is given up (R419). -/
def cutLate (nsid : Nat) (why : CutFor) (since : Nat) (s : State) : State :=
  let s1 := reachTime (since + 40000000) s
  match why with
  | .mailbox => finishOp 0x0701 (replyErr .busy 0) s1
  | .peer => configGroup 255 0x13 (s1.modNs nsid fun v => { v with cutDone := v.cutAsked })
  | .repl rel => s1.modRepl rel fun r => { r with waiting := true }

/-- SNAPSHOT_CUT_TIMEOUT: an entry not granted within 40 ms is removed, and a command is refused with BUSY (R419); entry 0 stands for the oldest cut that has no entry yet. -/
def execSnapshotCutTimeout (n : Nat) (s : State) : Res := onRun s fun s =>
  if n = 0 then
    match s.snaps.jobWait with
    | (_, _, _, _, .cut nsid why since) :: rest => cutLate nsid why since { s with snaps := { s.snaps with jobWait := rest } }
    | _ => s
  else match Tbl.find s.snaps.jobs n with
    | some (.cut nsid why since) => fillEntries (cutLate nsid why since (dropPrivet n { s with snaps := { s.snaps with jobs := Tbl.del s.snaps.jobs n } }))
    | _ => s

/-- SNAPSHOT_DELETE (R422). -/
def execSnapshotDelete (h : MbxHdr) (nsid : W32) (epoch : W64) (s : State) : Res := onRun s fun s =>
  mbxStart ⟨0x0702, 2, true, .other, false⟩ h [.num 0 4 nsid.toNat, .num 8 8 epoch.toNat] (fun s =>
    if nsidBad nsid.toNat then (some (limitAt 0), s)
    else match Tbl.find s.snaps.views epoch.toNat with
      | none => (some (replyErr .notFound 0), s)
      | some w =>
        if w.nsid ≠ nsid.toNat then (some (replyErr .notFound 0), s)
        else if w.held then (some (replyErr .inUse 0), s)
        else (some (replyOk []), configGroup 255 0x13 (dropView epoch.toNat s))) s

/-- CLONE_CREATE (R222, R421): the new volume shares the view's pages; it inherits what the view still waits for (R420). -/
def cloneFrom (src new epoch : Nat) (v : Ns) (w : Snap) (s : State) : State :=
  let r := sharePages s w.map w.pages
  let c : Ns := { v with size := w.size, blocks := w.blocks, map := w.map, pages := r.1, shrinkTo := none, shrinkFor := false, cutAsked := 0, cutDone := 0 }
  let s1 := copyPoison src (some epoch) new none { r.2 with
    ns := Tbl.set r.2.ns new c
    snaps := { r.2.snaps with views := Tbl.upd r.2.snaps.views epoch fun w => { w with pages := r.1 } } }
  let i : Inherit := { pending := w.pending, changed := w.changed }
  let s2 := if w.pending = [] then s1 else { s1 with snaps := { s1.snaps with clones := Tbl.set s1.snaps.clones new i } }
  tellNsChanged v.slice new (configGroup v.pool 0x13 s2)

def execCloneCreate (h : MbxHdr) (src new : W32) (epoch : W64) (s : State) : Res := onRun s fun s =>
  mbxStart ⟨0x0703, 2, true, .other, false⟩ h [.num 0 4 src.toNat, .num 4 4 new.toNat, .num 8 8 epoch.toNat] (fun s =>
    if nsidBad src.toNat then (some (limitAt 0), s)
    else if nsidBad new.toNat then (some (limitAt 4), s)
    else match Tbl.find s.ns src.toNat, Tbl.find s.snaps.views epoch.toNat with
      | some v, some w =>
        if w.nsid ≠ src.toNat then (some (replyErr .notFound 0), s)
        else if Tbl.has s.ns new.toNat then (some (replyErr .existsAlready 0), s)
        else if (match Tbl.find s.slices v.slice with | some x => decide (x.namespaces ≤ nsCount s v.slice) | none => true) then
          (some (replyErr .noResource 0), s)
        else (some (replyOk []), cloneFrom src.toNat new.toNat epoch.toNat v w s)
      | _, _ => (some (replyErr .notFound 0), s)) s

end Sys2Proof.Machine
end

