-- ==== Sys2Proof/Machine/Slices.lean ====
section
/-! DEFINITION. Machine/Slices.lean: slice creation, resize, reset, removal and dirty-page logging (R185 to R205). -/
namespace Sys2Proof.Machine
open Sys2Proof

/-- Queue pairs that a slice has open on this head, admin queues included (R185), but not those of discovery controllers (log entry 214). -/
def openPairs (s : State) (slice : Nat) : Nat :=
  ((s.host.ctrls.filter fun e => e.2.slice = slice && !e.2.discovery).map fun e => max e.2.sqs.length e.2.cqs.length).sum

def pairsReserved (s : State) (but : Option Nat) : Nat := ((s.slices.filter fun e => some e.1 ≠ but).map (·.2.queuePairs)).sum
def nsReserved (s : State) (but : Option Nat) : Nat := ((s.slices.filter fun e => some e.1 ≠ but).map (·.2.namespaces)).sum

/-- A vector of the windows is free. -/
def vectorFree (s : State) (v : Nat) : Bool := !(s.slices.any fun e => decide (e.2.vecBase ≤ v) && decide (v < e.2.vecBase + e.2.vecCount))

/-- The lowest position at which n free vectors lie together (R190). -/
def vectorRun (s : State) (n : Nat) : Option Nat :=
  (List.range (1984 + 1 - n)).map (64 + ·) |>.find? fun b => (List.range n).all fun i => vectorFree s (b + i)

/-- The lowest controller number n of R151 that is free and has rested for 10 s. -/
def freshCntlid (s : State) : Option Nat :=
  ((List.range 16383).map fun i => 0x4000 * headIndex s + i + 1).find? fun c =>
    !Tbl.has s.host.ctrls c && match Tbl.find s.host.ended c with
      | some t => decide (t + 10000000000 ≤ s.time.toNat)
      | none => true

/-- The first check of R197: SLICE above 4,095, or a value outside R186. -/
def sliceLimits (slice bindOff bind qpOff qp nsOff ns : Nat) (pasid : Bool) : List (Bool × MReply) := [
  (decide (4095 < slice), limitAt 0), (pasid && decide (0xFFFFF < bind), limitAt bindOff),
  (decide (65536 < qp), limitAt qpOff), (ns = 0 || decide (65536 < ns), limitAt nsOff)]

/-- SLICE_CREATE (R185, R190, R197): the doorbell pages are live; the controller of a page is created by the host's first write (R196). -/
def createSlice (slice : Nat) (tenant : Bool) (bind qp ns base count : Nat) (s : State) : State :=
  let sl : Slice := { tenant := tenant, bind := bind, queuePairs := qp, namespaces := ns, vecBase := base, vecCount := count }
  configGroup 255 0x11 { s with slices := Tbl.set s.slices slice sl }

/-- Queue pairs that a slice has open on the head where it has more (R197). -/
def mostPairs (s : State) (slice : Nat) : Nat := max (openPairs s slice) ((Tbl.find s.slices slice).elim 0 (·.peerPairs))

def execSliceCreate (h : MbxHdr) (slice : W16) (bindType : Byte) (bind qp ns : W32) (s : State) : Res := onRun s fun s =>
  mbxStart ⟨0x0501, 2, true, .other, false⟩ h [.num 0 2 slice.toNat, .num 2 1 bindType.toNat, .num 4 4 bind.toNat, .num 8 4 qp.toNat, .num 12 4 ns.toNat] (fun s =>
    let n := slice.toNat
    let tenant := bindType.toNat = 1
    let window := if tenant then some 0 else vectorRun s (min qp.toNat 16)
    tryDo (firstFail (sliceLimits n 4 bind.toNat 8 qp.toNat 12 ns.toNat (bindType = 0) ++ [
        (decide (1 < bindType.toNat), fieldAt 2), (bind = 0, fieldAt 4), (decide (qp.toNat < 2), fieldAt 8),
        (Tbl.has s.slices n || s.slices.any fun e => e.2.tenant = tenant && e.2.bind = bind.toNat, replyErr .existsAlready 0),
        (decide (65536 < pairsReserved s none + qp.toNat) || decide (65536 < nsReserved s none + ns.toNat) || window.isNone, replyErr .noResource 0)]))
      (createSlice n tenant bind.toNat qp.toNat ns.toNat (if tenant then 0 else window.getD 0) (if tenant then 0 else min qp.toNat 16)) s) s

/-- SLICE_RESIZE (R197): it answers once the record has committed on both heads. -/
def execSliceResize (h : MbxHdr) (slice : W16) (qp ns : W32) (permille : W16) (s : State) : Res := onRun s fun s =>
  mbxStart ⟨0x0502, 3, true, .other, false⟩ h [.num 0 2 slice.toNat, .num 4 4 qp.toNat, .num 8 4 ns.toNat, .num 12 2 permille.toNat] (fun s =>
    let n := slice.toNat
    match firstFail [
        (decide (4095 < n), limitAt 0), (decide (65536 < qp.toNat), limitAt 4), (ns = 0 || decide (65536 < ns.toNat), limitAt 8),
        (permille = 0 || decide (1000 < permille.toNat), limitAt 12), (decide (qp.toNat < 2), fieldAt 4),
        (!Tbl.has s.slices n, replyErr .notFound 0),
        (decide (qp.toNat < mostPairs s n) || decide (ns.toNat < nsCount s n), replyErr .inUse 0),
        (decide (65536 < pairsReserved s (some n) + qp.toNat) || decide (65536 < nsReserved s (some n) + ns.toNat), replyErr .noResource 0)] with
    | some r => (some r, s)
    | none => (none, configReply 0x11 0x0502 (fillEntries
        (s.modSlice n fun sl => { sl with queuePairs := qp.toNat, namespaces := ns.toNat, weight := permille.toNat })))) s

/-! ## Reset (R198) -/

/-- Take a command away without a completion. -/
def removeCmd (id : Nat) (s : State) : State :=
  let s1 := s.modCmd id fun c => { c with mute := true }
  completeCmd id nsAborted { s1 with carafe := { s1.carafe with waiting := s1.carafe.waiting.filter (· ≠ id) } }

/-- A command's data is read from host memory over PCIe. -/
def overPcie (c : Inflight) (s : State) : Bool := !c.forwarded && !c.replica && (Tbl.find s.host.ctrls c.ctrl).any fun t => !t.fabrics

/-- One muted command under a squash (R198): it leaves, but for a write that is whole, which commits, and a read of host memory under way, whose end is awaited. -/
def squashCmd (id : Nat) (c : Inflight) (s : State) : State :=
  match c.stage with
  | .entryWait | .lockWait | .running | .admitWait => removeCmd id s
  | .staging => if overPcie c s then (dropOwn id s).modCmd id fun c => { c with stage := .stopped } else removeCmd id (dropOwn id s)
  | .staged | .stopped => s
  | .grouped => if c.op = .flush then removeCmd id s else s

def squashAll : List (Nat × Inflight) → State → State
  | [], s => s
  | (id, c) :: l, s => squashAll l (squashCmd id c s)

/-- Mute some commands: none of them posts a completion from now on. -/
def muteAll (ids : List Nat) (s : State) : State :=
  { s with host := { s.host with inflight := Tbl.mapVals s.host.inflight fun id c => { c with mute := c.mute || ids.contains id } } }

/-- Commands of a slice that are not squashed yet. -/
def sliceCmds (s : State) (slice : Nat) : List (Nat × Inflight) := s.host.inflight.filter fun e => e.2.slice = slice && !e.2.mute

/-- Squash every command of a slice; those of this head's own controllers are counted here (R198 step 5). -/
def squashSlice (slice : Nat) (s : State) : State :=
  let l := sliceCmds s slice
  let own := (l.filter fun e => !e.2.forwarded).length
  squashAll l (muteAll (l.map (·.1)) (s.modSlice slice fun sl => { sl with run := sl.run.map fun r => { r with squashed := r.squashed + own } }))

/-- Submission entries not yet fetched are discarded (R198 step 1). -/
def discardPosted (slice : Nat) (s : State) : State :=
  let clear := fun (c : Ctrl) => if c.slice = slice then { c with sqs := Tbl.mapVals c.sqs fun _ q => { q with head := q.tail } } else c
  { s with host := { s.host with ctrls := Tbl.mapVals s.host.ctrls fun _ c => clear c } }

/-- Steps 1 and 2 of R198 for a run that begins; the other head learns of one that begins here (R196). -/
def startReset (slice : Nat) (r : SliceRun) (s : State) : State :=
  let s1 := discardPosted slice (s.modSlice slice fun sl => { sl with
    state := if r.deleting then .deleting else .resetting, run := some { r with limit := s.time.toNat + 1000000000 } })
  let s2 := if r.mine && peerPresent s then configGroup 255 0x11 s1 else s1
  if r.squash then squashSlice slice s2 else s2

/-- A slice that is being reset or removed takes no second reset or removal: BUSY (log entry 187). -/
def sliceRunning (s : State) (n : Nat) : Bool := (Tbl.find s.slices n).any fun sl => sl.state ≠ .active

def execSliceReset (h : MbxHdr) (slice : W16) (mode : Byte) (s : State) : Res := onRun s fun s =>
  let n := slice.toNat
  let s1 := mbxStart ⟨0x0503, 2, true, .other, false⟩ h [.num 0 2 slice.toNat, .num 2 1 mode.toNat] (fun s =>
    match firstFail [(decide (4095 < n), limitAt 0), (decide (1 < mode.toNat), fieldAt 2), (!Tbl.has s.slices n, replyErr .notFound 0),
        (sliceRunning s n, replyErr .busy 0)] with
    | some r => (some r, s)
    | none => (none, startReset n { squash := mode.toNat = 1 } s)) s
  finishReset n s1

/-- SLICE_RESET_DRAIN_TIMEOUT: 1 s into a drain, what is outstanding is squashed (R198). -/
def execSliceResetDrainTimeout (slice : Fin 4096) (s : State) : Res := onRun s fun s =>
  match Tbl.find s.slices slice with
  | none => s
  | some sl => match sl.run with
    | some r => if r.squash || r.torn then s else finishReset slice (squashSlice slice (reachTime r.limit s))
    | none => s

/-- SLICE_DELETE: a squash reset first; what the slice holds is released, and the answer given, when that is done on both heads (R196, R201). -/
def execSliceDelete (h : MbxHdr) (slice : W16) (s : State) : Res := onRun s fun s =>
  let n := slice.toNat
  let s1 := mbxStart ⟨0x0504, 2, true, .other, false⟩ h [.num 0 2 slice.toNat] (fun s =>
    match firstFail [(decide (4095 < n), limitAt 0), (!Tbl.has s.slices n, replyErr .notFound 0), (decide (0 < nsCount s n), replyErr .inUse 0),
        (sliceRunning s n, replyErr .busy 0)] with
    | some r => (some r, s)
    | none => (none, startReset n { squash := true, deleting := true } s)) s
  finishReset n s1

/-! ## Dirty-page log (R203) -/

/-- Slices that log dirty pages on either head (R186). -/
def loggingSlices (s : State) : Nat := (s.slices.filter fun e => e.2.dirty.isSome || e.2.peerLogging).length
def isLogging (s : State) (n : Nat) : Bool := match Tbl.find s.slices n with | some sl => sl.dirty.isSome | none => false
def isTenant (s : State) (n : Nat) : Bool := match Tbl.find s.slices n with | some sl => sl.tenant | none => false

/-- The checks of every SLICE_DIRTY_LOG: the slice's limit and its existence (R143). -/
def dirtyChecks (s : State) (n : Nat) : List (Bool × MReply) := [(decide (4095 < n), limitAt 0), (!Tbl.has s.slices n, replyErr .notFound 0)]

/-- SLICE_DIRTY_LOG OP 0, and any OP above 2, which is refused (R141, R203). -/
def execSliceDirtyLogStart (h : MbxHdr) (slice : W16) (op : Byte) (s : State) : Res := onRun s fun s =>
  let n := slice.toNat
  mbxStart ⟨0x0505, 3, true, .other, false⟩ h [.num 0 2 slice.toNat, .num 2 1 op.toNat] (fun s =>
    match firstFail ([(decide (4095 < n), limitAt 0), (decide (op ≠ 0), fieldAt 2)] ++ dirtyChecks s n ++ [(isLogging s n, replyErr .busy 0), (decide (64 ≤ loggingSlices s), replyErr .noResource 0), (isTenant s n, fieldAt 0)]) with
    | some r => (some r, s)
    | none => (some (replyOk (le64 0)), tellSlice (s.modSlice n fun sl => { sl with dirty := some {} }))) s

def execSliceDirtyLogHarvest (h : MbxHdr) (slice : W16) (addr : W64) (len : W32) (ok : Bool) (s : State) : Res := onRun s fun s =>
  let n := slice.toNat
  mbxStart ⟨0x0505, 3, true, .other, false⟩ h [.num 0 2 slice.toNat, .num 2 1 2, .num 4 8 addr.toNat, .num 12 4 len.toNat] (fun s =>
    match firstFail (dirtyChecks s n ++ [(!isLogging s n, fieldAt 2), (decide (len.toNat < 88), fieldAt 12)]) with
    | some r => (some r, s)
    | none =>
      if ok then let r := harvest h.port n addr len.toNat s; (some (replyOk (le64 r.1)), r.2)
      else let x := dmaFault h addr true s; (some x.1, x.2)) s

/-- What a stop does once it is accepted; `late` says that 1 s passes with commands remaining. -/
def dirtyStopBody (n : Nat) (addr : W64) (len : Nat) (late ok : Bool) (s : State) : Option MReply × State :=
  match firstFail (dirtyChecks s n ++ [(!isLogging s n, fieldAt 2), (decide (len < 88), fieldAt 12)]) with
  | some r => (some r, s)
  | none =>
    if late && sliceLeft s n then (some (replyErr .busy 0), reachTime (s.time.toNat + 1000000000) s)
    else (none, s.modSlice n fun sl => { sl with dirtyStop := some (addr, len, ok) })

/-- Stop (R203): with commands left it waits for them. -/
def execSliceDirtyLogStop (h : MbxHdr) (slice : W16) (addr : W64) (len : W32) (late ok : Bool) (s : State) : Res := onRun s fun s =>
  finishStop slice.toNat (mbxStart ⟨0x0505, 3, true, .other, false⟩ h [.num 0 2 slice.toNat, .num 2 1 1, .num 4 8 addr.toNat, .num 12 4 len.toNat] (dirtyStopBody slice.toNat addr len.toNat late ok) s)

end Sys2Proof.Machine
end

