-- ==== Sys2Proof/Machine/NvmePages.lean ====
section
/-! DEFINITION. Machine/NvmePages.lean: subsystem names, log pages and Identify data (R144, R147, R148, R150, R152 to R154, R176, R177, R191). Offsets within these pages are those of the NVM Express Base Specification and the NVM Command Set Specification, to which R144 holds them. -/
namespace Sys2Proof.Machine
open Sys2Proof

/-! ## Subsystem names (R150) -/

/-- A hexadecimal digit as a character, lower case. -/
def hexChar (n : Nat) : Byte := BitVec.ofNat 8 (if n < 10 then 48 + n else 87 + n)
def hexText (l : List Byte) : List Byte := l.flatMap fun b => [hexChar (b.toNat / 16), hexChar (b.toNat % 16)]

/-- The subsystem NQN of a slice (R150): the digest's input is the cluster identifier in 8 bytes and the slice number in 2, each with its low byte first (log entry 180). -/
def subsysNqn (s : State) (slice : Nat) : List Byte :=
  let d := (Config.sha256 (le64 s.cluster.id.toNat ++ le16 slice)).take 16
  let d1 := (d.set 6 ((d.getD 6 0 &&& 0x0F) ||| 0x80)).set 8 ((d.getD 8 0 &&& 0x3F) ||| 0x80)
  let x := hexText d1
  bytesOf "nqn.2014-08.org.nvmexpress:uuid:" ++ x.take 8 ++ [45] ++ (x.drop 8).take 4 ++ [45] ++ (x.drop 12).take 4 ++ [45]
    ++ (x.drop 16).take 4 ++ [45] ++ x.drop 20

/-- The well-known discovery subsystem of the NVMe standard. -/
def discoveryNqn : List Byte := bytesOf "nqn.2014-08.org.nvmexpress.discovery"

/-! ## Log pages (R148, R176, R177) -/

/-- Header of the Deferred Error page; OLDEST_SEQ is 0 while no entry is held (log entry 181). -/
def deferredHeader (sl : Slice) : List Byte :=
  le64 sl.total ++ le64 (match sl.log with | e :: _ => e.seq | [] => 0) ++ le16 sl.log.length ++ le16 1 ++ zeros 44

/-- The Deferred Error page, 16,448 bytes. -/
def deferredPage (sl : Slice) : List Byte := fit 16448 (deferredHeader sl ++ sl.log.flatMap deferredBytes)

/-- ANA states as the log page numbers them (NVMe standard). -/
def anaNum : AnaState → Nat
  | .optimized => 1 | .nonOptimized => 2 | .inaccessible => 3 | .change => 15

/-- The ANA page: change count, groups with a namespace of the slice, and their namespaces (R180 to R182). The change count of each group is that of the page (log entry 182). -/
def anaPage (s : State) (slice : Nat) : List Byte :=
  let groups := s.pools.filter fun p => s.ns.any fun e => e.2.slice = slice && e.2.pool = p.1
  le64 s.host.anaChanges.toNat ++ le16 groups.length ++ zeros 6 ++ groups.flatMap fun p =>
    let ids := (s.ns.filter fun e => e.2.slice = slice && e.2.pool = p.1).map (·.1)
    le32 (p.1 + 1) ++ le32 ids.length ++ le64 s.host.anaChanges.toNat ++ le8 (anaNum p.2.ana) ++ zeros 15 ++ ids.flatMap le32

/-- An Error Information entry (NVMe standard layout). -/
def errLogBytes (e : ErrLog) : List Byte :=
  le64 e.count ++ le16 e.sq ++ le16 e.cid ++ le16 ((e.status.sct * 256 + e.status.sc) * 2) ++ le16 e.location ++ le64 e.lba ++ le32 e.nsid ++ zeros 36

/-- Changed Namespace List: identifiers in increasing order. -/
def changedPage (c : Ctrl) : List Byte := fit 4096 ((sortBy (fun a b => decide (a < b)) c.changed).flatMap le32)

/-- Log pages of a controller (R148). -/
def logPages (c : Ctrl) : List Nat := if c.discovery then [0, 0x70] else [0, 1, 2, 4, 5, 0x0C, 0xC0]

/-- Supported Log Pages: LSUPP of each identifier. -/
def supportedPage (c : Ctrl) : List Byte := (List.range 256).flatMap fun n => le32 (if (logPages c).contains n then 1 else 0)

/-- Commands of R147 by their opcodes, each with what it does: CSUPP, and LBCC where it changes logical blocks, NCC where it changes a namespace's capabilities (log entry 183). -/
def adminEffects (c : Ctrl) : List (Nat × Nat) :=
  [(2, 1), (6, 1), (8, 1), (9, 1), (0x0A, 1), (0x0C, 1), (0x18, 1), (0x80, 7)] ++ if c.fabrics then [] else [(0, 1), (1, 1), (4, 1), (5, 1)]
def ioEffects : List (Nat × Nat) := [(0, 1), (1, 3), (2, 1), (4, 3), (5, 1), (8, 3), (9, 3), (0x0C, 1)]

/-- Commands Supported and Effects. -/
def effectsPage (c : Ctrl) : List Byte :=
  fit 4096 (((List.range 256).flatMap fun n => le32 (Tbl.getD (adminEffects c) n 0)) ++ (List.range 256).flatMap fun n => le32 (Tbl.getD ioEffects n 0))

/-- Pools that hold a namespace of a slice. -/
def slicePools (s : State) (slice : Nat) : List (Nat × Pool) := s.pools.filter fun p => s.ns.any fun e => e.2.slice = slice && e.2.pool = p.1

/-- Thousands of 512-byte data units, rounded up. -/
def dataUnits (bytes : Nat) : Nat := ceilDiv bytes 512000

/-- SMART / Health Information: media figures over the slice's pools (R148); the spare, its threshold, the busy time and the unsafe shutdowns, of which the spec says nothing, are free values. -/
def smartPage (c : Ctrl) (s : State) : List Byte × State :=
  let f := draw s
  let pools := slicePools s c.slice
  let wear := (pools.flatMap fun p => p.2.cur.members.map fun m => (s.mod m).wear).foldl max 0
  let lost := (pools.map (·.2.lost)).sum
  (fit 512 (le8 0 ++ le16 (s.phys.dieMax.toNat + 273) ++ leBytes 2 f.1 ++ le8 (min 255 wear) ++ zeros 26
    ++ leBytes 16 (dataUnits c.bytesRead) ++ leBytes 16 (dataUnits c.bytesWritten) ++ leBytes 16 c.reads ++ leBytes 16 c.writes
    ++ leBytes 16 (f.1 / 2 ^ 16) ++ leBytes 16 s.aon.powerCycles.toNat ++ leBytes 16 s.aon.hours.toNat ++ leBytes 16 (f.1 / 2 ^ 144)
    ++ leBytes 16 lost ++ leBytes 16 c.errCount), f.2)

/-- A number in decimal digits. -/
def decText (n : Nat) : List Byte := bytesOf (toString n)

/-- Transport addresses of this head's logical ports, in text, each with its address family: 1 for IPv4, 2 for IPv6. -/
def portAddresses (s : State) : List (Nat × List Byte) :=
  s.net.lports.flatMap fun e =>
    (match e.2.ipv4 with
      | some a =>
        let n := a.toNat
        [(1, decText (n / 2 ^ 24) ++ [46] ++ decText (n / 2 ^ 16 % 256) ++ [46] ++ decText (n / 2 ^ 8 % 256) ++ [46] ++ decText (n % 256))]
      | none => [])
    ++ e.2.ipv6.map fun a =>
      (2, ((List.range 8).flatMap fun i => (if i = 0 then [] else [58]) ++ hexText [BitVec.ofNat 8 (a.1.toNat / 2 ^ (120 - 16 * i)), BitVec.ofNat 8 (a.1.toNat / 2 ^ (112 - 16 * i))]))

/-- ASCII text padded with spaces. -/
def textField (n : Nat) (l : List Byte) : List Byte := l.take n ++ List.replicate (n - l.length) 32

/-- A Discovery entry: the NVM subsystem of a slice at one address, over RDMA with a reliable connection, RoCE v2 and the connection manager (R146, R191). -/
def discoveryEntry (s : State) (slice id : Nat) (a : Nat × List Byte) : List Byte :=
  fit 1024 (le8 1 ++ le8 a.1 ++ le8 2 ++ le8 0 ++ le16 id ++ le16 0xFFFF ++ le16 32 ++ zeros 22 ++ textField 32 (bytesOf "4420") ++ zeros 192
    ++ fit 256 (subsysNqn s slice) ++ textField 256 a.2 ++ le8 1 ++ le8 4 ++ le8 1)

/-- The Discovery log page: only the subsystem of the host's own slice (R150, R191); the generation counter, of which the spec says nothing, is a free value. -/
def discoveryPage (c : Ctrl) (s : State) : List Byte × State :=
  let f := draw s
  let l := portAddresses s
  (fit 1024 (leBytes 8 f.1 ++ le64 l.length) ++ l.zipIdx.flatMap fun x => discoveryEntry s c.slice x.2 x.1, f.2)

/-- The log page by its identifier; none is unsupported. -/
def logPage (lid : Nat) (c : Ctrl) (s : State) : Option (List Byte × State) :=
  match Tbl.find s.slices c.slice with
  | none => none
  | some sl =>
    if !(logPages c).contains lid then none
    else match lid with
      | 0 => some (supportedPage c, s)
      | 1 => some ((c.errLog.flatMap errLogBytes) ++ zeros (64 * (64 - c.errLog.length)), s)
      | 2 => some (smartPage c s)
      | 4 => some (changedPage c, s)
      | 5 => some (effectsPage c, s)
      | 0x0C => some (anaPage s c.slice, s)
      | 0x70 => some (discoveryPage c s)
      | _ => some (deferredPage sl, s)

/-! ## Identify (R144, R147, R152 to R154) -/

/-- Lay fields over a page at their offsets. -/
def overlay (d : List Byte) : List (Nat × List Byte) → List Byte
  | [] => d
  | (o, f) :: l => overlay (d.take o ++ f ++ d.drop (o + f.length)) l

/-- Logical blocks with a mapping or dirty data (NUSE), on the head that owns them or as its mirror shows them. -/
def nuse (s : State) (n : Nat) (v : Ns) : Nat :=
  ((nsMap s n v).filter fun e => e.2 ≠ .zero).length * unitBlocks v
    + (((s.carafe.own ++ s.carafe.mirror).filter fun e => e.2.nsid = n).map (·.2.data.length)).sum

/-- Identify Namespace: no metadata, no protection information, no reservations; shared between controllers (R144, R152, R153; log entry 183). -/
def identNs (s : State) (n : Nat) (v : Ns) : List (Nat × List Byte) :=
  let u := unitBlocks v - 1
  let atom := le16 (if v.fmt512 then 2047 else 255)
  [(0, le64 (nsBlocks v)), (8, le64 (nsBlocks v)), (16, le64 (nuse s n v)), (24, le8 0x13), (25, le8 1), (26, le8 (if v.fmt512 then 1 else 0)),
   (30, le8 1), (33, le8 9), (34, atom), (36, atom), (38, atom), (64, le16 u), (66, le16 u), (68, le16 u), (70, le16 u),
   (72, le16 (65536 / blockBytes v - 1)), (92, le32 (v.pool + 1)), (104, leBytes 16 (Config.nguid s.cluster.id n).toNat),
   (128, le32 (12 * 65536)), (132, le32 (9 * 65536 + 3 * 2 ^ 24))]

/-- Identify Controller: vendor, capabilities and limits (R109, R144, R147, R154; log entry 183). Serial and model number, firmware revision, RAB, IEEE identifier, the two temperature thresholds and power state 0 are free values: the spec gives them no content. -/
def identCtrl (s : State) (id : Nat) (c : Ctrl) : List (Nat × List Byte) :=
  let free := fun (o n : Nat) => (o, (List.range n).map fun i => Config.identByte (o + i))
  [(0, le16 0x1F6D), (2, le16 0x1F6D), free 4 72, (76, le8 0x0B), (77, le8 9), (78, le16 id), (80, le32 0x20000), (92, le32 0x900), (96, le32 1),
   (111, le8 (if c.discovery then 2 else 1)), (256, le16 2), (258, le8 3), (259, le8 3), (260, le8 3), (261, le8 6), (262, le8 63), free 266 4,
   (320, le16 1), (342, le8 10), (343, le8 0x57), (344, le32 8), (348, le32 8), (512, le8 0x66), (513, le8 0x44),
   (514, le16 (if c.fabrics then 4096 else 0)), (516, le32 65536), (520, le16 0x8F), (522, le16 1), (526, le16 255), (528, le16 255), (532, le16 255),
   (536, le32 (if c.fabrics then 0x00100005 else 1)), (540, le32 65536),
   (768, fit 256 (if c.discovery then discoveryNqn else subsysNqn s c.slice))]
  ++ (if c.fabrics then [(1792, le32 516), (1796, le32 1), (1803, le8 16), (1804, le16 1)] else []) ++ [free 2048 32]

/-- Identify Namespace as every I/O command set gives it (CNS 0x08): shared, its ANA group, ready. -/
def identAnyNs (v : Ns) : List (Nat × List Byte) := [(1, le8 1), (4, le32 (v.pool + 1)), (14, le8 1)]

/-- The Namespace Identification Descriptors (CNS 0x03): NGUID, and the NVM Command Set. -/
def identDescriptors (s : State) (n : Nat) : List Byte := [2, 16, 0, 0] ++ leBytes 16 (Config.nguid s.cluster.id n).toNat ++ [4, 1, 0, 0, 0]

/-- The page of a CNS value, or the status that refuses it. What the NVM Command Set adds (CNS 0x05 and 0x06) is all zero: no protection information, and no limit is reported. -/
def identPage (cns nsid ctrl : Nat) (c : Ctrl) (s : State) : Except NStatus (List Byte) :=
  let page := overlay (zeros 4096)
  let ofNs := fun (f : Ns → List Byte) => match Tbl.find s.ns nsid with
    | some v => if v.slice = c.slice && !c.discovery then Except.ok (f v) else .error nsInvalidNs
    | none => .error nsInvalidNs
  match cns with
  | 0 => ofNs fun v => page (identNs s nsid v)
  | 1 => .ok (page (identCtrl s ctrl c))
  | 2 => .ok (fit 4096 (((sliceNs s c.slice).filter fun n => decide (nsid < n)).flatMap le32))
  | 3 => ofNs fun _ => fit 4096 (identDescriptors s nsid)
  | 5 => ofNs fun _ => zeros 4096
  | 6 => .ok (zeros 4096)
  | 8 => ofNs fun v => page (identAnyNs v)
  | _ => .error nsInvalidField

end Sys2Proof.Machine
end

