-- ==== Sys2Proof/Machine/Nvme.lean ====
section
/-! DEFINITION. Machine/Nvme.lean: doorbells, controller registers, fabrics commands and admin commands (R145 to R164, R175, R188 to R193, R200). -/
namespace Sys2Proof.Machine
open Sys2Proof

/-! ## Doorbells and controller registers -/

/-- The slice whose doorbell page is live: it exists and is bound by PASID, and the endpoint exists (R111, R188). -/
def liveSlice (g : PageId) (s : State) : Option Slice :=
  if g.upper && !(s.port g.port).x8 then none
  else match Tbl.find s.slices g.slice.toNat with
    | some x => if x.tenant then none else some x
    | none => none

/-- The static controller of a page, once the host has created it (R188, R196). -/
def ctrlOfPage (g : PageId) (s : State) : Option (Nat × Ctrl) :=
  s.host.ctrls.find? fun e => !e.2.fabrics && e.2.port = g.port && e.2.upper = g.upper && decide (e.2.slice = g.slice.toNat)

/-- A host access to a live page: its controller is created where it has none yet and an identifier is free (R151, R178, R196). -/
def onPage (g : PageId) (f : Nat → State → State) (s : State) : State :=
  match liveSlice g s with
  | none => s
  | some x => match ctrlOfPage g s with
    | some (n, _) => f n s
    | none => match freshCntlid s with
      | none => s
      | some n => f n { s with host := { s.host with ctrls := Tbl.set s.host.ctrls n {
          slice := g.slice.toNat, fabrics := false, port := g.port, upper := g.upper, nssro := x.nssro, startMark := x.total } } }

/-- Error events of doorbells, whose numbers are the NVMe standard's (log entry 184): a register of no queue, a value outside the queue. -/
def noticeDoorbellRegister : W32 := 0x00010000
def noticeDoorbellValue : W32 := 0x00010100

/-- A doorbell that names a queue and a value in it has its effect; another is reported. -/
def onDoorbell (g : PageId) (f : Nat → Ctrl → Option (Nat × (State → State))) (v : W32) (s : State) : State :=
  match liveSlice g s, ctrlOfPage g s with
  | some _, some (n, c) =>
    if !c.enabled then s
    else match f n c with
      | none => notifyCtrl n noticeDoorbellRegister s
      | some (size, run) => if size ≤ v.toNat then notifyCtrl n noticeDoorbellValue s else run s
  | _, _ => s

/-- A write of a submission queue tail doorbell (R145, R156, R189). -/
def execSqTailDoorbell (g : PageId) (sq : Nat) (v : W32) (s : State) : Res := onMem g.port g.upper true s (onDoorbell g (fun n c =>
  (Tbl.find c.sqs sq).map fun q => (q.size, fun s => s.modCtrl n fun c => { c with sqs := Tbl.upd c.sqs sq fun q => { q with tail := v.toNat } })) v)

/-- Post the completions that waited for space, oldest first. -/
def postHeld (ctrl : Nat) : List Cpl → State → State
  | [], s => s
  | e :: es, s => postHeld ctrl es (postCpl ctrl e s)

/-- A write of a completion queue head doorbell frees entries; held completions are posted (R145). -/
def execCqHeadDoorbell (g : PageId) (cq : Nat) (v : W32) (s : State) : Res := onMem g.port g.upper true s (onDoorbell g (fun n c =>
  (Tbl.find c.cqs cq).map fun q => (q.size, fun s => settleAll (fillEntries (postHeld n q.held
    (s.modCtrl n fun c => { c with cqs := Tbl.upd c.cqs cq fun q => { q with head := v.toNat, held := [] } }))))) v)

/-- Commands of a controller or queue that ends or is reset: none posts a completion from now on, and those that are not whole leave (R200). -/
def quietCtrl (l : List (Nat × Inflight)) (s : State) : State := squashAll l (muteAll (l.map (·.1)) s)

def ctrlCmds (s : State) (ctrl : Nat) : List (Nat × Inflight) := s.host.inflight.filter fun e => e.2.ctrl = ctrl && !e.2.forwarded && !e.2.mute

/-- A controller stops: its commands are quiet and its held completions go. -/
def stopCtrl (ctrl : Nat) (s : State) : State := dropHeld ctrl (quietCtrl (ctrlCmds s ctrl) s)

/-- A fabrics controller ends (R200). -/
def endCtrl (ctrl : Nat) (s : State) : State := fillEntries (dropCtrl ctrl (stopCtrl ctrl s))

/-- A controller that the host has disabled: its queues, features and logs are reset, while the queue addresses and sizes in AQA, ASQ and ACQ, the admin queue of a fabrics controller, and what Flush has reported stay (R178, R200; NVMe standard). -/
def disabledCtrl (cc : W32) (c : Ctrl) : Ctrl :=
  { freshCtrl c c.startMark c.nssro with
    cc := cc, aqa := c.aqa, asq := c.asq, acq := c.acq, marks := c.marks, discovery := c.discovery
    kato := c.kato, kaEnd := c.kaEnd, sqs := if c.fabrics then c.sqs.filter fun q => q.1 = 0 else [] }

/-- A size of an admin queue, 0-based in AQA, held to 2 to 256 entries (R154; log entry 185). -/
def adminSize (n : Nat) : Nat := max 2 (min 256 (n % 4096 + 1))

/-- CC.EN goes to 1: the admin queues take their sizes from AQA. -/
def enableCtrl (c : Ctrl) (cc : W32) : Ctrl :=
  let sq : Sq := { cq := 0, size := adminSize c.aqa.toNat, base := c.asq }
  let cq : Cq := { size := adminSize (c.aqa.toNat / 65536), base := c.acq, iv := some 0 }
  if c.fabrics then { c with enabled := true, cc := cc }
  else { c with enabled := true, cc := cc, sqs := [(0, sq)], cqs := [(0, cq)] }

/-- CC without its reserved bits, which ignore writes and read zero (R9, R189). -/
def ccOf (v : W32) : W32 := v &&& 0x00FFFFF1

/-- A write of CC by either transport (R189, R196, R199). -/
def writeCc (ctrl : Nat) (w : W32) (s : State) : State :=
  let v := ccOf w
  match Tbl.find s.host.ctrls ctrl with
  | none => s
  | some c =>
    let shut : Bool := match Tbl.find s.slices c.slice with
      | some sl => decide (sl.state ≠ .active)
      | none => true
    if shut then s
    else if v.getLsbD 0 && !c.enabled then s.modCtrl ctrl fun c => enableCtrl c v
    else if !v.getLsbD 0 && c.enabled then
      let s1 := (stopCtrl ctrl s).modCtrl ctrl (disabledCtrl v)
      fillEntries (if c.fabrics then closeQps (fun x q => x = ctrl && q ≠ 0) s1 else s1)
    else s.modCtrl ctrl fun c => { c with cc := v }

/-- A write of CC on a doorbell page; discarded while the slice is not Active (R189, R199). -/
def execCcWrite (g : PageId) (v : W32) (s : State) : Res := onMem g.port g.upper true s fun s =>
  if (liveSlice g s).any (fun x => x.state = .active) then onPage g (fun n => writeCc n v) s else s

/-- CAP, VS and CSTS (R189). -/
def capReg : W64 := BitVec.ofNat 64 (4095 + 2 ^ 16 + 2 ^ 17 + 2 * 2 ^ 24 + 2 ^ 37 + 4 * 2 ^ 52)
def vsReg : W32 := 0x00020000
def cstsReg (c : Ctrl) : W32 :=
  BitVec.ofNat 32 (flag 0 c.enabled + (if c.cc.toNat / 2 ^ 14 % 4 = 0 then 0 else 8) + flag 4 c.nssro)

/-- A controller property by its offset. -/
def propertyOf (c : Ctrl) (off : Nat) : Option W64 :=
  if off = 0 then some capReg else if off = 8 then some (vsReg.setWidth 64)
  else if off = 0x14 then some (c.cc.setWidth 64) else if off = 0x1C then some ((cstsReg c).setWidth 64) else none

/-- A fabrics command is taken from a queue of a fabrics controller, enabled or not. -/
def fabricsDo (ctrl sq : Nat) (f : Ctrl → State → State) (s : State) : State :=
  match Tbl.find s.host.ctrls ctrl with
  | none => s
  | some c => if c.fabrics && (Tbl.find c.sqs sq).any (fun q => q.head ≠ q.tail) then f c (takeEntry ctrl sq s) else s

/-- PROPERTY GET and SET complete on the admin queue. -/
def execPropertyGet (ctrl cid off : Nat) (s : State) : Res := onRun s (fabricsDo ctrl 0 fun c s =>
  match propertyOf c off with
  | some v => adminCpl ctrl cid nsOk (v.setWidth 32) (emit (.property ctrl off v) s)
  | none => adminCpl ctrl cid nsInvalidField 0 s)

def execPropertySet (ctrl cid off : Nat) (v : W32) (s : State) : Res := onRun s (fabricsDo ctrl 0 fun _ s =>
  if off = 0x14 then adminCpl ctrl cid nsOk 0 (writeCc ctrl v s)
  else if off = 0x1C then adminCpl ctrl cid nsOk 0 (if v.getLsbD 4 then s.modCtrl ctrl fun c => { c with nssro := false } else s)
  else adminCpl ctrl cid nsInvalidField 0 s)

/-! ## Connect and Disconnect (R150, R191, R192) -/

/-- The value of a hexadecimal digit. -/
def hexDigit (b : Byte) : Option Nat :=
  let n := b.toNat
  if 48 ≤ n ∧ n ≤ 57 then some (n - 48) else if 65 ≤ n ∧ n ≤ 70 then some (n - 55) else if 97 ≤ n ∧ n ≤ 102 then some (n - 87) else none

def hexValue : List Byte → Nat → Option Nat
  | [], n => some n
  | b :: bs, n => match hexDigit b with
    | some d => hexValue bs (16 * n + d)
    | none => none

/-- The bytes that follow the first occurrence of a text. -/
def afterText (t : List Byte) : List Byte → Option (List Byte)
  | [] => if t = [] then some [] else none
  | b :: bs => if (b :: bs).take t.length = t then some ((b :: bs).drop t.length) else afterText t bs

/-- The tenant identifier that a Host NQN carries (R191). -/
def tenantOf (nqn : List Byte) : Option Nat :=
  match afterText (bytesOf ":tenant:") nqn with
  | none => none
  | some rest =>
    if rest.length < 8 then none
    else if rest.length = 8 ∨ rest.getD 8 0 = 58 then hexValue (rest.take 8) 0 else none

def slicesOfTenant (s : State) (t : Nat) : Option (Nat × Slice) := s.slices.find? fun e => e.2.tenant && e.2.bind = t

/-- Queue pairs open on this head. -/
def headPairs (s : State) : Nat := (s.host.ctrls.map fun e => max e.2.sqs.length e.2.cqs.length).sum

/-- What opens or closes queue pairs tells the other head of the slices' new counts, on which a resize is judged there (R197). -/
def pairsMove (f : State → State) (s : State) : State :=
  let t := f s
  if t.slices.any fun e => openPairs t e.1 ≠ openPairs s e.1 then tellSlice t else t

/-- Connect of an admin queue: a new controller (R151, R178). -/
def connectAdmin (slice : Nat) (total : Nat) (disc : Bool) (qp : Nat) (kato : Nat) (s : State) : State :=
  match freshCntlid s with
  | none => emit (.connectRefused 1 0x82) s
  | some c =>
    let q : Sq := { cq := 0, size := 32 }
    let t : Ctrl := {
      slice := slice, fabrics := true, discovery := disc, startMark := total, sqs := [(0, q)], kato := kato,
      kaEnd := if kato = 0 then none else some (s.time.toNat + kato * 1000000) }
    let s1 := { s with
      host := { s.host with ctrls := Tbl.set s.host.ctrls c t }
      net := { s.net with qps := Tbl.upd s.net.qps qp fun x => { x with nvme := some c, nvmeSq := 0 } } }
    emit (.connected c) s1

/-- Connect of an I/O queue of a controller (R154, R197). -/
def connectIo (ctrl qid size qp : Nat) (prio : Fin 4) (c : Ctrl) (sl : Slice) (s : State) : State :=
  if 1024 < qid || size + 1 < 2 || 4096 < size + 1 || Tbl.has c.sqs qid || !c.enabled then emit (.connectRefused 1 0x82) s
  else if sl.queuePairs < openPairs s c.slice + 1 || 65536 ≤ headPairs s then emit (.connectRefused nsQueueId.sct nsQueueId.sc) s
  else
    let q : Sq := { cq := 0, size := size + 1, prio := prio.val }
    let s1 := s.modCtrl ctrl fun c => { c with sqs := Tbl.set c.sqs qid q }
    emit (.connected ctrl) { s1 with net := { s1.net with qps := Tbl.upd s1.net.qps qp fun x => { x with nvme := some ctrl, nvmeSq := qid } } }

/-- The parameters of a Connect of an admin queue within R154, for a dynamic controller, which names no controller (R144): CNTLID 0xFFFF of the NVMe standard. -/
def adminConnOk (cntlid size kato : Nat) : Bool :=
  cntlid = 0xFFFF && size = 31 && (kato = 0 || (decide (1000 ≤ kato) && decide (kato ≤ 600000)))

/-- CONNECT (R150, R169, R191, R192). One to the discovery subsystem is taken whatever the state of the slice, and outside its reservation of queue pairs, but within the head's limit (log entry 214, DESIGN CHOICE). -/
def connectCmd (qp cntlid qid size : Nat) (attr : ConnAttr) (host sub : List Byte) (s : State) : State :=
  let kato := attr.kato
  match tenantOf host with
  | none => emit (.connectRefused 1 0x84) s
  | some t => match slicesOfTenant s t with
    | none => emit (.connectRefused 1 0x84) s
    | some (n, sl) =>
      if sub = discoveryNqn then
        if qid ≠ 0 || !adminConnOk cntlid size kato then emit (.connectRefused 1 0x82) s
        else if 65536 ≤ headPairs s then emit (.connectRefused nsQueueId.sct nsQueueId.sc) s
        else connectAdmin n sl.total true qp (kato / 100 * 100) s
      else if sub ≠ subsysNqn s n then emit (.connectRefused 1 0x84) s
      else if sl.state ≠ .active then emit (.connectRefused 1 0x81) s
      else if qid = 0 then
        if !adminConnOk cntlid size kato then emit (.connectRefused 1 0x82) s
        else if sl.queuePairs < openPairs s n + 1 || 65536 ≤ headPairs s then emit (.connectRefused nsQueueId.sct nsQueueId.sc) s
        else connectAdmin n sl.total false qp (kato / 100 * 100) s
      else match Tbl.find s.host.ctrls cntlid with
        | some c => if c.slice = n && c.fabrics then connectIo cntlid qid size qp attr.prio c sl s else emit (.connectRefused 1 0x82) s
        | none => emit (.connectRefused 1 0x82) s

/-- A queue pair serves one queue of one controller for as long as it lives: a Connect on one that already does is out of sequence (R192). -/
def execConnect (qp cntlid qid size : Nat) (attr : ConnAttr) (host sub : List Byte) (s : State) : Res := onRun s fun s =>
  match Tbl.find s.net.qps qp with
  | none => s
  | some q =>
    if s.boot.stage ≠ .ready || q.state ≠ .ready then s
    else if q.nvme.isSome then emit (.connectRefused nsSequence.sct nsSequence.sc) s
    else pairsMove (connectCmd qp cntlid qid size attr host sub) s

/-- DISCONNECT completes, and ends its queue, or with queue 0 the controller (R200). -/
def execDisconnect (ctrl qid cid : Nat) (s : State) : Res := onRun s <| pairsMove (fabricsDo ctrl qid fun _ s =>
  let s1 := postCpl ctrl { sq := qid, cid := cid, status := nsOk, dw0 := 0 } s
  if qid = 0 then endCtrl ctrl s1
  else
    let l := (ctrlCmds s1 ctrl).filter fun e => e.2.sq = qid
    closeQps (fun x q => x = ctrl && q = qid) ((quietCtrl l s1).modCtrl ctrl fun c => { c with sqs := Tbl.del c.sqs qid }))

/-- KEEP_ALIVE_TIMEOUT (R154). -/
def execKeepAliveTimeout (ctrl : Nat) (s : State) : Res := onRun s <| pairsMove fun s =>
  match Tbl.find s.host.ctrls ctrl with
  | none => s
  | some c => match c.kaEnd with
    | some t =>
      let s1 := reachTime t s
      if c.fabrics then endCtrl ctrl s1 else (stopCtrl ctrl s1).modCtrl ctrl fun c => { disabledCtrl 0 c with kaEnd := none }
    | none => s

/-- INTERRUPT_COALESCING_TIMEOUT: the vector of a completion queue is sent (R149, R154). -/
def execInterruptCoalescingTimeout (ctrl cq : Nat) (s : State) : Res := onRun s fun s =>
  match Tbl.find s.host.ctrls ctrl with
  | none => s
  | some c => match Tbl.find c.cqs cq, Tbl.find s.slices c.slice with
    | some q, some sl => (match q.iv with
      | some iv =>
        if q.coalesced = 0 then s
        else sendVia c.port c.upper (sl.vecBase + iv) (s.modCtrl ctrl fun c => { c with cqs := Tbl.upd c.cqs cq fun q => { q with coalesced := 0 } })
      | none => s)
    | _, _ => s

/-! ## Admin commands -/

/-- An admin command is taken from the admin queue of an enabled controller of an Active slice. -/
def adminDo (ctrl : Nat) (s : State) (f : Ctrl → State → State) : State :=
  match Tbl.find s.host.ctrls ctrl with
  | none => s
  | some c =>
    let ok := match Tbl.find s.slices c.slice with
      | some sl => decide (sl.state = .active)
      | none => false
    if !c.enabled || !ok then s
    else match Tbl.find c.sqs 0 with
      | some q => if q.head = q.tail then s else settleAll (pairsMove (f c) (takeEntry ctrl 0 s))
      | none => s

/-- An I/O queue identifier outside 1 to 1,024, or beyond what Number of Queues has granted (R149, R154). -/
def qidBad (c : Ctrl) (cq : Bool) (q : Nat) : Bool :=
  q = 0 || decide (1024 < q) || match Tbl.find c.features 7 with
    | some g => decide ((if cq then g.toNat / 65536 else g.toNat % 65536) + 1 < q)
    | none => false
def qsizeBad (n : Nat) : Bool := decide (n < 2) || decide (4096 < n)

/-- A queue pair more than the slice has open stays within its reservation (R197). -/
def overReserved (s : State) (c : Ctrl) (grows : Bool) : Bool :=
  match Tbl.find s.slices c.slice with
  | some sl => grows && (decide (sl.queuePairs < openPairs s c.slice + 1) || decide (65536 ≤ headPairs s))
  | none => true

def execCreateIoCompletionQueue (ctrl cid qid size : Nat) (contiguous : Bool) (base : W64) (iv : Option Nat) (s : State) : Res := onRun s fun s =>
  adminDo ctrl s fun c s =>
    let window := match Tbl.find s.slices c.slice with
      | some sl => sl.vecCount
      | none => 0
    let st := if c.fabrics then nsInvalidOpcode
      else if qidBad c true qid || Tbl.has c.cqs qid || overReserved s c (decide (c.sqs.length ≤ c.cqs.length)) then nsQueueId
      else if qsizeBad size then nsQueueSize
      else if !contiguous then nsInvalidField
      else match iv with
        | some v => if window ≤ v then nsVector else nsOk
        | none => nsOk
    if st = nsOk then
      let q : Cq := { size := size, base := base, iv := iv }
      adminCpl ctrl cid nsOk 0 (s.modCtrl ctrl fun c => { c with cqs := Tbl.set c.cqs qid q })
    else adminCpl ctrl cid st 0 s

def execCreateIoSubmissionQueue (ctrl cid qid size cqid : Nat) (contiguous : Bool) (base : W64) (prio : Fin 4) (s : State) : Res := onRun s fun s =>
  adminDo ctrl s fun c s =>
    let st := if c.fabrics then nsInvalidOpcode
      else if qidBad c false qid || Tbl.has c.sqs qid || overReserved s c (decide (c.cqs.length ≤ c.sqs.length)) then nsQueueId
      else if qsizeBad size then nsQueueSize
      else if !contiguous then nsInvalidField
      else if cqid = 0 || !Tbl.has c.cqs cqid then ⟨1, 0⟩
      else nsOk
    if st = nsOk then
      let q : Sq := { cq := cqid, size := size, base := base, prio := prio.val }
      adminCpl ctrl cid nsOk 0 (s.modCtrl ctrl fun c => { c with sqs := Tbl.set c.sqs qid q })
    else adminCpl ctrl cid st 0 s

def execDeleteIoSubmissionQueue (ctrl cid qid : Nat) (s : State) : Res := onRun s fun s =>
  adminDo ctrl s fun c s =>
    if c.fabrics then adminCpl ctrl cid nsInvalidOpcode 0 s
    else if qidBad c false qid || !Tbl.has c.sqs qid then adminCpl ctrl cid nsQueueId 0 s
    else
      let l := (ctrlCmds s ctrl).filter fun e => e.2.sq = qid
      adminCpl ctrl cid nsOk 0 ((quietCtrl l s).modCtrl ctrl fun c => { c with sqs := Tbl.del c.sqs qid })

def execDeleteIoCompletionQueue (ctrl cid qid : Nat) (s : State) : Res := onRun s fun s =>
  adminDo ctrl s fun c s =>
    if c.fabrics then adminCpl ctrl cid nsInvalidOpcode 0 s
    else if qidBad c true qid || !Tbl.has c.cqs qid then adminCpl ctrl cid nsQueueId 0 s
    else if c.sqs.any fun q => q.2.cq = qid then adminCpl ctrl cid ⟨1, 0x0C⟩ 0 s
    else
      let gone := ((Tbl.find c.cqs qid).elim [] (·.held)).filterMap (·.lock)
      let s1 := s.modCtrl ctrl fun c => { c with cqs := Tbl.del c.cqs qid }
      adminCpl ctrl cid nsOk 0 (fillEntries (gone.foldl (fun s n => dropPrivet n s) s1))

/-- Aborts that the other head has still to answer. -/
def abortsOut (s : State) (ctrl : Nat) : Nat := ((s.host.inflight.filter fun e => e.2.ctrl = ctrl && !e.2.forwarded).map (·.2.aborts.length)).sum

/-- ABORT (R164): a command that waits for its entry or its lock leaves; one that holds its lock goes on. The Abort of a command that the other head executes goes there, and completes with the command. -/
def execAbort (ctrl cid sq tcid : Nat) (s : State) : Res := onRun s fun s =>
  adminDo ctrl s fun _ s =>
    match s.host.inflight.find? fun e => e.2.ctrl = ctrl && e.2.sq = sq && e.2.cid = tcid && !e.2.forwarded && !e.2.mute with
    | some (id, c) =>
      if c.away then
        if 4 ≤ abortsOut s ctrl then adminCpl ctrl cid nsAbortLimit 0 s
        else jalSend (.forwardAbort id) (s.modCmd id fun c => { c with aborts := c.aborts ++ [(ctrl, cid)] })
      else if c.stage = .lockWait || c.stage = .entryWait then adminCpl ctrl cid nsOk 0 (completeCmd id nsAborted (leaveEntry id c s))
      else adminCpl ctrl cid nsOk 1 s
    | none => adminCpl ctrl cid nsOk 1 s

/-- ASYNCHRONOUS EVENT REQUEST is held until a notice completes it; a held notice completes it now (R175). -/
def execAsynchronousEventRequest (ctrl cid : Nat) (s : State) : Res := onRun s fun s =>
  adminDo ctrl s fun c s =>
    match c.held with
    | n :: rest => adminCpl ctrl cid nsOk n (s.modCtrl ctrl fun c => { c with held := rest })
    | [] =>
      if 4 ≤ c.aers.length then adminCpl ctrl cid ⟨1, 5⟩ 0 s
      else s.modCtrl ctrl fun c => { c with aers := c.aers ++ [cid] }

def execKeepAlive (ctrl cid : Nat) (s : State) : Res := onRun s fun s =>
  adminDo ctrl s fun _ s => adminCpl ctrl cid nsOk 0 (s.modCtrl ctrl fun c =>
    { c with kaEnd := if c.kato = 0 then none else some (s.time.toNat + c.kato * 1000000) })

/-! ## Data of admin commands (R146, R168, R187, R202) -/

/-- An admin command as the Error Information log names it. -/
def adminCmd (ctrl cid slice nsid : Nat) (ptr : DataPtr) : Inflight :=
  { ctrl := ctrl, sq := 0, cid := cid, op := .flush, nsid := nsid, slba := 0, nlb := 0, slice := slice, ptr := ptr, stage := .running }

/-- Complete an admin command that carries data; a data transfer error enters the Error Information log (R168). -/
def dataCpl (ctrl cid : Nat) (c : Ctrl) (ptr : DataPtr) (st : NStatus) (location : Nat) (dw0 : W32) (s : State) : State :=
  postCpl ctrl { sq := 0, cid := cid, status := st, dw0 := dw0, inval := invalOf ptr }
    (if st = nsDataTransfer then errLog ctrl (adminCmd ctrl cid c.slice 0 ptr) st location 0 s else s)

/-- Data of an admin command goes to the host, to pages that are translated and marked first; a fault of its descriptors ends it. -/
def hostPage (ctrl cid page : Nat) (c : Ctrl) (d : List Byte) (ptr : DataPtr) (dw0 : W32) (s : State) : State :=
  match ptrCheck c d.length false ptr with
  | some st => dataCpl ctrl cid c ptr st locDptr 0 s
  | none =>
    if prpBad c d.length ptr then dataCpl ctrl cid c ptr nsDataTransfer locPrp2 0 s
    else dataCpl ctrl cid c ptr nsOk locNone dw0 (emit (.nvmePage ctrl cid page d (pasidOf c s) ptr) (writePages c (dataPages c d.length ptr) (fetchList ctrl 0 cid ptr s)))

/-! ## Features (R149) -/

/-- Features that only PCIe controllers have. -/
def pcieFeature (f : Nat) : Bool := f = 8 || f = 9
def featureKnown (c : Ctrl) (f : Nat) : Bool :=
  [1, 2, 7, 0x0A, 0x0B, 0x0F, 0x81].contains f || (pcieFeature f && !c.fabrics)

/-- I/O queues granted for a request of Number of Queues: 0-based counts of submission and completion queues. -/
def grantQueues (s : State) (c : Ctrl) (v : W32) : W32 :=
  let most := match Tbl.find s.slices c.slice with
    | some sl => min 1024 (sl.queuePairs - 1)
    | none => 1
  BitVec.ofNat 32 (min (v.toNat % 65536) (most - 1) + 65536 * min (v.toNat / 65536) (most - 1))

/-- Number of Queues: set before any I/O queue is created; a count of 65,536 is not valid (NVMe standard). -/
def setQueues (ctrl cid : Nat) (v : W32) (c : Ctrl) (s : State) : State :=
  if 1 < c.sqs.length || 1 < c.cqs.length then adminCpl ctrl cid nsSequence 0 s
  else if v.toNat % 65536 = 65535 || v.toNat / 65536 = 65535 then adminCpl ctrl cid nsInvalidField 0 s
  else
    let g := grantQueues s c v
    adminCpl ctrl cid nsOk g (s.modCtrl ctrl fun c => { c with features := Tbl.set c.features 7 g })

/-- Interrupt Vector Configuration of one vector of the slice's window: bit 16 disables its coalescing. -/
def setVector (ctrl cid : Nat) (v : W32) (c : Ctrl) (s : State) : State :=
  let iv := v.toNat % 65536
  if (Tbl.find s.slices c.slice).all (fun x => decide (x.vecCount ≤ iv)) then adminCpl ctrl cid nsInvalidField 0 s
  else adminCpl ctrl cid nsOk 0 (s.modCtrl ctrl fun c => { c with ivDisabled := if v.getLsbD 16 then Tbl.set c.ivDisabled iv () else Tbl.del c.ivDisabled iv })

/-- Host Identifier: 16 bytes where bit 0 of the value is set, else 8, read from the host's data (`data` is what the transfer gave). -/
def setHostId (ctrl cid : Nat) (v : W32) (data : List Byte) (ptr : DataPtr) (c : Ctrl) (s : State) : State :=
  let n := if v.getLsbD 0 then 16 else 8
  match ptrCheck c n false ptr with
  | some st => dataCpl ctrl cid c ptr st locDptr 0 s
  | none =>
    let s1 := askData ctrl 0 cid ptr (reachPages c (dataPages c n ptr) s)
    if prpBad c n ptr then dataCpl ctrl cid c ptr nsDataTransfer locPrp2 0 s1
    else if data.length ≠ n then dataCpl ctrl cid c ptr nsDataTransfer locDptr 0 s1
    else dataCpl ctrl cid c ptr nsOk locNone 0 (s1.modCtrl ctrl fun c => { c with hostId := data })

def setFeature (ctrl cid f : Nat) (v : W32) (data : List Byte) (ptr : DataPtr) (c : Ctrl) (s : State) : State :=
  if f = 6 then adminCpl ctrl cid nsNotChangeable 0 s
  else if !featureKnown c f then adminCpl ctrl cid nsInvalidField 0 s
  else if f = 2 && v.toNat % 32 ≠ 0 then adminCpl ctrl cid nsInvalidField 0 s
  else if f = 7 then setQueues ctrl cid v c s
  else if f = 9 then setVector ctrl cid v c s
  else if f = 0x81 then setHostId ctrl cid v data ptr c s
  else if f = 0x0F then
    if v ≠ 0 && (decide (v.toNat < 1000) || decide (600000 < v.toNat)) then adminCpl ctrl cid nsInvalidField 0 s
    else
      let k := v.toNat / 100 * 100
      adminCpl ctrl cid nsOk 0 (s.modCtrl ctrl fun c => { c with kato := k, kaEnd := if k = 0 then none else some (s.time.toNat + k * 1000000) })
  else adminCpl ctrl cid nsOk 0 (s.modCtrl ctrl fun c => { c with features := Tbl.set c.features f v })

def execSetFeatures (ctrl cid fid : Nat) (v : W32) (data : List Byte) (ptr : DataPtr) (s : State) : Res := onRun s fun s =>
  adminDo ctrl s (setFeature ctrl cid fid v data ptr)

/-- The value of a feature; `arg` names a vector for Interrupt Vector Configuration. -/
def featureValue (s : State) (c : Ctrl) (f : Nat) (arg : W32) : W32 :=
  match f with
  | 7 => Tbl.getD c.features 7 (grantQueues s c 0xFFFEFFFE)
  | 9 => BitVec.ofNat 32 (arg.toNat % 65536 + if Tbl.has c.ivDisabled (arg.toNat % 65536) then 65536 else 0)
  | 0x0B => Tbl.getD c.features 0x0B asyncDefault
  | 0x0F => BitVec.ofNat 32 c.kato
  | _ => Tbl.getD c.features f 0

/-- GET FEATURES: Volatile Write Cache reads disabled; Host Identifier is answered with data, of 16 bytes where bit 0 of `arg` asks for it. -/
def execGetFeatures (ctrl cid fid : Nat) (arg : W32) (ptr : DataPtr) (s : State) : Res := onRun s fun s =>
  adminDo ctrl s fun c s =>
    if fid = 6 then adminCpl ctrl cid nsOk 0 s
    else if !featureKnown c fid then adminCpl ctrl cid nsInvalidField 0 s
    else if fid = 0x81 then hostPage ctrl cid 0x81 c (fit (if arg.getLsbD 0 then 16 else 8) c.hostId) ptr 0 s
    else adminCpl ctrl cid nsOk (featureValue s c fid arg) s

/-! ## Pages -/

/-- GET LOG PAGE (R148): `len` bytes from an offset; reading the Changed Namespace List empties it. -/
def execGetLogPage (ctrl cid lid off len : Nat) (ptr : DataPtr) (s : State) : Res := onRun s fun s =>
  adminDo ctrl s fun c s => match logPage lid c s with
    | none => adminCpl ctrl cid nsInvalidField 0 s
    | some (d, s1) =>
      if d.length < off then adminCpl ctrl cid nsInvalidField 0 s
      else hostPage ctrl cid lid c (fit len (d.drop off)) ptr 0 (if lid = 4 then s1.modCtrl ctrl fun c => { c with changed := [] } else s1)

/-- IDENTIFY (R147): 4,096 bytes. -/
def execIdentify (ctrl cid cns nsid : Nat) (ptr : DataPtr) (s : State) : Res := onRun s fun s =>
  adminDo ctrl s fun c s => match identPage cns nsid ctrl c s with
    | .error st => adminCpl ctrl cid st 0 s
    | .ok d => hostPage ctrl cid cns c d ptr 0 s

/-- FORMAT NVM only switches the LBA format of a namespace whose NUSE is 0, with SES 0 (R147); its group must admit it (R184). -/
def execFormatNvm (ctrl cid nsid lbaf ses : Nat) (s : State) : Res := onRun s fun s =>
  adminDo ctrl s fun c s => match Tbl.find s.ns nsid with
    | none => adminCpl ctrl cid nsInvalidNs 0 s
    | some v =>
      if v.slice ≠ c.slice then adminCpl ctrl cid nsInvalidNs 0 s
      else if let .refuse st := anaCheck s v.pool then adminCpl ctrl cid st 0 s
      else if ses ≠ 0 || 1 < lbaf || nuse s nsid v ≠ 0 then adminCpl ctrl cid nsInvalidField 0 s
      else adminCpl ctrl cid nsOk 0 (tellNsChanged c.slice nsid (configGroup v.pool 0x10 (s.modNs nsid fun v => { v with fmt512 := lbaf = 1 })))

end Sys2Proof.Machine
end

