-- ==== Sys2Proof/Machine/NetQp.lean ====
section
/-! DEFINITION. Machine/NetQp.lean: queue pairs of the connected class: contexts, sending, acknowledgement, errors (R374 to R380, R399, R400). -/
namespace Sys2Proof.Machine
open Sys2Proof

/-- PSNs are 24 bits. -/
def psnAdd (a n : Nat) : Nat := (a + n) % 2 ^ 24
/-- How far b lies above a, modulo 2^24. -/
def psnDist (a b : Nat) : Nat := (b + 2 ^ 24 - a % 2 ^ 24) % 2 ^ 24

def qpMtu (s : State) (q : Qp) : Nat := pathMtu (s.netPort (q.lport / 4)).mtu

/-- RTO0: twice the smoothed round-trip time, held between 64 µs and 125 µs (R374). -/
def rto0 (srtt : Nat) : Nat := max 64000 (min 125000 (2 * srtt))

/-- 7/8 of the old value plus 1/8 of a sample, in whole ns (R374; the rounding is the model's, log entry 11). -/
def smooth (srtt sample : Nat) : Nat := (7 * srtt + sample) / 8

/-- Halve a rate (R400). -/
def halve (r : Nat) : Nat := r / 2

/-- A cut is allowed when none was made in the last 50 µs (R400). -/
def cutAllowed (last : Option Nat) (now : Nat) : Bool := match last with
  | some t => decide (t + 50000 ≤ now)
  | none => true

/-! ## Contexts (R378) -/

def cachedCount (s : State) : Nat := (s.net.qps.filter fun e => e.2.cached).length

/-- The least recently used cached context with no packet or work request under way. -/
def evictable (s : State) : Option Nat :=
  let l := s.net.qps.filter fun e => e.2.cached && e.2.queue = [] && e.2.sent = [] && e.2.parked = []
  (l.foldl (fun b e => match b with
    | none => some e
    | some x => if e.2.stamp < x.2.stamp then some e else some x) none).map (·.1)

/-- Mark a context as used now. -/
def touchQp (n : Nat) (s : State) : State :=
  (s.modNet fun t => { t with stamp := t.stamp + 1 }).modQp n fun q => { q with stamp := s.net.stamp + 1 }

/-- Packets on the wire. -/
def wirePackets (mtu : Nat) : QpPkt → Nat
  | .request _ pk => pk.packets
  | .readRsp _ d _ => max 1 (ceilDiv d.length (max 1 mtu))
  | _ => 1

/-- Packets parked on a network port. -/
def parkedOn (s : State) (p : Nat) : Nat :=
  ((s.net.qps.filter fun e => e.2.lport / 4 = p).map fun e => (e.2.parked.map (wirePackets (qpMtu s e.2))).sum).sum

/-! ## The Error state (R380) -/

/-- The requests of a queue pair that have not completed, oldest first. -/
def openReqs (q : Qp) : List (WrOp × WorkReq) := q.sent.map (fun r => (r.op, r.wr)) ++ q.queue

/-- A queue pair enters Error: the failed request completes with its status, every other and every posted receive with FLUSHED; the controller it serves ends as by a Disconnect (R380, R396). -/
def errorQp (n : Nat) (st : WrStatus) (s : State) : State :=
  match Tbl.find s.net.qps n with
  | none => s
  | some q =>
    if q.state = .error then s
    else
      let s1 := s.modQp n fun q => { q with state := .error, sent := [], queue := [], recv := [], parked := [], nvme := none, dataPsn := none, rnrUntil := none }
      let s2 := match openReqs q with
        | [] => s1
        | r :: rs => (wrCompleteAll (.qp n) .flushed rs (wrComplete (.qp n) r.1 r.2 st s1).1).1
      let s3 := flushRecvs (.qp n) q.recv s2
      settleAll (match q.nvme with
        | some c => pairsMove (endCtrl c) s3
        | none => s3)

def errorQps (st : WrStatus) : List Nat → State → State
  | [], s => s
  | n :: ns, s => errorQps st ns (errorQp n st s)

/-! ## Sending (R377, R395) -/

def readsOut (q : Qp) : Nat := (q.sent.filter fun r => r.op = .read).length

/-- The bytes that a request takes from on-chip memory. -/
def localData (s : State) (op : WrOp) (wr : WorkReq) : List Byte :=
  if op = .read then [] else Mem.getBytes s.onchip wr.localAddr.toNat wr.length

/-- Put a request's packets on the wire from its first PSN. -/
def sendReq (n lport : Nat) (r : QpReq) (s : State) : State :=
  netEmit lport prioData (.roceReq n r.op r.firstPsn r.packets r.wr (localData s r.op r.wr)) s

def sendReqs (n lport : Nat) : List QpReq → State → State
  | [], s => s
  | r :: rs, s => sendReqs n lport rs (sendReq n lport r s)

/-- Transmit a request for the first time. -/
def transmit (n : Nat) (q : Qp) (op : WrOp) (wr : WorkReq) (s : State) : State :=
  let r : QpReq := { op := op, wr := wr, firstPsn := q.sPsn, packets := packetsOf wr.length (qpMtu s q), sentAt := s.time.toNat }
  let s1 := s.modQp n fun x => { x with
    sent := x.sent ++ [r], sPsn := psnAdd x.sPsn r.packets, waitFrom := if x.sent = [] then s.time.toNat else x.waitFrom }
  sendReq n q.lport r (touchQp n s1)

/-- Try to start the request at the head of a queue pair's send queue; none when it must wait. -/
def launchQp (n : Nat) (s : State) : Option (State × List NetQ) :=
  match Tbl.find s.net.qps n with
  | none => none
  | some q => match q.queue with
    | [] => none
    | (op, wr) :: rest =>
      let s1 := s.modQp n fun x => { x with queue := rest }
      if q.state = .error then some (wrComplete (.qp n) op wr .flushed s1)
      else if q.state = .connecting || !q.cached || (wr.fence && q.sent ≠ []) then none
      else if op = .nop then some (wrComplete (.qp n) op wr .ok s1)
      else if 2 ^ 31 < wr.length then some (wrComplete (.qp n) op wr .lengthFault s1)
      else if op = .read && decide (16 ≤ readsOut q) then none
      else some (transmit n q op wr s1, [])

/-! ## Acknowledgement (R376, R379) -/

def lastPsn (r : QpReq) : Nat := psnAdd r.firstPsn (r.packets - 1)

/-- Requests from the oldest that an acknowledgement of a PSN covers; it stops before a READ, whose response completes it. -/
def ackedReqs (psn : Nat) : List QpReq → List QpReq
  | [] => []
  | r :: rs => if r.op ≠ .read && decide (psnDist (lastPsn r) psn < 2 ^ 23) then r :: ackedReqs psn rs else []

/-- The smoothed time after the samples of requests that were not retransmitted. -/
def smoothAll (now srtt : Nat) : List QpReq → Nat
  | [] => srtt
  | r :: rs => smoothAll now (if r.retransmitted then srtt else smooth srtt (now - r.sentAt)) rs

/-- The error of a wait of a queue pair that ended: class link, cause timeout. -/
def qpTimeoutErr (n : Nat) (q : Qp) : ErrObs := plainErr 0x0204 (netDomain (q.lport / 4)) q.lport 0 q.lport n

/-- Requests from the oldest complete with OK; the waits start over, and a timeout that its first retransmission cleared is a transient fault. -/
def completeReqs (n : Nat) (q : Qp) (rs : List QpReq) (s : State) : State × List NetQ :=
  let s1 := s.modQp n fun x => { x with
    sent := x.sent.drop rs.length, retries := 0, rnrRetries := 0, rnrUntil := none, waitFrom := s.time.toNat
    srtt := smoothAll s.time.toNat x.srtt rs }
  let s2 := if q.retries = 1 then transientFault (qpTimeoutErr n q) s1 else s1
  wrCompleteAll (.qp n) .ok (rs.map fun r => (r.op, r.wr)) s2

/-- Send again everything from the oldest open request (go-back). -/
def goBack (n : Nat) (s : State) : State :=
  match Tbl.find s.net.qps n with
  | none => s
  | some q =>
    let again := q.sent.map fun r => { r with retransmitted := true, sentAt := s.time.toNat }
    sendReqs n q.lport again (s.modQp n fun x => { x with sent := again, waitFrom := s.time.toNat, rnrUntil := none })

end Sys2Proof.Machine
end

