-- ==== Sys2Proof/Machine/NetDg.lean ====
section
/-! DEFINITION. Machine/NetDg.lean: the datagram class: sessions, paths, messages sent and messages received (R381 to R394). -/
namespace Sys2Proof.Machine
open Sys2Proof

/-! ## Send queues -/

/-- An endpoint has a request that has not ended. -/
def epBusy (s : State) (ep : Nat) : Bool :=
  s.net.peers.any fun e => (e.2.out.any fun m => m.2.ep = ep) || (e.2.waiting.any fun w => w.ep = ep)

/-- Try to start the request at the head of an endpoint's send queue. -/
def launchEp (n : Nat) (s : State) : Option (State × List NetQ) :=
  match Tbl.find s.net.eps n with
  | none => none
  | some e => match e.queue with
    | [] => none
    | (op, wr) :: rest =>
      let s1 := s.modEp n fun x => { x with queue := rest }
      if wr.fence && epBusy s n then none
      else if op = .nop then some (wrComplete (.ep n) op wr .ok s1)
      else some (submitMsg wr.dstNode { ep := n, op := op, wr := wr } s1)

def launch (q : NetQ) (s : State) : Option (State × List NetQ) := match q with
  | .qp n => launchQp n s
  | .ep n => launchEp n s

/-- Start what can start on some queues, and on the queues that this releases requests to. -/
def pump : Nat → List NetQ → State → State
  | 0, _, s => s
  | _, [], s => s
  | f + 1, q :: qs, s => match launch q s with
    | some (s1, more) => pump f (q :: qs ++ more) s1
    | none => pump f qs s

/-- More steps than the waiting requests can need. -/
def pumpFuel (s : State) : Nat :=
  4 * ((s.net.qps.map fun e => e.2.queue.length).sum + (s.net.eps.map fun e => e.2.queue.length).sum + s.net.trigWaiting.length
    + (s.net.peers.map fun e => e.2.waiting.length).sum) + 8

def pumpQs (qs : List NetQ) (s : State) : State := pump (pumpFuel s + qs.length) qs s

/-- Pump after an operation that released requests. -/
def pumped (r : State × List NetQ) : State := pumpQs r.2 r.1

/-- A REPL_OPEN that can no longer be answered completes its REPL_CREATE: the target is not there, and the relationship goes (R129; log entry 212). -/
def openFailed (rel : Nat) (s : State) : State :=
  match Tbl.find s.repls rel with
  | some x => if x.source && !x.opened then finishOp 0x0704 (replyErr .notFound 0) { s with repls := Tbl.del s.repls rel } else s
  | none => s

/-- A message of this chip is given up. -/
def lostMsg (m : Option CluMsg) (s : State) : State :=
  match m with
  | some (.replOpen rel ..) => openFailed rel s
  | _ => s

/-- A message of this chip ends: its request completes, and what waited for it may start. -/
def endMsg (node : Nat) (id : W32) (st : WrStatus) (s : State) : State :=
  match Tbl.find (s.dpeer node).out id.toNat with
  | none => s
  | some m =>
    let s1 := s.modPeer node fun p => { p with out := Tbl.del p.out id.toNat }
    let s2 := if st = .ok then s1 else lostMsg m.msg (bumpDg 7 1 s1)
    let a := if m.msg.isSome then (s2, []) else wrComplete (.ep m.ep) m.op m.wr st s2
    let b := startWaitingMsgs node a.1
    pumpQs (.ep m.ep :: a.2 ++ b.2) b.1

/-! ## Receiving (R388 to R391, R394) -/

/-- x is newer than the high-water mark. -/
def newerId (x hwm : W32) : Bool := decide (1 ≤ (x - hwm).toNat) && decide ((x - hwm).toNat ≤ 2 ^ 31 - 1)

/-- The window's judgement of a message ID (R391). -/
def completedId (p : DPeer) (x : W32) : Bool :=
  if newerId x p.hwm then false
  else if (p.hwm - x).toNat ≤ 1023 then p.window.getLsbD (p.hwm - x).toNat
  else true

/-- Completing an ID (R391). -/
def markId (x : W32) (p : DPeer) : DPeer :=
  if newerId x p.hwm then { p with hwm := x, window := (p.window <<< (x - p.hwm).toNat) ||| 1 }
  else { p with window := p.window ||| BitVec.ofNat 1024 (2 ^ (p.hwm - x).toNat) }

def reKey (node : Nat) (id : W32) : Nat := node * 2 ^ 32 + id.toNat

/-- The length that R384 gives a packet for its offset. -/
def rightLen (pk : DataPkt) : Nat := min (2 ^ pk.pktLog2) (pk.totalLen - pk.offset)

/-- The faults of R390; at version 1 TRIG is reserved and ignored (R9, R382). -/
def faulty (e : Reasm) (pk : DataPkt) : Bool :=
  let size := 2 ^ pk.pktLog2
  decide (pk.totalLen < pk.offset + pk.payloadLen) || decide (pk.offset % size ≠ 0) || decide (pk.payloadLen ≠ rightLen pk)
    || (decide (pk.offset = pk.totalLen) && decide (pk.totalLen ≠ 0)) || decide (1024 * size < pk.totalLen)
    || e.write != pk.write || e.dstEp != pk.dstEp || e.totalLen != pk.totalLen || e.pktLog2 != pk.pktLog2 || e.imm != pk.imm
    || (pk.version ≠ 1 && e.trig != pk.trig) || (pk.write && (e.rkey != pk.rkey || e.remoteAddr != pk.remoteAddr))

/-- A buffer returns to the head of its endpoint's receive queue. -/
def returnBuffer (e : Reasm) (s : State) : State := match e.buffer with
  | none => s
  | some b => s.modEp e.dstEp fun x => { x with recv := b :: x.recv }

def freeEntry (k : Nat) (s : State) : State := s.modNet fun t => { t with reasm := Tbl.del t.reasm k }
def setEntry (k : Nat) (e : Reasm) (s : State) : State := s.modNet fun t => { t with reasm := Tbl.set t.reasm k e }

/-- Free an entry whose message has not completed. -/
def dropEntry (k : Nat) (s : State) : State := match Tbl.find s.net.reasm k with
  | none => s
  | some e => returnBuffer e (freeEntry k s)

def dropEntries : List Nat → State → State
  | [], s => s
  | k :: ks, s => dropEntries ks (dropEntry k s)

/-- The entries of a peer. -/
def peerEntries (s : State) (node : Nat) : List Nat := (s.net.reasm.filter fun e => e.1 / 2 ^ 32 = node).map (·.1)

/-- A key that is being destroyed goes once no entry that it admitted is open (R399). -/
def settleRegions (s : State) : State :=
  s.modNet fun t => { t with regions := Tbl.keep t.regions fun k r => !r.destroying || t.reasm.any fun e => e.2.write && e.2.checked && e.2.rkey.toNat = k }

end Sys2Proof.Machine
end

