-- ==== Sys2Proof/Machine/Network.lean ====
section
/-! DEFINITION. Machine/Network.lean: the network ports, the connected class, the datagram class and triggered work requests (R369 to R401). -/
namespace Sys2Proof.Machine
open Sys2Proof

/-! ## Ports (R369 to R372) -/

/-- Queue pairs bound to some logical ports that are not in Error. -/
def qpsOn (s : State) (hit : Nat → Bool) : List Nat := (s.net.qps.filter fun e => hit e.2.lport && e.2.state ≠ .error).map (·.1)

/-- A logical port goes down: the paths that leave on it go DOWN, its queue pairs enter Error (R370, R380, R387). -/
def lportDown (l : Nat) (s : State) : State :=
  let hit := fun i => decide (pathPort s i = some l)
  let s1 := portPathsDown l hit s.net.peers s
  errorQps .flushed (qpsOn s1 fun x => x = l) (s1.modLport l fun p => { p with up := false, training := false })

def lportsDown : List Nat → State → State
  | [], s => s
  | l :: ls, s => lportsDown ls (lportDown l s)

/-- All of a network port is lost: fenced, switched off or reconfigured. -/
def netPortDown (p : Nat) (s : State) : State := lportsDown ((List.range 4).map (4 * p + ·)) s

/-- NET_LINK_DOWN (R370, R387). -/
def execNetLinkDown (l : Fin 32) (s : State) : Res := onLive s fun s => if lportUp s l then lportDown l s else s.modLport l fun p => { p with training := false }

/-- A lane of a logical port has failed and no spare stands in for it: the port stays down (R370). -/
def laneDead (s : State) (l : Nat) : Bool :=
  let w := match (s.netPort (l / 4)).breakout with | 0 => 4 | 1 => 2 | _ => 1
  (List.range w).any fun i => match Tbl.find s.phys.lanes (netDomain (l / 4) * 64 + l % 4 + i) with
    | some x => x.marked && !x.substituted
    | none => false

/-- NET_LINK_UP: a logical port that exists, whose domain is on and whose lanes work comes up, takes its link-local address and asks for an IPv4 address (R372). -/
def execNetLinkUp (l : Fin 32) (s : State) : Res := onRun s fun s =>
  if !lportExists s l || !hasBit s.power.on (netDomain (l / 4)) || laneDead s l then s
  else
    let s1 := s.modLport l fun p => { p with
      up := true, training := false, dhcpAsking := true
      ipv6 := if p.ipv6.any fun e => e.1 = linkLocal s l then p.ipv6 else (linkLocal s l, none) :: p.ipv6 }
    netEmit l 0 (.dhcpRequest l) s1

/-- NET_PORT_CONFIG (R369, R370, R531). -/
def execNetPortConfig (h : MbxHdr) (port breakout pfc : Byte) (mtu : W16) (s : State) : Res := onRun s fun s =>
  let p := port.toNat
  mbxStart ⟨0x0901, 2, true, .other, false⟩ h [.num 0 1 port.toNat, .num 1 1 breakout.toNat, .num 2 1 pfc.toNat, .num 4 2 mtu.toNat] (fun s => tryDo
    (firstFail [
      (decide (7 < p), limitAt 0), (decide (2 < breakout.toNat), fieldAt 1), (decide (3 < countBits pfc.toNat 8), fieldAt 2),
      (decide (mtu.toNat < 1500) || decide (9000 < mtu.toNat), fieldAt 4),
      (hasBit s.power.fenced (netDomain p), replyErr .fenced (netDomain p)),
      (s.net.qps.any fun e => e.2.lport / 4 = p, replyErr .inUse 0)])
    (fun s =>
      let s1 := netPortDown p s
      let s2 := s1.modNet fun t => { t with
        ports := Tbl.set t.ports p { s1.netPort p with breakout := breakout.toNat, mtu := mtu.toNat, pfcMask := pfc }
        lports := Tbl.mapVals t.lports fun l x => if l / 4 = p then { x with training := true, ipv4 := none, ipv6 := [] } else x }
      let s3 := { s2 with power := { s2.power with named := setBit s2.power.named (netDomain p) } }
      if hasBit s3.power.unused (netDomain p) then switchOn (netDomain p) s3 else s3) s) s

/-- STATE of NET_PORT_QUERY (R372). -/
def netState (s : State) (p : Nat) : Nat :=
  let d := netDomain p
  let ls := (List.range 4).map (4 * p + ·)
  if hasBit s.power.fenced d then 4
  else if !hasBit s.power.on d then 0
  else if ls.any (lportUp s) then 3
  else if ls.any fun l => lportExists s l && (s.lport l).training then 2
  else 1

/-- NET_PORT_QUERY (R372), with the FEC codewords that the port has corrected and failed since the last query. -/
def execNetPortQuery (h : MbxHdr) (port : Byte) (corrected uncorrected : Nat) (s : State) : Res := onRun s fun s =>
  let p := port.toNat
  mbxStart ⟨0x0902, 2, false, .other, false⟩ h [.num 0 1 port.toNat] (fun s =>
    if 7 < p then (some (limitAt 0), s)
    else
      let s1 := s.modNetPort p fun x => { x with
        fecCorrected := x.fecCorrected + BitVec.ofNat 64 corrected, fecUncorrected := x.fecUncorrected + BitVec.ofNat 64 uncorrected }
      let x := s1.netPort p
      let links := ((List.range 4).map fun i => flag i (lportUp s1 (4 * p + i))).sum
      (some (replyOk (le8 (netState s1 p) ++ le8 x.breakout ++ le8 links ++ zeros 1 ++ le64 x.fecCorrected.toNat ++ le64 x.fecUncorrected.toNat)), s1)) s

/-- A frame for this chip arrives on an up logical port; on any other nothing is received. -/
def onPort (l : Nat) (f : State → State) (s : State) : State := if lportUp s l then f (frameIn l s) else s

/-- ARP_REQUEST (R372). -/
def execArpRequest (l : Fin 32) (target : W32) (s : State) : Res := onRun s (onPort l fun s =>
  if (s.lport l).ipv4 = some target then netEmit l 0 (.arpReply l (macOf s l) target) s else s)

/-- NEIGHBOR_SOLICITATION (R372). -/
def execNeighborSolicitation (l : Fin 32) (target : BitVec 128) (s : State) : Res := onRun s (onPort l fun s =>
  if holdsV6 s l target then netEmit l 0 (.ndReply l (macOf s l) target) s else s)

/-- ICMP_ECHO (R372). -/
def execIcmpEcho (l : Fin 32) (dst : IpAddr) (s : State) : Res := onRun s (onPort l fun s =>
  let mine := match dst with
    | .v4 a => decide ((s.lport l).ipv4 = some a)
    | .v6 a => holdsV6 s l a
  if mine then netEmit l 0 (.echoReply l) s else s)

/-- When an address of SLAAC ends, given a new valid lifetime in s (RFC 4862 5.5.3 e, PRESUMED, log entry 10). -/
def slaacEnd (now : Nat) (old : Option Nat) (valid : Nat) : Option Nat :=
  let two := 7200 * 1000000000
  let fresh := if valid = 2 ^ 32 - 1 then none else some (now + valid * 1000000000)
  match old with
  | none => fresh
  | some t =>
    if 7200 < valid ∨ t < now + valid * 1000000000 then fresh
    else if t ≤ now + two then some t
    else some (now + two)

/-- ROUTER_ADVERTISEMENT: a prefix of 64 bits with the autonomous flag gives or renews an address (R372, RFC 4862). -/
def execRouterAdvertisement (l : Fin 32) (pre : BitVec 64) (autonomous : Bool) (valid preferred : W32) (s : State) : Res := onRun s (onPort l fun s =>
  if !autonomous || decide (pre.toNat / 2 ^ 54 = 0x3FA) || decide (valid.toNat < preferred.toNat) then s
  else
    let a : BitVec 128 := BitVec.ofNat 128 (pre.toNat * 2 ^ 64 + (eui64 (macOf s l)).toNat)
    let live := (s.lport l).ipv6.filter fun e => match e.2 with | some t => decide (s.time.toNat < t) | none => true
    let now := s.time.toNat
    match live.find? fun e => e.1 = a with
    | some e => s.modLport l fun p => { p with ipv6 := live.map fun x => if x.1 = a then (a, slaacEnd now e.2 valid.toNat) else x }
    | none => if valid = 0 then s else s.modLport l fun p => { p with ipv6 := live ++ [(a, slaacEnd now none valid.toNat)] })

/-- DHCPV4_MESSAGE (R372, RFC 2131): an offer is asked for, an acknowledgement assigns the address, a refusal starts over. -/
def execDhcpv4Message (l : Fin 32) (kind : DhcpKind) (ip lease : W32) (s : State) : Res := onRun s (onPort l fun s =>
  if !(s.lport l).dhcpAsking then s
  else match kind with
    | .offer => if (s.lport l).ipv4.isNone then netEmit l 0 (.dhcpRequest l) s else s
    | .ack => s.modLport l fun p => { p with
        ipv4 := some ip, dhcpAsking := false, renewAt := s.time.toNat + lease.toNat * 500000000, expireAt := s.time.toNat + lease.toNat * 1000000000 }
    | .nak => netEmit l 0 (.dhcpRequest l) (s.modLport l fun p => { p with ipv4 := none }))

/-- DHCPV4_LEASE_TIMER (R372, RFC 2131): at half of the lease it is renewed; when it ends the address is dropped. -/
def execDhcpv4LeaseTimer (l : Fin 32) (s : State) : Res := onRun s fun s =>
  let p := s.lport l
  if p.ipv4.isNone then s
  else if p.dhcpAsking then
    let s1 := (reachTime p.expireAt s).modLport l fun p => { p with ipv4 := none }
    if lportUp s1 l then netEmit l 0 (.dhcpRequest l) s1 else s1
  else
    let s1 := (reachTime p.renewAt s).modLport l fun p => { p with dhcpAsking := true }
    if lportUp s1 l then netEmit l 0 (.dhcpRequest l) s1 else s1

/-- PFC_FRAME: PAUSE (none) on a port with PFC_MASK 0, PFC on a lossless priority, for a number of quanta of 512 bit times (R371). -/
def execPfcFrame (l : Fin 32) (prio : Option (Fin 8)) (quanta : W16) (s : State) : Res := onRun s (onPort l fun s =>
  let s1 := bumpL l 5 1 s
  let mask := (s.netPort (l / 4)).pfcMask
  let slot : Option Nat := match prio with
    | none => if mask = 0 then some 8 else none
    | some n => if mask.getLsbD n then some n.val else none
  match slot with
  | none => s1
  | some n => releaseHeld l (s1.modLport l fun p => { p with paused := Tbl.set p.paused n (s.time.toNat + ceilDiv (quanta.toNat * 512) (lportRate s l)) }))

/-! ## Connected class: connections and incoming requests (R377 to R379, R394, R399) -/

/-- A queue pair leaves: its requests are flushed, the controller it serves ends. -/
def removeQp (n : Nat) (s : State) : State := (errorQp n .flushed s).modNet fun t => { t with qps := Tbl.del t.qps n }

def registerOne (r : RegionReq) (s : State) : State := s.modNet fun t =>
  if Tbl.has t.regions r.key.toNat || decide (262144 ≤ t.regions.length) then t
  else { t with regions := Tbl.set t.regions r.key.toNat {
    qp := r.qp, nodes := r.nodes, base := r.base, len := r.len, readable := r.readable, writable := r.writable, slice := r.slice } }

def registerAll : List RegionReq → State → State
  | [], s => s
  | r :: rs, s => registerAll rs (registerOne r s)

def destroyAll : List W32 → State → State
  | [], s => settleRegions s
  | k :: ks, s => destroyAll ks (s.modNet fun t => { t with regions := Tbl.upd t.regions k.toNat fun r => { r with destroying := true } })

/-- Firmware's own set-up that goes with a command (R393, R397, R399). -/
def applySetup (f : FwSetup) (s : State) : State := registerAll f.register (destroyAll f.destroy s)

/-- The service port of NVMe over RDMA (R146): NET_PORT_CONFIG has no field that gives another. -/
def servicePort : Nat := 4420

/-- CM_MAD (R377): connection set-up and tear-down on QP1; a request for another service port is refused (R146; log entry 201). -/
def execCmMad (kind : CmKind) (setup : FwSetup) (s : State) : Res := onRun s fun s =>
  match kind with
  | .other => s
  | .connectRequest l svc remote psn => onPort l (fun s =>
      if svc ≠ servicePort || decide (262144 ≤ s.net.qps.length) then netEmit l prioData (.cm l 0 false) s
      else
        let n := Tbl.freshFrom s.net.qps 262146 s.net.nextQp
        let d := draw s
        let q : Qp := { lport := l, remoteQp := remote, ePsn := psn % 2 ^ 24, sPsn := d.1 % 2 ^ 24, trig := setup.bind }
        netEmit l prioData (.cm l n true) (applySetup setup (d.2.modNet fun t => { t with qps := Tbl.set t.qps n q, nextQp := n + 1 }))) s
  | .readyToUse n => match Tbl.find s.net.qps n with
    | none => s
    | some q => onPort q.lport (fun s => pumpQs [.qp n] (applySetup setup (s.modQp n fun q => if q.state = .connecting then { q with state := .ready } else q))) s
  | .disconnectRequest n => match Tbl.find s.net.qps n with
    | none => s
    | some q => onPort q.lport (fun s => netEmit q.lport prioData (.cm q.lport n false) (removeQp n s)) s

/-- A CNP for a CE-marked packet, at most one in 50 µs (R400). -/
def noteCe (n : Nat) (q : Qp) (ce : Bool) (s : State) : State :=
  if !ce then s
  else
    let s1 := bumpL q.lport 7 1 s
    if cutAllowed q.lastCnp s.time.toNat then
      netEmit q.lport prioCtl (.cnp n) (bumpL q.lport 8 1 (s1.modQp n fun q => { q with lastCnp := some s.time.toNat }))
    else s1

def roceReply (n : Nat) (o : Out) (s : State) : State := match Tbl.find s.net.qps n with
  | none => s
  | some q => netEmit q.lport prioData o s

/-- An access violation on a queue pair (R399). -/
def roceViolation (n : Nat) (q : Qp) (psn : Nat) (addr : W64) (key : W32) (s : State) : State :=
  let s1 := roceReply n (.roceNak n psn .access) s
  errorQp n .flushed (accessRecord q.lport addr (keySlice s key) key 0 n q.nvme.isSome s1)

/-- The request is accepted: the expected PSN moves on and it is acknowledged. -/
def roceAccept (n : Nat) (pk : RocePkt) (s : State) : State :=
  let s1 := s.modQp n fun q => { q with ePsn := psnAdd q.ePsn pk.packets, nakSent := false }
  roceReply n (.roceAck n (psnAdd pk.psn (pk.packets - 1))) s1

/-- A capsule for a queue of a controller: it waits there to be fetched (R146, R156); one beyond the queue's size is lost (log entry 186). -/
def capsuleIn (ctrl sq : Nat) (s : State) : State :=
  s.modCtrl ctrl fun c => { c with sqs := Tbl.upd c.sqs sq fun q =>
    let t := (q.tail + 1) % max 1 q.size
    if t = q.head then q else { q with tail := t } }

/-- Place a SEND in the posted receive at the head (R394); a queue pair that serves a controller has its receives posted by the engine. -/
def roceSend (n : Nat) (q : Qp) (op : RoceOp) (pk : RocePkt) (s : State) : State :=
  let keyBad := op = .sendInv && !(match Tbl.find s.net.regions (pk.invKey.getD 0).toNat with | some r => r.qp = some n | none => false)
  match q.nvme, q.recv with
  | some c, _ => capsuleIn c q.nvmeSq (roceAccept n pk s)
  | none, [] => roceReply n (.roceNak n pk.psn (.rnr 0)) s
  | none, b :: rest =>
    if keyBad then roceViolation n q pk.psn 0 (pk.invKey.getD 0) s
    else if b.len < pk.payload.length then errorQp n .flushed (roceReply n (.roceNak n pk.psn .invalid) s)
    else
      let s1 := chipPut b.addr.toNat pk.payload s
      let s2 := roceAccept n pk (s1.modQp n fun q => { q with recv := rest })
      let s3 := if op = .sendInv then s2.modNet fun t => { t with regions := Tbl.del t.regions (pk.invKey.getD 0).toNat } else s2
      let s4 := record (.qp n) b.wrId pk.payload.length (if op = .sendImm then pk.imm.getD 0 else 0) .ok 1 0 0 s3
      match q.trig with
      | some c => pumped (countTrig c s4)
      | none => s4

/-- The region that a key names on this queue pair admits an access. -/
def roceAllowed (s : State) (n : Nat) (q : Qp) (key : W32) (addr : W64) (len : Nat) (write : Bool) : Bool :=
  q.nvme.isNone && match Tbl.find s.net.regions key.toNat with
    | none => false
    | some r => decide (r.qp = some n) && !r.destroying && (if write then r.writable else r.readable) && regionHolds r addr len

def roceReadAnswer (n : Nat) (pk : RocePkt) (s : State) : State :=
  roceReply n (.roceRead n pk.psn (Mem.getBytes s.onchip pk.remoteAddr.toNat pk.readLen)) s

/-- Execute a request at the expected PSN. -/
def roceExecute (n : Nat) (q : Qp) (op : RoceOp) (pk : RocePkt) (s : State) : State :=
  match op with
  | .send | .sendImm | .sendInv => roceSend n q op pk s
  | .write =>
    if roceAllowed s n q pk.rkey pk.remoteAddr pk.payload.length true then
      roceAccept n pk (chipPut pk.remoteAddr.toNat pk.payload s)
    else roceViolation n q pk.psn pk.remoteAddr pk.rkey s
  | .readReq =>
    if roceAllowed s n q pk.rkey pk.remoteAddr pk.readLen false then
      roceReadAnswer n pk (s.modQp n fun q => { q with ePsn := psnAdd q.ePsn pk.packets, nakSent := false })
    else roceViolation n q pk.psn pk.remoteAddr pk.rkey s

/-- Judge a request by its PSN (R379). -/
def roceJudge (op : RoceOp) (pk : RocePkt) (s : State) : State :=
  match Tbl.find s.net.qps pk.qp with
  | none => s
  | some q =>
    if q.state = .error then s
    else
      let s1 := touchQp pk.qp (noteCe pk.qp q pk.ce s)
      let d := psnDist q.ePsn pk.psn
      if d = 0 then roceExecute pk.qp q op pk s1
      else if d < 2 ^ 23 then
        if q.nakSent then s1 else roceReply pk.qp (.roceNak pk.qp q.ePsn .sequence) (s1.modQp pk.qp fun q => { q with nakSent := true })
      else if op = .readReq then
        if roceAllowed s1 pk.qp q pk.rkey pk.remoteAddr pk.readLen false then roceReadAnswer pk.qp pk s1
        else roceViolation pk.qp q pk.psn pk.remoteAddr pk.rkey s1
      else roceReply pk.qp (.roceAck pk.qp (psnAdd q.ePsn (2 ^ 24 - 1))) s1

/-! ## Connected class: this device as requester (R374, R376, R379, R380, R400) -/

/-- The requests before the first one that an acknowledgement leaves open complete; then the queue goes on. -/
def roceAckTo (n psn : Nat) (s : State) : State :=
  match Tbl.find s.net.qps n with
  | none => s
  | some q =>
    let a := completeReqs n q (ackedReqs psn q.sent) s
    pumpQs (.qp n :: a.2) a.1

/-- The RDMA writes of host data up to a PSN are acknowledged (R198 step 3). -/
def dataAcked (n psn : Nat) (s : State) : State :=
  match (Tbl.find s.net.qps n).bind (·.dataPsn) with
  | some p => if psnDist p psn < 2 ^ 23 then settleAll (s.modQp n fun q => { q with dataPsn := none }) else s
  | none => s

/-- An acknowledgement (R379). -/
def takeAck (n psn : Nat) (s : State) : State :=
  match Tbl.find s.net.qps n with
  | none => s
  | some q => if q.state ≠ .ready then s else dataAcked n psn (if ackedReqs psn q.sent ≠ [] then roceAckTo n psn s else s)

/-- A connection moves the data of the commands of the one queue that it serves (R192). -/
def servesCmd (q : Qp) (id : Nat) (s : State) : Bool := (cmdAt s id).any fun c => q.nvme = some c.ctrl && q.nvmeSq = c.sq && !c.forwarded && !c.replica

/-- Data that a read of host memory brings for a command (R168): of another length than the command's, it ends it with Data Transfer Error; of the right length it is staged, and WRITE_STAGED_WHOLE follows. -/
def hostData (id len : Nat) (s : State) : State :=
  match cmdAt s id with
  | none => s
  | some c => match Tbl.find s.ns c.nsid with
    | none => s
    | some v =>
      if c.stage ≠ .staging || len = c.nlb * blockBytes v then s else failTransfer id c locDptr s

/-- The data of a READ of this device is placed; a length that differs fails the request (R377, R379). With a command named, it is the data of that host command (R168). -/
def takeReadRsp (n psn : Nat) (data : List Byte) (cmd : Option Nat) (s : State) : State :=
  match Tbl.find s.net.qps n with
  | none => s
  | some q =>
    if q.state ≠ .ready then s
    else match cmd with
      | some id => if servesCmd q id s then hostData id data.length s else s
      | none =>
        let s1 := roceAckTo n (psnAdd psn (2 ^ 24 - 1)) s
        match Tbl.find s1.net.qps n with
        | none => s1
        | some q1 => match q1.sent with
          | [] => s1
          | r :: _ =>
            if r.op ≠ .read || r.firstPsn ≠ psn then s1
            else if data.length ≠ r.wr.length then errorQp n .lengthFault s1
            else
              let a := completeReqs n q1 [r] (chipPut r.wr.localAddr.toNat data s1)
              pumpQs (.qp n :: a.2) a.1

/-- A NAK (R374, R379, R399); with a command of a host named, it is the host that refused an access to its own memory. -/
def takeNak (n psn : Nat) (why : RoceNak) (cmd : Option Nat) (s : State) : State :=
  match Tbl.find s.net.qps n with
  | none => s
  | some q =>
    if q.state ≠ .ready then s
    else match why, cmd with
      | .access, some id => if servesCmd q id s then errorQp n .flushed (transferFails id s) else s
      | _, _ =>
        let s1 := roceAckTo n (psnAdd psn (2 ^ 24 - 1)) s
        match Tbl.find s1.net.qps n with
        | none => s1
        | some q1 => match q1.sent with
          | [] => s1
          | r :: _ => match why with
            | .sequence => goBack n s1
            | .rnr t =>
              if 7 ≤ q1.rnrRetries then errorQp n .rnrExceeded s1
              else s1.modQp n fun q => { q with rnrRetries := q.rnrRetries + 1, rnrUntil := some (s.time.toNat + max 1000000 t) }
            | .access => errorQp n .remoteAccess (accessRecord q.lport r.wr.remoteAddr 0 r.wr.rkey 0 n false s1)
            | .invalid => errorQp n .lengthFault s1

/-- A CNP (R400). -/
def takeCnp (n : Nat) (s : State) : State :=
  match Tbl.find s.net.qps n with
  | none => s
  | some q =>
    let now := s.time.toNat
    bumpL q.lport 9 1 (s.modQp n fun q =>
      if cutAllowed q.lastCut now then { q with rate := halve q.rate, lastCut := some now, calmFrom := now } else { q with calmFrom := now })

/-! ## Connected class: packets and contexts (R378) -/

/-- A packet is processed with its queue pair's context at hand. -/
def qpJudge (n : Nat) (p : QpPkt) (s : State) : State :=
  match p with
  | .request op pk => roceJudge op pk s
  | .ack psn => takeAck n psn (touchQp n s)
  | .readRsp psn data cmd => takeReadRsp n psn data cmd (touchQp n s)
  | .nak psn why cmd => takeNak n psn why cmd (touchQp n s)
  | .cnp => takeCnp n (touchQp n s)

/-- The priority that a packet came on (R372). -/
def qpPrio : QpPkt → Nat
  | .cnp => prioCtl
  | _ => prioData

/-- A packet of a queue pair arrives: processed, or parked while its context is fetched; with the parking buffer full, the port pauses a lossless priority, and drops and counts the packet on another (R378). -/
def qpArrive (n : Nat) (q : Qp) (p : QpPkt) (s : State) : State :=
  if q.cached && q.parked = [] then qpJudge n p s
  else if parkedOn s (q.lport / 4) + wirePackets (qpMtu s q) p ≤ 512 then s.modQp n fun q => { q with parked := q.parked ++ [p] }
  else if (s.netPort (q.lport / 4)).pfcMask.getLsbD (qpPrio p) then
    emit (.pfcPause (q.lport / 4) (qpPrio p)) (bumpL q.lport 6 1 s)
  else bumpL q.lport 10 1 s

/-- A packet that names a queue pair arrives on the pair's logical port. -/
def qpPacket (n : Nat) (p : QpPkt) (s : State) : State :=
  match Tbl.find s.net.qps n with
  | none => s
  | some q => onPort q.lport (qpArrive n q p) s

/-- A request arrives (R377, R378). -/
def roceIn (op : RoceOp) (pk : RocePkt) (s : State) : State :=
  match Tbl.find s.net.qps pk.qp with
  | none => s
  | some q => if q.lport ≠ pk.lport || pk.pkey ≠ 0xFFFF then s else qpArrive pk.qp q (.request op pk) s

def execRoceSend (pk : RocePkt) (s : State) : Res := onRun s (onPort pk.lport (roceIn .send pk))
def execRoceSendWithImmediate (pk : RocePkt) (s : State) : Res := onRun s (onPort pk.lport (roceIn .sendImm pk))
def execRoceSendWithInvalidate (pk : RocePkt) (s : State) : Res := onRun s (onPort pk.lport (roceIn .sendInv pk))
def execRoceRdmaWrite (pk : RocePkt) (s : State) : Res := onRun s (onPort pk.lport (roceIn .write pk))
def execRoceRdmaReadRequest (pk : RocePkt) (s : State) : Res := onRun s (onPort pk.lport (roceIn .readReq pk))

/-- ROCE_ACK (R379). -/
def execRoceAck (n psn : Nat) (s : State) : Res := onRun s (qpPacket n (.ack psn))

/-- ROCE_READ_RESPONSE (R377, R379, R168). -/
def execRoceReadResponse (n psn : Nat) (data : List Byte) (cmd : Option Nat) (s : State) : Res := onRun s (qpPacket n (.readRsp psn data cmd))

/-- ROCE_NAK (R374, R379, R399). -/
def execRoceNak (n psn : Nat) (why : RoceNak) (cmd : Option Nat) (s : State) : Res := onRun s (qpPacket n (.nak psn why cmd))

/-- ROCE_CNP (R400). -/
def execRoceCnp (n : Nat) (s : State) : Res := onRun s (qpPacket n .cnp)

def judgeAll (n : Nat) : List QpPkt → State → State
  | [], s => s
  | p :: l, s => judgeAll n l (qpJudge n p s)

/-- QP_CONTEXT_FETCHED: the context takes a place in the cache, by replacing the least recently used idle one where it is full (R378). -/
def execQpContextFetched (n : Nat) (s : State) : Res := onRun s fun s =>
  match Tbl.find s.net.qps n with
  | none => s
  | some q =>
    if q.cached then s
    else
      let place : Option State := if cachedCount s < 16384 then some s
        else (evictable s).map fun v => cacheWrite 4 v (s.modQp v fun x => { x with cached := false })
      match place with
      | none => s
      | some s1 => pumpQs [.qp n] (judgeAll n q.parked (touchQp n ((cacheRead 4 n s1).modQp n fun x => { x with cached := true, parked := [] })))

/-- RATE_INCREASE_TICK: 55 µs without a CNP or a congestion echo raise a rate by 1 % of the port's (R400). -/
def execRateIncreaseTick (r : RateOf) (s : State) : Res := onRun s fun s =>
  match r with
  | .qp n => match Tbl.find s.net.qps n with
    | none => s
    | some q =>
      if q.rate = 1000000000 then s
      else
        let s1 := reachTime (q.calmFrom + 55000) s
        s1.modQp n fun q => { q with rate := min 1000000000 (q.rate + 10000000), calmFrom := s1.time.toNat }
  | .path node i =>
    let p := (s.dpeer node).paths.getD i {}
    if (s.dpeer node).paths.length ≤ i || p.rate = 1000000000 then s
    else
      let s1 := reachTime (p.calmFrom + 55000) s
      modPath node i (fun x => { x with rate := min 1000000000 (x.rate + 10000000), calmFrom := s1.time.toNat }) s1

/-- QP_RETRANSMIT_TIMEOUT (R374, R376, R380). -/
def execQpRetransmitTimeout (n : Nat) (s : State) : Res := onRun s fun s =>
  match Tbl.find s.net.qps n with
  | none => s
  | some q =>
    if q.state ≠ .ready || (q.sent = [] && q.dataPsn.isNone) then s
    else match q.rnrUntil with
      | some t => goBack n (reachTime t s)
      | none =>
        let s1 := reachTime (q.waitFrom + rto0 q.srtt * 2 ^ q.retries) s
        let s2 := if q.retries = 1 then lastingFault (qpTimeoutErr n q) s1 else s1
        if 7 ≤ q.retries then errorQp n .retryExceeded s2
        else goBack n (s2.modQp n fun q => { q with retries := q.retries + 1 })

/-! ## Work requests and buffers (R393 to R395, R398) -/

/-- Firmware posts a request on a queue: it joins the queue, or waits for its trigger (R398). -/
def postWr (q : NetQ) (op : WrOp) (wr : WorkReq) (s : State) : State :=
  if wr.triggered && !(wr.trigIn ≠ 0 && reached (Tbl.getD s.net.trig (wr.trigIn - 1) 0) wr.threshold) then
    if 65536 ≤ s.net.trigWaiting.length then emit (.wrRefused wr.wrId) s
    else s.modNet fun t => { t with trigWaiting := t.trigWaiting ++ [{ q := q, op := op, wr := wr }] }
  else pumpQs [q] (enqueue q op wr s)

def execWrSend (q : NetQ) (wr : WorkReq) (s : State) : Res := onRun s (postWr q .send wr)
def execWrWrite (q : NetQ) (wr : WorkReq) (s : State) : Res := onRun s (postWr q .write wr)
def execWrRead (qp : Nat) (wr : WorkReq) (s : State) : Res := onRun s (postWr (.qp qp) .read wr)
def execWrSendWithInvalidate (qp : Nat) (wr : WorkReq) (s : State) : Res := onRun s (postWr (.qp qp) .sendInv wr)
def execWrNop (q : NetQ) (wr : WorkReq) (s : State) : Res := onRun s (postWr q .nop wr)

/-- RECEIVE_BUFFER_POST (R393, R394): at most 4,096 on a queue; an endpoint comes to be with its first post. -/
def execReceiveBufferPost (q : NetQ) (b : RecvBuf) (setup : FwSetup) (s : State) : Res := onRun s fun s =>
  let s1 := applySetup setup s
  match q with
  | .qp n => match Tbl.find s1.net.qps n with
    | none => emit (.wrRefused b.wrId) s1
    | some x =>
      if x.state = .error || decide (4096 ≤ x.recv.length) then emit (.wrRefused b.wrId) s1
      else s1.modQp n fun x => { x with recv := x.recv ++ [b], trig := setup.bind.orElse fun _ => x.trig }
  | .ep n =>
    let e := Tbl.getD s1.net.eps n {}
    if 4096 ≤ e.recv.length then emit (.wrRefused b.wrId) s1
    else s1.modNet fun t => { t with eps := Tbl.set t.eps n { e with recv := e.recv ++ [b] } }

/-! ## Datagram class: receiving (R388 to R392) -/

/-- Answer a DATA packet with an ACK of some packets, or with DONE. -/
def ackTo (l : Nat) (pk : DataPkt) (echo done : Bool) (base : Nat) (bits : List Nat) (s : State) : State :=
  netEmit l prioCtl (dgOut s pk.node pk.path
    (replyPkt s .ack pk.version pk.node pk.path echo pk.pktLog2 pk.dstEp pk.srcEp pk.session pk.msgId (ackPayload base done bits))) s

def nakTo (l : Nat) (pk : DataPkt) (r : NakReason) (detail : Nat) (s : State) : State :=
  netEmit l prioCtl (dgOut s pk.node pk.path
    (replyPkt s .nak pk.version pk.node pk.path false pk.pktLog2 pk.dstEp pk.srcEp pk.session pk.msgId (nakPayload r detail))) s

def ackEach (k : Nat) (e : Reasm) : List (Nat × List Nat) → State → State
  | [], s => s
  | (base, bits) :: l, s => ackEach k e l (netEmit e.lport prioCtl (dgOut s (k / 2 ^ 32) e.path
      (replyPkt s .ack e.version (k / 2 ^ 32) e.path e.ce e.pktLog2 e.dstEp e.srcEp e.session (BitVec.ofNat 32 k) (ackPayload base false bits))) s)

/-- Acknowledge the packets of an entry that are not yet acknowledged, 64 at most in one ACK. -/
def ackEntry (k : Nat) (e : Reasm) (s : State) : State :=
  ackEach k e (ackSpans e.unacked.length e.unacked) (setEntry k { e with unacked := [], ce := false } s)

/-- The message is complete: window, completion record, trigger, DONE, in that order (R388). -/
def completeMsg (l : Nat) (k : Nat) (e : Reasm) (pk : DataPkt) (s : State) : State :=
  let s1 := bumpDg 1 1 (s.modPeer pk.node (markId pk.msgId))
  let s2 := match e.buffer with
    | some b => record (.ep e.dstEp) b.wrId e.totalLen e.imm .ok 1 pk.node e.srcEp s1
    | none => s1
  let c := if (s.dpeer pk.node).rxVersion = 2 then countField e.trig s2 else (s2, [])
  let s3 := ackTo l pk e.ce true 0 [] c.1
  pumpQs c.2 (settleRegions (freeEntry k s3))

/-- A faulty packet (R390): noted the first time, the message fails when a later attempt at the same offset is faulty again. -/
def lengthFault (l : Nat) (k : Nat) (e : Reasm) (pk : DataPkt) (s : State) : State :=
  let s1 := bumpDg 6 1 s
  match e.fault with
  | none => setEntry k { e with fault := some (pk.offset, pk.attempt), lastAt := s.time.toNat } s1
  | some (o, a) =>
    if o = pk.offset && decide (a < pk.attempt) then
      let s2 := nakTo l pk .lengthFault 0 (bumpDg 12 1 (bumpDg 7 1 (dropEntry k (setEntry k e s1))))
      event 1 0x54 (le16 pk.node ++ zeros 2 ++ le32 pk.msgId.toNat ++ le32 pk.offset) (settleRegions s2)
    else setEntry k { e with lastAt := s.time.toNat } s1

/-- What assign finds (R394, R399): the entry with its buffer or key checked, or the NAK's reason and detail. -/
def assign (e : Reasm) (pk : DataPkt) (s : State) : Except (NakReason × Nat) (Reasm × State) :=
  if pk.write then
    match Tbl.find s.net.regions pk.rkey.toNat with
    | none => .error (.access, 0)
    | some r =>
      if r.qp = none && r.nodes.contains pk.node && r.writable && (!r.destroying || e.checked)
          && regionHolds r pk.remoteAddr pk.totalLen then .ok ({ e with checked := true }, s)
      else .error (.access, 0)
  else if e.buffer.isSome || pk.dstEp = 0 then .ok (e, s)
  else match Tbl.find s.net.eps pk.dstEp with
    | none => .error (.noEndpoint, 0)
    | some x => match x.recv with
      | [] => .error (.rnr, 0)
      | b :: rest =>
        if b.len < pk.totalLen then .error (.tooSmall, b.len)
        else .ok ({ e with buffer := some b }, s.modEp pk.dstEp fun x => { x with recv := rest })

/-- A message that cannot be taken (R388, R399): the NAK, and the entry freed. -/
def refuseMsg (l : Nat) (k : Nat) (pk : DataPkt) (r : NakReason) (detail : Nat) (s : State) : State :=
  let s1 := nakTo l pk r detail (dropEntry k s)
  let s2 := if r = .access then accessRecord l pk.remoteAddr (keySlice s pk.rkey) pk.rkey pk.node pk.dstEp false s1 else s1
  settleRegions (if r = .access || r = .noEndpoint then bumpDg 7 1 s2 else s2)

/-- Place a sound packet in its entry (R388). -/
def placePacket (l : Nat) (k : Nat) (e : Reasm) (pk : DataPkt) (s : State) : State :=
  let i := pk.offset / 2 ^ pk.pktLog2
  if Tbl.has e.got i then ackTo l pk pk.ce false i [i] (bumpDg 5 1 (setEntry k { e with lastAt := s.time.toNat } s))
  else
    let base := match e.buffer with
      | some b => b.addr.toNat
      | none => e.remoteAddr.toNat
    let s1 := if e.write || e.buffer.isSome then chipPut (base + pk.offset) (pk.payload.take pk.payloadLen) s else s
    let cleared := match e.fault with
      | some (o, a) => decide (o = pk.offset) && decide (a < pk.attempt)
      | none => false
    let s2 := if cleared then bumpDg 11 1 (transientFault (plainErr 0x0208 (netDomain (l / 4)) l 0 l pk.node) s1) else s1
    let e1 := { e with
      got := Tbl.set e.got i (), bytes := e.bytes + pk.payloadLen, lastAt := s.time.toNat, lport := l, path := pk.path, version := pk.version, session := pk.session, ce := e.ce || pk.ce
      unacked := e.unacked ++ [i], ackFrom := if e.unacked = [] then s.time.toNat else e.ackFrom
      fault := if cleared then none else e.fault }
    if e1.bytes = e1.totalLen then completeMsg l k e1 pk s2 else setEntry k e1 s2

/-- The entry that a packet opens (R388). -/
def openEntry (pk : DataPkt) (now l : Nat) : Reasm :=
  { write := pk.write, srcEp := pk.srcEp, dstEp := pk.dstEp, totalLen := pk.totalLen, pktLog2 := pk.pktLog2, imm := pk.imm, trig := pk.trig
    rkey := pk.rkey, remoteAddr := pk.remoteAddr, lastAt := now, lport := l }

/-- A packet for an entry that stands (R388, R390). -/
def takePacket (l : Nat) (k : Nat) (e : Reasm) (pk : DataPkt) (s : State) : State :=
  if faulty e pk then lengthFault l k e pk s
  else match assign e pk s with
    | .error (r, detail) => refuseMsg l k pk r detail s
    | .ok (e1, s1) => placePacket l k e1 pk (setEntry k e1 s1)

/-- A packet is whole: its UDP length agrees and its CRC holds (R384). -/
def pktSound (pk : DataPkt) : Bool :=
  pk.udpLen = 60 + pk.payloadLen && pk.payload.length = pk.payloadLen && pk.crc = Config.crc32c (withReserved dgReserved pk.dirty (dataBytes pk.node pk))

/-- DATAGRAM_DATA (R388); a packet for another node is not for this chip (R372). -/
def execDatagramData (l : Fin 32) (pk : DataPkt) (s : State) : Res := onRun s (onPort l fun s =>
  let s0 := if pk.ce then bumpL l 7 1 s else s
  let p := s.dpeer pk.node
  if pk.dst ≠ ownNode s then s0
  else if !pktSound pk then bumpL l 11 1 s0
  else if p.session ≠ some pk.session then nakTo l pk .staleSession 0 (bumpDg 8 1 s0)
  else if p.rxVersion ≠ pk.version || (p.rxVersion = 1 && pk.write) then versionFrame 4 pk.version pk.node s0
  else if completedId p pk.msgId then ackTo l pk pk.ce true 0 [] (bumpDg 4 1 s0)
  else
    let k := reKey pk.node pk.msgId
    match Tbl.find s.net.reasm k with
    | some e => takePacket l k e pk s0
    | none =>
      if 16384 ≤ s.net.reasm.length then bumpDg 3 1 s0
      else
        let e := openEntry pk s.time.toNat l
        takePacket l k e pk (setEntry k e (bumpDg 0 1 s0)))

/-- DATAGRAM_ACK_DUE: 2 µs after the first packet that is not acknowledged (R385). -/
def execDatagramAckDue (node : Nat) (id : W32) (s : State) : Res := onRun s fun s =>
  match Tbl.find s.net.reasm (reKey node id) with
  | none => s
  | some e => if e.unacked = [] then s else ackEntry (reKey node id) e (reachTime (e.ackFrom + 2000) s)

/-- REASSEMBLY_EXPIRY (R389). -/
def execReassemblyExpiry (node : Nat) (id : W32) (s : State) : Res := onRun s fun s =>
  match Tbl.find s.net.reasm (reKey node id) with
  | none => s
  | some e => settleRegions (dropEntry (reKey node id) (bumpDg 2 1 (reachTime (e.lastAt + 32500000) s)))

/-! ## Datagram class: sending (R374, R376, R385 to R387, R391, R392, R400) -/

/-- A PROBE or its reply on a path, at the version of the session. -/
def probeOut (s : State) (t : DgType) (node path : Nat) : Out :=
  dgOut s node path (ctlBytes s t ((s.dpeer node).version.getD (s.dpeer node).rxVersion) node path [])

/-- The path that last carried a packet. -/
def pathOf (m : MsgOut) (i : Nat) : Nat := (Tbl.getD m.tries i (0, 0, 0)).2.1

/-- An ACK of a packet: it counts once; a first retransmission that clears a timeout is a transient fault; round-trip samples come from first transmissions. -/
def ackPacket (node : Nat) (id : W32) (i : Nat) (s : State) : State :=
  match Tbl.find (s.dpeer node).out id.toNat with
  | none => s
  | some m =>
    if Tbl.has m.acked i || decide (m.packets ≤ i) then s
    else
      let t := Tbl.getD m.tries i (0, 0, 0)
      let s1 := s.modPeer node fun p => { p with
        out := Tbl.set p.out id.toNat { m with acked := Tbl.set m.acked i () }
        srtt := if t.1 = 0 then smooth p.srtt (s.time.toNat - t.2.2) else p.srtt }
      if t.1 = 1 then bumpDg 11 1 (transientFault (pathErr s node t.2.1) s1) else s1

def ackPackets (node : Nat) (id : W32) : List Nat → State → State
  | [], s => s
  | i :: is, s => ackPackets node id is (ackPacket node id i s)

/-- DATAGRAM_ACK (R385, R400): packets delivered, a congestion echo for the path that carried one, DONE. -/
def execDatagramAck (l : Fin 32) (node : Nat) (session id base : W32) (bitmap : W64) (done echo : Bool) (s : State) : Res := onRun s (onPort l fun s =>
  if session ≠ s.net.session then s
  else match Tbl.find (s.dpeer node).out id.toNat with
    | none => s
    | some m =>
      let hits := (bitsOf bitmap.toNat 64).map (base.toNat + ·)
      let now := s.time.toNat
      let s1 := if echo then modPath node (pathOf m (hits.headD 0)) (fun x =>
          if cutAllowed x.lastCut now then { x with rate := halve x.rate, lastCut := some now, calmFrom := now } else { x with calmFrom := now }) s else s
      let s2 := ackPackets node id hits s1
      if done then endMsg node id .ok s2 else s2)

/-- DATAGRAM_NAK (R385). -/
def execDatagramNak (l : Fin 32) (node : Nat) (session id : W32) (why : NakReason) (s : State) : Res := onRun s (onPort l fun s =>
  if session ≠ s.net.session then s
  else match Tbl.find (s.dpeer node).out id.toNat with
    | none => s
    | some m => match why with
      | .rnr => s.modPeer node fun p => { p with out := Tbl.set p.out id.toNat { m with rnr := some ((m.tries.map fun e => e.2.1).foldl max 0) } }
      | .lengthFault => endMsg node id .lengthFault s
      | .access => endMsg node id .remoteAccess (accessRecord l m.wr.remoteAddr 0 m.wr.rkey node m.ep false s)
      | .tooSmall => endMsg node id .remoteTooSmall s
      | .noEndpoint => endMsg node id .noEndpoint s
      | .staleSession =>
        sendHelloTo node (s.modPeer node fun p => { p with
          version := none, helloAt := none, out := [], waiting := (p.out.map fun e => { ep := e.2.ep, op := e.2.op, wr := e.2.wr, msg := e.2.msg }) ++ p.waiting }))

/-- The relationship whose synchronous write a message carries (R432). -/
def writeOf (s : State) (m : MsgOut) : Option Nat :=
  match m.msg with
  | some (.replWrite rel _ _ _ _) => (s.repls.find? fun e => e.2.source && e.1 % 2 ^ 32 = rel && e.2.node = m.wr.dstNode).map (·.1)
  | _ => none

/-- DATAGRAM_RETRANSMIT_TIMEOUT: a packet's wait ends; a synchronous write that reaches the retry limit suspends its relationship (R374, R376, R386, R387, R432). -/
def execDatagramRetransmitTimeout (node : Nat) (id : W32) (i : Nat) (s : State) : Res := onRun s fun s =>
  let p := s.dpeer node
  match Tbl.find p.out id.toNat with
  | none => s
  | some m => match Tbl.find m.tries i with
    | none => s
    | some (a, path, t0) =>
      if Tbl.has m.acked i then s
      else
        let s1 := reachTime (t0 + rto0 p.srtt * 2 ^ a) s
        let rnr := match m.rnr with
          | some r => decide (a ≤ r)
          | none => false
        let s2 := if rnr || ((p.paths.getD path {}).state ≠ .up) then s1
          else pathEmit path prioCtl (probeOut s1 .probe node path) (modPath node path (fun x => { x with state := .suspect, probes := 1, probeAt := s1.time.toNat }) s1)
        if 7 ≤ a then
          let s3 := endMsg node id (if rnr then .rnrExceeded else .retryExceeded) s2
          (match writeOf s2 m with
          | some rel => suspendRepl rel .suspended s3
          | none => s3)
        else
          let s3 := if a = 1 && !rnr then bumpDg 12 1 (lastingFault (pathErr s2 node path) s2) else s2
          sendPacket node id i (a + 1) (nextPath (s3.dpeer node) path) (bumpDg 10 1 s3)

/-! ## Datagram class: sessions and probes (R381, R382, R387) -/

/-- A new session of a node gives new traffic keys (R426). -/
def newTraffic (node : Nat) (s : State) : State := s.clu fun c => { c with traffic := Tbl.del c.traffic node }

/-- DATAGRAM_HELLO (R381, R382, R17): a new session resets the peer's window and frees its entries. -/
def execDatagramHello (l : Fin 32) (node lo hi paths : Nat) (session peerSession : W32) (s : State) : Res := onRun s (onPort l fun s =>
  let v := min 2 hi
  if v < max 1 lo then noCommonVersion 4 node 1 2 lo hi s
  else
    let fresh := (s.dpeer node).session ≠ some session
    let s1 := if fresh then newTraffic node (settleRegions (dropEntries (peerEntries s node) s)) else s
    let s2 := s1.modPeer node fun p => { p with
      session := some session, seen := session, rxVersion := v, hwm := if fresh then 0 else p.hwm, window := if fresh then 0 else p.window }
    netEmit l prioCtl (dgOut s2 node 0 (ctlBytes s2 .helloReply 1 node 0 (le8 v ++ le8 (min (if v = 1 then 8 else 16) paths) ++ zeros 2
      ++ le32 s.net.session.toNat ++ le32 peerSession.toNat ++ zeros 4))) s2)

/-- DATAGRAM_HELLO_REPLY (R382, R17): the session stands and the waiting messages start. -/
def execDatagramHelloReply (l : Fin 32) (node version paths : Nat) (session : W32) (s : State) : Res := onRun s (onPort l fun s =>
  let p := s.dpeer node
  if p.helloAt.isNone then s
  else if version = 0 || decide (2 < version) then noCommonVersion 4 node 1 2 version version (s.modPeer node fun p => { p with helloAt := none })
  else
    let n := max 1 (min (if version = 1 then 8 else 16) paths)
    let s1 := if p.seen ≠ session && p.session ≠ some session then newTraffic node s else s
    pumped (startWaitingMsgs node (s1.modPeer node fun p => { p with
      version := some version, helloAt := none, seen := session, paths := List.replicate n {} })))

/-- Requests that waited for a session that never came fail. -/
def failWaiting : List SendReq → State → State
  | [], s => s
  | r :: t, s => failWaiting t (if r.msg.isSome then lostMsg r.msg (bumpDg 7 1 s) else pumped (wrComplete (.ep r.ep) r.op r.wr .retryExceeded (bumpDg 7 1 s)))

/-- DATAGRAM_HELLO_RETRY (R382): again every 1 ms, given up after 100 ms. -/
def execDatagramHelloRetry (node : Nat) (s : State) : Res := onRun s fun s =>
  let p := s.dpeer node
  match p.helloAt with
  | none => s
  | some t0 =>
    let s1 := reachTime (p.helloLast + 1000000) s
    if t0 + 100000000 ≤ s1.time.toNat then
      raiseAlarm 0x63 (failWaiting p.waiting (s1.modPeer node fun p => { p with helloAt := none, waiting := [] }))
    else sendHelloTo node s1

/-- DATAGRAM_PROBE (R387). -/
def execDatagramProbe (l : Fin 32) (node path : Nat) (s : State) : Res := onRun s (onPort l (fun s => netEmit l prioCtl (probeOut s .probeReply node path) s))

/-- DATAGRAM_PROBE_REPLY (R387). -/
def execDatagramProbeReply (l : Fin 32) (node path : Nat) (s : State) : Res := onRun s (onPort l fun s =>
  let p := s.dpeer node
  let x := p.paths.getD path {}
  if p.paths.length ≤ path then s
  else match x.state with
    | .up => s
    | .suspect =>
      let s1 := modPath node path (fun x => { x with state := .up, probes := 0 }) s
      if s.time.toNat ≤ x.probeAt + 2 * rto0 p.srtt then bumpDg 11 1 (transientFault (pathErr s node path) s1) else s1
    | .down => modPath node path (fun x => { x with state := .up, probes := 0 }) s)

/-- PATH_PROBE_TIMEOUT: 2 × RTO0 without a reply (R387). -/
def execPathProbeTimeout (node path : Nat) (s : State) : Res := onRun s fun s =>
  let p := s.dpeer node
  let x := p.paths.getD path {}
  if p.paths.length ≤ path || x.state ≠ .suspect then s
  else
    let s1 := reachTime (x.probeAt + 2 * rto0 p.srtt) s
    let s2 := modPath node path (fun x => { x with lastFail := s1.time.toNat }) s1
    if x.probes ≤ 1 then
      pathEmit path prioCtl (probeOut s2 .probe node path) (modPath node path (fun x => { x with probes := 2, probeAt := s1.time.toNat }) s2)
    else event 1 0x53 (le16 node ++ le8 path) (bumpDg 12 1 (lastingFault (pathErr s2 node path) (pathDown node path s2)))

/-- PATH_DOWN_PROBE: every 1 ms on a DOWN path; the one before it, if it was not answered, has failed (R387). -/
def execPathDownProbe (node path : Nat) (s : State) : Res := onRun s fun s =>
  let p := s.dpeer node
  let x := p.paths.getD path {}
  if p.paths.length ≤ path || x.state ≠ .down then s
  else
    let s1 := reachTime (x.probeAt + 1000000) s
    pathEmit path prioCtl (probeOut s1 .probe node path) (modPath node path (fun x => { x with
      probes := 1, probeAt := s1.time.toNat, lastFail := if x.probes = 0 then x.lastFail else s1.time.toNat }) s1)

end Sys2Proof.Machine
end

