-- ==== Sys2Proof/Machine/Hedgerow.lean ====
section
/-! DEFINITION. Machine/Hedgerow.lean: pools, modules, rebuild, release and reshape (R278 to R313, R140). -/
namespace Sys2Proof.Machine
open Sys2Proof

/-! ## Module standing (R290, R314) -/

/-- A module is present on this head while its link is UP (R314). -/
def present (s : State) (n : Nat) : Bool := (s.kport n).state = .up

/-- MODULE_QUERY STATE (R290). -/
def moduleState (s : State) (n : Nat) : Nat :=
  let free := if present s n then 1 else 0
  match (s.mod n).stand with
  | .retired => 7
  | .releasing => 8
  | .free => match (poolOf s n).bind (Tbl.find s.pools) with
    | none => free
    | some p =>
      if p.deleting then free
      else match replaces p n, failEnt p n with
        | some _, _ => 6
        | none, some e => if (s.mod n).returned then free else (match e.state with
          | 1 => 3
          | 2 => 4
          | 3 => 5
          | _ => if memberRebuilt p n then 4 else 3)
        | none, none => 2

/-- Modules of a MODULE_MAP, ascending. -/
def mapModules (m : BitVec 96) : List Nat := bitsOf m.toNat 96

/-! ## Pool commands (R288, R289, R306, R308) -/

/-- The smallest generation above g whose bit 0 is a head index (R415). -/
def nextGen (g : W32) (head : Nat) : W32 :=
  let a := g.toNat + 1
  BitVec.ofNat 32 (if a % 2 = head then a else a + 1)

/-- A new layout over some members, from a capacity and a seed, with SEGS below 2^36 (R278, R280; log entry 221). -/
def newLayout (id k m c : Nat) (seed : W64) (members : List Nat) : Layout :=
  let n := members.length
  { id := id, k := k, m := m, d := spareDepth n, n := n, seed := seed
    periods := min (c / ((k + m) * 65536)) ((2 ^ 36 - 1) / max 1 (n - spareDepth n)), members := members }

def leastOf (l : List Nat) : Nat := match l with | [] => 0 | x :: xs => xs.foldl min x

/-- Limits of K, M and N (R278, R288), with the offsets of their fields. -/
def shapeLimits (k m n kOff mOff mapOff : Nat) : List (Bool × MReply) := [
  (decide (k < 2) || decide (32 < k), limitAt kOff), (decide (m < 1) || decide (4 < m) || decide (36 < k + m), limitAt mOff),
  (decide (n < k + m + spareDepth n), limitAt mapOff)]

/-- Create a pool: salt and seed are drawn, members claimed with RESET, superblocks written (R288, R334). -/
def createPool (pool k m : Nat) (mods : List Nat) (s : State) : State :=
  let d1 := draw s
  let d2 := draw d1.2
  let s2 := d2.2
  let l := newLayout 0 k m (leastOf (mods.map fun n => moduleOffer (s.mod n))) (BitVec.ofNat 64 d1.1) mods
  let p : Pool := { cur := l, salt := leBytes 32 d2.1, creating := true, ownerGen := nextGen 0 (headIndex s) }
  let s3 := mods.foldl (fun s n => kamSend n (.claim p.ownerGen true) (s.modMod n fun x => { x with stand := .free, returned := false })) { s2 with pools := Tbl.set s2.pools pool p }
  configGroup pool 0x14 (superTo pool p mods s3)

/-- POOL_CREATE (R288). -/
def execPoolCreate (h : MbxHdr) (pool k m : Byte) (map : BitVec 96) (s : State) : Res := onRun s fun s =>
  let mods := mapModules map
  mbxStart ⟨0x0301, 2, true, .other, false⟩ h [.num 0 1 pool.toNat, .num 1 1 k.toNat, .num 2 1 m.toNat, .num 4 12 map.toNat] (fun s =>
    match firstFail ((decide (7 < pool.toNat), limitAt 0) :: shapeLimits k.toNat m.toNat mods.length 1 2 4 ++ [
        (mods.any fun n => !present s n, replyErr .notFound 0),
        (mods.any fun n => moduleState s n ≠ 1, replyErr .inUse 0),
        (Tbl.has s.pools pool.toNat, replyErr .existsAlready 0)]) with
    | some r => (some r, s)
    | none => (none, createPool pool.toNat k.toNat m.toNat mods s)) s

/-- POOL_DELETE (R288): refused while a namespace lies in the pool; its members are trimmed in the background. -/
def execPoolDelete (h : MbxHdr) (pool : Byte) (s : State) : Res := onRun s fun s =>
  let p := pool.toNat
  mbxStart ⟨0x0302, 2, true, .other, false⟩ h [.num 0 1 pool.toNat] (fun s => tryDo
    (firstFail [(decide (7 < p), limitAt 0), (!Tbl.has s.pools p, replyErr .notFound 0), (s.ns.any fun e => e.2.pool = p, replyErr .inUse 0)])
    (fun s =>
      let mods := match Tbl.find s.pools p with | some x => poolMembers x | none => []
      let s1 := mods.foldl (fun s n => s.modMod n (releaseMod p)) s
      kamAlarms (configGroup p 0x14 (superWrite p (s1.modPool p fun x => { x with deleting := true, offline := false })))) s) s

/-- Trim every strip of a module. -/
def trimModule (n : Nat) (s : State) : State := ((s.mod n).media.map.map (·.1)).foldl (fun s a => trimStrip n a s) s

/-- A module is no member of a pool that is being deleted any more. -/
def leaveMember (n : Nat) (p : Pool) : Pool :=
  let out := fun (l : Layout) => { l with members := l.members.map fun m => if m = n then 255 else m }
  { p with cur := out p.cur, target := p.target.map out, failed := p.failed.filter fun f => f.module ≠ n && f.replacement ≠ some n }

/-- The background trim of a releasing module ends: it is free; a deleted pool goes with its last member (R288, R290, R311). -/
def execMemberTrimDone (module : Fin 96) (s : State) : Res := onRun s fun s =>
  if (s.mod module).stand = .releasing then
    let s1 := (trimModule module s).modMod module fun m => { m with stand := .free, left := none }
    match (s.mod module).left with
    | none => s1
    | some pool => match Tbl.find s1.pools pool with
      | none => s1
      | some p =>
        if !p.deleting then s1
        else
          let s2 := s1.modPool pool (leaveMember module)
          if (poolMembers p).all fun n => n = module || (s1.mod n).left ≠ some pool then
            kamAlarms { s2 with pools := Tbl.del s2.pools pool, grinder := { s2.grinder with units := s2.grinder.units.filter fun e => unitPool e.1 ≠ pool } }
          else s2
  else s

/-- Segments in use by redundancy left, 0 to 4 (R289 EXPOSED). -/
def exposedCounts (p : Pool) : List Nat := (List.range 5).map fun r => (p.segs.filter fun e => match layoutOf p (segLayout e.1) with
  | some l => decide (redundancy l e.2 = some r)
  | none => false).length

/-- What rebuild does for one strip: missing strips go to their targets, a retiring member's to its spare, a replaced member's to its replacement. -/
def rebuildUse (p : Pool) (l : Layout) (key : Nat) (g : Seg) (i : Nat) : Option (Nat × Nat × PageUse) :=
  let home := homeOf l (segNum key) i
  let a := stripAddr l home.2
  if hasBit g.missing i then (stripTarget p l (segNum key) i).map fun t => (t.1, t.2, .rebuild key i)
  else match failEnt p home.1, replaces p home.1 with
    | some e, none => if e.state = 3 && !isRebuilt p home.1 a then (spareOf p l (segNum key / l.per) home.1).map fun m => (m, a, .rebuild key i) else none
    | f, some _ => if f.any (·.state ≠ 4) || isBack p home.1 a then none else some (home.1, a, .copyBack key i)
    | none, none => none

/-- Rebuild or copy-back has work that it can do (R289 REBUILDING). -/
def rebuildWork (p : Pool) : Bool :=
  p.segs.any fun e => match layoutOf p (segLayout e.1) with
    | none => false
    | some l => !e.2.lost && (List.range l.w).any fun i => (rebuildUse p l e.1 e.2 i).isSome

/-- POOL_QUERY STATE (R289). -/
def poolState (s : State) (p : Pool) : Nat :=
  if p.offline || !((poolMembers p).any (reachable s)) then 7
  else if p.checking then 6
  else if p.deleting then 8
  else if p.creating then 1
  else if rebuildWork p then 4
  else if p.reshaping then 5
  else if anyExposed p then 3
  else 2

/-- POOL_QUERY (R140, R289). -/
def execPoolQuery (h : MbxHdr) (pool : Byte) (s : State) : Res := onRun s fun s =>
  mbxStart ⟨0x0303, 2, false, .other, false⟩ h [.num 0 1 pool.toNat] (answer fun s =>
    if 7 < pool.toNat then limitAt 0
    else match Tbl.find s.pools pool.toNat with
      | none => replyErr .notFound 0
      | some p => replyOk (le8 p.cur.k ++ le8 p.cur.m ++ le8 (poolState s p) ++ zeros 1 ++ le32 p.lost
          ++ (exposedCounts p).flatMap le32 ++ le64 p.cur.capacity ++ le64 (poolUsed p))) s

/-- Put a replacement at a failed member's index in every layout that holds it (R306). -/
def replaceIn (old new : Nat) (l : Layout) : Layout := { l with members := l.members.map fun m => if m = old then new else m }

/-- Each module of the map, ascending, replaces the oldest entry that has no replacement (R306). -/
def replaceMods : List Nat → Pool → Pool
  | [], p => p
  | m :: ms, p => match p.failed.find? fun e => e.replacement.isNone with
    | none => p
    | some e => replaceMods ms { p with
        cur := replaceIn e.module m p.cur
        target := p.target.map (replaceIn e.module m)
        failed := p.failed.map fun x => if x = e then { x with replacement := some m, state := 4 } else x }

/-- POOL_MODULE_ADD (R306). -/
def execPoolModuleAdd (h : MbxHdr) (pool : Byte) (map : BitVec 96) (s : State) : Res := onRun s fun s =>
  let n := pool.toNat
  let mods := mapModules map
  mbxStart ⟨0x0304, 2, true, .other, false⟩ h [.num 0 1 pool.toNat, .num 4 12 map.toNat] (fun s => tryDo
    (firstFail [
      (decide (7 < n), limitAt 0), (!Tbl.has s.pools n, replyErr .notFound 0),
      ((match Tbl.find s.pools n with | some p => decide (openFails p < mods.length) | none => false), fieldAt 4),
      (mods.any fun m => moduleState s m = 0, replyErr .notFound 0), (mods.any fun m => moduleState s m ≠ 1, replyErr .inUse 0)])
    (fun s => match Tbl.find s.pools n with
      | none => s
      | some p =>
        let q := keepBits p (replaceMods mods p)
        let s1 := mods.foldl (fun s m => kamSend m (.claim p.ownerGen true) (s.modMod m fun x => { x with returned := false })) (s.modPool n fun _ => recount q)
        settleFails n (configGroup n 0x14 (superWrite n s1))) s) s

/-- Capacity that a member offers to a target layout: less what it holds for the current one (R308). -/
def reshapeOffer (s : State) (cur n : Nat) : Nat :=
  moduleOffer (s.mod n) - ((s.mod n).media.map.filter fun e => e.1 / 2 ^ 36 = cur).length * 65536

/-- The target layout that a reshape would make, with a seed. -/
def targetLayout (s : State) (p : Pool) (k m : Nat) (mods : List Nat) (seed : W64) : Layout :=
  newLayout ((p.cur.id + 1) % 8) k m (leastOf (mods.map fun n => reshapeOffer s p.cur.id n)) seed mods

/-- POOL_RESHAPE (R308): what is being gathered goes to segments of the target layout from here on (R309). -/
def execPoolReshape (h : MbxHdr) (pool k m : Byte) (map : BitVec 96) (s : State) : Res := onRun s fun s =>
  let n := pool.toNat
  let mods := mapModules map
  mbxStart ⟨0x0305, 3, true, .other, false⟩ h [.num 0 1 pool.toNat, .num 1 1 k.toNat, .num 2 1 m.toNat, .num 4 12 map.toNat] (fun s =>
    let bad := match Tbl.find s.pools n with
      | none => [(true, replyErr .notFound 0)]
      | some p => [
        (mods.any fun x => !present s x, replyErr .notFound 0),
        (mods.any fun x => moduleState s x ≠ 1 && !(p.cur.members.contains x && moduleState s x = 2), replyErr .inUse 0),
        (p.reshaping || anyExposed p || p.failed ≠ [], replyErr .busy 0),
        (decide (9 * (targetLayout s p k.toNat m.toNat mods 0).capacity < 10 * poolUsed p), replyErr .noResource 0)]
    tryDo (firstFail ((decide (7 < n), limitAt 0) :: shapeLimits k.toNat m.toNat mods.length 1 2 4 ++ bad))
      (fun s => match Tbl.find s.pools n with
        | none => s
        | some p =>
          let d := draw s
          let t := targetLayout s p k.toNat m.toNat mods (BitVec.ofNat 64 d.1)
          let fresh := mods.filter fun x => !p.cur.members.contains x
          let s1 := fresh.foldl (fun s x => kamSend x (.claim p.ownerGen true) s) d.2
          let shut := fun (p : Pool) => { p with target := some t, reshaping := true, cursor := 0, gathers := [] }
          let s2 := (p.gathers.filter fun g => g.2.through.isNone).foldl (fun s g => gatherAgain n g.2 s) (s1.modPool n shut)
          let pages := p.gathers.flatMap fun g => g.2.pages
          configGroup n 0x14 (superWrite n (if pages = [] then s2 else redoPages n pages s2))) s) s

/-- MODULE_QUERY (R140, R290). -/
def execModuleQuery (h : MbxHdr) (module : Byte) (s : State) : Res := onRun s fun s =>
  let n := module.toNat
  mbxStart ⟨0x0306, 2, false, .other, false⟩ h [.num 0 1 module.toNat] (answer fun s =>
    if 95 < n then limitAt 0
    else
      let st := moduleState s n
      let m := s.mod n
      let k := s.kport n
      let hd := headIndex s
      let peer := peerSubs s ≠ []
      let ports := flag hd (k.state = .up) + flag (2 + hd) (k.state = .up && k.oneLane)
        + flag (1 - hd) (peer && k.peerUp) + flag (3 - hd) (peer && k.peerUp && k.peerOneLane)
      let pool := if st = 0 || st = 1 || st = 7 then 0xFF else (if st = 8 then m.left else poolOf s n).getD 0xFF
      replyOk (le8 st ++ le8 pool ++ le8 ports ++ zeros 1 ++ le64 m.rawBytes.toNat ++ le16 m.wear ++ zeros 2)) s

/-- MODULE_RETIRE (R307): by the module's state. -/
def execModuleRetire (h : MbxHdr) (module : Byte) (s : State) : Res := onRun s fun s =>
  let n := module.toNat
  mbxStart ⟨0x0307, 2, true, .other, false⟩ h [.num 0 1 module.toNat] (fun s =>
    if 95 < n then (some (limitAt 0), s)
    else match moduleState s n with
      | 0 => (some (replyErr .notFound 0), s)
      | 1 => (some (replyOk []), configGroup 255 0x14 (s.modMod n fun m =>
          { m with stand := .retired, retiredSerial := match m.descr with | some d => d.serial | none => (s.kport n).serial }))
      | 2 => (match poolOf s n with
        | none => (some (replyErr .notFound 0), s)
        | some pool => match Tbl.find s.pools pool with
          | none => (some (replyErr .notFound 0), s)
          | some p => if p.cur.d ≤ openFails p then (some (replyErr .noResource 0), s) else (some (replyOk []), settleFails pool (failMember pool n 3 s)))
      | 6 => (some (replyErr .inUse 0), s)
      | 8 => (some (replyErr .busy 0), s)
      | _ => (some (replyOk []), s)) s

/-! ## Failure and rebuild (R291, R299, R300, R306, R307) -/

/-- A member that neither head reaches, or whose media are at their end, is declared failed (R291, R367). -/
def execMemberFailed (module : Fin 96) (s : State) : Res := onRun s fun s =>
  let n : Nat := module
  match poolOf s n with
  | none => s
  | some pool => match Tbl.find s.pools pool with
    | none => s
    | some p =>
      let listed := p.failed.any fun f => f.module = n && (f.state = 1 || f.state = 2 || (f.state = 4 && f.replacement ≠ some n))
      if listed || !p.owned then s
      else if !reachable s n then declareFailed n 1 s
      else if moduleSpent (s.mod n) && mediaStalled (s.mod n) then declareFailed n 2 s
      else s

/-- A strip's rebuild or copy-back is already on its way: its page waits for the reads or has been sent, or its record has not committed. -/
def rebuildOut (s : State) (m seg i : Nat) : Bool :=
  let d := (s.mod m).media
  let is := fun (v : VPage) => v.use = .rebuild seg i || v.use = .copyBack seg i
  (d.verify.any fun e => is e.2) || d.wait.any is || jobPages s (fun n v => n = m && is v)
    || (openGroups s).any fun g => g.effects.any fun e => match e with
      | .placed _ x j n _ => decide (x = seg) && decide (j = i) && decide (n = m)
      | _ => false

/-- The page that a strip of work goes to. -/
def workPage (pool : Nat) (t : Nat × Nat × PageUse) : Nat × VPage := (t.1, { strip := t.2.1, pool := pool, use := t.2.2 })

/-- A strip that can still be read is copied once it has been read, as one block of rebuild's work: from a retiring member to its spare, or from a spare to the replacement (R35, R306, R307). -/
def copyOver (p : Pool) (l : Layout) (key pool : Nat) (urgent idle : Bool) (s : State) (x : Nat × Nat × Nat × PageUse) : State :=
  match stripAt s p l key x.1 with
  | none => s
  | some a => rebuildRun urgent idle (stripCost 1 1 0) (fun s =>
      addJob (.program [workPage pool x.2] urgent) (readCws [(a.1, a.2.1, a.2.2, 0xFFFF)]) (issueReads true [(a.1, a.2.1, a.2.2, 0xFFFF)] s)) s

/-- Reads of a rebuild are issued one strip after another, each as a block of its own, as far as the governor admits them; one that can no longer be made ends the job (R35, R302). -/
def feedJob (urgent idle : Bool) (n : Nat) : Nat → State → State
  | 0, s => s
  | f + 1, s => match Tbl.find s.jobs n with
    | none => s
    | some j => match j.todo with
      | [] => s
      | r :: rest =>
        if !reachable s r.1 then { s with jobs := Tbl.del s.jobs n }
        else if rebuildMay urgent idle (stripCost 1 0 1) s then
          feedJob urgent idle n f (rebuildRun urgent idle (stripCost 1 0 1) (fun s =>
            issueReads true [r] { s with jobs := Tbl.upd s.jobs n fun j => { j with todo := rest, waits := j.waits ++ readCws [r] } }) s)
        else rebuildRun urgent idle (stripCost 1 0 1) id s

/-- Strips that may be written as blocks of rebuild's work now, charged one by one (R35). -/
def admitWrites (pool : Nat) (urgent idle : Bool) : List (Nat × Nat × Nat × PageUse) → State → List (Nat × VPage) × State
  | [], s => ([], s)
  | x :: xs, s =>
    if rebuildMay urgent idle (stripCost 0 1 0) s then
      let r := admitWrites pool urgent idle xs (rebuildRun urgent idle (stripCost 0 1 0) id s)
      (workPage pool x.2 :: r.1, r.2)
    else ([], rebuildRun urgent idle (stripCost 0 1 0) id s)

/-- Strips that cannot be read are reconstructed together: k survivors are read whole, lower indexes first, and the strips are programmed once all of them have been decoded (R35, R297, R300, R302). -/
def reconstruct (p : Pool) (l : Layout) (key pool : Nat) (urgent idle : Bool) (work : List (Nat × Nat × Nat × PageUse)) (s : State) : State :=
  let l1 := ((List.range l.w).filterMap (stripAt s p l key)).take l.k
  if work = [] || decide (l1.length < l.k) then s
  else
    let r := admitWrites pool urgent idle work s
    if r.1 = [] then r.2
    else
      let n := jobKey r.2
      feedJob urgent idle n (l.k + 1) { r.2 with jobs := Tbl.set r.2.jobs n { use := .program r.1 urgent, todo := l1.map fun x => (x.1, x.2.1, x.2.2, 0xFFFF) } }

/-- Jobs of a segment's rebuild that still have reads to issue. -/
def openJobs (s : State) (pool key : Nat) : List Nat :=
  (s.jobs.filter fun e => e.2.todo ≠ [] && match e.2.use with
    | .program pages _ => pages.any fun x => x.2.pool = pool && (match x.2.use with
      | .rebuild k _ | .copyBack k _ => decide (k = key)
      | _ => false)
    | _ => false).map (·.1)

/-- Strips of a segment that rebuild or copy-back has to write and has not begun, each with its index. -/
def stripWork (s : State) (p : Pool) (l : Layout) (key : Nat) (g : Seg) : List (Nat × Nat × Nat × PageUse) :=
  (List.range l.w).filterMap fun i => (rebuildUse p l key g i).bind fun t => if rebuildOut s t.1 key i then none else some (i, t)

/-- Rank of a segment in the rebuild queue: by the redundancy that it has left, with copies behind every exposed segment (R299, R306). -/
def rebuildRank (l : Layout) (g : Seg) : Nat := if g.missing.toNat % 2 ^ l.w = 0 then 5 else (redundancy l g).getD 0

/-- A segment comes before another in the rebuild queue: lower redundancy, then the lower number (R299). -/
def rebuildBefore (p : Pool) (a b : Nat × Seg) : Bool :=
  match layoutOf p (segLayout a.1), layoutOf p (segLayout b.1) with
  | some la, some lb =>
    let x := rebuildRank la a.2
    let y := rebuildRank lb b.2
    decide (x < y) || (decide (x = y) && decide (segNum a.1 < segNum b.1))
  | _, _ => false

/-- Segments of a pool whose rebuild is in flight. -/
def rebuildsOut (s : State) (p : Pool) : Nat := (p.segs.filter fun e => match layoutOf p (segLayout e.1) with
  | some l => (poolMembers p).any fun m => (List.range l.w).any fun i => rebuildOut s m e.1 i
  | none => false).length

/-- Rebuild takes the segment now: fewer than 1,024 are in flight, and none with work comes before it (R299). -/
def rebuildTakes (s : State) (p : Pool) (e : Nat × Seg) : Bool :=
  decide (rebuildsOut s p < 1024) && !(p.segs.any fun o => rebuildBefore p o e && !o.2.lost && (match layoutOf p (segLayout o.1) with
    | some l => stripWork s p l o.1 o.2 ≠ []
    | none => false))

/-- A release of a segment has been journaled and has not committed. -/
def releasing (s : State) (pool key : Nat) : Bool := (openGroups s).any fun g => g.released.contains (pool, key)

/-- Rebuild of a segment, when its turn in the queue has come: readable strips are copied, the others reconstructed from k surviving strips, and every strip that has work and a target is written; a rebuild that waits for tokens goes on, and one of a segment on its way to its release does not begin (R295, R299, R300, R306). -/
def execRebuildSegment (pool : Fin 8) (seg : Nat) (idle : Bool) (s : State) : Res := onRun s fun s =>
  match Tbl.find s.pools pool with
  | none => s
  | some p => match Tbl.find p.segs seg, layoutOf p (segLayout seg) with
    | some g, some l =>
      let urgent := decide (redundancy l g = some 0)
      let going := openJobs s pool seg
      if !p.owned || p.fenced || p.offline || p.checking || g.lost || releasing s pool seg || (sifOfSeg s pool seg).any (fun x => x.2.state ≠ .committed) then s
      else if (redundancy l g).isNone then stripeLost pool seg s
      else if going ≠ [] then going.foldl (fun s n => feedJob urgent idle n (l.k + 1) s) s
      else
        let work := stripWork s p l seg g
        let live := fun (i : Nat) => (stripAt s p l seg i).isSome
        if work = [] || !rebuildTakes s p (seg, g) then s
        else reconstruct p l seg pool urgent idle (work.filter fun x => !live x.1) ((work.filter fun x => live x.1).foldl (copyOver p l seg pool urgent idle) s)
    | _, _ => s

/-! ## Release and reshape (R295, R310, R311) -/

/-- Rebuild or copy-back of the segment is in flight. -/
def segBusy (s : State) (p : Pool) (l : Layout) (key : Nat) : Bool :=
  (poolMembers p).any fun m => (List.range l.w).any fun i => rebuildOut s m key i

/-- A segment can be released: settled, without live units or pages of the on-flash map, and with nothing in flight. -/
def mayRelease (s : State) (pool : Nat) (p : Pool) (key : Nat) : Bool :=
  match Tbl.find p.segs key, layoutOf p (segLayout key) with
  | some g, some l => g.settled && g.units = [] && g.pages = [] && !segBusy s p l key && p.owned && !p.fenced && !releasing s pool key
  | _, _ => false

def releaseSeg (pool key : Nat) (s : State) : State := addGroup { pool := pool, released := [(pool, key)] } s

/-- A segment without live units is released in a POOL record; its number is free once that commits (R295). -/
def execSegmentRelease (pool : Fin 8) (seg : Nat) (s : State) : Res := onRun s fun s =>
  match Tbl.find s.pools pool with
  | none => s
  | some p => if mayRelease s pool p seg then releaseSeg pool seg s else s

/-- The next old-layout segment that Topiary examines: the lowest in use but one, or SEGS (R310). -/
def nextOld (p : Pool) (but : Nat) : Nat :=
  match (p.segs.find? fun e => segLayout e.1 = p.cur.id && e.1 ≠ but) with
  | some e => segNum e.1
  | none => p.cur.segs

/-- Old-layout segments between the start of their copying and their release. -/
def oldMoving (p : Pool) : Nat := (p.segs.filter fun e => segLayout e.1 = p.cur.id && e.2.moving).length

/-- Old-layout segments are taken in ascending number: none below this one still waits to be copied (R310). -/
def topiaryTakes (s : State) (p : Pool) (seg : Nat) : Bool :=
  !(p.segs.any fun e => segLayout e.1 = p.cur.id && decide (segNum e.1 < segNum seg) && cleanable s e)

/-- Pages of the on-flash map in an old-layout segment are written anew by the next compaction, into the target layout (R310, R348). -/
def rewritePages (pool seg : Nat) (s : State) : State :=
  s.modPool pool fun p => { p with changed := ((Tbl.find p.segs seg).elim [] (·.pages)).foldl (fun t i => Tbl.set t i ()) p.changed }

/-- Topiary takes an old-layout segment: it copies its live slots into the target layout, or, once they have moved, releases it and advances the cursor (R310). -/
def execTopiaryMove (pool : Fin 8) (seg : Nat) (idle : Bool) (s : State) : Res := onRun s fun s =>
  match Tbl.find s.pools pool with
  | none => s
  | some p =>
    if !p.reshaping || anyExposed p || segLayout seg ≠ p.cur.id then s
    else if mayRelease s pool p seg then
      configGroup pool 0x15 (releaseSeg pool seg (s.modPool pool fun p => { p with cursor := nextOld p seg }))
    else if (oldMoving p < 1024 || (Tbl.find p.segs seg).any (·.moving)) && topiaryTakes s p seg then rewritePages pool seg (moveSegment 3 idle pool seg s)
    else s

/-- Members of the target that are not failed suffice, or every entry of it has a replacement copied back (R312). -/
def switchReady (p : Pool) (t : Layout) : Bool :=
  let bad := p.failed.filter fun f => t.members.contains f.module
  bad = [] || decide (t.k + t.m + t.d ≤ (t.members.filter fun m => !(failedMods p).contains m).length)

/-- The switch-over: one POOL record makes the target layout current (R311). -/
def execReshapeSwitchOver (pool : Fin 8) (s : State) : Res := onRun s fun s =>
  match Tbl.find s.pools pool with
  | none => s
  | some p => match p.target with
    | none => s
    | some t =>
      if p.reshaping && !(p.segs.any fun e => segLayout e.1 = p.cur.id) && switchReady p t
          && !((openGroups s).any fun g => g.effects.contains (.switchOver pool)) then
        addGroup { pool := pool, effects := [.switchOver pool] } (s.modPool pool fun p => { p with cursor := p.cur.segs })
      else s

end Sys2Proof.Machine
end

