-- ==== Sys2Proof/Machine/PairOps.lean ====
section
/-! DEFINITION. Machine/PairOps.lean: the peer state, takeover, hand-over of pools, resync and the sub-links as a whole (R167, R181 to R183, R261, R407, R411 to R417). -/
namespace Sys2Proof.Machine
open Sys2Proof


/-- The peer state changes: PEER_OK, PEER_PARTITIONED and the limits follow (R411, R243, R500). -/
def setPeerState (st : PeerSt) (s : State) : State :=
  if s.peerState = st then s
  else
    let s1 := setPeerOk (decide (st = .joining) || decide (st = .mirrored)) { s with peerState := st }
    let s2 := if st = .partitioned then raiseAlarm 0x81 s1 else if st = .joining then s1 else clearAlarm 0x81 s1
    vaultSetRecompute s2

/-- Pools that the other head owns. -/
def foreignPools (s : State) : List Nat := (s.pools.filter fun e => !e.2.owned && !e.2.deleting).map (·.1)

def setAnas (st : AnaState) : List Nat → State → State
  | [], s => s
  | p :: ps, s => setAnas st ps (setAna p st s)

/-! ## Taking pools (R183, R261, R334, R415) -/

def claimAll (gen : W32) : List Nat → State → State
  | [], s => s
  | m :: ms, s => claimAll gen ms (mediaSend m (.claim gen false) s)

/-- Claim a pool: CLAIM on every member, then the superblock under the new generation (R334, R415). -/
def claimPool (pool : Nat) (above : W32) (s : State) : State :=
  match Tbl.find s.pools pool with
  | none => s
  | some p =>
    let g := nextGen (if p.ownerGen.toNat < above.toNat then above else p.ownerGen) (headIndex s)
    superWrite pool (claimAll g (poolMembers p) (s.modPool pool fun p => { p with ownerGen := g, owned := true, fenced := false }))

def claimPools : List Nat → State → State
  | [], s => s
  | p :: ps, s => claimPools ps (claimPool p 0 s)

/-- The blocks of a dedup unit, from its content. -/
def unpackUnit (content bytes : Nat) : Nat → List Nat
  | 0 => []
  | n + 1 => content % 2 ^ (8 * bytes) :: unpackUnit (content / 2 ^ (8 * bytes)) bytes n

/-- What a map entry makes its unit read as. -/
def entContent (s : State) (e : Option MapEnt) : Nat := match e with
  | some (.unit k) => (match Tbl.find s.grinder.units k with | some u => u.content | none => 0)
  | _ => 0

def replayBlocks : List (Nat × Nat × Option MapEnt) → State → State
  | [], s => s
  | (nsid, i, e) :: l, s =>
    replayBlocks l (match Tbl.find s.ns nsid with
      | none => s
      | some v => s.modNs nsid fun x => { x with blocks := putBlocks x.blocks (i * unitBlocks v) (unpackUnit (entContent s e) (blockBytes v) (unitBlocks v)) })

def addRecs : List (Nat × UnitRec) → State → State
  | [], s => s
  | (k, u) :: l, s => addRecs l { s with grinder := { s.grinder with units := Tbl.set s.grinder.units k { u with pending := false, placed := true } } }

/-- Changes of the other head's groups that its own journal alone makes: a compaction of its ring, and repairs that it has asked for. -/
def isLocal : Effect → Bool
  | .compact _ => true
  | .repairs _ => true
  | _ => false

/-- The fingerprint records of units that a group of the lost owner created and that are new here (R232). -/
def replayPrints (recs : List (Nat × UnitRec)) (s : State) : State :=
  { s with grinder := { s.grinder with log := s.grinder.log ++ (recs.filter fun r => !Tbl.has s.grinder.units r.1).map fun r => (unitPool r.1, printRecord r.1 r.2.digest) } }

/-- Apply one group of the peer's ring, with the counts that it changes and the map pages (R222, R259, R261). -/
def replayGroup (g : Group) (s0 : State) : State :=
  let s := countUnknown g.image (replayPrints g.recs s0)
  let counted := (touched s0 g ++ g.recs.map (·.1)).eraseDups
  let pages := changedPages s0 g
  let s1 := (addRecs g.recs s).modPool g.pool fun p => { p with segs := g.segs.foldl (fun t x => Tbl.set t x.1 x.2) p.segs }
  let s2 := g.maps.foldl (fun s m => mapStrip m.1 m.2.1 m.2.2 s) s1
  let s3 := replayBlocks g.map (applyEffects (g.effects.filter fun e => !isLocal e) (applyMap g.map s2))
  let s4 := g.released.foldl (fun s r => commitRelease r.1 r.2 s) (commitStrips g.stripMoves (commitMoves g.moves s3))
  notePages pages (settleUnits counted s4)

def replayGroups : List (Nat × Group) → State → State
  | [], s => s
  | (_, g) :: l, s => replayGroups l (replayGroup g s)

/-- The groups of a ring up to the first that is not whole or not sound, or whose GSEQ is not one higher than that of the group before (R261). -/
def soundRun : Option Nat → Tbl Group → Tbl Group
  | _, [] => []
  | last, (n, g) :: l => if g.whole && groupSound g.image && last.all (fun m => decide (n = m + 1)) then (n, g) :: soundRun (some n) l else []

/-- Groups of the peer's ring that belong to some pools and that this head has not applied yet; pair-wide ones count for any. -/
def ringOf (pools : List Nat) (s : State) : Tbl Group :=
  (soundRun none s.journal.peerGroups).filter fun e => !e.2.committed && (pools.contains e.2.pool || e.2.pool = 255)

/-- Stripes in flight of the other head in some pools: COMMITTED ones are read and checked, the others become garbage (R264, R265). -/
def checkPeerSifs (pools : List Nat) : List (Nat × Sif) → State → State
  | [], s => s
  | (_, x) :: l, s =>
    checkPeerSifs pools l (if pools.contains x.pool && x.state = .committed then checkStripe none x.pool x.stripe s else s)

/-- Whole mirror copies of some pools become this head's own dirty data, in WRITE_SEQ order, under numbers of this head; one whose data a vault has lost is poison (R167, R183 step 2, R276). -/
def adoptCopies (tell : Bool) : List (Nat × Desc) → State → List Nat × State
  | [], s => ([], s)
  | (n, d) :: l, s =>
    let id := s.host.nextSeq
    if d.lost then adoptCopies tell l (poisonLost [(id, d)] { s with host := { s.host with nextSeq := id + 1 }, carafe := { s.carafe with mirror := Tbl.del s.carafe.mirror n } })
    else
    let d1 : Desc := { d with peerAck := !tell, reduced := false, grouped := false, left := 0, ents := [] }
    let s1 := { s with
      host := { s.host with nextSeq := id + 1 }
      carafe := { s.carafe with own := Tbl.set s.carafe.own id d1 } }
    let s2 := if tell then jalSend (.mirrorData id d.nsid d.slba d.data) s1 else s1
    let r := adoptCopies tell l s2
    (id :: r.1, r.2)

/-- Mirror copies of some pools. -/
def copiesOf (pools : List Nat) (s : State) : Tbl Desc := s.carafe.mirror.filter fun e => pools.contains (descPool e.2 s)

/-- The number under which poison of the lost owner's numbering stands here: that of the newest adopted copy that is older than it (R172). -/
def poisonAt (ids : List Nat) (base at_ : Nat) : Nat :=
  match (ids.filter fun n => decide (n ≤ at_)).length with
  | 0 => 0
  | n + 1 => base + n

/-- A namespace lies in one of some pools. -/
def nsIn (pools : List Nat) (nsid : Nat) (s : State) : Bool := (Tbl.find s.ns nsid).any fun v => pools.contains v.pool

/-- Poison of some pools takes numbers of this head. -/
def renumberPoison (pools : List Nat) (f : Nat → Nat) (s : State) : State :=
  { s with host := { s.host with poison := s.host.poison.map fun p => if nsIn pools p.nsid s then { p with at_ := f p.at_ } else p } }

/-- The mirror copies of some pools, then their journal and stripes in flight, become this head's (R183 steps 2 and 3); the copies are reduced once the journal's maps stand. -/
def adoptPools (pools : List Nat) (tell : Bool) (s : State) : State :=
  let done := (ringOf pools s).flatMap fun e => e.2.writes
  let keep := (copiesOf pools s).filter fun e => e.2.whole && !done.contains e.1
  let own := adoptCopies tell keep s
  let s1 := renumberPoison pools (poisonAt (keep.map (·.1)) s.host.nextSeq) (replayGroups (ringOf pools s) own.2)
  let s2 := checkPeerSifs pools s1.carafe.peerSif s1
  let s3 := { s2 with
    journal := { s2.journal with peerGroups := Tbl.mapVals s2.journal.peerGroups fun _ g => if pools.contains g.pool || g.pool = 255 then { g with committed := true } else g }
    carafe := { s2.carafe with
      mirror := s2.carafe.mirror.filter fun e => !pools.contains (descPool e.2 s)
      mirrorWait := s2.carafe.mirrorWait.filter fun e => !pools.contains (descPool e.2 s)
      peerSif := s2.carafe.peerSif.filter fun e => !pools.contains e.2.pool } }
  own.1.foldl (fun s id => reduceWrite id s) s3

/-- Stripes whose opening or commit waited for the other head go on (R413). -/
def sifsAlone : List (Nat × Sif) → State → State
  | [], s => s
  | (q, x) :: l, s => sifsAlone l (if x.state = .opened then sifOpened q s else s.modSif q fun x => { x with commitAck := true, unacked := 0, commitWait := 0 })

/-- Commands that were forwarded to the other head are executed here (R413). -/
def recallForwarded : List (Nat × Inflight) → State → State
  | [], s => s
  | (id, c) :: l, s =>
    recallForwarded l (if c.away then reenter id { c with away := false, stage := .running } s else s)

/-- Commands that the lost head forwarded: those that are not whole leave with it, and none is answered (R184). -/
def dropForwarded (s : State) : State :=
  let l := s.host.inflight.filter fun e => e.2.forwarded && !e.2.mute
  squashAll l (muteAll (l.map (·.1)) s)

/-- DETAIL of PEER_TAKEOVER (R508). -/
def takeoverDetail (pools : List Nat) (s : State) : List Byte :=
  le8 (pools.map fun p => 2 ^ p).sum ++ zeros 3 ++ (List.range 8).flatMap fun p =>
    if pools.contains p then le32 (match Tbl.find s.pools p with | some x => x.ownerGen.toNat | none => 0) else zeros 4

/-- Single-head rules begin: what waited for the other head's acknowledgement goes on (R413). -/
def goAlone (s : State) : State :=
  let s1 := { s with journal := { s.journal with groups := Tbl.mapVals s.journal.groups fun _ g => { g with peerAck := true } } }
  settleAll (tryFinishAll (s1.carafe.own.map (·.1)) (sifsAlone s1.carafe.sif s1))

/-- A FAILOVER that the loss of the other head overtakes: a take-over has what it asked for, a give-back is aborted (R416). -/
def failoverEnds (s : State) : State :=
  match s.jal.hand with
  | none => s
  | some h => finishOp 0x0802 (if h.taking then replyOk [] else replyErr .aborted 0) (s.modJal fun j => { j with hand := none })

/-- Shrinks and cuts of volumes in some pools that the lost head was to make for this head's command are made here (R153, R413, R419). -/
def takeShrinks (pools : List Nat) : List (Nat × Ns) → State → State
  | [], s => s
  | (n, v) :: l, s => takeShrinks pools l (match v.shrinkTo with
      | some size => if pools.contains v.pool then shrinkHere n size v s else s
      | none => if pools.contains v.pool && decide (v.cutDone < v.cutAsked) then cutHere n .mailbox v (s.modNs n fun v => { v with cutDone := v.cutAsked }) else s)

/-- What the lost head had open is gone (R186, R197). -/
def forgetPeer (s : State) : State := { s with slices := Tbl.mapVals s.slices fun _ x => { x with peerPairs := 0, peerLogging := false } }

/-- Takeover (R183, R411, R413, R415): the groups go to Change, the pools are claimed, whole copies committed, the mirrored journal replayed, the groups Optimized; the head is then ALONE and raises PEER_LOST. -/
def takeover (s : State) : State :=
  let pools := foreignPools s
  let s1 := goAlone (dropForwarded (setAnas .change pools (setPeerState .takeover s)))
  let s2 := adoptPools pools false (claimPools pools s1)
  let s3 := recallForwarded s2.host.inflight (openPools pools (resumeRepls (replsIn pools s2) s2))
  let back := (s3.pools.filter fun e => e.2.owned && e.2.ana = .change).map (·.1)
  let s4 := if pools = [] then s3 else event 2 0x51 (takeoverDetail pools s3) s3
  raiseAlarm 0x80 (setPeerState .alone (failoverEnds (takeShrinks pools s4.ns (forgetPeer (openPools back s4)))))

/-- The loss of the peer as MIRRORED and PARTITIONED see it (R411). -/
def peerLost (s : State) : State := if s.peerState = .mirrored ∨ s.peerState = .partitioned then takeover s else s

/-- PEER_ALIVE reads deasserted and is not latched (R57, R411). -/
def peerGone (s : State) : Bool := !peerAlive s

/-- The peer stays silent while PEER_ALIVE stands (R414): its groups are Inaccessible here. -/
def partition (s : State) : State := setAnas .inaccessible (foreignPools s) (setPeerState .partitioned s)

/-! ## Hand-over of pools while both heads run (R183, R416) -/

/-- A command holds or waits for a lock in a pool. -/
def poolBusy (s : State) (pool : Nat) : Bool :=
  s.host.privet.any fun e => match Tbl.find s.ns e.2.nsid with
    | some v => decide (v.pool = pool)
    | none => false

/-- A pool leaves this head: its staged data and what the Grinder holds of it go with the other head's copy. -/
def releasePool (pool : Nat) (s : State) : State :=
  let gone := (s.carafe.own.filter fun e => descPool e.2 s = pool).map (·.1)
  let s1 := { s with
    carafe := { s.carafe with own := s.carafe.own.filter fun e => !gone.contains e.1 }
    grinder := { s.grinder with
      ready := s.grinder.ready.filter fun u => !gone.contains u.write
      batches := Tbl.mapVals s.grinder.batches fun _ b => { b with units := b.units.filter fun u => !gone.contains u.write } } }
  setAna pool .nonOptimized (vaultSetRecompute (renumberPoison [pool] (fun _ => 0) (s1.modPool pool fun p => { p with owned := false })))

/-- Hand the pools of a list whose commands have finished to the other head; they wait for its answer. -/
def givePools : List Nat → State → State
  | [], s => s
  | pool :: ps, s =>
    givePools ps (match Tbl.find s.pools pool with
      | none => s
      | some p => if p.owned && !poolBusy s pool then releasePool pool (jalSend (.ownership pool true p.ownerGen) s) else s)

/-- A hand-over goes on (R183): checked when it starts and at every HEARTBEAT sent. -/
def handSettle (s : State) : State :=
  match s.jal.hand with
  | some h => if h.taking then s else givePools h.pools s
  | none => s

/-- OWNERSHIP messages without DONE for some pools: a request to their owner, or the owner's word that their hand-over begins (R183). -/
def askPools : List Nat → State → State
  | [], s => s
  | p :: ps, s => askPools ps (jalSend (.ownership p false (match Tbl.find s.pools p with | some x => x.ownerGen | none => 0)) s)

/-- Start giving pools: their groups go to Change here, and on the other head by its OWNERSHIP message (R183). -/
def startGiving (pools : List Nat) (s : State) : State :=
  handSettle (askPools pools <| setAnas .change pools (s.modJal fun j => { j with hand := some {
    pools := (match j.hand with | some h => if h.taking then [] else h.pools | none => []) ++ pools, taking := false } }))

/-- A pool of the hand-over is done; the last one ends FAILOVER. -/
def handDone (pool : Nat) (s : State) : State :=
  match s.jal.hand with
  | none => s
  | some h =>
    let rest := h.pools.filter (· ≠ pool)
    if rest = [] then finishOp 0x0802 (replyOk []) (s.modJal fun j => { j with hand := none })
    else s.modJal fun j => { j with hand := some { h with pools := rest } }

/-- This head takes a pool that the other head has let go (R183, R415). -/
def takePool (pool : Nat) (gen : W32) (s : State) : State :=
  let s1 := adoptPools [pool] true (claimPool pool gen (setAna pool .change s))
  let s2 := event 2 0x51 (takeoverDetail [pool] s1) (openPools [pool] s1)
  jalSend (.ownership pool true (match Tbl.find s2.pools pool with | some p => p.ownerGen | none => gen)) s2

/-! ## Resync (R246, R417) -/

def sendCopies : List (Nat × Desc) → State → State
  | [], s => s
  | (id, d) :: l, s => sendCopies l (if d.whole then jalSend (.mirrorData id d.nsid d.slba d.data) s else s)

def sendGroups : List (Nat × Group) → State → State
  | [], s => s
  | (n, _) :: l, s => sendGroups l (jalSend (.journalGroup n) s)

/-- The copy of an entry that goes out is the one change of it that is unacknowledged. -/
def sifAnew (x : Sif) : Sif := { x with unacked := 0, commitWait := if x.gseq ≠ 0 && !x.commitAck then 1 else 0 }

def sendSifs : List (Nat × Sif) → State → State
  | [], s => s
  | (q, _) :: l, s => sendSifs l (sifTell q (s.modSif q sifAnew))

/-- HELLO completed: JOINING; live journal, stripes in flight and dirty writes go to the peer, then RESYNC_DONE (R411, R417). -/
def startJoining (s : State) : State :=
  if s.peerState = .alone ∨ s.peerState = .partitioned then
    let whole := s.carafe.own.filter fun e => e.2.whole
    let s1 := (setPeerState .joining s).modJal fun j => { j with before := s.peerState, resync := whole.map (·.1), resyncDone := false }
    let s2 := { s1 with carafe := { s1.carafe with returning := decide (dirtyLimit s1 / 2 / 4096 < ownDirty s1) } }
    jalSend .resyncDone (sendCopies whole (sendGroups (liveGroups s2) (sendSifs s2.carafe.sif s2)))
  else s

/-- With the link up again, the other head's groups that can be reached are Non-optimized here (R181). -/
def linkBack (s : State) : State :=
  if jalServes s then
    setAnas .nonOptimized ((foreignPools s).filter fun p => (Tbl.find s.pools p).any fun x => x.ana = .inaccessible && !x.offline && (poolMembers x).any (reachable s)) s
  else s

/-- With the last sub-link to the other head down, its groups are Inaccessible here (R181). -/
def linkGone (s : State) : State :=
  if peerPresent s && peerSubs s = [] then
    setAnas .inaccessible ((foreignPools s).filter fun p => (Tbl.find s.pools p).any fun x => x.ana = .nonOptimized) s
  else s

/-- Every resync copy is acknowledged and the peer has said RESYNC_DONE: MIRRORED (R411, R181). -/
def checkMirrored (s : State) : State :=
  if s.peerState = .joining ∧ s.jal.resync = [] ∧ s.jal.resyncDone = true then
    linkBack (setPeerState .mirrored s)
  else s

/-! ## Sub-links (R404 to R407) -/

/-- Domain of a sub-link's peer port. -/
def subDomain (n : Nat) : Nat := peerDomain (n / 2)

def jalErr (n seq : Nat) : ErrObs := plainErr 0x0205 (subDomain n) n 0 n seq

/-- Send frames again, with RETX (R406, R407). -/
def resendJal (n : Nat) : List JalFrame → State → State
  | [], s => s
  | f :: fs, s => resendJal n fs (emit (.jal n (jalBytes s.jal.version f.seq (s.sub n).rxSeq true f.piece)) s)

/-- A frame lies before a cumulative ACK, modulo 2^32. -/
def ackedFrame (ack : Nat) (f : JalFrame) : Bool := decide ((f.seq + 2 ^ 32 - ack % 2 ^ 32) % 2 ^ 32 ≥ 2 ^ 31)

/-- Acknowledged frames leave; one that had failed once was a transient fault (R407, R489). -/
def jalAcked (n ack : Nat) (s : State) : State :=
  let gone := (s.sub n).unacked.filter (ackedFrame ack)
  let s1 := s.modSub n fun l => { l with unacked := l.unacked.filter fun f => !ackedFrame ack f }
  let s2 := gone.foldl (fun s f => if f.failedOnce then transientFault (jalErr n f.seq) s else s) s1
  if gone = [] then s2 else jalFlow s2

/-- A sub-link enters RETRAIN. -/
def jalRetrain (n : Nat) (s : State) : State := if (s.sub n).state = .up then s.modSub n fun l => { l with state := .retrain } else s

/-- Without a link to the peer it issues no commands for this head: pages on their way through it are sent again, and reads through it go to other strips (R297, R335, R336). -/
def proxyGone (s : State) : State :=
  let via := (s.kports.filter fun e => e.2.peerUp && e.2.state ≠ .up && e.2.state ≠ .retrain).map (·.1)
  let out := fun (s : State) (n : Nat) => ((s.mod n).media.verify.filter fun e => !e.2.answered).map (·.1)
  let s1 := { s with kports := Tbl.mapVals s.kports fun _ k => { k with peerUp := false } }
  let s2 := via.foldl (fun s n => (out s n).foldl (fun s p => kamOrphan n false (.program 0 p false []) s) s) s1
  kamAlarms (jobsLost (fun x => via.contains x.1) s2)

/-- Without a sub-link to the peer, what waits for it is dropped and the messages are numbered anew (log entry 197). -/
def linkEmpty (s : State) : State :=
  if peerSubs s = [] then
    proxyGone (s.modJal fun j => { j with waiting := j.waiting.filter (fun p => p.cls = 3 && p.home.isSome), txMsg := [0, 0, 0, 0], rxMsg := [0, 0, 0, 0], early := [] })
  else s

/-- A sub-link goes DOWN: its frames are resent on the other sub-links to the peer (R407). -/
def subDown (n : Nat) (s : State) : State :=
  let moved := (s.sub n).unacked.map fun f => { f.piece with home := none }
  let bound := fun (p : JalPiece) => if p.home = some n then { p with home := none } else p
  let s1 := s.modJal fun j => { j with
    waiting := if (s.sub n).cross then j.waiting.filter (fun p => p.home ≠ some n) else moved ++ j.waiting.map bound }
  jalFlow (linkEmpty (linkGone (s1.modSub n fun l => { l with
    state := .down, unacked := [], txSeq := 0, rxSeq := 0, ackDue := false, nakSent := false, retrainFails := 0, partner := none, credit := (4, 2, 1), crossMsg := 0 })))

def subsDown : List Nat → State → State
  | [], s => s
  | n :: ns, s => subsDown ns (subDown n s)

/-- A peer port is lost: fenced or switched off. -/
def peerPortDown (i : Nat) (s : State) : State := subsDown [2 * i, 2 * i + 1] s

/-- The frames of a message on one sub-link (R407): in order they are accepted; frames that have come before are acknowledged again; a gap draws one NAK. Answers whether all of them are here. -/
def jalPart (p : JalPart) (s : State) : State × Bool :=
  let l := s.sub p.sub
  if l.state ≠ .up || l.cross then (s, false)
  else
    let now := s.time.toNat
    let s1 := jalAcked p.sub p.ack ((s.modSub p.sub fun l => { l with lastFrame := now }).modJal fun j => { j with heard := some now })
    let due := fun (l : SubLink) => { l with ackDue := true, ackFrom := if l.ackDue then l.ackFrom else now }
    if p.seq % 2 ^ 32 = l.rxSeq then (s1.modSub p.sub fun l => due { l with rxSeq := (l.rxSeq + p.frames) % 2 ^ 32, nakSent := false }, true)
    else if 2 ^ 31 ≤ (p.seq + 2 ^ 32 - l.rxSeq) % 2 ^ 32 then (s1.modSub p.sub due, true)
    else if l.nakSent then (s1, false)
    else (emit (.jalNak p.sub l.rxSeq) (s1.modSub p.sub fun l => { l with nakSent := true }), false)

def jalParts : List JalPart → State → State × Bool
  | [], s => (s, true)
  | p :: ps, s =>
    let a := jalPart p s
    let b := jalParts ps a.1
    (b.1, a.2 && b.2)

end Sys2Proof.Machine
end

