-- ==== Sys2Proof/Machine/Peer.lean ====
section
/-! DEFINITION. Machine/Peer.lean: the Jalras link, the peer and FAILOVER (R402 to R417). -/
namespace Sys2Proof.Machine
open Sys2Proof

/-! ## Bringing a sub-link up (R402, R403, R405, R410) -/

/-- A chip without a chain position keeps its Jalras ports in DETECT (R402). -/
def jalReady (s : State) (sub : Nat) : Bool := s.chain.position.isSome && !s.jal.refused && hasBit s.power.on (subDomain sub)

/-- The pair index: bits 3 to 1 of the chain position (R402). -/
def pairIndex (s : State) : Nat := (s.chain.position.getD 0).toNat / 2

/-- JALRAS_TRAINING_DONE: HELLO goes out (R405). -/
def execJalrasTrainingDone (sub : Fin 4) (s : State) : Res := onRun s fun s =>
  let st := (s.sub sub).state
  if jalReady s sub && (st = .detect || st = .training || st = .down) then
    jalHello sub (s.modSub sub fun l => { l with state := .hello, txSeq := 0, rxSeq := 0, unacked := [], ackDue := false, nakSent := false })
  else s

/-- A partner of the other pair of a four-chip board, on lanes 8 to 15: same head index on port 0, the other on port 1 (R405). -/
def isCross (s : State) (sub : Nat) (h : JalHello) : Bool :=
  sub % 2 = 1 && h.pair ≠ pairIndex s && h.boardId = s.boot.boardId && some h.enclosure = s.chain.enclosure.map (·.toNat)
    && (if sub = 1 then h.head = headIndex s else h.head ≠ headIndex s)

/-- What is wrong with a partner, as PEER_REFUSED numbers it; 0 for nothing (R403, R508). -/
def partnerFault (s : State) (sub : Nat) (h : JalHello) : Nat :=
  if isCross s sub h then 0
  else if h.head = headIndex s then 1
  else if h.pair ≠ pairIndex s then 2
  else if h.boardId ≠ s.boot.boardId then 3
  else if some h.enclosure ≠ s.chain.enclosure.map (·.toNat) then 4
  else 0

/-- The peer link carries no traffic until a reset (R403). -/
def refusePartner (reason : Nat) (h : JalHello) (s : State) : State :=
  raiseAlarm 0x82 (event 2 0x50 (leBytes 16 s.fuses.uid.toNat ++ leBytes 16 h.uid.toNat ++ le8 reason)
    (subsDown [0, 1, 2, 3] (s.modJal fun j => { j with refused := true })))

/-- The highest value of two ranges, if there is one (R410). -/
def commonOf (lo hi lo2 hi2 : Nat) : Option Nat := let v := min hi hi2; if v < max lo lo2 then none else some v

/-- The checks of a HELLO or its reply, then what follows it (R403, R410, R17). -/
def helloChecked (sub : Nat) (h : JalHello) (f : Nat → Nat → State → State) (s : State) : State :=
  match commonOf 1 2 h.minV h.maxV, commonOf 1 2 h.journalMin h.journalMax with
  | none, _ => noCommonVersion 2 (sub / 2) 1 2 h.minV h.maxV (subDown sub s)
  | _, none => noCommonVersion 3 (sub / 2) 1 2 h.journalMin h.journalMax (subDown sub s)
  | some v, some j => match partnerFault s sub h with
    | 0 => f v j s
    | r => refusePartner r h s

/-- JALRAS_HELLO: it is answered; a partner of a new session on a link that was up starts the link over (R403, R410). -/
def execJalrasHello (sub : Fin 4) (h : JalHello) (s : State) : Res := onRun s fun s =>
  let st := (s.sub sub).state
  if !jalReady s sub || !(st = .training || st = .hello || st = .up) then s
  else helloChecked sub h (fun v j s =>
    let fresh := st = .up && !(s.sub sub).cross && h.session ≠ s.jal.peerSession
    let s1 := if fresh then jalHello sub ((subDown sub s).modSub sub fun l => { l with state := .hello }) else s
    jalHelloReply sub v j ((s1.modSub sub fun l => { l with partner := some h.uid }).modJal fun x =>
      if isCross s sub h then x else { x with peerRange := (h.minV, h.maxV, h.journalMin, h.journalMax) })) s

/-- JALRAS_HELLO_REPLY: the sub-link is UP; SERIALS follows, and a head that was alone or partitioned joins (R410, R411, R417). -/
def execJalrasHelloReply (sub : Fin 4) (h : JalHello) (s : State) : Res := onRun s fun s =>
  if !jalReady s sub || (s.sub sub).state ≠ .hello then s
  else helloChecked sub h (fun v j s =>
    let cross := isCross s sub h
    let now := s.time.toNat
    let s1 := s.modSub sub fun l => { l with state := .up, cross := cross, retrainFails := 0, lastFrame := now, partner := some h.uid, node := h.nodeId }
    if cross then s1
    else
      let s2 := s1.modJal fun x => { x with
        version := v, journalVersion := j, partnerUid := some h.uid, partnerNode := h.nodeId, peerSession := h.session, heard := some now }
      linkBack <| startJoining (jalQueue (some sub) (.serials (ownSerials s)) { s2 with journal := { s2.journal with version := j } })) s

/-! ## Frames (R404, R407) -/

/-- Resend from a frame that failed: at its second failure the sub-link retrains (R407). -/
def jalFailed (sub seq : Nat) (s : State) : State :=
  match (s.sub sub).unacked.find? fun f => f.seq = seq with
  | none => s
  | some f =>
    if f.failedOnce then jalRetrain sub (lastingFault (jalErr sub seq) s)
    else
      let again := (s.sub sub).unacked.filter fun g => decide ((g.seq + 2 ^ 32 - seq) % 2 ^ 32 < 2 ^ 31)
      let mark := fun (g : JalFrame) => if again.contains g then { g with failedOnce := g.failedOnce || decide (g.seq = seq), sentAt := s.time.toNat } else g
      let s1 := s.modSub sub fun l => { l with unacked := l.unacked.map mark }
      resendJal sub again s1

/-- JALRAS_NAK: frames before the named one are acknowledged, the rest resent (R407). -/
def execJalrasNak (sub : Fin 4) (seq : W32) (s : State) : Res := onRun s fun s =>
  if (s.sub sub).state = .up then jalFailed sub seq.toNat (jalAcked sub seq.toNat (s.modSub sub fun l => { l with lastFrame := s.time.toNat })) else s

/-- JALRAS_RETRANSMIT_TIMEOUT: the oldest frame has waited 4 µs (R407). -/
def execJalrasRetransmitTimeout (sub : Fin 4) (s : State) : Res := onRun s fun s =>
  match (s.sub sub).state, (s.sub sub).unacked with
  | .up, f :: _ => jalFailed sub f.seq (reachTime (f.sentAt + 4000) s)
  | _, _ => s

/-- JALRAS_ACK_DUE: within 1 µs of a received frame (R404). -/
def execJalrasAckDue (sub : Fin 4) (s : State) : Res := onRun s fun s =>
  let l := s.sub sub
  if l.ackDue && l.state = .up then
    emit (.jalAck sub l.rxSeq) ((reachTime (l.ackFrom + 1000) s).modSub sub fun l => { l with ackDue := false })
  else s

/-- JALRAS_SUBLINK_LOSS: 500 µs without a frame (R407). -/
def execJalrasSublinkLoss (sub : Fin 4) (s : State) : Res := onRun s fun s =>
  if (s.sub sub).state = .up then jalRetrain sub (reachTime ((s.sub sub).lastFrame + 500000) s) else s

/-- JALRAS_RETRAIN_DONE: the sub-link resumes; a second failure running takes it DOWN (R407). -/
def execJalrasRetrainDone (sub : Fin 4) (ok : Bool) (s : State) : Res := onRun s fun s =>
  let l := s.sub sub
  if l.state ≠ .retrain then s
  else if ok then
    resendJal sub l.unacked (s.modSub sub fun l => { l with
      state := .up, retrainFails := 0, lastFrame := s.time.toNat, unacked := l.unacked.map fun f => { f with failedOnce := false, sentAt := s.time.toNat } })
  else if 2 ≤ l.retrainFails + 1 then subDown sub s
  else s.modSub sub fun l => { l with retrainFails := l.retrainFails + 1 }

/-! ## Control messages (R408, R411, R412) -/

/-- FAIL_STOPPING or VAULT_NOTICE from a mirrored peer (R411). -/
def peerStops (s : State) : State := if s.peerState = .mirrored then takeover s else s

def takeJalrasHeartbeat (failStopping : Bool) (owned : Byte) (session : W32) (s : State) : State :=
  if session ≠ s.jal.peerSession then s
  else
    let s1 := s.modJal fun j => { j with peerOwned := owned }
    if failStopping then peerStops s1 else s1

def ownedMask (s : State) : Byte := BitVec.ofNat 8 ((s.pools.filter fun e => e.2.owned && decide (e.1 < 8)).map fun e => 2 ^ e.1).sum

def beatAll (failStopping : Bool) : List Nat → State → State
  | [], s => s
  | n :: ns, s => beatAll failStopping ns (jalQueue (some n) (.heartbeat s.peerState (decide (s.phase = .flushing)) failStopping (ownedMask s)) s)

/-- JALRAS_HEARTBEAT_SEND: every 100 µs on each up sub-link to the peer; a hand-over that waits for commands is looked at (R412, R183). -/
def execJalrasHeartbeatSend (s : State) : Res := onRun s fun s =>
  let s1 := reachTime (s.jal.beatAt + 100000) s
  handSettle (beatAll false (peerSubs s1) (s1.modJal fun j => { j with beatAt := s1.time.toNat }))

def takeVaultNotice (session : W32) (s : State) : State :=
  if session = s.jal.peerSession then peerStops s else s

/-- The peer's list of serial numbers is taken over one by one: zero means that it does not reach the module (R315, R335). -/
def readSerials : List (W64 × Nat) → State → State
  | [], s => s
  | (x, n) :: l, s =>
    let s1 := s.modK n fun k => { k with peerSerial := some x, peerUp := decide (x ≠ 0) }
    let own := (s.kport n).serial
    readSerials l (if own ≠ 0 && x ≠ 0 && x ≠ own && ((s.kport n).state = .up || (s.kport n).state = .retrain || (s.kport n).state = .claimed) then serialDiffers n own x s1 else s1)

/-- SERIALS (R315): strips that waited for a module leave through a peer that reaches it now (R335). -/
def takeSerials (list : List W64) (s : State) : State :=
  let s1 := kamAlarms (serialAlarm (readSerials ((list.take 96).zipIdx) (s.modJal fun j => { j with serials := list })))
  ((s1.kports.filter fun e => e.2.peerUp && e.2.state ≠ .up && e.2.state ≠ .retrain && !(s.kport e.1).peerUp).map (·.1)).foldl (fun s n => drainWait n s) s1

/-- OWNERSHIP (R183, R415): a request for a pool of this head; word that the other head's hand-over of a pool begins, which puts its group into Change here too; or a pool that the other head has let go, or has taken. -/
def takeOwnership (pool : Fin 8) (done : Bool) (gen : W32) (s : State) : State :=
  match Tbl.find s.pools pool with
  | none => s
  | some p =>
    if !done then (if p.owned then startGiving [pool] s else setAna pool .change s)
    else if p.owned then s
    else match s.jal.hand with
      | some h =>
        if !h.taking && h.pools.contains pool.val then
          event 0 0x52 (le8 (2 ^ pool.val)) (handDone pool (s.modPool pool fun p => { p with ownerGen := gen }))
        else handDone pool (takePool pool gen s)
      | none => takePool pool gen s

/-- RESYNC_DONE: the peer's replay is complete, and copies that a vault restored here and that it has not sent anew are released (R275, R417). -/
def takeResyncDone (session : W32) (s : State) : State :=
  if session = s.jal.peerSession then
    let s1 := { s with carafe := { s.carafe with mirror := s.carafe.mirror.filter fun e => !s.carafe.restored.contains e.1, restored := [] } }
    checkMirrored ((vaultSpent (vaultSetRecompute s1)).modJal fun j => { j with resyncDone := true })
  else s

/-! ## Journals (R258, R261, R264, R417) -/

/-- SIF_UPDATE: the entry, or none when it is retired (R264). -/
def takeSifUpdate (seq : Nat) (x : Option Sif) (s : State) : State :=
  let t := match x with
    | some e => Tbl.set s.carafe.peerSif seq e
    | none => Tbl.del s.carafe.peerSif seq
  jalSend (.sifAck seq) { s with carafe := { s.carafe with peerSif := t } }

/-- The oldest unacknowledged change of an entry is acknowledged: its opening, its commit, or one that nothing waits for (R264). -/
def sifAcked (x : Sif) : Sif :=
  { x with unacked := x.unacked - 1, commitWait := x.commitWait - 1, commitAck := x.commitAck || (x.gseq ≠ 0 && decide (x.commitWait ≤ 1)) }

def takeSifAck (seq : Nat) (s : State) : State :=
  let s1 := s.modSif seq sifAcked
  if (s.sifAt seq).any fun x => x.state = .opened then sifOpened seq s1 else s1

/-- Set or delete entries of a table. -/
def setEach (t : Tbl α) : List (Nat × Option α) → Tbl α
  | [] => t
  | (n, some x) :: l => setEach (Tbl.set t n x) l
  | (n, none) :: l => setEach (Tbl.del t n) l

/-- A slice's record from the other head over this head's own entry: the table's fields and the deferred errors follow the record, the shares of this head's engine, its dirty-page log and its run of a reset stay; a run that the other head began ends with the record that shows the slice Active again (R196, R202). -/
def mergeSlice (old : Option Slice) (x : Slice) : Slice :=
  match old with
  | none => { x with
      deficit := 0, quantum := x.weight, peerPairs := 0, peerLogging := x.dirty.isSome, wrote := [], nssro := false
      dirty := none, dirtyStop := none, run := none, state := .active }
  | some o =>
    let ends := o.run.any fun r => !r.mine && r.torn && decide (x.state = .active)
    { x with
      deficit := o.deficit, quantum := o.quantum, peerPairs := o.peerPairs, peerLogging := x.dirty.isSome, wrote := o.wrote, nssro := o.nssro
      dirty := o.dirty, dirtyStop := o.dirtyStop
      run := if ends then none else o.run, state := if ends then .active else o.state }

/-- One slice of the other head's records (R175, R185, R201). -/
def applySlice (e : Nat × Option Slice) (s : State) : State :=
  match e.2 with
  | none => if Tbl.has s.slices e.1 then releaseSlice e.1 s else s
  | some x =>
    let fresh := sliceTotal e.1 s < x.total
    let s1 := { s with slices := Tbl.set s.slices e.1 (mergeSlice (Tbl.find s.slices e.1) x) }
    if fresh then notifyAll noticeDeferred (sliceCtrls e.1 s1) s1 else s1

def applySlices : List (Nat × Option Slice) → State → State
  | [], s => s
  | e :: es, s => applySlices es (applySlice e s)

/-- The shape of a namespace, whose change raises a notice (R153). -/
def nsShape (v : Ns) : Nat × Nat × Bool := (v.slice, v.size, v.fmt512)

/-- A namespace's record over this head's own entry: its map and its content are those of the head that owns its pool. -/
def mergeNs (owned : Bool) (old : Option Ns) (x : Ns) : Ns :=
  match old with
  | some o =>
    if owned then { x with blocks := o.blocks, map := o.map, pages := o.pages, shrinkFor := o.shrinkFor, cutDone := o.cutDone }
    else { x with shrinkFor := false, cutAsked := o.cutAsked }
  | none => { x with shrinkFor := false }

/-- A shrink between the heads (R153, R162): the owner takes the lock for the other head's command; the head that has the command answers it once the owner's record shows the volume shrunk. -/
def shrinkAcross (nsid : Nat) (old : Option Ns) (s : State) : State :=
  match old, Tbl.find s.ns nsid with
  | some o, some v =>
    if ownsPool s v.pool then
      match v.shrinkTo with
      | some size => if o.shrinkTo.isNone then shrinkHere nsid size v (s.modNs nsid fun v => { v with shrinkFor := true }) else s
      | none => s
    else if o.shrinkTo = some v.size && v.shrinkTo.isNone then finishOp 0x0403 (replyOk []) s
    else s
  | _, _ => s

/-- The owner takes the lock for a cut that the other head asks for (R162, R419). -/
def cutAcross (nsid : Nat) (old : Option Ns) (s : State) : State :=
  match old, Tbl.find s.ns nsid with
  | some o, some v => if ownsPool s v.pool && decide (o.cutAsked < v.cutAsked) then cutHere nsid .peer v s else s
  | _, _ => s

/-- The head that asked for a cut answers its command with the epoch that the owner's records show, or with BUSY where none was cut in time (R419). -/
def cutAnswer (before : Tbl Ns) (views : List (Nat × Option Snap)) (s : State) : State :=
  match s.ns.find? fun e => !ownsPool s e.2.pool && e.2.cutAsked = e.2.cutDone && (Tbl.find before e.1).any fun o => decide (o.cutDone < e.2.cutDone) with
  | none => s
  | some e => match views.find? fun x => x.2.any fun w => w.nsid = e.1 && !w.held with
    | some x => finishOp 0x0701 (replyOk (le64 x.1)) s
    | none => finishOp 0x0701 (replyErr .busy 0) s

/-- A view that the other head has removed; this head frees what it named in pools of its own (R222, R422). -/
def viewGone (before s : State) (e : Nat × Option Snap) : State :=
  match e.2, Tbl.find before.snaps.views e.1 with
  | none, some w => treeGone ((Tbl.find s.ns w.nsid).elim 255 (·.pool)) w.map { s with snaps := { s.snaps with views := Tbl.set s.snaps.views e.1 w } } s
  | _, _ => s

/-- One namespace of the other head's records; its slice's controllers here learn of a change (R144, R153). -/
def applyNs (e : Nat × Option Ns) (s : State) : State :=
  let old := Tbl.find s.ns e.1
  let s1 := match e.2, old with
    | some x, _ => cutAcross e.1 old (shrinkAcross e.1 old { s with ns := Tbl.set s.ns e.1 (mergeNs (ownsPool s x.pool) old x) })
    | none, some v => removeVolume e.1 v (dropNsWork e.1 s)
    | none, none => s
  if old.map nsShape = e.2.map nsShape then s1
  else match e.2, old with
    | some x, _ => tellNsChanged x.slice e.1 s1
    | none, some x => tellNsChanged x.slice e.1 s1
    | none, none => s1

def applyNss : List (Nat × Option Ns) → State → State
  | [], s => s
  | e :: es, s => applyNss es (applyNs e s)

/-- The other head has begun a reset or removal of a slice: this head does its part (R196, R198). -/
def joinReset (n : Nat) (squash deleting : Bool) (s : State) : State :=
  match Tbl.find s.slices n with
  | some x => if x.run.isSome then s else finishReset n (startReset n { squash := squash, deleting := deleting, mine := false } s)
  | none => s

def joinResets (c : PairConfig) : List (Nat × Bool) → State → State
  | [], s => s
  | (n, squash) :: l, s =>
    joinResets c l (joinReset n squash (c.slices.any fun e => e.1 = n && e.2.any fun x => x.state = .deleting) s)

/-- The other head has done its part of resets that began here (R198 step 5). -/
def peersDone : List (Nat × Nat) → State → State
  | [], s => s
  | (n, count) :: l, s => peersDone l (finishReset n (s.modSlice n fun x => { x with run := x.run.map fun r => { r with peer := some count } }))

/-- A mirrored KEY_BIND record of an index (R448, R449): a destroyed index leaves with its slots; a key that this head's KTWK does not unwrap is unusable here. -/
def applyKey (x : Nat × Option KeyEnt) (s : State) : State :=
  match x.2 with
  | none => keyLimitAlarm (dropKey x.1 s)
  | some e =>
    let fresh := match Tbl.find s.cipher.keys x.1 with
      | some o => decide (o.cur.gen ≠ e.cur.gen)
      | none => true
    let s1 := s.ciph fun c => { c with keys := Tbl.set c.keys x.1 e }
    let s2 := keyLimitAlarm (if fresh then rekeyed x.1 s1.repls s1 else s1)
    if (genPlain s1 x.1 e.cur).isSome then recheckKeys s2 else ktwkMismatch (keyUnusable x.1 e.cur.gen 2 s2)

/-- A mirrored KEY_BIND record of a KTWK rotation is applied in the same way (R446). -/
def applyKtwk (w : List Byte) (s : State) : State :=
  match s.cipher.ktwk with
  | none => ktwkMismatch s
  | some k => match unwrapAs k w 3 ktwkIndex with
    | some (plain, _) => recheckKeys (rekeyTable k (plain.take 32) s)
    | none => ktwkMismatch s

/-- A mirrored POOL record: what the other head says of a pool that this head does not own. -/
def applyPool (e : Nat × Option Pool) (s : State) : State :=
  match Tbl.find s.pools e.1, e.2 with
  | some o, some p => if o.owned then s else { s with pools := Tbl.set s.pools e.1 { p with owned := false, created := o.created, ana := o.ana, fenced := o.fenced, checking := o.checking } }
  | some o, none => if o.owned then s else { s with pools := Tbl.del s.pools e.1 }
  | none, some p => { s with pools := Tbl.set s.pools e.1 { p with
      owned := false, created := false, fenced := false, ana := if jalServes s && !poolShut s p then .nonOptimized else .inaccessible } }
  | none, none => s

/-- The keys, pools and shares of the other head's records. -/
def applyTables (c : PairConfig) (s : State) : State :=
  let s1 := c.pools.foldl (fun s e => applyPool e s) s
  let s2 := c.keys.foldl (fun s e => applyKey e s) (match c.ktwk with | some w => applyKtwk w s1 | none => s1)
  c.shares.foldl (fun s x => s.modAct x.1 fun a => { a with newShare := x.2.1, newCeiling := x.2.2 }) s2

/-- The other head's pair-wide and replication records take effect (R256, R418, R439). -/
def applyConfig (c : PairConfig) (s : State) : State :=
  let s1 := applyNss c.ns (applySlices c.slices s)
  let s2 := { s1 with
    slices := c.pairs.foldl (fun t x => Tbl.upd t x.1 fun sl => { sl with peerPairs := x.2 }) s1.slices
    repls := setEach s1.repls c.repls
    snaps := { s1.snaps with views := setEach s1.snaps.views c.views, next := c.views.foldl (fun n e => max n (e.1 + 1)) s1.snaps.next } }
  let s3 := cutAnswer s.ns c.views (c.views.foldl (viewGone s1) s2)
  peersDone c.resetsDone (joinResets c c.resets (applyTables c s3))

/-- The THROUGH_GSEQ of a group's COMPACT record. -/
def compactOf (g : Group) : Option Nat := g.effects.findSome? fun e => match e with
  | .compact n => some n
  | _ => none

/-- What the other head has compacted is on flash: those groups leave the copy of its ring (R259, R261). -/
def compactPeer (through : Nat) (s : State) : State :=
  let old := s.journal.peerGroups.filter fun e => decide (e.1 ≤ through) && !e.2.committed
  { replayGroups old s with journal := { s.journal with peerGroups := s.journal.peerGroups.filter fun e => decide (through < e.1) } }

/-- JOURNAL_GROUP: stored in the copy of the peer's ring and acknowledged; a head that has come back drops the copies that it shows as committed (R258, R417). -/
def takeJournalGroup (gseq : Nat) (g : Group) (cfg : PairConfig) (s : State) : State :=
  let s1 := applyConfig cfg { s with journal := { s.journal with peerGroups := Tbl.set s.journal.peerGroups gseq { g with whole := true, committed := false } } }
  let s2 := if s.peerState = .joining then { s1 with carafe := { s1.carafe with mirror := s1.carafe.mirror.filter fun e => !g.writes.contains e.1 } } else s1
  let s3 := match compactOf g with
    | some n => compactPeer n s2
    | none => s2
  jalSend (.journalAck gseq) s3

def takeJournalAck (gseq : Nat) (s : State) : State :=
  { s with journal := { s.journal with groups := Tbl.upd s.journal.groups gseq fun g => { g with peerAck := true } } }

/-! ## Mirror copies (R30, R244, R245) -/

def takeRelease (seqs : List Nat) (s : State) : State :=
  vaultSpent (vaultSetRecompute (mirrorFlow { s with carafe := { s.carafe with
    mirror := s.carafe.mirror.filter fun e => !seqs.contains e.1, mirrorWait := s.carafe.mirrorWait.filter fun e => !seqs.contains e.1 } }))

/-- MIRROR_DATA: the copy waits for the mirror area, or is staged whole and acknowledged (R244). -/
def takeMirrorData (m : MirrorMsg) (s : State) : State :=
  let s := { s with carafe := { s.carafe with restored := s.carafe.restored.filter (· ≠ m.seq) } }
  let d : Desc := { nsid := m.nsid, whole := true, origin := m.origin, granules := granules m.bytes, slba := m.slba, bytes := m.bytes, data := m.data }
  mirrorFlow { s with carafe := { s.carafe with mirrorWait := s.carafe.mirrorWait ++ [(m.seq, d)] } }

def ackWrites : List Nat → State → State
  | [], s => s
  | id :: ids, s => ackWrites ids (s.modOwn id fun d => { d with peerAck := true })

/-- MIRROR_ACK: the named writes may complete; resync copies are counted off (R30, R411). -/
def takeMirrorAck (seqs : List Nat) (s : State) : State :=
  let s1 := (ackWrites seqs s).modJal fun j => { j with resync := j.resync.filter fun n => !seqs.contains n }
  checkMirrored (if s1.peerState = .partitioned then s1 else tryFinishAll seqs s1)

/-! ## Forwarded commands and media proxying (R162, R335) -/

/-- The other head's command, checked here, takes its entry (R157, R161, R162). -/
def forwardIn (id slice : Nat) (e : SubEntry) (s : State) : State :=
  let no := fun (st : NStatus) => jalSend (.forwardRsp id st.sct st.sc []) s
  if !(Tbl.find s.slices slice).any (fun x => x.state = .active || x.run.any fun r => !r.squash) then no nsAborted
  else match fetchCheck none slice e s, e.op with
    | .execute, some op => enterCmd { asInflight 0 0 slice op e with forwarded := true, cid := id } s
    | .refuse st, _ => no st
    | _, _ => no nsAnaTransition

/-- The Abort of a forwarded command: it leaves while it waits for its entry or its lock (R164). -/
def forwardAborted (id : Nat) (s : State) : State :=
  match s.host.inflight.find? fun e => e.2.forwarded && e.2.cid = id with
  | some (n, c) => if c.stage = .lockWait || c.stage = .entryWait then completeCmd n nsAborted (leaveEntry n c s) else s
  | none => s

/-- FORWARD_CMD: the other head's command, whose data, where it has any, arrives as a staged write's does (R162), or the Abort of one. -/
def takeForwardCmd (id slice : Nat) (e : Option SubEntry) (s : State) : State :=
  match e with
  | some e => forwardIn id slice e s
  | none => forwardAborted id s

/-- The data of a forwarded read or compare goes to the host, with the checks of this head (R162, R168). -/
def forwardedData (id : Nat) (c : Inflight) (data : List Nat) (s : State) : State := countHost id (cmdBytes c s) (if data = [] then s else sendData c data s)

/-- FORWARD_RSP: the owner's completion goes to the host, with the data of a read; a Flush is judged here, and a fault enters the log of the host's controller (R162, R168, R171, R178). -/
def takeForwardRsp (id sct sc : Nat) (err : Option (Nat × Nat)) (data : List Nat) (s : State) : State :=
  match cmdAt s id with
  | none => s
  | some c =>
    if !c.away then s
    else if c.op = .flush && (sct, sc) = (0, 0) then finishFlush id c s
    else if data ≠ [] && listBad c s then failTransfer id c locPrp2 s
    else
      let s1 := forwardedData id c data s
      completeCmd id ⟨sct, sc⟩ (match err with
        | some (location, lba) => errLog c.ctrl c ⟨sct, sc⟩ location lba s1
        | none => s1)

/-- PROXY_MEDIA: issued on this head's own port with PROXY set (R335). -/
def takeProxyMedia (module : Fin 96) (cmd : KCmd) (gen : W32) (s : State) : State :=
  if (s.kport module).state = .up || (s.kport module).state = .retrain then kamSend module (.proxy cmd gen) s else s

/-- PROXY_RSP: the answer to a command that went through the peer (R335). -/
def takeProxyRsp (module : Fin 96) (cmd : KCmd) (st : KStatus) (temp : Byte) (held : W32) (s : State) : State :=
  match cmd with
  | .read a sense _ mask bg => readAnswer module a sense mask bg st s
  | .program 0 a _ _ => programAnswer module a st temp held s
  | .program _ _ _ _ => poolsCreated (if st = .ownerFenced then ownerFenced module held (bumpK module 13 1 s) else s)
  | .erase area a => eraseAnswer module area a st held s
  | .threshLoad die set offs => threshAnswer module die set offs st s
  | .claim _ _ => if st = .ownerFenced then ownerFenced module held (bumpK module 13 1 s) else s
  | _ => s

/-! ## The partition time (R411, R414) -/

/-- PEER_PARTITION_TIMEOUT: 50 ms without a frame from the peer. -/
def execPeerPartitionTimeout (s : State) : Res := onRun s fun s =>
  match s.jal.heard with
  | none => s
  | some t =>
    let s1 := reachTime (t + 50000000) s
    match s.peerState with
    | .joining =>
      let s2 := (setPeerState s.jal.before s1).modJal fun j => { j with resync := [], resyncDone := false }
      if s.jal.before = .partitioned && peerGone s2 then takeover s2 else s2
    | .mirrored => if peerGone s1 then takeover s1 else partition s1
    | _ => s1

/-! ## Mailbox commands (R142, R416) -/

/-- Peer ports with an up sub-link to the peer, as a mask (JALRAS_UP; log entry 13). -/
def jalrasUp (s : State) : Nat := flag 0 ((peerSubs s).any fun n => n / 2 = 0) + flag 1 ((peerSubs s).any fun n => n / 2 = 1)

/-- PEER_STATUS_GET (R411, R412). The age before any frame has come from the peer is not stated. -/
def execPeerStatusGet (h : MbxHdr) (s : State) : Res := onRun s fun s =>
  mbxStart ⟨0x0801, 2, false, .other, false⟩ h [] (fun s =>
    let a : Nat × State := match s.jal.heard with
      | some t => (min 0xFFFFFFFF ((s.time.toNat - t) / 1000), s)
      | none => draw s
    (some (replyOk (le8 (peerStNum s.peerState) ++ le8 (jalrasUp s) ++ zeros 2 ++ le32 a.1 ++ le64 (mirrorDirty s * 4096))), a.2)) s

/-- FAILOVER OP 0, and any OP above 1, which is refused (R142, R416); in JOINING and TAKEOVER the table names no action: BUSY (log entry 14). -/
def execFailoverTakeOver (h : MbxHdr) (op : Byte) (s : State) : Res := onRun s fun s =>
  mbxStart ⟨0x0802, 2, true, .other, false⟩ h [.num 0 1 op.toNat] (fun s =>
    if op ≠ 0 then (some (fieldAt 0), s)
    else match s.peerState with
    | .alone => (some (replyOk []), s)
    | .partitioned => (some (replyOk []), takeover s)
    | .mirrored =>
      let pools := foreignPools s
      if pools = [] then (some (replyOk []), s)
      else (none, askPools pools (s.modJal fun j => { j with hand := some { pools := pools, taking := true } }))
    | _ => (some (replyErr .busy 0), s)) s

/-- FAILOVER OP 1 (R416). -/
def execFailoverGiveBack (h : MbxHdr) (s : State) : Res := onRun s fun s =>
  mbxStart ⟨0x0802, 2, true, .other, false⟩ h [.num 0 1 1] (fun s =>
    if s.peerState ≠ .mirrored then (some (replyErr .refusedState 0), s)
    else
      let pools := (s.pools.filter fun e => e.2.owned && !e.2.created && !e.2.deleting).map (·.1)
      if pools = [] then (some (replyOk []), s) else (none, startGiving pools s)) s

/-! ## Messages of the peer in the order of their class (R407 to R409) -/

/-- CLASS of a message. -/
def jalClass : JalMsg → Nat
  | .heartbeat _ _ _ | .vaultNotice _ | .serials _ | .ownership _ _ _ | .resyncDone _ => 0
  | .sifUpdate _ _ | .sifAck _ | .journalGroup _ _ _ | .journalAck _ | .release _ => 1
  | .mirrorData _ | .mirrorAck _ => 2
  | .forwardCmd _ _ _ | .forwardRsp _ _ _ _ _ | .proxyMedia _ _ _ | .proxyRsp _ _ _ _ _ => 3

/-- What a message does when it is handed over. -/
def jalDeliver (m : JalMsg) (s : State) : State :=
  match m with
  | .heartbeat failStopping owned session => takeJalrasHeartbeat failStopping owned session s
  | .vaultNotice session => takeVaultNotice session s
  | .serials list => takeSerials list s
  | .ownership pool done gen => takeOwnership pool done gen s
  | .resyncDone session => takeResyncDone session s
  | .sifUpdate seq x => takeSifUpdate seq x s
  | .sifAck seq => takeSifAck seq s
  | .journalGroup gseq g cfg => takeJournalGroup gseq g cfg s
  | .journalAck gseq => takeJournalAck gseq s
  | .release seqs => takeRelease seqs s
  | .mirrorData m => takeMirrorData m s
  | .mirrorAck seqs => takeMirrorAck seqs s
  | .forwardCmd id slice e => takeForwardCmd id slice e s
  | .forwardRsp id sct sc err data => takeForwardRsp id sct sc err data s
  | .proxyMedia module cmd gen => takeProxyMedia module cmd gen s
  | .proxyRsp module cmd st temp held => takeProxyRsp module cmd st temp held s

/-- The next message of a class is being handed over. -/
def jalTurn (c : Nat) (s : State) : State := s.modJal fun j => { j with rxMsg := j.rxMsg.set c ((j.rxMsg.getD c 0 + 1) % 2 ^ 32) }

def jalHand (m : JalMsg) (s : State) : State := jalDeliver m (jalTurn (jalClass m) s)

/-- Messages that came early follow while each is the next of its class. -/
def jalFollow (c : Nat) : Nat → State → State
  | 0, s => s
  | f + 1, s => match s.jal.early.find? fun e => e.1 = c && e.2.1 = s.jal.rxMsg.getD c 0 with
    | some e => jalFollow c f (jalHand e.2.2 (s.modJal fun j => { j with early := j.early.erase e }))
    | none => s

def jalThen (c : Nat) (s : State) : State := jalFollow c s.jal.early.length s

/-- A message of the peer: with all of its frames here it is handed over in its turn, kept until its turn, or ignored where it has been handed over before. -/
def onJal (rx : JalRx) (m : JalMsg) (s : State) : State :=
  let r := jalParts rx.parts s
  let c := jalClass m
  let next := r.1.jal.rxMsg.getD c 0
  if !r.2 || rx.parts = [] then r.1
  else if rx.msgSeq = next then jalThen c (jalHand m r.1)
  else if (rx.msgSeq + 2 ^ 32 - next) % 2 ^ 32 < 2 ^ 31 && !r.1.jal.early.any (fun e => e.1 = c && e.2.1 = rx.msgSeq) then
    r.1.modJal fun j => { j with early := j.early ++ [(c, rx.msgSeq, m)] }
  else r.1

def execJalrasHeartbeat (rx : JalRx) (failStopping : Bool) (owned : Byte) (session : W32) (s : State) : Res := onRun s (onJal rx (.heartbeat failStopping owned session))
def execVaultNotice (rx : JalRx) (session : W32) (s : State) : Res := onRun s (onJal rx (.vaultNotice session))
def execSerials (rx : JalRx) (list : List W64) (s : State) : Res := onRun s (onJal rx (.serials list))
def execOwnership (rx : JalRx) (pool : Fin 8) (done : Bool) (gen : W32) (s : State) : Res := onRun s (onJal rx (.ownership pool done gen))
def execResyncDone (rx : JalRx) (session : W32) (s : State) : Res := onRun s (onJal rx (.resyncDone session))
def execSifUpdate (rx : JalRx) (seq : Nat) (x : Option Sif) (s : State) : Res := onRun s (onJal rx (.sifUpdate seq x))
def execSifAck (rx : JalRx) (seq : Nat) (s : State) : Res := onRun s (onJal rx (.sifAck seq))
def execJournalGroup (rx : JalRx) (gseq : Nat) (g : Group) (cfg : PairConfig) (s : State) : Res := onRun s (onJal rx (.journalGroup gseq g cfg))
def execJournalAck (rx : JalRx) (gseq : Nat) (s : State) : Res := onRun s (onJal rx (.journalAck gseq))
def execRelease (rx : JalRx) (seqs : List Nat) (s : State) : Res := onRun s (onJal rx (.release seqs))
def execMirrorData (rx : JalRx) (m : MirrorMsg) (s : State) : Res := onRun s (onJal rx (.mirrorData m))
def execMirrorAck (rx : JalRx) (seqs : List Nat) (s : State) : Res := onRun s (onJal rx (.mirrorAck seqs))
def execForwardCmd (rx : JalRx) (id slice : Nat) (e : Option SubEntry) (s : State) : Res := onRun s (onJal rx (.forwardCmd id slice e))
def execForwardRsp (rx : JalRx) (id sct sc : Nat) (err : Option (Nat × Nat)) (data : List Nat) (s : State) : Res := onRun s (onJal rx (.forwardRsp id sct sc err data))
def execProxyMedia (rx : JalRx) (module : Fin 96) (cmd : KCmd) (gen : W32) (s : State) : Res := onRun s (onJal rx (.proxyMedia module cmd gen))
def execProxyRsp (rx : JalRx) (module : Fin 96) (cmd : KCmd) (st : KStatus) (temp : Byte) (held : W32) (s : State) : Res := onRun s (onJal rx (.proxyRsp module cmd st temp held))

end Sys2Proof.Machine
end

