-- ==== Sys2Proof/Machine/Control.lean ====
section
/-! DEFINITION. Machine/Control.lean: semaphores, leases, mailbox transport and interrupt enables of the control ports (R115 to R134). -/
namespace Sys2Proof.Machine
open Sys2Proof

/-! ## Semaphores -/

/-- One port's read of SEM_n (R116): a free semaphore is granted, a held one is reported. -/
def semReadOne (n : Nat) (p : Port) (s : State) : State :=
  let s1 := emit (.readData p (0x1000 + 4 * n) ((semReg s n).setWidth 64)) s
  if (s.sem n).owner = none then grantSem n p s1 else s1

/-- The winner of a tie on a semaphore: the port that did not win the previous one, port A first (R116). -/
def tieWinner (last : Option Port) : Port := if last = some .a then .b else .a

/-- A port in D3hot answers no read (R110); both ports' reads of one cycle, less such a one. -/
def readersAwake (who : Readers) (s : State) : Readers := match who with
  | .one p => .one p
  | .both => if (s.port .a).caps.d3hot then .one .b else if (s.port .b).caps.d3hot then .one .a else .both

/-- What the ports in D3hot among the readers note (R110). -/
def readersAsleep (who : Readers) (s : State) : State :=
  let one := fun (p : Port) (s : State) => if (s.port p).caps.d3hot then unsupported p false false s else s
  match who with
  | .one p => one p s
  | .both => one .b (one .a s)

def execSemRead (n : Fin 64) (who : Readers) (s0 : State) : Res := onRun s0 fun s0 =>
  let s := readersAsleep who s0
  match readersAwake who s with
  | .one p => if (s.port p).caps.d3hot then s else semReadOne n p s
  | .both =>
    if (s.sem n).owner = none then
      let w := tieWinner (s.sem n).lastTie
      let s1 := { s with sems := Tbl.set s.sems n { s.sem n with lastTie := some w } }
      semReadOne n (otherPort w) (semReadOne n w s1)
    else semReadOne n .b (semReadOne n .a s)

/-- A write to SEM_n (R117). -/
def execSemReleaseWrite (p : Port) (n : Fin 64) (v : W32) (s : State) : Res := onMem p false true s fun s =>
  if (s.sem n).owner = some p then
    if v.getLsbD 0 then s else settleLease p { s with sems := Tbl.set s.sems n { s.sem n with owner := none } }
  else s.modPort p fun r => { r with foreignWrites := satAdd 255 r.foreignWrites 1 }

/-- A write to SEM_LEASE_RENEW: it renews a lease that runs (R118). DESIGN CHOICE: between the lease's nominal end and its release, at most 1 ms later, the write is too late as in the cycle of expiry, while a grant still sets the lease (log entry 207). -/
def execSemLeaseRenew (p : Port) (s : State) : Res := onMem p false true s fun s =>
  match (s.port p).leaseEnd with
  | some t => if s.time.toNat < t then renewLease p s else s
  | none => s

/-- The lease of a port runs out (R118, R119). -/
def execSemLeaseExpiry (p : Port) (s : State) : Res := onRun s fun s =>
  match (s.port p).leaseEnd with
  | some t => loseSems p .lease (reachTime t s)
  | none => s

/-- What refuses a message on its header alone (R122, R130, R131): in the order no session, version, opcode, length (log entry 7). DESIGN CHOICE: STATUS, FLAGS and DETAIL, which R121 gives as zero in a request, are not looked at: the spec names no answer for others (log entry 209). -/
def screenMsg (h : MbxHdr) (op len : Nat) (s : State) : Option MReply :=
  if op = 1 then
    if h.version ≠ 1 then some (replyErr .invalidField 6) else if len ≠ 16 then some (replyErr .invalidField 4) else none
  else match (s.port h.port).session with
    | none => some (replyErr .helloRequired 0)
    | some v =>
      if (s.port h.port).renegotiate then some (replyErr .helloRequired 0)
      else if h.version ≠ v then some (replyErr .invalidField 6)
      else match catalogueRow op with
        | none => some (replyErr .invalidOpcode 0)
        | some (since, n) =>
          if v < since then some (replyErr .invalidOpcode 0) else if len ≠ n then some (replyErr .invalidField 4) else none

/-- A message is taken: refused at once, or waiting for its command to start. -/
def takeMsg (h : MbxHdr) (op : Nat) (body : List Byte) (len : Nat) (s : State) : State :=
  match screenMsg h op len s with
  | some r => mbxAnswer ⟨h, op, body⟩ r s
  | none => { s with mbx := { s.mbx with accepted := s.mbx.accepted ++ [⟨h, op, body⟩] } }

/-! ## The immediate mailbox (R123 to R125) -/

/-- The service processor takes the request in MBX_IMM_BUF; `len` is the doorbell's LENGTH (R124). DESIGN CHOICE: the mismatch is judged before session, version and opcode (log entry 7). -/
def serveImm (p : Port) (len : Nat) (s : State) : State :=
  let m := (s.port p).immBuf
  let op := ofLe (m.getBytes 0 2)
  let body := ofLe (m.getBytes 4 2)
  let h : MbxHdr := ⟨p, false, BitVec.ofNat 32 (ofLe (m.getBytes 8 4)), (m.get 6).toNat⟩
  let b := m.getBytes 16 body
  if len ≠ 16 + body then mbxAnswer ⟨h, op, b⟩ (replyErr .lengthMismatch (16 + body)) s else takeMsg h op b body s

/-- A write of MBX_IMM_DOORBELL (R124). -/
def execMbxImmDoorbell (p : Port) (len : BitVec 13) (s : State) : Res := onMem p false true s fun s =>
  if (s.port p).immBusy then accessError p 0x2000 (s.modPort p fun r => { r with immOverrun := true })
  else
    let s1 := s.modPort p fun r => { r with immBusy := true }
    if s.boot.served then serveImm p len.toNat s1 else s1.modPort p fun r => { r with immDeferred := some len.toNat }

/-- Stage 1 runs, or the recovery state is entered: the service processor can serve the immediate mailbox (R72 step 10, R84). -/
def canServe (s : State) : Bool := s.boot.sp.isSome || s.boot.stage = .recovery

/-- The service processor serves the mailbox from here on, and a doorbell accepted before is served (R123, R124). -/
def execMbxImmDeferredServe (p : Port) (s : State) : Res := onRun s fun s =>
  match (s.port p).immDeferred with
  | some len =>
    if canServe s then serveImm p len ({ s with boot := { s.boot with served := true } }.modPort p fun r => { r with immDeferred := none }) else s
  | none => s

/-! ## The rings (R126 to R128) -/

/-- Commands that a version allows outstanding (R131). -/
def ringLimit (v : Nat) : Nat := if v = 2 then 32 else 256

/-- The bytes that a message occupies in a ring (R127). -/
def ringExtent (len : Nat) : Nat := roundUp (16 + len) 64

/-- Bytes between two offsets of a ring. -/
def ringSpan (fromOff toOff size : Nat) : Nat := (toOff + size - fromOff) % size

/-- A write of MBX_REQ_TAIL (R126, R127). -/
def execMbxReqTail (p : Port) (v : BitVec 20) (s : State) : Res := onMem p false true s fun s =>
  if v.toNat % 64 ≠ 0 ∨ ringSize (s.port p).reqCfg ≤ v.toNat then
    accessError p 0x201C (s.modPort p fun r => { r with tailErr := true })
  else s.modPort p fun r => { r with reqTail := v.toNat }

/-- The response bytes of a completed command (R121). -/
def replyBytes (d : MDone) : List Byte :=
  le16 d.cmd.opcode ++ le16 (statusNum d.reply.status) ++ le16 d.reply.body.length
    ++ le8 d.version ++ le8 1 ++ le32 d.cmd.hdr.tag.toNat
    ++ le32 d.reply.detail.toNat ++ d.reply.body

/-- Bytes written into a ring from an offset: up to its end, and from its start on (R127). -/
def ringPieces (base : W64) (size off : Nat) (b : List Byte) : List (W64 × List Byte) :=
  if b.length ≤ size - off then [(base + BitVec.ofNat 64 off, b)]
  else [(base + BitVec.ofNat 64 off, b.take (size - off)), (base, b.drop (size - off))]

/-- Where a response goes: into the response ring at its tail, or into MBX_IMM_BUF at offset 0 (R124, R128). -/
def replyPieces (d : MDone) (r : PortRegs) : List (W64 × List Byte) :=
  if d.cmd.hdr.ring then ringPieces r.rspBase (ringSize r.rspCfg) r.rspTail (replyBytes d) else [(0, replyBytes d)]

/-- The response leaves the device (an output of the model). -/
def replyOut (d : MDone) (r : PortRegs) : Out := .mbxResponse d.cmd.hdr.port d.cmd.hdr.ring (replyPieces d r)

/-- A response of a port's ring lacks space in it (R127, R128). -/
def lacksSpace (r : PortRegs) (d : MDone) : Bool :=
  d.cmd.hdr.ring && decide (ringSize r.rspCfg < ringSpan r.rspHead r.rspTail (ringSize r.rspCfg) + ringExtent d.reply.body.length + 64)

/-- RSP_STALL: a response of the port waits for space (R126, R128). -/
def settleStall (p : Port) (s : State) : State :=
  s.modPort p fun r => { r with rspStall := s.mbx.done.any fun d => d.cmd.hdr.port = p && lacksSpace r d }

/-- The response no longer waits. -/
def dropDone (d : MDone) (s : State) : State := { s with mbx := { s.mbx with done := s.mbx.done.erase d } }

/-- Write a response: into MBX_IMM_BUF, or into the response ring where it has space and Bus Master Enable is set (R124, R128); in D3hot the function issues no request (R110). -/
def writeReply (d : MDone) (s : State) : State :=
  let p := d.cmd.hdr.port
  let r := s.port p
  if d.cmd.hdr.ring then
    if !r.busMaster || r.caps.d3hot then s
    else if lacksSpace r d then s.setPort p { r with rspStall := true }
    else
      let s1 := (dropDone d s).setPort p { r with
        rspTail := (r.rspTail + ringExtent d.reply.body.length) % ringSize r.rspCfg, outstanding := r.outstanding - 1 }
      let s2 := settleStall p (emit (replyOut d r) s1)
      if r.notify then raiseCause p cMbxRsp s2 else s2
  else
    let s1 := (dropDone d s).setPort p { r with
      immBuf := r.immBuf.putBytes 0 (replyBytes d), immDone := true, immBusy := false,
      immLast := BitVec.ofNat 16 (statusNum d.reply.status) }
    raiseCause p cImmDone (emit (replyOut d r) s1)

/-- Write every waiting ring response of a port that can be written, oldest first. -/
def writeReplies (p : Port) : List MDone → State → State
  | [], s => s
  | d :: ds, s =>
    if d.cmd.hdr.port = p && d.cmd.hdr.ring then writeReplies p ds (writeReply d s)
    else writeReplies p ds s

/-- A completed command's response is written (R128). -/
def execMailboxResponse (p : Port) (ring : Bool) (tag : W32) (s : State) : Res := onRun s fun s =>
  match s.mbx.done.find? fun d => d.cmd.hdr.port = p && d.cmd.hdr.ring = ring && d.cmd.hdr.tag = tag with
  | some d => writeReply d s
  | none => s

/-- The device may fetch the next request of a port's ring (R126 to R128). -/
def canFetch (p : Port) (s : State) : Bool :=
  let r := s.port p
  r.enable && !r.caps.d3hot && !r.fetchErr && !r.rspStall && r.reqHead ≠ r.reqTail &&
    match r.session with
    | some v => decide (2 ≤ v) && decide (r.outstanding < ringLimit v)
    | none => false

/-- The device reads the next request; `got` is what host memory gave, none where the read failed (R127, R488). -/
def execRingRequestFetch (p : Port) (got : Option MbxMsg) (s : State) : Res := onRun s fun s =>
  if !canFetch p s then s
  else
    let r := s.port p
    if !r.busMaster then s.setPort p { r with fetchErr := true }
    else match got with
      | none => (errorRecord 4 false {
          code := 0x0502, domain := hostDomain p, unit := 0, agent := 0,
          address := r.reqBase + BitVec.ofNat 64 r.reqHead, info0 := BitVec.ofNat 64 (portNum p), info1 := 0,
          multi := false, host := true } (s.setPort p { r with fetchErr := true })).2
      | some m =>
        let size := ringSize r.reqCfg
        let ext := ringExtent m.length
        let h : MbxHdr := ⟨p, true, m.tag, m.version⟩
        if ringSpan r.reqHead r.reqTail size < ext then
          mbxAnswer ⟨h, m.opcode, m.body⟩ (replyErr .lengthMismatch ext)
            (s.setPort p { r with reqHead := r.reqTail, outstanding := r.outstanding + 1 })
        else takeMsg h m.opcode m.body m.length (s.setPort p { r with reqHead := (r.reqHead + ext) % size, outstanding := r.outstanding + 1 })

/-- A write of MBX_RSP_HEAD (R126, R128): freed space lets stalled responses be written. -/
def execMbxRspHead (p : Port) (v : BitVec 20) (s : State) : Res := onMem p false true s fun s =>
  if v.toNat % 64 ≠ 0 ∨ ringSize (s.port p).rspCfg ≤ v.toNat then
    accessError p 0x2038 (s.modPort p fun r => { r with tailErr := true })
  else
    let s1 := settleStall p (s.modPort p fun r => { r with rspHead := v.toNat })
    writeReplies p s1.mbx.done s1

/-- A write of MBX_RING_CTRL (R126, R128). -/
def execMbxRingCtrlWrite (p : Port) (v : W32) (s : State) : Res := onMem p false true s fun s =>
  let r := s.port p
  let n := v.getLsbD 1
  if v.getLsbD 0 && !r.enable then
    if ringIdle s p then s.setPort p { r with enable := true, notify := n, reqHead := 0, reqTail := 0, rspHead := 0, rspTail := 0 }
    else accessError p 0x2040 (s.setPort p { r with notify := n })
  else s.setPort p { r with enable := v.getLsbD 0, notify := n }

/-- Bus Master Enable is cleared (R112): fetching stops and responses are held. -/
def execBusMasterEnableCleared (p : Port) (s : State) : Res := onRun s fun s => s.modPort p fun r => { r with busMaster := false }

/-- Bus Master Enable is set again: the held responses are written (R112, R128). -/
def execBusMasterEnableSet (p : Port) (s : State) : Res := onRun s fun s =>
  let s1 := s.modPort p fun r => { r with busMaster := true }
  writeReplies p s1.mbx.done s1

/-! ## Interrupt enables (R134) -/

/-- Send the message of each cause of the list whose bit is pending and newly enabled. -/
def sendEnabled (p : Port) (old new cause : BitVec 11) : List Nat → State → State
  | [], s => s
  | c :: cs, s => sendEnabled p old new cause cs (if cause.getLsbD c && new.getLsbD c && !old.getLsbD c then sendMsix p c s else s)

/-- A write of INT_ENABLE (R133, R134). -/
def execIntEnableWrite (p : Port) (v : W32) (s : State) : Res := onMem p false true s fun s =>
  let r := s.port p
  let new := v.setWidth 11
  sendEnabled p r.intEnable new r.intCause (List.range 11) (s.setPort p { r with intEnable := new })

/-- An access that R12 or R113 discards: counted, and a misaligned read returns zero (R12). -/
def execBar0AccessError (p : Port) (offset : BitVec 20) (kind : AccessErr) (s : State) : Res := onMem p false (decide (kind ≠ .misalignedRead)) s fun s =>
  let s1 := accessError p offset.toNat s
  if kind = .misalignedRead then emit (.readData p offset.toNat 0) s1 else s1

/-! ## What a reset or link loss does to a port's mailbox (R112) -/

/-- Responses of a port are discarded: what has completed is dropped, what runs is orphaned, or forgotten where the port's registers are reset, and what has not started is dropped (R112). -/
def mbxLeave (reset : Bool) (p : Port) (s : State) : State :=
  let m := s.mbx
  let mine := fun (c : MCmd) => decide (c.hdr.port = p)
  { s with mbx := { m with
      accepted := m.accepted.filter fun c => !mine c
      orphans := m.orphans.filter (fun c => !mine c) ++ (if reset then [] else m.running.filter fun c => mine c && !m.forgotten.contains c)
      forgotten := if reset then m.forgotten.filter (fun c => !mine c) ++ m.running.filter mine else m.forgotten
      done := m.done.filter fun d => !mine d.cmd } }

/-- Data-link layer down: rings disabled, session over, registers kept; OUTSTANDING and BUSY follow the commands still running (R112). DESIGN CHOICE: of a doorbell that waits for SERVED the spec says nothing here; its request has not started, so it is dropped and BUSY clears (log entry 169). -/
def mbxLinkDown (p : Port) (s : State) : State :=
  let s1 := mbxLeave false p s
  let run := s1.mbx.orphans.filter fun c => decide (c.hdr.port = p)
  s1.modPort p fun r => { r with
    enable := false, session := none, renegotiate := false, rspStall := false, immDeferred := none,
    outstanding := (run.filter fun c => c.hdr.ring).length, immBusy := run.any fun c => !c.hdr.ring }

/-- A reset of a port: every register of the port takes its reset value (R112); always-on choices and the physical link's own fields are set by the caller. -/
def portReset (p : Port) (s : State) : State := (mbxLeave true p s).setPort p { x8 := (s.port p).x8, spareInUse := (s.port p).spareInUse }

end Sys2Proof.Machine
end

