-- ==== Sys2Proof/Machine/RegPeek.lean ====
section
/-! DEFINITION. Machine/RegPeek.lean: the value of every BAR0 register word, without the side effects of a read (R12, R13, R113 to R115, R126, R463, R468, R487, R506). -/
namespace Sys2Proof.Machine
open Sys2Proof

def w32 (n : Nat) : W32 := BitVec.ofNat 32 n
def lo32 (v : W64) : W32 := v.setWidth 32
def hi32 (v : W64) : W32 := (v >>> 32).setWidth 32
/-- One half of a 64-bit register. -/
def half (v : W64) (high : Bool) : W32 := if high then hi32 v else lo32 v

/-! ## UDMA_ (R468) -/

def State.chan (s : State) (n : Nat) : Chan := Tbl.getD s.chans n {}
def State.modChan (s : State) (n : Nat) (f : Chan → Chan) : State := { s with chans := Tbl.set s.chans n (f (s.chan n)) }

def udmaCtrlReg (c : Chan) : W32 :=
  w32 (flag 1 c.enable + 4 * c.srcSpace.toNat + 32 * c.dstSpace.toNat + flag 8 c.srcInc + flag 9 c.dstInc + flag 10 c.cqEn
    + flag 11 c.irq + flag 12 c.repeat_ + flag 13 c.srcReload + flag 14 c.dstReload)

def udmaStatusReg (c : Chan) : W32 :=
  w32 (flag 0 c.busy + flag 1 c.armed + flag 2 c.done + flag 3 c.error + flag 4 c.aborted + flag 5 c.cqStall + flag 6 c.startIgnored
    + flag 7 c.irqPend + flag 8 c.faulted + flag 9 c.pendOvf + 4096 * c.errCode.toNat + 2 ^ 16 * c.pending + 2 ^ 24 * c.missed)

/-- UDMA_CHn_OWNER as a read returns it: the state before the read (R465). -/
def udmaOwnerReg (n : Nat) (c : Chan) : W32 := if n < 24 then 7 else w32 (flag 0 c.owner.isSome + 2 * ownerNum c.owner)

def udmaWord (n : Nat) (off : Nat) (c : Chan) : W32 :=
  match off / 4 with
  | 0 => lo32 c.src | 1 => hi32 c.src | 2 => lo32 c.dst | 3 => hi32 c.dst | 4 => c.count | 5 => udmaCtrlReg c | 6 => udmaStatusReg c
  | 7 => c.remain | 8 => c.ring | 9 => c.pace | 10 => lo32 c.cqBase | 11 => hi32 c.cqBase | 12 => w32 c.cqCfg.toNat
  | 13 => w32 c.cqTail.toNat | 14 => w32 c.cqHead.toNat | _ => udmaOwnerReg n c

/-! ## EVR_ (R503 to R506) -/

/-- The 256 bytes of a record (R505). -/
def evrBytes (r : EvrRec) (written : Bool) : List Byte :=
  let body := le32 0x52455A4D ++ le8 1 ++ le8 r.severity ++ le16 r.code.toNat ++ le32 r.index ++ le32 r.powerCycles.toNat ++ le32 r.hours.toNat
    ++ le32 r.msInHour.toNat ++ le64 r.chipTime.toNat ++ le16 r.nodeId.toNat ++ [r.domain] ++ le8 (flag 0 r.fromBoot) ++ le32 r.errSeq.toNat
    ++ le32 r.snapStatus.toNat ++ le32 r.snapBoot.toNat ++ le32 r.snapInput.toNat ++ le32 r.snapTemp.toNat ++ le64 r.snapFenced.toNat ++ fit 184 r.detail
  body ++ le32 (Config.crc32c body).toNat ++ zeros 3 ++ [if written then 0xA5 else 0xFF]

/-- The NOR offset of a slot of the recorder partition (R77, R503). -/
def evrSlotOffset (i : Nat) : Nat := 0x3040000 + 256 * i

/-- A record's two programs: all but MARK, then MARK (R503). -/
def writeSlot (r : EvrRec) (s : State) : State :=
  let b := evrBytes r true
  emit (.nor (.program (evrSlotOffset r.index + 255) (b.drop 255))) (emit (.nor (.program (evrSlotOffset r.index) (b.take 255))) s)

/-- The oldest waiting record is written to its slot; `rest` waits on. -/
def recordOut (r : EvrRec) (rest : List EvrRec) (s : State) : State :=
  raiseBoth cEvr (writeSlot r { s with evr := { s.evr with buffer := rest, slots := Tbl.set s.evr.slots r.index r } })

/-- All waiting records are written, oldest first. -/
def recordsOut : List EvrRec → State → State
  | [], s => s
  | r :: rest, s => recordsOut rest (recordOut r rest s)

/-- The slot is held by the on-die buffer: a waiting record, or one of the newest written ones (R504). -/
def evrBuffered (s : State) (i : Nat) : Bool :=
  s.evr.buffer.any (fun r => r.index = i) || (Tbl.has s.evr.slots i && decide (evrNextToWrite s ≤ i + (64 - s.evr.buffer.length)))

/-- The slot's bytes as the window shows them; a torn slot's are a free value `torn`, an erased one reads as ones. -/
def evrSlotBytes (s : State) (torn : Nat) (i : Nat) : List Byte :=
  match s.evr.buffer.find? fun r => r.index = i with
  | some r => evrBytes r false
  | none => match Tbl.find s.evr.slots i with
    | some r => evrBytes r true
    | none => if Tbl.has s.evr.tornSlots i then leBytes 256 torn else List.replicate 256 0xFF

def evrCursorReg (r : PortRegs) : W32 := w32 (r.evrIndex + flag 31 r.evrAutoInc)

/-! ## CPH_ and DGS_ mirror (R463) -/

def cphStatusReg (s : State) : W32 :=
  w32 (flag 0 (groupUp s 0) + flag 1 (groupUp s 1) + flag 2 s.cipher.ktwk.isSome + flag 3 s.cipher.mismatch + 16 * s.cipher.gcm.length)

def gensInState (s : State) (st : Nat) : Nat :=
  ((s.cipher.keys.flatMap fun e => e.2.cur :: e.2.retired).filter fun g => g.state = st).length

def gcmCtxReg (c : GcmCtx) : W64 :=
  BitVec.ofNat 64 (flag 0 true + flag 1 c.decrypt + flag 2 c.final + flag 3 c.failed + 16 * c.weight + 256 * c.owner + 2 ^ 32 * min (2 ^ 32 - 1) c.text.length)

def dgsCtrlReg (d : DgsCtx) : W32 :=
  w32 (d.alg.toNat + flag 2 d.hmac + flag 3 d.toSlot + 16 * d.weight.toNat + 4096 * d.feeder.toNat + flag 17 d.feederEn)

def dgsStatusReg (d : DgsCtx) : W32 :=
  w32 (flag 0 d.owner.isSome + flag 1 d.done + flag 2 d.padFault + flag 3 d.overrun + flag 4 d.cmpDone + flag 5 d.failed + 256 * d.owner.getD 0)

/-- Four bytes of a buffer as a word. -/
def bytesWord (l : List Byte) (off : Nat) : W32 := w32 (ofLe ((l.drop off).take 4))

def dgsWord (off : Nat) (d : DgsCtx) : W32 :=
  match off / 4 with
  | 0 => dgsCtrlReg d | 1 => dgsStatusReg d | 2 => w32 d.length | 3 => w32 (d.length / 2 ^ 32)
  | 4 => w32 (d.msg.length) | 5 => w32 (d.msg.length / 2 ^ 32) | 7 => w32 d.dest.toNat | 8 => d.cmpResult | 9 => d.cmpResultN | 10 => d.key
  | _ => 0

def ecdsaStatusReg (e : Ecdsa) : W32 := w32 (flag 0 e.busy + flag 1 e.done + flag 2 e.invalid + 256 * e.owner)

/-- The value that an allocation would return now; a read through BAR0 allocates nothing. -/
def dgsAllocReg (s : State) : W32 :=
  match (List.range 8).find? fun n => (Tbl.getD s.cipher.dgs n {}).owner.isNone with
  | some n => w32 n
  | none => w32 (2 ^ 31)

def engineWord (s : State) (off : Nat) : W32 :=
  if off = 0x38000 then cphStatusReg s
  else if off = 0x38004 then w32 (s.cipher.slots.length + 2 ^ 16 * ((s.cipher.slots.map (·.1)).filter (slotPinned s)).length)
  else if off = 0x38008 then w32 s.cipher.keys.length
  else if off = 0x3800C then w32 (min 65535 (gensInState s 2) + 2 ^ 16 * min 65535 (gensInState s 3))
  else if off = 0x38010 then w32 (min 65535 s.cipher.laneErrors + 2 ^ 16 * min 65535 s.cipher.fillFails)
  else if 0x38400 ≤ off ∧ off < 0x38600 then
    match Tbl.find s.cipher.gcm ((off - 0x38400) / 8) with
    | some c => half (gcmCtxReg c) (off % 8 = 4)
    | none => 0
  else if off = 0x39000 then dgsAllocReg s
  else if 0x39100 ≤ off ∧ off < 0x39900 then dgsWord ((off - 0x39100) % 256) (Tbl.getD s.cipher.dgs ((off - 0x39100) / 256) {})
  else if off = 0x3A000 then w32 s.cipher.ecdsa.op.toNat
  else if off = 0x3A004 then ecdsaStatusReg s.cipher.ecdsa
  else if off = 0x3A008 then s.cipher.ecdsa.result
  else if off = 0x3A00C then s.cipher.ecdsa.resultN
  else if 0x3A100 ≤ off ∧ off < 0x3A1F0 then bytesWord s.cipher.ecdsa.operands (off - 0x3A100)
  else 0

/-! ## GOV_ (R487) -/

def govWord (s : State) (off : Nat) : W32 :=
  if off = 0x30000 then govStatusReg (noneLeft s) s
  else if off = 0x30004 then 100
  else if off = 0x30008 ∨ off = 0x3000C then half s.gov.periods (off = 0x3000C)
  else if 0x30100 ≤ off ∧ off < 0x30128 then w32 (s.gov.caps.getD ((off - 0x30100) / 4) 0)
  else if 0x30200 ≤ off ∧ off < 0x30240 then
    if off % 8 = 0 then govCfgReg (s.act ((off - 0x30200) / 8)) else govStatReg (s.act ((off - 0x30200) / 8))
  else if 0x30400 ≤ off ∧ off < 0x30600 then
    BitVec.ofInt 32 ((s.act ((off - 0x30400) / 64)).bal.getD ((off - 0x30400) % 64 / 4) 0)
  else if 0x30800 ≤ off ∧ off < 0x30840 then half (s.act ((off - 0x30800) / 8)).used (off % 8 = 4)
  else 0

/-! ## CHIP_, SEM_, MBX_, INT_ -/

def chipWord (s : State) (p : Port) (off : Nat) : W32 :=
  match off / 4 with
  | 0 => chipIdReg s | 1 => chipPortReg s p
  | 2 => w32 s.fuses.uid.toNat | 3 => w32 (s.fuses.uid.toNat / 2 ^ 32) | 4 => w32 (s.fuses.uid.toNat / 2 ^ 64) | 5 => w32 (s.fuses.uid.toNat / 2 ^ 96)
  | 6 => chipStatus s p | 7 => w32 ((s.port p).errCount + 2 ^ 16 * (s.port p).errOffset.toNat)
  | 8 => bootStatus s | 9 => nodeIdReg s | 10 => lo32 s.time | 11 => hi32 s.time
  | 12 => lo32 (fwVersion s) | 13 => hi32 (fwVersion s) | 14 => (s.port p).scratch | 16 => inputCondReg s | 17 => tempReg s
  | 18 => lo32 s.aon.powerCycles | 19 => hi32 s.aon.powerCycles | 20 => s.aon.hours | 21 => s.aon.lifeHours
  | _ => 0
where
  /-- CHIP_FW_VERSION: 0 before boot step 14. -/
  fwVersion (s : State) : W64 := if s.boot.started then (match s.boot.cc with | some i => i.fwVersion | none => 0) else 0

def semWord (s : State) (p : Port) (off : Nat) : W32 :=
  if off < 0x1100 then semReg s ((off - 0x1000) / 4)
  else if off = 0x1100 then w32 (s.port p).leaseCfg.toNat
  else if off = 0x1108 then leaseStatusReg s p
  else if off = 0x1110 ∨ off = 0x1114 then half (semMask s p) (off = 0x1114)
  else if off = 0x1118 ∨ off = 0x111C then half (semMask s (otherPort p)) (off = 0x111C)
  else 0

def mbxWord (s : State) (p : Port) (off : Nat) : W32 :=
  let r := s.port p
  match (off - 0x2000) / 4 with
  | 1 => immStatusReg s p
  | 4 => lo32 r.reqBase | 5 => hi32 r.reqBase | 6 => w32 r.reqCfg.toNat | 7 => w32 r.reqTail | 8 => w32 r.reqHead
  | 10 => lo32 r.rspBase | 11 => hi32 r.rspBase | 12 => w32 r.rspCfg.toNat | 13 => w32 r.rspTail | 14 => w32 r.rspHead
  | 16 => w32 (flag 0 r.enable + flag 1 r.notify) | 17 => ringStatusReg s p
  | _ => 0

/-- A word of an MSI-X table entry: address, data, vector control (R113). -/
def msixWord (r : PortRegs) (off : Nat) : W32 :=
  let e := Tbl.getD r.msix ((off - 0x21000) / 16) {}
  match off % 16 / 4 with
  | 0 => lo32 e.addr | 1 => hi32 e.addr | 2 => e.data | _ => w32 (flag 0 e.masked)

/-- 32 pending bits. -/
def pbaWord (r : PortRegs) (off : Nat) : W32 :=
  w32 ((List.range 32).map fun i => if Tbl.has r.msixPending ((off - 0x29000) * 8 + i) then 2 ^ i else 0).sum

def evrWord (s : State) (p : Port) (torn : Nat) (off : Nat) : W32 :=
  if off = 0x4000 then evrCursorReg (s.port p)
  else if off = 0x4004 then evrStatusReg s
  else if off = 0x4008 then w32 (evrNextToWrite s)
  else if off = 0x400C then s.aon.suppressed
  else if off = 0x4010 then w32 s.evr.torn
  else if 0x4100 ≤ off ∧ off < 0x4200 then bytesWord (evrSlotBytes s torn (s.port p).evrIndex) (off - 0x4100)
  else 0

/-- The word at an aligned offset of BAR0 as a port would read it, side effects apart. -/
def peek (s : State) (p : Port) (torn off : Nat) : W32 :=
  if off < 0x1000 then chipWord s p off
  else if off < 0x2000 then semWord s p off
  else if off < 0x3000 then mbxWord s p off
  else if off < 0x4000 then (if (s.port p).immBusy then 0 else w32 (ofLe ((s.port p).immBuf.getBytes (off - 0x3000) 4)))
  else if off < 0x10000 then evrWord s p torn off
  else if off < 0x10800 then udmaWord ((off - 0x10000) / 64) (off % 64) (s.chan ((off - 0x10000) / 64))
  else if off < 0x20000 then 0
  else if off = 0x20000 then w32 (s.port p).intCause.toNat
  else if off = 0x20004 then w32 (s.port p).intEnable.toNat
  else if 0x21000 ≤ off ∧ off < 0x29000 then msixWord (s.port p) off
  else if 0x29000 ≤ off ∧ off < 0x29100 then pbaWord (s.port p) off
  else if 0x30000 ≤ off ∧ off < 0x38000 then govWord s off
  else if 0x38000 ≤ off ∧ off < 0x40000 then engineWord s off
  else 0

/-! ## The map of offsets -/

/-- The aligned offset is the low half of a 64-bit register (R13). -/
def lowHalf (off : Nat) : Bool :=
  [0x28, 0x30, 0x48, 0x50, 0x1110, 0x1118, 0x2010, 0x2028, 0x30008].contains off
    || (decide (0x10000 ≤ off ∧ off < 0x10800) && [0, 8, 0x28].contains (off % 64))
    || (decide (0x30800 ≤ off ∧ off < 0x30840) && off % 8 = 0)
    || (decide (0x38400 ≤ off ∧ off < 0x38600) && off % 8 = 0)
    || (decide (0x39100 ≤ off ∧ off < 0x39900) && [8, 0x10].contains ((off - 0x39100) % 256))

/-- A register occupies the word at the aligned offset (R113). -/
def mapped (off : Nat) : Bool :=
  if off < 0x1000 then decide (off < 0x3C ∨ (0x40 ≤ off ∧ off < 0x58))
  else if off < 0x2000 then decide (off < 0x110C ∨ (0x1110 ≤ off ∧ off < 0x1120))
  else if off < 0x3000 then decide (off < 0x2008 ∨ (0x2010 ≤ off ∧ off < 0x2024) ∨ (0x2028 ≤ off ∧ off < 0x203C) ∨ off = 0x2040 ∨ off = 0x2044)
  else if off < 0x4000 then true
  else if off < 0x10000 then decide (off < 0x4018 ∨ (0x4100 ≤ off ∧ off < 0x4200))
  else if off < 0x10800 then true
  else if off < 0x20000 then false
  else if off < 0x21000 then decide (off < 0x20008)
  else if off < 0x29100 then true
  else if off < 0x30000 then false
  else if off < 0x38000 then
    decide (off < 0x30010 ∨ (0x30100 ≤ off ∧ off < 0x30128) ∨ (0x30200 ≤ off ∧ off < 0x30240)
      ∨ (0x30400 ≤ off ∧ off < 0x30600 ∧ off % 64 < 40) ∨ (0x30800 ≤ off ∧ off < 0x30840))
  else if off < 0x40000 then
    decide (off < 0x38014 ∨ (0x38400 ≤ off ∧ off < 0x38600) ∨ off = 0x39000
      ∨ (0x39100 ≤ off ∧ off < 0x39900 ∧ ((off - 0x39100) % 256 < 0x2C ∨ (0x40 ≤ (off - 0x39100) % 256 ∧ (off - 0x39100) % 256 < 0xC0)))
      ∨ (0x3A000 ≤ off ∧ off < 0x3A010) ∨ (0x3A100 ≤ off ∧ off < 0x3A1F0))
  else false

/-- The DBG_ block (R113). -/
def isDbg (off : Nat) : Bool := decide (0x40000 ≤ off)

end Sys2Proof.Machine
end

