-- ==== Sys2Proof/Machine/Udma.lean ====
section
/-! DEFINITION. Machine/Udma.lean: the utility DMA channels (R464 to R479). -/
namespace Sys2Proof.Machine
open Sys2Proof

/-! ## Fields -/

def srcWrap (c : Chan) : Nat := c.ring.toNat % 32
def dstWrap (c : Chan) : Nat := c.ring.toNat / 256 % 32
def paceMode (c : Chan) : Nat := c.pace.toNat % 4
def trigCh (c : Chan) : Nat := c.pace.toNat / 4 % 32
def period (c : Chan) : Nat := c.pace.toNat / 256 % 65536
def burstLog (c : Chan) : Nat := c.pace.toNat / 2 ^ 24 % 32
def cqLog (c : Chan) : Nat := c.cqCfg.toNat % 16
def cqSpace (c : Chan) : Nat := c.cqCfg.toNat / 16

/-- The port of a host space. -/
def hostSpace : Nat → Option Port
  | 1 => some .a
  | 2 => some .b
  | _ => none

/-- A space that a channel may use (R467). -/
def spaceOk (n : Nat) (c : Chan) (source : Bool) (sp : Nat) : Bool :=
  if n < 24 then decide (sp ≤ 2) || (source && decide (sp ≤ 4))
  else (match hostSpace sp with
    | some p => decide (c.owner = some p)
    | none => source && (sp = 3 || sp = 4))

/-- The completion queue is configured within R468. -/
def cqValid (n : Nat) (c : Chan) : Bool :=
  decide (1 ≤ cqLog c) && decide (cqLog c ≤ 12) && decide (cqSpace c ≤ 2) && spaceOk n c false (cqSpace c) && c.cqBase.toNat % (32 * 2 ^ cqLog c) = 0

/-- The checks of a START (R470). -/
def configBad (n : Nat) (c : Chan) : Bool :=
  let reg := c.srcSpace.toNat = 3
  !spaceOk n c true c.srcSpace.toNat || !spaceOk n c false c.dstSpace.toNat
    || (decide (1 ≤ srcWrap c) && decide (srcWrap c ≤ 5)) || (decide (1 ≤ dstWrap c) && decide (dstWrap c ≤ 5))
    || (srcWrap c ≠ 0 && !c.srcInc) || (dstWrap c ≠ 0 && !c.dstInc)
    || (reg && (c.src.toNat % 4 ≠ 0 || c.count.toNat % 4 ≠ 0))
    || (paceMode c = 2 && trigCh c = n) || (paceMode c = 1 && period c = 0)
    || (decide (1 ≤ burstLog c) && decide (burstLog c ≤ 5)) || decide (20 < burstLog c) || paceMode c = 3

/-! ## Addresses (R467, R471) -/

/-- The address of byte i of a side: wrapped in its window, or repeated in beats of 64 bytes. -/
def sideAddr (addr wrap : Nat) (inc : Bool) (i : Nat) : Nat :=
  if !inc then addr + i % 64
  else if wrap = 0 then (addr + i) % 2 ^ 64
  else addr / 2 ^ wrap * 2 ^ wrap + (addr + i) % 2 ^ wrap

/-- A register offset that the register space holds. -/
def regSpace (a : Nat) : Bool := decide (a < 0x1000) || decide (0x30000 ≤ a ∧ a < 0x38000)

/-- The port whose view a channel reads registers through. -/
def viewPort (c : Chan) : Port := c.owner.getD .a

/-- Byte i of the source (R467): host-space bytes are what the host's memory gave. -/
def sourceByte (c : Chan) (host : List Byte) (s : State) (i : Nat) : Byte :=
  let a := sideAddr c.curSrc.toNat (srcWrap c) c.srcInc i
  match c.srcSpace.toNat with
  | 0 => Mem.get s.onchip a
  | 3 => (leBytes 4 (peek s (viewPort c) 0 (a / 4 * 4)).toNat).getD (a % 4) 0
  | 4 => (leBytes 4 c.src.toNat).getD (i % 4) 0
  | _ => host.getD i 0

/-- Contiguous pieces of the destination: start address and bytes. -/
def pieces (c : Chan) : Nat → Nat → List Byte → List (Nat × List Byte)
  | 0, _, _ => []
  | f + 1, i, l =>
    if l = [] then []
    else
      let a := sideAddr c.curDst.toNat (dstWrap c) c.dstInc i
      let n := if !c.dstInc then 64 else if dstWrap c = 0 then l.length else 2 ^ dstWrap c - a % 2 ^ dstWrap c
      (a, l.take n) :: pieces c f (i + min n l.length) (l.drop n)

/-- Write pieces to the destination space. -/
def putPieces (n space : Nat) : List (Nat × List Byte) → State → State
  | [], s => s
  | (a, l) :: ps, s =>
    putPieces n space ps (if space = 0 then chipPut a l s else emit (.udmaWrite n space (BitVec.ofNat 64 a) l) s)

/-! ## Runs (R470 to R476) -/

/-- Bytes that the next burst moves. -/
def burstSize (c : Chan) : Nat := if burstLog c = 0 || paceMode c ≠ 1 then c.remain.toNat else min c.remain.toNat (2 ^ burstLog c)

/-- A burst begins to move. -/
def beginBurst (c : Chan) : Chan := { c with busy := true, armed := paceMode c = 2, burst := burstSize c }

/-- A run begins at SRC and DST. -/
def freshRun (c : Chan) : Chan := { c with remain := c.count, curSrc := c.src, curDst := c.dst }

/-- The record of a run that ends now (R474). -/
def runRecord (c : Chan) (status : Nat) (s : State) : UdmaRec :=
  { time := s.time, dstNext := c.curDst, bytes := c.count.toNat - c.remain.toNat, seq := c.seq.toNat + 1, status := status }

def recordBytes (n : Nat) (phase : Bool) (r : UdmaRec) : List Byte :=
  le64 r.time.toNat ++ le64 r.dstNext.toNat ++ le32 r.bytes ++ le32 r.seq ++ le8 n ++ le8 r.status ++ le8 (flag 0 phase) ++ zeros 5

/-- The queue is full (R476). -/
def cqFull (c : Chan) : Bool := (c.cqTail.toNat + 1) % 2 ^ cqLog c = c.cqHead.toNat

/-- Write a record at the tail. -/
def putRecord (n : Nat) (r : UdmaRec) (s : State) : State :=
  let c := s.chan n
  let a := c.cqBase.toNat + 32 * c.cqTail.toNat
  let l := recordBytes n c.phase r
  let next := (c.cqTail.toNat + 1) % 2 ^ cqLog c
  let s1 := if cqSpace c = 0 then chipPut a l s else emit (.udmaRecord n (cqSpace c) (BitVec.ofNat 64 a) l) s
  s1.modChan n fun c => { c with cqTail := BitVec.ofNat 12 next, phase := if next = 0 then !c.phase else c.phase }

/-- A release reaches a chained channel (R470, R473). -/
def release (c : Chan) : Chan :=
  if !c.armed then c
  else if c.busy then (if 255 ≤ c.pending then { c with pendOvf := true } else { c with pending := c.pending + 1 })
  else beginBurst (freshRun c)

def releaseAll (n : Nat) : List Nat → State → State
  | [], s => s
  | m :: ms, s => releaseAll n ms (if paceMode (s.chan m) = 2 && trigCh (s.chan m) = n && m ≠ n then s.modChan m release else s)

/-- The interrupt of a completed run (R466, R472). -/
def runIrq (n : Nat) (s : State) : State :=
  let c := s.chan n
  if c.irq && !c.irqPend then
    let s1 := s.modChan n fun c => { c with irqPend := true }
    if n < 24 then emit (.udmaIrq n) s1
    else match c.owner with
      | some p => sendMsix p (32 + n) s1
      | none => s1
  else s

/-- The channel takes up its next run, or ends (R472 step 5). -/
def nextRun (c : Chan) : Chan :=
  if c.repeat_ || paceMode c = 2 then
    let c1 := freshRun { c with src := if c.srcReload then c.src else c.curSrc, dst := if c.dstReload then c.dst else c.curDst, busy := false }
    if paceMode c = 0 then beginBurst c1
    else if paceMode c = 1 then { c1 with armed := true }
    else if 0 < c.pending then beginBurst { c1 with pending := c.pending - 1 } else { c1 with armed := true }
  else { c with busy := false, armed := false }

/-- What follows the record of a run (R472). -/
def afterRecord (n status : Nat) (s : State) : State :=
  if status = 0 then
    let s1 := releaseAll n (List.range 32) (s.modChan n fun c => { c with done := true })
    (runIrq n s1).modChan n nextRun
  else s.modChan n fun c => { c with error := true, errCode := BitVec.ofNat 4 status, busy := false, armed := false }

/-- A run ends: its record first, held while the queue is full (R472, R476). -/
def endRun (n status : Nat) (s : State) : State :=
  let c := s.chan n
  let r := runRecord c status s
  let s1 := s.modChan n fun c => { c with seq := c.seq + 1 }
  if c.cqEn && cqValid n c then
    if cqFull c then s1.modChan n fun c => { c with held := some r, cqStall := true, busy := true } else afterRecord n status (putRecord n r s1)
  else afterRecord n status s1

/-- START on an enabled channel (R470, R479). -/
def startChan (n : Nat) (s : State) : State :=
  let c := s.chan n
  if c.faulted then s.modChan n fun c => { c with startIgnored := true }
  else if configBad n c then
    let s1 := s.modChan n fun c => { c with error := true, errCode := 5 }
    if cqValid n c then
      let r : UdmaRec := { time := s.time, dstNext := c.dst, bytes := 0, seq := c.seq.toNat + 1, status := 5 }
      if cqFull c then s1.modChan n fun c => { c with held := some r, cqStall := true, busy := true } else putRecord n r s1
    else s1
  else s.modChan n fun c =>
    let c1 := freshRun c
    if paceMode c = 0 then beginBurst c1
    else { c1 with armed := true, nextTick := s.time.toNat + period c * 1000 }

/-- ENABLE cleared (R477): the run stops where it is. What it leaves in SRC, DST and REMAIN, and which bytes of its burst reached the destination, are free values. -/
def stopChan (n : Nat) (s : State) : State :=
  let c := s.chan n
  if c.busy || c.armed then
    let a := draw s
    let b := draw a.2
    let r := draw b.2
    let m := draw r.2
    let h := draw m.2
    let put := fun (s : State) (i : Nat) =>
      if m.1.testBit i then putPieces n c.dstSpace.toNat [(sideAddr c.curDst.toNat (dstWrap c) c.dstInc i, [sourceByte c (leBytes c.burst h.1) h.2 i])] s else s
    let s1 := if c.busy && !c.cqStall then (List.range c.burst).foldl put h.2 else h.2
    s1.modChan n fun c => { c with
      enable := false, busy := false, armed := false, aborted := true, pending := 0, held := none, cqStall := false
      src := BitVec.ofNat 64 a.1, dst := BitVec.ofNat 64 b.1, remain := BitVec.ofNat 32 r.1 }
  else s.modChan n fun c => { c with enable := false, pending := 0 }

/-! ## Writes of the channel's registers (R466, R468, R469) -/

/-- The fields of CTRL but START. -/
def putCtrl (v : W32) (c : Chan) : Chan :=
  { c with
    enable := v.getLsbD 1, srcSpace := v.extractLsb' 2 3, dstSpace := v.extractLsb' 5 3, srcInc := v.getLsbD 8, dstInc := v.getLsbD 9
    cqEn := v.getLsbD 10, irq := v.getLsbD 11, repeat_ := v.getLsbD 12, srcReload := v.getLsbD 13, dstReload := v.getLsbD 14
    seq := if v.getLsbD 1 && !c.enable then 0 else c.seq }

/-- A write that is discarded is counted where it came through BAR0 (R469). -/
def udmaDiscard (who : UdmaBy) (off : Nat) (s : State) : State :=
  match who with
  | .port p => accessError p off s
  | .firmware _ => s

/-- The writer may write the channel (R466): a port the channels it owns, firmware its own 24. -/
def udmaMay (who : UdmaBy) (n : Nat) (c : Chan) : Bool :=
  match who with
  | .port p => decide (24 ≤ n) && decide (c.owner = some p)
  | .firmware _ => decide (n < 24)

def udmaOff (n off : Nat) : Nat := 0x10000 + 64 * n + off

/-- A write of CTRL. -/
def writeCtrl (who : UdmaBy) (n : Nat) (v : W32) (s : State) : State :=
  let c := s.chan n
  if !udmaMay who n c then udmaDiscard who (udmaOff n 0x14) s
  else if !v.getLsbD 1 then
    let s1 := (stopChan n s).modChan n fun d => if c.busy || c.armed then d else putCtrl v d
    if v.getLsbD 0 then s1.modChan n fun c => { c with startIgnored := true } else s1
  else if c.busy || c.armed then
    let s1 := udmaDiscard who (udmaOff n 0x14) s
    if v.getLsbD 0 then s1.modChan n fun c => { c with startIgnored := true } else s1
  else
    let s1 := s.modChan n (putCtrl v)
    if v.getLsbD 0 then startChan n s1 else s1

/-- The other writable words of a channel's block. -/
def putWord (off : Nat) (v : W32) (c : Chan) : Chan :=
  match off / 4 with
  | 0 => { c with src := hi32 c.src ++ v } | 1 => { c with src := v ++ lo32 c.src }
  | 2 => { c with dst := hi32 c.dst ++ v } | 3 => { c with dst := v ++ lo32 c.dst }
  | 4 => { c with count := v }
  | 8 => { c with ring := v &&& 0x1F1F } | 9 => { c with pace := v &&& 0x1FFFFF7F }
  | 10 => { c with cqBase := hi32 c.cqBase ++ v } | 11 => { c with cqBase := v ++ lo32 c.cqBase }
  | 12 => { c with cqCfg := v.setWidth 7 }
  | _ => c

/-- STATUS is W1C in DONE, ERROR, ABORTED, START_IGNORED, IRQ_PEND and PEND_OVF. -/
def clearStatus (v : W32) (c : Chan) : Chan :=
  { c with
    done := c.done && !v.getLsbD 2, error := c.error && !v.getLsbD 3, aborted := c.aborted && !v.getLsbD 4
    startIgnored := c.startIgnored && !v.getLsbD 6, irqPend := c.irqPend && !v.getLsbD 7, pendOvf := c.pendOvf && !v.getLsbD 9 }

/-- A head write frees queue space; a held record is written and its run goes on (R476). -/
def writeCqHead (n : Nat) (v : BitVec 12) (s : State) : State :=
  let s1 := s.modChan n fun c => { c with cqHead := v }
  match (s1.chan n).held with
  | some r =>
    if cqFull (s1.chan n) then s1
    else afterRecord n r.status (putRecord n r (s1.modChan n fun c => { c with held := none, cqStall := false }))
  | none => s1

/-- A port's release of a lendable channel, which disables it first (R465). -/
def freeChan (n : Nat) (s : State) : State := (stopChan n s).modChan n fun c => { c with owner := none }

/-- A write of a word of a channel's block through BAR0. -/
def udmaWrite (p : Port) (n off : Nat) (v : W32) (s : State) : State :=
  let c := s.chan n
  if !udmaMay (.port p) n c then accessError p (udmaOff n off) s
  else match off / 4 with
    | 5 => writeCtrl (.port p) n v s
    | 6 => s.modChan n (clearStatus v)
    | 14 => writeCqHead n (v.setWidth 12) s
    | 15 => if v.getLsbD 0 then s else freeChan n s
    | 7 | 13 => s
    | _ => if c.busy || c.armed then accessError p (udmaOff n off) s else s.modChan n (putWord off v)

/-! ## Commands -/

/-- One port's read of UDMA_CHn_OWNER (R465). -/
def ownerReadOne (n : Nat) (p : Port) (s : State) : State :=
  let s1 := emit (.readData p (udmaOff n 0x3C) ((udmaOwnerReg n (s.chan n)).setWidth 64)) s
  if 24 ≤ n ∧ (s.chan n).owner = none then s1.modChan n fun c => { c with owner := some p } else s1

def execUdmaOwnerRead (n : Fin 32) (who : Readers) (s0 : State) : Res := onRun s0 fun s0 =>
  let s := readersAsleep who s0
  match readersAwake who s with
  | .one p => if (s.port p).caps.d3hot then s else ownerReadOne n p s
  | .both =>
    if 24 ≤ n.val ∧ (s.chan n).owner = none then
      let w := tieWinner (s.chan n).lastTie
      ownerReadOne n (otherPort w) (ownerReadOne n w (s.modChan n fun c => { c with lastTie := some w }))
    else ownerReadOne n .b (ownerReadOne n .a s)

/-- UDMA_OWNER_RELEASE: a write of CLAIMED 0. -/
def execUdmaOwnerRelease (n : Fin 32) (p : Port) (s : State) : Res := onMem p false true s fun s =>
  if 24 ≤ n.val ∧ (s.chan n).owner = some p then freeChan n s else accessError p (udmaOff n 0x3C) s

/-- Firmware programs its channel before it starts it. -/
def applyUdmaSetup (u : UdmaSetup) (c : Chan) : Chan :=
  { c with src := u.src, dst := u.dst, count := u.count, ring := u.ring &&& 0x1F1F, pace := u.pace &&& 0x1FFFFF7F, cqBase := u.cqBase, cqCfg := u.cqCfg }

/-- Who writes: a port's function in D3hot takes no write (R110). -/
def onWriter (who : UdmaBy) (s : State) (f : State → State) : Res := match who with
  | .port p => onMem p false true s f
  | .firmware _ => onRun s f

/-- UDMA_START: a write of CTRL with START set. -/
def execUdmaStart (n : Fin 32) (who : UdmaBy) (ctrl : W32) (s : State) : Res := onWriter who s fun s =>
  let s1 := match who with
    | .firmware (some u) => if n.val < 24 ∧ !(s.chan n).busy ∧ !(s.chan n).armed then s.modChan n (applyUdmaSetup u) else s
    | _ => s
  writeCtrl who n (ctrl ||| 1) s1

/-- UDMA_ENABLE_CLEAR: a write of CTRL with ENABLE 0. -/
def execUdmaEnableClear (n : Fin 32) (who : UdmaBy) (ctrl : W32) (s : State) : Res := onWriter who s fun s =>
  writeCtrl who n (ctrl &&& ~~~ 2) s

def execUdmaCqHeadWrite (n : Fin 32) (who : UdmaBy) (v : BitVec 12) (s : State) : Res := onWriter who s fun s =>
  if udmaMay who n (s.chan n) then writeCqHead n v s else udmaDiscard who (udmaOff n 0x38) s

/-- UDMA_TIMER_TICK: moves one burst, or is missed (R470, R473). -/
def execUdmaTimerTick (n : Fin 32) (s : State) : Res := onRun s fun s =>
  let c := s.chan n
  if paceMode c ≠ 1 || !(c.busy || c.armed) then s
  else
    let s1 := (reachTime c.nextTick s).modChan n fun c => { c with nextTick := c.nextTick + period c * 1000 }
    if c.busy then s1.modChan n fun c => { c with missed := min 255 (c.missed + 1) } else s1.modChan n beginBurst

/-- A host-space fault is recorded with the port's domain and the channel's agent (R478). -/
def hostFault (n : Nat) (p : Port) (cause addr : Nat) (s : State) : State :=
  (errorRecord 4 false {
    code := BitVec.ofNat 16 (0x0400 + cause), domain := hostDomain p, unit := n, agent := 0x20 + n, address := BitVec.ofNat 64 addr,
    info0 := 0, info1 := 0, multi := false, host := true } s).2

/-- An on-chip address that no unit answers: of the scratchpad window, a way that has not been converted (R253, R467). -/
def wayAbsent (a : Nat) (s : State) : Bool :=
  decide (scratchBase + s.mapCache.ways * scratchWay ≤ a) && decide (a < scratchBase + scratchSize)

/-- Every byte of a burst's side. -/
def sideBytes (c : Chan) (source : Bool) : List Nat :=
  (List.range c.burst).map fun i => if source then sideAddr c.curSrc.toNat (srcWrap c) c.srcInc i else sideAddr c.curDst.toNat (dstWrap c) c.dstInc i

/-- What a burst finds before it moves: a host port without Bus Master Enable, an address outside its space, a way of the scratchpad that is not converted among them, or a load target that is closed (R83, R253, R475). -/
def burstStatus (c : Chan) (s : State) : Nat :=
  let off := fun (sp : Nat) => match hostSpace sp with
    | some p => !(s.port p).busMaster
    | none => false
  if off c.srcSpace.toNat || off c.dstSpace.toNat then 4
  else if c.srcSpace.toNat = 3 && !((sideBytes c true).all regSpace) then 3
  else if c.srcSpace.toNat = 0 && (sideBytes c true).any (wayAbsent · s) then 3
  else if c.dstSpace.toNat = 0 && (sideBytes c false).any (wayAbsent · s) then 3
  else if c.dstSpace.toNat = 0 && (sideBytes c false).any (targetClosed · 1 s) then 2
  else 0

/-- The port and address that a failing burst names. -/
def faultAt (n : Nat) (c : Chan) (status : Nat) (s : State) : State :=
  let src := hostSpace c.srcSpace.toNat
  let dst := hostSpace c.dstSpace.toNat
  let bad := fun (p : Option Port) => match p with
    | some q => !(s.port q).busMaster
    | none => false
  let cause := if status = 4 then 7 else 2
  if status = 2 || (status = 4 && !bad src) then (match dst with
    | some p => hostFault n p cause c.curDst.toNat s
    | none => s)
  else if status = 1 || status = 4 then (match src with
    | some p => hostFault n p cause c.curSrc.toNat s
    | none => s)
  else s

/-- The burst's bytes reach the destination and the run's addresses move on. -/
def moveBurst (n : Nat) (host : List Byte) (s : State) : State :=
  let c := s.chan n
  let data := (List.range c.burst).map (sourceByte c host s)
  let s1 := putPieces n c.dstSpace.toNat (pieces c (data.length + 1) 0 data) s
  let step := fun (inc : Bool) (addr wrap : Nat) => if inc then BitVec.ofNat 64 (sideAddr addr wrap true c.burst) else BitVec.ofNat 64 addr
  s1.modChan n fun c => { c with
    remain := c.remain - BitVec.ofNat 32 c.burst
    curSrc := step c.srcInc c.curSrc.toNat (srcWrap c)
    curDst := step c.dstInc c.curDst.toNat (dstWrap c) }

/-- A burst that moved: the run ends with its last byte, or waits for the next tick. -/
def burstDone (n : Nat) (host : List Byte) (s : State) : State :=
  let c := s.chan n
  let st := burstStatus c s
  if st ≠ 0 then endRun n st (faultAt n c st s)
  else
    let s1 := moveBurst n host s
    if (s1.chan n).remain = 0 then endRun n 0 s1 else s1.modChan n fun c => { c with busy := false, armed := true }

def chanErr (n : Nat) (c : Chan) : ErrObs := { plainErr 0x0303 3 n c.curSrc.toNat c.src.toNat c.dst.toNat with agent := 0x20 + n }

/-- The run starts again from its starting addresses, up to where it was (R479). -/
def rerun (c : Chan) : Chan := { freshRun c with burst := c.count.toNat - c.remain.toNat + c.burst }

/-- UDMA_RUN_COMPLETE: the bytes in motion have reached their memory, or failed to (R471, R472, R478, R479). -/
def execUdmaRunComplete (n : Fin 32) (how : UdmaEnd) (s : State) : Res := onRun s fun s =>
  let c := s.chan n
  if !c.busy || c.held.isSome then s
  else match how with
    | .moved l => burstDone n l s
    | .readError => endRun n 1 (faultAt n c 1 s)
    | .writeError => endRun n 2 (faultAt n c 2 s)
    | .transient l => burstDone n l (transientFault (chanErr n c) (s.modChan n rerun))
    | .lasting => endRun n 6 (lastingFault (chanErr n c) (s.modChan n fun c => { c with faulted := true }))

/-- Every channel that a port owns is disabled and freed (R465). -/
def freeChans (p : Port) : List Nat → State → State
  | [], s => s
  | n :: ns, s => freeChans p ns (if (s.chan n).owner = some p then freeChan n s else s)

def udmaLeave (p : Port) (s : State) : State := freeChans p (s.chans.map (·.1)) s

end Sys2Proof.Machine
end

