-- ==== Sys2Proof/Machine/ChipOps.lean ====
section
/-! DEFINITION. Machine/ChipOps.lean: what cuts across the whole chip: a domain that loses its power, the vault flush, the chip reset, the fail-stop, fencing (R42 to R53, R57, R273, R491 to R494, R503). -/
namespace Sys2Proof.Machine
open Sys2Proof

/-! ## A domain loses its power (R42, R43, R336, R380, R458) -/

/-- A control port loses its link: semaphores, rings, session and channels go, registers stay, and a marked lane takes the spare (R68, R112, R119, R465). -/
def portDown (p : Port) (s : State) : State :=
  (udmaLeave p (mbxLinkDown p (loseSems p .link (hostSpare p s)))).modPort p fun r => { r with linkUp := false, speed := 0, width := 0 }

/-- A reset of a control port: PERST, hot reset or function-level reset (R112, R119, R465). -/
def portResetAll (p : Port) (s : State) : State :=
  let r := s.port p
  (portReset p (udmaLeave p (loseSems p .reset s))).modPort p fun n => { n with linkUp := r.linkUp, speed := r.speed, width := r.width, inReset := r.inReset, configFrom := r.configFrom }

/-- Batches of a lost Grinder group go to other lanes (R236). -/
def moveBatches : List (Nat × Batch) → State → State
  | [], s => s
  | (id, b) :: l, s => moveBatches l (match pickLane s (some b.lane) with
      | some m => s.grind fun g => { g with batches := Tbl.set g.batches id { b with lane := m } }
      | none => s)

def quadDown (q : Nat) (s : State) : State := (List.range 4).foldl (fun s i => kamDown (4 * q + i) .off s) s

/-- What goes with the power of a domain. -/
def domainLost (d : Nat) (s : State) : State :=
  if d < 5 then s
  else if d < 9 then freeAgent (fun a => decide (a = 0x10 + (d - 5))) s
  else if d < 13 then
    let s1 := if s.mapCache.ways = 0 then s else scratchWithdraw s
    { s1 with mapCache := { s1.mapCache with banks := bankLost (d - 9) s1.mapCache.banks } }
  else if d < 19 then s
  else if d < 24 then moveBatches (s.grinder.batches.filter fun e => laneDomain e.2.lane = d) s
  else if d < 26 then fenceGroup (d - 24) s
  else if d < 28 then moveJobs (d - 26) s
  else if d < 30 then
    let p : Port := if d = 28 then .a else .b
    portReset p (portDown p s)
  else if d < 32 then peerPortDown (d - 30) s
  else if d < 40 then netPortDown (d - 32) (freeAgent (fun a => decide (a = 0x40 + (d - 32))) s)
  else quadDown (d - 40) s

/-- The gate of a domain opens: it is off, and what it held is gone (R42, R43). A domain that still ramps goes off when the ramp ends; a request that waits for its ramp is withdrawn. -/
def gateOff (d : Nat) (s : State) : State :=
  if hasBit s.power.on d then
    dropRepairs d (domainLost d (emit (.domainOff d) { s with power := { s.power with on := clrBit s.power.on d } }))
  else if hasBit s.power.ramping d then { s with power := { s.power with offPending := setBit s.power.offPending d } }
  else { s with power := { s.power with waiting := s.power.waiting.filter (· ≠ d) } }

def gateOffAll : List Nat → State → State
  | [], s => s
  | d :: ds, s => gateOffAll ds (gateOff d s)

/-! ## The chip reset (R11, R45, R46, R503) -/

/-- The domains whose ports a reference serves (R52). -/
def refDomains : RefClk → List Nat
  | .pcieA => [28] | .pcieB => [29]
  | .eth0 => [32, 33, 34, 35] | .eth1 => [36, 37, 38, 39]
  | .media0 => 30 :: (List.range 8).map (40 + ·)
  | .media1 => 31 :: (List.range 8).map (48 + ·)
  | .media2 => (List.range 8).map (56 + ·)

def allRefs : List RefClk := [.pcieA, .pcieB, .eth0, .eth1, .media0, .media1, .media2]

/-- The domains that no reference serves now. -/
def refDark (s : State) : List Nat := (allRefs.filter fun r => s.phys.refLost.getLsbD (refNum r)).flatMap refDomains

def maskOfList (l : List Nat) : Mask64 := l.foldl setBit 0

/-- The event recorder as the next boot finds it (R503): waiting records are gone, a record under way is incomplete. -/
def evrAtReset (e : Evr) : Evr :=
  let next := match e.clearing with
    | some c => c.1
    | none => match e.buffer with
      | r :: _ => r.index
      | [] => e.nextSlot
  { slots := e.slots, tornSlots := e.tornSlots, nextSlot := next,
    begun := decide (e.buffer ≠ []) && e.clearing.isNone, fullNoted := Tbl.has e.slots 32767 }

/-- Waiting records lost with a reset count as not kept where VDD_AON stays up (R503). -/
def aonAtReset (s : State) : Aon :=
  { s.aon with suppressed := BitVec.ofNat 32 (satAdd (2 ^ 32 - 1) s.aon.suppressed.toNat s.evr.buffer.length) }

/-- A slice after a reset: its table entry, its log and its keys; what ran on it is gone, a reset or a removal of it and its dirty-page log with it (log entry 187). -/
def sliceAtReset (x : Slice) : Slice :=
  { x with state := .active, deficit := 0, quantum := x.weight, peerPairs := 0, peerLogging := false, wrote := [], nssro := false, run := none, dirty := none, dirtyStop := none }

/-- A pool after a reset: what its superblock and the journal hold. -/
def poolAtReset (p : Pool) : Pool := { p with gathers := [], creating := false, checking := false, stalled := false, fenced := false }

/-- Media after a reset: what the map and the block records hold; bands that were open are closed as they stand. -/
def mediaAtReset (m : Media) : Media :=
  { m with
    blocks := Tbl.mapVals m.blocks fun _ b => { b with state := if b.state = .opened then .closed else b.state, intent := false, copying := false }
    newBand := none
    relocBand := none
    closing := []
    verify := []
    wait := []
    decodes := []
    loaded := []
    counters := List.replicate 14 0 }

def moduleAtReset (m : Module) : Module := { m with descr := none, push := none, restartAt := none, media := mediaAtReset m.media }

/-- Every controller ends with a reset, and its identifier rests (R151). -/
def endedAtReset (s : State) : Tbl Nat := s.host.ctrls.foldl (fun t c => Tbl.set t c.1 s.time.toNat) s.host.ended

/-- A port's input holds it in reset (R47, R57). -/
def perstCond (s : State) (p : Port) : InputCond := match p with
  | .a => s.cond.perstA
  | .b => s.cond.perstB
def perstHolds (s : State) (p : Port) : Bool := (perstCond s p).level || (perstCond s p).latched

/-- A port after a chip reset; the always-on choice of its mode takes effect (R111). -/
def portAtReset (p : Port) (s : State) : PortRegs :=
  { x8 := (match p with | .a => s.aon.x8A | .b => s.aon.x8B), inReset := perstHolds s p }

/-- The links of the host ports end with a chip reset, which lets a marked lane take its spare (R68; log entry 165). -/
def hostLinkEnds (p : Port) (s : State) : State := if (s.port p).linkUp then hostSpare p s else s
def hostLinksEnd (s : State) : State := hostLinkEnds .b (hostLinkEnds .a s)

/-- The chip goes into reset: registers take their reset values, volatile units lose their state, and what the always-on domain, the fuses, the NOR and the media hold stays (R11, R43, R46, R503). A lost system reference holds it there (R53). -/
def chipReset (s0 : State) : State :=
  let s := hostLinksEnd s0
  let dark := maskOfList (refDark s)
  { s with
    phase := if s.phys.refLost.getLsbD 0 then .refHold else .reset
    aon := aonAtReset s
    pins := {}
    power := { on := if s.cond.pwrgood.level then 0x1F else 1, fenced := dark, refFenced := dark }
    phys := { refLost := s.phys.refLost }
    flush := {}
    boot := { sifLost := decide (s.carafe.sif ≠ []) && s.carafe.image.isNone }
    trust := {}
    chain := {}
    side := {}
    peerOk := false
    portA := portAtReset .a s
    portB := portAtReset .b s
    sems := []
    mbx := {}
    gov := { acts := s.gov.acts.map fun a => { share := a.newShare, ceiling := a.newCeiling, newShare := a.newShare, newCeiling := a.newCeiling } }
    err := { retired := Tbl.keep s.err.retired fun k _ => decide (17 ≤ k / 2 ^ 52) }
    alarms := {}
    evr := evrAtReset s.evr
    traces := []
    slices := Tbl.mapVals s.slices fun _ x => sliceAtReset x
    ns := Tbl.mapVals s.ns fun _ v => { v with shrinkTo := none, shrinkFor := false, cutAsked := 0, cutDone := 0 }
    host := { ended := endedAtReset s, nextSeq := s.host.nextSeq, poison := s.host.poison }
    grinder := {
      units := s.grinder.units, nextUnit := s.grinder.nextUnit, log := s.grinder.log, shards := s.grinder.shards, rebuild := s.grinder.rebuild
      cursor := s.grinder.cursor, passes := s.grinder.passes }
    jobs := []
    carafe := { vaultGen := s.carafe.vaultGen, image := s.carafe.image, older := s.carafe.older }
    journal := { groups := s.journal.groups.filter (fun e => e.2.committed), next := s.journal.next, through := s.journal.through, version := s.journal.version }
    mapCache := {}
    pools := Tbl.mapVals s.pools fun _ p => poolAtReset p
    kports := []
    ldpc := []
    mods := Tbl.mapVals s.mods fun _ m => moduleAtReset m
    peerState := .alone
    jal := {}
    snaps := { next := s.snaps.next, nextPage := s.snaps.nextPage, views := s.snaps.views, clones := s.snaps.clones }
    cluster := { member := s.cluster.member, id := s.cluster.id, view := s.cluster.view, members := s.cluster.members, tickAt := s.cluster.tickAt }
    cipher := { keys := s.cipher.keys, record0 := s.cipher.record0, record1 := s.cipher.record1 }
    net := {}
    chans := []
    fw := { s.fw with next := {}, nextVersion := 0, nextParts := 0, half := false, windowEnd := none, oldControl := none, mbxMin := 1, mbxMax := 3, oldMbx := (1, 3) }
    onchip := [] }

/-! ## The end of a vault flush (R48, R51, R273, R524) -/

/-- The stage-1 header of the primary region is erased (R524): it reads absent. -/
def erasePrimary (s : State) : State := norWrites [.erase4 (regionBase false)] { s with fw := { s.fw with primary := { s.fw.primary with stage1 := none }, erased := true } }

/-- The vaulted chip is let go: VAULTED falls and the chip is reset; a next-start fallback first erases the header of the primary region (R51, R524). -/
def leaveVaulted (s : State) : State :=
  let s1 := if s.flush.cause = some .fallback && s.fw.mode = 1 then erasePrimary s else s
  chipReset s1

/-- PWRFAIL_N holds the chip vaulted: asserted, or not yet stable and deasserted for 50 ms (R51). -/
def pwrfailHolds (s : State) : Bool := s.cond.pwrfail.level || s.cond.pwrfail.latched

/-- The flush has ended: every domain but the always-needed five is off and VAULTED is asserted; then a latched reset, a hold until reset, or PWRFAIL_N decides (R48, R51, R62). -/
def flushEnd (s : State) : State :=
  let s1 := { s with
    phase := .vaulted
    pins := { s.pins with vaulted := true }
    power := { s.power with on := s.power.on &&& 0x1F, waiting := [], offPending := s.power.ramping, judging := 0, applied := s.power.applied.filter fun r => decide (r.domain < 5) }
    flush := { s.flush with ended := true } }
  if s.flush.resetHeld then chipReset s1
  else if s.flush.holdUntilReset || pwrfailHolds s then s1
  else leaveVaulted s1

/-! ## The start of a vault flush (R48, R50, R62, R273, R412, R524) -/

def noticeSubs : List Nat → State → State
  | [], s => s
  | n :: ns, s => noticeSubs ns (jalQueue (some n) .vaultNotice s)

/-- A flush starts: VAULT_NOTICE goes out, admission stops, the stream is written where there is something to vault, and 26 domains are switched off; without dirty data, or without a vault set, the flush ends at once (R50). -/
def startFlush (cause : FlushCause) (s : State) : State :=
  let s1 := noticeSubs (peerSubs s) { s with phase := .flushing, host := { s.host with stopped := true }, flush := { s.flush with cause := some cause } }
  let need := vaultNeeded s1
  let s2 := gateOffAll vaultOffDomains (if need then vaultStream s1 else event 0 0x11 [] s1)
  if need then s2 else flushEnd s2

/-! ## Fail-stop (R494, R53) -/

/-- What the always-on domain keeps of a fail-stop; the first one stays. -/
def keepFailStop (f : FailStopRec) (lost : Bool) (s : State) : Aon :=
  { s.aon with
    failStop := if s.aon.failStop.isSome then s.aon.failStop else some f
    carafeLost := if lost && s.peerState ≠ .mirrored then some (ownedMask s) else s.aon.carafeLost }

/-- The chip fail-stops: FAULT_N, one last heartbeat, every transmitter stops, the chip is held until RESET_N (R494). -/
def failStop (cause : FailStopCause) (code : W16) (s : State) : State :=
  let (r, s0) := draw s
  let s1 := beatAll true (peerSubs s0) { s0 with pins := { s0.pins with faultAsserted := true } }
  { s1 with
    phase := .stopped
    aon := keepFailStop { cause := failStopNum cause, code := code, faultReg := BitVec.ofNat 64 r, reading := 0 } true s1 }

/-! ## Fencing (R490 to R493) -/

/-- The other units of a unit's kind: first domain and count (R20, R41). -/
def kindOfDomain (d : Nat) : Nat × Nat :=
  if d < 5 then (d, 1) else if d < 9 then (5, 4) else if d < 13 then (9, 4) else if d < 17 then (13, 4) else if d < 19 then (17, 2)
  else if d < 24 then (19, 5) else if d < 26 then (24, 2) else if d < 28 then (26, 2) else if d < 30 then (28, 2) else if d < 32 then (30, 2)
  else if d < 40 then (32, 8) else (40, 24)

/-- A unit without a sibling: a memory unit, or the last unfenced one of its kind (R493). -/
def noSibling (d : Nat) (s : State) : Bool :=
  let k := kindOfDomain d
  (decide (13 ≤ d) && decide (d ≤ 18)) || (List.range k.2).all fun i => decide (k.1 + i = d) || hasBit s.power.fenced (k.1 + i)

/-- The UNIT_FENCED alarm and event of a domain (R491 step 4). -/
def fenceNotice (seq : W32) (d unit : Nat) (code : W16) (s : State) : State :=
  eventFull 2 0x21 d false seq (le8 d ++ le8 unit ++ le16 code.toNat) (raiseAlarm 0x13 s)

/-- A domain becomes fenced: its work moves away and it is switched off (R491 steps 1 to 3). -/
def fenceDomain (d : Nat) (s : State) : State :=
  let s1 := { s with power := { s.power with
    fenced := setBit s.power.fenced d
    waiting := s.power.waiting.filter (· ≠ d) } }
  gateOff d s1

/-- Fence a unit for an error (R491); `repair`: the fault produced a repair record (R492). -/
def fenceUnit (e : ErrObs) (nested repair : Bool) (s : State) : State :=
  let d := e.domain
  let again := hasBit s.power.fencedOnce d
  let s1 := fenceDomain d s
  let s2 := { s1 with power := { s1.power with
    fencedOnce := setBit s1.power.fencedOnce d
    fencedAt := Tbl.set s1.power.fencedAt d s1.time.toNat
    fencedTwice := if again then setBit s1.power.fencedTwice d else s1.power.fencedTwice
    repairable := if repair then setBit s1.power.repairable d else clrBit s1.power.repairable d } }
  let x := errorRecord 3 nested e s2
  fenceNotice x.1 d e.unit e.code x.2

/-- A unit is to be fenced: done, or settled by R493 where it has no sibling. -/
def fence (e : ErrObs) (nested repair : Bool) (s : State) : State :=
  if noSibling e.domain s then
    if s.peerState = .mirrored then failStop .noSibling e.code s
    else raiseAlarm 0x14 (errorRecord 6 nested e s).2
  else fenceUnit e nested repair s

/-- UNIT_FENCED clears when no unit is fenced (R500). -/
def fenceAlarmSettle (s : State) : State := if s.power.fenced = 0 then clearAlarm 0x13 s else s

end Sys2Proof.Machine
end

