-- ==== Sys2Proof/Machine/Pins.lean ====
section
/-! DEFINITION. Machine/Pins.lean: the discrete inputs, their rate limits and latches, and what each edge does (R45 to R51, R54, R57 to R59, R503).
The operand `at_` of an edge is the conditioner's own time of its acceptance, in ns. -/
namespace Sys2Proof.Machine
open Sys2Proof

/-! ## The rate limit (R57, R497) -/

/-- Accepted edges no older than a window. -/
def edgesIn (window now : Nat) (l : List Nat) : List Nat := l.filter fun t => decide (now < t + window)

/-- `n` accepted edges at one time: the window's list after them, and whether the count rose above the limit just now, which begins an episode. -/
def noteEdges (limit window n at_ : Nat) (c : InputCond) : InputCond × Bool :=
  let kept := edgesIn window at_ c.edges
  let all := kept ++ List.replicate n at_
  ({ c with edges := all }, decide (kept.length ≤ limit) && decide (limit < all.length))

/-- Edges that a latch ignores are counted in IGNORED_EDGES (R59). -/
def countIgnored (c : InputCond) (n : Nat) (s : State) : State :=
  if c.latched then { s with cond := { s.cond with ignoredEdges := satAdd 255 s.cond.ignoredEdges n } } else s

def alarmUp (k : Nat) (s : State) : State := if spRuns s then raiseAlarm k s else s
def alarmDown (k : Nat) (s : State) : State := if spRuns s then clearAlarm k s else s

/-! ## PWRGOOD (R29, R45, R46, R57) -/

/-- The filtered assertion of PWRGOOD: the power-cycle count rises, chip time starts, the always-needed domains are on (R29, R41); identifiers of controllers rest 10 s from there (R151). -/
def powerGood (s : State) : State :=
  { s with
    time := 0
    host := { s.host with ended := Tbl.mapVals s.host.ended fun _ _ => 0 }
    aon := { s.aon with powerCycles := s.aon.powerCycles + 1 }
    power := { s.power with on := s.power.on ||| 0x1F } }

/-- The filtered deassertion: the chip enters reset, whatever it was doing (R46, R51). -/
def powerBad (s : State) : State := chipReset { s with cond := { s.cond with pwrgood := { s.cond.pwrgood with level := false } } }

def execPwrgoodAssert (at_ : Nat) (s : State) : Res := onAon s fun s =>
  let c := s.cond.pwrgood
  let x := noteEdges 4 10000000 1 at_ c
  if c.latched then countIgnored c 1 { s with cond := { s.cond with pwrgood := x.1 } }
  else if c.level then s
  else if x.2 then { s with cond := { s.cond with pwrgood := { x.1 with latched := true } } }
  else powerGood { s with cond := { s.cond with pwrgood := { x.1 with level := true } } }

def execPwrgoodDeassert (at_ : Nat) (s : State) : Res := onAon s fun s =>
  let c := s.cond.pwrgood
  let x := noteEdges 4 10000000 1 at_ c
  if c.latched then countIgnored c 1 { s with cond := { s.cond with pwrgood := x.1 } }
  else if !c.level then s
  else powerBad { s with cond := { s.cond with pwrgood := { x.1 with latched := x.2 } } }

/-! ## RESET_N (R45, R51, R57) -/

/-- What an accepted assertion of RESET_N does: held off during a flush, at once otherwise (R51). -/
def resetTakes (s : State) : State :=
  if s.phase = .flushing then { s with flush := { s.flush with resetHeld := true } }
  else if s.phase = .reset ∨ s.phase = .refHold then s
  else chipReset s

/-- Instructions that take the pins, accepted only while RESET_N is asserted (R71). -/
def takesPins : JtagInstr → Bool
  | .extest | .extestPulse | .extestTrain | .clamp | .highz => true
  | .bypass | .samplePreload | .idcode => false

/-- RESET_N is deasserted: a boundary-scan instruction gives the pins back and BYPASS runs in its place (R71). -/
def pinsBack (s : State) : State :=
  if takesPins s.jtag.instr then emit (.jtag .bypass) { s with jtag := { s.jtag with instr := .bypass } } else s

/-- An edge of RESET_N: counted while latched; the one that exceeds the limit latches the input asserted. Answers whether the edge acts. -/
def resetEdge (level : Bool) (at_ : Nat) (s : State) : State × Bool :=
  let c := s.cond.resetN
  let x := noteEdges 8 10000000 1 at_ c
  if c.latched then
    (countIgnored c 1 { s with cond := { s.cond with resetN := x.1, resetEdgeCount := satAdd (2 ^ 32 - 1) s.cond.resetEdgeCount 1 } }, false)
  else if c.level = level then (s, false)
  else if x.2 then
    ({ s with cond := { s.cond with resetN := { x.1 with level := true, latched := true }, resetEdgeCount := x.1.edges.length } }, true)
  else (let s1 := { s with cond := { s.cond with resetN := { x.1 with level := level } } }
    if level then s1 else pinsBack s1, true)

def execResetNAssert (at_ : Nat) (s : State) : Res := onAon s fun s =>
  let x := resetEdge true at_ s
  if x.2 then resetTakes x.1 else x.1

/-- RESET_HOLD_OFF_EXPIRY: 450 ms after the first assertion of PWRFAIL_N a latched reset takes effect (R51). -/
def execResetHoldOffExpiry (s : State) : Res := onLive s fun s =>
  match s.flush.firstAt with
  | some t => if s.phase = .flushing && s.flush.resetHeld then chipReset (reachTime (t + 450000000) s) else s
  | none => s

/-! ## PWRFAIL_N (R48 to R51) -/

/-- The first accepted assertion since the input was last free: a flush starts, or the one that runs takes note (R51). -/
def pwrfailFirst (s : State) : State :=
  let s1 := { s with cond := { s.cond with pwrfail := { s.cond.pwrfail with latched := true } } }
  if s.phase = .run then startFlush .pwrfail { s1 with flush := { s1.flush with firstAt := some s.time.toNat } }
  else { s1 with flush := { s1.flush with firstAt := if s.flush.firstAt.isSome then s.flush.firstAt else some s.time.toNat } }

/-- An accepted edge of PWRFAIL_N; it is ignored in reset and after a fail-stop (R54, R494). -/
def execPwrfailNAssert (asserted : Bool) (at_ : Nat) (s : State) : Res := onAon s fun s =>
  let c := s.cond.pwrfail
  if c.level = asserted then s
  else
    let x := noteEdges 4 10000000 1 at_ c
    let s1 := countIgnored c 1 { s with cond := { s.cond with pwrfail := { x.1 with level := asserted, chatter := c.chatter || x.2 } } }
    let s2 := if asserted then s1 else alarmDown 0x02 s1
    let s3 := if x.2 then alarmUp 0x01 s2 else s2
    if asserted && !c.latched && spRuns s then pwrfailFirst s3 else s3

/-- PWRFAIL_N has been deasserted and stable for 50 ms: edges count again, and a vaulted chip is let go (R51). -/
def pwrfailStable (s : State) : State :=
  if s.cond.pwrfail.latched && !s.cond.pwrfail.level then
    let s1 := { s with cond := { s.cond with pwrfail := { s.cond.pwrfail with latched := false } } }
    if s1.phase = .vaulted && !s1.flush.holdUntilReset then leaveVaulted s1 else s1
  else s

def execPwrfailStableDeassert (s : State) : Res := onAon s pwrfailStable

/-- PWRFAIL_N stays asserted for more than 1 s: flag and alarm (R51, R57). -/
def execPwrfailStuck (s : State) : Res := onAon s fun s =>
  if s.cond.pwrfail.level && spRuns s then
    raiseAlarm 0x02 { s with cond := { s.cond with pwrfail := { s.cond.pwrfail with stuck := true } } }
  else s

/-- VAULT_FLUSH_DONE: every sent strip is acknowledged: the seal is written and the chip is vaulted (R48, R273 step 5). -/
def execVaultFlushDone (s : State) : Res := onLive s fun s =>
  if s.phase = .flushing then
    match s.carafe.run with
    | some r => if r.outstanding = 0 then flushEnd (vaultSeal s) else s
    | none => s
  else s

/-! ## PERST (R47, R57, R111, R112) -/

def setPerst (p : Port) (c : InputCond) (s : State) : State := match p with
  | .a => { s with cond := { s.cond with perstA := c } }
  | .b => { s with cond := { s.cond with perstB := c } }

/-- The port's mode chosen by HOST_PORT_CONFIG takes effect (R111). -/
def takeMode (p : Port) (s : State) : State :=
  s.modPort p fun r => { r with x8 := (match p with | .a => s.aon.x8A | .b => s.aon.x8B) }

/-- The port goes into reset and its link with it (R47, R112). -/
def perstReset (p : Port) (s : State) : State :=
  (takeMode p (portResetAll p (hostLinkEnds p s))).modPort p fun r => { r with linkUp := false, speed := 0, width := 0, inReset := true, configFrom := none }

/-- The port leaves reset, and its 100 ms for the first answer to a configuration request begin (R72). -/
def perstRelease (p : Port) (s : State) : State :=
  s.modPort p fun r => { r with inReset := false, configFrom := some s.time.toNat }

/-- An edge of PERST: the window, the ignored edges, the chatter latch with its flag and alarm (R57). -/
def perstEdge (p : Port) (level : Bool) (at_ : Nat) (s : State) : State :=
  let c := perstCond s p
  let x := noteEdges 8 10000000 1 at_ c
  let s1 := countIgnored c 1 (setPerst p { x.1 with level := level, chatter := c.chatter || x.2, latched := c.latched || x.2 } s)
  if x.2 then alarmUp (3 + portNum p) s1 else s1

def execPerstAssert (p : Port) (at_ : Nat) (s : State) : Res := onAon s fun s =>
  if (perstCond s p).level then s
  else
    let s1 := perstEdge p true at_ s
    if (s1.port p).inReset then s1 else perstReset p s1

/-- PERST is deasserted: the stuck condition clears, and an unlatched port leaves reset (R47, R57, R500). -/
def execPerstDeassert (p : Port) (at_ : Nat) (s : State) : Res := onAon s fun s =>
  if !(perstCond s p).level then s
  else
    let s1 := alarmDown (5 + portNum p) (perstEdge p false at_ s)
    if (perstCond s1 p).latched then s1 else perstRelease p s1

/-- PERST stays asserted for 10 s: flag and alarm; the port stays in reset (R57). -/
def execPerstStuck (p : Port) (s : State) : Res := onAon s fun s =>
  let c := perstCond s p
  if c.level then alarmUp (5 + portNum p) (setPerst p { c with stuck := true } s) else s

/-! ## PEER_ALIVE (R55, R57, R411) -/

/-- An accepted edge of PEER_ALIVE: chatter latches it at the level just accepted, and without a latch its deassertion is the loss of the peer (R57, R411). -/
def execPeerAliveChange (alive : Bool) (at_ : Nat) (s : State) : Res := onAon s fun s =>
  let c := s.cond.peerAlive
  if c.level = alive then s
  else
    let x := noteEdges 4 100000000 1 at_ c
    let s1 := countIgnored c 1 { s with cond := { s.cond with peerAlive := { x.1 with level := alive, chatter := c.chatter || x.2, latched := c.latched || x.2, held := if x.2 && !c.latched then alive else c.held } } }
    let s2 := if x.2 then alarmUp 0x07 s1 else s1
    if !alive && !c.latched && !x.2 && s.phase = .run then peerLost s2 else s2

/-- PEER_ALIVE_TIMEOUT: at READY the peer has been gone for the time of R411, and this head takes the pools it left. -/
def execPeerAliveTimeout (s : State) : Res := onRun s fun s =>
  if s.boot.stage = .ready && s.peerState = .alone && peerSubs s = [] && foreignPools s ≠ [] && peerGone s then takeover s else s

/-! ## Latches that end (R57) -/

/-- An input has met its release condition: asserted, or deasserted, and stable for its time (R51, R57). A latch of PEER_ALIVE or of CHAIN_IN has none. -/
def execInputLatchRelease (x : Input) (s : State) : Res := onAon s fun s =>
  match x with
  | .pwrgood =>
    if s.cond.pwrgood.latched then powerGood { s with cond := { s.cond with pwrgood := { s.cond.pwrgood with latched := false, level := true, edges := [] } } } else s
  | .resetN =>
    if s.cond.resetN.latched then
      pinsBack { s with cond := { s.cond with
        resetN := { s.cond.resetN with latched := false, level := false, edges := [] }
        resetChatter := some s.cond.resetEdgeCount
        resetEdgeCount := 0 } }
    else s
  | .pwrfail => pwrfailStable s
  | .perstA | .perstB =>
    let p : Port := if x = .perstA then .a else .b
    let c := perstCond s p
    if c.latched && !c.level && !c.chatter then perstRelease p (setPerst p { c with latched := false } s) else s
  | .peerAlive | .chainIn => s

end Sys2Proof.Machine
end

