-- ==== Sys2Proof/Machine/PowerClocks.lean ====
section
/-! DEFINITION. Machine/PowerClocks.lean: power domains, reference clocks, rails, temperatures, the always-on counts and the lanes (R29, R41 to R45, R53, R62, R66 to R70, R492, R531, R532). -/
namespace Sys2Proof.Machine
open Sys2Proof

/-! ## Domain switching (R42, R43, R531) -/

/-- A firmware request to switch a domain on (R42). -/
def execDomainSwitchOnRequest (d : Fin 64) (s : State) : Res := onLive s fun s => switchOn d s

/-- Work of a host port: mailbox requests, responses and doorbells, commands of its controllers, channels that it owns and that run. -/
def portWork (p : Port) (s : State) : Bool :=
  (s.mbx.accepted ++ s.mbx.running).any (fun c => decide (c.hdr.port = p)) || s.mbx.done.any (fun d => decide (d.cmd.hdr.port = p)) || (s.port p).immBusy
    || s.host.inflight.any (fun e => match Tbl.find s.host.ctrls e.2.ctrl with | some c => !c.fabrics && decide (c.port = p) | none => false)
    || s.chans.any fun e => decide (e.2.owner = some p) && (e.2.busy || e.2.armed)

/-- Work that the state shows in a domain: batches, contexts, commands outstanding, a link in use. A peer port, network port or media quad that is on is in use, and then stays on (R531). -/
def workIn (d : Nat) (s : State) : Bool :=
  if d < 9 then s.cipher.gcm.any fun e => decide (e.2.owner = 0x10 + (d - 5))
  else if d < 13 then decide (s.mapCache.ways ≠ 0)
  else if d < 19 then true
  else if d < 24 then s.grinder.batches.any fun e => decide (laneDomain e.2.lane = d)
  else if d < 26 then s.cipher.gcm.any fun e => decide (e.1 / 32 = d - 24)
  else if d < 28 then s.mods.any fun e => e.2.media.decodes ≠ []
  else if d < 30 then portWork (if d = 28 then .a else .b) s
  else true

/-- A request to switch a domain off (R42): refused for the always-needed domains, for a port in use and for a domain with work; `idle` says that no work is queued or in flight beyond what the state shows. While the domain ramps it takes effect at the end of the ramp. -/
def execDomainSwitchOffRequest (d : Fin 64) (idle : Bool) (s : State) : Res := onLive s fun s =>
  if d.val < 5 then s
  else if hasBit s.power.ramping d then { s with power := { s.power with offPending := setBit s.power.offPending d } }
  else if s.power.waiting.contains d.val then { s with power := { s.power with waiting := s.power.waiting.filter (· ≠ d.val) } }
  else if hasBit s.power.fenced d || (idle && !workIn d s) then gateOff d s
  else s

/-- The port domains that R531 judges. -/
def judgedKind (d : Nat) : Bool := decide (30 ≤ d)

/-- What a domain's switch-on starts: its media ports and sub-links look for a signal, its logical ports train, and with the first stack HBM training (R328, R372, R533). -/
def domainUp (d : Nat) (s : State) : State :=
  if 40 ≤ d then (List.range 4).foldl (fun s i => s.modK (4 * (d - 40) + i) fun k => { k with state := .detect, attempts := 0, hellos := 0 }) s
  else if 32 ≤ d then (List.range 4).foldl (fun s i => s.modLport (4 * (d - 32) + i) fun l => { l with training := true }) s
  else if d = 30 ∨ d = 31 then (s.modSub (2 * (d - 30)) fun l => { l with state := .detect }).modSub (2 * (d - 30) + 1) fun l => { l with state := .detect }
  else if 9 ≤ d ∧ d ≤ 12 then { s with mapCache := { s.mapCache with banks := bankBack (d - 9) s.mapCache.banks } }
  else if 13 ≤ d ∧ d ≤ 16 ∧ s.boot.stage = .stage1 then setStage .training s
  else s

/-- A domain comes on: its repairs are applied; a fenced one, which is on for its self-test, begins no work, and a port domain that may be unused comes under judgement (R43, R492, R531). -/
def domainOn (d : Nat) (s : State) : State :=
  let s1 := applyRepairs d (emit (.domainOn d) { s with power := { s.power with on := setBit s.power.on d } })
  let s2 := if hasBit s.power.fenced d then s1 else domainUp d s1
  let judge := judgedKind d && (hasBit s.power.unused d || decide (stageNum s.boot.stage < stageNum .ready))
  if judge then { s2 with power := { s2.power with judging := setBit s2.power.judging d } } else s2

/-- DOMAIN_RAMP_DONE: the switch-on time has passed and the clamps are released, or a switch-off that waited for it takes effect; a waiting request starts (R41 to R43, R531). -/
def rampDone (d : Nat) (s : State) : State :=
  if !hasBit s.power.ramping d then s
  else
    let s1 := { s with power := { s.power with ramping := clrBit s.power.ramping d, offPending := clrBit s.power.offPending d } }
    let s2 := if hasBit s.power.offPending d then emit (.domainOff d) s1 else domainOn d s1
    startWaiting s2.power.waiting s2

def execDomainRampDone (d : Fin 64) (s : State) : Res := onSp s fun s => rampDone d s

/-- A port domain is in use (R531); `signal` says that a lane of a network port sees a signal. -/
def domainInUse (d : Nat) (signal : Bool) (s : State) : Bool :=
  if 40 ≤ d then (List.range 4).any fun i => (s.kport (4 * (d - 40) + i)).state ≠ .detect && (s.kport (4 * (d - 40) + i)).state ≠ .off
  else if 32 ≤ d then signal || hasBit s.power.named d
  else [2 * (d - 30), 2 * (d - 30) + 1].any fun n => (s.sub n).state ≠ .detect

/-- PORT_DOMAIN_JUDGE: 100 ms after its switch-on a port domain is kept, or switched off as unused (R531). -/
def execPortDomainJudge (d : Fin 64) (signal : Bool) (s : State) : Res := onRun s fun s =>
  if !hasBit s.power.judging d then s
  else
    let s1 := { s with power := { s.power with judging := clrBit s.power.judging d } }
    if domainInUse d signal s then { s1 with power := { s1.power with unused := clrBit s1.power.unused d } }
    else gateOff d { s1 with power := { s1.power with unused := setBit s1.power.unused d } }

/-- A port domain ramps, waits for its ramp or is under judgement. -/
def portsSettling (s : State) : Bool := s.power.judging != 0 || (s.power.ramping >>> 30) != 0 || s.power.waiting.any fun d => decide (30 ≤ d)

/-- UNUSED_DOMAIN_RETRY: an unused port domain is switched on again for one judgement, one domain at a time (R531). -/
def execUnusedDomainRetry (d : Fin 64) (s : State) : Res := onRun s fun s =>
  if s.boot.stage = .ready && hasBit s.power.unused d && !portsSettling s then switchOn d s else s

/-! ## Reference clocks (R45, R53, R532) -/

/-- The domains of a lost reference that are not fenced yet become fenced, each with its notices (R53, R491). -/
def fenceDark (seq : W32) : List Nat → State → State
  | [], s => s
  | d :: ds, s =>
    if hasBit s.power.fenced d then fenceDark seq ds s
    else
      let s1 := fenceDomain d s
      let s2 := { s1 with power := { s1.power with refFenced := setBit s1.power.refFenced d } }
      fenceDark seq ds (if spRuns s then fenceNotice seq d 0 0x060A s2 else s2)

def setRefLost (n : Nat) (b : Bool) (s : State) : State :=
  { s with phys := { s.phys with refLost := if b then s.phys.refLost ||| BitVec.ofNat 9 (2 ^ n) else s.phys.refLost &&& ~~~ BitVec.ofNat 9 (2 ^ n) } }

/-- REFCLK_LOST, `reading`: its offset in ppm, or 0x8000_0000 when it is missing: a PCIe, Ethernet or media reference (R53): record, alarm, and the ports it serves go down and are fenced. -/
def execRefclkLost (r : RefClk) (reading : W32) (s : State) : Res := onAon s fun s =>
  if s.phys.refLost.getLsbD (refNum r) then s
  else
    let s1 := setRefLost (refNum r) true s
    if spRuns s then
      let x := powerRecordSeq 3 1 (refNum r) (reading.setWidth 64) s1
      fenceDark x.1 (refDomains r) (raiseAlarm 0x0A x.2)
    else fenceDark 0 (refDomains r) s1

/-- Domains that only a reference kept fenced are unfenced, and those of a running chip retrain (R53). -/
def unfenceDark : List Nat → State → State
  | [], s => s
  | d :: ds, s =>
    if !hasBit s.power.refFenced d then unfenceDark ds s
    else
      let s1 := { s with power := { s.power with fenced := clrBit s.power.fenced d, refFenced := clrBit s.power.refFenced d } }
      unfenceDark ds (if s.phase = .run && decide (stageNum .stage1 ≤ stageNum s.boot.stage) then switchOn d s1 else s1)

/-- REFCLK_RESTORED: the reference has been back for 1 ms (R53, R500). -/
def execRefclkRestored (r : RefClk) (s : State) : Res := onAon s fun s =>
  if !s.phys.refLost.getLsbD (refNum r) then s
  else
    let s1 := fenceAlarmSettle (unfenceDark (refDomains r) (setRefLost (refNum r) false s))
    if refDark s1 = [] then clearAlarm 0x0A s1 else s1

/-- CRYSTAL_LOST: the always-on timer runs from the system reference; record and alarm (R53, R532). -/
def execCrystalLost (reading : W32) (s : State) : Res := onAon s fun s =>
  let s1 := setRefLost 8 true { s with aon := { s.aon with onCrystal := false } }
  if s.phys.refLost.getLsbD 8 then s1
  else if spRuns s then raiseAlarm 0x0B (powerRecord 2 1 8 (reading.setWidth 64) s1) else s1

/-- CRYSTAL_SWITCHOVER: 65,536 stable cycles of the crystal: the timer runs from it without losing a count (R45, R53). -/
def execCrystalSwitchover (s : State) : Res := onAon s fun s =>
  clearAlarm 0x0B (setRefLost 8 false { s with aon := { s.aon with onCrystal := true } })

/-- SYSREF_LOST: FAULT_N, the chip is held in reset, no vault is written, and the cause is kept for the next boot (R53, R532). -/
def execSysrefLost (reading : W32) (s : State) : Res := onAon s fun s =>
  if s.phys.refLost.getLsbD 0 then s
  else
    let held := s.phase = .run || s.phase = .flushing
    let s1 := { s with aon := keepFailStop { cause := failStopNum .sysref, code := 0x060A, faultReg := 0, reading := reading } held s }
    chipReset (setRefLost 0 true s1)

/-- SYSREF_RESTORED: back within tolerance for 1 ms: the hold ends, and the chip leaves reset by CHIP_RESET_EXIT (R45, R53). -/
def execSysrefRestored (s : State) : Res := onAon s fun s =>
  let s1 := setRefLost 0 false s
  if s.phase = .refHold then { s1 with phase := .reset } else s1

/-! ## Rails (R500, R532) -/

/-- RAIL_ALARM: a rail outside its tolerance for 10 µs, with its reading in mV. -/
def execRailAlarm (rail : Fin 11) (mV : W32) (s : State) : Res := onLive s fun s =>
  if s.phys.railAlarm.getLsbD rail then s
  else
    let s1 := { s with phys := { s.phys with railAlarm := s.phys.railAlarm ||| BitVec.ofNat 11 (2 ^ rail.val) } }
    raiseAlarm 0x0F (powerRecord 2 0 rail (mV.setWidth 64) s1)

/-- RAIL_RESTORED: the rail has been within tolerance for 1 ms. -/
def execRailRestored (rail : Fin 11) (s : State) : Res := onLive s fun s =>
  let s1 := { s with phys := { s.phys with railAlarm := s.phys.railAlarm &&& ~~~ BitVec.ofNat 11 (2 ^ rail.val) } }
  if s1.phys.railAlarm = 0 then clearAlarm 0x0F s1 else s1

/-! ## Temperatures (R62, R485, R532) -/

/-- The set points in degrees: alert, throttle, critical; index 0 is the logic die, whose points rise by 5 for order code E (R62). -/
def setPoint (s : State) (i level : Nat) : Int :=
  if i = 0 then [95, 100, 110].getD level 0 + (if s.fuses.orderCode = 1 then 5 else 0) else [95, 100, 105].getD level 0

/-- A threshold after a sample: crossed at its set point, released 3 degrees below it. -/
def crossed (was : Bool) (t point : Int) : Bool := if was then decide (point - 3 < t) else decide (point ≤ t)

/-- The five readings: the hottest of the sixteen on the die, and the stacks. -/
def readings (dies hbm : List Byte) : List Byte := hottest dies :: (List.range 4).map fun i => hbm.getD i 0

/-- The mask of a threshold after a sample; a critical crossing stays until a reset. -/
def threshMask (s : State) (level : Nat) (was : BitVec 5) (r : List Byte) : BitVec 5 :=
  BitVec.ofNat 5 (((List.range 5).map fun i =>
    let t := tempOf (r.getD i 0)
    let b := if level = 2 then was.getLsbD i || decide (setPoint s i 2 ≤ t) else crossed (was.getLsbD i) t (setPoint s i level)
    if b then 2 ^ i else 0).sum)

/-- Records of the thresholds newly crossed upward: kind 2, index, reading and threshold (R532). -/
def tempRecords (r : List Byte) (level : Nat) (was now : BitVec 5) : List Nat → State → State
  | [], s => s
  | i :: is, s => tempRecords r level was now is (if now.getLsbD i && !was.getLsbD i then
      powerRecord 2 2 i (BitVec.ofNat 64 ((BitVec.ofInt 32 (tempOf (r.getD i 0))).toNat + 2 ^ 32 * (level + 1))) s else s)

/-- The data-path clock falls by 1/8 each period while a throttle threshold is crossed, down to 1/2, and rises again once released (R62). -/
def clockStep (throttled : Bool) (eighths : Nat) : Nat := if throttled then max 4 (eighths - 1) else min 8 (eighths + 1)

/-- CRITICAL_TRIP: admission stops, FAULT_N is asserted, the flush runs and the chip stays vaulted until a reset; a flush that runs goes on (R62). -/
def criticalTrip (s : State) : State :=
  let s1 := { s with
    pins := { s.pins with faultAsserted := true }
    host := { s.host with stopped := true }
    flush := { s.flush with holdUntilReset := true } }
  if s.phase = .run then startFlush .critical s1 else s1

/-- TEMP_SAMPLE: sixteen die sensors and four stacks, every 100 µs (R62). -/
def execTempSample (dies hbm : List Byte) (s : State) : Res := onLive s fun s =>
  let r := readings dies hbm
  let p := s.phys
  let al := threshMask s 0 p.alert r
  let th := threshMask s 1 p.throttle r
  let cr := threshMask s 2 p.critical r
  let refresh := BitVec.ofNat 5 (((List.range 5).map fun i => if i ≠ 0 && decide (85 ≤ tempOf (r.getD i 0)) then 2 ^ i else 0).sum)
  let changed := decide ((al ≠ 0) ≠ (p.alert ≠ 0)) || decide ((th ≠ 0) ≠ (p.throttle ≠ 0))
  let s1 := { s with
    phys := { p with dieMax := r.getD 0 0, hbm := r.drop 1, alert := al, throttle := th, critical := cr, refresh := refresh, clockEighths := clockStep (th != 0) p.clockEighths }
    pins := { s.pins with tempAlert := al != 0 } }
  let s2 := if changed then raiseBoth cThermal s1 else s1
  let idx := List.range 5
  let s3 := tempRecords r 2 p.critical cr idx (tempRecords r 1 p.throttle th idx (tempRecords r 0 p.alert al idx s2))
  let s4 := alarmIs 0x0E (cr != 0) (alarmIs 0x0D (th != 0) (alarmIs 0x0C (al != 0) s3))
  if cr != 0 && p.critical == 0 then criticalTrip s4 else s4

/-! ## Counts of the always-on domain (R29, R66) -/

/-- The terms of the series of e^(x / 2^64) from term k on, in units of 2^-128, `t` the term before them. -/
def expTerms (x : Nat) : Nat → Nat → Nat → Nat
  | 0, _, _ => 0
  | n + 1, k, t => let u := t * x / (k * 2 ^ 64); u + expTerms x n (k + 1) u

/-- e^(x / 2^64) in units of 2^-128. -/
def expFix (x : Nat) : Nat := 2 ^ 128 + expTerms x 200 1 (2 ^ 128)

/-- The Arrhenius weight exp((0.7 eV / k) (1 / 358.15 K - 1 / T)) at a temperature in degrees Celsius, in units of 2^-32 (R66). With N = 100 T the exponent is 7e9 (N - 35815) / (8617 · 35815 · N). The spec states no rounding: the exponent and the weight are cut, the exponent at 2^-64 and the weight at 2^-32 (log entry 1). -/
def lifeWeight (celsius : Int) : Nat :=
  let n := (100 * celsius + 27315).toNat
  let d := 8617 * 35815 * n
  if 35815 ≤ n then expFix (7000000000 * (n - 35815) * 2 ^ 64 / d) / 2 ^ 96
  else 2 ^ 160 / expFix (7000000000 * (35815 - n) * 2 ^ 64 / d)

/-- LIFE_COUNT_TICK: one second more, weighted by the hottest die reading; the service processor counts as long as it runs (R66). -/
def execLifeCountTick (s : State) : Res := onSp s fun s =>
  let sum := s.aon.lifeFrac + lifeWeight (tempOf s.phys.dieMax)
  let hour := 3600 * 2 ^ 32
  { s with aon := { s.aon with lifeHours := s.aon.lifeHours + BitVec.ofNat 32 (sum / hour), lifeFrac := sum % hour } }

/-- AON_HOUR_TICK: milliseconds of the always-on timer pass; a full hour counts (R29). -/
def execAonHourTick (elapsed : Nat) (s : State) : Res := onAon s fun s =>
  let sum := s.aon.ms.toNat + elapsed
  { s with aon := { s.aon with ms := BitVec.ofNat 32 (sum % 3600000), hours := s.aon.hours + BitVec.ofNat 32 (sum / 3600000) } }

/-! ## Lanes (R67, R68, R70) -/

/-- A port group takes its spare at once, but a host port at its next link-down (R68). -/
def hostGroup (d : Nat) : Bool := d = 28 || d = 29

/-- The logical port that a lane of a network port serves (R369). -/
def laneLport (s : State) (p lane : Nat) : Nat :=
  4 * p + (match (s.netPort p).breakout with | 0 => 0 | 1 => lane % 4 / 2 * 2 | _ => lane % 4)

/-- The logical port that uses a lane goes down and its traffic moves to siblings; `again`: it trains again, on the spare (R20, R68, R370, R387). -/
def netRetrain (p lane : Nat) (again : Bool) (s : State) : State :=
  let l := laneLport s p lane
  if lportUp s l then (lportDown l s).modLport l fun x => { x with training := again } else s

/-- The links behind a lane retrain (R68): the Kamard port of two lanes, the sub-link of eight, the logical port, which without a spare stays down (R370). -/
def laneRetrain (d lane : Nat) (spare : Bool) (s : State) : State :=
  if 40 ≤ d then kamRetrain (4 * (d - 40) + lane % 8 / 2) s
  else if d = 30 ∨ d = 31 then jalRetrain (2 * (d - 30) + lane % 16 / 8) s
  else if 32 ≤ d then netRetrain (d - 32) lane spare s
  else s

/-- The spare stands in for a lane of a Kamard, Jalras or network port at once, and the port retrains (R68). -/
def takeSpare (d lane : Nat) (s : State) : State := laneRetrain d lane true (placeSpare d lane s)

/-- A lane is marked for substitution (R68): the spare is taken, or waits for a host port's link-down; with the spare in use the port stays at reduced width, a Kamard port on one lane (R318). -/
def markLane (d lane : Nat) (s : State) : State :=
  if (s.lane d lane).marked then s
  else
    let s1 := s.modLane d lane fun l => { l with marked := true, fails := 0 }
    if spareTaken (laneGroup d) s then
      let s2 := laneRetrain d lane false { s1 with phys := { s1.phys with reduced := setBit s1.phys.reduced d } }
      raiseAlarm 0x19 (if 40 ≤ d then kamNarrow (4 * (d - 40) + lane % 8 / 2) s2 else s2)
    else if hostGroup d then s1 else takeSpare d lane s1

/-- LANE_EYE_CHECK: the second failed check in a row marks the lane; one failed check that is followed by a passed one was transient (R68, R489). -/
def execLaneEyeCheck (d : Fin 64) (lane : Fin 16) (ok : Bool) (s : State) : Res := onRun s fun s =>
  let l := s.lane d lane
  let e := plainErr 0x0201 d lane 0 lane 0
  if !hasBit s.power.on d || l.marked then s
  else if ok then if l.fails = 0 then s else transientFault e (s.modLane d lane fun l => { l with fails := 0 })
  else if l.fails = 0 then s.modLane d lane fun l => { l with fails := 1 }
  else markLane d lane (lastingFault { e with code := 0x0202 } s)

/-! ## The standby rail (R29, R44, R59, R503) -/

/-- VDD_AON_UP: the always-on domain starts at its own reset values; the chip is in reset until PWRGOOD and RESET_N allow it out (R11, R44). -/
def execVddAonUp (s : State) : Res :=
  if s.phase = .unpowered then
    .next (chipReset { s with phase := .reset, aon := {}, cond := {}, time := 0, phys := { s.phys with refLost := 0 }, host := { s.host with ended := Tbl.mapVals s.host.ended fun _ _ => 0 } })
  else .next s

/-- VDD_AON_DOWN: the whole chip loses its power; fuses, boot NOR and media keep what they hold, waiting event records are lost uncounted (R46, R503). -/
def execVddAonDown (s : State) : Res := onAon s fun s =>
  let s1 := chipReset { s with cond := {}, phys := { s.phys with refLost := 0 } }
  { s1 with phase := .unpowered, aon := {}, jtag := {}, power := { s1.power with on := 0 } }

end Sys2Proof.Machine
end

