-- ==== Sys2Proof/Machine/BootOps.lean ====
section
/-! DEFINITION. Machine/BootOps.lean: image checks, the recovery state, fuse fields, and what the restart does to a firmware update (R79 to R95, R517, R522 to R529). -/
namespace Sys2Proof.Machine
open Sys2Proof

/-! ## Keys and fuses (R85, R88, R89) -/

def State.setOwner (s : State) (n : Nat) (x : OwnerSlot) : State :=
  { s with fuses :=
    if n = 0 then { s.fuses with owner0 := x } else if n = 1 then { s.fuses with owner1 := x }
    else if n = 2 then { s.fuses with owner2 := x } else { s.fuses with owner3 := x } }

/-- An owner slot is usable: programmed, not revoked, rows sound (R89). -/
def slotUsable (s : State) (n : Nat) : Bool :=
  decide (n < 4) && (ownerSlot s n).programmed && !(ownerSlot s n).damaged && !s.fuses.revoke.getLsbD n

/-- A public key is the one that a slot number names: a usable slot's, or the vendor's on an unowned chip (R81 check 2, R90). -/
def keyOfSlot (s : State) (slot : Nat) (key : List Byte) : Bool :=
  if slot = 255 then !isOwned s && decide (Config.sha384 key = s.fuses.vendorHash)
  else slotUsable s slot && decide (Config.sha384 key = (ownerSlot s slot).hash)

/-- DEVICE_UID as 16 bytes, bits 7 to 0 first (R90). -/
def uidBytes (s : State) : List Byte := leBytes 16 s.fuses.uid.toNat

/-- MFG_ID, the 21 bytes of rows 0 to 2 (R85). -/
def mfgId (s : State) : List Byte := s.fuses.mfg

/-- Logical bits 0 to 69 of the incremental area as 9 bytes (R95). -/
def incrementalBytes (s : State) : List Byte :=
  leBytes 9 (s.fuses.rollback.toNat + 2 ^ 64 * s.fuses.revoke.toNat + flag 68 s.fuses.debugLock + flag 69 s.fuses.debugPermanent)

/-- The configuration measurement (R95). -/
def measConfigOf (s : State) : List Byte :=
  Config.sha384 (mfgId s ++ s.fuses.vendorHash ++ [s.fuses.vendorRsv]
    ++ (List.range 4).flatMap (fun n => (ownerSlot s n).rows) ++ incrementalBytes s ++ le8 s.boot.boardId.toNat)

/-! ## Images (R79 to R83) -/

def payloadMax : ImageType → Nat
  | .stage1 => 393216
  | .controlCore => 16777216 - 256
  | .bridge => 7864320 - 256

/-- Where an image stands in its region (R79). -/
def imageOffset : ImageType → Nat
  | .stage1 => 0 | .controlCore => 0x80000 | .bridge => 0x1080000

/-- The load target of an image (R79): service-processor SRAM, or HBM. -/
def loadsToSram : ImageType → Bool
  | .stage1 => true
  | .controlCore | .bridge => false

/-- Check 1 of R81. -/
def hdrOk (t : ImageType) (h : List Byte) : Bool :=
  hdrNat h 0 4 = 0x48425A4D && hdrNat h 4 2 = 1 && hdrNat h 6 2 = 0x100 && hdrNat h 8 2 = imageNum t && hdrLength h % 16 = 0 && decide (hdrLength h ≤ payloadMax t)

/-- The signed message: header bytes 0x00 to 0x9F and the payload (R81); the digest engine counts its bytes as they stream (R83). -/
def signedMessage (o : ImageObs) : List Byte := o.header.take 160 ++ o.payload

/-- The measurement: SHA-384 of the signed message (R81). -/
def measurementOf (o : ImageObs) : List Byte := Config.sha384 (signedMessage o)

/-- A signature by a public key verifies over a digest; the key must be an uncompressed point (R80, R462). -/
def ecdsaOk (key digest sig : List Byte) : Bool :=
  decide (key.head? = some 4) && Config.ecdsaInRange (key.drop 1) sig && Config.ecdsaVerify (key.drop 1) digest sig

/-- VERIFY_RESULT and VERIFY_RESULT_N after the accelerator's run, with the bits that an upset flipped (R83, R462). -/
def verifyPair (o : ImageObs) : W32 × W32 :=
  let good := ecdsaOk (hdrKey o.header) (measurementOf o) (hdrSignature o.header)
  ((if good then 0xA5C33C5A else 0x0F0F0F0F) ^^^ o.flip, (if good then 0x5A3CC3A5 else 0xF0F0F0F0) ^^^ o.flipN)

/-- The first failing check of an image, as FAIL_CODE names it (R81, R83). -/
def imageFail (t : ImageType) (o : ImageObs) (s : State) : Option Byte :=
  let h := o.header
  let r := verifyPair o
  if !hdrOk t h then some 0x01
  else if !keyOfSlot s (hdrKeySlot h) (hdrKey h) then some 0x02
  else if decide (hdrSecurity h < rollbackValue s) || decide (64 < hdrSecurity h) then some 0x04
  else if hdrDeviceBound h && hdrUid h ≠ s.fuses.uid then some 0x05
  else if hdrDebugOnly h && !debugIsOpen s then some 0x06
  else if r.1 ≠ 0xA5C33C5A || r.2 ≠ 0x5A3CC3A5 || (r.1 ^^^ r.2) ≠ 0xFFFFFFFF then some 0x03
  else if (signedMessage o).length ≠ 160 + hdrLength h then some 0x08
  else none

def imageInfo (o : ImageObs) : ImageInfo :=
  { fwVersion := hdrVersion o.header, securityVersion := hdrSecurity o.header, keySlot := hdrKeySlot o.header, measurement := measurementOf o
    payload := Config.sha384 o.payload }

/-- What the NOR holds of an image that was read from it. -/
def imageRec (o : ImageObs) : ImgRec := { header := o.header, payload := o.payload }

/-- The accelerator's result registers after an image's run (R83). -/
def showPair (o : ImageObs) (s : State) : State :=
  { s with cipher := { s.cipher with ecdsa := { s.cipher.ecdsa with result := (verifyPair o).1, resultN := (verifyPair o).2 } } }

/-- The image stands in its load target, which is open again; stage 1 and the control-core firmware are entered at their entry address (R79, R83). -/
def loadImage (t : ImageType) (o : ImageObs) (s : State) : State :=
  let a := hdrLoad o.header
  let e := a + BitVec.ofNat 64 (hdrEntry o.header)
  let s1 : State := { s with
    boot := { s.boot with
      loads := Tbl.set s.boot.loads (imageNum t) (a, e, o.payload.length)
      sram := if loadsToSram t then o.payload else s.boot.sram }
    onchip := if loadsToSram t then s.onchip else Mem.putBytes s.onchip a.toNat o.payload }
  if t = .bridge then s1 else emit (.jump t e) s1

/-- What a region holds of an image. -/
def regionImage (t : ImageType) (r : Region_) : Option ImgRec := match t with
  | .stage1 => r.stage1
  | .controlCore => r.control
  | .bridge => r.bridge

/-- The header of an image of the region being tried, as the NOR gives it; an erased one reads as ones (R79). -/
def streamHeader (t : ImageType) (s : State) : List Byte :=
  let at_ := regionBase (s.boot.src = .staging) + imageOffset t
  match regionImage t (if s.boot.src = .staging then s.fw.staging else s.fw.primary) with
  | some r => r.header
  | none =>
    if t = .stage1 && s.boot.src = .primary && s.fw.erased then List.replicate 256 0xFF
    else match s.nor.headers.find? fun e => e.1 = at_ with
      | some e => e.2
      | none => List.replicate 256 0xFF

/-- The loader, the service processor with agent identifier 0x01, opens a free SHA-384 context and gives it the total length of the signed message (R83, R457, R459). -/
def openDigest (len : Nat) (s : State) : State :=
  match (List.range 8).find? fun n => !Tbl.has s.cipher.dgs n with
  | some n => { s with cipher := { s.cipher with dgs := Tbl.set s.cipher.dgs n { owner := some 1, alg := 1, length := len } } }
  | none => s

/-- The loader's context is closed. -/
def closeDigest (s : State) : State := { s with cipher := { s.cipher with dgs := s.cipher.dgs.filter fun e => e.2.owner ≠ some 1 } }

/-- An image of the region being tried begins to stream (R72, R76, R83): its header is read; where it checks, a SHA-384 context is opened with the total length, the load target is closed to every other writer, and the payload is read. -/
def openStream (t : ImageType) (s : State) : State :=
  let at_ := regionBase (s.boot.src = .staging) + imageOffset t
  let h := streamHeader t s
  let s1 := norRead at_ 256 { s with boot := { s.boot with stream := some t } }
  if hdrOk t h then
    norRead (at_ + 256) (hdrLength h) (openDigest (160 + hdrLength h)
      { s1 with boot := { s1.boot with target := if loadsToSram t then none else some ((hdrLoad h).toNat, hdrLength h) } })
  else s1

/-- The stream has ended and the checks are made: the load target is open again (R83). -/
def endStream (s : State) : State := closeDigest { s with boot := { s.boot with stream := none, target := none } }

def putImage (t : ImageType) (r : ImgRec) (g : Region_) : Region_ := match t with
  | .stage1 => { g with stage1 := some r }
  | .controlCore => { g with control := some r }
  | .bridge => { g with bridge := some r }

/-- An accepted image of the NOR is what its region holds. -/
def noteImage (t : ImageType) (o : ImageObs) (s : State) : State := match s.boot.src with
  | .primary => { s with fw := { s.fw with primary := putImage t (imageRec o) s.fw.primary } }
  | .staging => { s with fw := { s.fw with staging := putImage t (imageRec o) s.fw.staging } }
  | .download => s

/-- A step of the boot fails: the first failure of the boot sets FAIL_CODE, and the BOOT_FAIL event is written (R74, R75). -/
def bootFails (c : Byte) (s : State) : State := bootFailEvent (failCode c s)

/-- RECOVERY_STATE_ENTRY: FAULT_N, STAGE RECOVERY; the host ports train (R84). -/
def enterRecovery (s : State) : State :=
  switchOnAll [28, 29] (setStage .recovery { endStream s with boot := { s.boot with stream := none, target := none, served := true }, pins := { s.pins with faultAsserted := true } })

/-- STAGE where a recovery download leaves RECOVERY: the stages of the boot count again from stage 1 (log entry 28). -/
def forceStage (st : Stage) (s : State) : State := raiseBoth cBootStage { s with boot := { s.boot with stage := st } }

/-- The order n of brainpoolP384r1 (R94; RFC 5639). -/
def curveOrder : Nat := 0x8CB91E82A3386D280F5D6F7E50E641DF152F7109ED5456B31F166E6CAC0425A7CF3AB6AF6B7FC3103B883202E9046565

/-- Bytes as a number, most significant first. -/
def ofBe (l : List Byte) : Nat := l.foldl (fun n b => n * 256 + b.toNat) 0

/-- The ASCII bytes of a label. -/
def label (t : String) : List Byte := t.toList.map fun c => BitVec.ofNat 8 c.toNat

/-- The identity seed: HMAC-SHA-384 keyed by DEVICE_SECRET under "MZ-IDENTITY", the stepping and the debug state (R94; log entry 166 gives the encoding). -/
def identitySeedOf (secret : List Byte) (s : State) : List Byte :=
  Config.hmacSha384 secret (label "MZ-IDENTITY" ++ le8 s.fuses.stepping.toNat ++ le8 (debugState s))

/-- Step 4: the identity keys and the repair key are derived from the sensed secret (R94). -/
def deriveKeys (s : State) : State :=
  let secret := s.fuses.secret
  let seed := identitySeedOf secret s
  { s with trust := { s.trust with
      secretCopy := some secret
      repairKey := fit 32 (Config.hmacSha384 secret (label "MZ-REPAIR"))
      identitySeed := some seed
      identityScalar := some (ofBe seed % (curveOrder - 1) + 1) } }

/-- Step 8: the device sealing key enters sealing slot 0, the alias key is derived and certified, and the identity seed, its private key and the copy of DEVICE_SECRET are erased (R94, R445). Where an earlier stage 1 of this start-up has had them erased, the alias key and its certificate stay as they are (log entry 211, DESIGN CHOICE). -/
def certifyAlias (meas : List Byte) (s : State) : State :=
  match s.trust.identitySeed, s.trust.identityScalar with
  | some seed, some d =>
    let a := Config.aliasSeed seed meas (debugIsOpen s)
    let k := Config.seedScalar a
    { s with
      cipher := { s.cipher with dsk := some (fit 32 (Config.hmacSha384 seed (label "MZ-SEAL"))) }
      trust := { s.trust with
        secretCopy := none, identitySeed := none, identityScalar := none
        aliasSeed := some a, aliasScalar := some k
        aliasCert := Config.certify d (Config.ecPublic k) meas } }
  | _, _ => s

/-- After step 13: the configuration is measured, the report key derived and certified under the alias key, whose private key is erased (R94, R95). -/
def certifyReport (s : State) : State :=
  let s1 := { s with trust := { s.trust with measConfig := measConfigOf s } }
  { s1 with trust := { s1.trust with
      reportKey := true
      reportCert := Config.certify (s1.trust.aliasScalar.getD 0) (Config.ecPublic (reportScalar s1)) (match s1.boot.cc with | some i => i.measurement | none => [])
      aliasScalar := none } }

/-- Stage 1 is accepted and starts (R72 steps 8, 9 and 11, R83, R94, R445): the host ports, the memories and the chain start. -/
def acceptStage1 (o : ImageObs) (s : State) : State :=
  let i := imageInfo o
  let s1 := certifyAlias i.measurement (loadImage .stage1 o { s with
    boot := { s.boot with sp := some i, keySlot := if i.keySlot = 255 then 15 else i.keySlot }
    chain := { s.chain with started := true } })
  let s2 := noteImage .stage1 o s1
  let s3 := if s.boot.stage = .recovery then forceStage .stage1 { s2 with pins := { s2.pins with faultAsserted := false } } else setStage .stage1 s2
  switchOnAll [28, 29, 13, 14, 15, 16, 17, 18] s3

/-- The control-core image is accepted (R72 step 13, R83, R94): it stands in HBM, the report key is derived, and the bridge image streams next where the region is the source. -/
def acceptControl (o : ImageObs) (s : State) : State :=
  let s1 := certifyReport (noteImage .controlCore o (loadImage .controlCore o { s with boot := { s.boot with cc := some (imageInfo o) } }))
  if s.boot.src = .download then s1 else openStream .bridge s1

/-- R82: both images of a region name one key slot and one security version. -/
def imagesAgree (o : ImageObs) (s : State) : Bool := match s.boot.sp with
  | some i => i.keySlot = hdrKeySlot o.header && i.securityVersion = hdrSecurity o.header
  | none => false

/-- The boot leaves STAGE training for what comes next (R533): the control-core load while that image is not accepted. -/
def memoriesDone (s : State) : State := if s.boot.hbmTrained && s.boot.ddrTrained && s.boot.cc.isNone then setStage .ccLoad s else s

/-! ## A start settles a firmware update (R517, R524, R529) -/

/-- The record is rewritten (R516). -/
def fwRecord (f : FwUpdate) : FwUpdate := { f with seq := f.seq + 1 }

/-- The next-start fallback at a start: the header of the primary region is erased, the ROM boots the staging region (R524). -/
def fwFallNext (f : FwUpdate) : FwUpdate := fwRecord { f with state := 8, primary := { f.primary with stage1 := none }, erased := true }

/-- The update record as a start leaves it. -/
def fwStart (f : FwUpdate) : FwUpdate :=
  if f.state = 2 then fwRecord { f with state := 1, staged := 0, copying := true, copyToPrimary := false }
  else if f.state = 4 then
    if f.mode = 1 then fwRecord { f with state := 1, staged := 0, copying := true, copyToPrimary := false } else fwRecord { f with state := 3 }
  else if f.state = 5 then fwRecord { f with state := 9, staged := 0, copying := true, copyToPrimary := false }
  else if f.state = 6 then fwRecord { f with state := 7, trialStarts := 1 }
  else if f.state = 7 then if f.noFall then f else fwFallNext f
  else if f.state = 8 then
    if f.mode = 1 then (if f.erased then f else fwFallNext f) else fwRecord { f with state := 9, staged := 0, copying := true, copyToPrimary := false }
  else f

end Sys2Proof.Machine
end

