-- ==== Sys2Proof/Machine/Bundle.lean ====
section
/-! DEFINITION. Machine/Bundle.lean: the Damfa bundle and its deltas, the update record in the boot NOR, and the writing of image regions (R511 to R516). -/
namespace Sys2Proof.Machine
open Sys2Proof

/-! ## The bundle (R511, R512) -/

def imageOfNum (n : Nat) : Option ImageType :=
  if n = 1 then some .stage1 else if n = 2 then some .controlCore else if n = 3 then some .bridge else none

def bundleParts (b : List Byte) : Nat := hdrNat b 6 2

/-- An entry of the part table: its type and encoding are defined, and its body lies at a multiple of 16 between the table and the end (R512; log entry 202). -/
def partOf (b : List Byte) (i : Nat) : Option BundlePart :=
  let e := (b.drop (0x100 + 128 * i)).take 128
  let off := hdrNat e 4 4
  let len := hdrNat e 8 4
  let body := (b.drop off).take len
  let p (t : ImageType) : BundlePart := {
    image := t, delta := hdrNat e 2 1 = 1, start := off, body := body, resultLength := hdrNat e 0xC 4
    fwVersion := BitVec.ofNat 64 (hdrNat e 0x10 8), digest := (e.drop 0x18).take 48, base := (e.drop 0x48).take 48 }
  if 1 < hdrNat e 2 1 ∨ off % 16 ≠ 0 ∨ off < 0x100 + 128 * bundleParts b ∨ b.length < off + len ∨ hdrNat e 0xC 4 ≠ 256 + hdrLength body then none
  else (imageOfNum (hdrNat e 0 2)).map p

def partsFrom (b : List Byte) : List Nat → Option (List BundlePart)
  | [] => some []
  | i :: is => match partOf b i, partsFrom b is with
    | some p, some ps => some (p :: ps)
    | _, _ => none

/-- Two parts have one type, or their bodies overlap. -/
def partsClash (p q : BundlePart) : Bool :=
  p.image = q.image || (decide (p.start < q.start + q.body.length) && decide (q.start < p.start + p.body.length))

def partsApart : List BundlePart → Bool
  | [] => true
  | p :: ps => !ps.any (partsClash p) && partsApart ps

/-- The signed message of a bundle: header bytes 0x000 to 0x09F and the part table (R511). -/
def bundleMessage (b : List Byte) : List Byte := b.take 0xA0 ++ (b.drop 0x100).take (128 * bundleParts b)

/-- MIN and MAX of interface i. -/
def ifaceAt (b : List Byte) (i : Nat) : Nat × Nat := (hdrNat b (0x28 + 2 * i) 1, hdrNat b (0x29 + 2 * i) 1)

/-- The bundle that the bytes spell; none where the fourth check of R514 fails. -/
def bundleOf (len : Nat) (b : List Byte) : Option Bundle :=
  let n := bundleParts b
  if hdrNat b 0 4 ≠ 0x4D445A4D ∨ hdrNat b 4 2 ≠ 1 ∨ n = 0 ∨ 3 < n ∨ hdrNat b 0x10 4 ≠ len then none
  else match partsFrom b (List.range n) with
    | none => none
    | some ps =>
      if !partsApart ps then none
      else some {
        keySlot := hdrNat b 0x14 1, publicKey := (b.drop 0x38).take 97, securityVersion := hdrNat b 0x15 1
        manifestVersion := BitVec.ofNat 64 (hdrNat b 8 8), deviceBound := (hdrNat b 0x16 2).testBit 0, debugOnly := (hdrNat b 0x16 2).testBit 1
        deviceUid := BitVec.ofNat 128 (hdrNat b 0x18 16), iface := (List.range 8).map (ifaceAt b)
        digest := Config.sha384 (bundleMessage b), signature := (b.drop 0xA0).take 96, parts := ps }

/-! ## Deltas (R513) -/

/-- The output of a delta's operations over a base, with a limit on their number (R510); none where the delta is malformed. -/
def deltaFrom (base : List Byte) : Nat → List Byte → List Byte → Option (List Byte)
  | 0, _, _ => none
  | n + 1, ops, out =>
    let op := hdrNat ops 0 1
    let len := hdrNat ops 4 4
    let off := hdrNat ops 8 8
    let rest := ops.drop 16
    let padded := ceilDiv len 16 * 16
    if ops.length < 16 then none
    else if op = 1 then if base.length < off + len then none else deltaFrom base n rest (out ++ (base.drop off).take len)
    else if op = 2 then if rest.length < padded then none else deltaFrom base n (rest.drop padded) (out ++ rest.take len)
    else if op = 3 ∧ rest = [] then some out
    else none

/-- The measurement of an image that a region holds (R81). -/
def recMeasurement (r : ImgRec) : List Byte := measurementOf { header := r.header, payload := r.payload }

/-- A delta applied to the primary region's image, whose measurement must be BASE_MEAS; none where it does not match or the delta is malformed (R513). -/
def applyDelta (p : BundlePart) (s : State) : Option ImageObs :=
  match regionImage p.image s.fw.primary with
  | none => none
  | some r =>
    if recMeasurement r ≠ p.base ∨ p.body.length < 256 then none
    else match deltaFrom r.payload 65536 (p.body.drop 256) [] with
      | none => none
      | some out => if out.length = hdrLength p.body then some { header := p.body.take 256, payload := out } else none

/-- The image that a part results in (R512, R513). -/
def partImage (p : BundlePart) (s : State) : Option ImageObs :=
  if p.delta then applyDelta p s else some { header := p.body.take 256, payload := p.body.drop 256 }

/-! ## The update record and the image regions in the boot NOR (R76, R77, R515, R516) -/

/-- SHA-384 over the measurements of a region's images, in IMAGE_TYPE order (R516). -/
def regionDigest (g : Region_) : List Byte :=
  Config.sha384 ([ImageType.stage1, .controlCore, .bridge].flatMap fun t => match regionImage t g with
    | some r => recMeasurement r
    | none => [])

/-- RUNNING: the control-core FW_VERSION while no bundle has been confirmed; before that image is accepted, the primary region's (R516; log entry 202). -/
def runningVersion (s : State) : Nat :=
  if s.fw.running ≠ 0 then s.fw.running.toNat
  else match s.boot.cc, s.fw.primary.control with
    | some x, _ => x.fwVersion.toNat
    | none, some r => (hdrVersion r.header).toNat
    | none, none => 0

/-- The 4 KiB of a copy of the record. -/
def updateRecord (s : State) : List Byte :=
  let f := s.fw
  let b := le32 0x52555A4D ++ le16 1 ++ le8 f.state ++ le8 f.mode ++ le64 f.seq.toNat ++ le64 (runningVersion s) ++ le64 f.staged.toNat
    ++ le8 f.trialStarts ++ zeros 7 ++ regionDigest f.primary ++ regionDigest f.staging ++ zeros 3956
  b ++ le32 (Config.crc32c b).toNat

/-- The copies take turns: the one with the lower SEQ is erased and rewritten. -/
def recordOffset (s : State) : Nat := 0x3C000 + 0x1000 * (s.fw.seq.toNat % 2)

/-- The record as it stands is written. -/
def writeRecord (s : State) : State := norWrites [.erase4 (recordOffset s), .program (recordOffset s) (updateRecord s)] s

/-- The update changes and its record is rewritten, with SEQ one higher. -/
def State.saveFw (s : State) (f : FwUpdate → FwUpdate) : State := writeRecord { s with fw := fwRecord (f s.fw) }

/-- The NOR operations that put an image at its place in a region: its sectors are erased and it is programmed; an absent image's header reads erased. -/
def imageOps (staging : Bool) (g : Region_) (t : ImageType) : List NorOp :=
  let at_ := regionBase staging + imageOffset t
  match regionImage t g with
  | some r => (List.range (ceilDiv (256 + r.payload.length) 65536)).map (fun i => NorOp.erase64 (at_ + 65536 * i)) ++ [.program at_ (r.header ++ r.payload)]
  | none => [.erase4 at_]

/-- A region of the NOR is written with a set of images. -/
def writeRegion (staging : Bool) (g : Region_) (s : State) : State :=
  norWrites ([ImageType.stage1, .controlCore, .bridge].flatMap (imageOps staging g)) s

/-- A start settles the update, and rewrites the record where it changed; a fallback that erases the primary header erases its sector (R517, R524, R529). -/
def startFw (s : State) : State :=
  let s1 := { s with fw := fwStart s.fw }
  if s1.fw.seq = s.fw.seq then s1
  else writeRecord (if s1.fw.erased && !s.fw.erased then norWrites [.erase4 (regionBase false)] s1 else s1)

end Sys2Proof.Machine
end

