-- ==== Sys2Proof/Machine/Boot.lean ====
section
/-! DEFINITION. Machine/Boot.lean: the boot from reset exit to READY (R45, R58, R72 to R75, R84 to R86, R261 to R277, R503, R517, R531, R533). -/
namespace Sys2Proof.Machine
open Sys2Proof

/-! ## Reset exit (R45, R57, R72 steps 1 to 6, R74, R86) -/

/-- The row of R85's table that a fuse row or a logical bit (from 0x8000) belongs to (R508 FUSE_ROW_ERROR FIELD). -/
def fuseField (row : Nat) : Nat :=
  if row < 3 then 0 else if row < 8 then 1 else if row < 15 then 2 else if row < 43 then 3 else if row < 211 then 4 else if row < 235 then 5
  else if row < 256 then 6
  else
    let b := row - 0x8000
    if b < 64 then 7 else if b < 68 then 8 else if b = 68 then 9 else if b = 69 then 10 else 11

def fuseRowEvent (row kind : Nat) (s : State) : State := event 2 6 (le16 row ++ le8 (fuseField row) ++ le8 kind) s

/-- A whole-row row that cannot be corrected: an owner slot counts as revoked, every row is named by an event (R86). -/
def badRow (row : Nat) (s : State) : State :=
  let s1 := if 15 ≤ row ∧ row ≤ 42 then
      let n := (row - 15) / 7
      s.setOwner n { ownerSlot s n with programmed := true, damaged := true }
    else s
  fuseRowEvent row 1 s1

def badRows : List Nat → State → State
  | [], s => s
  | r :: rs, s => badRows rs (badRow r s)

/-- The rows of the sensed array with an error that their SEC-DED code cannot correct: two wrong bits or more; one wrong bit is corrected in the sensed copy (R86; log entry 167). -/
def rowsLost (l : List (Nat × W64)) : List Nat := (l.filter fun e => decide (e.1 < 240) && decide (2 ≤ countBits e.2.toNat 64)).map (·.1)

/-- A row whose loss halts the chip: DEVICE_SECRET or VENDOR_KEY_HASH (R86). -/
def fatalRow (row : Nat) : Bool := decide (3 ≤ row) && decide (row ≤ 14)

/-- Logical bits below n with a blown fuse are completed to three (R86). -/
def completeBits (f : Fuses) : Nat → Fuses
  | 0 => f
  | n + 1 =>
    let g := completeBits f n
    if g.incr.getLsbD (3 * n) || g.incr.getLsbD (3 * n + 1) || g.incr.getLsbD (3 * n + 2) then g.blow n 7 else g

/-- A record that was being written at the last reset is torn, or its slot reads erased (R503). -/
def settleTorn (torn : Bool) (s : State) : State :=
  let e := s.evr
  let n := e.nextSlot
  let t := if e.begun && torn then Tbl.set e.tornSlots n () else e.tornSlots
  { s with evr := { e with tornSlots := t, torn := t.length, nextSlot := if e.begun && torn then n + 1 else n, begun := false } }

/-- What a slot of the repair partition reads as. -/
def repairSlot (reads : List (Nat × List Byte)) (i : Nat) (b : List Byte) : List Byte := match reads.find? fun e => e.1 = i with
  | some e => fit 32 e.2
  | none => b

/-- The records of the repair partition are read in order up to the first erased slot; one that does not check is ignored, with an event (R70, R77). -/
def readRepairs (reads : List (Nat × List Byte)) : Nat → List (List Byte) → State → State
  | _, [], s => s
  | i, b :: bs, s =>
    let r := repairSlot reads i b
    if r = List.replicate 32 0xFF then s
    else match repairReject s.trust.repairKey r with
      | some why => readRepairs reads (i + 1) bs (event 1 5 (r ++ le16 i ++ le8 why) s)
      | none => readRepairs reads (i + 1) bs { s with phys := { s.phys with known := s.phys.known ++ [repairOf r] } }

/-- Step 4: the entries of the fuses are known, and those of the five always-needed domains in effect (R72, R85, R86). -/
def factoryStep (obs : BootObs) (s : State) : State :=
  let l := factoryFrom (rowsLost obs.rowErrors) 0 s.fuses.factoryRepairs
  applyEach (l.filter fun r => decide (r.domain < 5)) { s with phys := { s.phys with known := l } }

/-- CODE of the record of a fail-stop: class 0x07 with the cause of its error; 0x060A for the system reference (R488, R532). -/
def stopCode (f : FailStopRec) : W16 := if f.cause = 5 then 0x060A else BitVec.ofNat 16 (0x0700 + f.code.toNat % 256)

/-- A fail-stop kept from before the boot: its error record and its event (R494, R508, R532). -/
def tellFailStop (f : FailStopRec) (s : State) : State :=
  let x := if f.cause = 5 then powerRecordSeq 5 1 0 (f.reading.setWidth 64) s
    else errorRecord 5 false { plainErr (stopCode f).toNat 1 0 0 f.cause 0 with info1 := f.faultReg } s
  eventFull 3 0x23 0xFF true x.1 (le8 f.cause ++ zeros 7 ++ le64 f.faultReg.toNat) x.2

/-- The Carafe was lost without a vault: the event names the pools this head owned, with the vault-lost alarm (R276, R494). -/
def tellCarafeLost (pools : Byte) (s : State) : State := raiseAlarm 0x22 (eventFull 3 0x14 0xFF true 0 (le8 pools.toNat) s)

/-- Events held over from before the boot are written from step 5 onward (R74). -/
def heldEvents (s : State) : State :=
  let s1 := match s.cond.resetChatter with
    | some n => eventFull 1 4 0xFF true 0 (le32 n) s
    | none => s
  let s2 := match s.aon.failStop with
    | some f => tellFailStop f s1
    | none => s1
  let s3 := match s.aon.carafeLost with
    | some p => tellCarafeLost p s2
    | none => s2
  { s3 with
    cond := { s3.cond with resetChatter := none }
    aon := { s3.aon with failStop := none, carafeLost := none } }

/-- The chip halts at boot: nothing runs until a reset. What has been recorded is written to the NOR first (R74). -/
def haltBoot (readable : Bool) (s0 : State) : State :=
  let s := if readable then recordsOut s0.evr.buffer s0 else s0
  { setStage .halted { s with pins := { s.pins with faultAsserted := true } } with phase := .stopped }

/-- The factory block checks: MAGIC, VERSION, CRC and DEVICE_UID (R78). -/
def factoryOk (b : List Byte) (s : State) : Bool :=
  hdrNat b 0 4 = 0x42465A4D && hdrNat b 4 2 = 1 && (b.drop 8).take 16 = uidBytes s
    && hdrNat b 0xFFC 4 = (Config.crc32c (b.take 0xFFC)).toNat

/-- MAC_COUNT of a factory block, and the certificates as DEV_CERT_LEN and INT_CERT_LEN cut them (R78). -/
def factoryMacs (b : List Byte) : Nat := hdrNat b 0x1E 1
def certBytes (b : List Byte) (at_ : Nat) (c : List Byte) : List Byte := c.take (min 16384 (hdrNat b at_ 4))

/-- MAC_BASE of a factory block that checks, or the locally administered address of R78. -/
def macBaseOf (s : State) : BitVec 48 :=
  if factoryOk s.nor.factory s then BitVec.ofNat 48 (ofBe ((s.nor.factory.drop 0x18).take 6))
  else
    let d := Config.sha256 (uidBytes s)
    BitVec.ofNat 48 (((List.range 5).foldl (fun n i => n * 256 + (if i = 4 then (d.getD 4 0).toNat / 32 * 32 else (d.getD i 0).toNat)) 2))

/-- The factory block as the boot reads it at step 4, and where it checks the certificates at the lengths that it gives; a block that does not check is ignored (R78). -/
def readFactory (obs : BootObs) (s : State) : State :=
  let s1 := norRead 0x20000 4096 { s with nor := { s.nor with factory := obs.factory, devCert := [], intCert := [], headers := obs.headers } }
  if factoryOk obs.factory s1 then
    let dev := certBytes obs.factory 0x20 obs.devCert
    let mid := certBytes obs.factory 0x24 obs.intCert
    norRead 0x25000 mid.length (norRead 0x21000 dev.length { s1 with nor := { s1.nor with devCert := dev, intCert := mid } })
  else s1

/-- Step 5: SFDP is read at 25 MHz and sets how the bus runs (R72, R76). -/
def readSfdp (obs : BootObs) (s : State) : State :=
  let s1 := emit (.nor .sfdp) s
  { s1 with boot := { s1.boot with norMode := if obs.sfdp then obs.mode else .slow13 } }

/-- The session numbers of this boot, and the keys that the service processor draws at each boot (R272, R381, R411, R444). -/
def drawBoot (s : State) : State :=
  let (a, s1) := draw s
  let (b, s2) := draw s1
  let (c, s3) := draw s2
  let (d, s4) := draw s3
  { s4 with
    jal := { s4.jal with session := BitVec.ofNat 32 (a % (2 ^ 32 - 1) + 1) }
    net := { s4.net with session := BitVec.ofNat 32 (b % (2 ^ 32 - 1) + 1) }
    carafe := { s4.carafe with vaultKey := c }
    cipher := { s4.cipher with slots := [
      (0, { use := .vault, gcmKind := false, key := leBytes 64 c, pinned := true }),
      (1, { use := .filler, gcmKind := false, key := leBytes 64 d, pinned := true })] } }

/-- Conditions that have persisted through the reset raise their alarms again. -/
def lostRefsAgain (s : State) : State :=
  let s1 := if refDark s = [] then s else raiseAlarm 0x13 (raiseAlarm 0x0A s)
  if s.phys.refLost.getLsbD 8 then raiseAlarm 0x0B s1 else s1

/-- Class of a unit that fails its self-test, with cause 0x06 (R488). -/
def unitCode (d : Nat) : Nat :=
  if 9 ≤ d ∧ d ≤ 18 then 0x0106 else if 28 ≤ d then 0x0206 else 0x0306

/-- Units that fail their self-test are fenced from the start (R492). -/
def failUnits : List Nat → State → State
  | [], s => s
  | d :: ds, s => failUnits ds (if 5 ≤ d ∧ d < 64 then fence (plainErr (unitCode d) d 0 0 0 0) false false s else s)

/-- Steps 4 and 5 (R72, R74, R86). -/
def fusesStep (obs : BootObs) (s : State) : State :=
  let s1 := setStage .fuses { s with pins := { s.pins with faultAsserted := false } }
  let s2 := factoryStep obs (deriveKeys { s1 with fuses := completeBits s1.fuses 341 })
  settleTorn obs.torn (readSfdp obs (readFactory obs s2))

/-- The chip boots: steps 1 to 6 of R72. -/
def bootStart (obs : BootObs) (s : State) : State :=
  let s0 := { s with phase := .run, boot := { s.boot with stage := .rom, exitTime := s.time } }
  if !obs.selfTestOk then { failCode 0x0A (setStage .halted s0) with phase := .stopped }
  else
    let s1 := badRows (rowsLost obs.rowErrors) (heldEvents (fusesStep obs s0))
    if (rowsLost obs.rowErrors).any fatalRow then haltBoot obs.norReadable (bootFails 0x0B s1)
    else
      let s2 := lostRefsAgain (readRepairs obs.repairReads 0 s1.nor.repairs (norRead repairBase (32 * min repairMax (s1.nor.repairs.length + 1)) s1))
      let s3 := failUnits obs.unitFails (drawBoot (startFw { s2 with net := { s2.net with macBase := macBaseOf s2 } }))
      if s3.phase ≠ .run then s3
      else if !obs.norReadable then enterRecovery (failCode 0x07 s3)
      else openStream .stage1 (setStage .stage1Load s3)

/-- CHIP_RESET_EXIT: RESET_N is deasserted, where it was asserted; with PWRGOOD and RESET_N at their run levels the chip leaves reset (R45). -/
def execChipResetExit (obs : BootObs) (at_ : Nat) (s : State) : Res := onAon s fun s =>
  let x := if s.cond.resetN.level then resetEdge false at_ s else (s, true)
  let s1 := x.1
  if s1.phase = .reset && s1.cond.pwrgood.level && !s1.cond.resetN.level then bootStart obs s1 else s1

/-- BOARD_ID_SAMPLE: the straps, once they have been steady for 1 ms, or 100 ms after reset exit as they are, with an event (R58). -/
def execBoardIdSample (straps : BitVec 4) (steady : Bool) (s : State) : Res := onRun s fun s =>
  if s.boot.boardSampled then s
  else
    let s1 := { s with boot := { s.boot with boardId := straps, boardSampled := true } }
    if steady then s1 else event 1 3 (le8 straps.toNat) (reachTime (s.boot.exitTime.toNat + 100000000) s1)

/-! ## Images (R72 steps 6 to 8 and 13, R73, R84) -/

/-- Stage 1 of the region being tried is refused: the other region, or the recovery state. -/
def refuseStage1 (c : Byte) (s : State) : State :=
  let s1 := bootFails c s
  if s.boot.src = .primary then openStream .stage1 { s1 with boot := { s1.boot with src := .staging } } else enterRecovery s1

/-- A control-core image that is refused leaves the region without an accepted one (R82, R84). -/
def judgeControl (o : ImageObs) (s : State) : State :=
  match imageFail .controlCore o s with
  | some c => enterRecovery (bootFails c s)
  | none => if imagesAgree o s then memoriesDone (acceptControl o s) else enterRecovery (bootFails 0x01 s)

/-- IMAGE_VERIFY_DONE: the stream of one image of the NOR has ended and its checks are made (R81 to R84). -/
def execImageVerifyDone (t : ImageType) (o : ImageObs) (s : State) : Res := onRun s fun s =>
  if s.boot.stream ≠ some t then s
  else
    let s1 := showPair o (endStream s)
    match t with
    | .stage1 =>
      let o1 := if s.boot.src = .primary && s.fw.erased then { o with header := List.replicate 256 0xFF } else o
      match imageFail .stage1 o1 s1 with
      | some c => refuseStage1 c s1
      | none => acceptStage1 o1 s1
    | .controlCore => judgeControl o s1
    | .bridge =>
      if hdrAbsent o.header then s1
      else match imageFail .bridge o s1 with
        | some c => bootFails c s1
        | none => noteImage .bridge o (loadImage .bridge o { s1 with boot := { s1.boot with bridge := some (imageInfo o) } })

/-! ## Memories and firmware (R24, R72 steps 11, 12 and 14, R215, R249) -/

/-- HBM_TRAINING_DONE: the stacks that are not fenced are on and trained. -/
def execHbmTrainingDone (s : State) : Res := onRun s fun s =>
  if s.boot.sp.isSome && (List.range 4).all fun i => hasBit s.power.on (13 + i) || hasBit s.power.fenced (13 + i) then
    let s1 := memoriesDone (setStage .training { s with boot := { s.boot with hbmTrained := true } })
    if s.boot.hbmTrained || s.boot.cc.isSome || s.boot.src = .download || s.boot.stage = .recovery then s1 else openStream .controlCore s1
  else s

/-- The populated slots of channel c: DIMM entries 2c and 2c + 1. -/
def channelShape (l : List Dimm) (c : Nat) : Bool × Bool :=
  let at_ := fun i => match l[i]? with | some d => d.present | none => false
  (at_ (2 * c), at_ (2 * c + 1))

/-- R24: identical on all 8 channels, with one or two DIMMs per channel. -/
def dimmsAlike (l : List Dimm) : Bool :=
  let p := l.filter (·.present)
  channelShape l 0 ≠ (false, false) && (List.range 8).all (fun c => decide (channelShape l c = channelShape l 0))
    && match p with
      | [] => false
      | d :: ds => ds.all fun x => x.ranks = d.ranks && x.speed = d.speed && x.gib = d.gib

def dimmTotal (l : List Dimm) : Nat := ((l.filter (·.present)).map (·.gib)).sum

/-- The reason for which a population is refused, if there is one (R24, R508 DDR_REFUSED). -/
def ddrRefused (l : List Dimm) (ok : Bool) : Option Nat :=
  if !dimmsAlike l then some 1 else if dimmTotal l < 512 then some 2 else if 4096 < dimmTotal l then some 3 else if !ok then some 4 else none

def dimmBytes (d : Dimm) : List Byte := le8 (if d.present then 1 else 0) ++ le8 d.ranks ++ le16 d.speed ++ le32 d.gib

/-- DDR_TRAINING_DONE: the population is accepted, or refused and the chip held not ready (R24, R72 step 12, R74). -/
def execDdrTrainingDone (dimms : List Dimm) (ok : Bool) (s : State) : Res := onRun s fun s =>
  if s.boot.sp.isNone || s.boot.ddrTrained || s.boot.held || !(hasBit s.power.on 17 && hasBit s.power.on 18) then s
  else match ddrRefused dimms ok with
    | some why =>
      bootFails 0x09 (event 3 2 ((dimms.take 16).flatMap dimmBytes ++ zeros (8 * (16 - dimms.length)) ++ le8 why)
        { s with boot := { s.boot with held := true }, pins := { s.pins with faultAsserted := true } })
    | none =>
      memoriesDone { s with boot := { s.boot with ddrTrained := true, ddrBytes := dimmTotal dimms * 2 ^ 30 } }

/-- The areas of the Carafe, one behind the other in the order of R241: base within the Carafe and size (log entry 228). -/
def carafeAreas : List (Nat × Nat) :=
  let sizes := [2 ^ 35, 2 ^ 26, 2 ^ 32, 2 ^ 30, 2 ^ 30, 96 * 2 ^ 20, 96 * 2 ^ 20, 1792 * 2 ^ 20]
  sizes.zipIdx.map fun x => ((sizes.take x.2).sum, x.1)

/-- CONTROL_CORE_START: firmware runs on cluster 0 and lays out the Carafe, the unit domains are switched on, and the port domains after them (R72 steps 14 and 15, R531). -/
def execControlCoreStart (s : State) : Res := onRun s fun s =>
  if s.boot.cc.isSome && s.boot.hbmTrained && s.boot.ddrTrained && !s.boot.held && !s.boot.started && s.boot.stage ≠ .recovery then
    let s1 := unsealKtwk (setStage .units { s with
      boot := { s.boot with started := true, served := true }
      grinder := { s.grinder with bucketBits := if s.boot.ddrBytes < 2 ^ 40 then 29 else 30 }
      carafe := { s.carafe with areas := carafeAreas }
      mapCache := { s.mapCache with regions := regionsFor s.boot.ddrBytes } })
    switchOnAll ([5, 6, 7, 8, 9, 10, 11, 12, 19, 20, 21, 22, 23, 24, 25, 26, 27] ++ (List.range 34).map (30 + ·)) s1
  else s

/-! ## Vault replay (R275 to R277) -/

/-- The other head holds copies of what this head has lost: it lives, or a link to it is up (log entry 29). -/
def peerHolds (s : State) : Bool := peerAlive s || peerSubs s ≠ []

/-- The current ownership generation of a pool as its superblock gives it, and whether the vault's writes of the pool still count (R275). -/
def ownerMatches (img : VaultImage) (owners : List (Nat × W32)) (s : State) (pool : Nat) : Bool :=
  let cur := match owners.find? fun e => e.1 = pool with
    | some e => e.2.toNat
    | none => match Tbl.find s.pools pool with
      | some p => p.ownerGen.toNat
      | none => 0
  decide (img.ownerGens.getD pool 0 = cur)

/-- The dirty-data section can be decrypted: a key-table wrapping key that this head holds, or its sealing key for WRAP 1, unwraps the vault key (R272, R446). -/
def vaultOpens (img : VaultImage) (s : State) : Bool :=
  (if img.wrapDsk then s.cipher.dsk.toList else s.cipher.ktwk.toList ++ s.cipher.ktwkPrev.toList).any fun k =>
    (unwrapAs k img.wrapped 2 (img.gen % 2 ^ 32)).isSome

/-- Pools named by VAULT_LOST: those whose OWNER_GEN in the anchor shows this head as owner (R276). -/
def lostPools (img : VaultImage) (owners : List (Nat × W32)) (s : State) : Nat :=
  ((List.range 8).map fun p => if img.ownerGens.getD p 0 ≠ 0 && ownerMatches img owners s p then 2 ^ p else 0).sum

def vaultLost (sections pools : Nat) (s : State) : State := raiseAlarm 0x22 (event 3 0x13 (le8 sections ++ le8 pools) s)

/-- Stream offset and payload length of a section of a vault. -/
def sectionAt (img : VaultImage) (t : Nat) : Nat × Nat :=
  ((img.sections.zip (sectionOffsets 0 img.sections)).find? fun x => x.1.1 = t).elim (0, 0) fun x => (x.2, x.1.2.2)

/-- Vault stripes with more than 2 strips missing or unreadable (R276). -/
def lostStripes (unread : List (Nat × Nat)) : List Nat :=
  (unread.map (·.1)).eraseDups.filter fun j => decide (2 < ((unread.filter fun x => x.1 = j && decide (x.2 < 8)).map (·.2)).eraseDups.length)

/-- Some of these stripes hold bytes of a range of the stream (R268). -/
def stripesHit (stripes : List Nat) (a n : Nat) : Bool := stripes.any fun j => decide (a < 393216 * (j + 1)) && decide (393216 * j < a + n)

/-- A section is lost: it fails its CRC, or an unrecoverable stripe holds part of it; of the dirty-data section only the header counts (R271, R276). -/
def sectionLost (img : VaultImage) (bad : BitVec 5) (stripes : List Nat) (t : Nat) : Bool :=
  let x := sectionAt img t
  bad.getLsbD (t - 1) || stripesHit stripes x.1 (if t = 5 then 64 else 64 + x.2)

/-- Of descriptors in order, those whose granules an unrecoverable stripe holds; `g` is the first one's granule in the data section. -/
def granulesLost (stripes : List Nat) (base : Nat) : Nat → Tbl Desc → List Nat
  | _, [] => []
  | g, (n, d) :: l => (if stripesHit stripes (base + 64 + 4096 * g) (4096 * d.granules) then [n] else []) ++ granulesLost stripes base (g + d.granules) l

/-- Of the record groups of the own journal section, those that are lost; `off` is the first one's place in the stream. -/
def groupsLost (all : Bool) (stripes : List Nat) : Nat → Tbl Group → List Nat
  | _, [] => []
  | off, (n, g) :: l => (if all || stripesHit stripes off g.bytes then [n] else []) ++ groupsLost all stripes (off + g.bytes) l

/-- The own journal as it is restored: the peer's copy stands in for lost groups; without it the replay of a pool stops at its first lost group, while other pools go on (R276; log entry 227). -/
def restoreRing (img : VaultImage) (lost : List Nat) (found : VaultFound) (holds : Bool) : Tbl Group :=
  if lost = [] then img.groups
  else if holds then (img.groups.filter fun e => !lost.contains e.1).foldl (fun t e => Tbl.set t e.1 e.2) found.ring
  else img.groups.map fun e => (e.1, if img.groups.any fun x => lost.contains x.1 && x.2.pool = e.2.pool && decide (x.1 ≤ e.1) then { e.2 with committed := true } else e.2)

/-- A pool whose own journal is lost with the peer gone is taken offline, and repair from a replica starts (R276). -/
def offlineLost (hit : List Nat) (s : State) : State :=
  let s1 := hit.foldl (fun s p => setAna p .inaccessible (s.modPool p fun x => { x with offline := true })) s
  let s2 := if hit = [] then s1 else raiseAlarm 0x4A s1
  repairAll ((s2.ns.filter fun e => hit.contains e.2.pool).map (·.1)) s2

/-- The vault that replay reads: that of the highest GEN with a valid anchor (R275); one that cannot be read gives way to the other. -/
def readVault (anchor : AnchorRead) (c : Carafe) : Option VaultImage × Carafe :=
  match anchor, c.image, c.older with
  | .newest, some img, older => (some img, { c with older := if img.sealed then none else older })
  | .older, some img, some old => (some old, { c with image := some old, older := some img })
  | _, _, _ => (none, { c with image := none, older := none })

/-- What a vault's sections give back: writes and mirror copies, stripes in flight, journals (R275, R276). -/
def restoreImage (img : VaultImage) (bad : BitVec 5) (unread : List (Nat × Nat)) (found : VaultFound) (s : State) : State :=
  let holds := peerHolds s
  let stripes := lostStripes unread
  let lost := sectionLost img bad stripes
  let gone := if !vaultOpens img s || lost 5 then (img.own ++ img.mirror).map (·.1)
    else granulesLost stripes (sectionAt img 5).1 0 img.own ++ granulesLost stripes (sectionAt img 5).1 (granulesOf img.own) img.mirror
  let mine := if lost 4 then [] else img.own.filter fun e => ownerMatches img found.owners s (descPool e.2 s)
  let mirror := if lost 4 then [] else if holds then img.mirror.filter fun e => !gone.contains e.1
    else img.mirror.map fun e => (e.1, if gone.contains e.1 then { e.2 with lost := true } else e.2)
  let badGroups := groupsLost (bad.getLsbD 1) stripes ((sectionAt img 2).1 + 64) img.groups
  let sif := if !lost 1 then img.sif else if holds then found.sif else []
  let s1 := { s with
    carafe := { s.carafe with
      own := mine.filter fun e => !gone.contains e.1
      mirror := mirror
      restored := mirror.map (·.1)
      sif := sif
      peerSif := if lost 1 then [] else img.peerSif
      nextSif := ((img.sif ++ sif).foldl (fun m e => max m e.1) 0) + 1 }
    journal := { s.journal with
      groups := (restoreRing img badGroups found holds).foldl (fun t e => if Tbl.has t e.1 then t else Tbl.set t e.1 e.2) s.journal.groups
      peerGroups := if lost 3 then [] else img.peerGroups }
    boot := { s.boot with sifLost := s.boot.sifLost || (lost 1 && !holds) } }
  if holds then s1
  else
    let s2 := offlineLost (((img.groups.filter fun e => badGroups.contains e.1).map (·.2.pool)).eraseDups.filter (· < 8)) s1
    let s3 := poisonLost (mine.filter fun e => gone.contains e.1) s2
    if lost 1 || badGroups ≠ [] || lost 4 then
      vaultLost ((List.range 5).map fun i => if lost (i + 1) || (i = 1 && badGroups ≠ []) then 2 ^ i else 0).sum (lostPools img found.owners s) s3
    else s3

/-- VAULT_REPLAY (R274 to R276): `anchor`: which bank's anchor is valid; bit t - 1 of `bad`: the section of TYPE t fails its CRC; `unread`: strips that are missing or unreadable, as vault stripe and strip; `found`: what is read besides the vault. -/
def execVaultReplay (anchor : AnchorRead) (bad : BitVec 5) (unread : List (Nat × Nat)) (found : VaultFound) (s : State) : Res := onRun s fun s =>
  match s.carafe.image with
  | none => s
  | some _ =>
    if !s.boot.started || s.boot.vaultRead || s.boot.stage ≠ .units || portsSettling s then s
    else
      let r := readVault anchor s.carafe
      let s0 := setStage .vaultReplay { s with carafe := r.2 }
      let s1 := match r.1 with
        | none => { s0 with boot := { s0.boot with vaultRead := true, sifLost := s0.boot.sifLost || !peerHolds s } }
        | some img =>
          let s2 := restoreImage img bad unread found s0
          event 0 0x12 (le64 img.gen ++ le32 (s2.carafe.own.length + s2.carafe.mirror.length) ++ le32 img.skipped) { s2 with boot := { s2.boot with vaultRead := true, replayed := true } }
      let s3 := if r.1.isNone && !peerHolds s then vaultLost 31 ((s.pools.filter fun e => e.2.owned).map fun e => 2 ^ e.1).sum s1 else s1
      (List.range 96).foldl (fun s n => eraseUnused n s) s3

/-! ## Journal replay and READY (R72 step 17, R261, R264, R285, R287, R411, R523) -/

/-- The copy of a pool's superblock that counts: of those whose MAGIC and CRC are valid, the one with the highest SB_GEN (R285). -/
def bestSuper (pool : Nat) (l : List SuperCopy) : Option SuperCopy :=
  (l.filter fun x => x.pool = pool && x.valid).foldl (fun b x => match b with
    | some y => if y.sbGen < x.sbGen then some x else b
    | none => some x) none

/-- One pool's superblock: a VERSION above 1 takes the pool offline; another owner, or a newer generation, takes the pool away (R275, R285, R287). -/
def readSuper (x : SuperCopy) (s : State) : State :=
  match Tbl.find s.pools x.pool with
  | none => s
  | some p =>
    if 1 < x.version then
      raiseAlarm 0x4A (noCommonVersion 7 0xFFFF 1 1 x.version x.version (setAna x.pool .inaccessible (s.modPool x.pool fun q => { q with offline := true })))
    else
      let own := p.ownerGen ≠ x.ownerGen
      s.modPool x.pool fun q => { q with
        sbGen := if q.sbGen < x.sbGen then x.sbGen else q.sbGen, ownerGen := x.ownerGen, owned := if own then decide (x.head = headIndex s) else q.owned }

/-- Superblocks as they are read. -/
def readSupers (l : List SuperCopy) (s : State) : State := ((s.pools.map (·.1)).filterMap fun n => bestSuper n l).foldl (fun s x => readSuper x s) s

def poolOwned (s : State) (pool : Nat) : Bool := pool = 255 || match Tbl.find s.pools pool with
  | some p => p.owned
  | none => false

/-- Whole groups of this head's ring that have not been applied, in GSEQ order up to the first gap or the first group that is not sound; those of a pool that the peer has taken are dropped (R261, R275). -/
def replayOwn : Nat → List (Nat × Group) → State → State
  | next, [], s => { s with journal := { s.journal with next := next } }
  | next, (n, g) :: l, s =>
    if g.committed then replayOwn (n + 1) l s
    else if n ≠ next || !g.whole || !groupSound g.image then
      { s with journal := { s.journal with groups := s.journal.groups.filter (fun e => e.2.committed), next := next } }
    else replayOwn (next + 1) l (if poolOwned s g.pool then commitGroup n { g with peerAck := true } (countUnknown g.image s)
      else { s with journal := { s.journal with groups := Tbl.del s.journal.groups n } })

/-- Stripes in flight are settled: those whose group has committed are read and checked before their entries are free, the others become garbage (R264, R265). -/
def settleSifs : List (Nat × Sif) → State → State
  | [], s => s
  | (q, x) :: l, s =>
    settleSifs l (if x.state = .committed && poolOwned s x.pool then checkStripe (some q) x.pool x.stripe s
      else { s with carafe := { s.carafe with sif := Tbl.del s.carafe.sif q } })

/-- Restored writes go to the Grinder again (R261, R264). -/
def reduceAgain : List Nat → State → State
  | [], s => s
  | id :: ids, s => reduceAgain ids (reduceWrite id (s.modOwn id fun d => { d with reduced := false, grouped := false, left := 0, ents := [], peerAck := true }))

/-- Uses of a generation after a replay: 2^20 are added to the count that the vault or the journal holds (R452). -/
def usesAfter (vault : Bool) (g : KeyGen) : KeyGen := { g with uses := (if vault then g.uses else g.uses / 2 ^ 20 * 2 ^ 20) + 2 ^ 20 }

def replayKeys (vault : Bool) (s : State) : State :=
  s.ciph fun c => { c with keys := Tbl.mapVals c.keys fun _ e => { e with
    cur := let g := usesAfter vault e.cur; { g with state := genState g }
    retired := e.retired.map (usesAfter vault) } }

/-- The unpowered offset of a module: the lower bound of the age band that decodes best, less the recorded age (R357). -/
def setUnpowered : List (Nat × Nat × Nat) → State → State
  | [], s => s
  | (n, band, age) :: l, s => setUnpowered l (s.modMod n fun m => { m with media := { m.media with unpowered := band - age, unpoweredAt := s.aon.hours } })

/-- Pools whose open segments must be parity-checked before they serve reads (R277). -/
def startChecks (s : State) : State :=
  if s.boot.sifLost && !peerHolds s then { s with pools := Tbl.mapVals s.pools fun _ p => { p with checking := p.owned && p.open_ ≠ [] } } else s

/-- The peer state at READY of a head without a peer link (R411). -/
def peerAtReady (s : State) : State :=
  if s.peerState = .alone && peerSubs s = [] && peerAlive s then partition s else s

/-- ANA states at READY: own pools Optimized, the others by whether a link serves them (R181). -/
def anaAtReady (s : State) : State :=
  let own := (s.pools.filter fun e => e.2.owned).map (·.1)
  setAnas .inaccessible ((foreignPools s).filter fun n => (Tbl.find s.pools n).any (poolShut s))
    (setAnas (if jalServes s then .nonOptimized else .inaccessible) (foreignPools s) (openPools own s))

/-- The staged but unconfirmed images run because the primary region is not valid: a trial without a fallback image (R525; log entry 38). -/
def unconfirmedRuns (s : State) : State :=
  if s.fw.state = 3 && s.boot.src = .staging then
    s.saveFw fun f => { f with state := 7, mode := 1, trialStarts := 1, noFall := true }
  else s

/-- BOOT_READY: STAGE READY and its event; a trial's window opens (R72, R508, R522). -/
def bootReady (s : State) : State :=
  let us := (s.time.toNat - s.boot.exitTime.toNat) / 1000
  let s1 := setStage .ready s
  let s2 := event 0 7 (le8 (srcNum s.boot.src) ++ le8 (if s.boot.replayed then 1 else 0) ++ zeros 2 ++ le32 us) s1
  let s2 := unconfirmedRuns s2
  let s3 := if s2.fw.state = 7 then { s2 with fw := { s2.fw with windowEnd := some (s2.time.toNat + 600000000000) } } else s2
  let s4 := if s3.boot.src = .staging then { s3 with fw := { s3.fw with copying := true, copyToPrimary := true } } else s3
  anaAtReady (peerAtReady s4)

/-- JOURNAL_REPLAY: the journals are replayed, the map roots loaded, and the chip is READY; `supers`: the copies of the pool superblocks; `unpowered`: per module the lower bound of the age band that decodes best and the recorded age, in hours. -/
def execJournalReplay (supers : List SuperCopy) (unpowered : List (Nat × Nat × Nat)) (s : State) : Res := onRun s fun s =>
  if !s.boot.started || stageNum .ready ≤ stageNum s.boot.stage || portsSettling s || (s.carafe.image.isSome && !s.boot.vaultRead) then s
  else
    let vault := s.boot.replayed
    let s1 := setUnpowered unpowered (readSupers supers (setStage .journalReplay s))
    let s2 := replayOwn (s1.journal.groups.head?.elim (highestCommitted s1 + 1) (·.1)) s1.journal.groups s1
    let s3 := settleSifs s2.carafe.sif s2
    let s4 := { s3 with
      carafe := { s3.carafe with own := s3.carafe.own.filter fun e => poolOwned s3 (descPool e.2 s3) }
      grinder := { s3.grinder with units := s3.grinder.units.filter fun e => !e.2.pending } }
    let ids := s4.carafe.own.map (·.1)
    let s5 := reduceAgain ids { s4 with snaps := { s4.snaps with views := Tbl.mapVals s4.snaps.views fun _ v => { v with pending := v.pending.filter ids.contains } } }
    let s6 := startChecks (replayKeys vault s5)
    let mine := (s6.pools.filter fun e => e.2.owned).map (·.1)
    let s7 := { s6 with journal := { s6.journal with roots := mine.map fun p => (p, rootOf s6 p) } }
    bootReady (vaultSpent (vaultSetRecompute (jobsEnd (resumeRepls (replsIn mine s7) s7))))

end Sys2Proof.Machine
end

