-- ==== Sys2Proof/Machine/Chain.lean ====
section
/-! DEFINITION. Machine/Chain.lean: the address chain (R57, R101 to R107). -/
namespace Sys2Proof.Machine
open Sys2Proof

def State.chn (s : State) (f : Chain → Chain) : State := { s with chain := f s.chain }

/-- The highest chain version of this part (R104). -/
def chainTop : Nat := 2

/-- A frame's bits 23 to 0 (R103). -/
def frameBody (version position board : Nat) (enc : Option (BitVec 5)) : Nat :=
  version + 16 * position + 256 * board + (if 2 ≤ version then (match enc with | some e => 2 ^ 12 * e.toNat + 2 ^ 17 | none => 0) else 0)

/-- A whole frame: the CRC runs over bits 23 to 0 in the order sent (R103). -/
def chainFrame (version position board : Nat) (enc : Option (BitVec 5)) : W32 :=
  let b := frameBody version position board enc
  BitVec.ofNat 32 (b + 2 ^ 24 * (crc8 (lowBits b 24) 0).toNat)

/-- CHAIN_FAULT with its alarm (R105, R107). -/
def chainFault (s : State) : State := raiseAlarm 0x09 (s.chn fun c => { c with fault := true })

/-- Chain traffic runs at this chip: started, and not stopped by chatter (R57, R101). -/
def chainRuns (s : State) : Bool := s.chain.started && !s.cond.chainIn.latched

/-- CHAIN_HEAD_TAKEN: CHAIN_IN has read low through the first 1 ms after reset exit (R101). -/
def execChainHeadTaken (s : State) : Res := onRun s fun s =>
  if s.chain.started || s.chain.position.isSome then s
  else { s.chn (fun c => { c with head := true, position := some 0 }) with cond := { s.cond with chainIn := { s.cond.chainIn with level := false } } }

/-- The low and the high time of each symbol of a frame as sent, in ns: a break, then 32 symbols, bit 0 first (R102). -/
def chainLine (bits : W32) : List (Nat × Nat) := (10000, 5000) :: (lowBits bits.toNat 32).map fun b => if b then (3000, 2000) else (1500, 3500)

/-- A frame leaves on CHAIN_OUT. -/
def chainSend (bits : W32) (s : State) : State := emit (.chainFrame bits (chainLine bits)) s

/-- CHAIN_HEAD_FRAME_SEND: every 10 ms from boot step 9 until reset, a flush and a vaulted chip included (R101, R103). -/
def execChainHeadFrameSend (s : State) : Res := onSp s fun s =>
  if s.chain.head && chainRuns s then chainSend (chainFrame chainTop 0 s.boot.boardId.toNat s.chain.enclosure) s else s

/-- A BOARD_ID other than the chip's own straps is recorded, once per value (R105; log entry 27). -/
def noteBoard (b : Nat) (s : State) : State :=
  if b = s.boot.boardId.toNat || s.chain.boardSeen = some b then s
  else event 1 0x31 (le8 b ++ le8 s.boot.boardId.toNat) (s.chn fun c => { c with boardSeen := some b })

/-- The enclosure number of a version-2 frame (R106): a cluster member keeps its own and records a different one. -/
def takeEnclosure (e : BitVec 5) (s : State) : State :=
  if s.chain.enclosure = some e then s
  else if s.cluster.member && s.chain.enclosure.isSome then
    if s.chain.enclosureSeen = some e.toNat then s
    else event 1 0x32 (le8 e.toNat ++ le8 (s.chain.enclosure.getD 0).toNat) (s.chn fun c => { c with enclosureSeen := some e.toNat })
  else s.chn fun c => { c with enclosure := some e }

/-- A head receives a valid frame: the second one makes it give up the role (R101). -/
def headFrame (p : Nat) (s : State) : State :=
  if s.chain.headFrames = 0 then s.chn fun c => { c with headFrames := 1 }
  else if p = 15 then chainFault (s.chn fun c => { c with head := false, position := none, lastPos := none })
  else event 1 0x30 (le8 (p + 1)) (s.chn fun c => { c with head := false, position := some (BitVec.ofNat 4 (p + 1)), lastPos := some (BitVec.ofNat 4 p), disagree := 0 })

/-- A chip that holds no position: two successive frames with one POSITION give it (R105). -/
def takePosition (p : Nat) (s : State) : State :=
  if p = 15 then chainFault (s.chn fun c => { c with lastPos := some 15 })
  else if s.chain.lastPos = some (BitVec.ofNat 4 p) then s.chn fun c => { c with position := some (BitVec.ofNat 4 (p + 1)), disagree := 0 }
  else s.chn fun c => { c with lastPos := some (BitVec.ofNat 4 p) }

/-- A chip that holds a position: the second successive frame that disagrees is a fault; the position stays (R105). -/
def checkPosition (p : Nat) (held : Nat) (s : State) : State :=
  if p + 1 = held then s.chn fun c => { c with disagree := 0 }
  else
    let s1 := s.chn fun c => { c with disagree := c.disagree + 1 }
    if s.chain.disagree = 0 then s1 else chainFault s1

/-- A valid frame (R104 to R106): position, straps, enclosure, and the frame that goes on with this chip's position. -/
def validFrame (bits : Nat) (s : State) : State :=
  let v := min (bits % 16) chainTop
  let p := bits / 16 % 16
  let board := bits / 256 % 16
  let enc : Option (BitVec 5) := if v = 2 && (BitVec.ofNat 32 bits).getLsbD 17 then some (BitVec.ofNat 5 (bits / 2 ^ 12)) else none
  let s0 := s.chn fun c => { c with version := BitVec.ofNat 4 v }
  if s.chain.head then
    let s1 := headFrame p s0
    if s1.chain.head then s1.chn fun c => { c with version := s.chain.version }
    else match enc with
      | some e => takeEnclosure e s1
      | none => s1
  else
    let s1 := match s.chain.position with
      | none => takePosition p s0
      | some h => checkPosition p h.toNat s0
    let s2 := noteBoard board s1
    let s3 := match enc with
      | some e => takeEnclosure e s2
      | none => s2
    match s3.chain.position with
    | some h => chainSend (chainFrame v h.toNat board enc) s3
    | none => s3

/-- A symbol of the line (R102). -/
inductive ChainSym | bit (b : Bool) | brk | bad
deriving DecidableEq, Repr

/-- The symbol of a filtered low time in ns: below 2.25 µs, to 6 µs, to 20 µs, above (R102; at 6 µs the spec's two ranges meet, and the model reads a 1: log entry 171). -/
def chainSym (low : Nat) : ChainSym := if low < 2250 then .bit false else if low ≤ 6000 then .bit true else if low ≤ 20000 then .brk else .bad

/-- The receiver: a break begins a frame, 32 symbols complete it, bit 0 first, and a low time above 20 µs ends it as invalid. Answers the first complete frame. -/
def chainDecode : Option (List Bool) → List Nat → Option Nat
  | _, [] => none
  | got, l :: ls => match chainSym l, got with
    | .brk, _ => chainDecode (some []) ls
    | .bad, _ => chainDecode none ls
    | .bit _, none => chainDecode none ls
    | .bit b, some bs =>
      let g := bs ++ [b]
      if g.length = 32 then some (bitsVal g) else chainDecode (some g) ls
where
  bitsVal : List Bool → Nat
    | [] => 0
    | b :: bs => (if b then 1 else 0) + 2 * bitsVal bs

/-- What a received frame does (R103 to R105). -/
def chainTake (bits : Nat) (s : State) : State :=
  if crc8 (lowBits bits 24) 0 ≠ BitVec.ofNat 8 (bits / 2 ^ 24) then s
  else if bits % 16 = 0 then noCommonVersion 6 0xFFFF 1 chainTop 0 0 s
  else validFrame bits s

/-- CHAIN_FRAME_RECEIVED, during a flush and on a vaulted chip too: the filtered low times of the symbols on CHAIN_IN, in ns. Each is two edges, judged against the rate limit; the line idles high after them (R57, R59, R102 to R104). -/
def execChainFrameReceived (lows : List Nat) (at_ : Nat) (s : State) : Res := onSp s fun s =>
  let c := s.cond.chainIn
  let edges := 2 * lows.length
  let x := noteEdges 600 1000000 edges at_ c
  let s1 := countIgnored c edges { s with cond := { s.cond with chainIn := { x.1 with level := true, chatter := c.chatter || x.2, latched := c.latched || x.2 } } }
  if x.2 then raiseAlarm 0x08 s1
  else if !chainRuns s then s1
  else match chainDecode none lows with
    | some bits => chainTake bits s1
    | none => s1

/-- The chain is broken at this chip: CHAIN_IN_STUCK, CHAIN_FAULT and the alarm (R57, R105). -/
def chainBroken (s : State) : State :=
  chainFault { s with cond := { s.cond with chainIn := { s.cond.chainIn with stuck := true } } }

/-- CHAIN_NO_FRAME_TIMEOUT: no valid frame within 100 ms of boot step 9 (R105). -/
def execChainNoFrameTimeout (s : State) : Res := onRun s fun s =>
  if s.chain.started && !s.chain.head && s.chain.version = 0 then chainBroken s else s

/-- CHAIN_IN_STUCK: 100 ms at one level while the chain protocol expects traffic; a head expects none (R57, R101). -/
def execChainInStuck (level : Bool) (s : State) : Res := onRun s fun s =>
  if s.chain.started && !s.chain.head then chainBroken { s with cond := { s.cond with chainIn := { s.cond.chainIn with level := level } } } else s

end Sys2Proof.Machine
end

