-- ==== Sys2Proof/Machine/Cluster.lean ====
section
/-! DEFINITION. Machine/Cluster.lean: cluster membership and its messages (R423 to R429). -/
namespace Sys2Proof.Machine
open Sys2Proof

/-! ## Readings -/

def Cluster.nodes (c : Cluster) : List Nat := c.members.map (·.1)

/-- The leader among the members but for some: the lowest node that is not suspected (R428, R429). -/
def leaderBut (s : State) (but : List Nat) : Nat :=
  (s.cluster.nodes.find? fun n => !Tbl.has s.cluster.suspects n && !but.contains n).getD (ownNode s)
def clusterLeader (s : State) : Nat := leaderBut s []
def leads (s : State) : Bool := s.cluster.member && clusterLeader s = ownNode s

def othersOf (s : State) : List Nat := s.cluster.nodes.filter (· ≠ ownNode s)

/-! ## The envelope (R425, R426) -/

/-- A key generation that the receiver accepts, and the traffic state after it. -/
def acceptGen (now : Nat) (g : W32) (t : Traffic) : Option Traffic :=
  if g = t.rxGen then some t
  else if g = t.rxGen + 1 then some { t with rxGen := g, prevOk := true, changedAt := now }
  else if g + 1 = t.rxGen && t.prevOk then some t
  else none

/-- CLUSTER_JOIN ends with a refusal. -/
def joinFails (r : MStatus) (s : State) : State :=
  finishOp 0x0803 (replyErr r 0) (s.clu fun c => { c with joining := none })

/-- A cluster message as it arrives: a failing tag drops and counts it, and ends a join whose seed sent it (R425, R428). -/
def onClu (h : CluHdr) (m : CluMsg) (f : State → State) (s : State) : State :=
  let c := s.cluster
  if !cluTagHolds s h m then
    let s1 := s.clu fun c => { c with tagFails := c.tagFails + 1 }
    if c.joining = some h.src then joinFails .authFailed s1 else s1
  else if h.clusterId ≠ c.id || !(c.member || c.joining.isSome) then s
  else if h.version = 0 || decide (clusterVersion s h.src < h.version) then versionFrame 5 h.version h.src s
  else match acceptGen s.time.toNat h.keyGen (Tbl.getD c.traffic h.src {}) with
    | none => s
    | some t => f (s.clu fun c => { c with traffic := Tbl.set c.traffic h.src t })

/-- Between members. -/
def onMember (h : CluHdr) (m : CluMsg) (f : State → State) (s : State) : State :=
  onClu h m (fun s => if s.cluster.member && Tbl.has s.cluster.members h.src then f s else s) s

/-! ## The view (R428, R429) -/

def applyChange (m : Tbl Nat) (x : ViewChange) : Tbl Nat := if x.remove then Tbl.del m x.node else Tbl.set m x.node x.maxVersion

/-- The 4 bytes of a change. -/
def changeBytes (x : ViewChange) : List Byte := le16 x.node ++ le8 (if x.remove then 1 else 0) ++ le8 x.maxVersion

/-- CLUSTER_VIEW records, of up to 40 changes each (R508). -/
def viewEvents (view : Nat) : Nat → List ViewChange → State → State
  | 0, _, s => s
  | f + 1, xs, s =>
    let part := xs.take 40
    let s1 := event 0 0x55 (le64 view ++ le32 part.length ++ zeros 4 ++ part.flatMap changeBytes) s
    if 40 < xs.length then viewEvents view f (xs.drop 40) s1 else s1

/-- Relationships whose partner has left the view: sync is suspended, async pauses; they resume when it returns (R429, R432). -/
def partnersMove : List (Nat × Repl) → State → State
  | [], s => s
  | (rel, x) :: l, s =>
    let there := Tbl.has s.cluster.members x.node
    partnersMove l (
      if !there && !x.away then
        let s1 := (dropCycle rel s).modRepl rel fun y => { y with away := true }
        openFailed rel (if syncActive x then suspendRepl rel .suspended s1 else s1)
      else if there && x.away then startCycle rel (s.modRepl rel fun y => { y with away := false })
      else s)

/-- The head is no longer a member. -/
def dropMember (s : State) : State :=
  partnersMove s.repls (s.clu fun c => { c with
    member := false, members := [], change := none, queue := [], suspects := [], probes := [], rotation := [], leaving := false })

/-- A view takes effect here. -/
def adoptView (view : Nat) (xs : List ViewChange) (s : State) : State :=
  let gone := (xs.filter (·.remove)).map (·.node)
  let s1 := viewEvents view (xs.length + 1) xs (s.clu fun c => { c with
    view := view
    members := xs.foldl applyChange c.members
    suspects := Tbl.keep c.suspects fun n _ => !gone.contains n
    probes := Tbl.keep c.probes fun n _ => !gone.contains (n % 8192)
    rotation := c.rotation.filter fun n => !gone.contains n })
  if gone.contains (ownNode s) then
    let s2 := dropMember s1
    if s.cluster.leaving then finishOp 0x0804 (replyOk []) s2 else s2
  else partnersMove s1.repls s1

/-- JOIN_ACCEPT of the view as it stands. -/
def acceptMsg (s : State) : CluMsg := .joinAccept s.cluster.view (ownNode s) s.cluster.members

/-- The quorum of the previous view has acknowledged (R423): the change takes effect. -/
def quorum (acks members : Nat) : Bool := decide (members < 2 * acks)

def commitChange (x : Change) (s : State) : State :=
  let s1 := clearAlarm 0x83 (adoptView x.view x.changes (s.clu fun c => { c with change := none }))
  match x.joiner with
  | some n => cluSend n (acceptMsg s1) s1
  | none => s1

/-- VIEW_UPDATE at VIEW + 1 goes to every other member of the present view; a leader alone is its own quorum. -/
def sendChange (xs : List ViewChange) (joiner : Option Nat) (s : State) : State :=
  let x : Change := { view := s.cluster.view + 1, changes := xs, acks := [ownNode s], joiner := joiner, at_ := s.time.toNat }
  let s1 := cluSendAll (.viewUpdate x.view xs) (othersOf s) s
  if quorum 1 s.cluster.members.length then commitChange x s1 else s1.clu fun c => { c with change := some x }

/-- Changes wait in turn behind the one under way. -/
def nextChange : List (List ViewChange × Option Nat) → State → State
  | [], s => s
  | (xs, j) :: rest, s =>
    if s.cluster.change.isSome || !s.cluster.member then s
    else nextChange rest (sendChange xs j (s.clu fun c => { c with queue := rest }))

def startChange (xs : List ViewChange) (joiner : Option Nat) (s : State) : State :=
  let s1 := s.clu fun c => { c with queue := c.queue ++ [(xs, joiner)] }
  nextChange s1.cluster.queue s1

/-! ## Joining and leaving (R428) -/

/-- CLUSTER_JOIN: a seed that is this node founds a cluster of one. -/
def execClusterJoin (h : MbxHdr) (clusterId : W64) (seed : W16) (s : State) : Res := onRun s fun s =>
  mbxStart ⟨0x0803, 3, true, .other, false⟩ h [.num 0 8 clusterId.toNat, .num 8 2 seed.toNat] (fun s =>
    match firstFail [
        (clusterId = 0, fieldAt 0), (decide (8191 < seed.toNat), limitAt 8), ((nodeId s).isNone, replyErr .refusedState 0),
        (s.cluster.member, replyErr .existsAlready 0), (!Tbl.has s.cipher.keys 1048575, replyErr .notFound 0)], nodeId s with
    | some r, _ => (some r, s)
    | none, none => (some (replyErr .refusedState 0), s)
    | none, some me =>
      if seed.toNat = me then
        let s1 := s.clu fun c => { c with member := true, id := clusterId, view := 0, members := [] }
        (some (replyOk (le32 1 ++ zeros 4)), adoptView 1 [⟨me, false, 2⟩] s1)
      else
        let s1 := s.clu fun c => { c with joining := some seed.toNat, joinAt := s.time.toNat, id := clusterId }
        let partner := if s.jal.partnerUid.isSome then s.jal.partnerNode else 0xFFFF
        (none, cluSend seed.toNat (.joinRequest s.fuses.uid s.net.session me 1 2 partner) s1)) s

/-- JOIN_REQUEST: a seed passes it to the leader, which adds the node (R17, R428). -/
def execJoinRequest (h : CluHdr) (uid : BitVec 128) (session : W32) (node minV maxV partner : Nat) (s : State) : Res := onRun s (onClu h (.joinRequest uid session node minV maxV partner) fun s =>
  if !s.cluster.member then s
  else if maxV < 1 ∨ 2 < minV then noCommonVersion 5 node 1 2 minV maxV s
  else if leads s then startChange [⟨node, false, maxV⟩] (some node) s
  else cluSend (clusterLeader s) (.joinRequest uid session node minV maxV partner) s)

/-- JOIN_ACCEPT completes CLUSTER_JOIN with the members. -/
def execJoinAccept (h : CluHdr) (view leader : Nat) (members : Tbl Nat) (s : State) : Res := onRun s (onClu h (.joinAccept view leader members) fun s =>
  if s.cluster.joining.isNone then s
  else
    let s1 := s.clu fun c => { c with joining := none, member := true, view := view, members := members }
    finishOp 0x0803 (replyOk (le32 members.length ++ zeros 4)) (partnersMove s1.repls s1))

/-- CLUSTER_JOIN_TIMEOUT: no answer of the seed in 40 ms, or no JOIN_ACCEPT in 1.1 s and LEAVE. -/
def execClusterJoinTimeout (answered : Bool) (s : State) : Res := onRun s fun s =>
  match s.cluster.joining with
  | none => s
  | some seed =>
    if answered then joinFails .busy (cluSend seed .leave (reachTime (s.cluster.joinAt + 1100000000) s))
    else joinFails .notFound (reachTime (s.cluster.joinAt + 40000000) s)

/-- The leader removes a member that leaves. -/
def removeMember (n : Nat) (s : State) : State := startChange [⟨n, true, Tbl.getD s.cluster.members n 0⟩] none s

/-- CLUSTER_LEAVE sends LEAVE to the leader. -/
def execClusterLeave (h : MbxHdr) (s : State) : Res := onRun s fun s =>
  mbxStart ⟨0x0804, 3, true, .other, false⟩ h [] (fun s =>
    if !s.cluster.member then (some (replyErr .notFound 0), s)
    else if s.repls.any fun e => e.2.state ≠ .stopped then (some (replyErr .inUse 0), s)
    else
      let me := ownNode s
      let s1 := s.clu fun c => { c with leaving := true, leaveAt := s.time.toNat }
      if leads s && s.cluster.members.length = 1 && s.cluster.change.isNone then
        (some (replyOk []), removeMember me (s1.clu fun c => { c with leaving := false }))
      else (none, if leads s then removeMember me s1 else cluSend (clusterLeader s) .leave s1)) s

/-- CLUSTER_LEAVE_TIMEOUT: 1.1 s without the new view; the node stays a member. -/
def execClusterLeaveTimeout (s : State) : Res := onRun s fun s =>
  if s.cluster.leaving then
    finishOp 0x0804 (replyErr .busy 0) ((reachTime (s.cluster.leaveAt + 1100000000) s).clu fun c => { c with leaving := false })
  else s

/-- LEAVE: the leader removes the member, or undoes the view change that still adds the node. -/
def execLeave (h : CluHdr) (s : State) : Res := onRun s (onClu h .leave fun s =>
  if !leads s then s
  else
    let s1 := s.clu fun c => { c with queue := c.queue.filter fun q => q.2 ≠ some h.src }
    match s1.cluster.change with
    | some x =>
      if x.joiner = some h.src then
        let s2 := cluSendAll (.viewUpdate x.view [⟨h.src, true, 0⟩]) (othersOf s1) (s1.clu fun c => { c with change := none })
        nextChange s2.cluster.queue s2
      else if Tbl.has s1.cluster.members h.src then removeMember h.src s1 else s1
    | none => if Tbl.has s1.cluster.members h.src then removeMember h.src s1 else s1)

/-- VIEW_UPDATE is applied and acknowledged. -/
def execViewUpdate (h : CluHdr) (view : Nat) (changes : List ViewChange) (s : State) : Res := onRun s (onMember h (.viewUpdate view changes) fun s =>
  if view < s.cluster.view then s else adoptView view changes (cluSend h.src (.viewAck view) s))

/-- VIEW_ACK: a quorum makes the change take effect. -/
def execViewAck (h : CluHdr) (view : Nat) (s : State) : Res := onRun s (onMember h (.viewAck view) fun s =>
  match s.cluster.change with
  | none => s
  | some x =>
    if x.view ≠ view then s
    else
      let x1 : Change := { x with acks := (x.acks ++ [h.src]).eraseDups }
      if quorum x1.acks.length s.cluster.members.length then
        let s1 := commitChange x1 s
        nextChange s1.cluster.queue s1
      else s.clu fun c => { c with change := some x1 })

/-- VIEW_CHANGE_TIMEOUT: 1 s without a quorum; the old view stays. -/
def execViewChangeTimeout (s : State) : Res := onRun s fun s =>
  match s.cluster.change with
  | none => s
  | some x =>
    let s1 := raiseAlarm 0x83 ((reachTime (x.at_ + 1000000000) s).clu fun c => { c with change := none })
    nextChange s1.cluster.queue s1

/-! ## Probes and suspicion (R429) -/

/-- A fresh nonce. -/
def nonceOf (s : State) : W64 × State := let d := draw s; (BitVec.ofNat 64 d.1, d.2)

/-- Members still to be probed in this rotation; a finished rotation starts again with all others. -/
def rotationOf (s : State) : List Nat := if s.cluster.rotation = [] then othersOf s else s.cluster.rotation

/-- Send a probe with a fresh nonce to member n. -/
def probeMember (n : Nat) (s : State) : State :=
  let v := nonceOf s
  cluSend n (.probe v.1) (v.2.clu fun c => { c with
    rotation := (rotationOf s).filter (· ≠ n), tickAt := s.time.toNat,
    probes := Tbl.set c.probes n { nonce := v.1, sentAt := s.time.toNat } })

/-- Probe a member drawn from the rotation. -/
def probeNext (s : State) : State :=
  match (rotationOf s)[(draw s).1 % max 1 (rotationOf s).length]? with
  | none => s.clu fun c => { c with tickAt := s.time.toNat }
  | some n => probeMember n (draw s).2

/-- CLUSTER_PROBE_TICK: the next member of a random rotation is probed. -/
def execClusterProbeTick (s : State) : Res := onRun s fun s =>
  if !s.cluster.member then s else probeNext (reachTime (s.cluster.tickAt + 25000000) s)

def execClusterProbe (h : CluHdr) (nonce : W64) (s : State) : Res := onRun s (onMember h (.probe nonce) (cluSend h.src (.probeAck nonce)))

/-- An answer reaches the member for which the probe was made. -/
def passAcks (nonce : W64) : List (Nat × Probe) → State → State
  | [], s => s
  | (_, p) :: l, s => passAcks nonce l (match p.onBehalf with
    | some n => cluSend n (.probeAck nonce) s
    | none => s)

/-- The probes that an answer of a node ends: its own, and those sent through others. -/
def probeEnds (src : Nat) (nonce : W64) (key : Nat) (p : Probe) : Bool := p.nonce = nonce && (key % 8192 = src || p.indirect)

/-- CLUSTER_PROBE_ACK. -/
def execClusterProbeAck (h : CluHdr) (nonce : W64) (s : State) : Res := onRun s (onMember h (.probeAck nonce) fun s =>
  let hit := s.cluster.probes.filter fun e => probeEnds h.src nonce e.1 e.2
  passAcks nonce hit (s.clu fun c => { c with
    probes := Tbl.keep c.probes fun k p => !probeEnds h.src nonce k p
    suspects := Tbl.del c.suspects h.src }))

/-- PROBE_INDIRECT: the target is probed on the sender's behalf. -/
def execProbeIndirect (h : CluHdr) (target : Nat) (nonce : W64) (s : State) : Res := onRun s (onMember h (.probeIndirect target nonce) fun s =>
  let p : Probe := { nonce := nonce, sentAt := s.time.toNat, onBehalf := some h.src }
  cluSend target (.probe nonce) (s.clu fun c => { c with probes := Tbl.set c.probes ((h.src + 1) * 8192 + target) p }))

/-- The leader notes a suspected member and lets it hear of it. -/
def noteSuspect (n : Nat) (s : State) : State :=
  if Tbl.has s.cluster.suspects n then s else cluSend n (.suspect n s.cluster.view) (s.clu fun c => { c with suspects := Tbl.set c.suspects n s.time.toNat })

/-- A member that answers no probe is reported to the leader, or to the next-lowest where it is the leader itself. -/
def reportSuspect (n : Nat) (s : State) : State :=
  let l := leaderBut s [n]
  if l = ownNode s then noteSuspect n s else cluSend l (.suspect n s.cluster.view) s

/-- 3 other members, the choice among them a free value. -/
def pickThree (s : State) (n : Nat) : List Nat × State :=
  let l := (othersOf s).filter (· ≠ n)
  let d := draw s
  let k := d.1 % max 1 l.length
  ((l.drop k ++ l.take k).take 3, d.2)

/-- CLUSTER_PROBE_TIMEOUT: indirect probes after 10 ms, suspicion after 20 ms more. -/
def execClusterProbeTimeout (node : Nat) (s : State) : Res := onRun s fun s =>
  match Tbl.find s.cluster.probes node with
  | none => s
  | some p =>
    if p.indirect then
      reportSuspect node ((reachTime (p.sentAt + 20000000) s).clu fun c => { c with probes := Tbl.del c.probes node })
    else
      let s1 := reachTime (p.sentAt + 10000000) s
      let t := pickThree s1 node
      cluSendAll (.probeIndirect node p.nonce) t.1 (t.2.clu fun c => { c with
        probes := Tbl.set c.probes node { p with indirect := true, sentAt := s1.time.toNat } })

/-- SUSPECT: the suspected member answers; the leader notes it. -/
def execSuspect (h : CluHdr) (node view : Nat) (s : State) : Res := onRun s (onMember h (.suspect node view) fun s =>
  if node = ownNode s then
    let v := nonceOf s
    cluSend h.src (.probeAck v.1) v.2
  else if Tbl.has s.cluster.members node && leaderBut s [node] = ownNode s then noteSuspect node s
  else s)

/-- SUSPECT_TIMEOUT: 2 s after suspicion the leader removes the member. -/
def execSuspectTimeout (node : Nat) (s : State) : Res := onRun s fun s =>
  match Tbl.find s.cluster.suspects node with
  | none => s
  | some t => if leads s then removeMember node (reachTime (t + 2000000000) s) else s

/-- TRAFFIC_KEY_PREVIOUS_EXPIRY: 32.5 ms after a change of generation (R426). -/
def execTrafficKeyPreviousExpiry (node : Nat) (s : State) : Res := onRun s fun s =>
  match Tbl.find s.cluster.traffic node with
  | none => s
  | some t =>
    if t.prevOk then (reachTime (t.changedAt + 32500000) s).clu fun c => { c with traffic := Tbl.upd c.traffic node fun t => { t with prevOk := false } }
    else s

end Sys2Proof.Machine
end

