-- ==== Sys2Proof/Machine/Registers.lean ====
section
/-! DEFINITION. Machine/Registers.lean: reads and writes of registers, with the effect of a register's own row where it has one, and the recorder's window and clear (R10 to R14, R113, R189, R503 to R507). -/
namespace Sys2Proof.Machine
open Sys2Proof

/-! ## Reads (R12, R13, R14) -/

/-- RC fields are cleared and RS fields set by a read of the word at an aligned offset (R14, R116, R465). -/
def clearRc (p : Port) (off : Nat) (s : State) : State :=
  if 0x1000 ≤ off ∧ off < 0x1100 then (if (s.sem ((off - 0x1000) / 4)).owner = none then grantSem ((off - 0x1000) / 4) p s else s)
  else if 0x10600 ≤ off ∧ off < 0x10800 ∧ off % 64 = 0x3C then
    (if (s.chan ((off - 0x10000) / 64)).owner = none then s.modChan ((off - 0x10000) / 64) fun c => { c with owner := some p } else s)
  else if off = 0x1C then s.modPort p fun r => { r with errCount := 0 }
  else if off = 0x40 then { s with cond := { s.cond with ignoredEdges := 0 } }
  else if off = 0x1108 then s.modPort p fun r => { r with foreignWrites := 0 }
  else if 0x10000 ≤ off ∧ off < 0x10800 ∧ off % 64 = 0x18 then s.modChan ((off - 0x10000) / 64) fun c => { c with missed := 0 }
  else if 0x30200 ≤ off ∧ off < 0x30240 ∧ off % 8 = 4 then
    { s with gov := { s.gov with acts := s.gov.acts.modify ((off - 0x30200) / 8) fun a => { a with waitPeriods := 0 } } }
  else s

/-- A window read finds the NOR busy for a slot that the on-die buffer does not hold (R506). -/
def windowBusy (p : Port) (s : State) : Bool := norBusyNow s && !evrBuffered s (s.port p).evrIndex

/-- The word at 0x41FC advances INDEX when AUTO_INC is set (R506). -/
def advanceIndex (p : Port) (off : Nat) (s : State) : State :=
  if off = 0x41FC then s.modPort p fun r => if r.evrAutoInc then { r with evrIndex := (r.evrIndex + 1) % 32768 } else r else s

/-- A read of one word of EVR_WINDOW. -/
def readWindow (p : Port) (off : Nat) (s : State) : W32 × State :=
  let busy := windowBusy p s
  let d := if Tbl.has s.evr.tornSlots (s.port p).evrIndex then draw s else (0, s)
  let v := if busy then 0 else peek s p d.1 off
  let s1 := { d.2 with evr := { d.2.evr with retry := busy } }
  (v, advanceIndex p off s1)

/-- A read of the aligned word at an offset, with its side effects; `wide` marks half of one 64-bit access to a 64-bit register, which neither latches nor uses the latch (R12, R13). -/
def readWord (p : Port) (off : Nat) (wide : Bool) (s : State) : W32 × State :=
  if 0x4100 ≤ off ∧ off < 0x4200 then readWindow p off s
  else
    let v := peek s p 0 off
    let s1 := clearRc p off s
    if wide then (v, s1)
    else if lowHalf off then (v, s1.modPort p fun r => { r with latch := Tbl.set r.latch off (peek s p 0 (off + 4)) })
    else if lowHalf (off - 4) ∧ 4 ≤ off then
      (match Tbl.find (s.port p).latch (off - 4) with
      | some h => (h, s1.modPort p fun r => { r with latch := Tbl.del r.latch (off - 4) })
      | none => (v, s1))
    else (v, s1)

/-- What a read returns to its port. -/
def readOut (p : Port) (off : Nat) (v : Nat) (s : State) : State := emit (.readData p off (BitVec.ofNat 64 v)) s

/-- A read of 1, 2, 4 or 8 bytes (R12). In D3hot the function takes no memory request and the base specification's Unsupported Request answers it (R110). A DBG_ register while debug is open is a stop: the spec gives the block no register (R92, R113). -/
def readReg (p : Port) (off size : Nat) (s : State) : Res :=
  if s.phase ≠ .run then .next s
  else if (s.port p).caps.d3hot then .next (unsupported p false false s)
  else if off % size ≠ 0 then .next (readOut p off 0 (accessError p off s))
  else if isDbg off && debugIsOpen s then .refused (.dbgBlock off)
  else if size = 8 then
    let wide := lowHalf off
    let a := readWord p off wide s
    let b := readWord p (off + 4) wide a.2
    .next (readOut p off (a.1.toNat + 2 ^ 32 * b.1.toNat) b.2)
  else
    let a := readWord p (off / 4 * 4) false s
    .next (readOut p off (a.1.toNat / 2 ^ (8 * (off % 4)) % 2 ^ (8 * size)) a.2)

/-- SLC_INFO and SLC_STATE of a page (R189). -/
def slcInfo (n : Nat) (x : Slice) : Nat := n % 4096 + 2 ^ 16 * x.vecCount + 2 ^ 21 * x.vecBase
def slcState (x : Slice) : Nat :=
  (if x.state = .active then 1 else 0) + (if x.state = .resetting then 2 else 0) + (if x.tenant then 0 else 2 ^ 8 * x.bind)

/-- The 64 bits of a doorbell page from an aligned doubleword on (R189). -/
def pageWord (c : Ctrl) (x : Slice) (off : Nat) : Nat :=
  if 0x1000 ≤ off then
    let n := (off - 0x1000) / 8
    if off / 4 % 2 = 0 then (match Tbl.find c.sqs n with | some q => q.tail | none => 0)
    else (match Tbl.find c.cqs n with | some q => q.head | none => 0)
  else match off / 4 with
    | 0 => capReg.toNat | 1 => capReg.toNat / 2 ^ 32 | 2 => vsReg.toNat
    | 5 => c.cc.toNat | 7 => (cstsReg c).toNat | 9 => c.aqa.toNat
    | 10 => c.asq.toNat | 11 => c.asq.toNat / 2 ^ 32 | 12 => c.acq.toNat | 13 => c.acq.toNat / 2 ^ 32
    | 0x380 => slcInfo c.slice x | 0x381 => slcState x
    | _ => 0

/-- A read of a page: zero for an absent page or one of a slice bound by tenant identifier; a controller that no host has touched reads its reset values (R188). -/
def pageRead (g : PageId) (off size : Nat) (s : State) : State :=
  let c := match ctrlOfPage g s with
    | some (_, c) => c
    | none => { slice := g.slice.toNat, fabrics := false, nssro := (liveSlice g s).any (·.nssro) }
  let word := fun (o : Nat) => match liveSlice g s with
    | some x => pageWord c x o % 2 ^ 32
    | none => 0
  emit (.pageData g off (BitVec.ofNat 64 ((word (off / 4 * 4) + 2 ^ 32 * word (off / 4 * 4 + 4)) / 2 ^ (8 * (off % 4)) % 2 ^ (8 * size)))) s

/-- A word of BAR4 of the upper endpoint of a port in x8+x8 mode: its MSI-X table, from 0x8000 its pending bits (R109). -/
def upperWord (p : Port) (off : Nat) (s : State) : Nat :=
  let u := (s.port p).upper
  if !(s.port p).x8 then 0
  else if 0x8000 ≤ off then ((List.range 32).map fun i => if Tbl.has u.msixPending ((off - 0x8000) * 8 + i) then 2 ^ i else 0).sum
  else
    let e := Tbl.getD u.msix (off / 16) {}
    match off % 16 / 4 with
    | 0 => e.addr.toNat % 2 ^ 32 | 1 => e.addr.toNat / 2 ^ 32 | 2 => e.data.toNat | _ => if e.masked then 1 else 0

/-- REGISTER_RC_READ: a read of 1, 2, 4 or 8 bytes of a register space. -/
def execRegisterRcRead (t : RegTarget) (size : Fin 4) (s : State) : Res :=
  match t with
  | .bar0 p off => readReg p off.toNat (2 ^ size.val) s
  | .page port upper slice off => onMem port upper false s (pageRead ⟨port, upper, slice⟩ off.toNat (2 ^ size.val))
  | .bar4 p off => onMem p true false s fun s =>
    let a := off.toNat / 4 * 4
    emit (.upperData p off.toNat (BitVec.ofNat 64 ((upperWord p a s + 2 ^ 32 * upperWord p (a + 4) s) / 2 ^ (8 * (off.toNat % 4)) % 2 ^ (8 * 2 ^ size.val)))) s

/-- REGISTER_LOW_HALF_READ: a 32-bit read. -/
def execRegisterLowHalfRead (p : Port) (off : BitVec 20) (s : State) : Res := readReg p off.toNat 4 s

/-- EVR_WINDOW_READ: word k of the window. -/
def execEvrWindowRead (p : Port) (k : Fin 64) (s : State) : Res := onMem p false false s fun s =>
  let a := readWindow p (0x4100 + 4 * k.val) s
  readOut p (0x4100 + 4 * k.val) a.1.toNat a.2

/-! ## Writes (R12, R14) -/

/-- The recorder partition's 128 sectors of 64 KiB are erased (R507). -/
def eraseRecorder (s : State) : State := (List.range 128).foldl (fun s i => emit (.nor (.erase64 (0x3040000 + 0x10000 * i))) s) s

/-- EVR_CLEAR (R507). -/
def execEvrClear (p : Port) (s : State) : Res := onMem p false true s fun s =>
  if (s.sem 0).owner ≠ some p || s.cond.pwrfail.level || s.evr.clearing.isSome then accessError p 0x4014 s
  else
    let waiting := s.evr.buffer
    eraseRecorder { s with evr := { s.evr with
        clearing := some (evrNextToWrite s, s.aon.suppressed, s.evr.torn)
        buffer := waiting.zipIdx.map fun x => { x.1 with index := x.2 + 1 } } }

/-- What a row leaves of the state, for the registers whose write is a row of its own. -/
def ranOn (f : State → Res) (s : State) : State := match f s with
  | .next t => t
  | _ => s

/-- Base and size registers of a ring are closed while it runs (R127). -/
def ringClosed (p : Port) (s : State) : Bool := (s.port p).enable || !ringIdle s p

def mbxWrite (p : Port) (off : Nat) (v : W32) (s : State) : State :=
  let r := s.port p
  let ring := fun (f : PortRegs → PortRegs) => if ringClosed p s then accessError p off s else s.modPort p f
  match (off - 0x2000) / 4 with
  | 0 => ranOn (execMbxImmDoorbell p (v.setWidth 13)) s
  | 1 => s.setPort p { r with immDone := r.immDone && !v.getLsbD 1, immOverrun := r.immOverrun && !v.getLsbD 2 }
  | 4 => ring fun r => { r with reqBase := hi32 r.reqBase ++ (v &&& 0xFFFFF000) }
  | 5 => ring fun r => { r with reqBase := v ++ lo32 r.reqBase }
  | 6 => ring fun r => { r with reqCfg := v.setWidth 5 }
  | 7 => ranOn (execMbxReqTail p (v.setWidth 20)) s
  | 10 => ring fun r => { r with rspBase := hi32 r.rspBase ++ (v &&& 0xFFFFF000) }
  | 11 => ring fun r => { r with rspBase := v ++ lo32 r.rspBase }
  | 12 => ring fun r => { r with rspCfg := v.setWidth 5 }
  | 14 => ranOn (execMbxRspHead p (v.setWidth 20)) s
  | 16 => ranOn (execMbxRingCtrlWrite p v) s
  | 17 => s.setPort p { r with fetchErr := r.fetchErr && !v.getLsbD 1, tailErr := r.tailErr && !v.getLsbD 2 }
  | _ => s

/-- A write of MBX_IMM_BUF (R124). -/
def bufWrite (p : Port) (off : Nat) (v : W32) (s : State) : State :=
  if (s.port p).immBusy then accessError p off (s.modPort p fun r => { r with immOverrun := true })
  else s.modPort p fun r => { r with immBuf := r.immBuf.putBytes (off - 0x3000) (leBytes 4 v.toNat) }

/-- W1C flags of CHIP_INPUT_COND (R59). -/
def condWrite (v : W32) (s : State) : State :=
  let c := s.cond
  let f := fun (i : InputCond) (ch st : Nat) => { i with chatter := i.chatter && !v.getLsbD ch, stuck := i.stuck && !v.getLsbD st }
  { s with cond := { c with
    pwrfail := f c.pwrfail 8 16
    peerAlive := { c.peerAlive with chatter := c.peerAlive.chatter && !v.getLsbD 9 }
    chainIn := f c.chainIn 10 17
    perstA := f c.perstA 11 18
    perstB := f c.perstB 12 19 } }

/-- A word of an MSI-X table entry is written: address, data, vector control. -/
def msixEntryWrite (off : Nat) (v : W32) (e : MsixEntry) : MsixEntry := match off % 16 / 4 with
  | 0 => { e with addr := hi32 e.addr ++ v }
  | 1 => { e with addr := v ++ lo32 e.addr }
  | 2 => { e with data := v }
  | _ => { e with masked := v.getLsbD 0 }

/-- A write of a word of BAR4 of the upper endpoint: its MSI-X table lies at 0x0000, and the pending bits at 0x8000 are read-only (R109). -/
def upperWrite (p : Port) (off : Nat) (v : W32) (s : State) : State :=
  if !(s.port p).x8 || decide (0x8000 ≤ off) then s
  else
    let n := off / 16
    let u := (s.port p).upper
    let e := Tbl.getD u.msix n {}
    let e1 := msixEntryWrite off v e
    let u1 := { u with msix := Tbl.set u.msix n e1 }
    if e.masked && !e1.masked && Tbl.has u.msixPending n && u.msixEnable && !u.msixFuncMask then
      emit (.msixUpper p n) (s.modPort p fun r => { r with upper := { u1 with msixPending := Tbl.del u.msixPending n } })
    else s.modPort p fun r => { r with upper := u1 }

/-- A write of a word of an MSI-X table entry; an entry that is unmasked sends its pending message (R134). -/
def msixWrite (p : Port) (off : Nat) (v : W32) (s : State) : State :=
  let n := (off - 0x21000) / 16
  let e := Tbl.getD (s.port p).msix n {}
  let e1 := msixEntryWrite off v e
  let s1 := s.modPort p fun r => { r with msix := Tbl.set r.msix n e1 }
  if e.masked && !e1.masked && Tbl.has (s.port p).msixPending n && (s.port p).msixEnable && !(s.port p).msixFuncMask then
    emit (.msix p n) (s1.modPort p fun r => { r with msixPending := Tbl.del r.msixPending n })
  else s1

/-- A write of 32 bits to an aligned offset; what no register takes is discarded and counted, what is read-only is ignored. -/
def writeWord (p : Port) (off : Nat) (v : W32) (s : State) : State :=
  if !mapped off then accessError p off s
  else if off = 0x38 then s.modPort p fun r => { r with scratch := v }
  else if off = 0x40 then condWrite v s
  else if 0x1000 ≤ off ∧ off < 0x1100 then ranOn (execSemReleaseWrite p (Fin.ofNat 64 ((off - 0x1000) / 4)) v) s
  else if off = 0x1104 then ranOn (execSemLeaseRenew p) s
  else if off = 0x4014 then (if v.getLsbD 0 then ranOn (execEvrClear p) s else s)
  else if off = 0x20004 then ranOn (execIntEnableWrite p v) s
  else if off = 0x1100 then s.modPort p fun r => { r with leaseCfg := v.setWidth 7 }
  else if off = 0x1108 then s.modPort p fun r => { r with expired := r.expired && !v.getLsbD 14, linkReleased := r.linkReleased && !v.getLsbD 15 }
  else if 0x2000 ≤ off ∧ off < 0x3000 then mbxWrite p off v s
  else if 0x3000 ≤ off ∧ off < 0x4000 then bufWrite p off v s
  else if off = 0x4000 then s.modPort p fun r => { r with evrIndex := v.toNat % 32768, evrAutoInc := v.getLsbD 31 }
  else if 0x10000 ≤ off ∧ off < 0x10800 then udmaWrite p ((off - 0x10000) / 64) (off % 64) v s
  else if off = 0x20000 then s.modPort p fun r => { r with intCause := r.intCause &&& ~~~ (v.setWidth 11) }
  else if 0x21000 ≤ off ∧ off < 0x29000 then msixWrite p off v s
  else if 0x30000 ≤ off then accessError p off s
  else s

/-- A write of the 64-bit register at an offset is discarded (R12, R127, R466): a read-only block, a ring that runs, a channel that is not the port's or is busy. -/
def wideDiscarded (p : Port) (off : Nat) (s : State) : Bool :=
  decide (0x30000 ≤ off) || ([0x2010, 0x2028].contains off && ringClosed p s)
    || (decide (0x10000 ≤ off ∧ off < 0x10800)
      && (!udmaMay (.port p) ((off - 0x10000) / 64) (s.chan ((off - 0x10000) / 64))
        || (s.chan ((off - 0x10000) / 64)).busy || (s.chan ((off - 0x10000) / 64)).armed))

/-- A 64-bit write: one access to a 64-bit register, so that a discarded one counts once; two accesses elsewhere, the lower address first (R12). -/
def writeWide (p : Port) (off : Nat) (v : W64) (s : State) : State :=
  if lowHalf off && wideDiscarded p off s then accessError p off s
  else writeWord p (off + 4) (hi32 v) (writeWord p off (lo32 v) s)

/-- CSTS, AQA, ASQ and ACQ of a controller: their reserved bits stay zero (R189). -/
def setPageReg (off : Nat) (v : W32) (c : Ctrl) : Ctrl :=
  match off / 4 with
  | 7 => { c with nssro := c.nssro && !v.getLsbD 4 }
  | 9 => { c with aqa := v &&& 0x0FFF0FFF }
  | 10 => { c with asq := hi32 c.asq ++ (v &&& 0xFFFFF000) }
  | 11 => { c with asq := v ++ lo32 c.asq }
  | 12 => { c with acq := hi32 c.acq ++ (v &&& 0xFFFFF000) }
  | 13 => { c with acq := v ++ lo32 c.acq }
  | _ => c

/-- A write to a doorbell page (R188, R189): CC, CSTS, AQA, ASQ and ACQ, from 0x1000 the doorbells of a submission and a completion queue in turn; nothing of an absent page. -/
def pageWrite (g : PageId) (off : Nat) (v : W32) (s : State) : State :=
  if 0x1000 ≤ off then ranOn (if off / 4 % 2 = 0 then execSqTailDoorbell g ((off - 0x1000) / 8) v else execCqHeadDoorbell g ((off - 0x1000) / 8) v) s
  else if off = 0x14 then ranOn (execCcWrite g v) s
  else if [7, 9, 10, 11, 12, 13].contains (off / 4) then onPage g (fun n s => s.modCtrl n (setPageReg off v)) s
  else s

/-- REGISTER_WRITE: 32 bits, or 64 bits as two halves, the lower address first (R12). -/
def execRegisterWrite (t : RegTarget) (wide : Bool) (v : W64) (s : State) : Res :=
  if s.phase ≠ .run then .next s
  else match t with
    | .page port upper slice off =>
      if (capsOf port upper s).d3hot then .next (unsupported port upper true s) else
      let s1 := pageWrite ⟨port, upper, slice⟩ off.toNat (lo32 v) s
      .next (if wide then pageWrite ⟨port, upper, slice⟩ (off.toNat + 4) (hi32 v) s1 else s1)
    | .bar4 p off =>
      if (capsOf p true s).d3hot then .next (unsupported p true true s) else
      let s1 := upperWrite p off.toNat (lo32 v) s
      .next (if wide then upperWrite p (off.toNat + 4) (hi32 v) s1 else s1)
    | .bar0 p off =>
      if (s.port p).caps.d3hot then .next (unsupported p false true s)
      else if off.toNat % (if wide then 8 else 4) ≠ 0 then .next (accessError p off.toNat s)
      else if isDbg off.toNat && debugIsOpen s then .refused (.dbgBlock off.toNat)
      else
        .next (if wide then writeWide p off.toNat v s else writeWord p off.toNat (lo32 v) s)

/-! ## The recorder's own steps (R503 to R507) -/

/-- The oldest waiting record becomes valid in its slot (R503); a recovery boot writes nothing to the NOR, so its records wait until READY (R84). -/
def execEvrRecordWritten (s : State) : Res := onLive s fun s =>
  match s.evr.buffer with
  | [] => s
  | r :: rest =>
    if s.evr.clearing.isSome || norFrozen s then s else recordOut r rest s

/-- EVR_CLEAR_DONE: RECORDER_CLEARED goes to slot 0, the waiting records after it, and the counters are reset (R507). -/
def execEvrClearDone (s : State) : Res := onRun s fun s =>
  match s.evr.clearing with
  | none => s
  | some (next, sup, torn) =>
    if norFrozen s then s else
    let wait := s.evr.buffer
    let s0 := { s with
      evr := { s.evr with clearing := none, slots := [], tornSlots := [], torn := 0, fullNoted := false, nextSlot := 0, buffer := [] }
      aon := { s.aon with suppressed := 0 } }
    let r := mkEvent 0 9 0xFF false 0 (le32 next ++ le32 sup.toNat ++ le32 torn) 0 s0
    clearAlarm 0x17 { s0 with evr := { s0.evr with buffer := r :: wait, nextSlot := wait.length + 1 } }

end Sys2Proof.Machine
end

