-- ==== Sys2Proof/Machine/HostPorts.lean ====
section
/-! DEFINITION. Machine/HostPorts.lean: resets, link and configuration space of the host ports (R68, R73, R108 to R112, R119). -/
namespace Sys2Proof.Machine
open Sys2Proof

/-! ## Resets and the link (R110, R112) -/

/-- A reset of the control endpoint alone: the upper endpoint keeps its registers (R111, R112). -/
def endpointReset (p : Port) (s : State) : State := (portResetAll p s).modPort p fun r => { r with upper := (s.port p).upper }

/-- A function-level reset of the upper endpoint: its registers take their reset values; the control endpoint runs on (R110, R111). -/
def upperReset (p : Port) (s : State) : State := s.modPort p fun r => { r with upper := {} }

/-- HOT_RESET. -/
def execHotReset (p : Port) (s : State) : Res := onRun s fun s => if (s.port p).linkUp then endpointReset p s else s

/-- FUNCTION_LEVEL_RESET: complete within 100 ms (R112). -/
def execFunctionLevelReset (p : Port) (s : State) : Res := onRun s fun s => if (s.port p).linkUp then endpointReset p s else s

/-- DATA_LINK_DOWN: R112's third row; a marked lane takes the spare (R68). -/
def execDataLinkDown (p : Port) (s : State) : Res := onRun s fun s => if (s.port p).linkUp then portDown p s else s

/-- Full width of the control endpoint in its mode (R111). -/
def fullWidth (r : PortRegs) : Nat := if r.x8 then 8 else 16

/-- HOST_LINK_DEGRADED follows the ports whose last training fell short of full rate and width (R110, R500). -/
def judgeLink (p : Port) (s : State) : State :=
  let r := s.port p
  let m := BitVec.ofNat 2 (2 ^ portNum p)
  let narrow := decide (r.speed.toNat < 6) || decide (r.width.toNat < fullWidth r)
  let s1 := { s with phys := { s.phys with hostNarrow := if narrow then s.phys.hostNarrow ||| m else s.phys.hostNarrow &&& ~~~ m } }
  alarmIs 0x10 (s1.phys.hostNarrow != 0) s1

/-- HOST_LINK_UP: the link of a port that is on and out of reset has trained, at LINK_SPEED and LINK_WIDTH as CHIP_PORT codes them (R68, R110, R114). -/
def execHostLinkUp (p : Port) (speed : BitVec 4) (width : BitVec 5) (s : State) : Res := onRun s fun s =>
  if !hasBit s.power.on (hostDomain p) || (s.port p).inReset then s
  else judgeLink p ((hostSpare p s).modPort p fun r => { r with linkUp := true, speed := speed, width := width })

/-! ## Configuration space (R73, R109, R110) -/

/-- Writable bits of the command register: memory space, bus master, parity response, SERR, INTx disable. -/
def cmdMask : W32 := 0x0546

/-- The address bits of a base address register that hold (R109): none where the register is not present. -/
def barMask (upper : Bool) (reg : Nat) : W32 :=
  match reg with
  | 4 => if upper then 0 else 0xFFF00000
  | 5 => if upper then 0 else 0xFFFFFFFF
  | 6 => 0xFC000000
  | 7 => 0xFFFFFFFF
  | 8 => if upper then 0xFFFF0000 else 0
  | 9 => if upper then 0xFFFFFFFF else 0
  | _ => 0

/-- The fixed bits of a base address register: 64-bit, non-prefetchable. -/
def barFixed (upper : Bool) (reg : Nat) : W32 := if reg % 2 = 0 && barMask upper reg != 0 then 4 else 0

/-- The header of R109; none for a register whose value the spec does not give. -/
def cfgValue (upper : Bool) (cfg : Tbl W32) (reg : Nat) : Option W32 :=
  match reg with
  | 0 => some (if upper then 0x96011F6D else 0x96001F6D)
  | 1 => some (Tbl.getD cfg 1 0 ||| 0x00100000)
  | 2 => some 0x01800001
  | 11 => some (if upper then 0x96011F6D else 0x96001F6D)
  | 12 => some 0
  | n => if 4 ≤ n ∧ n < 10 then some (Tbl.getD cfg n 0 ||| barFixed upper n) else none

/-- What a write leaves in the writable registers. -/
def cfgWrite (upper : Bool) (cfg : Tbl W32) (reg : Nat) (v : W32) : Tbl W32 :=
  if reg = 1 then Tbl.set cfg 1 (v &&& cmdMask)
  else if 4 ≤ reg ∧ reg < 10 then Tbl.set cfg reg (v &&& barMask upper reg)
  else cfg

/-- Messages that waited are sent once MSI-X is enabled and the function unmasked (R134). -/
def sendPending (p : Port) : List Nat → State → State
  | [], s => s
  | v :: vs, s => sendPending p vs (if (Tbl.getD (s.port p).msix v {}).masked then s
      else emit (.msix p v) (s.modPort p fun r => { r with msixPending := Tbl.del r.msixPending v }))

def sendPendingUpper (p : Port) : List Nat → State → State
  | [], s => s
  | v :: vs, s => sendPendingUpper p vs (if (Tbl.getD (s.port p).upper.msix v {}).masked then s
      else emit (.msixUpper p v) (s.modPort p fun r => { r with upper := { r.upper with msixPending := Tbl.del r.upper.msixPending v } }))

/-- A read of a register whose value the spec does not give answers a free value (log entry 31). -/
def cfgRead (p : Port) (upper : Bool) (reg : Nat) (s : State) : State :=
  let r := s.port p
  let low := Tbl.set r.cfg 1 (Tbl.getD r.cfg 1 0 &&& ~~~ 4 ||| (if r.busMaster then 4 else 0))
  match cfgValue upper (if upper then r.upper.cfg else low) reg with
  | some v => emit (.configReply p upper v) s
  | none => let d := draw s; emit (.configReply p upper (BitVec.ofNat 32 d.1)) d.2

/-- A write of a register of the control endpoint: its bus master bit is Bus Master Enable, whose setting writes the held responses (R112, R128). -/
def cfgWriteLow (p : Port) (reg : Nat) (v : W32) (s : State) : State :=
  let s1 := s.modPort p fun r => { r with cfg := cfgWrite false r.cfg reg v, busMaster := if reg = 1 then v.getLsbD 2 else r.busMaster }
  if reg = 1 && v.getLsbD 2 then writeReplies p s1.mbx.done s1 else s1

/-- A register of AER by its offset / 4 (PCI Express Base Specification 6.0; log entry 173): the extended capability header, uncorrectable status, mask, severity, correctable status, mask, capabilities and control. -/
def aerReg (c : PcieCaps) : Fin 7 → W32
  | 1 => c.aerUncor | 2 => c.aerUncorMask | 3 => c.aerSeverity | 4 => c.aerCor | 5 => c.aerCorMask
  | 6 => BitVec.ofNat 32 (flag 5 true + flag 6 c.ecrcGen + flag 7 true + flag 8 c.ecrcCheck)
  | _ => 1

/-- A write of a register of AER: status bits are cleared by ones. -/
def aerSet (reg : Fin 7) (v : W32) (c : PcieCaps) : PcieCaps := match reg with
  | 1 => { c with aerUncor := c.aerUncor &&& ~~~ v }
  | 2 => { c with aerUncorMask := v }
  | 3 => { c with aerSeverity := v }
  | 4 => { c with aerCor := c.aerCor &&& ~~~ v }
  | 5 => { c with aerCorMask := v }
  | 6 => { c with ecrcGen := v.getLsbD 6, ecrcCheck := v.getLsbD 8 }
  | _ => c

/-- The function enters or leaves D3hot (R110): back in D0 it sends the messages that waited and, where Bus Master Enable is set, the held responses. -/
def setPower (p : Port) (upper d3 : Bool) (s : State) : State :=
  let s1 := modCaps p upper (fun c => { c with d3hot := d3 }) s
  let r := s.port p
  if d3 then s1
  else if upper then (if r.upper.msixEnable && !r.upper.msixFuncMask then sendPendingUpper p (r.upper.msixPending.map (·.1)) s1 else s1)
  else
    let s2 := if r.msixEnable && !r.msixFuncMask then sendPending p (r.msixPending.map (·.1)) s1 else s1
    if r.busMaster then writeReplies p s2.mbx.done s2 else s2

/-- A configuration request that is served. -/
def cfgServe (p : Port) (upper : Bool) (q : CfgReq) (s : State) : State :=
  let r := s.port p
  match q with
  | .read reg => cfgRead p upper reg.toNat s
  | .write reg v =>
    emit (.configReply p upper 0) (if upper then s.modPort p fun r => { r with upper := { r.upper with cfg := cfgWrite true r.upper.cfg reg.toNat v } }
      else cfgWriteLow p reg.toNat v s)
  | .msixControl en mask =>
    emit (.configReply p upper 0) (if upper then
      let s1 := s.modPort p fun r => { r with upper := { r.upper with msixEnable := en, msixFuncMask := mask } }
      if en && !mask && !r.upper.caps.d3hot then sendPendingUpper p (r.upper.msixPending.map (·.1)) s1 else s1
    else
      let s1 := s.modPort p fun r => { r with msixEnable := en, msixFuncMask := mask }
      if en && !mask && !r.caps.d3hot then sendPending p (r.msixPending.map (·.1)) s1 else s1)
  | .powerState d3 => emit (.configReply p upper 0) (setPower p upper d3 s)
  | .powerStateRead => emit (.configReply p upper (if (capsOf p upper s).d3hot then 3 else 0)) s
  | .deviceControl pay rr => emit (.configReply p upper 0) (modCaps p upper (fun c => { c with payload := pay, readRequest := rr }) s)
  | .deviceControlRead =>
    emit (.configReply p upper (BitVec.ofNat 32 (2 ^ 5 * (capsOf p upper s).payload.toNat + 2 ^ 12 * (capsOf p upper s).readRequest.toNat))) s
  | .aerRead reg => emit (.configReply p upper (aerReg (capsOf p upper s) reg)) s
  | .aerWrite reg v => emit (.configReply p upper 0) (modCaps p upper (aerSet reg v) s)
  | .atsControl en stu => emit (.configReply p upper 0) (modCaps p upper (fun c => { c with atsEnable := en, atsStu := stu }) s)
  | .atsRead => emit (.configReply p upper (BitVec.ofNat 32 ((capsOf p upper s).atsStu.toNat + flag 15 (capsOf p upper s).atsEnable))) s
  | .priControl en => emit (.configReply p upper 0) (modCaps p upper (fun c => { c with priEnable := en }) s)
  | .priRead => emit (.configReply p upper (BitVec.ofNat 32 (flag 0 (capsOf p upper s).priEnable))) s
  | .pasidControl en => emit (.configReply p upper 0) (modCaps p upper (fun c => { c with pasidEnable := en }) s)
  | .pasidRead => emit (.configReply p upper (BitVec.ofNat 32 (flag 0 (capsOf p upper s).pasidEnable))) s
  | .initiateFlr => emit (.configReply p upper 0) (if upper then upperReset p s else endpointReset p s)

/-- CONFIGURATION_REQUEST: Request Retry Status until the service processor can serve, then the answer; `serves`: by now it serves the immediate mailbox (boot step 10, R72, R73, R124). -/
def execConfigurationRequest (p : Port) (upper : Bool) (q : CfgReq) (serves : Bool) (s : State) : Res := onRun s fun s =>
  if !(s.port p).linkUp || (s.port p).inReset || (upper && !(s.port p).x8) then s
  else if !canServe s then emit (.configRetry p) s
  else cfgServe p upper q (if serves then { s with boot := { s.boot with served := true } } else s)

/-! ## Address translation (R110) -/

/-- ATS_INVALIDATION_REQUEST: the translations of `count` pages from `page` of a PASID are dropped, and the request is completed. -/
def execAtsInvalidationRequest (p : Port) (upper : Bool) (pasid : BitVec 20) (page : BitVec 52) (count : Nat) (itag : BitVec 5) (s : State) : Res := onRun s fun s =>
  if !(s.port p).linkUp then s
  else
    let lo := atsKey upper pasid.toNat page.toNat
    let hi := min (lo + count) (atsKey upper (pasid.toNat + 1) 0)
    emit (.atsDone p itag.toNat) (s.modPort p fun r => { r with ats := Tbl.keep r.ats fun k _ => decide (k < lo) || decide (hi ≤ k) })

/-- The endpoint of a command's controller is an upper one. -/
def cmdUpper (id : Nat) (s : State) : Bool := ((cmdAt s id).bind fun c => Tbl.find s.host.ctrls c.ctrl).any (·.upper)

/-- PAGE_REQUEST_GROUP_RESPONSE: the pages of a group are there, and their translation is asked for and cached, or the transfer of the command that waits for them fails (R110, R168, R187). -/
def execPageRequestGroupResponse (p : Port) (group : BitVec 9) (granted : Bool) (s : State) : Res := onRun s fun s =>
  match Tbl.find (s.port p).pageReqs group.toNat with
  | none => s
  | some (pasid, page, id) =>
    if !(s.port p).linkUp then s
    else
      let s1 := emit (.pageDone p group.toNat granted) (s.modPort p fun r => { r with pageReqs := Tbl.del r.pageReqs group.toNat })
      if granted then (translate p (cmdUpper id s) pasid [page] s1).modCmd id fun c => { c with waits := c.waits.filter (· ≠ group.toNat) }
      else transferFails id s1

end Sys2Proof.Machine
end

