-- ==== Sys2Proof/Machine/Trust.lean ====
section
/-! DEFINITION. Machine/Trust.lean: fuses, signed commands, debug, attestation and recovery loading (R84 to R96, R138). -/
namespace Sys2Proof.Machine
open Sys2Proof

/-! ## Signed commands (R90) -/

/-- An image's measurement as a report carries it. -/
def measOf (i : Option ImageInfo) : List Byte := match i with
  | some x => fit 48 x.measurement
  | none => zeros 48

/-- The signed message of a request: opcode, the body as it is carried up to its SIGNATURE of 96 bytes, DEVICE_UID (R90). -/
def signedBytes (op : Nat) (body : List Byte) (s : State) : List Byte := le16 op ++ body.take (body.length - 96) ++ uidBytes s

/-- The signature verifies over opcode, body and DEVICE_UID under a key that SIGNER_SLOT names (R90 step 4). -/
def signatureOk (op : Nat) (body : List Byte) (g : Signed) (s : State) : Bool :=
  keyOfSlot s g.signerSlot g.signerKey && ecdsaOk g.signerKey (Config.sha384 (signedBytes op body s)) g.signature

/-- SIGNER_SLOT is 0 to 3 or 0xFF. -/
def signerBad (g : Signed) : Bool := decide (3 < g.signerSlot) && g.signerSlot ≠ 255

/-- Steps 1 to 4 of R90 for a command, in order; `slotAt` is the offset of SIGNER_SLOT, `fields` what step 1 refuses before it, `fuse` whether it programs fuses, `auth` whether step 4 is made. The issued nonce is consumed when a command that presents it reaches step 3; a different one leaves it. -/
def signedCheck (op : Nat) (fields : Option MReply) (slotAt : Nat) (fuse auth : Bool) (body : List Byte) (g : Signed) (s : State) : Option MReply × State :=
  match fields with
  | some r => (some r, s)
  | none =>
    if signerBad g then (some (limitAt slotAt), s)
    else if fuse && powerRefused s then (some (replyErr .refusedState 0), s)
    else
      let s1 := { s with trust := { s.trust with nonce := none } }
      if s.trust.nonce ≠ some g.nonce then (some (replyErr .nonceInvalid 0), s)
      else if auth && !signatureOk op body g s then (some (replyErr .authFailed 0), s1)
      else (none, s1)

/-- After steps 1 to 4, the state of the object decides (step 5). -/
def signedRun (x : Option MReply × State) (f : State → MReply × State) : Option MReply × State :=
  match x with
  | (some r, s) => (some r, s)
  | (none, s) => let y := f s; (some y.1, y.2)

/-! ## Fuses (R85 to R92) -/

def fuseReadBody (s : State) : List Byte :=
  mfgId s ++ zeros 3 ++ s.fuses.vendorHash ++ (List.range 4).flatMap (fun n => (ownerSlot s n).hash) ++ le8 (rollbackValue s)
    ++ le8 s.fuses.revoke.toNat ++ le8 (debugState s) ++ zeros 1

def execFuseRead (h : MbxHdr) (s : State) : Res := onRun s fun s =>
  mbxStart { opcode := 0x0101, since := 1, sem := false, group := .trust } h [] (answer fun s => replyOk (fuseReadBody s)) s

/-- FUSE_NONCE_GET: a new random nonce; the one before it expires (R90). -/
def execFuseNonceGet (h : MbxHdr) (s : State) : Res := onRun s fun s =>
  mbxStart { opcode := 0x0102, since := 1, sem := true, group := .trust } h [] (fun s =>
    let d := draw s
    let n := leBytes 32 d.1
    (some (replyOk n), { d.2 with trust := { d.2.trust with nonce := some n } })) s

/-- A logical bit of the incremental area is blown and read back: `fuses` are those of its three that are blown in the end, after up to two repeats; one that still fails its read-back has its event (R87, R508; log entry 35). -/
def blowBit (i : Nat) (fuses : BitVec 3) (s : State) : State :=
  let f := s.fuses.blow i fuses
  let s1 := { s with fuses := f }
  if f.bit i then s1 else fuseRowEvent (0x8000 + i) 2 s1

/-- The rows of an owner slot are programmed and read back; a row that fails makes the slot one of R86. -/
def programSlot (n : Nat) (key : List Byte) (bad : Option (Fin 7)) (s : State) : State :=
  let s1 := s.setOwner n { hash := Config.sha384 key, programmed := true, damaged := bad.isSome }
  match bad with
  | some r => fuseRowEvent (15 + 7 * n + r.val) 2 s1
  | none => s1

/-- A device fault during a command: an error record of the domain and INTERNAL_ERROR with its number (R135; log entry 40). -/
def deviceFault (d : Nat) (s : State) : MReply × State :=
  let x := errorRecord 2 false (plainErr 0x0106 d 0 0 0 0) s
  (replyErr .internalError x.1.toNat, x.2)

/-- What a command that programs fuses answers: a read-back that fails is a device fault of the fuse domain (R87, R135; log entry 35). -/
def fuseReply (ok : Bool) (body : List Byte) (s : State) : MReply × State := if ok then (replyOk body, s) else deviceFault 2 s

/-- FUSE_OWNER_KEY_PROGRAM; `bad`: the row of the slot that fails its read-back (R87, R89). -/
def execFuseOwnerKeyProgram (h : MbxHdr) (slot : Byte) (key : List Byte) (g : Signed) (bad : Option (Fin 7)) (s : State) : Res := onRun s fun s =>
  mbxStartWith { opcode := 0x0103, since := 1, sem := true, group := .trust } h [.num 0 1 slot.toNat, .num 1 1 g.signerSlot, .bytes 4 key, .bytes 104 g.signerKey, .bytes 204 g.nonce, .bytes 236 g.signature] (fun body s =>
    let n := slot.toNat
    signedRun (signedCheck 0x0103 (firstFail [(decide (3 < n), limitAt 0)]) 1 true (isOwned s) body g s) fun s =>
      if (ownerSlot s n).programmed then (replyErr .existsAlready 0, s) else fuseReply bad.isNone [] (programSlot n key bad s)) s

/-- Another usable slot would remain (R89). -/
def otherUsable (n : Nat) (s : State) : Bool := (List.range 4).any fun i => i ≠ n && slotUsable s i

/-- FUSE_OWNER_KEY_REVOKE; `blown`: the fuses of the bit that are blown in the end (R87, R89). -/
def execFuseOwnerKeyRevoke (h : MbxHdr) (slot : Byte) (g : Signed) (blown : BitVec 3) (s : State) : Res := onRun s fun s =>
  mbxStartWith { opcode := 0x0104, since := 1, sem := true, group := .trust } h [.num 0 1 slot.toNat, .num 1 1 g.signerSlot, .bytes 4 g.signerKey, .bytes 104 g.nonce, .bytes 136 g.signature] (fun body s =>
    let n := slot.toNat
    signedRun (signedCheck 0x0104 (firstFail [(decide (3 < n), limitAt 0)]) 1 true true body g s) fun s =>
      if !(ownerSlot s n).programmed then (replyErr .notFound 0, s)
      else if s.fuses.revoke.getLsbD n then (replyOk [], s)
      else if !(ownerSlot s n).damaged && !otherUsable n s then (replyErr .inUse 0, s)
      else let s1 := blowBit (64 + n) blown s; fuseReply (s1.fuses.bit (64 + n)) [] s1) s

/-- SECURITY_VERSION of the running images (R82, R91): the lower one where they differ. -/
def runningSecurity (s : State) : Nat :=
  match s.boot.sp, s.boot.cc with
  | some a, some b => min a.securityVersion b.securityVersion
  | some a, none => a.securityVersion
  | _, _ => 0

/-- The confirmation rules: STATE 0 and both regions hold the confirmed images (R527). -/
def confirmedState (s : State) : Bool := s.fw.state = 0 && !s.fw.copying

/-- The lowest ROLLBACK bit that reads 0. -/
def lowestRollback (s : State) : Nat := ((List.range 64).find? fun i => !s.fuses.rollback.getLsbD i).getD 63

def execFuseRollbackAdvance (h : MbxHdr) (target : Byte) (blown : BitVec 3) (s : State) : Res := onRun s fun s =>
  mbxStart { opcode := 0x0105, since := 1, sem := true, group := .trust } h [.num 0 1 target.toNat] (fun s =>
    let v := rollbackValue s
    if powerRefused s then (some (replyErr .refusedState 0), s)
    else if target.toNat ≠ v + 1 then (some (fieldAt 0), s)
    else if !confirmedState s || decide (runningSecurity s < v + 1) || decide (64 ≤ v) then (some (replyErr .rollbackRefused v), s)
    else
      let i := lowestRollback s
      let s1 := blowBit i blown s
      let x := fuseReply (s1.fuses.bit i) (le8 (rollbackValue s1) ++ zeros 3) s1
      (some x.1, x.2)) s

/-- The fields of FUSE_DEBUG_PERMANENT and DEBUG_UNLOCK in their body. -/
def debugFields (g : Signed) : List BodyField := [.num 0 1 g.signerSlot, .bytes 4 g.signerKey, .bytes 104 g.nonce, .bytes 136 g.signature]

/-- FUSE_DEBUG_PERMANENT (R92): on a chip that is already permanent it changes nothing. DESIGN CHOICE: R92 names DEBUG_PERMANENT alone, and its permanent state has DEBUG_LOCK 1 as well; on a chip whose DEBUG_LOCK reads 0 the model blows that bit too, without a read-back (log entry 170). -/
def execFuseDebugPermanent (h : MbxHdr) (g : Signed) (blown : BitVec 3) (s : State) : Res := onRun s fun s =>
  mbxStartWith { opcode := 0x0106, since := 1, sem := true, group := .trust } h (debugFields g) (fun body s =>
    signedRun (signedCheck 0x0106 none 0 true true body g s) fun s =>
      if s.fuses.debugPermanent then (replyOk [], s)
      else
        let s1 := blowBit 69 blown { s with fuses := s.fuses.blow 68 7 }
        fuseReply (s1.fuses.bit 69) [] s1) s

/-- Debug opens: the report key follows from then on from a label that says so (R93). Where it was certified already, the alias private key that signed is erased, and the spec names no key that certifies the new report key: the signing scalar is a free value (log entry 166). -/
def openDebug (s : State) : State :=
  let s1 := { s with trust := { s.trust with debugOpen := true, keysClosed := true } }
  if !s.trust.reportKey then s1
  else
    let d := draw s1
    { d.2 with trust := { d.2.trust with reportCert := Config.certify d.1 (Config.ecPublic (reportScalar s1)) (measOf s1.boot.cc ++ le8 1) } }

/-- DEBUG_UNLOCK: key slots are zeroed first; open until reset (R92, R93). -/
def execDebugUnlock (h : MbxHdr) (g : Signed) (s : State) : Res := onRun s fun s =>
  mbxStartWith { opcode := 0x0107, since := 1, sem := true, group := .trust } h (debugFields g) (fun body s =>
    signedRun (signedCheck 0x0107 none 0 false true body g s) fun s =>
      if s.fuses.debugPermanent then (replyErr .refusedState 0, s)
      else if debugIsOpen s then (replyOk [], s)
      else
        let s1 := zeroSlots s
        (replyOk [], event 2 0x61 (le8 g.signerSlot) (openDebug s1))) s

/-! ## Attestation (R94 to R96, R521) -/

/-- PART and SECURITY of the report (R96). -/
def reportPart (s : State) : Nat := s.fuses.stepping.toNat + 16 * s.fuses.orderCode.toNat + flag 6 s.fuses.extScreen
def reportSecurity (s : State) : Nat :=
  s.boot.keySlot % 16 + 16 * s.fuses.revoke.toNat + 256 * debugState s + flag 10 (debugIsOpen s) + flag 11 (isOwned s)
    + flag 12 (s.boot.src = .staging) + flag 13 (s.boot.src = .download)

/-- The signed part of the report, 400 bytes; `at_` is the chip time at signing. -/
def reportBody (nonce : List Byte) (at_ : Nat) (s : State) : List Byte :=
  le32 0x52415A4D ++ le16 1 ++ le16 0x01F0 ++ fit 32 nonce ++ uidBytes s ++ le32 (reportPart s)
    ++ le32 ((nodeId s).getD 0 + flag 31 (nodeId s).isSome) ++ le64 s.aon.powerCycles.toNat ++ le64 at_ ++ le32 (reportSecurity s)
    ++ le32 (rollbackValue s) ++ le64 (imageVer s.boot.sp) ++ le64 (imageVer s.boot.cc) ++ fit 48 (verifierHash s)
    ++ measOf s.boot.sp ++ measOf s.boot.cc ++ fit 48 s.trust.measConfig ++ fit 97 (Config.ecPublic (reportScalar s)) ++ zeros 7
where
  imageVer (i : Option ImageInfo) : Nat := match i with
    | some x => x.fwVersion.toNat
    | none => 0

/-- The report with its signature, 496 bytes. -/
def attestReport (nonce : List Byte) (at_ : Nat) (s : State) : List Byte :=
  let b := reportBody nonce at_ s
  b ++ fit 96 (Config.ecdsaSign (reportScalar s) (Config.sha384 b))

/-- The report-key, stage-1 alias and device certificates. -/
def attestChain (s : State) : List Byte :=
  s.trust.reportCert ++ s.trust.aliasCert ++ s.nor.devCert

/-- One more request for a report: its chip time at signing, or refused (R96): 1,000 are signed in a second, 64 wait for the next one (log entry 36). -/
def attestTurn (s : State) : Option Nat × State :=
  let now := s.time.toNat
  let t := s.trust
  let fresh := decide (t.attestEpoch + 1000000000 ≤ now) || (t.attestCount = 0 && t.attestWaiting = 0)
  let t1 := if fresh then { t with attestEpoch := now, attestCount := t.attestWaiting, attestWaiting := 0 } else t
  if t1.attestCount < 1000 then (some now, { s with trust := { t1 with attestCount := t1.attestCount + 1 } })
  else if t1.attestWaiting < 64 then (some (t1.attestEpoch + 1000000000), { s with trust := { t1 with attestWaiting := t1.attestWaiting + 1 } })
  else (none, { s with trust := t1 })

/-- The answer to a request for a report: rate-limited, or report and chain written to the host's buffer; `ok`: the write completes. -/
def attestReply (h : MbxHdr) (nonce : List Byte) (addr : W64) (ok : Bool) : Option Nat × State → Option MReply × State
  | (none, s) => (some (replyErr .rateLimited 0), s)
  | (some t, s) =>
    if ok then (some (replyOk (le32 496 ++ le32 (attestChain s).length)), hostWrite h.port addr (attestReport nonce t s ++ attestChain s) s)
    else (some (dmaFault h addr true s).1, (dmaFault h addr true s).2)

def attestBody (h : MbxHdr) (nonce : List Byte) (addr : W64) (len : W32) (ok : Bool) (s : State) : Option MReply × State :=
  if len.toNat < 8192 then (some (fieldAt 40), s) else attestReply h nonce addr ok (attestTurn s)

/-- ATTEST_REPORT: report and chain go to the host's buffer (R96, R138). -/
def execAttestReport (h : MbxHdr) (nonce : List Byte) (addr : W64) (len : W32) (ok : Bool) (s : State) : Res :=
  onRun s (mbxStart { opcode := 0x0108, since := 1, sem := false, group := .attest } h [.bytes 0 nonce, .num 32 8 addr.toNat, .num 40 4 len.toNat] (attestBody h nonce addr len ok))

/-! ## RECOVERY_LOAD (R84) -/

/-- The image that a recovery expects next: stage 1 in the recovery state, then the control-core image, then the bridge image. -/
def recoveryNext (s : State) : Option ImageType :=
  if s.boot.stage = .recovery then some .stage1
  else if s.boot.src ≠ .download then none
  else if s.boot.cc.isNone then (if s.boot.hbmTrained then some .controlCore else none)
  else if s.boot.bridge.isNone then some .bridge
  else none

/-- A downloaded stage 1 is accepted: the boot goes on from the download (log entry 28). -/
def recoverStage1 (o : ImageObs) (s : State) : State :=
  memoriesDone (acceptStage1 o { showPair o s with boot := { s.boot with src := .download, cc := none, bridge := none } })

/-- An image of a recovery is accepted, or its failing check answered; a refused control-core image returns to the recovery state. -/
def recoverImage (t : ImageType) (o : ImageObs) (s : State) : Byte × State :=
  match imageFail t o s with
  | some c => (c, let s1 := failCode c (showPair o s); if t = .controlCore then enterRecovery s1 else s1)
  | none => match t with
    | .stage1 => (0, recoverStage1 o s)
    | .controlCore =>
      if imagesAgree o s then (0, memoriesDone (acceptControl o (showPair o s))) else (1, enterRecovery (failCode 1 s))
    | .bridge => (0, loadImage .bridge o (showPair o { s with boot := { s.boot with bridge := some (imageInfo o) } }))

def imageTypeOf (n : Nat) : Option ImageType :=
  if n = 1 then some .stage1 else if n = 2 then some .controlCore else if n = 3 then some .bridge else none

/-- An image as a stream of LENGTH bytes brings it: header and payload, cut where the stream ends. -/
def cutStream (len : Nat) (o : ImageObs) : ImageObs := { o with header := o.header.take len, payload := o.payload.take (len - 256) }

/-- RECOVERY_LOAD; `got`: the image in host memory from SRC_ADDR, none where the read failed; the stream ends after LENGTH bytes. FAIL_CODE is 0 for an accepted image (log entry 37). -/
def execRecoveryLoad (h : MbxHdr) (imageType : W16) (len : W32) (addr : W64) (got : Option ImageObs) (s : State) : Res := onRun s fun s =>
  mbxStart { opcode := 0x0109, since := 1, sem := true, group := .trust, recovery := true } h [.num 0 2 imageType.toNat, .num 4 4 len.toNat, .num 8 8 addr.toNat] (fun s =>
    match imageTypeOf imageType.toNat, got with
    | none, _ => (some (fieldAt 0), s)
    | some t, got =>
      if recoveryNext s ≠ some t then (some (replyErr .refusedState 0), s)
      else match got with
        | none => let x := dmaFault h addr false s; (some x.1, x.2)
        | some o => let x := recoverImage t (cutStream len.toNat o) s; (some (replyOk (le8 x.1.toNat ++ zeros 3)), x.2)) s

end Sys2Proof.Machine
end

