-- ==== Sys2Proof/Machine/Firmware.lean ====
section
/-! DEFINITION. Machine/Firmware.lean: firmware update: staging, activation, the trial, fallback, confirmation (R132, R139, R510 to R529). -/
namespace Sys2Proof.Machine
open Sys2Proof

def State.modFw (s : State) (f : FwUpdate → FwUpdate) : State := { s with fw := f s.fw }

/-- The boot NOR programs or erases an image region (R506). -/
def norWork (b : Bool) (s : State) : State := { s with evr := { s.evr with norBusy := b } }

/-! ## Staging (R511 to R515) -/

/-- A version in the bundle goes back behind what runs or is held (R514). -/
def bundleOld (b : Bundle) (s : State) : Bool :=
  decide (64 < b.securityVersion) || decide (b.securityVersion < rollbackValue s) || decide (b.securityVersion < runningSecurity s)
    || decide (b.manifestVersion.toNat < runningVersion s)
    || b.parts.any fun p => match regionImage p.image s.fw.primary with
      | some r => decide (p.fwVersion.toNat < (hdrVersion r.header).toNat)
      | none => false

/-- A resulting image fails R81, or differs from the manifest (R514; log entry 39). -/
def imageDiffers (b : Bundle) (p : BundlePart) (o : ImageObs) (s : State) : Option Byte :=
  match imageFail p.image o s with
  | some c => some c
  | none => if hdrKeySlot o.header ≠ b.keySlot ∨ hdrSecurity o.header ≠ b.securityVersion ∨ hdrVersion o.header ≠ p.fwVersion then some 1 else none

/-- What a part's image fails with; a delta without a result fails with 0x01 (R513, R514). -/
def partFail (b : Bundle) (s : State) (p : BundlePart) : Option Byte := match partImage p s with
  | some o => imageDiffers b p o s
  | none => some 0x01

/-- The FAIL_CODE with which the checks of R514 after the fourth refuse a bundle, if they do. -/
def manifestFail (b : Bundle) (s : State) : Option Byte :=
  if !keyOfSlot s b.keySlot b.publicKey then some 0x02
  else if bundleOld b s then some 0x04
  else if b.deviceBound && b.deviceUid ≠ s.fuses.uid then some 0x05
  else if b.debugOnly && !debugIsOpen s then some 0x06
  else if !ecdsaOk b.publicKey b.digest b.signature then some 0x03
  else if b.parts.any (fun p => Config.sha384 p.body ≠ p.digest) then some 0x08
  else if b.parts.any (fun p => (partImage p s).isNone) then some 0x01
  else b.parts.findSome? (partFail b s)

/-- The bundle that bytes spell, or the FAIL_CODE that refuses them (R514, fourth check onward). -/
def judgeBundle (len : Nat) (bytes : List Byte) (s : State) : Except Byte Bundle := match bundleOf len bytes with
  | none => .error 0x01
  | some b => match manifestFail b s with
    | some c => .error c
    | none => .ok b

/-- The images of a staging region built from a bundle and, for what it does not carry, the primary region (R515). -/
def buildRegion (b : Bundle) (s : State) : Region_ :=
  b.parts.foldl (fun g p => match partImage p s with
    | some o => putImage p.image (imageRec o) g
    | none => g) s.fw.primary

def stageBody (version parts : Nat) : List Byte := le64 version ++ le16 parts ++ zeros 2

/-- FW_STAGE; `got`: the bytes of the bundle, none where host memory could not be read; FLAGS bit 0 is DRY_RUN (R514, R515). -/
def execFwStage (h : MbxHdr) (addr : W64) (len flags : W32) (got : Option (List Byte)) (s : State) : Res := onRun s fun s =>
  mbxStart { opcode := 0x0201, since := 1, sem := true } h [.num 0 8 addr.toNat, .num 8 4 len.toNat, .num 12 4 flags.toNat] (fun s =>
    if s.fw.state ≠ 0 ∧ s.fw.state ≠ 3 ∧ s.fw.state ≠ 9 then (some (replyErr .busy 0), s)
    else if len.toNat < 512 ∨ 67108864 < len.toNat then (some (limitAt 8), s)
    else match got with
      | none => let x := dmaFault h addr false s; (some x.1, x.2)
      | some bytes => match judgeBundle len.toNat bytes s with
        | .error c => (some (replyErr .imageInvalid c.toNat), s)
        | .ok b =>
          if flags.getLsbD 0 then (some (replyOk (stageBody b.manifestVersion.toNat b.parts.length)), s)
          else (none, norWork true (s.saveFw fun f => { f with
            state := 2, mode := 255, staged := 0, next := buildRegion b s, nextVersion := b.manifestVersion, nextParts := b.parts.length
            iface := b.iface, copying := false }))) s

/-- A NOR fault during an update: an error record of the service processor and INTERNAL_ERROR with its number (R135; log entry 40). -/
def norFault (s : State) : MReply × State := deviceFault 1 s

/-- FW_STAGING_DONE: the staged images are written and verified, or the NOR failed (R515, R517). -/
def execFwStagingDone (ok : Bool) (s : State) : Res := onRun s fun s =>
  if s.fw.state ≠ 2 then s
  else
    let s1 := norWork false s
    if ok then finishOp 0x0201 (replyOk (stageBody s.fw.nextVersion.toNat s.fw.nextParts))
      ((writeRegion true s.fw.next s1).saveFw fun f => { f with state := 3, staging := f.next, staged := f.nextVersion, next := {} })
    else
      let x := norFault s1
      finishOp 0x0201 x.1 (x.2.saveFw fun f => { f with state := 1, next := {}, copying := true, copyToPrimary := false })

/-! ## Activation (R518 to R522) -/

/-- A version in use lies outside the staged range of an interface (R518). -/
def outside (s : State) (i v : Nat) : Bool := match s.fw.iface[i]? with
  | some (lo, hi) => decide (v < lo) || decide (hi < v)
  | none => true

/-- Versions in use by interface: live Kamard links, the Jalras link, the journal, datagram sessions, the cluster, the chain, the pool superblocks. -/
def versionsInUse (s : State) : List (Nat × Nat) :=
  ((s.kports.filter fun e => e.2.state = .up).map fun e => (1, e.2.version))
    ++ (if peerSubs s = [] then [] else [(2, s.jal.version)]) ++ [(3, s.journal.version)]
    ++ (s.net.peers.filterMap fun e => e.2.version.map fun v => (4, v))
    ++ (if s.cluster.member then s.cluster.members.map fun e => (5, clusterVersion s e.1) else [])
    ++ (if s.chain.position.isSome && !s.chain.head then [(6, s.chain.version.toNat)] else []) ++ (if s.pools = [] then [] else [(7, 1)])

/-- The staged range of an interface and the range that the peer announced have no version in common (R518). -/
def noOverlap (s : State) (i lo hi : Nat) : Bool := match s.fw.iface[i]? with
  | some (a, b) => decide (hi < a) || decide (b < lo)
  | none => true

/-- The last check of R518. -/
def ifaceConflict (mode : Nat) (s : State) : Bool :=
  if mode = 0 then (versionsInUse s).any fun x => outside s x.1 x.2
  else s.jal.partnerUid.isSome && (noOverlap s 2 s.jal.peerRange.1 s.jal.peerRange.2.1 || noOverlap s 3 s.jal.peerRange.2.2.1 s.jal.peerRange.2.2.2)

/-- The staged stage-1 payload is not the one that runs. -/
def stage1Differs (s : State) : Bool := match s.boot.sp, s.fw.staging.stage1 with
  | some a, some b => decide (a.payload ≠ Config.sha384 b.payload)
  | _, _ => true

/-- The lowest fenced control-core cluster. -/
def fencedCluster (s : State) : Option Nat := [5, 6, 7, 8].find? fun d => hasBit s.power.fenced d

/-- The checks of R518 in order. -/
def activateCheck (mode : Nat) (s : State) : Option MReply :=
  firstFail [
    (decide (1 < mode), fieldAt 0),
    (s.fw.state = 0 || s.fw.state = 9, replyErr .notFound 0),
    (s.fw.state ≠ 3, replyErr .busy 0),
    (powerRefused s || s.phys.throttle != 0, replyErr .refusedState 0),
    (mode = 0 && stage1Differs s, fieldAt 0),
    (mode = 0 && (fencedCluster s).isSome, replyErr .fenced ((fencedCluster s).getD 0)),
    (ifaceConflict mode s, replyErr .inUse 0)]

/-- Contexts of one half of the control cores become free (R458, R520): half 0 is clusters 0 and 1. -/
def freeHalf (h : Bool) (s : State) : State :=
  freeAgent (fun a => if h then decide (a = 0x12) || decide (a = 0x13) else decide (a = 0x10) || decide (a = 0x11)) s

/-- FW_ACTIVATE MODE 0: the new image is loaded into HBM and starts on the half that does not hold control (R519 steps 1 to 4). -/
def execFwActivateHitless (h : MbxHdr) (s : State) : Res := onRun s fun s =>
  mbxStart { opcode := 0x0202, since := 1, sem := true } h [.num 0 1 0] (fun s =>
    match activateCheck 0 s with
    | some r => (some r, s)
    | none => (none, freeHalf (!s.fw.half) (s.saveFw fun f => { f with state := 4, mode := 0 }))) s

/-- A session whose version the new firmware does not support must be renewed (R132). -/
def renegotiate (p : Port) (s : State) : State :=
  match (s.port p).session with
  | some v =>
    if v < s.fw.mbxMin ∨ s.fw.mbxMax < v then raiseCause p cRenegotiate (s.modPort p fun r => { r with renegotiate := true }) else s
  | none => s

/-- Control passes to the other half with another image; a new report key is certified under the alias key, which is derived again from its seed; the half that leaves frees its contexts, and sessions survive (R94, R132, R458, R519 to R521). -/
def passControl (img : Option ImageInfo) (mbx : Nat × Nat) (s : State) : State :=
  let s1 := freeHalf s.fw.half { s with
    boot := { s.boot with cc := img }
    mapCache := { s.mapCache with regions := regionsFor s.boot.ddrBytes }
    fw := { s.fw with half := !s.fw.half, mbxMin := mbx.1, mbxMax := mbx.2, oldControl := s.boot.cc, oldMbx := (s.fw.mbxMin, s.fw.mbxMax) } }
  renegotiate .b (renegotiate .a (certifyReport { s1 with trust := { s1.trust with aliasScalar := s1.trust.aliasSeed.map Config.seedScalar } }))

def infoOf (r : ImgRec) : ImageInfo :=
  imageInfo { header := r.header, payload := r.payload }

/-- FW_HANDOVER_FREEZE: the state passes to the new image and the window opens; or a step before the freeze failed, and activation has had no effect (R519). -/
def execFwHandoverFreeze (ok : Bool) (s : State) : Res := onRun s fun s =>
  if s.fw.state ≠ 4 ∨ s.fw.mode ≠ 0 then s
  else match ok, s.fw.staging.control with
    | true, some r =>
      let mbx := match s.fw.iface[0]? with
        | some x => x
        | none => (1, 3)
      let s1 := passControl (some (infoOf r)) mbx s
      finishOp 0x0202 (replyOk []) (s1.saveFw fun f => { f with state := 5, windowEnd := some (s1.time.toNat + 600000000000) })
    | _, _ =>
      let x := norFault (freeHalf (!s.fw.half) s)
      finishOp 0x0202 x.1 (x.2.saveFw fun f => { f with state := 3, mode := 255 })

/-- FW_ACTIVATE MODE 1, and any MODE above it, which is refused (R518, R522). -/
def execFwActivateNextStart (h : MbxHdr) (mode : Byte) (s : State) : Res := onRun s fun s =>
  mbxStart { opcode := 0x0202, since := 1, sem := true } h [.num 0 1 mode.toNat] (fun s =>
    match activateCheck mode.toNat s with
    | some r => (some r, s)
    | none => (none, norWork true (s.saveFw fun f => { f with state := 4, mode := 1 }))) s

/-- FW_ARMED: the two regions are exchanged and the record is written; `fail`: the step of R522, 0 to 2, that failed instead (log entry 41). -/
def execFwArmed (fail : Option (Fin 3)) (s : State) : Res := onRun s fun s =>
  if s.fw.state ≠ 4 ∨ s.fw.mode ≠ 1 then s
  else
    let s1 := norWork false s
    match fail with
    | none => finishOp 0x0202 (replyOk []) ((writeRegion false s.fw.staging (writeRegion true s.fw.primary s1)).saveFw fun f => { f with state := 6, primary := f.staging, staging := f.primary })
    | some i =>
      let x := norFault s1
      finishOp 0x0202 x.1 (x.2.saveFw fun f => (
        if i = 0 then { f with state := 3, mode := 255 }
        else if i = 1 then { f with state := 1, staged := 0, copying := true, copyToPrimary := false }
        else { f with state := 1, staged := 0, primary := {}, staging := f.primary, copying := true, copyToPrimary := true }))

/-! ## Trial, fallback and confirmation (R523 to R528) -/

/-- A trial is running that can fall back. -/
def inTrial (s : State) : Bool := s.fw.state = 5 || (s.fw.state = 7 && !s.fw.noFall)

/-- FALLING_BACK: the old image takes control back, or the chip vaults and restarts on the old images (R524). -/
def fwFallback (s : State) : State :=
  let s1 := s.saveFw fun f => { f with state := 8, windowEnd := none }
  if s.fw.mode = 0 && (fencedCluster s).isNone then
    (passControl s.fw.oldControl s.fw.oldMbx s1).saveFw fun f => { f with
      state := 9, mode := 255, staged := 0, oldControl := none, copying := true, copyToPrimary := false }
  else startFlush .fallback s1

/-- FW_WINDOW_EXPIRY: 600 s without FW_CONFIRM; without a fallback image it has no effect (R523, R525). -/
def execFwWindowExpiry (s : State) : Res := onRun s fun s =>
  match s.fw.windowEnd with
  | none => s
  | some t =>
    let s1 := reachTime t s
    if inTrial s1 then fwFallback s1 else s1.modFw fun f => { f with windowEnd := none }

/-- FW_HEARTBEAT_GAP: 100 ms without a heartbeat of the control cores (R523). -/
def execFwHeartbeatGap (s : State) : Res := onRun s fun s => if inTrial s then fwFallback s else s

/-- FW_CONFIRM: accepted in STATE 5 and 7 (R526). -/
def execFwConfirm (h : MbxHdr) (s : State) : Res := onRun s fun s =>
  mbxStart { opcode := 0x0203, since := 1, sem := true } h [] (fun s =>
    tryDo (firstFail [(s.fw.state ≠ 5 && s.fw.state ≠ 7, replyErr .busy 0)])
      (fun s => s.saveFw fun f => { f with
        state := 1
        running := f.staged
        staged := 0
        windowEnd := none
        noFall := false
        oldControl := none
        copying := true
        copyToPrimary := f.mode = 0 || s.boot.src = .staging
        mode := 255 }) s) s

/-- The target of a copy takes what its source holds. -/
def regionsAgree (f : FwUpdate) : FwUpdate :=
  if f.copyToPrimary then { f with primary := f.staging, erased := false, copying := false } else { f with staging := f.primary, copying := false }

/-- The copy of one region over the other ends: the target's sectors have been written. -/
def finishCopy (s : State) : State :=
  (if s.fw.copyToPrimary then writeRegion false s.fw.staging s else writeRegion true s.fw.primary s).modFw regionsAgree

/-- FW_REGIONS_SYNCED: the regions agree; a settled update compares the bridge firmware of every module (R517, R526). -/
def execFwRegionsSynced (s : State) : Res := onRun s fun s =>
  if !s.fw.copying ∨ (s.fw.state ≠ 1 ∧ s.fw.state ≠ 9) ∨ (s.boot.src = .staging ∧ s.fw.copyToPrimary) then s
  else
    let s1 := finishCopy s
    if s.fw.state = 1 then pushAll (s1.saveFw fun f => { f with state := 0 }) else s1

/-- PRIMARY_REGION_RESTORE: after READY from the staging region, stage 1 has copied it over the primary region (R525, R529). -/
def execPrimaryRegionRestore (s : State) : Res := onRun s fun s =>
  if s.boot.stage ≠ .ready ∨ s.boot.src ≠ .staging ∨ !s.fw.copying then s
  else
    let s1 := finishCopy (s.modFw fun f => { f with copyToPrimary := true })
    if s.fw.state = 8 then s1.saveFw fun f => { f with state := 9, staged := 0 }
    else if s.fw.state = 1 then pushAll (s1.saveFw fun f => { f with state := 0 })
    else s1

/-- WINDOW_LEFT_MS of the running window, rounded up. -/
def windowLeft (s : State) : Nat := match s.fw.windowEnd with
  | some t => ceilDiv (t - s.time.toNat) 1000000
  | none => 0

def fwStatusBody (s : State) : List Byte :=
  le8 s.fw.state ++ zeros 3 ++ le64 (runningVersion s) ++ le64 s.fw.staged.toNat ++ le32 (windowLeft s)

def execFwStatusGet (h : MbxHdr) (s : State) : Res := onRun s fun s =>
  mbxStart { opcode := 0x0204, since := 1, sem := false, group := .fwStatus } h [] (answer fun s => replyOk (fwStatusBody s)) s

/-- What an abort does at once in STATE 3 and 6: the new images leave, and the other region is rewritten (R528). -/
def abortStaged (f : FwUpdate) : FwUpdate :=
  { f with state := 1, mode := 255, staged := 0, copying := true, copyToPrimary := f.state = 6 }

/-- An abort that is accepted in a trial: the response leaves first, then the fallback begins (R528). -/
def abortTrial (h : MbxHdr) (s : State) : State :=
  match s.mbx.done.find? fun d => d.cmd.hdr = h && d.cmd.opcode = 0x0205 with
  | some d => fwFallback (writeReply d s)
  | none => fwFallback s

/-- FW_ABORT (R528). -/
def execFwAbort (h : MbxHdr) (s : State) : Res := onRun s fun s =>
  let n := s.fw.state
  let ok := n = 3 || n = 6 || inTrial s
  let s1 := mbxStart { opcode := 0x0205, since := 1, sem := true } h [] (fun s =>
    tryDo (firstFail [(n = 0 || n = 9, replyErr .notFound 0), (!ok, replyErr .busy 0)])
      (fun s => if n = 3 || n = 6 then s.saveFw abortStaged else s.modFw fun f => { f with state := 8 }) s) s
  if s1.fw.state = 8 && n ≠ 8 then abortTrial h s1 else s1

end Sys2Proof.Machine
end

