-- ==== Sys2Proof/Machine/Repl.lean ====
section
/-! DEFINITION. Machine/Repl.lean: sealed snapshots and replication between nodes (R420, R430 to R439, R451). -/
namespace Sys2Proof.Machine
open Sys2Proof

/-- Key of a target's entry: REL_ID is its source's. -/
def targetKey (node rel : Nat) : Nat := (node + 1) * 2 ^ 32 + rel

/-- The relationship of a volume, one that has been stopped among them. -/
def replNamed (nsid : Nat) (s : State) : Option (Nat × Repl) := (replOf nsid s).orElse fun _ => s.repls.find? fun e => e.2.nsid = nsid

/-- STATE of REPL_QUERY (R437). -/
def replNum : ReplState → Nat
  | .initial => 0 | .inSync => 1 | .idle => 2 | .transferring => 3 | .suspended => 4 | .paused => 5 | .keyExhausted => 6 | .diverged => 7 | .stopped => 8

def volumePool (s : State) (nsid : Nat) : Nat := match Tbl.find s.ns nsid with
  | some v => v.pool
  | none => 255

/-- A relationship's change is journaled with the volume's pool (R439). -/
def replSaved (nsid : Nat) (s : State) : State := configGroup (volumePool s nsid) 0x15 s

/-! ## Control (R430, R436, R437) -/

/-- The checks of REPL_CREATE that need no target. -/
def createRefusal (nsid mode target remote interval : Nat) (s : State) : Option MReply :=
  firstFail [
    (nsidBad nsid, limitAt 0), (decide (8191 < target), limitAt 6), (nsidBad remote, limitAt 8),
    (decide (interval < 1000) || decide (86400000 < interval), limitAt 12),
    (!Tbl.has s.ns nsid || !s.cluster.member || !Tbl.has s.cluster.members target || target = ownNode s, replyErr .notFound 0),
    ((replOf nsid s).isSome, replyErr .existsAlready 0),
    (decide (1 < mode) || (mode = 0 && decide (clusterVersion s target < 2)), fieldAt 4),
    (decide (65536 ≤ (s.repls.filter fun e => e.2.state ≠ .stopped).length), replyErr .noResource 0)]

/-- REPL_CREATE: REPL_OPEN goes to the target, whose answer completes it. -/
def execReplCreate (h : MbxHdr) (nsid : W32) (mode : Byte) (target : W16) (remote interval : W32) (s : State) : Res := onRun s fun s =>
  let n := nsid.toNat
  mbxStart ⟨0x0704, 3, true, .other, false⟩ h [.num 0 4 nsid.toNat, .num 4 1 mode.toNat, .num 6 2 target.toNat, .num 8 4 remote.toNat, .num 12 4 interval.toNat] (fun s =>
    match createRefusal n mode.toNat target.toNat remote.toNat interval.toNat s, Tbl.find s.ns n with
    | some r, _ => (some r, s)
    | none, none => (some (replyErr .notFound 0), s)
    | none, some v =>
      let live := s.repls.filter fun e => e.2.state ≠ .stopped || e.2.nsid ≠ n
      let rel := Tbl.freshFrom live live.length 0
      let g := (Tbl.find s.cipher.keys v.key).map (·.cur)
      let kcv := match g with
        | some k => k.kcv
        | none => zeros 8
      let x : Repl := {
        source := true, nsid := n, sync := mode = 0, node := target.toNat, remoteNsid := remote.toNat, interval := interval.toNat,
        nextDue := s.time.toNat + interval.toNat * 1000000, kcv := kcv, transferGen := match g with
          | some k => k.gen
          | none => 0 }
      (none, cluSend target.toNat (.replOpen rel n remote.toNat (mode = 0) v.unitLog v.size kcv) { s with repls := Tbl.set live rel x })) s

/-- The body of a REPL_CONTROL command on the volume's relationship. -/
def controlBody (nsid : W32) (f : Nat → Repl → State → MReply × State) (s : State) : Option MReply × State :=
  if nsidBad nsid.toNat then (some (limitAt 0), s)
  else match replOf nsid.toNat s with
    | none => (some (replyErr .notFound 0), s)
    | some (rel, x) => let r := f rel x s; (some r.1, r.2)

/-- Pause: a running cycle is given up, and a source's waiting writes complete without the target. -/
def pauseRepl (rel : Nat) (x : Repl) (s : State) : MReply × State :=
  if replHalted x then (replyErr .refusedState 0, s)
  else
    let s1 := suspendRepl rel .paused ((dropCycle rel s).modRepl rel fun y => { y with resumeTo := if y.state = .transferring then .idle else y.state })
    (replyOk [], replSaved x.nsid s1)

/-- Resume: an asynchronous relationship runs its next cycle, a synchronous one catches up first (R432). -/
def resumeRepl (rel : Nat) (x : Repl) (s : State) : MReply × State :=
  if x.state ≠ .paused then (replyErr .refusedState 0, s)
  else
    let st := if x.source && x.resumeTo = .inSync then .suspended else x.resumeTo
    (replyOk [], replSaved x.nsid (startCycle rel (setRepl rel st s)))

/-- Stop deletes the relationship's snapshots and translation table. -/
def stopRepl (rel : Nat) (x : Repl) (s : State) : MReply × State :=
  let s1 := dropViewOpt x.checkpoint (dropCycle rel s)
  let s2 := if x.source && x.base ≠ 0 then dropView x.base s1 else s1
  let s3 := suspendRepl rel .stopped s2
  let s4 := s3.modRepl rel fun y => { y with xlat := [], built := [], wanted := false, checkpoint := none, waiting := false, staged := [] }
  (replyOk [], replSaved x.nsid s4)

/-- REPL_CONTROL OP 0, and any OP above 3, which is refused (R142, R437). -/
def execReplControlPause (h : MbxHdr) (nsid : W32) (op : Byte) (s : State) : Res := onRun s fun s =>
  mbxStart ⟨0x0705, 3, true, .other, false⟩ h [.num 0 4 nsid.toNat, .num 4 1 op.toNat] (fun s =>
    if op ≠ 0 && !nsidBad nsid.toNat then (some (fieldAt 4), s) else controlBody nsid pauseRepl s) s

def execReplControlResume (h : MbxHdr) (nsid : W32) (s : State) : Res := onRun s fun s =>
  mbxStart ⟨0x0705, 3, true, .other, false⟩ h [.num 0 4 nsid.toNat, .num 4 1 1] (controlBody nsid resumeRepl) s

def execReplControlStop (h : MbxHdr) (nsid : W32) (s : State) : Res := onRun s fun s =>
  mbxStart ⟨0x0705, 3, true, .other, false⟩ h [.num 0 4 nsid.toNat, .num 4 1 2] (controlBody nsid stopRepl) s

def execReplControlRepair (h : MbxHdr) (nsid : W32) (s : State) : Res := onRun s fun s =>
  mbxStart ⟨0x0705, 3, true, .other, false⟩ h [.num 0 4 nsid.toNat, .num 4 1 3] (controlBody nsid fun _ x s => (replyOk [], startRepair x.nsid s)) s

/-- REPL_QUERY. -/
def execReplQuery (h : MbxHdr) (nsid : W32) (s : State) : Res := onRun s fun s =>
  mbxStart ⟨0x0706, 3, false, .other, false⟩ h [.num 0 4 nsid.toNat] (answer fun s =>
    if nsidBad nsid.toNat then limitAt 0
    else match replNamed nsid.toNat s with
      | none => replyErr .notFound 0
      | some (_, x) => replyOk (le8 (replNum x.state) ++ zeros 3 ++ le64 x.lag ++ le64 x.base)) s

/-! ## A cycle at the source (R433) -/

/-- REPL_CYCLE_DUE: the next due time is one interval later, whatever runs. -/
def execReplCycleDue (rel : Nat) (s : State) : Res := onRun s fun s =>
  match Tbl.find s.repls rel with
  | none => s
  | some x =>
    if !x.source || x.state = .stopped then s
    else startCycle rel ((reachTime x.nextDue s).modRepl rel fun y => { y with nextDue := y.nextDue + y.interval * 1000000 })

def wireOf : Option MapEnt → WireEnt
  | none => .unmapped
  | some .zero => .zero
  | some (.unit k) => .unit k

/-- Entries that differ between two maps, in the order of their units. -/
def diffEntries (old new : Tbl MapEnt) : List (Nat × WireEnt) :=
  let put := (new.filter fun e => Tbl.find old e.1 ≠ some e.2).map fun e => (e.1, wireOf (some e.2))
  let gone := (old.filter fun e => !Tbl.has new e.1).map fun e => (e.1, WireEnt.unmapped)
  sortBy (fun a b => decide (a.1 < b.1)) (put ++ gone)

/-- Entries that one REPL_DELTA of 4 MiB holds (R434). -/
def deltaMax : Nat := 262138

/-- Send entries in as many REPL_DELTA messages as they need, one at least. -/
def sendDeltas (rel node base epoch : Nat) : Nat → List (Nat × WireEnt) → State → State
  | 0, _, s => s
  | f + 1, l, s =>
    let s1 := (cluSend node (.replDelta rel base epoch (l.take deltaMax)) s).modRepl rel fun y => { y with deltasOut := y.deltasOut + 1 }
    if deltaMax < l.length then sendDeltas rel node base epoch f (l.drop deltaMax) s1 else s1

def baseMap (s : State) (e : Nat) : Tbl MapEnt := match Tbl.find s.snaps.views e with
  | some w => w.map
  | none => []

/-- SNAPSHOT_SEALED: every write before the cut has committed; the pages of the view are read, and the cycle that made it sends what differs (R252, R420, R433). -/
def execSnapshotSealed (epoch : Nat) (s : State) : Res := onRun s fun s =>
  match Tbl.find s.snaps.views epoch with
  | none => s
  | some w =>
    if w.pending ≠ [] || w.sealed_ then s
    else
      let s0 := { s with snaps := { s.snaps with views := Tbl.set s.snaps.views epoch { w with sealed_ := true } } }
      let s1 := ((w.map.map fun e => e.1 / 512).eraseDups).foldl (fun s i => cacheRead 2 (mapItem epoch i) s) s0
      match s1.repls.find? fun e => e.2.source && e.2.cycle = some epoch with
      | some (rel, x) =>
        if syncActive x then s1
        else
          let l := diffEntries (baseMap s1 x.base) w.map
          sendDeltas rel x.node x.base epoch (l.length + 1) l (s1.modRepl rel fun y => { y with deltasOut := 0 })
      | none => s1

/-- A unit as REPL_UNITS carries it (R434, R451): a slot of another generation, or one that an alias shares under its target's tweak (R233), is re-encrypted to the transfer generation and the unit's own tweak. -/
def wireUnit (x : Repl) (key : Nat) (s : State) : List WireUnit × State :=
  let t := slotUnit s key
  match Tbl.find s.grinder.units t with
  | none => ([], s)
  | some u =>
    let i := ((Tbl.find s.ns x.nsid).map (·.key)).getD 0
    let out := fun (slot : List Byte) => ([{ pool := unitPool key, unit := key, enc := encNum u.enc, clen := u.clen, content := u.content, slot := slot, crc := u.crc }] : List WireUnit)
    match (Tbl.find s.cipher.keys i).bind fun e => genForUnit e (unitPool t) (t % 2 ^ 44) with
    | some g => if g.gen = x.transferGen && t = key then (out u.slot, s) else (out (reseal s i g.gen t i x.transferGen key u.slot), countUse i x.transferGen s)
    | none => (out u.slot, s)

def wireUnits (x : Repl) : List Nat → State → List WireUnit × State
  | [], s => ([], s)
  | k :: ks, s =>
    let a := wireUnit x k (readUnit k s)
    let b := wireUnits x ks a.2
    (a.1 ++ b.1, b.2)

/-- Bytes of a unit in REPL_UNITS, and what one message holds (R434). -/
def wireBytes (u : WireUnit) : Nat := 16 + roundUp u.clen 16
def unitsMax : Nat := 4194208

/-- Pack units into messages. -/
def packUnits : List WireUnit → List WireUnit → Nat → List (List WireUnit)
  | [], acc, _ => if acc = [] then [] else [acc]
  | u :: us, acc, n =>
    if acc ≠ [] && decide (unitsMax < n + wireBytes u) then acc :: packUnits us [u] (wireBytes u)
    else packUnits us (acc ++ [u]) (n + wireBytes u)

/-- Dedup units that a list of block ranges touches. -/
def unitsTouched (v : Ns) (ranges : List (Nat × Nat)) : List Nat :=
  let b := max 1 (unitBlocks v)
  (ranges.flatMap fun r => (List.range ((r.1 + max 1 r.2 - 1) / b + 1 - r.1 / b)).map (r.1 / b + ·)).eraseDups

/-- A message of a partner for the relationship that this head is the source of. -/
def onSource (h : CluHdr) (m : CluMsg) (rel : Nat) (f : Repl → State → State) (s : State) : State :=
  onMember h m (fun s => match Tbl.find s.repls rel with
    | some x => if x.source && x.node = h.src && x.state ≠ .stopped then f x s else s
    | none => s) s

/-- A message of a source for the relationship that this head is the target of. -/
def onTarget (h : CluHdr) (m : CluMsg) (rel : Nat) (f : Nat → Repl → State → State) (s : State) : State :=
  onMember h m (fun s => match Tbl.find s.repls (targetKey h.src rel) with
    | some x => if x.state = .stopped || x.state = .diverged then s else f (targetKey h.src rel) x s
    | none => s) s

/-- The stored length of a unit. -/
def unitClen (s : State) (k : Nat) : Nat := ((Tbl.find s.grinder.units k).map (·.clen)).getD 0

/-- Units of one block of replication work: at least one, up to one strip of stored data (R35). -/
def blockOfUnits (s : State) : List Nat → Nat → List Nat
  | [], _ => []
  | k :: ks, n => if n ≠ 0 && decide (65536 < n + unitClen s k) then [] else k :: blockOfUnits s ks (n + unitClen s k)

/-- Tokens of a block: read and decoded, through HBM both ways, through a GCM lane, and sent (R480, R481). -/
def replCost (s : State) (ks : List Nat) : List (Nat × Nat) :=
  let n := ceilDiv (ks.map (unitClen s)).sum 64
  [(1, n), (2, n), (5, 2 * n), (7, n), (8, n)]

/-- Full REPL_UNITS messages of the units that have been read go out, the last one too once nothing is left to read (R434). -/
def flushUnits (rel : Nat) (x : Repl) (epoch : Nat) (us : List WireUnit) (last : Bool) (s : State) : State :=
  let l := packUnits us [] 0
  let out := if last then l else l.take (l.length - 1)
  out.foldl (fun s m => cluSend x.node (.replUnits rel x.base epoch m) s) (s.modRepl rel fun y => { y with ready := (l.drop out.length).flatten })

/-- One block of a relationship's work (R433): its units are read, and sent as messages fill. -/
def sendBlock (rel : Nat) (x : Repl) (epoch : Nat) (ks : List Nat) (s : State) : State :=
  let us := wireUnits x ks s
  let rest := x.toSend.drop ks.length
  flushUnits rel x epoch (x.ready ++ us.1) (rest = []) (us.2.modRepl rel fun y => { y with toSend := rest })

/-- Send as many blocks as the governor lets out now; the request waits behind the first that it holds back (R35, R433). -/
def sendUnits (idle : Bool) (rel : Nat) : Nat → State → State
  | 0, s => s
  | f + 1, s => match Tbl.find s.repls rel with
    | none => s
    | some x => match x.cycle with
      | none => s
      | some e =>
        let ks := blockOfUnits s x.toSend 0
        if ks = [] then s
        else if govMay 4 idle (replCost s ks) s then sendUnits idle rel f (govRun 4 idle (replCost s ks) (sendBlock rel x e ks) s)
        else govRun 4 idle (replCost s ks) id s

/-- REPL_COMMIT follows once every REPL_DELTA has been acknowledged and every missing unit has gone (R433). -/
def commitCycle (rel : Nat) (s : State) : State :=
  match Tbl.find s.repls rel with
  | none => s
  | some x => match x.cycle with
    | none => s
    | some e => if x.deltasOut = 0 && x.toSend = [] then cluSend x.node (.replCommit rel e) s else s

/-- A relationship's waiting units go on (R433). -/
def pushUnits (idle : Bool) (s : State) (e : Nat × Repl) : State :=
  if e.2.toSend = [] then s else commitCycle e.1 (sendUnits idle e.1 e.2.toSend.length s)

/-- REPL_DELTA_ACK: the missing units go out as the governor admits them; ranges that the target changed are sent as they stand in the epoch; REPL_COMMIT follows the last (R432, R433). -/
def execReplDeltaAck (h : CluHdr) (rel : Nat) (missing : List Nat) (changed : List (Nat × Nat)) (idle : Bool) (s : State) : Res :=
  onRun s (onSource h (.replDeltaAck rel missing changed) rel fun x s => match x.cycle with
    | none => s
    | some e => match Tbl.find s.snaps.views e, Tbl.find s.ns x.nsid with
      | some w, some v =>
        let s1 := s.modRepl rel fun y => { y with deltasOut := y.deltasOut - 1 }
        let extra := (unitsTouched v changed).map fun i => (i, wireOf (Tbl.find w.map i))
        let s2 := if extra = [] then s1 else sendDeltas rel x.node x.base e (extra.length + 1) extra s1
        let s3 := s2.modRepl rel fun y => { y with toSend := y.toSend ++ missing.filter fun k => !y.toSend.contains k }
        commitCycle rel (sendUnits idle rel (x.toSend.length + missing.length) s3)
      | _, _ => s)

/-- REPL_COMMIT_ACK: the old base goes, the epoch is the new base and the cycle ends. A synchronous relationship is in sync once nothing has been written since the cut; else it catches up again. -/
def execReplCommitAck (h : CluHdr) (rel epoch : Nat) (s : State) : Res :=
  onRun s (onSource h (.replCommitAck rel epoch) rel fun x s =>
    if x.cycle ≠ some epoch then s
    else
      let s1 := if x.base = 0 then s else dropView x.base s
      let st := if !x.sync then .idle else if x.state = .inSync || x.lagCut = 0 then .inSync else if x.state = .initial then .initial else .suspended
      let s2 := setRepl rel st (s1.modRepl rel fun y => { y with base := epoch, cycle := none, lag := y.lagCut })
      let s3 := replSaved x.nsid s2
      if x.waiting || (x.sync && st ≠ .inSync) then startCycle rel s3 else s3)

/-! ## The target (R430, R433, R435, R438) -/

/-- What refuses REPL_OPEN: no such volume, smaller, of another unit size or key, already a target. -/
def openBad (remote unitLog size : Nat) (kcv : List Byte) (s : State) : Bool :=
  match Tbl.find s.ns remote with
  | none => true
  | some v =>
    let held := match Tbl.find s.cipher.keys v.key with
      | some e => (e.cur :: e.retired).any fun g => g.kcv = kcv
      | none => false
    decide (v.size < size) || v.unitLog ≠ unitLog || !held || (replOf remote s).isSome

/-- The target's own generation that bears a KCV (R451). -/
def genByKcv (nsid : Nat) (kcv : List Byte) (s : State) : Nat :=
  match (Tbl.find s.ns nsid).bind fun v => Tbl.find s.cipher.keys v.key with
  | some e => ((e.cur :: e.retired).find? fun g => g.kcv = kcv).elim 0 (·.gen)
  | none => 0

/-- REPL_OPEN. -/
def execReplOpen (h : CluHdr) (rel src remote : Nat) (sync : Bool) (unitLog size : Nat) (kcv : List Byte) (s : State) : Res :=
  onRun s (onMember h (.replOpen rel src remote sync unitLog size kcv) fun s =>
    if openBad remote unitLog size kcv s then cluSend h.src (.replOpenAck rel (BitVec.ofNat 16 (statusNum .invalidField))) s
    else
      let x : Repl := { source := false, nsid := remote, sync := sync, node := h.src, remoteNsid := src, kcv := kcv, transferGen := genByKcv remote kcv s, opened := true }
      cluSend h.src (.replOpenAck rel 0) (replSaved remote { s with repls := Tbl.set s.repls (targetKey h.src rel) x }))

/-- REPL_OPEN_ACK: completes REPL_CREATE and starts the full copy; it also carries KEY_EXHAUSTED of a target, and its end (R438; the model's choice). -/
def execReplOpenAck (h : CluHdr) (rel : Nat) (status : W16) (s : State) : Res :=
  onRun s (onSource h (.replOpenAck rel status) rel fun x s =>
    let st := status.toNat
    if !x.opened then
      if st = 0 then
        let s1 := replSaved x.nsid (s.modRepl rel fun y => { y with opened := true })
        startCycle rel (finishOp 0x0704 (replyOk []) s1)
      else finishOp 0x0704 (fieldAt 8) { s with repls := Tbl.del s.repls rel }
    else if st = statusNum .keyExhausted then suspendRepl rel .keyExhausted (dropCycle rel s)
    else if st = 0 && x.state = .keyExhausted then
      startCycle rel (setRepl rel (if x.base = 0 then .initial else if x.sync then .suspended else .idle) s)
    else s)

/-- A source unit that the target has not stored, or no longer holds. -/
def lacks (x : Repl) (s : State) (k : Nat) : Bool :=
  match Tbl.find x.xlat k with
  | none => true
  | some u => match Tbl.find s.grinder.units u with
    | some r => !r.live || r.lost
    | none => true

def unitsOf (l : List (Nat × WireEnt)) : List Nat :=
  (l.flatMap fun e => match e.2 with
    | .unit k => [k]
    | _ => []).eraseDups

/-- The target refuses units and writes while its key is exhausted (R438). -/
def targetExhausted (key rel : Nat) (x : Repl) (s : State) : State :=
  cluSend x.node (.replOpenAck rel (BitVec.ofNat 16 (statusNum .keyExhausted))) (setRepl key .keyExhausted s)

/-- Later entries of a list take the place of earlier ones for the same unit. -/
def mergeEntries (old new : List (Nat × WireEnt)) : List (Nat × WireEnt) :=
  (old.filter fun e => !new.any fun n => n.1 = e.1) ++ new

/-- REPL_DELTA: the entries are noted and the missing units listed; an unfinished other epoch is discarded (R433, R439). -/
def execReplDelta (h : CluHdr) (rel base epoch : Nat) (entries : List (Nat × WireEnt)) (s : State) : Res :=
  onRun s (onTarget h (.replDelta rel base epoch entries) rel fun key x s =>
    let x1 : Repl := if x.builtEpoch = epoch then x else { x with built := [], builtEpoch := epoch, reported := false, wanted := false }
    let report := if x1.reported || !x1.sync then [] else x1.changed
    let x2 : Repl := { x1 with
      built := mergeEntries x1.built entries
      reported := true
      state := if x1.state = .idle then .transferring else x1.state }
    let s1 := { s with repls := Tbl.set s.repls key x2 }
    if base ≠ x.base && base ≠ 0 then s
    else cluSend h.src (.replDeltaAck rel ((unitsOf entries).filter (lacks x2 s1)) report) s1)

/-- Store received units behind one another in compression groups: each slot is decrypted under the source's tweak and encrypted under the target's in one pass (R226, R227, R435). -/
def placeReceived (v : Ns) (gen tgen share : Nat) : List (Nat × WireUnit) → Nat → State → State
  | [], _, s => s
  | (k, w) :: l, off, s =>
    let slot := roundUp w.clen 16
    let s1 := s.modUnit k fun u => { u with
      offset := off / 16, clen := w.clen, enc := encFrom w.enc, stored := slot + share, slot := reseal s v.key tgen w.unit v.key gen k w.slot }
    placeReceived v gen tgen share l (off + slot) (countUse v.key gen s1)

/-- New identifiers for the units that the target lacks; a unit for which none is left is not stored and stays missing (log entry 220). -/
def takeUnits (key : Nat) (x : Repl) (v : Ns) : List WireUnit → State → List (Nat × WireUnit) × State
  | [], s => ([], s)
  | w :: ws, s =>
    let y := (Tbl.find s.repls key).getD x
    if lacks y s w.unit then
      match newUnit v x.nsid w.content (digestOf s v w.content) s with
      | none => takeUnits key x v ws s
      | some n =>
        let r := takeUnits key x v ws (n.2.modRepl key fun y => { y with xlat := Tbl.set y.xlat w.unit n.1 })
        ((n.1, w) :: r.1, r.2)
    else takeUnits key x v ws s

/-- Groups of at most 64 KiB of logical data (R226). -/
def storeGroups (v : Ns) (gen tgen : Nat) : Nat → List (Nat × WireUnit) → State → State
  | 0, _, s => s
  | f + 1, l, s =>
    if l = [] then s
    else
      let part := l.take (max 1 (groupUnits v))
      let slots := part.map fun p => roundUp p.2.clen 16
      let g := groupGranules slots
      let s1 := placeReceived v gen tgen ((g * 512 - slots.sum) / part.length) part 160 s
      storeGroups v gen tgen f (l.drop part.length) (gatherPut v.pool g (part.map (·.1)) [] none (groupOf s1 v.pool v.unitLog v.key (part.map (·.1))) s1)

/-- REPL_UNITS. -/
def execReplUnits (h : CluHdr) (rel base epoch : Nat) (units : List WireUnit) (s : State) : Res :=
  onRun s (onTarget h (.replUnits rel base epoch units) rel fun key x s => match Tbl.find s.ns x.nsid with
    | none => s
    | some v =>
      if keyBlocks s v then targetExhausted key rel x s
      else
        let gen := match Tbl.find s.cipher.keys v.key with
          | some e => e.cur.gen
          | none => 0
        let t := takeUnits key x v units s
        storeGroups v gen x.transferGen t.1.length t.1 t.2)

/-- REPL_COMMIT: a built epoch is made current; in sync, the matching snapshot is taken (R431, R433). -/
def execReplCommit (h : CluHdr) (rel epoch : Nat) (s : State) : Res :=
  onRun s (onTarget h (.replCommit rel epoch) rel fun key x s =>
    if x.builtEpoch = epoch && x.reported then
      formAll (volumePool s x.nsid) (s.modRepl key fun y => { y with wanted := true })
    else if x.sync && x.state = .inSync then startCut key x.nsid (s.modRepl key fun y => { y with builtEpoch := epoch, built := [], reported := false })
    else s)

/-! ## Synchronous writes (R431) -/

/-- REPL_WRITE: staged as a write under its own lock, and mirrored to the other head. -/
def execReplWrite (h : CluHdr) (rel off seq len : Nat) (data : List Nat) (s : State) : Res :=
  onRun s (onTarget h (.replWrite rel off seq len data) rel fun key x s => match Tbl.find s.ns x.nsid with
    | none => s
    | some v =>
      if !x.sync || x.staged.any (fun y => y.1 = seq) then s
      else if keyBlocks s v then targetExhausted key rel x s
      else
        let id := s.host.nextSeq
        let c : Inflight := {
          ctrl := 65536, sq := 0, cid := 0, op := .write, nsid := x.nsid, slba := off / blockBytes v, nlb := data.length, slice := v.slice,
          stage := .running, data := data, mute := true, replica := true }
        let s1 := enterCmd c (s.modRepl key fun y => { y with staged := y.staged ++ [(seq, id)] })
        match runningCmd s1 id .write with
        | some c1 => startWrite id c1 s1
        | none => s1)

/-- REPL_WRITE_ACK. -/
def execReplWriteAck (h : CluHdr) (rel seq : Nat) (s : State) : Res :=
  onRun s (onSource h (.replWriteAck rel seq) rel fun _ s => tryFinish seq (s.modRepl rel fun y => { y with owed := y.owed.filter (· ≠ seq) }))

/-! ## Repair (R436) -/

/-- The entry that a node's REPAIR message is about: this head the source, else the target. -/
def repairRel (src rel : Nat) (s : State) : Option (Nat × Repl) :=
  match Tbl.find s.repls rel with
  | some x => if x.source && x.node = src && x.state ≠ .stopped then some (rel, x) else (Tbl.find s.repls (targetKey src rel)).map fun y => (targetKey src rel, y)
  | none => (Tbl.find s.repls (targetKey src rel)).map fun y => (targetKey src rel, y)

/-- The number that stands for the content of dedup unit i where newer data than its stored unit is dirty (log entry 231). -/
def rawKey (v : Ns) (i : Nat) : Nat := v.pool * 2 ^ 44 + 2 ^ 43 + i % 2 ^ 43

/-- A stored unit can still be read. -/
def unitGood (s : State) (k : Nat) : Bool := match Tbl.find s.grinder.units k with
  | some u => u.live && !u.lost
  | none => false

/-- The entry of a dedup unit as this head can give it: a source from its base epoch, a target from its volume's live view. -/
def repairEntry (x : Repl) (v : Ns) (s : State) (i : Nat) : Option WireEnt :=
  let blocks := (List.range (unitBlocks v)).map fun j => i * unitBlocks v + j
  if x.source then
    match Tbl.find (baseMap s x.base) i with
    | some (.unit k) => if unitGood s k then some (.unit k) else none
    | e => some (wireOf e)
  else if blocks.any (blockPoisoned s x.nsid) then none
  else if blocks.any fun b => (dirtyOf s x.nsid b).isSome then some (.unit (rawKey v i))
  else some (wireOf (Tbl.find v.map i))

/-- Dirty content goes as a raw unit under the transfer generation. -/
def rawUnit (x : Repl) (v : Ns) (i : Nat) (s : State) : WireUnit × State :=
  let c := unitContent s x.nsid i
  let bytes := leBytes (2 ^ v.unitLog) c
  ({ pool := v.pool, unit := rawKey v i, enc := 0, clen := 2 ^ v.unitLog, content := c, slot := sealSlot s v.key x.transferGen (rawKey v i) bytes, crc := Config.crc32c bytes },
   countUse v.key x.transferGen s)

/-- The entries of some dedup units and the units that they name. -/
def repairAnswer (x : Repl) (v : Ns) : List Nat → State → (List (Nat × WireEnt) × List WireUnit) × State
  | [], s => (([], []), s)
  | i :: l, s => match repairEntry x v s i with
    | none => repairAnswer x v l s
    | some e =>
      let a := match e with
        | .unit k => if k = rawKey v i then (let r := rawUnit x v i s; ([r.1], r.2)) else wireUnits x [k] s
        | _ => ([], s)
      let r := repairAnswer x v l a.2
      (((i, e) :: r.1.1, a.1 ++ r.1.2), r.2)

/-- REPAIR_REQUEST. -/
def execRepairRequest (h : CluHdr) (rel : Nat) (ranges : List (Nat × Nat)) (s : State) : Res :=
  onRun s (onMember h (.repairRequest rel ranges) fun s => match repairRel h.src rel s with
    | none => s
    | some (_, x) => match Tbl.find s.ns x.nsid with
      | none => s
      | some v =>
        let r := repairAnswer x v (unitsTouched v ranges) s
        cluSend h.src (.repairData rel r.1.1 r.1.2) r.2)

/-- The live unit may be repaired: always at a target and in sync mode; at a source only where it still names what the base epoch named and no newer data is staged. -/
def repairable (x : Repl) (v : Ns) (s : State) (i : Nat) : Bool :=
  !x.source || x.sync
    || (Tbl.find v.map i = Tbl.find (baseMap s x.base) i
      && (List.range (unitBlocks v)).all fun j => (dirtyBlock s.carafe.own x.nsid (i * unitBlocks v + j)).isNone)

/-- Content that the partner gave for a unit. -/
def givenContent (entries : List (Nat × WireEnt)) (units : List WireUnit) (i : Nat) : Option Nat :=
  match entries.find? fun e => e.1 = i with
  | some (_, .unit k) => (units.find? fun u => u.unit = k).map (·.content)
  | some _ => some 0
  | none => none

/-- Runs of poisoned blocks of a range that the partner's data repairs: first block and data. -/
def repairRuns (x : Repl) (v : Ns) (entries : List (Nat × WireEnt)) (units : List WireUnit) (s : State) (a n : Nat) : List (Nat × List Nat) :=
  let ub := max 1 (unitBlocks v)
  let ok := (List.range n).filterMap fun j =>
    let b := a + j
    if repairable x v s (b / ub) && blockPoisoned s x.nsid b then
      (givenContent entries units (b / ub)).map fun c => (b, (contentBlocks v c).getD (b % ub) 0)
    else none
  (runsOf (ok.map (·.1))).map fun r => (r.1, (ok.filter fun y => decide (r.1 ≤ y.1) && decide (y.1 < r.1 + r.2)).map (·.2))

/-- A repaired run is rewritten as a staged write of this head (R172, R436). -/
def rewriteRun (rel nsid : Nat) (v : Ns) (run : Nat × List Nat) (s : State) : State :=
  let id := s.host.nextSeq
  let bytes := run.2.length * blockBytes v
  let d : Desc := { nsid := nsid, whole := true, origin := headIndex s, granules := granules bytes, list := takeGranules (granules bytes) s, slba := run.1, bytes := bytes, data := run.2 }
  let s1 := { s with host := { s.host with nextSeq := id + 1 }, carafe := { s.carafe with own := Tbl.set s.carafe.own id d } }
  let s2 := s1.modRepl rel fun y => { y with fixing := y.fixing ++ [id] }
  tryFinish id (if peerPresent s2 then jalSend (.mirrorData id nsid run.1 run.2) s2 else s2)

/-- A block of a snapshot's view is poisoned. -/
def viewPoisoned (s : State) (nsid view b : Nat) : Bool := s.host.poison.any fun p => poisonHits nsid (some view) b 1 p

/-- What the partner's data restores in the base snapshot of an asynchronous source (R172, R436). -/
def viewRepairs (x : Repl) (v : Ns) (entries : List (Nat × WireEnt)) (units : List WireUnit) (s : State) : List Effect :=
  let ub := max 1 (unitBlocks v)
  if !x.source || x.sync then []
  else (s.host.poison.filter fun p => p.nsid = x.nsid && p.epoch = some x.base).flatMap fun p =>
    let ok := (List.range p.nlb).filterMap fun j =>
      let b := p.slba + j
      if viewPoisoned s x.nsid x.base b then (givenContent entries units (b / ub)).map fun c => (b, (contentBlocks v c).getD (b % ub) 0) else none
    (runsOf (ok.map (·.1))).map fun r =>
      .repair x.nsid (some x.base) r.1 ((ok.filter fun y => decide (r.1 ≤ y.1) && decide (y.1 < r.1 + r.2)).map (·.2)) s.host.nextSeq

/-- The restored blocks of the base snapshot and their poison change in one record group (R172). -/
def repairView (pool : Nat) (l : List Effect) (s : State) : State :=
  if l = [] then s else addGroup { pool := pool, effects := l } s

/-- Poisoned ranges that the data does not wholly repair: their deferred errors return to STATE 0. -/
def unrepaired (nsid slice : Nat) (left : List (Nat × Nat)) (s : State) : State :=
  let back := fun (e : Deferred) => if e.nsid = nsid && e.state = 1 && left.any (fun r => decide (e.slba < r.1 + r.2) && decide (r.1 < e.slba + e.nlb)) then { e with state := 0 } else e
  s.modSlice slice fun sl => { sl with log := sl.log.map back }

/-- REPAIR_DATA. -/
def execRepairData (h : CluHdr) (rel : Nat) (entries : List (Nat × WireEnt)) (units : List WireUnit) (s : State) : Res :=
  onRun s (onMember h (.repairData rel entries units) fun s => match repairRel h.src rel s with
    | none => s
    | some (key, x) => match Tbl.find s.ns x.nsid with
      | none => s
      | some v =>
        if !x.repairing then s
        else
          let ranges := (s.host.poison.filter fun p => p.nsid = x.nsid && p.epoch = none).map fun p => (p.slba, p.nlb)
          let runs := ranges.flatMap fun r => repairRuns x v entries units s r.1 r.2
          let fixed := fun (b : Nat) => runs.any fun r => decide (r.1 ≤ b) && decide (b < r.1 + r.2.length)
          let left := ranges.filter fun r => !(List.range r.2).all fun j => fixed (r.1 + j)
          let s1 := repairView v.pool (viewRepairs x v entries units s) (unrepaired x.nsid v.slice left s)
          let s2 := runs.foldl (fun s r => rewriteRun key x.nsid v r s) s1
          if runs = [] then s2.modRepl key fun y => { y with repairing := false } else s2)

end Sys2Proof.Machine
end

