-- ==== Sys2Proof/Machine/Govern.lean ====
section
/-! DEFINITION. Machine/Govern.lean: the governor's periods and shares, statistics and traces (R142, R339, R368, R401, R480 to R487, R501, R502). -/
namespace Sys2Proof.Machine
open Sys2Proof

/-! ## Capacities and the period boundary (R481, R482, R485) -/

/-- Domains a to b that are powered and not fenced. -/
def unitsUp (s : State) (a b : Nat) : Nat :=
  ((List.range (b + 1 - a)).filter fun i => hasBit s.power.on (a + i) && !hasBit s.power.fenced (a + i)).length

/-- Kamard lanes of the ports that are UP. -/
def kamardLanes (s : State) : Nat :=
  ((List.range 96).map fun n => if (s.kport n).state = .up then (if (s.kport n).oneLane then 1 else 2) else 0).sum

/-- C_r in tokens (R481): the units powered and not fenced; resources 2, 3, 4 and 8 follow the data-path clock. -/
def capacities (s : State) : List Nat :=
  let clk := s.phys.clockEighths
  let kam := 1875000 * kamardLanes s / 192
  let par := unitsUp s 26 27
  [kam, kam, 1250000 * par * clk / 16, 2000000 * par * clk / 16, 625000 * unitsUp s 19 23 * clk / 40, 7656250 * unitsUp s 13 16 / 4,
   640000 * unitsUp s 17 18 / 2, 609375 * unitsUp s 32 39 / 8, 312500 * unitsUp s 24 25 * clk / 16, 353125 * unitsUp s 28 29 / 2]

/-- One activity enters a period: its latest setting, its balances refilled (frozen while its effective ceiling is held at zero), its issue from zero. -/
def govEnter (caps : List Nat) (throttled : Bool) (a : Nat) (x : GovAct) : GovAct :=
  let g (r : Nat) : Int := (x.newShare * caps.getD r 0 / 1000 : Nat)
  let held := throttled && decide (a ≠ 1)
  { x with
    share := x.newShare, ceiling := x.newCeiling
    bal := (List.range 10).map fun r =>
      if r ∈ drawn a then (if held then x.bal.getD r 0 else min (x.bal.getD r 0 + g r) (2 * g r)) else 0
    issued := List.replicate 10 0
    atCeiling := false, stopped := held
    waitPeriods := if x.waiting then min 65535 (x.waitPeriods + 1) else x.waitPeriods }

/-- GOV_PERIOD_BOUNDARY: the next chip-time multiple of 100,000 ns (R482); after the refill, replication that waited for tokens goes on (R35). No period runs during a flush or after a fail-stop (R485). -/
def execGovPeriodBoundary (s : State) : Res := onRun s fun s =>
  let s1 := reachTime ((s.time.toNat / 100000 + 1) * 100000) s
  let caps := capacities s1
  let s2 := { s1 with gov := {
      acts := s1.gov.acts.mapIdx (govEnter caps (s1.phys.throttle != 0)), caps := caps, periods := s1.gov.periods + 1 } }
  s2.repls.foldl (pushUnits false) s2

/-! ## GOV_SHARES_SET (R486) -/

/-- All shares together with one of them replaced, by the most recently accepted settings. -/
def sharesWith (s : State) (a n : Nat) : Nat := ((List.range 8).map fun i => if i = a then n else (s.act i).newShare).sum

def sharesCheck (a share ceiling : Nat) (s : State) : Option MReply := firstFail [
  (decide (7 < a), limitAt 0), (decide (1000 < ceiling), fieldAt 4), (decide (ceiling < share), fieldAt 2),
  (decide (1000 < sharesWith s a share), fieldAt 2), (decide (a = 1 ∧ share < 50 ∨ a = 5 ∧ share < 20), fieldAt 2)]

/-- GOV_SHARES_SET: accepted, journaled as pair-wide configuration, and answered once that group has committed (R486; log entry 199). -/
def execGovSharesSet (h : MbxHdr) (activity : Byte) (share ceiling : W16) (s : State) : Res := onRun s fun s =>
  mbxStart { opcode := 0x0903, since := 3, sem := true, group := .other } h [.num 0 1 activity.toNat, .num 2 2 share.toNat, .num 4 2 ceiling.toNat] (fun s =>
    match sharesCheck activity.toNat share.toNat ceiling.toNat s with
    | some r => (some r, s)
    | none => (none, configReply 0x15 0x0903 (s.modAct activity.toNat fun x => { x with newShare := share.toNat, newCeiling := ceiling.toNat }))) s

/-! ## STATS_GET (R339, R368, R401) -/

/-- The counters of a group; none where a group names nothing. -/
def statsOf (g : Nat) (s : State) : Option (List Nat) :=
  if 0x1000 ≤ g ∧ g < 0x1060 then some (s.kport (g - 0x1000)).counters
  else if 0x2000 ≤ g ∧ g < 0x2060 then some (s.mod (g - 0x2000)).media.counters
  else if 0x3000 ≤ g ∧ g < 0x3020 then some (s.lport (g - 0x3000)).counters
  else if g = 0x3100 then some s.net.dgCounters
  else none

/-- STATS_GET: the group's counters go to the host's buffer, as many bytes as it takes (log entry 43); `ok`: the write completes. -/
def execStatsGet (h : MbxHdr) (g : W16) (addr : W64) (len : W32) (ok : Bool) (s : State) : Res := onRun s fun s =>
  mbxStart { opcode := 0x0904, since := 2, sem := false, group := .other } h [.num 0 2 g.toNat, .num 4 8 addr.toNat, .num 12 4 len.toNat] (fun s =>
    match statsOf g.toNat s with
    | none => (some (limitAt 0), s)
    | some l =>
      let data := (l.flatMap le64).take len.toNat
      if ok then (some (replyOk (le32 data.length)), hostWrite h.port addr data s)
      else let x := dmaFault h addr true s; (some x.1, x.2)) s

/-! ## Traces (R501, R502) -/

/-- Entries that a ring holds. -/
def traceSize : Nat := 524288

def traceBytes (path : Nat) (e : TraceEnt) : List Byte := le64 e.time.toNat ++ le8 path ++ le8 e.type.toNat ++ le16 e.source.toNat ++ fit 20 e.data

/-- The chip time of an entry: firmware reads it as it writes the entry, so it is no earlier than the entry before it in its ring and no later than now (R29, R501). -/
def entryTime (r : TraceRing) (now t : W64) : W64 := if now.toNat < t.toNat then now else if t.toNat < r.last.toNat then r.last else t

/-- Firmware writes an entry: a full ring drops it; writing resumes behind a gap record once two entries are free (R501). SOURCE of a gap record is free (log entry 1). -/
def tracePut (path : Nat) (s : State) (e0 : TraceEnt) : State :=
  let r0 := Tbl.getD s.traces path {}
  let e := { e0 with time := entryTime r0 s.time e0.time }
  let r := { r0 with last := e.time }
  let n := r.entries.length
  if r.gapDrops = 0 ∧ n < traceSize then { s with traces := Tbl.set s.traces path { r with entries := r.entries ++ [traceBytes path e] } }
  else if r.gapDrops ≠ 0 ∧ n + 2 ≤ traceSize then
    let d := draw s
    let gap := traceBytes path ⟨e.time, 0xFF, BitVec.ofNat 16 d.1, le32 r.gapDrops ++ le64 r.gapFirst.toNat ++ le64 r.gapLast.toNat⟩
    { d.2 with traces := Tbl.set s.traces path { r with entries := r.entries ++ [gap, traceBytes path e], gapDrops := 0, gapFirst := 0, gapLast := 0 } }
  else { s with traces := Tbl.set s.traces path { r with
      drops := r.drops + 1, gapDrops := r.gapDrops + 1, gapFirst := if r.gapDrops = 0 then e.time else r.gapFirst, gapLast := e.time } }

/-- Entries that the telemetry balance on resource 9 covers beside the header, within the ceiling (R483, R502). -/
def traceRoom (s : State) : Nat := (64 * min ((s.act 7).bal.getD 9 0).toNat (govRoom s 7 9) - 32) / 32

/-- The oldest entries of a path leave its ring for the host's buffer, behind the header (R502). -/
def traceExport (h : MbxHdr) (path : Nat) (addr : W64) (len : Nat) (s : State) : MReply × State :=
  let r := Tbl.getD s.traces path {}
  let n := min r.entries.length (min ((len - 32) / 32) (traceRoom s))
  let left := r.entries.drop n
  let data := (le32 n ++ zeros 4 ++ le64 r.drops.toNat ++ le64 left.length ++ zeros 8 ++ (r.entries.take n).flatten).take len
  let s1 := govCharge 7 true { s with traces := Tbl.set s.traces path { r with entries := left } } (9, (32 + 32 * n + 63) / 64)
  (replyOk (le32 data.length), hostWrite h.port addr data s1)

/-- STATS_GET_TRACE: `wrote` are the entries that firmware has written to the path's ring since it was last read (R501; log entry 44). -/
def execStatsGetTrace (h : MbxHdr) (path : Fin 8) (addr : W64) (len : W32) (wrote : List TraceEnt) (ok : Bool) (s : State) : Res := onRun s fun s =>
  mbxStart { opcode := 0x0904, since := 2, sem := false, group := .other } h [.num 0 2 (0x4000 + path.val), .num 4 8 addr.toNat, .num 12 4 len.toNat] (fun s =>
    if ok then let x := traceExport h path.val addr len.toNat s; (some x.1, x.2)
    else let x := dmaFault h addr true s; (some x.1, x.2)) (wrote.foldl (tracePut path.val) s)

end Sys2Proof.Machine
end

