-- ==== Sys2Proof/Machine/Errors.lean ====
section
/-! DEFINITION. Machine/Errors.lean: detected errors, their repeats, the error handlers, fences and their repair, and Grinder lane errors (R68, R69, R236, R479, R488 to R494). -/
namespace Sys2Proof.Machine
open Sys2Proof

/-! ## The unit's own rule for a lasting fault (R489) -/

/-- ADDRESS of an SRAM error: the row in bits [15:0] and the macro in bits [47:16] (log entry 45). -/
def sramRow (e : ErrObs) : Nat := e.address.toNat % 65536
def sramMacro (e : ErrObs) : Nat := e.address.toNat / 65536 % 2 ^ 32

/-- A row fault of an SRAM macro of a unit that repair records can name (R69, R70). -/
def sramFault (e : ErrObs) : Bool := e.code.toNat / 256 = 1 && decide (5 ≤ e.domain) && !(decide (13 ≤ e.domain) && decide (e.domain ≤ 18))

/-- A fault of a DDR5 or HBM3E location. -/
def dramFault (e : ErrObs) : Bool := e.code.toNat / 256 = 1 && decide (13 ≤ e.domain) && decide (e.domain ≤ 18)

/-- A spare row of the error's macro is free. -/
def spareLeft (e : ErrObs) (s : State) : Bool := (nextSpare e.domain (sramMacro e) s).isSome

/-- The next free spare row of the macro takes the row's place from the domain's next switch-on (R69). DESIGN CHOICE: a row that has its spare already and errs again before that switch-on gets a further spare and a further record; R69 does not say what happens then (log entry 172). -/
def repairRow (e : ErrObs) (s : State) : State := match nextSpare e.domain (sramMacro e) s with
  | some n => addRepair e.domain false (sramMacro e) (sramRow e) n s
  | none => s

/-- The page of a memory location is retired and its content moved (R489). -/
def retirePage (e : ErrObs) (s : State) : State :=
  { s with err := { s.err with retired := Tbl.set s.err.retired (e.domain * 2 ^ 52 + e.address.toNat / 4096) () } }

/-- A Grinder lane leaves dispatch (R236). -/
def removeLane (lane : Nat) (s : State) : State :=
  s.grind fun g => { g with lanes := Tbl.set g.lanes lane { erred := true, removed := true } }

/-- What a lasting fault leads to besides its record: a page retired, a spare row, a spare lane, a faulted channel, a lane out of dispatch. -/
def unitRule (e : ErrObs) (s : State) : State :=
  if dramFault e then retirePage e s
  else if sramFault e then repairRow e s
  else if e.code.toNat / 256 = 2 then (if 28 ≤ e.domain then markLane e.domain e.unit s else s)
  else if e.code.toNat / 256 = 3 && e.domain = 3 then endRun e.unit 6 (s.modChan e.unit fun c => { c with faulted := true })
  else if e.code.toNat / 256 = 3 && decide (19 ≤ e.domain) && decide (e.domain ≤ 23) then removeLane ((e.domain - 19) * 8 + e.unit) s
  else s

/-- The command that a lasting fault has met in a unit without a sibling can no longer be served (R493). -/
def strand (e : ErrObs) (s : State) : State :=
  match e.cmd with
  | some id => if noSibling e.domain s then strandCmd id s else s
  | none => s

/-- A fault is lasting: recorded with ACTION 2, and the unit's own rule applies; a row fault of a macro without a spare fences the unit (R69, R489). -/
def lastingOutcome (e : ErrObs) (s : State) : State :=
  if sramFault e && !spareLeft e s then strand e (fence e false false s) else strand e (unitRule e (lastingFault e s))

/-! ## Handlers (R489, R490) -/

def suspectKey (e : ErrObs) : Nat := e.domain * 2 ^ 64 + e.address.toNat

/-- A correctable error at a location that has given one before (R69, R489). -/
def secondHit (e : ErrObs) (s : State) : Bool := e.code = 0x0101 && Tbl.has s.err.suspects (suspectKey e)

/-- The handler of a unit becomes active. -/
def openHandler (e : ErrObs) (s : State) : State := s.modUnitErr e.domain fun u => { u with handler := some e, handlerAt := s.time.toNat }

def closeHandler (d : Nat) (s : State) : State := s.modUnitErr d fun u => { u with handler := none }

/-- A run of the channel is started again once, from its starting addresses (R479). -/
def restartRun (e : ErrObs) (s : State) : State :=
  if e.domain = 3 && e.code.toNat / 256 = 3 && (s.chan e.unit).busy then s.modChan e.unit freshRun else s

/-- A second error in a unit whose handler is active: the unit is fenced, or R493 settles it; where the unit stays in service the error is lasting under its own rule. The fence is repairable where the two errors make a row or lane fault that is repaired (R492). -/
def secondError (e0 e : ErrObs) (s : State) : State :=
  let same := e0.code.toNat / 256 = e.code.toNat / 256 && e0.address = e.address && decide (e0.unit = e.unit)
  let s1 := if (same && (sramFault e || e.code.toNat / 256 = 2)) || secondHit e s then unitRule e s else s
  let s2 := fence e true (decide (s1.phys.known.length ≠ s.phys.known.length)) s1
  if noSibling e.domain s && decide (s2.phase ≠ .stopped) && decide (s1.phys.known = s.phys.known) then strand e (unitRule e s2) else s2

/-- A fail-stop before a flush has ended leaves the vault unsealed (R509). -/
def unsealed (s : State) : State := if s.phase = .flushing then s.caraf fun c => { c with run := none } else s

/-- The errors that R494 makes the chip fail-stop for. -/
def fatalCause : Fin 3 → FailStopCause
  | 0 => .lockstep
  | 1 => .spSram
  | _ => .collectorParity

/-- ERROR_DETECTED: `fatal` says that the error is a lockstep mismatch or an uncorrectable SRAM error of the service processor, or a parity error of the error collector, the alarm table or the input conditioner (R494). A fenced unit has no work in which an error could be detected. Errors of classes 4 and 5 fail their request and leave the unit (R488, R496). -/
def execErrorDetected (e : ErrObs) (fatal : Option (Fin 3)) (s : State) : Res := onLive s fun s =>
  match fatal with
  | some f => failStop (fatalCause f) e.code (unsealed s)
  | none =>
    let s := if e.code = 0x0102 && (e.domain = 17 || e.domain = 18) then fillLost e.address.toNat s else s
    if hasBit s.power.fenced e.domain then s
    else if e.code.toNat / 256 = 5 then (errorRecord 4 false e s).2
    else match (s.unitErr e.domain).handler with
      | some e0 =>
        if noSibling e.domain s && s.peerState = .mirrored then fence e true false (unsealed s) else secondError e0 e s
      | none =>
        if e.code.toNat / 256 = 4 then (errorRecord 4 false e s).2
        else if secondHit e s then lastingOutcome e s
        else restartRun e (openHandler e s)

/-- The repeat has passed: counted, recorded, and a correctable error's location remembered (R489). -/
def repeatPassed (e : ErrObs) (s : State) : State :=
  let s1 := transientFault e (closeHandler e.domain s)
  if e.code = 0x0101 then { s1 with err := { s1.err with suspects := Tbl.set s1.err.suspects (suspectKey e) () } } else s1

def repeatFailed (e : ErrObs) (s : State) : State := lastingOutcome e (closeHandler e.domain s)

/-- ERROR_REPEAT_RESULT: the repeat of a unit's failed operation ends (R489). -/
def execErrorRepeatResult (d : Fin 64) (pass : Bool) (s : State) : Res := onLive s fun s =>
  match (s.unitErr d).handler with
  | some e => if pass then repeatPassed e s else repeatFailed e s
  | none => s

/-- HANDLER_TIMEOUT: 10 ms after the detection the outcome is taken as lasting (R490). -/
def execHandlerTimeout (d : Fin 64) (s : State) : Res := onLive s fun s =>
  match (s.unitErr d).handler with
  | some e => repeatFailed e (reachTime ((s.unitErr d).handlerAt + 10000000) s)
  | none => s

/-! ## A fenced unit that a repair returns (R492) -/

/-- A fenced unit that R492 switches on again: its fault left a repair record, and it is its first fence since reset. -/
def mayReturn (d : Nat) (s : State) : Bool :=
  hasBit s.power.fenced d && hasBit s.power.repairable d && !hasBit s.power.fencedTwice d && !hasBit s.power.refFenced d

/-- FENCED_UNIT_RETRY: 1 s after the fence the domain is asked to be switched on (R42, R492). -/
def execFencedUnitRetry (d : Fin 64) (s : State) : Res := onRun s fun s =>
  if mayReturn d s then
    let s1 := reachTime (Tbl.getD s.power.fencedAt d 0 + 1000000000) s
    if hasBit s.power.on d || hasBit s.power.ramping d || s.power.waiting.contains d.val || switchRefused d s then s1 else rampOrWait d s1
  else s

/-- UNIT_SELF_TEST_DONE: a unit that passes returns to dispatch (R492); another is switched off and stays fenced until reset. -/
def execUnitSelfTestDone (d : Fin 64) (pass : Bool) (s : State) : Res := onRun s fun s =>
  if mayReturn d s && hasBit s.power.on d then
    let s1 := { s with power := { s.power with repairable := clrBit s.power.repairable d } }
    if pass then
      let s2 := domainUp d { s1 with power := { s1.power with fenced := clrBit s1.power.fenced d } }
      fenceAlarmSettle (eventFull 0 0x22 d false 0 (le8 d ++ zeros 1) s2)
    else gateOff d s1
  else s

/-! ## Grinder lane errors (R236) -/

/-- A lane error on a batch, named by the batch's identifier. -/
def laneErr (lane id : Nat) : ErrObs := plainErr 0x0306 (laneDomain lane) (lane % 8) id 0 0

/-- The batch is redone on another lane; where none is up with fewer than 4 batches it stays with its lane, which redoes it (R236; log entry 189). -/
def redoBatch (id : Nat) (b : Batch) (s : State) : State :=
  match pickLane s (some b.lane) with
  | some m => s.grind fun g => { g with batches := Tbl.set g.batches id { b with lane := m } }
  | none => s

/-- A lane error: with the group's handler active the group is fenced and its batches move; a lane that errs on two batches in a row leaves dispatch; another error opens the group's handler. -/
def laneError (id : Nat) (b : Batch) (s : State) : State :=
  let e := laneErr b.lane id
  match (s.unitErr e.domain).handler with
  | some e0 => secondError e0 e s
  | none =>
    if (Tbl.getD s.grinder.lanes b.lane {}).erred then redoBatch id b (lastingOutcome e s)
    else redoBatch id b (openHandler e (s.grind fun g => { g with lanes := Tbl.set g.lanes b.lane { Tbl.getD g.lanes b.lane {} with erred := true } }))

/-- The lane errors of a batch that has now been redone were transient. -/
def batchRedone (id : Nat) (s : State) : State :=
  [19, 20, 21, 22, 23].foldl (fun s d => match (s.unitErr d).handler with
    | some e => if e.code = 0x0306 && e.address = BitVec.ofNat 64 id then repeatPassed e s else s
    | none => s) s

/-- New units of a batch. -/
def freshUnits (b : Batch) : List GUnit := b.units.filter (·.fresh)

/-- The encoder's bytes for the new units of a batch have only the features of R230. -/
def batchEmitted (v : Ns) (b : Batch) (encs : List (List Byte)) : Bool := encs.length = (freshUnits b).length && encs.all (emitted v)

/-- Every encoded unit decodes to a unit with the CRC that the fingerprint unit computed (R229). -/
def batchVerified (v : Ns) (b : Batch) (encs : List (List Byte)) : Bool :=
  ((freshUnits b).zip encs).all fun x => verifyMatches v (Config.crc32c (plainOf v x.1.content)) x.2

/-- BATCH_DONE: the encoded bytes of the new units in order, or a parity error of the lane; a unit whose verify decoder gives another CRC is a lane error too (R209, R226, R229, R236). -/
def execBatchDone (id : Nat) (res : Option (List (List Byte))) (s : State) : Res := onRun s fun s =>
  match Tbl.find s.grinder.batches id with
  | none => s
  | some b => match Tbl.find s.ns b.nsid, res with
    | none, _ => s.grind fun g => { g with batches := Tbl.del g.batches id }
    | some _, none => laneError id b s
    | some v, some encs =>
      if (b.units.any fun u => u.ent.isNone) || !batchEmitted v b encs || !gatherRoom s v.pool then s
      else if !batchVerified v b encs then laneError id b s
      else
        let ok := s.grind fun g => { g with
          batches := Tbl.del g.batches id
          lanes := Tbl.upd g.lanes b.lane fun l => { l with erred := false } }
        formAll v.pool (gatherGroup v b.units encs (batchRedone id ok))

/-! ## Completion timeouts of host reads (R127, R135, R168, R488) -/

/-- A class 5 record with cause 4. -/
def timeoutRecord (p : Port) (addr : W64) (tag : W32) (s : State) : State :=
  (errorRecord 4 false {
    code := 0x0504, domain := hostDomain p, unit := 0, agent := 0, address := addr, info0 := BitVec.ofNat 64 (portNum p),
    info1 := tag.setWidth 64, multi := false, host := true } s).2

/-- Requests whose body names a host buffer that the device reads: RECOVERY_LOAD and FW_STAGE. -/
def readsHost (op : Nat) : Bool := op = 0x0109 || op = 0x0201

/-- The PASID of a slice that is bound to one. -/
def slicePasid (n : Nat) (s : State) : Nat := match Tbl.find s.slices n with
  | some x => if x.tenant then 0 else x.bind
  | none => 0

/-- PCIE_COMPLETION_TIMEOUT: a ring fetch sets FETCH_ERR; a mailbox command that reads a buffer completes with DMA_ERROR; a host command's data transfer fails (R168), with a class 4 record of its slice (R488). -/
def execPcieCompletionTimeout (r : HostRead) (s : State) : Res := onRun s fun s =>
  match r with
  | .ring p =>
    if canFetch p s then
      timeoutRecord p ((s.port p).reqBase + BitVec.ofNat 64 (s.port p).reqHead) 0 (aerUncor p false 14 (s.modPort p fun r => { r with fetchErr := true }))
    else s
  | .buffer p ring tag addr =>
    match s.mbx.accepted.find? fun c => c.hdr.port = p && c.hdr.ring = ring && c.hdr.tag = tag && readsHost c.opcode with
    | some c => mbxAnswer c (replyErr .dmaError 0) (timeoutRecord p addr tag (aerUncor p false 14 (mbxUnqueue c s)))
    | none => s
  | .data id addr =>
    match cmdAt s id with
    | some c =>
      match Tbl.find s.host.ctrls c.ctrl with
      | some x => (errorRecord 4 false {
          code := 0x0404, domain := hostDomain x.port, unit := 0, agent := 0, address := addr
          info0 := BitVec.ofNat 64 (slicePasid x.slice s + x.slice * 2 ^ 20), info1 := 0, multi := false, host := true } (aerUncor x.port x.upper 14 (transferFails id s))).2
      | none => s
    | none => s

end Sys2Proof.Machine
end

