-- ==== Sys2Proof/Machine/JtagPort.lean ====
section
/-! DEFINITION. Machine/JtagPort.lean: the instructions of the test access port (R71). -/
namespace Sys2Proof.Machine
open Sys2Proof

def jtagRun (i : JtagInstr) (s : State) : State := emit (.jtag i) { s with jtag := { s.jtag with instr := i } }

/-- An instruction that takes the pins: executed as BYPASS unless RESET_N is asserted (R71). -/
def jtagPins (i : JtagInstr) (s : State) : State := jtagRun (if s.cond.resetN.level then i else .bypass) s

def execJtagBypass (s : State) : Res := onAon s (jtagRun .bypass)

/-- SAMPLE/PRELOAD: the levels at the pins are captured, which leaves the pins alone, and shifted out while `cells` is shifted in. The order of the cells is the BSDL file's, so what is captured is a free value (log entry 208). -/
def execJtagSamplePreload (cells : List Bool) (s : State) : Res := onAon s fun s =>
  let d := draw s
  let got := lowBits d.1 cells.length
  emit (.jtagSampled got) (jtagRun .samplePreload { d.2 with jtag := { d.2.jtag with cells := cells, sampled := got } })

def execJtagExtest (s : State) : Res := onAon s (jtagPins .extest)

/-- IDCODE: version of the stepping, part number 0x9600, the manufacturer's code of the BSDL file (a free value), and the 1 of IEEE 1149.1. -/
def execJtagIdcode (s : State) : Res := onAon s fun s =>
  emit (.jtagId (BitVec.ofNat 32 (s.fuses.stepping.toNat * 2 ^ 28 + 0x9600 * 2 ^ 12 + Config.jtagManufacturer.toNat * 2 + 1))) (jtagRun .idcode s)

def execJtagClamp (s : State) : Res := onAon s (jtagPins .clamp)
def execJtagHighz (s : State) : Res := onAon s (jtagPins .highz)
def execJtagExtestPulse (s : State) : Res := onAon s (jtagPins .extestPulse)
def execJtagExtestTrain (s : State) : Res := onAon s (jtagPins .extestTrain)

end Sys2Proof.Machine
end

