-- ==== Sys2Proof/Machine/Session.lean ====
section
/-! DEFINITION. Machine/Session.lean: the session and chip commands of the mailbox (R106, R111, R130, R131, R137, R495 to R499). -/
namespace Sys2Proof.Machine
open Sys2Proof

/-! ## MAILBOX_HELLO (R130, R131) -/

/-- The highest version of a range that the firmware supports. -/
def chooseVersion (s : State) (lo hi : Nat) : Option Nat :=
  let v := min hi s.fw.mbxMax
  if lo ≤ v ∧ s.fw.mbxMin ≤ v then some v else none

/-- MAX_OUTSTANDING of a version (R137). -/
def maxOutstanding (v : Nat) : Nat := if v ≤ 1 then 1 else ringLimit v

/-- SUPPORTED_MASK: bit v - 1 for version v. -/
def supportedMask (s : State) : Nat := ((List.range 8).map fun i => if s.fw.mbxMin ≤ i + 1 ∧ i + 1 ≤ s.fw.mbxMax then 2 ^ i else 0).sum

/-- Commands outstanding beside the HELLO itself. -/
def othersOut (h : MbxHdr) (s : State) : Nat := (s.port h.port).outstanding - (if h.ring then 1 else 0)

def helloBody (v : Nat) (id : Nat) (s : State) : List Byte :=
  le8 v ++ le8 (supportedMask s) ++ zeros 2 ++ le16 (maxOutstanding v) ++ le16 4080 ++ le64 (chipWord.fwVersion s).toNat ++ le32 id ++ zeros 12

/-- The answer to a HELLO, and the session it opens or leaves as it was. -/
def helloRun (h : MbxHdr) (minV maxV : Nat) (s : State) : MReply × State :=
  if h.version ≠ 1 then (replyErr .invalidField 6, s)
  else if othersOut h s ≠ 0 then (replyErr .busy (othersOut h s), s)
  else match chooseVersion s minV maxV with
    | none => (replyErr .versionUnsupported s.fw.mbxMax, noCommonVersion 0 (portNum h.port) s.fw.mbxMin s.fw.mbxMax minV maxV s)
    | some v =>
      let d := draw s
      (replyOk (helloBody v d.1 s), d.2.modPort h.port fun r => { r with session := some v, renegotiate := false })

/-- MAILBOX_HELLO: HOST_ID has no meaning for the device. -/
def execMailboxHello (h : MbxHdr) (minV maxV : Byte) (hostId : W64) (s : State) : Res := onRun s fun s =>
  match mbxFind 1 h [.num 0 1 minV.toNat, .num 1 1 maxV.toNat, .num 4 8 hostId.toNat] s with
  | none => s
  | some c =>
    if !ringTurn c s then s
    else
      let x := helloRun h minV.toNat maxV.toNat (mbxUnqueue c s)
      mbxAnswer c x.1 x.2

/-! ## Chip commands -/

/-- The HBM3E that the head has: 24 GiB for each stack that is not fenced (R23). -/
def hbmBytes (s : State) : Nat := ((List.range 4).filter fun i => !hasBit s.power.fenced (13 + i)).length * (24 * 2 ^ 30)

/-- Modules whose link is UP on this head (R314). -/
def modulesPresent (s : State) : Nat := ((List.range 96).map fun n => if (s.kport n).state = .up then 2 ^ n else 0).sum

def imageVersion (i : Option ImageInfo) : Nat := match i with
  | some x => x.fwVersion.toNat
  | none => 0

def chipInfoBody (s : State) : List Byte :=
  le32 (chipIdReg s).toNat ++ uidBytes s ++ le64 (imageVersion s.boot.sp) ++ le64 (chipWord.fwVersion s).toNat ++ le64 s.boot.ddrBytes
    ++ le64 (hbmBytes s) ++ leBytes 12 (modulesPresent s)

def execChipInfoGet (h : MbxHdr) (s : State) : Res := onRun s fun s =>
  mbxStart { opcode := 0x0002, since := 1, sem := false, group := .session } h [] (answer fun s => replyOk (chipInfoBody s)) s

def execBootStatusGet (h : MbxHdr) (s : State) : Res := onRun s fun s =>
  mbxStart { opcode := 0x0003, since := 1, sem := false, group := .session, recovery := true } h []
    (answer fun s => replyOk (le32 (bootStatus s).toNat ++ le32 (nodeIdReg s).toNat)) s

/-- The head's enclosure number is set, by whatever route (R106); the spec lists no PLDM message for the other one (R97). -/
def setEnclosure (e : BitVec 5) (s : State) : State := s.chn fun c => { c with enclosure := some e }

/-- NODE_ENCLOSURE_SET: refused while the chip is a cluster member, with IN_USE (R106; log entry 32). -/
def execNodeEnclosureSet (h : MbxHdr) (enclosure : Byte) (s : State) : Res := onRun s fun s =>
  mbxStart { opcode := 0x0004, since := 1, sem := true, group := .session } h [.num 0 1 enclosure.toNat] (fun s =>
    tryDo (firstFail [(decide (31 < enclosure.toNat), fieldAt 0), (s.cluster.member, replyErr .inUse 0)])
      (setEnclosure (enclosure.setWidth 5)) s) s

/-- HOST_PORT_CONFIG: kept in the always-on domain, in effect from the port's next fundamental reset (R111). -/
def execHostPortConfig (h : MbxHdr) (port mode : Byte) (s : State) : Res := onRun s fun s =>
  mbxStart { opcode := 0x0005, since := 1, sem := true, group := .session } h [.num 0 1 port.toNat, .num 1 1 mode.toNat] (fun s =>
    tryDo (firstFail [(decide (1 < port.toNat), fieldAt 0), (decide (1 < mode.toNat), fieldAt 1)])
      (fun s => { s with aon := if port = 0 then { s.aon with x8A := mode = 1 } else { s.aon with x8B := mode = 1 } }) s) s

/-! ## Alarms (R497, R499) -/

/-- One slot as ALARM_LIST returns it: an empty one reads as zero but for KIND. -/
def alarmEntry (s : State) (k : Nat) : List Byte := slotBytes k (Tbl.getD s.alarms.slots k emptySlot)

def execAlarmList (h : MbxHdr) (first count : Byte) (s : State) : Res := onRun s fun s =>
  mbxStart { opcode := 0x0006, since := 2, sem := false, group := .session } h [.num 0 1 first.toNat, .num 1 1 count.toNat] (answer fun s =>
    if count = 0 ∨ 160 < count.toNat ∨ 256 < first.toNat + count.toNat then limitAt 1
    else replyOk ((List.range count.toNat).flatMap fun i => alarmEntry s (first.toNat + i))) s

/-- The slot after a matching acknowledgement: emptied once its condition is gone. -/
def ackSlot (k : Nat) (s : State) : State :=
  match Tbl.find s.alarms.slots k with
  | some a => { s with alarms := { s.alarms with
      slots := if a.active then Tbl.set s.alarms.slots k { a with unacked := false } else Tbl.del s.alarms.slots k } }
  | none => s

def execAlarmAck (h : MbxHdr) (kind : Byte) (seen : W32) (s : State) : Res := onRun s fun s =>
  mbxStart { opcode := 0x0007, since := 2, sem := true, group := .session } h [.num 0 1 kind.toNat, .num 4 4 seen.toNat] (fun s =>
    tryDo (firstFail [((Tbl.getD s.alarms.slots kind.toNat emptySlot).count ≠ seen, fieldAt 4)]) (ackSlot kind.toNat) s) s

/-! ## The error queue (R495, R496) -/

/-- The 48 bytes of an error record (R496). -/
def errRecBytes (r : ErrRec) : List Byte :=
  le32 r.seq.toNat ++ le16 r.code.toNat ++ le8 r.action ++ le8 (flag 0 r.multi + flag 1 r.nested + flag 2 r.host) ++ le64 r.time.toNat
    ++ le8 r.domain ++ le8 r.unit ++ le8 r.agent ++ zeros 1 ++ le32 r.transients.toNat ++ le64 r.address.toNat ++ le64 r.info0.toNat ++ le64 r.info1.toNat

/-- The held records from a sequence number onward; numbers go round, so a number up to half the circle behind is older. -/
def recordsFrom (first : W32) (l : List ErrRec) : List ErrRec := l.filter fun r => decide ((r.seq - first).toNat < 2 ^ 31)

def errorQueueBody (first : W32) (max_ : Nat) (s : State) : List Byte :=
  let l := (recordsFrom first s.err.records).take max_
  le16 l.length ++ le16 (flag 0 s.err.overflow) ++ le32 s.err.overflowCount.toNat ++ l.flatMap errRecBytes

/-- A read by the port that holds the control semaphore releases what is older than FIRST_SEQ. -/
def releaseErrors (first : W32) (p : Port) (s : State) : State :=
  if (s.sem 0).owner = some p then { s with err := { s.err with records := recordsFrom first s.err.records, overflow := false } } else s

def execErrorQueueRead (h : MbxHdr) (first : W32) (max_ : W16) (s : State) : Res := onRun s fun s =>
  mbxStart { opcode := 0x0008, since := 2, sem := false, group := .session } h [.num 0 4 first.toNat, .num 4 2 max_.toNat] (fun s =>
    if max_ = 0 ∨ 64 < max_.toNat then (some (limitAt 4), s)
    else (some (replyOk (errorQueueBody first max_.toNat s)), releaseErrors first h.port s)) s

end Sys2Proof.Machine
end

