-- ==== Sys2Proof/Machine/Sideband.lean ====
section
/-! DEFINITION. Machine/Sideband.lean: MCTP control, PLDM, SMBus address resolution and the Molzon messages of the sideband port (R96 to R99, R498). An answer is the message body that follows the message type; where R97 names a standard, its layout is that standard's (log entry 46). -/
namespace Sys2Proof.Machine
open Sys2Proof

/-- The service processor answers the sideband port while it runs, a vaulted chip included (R51). -/
def onSide (s : State) (f : State → State) : Res := onSp s f

/-- A byte's bits, most significant first. -/
def msbBits (b : Byte) : List Bool := (List.range 8).map fun i => b.getLsbD (7 - i)

/-- The packet error code of SMBus: CRC-8 over all bytes of a message, address included (R97). -/
def pecOf (l : List Byte) : Byte := crc8 (l.flatMap msbBits) 0

/-- A message whose PEC is wrong is dropped (R97). -/
def sidePec (m : SideMsg) (data : List Byte) : Bool := match m.pec with
  | some p => decide (p = pecOf (m.head ++ data ++ m.tail))
  | none => true

/-- The SMBus address: the assigned one, else 0x40 plus the chain position, or 0x40 (R98). -/
def smbusAddr (s : State) : BitVec 7 :=
  s.side.arpAddr.getD (0x40 + BitVec.ofNat 7 (match s.chain.position with | some p => p.toNat | none => 0))

/-- One packet of an answer: the SMBus header of the MCTP binding, the MCTP header with its start, end and sequence, up to 64 bytes of the message, and the PEC (R97; log entry 46). -/
def mctpPacket (m : SideMsg) (first last : Bool) (seq : Nat) (part : List Byte) (s : State) : List Byte :=
  let l := [m.head.getD 3 0 &&& 0xFE, 0x0F] ++ le8 (part.length + 5) ++ le8 (2 * (smbusAddr s).toNat + 1)
    ++ [1, m.head.getD 6 0, s.side.eid] ++ le8 (flag 7 first + flag 6 last + 16 * (seq % 4) + (m.head.getD 7 0).toNat % 8) ++ part
  l ++ [pecOf l]

/-- An answer cut into packets of 64 bytes; `fuel` bounds their number. -/
def mctpPackets (m : SideMsg) (s : State) : Nat → Nat → List Byte → List (List Byte)
  | 0, _, _ => []
  | fuel + 1, seq, l =>
    if l.length ≤ 64 then [mctpPacket m (seq = 0) true seq l s]
    else mctpPacket m (seq = 0) false seq (l.take 64) s :: mctpPackets m s fuel (seq + 1) (l.drop 64)

/-- What an answer repeats of its request: message type, and for MCTP control and PLDM the instance with the request bit clear, then the command bytes. -/
def answerHead (m : SideMsg) : List Byte := match m.head.drop 8 with
  | t :: i :: c => if t = 0 ∨ t = 1 then t :: (i &&& 0x1F) :: c else [t]
  | l => l

/-- An MCTP message answers `m`. -/
def sideSend (m : SideMsg) (bytes : List Byte) (s : State) : State :=
  let l := answerHead m ++ bytes
  emit (.sideband (mctpPackets m s (l.length + 1) 0 l)) s

/-- A block that an SMBus read of address resolution returns, with its byte count and PEC. -/
def smbusBlock (m : SideMsg) (bytes : List Byte) (s : State) : State :=
  let b := le8 bytes.length ++ bytes
  emit (.sideband [b ++ [pecOf (m.head ++ b)]]) s

/-! ## Whose message it is (R97 to R99) -/

/-- The message is for this chip: its SMBus address, and this endpoint, the null or the broadcast endpoint (R98). -/
def sideAddressed (m : SideMsg) (s : State) : Bool :=
  m.head.head? = some (BitVec.ofNat 8 (2 * (smbusAddr s).toNat)) && [s.side.eid, 0, 0xFF].contains (m.head.getD 5 0)

/-- Message type and command of a message: MCTP control without its instance, PLDM by type and command, the vendor identifier. -/
def sideCommand (m : SideMsg) : List Byte := match m.head.drop 8 with
  | t :: _ :: c => if t = 0 then t :: c else if t = 1 then t :: ((c.getD 0 0) &&& 0x3F) :: c.drop 1 else m.head.drop 8
  | l => l

/-- The commands of R97 and R99. -/
def sideListed (c : List Byte) : Bool :=
  [[0, 1], [0, 2], [0, 4], [0, 5], [1, 0, 2], [1, 0, 3], [1, 0, 4], [1, 0, 5], [1, 2, 0x0B], [1, 2, 0x11], [0x7E, 0x1F, 0x6D]].contains c

/-- A command that R97 does not list is answered with the standards' completion code (log entry 46): unsupported command, invalid PLDM type; a message type that is not supported has no answer. -/
def sideRefuse (m : SideMsg) (s : State) : State := match sideCommand m with
  | 0 :: _ => sideSend m [5] s
  | 1 :: ty :: _ => sideSend m [if ty = 0 ∨ ty = 2 then 5 else 0x20] s
  | _ => s

/-- The message is this chip's, its PEC, where it carries one, is right, and its command is the row's. -/
def sideMine (m : SideMsg) (want data : List Byte) (s : State) : Bool := sidePec m data && sideAddressed m s && sideCommand m = want

/-- A message of a row with the command `want`: taken, or answered as unsupported where its bytes name a command that R97 does not list. -/
def onMsg (m : SideMsg) (want data : List Byte) (s : State) (f : State → State) : Res := onSide s fun s =>
  if sideMine m want data s then f s
  else if sidePec m data && sideAddressed m s && !sideListed (sideCommand m) then sideRefuse m s
  else s

/-! ## MCTP control messages (R97) -/

/-- MCTP_SET_ENDPOINT_ID: operations 0 set and 1 force assign an identifier other than 0x00 and 0xFF; resetting to a static identifier (2) and setting the discovered flag (3) are not for this endpoint. -/
def execMctpSetEndpointId (m : SideMsg) (op : BitVec 2) (eid : Byte) (s : State) : Res := onMsg m [0, 1] [op.setWidth 8, eid] s fun s =>
  if 2 ≤ op.toNat ∨ eid = 0 ∨ eid = 0xFF then sideSend m (le8 2) s
  else sideSend m (zeros 2 ++ [eid] ++ zeros 1) { s with side := { s.side with eid := eid } }

def execMctpGetEndpointId (m : SideMsg) (s : State) : Res := onMsg m [0, 2] [] s fun s => sideSend m (zeros 1 ++ [s.side.eid] ++ zeros 2) s

/-- MCTP_GET_VERSION_SUPPORT: 1.3 for the base and its control messages; the binding versions of the other two types are free values. -/
def execMctpGetVersionSupport (m : SideMsg) (type : Byte) (s : State) : Res := onMsg m [0, 4] [type] s fun s =>
  if type = 0xFF ∨ type = 0 then sideSend m [0, 1, 0xF1, 0xF3, 0xF0, 0] s
  else if type = 1 ∨ type = 0x7E then
    let d := draw s
    sideSend m ([0, 1] ++ le32 d.1) d.2
  else sideSend m [0x80] s

def execMctpGetMessageTypeSupport (m : SideMsg) (s : State) : Res := onMsg m [0, 5] [] s fun s => sideSend m [0, 3, 0x00, 0x01, 0x7E] s

/-! ## SMBus address resolution (R97, R98) -/

def smbusUdid (s : State) : List Byte := fit 16 (Config.smbusUdid (uidBytes s))

/-- The bytes of an address-resolution command that its row names. -/
def arpData : ArpCmd → List Byte
  | .assign udid addr => udid ++ le8 (2 * addr.toNat)
  | .prepare | .reset | .getUdid => []

/-- The command byte, sent to the SMBus device default address 0x61 (SMBus 3.1; log entry 46). -/
def arpCode : ArpCmd → Byte
  | .prepare => 1 | .reset => 2 | .getUdid => 3 | .assign _ _ => 4

def arpMine (m : SideMsg) (c : ArpCmd) : Bool := sidePec m (arpData c) && m.head.take 2 = [0xC2, arpCode c]

/-- SMBUS_ARP: Prepare to ARP clears the address-resolved flag, a reset the assigned address with it; Get UDID is answered by a device whose address is not resolved, with the address it has been assigned or 0xFF (SMBus 3.1; log entry 46). -/
def execSmbusArp (m : SideMsg) (c : ArpCmd) (s : State) : Res := onSide s fun s =>
  if !arpMine m c then s
  else match c with
    | .prepare => { s with side := { s.side with arpResolved := false } }
    | .reset => { s with side := { s.side with arpAddr := none, arpResolved := false } }
    | .getUdid =>
      if s.side.arpResolved then s
      else smbusBlock m (smbusUdid s ++ [match s.side.arpAddr with | some a => BitVec.ofNat 8 (2 * a.toNat + 1) | none => 0xFF]) s
    | .assign udid addr => if udid = smbusUdid s then { s with side := { s.side with arpAddr := some addr, arpResolved := true } } else s

/-! ## PLDM (R97, R498) -/

def execPldmGetTid (m : SideMsg) (s : State) : Res := onMsg m [1, 0, 2] [] s fun s => sideSend m [0, s.side.tid] s

/-- A version of a PLDM type in one part, with its CRC. -/
def pldmVersion (v : List Byte) : List Byte := zeros 5 ++ [5] ++ v ++ le32 (Config.crc32 v).toNat

/-- PLDM_GET_PLDM_VERSION: 1.1 of the base (type 0), 1.2 of monitoring (type 2). -/
def execPldmGetPldmVersion (m : SideMsg) (type : Byte) (s : State) : Res := onMsg m [1, 0, 3] [type] s fun s =>
  if type = 0 then sideSend m (pldmVersion [0xF1, 0xF1, 0xF0, 0]) s
  else if type = 2 then sideSend m (pldmVersion [0xF1, 0xF2, 0xF0, 0]) s
  else sideSend m [0x83] s

/-- PLDM_GET_PLDM_TYPES: types 0 and 2. -/
def execPldmGetPldmTypes (m : SideMsg) (s : State) : Res := onMsg m [1, 0, 4] [] s fun s => sideSend m ([0, 5] ++ zeros 7) s

/-- PLDM_GET_PLDM_COMMANDS: the four base commands 2 to 5; of monitoring PollForPlatformEventMessage 0x0B and GetSensorReading 0x11. -/
def execPldmGetPldmCommands (m : SideMsg) (type : Byte) (s : State) : Res := onMsg m [1, 0, 5] [type] s fun s =>
  if type = 0 then sideSend m ([0, 0x3C] ++ zeros 31) s
  else if type = 2 then sideSend m ([0, 0, 0x08, 0x02] ++ zeros 29) s
  else sideSend m [0x83] s

/-- A sensor's size code and reading: temperatures in degrees Celsius, life consumption in weighted hours; the power is a free value. -/
def sensorReading (x : Sensor) (s : State) : Byte × List Byte × State :=
  match x with
  | .die => (1, [s.phys.dieMax], s)
  | .hbm n => (1, [s.phys.hbm.getD n 0], s)
  | .life => (4, le32 s.aon.lifeHours.toNat, s)
  | .power => let d := draw s; (4, le32 d.1, d.2)

/-- PLDM_SENSOR_READ: the sensor is enabled; its event enable and its three states are free values. -/
def execPldmSensorRead (m : SideMsg) (x : Sensor) (s : State) : Res := onMsg m [1, 2, 0x11] [] s fun s =>
  let d := draw s
  let r := sensorReading x d.2
  sideSend m ([0, r.1, 0] ++ le32 d.1 ++ r.2.1) r.2.2

/-- The lowest kind with a pending notification: its slot, the notification cleared (R498). -/
def takeNotice (s : State) : Option (Nat × List Byte) × State :=
  match s.alarms.pending with
  | (k, _) :: _ => (some (k, slotBytes k (Tbl.getD s.alarms.slots k emptySlot)), { s with alarms := { s.alarms with pending := Tbl.del s.alarms.pending k } })
  | [] => (none, s)

/-- POLL_FOR_PLATFORM_EVENT_MESSAGE: an OEM event of class 0xF0, whole in one part; its event identifier is a free value. -/
def execPollForPlatformEventMessage (m : SideMsg) (s : State) : Res := onMsg m [1, 2, 0x0B] [] s fun s =>
  match takeNotice s with
  | (none, s1) => sideSend m ([0, s.side.tid] ++ zeros 2) s1
  | (some (_, slot), s1) =>
    let d := draw s1
    sideSend m ([0, s.side.tid] ++ le16 d.1 ++ zeros 4 ++ [5, 0xF0] ++ le32 slot.length ++ slot ++ le32 (Config.crc32 slot).toNat) d.2

/-! ## Molzon messages (R99) -/

/-- PCI vendor identifier, code and completion code. -/
def molzonHead (code cc : Byte) : List Byte := [0x1F, 0x6D, code, cc]

/-- The report of a request that was let in, or the completion code of one that was not. -/
def molzonReport (m : SideMsg) (nonce : List Byte) : Option Nat × State → State
  | (some t, s) => sideSend m (molzonHead 1 0 ++ attestReport nonce t s ++ attestChain s) s
  | (none, s) => let d := draw s; sideSend m (molzonHead 1 (BitVec.ofNat 8 (1 + d.1 % 255))) d.2

/-- DESIGN CHOICE: before the report key exists (boot step 13) a request over MCTP is answered as one that is refused: the spec gates ATTEST_REPORT of the mailbox and says nothing of this route (log entry 210). -/
def attestAnswer (m : SideMsg) (nonce : List Byte) (s : State) : State := molzonReport m nonce (if s.trust.reportKey then attestTurn s else (none, s))

/-- MOLZON_ATTESTATION_REQUEST: report and certificates; beyond 64 waiting requests refused, with an error completion code that is a free value (R96). -/
def execMolzonAttestationRequest (m : SideMsg) (nonce : List Byte) (s : State) : Res := onMsg m [0x7E, 0x1F, 0x6D] ([1] ++ nonce) s (attestAnswer m nonce)

/-- MOLZON_ALARM_NOTIFICATION_REQUEST: the lowest pending slot; an answer without one where nothing is pending. -/
def execMolzonAlarmNotificationRequest (m : SideMsg) (s : State) : Res := onMsg m [0x7E, 0x1F, 0x6D] [2] s fun s =>
  let x := takeNotice s
  sideSend m (molzonHead 2 0 ++ (match x.1 with | some n => n.2 | none => [])) x.2

/-- MOLZON_BOOT_STATUS_REQUEST: code 3; a code that R99 does not list is answered with an error completion code, which is a free value. -/
def execMolzonBootStatusRequest (m : SideMsg) (code : Byte) (s : State) : Res := onMsg m [0x7E, 0x1F, 0x6D] [code] s fun s =>
  if code = 3 then sideSend m (molzonHead 3 0 ++ le32 (bootStatus s).toNat ++ le32 (nodeIdReg s).toNat) s
  else let d := draw s; sideSend m (molzonHead code (BitVec.ofNat 8 (1 + d.1 % 255))) d.2

end Sys2Proof.Machine
end

