-- ==== Sys2Proof/Machine/Dispatch.lean ====
section
/-! DEFINITION. Machine/Dispatch.lean: the meaning of each command, one direct call for each constructor. -/
namespace Sys2Proof.Machine
open Sys2Proof

def exec (i : Instr) (s : State) : Host.Outcome State Fault Refusal :=
  match i with
  | .pwrgoodAssert at_ => Sys2Proof.Machine.execPwrgoodAssert at_ s
  | .pwrgoodDeassert at_ => Sys2Proof.Machine.execPwrgoodDeassert at_ s
  | .resetNAssert at_ => Sys2Proof.Machine.execResetNAssert at_ s
  | .chipResetExit obs at_ => Sys2Proof.Machine.execChipResetExit obs at_ s
  | .boardIdSample straps steady => Sys2Proof.Machine.execBoardIdSample straps steady s
  | .pwrfailNAssert asserted at_ => Sys2Proof.Machine.execPwrfailNAssert asserted at_ s
  | .pwrfailStableDeassert => Sys2Proof.Machine.execPwrfailStableDeassert s
  | .pwrfailStuck => Sys2Proof.Machine.execPwrfailStuck s
  | .inputLatchRelease x => Sys2Proof.Machine.execInputLatchRelease x s
  | .perstAssert p at_ => Sys2Proof.Machine.execPerstAssert p at_ s
  | .perstStuck p => Sys2Proof.Machine.execPerstStuck p s
  | .peerAliveChange alive at_ => Sys2Proof.Machine.execPeerAliveChange alive at_ s
  | .peerAliveTimeout => Sys2Proof.Machine.execPeerAliveTimeout s
  | .chainHeadTaken => Sys2Proof.Machine.execChainHeadTaken s
  | .chainHeadFrameSend => Sys2Proof.Machine.execChainHeadFrameSend s
  | .chainFrameReceived lows at_ => Sys2Proof.Machine.execChainFrameReceived lows at_ s
  | .chainNoFrameTimeout => Sys2Proof.Machine.execChainNoFrameTimeout s
  | .domainSwitchOnRequest d => Sys2Proof.Machine.execDomainSwitchOnRequest d s
  | .domainSwitchOffRequest d idle => Sys2Proof.Machine.execDomainSwitchOffRequest d idle s
  | .domainRampDone d => Sys2Proof.Machine.execDomainRampDone d s
  | .portDomainJudge d signal => Sys2Proof.Machine.execPortDomainJudge d signal s
  | .unusedDomainRetry d => Sys2Proof.Machine.execUnusedDomainRetry d s
  | .refclkLost r reading => Sys2Proof.Machine.execRefclkLost r reading s
  | .refclkRestored r => Sys2Proof.Machine.execRefclkRestored r s
  | .crystalLost reading => Sys2Proof.Machine.execCrystalLost reading s
  | .crystalSwitchover => Sys2Proof.Machine.execCrystalSwitchover s
  | .sysrefLost reading => Sys2Proof.Machine.execSysrefLost reading s
  | .sysrefRestored => Sys2Proof.Machine.execSysrefRestored s
  | .railAlarm rail mV => Sys2Proof.Machine.execRailAlarm rail mV s
  | .railRestored rail => Sys2Proof.Machine.execRailRestored rail s
  | .tempSample dies hbm => Sys2Proof.Machine.execTempSample dies hbm s
  | .lifeCountTick => Sys2Proof.Machine.execLifeCountTick s
  | .aonHourTick elapsed => Sys2Proof.Machine.execAonHourTick elapsed s
  | .laneEyeCheck d lane ok => Sys2Proof.Machine.execLaneEyeCheck d lane ok s
  | .imageVerifyDone t o => Sys2Proof.Machine.execImageVerifyDone t o s
  | .hbmTrainingDone => Sys2Proof.Machine.execHbmTrainingDone s
  | .ddrTrainingDone dimms ok => Sys2Proof.Machine.execDdrTrainingDone dimms ok s
  | .controlCoreStart => Sys2Proof.Machine.execControlCoreStart s
  | .vaultReplay anchor bad unread found => Sys2Proof.Machine.execVaultReplay anchor bad unread found s
  | .journalReplay supers unpowered => Sys2Proof.Machine.execJournalReplay supers unpowered s
  | .primaryRegionRestore => Sys2Proof.Machine.execPrimaryRegionRestore s
  | .hotReset p => Sys2Proof.Machine.execHotReset p s
  | .functionLevelReset p => Sys2Proof.Machine.execFunctionLevelReset p s
  | .dataLinkDown p => Sys2Proof.Machine.execDataLinkDown p s
  | .hostLinkUp p speed width => Sys2Proof.Machine.execHostLinkUp p speed width s
  | .busMasterEnableCleared p => Sys2Proof.Machine.execBusMasterEnableCleared p s
  | .busMasterEnableSet p => Sys2Proof.Machine.execBusMasterEnableSet p s
  | .semRead n who => Sys2Proof.Machine.execSemRead n who s
  | .semReleaseWrite p n v => Sys2Proof.Machine.execSemReleaseWrite p n v s
  | .semLeaseRenew p => Sys2Proof.Machine.execSemLeaseRenew p s
  | .semLeaseExpiry p => Sys2Proof.Machine.execSemLeaseExpiry p s
  | .mbxImmDoorbell p len => Sys2Proof.Machine.execMbxImmDoorbell p len s
  | .mbxImmDeferredServe p => Sys2Proof.Machine.execMbxImmDeferredServe p s
  | .mbxReqTail p v => Sys2Proof.Machine.execMbxReqTail p v s
  | .ringRequestFetch p got => Sys2Proof.Machine.execRingRequestFetch p got s
  | .mbxRspHead p v => Sys2Proof.Machine.execMbxRspHead p v s
  | .mbxRingCtrlWrite p v => Sys2Proof.Machine.execMbxRingCtrlWrite p v s
  | .mailboxResponse p ring tag => Sys2Proof.Machine.execMailboxResponse p ring tag s
  | .intEnableWrite p v => Sys2Proof.Machine.execIntEnableWrite p v s
  | .bar0AccessError p offset kind => Sys2Proof.Machine.execBar0AccessError p offset kind s
  | .registerWrite t wide v => Sys2Proof.Machine.execRegisterWrite t wide v s
  | .registerRcRead t size => Sys2Proof.Machine.execRegisterRcRead t size s
  | .registerLowHalfRead p off => Sys2Proof.Machine.execRegisterLowHalfRead p off s
  | .mailboxHello h minV maxV hostId => Sys2Proof.Machine.execMailboxHello h minV maxV hostId s
  | .chipInfoGet h => Sys2Proof.Machine.execChipInfoGet h s
  | .bootStatusGet h => Sys2Proof.Machine.execBootStatusGet h s
  | .nodeEnclosureSet h enclosure => Sys2Proof.Machine.execNodeEnclosureSet h enclosure s
  | .hostPortConfig h port mode => Sys2Proof.Machine.execHostPortConfig h port mode s
  | .alarmList h first count => Sys2Proof.Machine.execAlarmList h first count s
  | .alarmAck h kind seen => Sys2Proof.Machine.execAlarmAck h kind seen s
  | .errorQueueRead h first max_ => Sys2Proof.Machine.execErrorQueueRead h first max_ s
  | .fuseRead h => Sys2Proof.Machine.execFuseRead h s
  | .fuseNonceGet h => Sys2Proof.Machine.execFuseNonceGet h s
  | .fuseOwnerKeyProgram h slot key g bad => Sys2Proof.Machine.execFuseOwnerKeyProgram h slot key g bad s
  | .fuseOwnerKeyRevoke h slot g blown => Sys2Proof.Machine.execFuseOwnerKeyRevoke h slot g blown s
  | .fuseRollbackAdvance h target blown => Sys2Proof.Machine.execFuseRollbackAdvance h target blown s
  | .fuseDebugPermanent h g blown => Sys2Proof.Machine.execFuseDebugPermanent h g blown s
  | .debugUnlock h g => Sys2Proof.Machine.execDebugUnlock h g s
  | .attestReport h nonce addr len ok => Sys2Proof.Machine.execAttestReport h nonce addr len ok s
  | .recoveryLoad h imageType len addr got => Sys2Proof.Machine.execRecoveryLoad h imageType len addr got s
  | .fwStage h addr len flags got => Sys2Proof.Machine.execFwStage h addr len flags got s
  | .fwStagingDone ok => Sys2Proof.Machine.execFwStagingDone ok s
  | .fwActivateHitless h => Sys2Proof.Machine.execFwActivateHitless h s
  | .fwHandoverFreeze ok => Sys2Proof.Machine.execFwHandoverFreeze ok s
  | .fwActivateNextStart h mode => Sys2Proof.Machine.execFwActivateNextStart h mode s
  | .fwConfirm h => Sys2Proof.Machine.execFwConfirm h s
  | .fwRegionsSynced => Sys2Proof.Machine.execFwRegionsSynced s
  | .fwStatusGet h => Sys2Proof.Machine.execFwStatusGet h s
  | .fwAbort h => Sys2Proof.Machine.execFwAbort h s
  | .fwWindowExpiry => Sys2Proof.Machine.execFwWindowExpiry s
  | .fwHeartbeatGap => Sys2Proof.Machine.execFwHeartbeatGap s
  | .poolCreate h pool k m map => Sys2Proof.Machine.execPoolCreate h pool k m map s
  | .poolDelete h pool => Sys2Proof.Machine.execPoolDelete h pool s
  | .memberTrimDone module => Sys2Proof.Machine.execMemberTrimDone module s
  | .poolQuery h pool => Sys2Proof.Machine.execPoolQuery h pool s
  | .poolModuleAdd h pool map => Sys2Proof.Machine.execPoolModuleAdd h pool map s
  | .poolReshape h pool k m map => Sys2Proof.Machine.execPoolReshape h pool k m map s
  | .moduleQuery h module => Sys2Proof.Machine.execModuleQuery h module s
  | .moduleRetire h module => Sys2Proof.Machine.execModuleRetire h module s
  | .volumeCreate h nsid slice pool unit size compress level key => Sys2Proof.Machine.execVolumeCreate h nsid slice pool unit size compress level key s
  | .volumeDelete h nsid => Sys2Proof.Machine.execVolumeDelete h nsid s
  | .volumeResize h nsid size => Sys2Proof.Machine.execVolumeResize h nsid size s
  | .volumeQuery h nsid => Sys2Proof.Machine.execVolumeQuery h nsid s
  | .sliceCreate h slice bindType bind qp ns => Sys2Proof.Machine.execSliceCreate h slice bindType bind qp ns s
  | .sliceResize h slice qp ns permille => Sys2Proof.Machine.execSliceResize h slice qp ns permille s
  | .sliceReset h slice mode => Sys2Proof.Machine.execSliceReset h slice mode s
  | .sliceResetDrainTimeout slice => Sys2Proof.Machine.execSliceResetDrainTimeout slice s
  | .sliceDelete h slice => Sys2Proof.Machine.execSliceDelete h slice s
  | .sliceDirtyLogStart h slice op => Sys2Proof.Machine.execSliceDirtyLogStart h slice op s
  | .sliceDirtyLogHarvest h slice addr len ok => Sys2Proof.Machine.execSliceDirtyLogHarvest h slice addr len ok s
  | .sliceDirtyLogStop h slice addr len late ok => Sys2Proof.Machine.execSliceDirtyLogStop h slice addr len late ok s
  | .keyLoad h index kind wrapped => Sys2Proof.Machine.execKeyLoad h index kind wrapped s
  | .ktwkLoad h wrapped => Sys2Proof.Machine.execKtwkLoad h wrapped s
  | .keyRotate h index wrapped => Sys2Proof.Machine.execKeyRotate h index wrapped s
  | .ktwkRotate h wrapped => Sys2Proof.Machine.execKtwkRotate h wrapped s
  | .keyDestroy h index => Sys2Proof.Machine.execKeyDestroy h index s
  | .keyQuery h index => Sys2Proof.Machine.execKeyQuery h index s
  | .snapshotCreate h nsid => Sys2Proof.Machine.execSnapshotCreate h nsid s
  | .snapshotCutTimeout n => Sys2Proof.Machine.execSnapshotCutTimeout n s
  | .snapshotSealed epoch => Sys2Proof.Machine.execSnapshotSealed epoch s
  | .snapshotDelete h nsid epoch => Sys2Proof.Machine.execSnapshotDelete h nsid epoch s
  | .cloneCreate h src new epoch => Sys2Proof.Machine.execCloneCreate h src new epoch s
  | .replCreate h nsid mode target remote interval => Sys2Proof.Machine.execReplCreate h nsid mode target remote interval s
  | .replControlPause h nsid op => Sys2Proof.Machine.execReplControlPause h nsid op s
  | .replControlResume h nsid => Sys2Proof.Machine.execReplControlResume h nsid s
  | .replControlStop h nsid => Sys2Proof.Machine.execReplControlStop h nsid s
  | .replControlRepair h nsid => Sys2Proof.Machine.execReplControlRepair h nsid s
  | .replQuery h nsid => Sys2Proof.Machine.execReplQuery h nsid s
  | .replCycleDue rel => Sys2Proof.Machine.execReplCycleDue rel s
  | .peerStatusGet h => Sys2Proof.Machine.execPeerStatusGet h s
  | .failoverTakeOver h op => Sys2Proof.Machine.execFailoverTakeOver h op s
  | .failoverGiveBack h => Sys2Proof.Machine.execFailoverGiveBack h s
  | .clusterJoin h clusterId seed => Sys2Proof.Machine.execClusterJoin h clusterId seed s
  | .clusterLeave h => Sys2Proof.Machine.execClusterLeave h s
  | .netPortConfig h port breakout pfc mtu => Sys2Proof.Machine.execNetPortConfig h port breakout pfc mtu s
  | .netPortQuery h port corrected uncorrected => Sys2Proof.Machine.execNetPortQuery h port corrected uncorrected s
  | .govSharesSet h activity share ceiling => Sys2Proof.Machine.execGovSharesSet h activity share ceiling s
  | .statsGet h g addr len ok => Sys2Proof.Machine.execStatsGet h g addr len ok s
  | .statsGetTrace h path addr len wrote ok => Sys2Proof.Machine.execStatsGetTrace h path addr len wrote ok s
  | .mctpSetEndpointId m op eid => Sys2Proof.Machine.execMctpSetEndpointId m op eid s
  | .mctpGetEndpointId m => Sys2Proof.Machine.execMctpGetEndpointId m s
  | .mctpGetVersionSupport m type => Sys2Proof.Machine.execMctpGetVersionSupport m type s
  | .mctpGetMessageTypeSupport m => Sys2Proof.Machine.execMctpGetMessageTypeSupport m s
  | .smbusArp m c => Sys2Proof.Machine.execSmbusArp m c s
  | .pldmGetTid m => Sys2Proof.Machine.execPldmGetTid m s
  | .pldmGetPldmVersion m type => Sys2Proof.Machine.execPldmGetPldmVersion m type s
  | .pldmGetPldmTypes m => Sys2Proof.Machine.execPldmGetPldmTypes m s
  | .pldmGetPldmCommands m type => Sys2Proof.Machine.execPldmGetPldmCommands m type s
  | .pldmSensorRead m x => Sys2Proof.Machine.execPldmSensorRead m x s
  | .pollForPlatformEventMessage m => Sys2Proof.Machine.execPollForPlatformEventMessage m s
  | .molzonAttestationRequest m nonce => Sys2Proof.Machine.execMolzonAttestationRequest m nonce s
  | .molzonAlarmNotificationRequest m => Sys2Proof.Machine.execMolzonAlarmNotificationRequest m s
  | .molzonBootStatusRequest m code => Sys2Proof.Machine.execMolzonBootStatusRequest m code s
  | .jtagBypass => Sys2Proof.Machine.execJtagBypass s
  | .jtagSamplePreload cells => Sys2Proof.Machine.execJtagSamplePreload cells s
  | .jtagExtest => Sys2Proof.Machine.execJtagExtest s
  | .jtagIdcode => Sys2Proof.Machine.execJtagIdcode s
  | .jtagClamp => Sys2Proof.Machine.execJtagClamp s
  | .jtagHighz => Sys2Proof.Machine.execJtagHighz s
  | .jtagExtestPulse => Sys2Proof.Machine.execJtagExtestPulse s
  | .jtagExtestTrain => Sys2Proof.Machine.execJtagExtestTrain s
  | .sqTailDoorbell g sq v => Sys2Proof.Machine.execSqTailDoorbell g sq v s
  | .cqHeadDoorbell g cq v => Sys2Proof.Machine.execCqHeadDoorbell g cq v s
  | .ccWrite g v => Sys2Proof.Machine.execCcWrite g v s
  | .nvmeCommandFetch ctrl sq e => Sys2Proof.Machine.execNvmeCommandFetch ctrl sq e s
  | .deleteIoSubmissionQueue ctrl cid qid => Sys2Proof.Machine.execDeleteIoSubmissionQueue ctrl cid qid s
  | .createIoSubmissionQueue ctrl cid qid size cqid contiguous base prio => Sys2Proof.Machine.execCreateIoSubmissionQueue ctrl cid qid size cqid contiguous base prio s
  | .getLogPage ctrl cid lid off len ptr => Sys2Proof.Machine.execGetLogPage ctrl cid lid off len ptr s
  | .deleteIoCompletionQueue ctrl cid qid => Sys2Proof.Machine.execDeleteIoCompletionQueue ctrl cid qid s
  | .createIoCompletionQueue ctrl cid qid size contiguous base iv => Sys2Proof.Machine.execCreateIoCompletionQueue ctrl cid qid size contiguous base iv s
  | .identify ctrl cid cns nsid ptr => Sys2Proof.Machine.execIdentify ctrl cid cns nsid ptr s
  | .abort ctrl cid sq tcid => Sys2Proof.Machine.execAbort ctrl cid sq tcid s
  | .setFeatures ctrl cid fid v data ptr => Sys2Proof.Machine.execSetFeatures ctrl cid fid v data ptr s
  | .getFeatures ctrl cid fid arg ptr => Sys2Proof.Machine.execGetFeatures ctrl cid fid arg ptr s
  | .asynchronousEventRequest ctrl cid => Sys2Proof.Machine.execAsynchronousEventRequest ctrl cid s
  | .keepAlive ctrl cid => Sys2Proof.Machine.execKeepAlive ctrl cid s
  | .keepAliveTimeout ctrl => Sys2Proof.Machine.execKeepAliveTimeout ctrl s
  | .formatNvm ctrl cid nsid lbaf ses => Sys2Proof.Machine.execFormatNvm ctrl cid nsid lbaf ses s
  | .connect qp cntlid qid size attr host sub => Sys2Proof.Machine.execConnect qp cntlid qid size attr host sub s
  | .propertyGet ctrl cid off => Sys2Proof.Machine.execPropertyGet ctrl cid off s
  | .propertySet ctrl cid off v => Sys2Proof.Machine.execPropertySet ctrl cid off v s
  | .disconnect ctrl qid cid => Sys2Proof.Machine.execDisconnect ctrl qid cid s
  | .flush id => Sys2Proof.Machine.execFlush id s
  | .write id => Sys2Proof.Machine.execWrite id s
  | .read id => Sys2Proof.Machine.execRead id s
  | .writeUncorrectable id => Sys2Proof.Machine.execWriteUncorrectable id s
  | .compare id host => Sys2Proof.Machine.execCompare id host s
  | .compareAndWrite id host => Sys2Proof.Machine.execCompareAndWrite id host s
  | .writeZeroes id => Sys2Proof.Machine.execWriteZeroes id s
  | .datasetManagement id => Sys2Proof.Machine.execDatasetManagement id s
  | .verify id => Sys2Proof.Machine.execVerify id s
  | .privetLockGrant n => Sys2Proof.Machine.execPrivetLockGrant n s
  | .writeAdmission => Sys2Proof.Machine.execWriteAdmission s
  | .writeStagedWhole id got => Sys2Proof.Machine.execWriteStagedWhole id got s
  | .batchClose nsid => Sys2Proof.Machine.execBatchClose nsid s
  | .indexLookup batch n damage => Sys2Proof.Machine.execIndexLookup batch n damage s
  | .batchDone id res => Sys2Proof.Machine.execBatchDone id res s
  | .decompressDone unit lane failures => Sys2Proof.Machine.execDecompressDone unit lane failures s
  | .coldDedupMatch a b idle => Sys2Proof.Machine.execColdDedupMatch a b idle s
  | .segmentClose pool gather => Sys2Proof.Machine.execSegmentClose pool gather s
  | .journalGroupCommit => Sys2Proof.Machine.execJournalGroupCommit s
  | .compactionStart idle => Sys2Proof.Machine.execCompactionStart idle s
  | .compactionPagesProgrammed => Sys2Proof.Machine.execCompactionPagesProgrammed s
  | .scratchpadConvert => Sys2Proof.Machine.execScratchpadConvert s
  | .scratchpadReturn => Sys2Proof.Machine.execScratchpadReturn s
  | .vaultFlushDone => Sys2Proof.Machine.execVaultFlushDone s
  | .openSegmentCheck pool bad => Sys2Proof.Machine.execOpenSegmentCheck pool bad s
  | .memberFailed module => Sys2Proof.Machine.execMemberFailed module s
  | .rebuildSegment pool seg idle => Sys2Proof.Machine.execRebuildSegment pool seg idle s
  | .segmentRelease pool seg => Sys2Proof.Machine.execSegmentRelease pool seg s
  | .topiaryMove pool seg idle => Sys2Proof.Machine.execTopiaryMove pool seg idle s
  | .reshapeSwitchOver pool => Sys2Proof.Machine.execReshapeSwitchOver pool s
  | .kamardSignalDetect port oneLane => Sys2Proof.Machine.execKamardSignalDetect port oneLane s
  | .kamardAcquireDone port => Sys2Proof.Machine.execKamardAcquireDone port s
  | .kamardAcquireTimeout port => Sys2Proof.Machine.execKamardAcquireTimeout port s
  | .kamardHelloRetry port => Sys2Proof.Machine.execKamardHelloRetry port s
  | .kamardHelloReply port version limit serial fw => Sys2Proof.Machine.execKamardHelloReply port version limit serial fw s
  | .kamardModuleInfoResponse port tag d temp dieTemp => Sys2Proof.Machine.execKamardModuleInfoResponse port tag d temp dieTemp s
  | .kamardClaimResponse port tag st held => Sys2Proof.Machine.execKamardClaimResponse port tag st held s
  | .kamardReadResponse port tag st slots => Sys2Proof.Machine.execKamardReadResponse port tag st slots s
  | .kamardProgramResponse port tag st temp held => Sys2Proof.Machine.execKamardProgramResponse port tag st temp held s
  | .kamardEraseResponse port tag st held => Sys2Proof.Machine.execKamardEraseResponse port tag st held s
  | .kamardThreshLoadResponse port tag st => Sys2Proof.Machine.execKamardThreshLoadResponse port tag st s
  | .kamardVaultProgramResponse port tag st => Sys2Proof.Machine.execKamardVaultProgramResponse port tag st s
  | .kamardVaultEraseResponse port tag st => Sys2Proof.Machine.execKamardVaultEraseResponse port tag st s
  | .kamardBridgeFwWriteResponse port tag st => Sys2Proof.Machine.execKamardBridgeFwWriteResponse port tag st s
  | .kamardBridgeFwActivateResponse port tag st => Sys2Proof.Machine.execKamardBridgeFwActivateResponse port tag st s
  | .bridgeRestartTimeout port => Sys2Proof.Machine.execBridgeRestartTimeout port s
  | .kamardAck port next => Sys2Proof.Machine.execKamardAck port next s
  | .kamardNak port seq => Sys2Proof.Machine.execKamardNak port seq s
  | .kamardFrameDropped port fault => Sys2Proof.Machine.execKamardFrameDropped port fault s
  | .kamardRetransmitTimeout port => Sys2Proof.Machine.execKamardRetransmitTimeout port s
  | .kamardKeepalive port => Sys2Proof.Machine.execKamardKeepalive port s
  | .kamardLinkLoss port => Sys2Proof.Machine.execKamardLinkLoss port s
  | .kamardRetrainDone port how => Sys2Proof.Machine.execKamardRetrainDone port how s
  | .kamardDownRetry port management => Sys2Proof.Machine.execKamardDownRetry port management s
  | .pageVerify module page res => Sys2Proof.Machine.execPageVerify module page res s
  | .ldpcDecodeDone module cw res offsets => Sys2Proof.Machine.execLdpcDecodeDone module cw res offsets s
  | .bandIdleClose module inReloc => Sys2Proof.Machine.execBandIdleClose module inReloc s
  | .moduleInfoPoll module => Sys2Proof.Machine.execModuleInfoPoll module s
  | .blockReclaim module block_ idle => Sys2Proof.Machine.execBlockReclaim module block_ idle s
  | .segmentCleaning pool seg idle => Sys2Proof.Machine.execSegmentCleaning pool seg idle s
  | .scrubPage module page idle => Sys2Proof.Machine.execScrubPage module page idle s
  | .netLinkDown l => Sys2Proof.Machine.execNetLinkDown l s
  | .netLinkUp l => Sys2Proof.Machine.execNetLinkUp l s
  | .arpRequest l target => Sys2Proof.Machine.execArpRequest l target s
  | .neighborSolicitation l target => Sys2Proof.Machine.execNeighborSolicitation l target s
  | .icmpEcho l dst => Sys2Proof.Machine.execIcmpEcho l dst s
  | .cmMad kind setup => Sys2Proof.Machine.execCmMad kind setup s
  | .roceSend pk => Sys2Proof.Machine.execRoceSend pk s
  | .roceSendWithImmediate pk => Sys2Proof.Machine.execRoceSendWithImmediate pk s
  | .roceSendWithInvalidate pk => Sys2Proof.Machine.execRoceSendWithInvalidate pk s
  | .roceRdmaWrite pk => Sys2Proof.Machine.execRoceRdmaWrite pk s
  | .roceRdmaReadRequest pk => Sys2Proof.Machine.execRoceRdmaReadRequest pk s
  | .roceReadResponse n psn data cmd => Sys2Proof.Machine.execRoceReadResponse n psn data cmd s
  | .roceAck n psn => Sys2Proof.Machine.execRoceAck n psn s
  | .roceNak n psn why cmd => Sys2Proof.Machine.execRoceNak n psn why cmd s
  | .roceCnp n => Sys2Proof.Machine.execRoceCnp n s
  | .rateIncreaseTick r => Sys2Proof.Machine.execRateIncreaseTick r s
  | .qpContextFetched n => Sys2Proof.Machine.execQpContextFetched n s
  | .qpRetransmitTimeout n => Sys2Proof.Machine.execQpRetransmitTimeout n s
  | .wrSend q wr => Sys2Proof.Machine.execWrSend q wr s
  | .wrWrite q wr => Sys2Proof.Machine.execWrWrite q wr s
  | .wrRead qp wr => Sys2Proof.Machine.execWrRead qp wr s
  | .wrSendWithInvalidate qp wr => Sys2Proof.Machine.execWrSendWithInvalidate qp wr s
  | .wrNop q wr => Sys2Proof.Machine.execWrNop q wr s
  | .receiveBufferPost q b setup => Sys2Proof.Machine.execReceiveBufferPost q b setup s
  | .datagramData l pk => Sys2Proof.Machine.execDatagramData l pk s
  | .datagramAck l node session id base bitmap done echo => Sys2Proof.Machine.execDatagramAck l node session id base bitmap done echo s
  | .datagramNak l node session id why => Sys2Proof.Machine.execDatagramNak l node session id why s
  | .datagramHello l node lo hi paths session peerSession => Sys2Proof.Machine.execDatagramHello l node lo hi paths session peerSession s
  | .datagramHelloReply l node version paths session => Sys2Proof.Machine.execDatagramHelloReply l node version paths session s
  | .datagramHelloRetry node => Sys2Proof.Machine.execDatagramHelloRetry node s
  | .datagramProbe l node path => Sys2Proof.Machine.execDatagramProbe l node path s
  | .datagramProbeReply l node path => Sys2Proof.Machine.execDatagramProbeReply l node path s
  | .datagramRetransmitTimeout node id n => Sys2Proof.Machine.execDatagramRetransmitTimeout node id n s
  | .datagramAckDue node id => Sys2Proof.Machine.execDatagramAckDue node id s
  | .pathProbeTimeout node path => Sys2Proof.Machine.execPathProbeTimeout node path s
  | .pathDownProbe node path => Sys2Proof.Machine.execPathDownProbe node path s
  | .reassemblyExpiry node id => Sys2Proof.Machine.execReassemblyExpiry node id s
  | .jalrasHello sub h => Sys2Proof.Machine.execJalrasHello sub h s
  | .jalrasHelloReply sub h => Sys2Proof.Machine.execJalrasHelloReply sub h s
  | .jalrasHeartbeat rx failStopping owned session => Sys2Proof.Machine.execJalrasHeartbeat rx failStopping owned session s
  | .jalrasHeartbeatSend => Sys2Proof.Machine.execJalrasHeartbeatSend s
  | .vaultNotice rx session => Sys2Proof.Machine.execVaultNotice rx session s
  | .serials rx list => Sys2Proof.Machine.execSerials rx list s
  | .ownership rx pool done gen => Sys2Proof.Machine.execOwnership rx pool done gen s
  | .resyncDone rx session => Sys2Proof.Machine.execResyncDone rx session s
  | .sifUpdate rx seq x => Sys2Proof.Machine.execSifUpdate rx seq x s
  | .sifAck rx seq => Sys2Proof.Machine.execSifAck rx seq s
  | .journalGroup rx gseq g cfg => Sys2Proof.Machine.execJournalGroup rx gseq g cfg s
  | .journalAck rx gseq => Sys2Proof.Machine.execJournalAck rx gseq s
  | .release rx seqs => Sys2Proof.Machine.execRelease rx seqs s
  | .mirrorData rx m => Sys2Proof.Machine.execMirrorData rx m s
  | .mirrorAck rx seqs => Sys2Proof.Machine.execMirrorAck rx seqs s
  | .forwardCmd rx id slice e => Sys2Proof.Machine.execForwardCmd rx id slice e s
  | .forwardRsp rx id sct sc err data => Sys2Proof.Machine.execForwardRsp rx id sct sc err data s
  | .proxyMedia rx module cmd gen => Sys2Proof.Machine.execProxyMedia rx module cmd gen s
  | .proxyRsp rx module cmd st temp held => Sys2Proof.Machine.execProxyRsp rx module cmd st temp held s
  | .jalrasRetransmitTimeout sub => Sys2Proof.Machine.execJalrasRetransmitTimeout sub s
  | .jalrasSublinkLoss sub => Sys2Proof.Machine.execJalrasSublinkLoss sub s
  | .peerPartitionTimeout => Sys2Proof.Machine.execPeerPartitionTimeout s
  | .joinRequest h uid session node minV maxV partner => Sys2Proof.Machine.execJoinRequest h uid session node minV maxV partner s
  | .joinAccept h view leader members => Sys2Proof.Machine.execJoinAccept h view leader members s
  | .viewUpdate h view changes => Sys2Proof.Machine.execViewUpdate h view changes s
  | .viewAck h view => Sys2Proof.Machine.execViewAck h view s
  | .clusterProbeTick => Sys2Proof.Machine.execClusterProbeTick s
  | .clusterProbe h nonce => Sys2Proof.Machine.execClusterProbe h nonce s
  | .clusterProbeAck h nonce => Sys2Proof.Machine.execClusterProbeAck h nonce s
  | .clusterProbeTimeout node => Sys2Proof.Machine.execClusterProbeTimeout node s
  | .probeIndirect h target nonce => Sys2Proof.Machine.execProbeIndirect h target nonce s
  | .suspect h node view => Sys2Proof.Machine.execSuspect h node view s
  | .suspectTimeout node => Sys2Proof.Machine.execSuspectTimeout node s
  | .leave h => Sys2Proof.Machine.execLeave h s
  | .trafficKeyPreviousExpiry node => Sys2Proof.Machine.execTrafficKeyPreviousExpiry node s
  | .replOpen h rel src remote sync unitLog size kcv => Sys2Proof.Machine.execReplOpen h rel src remote sync unitLog size kcv s
  | .replOpenAck h rel status => Sys2Proof.Machine.execReplOpenAck h rel status s
  | .replDelta h rel base epoch entries => Sys2Proof.Machine.execReplDelta h rel base epoch entries s
  | .replDeltaAck h rel missing changed idle => Sys2Proof.Machine.execReplDeltaAck h rel missing changed idle s
  | .replUnits h rel base epoch units => Sys2Proof.Machine.execReplUnits h rel base epoch units s
  | .replCommit h rel epoch => Sys2Proof.Machine.execReplCommit h rel epoch s
  | .replCommitAck h rel epoch => Sys2Proof.Machine.execReplCommitAck h rel epoch s
  | .repairRequest h rel ranges => Sys2Proof.Machine.execRepairRequest h rel ranges s
  | .repairData h rel entries units => Sys2Proof.Machine.execRepairData h rel entries units s
  | .replWrite h rel off seq len data => Sys2Proof.Machine.execReplWrite h rel off seq len data s
  | .replWriteAck h rel seq => Sys2Proof.Machine.execReplWriteAck h rel seq s
  | .xtsEncrypt r => Sys2Proof.Machine.execXtsEncrypt r s
  | .xtsDecrypt r => Sys2Proof.Machine.execXtsDecrypt r s
  | .xtsReencrypt r => Sys2Proof.Machine.execXtsReencrypt r s
  | .gcmOpen r => Sys2Proof.Machine.execGcmOpen r s
  | .gcmData r => Sys2Proof.Machine.execGcmData r s
  | .gcmClose r => Sys2Proof.Machine.execGcmClose r s
  | .rawEncrypt r => Sys2Proof.Machine.execRawEncrypt r s
  | .rawDecrypt r => Sys2Proof.Machine.execRawDecrypt r s
  | .keySlotFill index gen => Sys2Proof.Machine.execKeySlotFill index gen s
  | .dgsAlloc agent => Sys2Proof.Machine.execDgsAlloc agent s
  | .dgsCtxOpen agent n v key dest => Sys2Proof.Machine.execDgsCtxOpen agent n v key dest s
  | .dgsCtxClose agent n => Sys2Proof.Machine.execDgsCtxClose agent n s
  | .dgsCtxLengthWrite agent n len => Sys2Proof.Machine.execDgsCtxLengthWrite agent n len s
  | .dgsDataPortWrite agent n data => Sys2Proof.Machine.execDgsDataPortWrite agent n data s
  | .dgsCtxCmp agent n expect => Sys2Proof.Machine.execDgsCtxCmp agent n expect s
  | .dgsEcdsaVerify agent operands => Sys2Proof.Machine.execDgsEcdsaVerify agent operands s
  | .dgsEcdsaSign agent operands => Sys2Proof.Machine.execDgsEcdsaSign agent operands s
  | .ecdsaOperationDone => Sys2Proof.Machine.execEcdsaOperationDone s
  | .udmaOwnerRead n who => Sys2Proof.Machine.execUdmaOwnerRead n who s
  | .udmaOwnerRelease n p => Sys2Proof.Machine.execUdmaOwnerRelease n p s
  | .udmaStart n who ctrl => Sys2Proof.Machine.execUdmaStart n who ctrl s
  | .udmaEnableClear n who ctrl => Sys2Proof.Machine.execUdmaEnableClear n who ctrl s
  | .udmaCqHeadWrite n who v => Sys2Proof.Machine.execUdmaCqHeadWrite n who v s
  | .udmaTimerTick n => Sys2Proof.Machine.execUdmaTimerTick n s
  | .udmaRunComplete n how => Sys2Proof.Machine.execUdmaRunComplete n how s
  | .errorDetected e fatal => Sys2Proof.Machine.execErrorDetected e fatal s
  | .errorRepeatResult d pass => Sys2Proof.Machine.execErrorRepeatResult d pass s
  | .handlerTimeout d => Sys2Proof.Machine.execHandlerTimeout d s
  | .fencedUnitRetry d => Sys2Proof.Machine.execFencedUnitRetry d s
  | .unitSelfTestDone d pass => Sys2Proof.Machine.execUnitSelfTestDone d pass s
  | .govPeriodBoundary => Sys2Proof.Machine.execGovPeriodBoundary s
  | .evrRecordWritten => Sys2Proof.Machine.execEvrRecordWritten s
  | .evrClear p => Sys2Proof.Machine.execEvrClear p s
  | .evrClearDone => Sys2Proof.Machine.execEvrClearDone s
  | .evrWindowRead p k => Sys2Proof.Machine.execEvrWindowRead p k s
  | .perstDeassert p at_ => Sys2Proof.Machine.execPerstDeassert p at_ s
  | .resetHoldOffExpiry => Sys2Proof.Machine.execResetHoldOffExpiry s
  | .chainInStuck level => Sys2Proof.Machine.execChainInStuck level s
  | .kamardNakRepeat port => Sys2Proof.Machine.execKamardNakRepeat port s
  | .jalrasNak sub seq => Sys2Proof.Machine.execJalrasNak sub seq s
  | .jalrasAckDue sub => Sys2Proof.Machine.execJalrasAckDue sub s
  | .jalrasTrainingDone sub => Sys2Proof.Machine.execJalrasTrainingDone sub s
  | .jalrasRetrainDone sub ok => Sys2Proof.Machine.execJalrasRetrainDone sub ok s
  | .routerAdvertisement l pre autonomous valid preferred => Sys2Proof.Machine.execRouterAdvertisement l pre autonomous valid preferred s
  | .dhcpv4Message l kind ip lease => Sys2Proof.Machine.execDhcpv4Message l kind ip lease s
  | .dhcpv4LeaseTimer l => Sys2Proof.Machine.execDhcpv4LeaseTimer l s
  | .pfcFrame l prio quanta => Sys2Proof.Machine.execPfcFrame l prio quanta s
  | .clusterJoinTimeout answered => Sys2Proof.Machine.execClusterJoinTimeout answered s
  | .clusterLeaveTimeout => Sys2Proof.Machine.execClusterLeaveTimeout s
  | .viewChangeTimeout => Sys2Proof.Machine.execViewChangeTimeout s
  | .fwArmed fail => Sys2Proof.Machine.execFwArmed fail s
  | .interruptCoalescingTimeout ctrl cq => Sys2Proof.Machine.execInterruptCoalescingTimeout ctrl cq s
  | .pcieCompletionTimeout r => Sys2Proof.Machine.execPcieCompletionTimeout r s
  | .configurationRequest p upper q serves => Sys2Proof.Machine.execConfigurationRequest p upper q serves s
  | .atsInvalidationRequest p upper pasid page count itag => Sys2Proof.Machine.execAtsInvalidationRequest p upper pasid page count itag s
  | .pageRequestGroupResponse p group granted => Sys2Proof.Machine.execPageRequestGroupResponse p group granted s
  | .vddAonUp => Sys2Proof.Machine.execVddAonUp s
  | .vddAonDown => Sys2Proof.Machine.execVddAonDown s

end Sys2Proof.Machine
end

