-- ==== Sys2Proof/Safety.lean ====
section
/-! DEFINITION. Safety.lean: what a safe run is, in the terms that statements use. -/
namespace Sys2Proof
open Machine

/-- The command completes: exec answers a next state. -/
def completes (c : Instr) (s : State) : Prop := ∃ t, exec c s = .next t

/-- The step goes on: neither a fault nor a refusal. -/
def goesOn (s : State) : Prop := ∃ t, step s = .next t

/-- A run of n steps that never stops. -/
def runsOn : Nat → State → Prop
  | 0, _ => True
  | n + 1, s => ∃ t, step s = .next t ∧ runsOn n t

/-- n steps, none of which stops, lead from the first state to the second. -/
def leadsTo : Nat → State → State → Prop
  | 0, s, t => t = s
  | n + 1, s, t => ∃ u, step s = .next u ∧ leadsTo n u t

/-- Nothing holds back the mailbox request `c` with these fields: the part runs, the request has been received and its turn has come (R120, R128), the port's session, the version, the opcode and the chip's state let it in (R125, R130, R131), and its port holds semaphore 0 where it needs it (R120). -/
abbrev startsNow (info : CmdInfo) (h : MbxHdr) (fs : List BodyField) (c : MCmd) (s : State) : Prop :=
  s.phase = .run ∧ mbxFind info.opcode h fs s = some c ∧ ringTurn c s = true ∧ mbxRefusal info h s = none ∧
    (info.sem = true → (s.sem 0).owner = some h.port ∧ semTurn c s = true)

/-- The state in which a mailbox request has left the queue of accepted ones. -/
def taken (c : MCmd) (s : State) : State := mbxUnqueue c s

/-- The command goes on after its start: it runs until a later step completes it, and holds the turn of commands that need semaphore 0 where it is one of them (R120). -/
def underWay (c : MCmd) (info : CmdInfo) (s : State) : State :=
  { s with mbx := { s.mbx with running := s.mbx.running ++ [c], semRunning := if info.sem then some c else s.mbx.semRunning } }

/-- The last response that waits to be written is the command's: SUCCESS with this body. -/
def answeredOk (c : MCmd) (body : List Byte) (t : State) : Prop :=
  ∃ d, t.mbx.done.getLast? = some d ∧ d.cmd = c ∧ d.reply.status = .success ∧ d.reply.body = body

/-- A cluster message that a member takes: its tag is right, it names this cluster, both ends are members, its version is spoken with its sender, and its key generation and counter are acceptable (R425 to R428). `t` is the traffic state that its acceptance leaves. -/
abbrev fromMember (h : CluHdr) (m : CluMsg) (t : Traffic) (s : State) : Prop :=
  s.phase = .run ∧ cluTagHolds s h m = true ∧ h.clusterId = s.cluster.id ∧ s.cluster.member = true ∧ Tbl.has s.cluster.members h.src = true ∧
    h.version ≠ 0 ∧ h.version ≤ clusterVersion s h.src ∧ acceptGen s.time.toNat h.keyGen (Tbl.getD s.cluster.traffic h.src {}) = some t

/-- The state in which the message has been accepted. -/
def heard (h : CluHdr) (t : Traffic) (s : State) : State := s.clu fun c => { c with traffic := Tbl.set c.traffic h.src t }

/-- A cluster message of the target of the relationship `rel`, `x`, that this head is the source of. -/
abbrev fromTarget (h : CluHdr) (m : CluMsg) (u : Traffic) (rel : Nat) (x : Repl) (s : State) : Prop :=
  fromMember h m u s ∧ Tbl.find s.repls rel = some x ∧ x.source = true ∧ x.node = h.src ∧ x.state ≠ .stopped

/-- A cluster message of the source of the relationship that it calls `rel`, for which this head is the target and holds `x`. -/
abbrev fromSource (h : CluHdr) (m : CluMsg) (u : Traffic) (rel : Nat) (x : Repl) (s : State) : Prop :=
  fromMember h m u s ∧ Tbl.find s.repls (targetKey h.src rel) = some x ∧ x.state ≠ .stopped ∧ x.state ≠ .diverged

/-- A Jalras message of a class that is handed over now: all of its frames are accepted and it is the next of its class (R407, R409). -/
abbrev fromPeer (rx : JalRx) (c : Nat) (s : State) : Prop :=
  s.phase = .run ∧ rx.parts ≠ [] ∧ (jalParts rx.parts s).2 = true ∧ rx.msgSeq = (jalParts rx.parts s).1.jal.rxMsg.getD c 0

/-- The state in which its frames have been accepted and its turn has come. -/
def jalNow (rx : JalRx) (c : Nat) (s : State) : State := jalTurn c (jalParts rx.parts s).1

/-- A network port that takes a frame. -/
abbrev onLink (l : Nat) (s : State) : Prop := s.phase = .run ∧ lportUp s l = true

/-- A connected-class request at the expected PSN of a queue pair whose context is cached and which holds nothing back (R378, R379). -/
abbrev atQp (pk : RocePkt) (q : Qp) (s : State) : Prop :=
  onLink pk.lport s ∧ Tbl.find s.net.qps pk.qp = some q ∧ q.lport = pk.lport ∧ pk.pkey = 0xFFFF ∧ q.cached = true ∧ q.parked = [] ∧
    q.state ≠ .error ∧ psnDist q.ePsn pk.psn = 0

/-- The state in which the queue pair has met the packet: its frame counted, its congestion mark noted, its context used. -/
def qpMet (pk : RocePkt) (q : Qp) (s : State) : State := touchQp pk.qp (noteCe pk.qp q pk.ce (frameIn pk.lport s))

/-- A DATAGRAM_DATA packet of the session and version that its sender and this chip agreed on, for a message that is not complete (R388). -/
abbrev dgWelcome (l : Nat) (pk : DataPkt) (s : State) : Prop :=
  onLink l s ∧ pk.dst = ownNode s ∧ pktSound pk = true ∧ (s.dpeer pk.node).session = some pk.session ∧ (s.dpeer pk.node).rxVersion = pk.version ∧
    ((s.dpeer pk.node).rxVersion = 1 → pk.write = false) ∧ completedId (s.dpeer pk.node) pk.msgId = false

/-- The state in which the packet's frame has been counted, with its congestion mark. -/
def dgMet (l : Nat) (pk : DataPkt) (s : State) : State := if pk.ce then bumpL l 7 1 (frameIn l s) else frameIn l s

/-- A controller is enabled, its slice is active, and a command waits in its admin queue (R147, R190). -/
def adminReady (c : Ctrl) (s : State) : Bool :=
  c.enabled && (match Tbl.find s.slices c.slice with | some sl => decide (sl.state = .active) | none => false)
    && (match Tbl.find c.sqs 0 with | some q => q.head ≠ q.tail | none => false)

/-- An NVMe controller that runs an admin command. -/
abbrev adminOn (ctrl : Nat) (c : Ctrl) (s : State) : Prop :=
  s.phase = .run ∧ Tbl.find s.host.ctrls ctrl = some c ∧ adminReady c s = true

/-- The state in which the command has left its queue. -/
def adminTaken (ctrl : Nat) (s : State) : State := takeEntry ctrl 0 s

/-- The state that an admin command with the effect `f` leaves: the other head hears of queue pairs that opened or closed (R197), and slices that wait for their commands are looked at (R198, R203). -/
def afterAdmin (ctrl : Nat) (f : State → State) (s : State) : State := settleAll (pairsMove f (adminTaken ctrl s))

/-- The state in which the map entries of a command's range have been looked up. -/
def mapsRead (c : Inflight) (s : State) : State := (startRead.mapUnits c s).foldl (fun s u => cacheRead 0 (mapItem c.nsid u) s) s

/-- The state in which a command holds the host's blocks that it asked for. -/
def hostGiven (id : Nat) (c : Inflight) (host : List Nat) (s : State) : State := (hostHalf c s).modCmd id fun c => { c with data := host }

/-- The state in which background work of a lane has left the queue behind its foreground batches. -/
def laneTaken (lane : Nat) (pair : Nat × Nat) (s : State) : State :=
  s.grind fun g => { g with lanes := Tbl.set g.lanes lane { Tbl.getD g.lanes lane {} with back := (Tbl.getD g.lanes lane {}).back.filter (· ≠ pair) } }

/-- A programmed owner slot stays programmed and keeps its hash. -/
def slotKeeps (a b : OwnerSlot) : Prop := a.programmed = true → b.programmed = true ∧ b.hash = a.hash

/-- The fuses after are those before with more bits blown: identity rows, DEVICE_SECRET and repair rows keep their contents, a blown fuse of the incremental area stays blown (ROLLBACK, KEY_REVOKE, DEBUG_LOCK, DEBUG_PERMANENT and reserved bits), programmed owner slots keep their hashes (R86, R87). -/
def fusesGrow (a b : Fuses) : Prop :=
  b.uid = a.uid ∧ b.vendorHash = a.vendorHash ∧ b.secret = a.secret ∧ b.factoryRepairs = a.factoryRepairs ∧
    (∀ i, a.incr.getLsbD i = true → b.incr.getLsbD i = true) ∧ slotKeeps a.owner0 b.owner0 ∧ slotKeeps a.owner1 b.owner1 ∧
    slotKeeps a.owner2 b.owner2 ∧ slotKeeps a.owner3 b.owner3

end Sys2Proof
end

