-- ==== Sys2Proof/WellFormed.lean ====
section
/-! DEFINITION. WellFormed.lean: which terms of the syntax are commands that the part could be given: every number within the width of the field or identifier it stands for, every byte string of the length that its format gives. A value that a rule refuses or answers is well-formed. -/
namespace Sys2Proof

/-- A number fits a field of w bits. -/
def fitsIn (w n : Nat) : Bool := decide (n < 2 ^ w)

/-- A byte string has the length that its format gives. -/
def sized (n : Nat) (l : List Byte) : Bool := decide (l.length = n)

/-- A node identifier, of 13 bits (R106). -/
def nodeOk (n : Nat) : Bool := fitsIn 13 n

def MbxHdr.wf (h : MbxHdr) : Bool := fitsIn 8 h.version

/-- Request fields as they stand in memory (R121). -/
def MbxMsg.wf (m : MbxMsg) : Bool := fitsIn 16 m.opcode && fitsIn 16 m.length && fitsIn 8 m.version

/-- An image's header has 256 bytes (R80). -/
def ImageObs.wf (o : ImageObs) : Bool := sized 256 o.header

def Signed.wf (g : Signed) : Bool := fitsIn 8 g.signerSlot && sized 97 g.signerKey && sized 32 g.nonce && sized 96 g.signature

/-- 256 rows of 64 fuses, units of domains 5 to 63, repair records of 32 bytes, a factory block of 4 KiB, certificates of up to 16 KiB (R70, R78, R85, R492). P-384 public keys have 97 bytes, digests 48, signatures 96 (R80, R90). -/
def BootObs.wf (o : BootObs) : Bool :=
  o.rowErrors.all (fun r => fitsIn 8 r.1) && o.repairReads.all (fun r => fitsIn 11 r.1 && sized 32 r.2) && sized 4096 o.factory
    && decide (o.devCert.length ≤ 16384) && decide (o.intCert.length ≤ 16384) && o.unitFails.all fun d => decide (5 ≤ d) && decide (d < 64)

/-- Lengths of SGL descriptors have 32 bits. -/
def DataPtr.wf : DataPtr → Bool
  | .keyed l => l.all fun x => fitsIn 32 x.len
  | .sgl l => l.all fun x => fitsIn 32 x.2
  | .capsule n => fitsIn 32 n
  | .none | .prp _ _ | .other => true

/-- Fields of a submission queue entry (R157). -/
def SubEntry.wf (e : SubEntry) : Bool :=
  fitsIn 16 e.cid && fitsIn 32 e.nsid && fitsIn 64 e.slba && decide (e.nlb ≤ 65536) && e.ptr.wf && e.absent.all fun p => fitsIn 52 p

def JalPart.wf (x : JalPart) : Bool := decide (x.sub < 4) && fitsIn 32 x.seq && fitsIn 32 x.frames && fitsIn 32 x.ack
def JalRx.wf (x : JalRx) : Bool := fitsIn 32 x.msgSeq && x.parts.all JalPart.wf
def JalHello.wf (h : JalHello) : Bool := fitsIn 8 h.minV && fitsIn 8 h.maxV && fitsIn 8 h.journalMin && fitsIn 8 h.journalMax && fitsIn 16 h.nodeId && fitsIn 5 h.enclosure
def CluHdr.wf (h : CluHdr) : Bool := nodeOk h.src && fitsIn 8 h.version && fitsIn 64 h.view && decide (h.tag.length = 16)

/-- Packet and sequence numbers of RoCE, of 24 bits, on one of 32 logical ports (R377). -/
def RocePkt.wf (p : RocePkt) : Bool := fitsIn 24 p.qp && decide (p.lport < 32) && fitsIn 24 p.psn && decide (1 ≤ p.packets) && fitsIn 32 p.readLen
def WorkReq.wf (w : WorkReq) : Bool := nodeOk w.dstNode && fitsIn 16 w.dstEp && fitsIn 32 w.length && fitsIn 16 w.trigOut && fitsIn 16 w.trigIn && fitsIn 16 w.remoteTrig
def DataPkt.wf (p : DataPkt) : Bool :=
  nodeOk p.node && nodeOk p.dst && fitsIn 4 p.version && fitsIn 3 p.attempt && fitsIn 4 p.path && fitsIn 8 p.pktLog2 && fitsIn 16 p.srcEp && fitsIn 16 p.dstEp && fitsIn 32 p.totalLen
    && fitsIn 32 p.offset && fitsIn 16 p.payloadLen && fitsIn 16 p.trig
def NetQ.wf : NetQ → Bool
  | .qp n => fitsIn 24 n
  | .ep n => fitsIn 16 n

/-- AGENT of 8 bits, a context of 64 (R455, R457). -/
def CipherReq.wf (r : CipherReq) : Bool := fitsIn 8 r.agent && fitsIn 8 r.ctx && fitsIn 8 r.weight

/-- An error of classes 1 to 5 in one of 64 domains (R488, R496); a fatal one in the service processor (domain 1), or in the fabric or the always-on domain (R494). -/
def errorOk (e : ErrObs) (fatal : Option (Fin 3)) : Bool :=
  fitsIn 6 e.domain && fitsIn 8 e.unit && fitsIn 8 e.agent && match fatal with
    | some f => if f.val < 2 then decide (e.domain = 1) else decide (e.domain = 0 ∨ e.domain = 4)
    | none => decide (1 ≤ e.code.toNat / 256) && decide (e.code.toNat / 256 ≤ 5)

/-- Doorbell pages and BAR4 are accessed in words (R189). -/
def RegTarget.wf : RegTarget → Bool
  | .bar0 _ _ => true
  | .page _ _ _ off => decide (off.toNat % 4 = 0)
  | .bar4 _ off => decide (off.toNat % 4 = 0)

def ArpCmd.wf : ArpCmd → Bool
  | .assign udid _ => sized 16 udid
  | .prepare | .reset | .getUdid => true

def TraceEnt.wf (e : TraceEnt) : Bool := sized 20 e.data

/-- Well-formed commands, by constructor. -/
def Instr.wf : Instr → Bool
  | .pwrgoodAssert _ => true
  | .pwrgoodDeassert _ => true
  | .resetNAssert _ => true
  | .chipResetExit obs _ => obs.wf
  | .boardIdSample _ _ => true
  | .pwrfailNAssert _ _ => true
  | .pwrfailStableDeassert => true
  | .pwrfailStuck => true
  | .inputLatchRelease _ => true
  | .perstAssert _ _ => true
  | .perstStuck _ => true
  | .peerAliveChange _ _ => true
  | .peerAliveTimeout => true
  | .chainHeadTaken => true
  | .chainHeadFrameSend => true
  | .chainFrameReceived _ _ => true
  | .chainNoFrameTimeout => true
  | .domainSwitchOnRequest _ => true
  | .domainSwitchOffRequest _ _ => true
  | .domainRampDone _ => true
  | .portDomainJudge _ _ => true
  | .unusedDomainRetry _ => true
  | .refclkLost _ _ => true
  | .refclkRestored _ => true
  | .crystalLost _ => true
  | .crystalSwitchover => true
  | .sysrefLost _ => true
  | .sysrefRestored => true
  | .railAlarm _ _ => true
  | .railRestored _ => true
  | .tempSample dies hbm => sized 16 dies && sized 4 hbm
  | .lifeCountTick => true
  | .aonHourTick _ => true
  | .laneEyeCheck _ _ _ => true
  | .imageVerifyDone _ o => o.wf
  | .hbmTrainingDone => true
  | .ddrTrainingDone dimms _ => decide (dimms.length ≤ 16)
  | .controlCoreStart => true
  | .vaultReplay _ _ _ _ => true
  | .journalReplay _ _ => true
  | .primaryRegionRestore => true
  | .hotReset _ => true
  | .functionLevelReset _ => true
  | .dataLinkDown _ => true
  | .hostLinkUp _ _ _ => true
  | .busMasterEnableCleared _ => true
  | .busMasterEnableSet _ => true
  | .semRead _ _ => true
  | .semReleaseWrite _ _ _ => true
  | .semLeaseRenew _ => true
  | .semLeaseExpiry _ => true
  | .mbxImmDoorbell _ _ => true
  | .mbxImmDeferredServe _ => true
  | .mbxReqTail _ _ => true
  | .ringRequestFetch _ got => got.all MbxMsg.wf
  | .mbxRspHead _ _ => true
  | .mbxRingCtrlWrite _ _ => true
  | .mailboxResponse _ _ _ => true
  | .intEnableWrite _ _ => true
  | .bar0AccessError _ _ _ => true
  | .registerWrite t _ _ => t.wf
  | .registerRcRead t _ => t.wf
  | .registerLowHalfRead _ _ => true
  | .mailboxHello h _ _ _ => h.wf
  | .chipInfoGet h => h.wf
  | .bootStatusGet h => h.wf
  | .nodeEnclosureSet h _ => h.wf
  | .hostPortConfig h _ _ => h.wf
  | .alarmList h _ _ => h.wf
  | .alarmAck h _ _ => h.wf
  | .errorQueueRead h _ _ => h.wf
  | .fuseRead h => h.wf
  | .fuseNonceGet h => h.wf
  | .fuseOwnerKeyProgram h _ key g _ => h.wf && g.wf && sized 97 key
  | .fuseOwnerKeyRevoke h _ g _ => h.wf && g.wf
  | .fuseRollbackAdvance h _ _ => h.wf
  | .fuseDebugPermanent h g _ => h.wf && g.wf
  | .debugUnlock h g => h.wf && g.wf
  | .attestReport h nonce _ _ _ => h.wf && sized 32 nonce
  | .recoveryLoad h _ _ _ got => h.wf && got.all ImageObs.wf
  | .fwStage h _ len _ got => h.wf && got.all (sized len.toNat)
  | .fwStagingDone _ => true
  | .fwActivateHitless h => h.wf
  | .fwHandoverFreeze _ => true
  | .fwActivateNextStart h mode => h.wf && decide (1 ≤ mode.toNat)
  | .fwConfirm h => h.wf
  | .fwRegionsSynced => true
  | .fwStatusGet h => h.wf
  | .fwAbort h => h.wf
  | .fwWindowExpiry => true
  | .fwHeartbeatGap => true
  | .poolCreate h _ _ _ _ => h.wf
  | .poolDelete h _ => h.wf
  | .memberTrimDone _ => true
  | .poolQuery h _ => h.wf
  | .poolModuleAdd h _ _ => h.wf
  | .poolReshape h _ _ _ _ => h.wf
  | .moduleQuery h _ => h.wf
  | .moduleRetire h _ => h.wf
  | .volumeCreate h _ _ _ _ _ _ _ _ => h.wf
  | .volumeDelete h _ => h.wf
  | .volumeResize h _ _ => h.wf
  | .volumeQuery h _ => h.wf
  | .sliceCreate h _ _ _ _ _ => h.wf
  | .sliceResize h _ _ _ _ => h.wf
  | .sliceReset h _ _ => h.wf
  | .sliceResetDrainTimeout _ => true
  | .sliceDelete h _ => h.wf
  | .sliceDirtyLogStart h _ op => h.wf && (decide (op = 0) || decide (2 < op.toNat))
  | .sliceDirtyLogHarvest h _ _ _ _ => h.wf
  | .sliceDirtyLogStop h _ _ _ _ _ => h.wf
  | .keyLoad h index kind wrapped => h.wf && fitsIn 8 kind && sized 72 wrapped && decide (index ≠ 0xFFFFFFFF)
  | .ktwkLoad h wrapped => h.wf && sized 72 wrapped
  | .keyRotate h index wrapped => h.wf && sized 72 wrapped && decide (index ≠ 0xFFFFFFFF)
  | .ktwkRotate h wrapped => h.wf && sized 72 wrapped
  | .keyDestroy h _ => h.wf
  | .keyQuery h _ => h.wf
  | .snapshotCreate h _ => h.wf
  | .snapshotCutTimeout _ => true
  | .snapshotSealed _ => true
  | .snapshotDelete h _ _ => h.wf
  | .cloneCreate h _ _ _ => h.wf
  | .replCreate h _ _ _ _ _ => h.wf
  | .replControlPause h _ op => h.wf && (decide (op = 0) || decide (3 < op.toNat))
  | .replControlResume h _ => h.wf
  | .replControlStop h _ => h.wf
  | .replControlRepair h _ => h.wf
  | .replQuery h _ => h.wf
  | .replCycleDue rel => fitsIn 32 rel
  | .peerStatusGet h => h.wf
  | .failoverTakeOver h op => h.wf && decide (op ≠ 1)
  | .failoverGiveBack h => h.wf
  | .clusterJoin h _ _ => h.wf
  | .clusterLeave h => h.wf
  | .netPortConfig h _ _ _ _ => h.wf
  | .netPortQuery h _ corrected uncorrected => h.wf && fitsIn 64 corrected && fitsIn 64 uncorrected
  | .govSharesSet h _ _ _ => h.wf
  | .statsGet h g _ _ _ => h.wf && !(decide (0x4000 ≤ g.toNat) && decide (g.toNat < 0x4008))
  | .statsGetTrace h _ _ _ wrote _ => h.wf && wrote.all TraceEnt.wf
  | .mctpSetEndpointId _ _ _ => true
  | .mctpGetEndpointId _ => true
  | .mctpGetVersionSupport _ _ => true
  | .mctpGetMessageTypeSupport _ => true
  | .smbusArp _ c => c.wf
  | .pldmGetTid _ => true
  | .pldmGetPldmVersion _ _ => true
  | .pldmGetPldmTypes _ => true
  | .pldmGetPldmCommands _ _ => true
  | .pldmSensorRead _ _ => true
  | .pollForPlatformEventMessage _ => true
  | .molzonAttestationRequest _ nonce => sized 32 nonce
  | .molzonAlarmNotificationRequest _ => true
  | .molzonBootStatusRequest _ code => decide (code ≠ 1 ∧ code ≠ 2)
  | .jtagBypass => true
  | .jtagSamplePreload _ => true
  | .jtagExtest => true
  | .jtagIdcode => true
  | .jtagClamp => true
  | .jtagHighz => true
  | .jtagExtestPulse => true
  | .jtagExtestTrain => true
  | .sqTailDoorbell _ sq _ => decide (sq ≤ 1024)
  | .cqHeadDoorbell _ cq _ => decide (cq ≤ 1024)
  | .ccWrite _ _ => true
  | .nvmeCommandFetch ctrl sq e => fitsIn 16 ctrl && fitsIn 16 sq && e.wf
  | .deleteIoSubmissionQueue ctrl cid qid => fitsIn 16 ctrl && fitsIn 16 cid && fitsIn 16 qid
  | .createIoSubmissionQueue ctrl cid qid size cqid _ _ _ => fitsIn 16 ctrl && fitsIn 16 cid && fitsIn 16 qid && fitsIn 17 size && fitsIn 16 cqid
  | .getLogPage ctrl cid lid off len ptr => fitsIn 16 ctrl && fitsIn 16 cid && fitsIn 8 lid && fitsIn 64 off && fitsIn 34 len && ptr.wf
  | .deleteIoCompletionQueue ctrl cid qid => fitsIn 16 ctrl && fitsIn 16 cid && fitsIn 16 qid
  | .createIoCompletionQueue ctrl cid qid size _ _ _ => fitsIn 16 ctrl && fitsIn 16 cid && fitsIn 16 qid && fitsIn 17 size
  | .identify ctrl cid cns nsid ptr => fitsIn 16 ctrl && fitsIn 16 cid && fitsIn 8 cns && fitsIn 32 nsid && ptr.wf
  | .abort ctrl cid sq tcid => fitsIn 16 ctrl && fitsIn 16 cid && fitsIn 16 sq && fitsIn 16 tcid
  | .setFeatures ctrl cid fid _ _ ptr => fitsIn 16 ctrl && fitsIn 16 cid && fitsIn 8 fid && ptr.wf
  | .getFeatures ctrl cid fid _ ptr => fitsIn 16 ctrl && fitsIn 16 cid && fitsIn 8 fid && ptr.wf
  | .asynchronousEventRequest ctrl cid => fitsIn 16 ctrl && fitsIn 16 cid
  | .keepAlive ctrl cid => fitsIn 16 ctrl && fitsIn 16 cid
  | .keepAliveTimeout ctrl => fitsIn 16 ctrl
  | .formatNvm ctrl cid nsid lbaf ses => fitsIn 16 ctrl && fitsIn 16 cid && fitsIn 32 nsid && fitsIn 6 lbaf && fitsIn 3 ses
  | .connect qp cntlid qid size attr _ _ => fitsIn 24 qp && fitsIn 16 cntlid && fitsIn 16 qid && fitsIn 17 size && fitsIn 32 attr.kato
  | .propertyGet ctrl cid _ => fitsIn 16 ctrl && fitsIn 16 cid
  | .propertySet ctrl cid _ _ => fitsIn 16 ctrl && fitsIn 16 cid
  | .disconnect ctrl qid cid => fitsIn 16 ctrl && fitsIn 16 qid && fitsIn 16 cid
  | .flush _ => true
  | .write _ => true
  | .read _ => true
  | .writeUncorrectable _ => true
  | .compare _ _ => true
  | .compareAndWrite _ _ => true
  | .writeZeroes _ => true
  | .datasetManagement _ => true
  | .verify _ => true
  | .privetLockGrant _ => true
  | .writeAdmission => true
  | .writeStagedWhole _ _ => true
  | .batchClose nsid => fitsIn 32 nsid
  | .indexLookup _ _ _ => true
  | .batchDone _ _ => true
  | .decompressDone _ _ _ => true
  | .coldDedupMatch _ _ _ => true
  | .segmentClose _ _ => true
  | .journalGroupCommit => true
  | .compactionStart _ => true
  | .compactionPagesProgrammed => true
  | .scratchpadConvert => true
  | .scratchpadReturn => true
  | .vaultFlushDone => true
  | .openSegmentCheck _ _ => true
  | .memberFailed _ => true
  | .rebuildSegment _ _ _ => true
  | .segmentRelease _ _ => true
  | .topiaryMove _ _ _ => true
  | .reshapeSwitchOver _ => true
  | .kamardSignalDetect _ _ => true
  | .kamardAcquireDone _ => true
  | .kamardAcquireTimeout _ => true
  | .kamardHelloRetry _ => true
  | .kamardHelloReply _ version _ _ _ => fitsIn 8 version
  | .kamardModuleInfoResponse _ tag _ _ _ => fitsIn 16 tag
  | .kamardClaimResponse _ tag _ _ => fitsIn 16 tag
  | .kamardReadResponse _ tag _ _ => fitsIn 16 tag
  | .kamardProgramResponse _ tag _ _ _ => fitsIn 16 tag
  | .kamardEraseResponse _ tag _ _ => fitsIn 16 tag
  | .kamardThreshLoadResponse _ tag _ => fitsIn 16 tag
  | .kamardVaultProgramResponse _ tag _ => fitsIn 16 tag
  | .kamardVaultEraseResponse _ tag _ => fitsIn 16 tag
  | .kamardBridgeFwWriteResponse _ tag _ => fitsIn 16 tag
  | .kamardBridgeFwActivateResponse _ tag _ => fitsIn 16 tag
  | .bridgeRestartTimeout _ => true
  | .kamardAck _ _ => true
  | .kamardNak _ _ => true
  | .kamardFrameDropped _ _ => true
  | .kamardRetransmitTimeout _ => true
  | .kamardKeepalive _ => true
  | .kamardLinkLoss _ => true
  | .kamardRetrainDone _ _ => true
  | .kamardDownRetry _ _ => true
  | .pageVerify _ _ _ => true
  | .ldpcDecodeDone _ _ _ _ => true
  | .bandIdleClose _ _ => true
  | .moduleInfoPoll _ => true
  | .blockReclaim _ _ _ => true
  | .segmentCleaning _ _ _ => true
  | .scrubPage _ _ _ => true
  | .netLinkDown _ => true
  | .netLinkUp _ => true
  | .arpRequest _ _ => true
  | .neighborSolicitation _ _ => true
  | .icmpEcho _ _ => true
  | .cmMad _ _ => true
  | .roceSend pk => pk.wf
  | .roceSendWithImmediate pk => pk.wf
  | .roceSendWithInvalidate pk => pk.wf
  | .roceRdmaWrite pk => pk.wf
  | .roceRdmaReadRequest pk => pk.wf
  | .roceReadResponse n psn _ _ => fitsIn 24 n && fitsIn 24 psn
  | .roceAck n psn => fitsIn 24 n && fitsIn 24 psn
  | .roceNak n psn _ _ => fitsIn 24 n && fitsIn 24 psn
  | .roceCnp n => fitsIn 24 n
  | .rateIncreaseTick _ => true
  | .qpContextFetched n => fitsIn 24 n
  | .qpRetransmitTimeout n => fitsIn 24 n
  | .wrSend q wr => q.wf && wr.wf
  | .wrWrite q wr => q.wf && wr.wf
  | .wrRead qp wr => fitsIn 24 qp && wr.wf
  | .wrSendWithInvalidate qp wr => fitsIn 24 qp && wr.wf
  | .wrNop q wr => q.wf && wr.wf
  | .receiveBufferPost q _ _ => q.wf
  | .datagramData _ pk => pk.wf
  | .datagramAck _ node _ _ _ _ _ _ => nodeOk node
  | .datagramNak _ node _ _ _ => nodeOk node
  | .datagramHello _ node lo hi paths _ _ => nodeOk node && fitsIn 8 lo && fitsIn 8 hi && fitsIn 8 paths
  | .datagramHelloReply _ node version paths _ => nodeOk node && fitsIn 8 version && fitsIn 8 paths
  | .datagramHelloRetry node => nodeOk node
  | .datagramProbe _ node path => nodeOk node && fitsIn 8 path
  | .datagramProbeReply _ node path => nodeOk node && fitsIn 8 path
  | .datagramRetransmitTimeout node _ _ => nodeOk node
  | .datagramAckDue node _ => nodeOk node
  | .pathProbeTimeout node path => nodeOk node && fitsIn 8 path
  | .pathDownProbe node path => nodeOk node && fitsIn 8 path
  | .reassemblyExpiry node _ => nodeOk node
  | .jalrasHello _ h => h.wf
  | .jalrasHelloReply _ h => h.wf
  | .jalrasHeartbeat rx _ _ _ => rx.wf
  | .jalrasHeartbeatSend => true
  | .vaultNotice rx _ => rx.wf
  | .serials rx list => rx.wf && decide (list.length ≤ 96)
  | .ownership rx _ _ _ => rx.wf
  | .resyncDone rx _ => rx.wf
  | .sifUpdate rx _ _ => rx.wf
  | .sifAck rx _ => rx.wf
  | .journalGroup rx _ _ _ => rx.wf
  | .journalAck rx _ => rx.wf
  | .release rx _ => rx.wf
  | .mirrorData rx _ => rx.wf
  | .mirrorAck rx _ => rx.wf
  | .forwardCmd rx _ slice e => rx.wf && fitsIn 12 slice && e.all SubEntry.wf
  | .forwardRsp rx _ sct sc _ _ => rx.wf && fitsIn 3 sct && fitsIn 8 sc
  | .proxyMedia rx _ _ _ => rx.wf
  | .proxyRsp rx _ _ _ _ _ => rx.wf
  | .jalrasRetransmitTimeout _ => true
  | .jalrasSublinkLoss _ => true
  | .peerPartitionTimeout => true
  | .joinRequest h _ _ node minV maxV partner => h.wf && nodeOk node && fitsIn 8 minV && fitsIn 8 maxV && fitsIn 16 partner
  | .joinAccept h view leader _ => h.wf && fitsIn 64 view && nodeOk leader
  | .viewUpdate h view _ => h.wf && fitsIn 32 view
  | .viewAck h view => h.wf && fitsIn 32 view
  | .clusterProbeTick => true
  | .clusterProbe h _ => h.wf
  | .clusterProbeAck h _ => h.wf
  | .clusterProbeTimeout node => nodeOk node
  | .probeIndirect h target _ => h.wf && nodeOk target
  | .suspect h node view => h.wf && nodeOk node && fitsIn 64 view
  | .suspectTimeout node => nodeOk node
  | .leave h => h.wf
  | .trafficKeyPreviousExpiry node => nodeOk node
  | .replOpen h rel src remote _ _ _ kcv => h.wf && fitsIn 32 rel && fitsIn 32 src && fitsIn 32 remote && sized 16 kcv
  | .replOpenAck h rel _ => h.wf && fitsIn 32 rel
  | .replDelta h rel _ _ _ => h.wf && fitsIn 32 rel
  | .replDeltaAck h rel _ _ _ => h.wf && fitsIn 32 rel
  | .replUnits h rel base epoch _ => h.wf && fitsIn 32 rel && fitsIn 64 base && fitsIn 64 epoch
  | .replCommit h rel _ => h.wf && fitsIn 32 rel
  | .replCommitAck h rel _ => h.wf && fitsIn 32 rel
  | .repairRequest h rel _ => h.wf && fitsIn 32 rel
  | .repairData h rel _ _ => h.wf && fitsIn 32 rel
  | .replWrite h rel off _ len _ => h.wf && fitsIn 32 rel && fitsIn 64 off && fitsIn 32 len
  | .replWriteAck h rel _ => h.wf && fitsIn 32 rel
  | .xtsEncrypt r => r.wf
  | .xtsDecrypt r => r.wf
  | .xtsReencrypt r => r.wf
  | .gcmOpen r => r.wf
  | .gcmData r => r.wf
  | .gcmClose r => r.wf
  | .rawEncrypt r => r.wf
  | .rawDecrypt r => r.wf
  | .keySlotFill index gen => fitsIn 32 index && fitsIn 16 gen
  | .dgsAlloc agent => fitsIn 8 agent
  | .dgsCtxOpen agent _ _ _ _ => fitsIn 8 agent
  | .dgsCtxClose agent _ => fitsIn 8 agent
  | .dgsCtxLengthWrite agent _ _ => fitsIn 8 agent
  | .dgsDataPortWrite agent _ _ => fitsIn 8 agent
  | .dgsCtxCmp agent _ expect => fitsIn 8 agent && sized 64 expect
  | .dgsEcdsaVerify agent operands => fitsIn 8 agent && sized 240 operands
  | .dgsEcdsaSign agent operands => fitsIn 8 agent && sized 240 operands
  | .ecdsaOperationDone => true
  | .udmaOwnerRead _ _ => true
  | .udmaOwnerRelease _ _ => true
  | .udmaStart _ _ _ => true
  | .udmaEnableClear _ _ _ => true
  | .udmaCqHeadWrite _ _ _ => true
  | .udmaTimerTick _ => true
  | .udmaRunComplete _ _ => true
  | .errorDetected e fatal => errorOk e fatal
  | .errorRepeatResult _ _ => true
  | .handlerTimeout _ => true
  | .fencedUnitRetry _ => true
  | .unitSelfTestDone _ _ => true
  | .govPeriodBoundary => true
  | .evrRecordWritten => true
  | .evrClear _ => true
  | .evrClearDone => true
  | .evrWindowRead _ _ => true
  | .perstDeassert _ _ => true
  | .resetHoldOffExpiry => true
  | .chainInStuck _ => true
  | .kamardNakRepeat _ => true
  | .jalrasNak _ _ => true
  | .jalrasAckDue _ => true
  | .jalrasTrainingDone _ => true
  | .jalrasRetrainDone _ _ => true
  | .routerAdvertisement _ _ _ _ _ => true
  | .dhcpv4Message _ _ _ _ => true
  | .dhcpv4LeaseTimer _ => true
  | .pfcFrame _ _ _ => true
  | .clusterJoinTimeout _ => true
  | .clusterLeaveTimeout => true
  | .viewChangeTimeout => true
  | .fwArmed _ => true
  | .interruptCoalescingTimeout ctrl cq => fitsIn 16 ctrl && fitsIn 16 cq
  | .pcieCompletionTimeout _ => true
  | .configurationRequest _ _ _ _ => true
  | .atsInvalidationRequest _ _ _ _ count _ => decide (1 ≤ count)
  | .pageRequestGroupResponse _ _ _ => true
  | .vddAonUp => true
  | .vddAonDown => true

end Sys2Proof
end

