-- ==== Sys2Proof/Certificates/Slice0/Obligations.lean ====
section
/-! DEFINITION. Certificates/Slice0/Obligations.lean: the statements about the model. -/
namespace Sys2Proof.Machine
open Sys2Proof
end Sys2Proof.Machine
open Sys2Proof Sys2Proof.Machine

/-- One step is exec of the command at the front, on the state whose queue holds the rest. How commands are queued is the model's (log entry 4). -/
def Obligations.StepTakesTheFront : Prop :=
  ∀ (c : Instr) (s : State), step { s with pending := c :: s.pending } = exec c s

/-- An empty queue leaves the state as it is: the model's choice, log entry 4. -/
def Obligations.EmptyQueueIdles : Prop :=
  ∀ s : State, s.pending = [] → step s = .next s

/-- The queue is the model's own (log entry 4): a step takes exactly the front command out of it, and no meaning touches it. -/
def Obligations.StepConsumesOneCommand : Prop :=
  ∀ (s t : State) (c : Instr) (rest : List Instr), s.pending = c :: rest → step s = .next t → t.pending = rest

/-- Fuses only move from intact to blown (R86 says so of the incremental area; that the whole rows that a programmed slot fills and the identity rows are written once is R87 and R85). -/
def Obligations.FusesOnlyGrow : Prop :=
  ∀ s t : State, step s = .next t → fusesGrow s.fuses t.fuses

/-- R88: owned as soon as one slot is programmed, the vendor key only on an unowned chip, and no step makes an owned chip unowned. -/
def Obligations.OwnedStaysOwned : Prop :=
  (∀ s : State, isOwned s = true ↔ ∃ n, n < 4 ∧ (ownerSlot s n).programmed = true) ∧
  (∀ (s : State) (key : List Byte), isOwned s = false → (keyOfSlot s 255 key = true ↔ Config.sha384 key = s.fuses.vendorHash)) ∧
  (∀ (s : State) (key : List Byte), isOwned s = true → keyOfSlot s 255 key = false) ∧
  (∀ s t : State, isOwned s = true → step s = .next t → isOwned t = true)

/-- Equal on-chip memories are equal data after every step (log entry 3). -/
def Obligations.OnchipMemoryStaysCanonical : Prop :=
  ∀ s t : State, Mem.wf s.onchip = true → step s = .next t → Mem.wf t.onchip = true

/-- The reset state meets the invariants (blank fuses are the model's choice, log entry 60), and so does every state that any commands, queued at reset, lead to: the commands not yet run still wait in order (log entry 4), the fuses have only grown and the on-chip memory is canonical (log entry 3). -/
def Obligations.ResetHoldsTheInvariants : Prop :=
  (State.reset.pending = [] ∧ State.reset.phase = .reset ∧ isOwned State.reset = false ∧ Mem.wf State.reset.onchip = true) ∧
  (∀ (l : List Instr) (n : Nat) (t : State), leadsTo n { State.reset with pending := l } t →
    t.pending = l.drop n ∧ fusesGrow State.reset.fuses t.fuses ∧ Mem.wf t.onchip = true)

/-- The canonical form is one per content, and a write is seen at its addresses only (log entry 3). -/
def Obligations.MemoriesThatReadAlikeAreEqual : Prop :=
  (∀ m n : Mem, Mem.wf m = true → Mem.wf n = true → (∀ a, Mem.get m a = Mem.get n a) → m = n) ∧
  (∀ (m : Mem) (a b : Nat) (l : List Byte), Mem.get (Mem.putBytes m a l) b = if a ≤ b ∧ b < a + l.length then l.getD (b - a) 0 else Mem.get m b)

/-- The only stop of the model is the debug block, whose registers the spec does not give (R92, R113); everything else runs. -/
def Obligations.EveryCommandGoesOn : Prop :=
  (∀ (c : Instr) (s : State) (f : Fault), exec c s ≠ .fault f) ∧
  (∀ (c : Instr) (s : State) (r : Refusal), exec c s = .refused r → debugIsOpen s = true ∧ ∃ off, isDbg off = true ∧ r = .dbgBlock off) ∧
  (∀ (c : Instr) (s : State), debugIsOpen s = false → completes c s)

/-- A read by one port of a free semaphore returns the register as it was, makes that port owner, counts the grant and starts the port's lease; a tie of both ports is won by the port that did not win the last one; a release write with bit 0 clear by the owner frees the semaphore; a renewal by a port that holds a semaphore restarts its lease while that lease still runs; when a lease ends, chip time is at least its end and every semaphore of the port is lost. -/
def Obligations.SemaphoreCommandsComplete : Prop :=
  (∀ (n : Fin 64) (p : Port) (s : State), s.phase = .run → (s.port p).caps.d3hot = false → (s.sem n.val).owner = none → ∃ t, exec (.semRead n (.one p)) s = .next t ∧ t = grantSem n.val p (emit (.readData p (0x1000 + 4 * n.val) ((semReg s n.val).setWidth 64)) s) ∧ (t.sem n.val).owner = some p ∧ (t.sem n.val).grants = (s.sem n.val).grants + 1) ∧
  (∀ (n : Fin 64) (s : State), s.phase = .run → (s.port .a).caps.d3hot = false → (s.port .b).caps.d3hot = false → (s.sem n.val).owner = none → (s.sem n.val).lastTie = some .a → exec (.semRead n .both) s = .next (semReadOne n.val .a (semReadOne n.val .b { s with sems := Tbl.set s.sems n.val { s.sem n.val with lastTie := some .b } }))) ∧
  (∀ (p : Port) (n : Fin 64) (v : W32) (s : State), s.phase = .run → (s.port p).caps.d3hot = false → (s.sem n.val).owner = some p → v[0] = false → exec (.semReleaseWrite p n v) s = .next (settleLease p { s with sems := Tbl.set s.sems n.val { s.sem n.val with owner := none } })) ∧
  (∀ (p : Port) (e : Nat) (s : State), s.phase = .run → (s.port p).caps.d3hot = false → (s.port p).leaseEnd = some e → s.time.toNat < e → exec (.semLeaseRenew p) s = .next (s.modPort p fun r => { r with leaseEnd := some (s.time.toNat + leaseTime r) })) ∧
  (∀ (p : Port) (e : Nat) (s : State), s.phase = .run → (s.port p).leaseEnd = some e → exec (.semLeaseExpiry p) s = .next (loseSems p .lease (reachTime e s)))

/-- Each mailbox port command, under the conditions its rule gives for normal execution, leaves the state that rule gives: the immediate doorbell takes the request or keeps it until the chip serves, tail and head writes in range move the pointer, the device fetches a message and advances its head by the message's extent, a response is written where there is room, enabling an idle ring clears its pointers. -/
def Obligations.MailboxPortCommandsComplete : Prop :=
  (∀ (p : Port) (len : BitVec 13) (s : State), s.phase = .run → (s.port p).caps.d3hot = false → (s.port p).immBusy = false → s.boot.served = false → exec (.mbxImmDoorbell p len) s = .next (s.modPort p fun r => { r with immBusy := true, immDeferred := some len.toNat })) ∧
  (∀ (p : Port) (len : Nat) (s : State), s.phase = .run → (s.port p).immDeferred = some len → canServe s = true → exec (.mbxImmDeferredServe p) s = .next (serveImm p len ({ s with boot := { s.boot with served := true } }.modPort p fun r => { r with immDeferred := none }))) ∧
  (∀ (p : Port) (v : BitVec 20) (s : State), s.phase = .run → (s.port p).caps.d3hot = false → v.toNat % 64 = 0 → v.toNat < ringSize (s.port p).reqCfg → exec (.mbxReqTail p v) s = .next (s.modPort p fun r => { r with reqTail := v.toNat })) ∧
  (∀ (p : Port) (ring : Bool) (tag : W32) (d : MDone) (s : State), s.phase = .run → s.mbx.done.find? (fun d => d.cmd.hdr.port = p && d.cmd.hdr.ring = ring && d.cmd.hdr.tag = tag) = some d → exec (.mailboxResponse p ring tag) s = .next (writeReply d s)) ∧
  (∀ (p : Port) (m : MbxMsg) (s : State), s.phase = .run → canFetch p s = true → (s.port p).busMaster = true → ringExtent m.length ≤ ringSpan (s.port p).reqHead (s.port p).reqTail (ringSize (s.port p).reqCfg) → exec (.ringRequestFetch p (some m)) s = .next (takeMsg ⟨p, true, m.tag, m.version⟩ m.opcode m.body m.length (s.setPort p { s.port p with reqHead := ((s.port p).reqHead + ringExtent m.length) % ringSize (s.port p).reqCfg, outstanding := (s.port p).outstanding + 1 }))) ∧
  (∀ (p : Port) (v : BitVec 20) (s : State), s.phase = .run → (s.port p).caps.d3hot = false → v.toNat % 64 = 0 → v.toNat < ringSize (s.port p).rspCfg → ∃ u, u = settleStall p (s.modPort p fun r => { r with rspHead := v.toNat }) ∧ exec (.mbxRspHead p v) s = .next (writeReplies p u.mbx.done u)) ∧
  (∀ (p : Port) (v : W32) (s : State), s.phase = .run → (s.port p).caps.d3hot = false → v[0] = true → (s.port p).enable = false → ringIdle s p = true → exec (.mbxRingCtrlWrite p v) s = .next (s.setPort p { s.port p with enable := true, notify := v.getLsbD 1, reqHead := 0, reqTail := 0, rspHead := 0, rspTail := 0 })) ∧
  (∀ (p : Port) (s : State), s.phase = .run → exec (.busMasterEnableCleared p) s = .next (s.modPort p fun r => { r with busMaster := false })) ∧
  (∀ (p : Port) (s : State), s.phase = .run → exec (.busMasterEnableSet p) s = .next (writeReplies p (s.modPort p fun r => { r with busMaster := true }).mbx.done (s.modPort p fun r => { r with busMaster := true }))) ∧
  (∀ (p : Port) (v : W32) (s : State), s.phase = .run → (s.port p).caps.d3hot = false → exec (.intEnableWrite p v) s = .next (sendEnabled p (s.port p).intEnable (v.setWidth 11) (s.port p).intCause (List.range 11) (s.setPort p { s.port p with intEnable := v.setWidth 11 }))) ∧
  (∀ (p : Port) (off : BitVec 20) (kind : AccessErr) (s : State), s.phase = .run → (s.port p).caps.d3hot = false → kind ≠ .misalignedRead → exec (.bar0AccessError p off kind) s = .next (s.modPort p fun r => { r with errCount := satAdd 65535 r.errCount 1, errOffset := BitVec.ofNat 16 (off.toNat / 16) }))

/-- An edge that the rate limit does not stop changes the input's conditioned level and does what the input's rule says: power-good and reset edges power the chip up, down or reset it, PWRFAIL_N starts a vault flush, PERST# resets or releases its port, a change of PEER_ALIVE is noted, and a silent peer that has gone, whose pools this head can take, is taken over; a latched input is released by its own row; the flush ends the chip's run when it is done or its hold-off passes. The edge counters of the rate limit are those of noteEdges. -/
def Obligations.PinCommandsComplete : Prop :=
  (∀ (at_ : Nat) (s : State), s.phase ≠ .unpowered → s.cond.pwrgood.latched = false → s.cond.pwrgood.level = false → (noteEdges 4 10000000 1 at_ s.cond.pwrgood).2 = false → exec (.pwrgoodAssert at_) s = .next (powerGood { s with cond := { s.cond with pwrgood := { (noteEdges 4 10000000 1 at_ s.cond.pwrgood).1 with level := true } } })) ∧
  (∀ (at_ : Nat) (s : State), s.phase ≠ .unpowered → s.cond.pwrgood.latched = false → s.cond.pwrgood.level = true → exec (.pwrgoodDeassert at_) s = .next (powerBad { s with cond := { s.cond with pwrgood := { (noteEdges 4 10000000 1 at_ s.cond.pwrgood).1 with latched := (noteEdges 4 10000000 1 at_ s.cond.pwrgood).2 } } })) ∧
  (∀ (at_ : Nat) (s : State), s.phase ≠ .unpowered → (resetEdge true at_ s).2 = true → exec (.resetNAssert at_) s = .next (resetTakes (resetEdge true at_ s).1)) ∧
  (∀ (e : Nat) (s : State), s.phase = .flushing → s.flush.firstAt = some e → s.flush.resetHeld = true → exec (.resetHoldOffExpiry) s = .next (chipReset (reachTime (e + 450000000) s))) ∧
  (∀ (at_ : Nat) (s : State), s.phase ≠ .unpowered → s.cond.pwrfail.level = false → s.cond.pwrfail.latched = false → spRuns s = true → (noteEdges 4 10000000 1 at_ s.cond.pwrfail).2 = false → exec (.pwrfailNAssert true at_) s = .next (pwrfailFirst (countIgnored s.cond.pwrfail 1 { s with cond := { s.cond with pwrfail := { (noteEdges 4 10000000 1 at_ s.cond.pwrfail).1 with level := true, chatter := s.cond.pwrfail.chatter || false } } }))) ∧
  (∀ (s : State), s.phase ≠ .unpowered → exec (.pwrfailStableDeassert) s = .next (pwrfailStable s)) ∧
  (∀ (s : State), s.phase ≠ .unpowered → s.cond.pwrfail.level = true → spRuns s = true → exec (.pwrfailStuck) s = .next (raiseAlarm 0x02 { s with cond := { s.cond with pwrfail := { s.cond.pwrfail with stuck := true } } })) ∧
  (∀ (r : VaultRun) (s : State), s.phase = .flushing → s.carafe.run = some r → r.outstanding = 0 → exec (.vaultFlushDone) s = .next (flushEnd (vaultSeal s))) ∧
  (∀ (p : Port) (at_ : Nat) (s : State), s.phase ≠ .unpowered → (perstCond s p).level = false → ((perstEdge p true at_ s).port p).inReset = false → exec (.perstAssert p at_) s = .next (perstReset p (perstEdge p true at_ s))) ∧
  (∀ (p : Port) (at_ : Nat) (s : State), s.phase ≠ .unpowered → (perstCond s p).level = true → (perstCond (alarmDown (5 + portNum p) (perstEdge p false at_ s)) p).latched = false → exec (.perstDeassert p at_) s = .next (perstRelease p (alarmDown (5 + portNum p) (perstEdge p false at_ s)))) ∧
  (∀ (p : Port) (s : State), s.phase ≠ .unpowered → (perstCond s p).level = true → exec (.perstStuck p) s = .next (alarmUp (5 + portNum p) (setPerst p { perstCond s p with stuck := true } s))) ∧
  (∀ (at_ : Nat) (s : State), s.phase ≠ .unpowered → s.cond.peerAlive.level = false → (noteEdges 4 100000000 1 at_ s.cond.peerAlive).2 = false → exec (.peerAliveChange true at_) s = .next (countIgnored s.cond.peerAlive 1 { s with cond := { s.cond with peerAlive := { (noteEdges 4 100000000 1 at_ s.cond.peerAlive).1 with level := true, chatter := s.cond.peerAlive.chatter, latched := s.cond.peerAlive.latched } } })) ∧
  (∀ (s : State), s.phase = .run → s.boot.stage = .ready → s.peerState = .alone → peerSubs s = [] → foreignPools s ≠ [] → peerGone s = true → exec (.peerAliveTimeout) s = .next (takeover s)) ∧
  (∀ (s : State), s.phase ≠ .unpowered → s.cond.pwrgood.latched = true → exec (.inputLatchRelease .pwrgood) s = .next (powerGood { s with cond := { s.cond with pwrgood := { s.cond.pwrgood with latched := false, level := true, edges := [] } } }))

/-- A lost reference records the loss and fences what it feeds; a lost SYSREF keeps the fail-stop record and resets the chip; a rail alarm sets the rail's bit, makes its record and raises alarm 0x0F; temperature samples set maxima, masks, throttling and alarms; domains switch on, off, and are judged; the counters of hours rise; VDD_AON_UP starts the always-on domain from its reset values, with time 0 and with the controller identifiers in use before it at rest for 10 s again (log entry 109), and VDD_AON_DOWN leaves the part unpowered. -/
def Obligations.PowerAndClockCommandsComplete : Prop :=
  (∀ (d : Fin 64) (s : State), (s.phase = .run ∨ s.phase = .flushing) → exec (.domainSwitchOnRequest d) s = .next (switchOn d s)) ∧
  (∀ (d : Fin 64) (s : State), (s.phase = .run ∨ s.phase = .flushing) → 5 ≤ d.val → hasBit s.power.ramping d.val = false → s.power.waiting.contains d.val = false → workIn d.val s = false → exec (.domainSwitchOffRequest d true) s = .next (gateOff d s)) ∧
  (∀ (d : Fin 64) (s : State), (s.phase = .run ∨ s.phase = .flushing) → exec (.domainRampDone d) s = .next (rampDone d s)) ∧
  (∀ (d : Fin 64) (signal : Bool) (s : State), s.phase = .run → hasBit s.power.judging d.val = true → domainInUse d.val signal s = true → ∃ t, exec (.portDomainJudge d signal) s = .next t ∧ t.power.judging = clrBit s.power.judging d.val ∧ t.power.unused = clrBit s.power.unused d.val) ∧
  (∀ (d : Fin 64) (s : State), s.phase = .run → s.boot.stage = .ready → hasBit s.power.unused d.val = true → portsSettling s = false → exec (.unusedDomainRetry d) s = .next (switchOn d s)) ∧
  (∀ (r : RefClk) (reading : W32) (s : State), s.phase ≠ .unpowered → s.phys.refLost.getLsbD (refNum r) = false → spRuns s = true → exec (.refclkLost r reading) s = .next (fenceDark (powerRecordSeq 3 1 (refNum r) (reading.setWidth 64) (setRefLost (refNum r) true s)).1 (refDomains r) (raiseAlarm 0x0A (powerRecordSeq 3 1 (refNum r) (reading.setWidth 64) (setRefLost (refNum r) true s)).2))) ∧
  (∀ (r : RefClk) (s : State), s.phase ≠ .unpowered → s.phys.refLost.getLsbD (refNum r) = true → refDark (fenceAlarmSettle (unfenceDark (refDomains r) (setRefLost (refNum r) false s))) = [] → exec (.refclkRestored r) s = .next (clearAlarm 0x0A (fenceAlarmSettle (unfenceDark (refDomains r) (setRefLost (refNum r) false s))))) ∧
  (∀ (reading : W32) (s : State), s.phase ≠ .unpowered → s.phys.refLost.getLsbD 8 = false → spRuns s = true → exec (.crystalLost reading) s = .next (raiseAlarm 0x0B (powerRecord 2 1 8 (reading.setWidth 64) (setRefLost 8 true { s with aon := { s.aon with onCrystal := false } })))) ∧
  (∀ (s : State), s.phase ≠ .unpowered → exec (.crystalSwitchover) s = .next (clearAlarm 0x0B (setRefLost 8 false { s with aon := { s.aon with onCrystal := true } }))) ∧
  (∀ (reading : W32) (s : State), s.phase = .run → s.phys.refLost.getLsbD 0 = false → exec (.sysrefLost reading) s = .next (chipReset (setRefLost 0 true { s with aon := keepFailStop { cause := failStopNum .sysref, code := 0x060A, faultReg := 0, reading := reading } true s }))) ∧
  (∀ (s : State), s.phase = .refHold → ∃ t, exec (.sysrefRestored) s = .next t ∧ t.phase = .reset ∧ t.phys.refLost.getLsbD 0 = false) ∧
  (∀ (rail : Fin 11) (mV : W32) (s : State), (s.phase = .run ∨ s.phase = .flushing) → s.phys.railAlarm.getLsbD rail.val = false → exec (.railAlarm rail mV) s = .next (raiseAlarm 0x0F (powerRecord 2 0 rail.val (mV.setWidth 64) { s with phys := { s.phys with railAlarm := s.phys.railAlarm ||| BitVec.ofNat 11 (2 ^ rail.val) } }))) ∧
  (∀ (rail : Fin 11) (s : State), (s.phase = .run ∨ s.phase = .flushing) → s.phys.railAlarm &&& ~~~ BitVec.ofNat 11 (2 ^ rail.val) = 0 → exec (.railRestored rail) s = .next (clearAlarm 0x0F { s with phys := { s.phys with railAlarm := 0 } })) ∧
  (∀ (dies : List Byte) (hbm : List Byte) (s : State), (s.phase = .run ∨ s.phase = .flushing) → threshMask s 2 s.phys.critical (readings dies hbm) = 0 → exec (.tempSample dies hbm) s = .next (let r := readings dies hbm
      let al := threshMask s 0 s.phys.alert r
      let th := threshMask s 1 s.phys.throttle r
      let s1 := { s with phys := { s.phys with dieMax := r.getD 0 0, hbm := r.drop 1, alert := al, throttle := th, critical := 0, refresh := BitVec.ofNat 5 (((List.range 5).map fun i => if i ≠ 0 && decide (85 ≤ tempOf (r.getD i 0)) then 2 ^ i else 0).sum), clockEighths := clockStep (th != 0) s.phys.clockEighths }, pins := { s.pins with tempAlert := al != 0 } }
      let s2 := if decide ((al ≠ 0) ≠ (s.phys.alert ≠ 0)) || decide ((th ≠ 0) ≠ (s.phys.throttle ≠ 0)) then raiseBoth cThermal s1 else s1
      let s3 := tempRecords r 2 s.phys.critical 0 (List.range 5) (tempRecords r 1 s.phys.throttle th (List.range 5) (tempRecords r 0 s.phys.alert al (List.range 5) s2))
      alarmIs 0x0E false (alarmIs 0x0D (th != 0) (alarmIs 0x0C (al != 0) s3)))) ∧
  (∀ (s : State), spRuns s = true → ∃ t, exec (.lifeCountTick) s = .next t ∧ t.aon.lifeFrac = (s.aon.lifeFrac + lifeWeight (tempOf s.phys.dieMax)) % (3600 * 2 ^ 32) ∧ t.aon.lifeHours = s.aon.lifeHours + BitVec.ofNat 32 ((s.aon.lifeFrac + lifeWeight (tempOf s.phys.dieMax)) / (3600 * 2 ^ 32))) ∧
  (∀ (elapsed : Nat) (s : State), s.phase ≠ .unpowered → exec (.aonHourTick elapsed) s = .next ({ s with aon := { s.aon with ms := BitVec.ofNat 32 ((s.aon.ms.toNat + elapsed) % 3600000), hours := s.aon.hours + BitVec.ofNat 32 ((s.aon.ms.toNat + elapsed) / 3600000) } })) ∧
  (∀ (d : Fin 64) (lane : Fin 16) (s : State), s.phase = .run → hasBit s.power.on d.val = true → (s.lane d.val lane.val).marked = false → (s.lane d.val lane.val).fails = 0 → exec (.laneEyeCheck d lane false) s = .next (s.modLane d.val lane.val fun l => { l with fails := 1 })) ∧
  (∀ (s : State), s.phase = .unpowered → exec (.vddAonUp) s = .next (chipReset { s with phase := .reset, aon := {}, cond := {}, time := 0, phys := { s.phys with refLost := 0 }, host := { s.host with ended := Tbl.mapVals s.host.ended fun _ _ => 0 } })) ∧
  (∀ (s : State), s.phase ≠ .unpowered → ∃ t, exec (.vddAonDown) s = .next t ∧ t.phase = .unpowered ∧ t.aon = {} ∧ t.jtag = {} ∧ t.power.on = 0)

/-- With power-good and RESET_N at their run levels the chip starts; the straps are sampled once; the bridge image is recorded and the boot goes on, or fails with the code of the first check that the image fails; trained memories are noted; the control core starts once the memories are trained; the vault image is replayed once, and then the journals. -/
def Obligations.BootCommandsComplete : Prop :=
  (∀ (obs : BootObs) (at_ : Nat) (s : State), s.phase = .reset → s.cond.pwrgood.level = true → s.cond.resetN.level = false → exec (.chipResetExit obs at_) s = .next (bootStart obs s)) ∧
  (∀ (straps : BitVec 4) (s : State), s.phase = .run → s.boot.boardSampled = false → exec (.boardIdSample straps true) s = .next ({ s with boot := { s.boot with boardId := straps, boardSampled := true } })) ∧
  (∀ (o : ImageObs) (s u : State), s.phase = .run → s.boot.stream = some .bridge → hdrAbsent o.header = false → u = showPair o (endStream s) → exec (.imageVerifyDone .bridge o) s = .next (match imageFail .bridge o u with | none => noteImage .bridge o (loadImage .bridge o { u with boot := { u.boot with bridge := some (imageInfo o) } }) | some f => bootFails f u)) ∧
  (∀ (s : State), s.phase = .run → s.boot.sp.isSome = true → (List.range 4).all (fun i => hasBit s.power.on (13 + i)) = true → s.boot.hbmTrained = false → s.boot.cc = none → s.boot.src ≠ .download → s.boot.stage ≠ .recovery → exec (.hbmTrainingDone) s = .next (openStream .controlCore (memoriesDone (setStage .training { s with boot := { s.boot with hbmTrained := true } })))) ∧
  (∀ (dimms : List Dimm) (ok : Bool) (s : State), s.phase = .run → s.boot.sp.isSome = true → s.boot.ddrTrained = false → s.boot.held = false → hasBit s.power.on 17 = true → hasBit s.power.on 18 = true → ddrRefused dimms ok = none → exec (.ddrTrainingDone dimms ok) s = .next (memoriesDone { s with boot := { s.boot with ddrTrained := true, ddrBytes := dimmTotal dimms * 2 ^ 30 } })) ∧
  (∀ (s : State), s.phase = .run → s.boot.cc.isSome = true → s.boot.hbmTrained = true → s.boot.ddrTrained = true → s.boot.held = false → s.boot.started = false → s.boot.stage ≠ .recovery → exec (.controlCoreStart) s = .next (switchOnAll ([5, 6, 7, 8, 9, 10, 11, 12, 19, 20, 21, 22, 23, 24, 25, 26, 27] ++ (List.range 34).map (30 + ·)) (unsealKtwk (setStage .units { s with boot := { s.boot with started := true, served := true }, grinder := { s.grinder with bucketBits := if s.boot.ddrBytes < 2 ^ 40 then 29 else 30 }, carafe := { s.carafe with areas := carafeAreas }, mapCache := { s.mapCache with regions := regionsFor s.boot.ddrBytes } })))) ∧
  (∀ (anchor : AnchorRead) (bad : BitVec 5) (unread : List (Nat × Nat)) (found : VaultFound) (img : VaultImage) (s : State), s.phase = .run → s.carafe.image = some img → s.boot.started = true → s.boot.vaultRead = false → s.boot.stage = .units → portsSettling s = false → ∃ t, exec (.vaultReplay anchor bad unread found) s = .next t ∧ t.boot.vaultRead = true) ∧
  (∀ (supers : List SuperCopy) (unpowered : List (Nat × Nat × Nat)) (s : State), s.phase = .run → s.boot.started = true → stageNum s.boot.stage < stageNum .ready → portsSettling s = false → s.carafe.image = none → ∃ t, exec (.journalReplay supers unpowered) s = .next t ∧ t.boot.stage = .ready)

/-- A head is position 0 and its input reads deasserted; a head whose service processor runs sends the frame of its board and enclosure, with the line symbols it is sent as; a frame, given by the low times of its bits, that decodes to a valid one of a common version is taken; a frame or chain that fails breaks the chain of a node that is not head. -/
def Obligations.ChainCommandsComplete : Prop :=
  (∀ (s : State), s.phase = .run → s.chain.started = false → s.chain.position = none → ∃ t, exec (.chainHeadTaken) s = .next t ∧ t.chain.head = true ∧ t.chain.position = some 0 ∧ t.cond.chainIn.level = false ∧ t.fuses = s.fuses ∧ t.evr = s.evr) ∧
  (∀ (s : State), spRuns s = true → s.chain.head = true → chainRuns s = true → exec (.chainHeadFrameSend) s = .next (emit (.chainFrame (chainFrame chainTop 0 s.boot.boardId.toNat s.chain.enclosure) (chainLine (chainFrame chainTop 0 s.boot.boardId.toNat s.chain.enclosure))) s)) ∧
  (∀ (lows : List Nat) (at_ bits : Nat) (x : InputCond × Bool) (s : State), s.phase = .run → x = noteEdges 600 1000000 (2 * lows.length) at_ s.cond.chainIn → x.2 = false → chainRuns s = true → chainDecode none lows = some bits → crc8 (lowBits bits 24) 0 = BitVec.ofNat 8 (bits / 2 ^ 24) → bits % 16 ≠ 0 → exec (.chainFrameReceived lows at_) s = .next (validFrame bits (countIgnored s.cond.chainIn (2 * lows.length) { s with cond := { s.cond with chainIn := { x.1 with level := true, chatter := s.cond.chainIn.chatter, latched := s.cond.chainIn.latched } } }))) ∧
  (∀ (s : State), s.phase = .run → s.chain.started = true → s.chain.head = false → s.chain.version = 0 → exec (.chainNoFrameTimeout) s = .next (chainBroken s)) ∧
  (∀ (level : Bool) (s : State), s.phase = .run → s.chain.started = true → s.chain.head = false → exec (.chainInStuck level) s = .next (chainBroken { s with cond := { s.cond with chainIn := { s.cond.chainIn with level := level } } }))

/-- Each JTAG instruction runs in the always-on domain: BYPASS and SAMPLE_PRELOAD leave the pins to the part, EXTEST, CLAMP, HIGHZ and the pulse instructions take them from it, and IDCODE sends a word whose top four bits are the stepping, whose part number is 0x9600 and whose lowest bit is 1, with a free manufacturer field. -/
def Obligations.JtagCommandsComplete : Prop :=
  (∀ (s : State), s.phase ≠ .unpowered → exec (.jtagBypass) s = .next (jtagRun .bypass s)) ∧
  (∀ (cells : List Bool) (s : State), s.phase ≠ .unpowered → exec (.jtagSamplePreload cells) s = .next (emit (.jtagSampled (lowBits (draw s).1 cells.length)) (jtagRun .samplePreload { (draw s).2 with jtag := { s.jtag with cells := cells, sampled := lowBits (draw s).1 cells.length } }))) ∧
  (∀ (s : State), s.phase ≠ .unpowered → exec (.jtagExtest) s = .next (jtagPins .extest s)) ∧
  (∀ (s : State), s.phase ≠ .unpowered → exec (.jtagIdcode) s = .next (emit (.jtagId (BitVec.ofNat 32 (s.fuses.stepping.toNat * 2 ^ 28 + 0x9600 * 2 ^ 12 + Config.jtagManufacturer.toNat * 2 + 1))) (jtagRun .idcode s))) ∧
  (∀ (s : State), s.phase ≠ .unpowered → exec (.jtagClamp) s = .next (jtagPins .clamp s)) ∧
  (∀ (s : State), s.phase ≠ .unpowered → exec (.jtagHighz) s = .next (jtagPins .highz s)) ∧
  (∀ (s : State), s.phase ≠ .unpowered → exec (.jtagExtestPulse) s = .next (jtagPins .extestPulse s)) ∧
  (∀ (s : State), s.phase ≠ .unpowered → exec (.jtagExtestTrain) s = .next (jtagPins .extestTrain s))

/-- Every access to a register completes, whatever its register holds, on a port that is not in D3hot, aligned to its size, and outside the DBG_ range while debug is open: a read of 1, 2, 4 or 8 bytes of BAR0 answers its port with the bytes it names and leaves the side effects of a read, a page read answers likewise; a write of 32 bits writes the word, one of 64 bits that is not discarded its low half and then its high half; the recorder window reads, its clear begins and ends, and its oldest record enters its slot with the effects of R503 to R507. A function in D3hot takes no such request: it is noted as unsupported (R110) and changes nothing else. -/
def Obligations.RegisterAccessesComplete : Prop :=
  (∀ (p : Port) (off : BitVec 20) (size : Fin 4) (s : State), s.phase = .run → (s.port p).caps.d3hot = false → size.val < 3 → off.toNat % 2 ^ size.val = 0 → (isDbg off.toNat && debugIsOpen s) = false → exec (.registerRcRead (.bar0 p off) size) s = .next (readOut p off.toNat ((readWord p (off.toNat / 4 * 4) false s).1.toNat / 2 ^ (8 * (off.toNat % 4)) % 2 ^ (8 * 2 ^ size.val)) (readWord p (off.toNat / 4 * 4) false s).2)) ∧ (∀ (p : Port) (off : BitVec 20) (s u : State) (lo hi : W32), s.phase = .run → (s.port p).caps.d3hot = false → off.toNat % 8 = 0 → (isDbg off.toNat && debugIsOpen s) = false → (readWord p off.toNat (lowHalf off.toNat) s).1 = lo → readWord p (off.toNat + 4) (lowHalf off.toNat) (readWord p off.toNat (lowHalf off.toNat) s).2 = (hi, u) → exec (.registerRcRead (.bar0 p off) 3) s = .next (readOut p off.toNat (lo.toNat + 2 ^ 32 * hi.toNat) u)) ∧ (∀ (port : Port) (upper : Bool) (slice : BitVec 12) (off : BitVec 14) (size : Fin 4) (s : State), s.phase = .run → (capsOf port upper s).d3hot = false → exec (.registerRcRead (.page port upper slice off) size) s = .next (pageRead ⟨port, upper, slice⟩ off.toNat (2 ^ size.val) s)) ∧
  (∀ (p : Port) (off : BitVec 20) (size : Fin 4) (wide : Bool) (v : W64) (s : State), s.phase = .run → (s.port p).caps.d3hot = true → exec (.registerRcRead (.bar0 p off) size) s = .next (unsupported p false false s) ∧ exec (.registerLowHalfRead p off) s = .next (unsupported p false false s) ∧ exec (.registerWrite (.bar0 p off) wide v) s = .next (unsupported p false true s)) ∧
  (∀ (p : Port) (n : Fin 64) (v : W32) (s : State), s.phase = .run → (s.port p).caps.d3hot = true → exec (.semRead n (.one p)) s = .next (unsupported p false false s) ∧ exec (.semReleaseWrite p n v) s = .next (unsupported p false true s) ∧ exec (.intEnableWrite p v) s = .next (unsupported p false true s)) ∧
  (∀ (p : Port) (off : BitVec 20) (s : State), s.phase = .run → (s.port p).caps.d3hot = false → off.toNat % 4 = 0 → (isDbg off.toNat && debugIsOpen s) = false → exec (.registerLowHalfRead p off) s = .next (readOut p off.toNat ((readWord p (off.toNat / 4 * 4) false s).1.toNat / 2 ^ (8 * (off.toNat % 4)) % 2 ^ 32) (readWord p (off.toNat / 4 * 4) false s).2)) ∧
  (∀ (p : Port) (off : BitVec 20) (v : W64) (s : State), s.phase = .run → (s.port p).caps.d3hot = false → off.toNat % 4 = 0 → (isDbg off.toNat && debugIsOpen s) = false → exec (.registerWrite (.bar0 p off) false v) s = .next (writeWord p off.toNat (lo32 v) s)) ∧ (∀ (p : Port) (off : BitVec 20) (v : W64) (s : State), s.phase = .run → (s.port p).caps.d3hot = false → off.toNat % 8 = 0 → (isDbg off.toNat && debugIsOpen s) = false → (lowHalf off.toNat && wideDiscarded p off.toNat s) = false → exec (.registerWrite (.bar0 p off) true v) s = .next (writeWord p (off.toNat + 4) (hi32 v) (writeWord p off.toNat (lo32 v) s))) ∧ (∀ (port : Port) (upper : Bool) (slice : BitVec 12) (off : BitVec 14) (v : W64) (s : State), s.phase = .run → (capsOf port upper s).d3hot = false → exec (.registerWrite (.page port upper slice off) false v) s = .next (pageWrite ⟨port, upper, slice⟩ off.toNat (lo32 v) s)) ∧
  (∀ (p : Port) (k : Fin 64) (s : State), s.phase = .run → (s.port p).caps.d3hot = false → exec (.evrWindowRead p k) s = .next (readOut p (0x4100 + 4 * k.val) (readWindow p (0x4100 + 4 * k.val) s).1.toNat (readWindow p (0x4100 + 4 * k.val) s).2)) ∧
  (∀ (p : Port) (s : State), s.phase = .run → (s.port p).caps.d3hot = false → (s.sem 0).owner = some p → s.cond.pwrfail.level = false → s.evr.clearing = none → exec (.evrClear p) s = .next (eraseRecorder { s with evr := { s.evr with clearing := some (evrNextToWrite s, s.aon.suppressed, s.evr.torn), buffer := s.evr.buffer.zipIdx.map fun x => { x.1 with index := x.2 + 1 } } })) ∧
  (∀ (r : EvrRec) (rest : List EvrRec) (s : State), (s.phase = .run ∨ s.phase = .flushing) → s.evr.buffer = r :: rest → s.evr.clearing = none → norFrozen s = false → exec (.evrRecordWritten) s = .next (raiseBoth cEvr (writeSlot r { s with evr := { s.evr with buffer := rest, slots := Tbl.set s.evr.slots r.index r } }))) ∧
  (∀ (next : Nat) (sup : W32) (torn : Nat) (s u : State), s.phase = .run → s.evr.clearing = some (next, sup, torn) → norFrozen s = false → u = { s with evr := { s.evr with clearing := none, slots := [], tornSlots := [], torn := 0, fullNoted := false, nextSlot := 0, buffer := [] }, aon := { s.aon with suppressed := 0 } } → exec (.evrClearDone) s = .next (clearAlarm 0x17 { u with evr := { u.evr with buffer := mkEvent 0 9 0xFF false 0 (le32 next ++ le32 sup.toNat ++ le32 torn) 0 u :: s.evr.buffer, nextSlot := s.evr.buffer.length + 1 } }))

/-- The spec gives the DBG_ range a place and a lock but none of its registers, so an aligned access to it while debug is open is refused under its own name; REGISTER_WRITE, REGISTER_RC_READ and REGISTER_LOW_HALF_READ are the only rows that stop. -/
def Obligations.DebugBlockStops : Prop :=
  (∀ (p : Port) (off : BitVec 20) (v : W64) (s : State), s.phase = .run → (s.port p).caps.d3hot = false → off.toNat % 4 = 0 → 0x40000 ≤ off.toNat → debugIsOpen s = true → exec (.registerWrite (.bar0 p off) false v) s = .refused (.dbgBlock off.toNat)) ∧
  (∀ (p : Port) (off : BitVec 20) (s : State), s.phase = .run → (s.port p).caps.d3hot = false → off.toNat % 4 = 0 → 0x40000 ≤ off.toNat → debugIsOpen s = true → exec (.registerRcRead (.bar0 p off) 2) s = .refused (.dbgBlock off.toNat)) ∧
  (∀ (p : Port) (off : BitVec 20) (s : State), s.phase = .run → (s.port p).caps.d3hot = false → off.toNat % 4 = 0 → 0x40000 ≤ off.toNat → debugIsOpen s = true → exec (.registerLowHalfRead p off) s = .refused (.dbgBlock off.toNat))

/-- On a port whose link is up a hot or function-level reset resets its endpoint and the loss of the link takes the port down; a link that trains is judged; a configuration request is answered once the chip serves; an ATS invalidation drops the translations of its range and answers; a page response ends its request, translates the page again and lets the command that waited for it go on. -/
def Obligations.HostPortCommandsComplete : Prop :=
  (∀ (p : Port) (s : State), s.phase = .run → (s.port p).linkUp = true → exec (.hotReset p) s = .next (endpointReset p s)) ∧
  (∀ (p : Port) (s : State), s.phase = .run → (s.port p).linkUp = true → exec (.functionLevelReset p) s = .next (endpointReset p s)) ∧
  (∀ (p : Port) (s : State), s.phase = .run → (s.port p).linkUp = true → exec (.dataLinkDown p) s = .next (portDown p s)) ∧
  (∀ (p : Port) (speed : BitVec 4) (width : BitVec 5) (s : State), s.phase = .run → hasBit s.power.on (hostDomain p) = true → (s.port p).inReset = false → exec (.hostLinkUp p speed width) s = .next (judgeLink p ((hostSpare p s).modPort p fun r => { r with linkUp := true, speed := speed, width := width }))) ∧
  (∀ (p : Port) (q : CfgReq) (s : State), s.phase = .run → (s.port p).linkUp = true → (s.port p).inReset = false → canServe s = true → exec (.configurationRequest p false q false) s = .next (cfgServe p false q s)) ∧
  (∀ (p : Port) (upper : Bool) (pasid : BitVec 20) (page : BitVec 52) (count : Nat) (itag : BitVec 5) (s : State), s.phase = .run → (s.port p).linkUp = true → exec (.atsInvalidationRequest p upper pasid page count itag) s = .next (emit (.atsDone p itag.toNat) (s.modPort p fun r => { r with ats := Tbl.keep r.ats fun k _ => decide (k < atsKey upper pasid.toNat page.toNat) || decide (min (atsKey upper pasid.toNat page.toNat + count) (atsKey upper (pasid.toNat + 1) 0) ≤ k) }))) ∧
  (∀ (p : Port) (group : BitVec 9) (pasid page id : Nat) (s u : State), s.phase = .run → Tbl.find (s.port p).pageReqs group.toNat = some (pasid, page, id) → (s.port p).linkUp = true → u = emit (.pageDone p group.toNat true) (s.modPort p fun r => { r with pageReqs := Tbl.del r.pageReqs group.toNat }) → exec (.pageRequestGroupResponse p group true) s = .next ((translate p (cmdUpper id s) pasid [page] u).modCmd id fun c => { c with waits := c.waits.filter (· ≠ group.toNat) }))

/-- A hello that finds a common version, with no other request of its port outstanding, opens the session; the read commands answer the body R137 lays out and change nothing but the list of responses; enclosure and port mode are stored, an acknowledged alarm slot is settled, read error records are released. -/
def Obligations.SessionCommandsComplete : Prop :=
  (∀ (h : MbxHdr) (minV maxV : Byte) (hostId : W64) (n : Nat) (c : MCmd) (s : State), s.phase = .run → mbxFind 1 h [.num 0 1 minV.toNat, .num 1 1 maxV.toNat, .num 4 8 hostId.toNat] s = some c → ringTurn c s = true → h.version = 1 → othersOut h (taken c s) = 0 → chooseVersion (taken c s) minV.toNat maxV.toNat = some n → exec (.mailboxHello h minV maxV hostId) s = .next (mbxAnswer c (replyOk (helloBody n (draw (taken c s)).1 (taken c s))) ((draw (taken c s)).2.modPort h.port fun r => { r with session := some n, renegotiate := false }))) ∧
  (∀ (h : MbxHdr) (c : MCmd) (s : State), startsNow { opcode := 0x0002, since := 1, sem := false, group := .session } h [] c s → exec (.chipInfoGet h) s = .next (mbxAnswer c (replyOk (chipInfoBody (taken c s))) (taken c s))) ∧
  (∀ (h : MbxHdr) (c : MCmd) (s : State), startsNow { opcode := 0x0003, since := 1, sem := false, group := .session, recovery := true } h [] c s → exec (.bootStatusGet h) s = .next (mbxAnswer c (replyOk (le32 (bootStatus s).toNat ++ le32 (nodeIdReg s).toNat)) (taken c s))) ∧
  (∀ (h : MbxHdr) (enclosure : Byte) (c : MCmd) (s : State), startsNow { opcode := 0x0004, since := 1, sem := true, group := .session } h [.num 0 1 enclosure.toNat] c s → enclosure.toNat ≤ 31 → s.cluster.member = false → exec (.nodeEnclosureSet h enclosure) s = .next (mbxAnswer c (replyOk []) ((taken c s).chn fun c => { c with enclosure := some (enclosure.setWidth 5) }))) ∧
  (∀ (h : MbxHdr) (mode : Byte) (c : MCmd) (s : State), startsNow { opcode := 0x0005, since := 1, sem := true, group := .session } h [.num 0 1 (0 : Byte).toNat, .num 1 1 mode.toNat] c s → mode.toNat ≤ 1 → exec (.hostPortConfig h 0 mode) s = .next (mbxAnswer c (replyOk []) { taken c s with aon := { s.aon with x8A := mode = 1 } })) ∧
  (∀ (h : MbxHdr) (first : Byte) (count : Byte) (c : MCmd) (s : State), startsNow { opcode := 0x0006, since := 2, sem := false, group := .session } h [.num 0 1 first.toNat, .num 1 1 count.toNat] c s → count ≠ 0 → count.toNat ≤ 160 → first.toNat + count.toNat ≤ 256 → exec (.alarmList h first count) s = .next (mbxAnswer c (replyOk ((List.range count.toNat).flatMap fun i => alarmEntry s (first.toNat + i))) (taken c s))) ∧
  (∀ (h : MbxHdr) (kind : Byte) (seen : W32) (c : MCmd) (s : State), startsNow { opcode := 0x0007, since := 2, sem := true, group := .session } h [.num 0 1 kind.toNat, .num 4 4 seen.toNat] c s → (Tbl.getD s.alarms.slots kind.toNat emptySlot).count = seen → exec (.alarmAck h kind seen) s = .next (mbxAnswer c (replyOk []) (ackSlot kind.toNat (taken c s)))) ∧
  (∀ (h : MbxHdr) (first : W32) (max_ : W16) (c : MCmd) (s : State), startsNow { opcode := 0x0008, since := 2, sem := false, group := .session } h [.num 0 4 first.toNat, .num 4 2 max_.toNat] c s → max_ ≠ 0 → max_.toNat ≤ 64 → exec (.errorQueueRead h first max_) s = .next (mbxAnswer c (replyOk (errorQueueBody first max_.toNat (taken c s))) (releaseErrors first h.port (taken c s))))

/-- While the service processor runs, a vaulted chip included, each sideband request that is addressed to the chip, names the row's command and has the right packet error code, where it carries one, sends its answer: the endpoint identifier is set and reported, versions and types are those of the rule, a sensor reads its value, a poll hands out the lowest pending notice, an attestation request is answered by the report once the report key exists, and the boot status is sent. -/
def Obligations.SidebandCommandsComplete : Prop :=
  (∀ (op : BitVec 2) (eid : Byte) (m : SideMsg) (s : State), spRuns s = true → sideMine m [0, 1] [op.setWidth 8, eid] s = true → op.toNat < 2 → eid ≠ 0 → eid ≠ 0xFF → exec (.mctpSetEndpointId m op eid) s = .next (sideSend m ([0, 0] ++ [eid] ++ [0]) { s with side := { s.side with eid := eid } })) ∧
  (∀ (m : SideMsg) (s : State), spRuns s = true → sideMine m [0, 2] [] s = true → exec (.mctpGetEndpointId m) s = .next (sideSend m [0, s.side.eid, 0, 0] s)) ∧
  (∀ (m : SideMsg) (s : State), spRuns s = true → sideMine m [0, 4] [0] s = true → exec (.mctpGetVersionSupport m 0) s = .next (sideSend m [0, 1, 0xF1, 0xF3, 0xF0, 0] s)) ∧
  (∀ (m : SideMsg) (s : State), spRuns s = true → sideMine m [0, 5] [] s = true → exec (.mctpGetMessageTypeSupport m) s = .next (sideSend m [0, 3, 0x00, 0x01, 0x7E] s)) ∧
  (∀ (m : SideMsg) (addr : BitVec 7) (s : State), spRuns s = true → arpMine m (.assign (smbusUdid s) addr) = true → exec (.smbusArp m (.assign (smbusUdid s) addr)) s = .next ({ s with side := { s.side with arpAddr := some addr, arpResolved := true } })) ∧
  (∀ (m : SideMsg) (s : State), spRuns s = true → sideMine m [1, 0, 2] [] s = true → exec (.pldmGetTid m) s = .next (sideSend m [0, s.side.tid] s)) ∧
  (∀ (m : SideMsg) (s : State), spRuns s = true → sideMine m [1, 0, 3] [2] s = true → exec (.pldmGetPldmVersion m 2) s = .next (sideSend m (pldmVersion [0xF1, 0xF2, 0xF0, 0]) s)) ∧
  (∀ (m : SideMsg) (s : State), spRuns s = true → sideMine m [1, 0, 4] [] s = true → exec (.pldmGetPldmTypes m) s = .next (sideSend m ([0, 5] ++ zeros 7) s)) ∧
  (∀ (m : SideMsg) (s : State), spRuns s = true → sideMine m [1, 0, 5] [2] s = true → exec (.pldmGetPldmCommands m 2) s = .next (sideSend m ([0, 0, 0x08, 0x02] ++ zeros 29) s)) ∧
  (∀ (x : Sensor) (m : SideMsg) (s : State), spRuns s = true → sideMine m [1, 2, 0x11] [] s = true → exec (.pldmSensorRead m x) s = .next (sideSend m ([0, (sensorReading x (draw s).2).1, 0] ++ le32 (draw s).1 ++ (sensorReading x (draw s).2).2.1) (sensorReading x (draw s).2).2.2)) ∧
  (∀ (k : Nat) (slot : List Byte) (m : SideMsg) (s : State), spRuns s = true → sideMine m [1, 2, 0x0B] [] s = true → (takeNotice s).1 = some (k, slot) → exec (.pollForPlatformEventMessage m) s = .next (sideSend m ([0, s.side.tid] ++ le16 (draw (takeNotice s).2).1 ++ zeros 4 ++ [5, 0xF0] ++ le32 slot.length ++ slot ++ le32 (Config.crc32 slot).toNat) (draw (takeNotice s).2).2)) ∧
  (∀ (nonce : List Byte) (at_ : Nat) (m : SideMsg) (s : State), spRuns s = true → sideMine m [0x7E, 0x1F, 0x6D] ([1] ++ nonce) s = true → s.trust.reportKey = true → (attestTurn s).1 = some at_ → exec (.molzonAttestationRequest m nonce) s = .next (sideSend m (molzonHead 1 0 ++ attestReport nonce at_ (attestTurn s).2 ++ attestChain (attestTurn s).2) (attestTurn s).2)) ∧
  (∀ (k : Nat) (slot : List Byte) (m : SideMsg) (s : State), spRuns s = true → sideMine m [0x7E, 0x1F, 0x6D] [2] s = true → (takeNotice s).1 = some (k, slot) → exec (.molzonAlarmNotificationRequest m) s = .next (sideSend m (molzonHead 2 0 ++ slot) (takeNotice s).2)) ∧
  (∀ (m : SideMsg) (s : State), spRuns s = true → sideMine m [0x7E, 0x1F, 0x6D] [3] s = true → exec (.molzonBootStatusRequest m 3) s = .next (sideSend m (molzonHead 3 0 ++ le32 (bootStatus s).toNat ++ le32 (nodeIdReg s).toNat) s))

/-- A join through this node itself forms a cluster of one with view 1; a join through another seed sends the request and waits; a leader changes the view for a joiner, a leaver or a suspect; a member acknowledges a view update and commits a change with a quorum; probes go out, are answered, time out into indirect probes and suspicion; timeouts end what they guard at their time. -/
def Obligations.ClusterCommandsComplete : Prop :=
  (∀ (h : MbxHdr) (clusterId : W64) (seed : W16) (c : MCmd) (s : State), startsNow ⟨0x0803, 3, true, .other, false⟩ h [.num 0 8 clusterId.toNat, .num 8 2 seed.toNat] c s → clusterId ≠ 0#64 → seed.toNat ≤ 8191 → nodeId s = some seed.toNat → s.cluster.member = false → Tbl.has s.cipher.keys 1048575 = true → exec (.clusterJoin h clusterId seed) s = .next (mbxAnswer c (replyOk (le32 1 ++ zeros 4)) (adoptView 1 [⟨seed.toNat, false, 2⟩] ((taken c s).clu fun c => { c with member := true, id := clusterId, view := 0, members := [] })))) ∧
  (∀ (h : CluHdr) (uid : BitVec 128) (session : W32) (node : Nat) (minV : Nat) (maxV : Nat) (partner : Nat) (u : Traffic) (s : State), fromMember h (.joinRequest uid session node minV maxV partner) u s → minV ≤ 2 → 1 ≤ maxV → leads (heard h u s) = true → exec (.joinRequest h uid session node minV maxV partner) s = .next (startChange [⟨node, false, maxV⟩] (some node) (heard h u s))) ∧
  (∀ (h : CluHdr) (view leader : Nat) (members : Tbl Nat) (u : Traffic) (n : Nat) (s : State), fromMember h (.joinAccept view leader members) u s → s.cluster.joining = some n → exec (.joinAccept h view leader members) s = .next (finishOp 0x0803 (replyOk (le32 members.length ++ zeros 4)) (partnersMove s.repls ((heard h u s).clu fun c => { c with joining := none, member := true, view := view, members := members })))) ∧
  (∀ (n : Nat) (s : State), s.phase = .run → s.cluster.joining = some n → exec (.clusterJoinTimeout false) s = .next (joinFails .notFound (reachTime (s.cluster.joinAt + 40000000) s))) ∧
  (∀ (h : MbxHdr) (c : MCmd) (s : State), startsNow ⟨0x0804, 3, true, .other, false⟩ h [] c s → s.cluster.member = true → (s.repls.any fun e => e.2.state ≠ .stopped) = false → leads s = true → s.cluster.members.length = 1 → s.cluster.change = none → exec (.clusterLeave h) s = .next (mbxAnswer c (replyOk []) (removeMember (ownNode s) (((taken c s).clu fun c => { c with leaving := true, leaveAt := s.time.toNat }).clu fun c => { c with leaving := false })))) ∧
  (∀ (s : State), s.phase = .run → s.cluster.leaving = true → exec (.clusterLeaveTimeout) s = .next (finishOp 0x0804 (replyErr .busy 0) ((reachTime (s.cluster.leaveAt + 1100000000) s).clu fun c => { c with leaving := false }))) ∧
  (∀ (h : CluHdr) (u : Traffic) (s : State), fromMember h .leave u s → leads (heard h u s) = true → s.cluster.change = none → exec (.leave h) s = .next (removeMember h.src ((heard h u s).clu fun c => { c with queue := c.queue.filter fun q => q.2 ≠ some h.src }))) ∧
  (∀ (h : CluHdr) (view : Nat) (changes : List ViewChange) (u : Traffic) (s : State), fromMember h (.viewUpdate view changes) u s → s.cluster.view ≤ view → exec (.viewUpdate h view changes) s = .next (adoptView view changes (cluSend h.src (.viewAck view) (heard h u s)))) ∧
  (∀ (h : CluHdr) (view : Nat) (u : Traffic) (x : Change) (s : State), fromMember h (.viewAck view) u s → s.cluster.change = some x → x.view = view → quorum (x.acks ++ [h.src]).eraseDups.length s.cluster.members.length = true → exec (.viewAck h view) s = .next (nextChange (commitChange { x with acks := (x.acks ++ [h.src]).eraseDups } (heard h u s)).cluster.queue (commitChange { x with acks := (x.acks ++ [h.src]).eraseDups } (heard h u s)))) ∧
  (∀ (x : Change) (s : State), s.phase = .run → s.cluster.change = some x → ∃ t, exec (.viewChangeTimeout) s = .next t ∧ ∃ a, a = raiseAlarm 0x83 ((reachTime (x.at_ + 1000000000) s).clu fun c => { c with change := none }) ∧ t = nextChange a.cluster.queue a) ∧
  (∀ (s : State), s.phase = .run → s.cluster.member = true → exec (.clusterProbeTick) s = .next (probeNext (reachTime (s.cluster.tickAt + 25000000) s))) ∧
  (∀ (h : CluHdr) (nonce : W64) (u : Traffic) (s : State), fromMember h (.probe nonce) u s → exec (.clusterProbe h nonce) s = .next (cluSend h.src (.probeAck nonce) (heard h u s))) ∧
  (∀ (h : CluHdr) (nonce : W64) (u : Traffic) (s : State), fromMember h (.probeAck nonce) u s → exec (.clusterProbeAck h nonce) s = .next (passAcks nonce ((heard h u s).cluster.probes.filter fun e => probeEnds h.src nonce e.1 e.2) ((heard h u s).clu fun c => { c with probes := Tbl.keep c.probes fun k p => !probeEnds h.src nonce k p, suspects := Tbl.del c.suspects h.src }))) ∧
  (∀ (h : CluHdr) (target : Nat) (nonce : W64) (u : Traffic) (s : State), fromMember h (.probeIndirect target nonce) u s → exec (.probeIndirect h target nonce) s = .next (cluSend target (.probe nonce) ((heard h u s).clu fun c => { c with probes := Tbl.set c.probes ((h.src + 1) * 8192 + target) { nonce := nonce, sentAt := s.time.toNat, onBehalf := some h.src } }))) ∧
  (∀ (node : Nat) (x : Probe) (s : State), s.phase = .run → Tbl.find s.cluster.probes node = some x → x.indirect = true → exec (.clusterProbeTimeout node) s = .next (reportSuspect node ((reachTime (x.sentAt + 20000000) s).clu fun c => { c with probes := Tbl.del c.probes node }))) ∧
  (∀ (h : CluHdr) (node view : Nat) (u : Traffic) (s : State), fromMember h (.suspect node view) u s → node ≠ ownNode s → Tbl.has s.cluster.members node = true → leaderBut s [node] = ownNode s → exec (.suspect h node view) s = .next (noteSuspect node (heard h u s))) ∧
  (∀ (node : Nat) (e : Nat) (s : State), s.phase = .run → Tbl.find s.cluster.suspects node = some e → leads s = true → exec (.suspectTimeout node) s = .next (removeMember node (reachTime (e + 2000000000) s))) ∧
  (∀ (node : Nat) (u : Traffic) (s : State), s.phase = .run → Tbl.find s.cluster.traffic node = some u → u.prevOk = true → exec (.trafficKeyPreviousExpiry node) s = .next ((reachTime (u.changedAt + 32500000) s).clu fun c => { c with traffic := Tbl.upd c.traffic node fun t => { t with prevOk := false } }))

/-- FUSE_READ answers the fuse contents; FUSE_NONCE_GET stores and answers a fresh nonce; an unowned chip programs a free owner slot on a matching nonce without a signature; revocation, permanent debug lock and unlock consume the nonce and, exactly where the signature verifies, blow their bit or open debug, else answer AUTH_FAILED; permanent debug lock also blows DEBUG_LOCK where it reads 0 (log entry 170); what a fuse command answers follows the read-back of the three fuses of the bit it blew; ROLLBACK advances by one; a report is written to the host's buffer; RECOVERY_LOAD answers the failing check of the image it expects. -/
def Obligations.TrustCommandsComplete : Prop :=
  (∀ (h : MbxHdr) (c : MCmd) (s : State), startsNow { opcode := 0x0101, since := 1, sem := false, group := .trust } h [] c s → exec (.fuseRead h) s = .next (mbxAnswer c (replyOk (fuseReadBody s)) (taken c s))) ∧
  (∀ (h : MbxHdr) (c : MCmd) (s : State), startsNow { opcode := 0x0102, since := 1, sem := true, group := .trust } h [] c s → exec (.fuseNonceGet h) s = .next (mbxAnswer c (replyOk (leBytes 32 (Config.freeValue s.freeCtr))) { taken c s with freeCtr := s.freeCtr + 1, trust := { s.trust with nonce := some (leBytes 32 (Config.freeValue s.freeCtr)) } })) ∧
  (∀ (h : MbxHdr) (slot : Byte) (key : List Byte) (g : Signed) (c : MCmd) (s : State), startsNow { opcode := 0x0103, since := 1, sem := true, group := .trust } h [.num 0 1 slot.toNat, .num 1 1 g.signerSlot, .bytes 4 key, .bytes 104 g.signerKey, .bytes 204 g.nonce, .bytes 236 g.signature] c s → slot.toNat ≤ 3 → g.signerSlot ≤ 3 → powerRefused s = false → s.trust.nonce = some g.nonce → isOwned s = false → exec (.fuseOwnerKeyProgram h slot key g none) s = .next (mbxAnswer c (replyOk []) (State.setOwner { taken c s with trust := { s.trust with nonce := none } } slot.toNat { hash := Config.sha384 key, programmed := true, damaged := false }))) ∧
  (∀ (h : MbxHdr) (slot : Byte) (g : Signed) (blown : BitVec 3) (c : MCmd) (s u : State), startsNow { opcode := 0x0104, since := 1, sem := true, group := .trust } h [.num 0 1 slot.toNat, .num 1 1 g.signerSlot, .bytes 4 g.signerKey, .bytes 104 g.nonce, .bytes 136 g.signature] c s → slot.toNat ≤ 3 → signerBad g = false → powerRefused s = false → s.trust.nonce = some g.nonce → (ownerSlot s slot.toNat).programmed = true → s.fuses.revoke.getLsbD slot.toNat = false → otherUsable slot.toNat s = true → u = blowBit (64 + slot.toNat) blown { taken c s with trust := { s.trust with nonce := none } } → exec (.fuseOwnerKeyRevoke h slot g blown) s = .next (if signatureOk 0x0104 c.body g (taken c s) then mbxAnswer c (fuseReply (u.fuses.bit (64 + slot.toNat)) [] u).1 (fuseReply (u.fuses.bit (64 + slot.toNat)) [] u).2 else mbxAnswer c (replyErr .authFailed 0) { taken c s with trust := { s.trust with nonce := none } })) ∧
  (∀ (h : MbxHdr) (target : Byte) (blown : BitVec 3) (c : MCmd) (s u : State), startsNow { opcode := 0x0105, since := 1, sem := true, group := .trust } h [.num 0 1 target.toNat] c s → powerRefused s = false → target.toNat = rollbackValue s + 1 → confirmedState s = true → rollbackValue s + 1 ≤ runningSecurity s → rollbackValue s < 64 → u = blowBit (lowestRollback s) blown (taken c s) → u.fuses.bit (lowestRollback s) = true → exec (.fuseRollbackAdvance h target blown) s = .next (mbxAnswer c (replyOk (le8 (rollbackValue u) ++ zeros 3)) u)) ∧
  (∀ (h : MbxHdr) (g : Signed) (blown : BitVec 3) (c : MCmd) (s u : State), startsNow { opcode := 0x0106, since := 1, sem := true, group := .trust } h [.num 0 1 g.signerSlot, .bytes 4 g.signerKey, .bytes 104 g.nonce, .bytes 136 g.signature] c s → signerBad g = false → powerRefused s = false → s.trust.nonce = some g.nonce → s.fuses.debugPermanent = false → u = blowBit 69 blown { taken c s with fuses := s.fuses.blow 68 7, trust := { s.trust with nonce := none } } → exec (.fuseDebugPermanent h g blown) s = .next (if signatureOk 0x0106 c.body g (taken c s) then mbxAnswer c (fuseReply (u.fuses.bit 69) [] u).1 (fuseReply (u.fuses.bit 69) [] u).2 else mbxAnswer c (replyErr .authFailed 0) { taken c s with trust := { s.trust with nonce := none } })) ∧
  (∀ (h : MbxHdr) (g : Signed) (c : MCmd) (s : State), startsNow { opcode := 0x0107, since := 1, sem := true, group := .trust } h [.num 0 1 g.signerSlot, .bytes 4 g.signerKey, .bytes 104 g.nonce, .bytes 136 g.signature] c s → signerBad g = false → s.trust.nonce = some g.nonce → s.fuses.debugPermanent = false → debugIsOpen s = false → ∃ t, exec (.debugUnlock h g) s = .next t ∧ (signatureOk 0x0107 c.body g (taken c s) = true → t.trust.debugOpen = true ∧ t.cipher = (zeroSlots { taken c s with trust := { s.trust with nonce := none } }).cipher) ∧ (signatureOk 0x0107 c.body g (taken c s) = false → t = mbxAnswer c (replyErr .authFailed 0) { taken c s with trust := { s.trust with nonce := none } })) ∧
  (∀ (h : MbxHdr) (nonce : List Byte) (addr : W64) (len : W32) (at_ : Nat) (c : MCmd) (s : State), startsNow { opcode := 0x0108, since := 1, sem := false, group := .attest } h [.bytes 0 nonce, .num 32 8 addr.toNat, .num 40 4 len.toNat] c s → 8192 ≤ len.toNat → (attestTurn (taken c s)).1 = some at_ → ∃ t, exec (.attestReport h nonce addr len true) s = .next t ∧ ∃ u, u = (attestTurn (taken c s)).2 ∧ t = mbxAnswer c (replyOk (le32 496 ++ le32 (attestChain u).length)) (hostWrite h.port addr (attestReport nonce at_ u ++ attestChain u) u)) ∧
  (∀ (h : MbxHdr) (imageType : W16) (len : W32) (addr : W64) (o : ImageObs) (k : ImageType) (c : MCmd) (s : State), startsNow { opcode := 0x0109, since := 1, sem := true, group := .trust, recovery := true } h [.num 0 2 imageType.toNat, .num 4 4 len.toNat, .num 8 8 addr.toNat] c s → imageTypeOf imageType.toNat = some k → recoveryNext s = some k → exec (.recoveryLoad h imageType len addr (some o)) s = .next (mbxAnswer c (replyOk (le8 (recoverImage k o (taken c s)).1.toNat ++ zeros 3)) (recoverImage k o (taken c s)).2))

/-- FW_STAGE judges the bytes of the bundle that it is given: with a bundle that fails no check it goes under way in STATE 2 and answers IMAGE_INVALID with the FAIL_CODE otherwise; the end of staging answers the version and the parts and leaves STATE 3; both activations go under way in STATE 4; the handover passes control and opens a 600 s window; arming exchanges the regions; window expiry and a heartbeat gap fall back; confirmation keeps the new version; the synced regions end the update; work on the NOR begins and ends with the rows that name it; status is answered; an abort of a staged bundle drops it. -/
def Obligations.FirmwareCommandsComplete : Prop :=
  (∀ (h : MbxHdr) (addr : W64) (len : W32) (bytes : List Byte) (c : MCmd) (s : State), startsNow { opcode := 0x0201, since := 1, sem := true } h [.num 0 8 addr.toNat, .num 8 4 len.toNat, .num 12 4 (0 : W32).toNat] c s → (s.fw.state = 0 ∨ s.fw.state = 3 ∨ s.fw.state = 9) → 512 ≤ len.toNat → len.toNat ≤ 67108864 → exec (.fwStage h addr len 0 (some bytes)) s = .next (match judgeBundle len.toNat bytes (taken c s) with | .error e => mbxAnswer c (replyErr .imageInvalid e.toNat) (taken c s) | .ok b => underWay c { opcode := 0x0201, since := 1, sem := true } (norWork true ((taken c s).saveFw fun f => { f with state := 2, mode := 255, staged := 0, next := buildRegion b (taken c s), nextVersion := b.manifestVersion, nextParts := b.parts.length, iface := b.iface, copying := false })))) ∧
  (∀ (s : State), s.phase = .run → s.fw.state = 2 → exec (.fwStagingDone true) s = .next (finishOp 0x0201 (replyOk (stageBody s.fw.nextVersion.toNat s.fw.nextParts)) ((norWork false s).modFw fun f => fwRecord { f with state := 3, staging := f.next, staged := f.nextVersion, next := {} }))) ∧
  (∀ (h : MbxHdr) (c : MCmd) (s : State), startsNow { opcode := 0x0202, since := 1, sem := true } h [.num 0 1 0] c s → activateCheck 0 s = none → exec (.fwActivateHitless h) s = .next (underWay c { opcode := 0x0202, since := 1, sem := true } (freeHalf (!s.fw.half) ((taken c s).saveFw fun f => { f with state := 4, mode := 0 })))) ∧
  (∀ (r : ImgRec) (s : State), s.phase = .run → s.fw.state = 4 → s.fw.mode = 0 → s.fw.staging.control = some r → ∃ t, exec (.fwHandoverFreeze true) s = .next t ∧ ∃ u, u = passControl (some (infoOf r)) (match s.fw.iface[0]? with | some x => x | none => (1, 3)) s ∧ t = finishOp 0x0202 (replyOk []) (u.modFw fun f => fwRecord { f with state := 5, windowEnd := some (u.time.toNat + 600000000000) })) ∧
  (∀ (h : MbxHdr) (c : MCmd) (s : State), startsNow { opcode := 0x0202, since := 1, sem := true } h [.num 0 1 (1 : Byte).toNat] c s → activateCheck 1 s = none → exec (.fwActivateNextStart h 1) s = .next (underWay c { opcode := 0x0202, since := 1, sem := true } (norWork true ((taken c s).saveFw fun f => { f with state := 4, mode := 1 })))) ∧
  (∀ (s : State), s.phase = .run → s.fw.state = 4 → s.fw.mode = 1 → exec (.fwArmed none) s = .next (finishOp 0x0202 (replyOk []) ((norWork false s).modFw fun f => fwRecord { f with state := 6, primary := f.staging, staging := f.primary }))) ∧
  (∀ (e : Nat) (s : State), s.phase = .run → s.fw.windowEnd = some e → inTrial s = true → exec (.fwWindowExpiry) s = .next (fwFallback (reachTime e s))) ∧
  (∀ (s : State), s.phase = .run → inTrial s = true → exec (.fwHeartbeatGap) s = .next (fwFallback s)) ∧
  (∀ (h : MbxHdr) (c : MCmd) (s : State), startsNow { opcode := 0x0203, since := 1, sem := true } h [] c s → (s.fw.state = 5 ∨ s.fw.state = 7) → exec (.fwConfirm h) s = .next (mbxAnswer c (replyOk []) ((taken c s).saveFw fun f => { f with state := 1, running := f.staged, staged := 0, windowEnd := none, noFall := false, oldControl := none, copying := true, copyToPrimary := f.mode = 0 || s.boot.src = .staging, mode := 255 }))) ∧
  (∀ (s : State), s.phase = .run → s.fw.copying = true → s.fw.state = 9 → s.boot.src = .primary → exec (.fwRegionsSynced) s = .next (finishCopy s)) ∧
  (∀ (s : State), s.phase = .run → s.boot.stage = .ready → s.boot.src = .staging → s.fw.copying = true → s.fw.state = 9 → exec (.primaryRegionRestore) s = .next (finishCopy (s.modFw fun f => { f with copyToPrimary := true }))) ∧
  (∀ (h : MbxHdr) (c : MCmd) (s : State), startsNow { opcode := 0x0204, since := 1, sem := false, group := .fwStatus } h [] c s → exec (.fwStatusGet h) s = .next (mbxAnswer c (replyOk (fwStatusBody s)) (taken c s))) ∧
  (∀ (h : MbxHdr) (c : MCmd) (s : State), startsNow { opcode := 0x0205, since := 1, sem := true } h [] c s → (s.fw.state = 3 ∨ s.fw.state = 6) → exec (.fwAbort h) s = .next (mbxAnswer c (replyOk []) ((taken c s).saveFw abortStaged)))

/-- REPL_CREATE whose checks pass enters the relationship and sends REPL_OPEN to the target; pause, resume and stop of a relationship take it to PAUSED, back or to STOPPED and journal the change; repair starts; the query answers state, lag and base epoch; a due cycle starts and sets the next due time; a sealed epoch is marked. -/
def Obligations.ReplicationControlCompletes : Prop :=
  (∀ (h : MbxHdr) (nsid : W32) (mode : Byte) (target : W16) (remote : W32) (interval : W32) (v : Ns) (c : MCmd) (s : State), startsNow ⟨0x0704, 3, true, .other, false⟩ h [.num 0 4 nsid.toNat, .num 4 1 mode.toNat, .num 6 2 target.toNat, .num 8 4 remote.toNat, .num 12 4 interval.toNat] c s → createRefusal nsid.toNat mode.toNat target.toNat remote.toNat interval.toNat s = none → Tbl.find s.ns nsid.toNat = some v → exec (.replCreate h nsid mode target remote interval) s = .next (underWay c ⟨0x0704, 3, true, .other, false⟩ (
      let n := nsid.toNat
      let live := s.repls.filter fun e => e.2.state ≠ .stopped || e.2.nsid ≠ n
      let rel := Tbl.freshFrom live live.length 0
      let g := (Tbl.find s.cipher.keys v.key).map (·.cur)
      let kcv := match g with | some k => k.kcv | none => zeros 8
      let x : Repl := { source := true, nsid := n, sync := mode = 0, node := target.toNat, remoteNsid := remote.toNat, interval := interval.toNat, nextDue := s.time.toNat + interval.toNat * 1000000, kcv := kcv, transferGen := match g with | some k => k.gen | none => 0 }
      cluSend target.toNat (.replOpen rel n remote.toNat (mode = 0) v.unitLog v.size kcv) { taken c s with repls := Tbl.set live rel x }))) ∧
  (∀ (h : MbxHdr) (nsid : W32) (op : Byte) (rel : Nat) (x : Repl) (c : MCmd) (s : State), startsNow ⟨0x0705, 3, true, .other, false⟩ h [.num 0 4 nsid.toNat, .num 4 1 op.toNat] c s → op = 0 → nsidBad nsid.toNat = false → replOf nsid.toNat s = some (rel, x) → replHalted x = false → exec (.replControlPause h nsid op) s = .next (mbxAnswer c (replyOk []) (replSaved x.nsid (suspendRepl rel .paused ((dropCycle rel (taken c s)).modRepl rel fun y => { y with resumeTo := if y.state = .transferring then .idle else y.state }))))) ∧
  (∀ (h : MbxHdr) (nsid : W32) (rel : Nat) (x : Repl) (c : MCmd) (s : State), startsNow ⟨0x0705, 3, true, .other, false⟩ h [.num 0 4 nsid.toNat, .num 4 1 1] c s → nsidBad nsid.toNat = false → replOf nsid.toNat s = some (rel, x) → x.state = .paused → exec (.replControlResume h nsid) s = .next (mbxAnswer c (replyOk []) (replSaved x.nsid (startCycle rel (setRepl rel (if x.source && x.resumeTo = .inSync then .suspended else x.resumeTo) (taken c s)))))) ∧
  (∀ (h : MbxHdr) (nsid : W32) (rel : Nat) (x : Repl) (c : MCmd) (s : State), startsNow ⟨0x0705, 3, true, .other, false⟩ h [.num 0 4 nsid.toNat, .num 4 1 2] c s → nsidBad nsid.toNat = false → replOf nsid.toNat s = some (rel, x) → exec (.replControlStop h nsid) s = .next (mbxAnswer c (replyOk []) (stopRepl rel x (taken c s)).2)) ∧
  (∀ (h : MbxHdr) (nsid : W32) (rel : Nat) (x : Repl) (c : MCmd) (s : State), startsNow ⟨0x0705, 3, true, .other, false⟩ h [.num 0 4 nsid.toNat, .num 4 1 3] c s → nsidBad nsid.toNat = false → replOf nsid.toNat s = some (rel, x) → exec (.replControlRepair h nsid) s = .next (mbxAnswer c (replyOk []) (startRepair x.nsid (taken c s)))) ∧
  (∀ (h : MbxHdr) (nsid : W32) (rel : Nat) (x : Repl) (c : MCmd) (s : State), startsNow ⟨0x0706, 3, false, .other, false⟩ h [.num 0 4 nsid.toNat] c s → nsidBad nsid.toNat = false → replNamed nsid.toNat s = some (rel, x) → exec (.replQuery h nsid) s = .next (mbxAnswer c (replyOk (le8 (replNum x.state) ++ zeros 3 ++ le64 x.lag ++ le64 x.base)) (taken c s))) ∧
  (∀ (rel : Nat) (x : Repl) (s : State), s.phase = .run → Tbl.find s.repls rel = some x → x.source = true → x.state ≠ .stopped → exec (.replCycleDue rel) s = .next (startCycle rel ((reachTime x.nextDue s).modRepl rel fun y => { y with nextDue := y.nextDue + y.interval * 1000000 }))) ∧
  (∀ (epoch : Nat) (w : Snap) (s : State), s.phase = .run → Tbl.find s.snaps.views epoch = some w → w.pending = [] → w.sealed_ = false → (s.repls.find? fun e => e.2.source && e.2.cycle = some epoch) = none → exec (.snapshotSealed epoch) s = .next (((w.map.map fun e => e.1 / 512).eraseDups).foldl (fun s i => cacheRead 2 (mapItem epoch i) s) { s with snaps := { s.snaps with views := Tbl.set s.snaps.views epoch { w with sealed_ := true } } }))

/-- Of a message that a member sends for a relationship that it is the partner of: the target accepts REPL_OPEN of a fitting volume, notes a delta and asks for the units that it lacks, stores units, makes a built epoch current, stages a synchronous write; the source starts after REPL_OPEN_ACK, sends missing units and commits, ends its cycle, and finishes writes that the target has acknowledged; either end answers a repair request and takes repair data. -/
def Obligations.ReplicationMessagesComplete : Prop :=
  (∀ (h : CluHdr) (u : Traffic) (rel : Nat) (src : Nat) (remote : Nat) (sync : Bool) (unitLog : Nat) (size : Nat) (kcv : List Byte) (s : State), fromMember h (.replOpen rel src remote sync unitLog size kcv) u s → openBad remote unitLog size kcv (heard h u s) = false → exec (.replOpen h rel src remote sync unitLog size kcv) s = .next (cluSend h.src (.replOpenAck rel 0) (replSaved remote { heard h u s with repls := Tbl.set s.repls (targetKey h.src rel) { source := false, nsid := remote, sync := sync, node := h.src, remoteNsid := src, kcv := kcv, transferGen := genByKcv remote kcv s, opened := true } }))) ∧
  (∀ (h : CluHdr) (u : Traffic) (rel : Nat) (x : Repl) (s : State), fromTarget h (.replOpenAck rel 0) u rel x s → x.opened = false → exec (.replOpenAck h rel 0) s = .next (startCycle rel (finishOp 0x0704 (replyOk []) (replSaved x.nsid ((heard h u s).modRepl rel fun y => { y with opened := true }))))) ∧
  (∀ (h : CluHdr) (u : Traffic) (rel base epoch : Nat) (entries : List (Nat × WireEnt)) (x : Repl) (s : State), fromSource h (.replDelta rel base epoch entries) u rel x s → (base = x.base ∨ base = 0) → exec (.replDelta h rel base epoch entries) s = .next (let x1 : Repl := if x.builtEpoch = epoch then x else { x with built := [], builtEpoch := epoch, reported := false, wanted := false }
      let x2 : Repl := { x1 with built := mergeEntries x1.built entries, reported := true, state := if x1.state = .idle then .transferring else x1.state }
      let s1 := { heard h u s with repls := Tbl.set s.repls (targetKey h.src rel) x2 }
      cluSend h.src (.replDeltaAck rel ((unitsOf entries).filter (lacks x2 s1)) (if x1.reported || !x1.sync then [] else x1.changed)) s1)) ∧
  (∀ (h : CluHdr) (u : Traffic) (rel : Nat) (missing : List Nat) (changed : List (Nat × Nat)) (idle : Bool) (x : Repl) (e : Nat) (w : Snap) (v : Ns) (s : State), fromTarget h (.replDeltaAck rel missing changed) u rel x s → x.cycle = some e → Tbl.find s.snaps.views e = some w → Tbl.find s.ns x.nsid = some v → exec (.replDeltaAck h rel missing changed idle) s = .next (let s1 := (heard h u s).modRepl rel fun y => { y with deltasOut := y.deltasOut - 1 }
      let extra := (unitsTouched v changed).map fun i => (i, wireOf (Tbl.find w.map i))
      let s2 := if extra = [] then s1 else sendDeltas rel x.node x.base e (extra.length + 1) extra s1
      let s3 := s2.modRepl rel fun y => { y with toSend := y.toSend ++ missing.filter fun k => !y.toSend.contains k }
      commitCycle rel (sendUnits idle rel (x.toSend.length + missing.length) s3))) ∧
  (∀ (h : CluHdr) (u : Traffic) (rel base epoch : Nat) (units : List WireUnit) (x : Repl) (v : Ns) (s : State), fromSource h (.replUnits rel base epoch units) u rel x s → Tbl.find s.ns x.nsid = some v → keyBlocks (heard h u s) v = false → exec (.replUnits h rel base epoch units) s = .next (let gen := match Tbl.find s.cipher.keys v.key with | some e => e.cur.gen | none => 0
      let t := takeUnits (targetKey h.src rel) x v units (heard h u s)
      storeGroups v gen x.transferGen t.1.length t.1 t.2)) ∧
  (∀ (h : CluHdr) (u : Traffic) (rel : Nat) (epoch : Nat) (x : Repl) (s : State), fromSource h (.replCommit rel epoch) u rel x s → x.builtEpoch = epoch → x.reported = true → exec (.replCommit h rel epoch) s = .next (formAll (volumePool (heard h u s) x.nsid) ((heard h u s).modRepl (targetKey h.src rel) fun y => { y with wanted := true }))) ∧
  (∀ (h : CluHdr) (u : Traffic) (rel : Nat) (epoch : Nat) (x : Repl) (s : State), fromTarget h (.replCommitAck rel epoch) u rel x s → x.cycle = some epoch → exec (.replCommitAck h rel epoch) s = .next (let s1 := if x.base = 0 then heard h u s else dropView x.base (heard h u s)
      let st : ReplState := if !x.sync then .idle else if x.state = .inSync || x.lagCut = 0 then .inSync else if x.state = .initial then .initial else .suspended
      let s3 := replSaved x.nsid (setRepl rel st (s1.modRepl rel fun y => { y with base := epoch, cycle := none, lag := y.lagCut }))
      if x.waiting || (x.sync && st ≠ .inSync) then startCycle rel s3 else s3)) ∧
  (∀ (h : CluHdr) (u : Traffic) (rel : Nat) (off seq len : Nat) (data : List Nat) (x : Repl) (v : Ns) (s : State), fromSource h (.replWrite rel off seq len data) u rel x s → Tbl.find s.ns x.nsid = some v → x.sync = true → (x.staged.any fun y => y.1 = seq) = false → keyBlocks (heard h u s) v = false → exec (.replWrite h rel off seq len data) s = .next (let id := s.host.nextSeq
      let c : Inflight := { ctrl := 65536, sq := 0, cid := 0, op := .write, nsid := x.nsid, slba := off / blockBytes v, nlb := data.length, slice := v.slice, stage := .running, data := data, mute := true, replica := true }
      let s1 := enterCmd c ((heard h u s).modRepl (targetKey h.src rel) fun y => { y with staged := y.staged ++ [(seq, id)] })
      match runningCmd s1 id .write with | some c1 => startWrite id c1 s1 | none => s1)) ∧
  (∀ (h : CluHdr) (u : Traffic) (rel : Nat) (seq : Nat) (x : Repl) (s : State), fromTarget h (.replWriteAck rel seq) u rel x s → exec (.replWriteAck h rel seq) s = .next (tryFinish seq ((heard h u s).modRepl rel fun y => { y with owed := y.owed.filter (· ≠ seq) }))) ∧
  (∀ (h : CluHdr) (u : Traffic) (rel : Nat) (ranges : List (Nat × Nat)) (key : Nat) (x : Repl) (v : Ns) (s : State), fromMember h (.repairRequest rel ranges) u s → repairRel h.src rel s = some (key, x) → Tbl.find s.ns x.nsid = some v → exec (.repairRequest h rel ranges) s = .next (let r := repairAnswer x v (unitsTouched v ranges) (heard h u s); cluSend h.src (.repairData rel r.1.1 r.1.2) r.2)) ∧
  (∀ (h : CluHdr) (u : Traffic) (rel : Nat) (entries : List (Nat × WireEnt)) (units : List WireUnit) (key : Nat) (x : Repl) (v : Ns) (s : State), fromMember h (.repairData rel entries units) u s → repairRel h.src rel s = some (key, x) → Tbl.find s.ns x.nsid = some v → x.repairing = true → exec (.repairData h rel entries units) s = .next (let ranges := (s.host.poison.filter fun p => p.nsid = x.nsid && p.epoch = none).map fun p => (p.slba, p.nlb)
      let runs := ranges.flatMap fun r => repairRuns x v entries units (heard h u s) r.1 r.2
      let fixed := fun (b : Nat) => runs.any fun r => decide (r.1 ≤ b) && decide (b < r.1 + r.2.length)
      let left := ranges.filter fun r => !(List.range r.2).all fun j => fixed (r.1 + j)
      let s2 := runs.foldl (fun s r => rewriteRun key x.nsid v r s) (repairView v.pool (viewRepairs x v entries units (heard h u s)) (unrepaired x.nsid v.slice left (heard h u s)))
      if runs = [] then s2.modRepl key fun y => { y with repairing := false } else s2))

/-- A period boundary brings the chip time to the next multiple of 100 us, takes the latest capacities, shares and ceilings, refills the balances and starts the issue from zero, and then lets every replication relationship send what the new period pays for. GOV_SHARES_SET whose checks pass takes the new share and ceiling and answers once its record is journaled (log entry 199). STATS_GET writes the group's counters to the host's buffer and answers their length. STATS_GET_TRACE exports the oldest entries of the path. -/
def Obligations.GovernorAndStatisticsComplete : Prop :=
  (∀ (s : State), s.phase = .run → exec (.govPeriodBoundary) s = .next (let s1 := reachTime ((s.time.toNat / 100000 + 1) * 100000) s
      let s2 := { s1 with gov := { acts := s1.gov.acts.mapIdx (govEnter (capacities s1) (s1.phys.throttle != 0)), caps := capacities s1, periods := s1.gov.periods + 1 } }; s2.repls.foldl (pushUnits false) s2)) ∧
  (∀ (h : MbxHdr) (activity : Byte) (share : W16) (ceiling : W16) (c : MCmd) (s : State), startsNow { opcode := 0x0903, since := 3, sem := true, group := .other } h [.num 0 1 activity.toNat, .num 2 2 share.toNat, .num 4 2 ceiling.toNat] c s → sharesCheck activity.toNat share.toNat ceiling.toNat s = none → exec (.govSharesSet h activity share ceiling) s = .next (underWay c { opcode := 0x0903, since := 3, sem := true, group := .other } (configReply 0x15 0x0903 ((taken c s).modAct activity.toNat fun x => { x with newShare := share.toNat, newCeiling := ceiling.toNat })))) ∧
  (∀ (h : MbxHdr) (g : W16) (addr : W64) (len : W32) (l : List Nat) (c : MCmd) (s : State), startsNow { opcode := 0x0904, since := 2, sem := false, group := .other } h [.num 0 2 g.toNat, .num 4 8 addr.toNat, .num 12 4 len.toNat] c s → statsOf g.toNat s = some l → exec (.statsGet h g addr len true) s = .next (mbxAnswer c (replyOk (le32 ((l.flatMap le64).take len.toNat).length)) (hostWrite h.port addr ((l.flatMap le64).take len.toNat) (taken c s)))) ∧
  (∀ (h : MbxHdr) (path : Fin 8) (addr : W64) (len : W32) (wrote : List TraceEnt) (c : MCmd) (s : State), startsNow { opcode := 0x0904, since := 2, sem := false, group := .other } h [.num 0 2 (0x4000 + path.val), .num 4 8 addr.toNat, .num 12 4 len.toNat] c (wrote.foldl (tracePut path.val) s) → s.phase = .run → exec (.statsGetTrace h path addr len wrote true) s = .next (mbxAnswer c (traceExport h path.val addr len.toNat (taken c (wrote.foldl (tracePut path.val) s))).1 (traceExport h path.val addr len.toNat (taken c (wrote.foldl (tracePut path.val) s))).2))

/-- A first error of a unit that is not fenced opens its handler; a fatal one stops the chip; a repeat that passes is a transient fault, one that fails or times out a lasting one; a fenced unit with a repair is asked to be switched on after 1 s and returns to dispatch when it passes its self-test; a batch that is done leaves its lane and forms a group; a host read that gets no completion sets FETCH_ERR, answers DMA_ERROR or fails the command, each with its record. -/
def Obligations.ErrorCommandsComplete : Prop :=
  (∀ (e : ErrObs) (s u : State), (s.phase = .run ∨ s.phase = .flushing) → u = (if e.code = 0x0102 && (e.domain = 17 || e.domain = 18) then fillLost e.address.toNat s else s) → hasBit u.power.fenced e.domain = false → e.code.toNat / 256 ≠ 5 → e.code.toNat / 256 ≠ 4 → (u.unitErr e.domain).handler = none → secondHit e u = false → exec (.errorDetected e none) s = .next (restartRun e (openHandler e u))) ∧
  (∀ (e : ErrObs) (f : Fin 3) (s : State), (s.phase = .run ∨ s.phase = .flushing) → exec (.errorDetected e (some f)) s = .next (failStop (fatalCause f) e.code (unsealed s))) ∧
  (∀ (d : Fin 64) (e : ErrObs) (s : State), (s.phase = .run ∨ s.phase = .flushing) → (s.unitErr d).handler = some e → exec (.errorRepeatResult d true) s = .next (repeatPassed e s)) ∧
  (∀ (d : Fin 64) (e : ErrObs) (s : State), (s.phase = .run ∨ s.phase = .flushing) → (s.unitErr d).handler = some e → exec (.handlerTimeout d) s = .next (repeatFailed e (reachTime ((s.unitErr d).handlerAt + 10000000) s))) ∧
  (∀ (d : Fin 64) (s : State), s.phase = .run → mayReturn d s = true → hasBit s.power.on d = false → hasBit s.power.ramping d = false → s.power.waiting.contains d.val = false → switchRefused d s = false → exec (.fencedUnitRetry d) s = .next (rampOrWait d (reachTime (Tbl.getD s.power.fencedAt d 0 + 1000000000) s))) ∧
  (∀ (d : Fin 64) (s : State), s.phase = .run → mayReturn d s = true → hasBit s.power.on d = true → exec (.unitSelfTestDone d true) s = .next (fenceAlarmSettle (eventFull 0 0x22 d false 0 (le8 d ++ zeros 1) (domainUp d { s with power := { s.power with repairable := clrBit s.power.repairable d, fenced := clrBit s.power.fenced d } })))) ∧
  (∀ (id : Nat) (encs : List (List Byte)) (b : Batch) (v : Ns) (s : State), s.phase = .run → Tbl.find s.grinder.batches id = some b → Tbl.find s.ns b.nsid = some v → (b.units.any fun u => u.ent.isNone) = false → batchEmitted v b encs = true → gatherRoom s v.pool = true → batchVerified v b encs = true → exec (.batchDone id (some encs)) s = .next (formAll v.pool (gatherGroup v b.units encs (batchRedone id (s.grind fun g => { g with batches := Tbl.del g.batches id, lanes := Tbl.upd g.lanes b.lane fun l => { l with erred := false } }))))) ∧
  (∀ (p : Port) (s : State), s.phase = .run → canFetch p s = true → exec (.pcieCompletionTimeout (.ring p)) s = .next (timeoutRecord p ((s.port p).reqBase + BitVec.ofNat 64 (s.port p).reqHead) 0 (aerUncor p false 14 (s.modPort p fun r => { r with fetchErr := true })))) ∧
  (∀ (p : Port) (ring : Bool) (tag : W32) (addr : W64) (c : MCmd) (s : State), s.phase = .run → (s.mbx.accepted.find? fun c => c.hdr.port = p && c.hdr.ring = ring && c.hdr.tag = tag && readsHost c.opcode) = some c → exec (.pcieCompletionTimeout (.buffer p ring tag addr)) s = .next (mbxAnswer c (replyErr .dmaError 0) (timeoutRecord p addr tag (aerUncor p false 14 (mbxUnqueue c s)))))

/-- A read of UDMA_CHn_OWNER of a free lendable channel claims it for the reading port; the owner's release disables and frees it; a START by one who may write the idle channel writes CTRL and starts the run; clearing ENABLE stops it; a head write frees queue space; a tick begins a burst, or is missed while one runs; a moved burst advances the run or ends it, and a failed one ends it with its status. -/
def Obligations.UtilityDmaComplete : Prop :=
  (∀ (n : Fin 32) (p : Port) (s : State), s.phase = .run → (s.port p).caps.d3hot = false → 24 ≤ n.val → (s.chan n).owner = none → exec (.udmaOwnerRead n (.one p)) s = .next ((emit (.readData p (udmaOff n 0x3C) ((udmaOwnerReg n (s.chan n)).setWidth 64)) s).modChan n fun c => { c with owner := some p })) ∧
  (∀ (n : Fin 32) (p : Port) (s : State), s.phase = .run → (s.port p).caps.d3hot = false → 24 ≤ n.val → (s.chan n).owner = some p → exec (.udmaOwnerRelease n p) s = .next ((stopChan n s).modChan n fun c => { c with owner := none })) ∧
  (∀ (n : Fin 32) (p : Port) (ctrl : W32) (s : State), s.phase = .run → (s.port p).caps.d3hot = false → 24 ≤ n.val → (s.chan n).owner = some p → (s.chan n).busy = false → (s.chan n).armed = false → (ctrl ||| 1).getLsbD 1 = true → (ctrl ||| 1).getLsbD 0 = true → exec (.udmaStart n (.port p) ctrl) s = .next (startChan n (s.modChan n (putCtrl (ctrl ||| 1))))) ∧
  (∀ (n : Fin 32) (who : UdmaBy) (ctrl : W32) (s : State), s.phase = .run → (∀ p, who = .port p → (s.port p).caps.d3hot = false) → udmaMay who n (s.chan n) = true → ((s.chan n).busy || (s.chan n).armed) = true → (ctrl &&& ~~~ 2).getLsbD 1 = false → (ctrl &&& ~~~ 2).getLsbD 0 = false → exec (.udmaEnableClear n who ctrl) s = .next ((stopChan n s).modChan n fun d => d)) ∧
  (∀ (n : Fin 32) (who : UdmaBy) (v : BitVec 12) (s : State), s.phase = .run → (∀ p, who = .port p → (s.port p).caps.d3hot = false) → udmaMay who n (s.chan n) = true → exec (.udmaCqHeadWrite n who v) s = .next (writeCqHead n v s)) ∧
  (∀ (n : Fin 32) (s : State), s.phase = .run → paceMode (s.chan n) = 1 → ((s.chan n).busy || (s.chan n).armed) = true → exec (.udmaTimerTick n) s = .next (let s1 := (reachTime (s.chan n).nextTick s).modChan n fun c => { c with nextTick := c.nextTick + period (s.chan n) * 1000 }
      if (s.chan n).busy then s1.modChan n fun c => { c with missed := min 255 (c.missed + 1) } else s1.modChan n beginBurst)) ∧
  (∀ (n : Fin 32) (l : List Byte) (s : State), s.phase = .run → (s.chan n).busy = true → (s.chan n).held = none → exec (.udmaRunComplete n (.moved l)) s = .next (burstDone n l s))

/-- A fetch that may happen, from the queue that arbitration names, of a controller of the slice whose turn it is, takes the entry and runs its checks. Of the command that runs: a write with space and a usable key is staged or waits for admission, a waiting one is admitted, a whole one is mirrored and completes when it may; a read, verify or compare of unpoisoned blocks reads and answers; compare and write starts its write half on a match; Write Zeroes, Deallocate and Write Uncorrectable go into a record group; a Flush waits for what was fetched before it. -/
def Obligations.HostCommandsComplete : Prop :=
  (∀ (ctrl sq : Nat) (e : SubEntry) (c : Ctrl) (left : List Nat) (s : State), s.phase = .run → Tbl.find s.host.ctrls ctrl = some c → mayFetch c s = true → sq ≠ 0 → arbNext c = some (sq, left) → (e.op ≠ some .compareWrite ∨ 2 ≤ queued c sq) → (findTurn s).host.turn = some c.slice → hasWork (findTurn s) c.slice = true → exec (.nvmeCommandFetch ctrl sq e) s = .next (fetchCmd ctrl sq left c e (findTurn s))) ∧
  (∀ (id : Nat) (c : Inflight) (v : Ns) (x : Pool) (s : State), s.phase = .run → runningCmd s id .write = some c → Tbl.find s.ns c.nsid = some v → Tbl.find s.pools v.pool = some x → (writeLayout x).reserve ≤ freeSegs x → keyBlocks s v = false → writeGone s = false → exec (.write id) s = .next (let s1 := if c.replica then s else divergeTarget c.nsid s
      if s1.carafe.waiting = [] && admits (granules (c.nlb * blockBytes v)) s1 then stageWrite id c s1 else { s1.modCmd id (fun c => { c with stage := .admitWait }) with carafe := { s1.carafe with waiting := sortBy (fun a b => decide (a < b)) (s1.carafe.waiting ++ [id]) } })) ∧
  (∀ (id : Nat) (rest : List Nat) (c : Inflight) (v : Ns) (s : State), s.phase = .run → s.carafe.waiting = id :: rest → cmdAt s id = some c → Tbl.find s.ns c.nsid = some v → exec (.writeAdmission) s = .next (if admits (granules (c.nlb * blockBytes v)) s then stageWrite id c { s with carafe := { s.carafe with waiting := rest } } else s)) ∧
  (∀ (id : Nat) (data : List Nat) (c : Inflight) (s : State), s.phase = .run → cmdAt s id = some c → c.stage = .staging → listBad c s = false → data.length = c.nlb → exec (.writeStagedWhole id (some data)) s = .next (let s1 := (s.modOwn id fun d => { d with whole := true, data := data }).modCmd id fun c => { c with stage := .staged }
      tryFinish id (sendSync id c data (if peerPresent s1 then jalSend (.mirrorData id c.nsid c.slba data) s1 else s1)))) ∧
  (∀ (id : Nat) (c : Inflight) (s : State), s.phase = .run → runningCmd s id .read = some c → firstPoison s c.nsid c.slba c.nlb = none → readGone s = false → listBad c s = false → exec (.read id) s = .next (startRead id c s)) ∧
  (∀ (id : Nat) (c : Inflight) (s : State), s.phase = .run → runningCmd s id .read = some c → firstPoison s c.nsid c.slba c.nlb = none → readGone s = false → listBad c s = false → Tbl.has s.ns c.nsid = true → storedUnits s c = [] → exec (.read id) s = .next (let s1 := mapsRead c s
      let data := liveBlocks s1 c.nsid c.slba c.nlb
      completeCmd id nsOk (countHost id (cmdBytes c s1) (if c.forwarded then s1.modCmd id fun c => { c with data := data } else sendData c data s1)))) ∧
  (∀ (id : Nat) (c : Inflight) (s : State), s.phase = .run → runningCmd s id .verify = some c → firstPoison s c.nsid c.slba c.nlb = none → readGone s = false → listBad c s = false → exec (.verify id) s = .next (startRead id c s)) ∧
  (∀ (id : Nat) (c : Inflight) (s : State), s.phase = .run → runningCmd s id .verify = some c → firstPoison s c.nsid c.slba c.nlb = none → readGone s = false → listBad c s = false → Tbl.has s.ns c.nsid = true → storedUnits s c = [] → exec (.verify id) s = .next (completeCmd id nsOk (countHost id (cmdBytes c (mapsRead c s)) (mapsRead c s)))) ∧
  (∀ (id : Nat) (host : List Nat) (c : Inflight) (s : State), s.phase = .run → runningCmd s id .compare = some c → firstPoison s c.nsid c.slba c.nlb = none → readGone s = false → listBad c s = false → exec (.compare id (some host)) s = .next (startRead id { c with data := host } (hostGiven id c host s))) ∧
  (∀ (id : Nat) (host : List Nat) (c : Inflight) (s : State), s.phase = .run → runningCmd s id .compare = some c → firstPoison s c.nsid c.slba c.nlb = none → readGone s = false → listBad c s = false → Tbl.has s.ns c.nsid = true → storedUnits (hostGiven id c host s) { c with data := host } = [] → exec (.compare id (some host)) s = .next (let s1 := mapsRead { c with data := host } (hostGiven id c host s)
      completeCmd id (if host = liveBlocks s1 c.nsid c.slba c.nlb then nsOk else nsCompareFail) (countHost id (cmdBytes { c with data := host } s1) s1))) ∧
  (∀ (id : Nat) (host : List Nat) (c : Inflight) (s : State), s.phase = .run → runningCmd s id .compareWrite = some c → firstPoison s c.nsid c.slba c.nlb = none → readGone s = false → listBad c s = false → exec (.compareAndWrite id (some host)) s = .next (startRead id { c with data := host } (hostGiven id c host s))) ∧
  (∀ (id : Nat) (host : List Nat) (c : Inflight) (s : State), s.phase = .run → runningCmd s id .compareWrite = some c → firstPoison s c.nsid c.slba c.nlb = none → readGone s = false → listBad c s = false → Tbl.has s.ns c.nsid = true → storedUnits (hostGiven id c host s) { c with data := host } = [] → exec (.compareAndWrite id (some host)) s = .next (let s1 := mapsRead { c with data := host } (hostGiven id c host s)
      if host = liveBlocks s1 c.nsid c.slba c.nlb then startWrite id { c with data := host, matched := true } (s1.modCmd id fun c => { c with matched := true }) else completeCmd id nsCompareFail s1)) ∧
  (∀ (id : Nat) (c : Inflight) (v : Ns) (s : State), s.phase = .run → runningCmd s id .writeZeroes = some c → Tbl.find s.ns c.nsid = some v → stagedOver c.nsid c.slba c.nlb s = false → exec (.writeZeroes id) s = .next (zeroGroup id c v c.slba c.nlb (if c.deac then none else some .zero) s)) ∧
  (∀ (id : Nat) (c : Inflight) (v : Ns) (a : Nat) (n : Nat) (rest : List (Nat × Nat)) (s : State), s.phase = .run → runningCmd s id .dsm = some c → Tbl.find s.ns c.nsid = some v → c.ranges = (a, n) :: rest → c.deac = true → listBad c s = false → stagedOver c.nsid a n s = false → exec (.datasetManagement id) s = .next (zeroGroup id c v a n none s)) ∧
  (∀ (id : Nat) (c : Inflight) (v : Ns) (s : State), s.phase = .run → runningCmd s id .writeUncorrectable = some c → Tbl.find s.ns c.nsid = some v → exec (.writeUncorrectable id) s = .next (addGroup { pool := v.pool, cmds := [id], effects := [.poison c.nsid none c.slba c.nlb (c.lock.getD id)] } (divergeTarget c.nsid (s.modCmd id fun c => { c with stage := .grouped })))) ∧
  (∀ (id : Nat) (c : Inflight) (s : State), s.phase = .run → runningCmd s id .flush = some c → exec (.flush id) s = .next (let before := (s.host.inflight.filter fun e => decide (e.1 < id) && (flushNs c s).contains e.2.nsid && [NvmOp.write, .compareWrite, .writeZeroes, .dsm].contains e.2.op).map (·.1)
      if before = [] then finishFlush id c s else s.modCmd id fun c => { c with stage := .grouped, after := before }))

/-- A page that passes its read-back is verified, one that fails for the second time is written again; a decoded codeword ends, a failed one goes to its next stage; an idle band closes; background work that the governor lets run journals the intent of a block, moves the live units of a segment, or hard-reads the page whose turn scrubbing has; a module that is UP is polled. -/
def Obligations.FlashCommandsComplete : Prop :=
  (∀ (m : Fin 96) (page : Nat) (v : VPage) (res : List DecodeResult) (s : State), (s.phase = .run ∨ s.phase = .flushing) → Tbl.find (s.mod m).media.verify page = some v → v.answered = true → v.done = false → pagePasses res = true → exec (.pageVerify m page res) s = .next (pageVerified m page v (if v.failed then transientFault (plainErr 0x0106 (quadDomain (quadOf m)) (m % 4) page 0 0) (readPage false m page 0xFFFF 0 (verifyTime m page v s)) else readPage false m page 0xFFFF 0 (verifyTime m page v s)))) ∧
  (∀ (m : Fin 96) (page : Nat) (v : VPage) (res : List DecodeResult) (s : State), (s.phase = .run ∨ s.phase = .flushing) → Tbl.find (s.mod m).media.verify page = some v → v.answered = true → v.done = false → v.failed = true → pagePasses res = false → exec (.pageVerify m page res) s = .next (verifyLost m page v (readPage false m page 0xFFFF 0 (verifyTime m page v s)))) ∧
  (∀ (m : Fin 96) (cw : Nat) (res : DecodeResult) (corrected : Nat) (offsets : List Int) (stage : Nat) (again : Bool) (dec : Nat) (job : DecJob) (s : State), (s.phase = .run ∨ s.phase = .flushing) → Tbl.find (s.mod m).media.decodes cw = some (stage, again) → holderOf s m cw = some (dec, job) → decodedBits res = some corrected → exec (.ldpcDecodeDone m cw res offsets) s = .next (let s1 := decoderFree dec (bumpMedia m (stage - 1) 1 s)
      decodeOk m cw stage again corrected offsets (checkCw m cw (placeOfPage s1 m (cw / 16 * 16)) (decodedData res) s1))) ∧
  (∀ (m : Fin 96) (cw : Nat) (res : DecodeResult) (offsets : List Int) (stage : Nat) (again : Bool) (dec : Nat) (job : DecJob) (s : State), (s.phase = .run ∨ s.phase = .flushing) → Tbl.find (s.mod m).media.decodes cw = some (stage, again) → holderOf s m cw = some (dec, job) → decodedBits res = none → stage < 3 → exec (.ldpcDecodeDone m cw res offsets) s = .next (readPage job.background m (cw / 16 * 16) (2 ^ (cw % 16)) stage ((decoderFree dec (bumpMedia m (stage - 1) 1 s)).modMedia m fun d => { d with decodes := Tbl.set d.decodes cw (stage + 1, again) }))) ∧
  (∀ (m : Fin 96) (inReloc : Bool) (b : Band) (s : State), s.phase = .run → bandOf (s.mod m).media inReloc = some b → exec (.bandIdleClose m inReloc) s = .next (let s1 := fillBand m b (reachTime (b.lastWrite.toNat + 3600000000000) s)
      let s2 := s1.modMedia m fun d => { if inReloc then { d with relocBand := none } else { d with newBand := none } with closing := d.closing ++ [b] }
      let s3 := b.blocks.foldl (fun s x => s.modBlock m (x.1 * 2 ^ 14 + x.2) fun k => { k with state := if k.state = .opened then .closed else k.state }) s2
      drainWait m (b.blocks.foldl (fun s x => levelWear m x.1 s) s3))) ∧
  (∀ (m : Fin 96) (s : State), s.phase = .run → (s.kport m).state = .up → exec (.moduleInfoPoll m) s = .next (kamSend m .moduleInfo s)) ∧
  (∀ (m : Fin 96) (b : Nat) (idle : Bool) (s u : State), s.phase = .run → (block (s.mod m) b).copying = false → (block (s.mod m) b).state = .closed → reclaimTakes (s.mod m) b = true → validStrips (s.mod m) b ≠ [] → u = relocReady m ((s.modBlock m b fun b => { b with state := if b.state = .closed then .source else b.state, intent := true }).modMedia m fun d => { d with reloc := d.reloc.filter (· ≠ b) }) → relocTargets u m b ≠ [] → exec (.blockReclaim m b idle) s = .next (addGroup { pool := (poolOf s m).getD 255, intents := [(m.val, b)], notes := [intentRecord m b (relocTargets u m b)] } u)) ∧
  (∀ (pool : Fin 8) (seg : Nat) (idle : Bool) (p : Pool) (g : Seg) (s : State), s.phase = .run → Tbl.find s.pools pool = some p → Tbl.find p.segs seg = some g → cleanTakes s p (seg, g) = true → exec (.segmentCleaning pool seg idle) s = .next (moveSegment 0 idle pool seg s)) ∧
  (∀ (m : Fin 96) (page : Nat) (idle : Bool) (s : State), s.phase = .run → scrubNext (s.mod m) = some page → govMay 2 idle [(1, 1152), (2, 1152)] s = true → exec (.scrubPage m page idle) s = .next (let b := block (s.mod m) (blkOf page)
      let s1 := bumpMedia m 12 1 (readPage true m page 0xFFFF 0 ((govIssue 2 [(1, 1152), (2, 1152)] s).modMedia m fun d => { d with scrubbed := some page }))
      if pageIdx page + 1 = b.written ∧ 100000 ≤ b.reads ∧ ¬ (s1.mod m).media.reloc.contains (blkOf page) then s1.modBlock m (blkOf page) fun b => { b with reads := 0 } else s1))

/-- A gathering segment with groups closes; the next record group that may commit is committed and what follows it is done; compaction notes the highest committed group, gathers the pages that have changed and sends their strips as the governor lets it, and its programmed pages are followed by its COMPACT records; a way converts to zeroed scratchpad and returns; the check of a pool's open segments marks what it found suspect and brings the pool online. -/
def Obligations.CarafeAndJournalComplete : Prop :=
  (∀ (pool : Fin 8) (gather : Nat) (p : Pool) (g : Gather) (s : State), s.phase = .run → Tbl.find s.pools pool = some p → Tbl.find p.gathers gather = some g → g.granules ≠ 0 → g.through = none → g.closing = false → exec (.segmentClose pool gather) s = .next (if g.full || decide (9 * ownLimit s < 10 * ownDirty s) then closeGather pool gather s else closeGather pool gather (reachTime (g.opened.toNat + 50000000) s))) ∧
  (∀ (n : Nat) (g : Group) (s : State), s.phase = .run → nextCommit s = some (n, g) → mayCommit s n g = true → exec (.journalGroupCommit) s = .next (afterCommit (commitGroup n g s))) ∧
  (∀ (idle : Bool) (s u : State), s.phase = .run → s.journal.compacting = none → u = (if 2 ^ 28 < liveJournal s then s else reachTime (s.journal.lastCompact + 2000000000) s) → exec (.compactionStart idle) s = .next (payAll idle ((u.pools.map (·.1)).foldl (pageGathers (highestCommitted u)) { u with journal := { u.journal with compacting := some (highestCommitted u), lastCompact := u.time.toNat } }))) ∧
  (∀ (idle : Bool) (g : Nat) (s : State), s.phase = .run → s.journal.compacting = some g → exec (.compactionStart idle) s = .next (payAll idle s)) ∧
  (∀ (g : Nat) (s : State), s.phase = .run → s.journal.compacting = some g → pagesOut s = false → ((openGroups s).any fun x => x.effects.contains (.compact g)) = false → exec (.compactionPagesProgrammed) s = .next (compactGroups g ((s.pools.filter fun p => p.2.owned).map (·.1)) s)) ∧
  (∀ (s : State), s.phase = .run → s.mapCache.ways < 8 → exec (.scratchpadConvert) s = .next ({ s with mapCache := { s.mapCache with ways := s.mapCache.ways + 1, banks := dropWay (15 - s.mapCache.ways) s.mapCache.banks }, onchip := zeroWay s.mapCache.ways s.onchip })) ∧
  (∀ (s : State), s.phase = .run → 0 < s.mapCache.ways → exec (.scratchpadReturn) s = .next ({ s with mapCache := { s.mapCache with ways := s.mapCache.ways - 1 }, onchip := zeroWay (s.mapCache.ways - 1) s.onchip })) ∧
  (∀ (pool : Fin 8) (bad : List Nat) (p : Pool) (s : State), s.phase = .run → Tbl.find s.pools pool = some p → p.checking = true → exec (.openSegmentCheck pool bad) s = .next (poolsReach ((suspectSegs pool (bad.filter (inOpenList p)) s).modPool pool fun p => { p with checking := false })))

/-- With debug closed, and not opened since reset, and a key encryption key held: a KEY_LOAD of a free index or of the KTWK, and a KEY_ROTATE of a held one, take the new key exactly where its wrap opens and its contents are admitted, journal it and succeed, else answer AUTH_FAILED or the offset of the field; KEY_DESTROY of an unnamed index zeroes its slots and removes it; KEY_QUERY answers kind, state, uses and limit; a slot fill puts the unwrapped key into a slot, or marks the generation unusable. -/
def Obligations.KeyCommandsComplete : Prop :=
  (∀ (h : MbxHdr) (index : W32) (kind : Nat) (wrapped : List Byte) (k : List Byte) (c : MCmd) (s : State), startsNow ⟨0x0601, 2, true, .other, false⟩ h [.num 0 4 index.toNat, .num 4 1 kind, .bytes 8 wrapped] c s → index.toNat ≤ 1048575 → keysRefused s = false → kind ≤ 1 → Tbl.has s.cipher.keys index.toNat = false → s.cipher.ktwk = some k → exec (.keyLoad h index kind wrapped) s = .next (match unwrapAs k wrapped kind index.toNat with | none => mbxAnswer c (replyErr .authFailed 0) (taken c s) | some (plain, lim) => if plainBad kind plain then mbxAnswer c (fieldAt 8) (taken c s) else mbxAnswer c (replyOk []) (configGroup 255 0x12 ((taken c s).ciph fun c => { c with keys := Tbl.set c.keys index.toNat { cur := { wrapped := wrapped, kind := kind, limitLog2 := lim, kcv := kcvOf plain } } })))) ∧
  (∀ (h : MbxHdr) (wrapped : List Byte) (c : MCmd) (s : State), startsNow ⟨0x0601, 2, true, .other, false⟩ h [.num 0 4 0xFFFFFFFF, .bytes 8 wrapped] c s → keysRefused s = false → s.cipher.ktwk = none → exec (.ktwkLoad h wrapped) s = .next (match unwrapAs zeroKey wrapped 3 ktwkIndex with | none => mbxAnswer c (replyErr .authFailed 0) (taken c s) | some (plain, _) => if plainBad 3 plain then mbxAnswer c (fieldAt 8) (taken c s) else mbxAnswer c (replyOk []) (recheckKeys (writeKtwk (plain.take 32) none (taken c s))))) ∧
  (∀ (h : MbxHdr) (index : W32) (wrapped : List Byte) (k : List Byte) (e : KeyEnt) (c : MCmd) (s : State), startsNow ⟨0x0602, 2, true, .other, false⟩ h [.num 0 4 index.toNat, .bytes 8 wrapped] c s → index.toNat ≤ 1048575 → keysRefused s = false → s.cipher.ktwk = some k → Tbl.find s.cipher.keys index.toNat = some e → e.retired.length < 255 → retiredCount s < 1048576 → exec (.keyRotate h index wrapped) s = .next (match unwrapAs k wrapped e.cur.kind index.toNat with | none => mbxAnswer c (replyErr .authFailed 0) (taken c s) | some (plain, lim) => if plainBad e.cur.kind plain || (e.cur :: e.retired).any (fun g => g.kcv = kcvOf plain) then mbxAnswer c (fieldAt 8) (taken c s) else mbxAnswer c (replyOk []) (rekeyed index.toNat s.repls (keyLimitAlarm (configGroup 255 0x12 ((taken c s).ciph fun c => { c with keys := Tbl.set c.keys index.toNat { e with cur := { wrapped := wrapped, kind := e.cur.kind, gen := e.cur.gen + 1, limitLog2 := lim, kcv := kcvOf plain, firstUnit := firstUnits s }, retired := { e.cur with state := 5 } :: e.retired } })))))) ∧
  (∀ (h : MbxHdr) (wrapped : List Byte) (k : List Byte) (c : MCmd) (s : State), startsNow ⟨0x0602, 2, true, .other, false⟩ h [.num 0 4 0xFFFFFFFF, .bytes 8 wrapped] c s → keysRefused s = false → s.cipher.ktwk = some k → exec (.ktwkRotate h wrapped) s = .next (match unwrapAs k wrapped 3 ktwkIndex with | none => mbxAnswer c (replyErr .authFailed 0) (taken c s) | some (plain, _) => if plainBad 3 plain || plain.take 32 == k then mbxAnswer c (fieldAt 8) (taken c s) else mbxAnswer c (replyOk []) (configGroup 255 0x12 (recheckKeys (rekeyTable k (plain.take 32) (taken c s)))))) ∧
  (∀ (h : MbxHdr) (index : W32) (c : MCmd) (s : State), startsNow ⟨0x0603, 2, true, .other, false⟩ h [.num 0 4 index.toNat] c s → keyIndexBad index.toNat = false → Tbl.has s.cipher.keys index.toNat = true → keyNamed index.toNat s = false → exec (.keyDestroy h index) s = .next (mbxAnswer c (replyOk []) (keyLimitAlarm (configGroup 255 0x12 ((taken c s).ciph fun c => { c with slots := c.slots.filter fun e => match e.2.use with | .gen j _ => j ≠ index.toNat | _ => true, keys := Tbl.del c.keys index.toNat }))))) ∧
  (∀ (h : MbxHdr) (index : W32) (e : KeyEnt) (c : MCmd) (s : State), startsNow ⟨0x0604, 2, false, .other, false⟩ h [.num 0 4 index.toNat] c s → keyIndexBad index.toNat = false → Tbl.find s.cipher.keys index.toNat = some e → exec (.keyQuery h index) s = .next (mbxAnswer c (replyOk (le8 e.cur.kind ++ le8 e.cur.state ++ zeros 2 ++ le64 e.cur.uses ++ le64 (genLimit e.cur))) (taken c s))) ∧
  (∀ (index : Nat) (gen : Nat) (e : KeyEnt) (g : KeyGen) (n : Nat) (s : State), (s.phase = .run ∨ s.phase = .flushing) → Tbl.find s.cipher.keys index = some e → genOf e gen = some g → slotOf (.gen index gen) s = none → victimSlot s = some n → exec (.keySlotFill index gen) s = .next (match genPlain (cacheRead 5 index s) index g with | some key => retryWaits (fillSlot n { use := .gen index gen, gcmKind := decide (g.kind = 1), key := key } (cacheRead 5 index s)) | none => retryWaits (keyUnusable index gen 1 ((cacheRead 5 index s).ciph fun c => { c with fillFails := satAdd 65535 c.fillFails 1 }))))

/-- On a powered group, with a data length that the operation takes and the key in slot n: an XTS request completes with the transformed unit and counts the use where it encrypts; a re-encryption completes with the text under the second key; GCM_OPEN of a free context opens it; GCM_DATA of an owned, unfailed context takes AAD or text; GCM_CLOSE of an owned context frees it and writes or compares the tag; a raw request completes with the AES of its blocks. -/
def Obligations.CipherRequestsComplete : Prop :=
  (∀ (r : CipherReq) (n : Nat) (k : KeySlot) (s : State), (s.phase = .run ∨ s.phase = .flushing) → groupUp s 0 = true → xtsBad r = false → keyRef s r.keyIndex r.gen (some r.tweakIv.toNat) = .slot n k → exec (.xtsEncrypt r) s = .next (cipherDone r .ok 0 r.data.length (Config.xts true k.key r.tweakIv r.data) (countSlotUse k (touchSlot n s)))) ∧
  (∀ (r : CipherReq) (n : Nat) (k : KeySlot) (s : State), (s.phase = .run ∨ s.phase = .flushing) → groupUp s 0 = true → xtsBad r = false → keyRef s r.keyIndex r.gen (some r.tweakIv.toNat) = .slot n k → exec (.xtsDecrypt r) s = .next (cipherDone r .ok 0 r.data.length (Config.xts false k.key r.tweakIv r.data) (touchSlot n s))) ∧
  (∀ (r : CipherReq) (n : Nat) (k : KeySlot) (n2 : Nat) (k2 : KeySlot) (s : State), (s.phase = .run ∨ s.phase = .flushing) → groupUp s 0 = true → xtsBad r = false → keyRef s r.keyIndex r.gen (some r.tweakIv.toNat) = .slot n k → keyRef s r.keyIndex2 r.gen2 (some r.tweak2.toNat) = .slot n2 k2 → exec (.xtsReencrypt r) s = .next (cipherDone r .ok 0 r.data.length (Config.xts true k2.key (r.tweak2.setWidth 128) (Config.xts false k.key r.tweakIv r.data)) (countSlotUse k2 (touchSlot n2 (touchSlot n s))))) ∧
  (∀ (r : CipherReq) (m : Nat) (k : KeySlot) (s : State), (s.phase = .run ∨ s.phase = .flushing) → r.ctx < 64 → groupUp s (r.ctx / 32) = true → Tbl.find s.cipher.gcm r.ctx = none → keyRef s r.keyIndex r.gen none = .slot m k → k.gcmKind = true → k.use = .derived → exec (.gcmOpen r) s = .next (cipherDone r .ok r.ctx 0 [] ((if r.decrypt then touchSlot m s else countSlotUse k (touchSlot m s)).ciph fun c => { c with gcm := Tbl.set c.gcm r.ctx { owner := r.agent, decrypt := r.decrypt, weight := max 1 r.weight, slot := m, iv := leBytes 12 r.tweakIv.toNat } }))) ∧
  (∀ (r : CipherReq) (c : GcmCtx) (s : State), (s.phase = .run ∨ s.phase = .flushing) → Tbl.find s.cipher.gcm r.ctx = some c → c.owner = r.agent → c.failed = false → r.aad = true → c.aad.length + r.data.length ≤ 65536 → exec (.gcmData r) s = .next (cipherDone r .ok r.ctx r.data.length [] (s.ciph fun k => { k with gcm := Tbl.set k.gcm r.ctx { c with aad := c.aad ++ r.data } }))) ∧
  (∀ (r : CipherReq) (c : GcmCtx) (s : State), (s.phase = .run ∨ s.phase = .flushing) → Tbl.find s.cipher.gcm r.ctx = some c → c.owner = r.agent → c.failed = false → r.aad = false → c.final = false → c.text.length + r.data.length < 4294967296 → exec (.gcmData r) s = .next (let outp := Config.gcmText (slotKey s c.slot) c.iv c.text.length r.data
      cipherDone r .ok r.ctx r.data.length outp (s.ciph fun k => { k with gcm := Tbl.set k.gcm r.ctx { c with text := c.text ++ (if c.decrypt then r.data else outp), final := c.final || decide (r.data.length % 16 ≠ 0) } }))) ∧
  (∀ (r : CipherReq) (c : GcmCtx) (s : State), (s.phase = .run ∨ s.phase = .flushing) → Tbl.find s.cipher.gcm r.ctx = some c → c.owner = r.agent → c.failed = false → exec (.gcmClose r) s = .next (let tag := Config.gcmTag (slotKey s c.slot) c.iv c.aad c.text
      let s1 := s.ciph fun k => { k with gcm := Tbl.del k.gcm r.ctx }
      if c.decrypt then cipherDone r (if tag = leBytes 16 r.tweakIv.toNat then .ok else .tagFail) r.ctx c.text.length [] s1 else cipherDone r .ok r.ctx c.text.length tag s1)) ∧
  (∀ (r : CipherReq) (n : Nat) (k : KeySlot) (s : State), (s.phase = .run ∨ s.phase = .flushing) → groupUp s 0 = true → r.data.length ≠ 0 → r.data.length % 16 = 0 → r.data.length ≤ 4294967280 → keyRef s r.keyIndex r.gen none = .slot n k → k.gcmKind = true → exec (.rawEncrypt r) s = .next (cipherDone r .ok 0 r.data.length (Config.aes true k.key r.data) (touchSlot n s))) ∧
  (∀ (r : CipherReq) (n : Nat) (k : KeySlot) (s : State), (s.phase = .run ∨ s.phase = .flushing) → groupUp s 0 = true → r.data.length ≠ 0 → r.data.length % 16 = 0 → r.data.length ≤ 4294967280 → keyRef s r.keyIndex r.gen none = .slot n k → k.gcmKind = true → exec (.rawDecrypt r) s = .next (cipherDone r .ok 0 r.data.length (Config.aes false k.key r.data) (touchSlot n s)))

/-- An allocation hands out the lowest free context, or counts the lack of one; a context that no other agent owns is opened, closed, given its length, fed and compared by its owner; the accelerator takes an operation while it is idle and ends it with its result pair. -/
def Obligations.DigestCommandsComplete : Prop :=
  (∀ (agent : Nat) (n : Nat) (s : State), (s.phase = .run ∨ s.phase = .flushing) → ((List.range 8).find? fun n => !Tbl.has s.cipher.dgs n) = some n → exec (.dgsAlloc agent) s = .next (emit (.dgsAlloc agent (BitVec.ofNat 32 n)) (s.ciph fun c => { c with dgs := Tbl.set c.dgs n { owner := some agent } }))) ∧
  (∀ (agent : Nat) (n : Fin 8) (v : DgsCtrl) (key : W32) (dest : BitVec 12) (s : State), (s.phase = .run ∨ s.phase = .flushing) → (Tbl.find s.cipher.dgs n = none ∨ ∃ c, Tbl.find s.cipher.dgs n = some c ∧ c.owner = some agent) → exec (.dgsCtxOpen agent n v key dest) s = .next (s.ciph fun k => { k with dgs := Tbl.set k.dgs n { owner := some agent, alg := v.alg, hmac := v.hmac, toSlot := v.toSlot, weight := v.weight, feeder := v.feeder, feederEn := v.feederEn, key := key, dest := dest } })) ∧
  (∀ (agent : Nat) (n : Fin 8) (c : DgsCtx) (s : State), (s.phase = .run ∨ s.phase = .flushing) → Tbl.find s.cipher.dgs n = some c → c.owner = some agent → exec (.dgsCtxClose agent n) s = .next (s.ciph fun k => { k with dgs := Tbl.del k.dgs n })) ∧
  (∀ (agent : Nat) (n : Fin 8) (len : W64) (c : DgsCtx) (s : State), (s.phase = .run ∨ s.phase = .flushing) → Tbl.find s.cipher.dgs n = some c → c.owner = some agent → c.msg = [] → c.padTaken = 0 → exec (.dgsCtxLengthWrite agent n len) s = .next (s.modDgs n { c with length := len.toNat })) ∧
  (∀ (agent : Nat) (n : Fin 8) (data : List Byte) (c : DgsCtx) (s : State), (s.phase = .run ∨ s.phase = .flushing) → Tbl.find s.cipher.dgs n = some c → c.owner = some agent → exec (.dgsDataPortWrite agent n data) s = .next (let total := dgsTotal c.alg c.length
      let c1 := dgsFeed (dgsPad c) total data c
      if !c1.failed && !c1.done && c1.length + c1.padTaken = total && c1.msg.length = c1.length then dgsFinish n c1 s else s.modDgs n c1)) ∧
  (∀ (agent : Nat) (n : Fin 8) (expect : List Byte) (c : DgsCtx) (s : State), (s.phase = .run ∨ s.phase = .flushing) → Tbl.find s.cipher.dgs n = some c → c.owner = some agent → c.done = true → exec (.dgsCtxCmp agent n expect) s = .next (let same := c.digest.take (dgsLen c.alg) == expect.take (dgsLen c.alg)
      s.modDgs n { c with expect := fit 64 expect, cmpDone := true, cmpResult := if same then 0xC35AA53C else 0x0F0F0F0F, cmpResultN := if same then 0x3CA55AC3 else 0xF0F0F0F0 })) ∧
  (∀ (agent : Nat) (operands : List Byte) (s : State), (s.phase = .run ∨ s.phase = .flushing) → s.cipher.ecdsa.busy = false → exec (.dgsEcdsaVerify agent operands) s = .next (s.ciph fun c => { c with ecdsa := { op := 1, busy := true, owner := agent, operands := fit 240 operands } })) ∧
  (∀ (agent : Nat) (operands : List Byte) (s : State), (s.phase = .run ∨ s.phase = .flushing) → s.cipher.ecdsa.busy = false → exec (.dgsEcdsaSign agent operands) s = .next (s.ciph fun c => { c with ecdsa := { op := 2, busy := true, owner := agent, operands := fit 240 operands } })) ∧
  (∀ (s : State), (s.phase = .run ∨ s.phase = .flushing) → s.cipher.ecdsa.busy = true → s.cipher.ecdsa.op = 1 → exec (.ecdsaOperationDone) s = .next (let e := s.cipher.ecdsa
      let q := span e.operands 0 96
      let digest := span e.operands 0xC0 48
      let sig := span e.operands 0x60 96
      let good := Config.ecdsaInRange q sig && Config.ecdsaVerify q digest sig
      s.ciph fun c => { c with ecdsa := { e with busy := false, done := true, invalid := !Config.ecdsaInRange q sig, result := if good then 0xA5C33C5A else 0x0F0F0F0F, resultN := if good then 0x5A3CC3A5 else 0xF0F0F0F0, operands := q ++ sig ++ digest } }))

/-- POOL_CREATE of free, present modules within the limits makes the pool and goes under way; POOL_DELETE of a pool without a namespace marks it and releases its members, whose trim frees each and at the last ends the pool; POOL_QUERY and MODULE_QUERY answer their bodies; POOL_MODULE_ADD gives each module to the oldest failed entry without a replacement; a free module is retired; a member that neither head reaches is declared failed; a waiting Privet entry that nothing conflicts with is granted. -/
def Obligations.PoolCommandsComplete : Prop :=
  (∀ (h : MbxHdr) (pool : Byte) (k : Byte) (m : Byte) (map : BitVec 96) (c : MCmd) (s : State), startsNow ⟨0x0301, 2, true, .other, false⟩ h [.num 0 1 pool.toNat, .num 1 1 k.toNat, .num 2 1 m.toNat, .num 4 12 map.toNat] c s → pool.toNat ≤ 7 → 2 ≤ k.toNat → k.toNat ≤ 32 → 1 ≤ m.toNat → m.toNat ≤ 4 → k.toNat + m.toNat ≤ 36 → k.toNat + m.toNat + spareDepth (mapModules map).length ≤ (mapModules map).length → ((mapModules map).any fun n => !present s n) = false → ((mapModules map).any fun n => moduleState s n ≠ 1) = false → Tbl.has s.pools pool.toNat = false → exec (.poolCreate h pool k m map) s = .next (underWay c ⟨0x0301, 2, true, .other, false⟩ (createPool pool.toNat k.toNat m.toNat (mapModules map) (taken c s)))) ∧
  (∀ (h : MbxHdr) (pool : Byte) (p : Pool) (c : MCmd) (s : State), startsNow ⟨0x0302, 2, true, .other, false⟩ h [.num 0 1 pool.toNat] c s → pool.toNat ≤ 7 → Tbl.find s.pools pool.toNat = some p → (s.ns.any fun e => e.2.pool = pool.toNat) = false → exec (.poolDelete h pool) s = .next (let s1 := (poolMembers p).foldl (fun s n => s.modMod n (releaseMod pool.toNat)) (taken c s)
      mbxAnswer c (replyOk []) (kamAlarms (configGroup pool.toNat 0x14 (superWrite pool.toNat (s1.modPool pool.toNat fun x => { x with deleting := true, offline := false })))))) ∧
  (∀ (module : Fin 96) (s : State), s.phase = .run → (s.mod module).stand = .releasing → exec (.memberTrimDone module) s = .next (let s1 := (trimModule module s).modMod module fun m => { m with stand := .free, left := none }
      match (s.mod module).left.bind fun pool => (Tbl.find s1.pools pool).map fun p => (pool, p) with
      | none => s1
      | some (pool, p) =>
        if p.deleting = false then s1
        else
          let s2 := s1.modPool pool (leaveMember module)
          if ((poolMembers p).all fun n => n = module.val || (s1.mod n).left ≠ some pool) = true then kamAlarms { s2 with pools := Tbl.del s2.pools pool, grinder := { s2.grinder with units := s2.grinder.units.filter fun e => unitPool e.1 ≠ pool } } else s2)) ∧
  (∀ (h : MbxHdr) (pool : Byte) (p : Pool) (c : MCmd) (s : State), startsNow ⟨0x0303, 2, false, .other, false⟩ h [.num 0 1 pool.toNat] c s → pool.toNat ≤ 7 → Tbl.find s.pools pool.toNat = some p → exec (.poolQuery h pool) s = .next (mbxAnswer c (replyOk (le8 p.cur.k ++ le8 p.cur.m ++ le8 (poolState s p) ++ zeros 1 ++ le32 p.lost ++ (exposedCounts p).flatMap le32 ++ le64 p.cur.capacity ++ le64 (poolUsed p))) (taken c s))) ∧
  (∀ (h : MbxHdr) (pool : Byte) (map : BitVec 96) (p : Pool) (c : MCmd) (s : State), startsNow ⟨0x0304, 2, true, .other, false⟩ h [.num 0 1 pool.toNat, .num 4 12 map.toNat] c s → pool.toNat ≤ 7 → Tbl.find s.pools pool.toNat = some p → (mapModules map).length ≤ openFails p → ((mapModules map).any fun n => moduleState s n ≠ 1) = false → exec (.poolModuleAdd h pool map) s = .next (let s1 := (mapModules map).foldl (fun s m => kamSend m (.claim p.ownerGen true) (s.modMod m fun x => { x with returned := false })) ((taken c s).modPool pool.toNat fun _ => recount (keepBits p (replaceMods (mapModules map) p)))
      mbxAnswer c (replyOk []) (settleFails pool.toNat (configGroup pool.toNat 0x14 (superWrite pool.toNat s1))))) ∧
  (∀ (h : MbxHdr) (module : Byte) (c : MCmd) (s : State), startsNow ⟨0x0306, 2, false, .other, false⟩ h [.num 0 1 module.toNat] c s → module.toNat ≤ 95 → exec (.moduleQuery h module) s = .next (let n := module.toNat
      let st := moduleState s n
      let k := s.kport n
      let far := peerSubs s ≠ []
      let ports := flag (headIndex s) (k.state = .up) + flag (2 + headIndex s) (k.state = .up && k.oneLane) + flag (1 - headIndex s) (far && k.peerUp) + flag (3 - headIndex s) (far && k.peerUp && k.peerOneLane)
      mbxAnswer c (replyOk (le8 st ++ le8 (if st = 0 || st = 1 || st = 7 then 0xFF else (if st = 8 then (s.mod n).left else poolOf s n).getD 0xFF) ++ le8 ports ++ zeros 1 ++ le64 (s.mod n).rawBytes.toNat ++ le16 (s.mod n).wear ++ zeros 2)) (taken c s))) ∧
  (∀ (h : MbxHdr) (module : Byte) (c : MCmd) (s : State), startsNow ⟨0x0307, 2, true, .other, false⟩ h [.num 0 1 module.toNat] c s → module.toNat ≤ 95 → moduleState s module.toNat = 1 → exec (.moduleRetire h module) s = .next (mbxAnswer c (replyOk []) (configGroup 255 0x14 ((taken c s).modMod module.toNat fun m => { m with stand := .retired, retiredSerial := match m.descr with | some d => d.serial | none => (s.kport module.toNat).serial })))) ∧
  (∀ (module : Fin 96) (pool : Nat) (p : Pool) (s : State), s.phase = .run → poolOf s module = some pool → Tbl.find s.pools pool = some p → p.owned = true → (p.failed.any fun f => f.module = module.val && (f.state = 1 || f.state = 2 || (f.state = 4 && f.replacement ≠ some module.val))) = false → reachable s module = false → exec (.memberFailed module) s = .next (declareFailed module 1 s)) ∧
  (∀ (n : Nat) (e : Privet) (s : State), s.phase = .run → Tbl.find s.host.privet n = some e → e.granted = false → privetFree s.host.privet n e = true → entryMay n s = true → exec (.privetLockGrant n) s = .next (let s1 := { s with host := { s.host with privet := Tbl.set s.host.privet n { e with granted := true } } }
      match e.owner with | some id => s1.modCmd id (fun c => { c with stage := if c.stage = .lockWait then .running else c.stage }) | none => runJob n s1))

/-- POOL_RESHAPE whose checks pass draws a seed, makes the target layout and sets RESHAPING; rebuild that the governor lets start reads k surviving strips and writes every strip that has work; a settled segment without live units is released in a POOL record; Topiary copies an old segment's live slots, or releases it and moves the cursor; the switch-over is one POOL record. -/
def Obligations.RebuildAndReshapeComplete : Prop :=
  (∀ (h : MbxHdr) (pool : Byte) (k : Byte) (m : Byte) (map : BitVec 96) (p : Pool) (c : MCmd) (s : State), startsNow ⟨0x0305, 3, true, .other, false⟩ h [.num 0 1 pool.toNat, .num 1 1 k.toNat, .num 2 1 m.toNat, .num 4 12 map.toNat] c s → pool.toNat ≤ 7 → 2 ≤ k.toNat → k.toNat ≤ 32 → 1 ≤ m.toNat → m.toNat ≤ 4 → k.toNat + m.toNat ≤ 36 → k.toNat + m.toNat + spareDepth (mapModules map).length ≤ (mapModules map).length → Tbl.find s.pools pool.toNat = some p → ((mapModules map).any fun x => !present s x) = false → ((mapModules map).any fun x => moduleState s x ≠ 1 && !(p.cur.members.contains x && moduleState s x = 2)) = false → (p.reshaping || anyExposed p || p.failed ≠ []) = false → 10 * poolUsed p ≤ 9 * (targetLayout s p k.toNat m.toNat (mapModules map) 0).capacity → exec (.poolReshape h pool k m map) s = .next (let d := draw (taken c s)
      let t := targetLayout (taken c s) p k.toNat m.toNat (mapModules map) (BitVec.ofNat 64 d.1)
      let s1 := ((mapModules map).filter fun x => !p.cur.members.contains x).foldl (fun s x => kamSend x (.claim p.ownerGen true) s) d.2
      let s2 := (p.gathers.filter fun g => g.2.through.isNone).foldl (fun s g => gatherAgain pool.toNat g.2 s) (s1.modPool pool.toNat fun p => { p with target := some t, reshaping := true, cursor := 0, gathers := [] })
      let pages := p.gathers.flatMap fun g => g.2.pages
      mbxAnswer c (replyOk []) (configGroup pool.toNat 0x14 (superWrite pool.toNat (if pages = [] then s2 else redoPages pool.toNat pages s2))))) ∧
  (∀ (pool : Fin 8) (seg : Nat) (idle : Bool) (p : Pool) (g : Seg) (l : Layout) (s : State), s.phase = .run → Tbl.find s.pools pool = some p → Tbl.find p.segs seg = some g → layoutOf p (segLayout seg) = some l → (!p.owned || p.fenced || p.offline || p.checking || g.lost || releasing s pool seg || (sifOfSeg s pool seg).any (fun x => x.2.state ≠ .committed)) = false → (redundancy l g).isNone = false → openJobs s pool seg = [] → stripWork s p l seg g ≠ [] → rebuildTakes s p (seg, g) = true → exec (.rebuildSegment pool seg idle) s = .next (let live := fun (i : Nat) => (stripAt s p l seg i).isSome
      let urgent := decide (redundancy l g = some 0)
      let s1 := ((stripWork s p l seg g).filter fun x => live x.1).foldl (copyOver p l seg pool urgent idle) s
      reconstruct p l seg pool urgent idle ((stripWork s p l seg g).filter fun x => !live x.1) s1)) ∧
  (∀ (pool : Fin 8) (seg : Nat) (p : Pool) (s : State), s.phase = .run → Tbl.find s.pools pool = some p → mayRelease s pool p seg = true → exec (.segmentRelease pool seg) s = .next (addGroup { pool := pool, released := [(pool, seg)] } s)) ∧
  (∀ (pool : Fin 8) (seg : Nat) (idle : Bool) (p : Pool) (s : State), s.phase = .run → Tbl.find s.pools pool = some p → p.reshaping = true → anyExposed p = false → segLayout seg = p.cur.id → (mayRelease s pool p seg = true ∨ ((oldMoving p < 1024 ∨ (Tbl.find p.segs seg).any (·.moving) = true) ∧ topiaryTakes s p seg = true)) → exec (.topiaryMove pool seg idle) s = .next (if mayRelease s pool p seg then configGroup pool 0x15 (releaseSeg pool seg (s.modPool pool fun p => { p with cursor := nextOld p seg })) else rewritePages pool seg (moveSegment 3 idle pool seg s))) ∧
  (∀ (pool : Fin 8) (p : Pool) (t : Layout) (s : State), s.phase = .run → Tbl.find s.pools pool = some p → p.target = some t → p.reshaping = true → (p.segs.any fun e => segLayout e.1 = p.cur.id) = false → switchReady p t = true → ((openGroups s).any fun g => g.effects.contains (.switchOver pool)) = false → exec (.reshapeSwitchOver pool) s = .next (addGroup { pool := pool, effects := [.switchOver pool] } (s.modPool pool fun p => { p with cursor := p.cur.segs })))

/-- VOLUME_CREATE whose checks pass makes the volume, ties its key to the slice and tells the slice's controllers; VOLUME_DELETE, VOLUME_RESIZE, VOLUME_QUERY, SNAPSHOT_CREATE, SNAPSHOT_DELETE and CLONE_CREATE have their effects and answers; a volume that shrinks waits for its exclusive Privet entry, the job of the command; a cut that is not granted within 40 ms, entered or still waiting to be entered, is refused with BUSY; the FLAGS byte of VOLUME_QUERY is a free value (log entry 1) and the order of VOLUME_CREATE's checks is the model's (log entry 47). -/
def Obligations.VolumeCommandsComplete : Prop :=
  (∀ (h : MbxHdr) (nsid : W32) (slice : W16) (pool : Byte) (unit : Byte) (size : W64) (compress : Byte) (level : Byte) (key : W32) (sl : Slice) (c : MCmd) (s : State), startsNow ⟨0x0401, 2, true, .other, false⟩ h [.num 0 4 nsid.toNat, .num 4 2 slice.toNat, .num 6 1 pool.toNat, .num 7 1 unit.toNat, .num 8 8 size.toNat, .num 16 1 compress.toNat, .num 17 1 level.toNat, .num 20 4 key.toNat] c s → nsidBad nsid.toNat = false → slice.toNat ≤ 4095 → pool.toNat ≤ 7 → unit.toNat ≤ 2 → sizeBad size.toNat = false → compress.toNat ≤ 2 → levelBad compress.toNat level.toNat = false → key.toNat ≤ 1048575 → Tbl.find s.slices slice.toNat = some sl → Tbl.has s.pools pool.toNat = true → Tbl.has s.ns nsid.toNat = false → keyTaken s key.toNat slice.toNat = false → xtsHeld s key.toNat = true → nsCount s slice.toNat < sl.namespaces → exec (.volumeCreate h nsid slice pool unit size compress level key) s = .next (let v : Ns := { slice := slice.toNat, pool := pool.toNat, size := size.toNat, unitLog := 12 + unit.toNat, compress := compress.toNat, level := level.toNat, key := key.toNat }
      let s1 := (taken c s).ciph fun c => { c with keys := Tbl.upd c.keys key.toNat fun e => { e with slice := some slice.toNat } }
      let s2 := s1.modSlice slice.toNat fun x => { x with keys := (x.keys ++ [key.toNat]).eraseDups }
      mbxAnswer c (replyOk []) (tellNsChanged slice.toNat nsid.toNat (configGroup pool.toNat 0x10 { s2 with ns := Tbl.set s2.ns nsid.toNat v })))) ∧
  (∀ (h : MbxHdr) (nsid : W32) (v : Ns) (c : MCmd) (s : State), startsNow ⟨0x0402, 2, true, .other, false⟩ h [.num 0 4 nsid.toNat] c s → nsidBad nsid.toNat = false → Tbl.find s.ns nsid.toNat = some v → (replOf nsid.toNat s).isSome = false → exec (.volumeDelete h nsid) s = .next (mbxAnswer c (replyOk []) (deleteVolume nsid.toNat v (taken c s)))) ∧
  (∀ (h : MbxHdr) (nsid : W32) (size : W64) (v : Ns) (c : MCmd) (s : State), startsNow ⟨0x0403, 2, true, .other, false⟩ h [.num 0 4 nsid.toNat, .num 8 8 size.toNat] c s → nsidBad nsid.toNat = false → sizeBad size.toNat = false → Tbl.find s.ns nsid.toNat = some v → v.size ≤ size.toNat → exec (.volumeResize h nsid size) s = .next (mbxAnswer c (replyOk []) (tellNsChanged v.slice nsid.toNat (configGroup v.pool 0x10 ((taken c s).modNs nsid.toNat fun v => { v with size := size.toNat }))))) ∧
  (∀ (h : MbxHdr) (nsid : W32) (size : W64) (v : Ns) (c : MCmd) (s : State), startsNow ⟨0x0403, 2, true, .other, false⟩ h [.num 0 4 nsid.toNat, .num 8 8 size.toNat] c s → nsidBad nsid.toNat = false → sizeBad size.toNat = false → Tbl.find s.ns nsid.toNat = some v → size.toNat < v.size → (ownsPool s v.pool || !peerPresent s) = true → exec (.volumeResize h nsid size) s = .next (let r := lockJob nsid.toNat (size.toNat / blockBytes v) (nsBlocks v - 1) v.slice (.shrink nsid.toNat size.toNat) ((taken c s).modNs nsid.toNat fun v => { v with shrinkTo := some size.toNat })
      if r.2.1 then mbxAnswer c (replyOk []) (runJob r.1 r.2.2) else underWay c ⟨0x0403, 2, true, .other, false⟩ r.2.2)) ∧
  (∀ (h : MbxHdr) (nsid : W32) (size : W64) (v : Ns) (c : MCmd) (s : State), startsNow ⟨0x0403, 2, true, .other, false⟩ h [.num 0 4 nsid.toNat, .num 8 8 size.toNat] c s → nsidBad nsid.toNat = false → sizeBad size.toNat = false → Tbl.find s.ns nsid.toNat = some v → size.toNat < v.size → ownsPool s v.pool = false → peerPresent s = true → exec (.volumeResize h nsid size) s = .next (underWay c ⟨0x0403, 2, true, .other, false⟩ (configGroup v.pool 0x10 ((taken c s).modNs nsid.toNat fun v => { v with shrinkTo := some size.toNat })))) ∧
  (∀ (h : MbxHdr) (nsid : W32) (v : Ns) (c : MCmd) (s : State), startsNow ⟨0x0404, 2, false, .other, false⟩ h [.num 0 4 nsid.toNat] c s → nsidBad nsid.toNat = false → Tbl.find s.ns nsid.toNat = some v → exec (.volumeQuery h nsid) s = .next (let f := draw (taken c s)
      mbxAnswer c (replyOk (le16 v.slice ++ le8 v.pool ++ le8 f.1 ++ le64 v.size ++ le64 (usedLogical s nsid.toNat v) ++ le64 (usedPhysical s nsid.toNat) ++ le32 (poisonRanges nsid.toNat s) ++ zeros 4)) f.2)) ∧
  (∀ (h : MbxHdr) (nsid : W32) (v : Ns) (c : MCmd) (s : State), startsNow ⟨0x0701, 2, true, .other, false⟩ h [.num 0 4 nsid.toNat] c s → nsidBad nsid.toNat = false → Tbl.find s.ns nsid.toNat = some v → s.snaps.views.length < 1048576 → (viewsOf s nsid.toNat).length < 16384 → (ownsPool s v.pool || !peerPresent s) = true → exec (.snapshotCreate h nsid) s = .next (let r := lockJob nsid.toNat 0 (nsBlocks v - 1) v.slice (.cut nsid.toNat .mailbox (taken c s).time.toNat) (taken c s)
      let e := cutSnapshot r.1 nsid.toNat false { r.2.2 with snaps := { r.2.2.snaps with jobs := Tbl.del r.2.2.snaps.jobs r.1 } }
      if r.2.1 then mbxAnswer c (replyOk (le64 e.1)) e.2 else underWay c ⟨0x0701, 2, true, .other, false⟩ r.2.2)) ∧
  (∀ (h : MbxHdr) (nsid : W32) (v : Ns) (c : MCmd) (s : State), startsNow ⟨0x0701, 2, true, .other, false⟩ h [.num 0 4 nsid.toNat] c s → nsidBad nsid.toNat = false → Tbl.find s.ns nsid.toNat = some v → s.snaps.views.length < 1048576 → (viewsOf s nsid.toNat).length < 16384 → ownsPool s v.pool = false → peerPresent s = true → exec (.snapshotCreate h nsid) s = .next (underWay c ⟨0x0701, 2, true, .other, false⟩ (configGroup v.pool 0x13 ((taken c s).modNs nsid.toNat fun v => { v with cutAsked := v.cutAsked + 1 })))) ∧
  (∀ (n : Nat) (a : Nat) (why : CutFor) (since : Nat) (s : State), s.phase = .run → n ≠ 0 → Tbl.find s.snaps.jobs n = some (.cut a why since) → exec (.snapshotCutTimeout n) s = .next (fillEntries (cutLate a why since (dropPrivet n { s with snaps := { s.snaps with jobs := Tbl.del s.snaps.jobs n } })))) ∧
  (∀ (a b c d : Nat) (v : Nat) (why : CutFor) (since : Nat) (rest : List (Nat × Nat × Nat × Nat × LockJob)) (s : State), s.phase = .run → s.snaps.jobWait = (a, b, c, d, .cut v why since) :: rest → exec (.snapshotCutTimeout 0) s = .next (cutLate v why since { s with snaps := { s.snaps with jobWait := rest } })) ∧
  (∀ (h : MbxHdr) (nsid : W32) (epoch : W64) (w : Snap) (c : MCmd) (s : State), startsNow ⟨0x0702, 2, true, .other, false⟩ h [.num 0 4 nsid.toNat, .num 8 8 epoch.toNat] c s → nsidBad nsid.toNat = false → Tbl.find s.snaps.views epoch.toNat = some w → w.nsid = nsid.toNat → w.held = false → exec (.snapshotDelete h nsid epoch) s = .next (mbxAnswer c (replyOk []) (configGroup 255 0x13 (dropView epoch.toNat (taken c s))))) ∧
  (∀ (h : MbxHdr) (src : W32) (new : W32) (epoch : W64) (v : Ns) (w : Snap) (sl : Slice) (c : MCmd) (s : State), startsNow ⟨0x0703, 2, true, .other, false⟩ h [.num 0 4 src.toNat, .num 4 4 new.toNat, .num 8 8 epoch.toNat] c s → nsidBad src.toNat = false → nsidBad new.toNat = false → Tbl.find s.ns src.toNat = some v → Tbl.find s.snaps.views epoch.toNat = some w → w.nsid = src.toNat → Tbl.has s.ns new.toNat = false → Tbl.find s.slices v.slice = some sl → nsCount s v.slice < sl.namespaces → exec (.cloneCreate h src new epoch) s = .next (mbxAnswer c (replyOk []) (cloneFrom src.toNat new.toNat epoch.toNat v w (taken c s))))

/-- SLICE_CREATE whose checks pass makes the slice; SLICE_RESIZE whose checks pass has its effect and goes under way until both heads have it; SLICE_RESET discards what is posted, squashes in MODE 1, goes under way, and answers once nothing is left on either head; 1 s into a drain the rest is squashed; SLICE_DELETE of a slice without a namespace enters Deleting and goes under way, and the slice is removed once nothing of it is left; dirty-page logging starts, is harvested into the host's buffer and stops once the slice's commands have ended. -/
def Obligations.SliceCommandsComplete : Prop :=
  (∀ (h : MbxHdr) (slice : W16) (bindType : Byte) (bind : W32) (qp : W32) (ns : W32) (c : MCmd) (s : State), startsNow ⟨0x0501, 2, true, .other, false⟩ h [.num 0 2 slice.toNat, .num 2 1 bindType.toNat, .num 4 4 bind.toNat, .num 8 4 qp.toNat, .num 12 4 ns.toNat] c s → slice.toNat ≤ 4095 → bindType.toNat ≤ 1 → (bindType = 0 → bind.toNat ≤ 0xFFFFF) → bind ≠ 0 → 2 ≤ qp.toNat → qp.toNat ≤ 65536 → ns ≠ 0 → ns.toNat ≤ 65536 → Tbl.has s.slices slice.toNat = false → (s.slices.any fun e => e.2.tenant = decide (bindType.toNat = 1) && e.2.bind = bind.toNat) = false → pairsReserved s none + qp.toNat ≤ 65536 → nsReserved s none + ns.toNat ≤ 65536 → (bindType = 0 → (vectorRun s (min qp.toNat 16)).isSome = true) → exec (.sliceCreate h slice bindType bind qp ns) s = .next (mbxAnswer c (replyOk []) (createSlice slice.toNat (bindType.toNat = 1) bind.toNat qp.toNat ns.toNat (if bindType.toNat = 1 then 0 else (vectorRun s (min qp.toNat 16)).getD 0) (if bindType.toNat = 1 then 0 else min qp.toNat 16) (taken c s)))) ∧
  (∀ (h : MbxHdr) (slice : W16) (qp : W32) (ns : W32) (permille : W16) (c : MCmd) (s : State), startsNow ⟨0x0502, 3, true, .other, false⟩ h [.num 0 2 slice.toNat, .num 4 4 qp.toNat, .num 8 4 ns.toNat, .num 12 2 permille.toNat] c s → slice.toNat ≤ 4095 → 2 ≤ qp.toNat → qp.toNat ≤ 65536 → ns ≠ 0 → ns.toNat ≤ 65536 → permille ≠ 0 → permille.toNat ≤ 1000 → Tbl.has s.slices slice.toNat = true → mostPairs s slice.toNat ≤ qp.toNat → nsCount s slice.toNat ≤ ns.toNat → pairsReserved s (some slice.toNat) + qp.toNat ≤ 65536 → nsReserved s (some slice.toNat) + ns.toNat ≤ 65536 → exec (.sliceResize h slice qp ns permille) s = .next (underWay c ⟨0x0502, 3, true, .other, false⟩ (configReply 0x11 0x0502 (fillEntries ((taken c s).modSlice slice.toNat fun sl => { sl with queuePairs := qp.toNat, namespaces := ns.toNat, weight := permille.toNat }))))) ∧
  (∀ (h : MbxHdr) (slice : W16) (mode : Byte) (c : MCmd) (s : State), startsNow ⟨0x0503, 2, true, .other, false⟩ h [.num 0 2 slice.toNat, .num 2 1 mode.toNat] c s → slice.toNat ≤ 4095 → mode.toNat ≤ 1 → Tbl.has s.slices slice.toNat = true → sliceRunning s slice.toNat = false → exec (.sliceReset h slice mode) s = .next (finishReset slice.toNat (underWay c ⟨0x0503, 2, true, .other, false⟩ (startReset slice.toNat { squash := mode.toNat = 1 } (taken c s))))) ∧
  (∀ (slice : Fin 4096) (sl : Slice) (r : SliceRun) (s : State), s.phase = .run → Tbl.find s.slices slice = some sl → sl.run = some r → r.squash = false → r.torn = false → exec (.sliceResetDrainTimeout slice) s = .next (finishReset slice (squashSlice slice (reachTime r.limit s)))) ∧
  (∀ (h : MbxHdr) (slice : W16) (c : MCmd) (s : State), startsNow ⟨0x0504, 2, true, .other, false⟩ h [.num 0 2 slice.toNat] c s → slice.toNat ≤ 4095 → Tbl.has s.slices slice.toNat = true → nsCount s slice.toNat = 0 → sliceRunning s slice.toNat = false → exec (.sliceDelete h slice) s = .next (finishReset slice.toNat (underWay c ⟨0x0504, 2, true, .other, false⟩ (startReset slice.toNat { squash := true, deleting := true } (taken c s))))) ∧
  (∀ (h : MbxHdr) (slice : W16) (op : Byte) (c : MCmd) (s : State), startsNow ⟨0x0505, 3, true, .other, false⟩ h [.num 0 2 slice.toNat, .num 2 1 op.toNat] c s → op = 0 → firstFail (dirtyChecks s slice.toNat) = none → isLogging s slice.toNat = false → loggingSlices s < 64 → isTenant s slice.toNat = false → exec (.sliceDirtyLogStart h slice op) s = .next (mbxAnswer c (replyOk (le64 0)) (tellSlice ((taken c s).modSlice slice.toNat fun sl => { sl with dirty := some {} })))) ∧
  (∀ (h : MbxHdr) (slice : W16) (addr : W64) (len : W32) (c : MCmd) (s : State), startsNow ⟨0x0505, 3, true, .other, false⟩ h [.num 0 2 slice.toNat, .num 2 1 2, .num 4 8 addr.toNat, .num 12 4 len.toNat] c s → firstFail (dirtyChecks s slice.toNat) = none → isLogging s slice.toNat = true → 88 ≤ len.toNat → exec (.sliceDirtyLogHarvest h slice addr len true) s = .next (let r := harvest h.port slice.toNat addr len.toNat (taken c s)
      mbxAnswer c (replyOk (le64 r.1)) r.2)) ∧
  (∀ (h : MbxHdr) (slice : W16) (addr : W64) (len : W32) (late : Bool) (ok : Bool) (c : MCmd) (s : State), startsNow ⟨0x0505, 3, true, .other, false⟩ h [.num 0 2 slice.toNat, .num 2 1 1, .num 4 8 addr.toNat, .num 12 4 len.toNat] c s → firstFail (dirtyChecks s slice.toNat) = none → isLogging s slice.toNat = true → 88 ≤ len.toNat → (late && sliceLeft s slice.toNat) = false → exec (.sliceDirtyLogStop h slice addr len late ok) s = .next (finishStop slice.toNat (underWay c ⟨0x0505, 3, true, .other, false⟩ ((taken c s).modSlice slice.toNat fun sl => { sl with dirtyStop := some (addr, len.toNat, ok) }))))

/-- Each event of a port's training, of its acknowledgements and of its losses has its effect in the state that it belongs to: DETECT to ACQUIRE, HELLO, its retries and its reply, ACK, NAK and its repetition, a dropped frame by its fault, resending, keepalive, retrain and the return from DOWN. -/
def Obligations.KamardLinkComplete : Prop :=
  (∀ (port : Fin 96) (s : State), s.phase = .run → (s.kport port).state = .detect → exec (.kamardSignalDetect port false) s = .next (s.modK port fun k => { k with state := .acquire, oneLane := false })) ∧
  (∀ (port : Fin 96) (s : State), s.phase = .run → (s.kport port).state = .detect → exec (.kamardSignalDetect port true) s = .next (raiseAlarm 0x62 (s.modK port fun k => { k with state := .acquire, oneLane := true }))) ∧
  (∀ (port : Fin 96) (s : State), s.phase = .run → (s.kport port).state = .acquire → exec (.kamardAcquireDone port) s = .next (kamControl port (.hello 1 2 1024) (s.modK port fun k => { k with state := .negotiate, hellos := 1 }))) ∧
  (∀ (port : Fin 96) (s : State), s.phase = .run → (s.kport port).state = .acquire → exec (.kamardAcquireTimeout port) s = .next (if 2 ≤ (s.kport port).attempts then kamDownAlarm port s else s.modK port fun k => { k with state := .detect, attempts := (s.kport port).attempts + 1 })) ∧
  (∀ (port : Fin 96) (s : State), s.phase = .run → (s.kport port).state = .negotiate → exec (.kamardHelloRetry port) s = .next (if 100 ≤ (s.kport port).hellos then kamDownAlarm port s else kamControl port (.hello 1 2 1024) (s.modK port fun k => { k with hellos := (s.kport port).hellos + 1 }))) ∧
  (∀ (port : Fin 96) (version : Nat) (limit : Nat) (serial : W64) (fw : W64) (s : State), s.phase = .run → (s.kport port).state = .negotiate → (version = 1 ∨ version = 2) → (s.kport port).peerSerial = none → peerSubs s = [] → exec (.kamardHelloReply port version limit serial fw) s = .next (let s1 := s.modK port fun k => { k with version := version, limit := min limit (if version = 1 then 256 else 1024), serial := serial, fwVersion := fw }
      let s4 := kamSend port .moduleInfo ((pushReturned port (freshModule port serial (serialAlarm s1))).modK port fun k => { k with state := .claimed })
      let s5 := returnedMod port s4
      match if (s5.mod port).returned then none else (poolOf s5 port).bind (Tbl.find s5.pools) with | some p => kamSend port (.claim p.ownerGen false) s5 | none => kamUp port s5)) ∧
  (∀ (port : Fin 96) (next : W16) (s : State), (s.phase = .run ∨ s.phase = .flushing) → exec (.kamardAck port next) s = .next (kamFlow port (kamAcked port next.toNat (bumpK port 1 1 s)))) ∧
  (∀ (port : Fin 96) (seq : W16) (s : State), (s.phase = .run ∨ s.phase = .flushing) → exec (.kamardNak port seq) s = .next (let s1 := frameFailed port seq.toNat (kamAcked port seq.toNat (bumpK port 1 1 s))
      if (s1.kport port).state = .retrain then s1 else resendFrames port (s1.kport port).unacked s1)) ∧
  (∀ (port : Fin 96) (s : State), (s.phase = .run ∨ s.phase = .flushing) → (s.kport port).nakSent = true → exec (.kamardNakRepeat port) s = .next (kamControl port (.nak (s.kport port).rxSeq) s)) ∧
  (∀ (port : Fin 96) (fault : FrameFault) (s : State), (s.phase = .run ∨ s.phase = .flushing) → exec (.kamardFrameDropped port fault) s = .next (match fault with | .marks sawPreamble => rxFault port sawPreamble (bumpK port 4 1 s) | .headerCrc => rxFault port true (bumpK port 5 1 s) | .trailerCrc => rxFault port true (bumpK port 6 1 s) | .length => rxFault port true (bumpK port 7 1 s) | .outOfOrder => (if (s.kport port).nakSent then s else sendNak port s) | .duplicate => kamControl port .ack s | .version v => versionFrame 1 v port (bumpK port 12 1 s))) ∧
  (∀ (port : Fin 96) (s : State), (s.phase = .run ∨ s.phase = .flushing) → exec (.kamardRetransmitTimeout port) s = .next (resendFrames port (s.kport port).unacked s)) ∧
  (∀ (port : Fin 96) (s : State), (s.phase = .run ∨ s.phase = .flushing) → exec (.kamardKeepalive port) s = .next (kamControl port .ack s)) ∧
  (∀ (port : Fin 96) (s : State), (s.phase = .run ∨ s.phase = .flushing) → exec (.kamardLinkLoss port) s = .next (kamRetrain port s)) ∧
  (∀ (port : Fin 96) (s : State), (s.phase = .run ∨ s.phase = .flushing) → (s.kport port).state = .retrain → exec (.kamardRetrainDone port .both) s = .next (resendFrames port (s.kport port).unacked (kamFlow port (kamAlarms (vaultSetRecompute (s.modK port fun k => { k with state := .up, retrainFails := 0 })))))) ∧
  (∀ (port : Fin 96) (management : Bool) (s : State), s.phase = .run → (s.kport port).state = .down → exec (.kamardDownRetry port management) s = .next (kamAlarms ((if management then s else reachTime ((s.kport port).downAt + 1000000000) s).modK port fun k => { k with state := .detect })))

/-- A response whose TAG names an outstanding command of its kind takes that command away and goes to that command's own effect. -/
def Obligations.KamardAnswersComplete : Prop :=
  (∀ (port : Fin 96) (tag : Nat) (d : Descr) (temp : Byte) (dieTemp : Byte) (s : State), (s.phase = .run ∨ s.phase = .flushing) → (kamTake port tag (kamAccept port s)).1 = some .moduleInfo → descrHolds d = true → exec (.kamardModuleInfoResponse port tag d temp dieTemp) s = .next ((kamTake port tag (kamAccept port s)).2.modMod port fun m => { m with descr := some d, rawBytes := d.rawBytes, temp := temp, dieTemp := dieTemp })) ∧
  (∀ (port : Fin 96) (tag : Nat) (st : KStatus) (held : W32) (g : W32) (b : Bool) (s : State), (s.phase = .run ∨ s.phase = .flushing) → (kamTake port tag (kamAccept port s)).1 = some (.claim g b) → exec (.kamardClaimResponse port tag st held) s = .next (let s1 := (kamTake port tag (kamAccept port s)).2
      let s2 := if (s1.kport port).state = .claimed then kamUp port s1 else s1
      if st = .ownerFenced then ownerFenced port held (bumpK port 13 1 s2) else s2)) ∧
  (∀ (port : Fin 96) (tag : Nat) (st : KStatus) (slots : List KSlot) (a sense x mask : Nat) (bg : Bool) (s : State), (s.phase = .run ∨ s.phase = .flushing) → ((Tbl.find (s.kport port).cmds tag).bind fun c => slotsFault c st slots) = none → (kamTake port tag (kamAccept port s)).1 = some (.read a sense x mask bg) → exec (.kamardReadResponse port tag st slots) s = .next (readAnswer port a sense mask bg st (kamTake port tag (kamAccept port s)).2)) ∧
  (∀ (port : Fin 96) (tag : Nat) (st : KStatus) (temp : Byte) (held : W32) (area : Nat) (a : Nat) (g : Bool) (cws : List (List Byte)) (s : State), (s.phase = .run ∨ s.phase = .flushing) → (kamTake port tag (kamAccept port s)).1 = some (.program area a g cws) → exec (.kamardProgramResponse port tag st temp held) s = .next (let s1 := (kamTake port tag (kamAccept port s)).2
      if area = 0 then programAnswer port a st (progTemp s1 port temp) held s1 else poolsCreated (if st = .ownerFenced then ownerFenced port held (bumpK port 13 1 s1) else s1))) ∧
  (∀ (port : Fin 96) (tag : Nat) (st : KStatus) (held : W32) (area : Nat) (a : Nat) (s : State), (s.phase = .run ∨ s.phase = .flushing) → (kamTake port tag (kamAccept port s)).1 = some (.erase area a) → exec (.kamardEraseResponse port tag st held) s = .next (eraseAnswer port area a st held (kamTake port tag (kamAccept port s)).2)) ∧
  (∀ (port : Fin 96) (tag : Nat) (st : KStatus) (die : Nat) (set : Nat) (offs : List Int) (s : State), (s.phase = .run ∨ s.phase = .flushing) → (kamTake port tag (kamAccept port s)).1 = some (.threshLoad die set offs) → exec (.kamardThreshLoadResponse port tag st) s = .next (threshAnswer port die set offs st (kamTake port tag (kamAccept port s)).2)) ∧
  (∀ (port : Fin 96) (tag : Nat) (st : KStatus) (x : Nat) (y : Nat) (z : Nat) (cws : List (List Byte)) (s : State), (s.phase = .run ∨ s.phase = .flushing) → (kamTake port tag (kamAccept port s)).1 = some (.vaultProgram x y z cws) → exec (.kamardVaultProgramResponse port tag st) s = .next (let s1 := (kamTake port tag (kamAccept port s)).2
      if st = .ok then vaultAck port true s1 else vaultDrop port (vaultAck port false s1))) ∧
  (∀ (port : Fin 96) (tag : Nat) (x : Nat) (bank : Nat) (s : State), (s.phase = .run ∨ s.phase = .flushing) → (kamTake port tag (kamAccept port s)).1 = some (.vaultErase x bank) → exec (.kamardVaultEraseResponse port tag .ok) s = .next (vaultSetRecompute ((kamTake port tag (kamAccept port s)).2.modMod port fun m => if bank = 0 then { m with erased0 := true } else { m with erased1 := true }))) ∧
  (∀ (port : Fin 96) (tag : Nat) (off : Nat) (data : List Byte) (s : State), (s.phase = .run ∨ s.phase = .flushing) → (kamTake port tag (kamAccept port s)).1 = some (.fwWrite off data) → exec (.kamardBridgeFwWriteResponse port tag .ok) s = .next (let s1 := (kamTake port tag (kamAccept port s)).2
      pushAll (s1.modMod port fun m => { m with push := m.push.map fun _ => off + pushStep (s1.kport port) }))) ∧
  (∀ (port : Fin 96) (tag : Nat) (x : Nat) (crc : W32) (s : State), (s.phase = .run ∨ s.phase = .flushing) → (kamTake port tag (kamAccept port s)).1 = some (.fwActivate x crc) → exec (.kamardBridgeFwActivateResponse port tag .ok) s = .next (let s1 := (kamTake port tag (kamAccept port s)).2
      s1.modMod port fun m => { m with push := none, restartAt := some (s1.time.toNat + 1000000000) })) ∧
  (∀ (port : Fin 96) (e : Nat) (s : State), s.phase = .run → (s.mod port).restartAt = some e → exec (.bridgeRestartTimeout port) s = .next (pushAll (declareFailed port 3 ((reachTime e s).modMod port fun m => { m with restartAt := none }))))

/-- A doorbell within the queue's size moves its tail or head; CC enables or resets a controller of an Active slice; the admin commands that make and delete queues have their effect or complete with their status; Connect, Disconnect, Property Get and Set, Keep Alive and its timeout, and the coalescing timeout have their effects. The status codes are those of the NVMe standard (log entry 8). -/
def Obligations.NvmeQueuesComplete : Prop :=
  (∀ (g : PageId) (ctrl sq : Nat) (v : W32) (y : Slice) (c : Ctrl) (x : Sq) (s : State), s.phase = .run → (capsOf g.port g.upper s).d3hot = false → liveSlice g s = some y → ctrlOfPage g s = some (ctrl, c) → c.enabled = true → Tbl.find c.sqs sq = some x → v.toNat < x.size → exec (.sqTailDoorbell g sq v) s = .next (s.modCtrl ctrl fun c => { c with sqs := Tbl.upd c.sqs sq fun x => { x with tail := v.toNat } })) ∧
  (∀ (g : PageId) (ctrl cq : Nat) (v : W32) (y : Slice) (c : Ctrl) (x : Cq) (s : State), s.phase = .run → (capsOf g.port g.upper s).d3hot = false → liveSlice g s = some y → ctrlOfPage g s = some (ctrl, c) → c.enabled = true → Tbl.find c.cqs cq = some x → v.toNat < x.size → exec (.cqHeadDoorbell g cq v) s = .next (settleAll (fillEntries (postHeld ctrl x.held (s.modCtrl ctrl fun c => { c with cqs := Tbl.upd c.cqs cq fun x => { x with head := v.toNat, held := [] } }))))) ∧
  (∀ (g : PageId) (ctrl : Nat) (v : W32) (c : Ctrl) (y sl : Slice) (s : State), s.phase = .run → (capsOf g.port g.upper s).d3hot = false → liveSlice g s = some y → y.state = .active → ctrlOfPage g s = some (ctrl, c) → Tbl.find s.host.ctrls ctrl = some c → Tbl.find s.slices c.slice = some sl → sl.state = .active → c.enabled = false → v.getLsbD 0 = true → exec (.ccWrite g v) s = .next (s.modCtrl ctrl fun c => enableCtrl c (ccOf v))) ∧
  (∀ (ctrl cid off : Nat) (c : Ctrl) (s : State), s.phase = .run → Tbl.find s.host.ctrls ctrl = some c → c.fabrics = true → (Tbl.find c.sqs 0).any (fun q => q.head ≠ q.tail) = true → exec (.propertyGet ctrl cid off) s = .next (match propertyOf c off with | some v => adminCpl ctrl cid nsOk (v.setWidth 32) (emit (.property ctrl off v) (takeEntry ctrl 0 s)) | none => adminCpl ctrl cid nsInvalidField 0 (takeEntry ctrl 0 s))) ∧
  (∀ (ctrl cid : Nat) (v : W32) (c : Ctrl) (s : State), s.phase = .run → Tbl.find s.host.ctrls ctrl = some c → c.fabrics = true → (Tbl.find c.sqs 0).any (fun q => q.head ≠ q.tail) = true → exec (.propertySet ctrl cid 0x14 v) s = .next (adminCpl ctrl cid nsOk 0 (writeCc ctrl v (takeEntry ctrl 0 s)))) ∧
  (∀ (qp : Nat) (cntlid : Nat) (qid : Nat) (size : Nat) (attr : ConnAttr) (host : List Byte) (sub : List Byte) (q : Qp) (s : State), s.phase = .run → s.boot.stage = .ready → Tbl.find s.net.qps qp = some q → q.state = .ready → q.nvme = none → exec (.connect qp cntlid qid size attr host sub) s = .next (pairsMove (connectCmd qp cntlid qid size attr host sub) s)) ∧
  (∀ (ctrl qid cid : Nat) (c : Ctrl) (s : State), s.phase = .run → Tbl.find s.host.ctrls ctrl = some c → c.fabrics = true → (Tbl.find c.sqs qid).any (fun q => q.head ≠ q.tail) = true → exec (.disconnect ctrl qid cid) s = .next (pairsMove (fun s => let s1 := postCpl ctrl { sq := qid, cid := cid, status := nsOk, dw0 := 0 } (takeEntry ctrl qid s); if qid = 0 then endCtrl ctrl s1 else closeQps (fun x q => x = ctrl && q = qid) ((quietCtrl ((ctrlCmds s1 ctrl).filter fun e => e.2.sq = qid) s1).modCtrl ctrl fun c => { c with sqs := Tbl.del c.sqs qid })) s)) ∧
  (∀ (ctrl : Nat) (cid : Nat) (qid : Nat) (size : Nat) (base : W64) (iv : Nat) (c : Ctrl) (sl : Slice) (s : State), adminOn ctrl c s → c.fabrics = false → qidBad c true qid = false → Tbl.has c.cqs qid = false → overReserved (adminTaken ctrl s) c (decide (c.sqs.length ≤ c.cqs.length)) = false → qsizeBad size = false → Tbl.find (adminTaken ctrl s).slices c.slice = some sl → iv < sl.vecCount → exec (.createIoCompletionQueue ctrl cid qid size true base (some iv)) s = .next (afterAdmin ctrl (fun t => adminCpl ctrl cid nsOk 0 (t.modCtrl ctrl fun c => { c with cqs := Tbl.set c.cqs qid { size := size, base := base, iv := some iv } })) s)) ∧
  (∀ (ctrl : Nat) (cid : Nat) (qid : Nat) (size : Nat) (cqid : Nat) (base : W64) (prio : Fin 4) (c : Ctrl) (s : State), adminOn ctrl c s → c.fabrics = false → qidBad c false qid = false → Tbl.has c.sqs qid = false → overReserved (adminTaken ctrl s) c (decide (c.cqs.length ≤ c.sqs.length)) = false → qsizeBad size = false → cqid ≠ 0 → Tbl.has c.cqs cqid = true → exec (.createIoSubmissionQueue ctrl cid qid size cqid true base prio) s = .next (afterAdmin ctrl (fun t => adminCpl ctrl cid nsOk 0 (t.modCtrl ctrl fun c => { c with sqs := Tbl.set c.sqs qid { cq := cqid, size := size, base := base, prio := prio.val } })) s)) ∧
  (∀ (ctrl : Nat) (cid : Nat) (qid : Nat) (c : Ctrl) (s : State), adminOn ctrl c s → c.fabrics = false → qidBad c false qid = false → Tbl.has c.sqs qid = true → exec (.deleteIoSubmissionQueue ctrl cid qid) s = .next (afterAdmin ctrl (fun t => adminCpl ctrl cid nsOk 0 ((quietCtrl ((ctrlCmds t ctrl).filter fun e => e.2.sq = qid) t).modCtrl ctrl fun c => { c with sqs := Tbl.del c.sqs qid })) s)) ∧
  (∀ (ctrl : Nat) (cid : Nat) (qid : Nat) (c : Ctrl) (x : Cq) (s : State), adminOn ctrl c s → c.fabrics = false → qidBad c true qid = false → Tbl.find c.cqs qid = some x → (c.sqs.any fun x => x.2.cq = qid) = false → exec (.deleteIoCompletionQueue ctrl cid qid) s = .next (afterAdmin ctrl (fun t => adminCpl ctrl cid nsOk 0 (fillEntries ((x.held.filterMap (·.lock)).foldl (fun s n => dropPrivet n s) (t.modCtrl ctrl fun c => { c with cqs := Tbl.del c.cqs qid })))) s))

/-- Identify, Get Log Page, Set and Get Features, Abort, Asynchronous Event Request, Keep Alive and Format NVM, taken from the admin queue of an enabled controller of an Active slice, complete with their effect and status, and the data of Identify and Get Log Page go to the pages that the command's data pointer names; the keep-alive and coalescing timers have theirs. The status codes are those of the NVMe standard (log entry 8). -/
def Obligations.AdminCommandsComplete : Prop :=
  (∀ (ctrl cid cns nsid : Nat) (ptr : DataPtr) (c : Ctrl) (s : State), adminOn ctrl c s → exec (.identify ctrl cid cns nsid ptr) s = .next (afterAdmin ctrl (fun t => match identPage cns nsid ctrl c t with | .error st => adminCpl ctrl cid st 0 t | .ok d => hostPage ctrl cid cns c d ptr 0 t) s)) ∧
  (∀ (ctrl cid lid off len : Nat) (ptr : DataPtr) (d : List Byte) (u : State) (c : Ctrl) (s : State), adminOn ctrl c s → logPage lid c (adminTaken ctrl s) = some (d, u) → off ≤ d.length → exec (.getLogPage ctrl cid lid off len ptr) s = .next (afterAdmin ctrl (fun t => hostPage ctrl cid lid c (fit len (d.drop off)) ptr 0 (if lid = 4 then u.modCtrl ctrl (fun c => { c with changed := [] }) else u)) s)) ∧
  (∀ (ctrl cid fid : Nat) (v : W32) (data : List Byte) (ptr : DataPtr) (c : Ctrl) (s : State), adminOn ctrl c s → exec (.setFeatures ctrl cid fid v data ptr) s = .next (afterAdmin ctrl (fun t => setFeature ctrl cid fid v data ptr c t) s)) ∧
  (∀ (ctrl cid fid : Nat) (arg : W32) (ptr : DataPtr) (c : Ctrl) (s : State), adminOn ctrl c s → (fid = 6 ∨ featureKnown c fid = true) → fid ≠ 0x81 → exec (.getFeatures ctrl cid fid arg ptr) s = .next (afterAdmin ctrl (fun t => adminCpl ctrl cid nsOk (if fid = 6 then 0 else featureValue t c fid arg) t) s)) ∧
  (∀ (ctrl : Nat) (cid : Nat) (sq : Nat) (tcid : Nat) (c : Ctrl) (id : Nat) (d : Inflight) (s : State), adminOn ctrl c s → ((adminTaken ctrl s).host.inflight.find? fun e => e.2.ctrl = ctrl && e.2.sq = sq && e.2.cid = tcid && !e.2.forwarded && !e.2.mute) = some (id, d) → d.away = false → exec (.abort ctrl cid sq tcid) s = .next (afterAdmin ctrl (fun t => if d.stage = .lockWait || d.stage = .entryWait then adminCpl ctrl cid nsOk 0 (completeCmd id nsAborted (leaveEntry id d t)) else adminCpl ctrl cid nsOk 1 t) s)) ∧
  (∀ (ctrl : Nat) (cid : Nat) (c : Ctrl) (s : State), adminOn ctrl c s → c.held = [] → c.aers.length < 4 → exec (.asynchronousEventRequest ctrl cid) s = .next (afterAdmin ctrl (fun t => t.modCtrl ctrl fun c => { c with aers := c.aers ++ [cid] }) s)) ∧
  (∀ (ctrl : Nat) (cid : Nat) (c : Ctrl) (s : State), adminOn ctrl c s → exec (.keepAlive ctrl cid) s = .next (afterAdmin ctrl (fun t => adminCpl ctrl cid nsOk 0 (t.modCtrl ctrl fun c => { c with kaEnd := if c.kato = 0 then none else some (t.time.toNat + c.kato * 1000000) })) s)) ∧
  (∀ (ctrl : Nat) (cid : Nat) (nsid : Nat) (lbaf : Nat) (c : Ctrl) (x : Ns) (s : State), adminOn ctrl c s → Tbl.find (adminTaken ctrl s).ns nsid = some x → x.slice = c.slice → (anaCheck (adminTaken ctrl s) x.pool = .execute ∨ anaCheck (adminTaken ctrl s) x.pool = .forward) → lbaf ≤ 1 → nuse (adminTaken ctrl s) nsid x = 0 → exec (.formatNvm ctrl cid nsid lbaf 0) s = .next (afterAdmin ctrl (fun t => adminCpl ctrl cid nsOk 0 (tellNsChanged c.slice nsid (configGroup x.pool 0x10 (t.modNs nsid fun x => { x with fmt512 := lbaf = 1 })))) s)) ∧
  (∀ (ctrl : Nat) (c : Ctrl) (e : Nat) (s : State), s.phase = .run → Tbl.find s.host.ctrls ctrl = some c → c.kaEnd = some e → exec (.keepAliveTimeout ctrl) s = .next (pairsMove (fun s => if c.fabrics then endCtrl ctrl (reachTime e s) else (stopCtrl ctrl (reachTime e s)).modCtrl ctrl fun c => { disabledCtrl 0 c with kaEnd := none }) s)) ∧
  (∀ (ctrl : Nat) (cq : Nat) (c : Ctrl) (x : Cq) (sl : Slice) (iv : Nat) (s : State), s.phase = .run → Tbl.find s.host.ctrls ctrl = some c → Tbl.find c.cqs cq = some x → Tbl.find s.slices c.slice = some sl → x.iv = some iv → x.coalesced ≠ 0 → exec (.interruptCoalescingTimeout ctrl cq) s = .next (sendVia c.port c.upper (sl.vecBase + iv) (s.modCtrl ctrl fun c => { c with cqs := Tbl.upd c.cqs cq fun q => { q with coalesced := 0 } })))

/-- NET_PORT_CONFIG whose checks pass takes the port's logical ports down, sets it and lets it train again; NET_PORT_QUERY answers with the FEC counts; link loss and return, ARP, neighbour solicitation, ICMP echo, router advertisements, DHCPv4 and its lease timer, and PFC frames have their effect on an up logical port. The frame lengths counted are free values (log entry 1); SLAAC and DHCP follow their RFCs (log entry 10). -/
def Obligations.NetworkPortsComplete : Prop :=
  (∀ (h : MbxHdr) (port : Byte) (breakout : Byte) (pfc : Byte) (mtu : W16) (c : MCmd) (s : State), startsNow ⟨0x0901, 2, true, .other, false⟩ h [.num 0 1 port.toNat, .num 1 1 breakout.toNat, .num 2 1 pfc.toNat, .num 4 2 mtu.toNat] c s → port.toNat ≤ 7 → breakout.toNat ≤ 2 → countBits pfc.toNat 8 ≤ 3 → 1500 ≤ mtu.toNat → mtu.toNat ≤ 9000 → hasBit s.power.fenced (netDomain port.toNat) = false → (s.net.qps.any fun e => e.2.lport / 4 = port.toNat) = false → exec (.netPortConfig h port breakout pfc mtu) s = .next (let s1 := netPortDown port.toNat (taken c s)
      let s2 := s1.modNet fun t => { t with ports := Tbl.set t.ports port.toNat { s1.netPort port.toNat with breakout := breakout.toNat, mtu := mtu.toNat, pfcMask := pfc }, lports := Tbl.mapVals t.lports fun l x => if l / 4 = port.toNat then { x with training := true, ipv4 := none, ipv6 := [] } else x }
      let s3 := { s2 with power := { s2.power with named := setBit s2.power.named (netDomain port.toNat) } }
      mbxAnswer c (replyOk []) (if hasBit s3.power.unused (netDomain port.toNat) then switchOn (netDomain port.toNat) s3 else s3))) ∧
  (∀ (h : MbxHdr) (port : Byte) (corrected : Nat) (uncorrected : Nat) (c : MCmd) (s : State), startsNow ⟨0x0902, 2, false, .other, false⟩ h [.num 0 1 port.toNat] c s → port.toNat ≤ 7 → exec (.netPortQuery h port corrected uncorrected) s = .next (let s1 := (taken c s).modNetPort port.toNat fun x => { x with fecCorrected := x.fecCorrected + BitVec.ofNat 64 corrected, fecUncorrected := x.fecUncorrected + BitVec.ofNat 64 uncorrected }
      let x := s1.netPort port.toNat
      let links := ((List.range 4).map fun i => flag i (lportUp s1 (4 * port.toNat + i))).sum
      mbxAnswer c (replyOk (le8 (netState s1 port.toNat) ++ le8 x.breakout ++ le8 links ++ zeros 1 ++ le64 x.fecCorrected.toNat ++ le64 x.fecUncorrected.toNat)) s1)) ∧
  (∀ (l : Fin 32) (s : State), (s.phase = .run ∨ s.phase = .flushing) → lportUp s l = true → exec (.netLinkDown l) s = .next (lportDown l s)) ∧
  (∀ (l : Fin 32) (s : State), s.phase = .run → lportExists s l = true → hasBit s.power.on (netDomain (l / 4)) = true → laneDead s l = false → exec (.netLinkUp l) s = .next (netEmit l 0 (.dhcpRequest l) (s.modLport l fun p => { p with up := true, training := false, dhcpAsking := true, ipv6 := if p.ipv6.any (fun e => e.1 = linkLocal s l) then p.ipv6 else (linkLocal s l, none) :: p.ipv6 }))) ∧
  (∀ (l : Fin 32) (target : W32) (s : State), onLink l s → (s.lport l).ipv4 = some target → exec (.arpRequest l target) s = .next (netEmit l 0 (.arpReply l (macOf s l) target) (frameIn l s))) ∧
  (∀ (l : Fin 32) (target : BitVec 128) (s : State), onLink l s → holdsV6 (frameIn l s) l target = true → exec (.neighborSolicitation l target) s = .next (netEmit l 0 (.ndReply l (macOf s l) target) (frameIn l s))) ∧
  (∀ (l : Fin 32) (a : W32) (s : State), onLink l s → ((frameIn l s).lport l).ipv4 = some a → exec (.icmpEcho l (.v4 a)) s = .next (netEmit l 0 (.echoReply l) (frameIn l s))) ∧
  (∀ (l : Fin 32) (pre : BitVec 64) (valid : W32) (preferred : W32) (s : State), onLink l s → pre.toNat / 2 ^ 54 ≠ 0x3FA → preferred.toNat ≤ valid.toNat → exec (.routerAdvertisement l pre true valid preferred) s = .next (let u := frameIn l s
      let a : BitVec 128 := BitVec.ofNat 128 (pre.toNat * 2 ^ 64 + (eui64 (macOf u l)).toNat)
      let live := (u.lport l).ipv6.filter fun e => match e.2 with | some t => decide (u.time.toNat < t) | none => true
      match live.find? fun e => e.1 = a with | some e => u.modLport l (fun p => { p with ipv6 := live.map fun x => if x.1 = a then (a, slaacEnd u.time.toNat e.2 valid.toNat) else x }) | none => (if valid = 0 then u else u.modLport l fun p => { p with ipv6 := live ++ [(a, slaacEnd u.time.toNat none valid.toNat)] }))) ∧
  (∀ (l : Fin 32) (ip : W32) (lease : W32) (s : State), onLink l s → ((frameIn l s).lport l).dhcpAsking = true → exec (.dhcpv4Message l .ack ip lease) s = .next (let u := frameIn l s
      u.modLport l fun p => { p with ipv4 := some ip, dhcpAsking := false, renewAt := u.time.toNat + lease.toNat * 500000000, expireAt := u.time.toNat + lease.toNat * 1000000000 })) ∧
  (∀ (l : Fin 32) (s : State), s.phase = .run → (s.lport l).ipv4.isNone = false → exec (.dhcpv4LeaseTimer l) s = .next (let p := s.lport l
      let s1 := if p.dhcpAsking then (reachTime p.expireAt s).modLport l (fun p => { p with ipv4 := none }) else (reachTime p.renewAt s).modLport l fun p => { p with dhcpAsking := true }
      if lportUp s1 l then netEmit l 0 (.dhcpRequest l) s1 else s1)) ∧
  (∀ (l : Fin 32) (prio : Option (Fin 8)) (quanta : W16) (s : State), onLink l s → exec (.pfcFrame l prio quanta) s = .next (let u := frameIn l s
      let s1 := bumpL l 5 1 u
      let mask := (u.netPort (l / 4)).pfcMask
      let slot : Option Nat := match prio with | none => (if mask = 0 then some 8 else none) | some n => if mask.getLsbD n then some n.val else none
      match slot with | none => s1 | some n => releaseHeld l (s1.modLport l fun p => { p with paused := Tbl.set p.paused n (u.time.toNat + ceilDiv (quanta.toNat * 512) (lportRate u l)) })))

/-- At the expected PSN of a queue pair whose context is cached, a SEND lands in the first posted receive, or hands its capsule to the controller that the queue pair serves, a SEND WITH INVALIDATE takes its key away, a WRITE to a region that allows it is placed, a READ is answered, and each moves the expected PSN; connection set-up makes the queue pair; a context that is fetched lets the parked packets be judged. -/
def Obligations.ConnectedRequestsComplete : Prop :=
  (∀ (l : Nat) (remote : Nat) (psn : Nat) (setup : FwSetup) (s : State), onLink l s → s.net.qps.length < 262144 → exec (.cmMad (.connectRequest l servicePort remote psn) setup) s = .next (let u := frameIn l s
      let n := Tbl.freshFrom u.net.qps 262146 u.net.nextQp
      let d := draw u
      netEmit l prioData (.cm l n true) (applySetup setup (d.2.modNet fun t => { t with qps := Tbl.set t.qps n { lport := l, remoteQp := remote, ePsn := psn % 2 ^ 24, sPsn := d.1 % 2 ^ 24, trig := setup.bind }, nextQp := n + 1 })))) ∧
  (∀ (pk : RocePkt) (x : Qp) (ctrl : Nat) (s : State), s.phase = .run → atQp pk x s → x.nvme = some ctrl → exec (.roceSend pk) s = .next (capsuleIn ctrl x.nvmeSq (roceAccept pk.qp pk (qpMet pk x s)))) ∧
  (∀ (pk : RocePkt) (x : Qp) (b : RecvBuf) (rest : List RecvBuf) (s : State), s.phase = .run → atQp pk x s → x.nvme = none → x.recv = b :: rest → pk.payload.length ≤ b.len → exec (.roceSend pk) s = .next (let u := qpMet pk x s
      let s2 := roceAccept pk.qp pk ((chipPut b.addr.toNat pk.payload u).modQp pk.qp fun q => { q with recv := rest })
      let s4 := record (.qp pk.qp) b.wrId pk.payload.length 0 .ok 1 0 0 s2
      match x.trig with | some c => pumped (countTrig c s4) | none => s4)) ∧
  (∀ (pk : RocePkt) (x : Qp) (b : RecvBuf) (rest : List RecvBuf) (s : State), s.phase = .run → atQp pk x s → x.nvme = none → x.recv = b :: rest → pk.payload.length ≤ b.len → exec (.roceSendWithImmediate pk) s = .next (let u := qpMet pk x s
      let s2 := roceAccept pk.qp pk ((chipPut b.addr.toNat pk.payload u).modQp pk.qp fun q => { q with recv := rest })
      let s4 := record (.qp pk.qp) b.wrId pk.payload.length (pk.imm.getD 0) .ok 1 0 0 s2
      match x.trig with | some c => pumped (countTrig c s4) | none => s4)) ∧
  (∀ (pk : RocePkt) (x : Qp) (b : RecvBuf) (rest : List RecvBuf) (key : W32) (r : Region) (s : State), s.phase = .run → atQp pk x s → x.nvme = none → x.recv = b :: rest → pk.payload.length ≤ b.len → pk.invKey = some key → Tbl.find (qpMet pk x s).net.regions key.toNat = some r → r.qp = some pk.qp → exec (.roceSendWithInvalidate pk) s = .next (let u := qpMet pk x s
      let s2 := roceAccept pk.qp pk ((chipPut b.addr.toNat pk.payload u).modQp pk.qp fun q => { q with recv := rest })
      let s4 := record (.qp pk.qp) b.wrId pk.payload.length 0 .ok 1 0 0 (s2.modNet fun t => { t with regions := Tbl.del t.regions key.toNat })
      match x.trig with | some c => pumped (countTrig c s4) | none => s4)) ∧
  (∀ (pk : RocePkt) (x : Qp) (s : State), s.phase = .run → atQp pk x s → roceAllowed (qpMet pk x s) pk.qp x pk.rkey pk.remoteAddr pk.payload.length true = true → exec (.roceRdmaWrite pk) s = .next (roceAccept pk.qp pk (chipPut pk.remoteAddr.toNat pk.payload (qpMet pk x s)))) ∧
  (∀ (pk : RocePkt) (x : Qp) (s : State), s.phase = .run → atQp pk x s → roceAllowed (qpMet pk x s) pk.qp x pk.rkey pk.remoteAddr pk.readLen false = true → exec (.roceRdmaReadRequest pk) s = .next (roceReadAnswer pk.qp pk ((qpMet pk x s).modQp pk.qp fun q => { q with ePsn := psnAdd q.ePsn pk.packets, nakSent := false }))) ∧
  (∀ (n : Nat) (x : Qp) (s : State), s.phase = .run → Tbl.find s.net.qps n = some x → x.cached = false → cachedCount s < 16384 → exec (.qpContextFetched n) s = .next (pumpQs [.qp n] (judgeAll n x.parked (touchQp n ((cacheRead 4 n s).modQp n fun x => { x with cached := true, parked := [] })))))

/-- An acknowledgement completes the requests before it; a NAK resends, waits or fails by its reason; a READ response of the right length is placed; a CNP halves the rate at most once in its interval, and 55 us of calm raise it by 1 percent; a retransmission timeout goes back to the oldest request; a work request joins its queue at once, unless it waits for its trigger; a receive buffer joins its queue. -/
def Obligations.ConnectedRequesterCompletes : Prop :=
  (∀ (n : Nat) (psn : Nat) (x : Qp) (s : State), s.phase = .run → Tbl.find s.net.qps n = some x → onLink x.lport s → x.cached = true → x.parked = [] → x.state = .ready → ackedReqs psn x.sent ≠ [] → exec (.roceAck n psn) s = .next (dataAcked n psn (roceAckTo n psn (touchQp n (frameIn x.lport s))))) ∧
  (∀ (n : Nat) (psn : Nat) (data : List Byte) (x : Qp) (y : Qp) (r : QpReq) (more : List QpReq) (s : State), s.phase = .run → Tbl.find s.net.qps n = some x → onLink x.lport s → x.cached = true → x.parked = [] → x.state = .ready → Tbl.find (roceAckTo n (psnAdd psn (2 ^ 24 - 1)) (touchQp n (frameIn x.lport s))).net.qps n = some y → y.sent = r :: more → r.op = .read → r.firstPsn = psn → data.length = r.wr.length → exec (.roceReadResponse n psn data none) s = .next (let s1 := roceAckTo n (psnAdd psn (2 ^ 24 - 1)) (touchQp n (frameIn x.lport s))
      let a := completeReqs n y [r] (chipPut r.wr.localAddr.toNat data s1)
      pumpQs (.qp n :: a.2) a.1)) ∧
  (∀ (n : Nat) (psn : Nat) (x : Qp) (y : Qp) (r : QpReq) (more : List QpReq) (s : State), s.phase = .run → Tbl.find s.net.qps n = some x → onLink x.lport s → x.cached = true → x.parked = [] → x.state = .ready → Tbl.find (roceAckTo n (psnAdd psn (2 ^ 24 - 1)) (touchQp n (frameIn x.lport s))).net.qps n = some y → y.sent = r :: more → exec (.roceNak n psn .sequence none) s = .next (goBack n (roceAckTo n (psnAdd psn (2 ^ 24 - 1)) (touchQp n (frameIn x.lport s))))) ∧
  (∀ (n : Nat) (x : Qp) (s : State), s.phase = .run → Tbl.find s.net.qps n = some x → onLink x.lport s → x.cached = true → x.parked = [] → exec (.roceCnp n) s = .next (let u := touchQp n (frameIn x.lport s)
      bumpL x.lport 9 1 (u.modQp n fun q => if cutAllowed q.lastCut u.time.toNat then { q with rate := halve q.rate, lastCut := some u.time.toNat, calmFrom := u.time.toNat } else { q with calmFrom := u.time.toNat }))) ∧
  (∀ (n : Nat) (x : Qp) (s : State), s.phase = .run → Tbl.find s.net.qps n = some x → x.rate ≠ 1000000000 → exec (.rateIncreaseTick (.qp n)) s = .next (let s1 := reachTime (x.calmFrom + 55000) s
      s1.modQp n fun q => { q with rate := min 1000000000 (q.rate + 10000000), calmFrom := s1.time.toNat })) ∧
  (∀ (n : Nat) (x : Qp) (s : State), s.phase = .run → Tbl.find s.net.qps n = some x → x.state = .ready → x.sent ≠ [] → x.rnrUntil = none → x.retries = 0 → exec (.qpRetransmitTimeout n) s = .next (goBack n ((reachTime (x.waitFrom + rto0 x.srtt) s).modQp n fun q => { q with retries := q.retries + 1 }))) ∧
  (∀ (a : NetQ) (wr : WorkReq) (s : State), s.phase = .run → wr.triggered = false → exec (.wrSend a wr) s = .next (pumpQs [a] (enqueue a .send wr s))) ∧
  (∀ (a : NetQ) (wr : WorkReq) (s : State), s.phase = .run → wr.triggered = false → exec (.wrWrite a wr) s = .next (pumpQs [a] (enqueue a .write wr s))) ∧
  (∀ (n : Nat) (wr : WorkReq) (s : State), s.phase = .run → wr.triggered = false → exec (.wrRead n wr) s = .next (pumpQs [.qp n] (enqueue (.qp n) .read wr s))) ∧
  (∀ (n : Nat) (wr : WorkReq) (s : State), s.phase = .run → wr.triggered = false → exec (.wrSendWithInvalidate n wr) s = .next (pumpQs [.qp n] (enqueue (.qp n) .sendInv wr s))) ∧
  (∀ (a : NetQ) (wr : WorkReq) (s : State), s.phase = .run → wr.triggered = false → exec (.wrNop a wr) s = .next (pumpQs [a] (enqueue a .nop wr s))) ∧
  (∀ (n : Nat) (b : RecvBuf) (setup : FwSetup) (x : Qp) (s : State), s.phase = .run → Tbl.find (applySetup setup s).net.qps n = some x → x.state ≠ .error → x.recv.length < 4096 → exec (.receiveBufferPost (.qp n) b setup) s = .next ((applySetup setup s).modQp n fun x => { x with recv := x.recv ++ [b], trig := setup.bind.orElse fun _ => x.trig }))

/-- A HELLO whose versions meet this chip's sets the session and is answered; its reply starts the messages that waited; a retry sends it again; a packet of the session is placed in its entry and the entry's acknowledgements are sent when due; an entry that no packet reaches expires; probes are answered, and a path that does not answer is probed twice, then DOWN, then probed again. -/
def Obligations.DatagramReceiverCompletes : Prop :=
  (∀ (l : Fin 32) (pk : DataPkt) (e : Reasm) (e1 : Reasm) (s1 : State) (s : State), s.phase = .run → dgWelcome l pk s → Tbl.find (frameIn l s).net.reasm (reKey pk.node pk.msgId) = some e → faulty e pk = false → assign e pk (dgMet l pk s) = .ok (e1, s1) → exec (.datagramData l pk) s = .next (placePacket l (reKey pk.node pk.msgId) e1 pk (setEntry (reKey pk.node pk.msgId) e1 s1))) ∧
  (∀ (node : Nat) (id : W32) (e : Reasm) (s : State), s.phase = .run → Tbl.find s.net.reasm (reKey node id) = some e → e.unacked ≠ [] → exec (.datagramAckDue node id) s = .next (ackEntry (reKey node id) e (reachTime (e.ackFrom + 2000) s))) ∧
  (∀ (node : Nat) (id : W32) (e : Reasm) (s : State), s.phase = .run → Tbl.find s.net.reasm (reKey node id) = some e → exec (.reassemblyExpiry node id) s = .next (settleRegions (dropEntry (reKey node id) (bumpDg 2 1 (reachTime (e.lastAt + 32500000) s))))) ∧
  (∀ (l : Fin 32) (node : Nat) (lo : Nat) (hi : Nat) (paths : Nat) (session : W32) (peerSession : W32) (s : State), onLink l s → max 1 lo ≤ min 2 hi → exec (.datagramHello l node lo hi paths session peerSession) s = .next (let u := frameIn l s
      let v := min 2 hi
      let fresh := (u.dpeer node).session ≠ some session
      let s1 := if fresh then newTraffic node (settleRegions (dropEntries (peerEntries u node) u)) else u
      let s2 := s1.modPeer node fun p => { p with session := some session, seen := session, rxVersion := v, hwm := if fresh then 0 else p.hwm, window := if fresh then 0 else p.window }
      netEmit l prioCtl (dgOut s2 node 0 (ctlBytes s2 .helloReply 1 node 0 (le8 v ++ le8 (min (if v = 1 then 8 else 16) paths) ++ zeros 2 ++ le32 u.net.session.toNat ++ le32 peerSession.toNat ++ zeros 4))) s2)) ∧
  (∀ (l : Fin 32) (node : Nat) (version : Nat) (paths : Nat) (session : W32) (s : State), onLink l s → (version = 1 ∨ version = 2) → (s.dpeer node).helloAt.isNone = false → exec (.datagramHelloReply l node version paths session) s = .next (let u := frameIn l s
      let n := max 1 (min (if version = 1 then 8 else 16) paths)
      let s1 := if (u.dpeer node).seen ≠ session && (u.dpeer node).session ≠ some session then newTraffic node u else u
      pumped (startWaitingMsgs node (s1.modPeer node fun p => { p with version := some version, helloAt := none, seen := session, paths := List.replicate n {} })))) ∧
  (∀ (node : Nat) (e : Nat) (s : State), s.phase = .run → (s.dpeer node).helloAt = some e → exec (.datagramHelloRetry node) s = .next (let s1 := reachTime ((s.dpeer node).helloLast + 1000000) s
      if e + 100000000 ≤ s1.time.toNat then raiseAlarm 0x63 (failWaiting (s.dpeer node).waiting (s1.modPeer node fun p => { p with helloAt := none, waiting := [] })) else sendHelloTo node s1)) ∧
  (∀ (l : Fin 32) (node : Nat) (path : Nat) (s : State), onLink l s → exec (.datagramProbe l node path) s = .next (netEmit l prioCtl (probeOut (frameIn l s) .probeReply node path) (frameIn l s))) ∧
  (∀ (l : Fin 32) (node : Nat) (path : Nat) (s : State), onLink l s → path < (s.dpeer node).paths.length → ((s.dpeer node).paths.getD path {}).state = .down → exec (.datagramProbeReply l node path) s = .next (modPath node path (fun x => { x with state := .up, probes := 0 }) (frameIn l s))) ∧
  (∀ (node : Nat) (path : Nat) (s : State), s.phase = .run → path < (s.dpeer node).paths.length → ((s.dpeer node).paths.getD path {}).state = .suspect → exec (.pathProbeTimeout node path) s = .next (let p := s.dpeer node
      let x := p.paths.getD path {}
      let s1 := reachTime (x.probeAt + 2 * rto0 p.srtt) s
      let s2 := modPath node path (fun x => { x with lastFail := s1.time.toNat }) s1
      if x.probes ≤ 1 then pathEmit path prioCtl (probeOut s2 .probe node path) (modPath node path (fun x => { x with probes := 2, probeAt := s1.time.toNat }) s2) else event 1 0x53 (le16 node ++ le8 path) (bumpDg 12 1 (lastingFault (pathErr s2 node path) (pathDown node path s2))))) ∧
  (∀ (node : Nat) (path : Nat) (s : State), s.phase = .run → path < (s.dpeer node).paths.length → ((s.dpeer node).paths.getD path {}).state = .down → exec (.pathDownProbe node path) s = .next (let x := (s.dpeer node).paths.getD path {}
      let s1 := reachTime (x.probeAt + 1000000) s
      pathEmit path prioCtl (probeOut s1 .probe node path) (modPath node path (fun x' => { x' with probes := 1, probeAt := s1.time.toNat, lastFail := if x'.probes = 0 then x'.lastFail else s1.time.toNat }) s1))) ∧
  (∀ (l : Fin 32) (node : Nat) (session : W32) (id : W32) (base : W32) (bitmap : W64) (done : Bool) (m : MsgOut) (s : State), onLink l s → session = s.net.session → Tbl.find (s.dpeer node).out id.toNat = some m → exec (.datagramAck l node session id base bitmap done false) s = .next (let s2 := ackPackets node id ((bitsOf bitmap.toNat 64).map (base.toNat + ·)) (frameIn l s)
      if done then endMsg node id .ok s2 else s2)) ∧
  (∀ (l : Fin 32) (node : Nat) (session : W32) (id : W32) (m : MsgOut) (s : State), onLink l s → session = s.net.session → Tbl.find (s.dpeer node).out id.toNat = some m → exec (.datagramNak l node session id .rnr) s = .next ((frameIn l s).modPeer node fun p => { p with out := Tbl.set p.out id.toNat { m with rnr := some ((m.tries.map fun e => e.2.1).foldl max 0) } })) ∧
  (∀ (node : Nat) (id : W32) (i : Nat) (m : MsgOut) (path : Nat) (t0 : Nat) (s : State), s.phase = .run → Tbl.find (s.dpeer node).out id.toNat = some m → Tbl.find m.tries i = some (0, path, t0) → Tbl.has m.acked i = false → m.rnr = some 0 → exec (.datagramRetransmitTimeout node id i) s = .next (let s1 := reachTime (t0 + rto0 (s.dpeer node).srtt) s
      sendPacket node id i 1 (nextPath (s1.dpeer node) path) (bumpDg 10 1 s1)))

/-- Training sends HELLO; a HELLO whose versions and partner are right is answered and its reply brings the sub-link up and starts joining; NAK, timeouts, retrains and due acknowledgements have their effect; heartbeats go out every 100 us and a failing or vaulting mirrored peer is taken over; 50 ms without a frame partition the pair; PEER_STATUS_GET and FAILOVER answer by the peer state (log entries 13 and 14). -/
def Obligations.PeerLinkComplete : Prop :=
  (∀ (sub : Fin 4) (s : State), s.phase = .run → jalReady s sub = true → (s.sub sub).state = .detect → exec (.jalrasTrainingDone sub) s = .next (jalHello sub (s.modSub sub fun l => { l with state := .hello, txSeq := 0, rxSeq := 0, unacked := [], ackDue := false, nakSent := false }))) ∧
  (∀ (sub : Fin 4) (x : JalHello) (v : Nat) (j : Nat) (s : State), s.phase = .run → jalReady s sub = true → (s.sub sub).state = .hello → commonOf 1 2 x.minV x.maxV = some v → commonOf 1 2 x.journalMin x.journalMax = some j → partnerFault s sub x = 0 → exec (.jalrasHello sub x) s = .next (jalHelloReply sub v j ((s.modSub sub fun l => { l with partner := some x.uid }).modJal fun y => if isCross s sub x then y else { y with peerRange := (x.minV, x.maxV, x.journalMin, x.journalMax) }))) ∧
  (∀ (sub : Fin 4) (x : JalHello) (v : Nat) (j : Nat) (s : State), s.phase = .run → jalReady s sub = true → (s.sub sub).state = .hello → commonOf 1 2 x.minV x.maxV = some v → commonOf 1 2 x.journalMin x.journalMax = some j → partnerFault s sub x = 0 → isCross s sub x = false → exec (.jalrasHelloReply sub x) s = .next (let s2 := (s.modSub sub fun l => { l with state := .up, cross := false, retrainFails := 0, lastFrame := s.time.toNat, partner := some x.uid, node := x.nodeId }).modJal fun y => { y with version := v, journalVersion := j, partnerUid := some x.uid, partnerNode := x.nodeId, peerSession := x.session, heard := some s.time.toNat }
      linkBack (startJoining (jalQueue (some sub) (.serials (ownSerials s)) { s2 with journal := { s2.journal with version := j } })))) ∧
  (∀ (sub : Fin 4) (seq : W32) (s : State), s.phase = .run → (s.sub sub).state = .up → exec (.jalrasNak sub seq) s = .next (jalFailed sub seq.toNat (jalAcked sub seq.toNat (s.modSub sub fun l => { l with lastFrame := s.time.toNat })))) ∧
  (∀ (sub : Fin 4) (f : JalFrame) (more : List JalFrame) (s : State), s.phase = .run → (s.sub sub).state = .up → (s.sub sub).unacked = f :: more → exec (.jalrasRetransmitTimeout sub) s = .next (jalFailed sub f.seq (reachTime (f.sentAt + 4000) s))) ∧
  (∀ (sub : Fin 4) (s : State), s.phase = .run → (s.sub sub).ackDue = true → (s.sub sub).state = .up → exec (.jalrasAckDue sub) s = .next (emit (.jalAck sub (s.sub sub).rxSeq) ((reachTime ((s.sub sub).ackFrom + 1000) s).modSub sub fun l => { l with ackDue := false }))) ∧
  (∀ (sub : Fin 4) (s : State), s.phase = .run → (s.sub sub).state = .up → exec (.jalrasSublinkLoss sub) s = .next (jalRetrain sub (reachTime ((s.sub sub).lastFrame + 500000) s))) ∧
  (∀ (sub : Fin 4) (s : State), s.phase = .run → (s.sub sub).state = .retrain → exec (.jalrasRetrainDone sub true) s = .next (resendJal sub (s.sub sub).unacked (s.modSub sub fun l => { l with state := .up, retrainFails := 0, lastFrame := s.time.toNat, unacked := l.unacked.map fun f => { f with failedOnce := false, sentAt := s.time.toNat } }))) ∧
  (∀ (rx : JalRx) (failStopping : Bool) (owned : Byte) (session : W32) (s : State), fromPeer rx 0 s → session = (jalNow rx 0 s).jal.peerSession → exec (.jalrasHeartbeat rx failStopping owned session) s = .next (jalThen 0 (let s1 := (jalNow rx 0 s).modJal fun j => { j with peerOwned := owned }
      if failStopping then peerStops s1 else s1))) ∧
  (∀ (s : State), s.phase = .run → exec (.jalrasHeartbeatSend) s = .next (let s1 := reachTime (s.jal.beatAt + 100000) s
      handSettle (beatAll false (peerSubs s1) (s1.modJal fun j => { j with beatAt := s1.time.toNat })))) ∧
  (∀ (rx : JalRx) (session : W32) (s : State), fromPeer rx 0 s → session = (jalNow rx 0 s).jal.peerSession → exec (.vaultNotice rx session) s = .next (jalThen 0 (peerStops (jalNow rx 0 s)))) ∧
  (∀ (e : Nat) (s : State), s.phase = .run → s.jal.heard = some e → s.peerState = .mirrored → exec (.peerPartitionTimeout) s = .next (if peerGone (reachTime (e + 50000000) s) then takeover (reachTime (e + 50000000) s) else partition (reachTime (e + 50000000) s))) ∧
  (∀ (h : MbxHdr) (c : MCmd) (s : State), startsNow ⟨0x0801, 2, false, .other, false⟩ h [] c s → exec (.peerStatusGet h) s = .next (let u := taken c s
      let a := match u.jal.heard with | some e => (min 0xFFFFFFFF ((u.time.toNat - e) / 1000), u) | none => draw u
      mbxAnswer c (replyOk (le8 (peerStNum s.peerState) ++ le8 (jalrasUp s) ++ zeros 2 ++ le32 a.1 ++ le64 (mirrorDirty s * 4096))) a.2)) ∧
  (∀ (h : MbxHdr) (op : Byte) (c : MCmd) (s : State), startsNow ⟨0x0802, 2, true, .other, false⟩ h [.num 0 1 op.toNat] c s → op = 0 → s.peerState = .partitioned → exec (.failoverTakeOver h op) s = .next (mbxAnswer c (replyOk []) (takeover (taken c s)))) ∧
  (∀ (h : MbxHdr) (c : MCmd) (s : State), startsNow ⟨0x0802, 2, true, .other, false⟩ h [.num 0 1 1] c s → s.peerState = .mirrored → (s.pools.filter fun e => e.2.owned && !e.2.created && !e.2.deleting) ≠ [] → exec (.failoverGiveBack h) s = .next (underWay c ⟨0x0802, 2, true, .other, false⟩ (startGiving ((s.pools.filter fun e => e.2.owned && !e.2.created && !e.2.deleting).map (·.1)) (taken c s))))

/-- SERIALS, OWNERSHIP, RESYNC_DONE, SIF_UPDATE and SIF_ACK, JOURNAL_GROUP and JOURNAL_ACK, RELEASE, MIRROR_DATA and MIRROR_ACK, FORWARD_CMD (aborted with its status where no Privet entry is left for it) and FORWARD_RSP, PROXY_MEDIA and PROXY_RSP, taken on an up sub-link, with all frames of the message accepted and the message the next of its class, have their effect on the state in which their frame has been accepted. -/
def Obligations.PeerMessagesComplete : Prop :=
  (∀ (rx : JalRx) (list : List W64) (s : State), fromPeer rx 0 s → exec (.serials rx list) s = .next (jalThen 0 (let u := jalNow rx 0 s
      let s1 := kamAlarms (serialAlarm (readSerials ((list.take 96).zipIdx) (u.modJal fun j => { j with serials := list })))
      ((s1.kports.filter fun e => e.2.peerUp && e.2.state ≠ .up && e.2.state ≠ .retrain && !(u.kport e.1).peerUp).map (·.1)).foldl (fun s n => drainWait n s) s1))) ∧
  (∀ (rx : JalRx) (pool : Fin 8) (gen : W32) (p : Pool) (s : State), fromPeer rx 0 s → Tbl.find (jalNow rx 0 s).pools pool = some p → p.owned = false → (jalNow rx 0 s).jal.hand = none → exec (.ownership rx pool true gen) s = .next (jalThen 0 (takePool pool gen (jalNow rx 0 s)))) ∧
  (∀ (rx : JalRx) (session : W32) (s : State), fromPeer rx 0 s → session = (jalNow rx 0 s).jal.peerSession → exec (.resyncDone rx session) s = .next (jalThen 0 (let u := jalNow rx 0 s
      let s1 := { u with carafe := { u.carafe with mirror := u.carafe.mirror.filter fun e => !u.carafe.restored.contains e.1, restored := [] } }
      checkMirrored ((vaultSpent (vaultSetRecompute s1)).modJal fun j => { j with resyncDone := true })))) ∧
  (∀ (rx : JalRx) (seq : Nat) (x : Option Sif) (s : State), fromPeer rx 1 s → exec (.sifUpdate rx seq x) s = .next (jalThen 1 (jalSend (.sifAck seq) { jalNow rx 1 s with carafe := { (jalNow rx 1 s).carafe with peerSif := match x with | some e => Tbl.set (jalNow rx 1 s).carafe.peerSif seq e | none => Tbl.del (jalNow rx 1 s).carafe.peerSif seq } }))) ∧
  (∀ (rx : JalRx) (seq : Nat) (x : Sif) (s : State), fromPeer rx 1 s → (jalNow rx 1 s).sifAt seq = some x → exec (.sifAck rx seq) s = .next (jalThen 1 (let s1 := (jalNow rx 1 s).modSif seq sifAcked
      if x.state = .opened then sifOpened seq s1 else s1))) ∧
  (∀ (rx : JalRx) (gseq : Nat) (g : Group) (cfg : PairConfig) (s : State), fromPeer rx 1 s → compactOf g = none → exec (.journalGroup rx gseq g cfg) s = .next (jalThen 1 (let u := jalNow rx 1 s
      let s1 := applyConfig cfg { u with journal := { u.journal with peerGroups := Tbl.set u.journal.peerGroups gseq { g with whole := true, committed := false } } }
      jalSend (.journalAck gseq) (if u.peerState = .joining then { s1 with carafe := { s1.carafe with mirror := s1.carafe.mirror.filter fun e => !g.writes.contains e.1 } } else s1)))) ∧
  (∀ (rx : JalRx) (gseq : Nat) (s : State), fromPeer rx 1 s → exec (.journalAck rx gseq) s = .next (jalThen 1 ({ jalNow rx 1 s with journal := { (jalNow rx 1 s).journal with groups := Tbl.upd (jalNow rx 1 s).journal.groups gseq fun g => { g with peerAck := true } } }))) ∧
  (∀ (rx : JalRx) (seqs : List Nat) (s : State), fromPeer rx 1 s → exec (.release rx seqs) s = .next (jalThen 1 (let u := jalNow rx 1 s
      vaultSpent (vaultSetRecompute (mirrorFlow { u with carafe := { u.carafe with mirror := u.carafe.mirror.filter fun e => !seqs.contains e.1, mirrorWait := u.carafe.mirrorWait.filter fun e => !seqs.contains e.1 } }))))) ∧
  (∀ (rx : JalRx) (m : MirrorMsg) (s : State), fromPeer rx 2 s → exec (.mirrorData rx m) s = .next (jalThen 2 (let u := jalNow rx 2 s
      mirrorFlow { u with carafe := { u.carafe with restored := u.carafe.restored.filter (· ≠ m.seq), mirrorWait := u.carafe.mirrorWait ++ [(m.seq, { nsid := m.nsid, whole := true, origin := m.origin, granules := granules m.bytes, slba := m.slba, bytes := m.bytes, data := m.data })] } }))) ∧
  (∀ (rx : JalRx) (seqs : List Nat) (s : State), fromPeer rx 2 s → exec (.mirrorAck rx seqs) s = .next (jalThen 2 (let s1 := (ackWrites seqs (jalNow rx 2 s)).modJal fun j => { j with resync := j.resync.filter fun n => !seqs.contains n }
      checkMirrored (if s1.peerState = .partitioned then s1 else tryFinishAll seqs s1)))) ∧
  (∀ (rx : JalRx) (id slice : Nat) (e : SubEntry) (s : State), fromPeer rx 3 s → exec (.forwardCmd rx id slice (some e)) s = .next (jalThen 3 (forwardIn id slice e (jalNow rx 3 s)))) ∧
  (∀ (rx : JalRx) (id slice : Nat) (s : State), fromPeer rx 3 s → exec (.forwardCmd rx id slice none) s = .next (jalThen 3 (forwardAborted id (jalNow rx 3 s)))) ∧
  (∀ (rx : JalRx) (id sct sc : Nat) (err : Option (Nat × Nat)) (data : List Nat) (c : Inflight) (s : State), fromPeer rx 3 s → cmdAt (jalNow rx 3 s) id = some c → c.away = true → ¬(c.op = .flush ∧ sct = 0 ∧ sc = 0) → listBad c (jalNow rx 3 s) = false → exec (.forwardRsp rx id sct sc err data) s = .next (jalThen 3 (completeCmd id ⟨sct, sc⟩ (match err with | some (location, lba) => errLog c.ctrl c ⟨sct, sc⟩ location lba (forwardedData id c data (jalNow rx 3 s)) | none => forwardedData id c data (jalNow rx 3 s))))) ∧
  (∀ (rx : JalRx) (module : Fin 96) (cmd : KCmd) (gen : W32) (s : State), fromPeer rx 3 s → ((jalNow rx 3 s).kport module).state = .up → exec (.proxyMedia rx module cmd gen) s = .next (jalThen 3 (kamSend module (.proxy cmd gen) (jalNow rx 3 s)))) ∧
  (∀ (rx : JalRx) (module : Fin 96) (a : Nat) (sense : Nat) (x : Nat) (mask : Nat) (bg : Bool) (st : KStatus) (temp : Byte) (held : W32) (s : State), fromPeer rx 3 s → exec (.proxyRsp rx module (.read a sense x mask bg) st temp held) s = .next (jalThen 3 (readAnswer module a sense mask bg st (jalNow rx 3 s))))

/-- A batch of a volume's ready units, up to a group, takes the lane picked for it; an index operation of an open unit of a batch is the lookup of R217; a decompression that fails once is a transient fault and one that fails twice a lasting one with its strip lost; a cold match that the governor lets start makes the younger of two mergeable units an alias. -/
def Obligations.GrinderEventsComplete : Prop :=
  (∀ (nsid : Nat) (x : Ns) (lane : Nat) (s : State), s.phase = .run → Tbl.find s.ns nsid = some x → pickLane s none = some lane → (s.grinder.ready.filter fun u => u.nsid = nsid).take (groupUnits x) ≠ [] → exec (.batchClose nsid) s = .next (let take := (s.grinder.ready.filter fun u => u.nsid = nsid).take (groupUnits x)
      let s0 := if take.length = groupUnits x then s else reachTime ((take.head?.elim 0 (·.at_)) + 10000) s
      let units := take.map fun u => if u.content = 0 then { u with ent := some .zero } else u
      let s1 := s0.grind fun g => { g with ready := take.foldl (fun l u => l.erase u) s.grinder.ready, batches := Tbl.set g.batches g.nextBatch { nsid := nsid, units := units, lane := lane, candidates := effortOf x.compress x.level, fse := triesFse x.compress x.level, optimal := optimalParse x.compress x.level }, nextBatch := g.nextBatch + 1 }
      formAll x.pool (resolveZeros take s1))) ∧
  (∀ (batch : Nat) (i : Nat) (damage : IndexDamage) (b : Batch) (u : GUnit) (x : Ns) (s : State), s.phase = .run → Tbl.find s.grinder.batches batch = some b → b.units[i]? = some u → Tbl.find s.ns b.nsid = some x → u.ent.isSome = false → exec (.indexLookup batch i damage) s = .next (lookupUnit batch i x u damage s)) ∧
  (∀ (unit : Nat) (lane : Fin 40) (x : UnitRec) (s : State), s.phase = .run → Tbl.find s.grinder.units unit = some x → exec (.decompressDone unit lane 1) s = .next (transientFault (plainErr 0x0306 (laneDomain lane) (lane % 8) (x.group * 512) 0 0) s)) ∧
  (∀ (a b lane : Nat) (idle wraps : Bool) (x y : UnitRec) (s s1 : State), s.phase = .run → Tbl.find s.grinder.units a = some x → Tbl.find s.grinder.units b = some y → unitPool a = unitPool b → a < b → x.digest = y.digest → backLane s (a, b) = some lane → laneBatches s lane = [] → govMay 6 idle [(1, 1152), (2, 1152), (4, 1024), (6, 1)] (laneTaken lane (a, b) s) = true → s1 = passShards (unitPool a) (govIssue 6 [(1, 1152), (2, 1152), (4, 1024), (6, 1)] (laneTaken lane (a, b) s)) → (∀ k ∈ [a, b], printRecord k x.digest ∈ (Tbl.getD s1.grinder.shards (unitPool a) []).flatMap (·.records) ∧ mergeable s1 k = true ∧ isTarget s1 k = false) → digestTurn s1 (unitPool a) x.digest = some wraps → exec (.coldDedupMatch a b idle) s = .next (makeAlias b a (.cursor (unitPool a) x.digest wraps) s1))

/-- The sensed fuse contents are the same after every command but CHIP_RESET_EXIT, which completes partly blown bits, and FUSE_OWNER_KEY_PROGRAM, FUSE_OWNER_KEY_REVOKE, FUSE_ROLLBACK_ADVANCE and FUSE_DEBUG_PERMANENT. -/
def Obligations.FusesChangeOnlyBy : Prop :=
  ∀ (c : Instr) (s t : State), exec c s = .next t → match c with
    | .chipResetExit .. | .fuseOwnerKeyProgram .. | .fuseOwnerKeyRevoke .. | .fuseRollbackAdvance .. | .fuseDebugPermanent .. => True
    | _ => t.fuses = s.fuses

/-- The debug state, the fuse nonce, the derived identity and the attestation window are the same after every command but those that reset or power the chip, boot it, hand control to a new control program or end its trial, use the nonce, open debug or ask for a report. -/
def Obligations.TrustStateChangesOnlyBy : Prop :=
  ∀ (c : Instr) (s t : State), exec c s = .next t → match c with
    | .pwrgoodDeassert .. | .resetNAssert .. | .chipResetExit .. | .pwrfailNAssert .. | .pwrfailStableDeassert .. | .inputLatchRelease .. | .sysrefLost ..
    | .tempSample .. | .imageVerifyDone .. | .fuseNonceGet .. | .fuseOwnerKeyProgram .. | .fuseOwnerKeyRevoke .. | .fuseDebugPermanent .. | .debugUnlock ..
    | .attestReport .. | .recoveryLoad .. | .fwHandoverFreeze .. | .fwAbort .. | .fwWindowExpiry .. | .fwHeartbeatGap .. | .molzonAttestationRequest ..
    | .vaultFlushDone .. | .resetHoldOffExpiry .. | .vddAonUp .. | .vddAonDown .. => True
    | _ => t.trust = s.trust

/-- The TAP state is the same after every command but the eight JTAG instructions and the resets that reach it. -/
def Obligations.JtagStateChangesOnlyBy : Prop :=
  ∀ (c : Instr) (s t : State), exec c s = .next t → match c with
    | .resetNAssert .. | .inputLatchRelease .. | .vddAonDown .. | .chipResetExit .. | .jtagBypass .. | .jtagSamplePreload ..
    | .jtagExtest .. | .jtagIdcode .. | .jtagClamp .. | .jtagHighz .. | .jtagExtestPulse .. | .jtagExtestTrain .. => True
    | _ => t.jtag = s.jtag

/-- The chain state (position, enclosure, frames) is the same after every command but the chain rows, NODE_ENCLOSURE_SET, the image checks that start the chain and the rows that reset the chip; the sideband state (endpoint identifier, SMBus address) is the same after every command but MCTP_SET_ENDPOINT_ID, SMBUS_ARP and those resets. -/
def Obligations.ChainAndSidebandChangeOnlyBy : Prop :=
  (∀ (c : Instr) (s t : State), exec c s = .next t → match c with
    | .pwrgoodDeassert .. | .resetNAssert .. | .resetHoldOffExpiry .. | .pwrfailNAssert .. | .pwrfailStableDeassert .. | .vaultFlushDone ..
    | .inputLatchRelease .. | .sysrefLost .. | .tempSample .. | .vddAonUp .. | .vddAonDown .. | .imageVerifyDone ..
    | .chainHeadTaken .. | .chainFrameReceived .. | .chainNoFrameTimeout .. | .chainInStuck .. | .recoveryLoad .. | .fwWindowExpiry ..
    | .fwHeartbeatGap .. | .fwAbort .. | .nodeEnclosureSet .. => True
    | _ => t.chain = s.chain) ∧
  (∀ (c : Instr) (s t : State), exec c s = .next t → match c with
    | .pwrgoodDeassert .. | .resetNAssert .. | .resetHoldOffExpiry .. | .pwrfailNAssert .. | .pwrfailStableDeassert .. | .vaultFlushDone ..
    | .inputLatchRelease .. | .sysrefLost .. | .tempSample .. | .vddAonUp .. | .vddAonDown .. | .fwWindowExpiry ..
    | .fwHeartbeatGap .. | .fwAbort .. | .mctpSetEndpointId .. | .smbusArp .. => True
    | _ => t.side = s.side)

/-- The semaphores are the same after every command but reads and release writes of SEM registers (as their own rows or as register accesses), the lease expiry, the resets and losses of a control port, and the resets of the chip that end every ownership. -/
def Obligations.SemaphoresChangeOnlyBy : Prop :=
  ∀ (c : Instr) (s t : State), exec c s = .next t → match c with
    | .pwrgoodDeassert .. | .resetNAssert .. | .chipResetExit .. | .pwrfailNAssert .. | .pwrfailStableDeassert .. | .inputLatchRelease .. | .perstAssert ..
    | .domainSwitchOffRequest .. | .portDomainJudge .. | .refclkLost .. | .sysrefLost .. | .tempSample .. | .hotReset .. | .functionLevelReset ..
    | .dataLinkDown .. | .semRead .. | .semReleaseWrite .. | .semLeaseExpiry .. | .registerWrite .. | .registerRcRead .. | .registerLowHalfRead ..
    | .fwAbort .. | .fwWindowExpiry .. | .fwHeartbeatGap .. | .batchDone .. | .vaultFlushDone .. | .errorDetected .. | .errorRepeatResult ..
    | .handlerTimeout .. | .unitSelfTestDone .. | .resetHoldOffExpiry .. | .configurationRequest .. | .vddAonUp .. | .vddAonDown .. => True
    | _ => t.sems = s.sems

/-- The firmware update state is the same after every command but the FW_ commands and their events, the acceptance of an image, the end of boot and the resets of the chip. -/
def Obligations.UpdateStateChangesOnlyBy : Prop :=
  ∀ (c : Instr) (s t : State), exec c s = .next t → match c with
    | .pwrgoodDeassert .. | .resetNAssert .. | .resetHoldOffExpiry .. | .pwrfailNAssert .. | .pwrfailStableDeassert .. | .vaultFlushDone ..
    | .inputLatchRelease .. | .sysrefLost .. | .tempSample .. | .vddAonUp .. | .vddAonDown .. | .chipResetExit ..
    | .imageVerifyDone .. | .journalReplay .. | .recoveryLoad .. | .fwStage .. | .fwStagingDone .. | .fwActivateHitless ..
    | .fwHandoverFreeze .. | .fwActivateNextStart .. | .fwArmed .. | .fwWindowExpiry .. | .fwHeartbeatGap .. | .fwConfirm ..
    | .fwRegionsSynced .. | .primaryRegionRestore .. | .fwAbort .. => True
    | _ => t.fw = s.fw

/-- The cipher and digest state is the same after every command but the key, cipher and digest rows, the rows that bind a key to a slice or take its binding away (VOLUME_CREATE, and every row that may end the last command of a slice that is being deleted), those that count the uses of a key for replication, the records of the other head, the boot and update rows, the resets, and the error rows that fence a unit. -/
def Obligations.KeysAndContextsChangeOnlyBy : Prop :=
  ∀ (c : Instr) (s t : State), exec c s = .next t → match c with
    | .pwrgoodDeassert .. | .resetNAssert .. | .chipResetExit .. | .pwrfailNAssert .. | .pwrfailStableDeassert .. | .inputLatchRelease .. | .peerAliveChange ..
    | .peerAliveTimeout .. | .domainSwitchOffRequest .. | .portDomainJudge .. | .refclkLost .. | .sysrefLost .. | .tempSample .. | .laneEyeCheck ..
    | .imageVerifyDone .. | .controlCoreStart .. | .journalReplay .. | .registerWrite .. | .debugUnlock .. | .recoveryLoad .. | .fwActivateHitless ..
    | .fwHandoverFreeze .. | .fwAbort .. | .fwWindowExpiry .. | .fwHeartbeatGap .. | .volumeCreate .. | .volumeResize .. | .sliceReset ..
    | .sliceResetDrainTimeout .. | .sliceDelete .. | .keyLoad .. | .ktwkLoad .. | .keyRotate .. | .ktwkRotate .. | .keyDestroy ..
    | .replControlPause .. | .replControlResume .. | .replControlStop .. | .replCycleDue .. | .failoverTakeOver .. | .clusterJoin .. | .clusterLeave ..
    | .netPortConfig .. | .ccWrite .. | .deleteIoSubmissionQueue .. | .abort .. | .keepAliveTimeout .. | .propertySet .. | .disconnect ..
    | .flush .. | .write .. | .read .. | .compare .. | .compareAndWrite .. | .datasetManagement .. | .verify ..
    | .privetLockGrant .. | .writeAdmission .. | .writeStagedWhole .. | .batchDone .. | .journalGroupCommit .. | .vaultFlushDone .. | .netLinkDown ..
    | .cmMad .. | .roceSend .. | .roceSendWithImmediate .. | .roceSendWithInvalidate .. | .roceRdmaWrite .. | .roceRdmaReadRequest .. | .roceReadResponse ..
    | .roceAck .. | .roceNak .. | .qpContextFetched .. | .qpRetransmitTimeout .. | .datagramRetransmitTimeout .. | .jalrasHeartbeat .. | .vaultNotice ..
    | .serials .. | .ownership .. | .resyncDone .. | .sifUpdate .. | .sifAck .. | .journalGroup .. | .journalAck ..
    | .release .. | .mirrorData .. | .mirrorAck .. | .forwardCmd .. | .forwardRsp .. | .proxyMedia .. | .proxyRsp ..
    | .peerPartitionTimeout .. | .joinRequest .. | .joinAccept .. | .viewUpdate .. | .viewAck .. | .suspectTimeout .. | .leave ..
    | .replOpenAck .. | .replDeltaAck .. | .replUnits .. | .replCommit .. | .replCommitAck .. | .repairData .. | .replWrite ..
    | .replWriteAck .. | .xtsEncrypt .. | .xtsDecrypt .. | .xtsReencrypt .. | .gcmOpen .. | .gcmData .. | .gcmClose ..
    | .rawEncrypt .. | .rawDecrypt .. | .keySlotFill .. | .dgsAlloc .. | .dgsCtxOpen .. | .dgsCtxClose .. | .dgsCtxLengthWrite ..
    | .dgsDataPortWrite .. | .dgsCtxCmp .. | .dgsEcdsaVerify .. | .dgsEcdsaSign .. | .ecdsaOperationDone .. | .errorDetected .. | .errorRepeatResult ..
    | .handlerTimeout .. | .unitSelfTestDone .. | .govPeriodBoundary .. | .resetHoldOffExpiry .. | .viewChangeTimeout .. | .pcieCompletionTimeout .. | .pageRequestGroupResponse ..
    | .asynchronousEventRequest .. | .cqHeadDoorbell .. | .createIoCompletionQueue .. | .createIoSubmissionQueue .. | .deleteIoCompletionQueue .. | .formatNvm .. | .getFeatures ..
    | .getLogPage .. | .hbmTrainingDone .. | .identify .. | .jalrasHello .. | .jalrasHelloReply .. | .jalrasRetrainDone .. | .kamardAcquireTimeout ..
    | .kamardEraseResponse .. | .kamardHelloReply .. | .kamardHelloRetry .. | .kamardProgramResponse .. | .kamardReadResponse .. | .kamardRetrainDone .. | .kamardThreshLoadResponse ..
    | .keepAlive .. | .ldpcDecodeDone .. | .nvmeCommandFetch .. | .repairRequest .. | .setFeatures .. | .vddAonUp .. | .vddAonDown .. => True
    | _ => t.cipher = s.cipher

/-- The on-chip memory is the same after every command but the receives that place data, the utility DMA rows and the register write that starts a run, the scratchpad conversions, the loading of an image, the cipher rows, whose data may go there, and the rows that reset a port, reset or fence a unit. -/
def Obligations.OnchipMemoryChangesOnlyBy : Prop :=
  ∀ (c : Instr) (s t : State), exec c s = .next t → match c with
    | .pwrgoodDeassert .. | .resetNAssert .. | .chipResetExit .. | .pwrfailNAssert .. | .pwrfailStableDeassert .. | .inputLatchRelease .. | .perstAssert ..
    | .domainSwitchOffRequest .. | .portDomainJudge .. | .refclkLost .. | .sysrefLost .. | .tempSample .. | .imageVerifyDone .. | .hotReset ..
    | .functionLevelReset .. | .dataLinkDown .. | .registerWrite .. | .recoveryLoad .. | .fwAbort .. | .fwWindowExpiry .. | .fwHeartbeatGap ..
    | .batchDone .. | .scratchpadConvert .. | .scratchpadReturn .. | .vaultFlushDone .. | .roceSend .. | .roceSendWithImmediate .. | .roceSendWithInvalidate ..
    | .roceRdmaWrite .. | .roceRdmaReadRequest .. | .roceReadResponse .. | .qpContextFetched .. | .datagramData .. | .udmaOwnerRelease .. | .udmaStart ..
    | .udmaEnableClear .. | .udmaCqHeadWrite .. | .udmaRunComplete .. | .errorDetected .. | .errorRepeatResult .. | .handlerTimeout .. | .unitSelfTestDone ..
    | .resetHoldOffExpiry .. | .configurationRequest .. | .gcmClose .. | .gcmData .. | .gcmOpen .. | .keySlotFill .. | .rawDecrypt .. | .rawEncrypt ..
    | .xtsDecrypt .. | .xtsEncrypt .. | .xtsReencrypt .. | .vddAonUp .. | .vddAonDown .. => True
    | _ => t.onchip = s.onchip

/-- R116: what a read of SEM_n returns and grants, and how a tie is settled. -/
def Obligations.SemaphoreReadActsAsStated : Prop :=
  (∀ (n : Fin 64) (p : Port) (s : State), s.phase = .run → (s.port p).caps.d3hot = false → (s.sem n).owner = none → ∃ t v, exec (.semRead n (.one p)) s = .next t ∧
      t.out = s.out ++ [.readData p (0x1000 + 4 * n) v] ∧ v.getLsbD 0 = false ∧ v.toNat / 2 % 4 = 0 ∧ v.toNat / 65536 = (s.sem n).grants.toNat ∧
      (t.sem n).owner = some p ∧ (t.sem n).grants = (s.sem n).grants + 1 ∧ (t.port p).leaseEnd = some (s.time.toNat + leaseTime (s.port p))) ∧
  (∀ (n : Fin 64) (p q : Port) (s : State), s.phase = .run → (s.port p).caps.d3hot = false → (s.sem n).owner = some q → ∃ v, exec (.semRead n (.one p)) s =
      .next { s with out := s.out ++ [.readData p (0x1000 + 4 * n) v] } ∧ v.getLsbD 0 = true ∧ v.toNat / 2 % 4 = ownerNum (some q)) ∧
  (∀ (n : Fin 64) (s : State), s.phase = .run → (s.port .a).caps.d3hot = false → (s.port .b).caps.d3hot = false → (s.sem n).owner = none → ∃ t, exec (.semRead n .both) s = .next t ∧
      (t.sem n).owner = some (if (s.sem n).lastTie = some .a then .b else .a) ∧ (t.sem n).lastTie = (t.sem n).owner ∧
      (∀ m : Nat, m ≠ n → t.sem m = s.sem m) ∧ t.chans = s.chans) ∧
  (∀ n : Fin 64, (State.reset.sem n).lastTie = none)

/-- R527: the rollback floor is advanced only in STATE 0 with both regions holding the confirmed images (in the model: no copy between the regions outstanding). -/
def Obligations.RollbackAdvanceNeedsConfirmation : Prop :=
  (∀ (h : MbxHdr) (target : Byte) (blown : BitVec 3) (c : MCmd) (s : State), startsNow { opcode := 0x0105, since := 1, sem := true, group := .trust } h [.num 0 1 target.toNat] c s →
      powerRefused s = false → target.toNat = rollbackValue s + 1 → (s.fw.state ≠ 0 ∨ s.fw.copying = true) →
      exec (.fuseRollbackAdvance h target blown) s = .next (mbxAnswer c (replyErr .rollbackRefused (rollbackValue s)) (taken c s))) ∧
  (∀ (h : MbxHdr) (target : Byte) (blown : BitVec 3) (s t : State), exec (.fuseRollbackAdvance h target blown) s = .next t →
      t.fuses.rollback ≠ s.fuses.rollback → s.fw.state = 0 ∧ s.fw.copying = false)
end

