-- ==== Sys2Proof/Laws/Keeps.lean ====
section
/-! SUPPORT. Laws/Keeps.lean: the parts of the state that each operation of shared operations leaves as they were. -/
namespace Sys2Proof.Machine
open Sys2Proof
set_option linter.all false
set_option maxHeartbeats 1000000

/-! ## The parts of the state that a lemma speaks of -/

/-- The part that a mask names by the bit b, unless the mask has that bit. -/
def pick {α : Type} (m b : Nat) (x : α) : Option α := if m / b % 2 = 1 then none else some x

/-- The queue, and the other parts but those that the mask m leaves out: fuses 1, trust 2, chain 4, side 8, jtag 16, chans 32, fw 64, onchip 128, boot 256, cond 512, net 1024, ns 2048, repls 4096, cluster 8192, cipher 16384, gov 32768, traces 65536, sems 131072. That `kept m t = kept m s` says that t and s agree in all of these. -/
def kept (m : Nat) (s : State) :=
  (s.pending, pick m 1 s.fuses, pick m 2 s.trust, pick m 4 s.chain, pick m 8 s.side, pick m 16 s.jtag, pick m 32 s.chans,
    pick m 64 s.fw, pick m 128 s.onchip, pick m 256 s.boot, pick m 512 s.cond, pick m 1024 s.net, pick m 2048 s.ns,
    pick m 4096 s.repls, pick m 8192 s.cluster, pick m 16384 s.cipher, pick m 32768 s.gov, pick m 65536 s.traces,
    pick m 131072 s.sems)

/-- All parts but fuses. -/
@[simp] abbrev butFuses : Nat := 1
/-- All parts but trust. -/
@[simp] abbrev butTrust : Nat := 2
/-- All parts but fuses, trust. -/
@[simp] abbrev butFusesTrust : Nat := 3
/-- All parts but chain. -/
@[simp] abbrev butChain : Nat := 4
/-- All parts but side. -/
@[simp] abbrev butSide : Nat := 8
/-- All parts but jtag. -/
@[simp] abbrev butJtag : Nat := 16
/-- All parts but chans. -/
@[simp] abbrev butChans : Nat := 32
/-- All parts but fw. -/
@[simp] abbrev butFw : Nat := 64
/-- All parts but onchip. -/
@[simp] abbrev butOnchip : Nat := 128
/-- All parts but chans, onchip. -/
@[simp] abbrev butChansOnchip : Nat := 160
/-- All parts but boot. -/
@[simp] abbrev butBoot : Nat := 256
/-- All parts but fuses, trust, boot. -/
@[simp] abbrev butFusesTrustBoot : Nat := 259
/-- All parts but fw, boot. -/
@[simp] abbrev butFwBoot : Nat := 320
/-- All parts but onchip, boot. -/
@[simp] abbrev butOnchipBoot : Nat := 384
/-- All parts but cond. -/
@[simp] abbrev butCond : Nat := 512
/-- All parts but chain, cond. -/
@[simp] abbrev butChainCond : Nat := 516
/-- All parts but jtag, cond. -/
@[simp] abbrev butJtagCond : Nat := 528
/-- All parts but net. -/
@[simp] abbrev butNet : Nat := 1024
/-- All parts but boot, net. -/
@[simp] abbrev butBootNet : Nat := 1280
/-- All parts but ns. -/
@[simp] abbrev butNs : Nat := 2048
/-- All parts but repls. -/
@[simp] abbrev butRepls : Nat := 4096
/-- All parts but ns, repls. -/
@[simp] abbrev butNsRepls : Nat := 6144
/-- All parts but cluster. -/
@[simp] abbrev butCluster : Nat := 8192
/-- All parts but net, cluster. -/
@[simp] abbrev butNetCluster : Nat := 9216
/-- All parts but onchip, net, cluster. -/
@[simp] abbrev butOnchipNetCluster : Nat := 9344
/-- All parts but net, repls, cluster. -/
@[simp] abbrev butNetReplsCluster : Nat := 13312
/-- All parts but boot, net, repls, cluster. -/
@[simp] abbrev butBootNetReplsCluster : Nat := 13568
/-- All parts but net, ns, repls, cluster. -/
@[simp] abbrev butNetNsReplsCluster : Nat := 15360
/-- All parts but cipher. -/
@[simp] abbrev butCipher : Nat := 16384
/-- All parts but trust, cipher. -/
@[simp] abbrev butTrustCipher : Nat := 16386
/-- All parts but fw, cipher. -/
@[simp] abbrev butFwCipher : Nat := 16448
/-- All parts but onchip, cipher. -/
@[simp] abbrev butOnchipCipher : Nat := 16512
/-- All parts but boot, cipher. -/
@[simp] abbrev butBootCipher : Nat := 16640
/-- All parts but trust, fw, boot, cipher. -/
@[simp] abbrev butTrustFwBootCipher : Nat := 16706
/-- All parts but trust, fw, onchip, boot, cipher. -/
@[simp] abbrev butTrustFwOnchipBootCipher : Nat := 16834
/-- All parts but trust, chain, fw, onchip, boot, cipher. -/
@[simp] abbrev butTrustChainFwOnchipBootCipher : Nat := 16838
/-- All parts but net, cipher. -/
@[simp] abbrev butNetCipher : Nat := 17408
/-- All parts but chans, onchip, net, cipher. -/
@[simp] abbrev butChansOnchipNetCipher : Nat := 17568
/-- All parts but ns, cipher. -/
@[simp] abbrev butNsCipher : Nat := 18432
/-- All parts but net, ns, cipher. -/
@[simp] abbrev butNetNsCipher : Nat := 19456
/-- All parts but net, repls, cipher. -/
@[simp] abbrev butNetReplsCipher : Nat := 21504
/-- All parts but net, cluster, cipher. -/
@[simp] abbrev butNetClusterCipher : Nat := 25600
/-- All parts but onchip, net, cluster, cipher. -/
@[simp] abbrev butOnchipNetClusterCipher : Nat := 25728
/-- All parts but net, repls, cluster, cipher. -/
@[simp] abbrev butNetReplsClusterCipher : Nat := 29696
/-- All parts but net, ns, repls, cluster, cipher. -/
@[simp] abbrev butNetNsReplsClusterCipher : Nat := 31744
/-- All parts but fw, boot, net, ns, repls, cluster, cipher. -/
@[simp] abbrev butThese32064 : Nat := 32064
/-- All parts but cond, net, ns, repls, cluster, cipher. -/
@[simp] abbrev butCondNetNsReplsClusterCipher : Nat := 32256
/-- All parts but gov. -/
@[simp] abbrev butGov : Nat := 32768
/-- All parts but ns, gov. -/
@[simp] abbrev butNsGov : Nat := 34816
/-- All parts but net, repls, cluster, cipher, gov. -/
@[simp] abbrev butNetReplsClusterCipherGov : Nat := 62464
/-- All parts but net, ns, repls, cluster, cipher, gov. -/
@[simp] abbrev butNetNsReplsClusterCipherGov : Nat := 64512
/-- All parts but traces. -/
@[simp] abbrev butTraces : Nat := 65536
/-- All parts but gov, traces. -/
@[simp] abbrev butGovTraces : Nat := 98304
/-- All parts but sems. -/
@[simp] abbrev butSems : Nat := 131072
/-- All parts but chans, onchip, sems. -/
@[simp] abbrev butChansOnchipSems : Nat := 131232
/-- All parts but chans, onchip, boot, sems. -/
@[simp] abbrev butChansOnchipBootSems : Nat := 131488
/-- All parts but chans, onchip, cond, sems. -/
@[simp] abbrev butChansOnchipCondSems : Nat := 131744
/-- All parts but chans, onchip, cond, net, cipher, sems. -/
@[simp] abbrev butChansOnchipCondNetCipherSems : Nat := 149152
/-- All parts but chans, onchip, net, ns, repls, cluster, cipher, sems. -/
@[simp] abbrev butThese162976 : Nat := 162976
/-- All parts but chans, onchip, boot, net, ns, repls, cluster, cipher, sems. -/
@[simp] abbrev butThese163232 : Nat := 163232
/-- All parts but fuses, trust, chans, fw, onchip, boot, cond, net, ns, repls, cluster, cipher, sems. -/
@[simp] abbrev butThese163811 : Nat := 163811
/-- All parts but fuses, trust, jtag, chans, fw, onchip, boot, cond, net, ns, repls, cluster, cipher, sems. -/
@[simp] abbrev butThese163827 : Nat := 163827
/-- All parts but chans, cond, gov, sems. -/
@[simp] abbrev butChansCondGovSems : Nat := 164384
/-- All parts but trust, chain, side, chans, fw, onchip, boot, net, ns, cluster, cipher, gov, traces, sems. -/
@[simp] abbrev butThese257518 : Nat := 257518
/-- All parts but trust, chain, side, chans, fw, onchip, boot, cond, net, ns, cluster, cipher, gov, traces, sems. -/
@[simp] abbrev butThese258030 : Nat := 258030
/-- All parts but trust, chain, side, jtag, chans, fw, onchip, boot, cond, net, ns, cluster, cipher, gov, traces, sems. -/
@[simp] abbrev butThese258046 : Nat := 258046
/-- All parts but trust, chain, side, chans, fw, onchip, boot, net, ns, repls, cluster, cipher, gov, traces, sems. -/
@[simp] abbrev butThese261614 : Nat := 261614
/-- All parts but trust, chain, side, chans, fw, onchip, boot, cond, net, ns, repls, cluster, cipher, gov, traces, sems. -/
@[simp] abbrev butThese262126 : Nat := 262126

theorem bit_of_and {a m : Nat} (h : a &&& m = a) (i : Nat) (ha : a / 2 ^ i % 2 = 1) : m / 2 ^ i % 2 = 1 := by
  have hi := Nat.testBit_and a m i
  rw [h] at hi
  simpa [Nat.testBit_eq_decide_div_mod_eq, ha] using hi

theorem pick_mono {α : Type} {a m : Nat} (h : a &&& m = a) (i : Nat) {x y : α} (hx : pick a (2 ^ i) x = pick a (2 ^ i) y) :
    pick m (2 ^ i) x = pick m (2 ^ i) y := by
  unfold pick at *
  split
  · rfl
  · rename_i hm
    rw [if_neg fun ha => hm (bit_of_and h i ha), if_neg fun ha => hm (bit_of_and h i ha)] at hx
    exact hx

/-- What agrees in all parts but those of a agrees in all parts but those of a larger mask. -/
theorem kept_mono {a m : Nat} (h : a &&& m = a) {t s : State} (hk : kept a t = kept a s) : kept m t = kept m s := by
  simp only [kept, Prod.mk.injEq] at hk ⊢
  obtain ⟨h, h0, h1, h2, h3, h4, h5, h6, h7, h8, h9, h10, h11, h12, h13, h14, h15, h16, h17⟩ := hk
  exact ⟨h, pick_mono ‹_› 0 h0, pick_mono ‹_› 1 h1, pick_mono ‹_› 2 h2, pick_mono ‹_› 3 h3, pick_mono ‹_› 4 h4, pick_mono ‹_› 5 h5, pick_mono ‹_› 6 h6, pick_mono ‹_› 7 h7, pick_mono ‹_› 8 h8, pick_mono ‹_› 9 h9, pick_mono ‹_› 10 h10, pick_mono ‹_› 11 h11, pick_mono ‹_› 12 h12, pick_mono ‹_› 13 h13, pick_mono ‹_› 14 h14, pick_mono ‹_› 15 h15, pick_mono ‹_› 16 h16, pick_mono ‹_› 17 h17⟩

theorem kept_pending {m : Nat} {t s : State} (h : kept m t = kept m s) : t.pending = s.pending := congrArg Prod.fst h

theorem kept_fuses {m : Nat} {t s : State} (h : kept m t = kept m s) (hm : m / 1 % 2 = 0) : t.fuses = s.fuses := by
  simp only [kept, Prod.mk.injEq] at h
  have hp := h.2.1
  rw [pick, if_neg (by omega), pick, if_neg (by omega)] at hp
  exact Option.some.inj hp

theorem kept_trust {m : Nat} {t s : State} (h : kept m t = kept m s) (hm : m / 2 % 2 = 0) : t.trust = s.trust := by
  simp only [kept, Prod.mk.injEq] at h
  have hp := h.2.2.1
  rw [pick, if_neg (by omega), pick, if_neg (by omega)] at hp
  exact Option.some.inj hp

theorem kept_chain {m : Nat} {t s : State} (h : kept m t = kept m s) (hm : m / 4 % 2 = 0) : t.chain = s.chain := by
  simp only [kept, Prod.mk.injEq] at h
  have hp := h.2.2.2.1
  rw [pick, if_neg (by omega), pick, if_neg (by omega)] at hp
  exact Option.some.inj hp

theorem kept_side {m : Nat} {t s : State} (h : kept m t = kept m s) (hm : m / 8 % 2 = 0) : t.side = s.side := by
  simp only [kept, Prod.mk.injEq] at h
  have hp := h.2.2.2.2.1
  rw [pick, if_neg (by omega), pick, if_neg (by omega)] at hp
  exact Option.some.inj hp

theorem kept_jtag {m : Nat} {t s : State} (h : kept m t = kept m s) (hm : m / 16 % 2 = 0) : t.jtag = s.jtag := by
  simp only [kept, Prod.mk.injEq] at h
  have hp := h.2.2.2.2.2.1
  rw [pick, if_neg (by omega), pick, if_neg (by omega)] at hp
  exact Option.some.inj hp

theorem kept_chans {m : Nat} {t s : State} (h : kept m t = kept m s) (hm : m / 32 % 2 = 0) : t.chans = s.chans := by
  simp only [kept, Prod.mk.injEq] at h
  have hp := h.2.2.2.2.2.2.1
  rw [pick, if_neg (by omega), pick, if_neg (by omega)] at hp
  exact Option.some.inj hp

theorem kept_fw {m : Nat} {t s : State} (h : kept m t = kept m s) (hm : m / 64 % 2 = 0) : t.fw = s.fw := by
  simp only [kept, Prod.mk.injEq] at h
  have hp := h.2.2.2.2.2.2.2.1
  rw [pick, if_neg (by omega), pick, if_neg (by omega)] at hp
  exact Option.some.inj hp

theorem kept_onchip {m : Nat} {t s : State} (h : kept m t = kept m s) (hm : m / 128 % 2 = 0) : t.onchip = s.onchip := by
  simp only [kept, Prod.mk.injEq] at h
  have hp := h.2.2.2.2.2.2.2.2.1
  rw [pick, if_neg (by omega), pick, if_neg (by omega)] at hp
  exact Option.some.inj hp

theorem kept_boot {m : Nat} {t s : State} (h : kept m t = kept m s) (hm : m / 256 % 2 = 0) : t.boot = s.boot := by
  simp only [kept, Prod.mk.injEq] at h
  have hp := h.2.2.2.2.2.2.2.2.2.1
  rw [pick, if_neg (by omega), pick, if_neg (by omega)] at hp
  exact Option.some.inj hp

theorem kept_cond {m : Nat} {t s : State} (h : kept m t = kept m s) (hm : m / 512 % 2 = 0) : t.cond = s.cond := by
  simp only [kept, Prod.mk.injEq] at h
  have hp := h.2.2.2.2.2.2.2.2.2.2.1
  rw [pick, if_neg (by omega), pick, if_neg (by omega)] at hp
  exact Option.some.inj hp

theorem kept_net {m : Nat} {t s : State} (h : kept m t = kept m s) (hm : m / 1024 % 2 = 0) : t.net = s.net := by
  simp only [kept, Prod.mk.injEq] at h
  have hp := h.2.2.2.2.2.2.2.2.2.2.2.1
  rw [pick, if_neg (by omega), pick, if_neg (by omega)] at hp
  exact Option.some.inj hp

theorem kept_ns {m : Nat} {t s : State} (h : kept m t = kept m s) (hm : m / 2048 % 2 = 0) : t.ns = s.ns := by
  simp only [kept, Prod.mk.injEq] at h
  have hp := h.2.2.2.2.2.2.2.2.2.2.2.2.1
  rw [pick, if_neg (by omega), pick, if_neg (by omega)] at hp
  exact Option.some.inj hp

theorem kept_repls {m : Nat} {t s : State} (h : kept m t = kept m s) (hm : m / 4096 % 2 = 0) : t.repls = s.repls := by
  simp only [kept, Prod.mk.injEq] at h
  have hp := h.2.2.2.2.2.2.2.2.2.2.2.2.2.1
  rw [pick, if_neg (by omega), pick, if_neg (by omega)] at hp
  exact Option.some.inj hp

theorem kept_cluster {m : Nat} {t s : State} (h : kept m t = kept m s) (hm : m / 8192 % 2 = 0) : t.cluster = s.cluster := by
  simp only [kept, Prod.mk.injEq] at h
  have hp := h.2.2.2.2.2.2.2.2.2.2.2.2.2.2.1
  rw [pick, if_neg (by omega), pick, if_neg (by omega)] at hp
  exact Option.some.inj hp

theorem kept_cipher {m : Nat} {t s : State} (h : kept m t = kept m s) (hm : m / 16384 % 2 = 0) : t.cipher = s.cipher := by
  simp only [kept, Prod.mk.injEq] at h
  have hp := h.2.2.2.2.2.2.2.2.2.2.2.2.2.2.2.1
  rw [pick, if_neg (by omega), pick, if_neg (by omega)] at hp
  exact Option.some.inj hp

theorem kept_gov {m : Nat} {t s : State} (h : kept m t = kept m s) (hm : m / 32768 % 2 = 0) : t.gov = s.gov := by
  simp only [kept, Prod.mk.injEq] at h
  have hp := h.2.2.2.2.2.2.2.2.2.2.2.2.2.2.2.2.1
  rw [pick, if_neg (by omega), pick, if_neg (by omega)] at hp
  exact Option.some.inj hp

theorem kept_traces {m : Nat} {t s : State} (h : kept m t = kept m s) (hm : m / 65536 % 2 = 0) : t.traces = s.traces := by
  simp only [kept, Prod.mk.injEq] at h
  have hp := h.2.2.2.2.2.2.2.2.2.2.2.2.2.2.2.2.2.1
  rw [pick, if_neg (by omega), pick, if_neg (by omega)] at hp
  exact Option.some.inj hp

theorem kept_sems {m : Nat} {t s : State} (h : kept m t = kept m s) (hm : m / 131072 % 2 = 0) : t.sems = s.sems := by
  simp only [kept, Prod.mk.injEq] at h
  have hp := h.2.2.2.2.2.2.2.2.2.2.2.2.2.2.2.2.2.2
  rw [pick, if_neg (by omega), pick, if_neg (by omega)] at hp
  exact Option.some.inj hp

/-- An update of fields that are left out, or that put back what stood there. -/
@[simp ↓] theorem kept_mk {m : Nat} {t : State} {x_time : W64} {x_freeCtr : Nat} {x_phase : Phase} {x_aon : Aon} {x_cond : Conditioner} {x_pins : OutPins} {x_power : Power} {x_phys : Physical} {x_flush : Flush} {x_nor : Nor} {x_boot : Boot} {x_fuses : Fuses} {x_trust : Trust} {x_chain : Chain} {x_side : Sideband} {x_jtag : Jtag} {x_peerOk : Bool} {x_portA : PortRegs} {x_portB : PortRegs} {x_sems : Tbl Sem} {x_mbx : Mbx} {x_gov : Gov} {x_err : ErrQueue} {x_alarms : Alarms} {x_evr : Evr} {x_traces : Tbl TraceRing} {x_slices : Tbl Slice} {x_host : Host5} {x_ns : Tbl Ns} {x_grinder : Grinder} {x_carafe : Carafe} {x_journal : Journal} {x_mapCache : MapCache} {x_pools : Tbl Pool} {x_kports : Tbl KPort} {x_mods : Tbl Module} {x_ldpc : Tbl Decoder} {x_jobs : Tbl FlashJob} {x_peerState : PeerSt} {x_jal : Jalras} {x_snaps : Snaps} {x_cluster : Cluster} {x_repls : Tbl Repl} {x_cipher : Cipher} {x_net : Net} {x_chans : Tbl Chan} {x_fw : FwUpdate} {x_onchip : Mem} {x_out : List Out}
    (h_fuses : x_fuses = t.fuses ∨ m / 1 % 2 = 1) (h_trust : x_trust = t.trust ∨ m / 2 % 2 = 1) (h_chain : x_chain = t.chain ∨ m / 4 % 2 = 1) (h_side : x_side = t.side ∨ m / 8 % 2 = 1) (h_jtag : x_jtag = t.jtag ∨ m / 16 % 2 = 1) (h_chans : x_chans = t.chans ∨ m / 32 % 2 = 1) (h_fw : x_fw = t.fw ∨ m / 64 % 2 = 1) (h_onchip : x_onchip = t.onchip ∨ m / 128 % 2 = 1) (h_boot : x_boot = t.boot ∨ m / 256 % 2 = 1) (h_cond : x_cond = t.cond ∨ m / 512 % 2 = 1) (h_net : x_net = t.net ∨ m / 1024 % 2 = 1) (h_ns : x_ns = t.ns ∨ m / 2048 % 2 = 1) (h_repls : x_repls = t.repls ∨ m / 4096 % 2 = 1) (h_cluster : x_cluster = t.cluster ∨ m / 8192 % 2 = 1) (h_cipher : x_cipher = t.cipher ∨ m / 16384 % 2 = 1) (h_gov : x_gov = t.gov ∨ m / 32768 % 2 = 1) (h_traces : x_traces = t.traces ∨ m / 65536 % 2 = 1) (h_sems : x_sems = t.sems ∨ m / 131072 % 2 = 1) :
    kept m ⟨x_time, x_freeCtr, x_phase, x_aon, x_cond, x_pins, x_power, x_phys, x_flush, x_nor, x_boot, x_fuses, x_trust, x_chain, x_side, x_jtag, x_peerOk, x_portA, x_portB, x_sems, x_mbx, x_gov, x_err, x_alarms, x_evr, x_traces, x_slices, x_host, x_ns, x_grinder, x_carafe, x_journal, x_mapCache, x_pools, x_kports, x_mods, x_ldpc, x_jobs, x_peerState, x_jal, x_snaps, x_cluster, x_repls, x_cipher, x_net, x_chans, x_fw, x_onchip, t.pending, x_out⟩ = kept m t := by
  have hp : ∀ {α : Type} (b : Nat) {x y : α}, x = y ∨ m / b % 2 = 1 → pick m b x = pick m b y := by
    intro α b x y h
    obtain rfl | h := h
    · rfl
    · simp [pick, h]
  simp only [kept, Prod.mk.injEq, true_and]
  exact ⟨hp _ h_fuses, hp _ h_trust, hp _ h_chain, hp _ h_side, hp _ h_jtag, hp _ h_chans, hp _ h_fw, hp _ h_onchip, hp _ h_boot, hp _ h_cond, hp _ h_net, hp _ h_ns, hp _ h_repls, hp _ h_cluster, hp _ h_cipher, hp _ h_gov, hp _ h_traces, hp _ h_sems⟩

@[simp] theorem kept_ite (m : Nat) (c : Prop) [Decidable c] (x y : State) : kept m (if c then x else y) = if c then kept m x else kept m y := by
  split <;> rfl

@[simp] theorem kept_foldl {α : Type} (m : Nat) (g : State → α → State) (h : ∀ x a, kept m (g x a) = kept m x) (l : List α) (s : State) :
    kept m (l.foldl g s) = kept m s := by
  induction l generalizing s with
  | nil => rfl
  | cons a l ih => simp [ih, h]

/-! ## Flags -/

@[simp] theorem ite_pending (c : Prop) [Decidable c] (x y : State) : (if c then x else y).pending = if c then x.pending else y.pending := by split <;> rfl

@[simp] theorem State_setPort_keeps (s : State) (a0 : Port) (a1 : PortRegs) {msk : Nat} :
    kept msk (State.setPort s a0 a1) = kept msk s := by
  unfold State.setPort
  (repeat' split) <;> simp

@[simp] theorem State_modPort_keeps (s : State) (p : Port) (f : PortRegs → PortRegs) {msk : Nat} :
    kept msk (State.modPort s p f) = kept msk s := by
  simp [State.modPort]

/-! ## Ops -/

theorem onRun_next {s t : State} {f : State → State} (h : onRun s f = .next t) : t = s ∨ t = f s := by
  unfold onRun at h
  split at h <;> injection h with h <;> simp [h]

theorem onLive_next {s t : State} {f : State → State} (h : onLive s f = .next t) : t = s ∨ t = f s := by
  unfold onLive at h
  split at h <;> injection h with h <;> simp [h]

theorem onSp_next {s t : State} {f : State → State} (h : onSp s f = .next t) : t = s ∨ t = f s := by
  unfold onSp at h
  split at h <;> injection h with h <;> simp [h]

theorem onAon_next {s t : State} {f : State → State} (h : onAon s f = .next t) : t = s ∨ t = f s := by
  unfold onAon at h
  split at h <;> injection h with h <;> simp [h]

@[simp] theorem emit_keeps (o : Out) (s : State) {msk : Nat} :
    kept msk (emit o s) = kept msk s := by
  simp [emit]

@[simp] theorem chipPut_keeps (a : Nat) (l : List Byte) (s : State) {msk : Nat} (hm : butOnchip &&& msk = butOnchip) :
    kept msk (chipPut a l s) = kept msk s := by
  refine kept_mono hm ?_
  simp [chipPut]

@[simp] theorem draw_keeps (s : State) {msk : Nat} :
    kept msk ((draw s).2) = kept msk s := by
  simp [draw]

@[simp] theorem reachTime_keeps (t : Nat) (s : State) {msk : Nat} :
    kept msk (reachTime t s) = kept msk s := by
  simp [reachTime]

@[simp] theorem modCaps_keeps (p : Port) (upper : Bool) (f : PcieCaps → PcieCaps) (s : State) {msk : Nat} :
    kept msk (modCaps p upper f s) = kept msk s := by
  simp [modCaps]

@[simp] theorem aerUncor_keeps (p : Port) (upper : Bool) (bit : Nat) (s : State) {msk : Nat} :
    kept msk (aerUncor p upper bit s) = kept msk s := by
  simp [aerUncor]

@[simp] theorem unsupported_keeps (p : Port) (upper : Bool) (posted : Bool) (s : State) {msk : Nat} :
    kept msk (unsupported p upper posted s) = kept msk s := by
  simp [unsupported]

theorem onMem_next {p : Port} {u w : Bool} {s t : State} {f : State → State} (h : onMem p u w s f = .next t) : t = s ∨ t = unsupported p u w s ∨ t = f s := by
  obtain h | h := onRun_next h
  · exact .inl h
  · subst h; split <;> simp

@[simp] theorem sendVia_keeps (p : Port) (upper : Bool) (v : Nat) (s : State) {msk : Nat} :
    kept msk (sendVia p upper v s) = kept msk s := by
  simp [sendVia]

@[simp] theorem sendMsix_keeps (p : Port) (v : Nat) (s : State) {msk : Nat} :
    kept msk (sendMsix p v s) = kept msk s := by
  simp [sendMsix]

@[simp] theorem raiseCause_keeps (p : Port) (c : Nat) (s : State) {msk : Nat} :
    kept msk (raiseCause p c s) = kept msk s := by
  simp [raiseCause]

@[simp] theorem raiseBoth_keeps (c : Nat) (s : State) {msk : Nat} :
    kept msk (raiseBoth c s) = kept msk s := by
  simp [raiseBoth]

@[simp] theorem suppressOne_keeps (s : State) {msk : Nat} :
    kept msk (suppressOne s) = kept msk s := by
  simp [suppressOne]

@[simp] theorem event0_keeps (sev : Nat) (code : Nat) (dom : Nat) (fromBoot : Bool) (errSeq : W32) (detail : List Byte) (s : State) {msk : Nat} :
    kept msk ((event0 sev code dom fromBoot errSeq detail s).1) = kept msk s := by
  unfold event0
  (repeat' split) <;> simp

@[simp] theorem raiseSlot_keeps (k : Nat) (s : State) {msk : Nat} :
    kept msk (raiseSlot k s) = kept msk s := by
  simp [raiseSlot]

@[simp] theorem alarmEvent_keeps (k : Nat) (s : State) {msk : Nat} :
    kept msk ((alarmEvent k s).1) = kept msk s := by
  simp [alarmEvent]

@[simp] theorem raiseRecorder_keeps (k : Nat) (s : State) {msk : Nat} :
    kept msk (raiseRecorder k s) = kept msk s := by
  unfold raiseRecorder
  try dsimp only
  (repeat' split) <;> first | (simp; done) | (rcases Prod.ext_iff.mp ‹_ = (_, _)› with ⟨rfl, -⟩; simp; done) | (rcases Prod.ext_iff.mp ‹_ = (_, _)› with ⟨-, rfl⟩; simp; done) | (simp_all; done)

@[simp] theorem eventFull_keeps (sev : Nat) (code : Nat) (dom : Nat) (fromBoot : Bool) (errSeq : W32) (detail : List Byte) (s : State) {msk : Nat} :
    kept msk (eventFull sev code dom fromBoot errSeq detail s) = kept msk s := by
  unfold eventFull
  try dsimp only
  (repeat' split) <;> first | (simp; done) | (rcases Prod.ext_iff.mp ‹_ = (_, _)› with ⟨rfl, -⟩; simp; done) | (rcases Prod.ext_iff.mp ‹_ = (_, _)› with ⟨-, rfl⟩; simp; done) | (simp_all; done)

@[simp] theorem event_keeps (sev : Nat) (code : Nat) (detail : List Byte) (s : State) {msk : Nat} :
    kept msk (event sev code detail s) = kept msk s := by
  simp [event]

@[simp] theorem raiseAlarm_keeps (k : Nat) (s : State) {msk : Nat} :
    kept msk (raiseAlarm k s) = kept msk s := by
  unfold raiseAlarm
  try dsimp only
  (repeat' split) <;> first | (simp; done) | (rcases Prod.ext_iff.mp ‹_ = (_, _)› with ⟨rfl, -⟩; simp; done) | (rcases Prod.ext_iff.mp ‹_ = (_, _)› with ⟨-, rfl⟩; simp; done) | (simp_all; done)

@[simp] theorem clearAlarm_keeps (k : Nat) (s : State) {msk : Nat} :
    kept msk (clearAlarm k s) = kept msk s := by
  unfold clearAlarm
  (repeat' split) <;> simp

@[simp] theorem alarmIs_keeps (k : Nat) (b : Bool) (s : State) {msk : Nat} :
    kept msk (alarmIs k b s) = kept msk s := by
  simp [alarmIs]

@[simp] theorem errorRecord_keeps (action : Nat) (nested : Bool) (e : ErrObs) (s : State) {msk : Nat} :
    kept msk ((errorRecord action nested e s).2) = kept msk s := by
  unfold errorRecord
  (repeat' split) <;> simp

@[simp] theorem powerRecordSeq_keeps (action : Nat) (kind : Nat) (index : Nat) (info1 : W64) (s : State) {msk : Nat} :
    kept msk ((powerRecordSeq action kind index info1 s).2) = kept msk s := by
  simp [powerRecordSeq]

@[simp] theorem powerRecord_keeps (action : Nat) (kind : Nat) (index : Nat) (info1 : W64) (s : State) {msk : Nat} :
    kept msk (powerRecord action kind index info1 s) = kept msk s := by
  simp [powerRecord]

@[simp] theorem setStage_keeps (st : Stage) (s : State) {msk : Nat} (hm : butBoot &&& msk = butBoot) :
    kept msk (setStage st s) = kept msk s := by
  refine kept_mono hm ?_
  simp [setStage]

@[simp] theorem setPeerOk_keeps (b : Bool) (s : State) {msk : Nat} :
    kept msk (setPeerOk b s) = kept msk s := by
  simp [setPeerOk]

@[simp] theorem failCode_keeps (c : Byte) (s : State) {msk : Nat} (hm : butBoot &&& msk = butBoot) :
    kept msk (failCode c s) = kept msk s := by
  refine kept_mono hm ?_
  simp [failCode]

@[simp] theorem bootFailEvent_keeps (s : State) {msk : Nat} :
    kept msk (bootFailEvent s) = kept msk s := by
  simp [bootFailEvent]

@[simp] theorem accessError_keeps (p : Port) (offset : Nat) (s : State) {msk : Nat} :
    kept msk (accessError p offset s) = kept msk s := by
  simp [accessError]

@[simp] theorem renewLease_keeps (p : Port) (s : State) {msk : Nat} :
    kept msk (renewLease p s) = kept msk s := by
  simp [renewLease]

@[simp] theorem grantSem_keeps (n : Nat) (p : Port) (s : State) {msk : Nat} (hm : butSems &&& msk = butSems) :
    kept msk (grantSem n p s) = kept msk s := by
  refine kept_mono hm ?_
  simp [grantSem]

@[simp] theorem settleLease_keeps (p : Port) (s : State) {msk : Nat} :
    kept msk (settleLease p s) = kept msk s := by
  simp [settleLease]

@[simp] theorem mbxUnqueue_keeps (c : MCmd) (s : State) {msk : Nat} :
    kept msk (mbxUnqueue c s) = kept msk s := by
  simp [mbxUnqueue]

@[simp] theorem mbxAnswer_keeps (c : MCmd) (r : MReply) (s : State) {msk : Nat} :
    kept msk (mbxAnswer c r s) = kept msk s := by
  simp [mbxAnswer]

@[simp] theorem mbxComplete_keeps (c : MCmd) (r : MReply) (s : State) {msk : Nat} :
    kept msk (mbxComplete c r s) = kept msk s := by
  simp [mbxComplete]

@[simp] theorem mbxStartWith_keeps (info : CmdInfo) (h : MbxHdr) (fs : List BodyField) (body : List Byte → State → Option MReply × State) (s : State) {msk : Nat} (h0 : ∀ x0 x1, kept msk (body x0 x1).2 = kept msk x1) :
    kept msk (mbxStartWith info h fs body s) = kept msk s := by
  have e : ∀ c : MCmd, kept msk (body c.body (mbxUnqueue c s)).2 = kept msk s := fun c => by rw [h0]; simp
  unfold mbxStartWith
  dsimp only
  (repeat' split) <;> first
    | (simp; done)
    | (have q := congrArg (fun p => kept msk p.2) ‹body _ _ = (_, _)›; simp only [e] at q; simpa using q.symm)

@[simp] theorem mbxStart_keeps (info : CmdInfo) (h : MbxHdr) (fs : List BodyField) (body : State → Option MReply × State) (s : State) {msk : Nat} (h0 : ∀ x0, kept msk (body x0).2 = kept msk x0) :
    kept msk (mbxStart info h fs body s) = kept msk s := mbxStartWith_keeps _ _ _ _ _ fun _ x => h0 x

@[simp] theorem answer_keeps (f : State → MReply) (s : State) {msk : Nat} :
    kept msk ((answer f s).2) = kept msk s := by
  simp [answer]

@[simp] theorem tryDo_keeps (r : Option MReply) (f : State → State) (s : State) {msk : Nat} (h0 : ∀ x0, kept msk (f x0) = kept msk x0) :
    kept msk ((tryDo r f s).2) = kept msk s := by
  unfold tryDo <;> (repeat' split) <;> simp [h0]

@[simp] theorem finishOp_keeps (op : Nat) (r : MReply) (s : State) {msk : Nat} :
    kept msk (finishOp op r s) = kept msk s := by
  unfold finishOp
  (repeat' split) <;> simp

@[simp] theorem refuseSem_keeps (p : Port) (a0 : List MCmd) (a1 : State) {msk : Nat} :
    kept msk (refuseSem p a0 a1) = kept msk a1 := by
  induction a0 generalizing a1 with
  | nil => simp [refuseSem]
  | cons x l ih => simp [refuseSem, ih]

@[simp] theorem loseSems_keeps (p : Port) (why : LoseReason) (s : State) {msk : Nat} (hm : butSems &&& msk = butSems) :
    kept msk (loseSems p why s) = kept msk s := by
  refine kept_mono hm ?_
  simp [loseSems]

@[simp] theorem hostWrite_keeps (p : Port) (addr : W64) (data : List Byte) (s : State) {msk : Nat} :
    kept msk (hostWrite p addr data s) = kept msk s := by
  simp [hostWrite]

/-! ## ErrOps -/

@[simp] theorem State_modUnitErr_keeps (s : State) (dom : Nat) (f : UnitErr → UnitErr) {msk : Nat} :
    kept msk (State.modUnitErr s dom f) = kept msk s := by
  simp [State.modUnitErr]

@[simp] theorem countTransient_keeps (dom : Nat) (s : State) {msk : Nat} :
    kept msk (countTransient dom s) = kept msk s := by
  simp [countTransient]

@[simp] theorem transientFault_keeps (e : ErrObs) (s : State) {msk : Nat} :
    kept msk (transientFault e s) = kept msk s := by
  simp [transientFault]

@[simp] theorem lastingFault_keeps (e : ErrObs) (s : State) {msk : Nat} :
    kept msk (lastingFault e s) = kept msk s := by
  simp [lastingFault]

@[simp] theorem dmaFault_keeps (h : MbxHdr) (addr : W64) (wr : Bool) (s : State) {msk : Nat} :
    kept msk ((dmaFault h addr wr s).2) = kept msk s := by
  simp [dmaFault]

@[simp] theorem noCommonVersion_keeps (iface : Nat) (peer : Nat) (lmin : Nat) (lmax : Nat) (rmin : Nat) (rmax : Nat) (s : State) {msk : Nat} :
    kept msk (noCommonVersion iface peer lmin lmax rmin rmax s) = kept msk s := by
  simp [noCommonVersion]

@[simp] theorem versionFrame_keeps (iface : Nat) (version : Nat) (peer : Nat) (s : State) {msk : Nat} :
    kept msk (versionFrame iface version peer s) = kept msk s := by
  simp [versionFrame]

/-! ## LinkFmt -/

@[simp] theorem State_modK_keeps (s : State) (n : Nat) (f : KPort → KPort) {msk : Nat} :
    kept msk (State.modK s n f) = kept msk s := by
  simp [State.modK]

@[simp] theorem State_modMod_keeps (s : State) (n : Nat) (f : Module → Module) {msk : Nat} :
    kept msk (State.modMod s n f) = kept msk s := by
  simp [State.modMod]

@[simp] theorem bumpK_keeps (port : Nat) (i : Nat) (n : Nat) (s : State) {msk : Nat} :
    kept msk (bumpK port i n s) = kept msk s := by
  simp [bumpK]

@[simp] theorem jalHello_keeps (n : Nat) (s : State) {msk : Nat} :
    kept msk (jalHello n s) = kept msk s := by
  simp [jalHello]

@[simp] theorem jalHelloReply_keeps (n : Nat) (v : Nat) (j : Nat) (s : State) {msk : Nat} :
    kept msk (jalHelloReply n v j s) = kept msk s := by
  simp [jalHelloReply]

/-! ## LinkOps -/

@[simp] theorem State_modSub_keeps (s : State) (n : Nat) (f : SubLink → SubLink) {msk : Nat} :
    kept msk (State.modSub s n f) = kept msk s := by
  simp [State.modSub]

@[simp] theorem State_modJal_keeps (s : State) (f : Jalras → Jalras) {msk : Nat} :
    kept msk (State.modJal s f) = kept msk s := by
  simp [State.modJal]

@[simp] theorem jalPut_keeps (n : Nat) (p : JalPiece) (credit : Nat × Nat × Nat) (s : State) {msk : Nat} :
    kept msk (jalPut n p credit s) = kept msk s := by
  simp [jalPut]

@[simp] theorem jalPump_keeps (a0 : Nat) (a1 : State) {msk : Nat} :
    kept msk (jalPump a0 a1) = kept msk a1 := by
  induction a0 generalizing a1 with
  | zero => simp [jalPump]
  | succ m ih =>
    unfold jalPump
    (repeat' split) <;> simp [ih]

@[simp] theorem jalFlow_keeps (s : State) {msk : Nat} :
    kept msk (jalFlow s) = kept msk s := by
  simp [jalFlow]

@[simp] theorem jalQueue_keeps (home : Option Nat) (m : PeerMsg) (s : State) {msk : Nat} :
    kept msk (jalQueue home m s) = kept msk s := by
  simp [jalQueue]

@[simp] theorem jalSend_keeps (m : PeerMsg) (s : State) {msk : Nat} :
    kept msk (jalSend m s) = kept msk s := by
  unfold jalSend
  (repeat' split) <;> simp

@[simp] theorem jalSendAll_keeps (a0 : List PeerMsg) (a1 : State) {msk : Nat} :
    kept msk (jalSendAll a0 a1) = kept msk a1 := by
  induction a0 generalizing a1 with
  | nil => simp [jalSendAll]
  | cons x l ih => simp [jalSendAll, ih]

@[simp] theorem jalCross_keeps (n : Nat) (b : List Byte) (s : State) {msk : Nat} :
    kept msk (jalCross n b s) = kept msk s := by
  simp [jalCross]

@[simp] theorem kamPut_keeps (port : Nat) (c : KCmd) (s : State) {msk : Nat} :
    kept msk (kamPut port c s) = kept msk s := by
  simp [kamPut]

@[simp] theorem kamSend_keeps (port : Nat) (c : KCmd) (s : State) {msk : Nat} :
    kept msk (kamSend port c s) = kept msk s := by
  simp [kamSend]

@[simp] theorem kamDrain_keeps (port : Nat) (a0 : List KCmd) (a1 : State) {msk : Nat} :
    kept msk (kamDrain port a0 a1) = kept msk a1 := by
  induction a0 generalizing port a1 with
  | nil => simp [kamDrain]
  | cons x l ih => simp [kamDrain, ih]

@[simp] theorem kamFlow_keeps (port : Nat) (s : State) {msk : Nat} :
    kept msk (kamFlow port s) = kept msk s := by
  simp [kamFlow]

@[simp] theorem kamControl_keeps (port : Nat) (c : KCmd) (s : State) {msk : Nat} :
    kept msk (kamControl port c s) = kept msk s := by
  simp [kamControl]

@[simp] theorem mediaSend_keeps (module : Nat) (c : KCmd) (s : State) {msk : Nat} :
    kept msk (mediaSend module c s) = kept msk s := by
  simp [mediaSend]

/-! ## MapCache -/

@[simp] theorem fillLost_keeps (addr : Nat) (s : State) {msk : Nat} :
    kept msk (fillLost addr s) = kept msk s := by
  simp [fillLost]

@[simp] theorem cacheAccess_keeps (region : Nat) (key : Nat) (write : Bool) (s : State) {msk : Nat} :
    kept msk (cacheAccess region key write s) = kept msk s := by
  unfold cacheAccess
  (try dsimp only) <;> (repeat' split) <;> first | rfl | (simp; done) | ((repeat' split) <;> simp; done) | simp_all

@[simp] theorem cacheRead_keeps (region : Nat) (key : Nat) (s : State) {msk : Nat} :
    kept msk (cacheRead region key s) = kept msk s := by
  simp [cacheRead]

@[simp] theorem cacheWrite_keeps (region : Nat) (key : Nat) (s : State) {msk : Nat} :
    kept msk (cacheWrite region key s) = kept msk s := by
  simp [cacheWrite]

/-! ## PowerOps -/

@[simp] theorem rampOrWait_keeps (d : Nat) (s : State) {msk : Nat} :
    kept msk (rampOrWait d s) = kept msk s := by
  simp [rampOrWait]

@[simp] theorem switchOn_keeps (d : Nat) (s : State) {msk : Nat} :
    kept msk (switchOn d s) = kept msk s := by
  simp [switchOn]

@[simp] theorem switchOnAll_keeps (a0 : List Nat) (a1 : State) {msk : Nat} :
    kept msk (switchOnAll a0 a1) = kept msk a1 := by
  induction a0 generalizing a1 with
  | nil => simp [switchOnAll]
  | cons x l ih => simp [switchOnAll, ih]

@[simp] theorem startWaiting_keeps (a0 : List Nat) (a1 : State) {msk : Nat} :
    kept msk (startWaiting a0 a1) = kept msk a1 := by
  induction a0 generalizing a1 with
  | nil => simp [startWaiting]
  | cons x l ih => simp [startWaiting, ih]

/-! ## NetOps -/

@[simp] theorem State_modNet_keeps (s : State) (f : Net → Net) {msk : Nat} (hm : butNet &&& msk = butNet) :
    kept msk (State.modNet s f) = kept msk s := by
  refine kept_mono hm ?_
  simp [State.modNet]

@[simp] theorem State_modLport_keeps (s : State) (l : Nat) (f : LPort → LPort) {msk : Nat} (hm : butNet &&& msk = butNet) :
    kept msk (State.modLport s l f) = kept msk s := by
  refine kept_mono hm ?_
  simp [State.modLport]

@[simp] theorem State_modNetPort_keeps (s : State) (p : Nat) (f : NetPort → NetPort) {msk : Nat} (hm : butNet &&& msk = butNet) :
    kept msk (State.modNetPort s p f) = kept msk s := by
  refine kept_mono hm ?_
  simp [State.modNetPort]

@[simp] theorem State_modQp_keeps (s : State) (n : Nat) (f : Qp → Qp) {msk : Nat} (hm : butNet &&& msk = butNet) :
    kept msk (State.modQp s n f) = kept msk s := by
  refine kept_mono hm ?_
  simp [State.modQp]

@[simp] theorem State_modEp_keeps (s : State) (n : Nat) (f : Endpoint → Endpoint) {msk : Nat} (hm : butNet &&& msk = butNet) :
    kept msk (State.modEp s n f) = kept msk s := by
  refine kept_mono hm ?_
  simp [State.modEp]

@[simp] theorem State_modPeer_keeps (s : State) (node : Nat) (f : DPeer → DPeer) {msk : Nat} (hm : butNet &&& msk = butNet) :
    kept msk (State.modPeer s node f) = kept msk s := by
  refine kept_mono hm ?_
  simp [State.modPeer]

@[simp] theorem bumpL_keeps (l : Nat) (i : Nat) (n : Nat) (s : State) {msk : Nat} (hm : butNet &&& msk = butNet) :
    kept msk (bumpL l i n s) = kept msk s := by
  refine kept_mono hm ?_
  simp [bumpL]

@[simp] theorem bumpDg_keeps (i : Nat) (n : Nat) (s : State) {msk : Nat} (hm : butNet &&& msk = butNet) :
    kept msk (bumpDg i n s) = kept msk s := by
  refine kept_mono hm ?_
  simp [bumpDg]

@[simp] theorem frameIn_keeps (l : Nat) (s : State) {msk : Nat} (hm : butNet &&& msk = butNet) :
    kept msk (frameIn l s) = kept msk s := by
  refine kept_mono hm ?_
  simp [frameIn]

@[simp] theorem frameOut_keeps (l : Nat) (prio : Nat) (o : Out) (s : State) {msk : Nat} (hm : butNet &&& msk = butNet) :
    kept msk (frameOut l prio o s) = kept msk s := by
  refine kept_mono hm ?_
  simp [frameOut]

@[simp] theorem releaseFrames_keeps (l : Nat) (a0 : List (Nat × Out)) (a1 : State) {msk : Nat} (hm : butNet &&& msk = butNet) :
    kept msk (releaseFrames l a0 a1) = kept msk a1 := by
  refine kept_mono hm ?_
  induction a0 generalizing l a1 with
  | nil => simp [releaseFrames]
  | cons x l ih => simp [releaseFrames, ih]

@[simp] theorem releaseHeld_keeps (l : Nat) (s : State) {msk : Nat} (hm : butNet &&& msk = butNet) :
    kept msk (releaseHeld l s) = kept msk s := by
  refine kept_mono hm ?_
  simp [releaseHeld]

@[simp] theorem netEmit_keeps (l : Nat) (prio : Nat) (o : Out) (s : State) {msk : Nat} (hm : butNet &&& msk = butNet) :
    kept msk (netEmit l prio o s) = kept msk s := by
  refine kept_mono hm ?_
  simp [netEmit]

@[simp] theorem enqueue_keeps (q : NetQ) (op : WrOp) (wr : WorkReq) (s : State) {msk : Nat} (hm : butNet &&& msk = butNet) :
    kept msk (enqueue q op wr s) = kept msk s := by
  refine kept_mono hm ?_
  unfold enqueue
  (repeat' split) <;> simp

@[simp] theorem enqueueAll_keeps (a0 : List TrigWait) (a1 : State) {msk : Nat} (hm : butNet &&& msk = butNet) :
    kept msk (enqueueAll a0 a1) = kept msk a1 := by
  refine kept_mono hm ?_
  induction a0 generalizing a1 with
  | nil => simp [enqueueAll]
  | cons x l ih => simp [enqueueAll, ih]

@[simp] theorem countTrig_keeps (c : Nat) (s : State) {msk : Nat} (hm : butNet &&& msk = butNet) :
    kept msk ((countTrig c s).1) = kept msk s := by
  refine kept_mono hm ?_
  simp [countTrig]

@[simp] theorem countField_keeps (f : Nat) (s : State) {msk : Nat} (hm : butNet &&& msk = butNet) :
    kept msk ((countField f s).1) = kept msk s := by
  refine kept_mono hm ?_
  unfold countField
  (repeat' split) <;> simp

@[simp] theorem record_keeps (q : NetQ) (wrId : W64) (bytes : Nat) (imm : W32) (st : WrStatus) (kind : Nat) (node : Nat) (ep : Nat) (s : State) {msk : Nat} :
    kept msk (record q wrId bytes imm st kind node ep s) = kept msk s := by
  simp [record]

@[simp] theorem wrComplete_keeps (q : NetQ) (op : WrOp) (wr : WorkReq) (st : WrStatus) (s : State) {msk : Nat} (hm : butNet &&& msk = butNet) :
    kept msk ((wrComplete q op wr st s).1) = kept msk s := by
  refine kept_mono hm ?_
  unfold wrComplete
  try dsimp only
  (repeat' split) <;> first | (simp; done) | (rcases Prod.ext_iff.mp ‹_ = (_, _)› with ⟨rfl, -⟩; simp; done) | (rcases Prod.ext_iff.mp ‹_ = (_, _)› with ⟨-, rfl⟩; simp; done) | (simp_all; done)

@[simp] theorem wrCompleteAll_keeps (q : NetQ) (st : WrStatus) (a0 : List (WrOp × WorkReq)) (a1 : State) {msk : Nat} (hm : butNet &&& msk = butNet) :
    kept msk ((wrCompleteAll q st a0 a1).1) = kept msk a1 := by
  refine kept_mono hm ?_
  induction a0 generalizing q st a1 with
  | nil => simp [wrCompleteAll]
  | cons x l ih => simp [wrCompleteAll, ih]

@[simp] theorem flushRecvs_keeps (q : NetQ) (a0 : List RecvBuf) (a1 : State) {msk : Nat} :
    kept msk (flushRecvs q a0 a1) = kept msk a1 := by
  induction a0 generalizing q a1 with
  | nil => simp [flushRecvs]
  | cons x l ih => simp [flushRecvs, ih]

@[simp] theorem accessRecord_keeps (l : Nat) (addr : W64) (slice : Nat) (key : W32) (node : Nat) (who : Nat) (host : Bool) (s : State) {msk : Nat} :
    kept msk (accessRecord l addr slice key node who host s) = kept msk s := by
  simp [accessRecord]

/-! ## Records -/

@[simp] theorem sharePages_keeps (s : State) (map : Tbl MapEnt) (pages : Tbl Nat) {msk : Nat} :
    kept msk ((sharePages s map pages).2) = kept msk s := by
  simp [sharePages]

@[simp] theorem mapLate_keeps (id : Nat) (d : Desc) (s : State) {msk : Nat} (hm : butNs &&& msk = butNs) :
    kept msk (mapLate id d s) = kept msk s := by
  refine kept_mono hm ?_
  simp [mapLate]

@[simp] theorem mapLive_keeps (a0 : List (Nat × Nat × Option MapEnt)) (a1 : State) {msk : Nat} (hm : butNs &&& msk = butNs) :
    kept msk (mapLive a0 a1) = kept msk a1 := by
  refine kept_mono hm ?_
  induction a0 generalizing a1 with
  | nil => simp [mapLive]
  | cons x l ih => simp [mapLive, ih]

@[simp] theorem mapAlias_keeps (s : State) (a0 : Effect) {msk : Nat} :
    kept msk (mapAlias s a0) = kept msk s := by
  unfold mapAlias
  (repeat' split) <;> simp

@[simp] theorem mapGroup_keeps (g : Group) (s : State) {msk : Nat} (hm : butNs &&& msk = butNs) :
    kept msk (mapGroup g s) = kept msk s := by
  refine kept_mono hm ?_
  unfold mapGroup
  try dsimp only
  repeat' first | rfl | (simp; done) | split | refine (kept_foldl _ _ (fun y a => ?_) _ _).trans ?_

@[simp] theorem ahead_keeps (s : State) {msk : Nat} (hm : butNs &&& msk = butNs) :
    kept msk (ahead s) = kept msk s := by
  refine kept_mono hm ?_
  simp [ahead]

@[simp] theorem countUnknown_keeps (b : List Byte) (s : State) {msk : Nat} :
    kept msk (countUnknown b s) = kept msk s := by
  simp [countUnknown]

/-! ## Repairs -/

@[simp] theorem norRead_keeps (offset : Nat) (len : Nat) (s : State) {msk : Nat} :
    kept msk (norRead offset len s) = kept msk s := by
  simp [norRead]

@[simp] theorem norWrites_keeps (ops : List NorOp) (s : State) {msk : Nat} :
    kept msk (norWrites ops s) = kept msk s := by
  simp [norWrites]

@[simp] theorem State_modLane_keeps (s : State) (d : Nat) (lane : Nat) (f : Lane → Lane) {msk : Nat} :
    kept msk (State.modLane s d lane f) = kept msk s := by
  simp [State.modLane]

@[simp] theorem slicePlaced_keeps (r : Repair) (s : State) {msk : Nat} :
    kept msk (slicePlaced r s) = kept msk s := by
  simp [slicePlaced]

@[simp] theorem applyRepair_keeps (r : Repair) (s : State) {msk : Nat} :
    kept msk (applyRepair r s) = kept msk s := by
  simp [applyRepair]

@[simp] theorem applyEach_keeps (a0 : List Repair) (a1 : State) {msk : Nat} :
    kept msk (applyEach a0 a1) = kept msk a1 := by
  induction a0 generalizing a1 with
  | nil => simp [applyEach]
  | cons x l ih => simp [applyEach, ih]

@[simp] theorem applyRepairs_keeps (d : Nat) (s : State) {msk : Nat} :
    kept msk (applyRepairs d s) = kept msk s := by
  simp [applyRepairs]

@[simp] theorem dropRepairs_keeps (d : Nat) (s : State) {msk : Nat} :
    kept msk (dropRepairs d s) = kept msk s := by
  simp [dropRepairs]

@[simp] theorem addRepair_keeps (d : Nat) (serdes : Bool) (macroId : Nat) (fault : Nat) (spare : Nat) (s : State) {msk : Nat} :
    kept msk (addRepair d serdes macroId fault spare s) = kept msk s := by
  simp [addRepair]

@[simp] theorem placeSpare_keeps (d : Nat) (lane : Nat) (s : State) {msk : Nat} :
    kept msk (placeSpare d lane s) = kept msk s := by
  simp [placeSpare]

@[simp] theorem hostSpare_keeps (p : Port) (s : State) {msk : Nat} :
    kept msk (hostSpare p s) = kept msk s := by
  unfold hostSpare
  try dsimp only
  (repeat' split) <;> first | (simp; done) | (rcases Prod.ext_iff.mp ‹_ = (_, _)› with ⟨rfl, -⟩; simp; done) | (rcases Prod.ext_iff.mp ‹_ = (_, _)› with ⟨-, rfl⟩; simp; done) | (simp_all; done)

/-! ## HostOps -/

@[simp] theorem State_modSlice_keeps (s : State) (n : Nat) (f : Slice → Slice) {msk : Nat} :
    kept msk (State.modSlice s n f) = kept msk s := by
  simp [State.modSlice]

@[simp] theorem State_modCtrl_keeps (s : State) (n : Nat) (f : Ctrl → Ctrl) {msk : Nat} :
    kept msk (State.modCtrl s n f) = kept msk s := by
  simp [State.modCtrl]

@[simp] theorem State_modNs_keeps (s : State) (n : Nat) (f : Ns → Ns) {msk : Nat} (hm : butNs &&& msk = butNs) :
    kept msk (State.modNs s n f) = kept msk s := by
  refine kept_mono hm ?_
  simp [State.modNs]

@[simp] theorem State_modPool_keeps (s : State) (n : Nat) (f : Pool → Pool) {msk : Nat} :
    kept msk (State.modPool s n f) = kept msk s := by
  simp [State.modPool]

@[simp] theorem State_modCmd_keeps (s : State) (n : Nat) (f : Inflight → Inflight) {msk : Nat} :
    kept msk (State.modCmd s n f) = kept msk s := by
  simp [State.modCmd]

@[simp] theorem State_modOwn_keeps (s : State) (n : Nat) (f : Desc → Desc) {msk : Nat} :
    kept msk (State.modOwn s n f) = kept msk s := by
  simp [State.modOwn]

@[simp] theorem markPages_keeps (slice : Nat) (pages : List Nat) (s : State) {msk : Nat} :
    kept msk (markPages slice pages s) = kept msk s := by
  simp [markPages]

@[simp] theorem translate_keeps (p : Port) (upper : Bool) (pasid : Nat) (a0 : List Nat) (a1 : State) {msk : Nat} :
    kept msk (translate p upper pasid a0 a1) = kept msk a1 := by
  induction a0 generalizing a1 with
  | nil => simp [translate]
  | cons x l ih => simp [translate, ih]

@[simp] theorem reachPages_keeps (c : Ctrl) (pages : List Nat) (s : State) {msk : Nat} :
    kept msk (reachPages c pages s) = kept msk s := by
  unfold reachPages
  (repeat' split) <;> simp

@[simp] theorem writePages_keeps (c : Ctrl) (pages : List Nat) (s : State) {msk : Nat} :
    kept msk (writePages c pages s) = kept msk s := by
  simp [writePages]

@[simp] theorem fetchList_keeps (ctrl : Nat) (sq : Nat) (cid : Nat) (d : DataPtr) (s : State) {msk : Nat} :
    kept msk (fetchList ctrl sq cid d s) = kept msk s := by
  unfold fetchList
  (repeat' split) <;> simp

@[simp] theorem askData_keeps (ctrl : Nat) (sq : Nat) (cid : Nat) (d : DataPtr) (s : State) {msk : Nat} :
    kept msk (askData ctrl sq cid d s) = kept msk s := by
  simp [askData]

@[simp] theorem cqInterrupt_keeps (ctrl : Nat) (cqid : Nat) (s : State) {msk : Nat} :
    kept msk (cqInterrupt ctrl cqid s) = kept msk s := by
  unfold cqInterrupt
  (repeat' split) <;> simp

@[simp] theorem dropPrivet_keeps (n : Nat) (s : State) {msk : Nat} :
    kept msk (dropPrivet n s) = kept msk s := by
  simp [dropPrivet]

@[simp] theorem dropLock_keeps (l : Option Nat) (s : State) {msk : Nat} :
    kept msk (dropLock l s) = kept msk s := by
  unfold dropLock
  (repeat' split) <;> simp

@[simp] theorem postCpl_keeps (ctrl : Nat) (e : Cpl) (s : State) {msk : Nat} :
    kept msk (postCpl ctrl e s) = kept msk s := by
  unfold postCpl
  try dsimp only
  (repeat' split) <;> first | (simp; done) | (rcases Prod.ext_iff.mp ‹_ = (_, _)› with ⟨rfl, -⟩; simp; done) | (rcases Prod.ext_iff.mp ‹_ = (_, _)› with ⟨-, rfl⟩; simp; done) | (simp_all; done)

@[simp] theorem dropHeld_keeps (ctrl : Nat) (s : State) {msk : Nat} :
    kept msk (dropHeld ctrl s) = kept msk s := by
  unfold dropHeld
  (repeat' split) <;> simp

@[simp] theorem adminCpl_keeps (ctrl : Nat) (cid : Nat) (st : NStatus) (dw0 : W32) (s : State) {msk : Nat} :
    kept msk (adminCpl ctrl cid st dw0 s) = kept msk s := by
  simp [adminCpl]

@[simp] theorem errLog_keeps (ctrl : Nat) (c : Inflight) (st : NStatus) (location : Nat) (lba : Nat) (s : State) {msk : Nat} :
    kept msk (errLog ctrl c st location lba s) = kept msk s := by
  simp [errLog]

@[simp] theorem noteErr_keeps (id : Nat) (c : Inflight) (st : NStatus) (location : Nat) (lba : Nat) (s : State) {msk : Nat} :
    kept msk (noteErr id c st location lba s) = kept msk s := by
  simp [noteErr]

@[simp] theorem endAborts_keeps (st : NStatus) (a0 : List (Nat × Nat)) (a1 : State) {msk : Nat} :
    kept msk (endAborts st a0 a1) = kept msk a1 := by
  induction a0 generalizing a1 with
  | nil => simp [endAborts]
  | cons x l ih => simp [endAborts, ih]

@[simp] theorem postCpls_keeps (ctrl : Nat) (a0 : List Cpl) (a1 : State) {msk : Nat} :
    kept msk (postCpls ctrl a0 a1) = kept msk a1 := by
  induction a0 generalizing a1 with
  | nil => simp [postCpls]
  | cons x l ih => simp [postCpls, ih]

@[simp] theorem endCmd_keeps (id : Nat) (st : NStatus) (s : State) {msk : Nat} :
    kept msk (endCmd id st s) = kept msk s := by
  unfold endCmd
  (repeat' split) <;> simp

@[simp] theorem notifyCtrl_keeps (ctrl : Nat) (dw0 : W32) (s : State) {msk : Nat} :
    kept msk (notifyCtrl ctrl dw0 s) = kept msk s := by
  unfold notifyCtrl
  (repeat' split) <;> simp

@[simp] theorem notifyAll_keeps (dw0 : W32) (a0 : List Nat) (a1 : State) {msk : Nat} :
    kept msk (notifyAll dw0 a0 a1) = kept msk a1 := by
  induction a0 generalizing dw0 a1 with
  | nil => simp [notifyAll]
  | cons x l ih => simp [notifyAll, ih]

@[simp] theorem setAna_keeps (pool : Nat) (st : AnaState) (s : State) {msk : Nat} :
    kept msk (setAna pool st s) = kept msk s := by
  unfold setAna
  (repeat' split) <;> simp

@[simp] theorem State_modSif_keeps (s : State) (q : Nat) (f : Sif → Sif) {msk : Nat} :
    kept msk (State.modSif s q f) = kept msk s := by
  simp [State.modSif]

@[simp] theorem sifTell_keeps (q : Nat) (s : State) {msk : Nat} :
    kept msk (sifTell q s) = kept msk s := by
  simp [sifTell]

@[simp] theorem stampSifs_keeps (n : Nat) (a0 : List Nat) (a1 : State) {msk : Nat} :
    kept msk (stampSifs n a0 a1) = kept msk a1 := by
  induction a0 generalizing n a1 with
  | nil => simp [stampSifs]
  | cons x l ih => simp [stampSifs, ih]

@[simp] theorem putGroup_keeps (g : Group) (s0 : State) {msk : Nat} :
    kept msk (putGroup g s0) = kept msk s0 := by
  simp [putGroup]

@[simp] theorem addGroup_keeps (g : Group) (s : State) {msk : Nat} :
    kept msk (addGroup g s) = kept msk s := by
  simp [addGroup]

@[simp] theorem drainGroups_keeps (a0 : Nat) (a1 : State) {msk : Nat} :
    kept msk (drainGroups a0 a1) = kept msk a1 := by
  induction a0 generalizing a1 with
  | zero => simp [drainGroups]
  | succ m ih =>
    unfold drainGroups
    (repeat' split) <;> simp [ih]

@[simp] theorem configGroup_keeps (pool : Nat) (type : Nat) (s : State) {msk : Nat} :
    kept msk (configGroup pool type s) = kept msk s := by
  simp [configGroup]

@[simp] theorem configReply_keeps (type : Nat) (op : Nat) (s : State) {msk : Nat} :
    kept msk (configReply type op s) = kept msk s := by
  simp [configReply]

@[simp] theorem tellSlice_keeps (s : State) {msk : Nat} :
    kept msk (tellSlice s) = kept msk s := by
  simp [tellSlice]

@[simp] theorem makePrivet_keeps (nsid : Nat) (first : Nat) (last : Nat) (excl : Bool) (slice : Nat) (owner : Option Nat) (s : State) {msk : Nat} :
    kept msk ((makePrivet nsid first last excl slice owner s).2) = kept msk s := by
  simp [makePrivet]

@[simp] theorem enterBare_keeps (c : Inflight) (s : State) {msk : Nat} :
    kept msk (enterBare c s) = kept msk s := by
  simp [enterBare]

@[simp] theorem enterCmd_keeps (c : Inflight) (s : State) {msk : Nat} :
    kept msk (enterCmd c s) = kept msk s := by
  unfold enterCmd
  (repeat' split) <;> simp

@[simp] theorem reenter_keeps (id : Nat) (c : Inflight) (s : State) {msk : Nat} :
    kept msk (reenter id c s) = kept msk s := by
  simp [reenter]

@[simp] theorem fillCmds_keeps (a0 : List Nat) (a1 : State) {msk : Nat} :
    kept msk (fillCmds a0 a1) = kept msk a1 := by
  induction a0 generalizing a1 with
  | nil => simp [fillCmds]
  | cons x l ih =>
    unfold fillCmds
    (repeat' split) <;> simp [ih]

@[simp] theorem enterJob_keeps (nsid : Nat) (first : Nat) (last : Nat) (slice : Nat) (j : LockJob) (s : State) {msk : Nat} :
    kept msk (enterJob nsid first last slice j s) = kept msk s := by
  simp [enterJob]

@[simp] theorem fillJobs_keeps (a0 : List (Nat × Nat × Nat × Nat × LockJob)) (a1 : State) {msk : Nat} :
    kept msk (fillJobs a0 a1) = kept msk a1 := by
  induction a0 generalizing a1 with
  | nil => simp [fillJobs]
  | cons x l ih => simp [fillJobs, ih]

@[simp] theorem fillEntries_keeps (s : State) {msk : Nat} :
    kept msk (fillEntries s) = kept msk s := by
  simp [fillEntries]

@[simp] theorem judgeFlush_keeps (c : Inflight) (s : State) {msk : Nat} :
    kept msk ((judgeFlush c s).2) = kept msk s := by
  unfold judgeFlush
  (repeat' split) <;> simp

@[simp] theorem endFlush_keeps (id : Nat) (c : Inflight) (s : State) {msk : Nat} :
    kept msk (endFlush id c s) = kept msk s := by
  unfold endFlush
  (repeat' split) <;> simp

@[simp] theorem endFlushes_keeps (a0 : List (Nat × Inflight)) (a1 : State) {msk : Nat} :
    kept msk (endFlushes a0 a1) = kept msk a1 := by
  induction a0 generalizing a1 with
  | nil => simp [endFlushes]
  | cons x l ih => simp [endFlushes, ih]

@[simp] theorem closeQps_keeps (gone : Nat → Nat → Bool) (s : State) {msk : Nat} (hm : butNet &&& msk = butNet) :
    kept msk (closeQps gone s) = kept msk s := by
  refine kept_mono hm ?_
  simp [closeQps]

@[simp] theorem dropCtrl_keeps (id : Nat) (s : State) {msk : Nat} (hm : butNet &&& msk = butNet) :
    kept msk (dropCtrl id s) = kept msk s := by
  refine kept_mono hm ?_
  simp [dropCtrl]

@[simp] theorem dropCtrls_keeps (a0 : List Nat) (a1 : State) {msk : Nat} (hm : butNet &&& msk = butNet) :
    kept msk (dropCtrls a0 a1) = kept msk a1 := by
  refine kept_mono hm ?_
  induction a0 generalizing a1 with
  | nil => simp [dropCtrls]
  | cons x l ih => simp [dropCtrls, ih]

@[simp] theorem dropHelds_keeps (a0 : List Nat) (a1 : State) {msk : Nat} :
    kept msk (dropHelds a0 a1) = kept msk a1 := by
  induction a0 generalizing a1 with
  | nil => simp [dropHelds]
  | cons x l ih => simp [dropHelds, ih]

@[simp] theorem teardownSlice_keeps (slice : Nat) (s : State) {msk : Nat} (hm : butNet &&& msk = butNet) :
    kept msk (teardownSlice slice s) = kept msk s := by
  refine kept_mono hm ?_
  simp [teardownSlice]

@[simp] theorem zeroReads_keeps (slice : Nat) (s : State) {msk : Nat} :
    kept msk (zeroReads slice s) = kept msk s := by
  unfold zeroReads
  (repeat' split) <;> simp

@[simp] theorem releaseSlice_keeps (slice : Nat) (s : State) {msk : Nat} (hm : butNetCipher &&& msk = butNetCipher) :
    kept msk (releaseSlice slice s) = kept msk s := by
  refine kept_mono hm ?_
  simp [releaseSlice]

@[simp] theorem removeSlice_keeps (slice : Nat) (s : State) {msk : Nat} (hm : butNetCipher &&& msk = butNetCipher) :
    kept msk (removeSlice slice s) = kept msk s := by
  refine kept_mono hm ?_
  simp [removeSlice]

@[simp] theorem answerReset_keeps (slice : Nat) (r : SliceRun) (s : State) {msk : Nat} (hm : butNetCipher &&& msk = butNetCipher) :
    kept msk (answerReset slice r s) = kept msk s := by
  refine kept_mono hm ?_
  simp [answerReset]

@[simp] theorem finishReset_keeps (slice : Nat) (s : State) {msk : Nat} (hm : butNetCipher &&& msk = butNetCipher) :
    kept msk (finishReset slice s) = kept msk s := by
  refine kept_mono hm ?_
  unfold finishReset
  (repeat' split) <;> simp

@[simp] theorem harvest_keeps (p : Port) (slice : Nat) (addr : W64) (len : Nat) (s : State) {msk : Nat} :
    kept msk ((harvest p slice addr len s).2) = kept msk s := by
  unfold harvest
  (repeat' split) <;> simp

@[simp] theorem finishStop_keeps (slice : Nat) (s : State) {msk : Nat} :
    kept msk (finishStop slice s) = kept msk s := by
  unfold finishStop
  (repeat' split) <;> simp

@[simp] theorem settleSlices_keeps (a0 : List Nat) (a1 : State) {msk : Nat} (hm : butNetCipher &&& msk = butNetCipher) :
    kept msk (settleSlices a0 a1) = kept msk a1 := by
  refine kept_mono hm ?_
  induction a0 generalizing a1 with
  | nil => simp [settleSlices]
  | cons x l ih => simp [settleSlices, ih]

@[simp] theorem settleAll_keeps (s : State) {msk : Nat} (hm : butNetCipher &&& msk = butNetCipher) :
    kept msk (settleAll s) = kept msk s := by
  refine kept_mono hm ?_
  simp [settleAll]

@[simp] theorem completeCmd_keeps (id : Nat) (st : NStatus) (s : State) {msk : Nat} (hm : butNetCipher &&& msk = butNetCipher) :
    kept msk (completeCmd id st s) = kept msk s := by
  refine kept_mono hm ?_
  simp [completeCmd]

@[simp] theorem leaveEntry_keeps (id : Nat) (c : Inflight) (s : State) {msk : Nat} :
    kept msk (leaveEntry id c s) = kept msk s := by
  simp [leaveEntry]

@[simp] theorem mergePoison_keeps (a0 : Nat) (a1 : State) {msk : Nat} :
    kept msk (mergePoison a0 a1) = kept msk a1 := by
  induction a0 generalizing a1 with
  | zero => simp [mergePoison]
  | succ m ih =>
    unfold mergePoison
    (repeat' split) <;> simp [ih]

@[simp] theorem settlePoison_keeps (s : State) {msk : Nat} :
    kept msk (settlePoison s) = kept msk s := by
  simp [settlePoison]

@[simp] theorem clearPoison_keeps (nsid : Nat) (ep : Option Nat) (a : Nat) (n : Nat) (at_ : Nat) (s : State) {msk : Nat} :
    kept msk (clearPoison nsid ep a n at_ s) = kept msk s := by
  simp [clearPoison]

@[simp] theorem addPoison_keeps (nsid : Nat) (ep : Option Nat) (a : Nat) (n : Nat) (at_ : Nat) (s : State) {msk : Nat} :
    kept msk (addPoison nsid ep a n at_ s) = kept msk s := by
  simp [addPoison]

@[simp] theorem deferError_keeps (slice : Nat) (e : Deferred) (s : State) {msk : Nat} :
    kept msk (deferError slice e s) = kept msk s := by
  unfold deferError
  (repeat' split) <;> simp

@[simp] theorem deferSettle_keeps (nsid : Nat) (a : Nat) (n : Nat) (s : State) {msk : Nat} :
    kept msk (deferSettle nsid a n s) = kept msk s := by
  unfold deferSettle
  (repeat' split) <;> simp

@[simp] theorem settleRepairs_keeps (nsid : Nat) (s : State) {msk : Nat} :
    kept msk (settleRepairs nsid s) = kept msk s := by
  unfold settleRepairs
  (repeat' split) <;> simp

@[simp] theorem admitMirrors_keeps (a0 : List (Nat × Desc)) (a1 : State) {msk : Nat} :
    kept msk (admitMirrors a0 a1) = kept msk a1 := by
  induction a0 generalizing a1 with
  | nil => simp [admitMirrors]
  | cons x l ih => simp [admitMirrors, ih]

@[simp] theorem mirrorFlow_keeps (s : State) {msk : Nat} :
    kept msk (mirrorFlow s) = kept msk s := by
  simp [mirrorFlow]

@[simp] theorem vaultSetRecompute_keeps (s : State) {msk : Nat} :
    kept msk (vaultSetRecompute s) = kept msk s := by
  simp [vaultSetRecompute]

@[simp] theorem dropOwn_keeps (id : Nat) (s : State) {msk : Nat} :
    kept msk (dropOwn id s) = kept msk s := by
  simp [dropOwn]

/-! ## GovOps -/

@[simp] theorem State_modAct_keeps (s : State) (a : Nat) (f : GovAct → GovAct) {msk : Nat} (hm : butGov &&& msk = butGov) :
    kept msk (State.modAct s a f) = kept msk s := by
  refine kept_mono hm ?_
  simp [State.modAct]

@[simp] theorem govCharge_keeps (a : Nat) (tokened : Bool) (s : State) (c : Nat × Nat) {msk : Nat} (hm : butGov &&& msk = butGov) :
    kept msk (govCharge a tokened s c) = kept msk s := by
  refine kept_mono hm ?_
  simp [govCharge]

@[simp] theorem govIssueAs_keeps (tokened : Bool) (a : Nat) (cost : List (Nat × Nat)) (s : State) {msk : Nat} (hm : butGov &&& msk = butGov) :
    kept msk (govIssueAs tokened a cost s) = kept msk s := by
  refine kept_mono hm ?_
  simp [govIssueAs]

@[simp] theorem govIssue_keeps (a : Nat) (cost : List (Nat × Nat)) (s : State) {msk : Nat} (hm : butGov &&& msk = butGov) :
    kept msk (govIssue a cost s) = kept msk s := by
  refine kept_mono hm ?_
  simp [govIssue]

@[simp] theorem govWait_keeps (a : Nat) (cost : List (Nat × Nat)) (s : State) {msk : Nat} (hm : butGov &&& msk = butGov) :
    kept msk (govWait a cost s) = kept msk s := by
  refine kept_mono hm ?_
  simp [govWait]

@[simp] theorem govRun_keeps (a : Nat) (idle : Bool) (cost : List (Nat × Nat)) (f : State → State) (s : State) {msk : Nat} (hm : butGov &&& msk = butGov) (h0 : ∀ x0, kept msk (f x0) = kept msk x0) :
    kept msk (govRun a idle cost f s) = kept msk s := by
  have hb15 : msk / 32768 % 2 = 1 := bit_of_and hm 15 rfl
  simp [govRun, h0, hm, hb15]

@[simp] theorem rebuildRun_keeps (urgent : Bool) (idle : Bool) (cost : List (Nat × Nat)) (f : State → State) (s : State) {msk : Nat} (hm : butGov &&& msk = butGov) (h0 : ∀ x0, kept msk (f x0) = kept msk x0) :
    kept msk (rebuildRun urgent idle cost f s) = kept msk s := by
  have hb15 : msk / 32768 % 2 = 1 := bit_of_and hm 15 rfl
  simp [rebuildRun, h0, hm, hb15]

/-! ## MediaOps -/

@[simp] theorem State_modMedia_keeps (s : State) (n : Nat) (f : Media → Media) {msk : Nat} :
    kept msk (State.modMedia s n f) = kept msk s := by
  simp [State.modMedia]

@[simp] theorem State_modBlock_keeps (s : State) (n : Nat) (key : Nat) (f : Block → Block) {msk : Nat} :
    kept msk (State.modBlock s n key f) = kept msk s := by
  simp [State.modBlock]

@[simp] theorem mediaAlarms_keeps (s : State) {msk : Nat} :
    kept msk (mediaAlarms s) = kept msk s := by
  simp [mediaAlarms]

@[simp] theorem wearCheck_keeps (n : Nat) (s : State) {msk : Nat} :
    kept msk (wearCheck n s) = kept msk s := by
  simp [wearCheck]

@[simp] theorem bumpMedia_keeps (n : Nat) (i : Nat) (k : Nat) (s : State) {msk : Nat} :
    kept msk (bumpMedia n i k s) = kept msk s := by
  simp [bumpMedia]

@[simp] theorem queueReloc_keeps (n : Nat) (key : Nat) (s : State) {msk : Nat} :
    kept msk (queueReloc n key s) = kept msk s := by
  simp [queueReloc]

@[simp] theorem levelWear_keeps (n : Nat) (die : Nat) (s : State) {msk : Nat} :
    kept msk (levelWear n die s) = kept msk s := by
  unfold levelWear
  try dsimp only
  (repeat' split) <;> first | (simp; done) | (rcases Prod.ext_iff.mp ‹_ = (_, _)› with ⟨rfl, -⟩; simp; done) | (rcases Prod.ext_iff.mp ‹_ = (_, _)› with ⟨-, rfl⟩; simp; done) | (simp_all; done)

@[simp] theorem retireBlock_keeps (n : Nat) (key : Nat) (s : State) {msk : Nat} :
    kept msk (retireBlock n key s) = kept msk s := by
  simp [retireBlock]

@[simp] theorem eraseBlock_keeps (n : Nat) (key : Nat) (s : State) {msk : Nat} :
    kept msk (eraseBlock n key s) = kept msk s := by
  simp [eraseBlock]

@[simp] theorem settleBlock_keeps (n : Nat) (key : Nat) (s : State) {msk : Nat} :
    kept msk (settleBlock n key s) = kept msk s := by
  unfold settleBlock
  (repeat' split) <;> simp

@[simp] theorem blockRetiring_keeps (n : Nat) (key : Nat) (s : State) {msk : Nat} :
    kept msk (blockRetiring n key s) = kept msk s := by
  simp [blockRetiring]

@[simp] theorem mapStrip_keeps (n : Nat) (strip : Nat) (page : Nat) (s : State) {msk : Nat} :
    kept msk (mapStrip n strip page s) = kept msk s := by
  unfold mapStrip
  try dsimp only
  (repeat' split) <;> first | (simp; done) | (rcases Prod.ext_iff.mp ‹_ = (_, _)› with ⟨rfl, -⟩; simp; done) | (rcases Prod.ext_iff.mp ‹_ = (_, _)› with ⟨-, rfl⟩; simp; done) | (simp_all; done)

@[simp] theorem trimStrip_keeps (n : Nat) (strip : Nat) (s : State) {msk : Nat} :
    kept msk (trimStrip n strip s) = kept msk s := by
  unfold trimStrip
  (repeat' split) <;> simp

@[simp] theorem noteParity_keeps (n : Nat) (page : Nat) (cws : List (List Byte)) (s : State) {msk : Nat} :
    kept msk (noteParity n page cws s) = kept msk s := by
  simp [noteParity]

@[simp] theorem sendPage_keeps (n : Nat) (page : Nat) (cws : List (List Byte)) (s0 : State) {msk : Nat} :
    kept msk (sendPage n page cws s0) = kept msk s0 := by
  simp [sendPage]

@[simp] theorem loadSet_keeps (n : Nat) (die : Nat) (set : Nat) (s : State) {msk : Nat} :
    kept msk (loadSet n die set s) = kept msk s := by
  simp [loadSet]

@[simp] theorem readPage_keeps (bg : Bool) (n : Nat) (page : Nat) (mask : Nat) (sense : Nat) (s0 : State) {msk : Nat} :
    kept msk (readPage bg n page mask sense s0) = kept msk s0 := by
  simp [readPage]

@[simp] theorem programStrip_keeps (n : Nat) (v : VPage) (s : State) {msk : Nat} :
    kept msk (programStrip n v s) = kept msk s := by
  unfold programStrip
  (repeat' split) <;> simp

@[simp] theorem programAll_keeps (n : Nat) (a0 : List VPage) (a1 : State) {msk : Nat} :
    kept msk (programAll n a0 a1) = kept msk a1 := by
  induction a0 generalizing n a1 with
  | nil => simp [programAll]
  | cons x l ih => simp [programAll, ih]

@[simp] theorem drainWait_keeps (n : Nat) (s : State) {msk : Nat} :
    kept msk (drainWait n s) = kept msk s := by
  simp [drainWait]

@[simp] theorem releaseParity_keeps (n : Nat) (s : State) {msk : Nat} :
    kept msk (releaseParity n s) = kept msk s := by
  simp [releaseParity]

@[simp] theorem closeIfFull_keeps (n : Nat) (page : Nat) (s : State) {msk : Nat} :
    kept msk (closeIfFull n page s) = kept msk s := by
  simp [closeIfFull]

@[simp] theorem pageProgrammed_keeps (n : Nat) (page : Nat) (temp : Byte) (s : State) {msk : Nat} :
    kept msk (pageProgrammed n page temp s) = kept msk s := by
  simp [pageProgrammed]

@[simp] theorem retireDie_keeps (n : Nat) (die : Nat) (s : State) {msk : Nat} :
    kept msk (retireDie n die s) = kept msk s := by
  simp [retireDie]

/-! ## CipherOps -/

@[simp] theorem State_ciph_keeps (s : State) (f : Cipher → Cipher) {msk : Nat} (hm : butCipher &&& msk = butCipher) :
    kept msk (State.ciph s f) = kept msk s := by
  refine kept_mono hm ?_
  simp [State.ciph]

@[simp] theorem keyLimitAlarm_keeps (s : State) {msk : Nat} :
    kept msk (keyLimitAlarm s) = kept msk s := by
  simp [keyLimitAlarm]

@[simp] theorem countUse_keeps (index : Nat) (gen : Nat) (s : State) {msk : Nat} (hm : butCipher &&& msk = butCipher) :
    kept msk (countUse index gen s) = kept msk s := by
  refine kept_mono hm ?_
  unfold countUse
  (repeat' split) <;> simp

@[simp] theorem fillSlot_keeps (n : Nat) (k : KeySlot) (s : State) {msk : Nat} (hm : butCipher &&& msk = butCipher) :
    kept msk (fillSlot n k s) = kept msk s := by
  refine kept_mono hm ?_
  simp [fillSlot]

@[simp] theorem touchSlot_keeps (n : Nat) (s : State) {msk : Nat} (hm : butCipher &&& msk = butCipher) :
    kept msk (touchSlot n s) = kept msk s := by
  refine kept_mono hm ?_
  simp [touchSlot]

@[simp] theorem zeroSlots_keeps (s : State) {msk : Nat} (hm : butCipher &&& msk = butCipher) :
    kept msk (zeroSlots s) = kept msk s := by
  refine kept_mono hm ?_
  simp [zeroSlots]

@[simp] theorem countSlotUse_keeps (k : KeySlot) (s : State) {msk : Nat} (hm : butCipher &&& msk = butCipher) :
    kept msk (countSlotUse k s) = kept msk s := by
  refine kept_mono hm ?_
  unfold countSlotUse
  (repeat' split) <;> simp

@[simp] theorem cipherDone_keeps (r : CipherReq) (st : EngStatus) (ctx : Nat) (bytes : Nat) (data : List Byte) (s : State) {msk : Nat} (hm : butOnchip &&& msk = butOnchip) :
    kept msk (cipherDone r st ctx bytes data s) = kept msk s := by
  refine kept_mono hm ?_
  simp [cipherDone]

@[simp] theorem cipherWait_keeps (op : CipherOp) (r : CipherReq) (s : State) {msk : Nat} (hm : butCipher &&& msk = butCipher) :
    kept msk (cipherWait op r s) = kept msk s := by
  refine kept_mono hm ?_
  simp [cipherWait]

@[simp] theorem openStatus_keeps (s : State) {msk : Nat} :
    kept msk ((openStatus s).2) = kept msk s := by
  simp [openStatus]

@[simp] theorem runXts_keeps (enc : Bool) (r : CipherReq) (s : State) {msk : Nat} (hm : butOnchipCipher &&& msk = butOnchipCipher) :
    kept msk (runXts enc r s) = kept msk s := by
  refine kept_mono hm ?_
  unfold runXts
  (repeat' split) <;> simp

@[simp] theorem runReencrypt_keeps (r : CipherReq) (s : State) {msk : Nat} (hm : butOnchipCipher &&& msk = butOnchipCipher) :
    kept msk (runReencrypt r s) = kept msk s := by
  refine kept_mono hm ?_
  unfold runReencrypt
  (repeat' split) <;> simp

@[simp] theorem pickContext_keeps (r : CipherReq) (s : State) {msk : Nat} (hm : butCipher &&& msk = butCipher) :
    kept msk ((pickContext r s).1) = kept msk s := by
  refine kept_mono hm ?_
  unfold pickContext
  (repeat' split) <;> simp

@[simp] theorem runGcmOpen_keeps (r : CipherReq) (s : State) {msk : Nat} (hm : butOnchipCipher &&& msk = butOnchipCipher) :
    kept msk (runGcmOpen r s) = kept msk s := by
  refine kept_mono hm ?_
  unfold runGcmOpen
  try dsimp only
  (repeat' split) <;> first | (simp; done) | (rcases Prod.ext_iff.mp ‹_ = (_, _)› with ⟨rfl, -⟩; simp; done) | (rcases Prod.ext_iff.mp ‹_ = (_, _)› with ⟨-, rfl⟩; simp; done) | (simp_all; done)

@[simp] theorem ownCtx_keeps (r : CipherReq) (s : State) {msk : Nat} :
    kept msk ((ownCtx r s).2.2) = kept msk s := by
  unfold ownCtx
  (repeat' split) <;> simp

@[simp] theorem runGcmData_keeps (r : CipherReq) (s : State) {msk : Nat} (hm : butOnchipCipher &&& msk = butOnchipCipher) :
    kept msk (runGcmData r s) = kept msk s := by
  refine kept_mono hm ?_
  unfold runGcmData
  try dsimp only
  (repeat' split) <;> first | (simp; done) | grind [State_ciph_keeps, cipherDone_keeps, ownCtx_keeps]

@[simp] theorem runGcmClose_keeps (r : CipherReq) (s : State) {msk : Nat} (hm : butOnchipCipher &&& msk = butOnchipCipher) :
    kept msk (runGcmClose r s) = kept msk s := by
  refine kept_mono hm ?_
  unfold runGcmClose
  try dsimp only
  (repeat' split) <;> first | (simp; done) | grind [State_ciph_keeps, cipherDone_keeps, ownCtx_keeps]

@[simp] theorem runRaw_keeps (enc : Bool) (r : CipherReq) (s : State) {msk : Nat} (hm : butOnchipCipher &&& msk = butOnchipCipher) :
    kept msk (runRaw enc r s) = kept msk s := by
  refine kept_mono hm ?_
  unfold runRaw
  (repeat' split) <;> simp

@[simp] theorem runCipher_keeps (op : CipherOp) (r : CipherReq) (s : State) {msk : Nat} (hm : butOnchipCipher &&& msk = butOnchipCipher) :
    kept msk (runCipher op r s) = kept msk s := by
  refine kept_mono hm ?_
  unfold runCipher
  (repeat' split) <;> simp

@[simp] theorem runWaits_keeps (a0 : List CipherWait) (a1 : State) {msk : Nat} (hm : butOnchipCipher &&& msk = butOnchipCipher) :
    kept msk (runWaits a0 a1) = kept msk a1 := by
  refine kept_mono hm ?_
  induction a0 generalizing a1 with
  | nil => simp [runWaits]
  | cons x l ih => simp [runWaits, ih]

@[simp] theorem retryWaits_keeps (s : State) {msk : Nat} (hm : butOnchipCipher &&& msk = butOnchipCipher) :
    kept msk (retryWaits s) = kept msk s := by
  refine kept_mono hm ?_
  simp [retryWaits]

@[simp] theorem freeAgent_keeps (p : Nat → Bool) (s : State) {msk : Nat} (hm : butCipher &&& msk = butCipher) :
    kept msk (freeAgent p s) = kept msk s := by
  refine kept_mono hm ?_
  simp [freeAgent]

@[simp] theorem fenceGroup_keeps (g : Nat) (s : State) {msk : Nat} (hm : butCipher &&& msk = butCipher) :
    kept msk (fenceGroup g s) = kept msk s := by
  refine kept_mono hm ?_
  simp [fenceGroup]

@[simp] theorem keyUnusable_keeps (index : Nat) (gen : Nat) (reason : Nat) (s : State) {msk : Nat} (hm : butCipher &&& msk = butCipher) :
    kept msk (keyUnusable index gen reason s) = kept msk s := by
  refine kept_mono hm ?_
  simp [keyUnusable]

@[simp] theorem writeKtwk_keeps (cur : List Byte) (prev : Option (List Byte)) (s : State) {msk : Nat} (hm : butCipher &&& msk = butCipher) :
    kept msk (writeKtwk cur prev s) = kept msk s := by
  refine kept_mono hm ?_
  simp [writeKtwk]

@[simp] theorem unsealKtwk_keeps (s : State) {msk : Nat} (hm : butCipher &&& msk = butCipher) :
    kept msk (unsealKtwk s) = kept msk s := by
  refine kept_mono hm ?_
  unfold unsealKtwk
  (repeat' split) <;> simp

@[simp] theorem rekeyTable_keeps (old : List Byte) (new : List Byte) (s : State) {msk : Nat} (hm : butCipher &&& msk = butCipher) :
    kept msk (rekeyTable old new s) = kept msk s := by
  refine kept_mono hm ?_
  simp [rekeyTable]

@[simp] theorem recheckKeys_keeps (s : State) {msk : Nat} (hm : butCipher &&& msk = butCipher) :
    kept msk (recheckKeys s) = kept msk s := by
  refine kept_mono hm ?_
  unfold recheckKeys
  (try dsimp only) <;> (repeat' split) <;> first | rfl | (simp; done) | ((repeat' split) <;> simp; done) | simp_all

@[simp] theorem ktwkMismatch_keeps (s : State) {msk : Nat} (hm : butCipher &&& msk = butCipher) :
    kept msk (ktwkMismatch s) = kept msk s := by
  refine kept_mono hm ?_
  simp [ktwkMismatch]

@[simp] theorem dropKey_keeps (i : Nat) (s : State) {msk : Nat} (hm : butCipher &&& msk = butCipher) :
    kept msk (dropKey i s) = kept msk s := by
  refine kept_mono hm ?_
  simp [dropKey]

/-! ## NetSend -/

@[simp] theorem State_clu_keeps (s : State) (f : Cluster → Cluster) {msk : Nat} (hm : butCluster &&& msk = butCluster) :
    kept msk (State.clu s f) = kept msk s := by
  refine kept_mono hm ?_
  simp [State.clu]

@[simp] theorem cluPack_keeps (node : Nat) (m : CluMsg) (s : State) {msk : Nat} (hm : butCluster &&& msk = butCluster) :
    kept msk ((cluPack node m s).2) = kept msk s := by
  refine kept_mono hm ?_
  simp [cluPack]

@[simp] theorem modPath_keeps (node : Nat) (i : Nat) (f : Path → Path) (s : State) {msk : Nat} (hm : butNet &&& msk = butNet) :
    kept msk (modPath node i f s) = kept msk s := by
  refine kept_mono hm ?_
  simp [modPath]

@[simp] theorem pathEmit_keeps (i : Nat) (prio : Nat) (o : Out) (s : State) {msk : Nat} (hm : butNet &&& msk = butNet) :
    kept msk (pathEmit i prio o s) = kept msk s := by
  refine kept_mono hm ?_
  unfold pathEmit
  (repeat' split) <;> simp

@[simp] theorem pathDown_keeps (node : Nat) (i : Nat) (s : State) {msk : Nat} (hm : butNet &&& msk = butNet) :
    kept msk (pathDown node i s) = kept msk s := by
  refine kept_mono hm ?_
  simp [pathDown]

@[simp] theorem pathsDown_keeps (node : Nat) (a0 : List Nat) (a1 : State) {msk : Nat} (hm : butNet &&& msk = butNet) :
    kept msk (pathsDown node a0 a1) = kept msk a1 := by
  refine kept_mono hm ?_
  induction a0 generalizing node a1 with
  | nil => simp [pathsDown]
  | cons x l ih => simp [pathsDown, ih]

@[simp] theorem portPathsDown_keeps (l : Nat) (hit : Nat → Bool) (a0 : List (Nat × DPeer)) (a1 : State) {msk : Nat} (hm : butNet &&& msk = butNet) :
    kept msk (portPathsDown l hit a0 a1) = kept msk a1 := by
  refine kept_mono hm ?_
  induction a0 generalizing l hit a1 with
  | nil => simp [portPathsDown]
  | cons x l ih => simp [portPathsDown, ih]

@[simp] theorem sendHelloTo_keeps (node : Nat) (s : State) {msk : Nat} (hm : butNet &&& msk = butNet) :
    kept msk (sendHelloTo node s) = kept msk s := by
  refine kept_mono hm ?_
  simp [sendHelloTo]

@[simp] theorem sendPacket_keeps (node : Nat) (id : W32) (i : Nat) (a : Nat) (path : Nat) (s : State) {msk : Nat} (hm : butNet &&& msk = butNet) :
    kept msk (sendPacket node id i a path s) = kept msk s := by
  refine kept_mono hm ?_
  unfold sendPacket
  (repeat' split) <;> simp

@[simp] theorem sendPackets_keeps (node : Nat) (id : W32) (a0 : List Nat) (a1 : State) {msk : Nat} (hm : butNet &&& msk = butNet) :
    kept msk (sendPackets node id a0 a1) = kept msk a1 := by
  refine kept_mono hm ?_
  induction a0 generalizing node id a1 with
  | nil => simp [sendPackets]
  | cons x l ih => simp [sendPackets, ih]

@[simp] theorem openMsg_keeps (node : Nat) (lg : Nat) (m : MsgOut) (s : State) {msk : Nat} (hm : butNet &&& msk = butNet) :
    kept msk (openMsg node lg m s) = kept msk s := by
  refine kept_mono hm ?_
  simp [openMsg]

@[simp] theorem startMsg_keeps (node : Nat) (r : SendReq) (s : State) {msk : Nat} (hm : butNetCluster &&& msk = butNetCluster) :
    kept msk ((startMsg node r s).1) = kept msk s := by
  refine kept_mono hm ?_
  unfold startMsg
  try dsimp only
  (repeat' split) <;> first | (simp; done) | (rcases Prod.ext_iff.mp ‹_ = (_, _)› with ⟨rfl, -⟩; simp; done) | (rcases Prod.ext_iff.mp ‹_ = (_, _)› with ⟨-, rfl⟩; simp; done) | (simp_all; done)

@[simp] theorem drainPeer_keeps (node : Nat) (a0 : List SendReq) (a1 : State) {msk : Nat} (hm : butNetCluster &&& msk = butNetCluster) :
    kept msk ((drainPeer node a0 a1).1) = kept msk a1 := by
  refine kept_mono hm ?_
  induction a0 generalizing node a1 with
  | nil => simp [drainPeer]
  | cons x l ih =>
    unfold drainPeer
    (repeat' split) <;> simp [ih]

@[simp] theorem startWaitingMsgs_keeps (node : Nat) (s : State) {msk : Nat} (hm : butNetCluster &&& msk = butNetCluster) :
    kept msk ((startWaitingMsgs node s).1) = kept msk s := by
  refine kept_mono hm ?_
  unfold startWaitingMsgs
  (repeat' split) <;> simp

@[simp] theorem submitMsg_keeps (node : Nat) (r : SendReq) (s : State) {msk : Nat} (hm : butNetCluster &&& msk = butNetCluster) :
    kept msk ((submitMsg node r s).1) = kept msk s := by
  refine kept_mono hm ?_
  unfold submitMsg
  try dsimp only
  (repeat' split) <;> first | (simp; done) | (rcases Prod.ext_iff.mp ‹_ = (_, _)› with ⟨rfl, -⟩; simp; done) | (rcases Prod.ext_iff.mp ‹_ = (_, _)› with ⟨-, rfl⟩; simp; done) | (simp_all; done)

@[simp] theorem cluSend_keeps (node : Nat) (m : CluMsg) (s : State) {msk : Nat} (hm : butNetCluster &&& msk = butNetCluster) :
    kept msk (cluSend node m s) = kept msk s := by
  refine kept_mono hm ?_
  unfold cluSend
  (repeat' split) <;> simp

@[simp] theorem cluSendAll_keeps (m : CluMsg) (a0 : List Nat) (a1 : State) {msk : Nat} (hm : butNetCluster &&& msk = butNetCluster) :
    kept msk (cluSendAll m a0 a1) = kept msk a1 := by
  refine kept_mono hm ?_
  induction a0 generalizing m a1 with
  | nil => simp [cluSendAll]
  | cons x l ih => simp [cluSendAll, ih]

/-! ## PeerOps -/

@[simp] theorem State_modRepl_keeps (s : State) (r : Nat) (f : Repl → Repl) {msk : Nat} (hm : butRepls &&& msk = butRepls) :
    kept msk (State.modRepl s r f) = kept msk s := by
  refine kept_mono hm ?_
  simp [State.modRepl]

@[simp] theorem replAlarms_keeps (s : State) {msk : Nat} :
    kept msk (replAlarms s) = kept msk s := by
  simp [replAlarms]

@[simp] theorem setRepl_keeps (r : Nat) (st : ReplState) (s : State) {msk : Nat} (hm : butRepls &&& msk = butRepls) :
    kept msk (setRepl r st s) = kept msk s := by
  refine kept_mono hm ?_
  simp [setRepl]

@[simp] theorem replCommitted_keeps (rel : Nat) (epoch : Nat) (s : State) {msk : Nat} (hm : butNetReplsCluster &&& msk = butNetReplsCluster) :
    kept msk (replCommitted rel epoch s) = kept msk s := by
  refine kept_mono hm ?_
  unfold replCommitted
  (repeat' split) <;> simp

@[simp] theorem rekeyed_keeps (index : Nat) (a0 : List (Nat × Repl)) (a1 : State) {msk : Nat} (hm : butNetReplsCluster &&& msk = butNetReplsCluster) :
    kept msk (rekeyed index a0 a1) = kept msk a1 := by
  refine kept_mono hm ?_
  induction a0 generalizing index a1 with
  | nil => simp [rekeyed]
  | cons x l ih => simp [rekeyed, ih]

@[simp] theorem startRepair_keeps (nsid : Nat) (s : State) {msk : Nat} (hm : butNetReplsCluster &&& msk = butNetReplsCluster) :
    kept msk (startRepair nsid s) = kept msk s := by
  refine kept_mono hm ?_
  unfold startRepair
  (repeat' split) <;> simp

/-! ## StripeOps -/

@[simp] theorem superTo_keeps (pool : Nat) (p : Pool) (a0 : List Nat) (a1 : State) {msk : Nat} :
    kept msk (superTo pool p a0 a1) = kept msk a1 := by
  induction a0 generalizing a1 with
  | nil => simp [superTo]
  | cons x l ih => simp [superTo, ih]

@[simp] theorem superWrite_keeps (pool : Nat) (s : State) {msk : Nat} :
    kept msk (superWrite pool s) = kept msk s := by
  unfold superWrite
  (repeat' split) <;> simp

@[simp] theorem State_modUnit_keeps (s : State) (k : Nat) (f : UnitRec → UnitRec) {msk : Nat} :
    kept msk (State.modUnit s k f) = kept msk s := by
  simp [State.modUnit]

@[simp] theorem freeUnit_keeps (key : Nat) (s : State) {msk : Nat} :
    kept msk (freeUnit key s) = kept msk s := by
  simp [freeUnit]

@[simp] theorem unitSettle_keeps (key : Nat) (a0 : Nat) (a1 : State) {msk : Nat} :
    kept msk (unitSettle key a0 a1) = kept msk a1 := by
  induction a0 generalizing key a1 with
  | zero => simp [unitSettle]
  | succ x ih =>
    unfold unitSettle
    (repeat' split) <;> simp [ih]

@[simp] theorem settleUnits_keeps (a0 : List Nat) (a1 : State) {msk : Nat} :
    kept msk (settleUnits a0 a1) = kept msk a1 := by
  induction a0 generalizing a1 with
  | nil => simp [settleUnits]
  | cons x l ih => simp [settleUnits, ih]

@[simp] theorem cloneTake_keeps (ub : Nat) (id : Nat) (d : Desc) (s : State) (e : Nat × Inherit) {msk : Nat} (hm : butNs &&& msk = butNs) :
    kept msk (cloneTake ub id d s e) = kept msk s := by
  refine kept_mono hm ?_
  simp [cloneTake]

@[simp] theorem applyWrite_keeps (id : Nat) (d : Desc) (s0 : State) {msk : Nat} (hm : butNs &&& msk = butNs) :
    kept msk (applyWrite id d s0) = kept msk s0 := by
  refine kept_mono hm ?_
  unfold applyWrite
  (try dsimp only) <;> (repeat' split) <;> first | rfl | (simp; done) | ((repeat' split) <;> simp; done) | simp_all

@[simp] theorem switchOver_keeps (pool : Nat) (s : State) {msk : Nat} :
    kept msk (switchOver pool s) = kept msk s := by
  unfold switchOver
  (repeat' split) <;> simp

@[simp] theorem repairAll_keeps (a0 : List Nat) (a1 : State) {msk : Nat} (hm : butNetReplsCluster &&& msk = butNetReplsCluster) :
    kept msk (repairAll a0 a1) = kept msk a1 := by
  refine kept_mono hm ?_
  induction a0 generalizing a1 with
  | nil => simp [repairAll]
  | cons x l ih => simp [repairAll, ih]

@[simp] theorem placeStrip_keeps (pool : Nat) (seg : Nat) (place : Nat) (m : Nat) (addr : Nat) (s : State) {msk : Nat} :
    kept msk (placeStrip pool seg place m addr s) = kept msk s := by
  simp [placeStrip]

@[simp] theorem applyEffect_keeps (e : Effect) (s : State) {msk : Nat} (hm : butNetNsReplsCluster &&& msk = butNetNsReplsCluster) :
    kept msk (applyEffect e s) = kept msk s := by
  refine kept_mono hm ?_
  unfold applyEffect
  (repeat' split) <;> simp

@[simp] theorem applyEffects_keeps (a0 : List Effect) (a1 : State) {msk : Nat} (hm : butNetNsReplsCluster &&& msk = butNetNsReplsCluster) :
    kept msk (applyEffects a0 a1) = kept msk a1 := by
  refine kept_mono hm ?_
  induction a0 generalizing a1 with
  | nil => simp [applyEffects]
  | cons x l ih => simp [applyEffects, ih]

@[simp] theorem applyMap_keeps (a0 : List (Nat × Nat × Option MapEnt)) (a1 : State) {msk : Nat} (hm : butNs &&& msk = butNs) :
    kept msk (applyMap a0 a1) = kept msk a1 := by
  refine kept_mono hm ?_
  induction a0 generalizing a1 with
  | nil => simp [applyMap]
  | cons x l ih => simp [applyMap, ih]

@[simp] theorem sendStrips_keeps (q : Nat) (pool : Nat) (x : Sif) (a0 : List Nat) (a1 : State) {msk : Nat} :
    kept msk (sendStrips q pool x a0 a1) = kept msk a1 := by
  induction a0 generalizing q pool x a1 with
  | nil => simp [sendStrips]
  | cons x l ih =>
    unfold sendStrips
    (repeat' split) <;> simp [ih]

@[simp] theorem segMissing_keeps (pool : Nat) (key : Nat) (i : Nat) (s : State) {msk : Nat} :
    kept msk (segMissing pool key i s) = kept msk s := by
  simp [segMissing]

@[simp] theorem makeWriteGroup_keeps (pool : Nat) (ws : List (Nat × Desc)) (s : State) {msk : Nat} :
    kept msk (makeWriteGroup pool ws s) = kept msk s := by
  simp [makeWriteGroup]

@[simp] theorem formGroups_keeps (pool : Nat) (a0 : Nat) (a1 : State) {msk : Nat} :
    kept msk (formGroups pool a0 a1) = kept msk a1 := by
  induction a0 generalizing pool a1 with
  | zero => simp [formGroups]
  | succ x ih =>
    unfold formGroups
    try dsimp only
    (repeat' split) <;> simp_all

@[simp] theorem addChunks_keeps (g : Group) (ents : List (Nat × Nat × Option MapEnt)) (a0 : Nat) (a1 : State) {msk : Nat} :
    kept msk (addChunks g ents a0 a1) = kept msk a1 := by
  induction a0 generalizing g ents a1 with
  | zero => simp [addChunks]
  | succ m ih =>
    simp only [addChunks]
    repeat' first | rfl | (simp [ih]; done) | split | refine (kept_foldl _ _ (fun y a => ?_) _ _).trans ?_

@[simp] theorem addMapGroups_keeps (g : Group) (ents : List (Nat × Nat × Option MapEnt)) (s : State) {msk : Nat} :
    kept msk (addMapGroups g ents s) = kept msk s := by
  simp [addMapGroups]

@[simp] theorem formRepl_keeps (rel : Nat) (x : Repl) (s : State) {msk : Nat} (hm : butRepls &&& msk = butRepls) :
    kept msk (formRepl rel x s) = kept msk s := by
  refine kept_mono hm ?_
  unfold formRepl
  (repeat' split) <;> simp

@[simp] theorem formRepls_keeps (pool : Nat) (a0 : List (Nat × Repl)) (a1 : State) {msk : Nat} (hm : butRepls &&& msk = butRepls) :
    kept msk (formRepls pool a0 a1) = kept msk a1 := by
  refine kept_mono hm ?_
  induction a0 generalizing pool a1 with
  | nil => simp [formRepls]
  | cons x l ih => simp [formRepls, ih]

@[simp] theorem redoUnits_keeps (units : List Nat) (s : State) {msk : Nat} :
    kept msk (redoUnits units s) = kept msk s := by
  simp [redoUnits]

@[simp] theorem redoGone_keeps (s : State) {msk : Nat} :
    kept msk (redoGone s) = kept msk s := by
  simp [redoGone]

@[simp] theorem formAll_keeps (pool : Nat) (s0 : State) {msk : Nat} (hm : butRepls &&& msk = butRepls) :
    kept msk (formAll pool s0) = kept msk s0 := by
  refine kept_mono hm ?_
  simp [formAll]

@[simp] theorem repairedWrite_keeps (id : Nat) (s : State) {msk : Nat} (hm : butRepls &&& msk = butRepls) :
    kept msk (repairedWrite id s) = kept msk s := by
  refine kept_mono hm ?_
  unfold repairedWrite
  (repeat' split) <;> simp

@[simp] theorem notePages_keeps (l : List (Nat × Nat)) (s : State) {msk : Nat} :
    kept msk (notePages l s) = kept msk s := by
  simp [notePages]

@[simp] theorem redoPages_keeps (pool : Nat) (pages : List Nat) (s : State) {msk : Nat} :
    kept msk (redoPages pool pages s) = kept msk s := by
  simp [redoPages]

@[simp] theorem writeStripe_keeps (pool : Nat) (gi : Nat) (l : Layout) (num : Nat) (s : State) {msk : Nat} :
    kept msk (writeStripe pool gi l num s) = kept msk s := by
  unfold writeStripe
  (repeat' split) <;> simp

@[simp] theorem closeGather_keeps (pool : Nat) (gi : Nat) (s : State) {msk : Nat} :
    kept msk (closeGather pool gi s) = kept msk s := by
  unfold closeGather
  (try dsimp only) <;> (repeat' split) <;> first | rfl | (simp; done) | ((repeat' split) <;> simp; done) | simp_all

@[simp] theorem superDone_keeps (pool : Nat) (s : State) {msk : Nat} :
    kept msk (superDone pool s) = kept msk s := by
  unfold superDone
  (repeat' split) <;> simp

@[simp] theorem gatherPut_keeps (pool : Nat) (n : Nat) (units : List Nat) (writes : List Nat) (offs : Option (List Nat)) (bytes : List Byte) (s : State) {msk : Nat} :
    kept msk (gatherPut pool n units writes offs bytes s) = kept msk s := by
  unfold gatherPut
  try dsimp only
  (repeat' split) <;> first | (simp; done) | (rcases Prod.ext_iff.mp ‹_ = (_, _)› with ⟨rfl, -⟩; simp; done) | (rcases Prod.ext_iff.mp ‹_ = (_, _)› with ⟨-, rfl⟩; simp; done) | (simp_all; done)

@[simp] theorem putAgain_keeps (pool : Nat) (g : Gather) (s : State) (at_ : Nat) {msk : Nat} :
    kept msk (putAgain pool g s at_) = kept msk s := by
  simp [putAgain]

@[simp] theorem gatherAgain_keeps (pool : Nat) (g : Gather) (s : State) {msk : Nat} :
    kept msk (gatherAgain pool g s) = kept msk s := by
  simp [gatherAgain]

@[simp] theorem regather_keeps (q : Nat) (x : Sif) (s : State) {msk : Nat} :
    kept msk (regather q x s) = kept msk s := by
  unfold regather
  try dsimp only
  (repeat' split) <;> first | (simp; done) | (rcases Prod.ext_iff.mp ‹_ = (_, _)› with ⟨rfl, -⟩; simp; done) | (rcases Prod.ext_iff.mp ‹_ = (_, _)› with ⟨-, rfl⟩; simp; done) | (simp_all; done)

@[simp] theorem sifCheck_keeps (q : Nat) (s : State) {msk : Nat} (hm : butRepls &&& msk = butRepls) :
    kept msk (sifCheck q s) = kept msk s := by
  refine kept_mono hm ?_
  unfold sifCheck
  (repeat' split) <;> simp

@[simp] theorem sifOpened_keeps (q : Nat) (s : State) {msk : Nat} (hm : butRepls &&& msk = butRepls) :
    kept msk (sifOpened q s) = kept msk s := by
  refine kept_mono hm ?_
  unfold sifOpened
  (repeat' split) <;> simp

@[simp] theorem markPlaced_keeps (pool : Nat) (key : Nat) (i : Nat) (m : Nat) (addr : Nat) (s : State) {msk : Nat} :
    kept msk (markPlaced pool key i m addr s) = kept msk s := by
  unfold markPlaced
  (repeat' split) <;> simp

@[simp] theorem stripWritten_keeps (q : Nat) (i : Nat) (m : Nat) (addr : Nat) (page : Nat) (s : State) {msk : Nat} (hm : butRepls &&& msk = butRepls) :
    kept msk (stripWritten q i m addr page s) = kept msk s := by
  refine kept_mono hm ?_
  unfold stripWritten
  (try dsimp only) <;> (repeat' split) <;> first | rfl | (simp; done) | ((repeat' split) <;> simp; done) | simp_all

@[simp] theorem stripResend_keeps (q : Nat) (i : Nat) (s : State) {msk : Nat} (hm : butRepls &&& msk = butRepls) :
    kept msk (stripResend q i s) = kept msk s := by
  refine kept_mono hm ?_
  unfold stripResend
  try dsimp only
  (repeat' split) <;> first | (simp; done) | (rcases Prod.ext_iff.mp ‹_ = (_, _)› with ⟨rfl, -⟩; simp; done) | (rcases Prod.ext_iff.mp ‹_ = (_, _)› with ⟨-, rfl⟩; simp; done) | (simp_all; done)

@[simp] theorem stripeEvents_keeps (code : Nat) (pool : Nat) (key : Nat) (a0 : Nat) (a1 : List (Nat × Nat × Nat)) (a2 : State) {msk : Nat} :
    kept msk (stripeEvents code pool key a0 a1 a2) = kept msk a2 := by
  induction a0 generalizing code pool key a1 a2 with
  | zero => simp [stripeEvents]
  | succ x ih => simp [stripeEvents, ih]

@[simp] theorem loseUnits_keeps (code : Nat) (alarm : Nat) (cause : Nat) (pool : Nat) (key : Nat) (units : List Nat) (s : State) {msk : Nat} (hm : butNs &&& msk = butNs) :
    kept msk (loseUnits code alarm cause pool key units s) = kept msk s := by
  refine kept_mono hm ?_
  simp [loseUnits]

@[simp] theorem stripeLost_keeps (pool : Nat) (key : Nat) (s : State) {msk : Nat} (hm : butNs &&& msk = butNs) :
    kept msk (stripeLost pool key s) = kept msk s := by
  refine kept_mono hm ?_
  unfold stripeLost
  (repeat' split) <;> simp

@[simp] theorem segCheck_keeps (pool : Nat) (key : Nat) (s : State) {msk : Nat} (hm : butNs &&& msk = butNs) :
    kept msk (segCheck pool key s) = kept msk s := by
  refine kept_mono hm ?_
  unfold segCheck
  (repeat' split) <;> simp

@[simp] theorem segChecks_keeps (pool : Nat) (a0 : List Nat) (a1 : State) {msk : Nat} (hm : butNs &&& msk = butNs) :
    kept msk (segChecks pool a0 a1) = kept msk a1 := by
  refine kept_mono hm ?_
  induction a0 generalizing pool a1 with
  | nil => simp [segChecks]
  | cons x l ih => simp [segChecks, ih]

@[simp] theorem stripLost_keeps (pool : Nat) (key : Nat) (i : Nat) (s : State) {msk : Nat} (hm : butNs &&& msk = butNs) :
    kept msk (stripLost pool key i s) = kept msk s := by
  refine kept_mono hm ?_
  simp [stripLost]

@[simp] theorem stripLostAt_keeps (m : Nat) (addr : Nat) (s : State) {msk : Nat} (hm : butNs &&& msk = butNs) :
    kept msk (stripLostAt m addr s) = kept msk s := by
  refine kept_mono hm ?_
  unfold stripLostAt
  (repeat' split) <;> simp

@[simp] theorem stripsLostAt_keeps (m : Nat) (a0 : List Nat) (a1 : State) {msk : Nat} (hm : butNs &&& msk = butNs) :
    kept msk (stripsLostAt m a0 a1) = kept msk a1 := by
  refine kept_mono hm ?_
  induction a0 generalizing m a1 with
  | nil => simp [stripsLostAt]
  | cons x l ih => simp [stripsLostAt, ih]

@[simp] theorem resendFrom_keeps (m : Nat) (a0 : List (Nat × Sif)) (a1 : State) {msk : Nat} (hm : butRepls &&& msk = butRepls) :
    kept msk (resendFrom m a0 a1) = kept msk a1 := by
  refine kept_mono hm ?_
  induction a0 generalizing m a1 with
  | nil => simp [resendFrom]
  | cons x l ih => simp [resendFrom, ih]

@[simp] theorem failMember_keeps (pool : Nat) (m : Nat) (st : Nat) (s : State) {msk : Nat} (hm : butNsRepls &&& msk = butNsRepls) :
    kept msk (failMember pool m st s) = kept msk s := by
  refine kept_mono hm ?_
  unfold failMember
  (repeat' split) <;> simp

@[simp] theorem declareFailed_keeps (m : Nat) (cause : Nat) (s : State) {msk : Nat} (hm : butNsRepls &&& msk = butNsRepls) :
    kept msk (declareFailed m cause s) = kept msk s := by
  refine kept_mono hm ?_
  unfold declareFailed
  (repeat' split) <;> simp

@[simp] theorem endModule_keeps (m : Nat) (s : State) {msk : Nat} (hm : butNsRepls &&& msk = butNsRepls) :
    kept msk (endModule m s) = kept msk s := by
  refine kept_mono hm ?_
  unfold endModule
  (repeat' split) <;> simp

@[simp] theorem ownerFenced_keeps (m : Nat) (held : W32) (s : State) {msk : Nat} :
    kept msk (ownerFenced m held s) = kept msk s := by
  unfold ownerFenced
  (repeat' split) <;> simp

@[simp] theorem commitUnits_keeps (a0 : List Nat) (a1 : State) {msk : Nat} :
    kept msk (commitUnits a0 a1) = kept msk a1 := by
  induction a0 generalizing a1 with
  | nil => simp [commitUnits]
  | cons x l ih =>
    unfold commitUnits
    (repeat' split) <;> simp [ih]

@[simp] theorem commitWrites_keeps (a0 : List Nat) (a1 : State) {msk : Nat} (hm : butNsRepls &&& msk = butNsRepls) :
    kept msk (commitWrites a0 a1) = kept msk a1 := by
  refine kept_mono hm ?_
  induction a0 generalizing a1 with
  | nil => simp [commitWrites]
  | cons x l ih =>
    unfold commitWrites
    (repeat' split) <;> simp [ih]

@[simp] theorem commitMove_keeps (u : Nat) (grp : Nat) (off : Nat) (s : State) {msk : Nat} :
    kept msk (commitMove u grp off s) = kept msk s := by
  unfold commitMove
  (repeat' split) <;> simp

@[simp] theorem commitMoves_keeps (a0 : List (Nat × Nat × Nat)) (a1 : State) {msk : Nat} :
    kept msk (commitMoves a0 a1) = kept msk a1 := by
  induction a0 generalizing a1 with
  | nil => simp [commitMoves]
  | cons x l ih => simp [commitMoves, ih]

@[simp] theorem trimSeg_keeps (p : Pool) (key : Nat) (s : State) {msk : Nat} :
    kept msk (trimSeg p key s) = kept msk s := by
  unfold trimSeg
  try dsimp only
  (repeat' split) <;> (try (simp; done)) <;> (refine (kept_foldl _ _ (fun x a => ?_) _ _).trans ?_) <;> (repeat' split) <;> simp

@[simp] theorem commitRelease_keeps (pool : Nat) (key : Nat) (s : State) {msk : Nat} :
    kept msk (commitRelease pool key s) = kept msk s := by
  unfold commitRelease
  (repeat' split) <;> simp

@[simp] theorem commitSif_keeps (q : Nat) (s : State) {msk : Nat} :
    kept msk (commitSif q s) = kept msk s := by
  unfold commitSif
  (repeat' split) <;> simp

@[simp] theorem sifRetire_keeps (q : Nat) (s : State) {msk : Nat} :
    kept msk (sifRetire q s) = kept msk s := by
  unfold sifRetire
  (repeat' split) <;> simp

@[simp] theorem endLocks_keeps (a0 : List Nat) (a1 : State) {msk : Nat} :
    kept msk (endLocks a0 a1) = kept msk a1 := by
  induction a0 generalizing a1 with
  | nil => simp [endLocks]
  | cons x l ih => simp [endLocks, ih]

@[simp] theorem nextRange_keeps (id : Nat) (c : Inflight) (s : State) {msk : Nat} (hm : butNetCipher &&& msk = butNetCipher) :
    kept msk (nextRange id c s) = kept msk s := by
  refine kept_mono hm ?_
  unfold nextRange
  (repeat' split) <;> simp

@[simp] theorem commitCmd_keeps (id : Nat) (s : State) {msk : Nat} (hm : butNetCipher &&& msk = butNetCipher) :
    kept msk (commitCmd id s) = kept msk s := by
  refine kept_mono hm ?_
  unfold commitCmd
  (repeat' split) <;> simp

@[simp] theorem completeAll_keeps (a0 : List Nat) (a1 : State) {msk : Nat} (hm : butNetCipher &&& msk = butNetCipher) :
    kept msk (completeAll a0 a1) = kept msk a1 := by
  refine kept_mono hm ?_
  induction a0 generalizing a1 with
  | nil => simp [completeAll]
  | cons x l ih => simp [completeAll, ih]

@[simp] theorem startMove_keeps (n : Nat) (key : Nat) (s : State) {msk : Nat} :
    kept msk (startMove n key s) = kept msk s := by
  simp [startMove]

@[simp] theorem commitStrip_keeps (n : Nat) (key : Nat) (strip : Nat) (page : Nat) (s : State) {msk : Nat} :
    kept msk (commitStrip n key strip page s) = kept msk s := by
  unfold commitStrip
  (repeat' split) <;> simp

@[simp] theorem commitStrips_keeps (a0 : List (Nat × Nat × Nat × Nat)) (a1 : State) {msk : Nat} :
    kept msk (commitStrips a0 a1) = kept msk a1 := by
  induction a0 generalizing a1 with
  | nil => simp [commitStrips]
  | cons x l ih => simp [commitStrips, ih]

@[simp] theorem commitGroup_keeps (n : Nat) (g : Group) (s : State) {msk : Nat} (hm : butNetNsReplsClusterCipher &&& msk = butNetNsReplsClusterCipher) :
    kept msk (commitGroup n g s) = kept msk s := by
  refine kept_mono hm ?_
  unfold commitGroup
  (repeat' split) <;> simp

/-! ## HostIo -/

@[simp] theorem forwardOut_keeps (c : Inflight) (s : State) {msk : Nat} :
    kept msk (forwardOut c s) = kept msk s := by
  simp [forwardOut]

@[simp] theorem requestPages_keeps (c : Ctrl) (pasid : Nat) (id : Nat) (a0 : List Nat) (a1 : State) {msk : Nat} :
    kept msk (requestPages c pasid id a0 a1) = kept msk a1 := by
  induction a0 generalizing a1 with
  | nil => simp [requestPages]
  | cons x l ih => simp [requestPages, ih]

@[simp] theorem reachCmd_emitAts_keeps (c : Ctrl) (x : Nat) (gs : List Nat) (s : State) {msk : Nat} :
    kept msk (reachCmd.emitAts c x gs s) = kept msk s := by
  simp [reachCmd.emitAts]

@[simp] theorem reachCmd_keeps (id : Nat) (c : Ctrl) (e : SubEntry) (len : Nat) (s : State) {msk : Nat} :
    kept msk (reachCmd id c e len s) = kept msk s := by
  unfold reachCmd
  (repeat' split) <;> simp

@[simp] theorem passTurn_keeps (s : State) {msk : Nat} :
    kept msk (passTurn s) = kept msk s := by
  unfold passTurn
  (repeat' split) <;> simp

@[simp] theorem endTurn_keeps (s : State) {msk : Nat} :
    kept msk (endTurn s) = kept msk s := by
  unfold endTurn
  (repeat' split) <;> simp

@[simp] theorem soloRounds_keeps (slice : Nat) (cost : Nat) (a0 : Nat) (a1 : State) {msk : Nat} :
    kept msk (soloRounds slice cost a0 a1) = kept msk a1 := by
  induction a0 generalizing a1 with
  | zero => simp [soloRounds]
  | succ m ih => simp [soloRounds, ih]

@[simp] theorem findTurn_keeps (s : State) {msk : Nat} :
    kept msk (findTurn s) = kept msk s := by
  unfold findTurn
  (repeat' split) <;> simp

@[simp] theorem takeEntry_keeps (ctrl : Nat) (sq : Nat) (s : State) {msk : Nat} :
    kept msk (takeEntry ctrl sq s) = kept msk s := by
  unfold takeEntry
  (repeat' split) <;> simp

@[simp] theorem refuseCmd_keeps (ctrl : Nat) (sq : Nat) (slice : Nat) (e : SubEntry) (st : NStatus) (s : State) {msk : Nat} (hm : butNetCipher &&& msk = butNetCipher) :
    kept msk (refuseCmd ctrl sq slice e st s) = kept msk s := by
  refine kept_mono hm ?_
  simp [refuseCmd]

@[simp] theorem startCmd_keeps (ctrl : Nat) (sq : Nat) (c : Ctrl) (e : SubEntry) (s : State) {msk : Nat} (hm : butNetCipher &&& msk = butNetCipher) :
    kept msk (startCmd ctrl sq c e s) = kept msk s := by
  refine kept_mono hm ?_
  unfold startCmd
  (repeat' split) <;> simp

@[simp] theorem takeEntries_keeps (ctrl : Nat) (sq : Nat) (e : SubEntry) (s : State) {msk : Nat} :
    kept msk (takeEntries ctrl sq e s) = kept msk s := by
  simp [takeEntries]

@[simp] theorem fetchCmd_keeps (ctrl : Nat) (sq : Nat) (left : List Nat) (c : Ctrl) (e : SubEntry) (s : State) {msk : Nat} (hm : butNetCipher &&& msk = butNetCipher) :
    kept msk (fetchCmd ctrl sq left c e s) = kept msk s := by
  refine kept_mono hm ?_
  unfold fetchCmd
  try dsimp only
  (repeat' split) <;> first | (simp; done) | (rcases Prod.ext_iff.mp ‹_ = (_, _)› with ⟨rfl, -⟩; simp; done) | (rcases Prod.ext_iff.mp ‹_ = (_, _)› with ⟨-, rfl⟩; simp; done) | (simp_all; done)

@[simp] theorem badAdmin_keeps (ctrl : Nat) (c : Ctrl) (e : SubEntry) (s : State) {msk : Nat} :
    kept msk (badAdmin ctrl c e s) = kept msk s := by
  unfold badAdmin
  (repeat' split) <;> simp

theorem execNvmeCommandFetch_keeps (ctrl : Nat) (sq : Nat) (e : SubEntry) (s : State) (s' : State) (ht : execNvmeCommandFetch ctrl sq e s = .next s') :
    kept butNetCipher s' = kept butNetCipher s := by
  unfold execNvmeCommandFetch at ht
  obtain rfl | ht := onRun_next ht
  · simp
  try dsimp only at ht
  subst ht
  (repeat' split) <;> simp

@[simp] theorem reduceWrite_keeps (id : Nat) (s : State) {msk : Nat} :
    kept msk (reduceWrite id s) = kept msk s := by
  unfold reduceWrite
  (repeat' split) <;> simp

@[simp] theorem countLag_keeps (nsid : Nat) (bytes : Nat) (s : State) {msk : Nat} (hm : butRepls &&& msk = butRepls) :
    kept msk (countLag nsid bytes s) = kept msk s := by
  refine kept_mono hm ?_
  unfold countLag
  (repeat' split) <;> simp

@[simp] theorem ackReplica_keeps (id : Nat) (d : Desc) (s : State) {msk : Nat} (hm : butNetReplsCluster &&& msk = butNetReplsCluster) :
    kept msk (ackReplica id d s) = kept msk s := by
  refine kept_mono hm ?_
  unfold ackReplica
  (repeat' split) <;> simp

@[simp] theorem replFinish_keeps (id : Nat) (d : Desc) (s : State) {msk : Nat} (hm : butNetReplsCluster &&& msk = butNetReplsCluster) :
    kept msk (replFinish id d s) = kept msk s := by
  refine kept_mono hm ?_
  unfold replFinish
  (repeat' split) <;> simp

@[simp] theorem countHost_keeps (id : Nat) (bytes : Nat) (s : State) {msk : Nat} :
    kept msk (countHost id bytes s) = kept msk s := by
  unfold countHost
  (repeat' split) <;> simp

@[simp] theorem tryFinish_keeps (id : Nat) (s : State) {msk : Nat} (hm : butNetReplsClusterCipher &&& msk = butNetReplsClusterCipher) :
    kept msk (tryFinish id s) = kept msk s := by
  refine kept_mono hm ?_
  unfold tryFinish
  (repeat' split) <;> simp

@[simp] theorem tryFinishAll_keeps (a0 : List Nat) (a1 : State) {msk : Nat} (hm : butNetReplsClusterCipher &&& msk = butNetReplsClusterCipher) :
    kept msk (tryFinishAll a0 a1) = kept msk a1 := by
  refine kept_mono hm ?_
  induction a0 generalizing a1 with
  | nil => simp [tryFinishAll]
  | cons x l ih => simp [tryFinishAll, ih]

@[simp] theorem suspendRepl_keeps (rel : Nat) (st : ReplState) (s : State) {msk : Nat} (hm : butNetReplsClusterCipher &&& msk = butNetReplsClusterCipher) :
    kept msk (suspendRepl rel st s) = kept msk s := by
  refine kept_mono hm ?_
  unfold suspendRepl
  (repeat' split) <;> simp

@[simp] theorem stageWrite_keeps (id : Nat) (c : Inflight) (s : State) {msk : Nat} (hm : butNetReplsClusterCipher &&& msk = butNetReplsClusterCipher) :
    kept msk (stageWrite id c s) = kept msk s := by
  refine kept_mono hm ?_
  simp [stageWrite]

@[simp] theorem poisonEnd_keeps (id : Nat) (c : Inflight) (lba : Nat) (s : State) {msk : Nat} (hm : butNetCipher &&& msk = butNetCipher) :
    kept msk (poisonEnd id c lba s) = kept msk s := by
  refine kept_mono hm ?_
  simp [poisonEnd]

@[simp] theorem divergeTarget_keeps (nsid : Nat) (s : State) {msk : Nat} (hm : butRepls &&& msk = butRepls) :
    kept msk (divergeTarget nsid s) = kept msk s := by
  refine kept_mono hm ?_
  unfold divergeTarget
  (repeat' split) <;> simp

@[simp] theorem failTransfer_keeps (id : Nat) (c : Inflight) (location : Nat) (s : State) {msk : Nat} (hm : butNetCipher &&& msk = butNetCipher) :
    kept msk (failTransfer id c location s) = kept msk s := by
  refine kept_mono hm ?_
  simp [failTransfer]

@[simp] theorem transferFails_keeps (id : Nat) (s : State) {msk : Nat} (hm : butNetCipher &&& msk = butNetCipher) :
    kept msk (transferFails id s) = kept msk s := by
  refine kept_mono hm ?_
  unfold transferFails
  (repeat' split) <;> simp

@[simp] theorem startWrite_keeps (id : Nat) (c : Inflight) (s : State) {msk : Nat} (hm : butNetReplsClusterCipher &&& msk = butNetReplsClusterCipher) :
    kept msk (startWrite id c s) = kept msk s := by
  refine kept_mono hm ?_
  unfold startWrite
  (repeat' split) <;> simp

@[simp] theorem strandCmd_keeps (id : Nat) (s : State) {msk : Nat} (hm : butNetCipher &&& msk = butNetCipher) :
    kept msk (strandCmd id s) = kept msk s := by
  refine kept_mono hm ?_
  unfold strandCmd
  (repeat' split) <;> simp

theorem execWrite_keeps (id : Nat) (s : State) (s' : State) (ht : execWrite id s = .next s') :
    kept butNetReplsClusterCipher s' = kept butNetReplsClusterCipher s := by
  unfold execWrite at ht
  obtain rfl | ht := onRun_next ht
  · simp
  try dsimp only at ht
  subst ht
  (repeat' split) <;> simp

theorem execWriteAdmission_keeps (s : State) (s' : State) (ht : execWriteAdmission s = .next s') :
    kept butNetReplsClusterCipher s' = kept butNetReplsClusterCipher s := by
  unfold execWriteAdmission at ht
  obtain rfl | ht := onRun_next ht
  · simp
  try dsimp only at ht
  subst ht
  (repeat' split) <;> simp

@[simp] theorem sendSync_keeps (id : Nat) (c : Inflight) (data : List Nat) (s : State) {msk : Nat} (hm : butNetReplsCluster &&& msk = butNetReplsCluster) :
    kept msk (sendSync id c data s) = kept msk s := by
  refine kept_mono hm ?_
  unfold sendSync
  (repeat' split) <;> simp

theorem execWriteStagedWhole_keeps (id : Nat) (got : Option (List Nat)) (s : State) (s' : State) (ht : execWriteStagedWhole id got s = .next s') :
    kept butNetReplsClusterCipher s' = kept butNetReplsClusterCipher s := by
  unfold execWriteStagedWhole at ht
  obtain rfl | ht := onRun_next ht
  · simp
  try dsimp only at ht
  subst ht
  (repeat' split) <;> simp

@[simp] theorem zeroGroup_keeps (id : Nat) (c : Inflight) (v : Ns) (a : Nat) (n : Nat) (ent : Option MapEnt) (s : State) {msk : Nat} (hm : butRepls &&& msk = butRepls) :
    kept msk (zeroGroup id c v a n ent s) = kept msk s := by
  refine kept_mono hm ?_
  simp [zeroGroup]

theorem execWriteZeroes_keeps (id : Nat) (s : State) (s' : State) (ht : execWriteZeroes id s = .next s') :
    kept butRepls s' = kept butRepls s := by
  unfold execWriteZeroes at ht
  obtain rfl | ht := onRun_next ht
  · simp
  try dsimp only at ht
  subst ht
  (repeat' split) <;> simp

theorem execDatasetManagement_keeps (id : Nat) (s : State) (s' : State) (ht : execDatasetManagement id s = .next s') :
    kept butNetReplsCipher s' = kept butNetReplsCipher s := by
  unfold execDatasetManagement at ht
  obtain rfl | ht := onRun_next ht
  · simp
  try dsimp only at ht
  subst ht
  (repeat' split) <;> simp

theorem execWriteUncorrectable_keeps (id : Nat) (s : State) (s' : State) (ht : execWriteUncorrectable id s = .next s') :
    kept butRepls s' = kept butRepls s := by
  unfold execWriteUncorrectable at ht
  obtain rfl | ht := onRun_next ht
  · simp
  try dsimp only at ht
  subst ht
  (repeat' split) <;> simp

@[simp] theorem finishFlush_keeps (id : Nat) (c : Inflight) (s : State) {msk : Nat} (hm : butNetCipher &&& msk = butNetCipher) :
    kept msk (finishFlush id c s) = kept msk s := by
  refine kept_mono hm ?_
  simp [finishFlush]

theorem execFlush_keeps (id : Nat) (s : State) (s' : State) (ht : execFlush id s = .next s') :
    kept butNetCipher s' = kept butNetCipher s := by
  unfold execFlush at ht
  obtain rfl | ht := onRun_next ht
  · simp
  try dsimp only at ht
  subst ht
  (repeat' split) <;> simp

@[simp] theorem endBeyond_keeps (nsid : Nat) (keep : Nat) (s : State) {msk : Nat} (hm : butNetCipher &&& msk = butNetCipher) :
    kept msk (endBeyond nsid keep s) = kept msk s := by
  refine kept_mono hm ?_
  simp [endBeyond]

@[simp] theorem runShrink_keeps (n : Nat) (nsid : Nat) (size : Nat) (s : State) {msk : Nat} (hm : butNetNsCipher &&& msk = butNetNsCipher) :
    kept msk (runShrink n nsid size s) = kept msk s := by
  refine kept_mono hm ?_
  unfold runShrink
  (repeat' split) <;> simp

/-! ## Reads -/

@[simp] theorem issueReads_keeps (bg : Bool) (l : List PageRead) (s : State) {msk : Nat} :
    kept msk (issueReads bg l s) = kept msk s := by
  simp [issueReads]

@[simp] theorem readUnit_keeps (key : Nat) (s : State) {msk : Nat} :
    kept msk (readUnit key s) = kept msk s := by
  unfold readUnit
  try dsimp only
  (repeat' split) <;> first | (simp; done) | (rcases Prod.ext_iff.mp ‹_ = (_, _)› with ⟨rfl, -⟩; simp; done) | (rcases Prod.ext_iff.mp ‹_ = (_, _)› with ⟨-, rfl⟩; simp; done) | (simp_all; done)

@[simp] theorem addJob_keeps (use : JobUse) (cws : List (Nat × Nat)) (s : State) {msk : Nat} :
    kept msk (addJob use cws s) = kept msk s := by
  simp [addJob]

@[simp] theorem sendData_keeps (c : Inflight) (data : List Nat) (s : State) {msk : Nat} (hm : butNet &&& msk = butNet) :
    kept msk (sendData c data s) = kept msk s := by
  refine kept_mono hm ?_
  unfold sendData
  (repeat' split) <;> simp

@[simp] theorem readEnd_keeps (id : Nat) (c : Inflight) (s : State) {msk : Nat} (hm : butNetReplsClusterCipher &&& msk = butNetReplsClusterCipher) :
    kept msk (readEnd id c s) = kept msk s := by
  refine kept_mono hm ?_
  unfold readEnd
  (repeat' split) <;> simp

@[simp] theorem slotLost_keeps (key : Nat) (s : State) {msk : Nat} (hm : butNs &&& msk = butNs) :
    kept msk (slotLost key s) = kept msk s := by
  refine kept_mono hm ?_
  unfold slotLost
  (repeat' split) <;> simp

@[simp] theorem finishRead_keeps (id : Nat) (s : State) {msk : Nat} (hm : butNetNsReplsClusterCipher &&& msk = butNetNsReplsClusterCipher) :
    kept msk (finishRead id s) = kept msk s := by
  refine kept_mono hm ?_
  unfold finishRead
  (try dsimp only) <;> (repeat' split) <;> first | rfl | (simp; done) | ((repeat' split) <;> simp; done) | simp_all

@[simp] theorem startRead_keeps (id : Nat) (c : Inflight) (s : State) {msk : Nat} (hm : butNetNsReplsClusterCipher &&& msk = butNetNsReplsClusterCipher) :
    kept msk (startRead id c s) = kept msk s := by
  refine kept_mono hm ?_
  unfold startRead
  (try dsimp only) <;> (repeat' split) <;> first | rfl | (simp; done) | ((repeat' split) <;> simp; done) | simp_all

@[simp] theorem gatherUnits_keeps (pool : Nat) (units : List Nat) (s : State) {msk : Nat} :
    kept msk (gatherUnits pool units s) = kept msk s := by
  unfold gatherUnits
  (repeat' split) <;> simp

@[simp] theorem checkStripe_keeps (q : Option Nat) (pool : Nat) (key : Nat) (s : State) {msk : Nat} :
    kept msk (checkStripe q pool key s) = kept msk s := by
  unfold checkStripe
  (repeat' split) <;> simp

@[simp] theorem checkDone_keeps (q : Option Nat) (pool : Nat) (key : Nat) (bad : List Nat) (gone : Nat) (s : State) {msk : Nat} (hm : butNs &&& msk = butNs) :
    kept msk (checkDone q pool key bad gone s) = kept msk s := by
  refine kept_mono hm ?_
  unfold checkDone
  (repeat' split) <;> simp

@[simp] theorem checkCw_keeps (n : Nat) (cw : Nat) (place : Option (Nat × Nat × Nat)) (data : List Byte) (s : State) {msk : Nat} :
    kept msk (checkCw n cw place data s) = kept msk s := by
  simp [checkCw]

@[simp] theorem jobDone_keeps (s : State) (a0 : JobUse) {msk : Nat} (hm : butNetNsReplsClusterCipher &&& msk = butNetNsReplsClusterCipher) :
    kept msk (jobDone s a0) = kept msk s := by
  refine kept_mono hm ?_
  unfold jobDone
  (repeat' split) <;> simp

@[simp] theorem jobsEnd_keeps (s : State) {msk : Nat} (hm : butNetNsReplsClusterCipher &&& msk = butNetNsReplsClusterCipher) :
    kept msk (jobsEnd s) = kept msk s := by
  refine kept_mono hm ?_
  simp [jobsEnd]

@[simp] theorem jobsRead_keeps (n : Nat) (cw : Nat) (s : State) {msk : Nat} (hm : butNetNsReplsClusterCipher &&& msk = butNetNsReplsClusterCipher) :
    kept msk (jobsRead n cw s) = kept msk s := by
  refine kept_mono hm ?_
  simp [jobsRead]

@[simp] theorem jobsLost_keeps (lost : Nat × Nat → Bool) (s0 : State) {msk : Nat} (hm : butNetNsReplsClusterCipher &&& msk = butNetNsReplsClusterCipher) :
    kept msk (jobsLost lost s0) = kept msk s0 := by
  refine kept_mono hm ?_
  unfold jobsLost
  try dsimp only
  repeat' first | rfl | (simp; done) | split | refine (kept_foldl _ _ (fun y a => ?_) _ _).trans ?_

@[simp] theorem ifReadable_keeps (id : Nat) (c : Inflight) (f : State → State) (s : State) {msk : Nat} (hm : butNetCipher &&& msk = butNetCipher) (h0 : ∀ x0, kept msk (f x0) = kept msk x0) :
    kept msk (ifReadable id c f s) = kept msk s := by
  have hb10 : msk / 1024 % 2 = 1 := bit_of_and hm 10 rfl
  have hb14 : msk / 16384 % 2 = 1 := bit_of_and hm 14 rfl
  unfold ifReadable
  (repeat' split) <;> simp [h0, hm, hb10, hb14]

theorem execRead_keeps (id : Nat) (s : State) (s' : State) (ht : execRead id s = .next s') :
    kept butNetNsReplsClusterCipher s' = kept butNetNsReplsClusterCipher s := by
  unfold execRead at ht
  obtain rfl | ht := onRun_next ht
  · simp
  try dsimp only at ht
  subst ht
  (repeat' split) <;> simp

theorem execVerify_keeps (id : Nat) (s : State) (s' : State) (ht : execVerify id s = .next s') :
    kept butNetNsReplsClusterCipher s' = kept butNetNsReplsClusterCipher s := by
  unfold execVerify at ht
  obtain rfl | ht := onRun_next ht
  · simp
  try dsimp only at ht
  subst ht
  (repeat' split) <;> simp

@[simp] theorem hostHalf_keeps (c : Inflight) (s : State) {msk : Nat} :
    kept msk (hostHalf c s) = kept msk s := by
  simp [hostHalf]

@[simp] theorem compareWith_keeps (id : Nat) (c : Inflight) (host : Option (List Nat)) (s : State) {msk : Nat} (hm : butNetNsReplsClusterCipher &&& msk = butNetNsReplsClusterCipher) :
    kept msk (compareWith id c host s) = kept msk s := by
  refine kept_mono hm ?_
  unfold compareWith
  (repeat' split) <;> simp

theorem execCompare_keeps (id : Nat) (host : Option (List Nat)) (s : State) (s' : State) (ht : execCompare id host s = .next s') :
    kept butNetNsReplsClusterCipher s' = kept butNetNsReplsClusterCipher s := by
  unfold execCompare at ht
  obtain rfl | ht := onRun_next ht
  · simp
  try dsimp only at ht
  subst ht
  (repeat' split) <;> simp

theorem execCompareAndWrite_keeps (id : Nat) (host : Option (List Nat)) (s : State) (s' : State) (ht : execCompareAndWrite id host s = .next s') :
    kept butNetNsReplsClusterCipher s' = kept butNetNsReplsClusterCipher s := by
  unfold execCompareAndWrite at ht
  obtain rfl | ht := onRun_next ht
  · simp
  try dsimp only at ht
  subst ht
  (repeat' split) <;> simp

/-! ## VaultOps -/

@[simp] theorem State_caraf_keeps (s : State) (f : Carafe → Carafe) {msk : Nat} :
    kept msk (State.caraf s f) = kept msk s := by
  simp [State.caraf]

@[simp] theorem vaultSend_keeps (n : Nat) (area : Nat) (bank : Nat) (off : Nat) (cws : List (List Byte)) (s : State) {msk : Nat} :
    kept msk (vaultSend n area bank off cws s) = kept msk s := by
  simp [vaultSend]

@[simp] theorem vaultStrip_keeps (n : Nat) (area : Nat) (bank : Nat) (off : Nat) (cws : List (List Byte)) (s : State) {msk : Nat} :
    kept msk (vaultStrip n area bank off cws s) = kept msk s := by
  simp [vaultStrip]

@[simp] theorem sendVault_keeps (set : List Nat) (area : Nat) (bank : Nat) (total : Nat) (stream : List Byte) (a0 : Nat) (a1 : State) {msk : Nat} :
    kept msk (sendVault set area bank total stream a0 a1) = kept msk a1 := by
  induction a0 generalizing set area bank total a1 with
  | zero => simp [sendVault]
  | succ x ih => simp [sendVault, ih]

@[simp] theorem vaultStream_keeps (s : State) {msk : Nat} :
    kept msk (vaultStream s) = kept msk s := by
  simp [vaultStream]

@[simp] theorem vaultAck_keeps (n : Nat) (ok : Bool) (s : State) {msk : Nat} :
    kept msk (vaultAck n ok s) = kept msk s := by
  simp [vaultAck]

@[simp] theorem vaultDrop_keeps (n : Nat) (s : State) {msk : Nat} :
    kept msk (vaultDrop n s) = kept msk s := by
  simp [vaultDrop]

@[simp] theorem vaultSeal_keeps (s : State) {msk : Nat} :
    kept msk (vaultSeal s) = kept msk s := by
  unfold vaultSeal
  (repeat' split) <;> simp

@[simp] theorem eraseOn_keeps (bank : Nat) (n : Nat) (s : State) {msk : Nat} :
    kept msk (eraseOn bank n s) = kept msk s := by
  simp [eraseOn]

@[simp] theorem eraseBank_keeps (bank : Nat) (s : State) {msk : Nat} :
    kept msk (eraseBank bank s) = kept msk s := by
  simp [eraseBank]

@[simp] theorem eraseUnused_keeps (n : Nat) (s : State) {msk : Nat} :
    kept msk (eraseUnused n s) = kept msk s := by
  simp [eraseUnused]

@[simp] theorem poisonLost_keeps (a0 : List (Nat × Desc)) (a1 : State) {msk : Nat} :
    kept msk (poisonLost a0 a1) = kept msk a1 := by
  induction a0 generalizing a1 with
  | nil => simp [poisonLost]
  | cons x l ih =>
    unfold poisonLost
    (repeat' split) <;> simp [ih]

@[simp] theorem vaultSpent_keeps (s : State) {msk : Nat} :
    kept msk (vaultSpent s) = kept msk s := by
  unfold vaultSpent
  (repeat' split) <;> simp

/-! ## KamOps -/

@[simp] theorem openPools_keeps (a0 : List Nat) (a1 : State) {msk : Nat} :
    kept msk (openPools a0 a1) = kept msk a1 := by
  induction a0 generalizing a1 with
  | nil => simp [openPools]
  | cons x l ih =>
    unfold openPools
    (repeat' split) <;> simp [ih]

@[simp] theorem poolReach_keeps (pool : Nat) (s : State) {msk : Nat} :
    kept msk (poolReach pool s) = kept msk s := by
  unfold poolReach
  (repeat' split) <;> simp

@[simp] theorem poolsReach_keeps (s : State) {msk : Nat} :
    kept msk (poolsReach s) = kept msk s := by
  simp [poolsReach]

@[simp] theorem kamAlarms_keeps (s0 : State) {msk : Nat} :
    kept msk (kamAlarms s0) = kept msk s0 := by
  simp [kamAlarms]

@[simp] theorem serialAlarm_keeps (s : State) {msk : Nat} :
    kept msk (serialAlarm s) = kept msk s := by
  simp [serialAlarm]

@[simp] theorem resendFrames_keeps (port : Nat) (a0 : List KFrame) (a1 : State) {msk : Nat} :
    kept msk (resendFrames port a0 a1) = kept msk a1 := by
  induction a0 generalizing port a1 with
  | nil => simp [resendFrames]
  | cons x l ih => simp [resendFrames, ih]

@[simp] theorem kamAccept_keeps (port : Nat) (s : State) {msk : Nat} :
    kept msk (kamAccept port s) = kept msk s := by
  simp [kamAccept]

@[simp] theorem kamNarrow_keeps (port : Nat) (s : State) {msk : Nat} :
    kept msk (kamNarrow port s) = kept msk s := by
  simp [kamNarrow]

@[simp] theorem kamRetrain_keeps (port : Nat) (s : State) {msk : Nat} :
    kept msk (kamRetrain port s) = kept msk s := by
  simp [kamRetrain]

@[simp] theorem kamLasting_keeps (port : Nat) (s : State) {msk : Nat} :
    kept msk (kamLasting port s) = kept msk s := by
  simp [kamLasting]

@[simp] theorem kamTake_keeps (port : Nat) (tag : Nat) (s : State) {msk : Nat} :
    kept msk ((kamTake port tag s).2) = kept msk s := by
  simp [kamTake]

@[simp] theorem resendPage_keeps (n : Nat) (page : Nat) (s : State) {msk : Nat} :
    kept msk (resendPage n page s) = kept msk s := by
  unfold resendPage
  (repeat' split) <;> simp

@[simp] theorem resendPages_keeps (n : Nat) (a0 : List Nat) (a1 : State) {msk : Nat} :
    kept msk (resendPages n a0 a1) = kept msk a1 := by
  induction a0 generalizing n a1 with
  | nil => simp [resendPages]
  | cons x l ih => simp [resendPages, ih]

@[simp] theorem relocReady_keeps (n : Nat) (s : State) {msk : Nat} :
    kept msk (relocReady n s) = kept msk s := by
  unfold relocReady
  (try dsimp only) <;> (repeat' split) <;> first | rfl | (simp; done) | ((repeat' split) <;> simp; done) | simp_all

@[simp] theorem reviseIntent_keeps (n : Nat) (pages : List Nat) (s : State) {msk : Nat} :
    kept msk (reviseIntent n pages s) = kept msk s := by
  simp [reviseIntent]

@[simp] theorem dieFault_keeps (n : Nat) (die : Nat) (s : State) {msk : Nat} (hm : butNetNsReplsClusterCipher &&& msk = butNetNsReplsClusterCipher) :
    kept msk (dieFault n die s) = kept msk s := by
  refine kept_mono hm ?_
  simp [dieFault]

@[simp] theorem rebuiltStrip_keeps (pool : Nat) (n : Nat) (seg : Nat) (place : Nat) (page : Nat) (addr : Nat) (s : State) {msk : Nat} :
    kept msk (rebuiltStrip pool n seg place page addr s) = kept msk s := by
  unfold rebuiltStrip
  (repeat' split) <;> simp

@[simp] theorem settleFails_keeps (pool : Nat) (s : State) {msk : Nat} :
    kept msk (settleFails pool s) = kept msk s := by
  unfold settleFails
  (repeat' split) <;> simp

@[simp] theorem programOk_keeps (n : Nat) (page : Nat) (temp : Byte) (s : State) {msk : Nat} (hm : butRepls &&& msk = butRepls) :
    kept msk (programOk n page temp s) = kept msk s := by
  refine kept_mono hm ?_
  unfold programOk
  (repeat' split) <;> simp

@[simp] theorem programAnswer_keeps (n : Nat) (addr : Nat) (st : KStatus) (temp : Byte) (held : W32) (s : State) {msk : Nat} (hm : butNetNsReplsClusterCipher &&& msk = butNetNsReplsClusterCipher) :
    kept msk (programAnswer n addr st temp held s) = kept msk s := by
  refine kept_mono hm ?_
  unfold programAnswer
  (repeat' split) <;> simp

@[simp] theorem eraseAnswer_keeps (n : Nat) (area : Nat) (addr : Nat) (st : KStatus) (held : W32) (s : State) {msk : Nat} (hm : butNetNsReplsClusterCipher &&& msk = butNetNsReplsClusterCipher) :
    kept msk (eraseAnswer n area addr st held s) = kept msk s := by
  refine kept_mono hm ?_
  unfold eraseAnswer
  (repeat' split) <;> simp

@[simp] theorem threshAnswer_keeps (n : Nat) (die : Nat) (set : Nat) (offs : List Int) (st : KStatus) (s : State) {msk : Nat} (hm : butNetNsReplsClusterCipher &&& msk = butNetNsReplsClusterCipher) :
    kept msk (threshAnswer n die set offs st s) = kept msk s := by
  refine kept_mono hm ?_
  unfold threshAnswer
  (repeat' split) <;> simp

@[simp] theorem dispatchJob_keeps (j : DecJob) (s : State) {msk : Nat} :
    kept msk (dispatchJob j s) = kept msk s := by
  simp [dispatchJob]

@[simp] theorem decoderFree_keeps (n : Nat) (s : State) {msk : Nat} :
    kept msk (decoderFree n s) = kept msk s := by
  simp [decoderFree]

@[simp] theorem moveJobs_keeps (group : Nat) (s : State) {msk : Nat} :
    kept msk (moveJobs group s) = kept msk s := by
  simp [moveJobs]

@[simp] theorem decodeStart_keeps (n : Nat) (page : Nat) (sense : Nat) (mask : Nat) (bg : Bool) (s : State) {msk : Nat} :
    kept msk (decodeStart n page sense mask bg s) = kept msk s := by
  simp [decodeStart]

@[simp] theorem readAnswer_keeps (n : Nat) (addr : Nat) (sense : Nat) (mask : Nat) (bg : Bool) (st : KStatus) (s : State) {msk : Nat} (hm : butNetNsReplsClusterCipher &&& msk = butNetNsReplsClusterCipher) :
    kept msk (readAnswer n addr sense mask bg st s) = kept msk s := by
  refine kept_mono hm ?_
  unfold readAnswer <;> (try dsimp only) <;> (repeat' split) <;> first | (simp; done) | (rcases Prod.ext_iff.mp ‹_ = (_, _)› with ⟨rfl, -⟩; simp; done) | (rcases Prod.ext_iff.mp ‹_ = (_, _)› with ⟨-, rfl⟩; simp; done) | simp_all

@[simp] theorem pushOne_keeps (n : Nat) (s : State) {msk : Nat} :
    kept msk (pushOne n s) = kept msk s := by
  unfold pushOne
  try dsimp only
  (repeat' split) <;> first | (simp; done) | (rcases Prod.ext_iff.mp ‹_ = (_, _)› with ⟨rfl, -⟩; simp; done) | (rcases Prod.ext_iff.mp ‹_ = (_, _)› with ⟨-, rfl⟩; simp; done) | (simp_all; done)

@[simp] theorem pushAll_keeps (s : State) {msk : Nat} :
    kept msk (pushAll s) = kept msk s := by
  simp [pushAll]

@[simp] theorem poolCreated_keeps (pool : Nat) (s : State) {msk : Nat} :
    kept msk (poolCreated pool s) = kept msk s := by
  unfold poolCreated
  (repeat' split) <;> simp

@[simp] theorem poolsCreated_keeps (s : State) {msk : Nat} :
    kept msk (poolsCreated s) = kept msk s := by
  simp [poolsCreated]

@[simp] theorem kamUp_keeps (port : Nat) (s : State) {msk : Nat} :
    kept msk (kamUp port s) = kept msk s := by
  simp [kamUp]

@[simp] theorem kamOrphan_keeps (port : Nat) (peer : Bool) (c : KCmd) (s : State) {msk : Nat} (hm : butNetNsReplsClusterCipher &&& msk = butNetNsReplsClusterCipher) :
    kept msk (kamOrphan port peer c s) = kept msk s := by
  refine kept_mono hm ?_
  unfold kamOrphan
  (repeat' split) <;> simp

@[simp] theorem kamOrphans_keeps (port : Nat) (peer : Bool) (a0 : List KCmd) (a1 : State) {msk : Nat} (hm : butNetNsReplsClusterCipher &&& msk = butNetNsReplsClusterCipher) :
    kept msk (kamOrphans port peer a0 a1) = kept msk a1 := by
  refine kept_mono hm ?_
  induction a0 generalizing port peer a1 with
  | nil => simp [kamOrphans]
  | cons x l ih => simp [kamOrphans, ih]

@[simp] theorem kamDown_keeps (port : Nat) (next : KState) (s : State) {msk : Nat} (hm : butNetNsReplsClusterCipher &&& msk = butNetNsReplsClusterCipher) :
    kept msk (kamDown port next s) = kept msk s := by
  refine kept_mono hm ?_
  simp [kamDown]

@[simp] theorem kamDownAlarm_keeps (port : Nat) (s : State) {msk : Nat} (hm : butNetNsReplsClusterCipher &&& msk = butNetNsReplsClusterCipher) :
    kept msk (kamDownAlarm port s) = kept msk s := by
  refine kept_mono hm ?_
  simp [kamDownAlarm]

@[simp] theorem serialDiffers_keeps (port : Nat) (own : W64) (peer : W64) (s : State) {msk : Nat} (hm : butNetNsReplsClusterCipher &&& msk = butNetNsReplsClusterCipher) :
    kept msk (serialDiffers port own peer s) = kept msk s := by
  refine kept_mono hm ?_
  simp [serialDiffers]

end Sys2Proof.Machine
end

