-- ==== Sys2Proof/Laws/KeepsStore.lean ====
section
/-! SUPPORT. Laws/KeepsStore.lean: the parts of the state that each operation of the storage path and the peer leaves as they were. -/
namespace Sys2Proof.Machine
open Sys2Proof
set_option linter.all false
set_option maxHeartbeats 1000000

/-! ## Flash -/

@[simp] theorem moveVerified_keeps (n : Nat) (key : Nat) (s : State) {msk : Nat} :
    kept msk (moveVerified n key s) = kept msk s := by
  simp [moveVerified]

@[simp] theorem pageVerified_keeps (n : Nat) (page : Nat) (v : VPage) (s : State) {msk : Nat} :
    kept msk (pageVerified n page v s) = kept msk s := by
  unfold pageVerified
  (repeat' split) <;> simp

@[simp] theorem fromParity_keeps (n : Nat) (v : VPage) (mates : List Nat) (s : State) {msk : Nat} :
    kept msk (fromParity n v mates s) = kept msk s := by
  simp [fromParity]

@[simp] theorem beyondParity_keeps (n : Nat) (v : VPage) (s : State) {msk : Nat} (hm : butNs &&& msk = butNs) :
    kept msk (beyondParity n v s) = kept msk s := by
  refine kept_mono hm ?_
  unfold beyondParity
  (repeat' split) <;> simp

@[simp] theorem verifyLost_keeps (n : Nat) (page : Nat) (v : VPage) (s : State) {msk : Nat} (hm : butNsRepls &&& msk = butNsRepls) :
    kept msk (verifyLost n page v s) = kept msk s := by
  refine kept_mono hm ?_
  unfold verifyLost
  (try dsimp only) <;> (repeat' split) <;> first | rfl | (simp; done) | ((repeat' split) <;> simp; done) | simp_all

@[simp] theorem verifyTime_keeps (n : Nat) (page : Nat) (v : VPage) (s : State) {msk : Nat} :
    kept msk (verifyTime n page v s) = kept msk s := by
  simp [verifyTime]

theorem execPageVerify_keeps (module : Fin 96) (page : Nat) (res : List DecodeResult) (s : State) (s' : State) (ht : execPageVerify module page res s = .next s') :
    kept butNsRepls s' = kept butNsRepls s := by
  unfold execPageVerify at ht
  obtain rfl | ht := onLive_next ht
  · simp
  try dsimp only at ht
  subst ht
  (repeat' split) <;> simp

@[simp] theorem noteOffset_keeps (n : Nat) (page : Nat) (offsets : List Int) (s : State) {msk : Nat} :
    kept msk (noteOffset n page offsets s) = kept msk s := by
  simp [noteOffset]

@[simp] theorem decodeOk_keeps (n : Nat) (cw : Nat) (stage : Nat) (again : Bool) (corrected : Nat) (offsets : List Int) (s : State) {msk : Nat} (hm : butNetNsReplsClusterCipher &&& msk = butNetNsReplsClusterCipher) :
    kept msk (decodeOk n cw stage again corrected offsets s) = kept msk s := by
  refine kept_mono hm ?_
  simp [decodeOk]

@[simp] theorem readNeighbours_keeps (bg : Bool) (n : Nat) (cw : Nat) (s : State) {msk : Nat} :
    kept msk (readNeighbours bg n cw s) = kept msk s := by
  simp [readNeighbours]

@[simp] theorem decodeLost_keeps (n : Nat) (cw : Nat) (s : State) {msk : Nat} (hm : butNetNsReplsClusterCipher &&& msk = butNetNsReplsClusterCipher) :
    kept msk (decodeLost n cw s) = kept msk s := by
  refine kept_mono hm ?_
  unfold decodeLost
  try dsimp only
  (repeat' split) <;> first | (simp; done) | (rcases Prod.ext_iff.mp ‹_ = (_, _)› with ⟨rfl, -⟩; simp; done) | (rcases Prod.ext_iff.mp ‹_ = (_, _)› with ⟨-, rfl⟩; simp; done) | (simp_all; done)

theorem execLdpcDecodeDone_keeps (module : Fin 96) (cw : Nat) (res : DecodeResult) (offsets : List Int) (s : State) (s' : State) (ht : execLdpcDecodeDone module cw res offsets s = .next s') :
    kept butNetNsReplsClusterCipher s' = kept butNetNsReplsClusterCipher s := by
  unfold execLdpcDecodeDone at ht
  obtain rfl | ht := onLive_next ht
  · simp
  try dsimp only at ht
  subst ht
  (repeat' split) <;> simp

@[simp] theorem fillBand_keeps (n : Nat) (b : Band) (s : State) {msk : Nat} :
    kept msk (fillBand n b s) = kept msk s := by
  simp [fillBand]

theorem execBandIdleClose_keeps (module : Fin 96) (inReloc : Bool) (s : State) (s' : State) (ht : execBandIdleClose module inReloc s = .next s') :
    kept 0 s' = kept 0 s := by
  unfold execBandIdleClose at ht
  obtain rfl | ht := onRun_next ht
  · simp
  try dsimp only at ht
  subst ht
  (repeat' split) <;> simp

theorem execModuleInfoPoll_keeps (module : Fin 96) (s : State) (s' : State) (ht : execModuleInfoPoll module s = .next s') :
    kept 0 s' = kept 0 s := by
  unfold execModuleInfoPoll at ht
  obtain rfl | ht := onRun_next ht
  · simp
  try dsimp only at ht
  subst ht
  simp

@[simp] theorem copyStrip_keeps (n : Nat) (key : Nat) (idle : Bool) (s : State) (e : Nat × Nat) {msk : Nat} (hm : butGov &&& msk = butGov) :
    kept msk (copyStrip n key idle s e) = kept msk s := by
  refine kept_mono hm ?_
  simp [copyStrip]

theorem execBlockReclaim_keeps (module : Fin 96) (block_ : Nat) (idle : Bool) (s : State) (s' : State) (ht : execBlockReclaim module block_ idle s = .next s') :
    kept butGov s' = kept butGov s := by
  unfold execBlockReclaim at ht
  obtain rfl | ht := onRun_next ht
  · simp
  try dsimp only at ht
  subst ht
  simp

@[simp] theorem moveGroup_keeps (pool : Nat) (units : List Nat) (s : State) {msk : Nat} :
    kept msk (moveGroup pool units s) = kept msk s := by
  simp [moveGroup]

@[simp] theorem moveGroups_keeps (a : Nat) (idle : Bool) (pool : Nat) (shape : Layout) (mark : State → State) (units : List (Nat × UnitRec)) (a0 : List Nat) (a1 : State) {msk : Nat} (hm : butGov &&& msk = butGov) (h0 : ∀ x0, kept msk (mark x0) = kept msk x0) :
    kept msk (moveGroups a idle pool shape mark units a0 a1) = kept msk a1 := by
  have hb15 : msk / 32768 % 2 = 1 := bit_of_and hm 15 rfl
  induction a0 generalizing a1 with
  | nil => simp [moveGroups]
  | cons x l ih =>
    simp only [moveGroups]
    rw [ih]
    (repeat' split) <;> simp [h0, hm, hb15]

@[simp] theorem moveSegment_keeps (a : Nat) (idle : Bool) (pool : Nat) (key : Nat) (s : State) {msk : Nat} (hm : butGov &&& msk = butGov) :
    kept msk (moveSegment a idle pool key s) = kept msk s := by
  refine kept_mono hm ?_
  unfold moveSegment
  (repeat' split) <;> simp

theorem execSegmentCleaning_keeps (pool : Fin 8) (seg : Nat) (idle : Bool) (s : State) (s' : State) (ht : execSegmentCleaning pool seg idle s = .next s') :
    kept butGov s' = kept butGov s := by
  unfold execSegmentCleaning at ht
  obtain rfl | ht := onRun_next ht
  · rfl
  try dsimp only at ht
  subst ht
  (repeat' split) <;> simp

theorem execScrubPage_keeps (module : Fin 96) (page : Nat) (idle : Bool) (s : State) (s' : State) (ht : execScrubPage module page idle s = .next s') :
    kept butGov s' = kept butGov s := by
  unfold execScrubPage at ht
  obtain rfl | ht := onRun_next ht
  · simp
  try dsimp only at ht
  subst ht
  simp

/-! ## Carafe -/

theorem execSegmentClose_keeps (pool : Fin 8) (gather : Nat) (s : State) (s' : State) (ht : execSegmentClose pool gather s = .next s') :
    kept 0 s' = kept 0 s := by
  unfold execSegmentClose at ht
  obtain rfl | ht := onRun_next ht
  · simp
  try dsimp only at ht
  subst ht
  (repeat' split) <;> simp

@[simp] theorem afterCommit_keeps (s : State) {msk : Nat} (hm : butRepls &&& msk = butRepls) :
    kept msk (afterCommit s) = kept msk s := by
  refine kept_mono hm ?_
  simp [afterCommit]

theorem execJournalGroupCommit_keeps (s : State) (s' : State) (ht : execJournalGroupCommit s = .next s') :
    kept butNetNsReplsClusterCipher s' = kept butNetNsReplsClusterCipher s := by
  unfold execJournalGroupCommit at ht
  obtain rfl | ht := onRun_next ht
  · simp
  try dsimp only at ht
  subst ht
  (repeat' split) <;> simp

@[simp] theorem pageGathers_keeps (g : Nat) (s : State) (pool : Nat) {msk : Nat} :
    kept msk (pageGathers g s pool) = kept msk s := by
  unfold pageGathers
  (repeat' split) <;> simp

@[simp] theorem payPages_keeps (idle : Bool) (pool : Nat) (gi : Nat) (a0 : Nat) (a1 : State) {msk : Nat} (hm : butGov &&& msk = butGov) :
    kept msk (payPages idle pool gi a0 a1) = kept msk a1 := by
  refine kept_mono hm ?_
  induction a0 generalizing a1 with
  | zero => simp [payPages]
  | succ m ih =>
    unfold payPages
    (repeat' split) <;> simp [ih]

@[simp] theorem payAll_keeps (idle : Bool) (s : State) {msk : Nat} (hm : butGov &&& msk = butGov) :
    kept msk (payAll idle s) = kept msk s := by
  refine kept_mono hm ?_
  simp [payAll]

theorem execCompactionStart_keeps (idle : Bool) (s : State) (s' : State) (ht : execCompactionStart idle s = .next s') :
    kept butGov s' = kept butGov s := by
  unfold execCompactionStart at ht
  obtain rfl | ht := onRun_next ht
  · rfl
  try dsimp only at ht
  subst ht
  (repeat' split) <;> simp

@[simp] theorem compactGroups_keeps (g : Nat) (a0 : List Nat) (a1 : State) {msk : Nat} :
    kept msk (compactGroups g a0 a1) = kept msk a1 := by
  induction a0 generalizing g a1 with
  | nil => simp [compactGroups]
  | cons x l ih =>
    unfold compactGroups
    (repeat' split) <;> simp_all

theorem execCompactionPagesProgrammed_keeps (s : State) (s' : State) (ht : execCompactionPagesProgrammed s = .next s') :
    kept 0 s' = kept 0 s := by
  unfold execCompactionPagesProgrammed at ht
  obtain rfl | ht := onRun_next ht
  · simp
  try dsimp only at ht
  subst ht
  (repeat' split) <;> simp

theorem execScratchpadConvert_keeps (s : State) (s' : State) (ht : execScratchpadConvert s = .next s') :
    kept butOnchip s' = kept butOnchip s := by
  unfold execScratchpadConvert at ht
  obtain rfl | ht := onRun_next ht
  · simp
  try dsimp only at ht
  subst ht
  simp

theorem execScratchpadReturn_keeps (s : State) (s' : State) (ht : execScratchpadReturn s = .next s') :
    kept butOnchip s' = kept butOnchip s := by
  unfold execScratchpadReturn at ht
  obtain rfl | ht := onRun_next ht
  · simp
  try dsimp only at ht
  subst ht
  simp

@[simp] theorem scratchWithdraw_keeps (s : State) {msk : Nat} (hm : butOnchip &&& msk = butOnchip) :
    kept msk (scratchWithdraw s) = kept msk s := by
  refine kept_mono hm ?_
  simp [scratchWithdraw]

@[simp] theorem suspectSeg_keeps (pool : Nat) (key : Nat) (s : State) {msk : Nat} (hm : butNs &&& msk = butNs) :
    kept msk (suspectSeg pool key s) = kept msk s := by
  refine kept_mono hm ?_
  unfold suspectSeg
  (repeat' split) <;> simp

@[simp] theorem suspectSegs_keeps (pool : Nat) (a0 : List Nat) (a1 : State) {msk : Nat} (hm : butNs &&& msk = butNs) :
    kept msk (suspectSegs pool a0 a1) = kept msk a1 := by
  refine kept_mono hm ?_
  induction a0 generalizing pool a1 with
  | nil => simp [suspectSegs]
  | cons x l ih => simp [suspectSegs, ih]

theorem execOpenSegmentCheck_keeps (pool : Fin 8) (bad : List Nat) (s : State) (s' : State) (ht : execOpenSegmentCheck pool bad s = .next s') :
    kept butNs s' = kept butNs s := by
  unfold execOpenSegmentCheck at ht
  obtain rfl | ht := onRun_next ht
  · simp
  try dsimp only at ht
  subst ht
  (repeat' split) <;> simp

/-! ## Cipher -/

@[simp] theorem ktwkLoad_keeps (wrapped : List Byte) (s : State) {msk : Nat} (hm : butCipher &&& msk = butCipher) :
    kept msk ((ktwkLoad wrapped s).2) = kept msk s := by
  refine kept_mono hm ?_
  unfold ktwkLoad
  (repeat' split) <;> simp

@[simp] theorem keyLoad_keeps (index : Nat) (kind : Nat) (wrapped : List Byte) (s : State) {msk : Nat} (hm : butCipher &&& msk = butCipher) :
    kept msk ((keyLoad index kind wrapped s).2) = kept msk s := by
  refine kept_mono hm ?_
  unfold keyLoad
  (repeat' split) <;> simp

theorem execKeyLoad_keeps (h : MbxHdr) (index : W32) (kind : Nat) (wrapped : List Byte) (s : State) (s' : State) (ht : execKeyLoad h index kind wrapped s = .next s') :
    kept butCipher s' = kept butCipher s := by
  unfold execKeyLoad at ht
  obtain rfl | ht := onRun_next ht
  · simp
  try dsimp only at ht
  subst ht
  first | (simp; done) | (refine mbxStart_keeps _ _ _ _ _ (fun y0 => ?_) <;> (try dsimp only) <;> first | (simp; done) | ((repeat' split) <;> simp; done))

theorem execKtwkLoad_keeps (h : MbxHdr) (wrapped : List Byte) (s : State) (s' : State) (ht : execKtwkLoad h wrapped s = .next s') :
    kept butCipher s' = kept butCipher s := by
  unfold execKtwkLoad at ht
  obtain rfl | ht := onRun_next ht
  · simp
  try dsimp only at ht
  subst ht
  simp

@[simp] theorem keyRotate_keeps (index : Nat) (wrapped : List Byte) (s : State) {msk : Nat} (hm : butNetReplsClusterCipher &&& msk = butNetReplsClusterCipher) :
    kept msk ((keyRotate index wrapped s).2) = kept msk s := by
  refine kept_mono hm ?_
  unfold keyRotate
  (repeat' split) <;> simp

@[simp] theorem ktwkRotate_keeps (wrapped : List Byte) (s : State) {msk : Nat} (hm : butCipher &&& msk = butCipher) :
    kept msk ((ktwkRotate wrapped s).2) = kept msk s := by
  refine kept_mono hm ?_
  unfold ktwkRotate
  (repeat' split) <;> simp

theorem execKeyRotate_keeps (h : MbxHdr) (index : W32) (wrapped : List Byte) (s : State) (s' : State) (ht : execKeyRotate h index wrapped s = .next s') :
    kept butNetReplsClusterCipher s' = kept butNetReplsClusterCipher s := by
  unfold execKeyRotate at ht
  obtain rfl | ht := onRun_next ht
  · simp
  try dsimp only at ht
  subst ht
  first | (simp; done) | (refine mbxStart_keeps _ _ _ _ _ (fun y0 => ?_) <;> (try dsimp only) <;> first | (simp; done) | ((repeat' split) <;> simp; done))

theorem execKtwkRotate_keeps (h : MbxHdr) (wrapped : List Byte) (s : State) (s' : State) (ht : execKtwkRotate h wrapped s = .next s') :
    kept butCipher s' = kept butCipher s := by
  unfold execKtwkRotate at ht
  obtain rfl | ht := onRun_next ht
  · simp
  try dsimp only at ht
  subst ht
  simp

theorem execKeyDestroy_keeps (h : MbxHdr) (index : W32) (s : State) (s' : State) (ht : execKeyDestroy h index s = .next s') :
    kept butCipher s' = kept butCipher s := by
  unfold execKeyDestroy at ht
  obtain rfl | ht := onRun_next ht
  · simp
  try dsimp only at ht
  subst ht
  refine mbxStart_keeps _ _ _ _ _ (fun x => ?_)
  refine tryDo_keeps _ _ _ (fun y => ?_)
  simp

theorem execKeyQuery_keeps (h : MbxHdr) (index : W32) (s : State) (s' : State) (ht : execKeyQuery h index s = .next s') :
    kept 0 s' = kept 0 s := by
  unfold execKeyQuery at ht
  obtain rfl | ht := onRun_next ht
  · simp
  try dsimp only at ht
  subst ht
  simp

theorem execXtsEncrypt_keeps (r : CipherReq) (s : State) (s' : State) (ht : execXtsEncrypt r s = .next s') :
    kept butOnchipCipher s' = kept butOnchipCipher s := by
  unfold execXtsEncrypt at ht
  obtain rfl | ht := onLive_next ht
  · simp
  try dsimp only at ht
  subst ht
  simp

theorem execXtsDecrypt_keeps (r : CipherReq) (s : State) (s' : State) (ht : execXtsDecrypt r s = .next s') :
    kept butOnchipCipher s' = kept butOnchipCipher s := by
  unfold execXtsDecrypt at ht
  obtain rfl | ht := onLive_next ht
  · simp
  try dsimp only at ht
  subst ht
  simp

theorem execXtsReencrypt_keeps (r : CipherReq) (s : State) (s' : State) (ht : execXtsReencrypt r s = .next s') :
    kept butOnchipCipher s' = kept butOnchipCipher s := by
  unfold execXtsReencrypt at ht
  obtain rfl | ht := onLive_next ht
  · simp
  try dsimp only at ht
  subst ht
  simp

theorem execGcmOpen_keeps (r : CipherReq) (s : State) (s' : State) (ht : execGcmOpen r s = .next s') :
    kept butOnchipCipher s' = kept butOnchipCipher s := by
  unfold execGcmOpen at ht
  obtain rfl | ht := onLive_next ht
  · simp
  try dsimp only at ht
  subst ht
  simp

theorem execGcmData_keeps (r : CipherReq) (s : State) (s' : State) (ht : execGcmData r s = .next s') :
    kept butOnchipCipher s' = kept butOnchipCipher s := by
  unfold execGcmData at ht
  obtain rfl | ht := onLive_next ht
  · simp
  try dsimp only at ht
  subst ht
  simp

theorem execGcmClose_keeps (r : CipherReq) (s : State) (s' : State) (ht : execGcmClose r s = .next s') :
    kept butOnchipCipher s' = kept butOnchipCipher s := by
  unfold execGcmClose at ht
  obtain rfl | ht := onLive_next ht
  · simp
  try dsimp only at ht
  subst ht
  simp

theorem execRawEncrypt_keeps (r : CipherReq) (s : State) (s' : State) (ht : execRawEncrypt r s = .next s') :
    kept butOnchipCipher s' = kept butOnchipCipher s := by
  unfold execRawEncrypt at ht
  obtain rfl | ht := onLive_next ht
  · simp
  try dsimp only at ht
  subst ht
  simp

theorem execRawDecrypt_keeps (r : CipherReq) (s : State) (s' : State) (ht : execRawDecrypt r s = .next s') :
    kept butOnchipCipher s' = kept butOnchipCipher s := by
  unfold execRawDecrypt at ht
  obtain rfl | ht := onLive_next ht
  · simp
  try dsimp only at ht
  subst ht
  simp

theorem execKeySlotFill_keeps (index : Nat) (gen : Nat) (s : State) (s' : State) (ht : execKeySlotFill index gen s = .next s') :
    kept butOnchipCipher s' = kept butOnchipCipher s := by
  unfold execKeySlotFill at ht
  obtain rfl | ht := onLive_next ht
  · simp
  try dsimp only at ht
  subst ht
  (repeat' split) <;> simp

@[simp] theorem dgsBusy_keeps (agent : Nat) (context : Nat) (s : State) {msk : Nat} :
    kept msk (dgsBusy agent context s) = kept msk s := by
  simp [dgsBusy]

theorem execDgsAlloc_keeps (agent : Nat) (s : State) (s' : State) (ht : execDgsAlloc agent s = .next s') :
    kept butCipher s' = kept butCipher s := by
  unfold execDgsAlloc at ht
  obtain rfl | ht := onLive_next ht
  · simp
  try dsimp only at ht
  subst ht
  (repeat' split) <;> simp

@[simp] theorem withDgs_keeps (agent : Nat) (n : Nat) (f : DgsCtx → State → State) (s : State) {msk : Nat} (h0 : ∀ x0 x1, kept msk (f x0 x1) = kept msk x1) :
    kept msk (withDgs agent n f s) = kept msk s := by
  unfold withDgs <;> (repeat' split) <;> simp [h0]

theorem execDgsCtxOpen_keeps (agent : Nat) (n : Fin 8) (v : DgsCtrl) (key : W32) (dest : BitVec 12) (s : State) (s' : State) (ht : execDgsCtxOpen agent n v key dest s = .next s') :
    kept butCipher s' = kept butCipher s := by
  unfold execDgsCtxOpen at ht
  obtain rfl | ht := onLive_next ht
  · simp
  try dsimp only at ht
  subst ht
  (repeat' split) <;> simp

theorem execDgsCtxClose_keeps (agent : Nat) (n : Fin 8) (s : State) (s' : State) (ht : execDgsCtxClose agent n s = .next s') :
    kept butCipher s' = kept butCipher s := by
  unfold execDgsCtxClose at ht
  obtain rfl | ht := onLive_next ht
  · simp
  try dsimp only at ht
  subst ht
  simp

@[simp] theorem State_modDgs_keeps (s : State) (n : Nat) (c : DgsCtx) {msk : Nat} (hm : butCipher &&& msk = butCipher) :
    kept msk (State.modDgs s n c) = kept msk s := by
  refine kept_mono hm ?_
  simp [State.modDgs]

theorem execDgsCtxLengthWrite_keeps (agent : Nat) (n : Fin 8) (len : W64) (s : State) (s' : State) (ht : execDgsCtxLengthWrite agent n len s = .next s') :
    kept butCipher s' = kept butCipher s := by
  unfold execDgsCtxLengthWrite at ht
  obtain rfl | ht := onLive_next ht
  · simp
  try dsimp only at ht
  subst ht
  simp

@[simp] theorem dgsFinish_keeps (n : Nat) (c : DgsCtx) (s : State) {msk : Nat} (hm : butCipher &&& msk = butCipher) :
    kept msk (dgsFinish n c s) = kept msk s := by
  refine kept_mono hm ?_
  unfold dgsFinish
  (repeat' split) <;> simp

theorem execDgsDataPortWrite_keeps (agent : Nat) (n : Fin 8) (data : List Byte) (s : State) (s' : State) (ht : execDgsDataPortWrite agent n data s = .next s') :
    kept butCipher s' = kept butCipher s := by
  unfold execDgsDataPortWrite at ht
  obtain rfl | ht := onLive_next ht
  · simp
  try dsimp only at ht
  subst ht
  (repeat' split) <;> simp

theorem execDgsCtxCmp_keeps (agent : Nat) (n : Fin 8) (expect : List Byte) (s : State) (s' : State) (ht : execDgsCtxCmp agent n expect s = .next s') :
    kept butCipher s' = kept butCipher s := by
  unfold execDgsCtxCmp at ht
  obtain rfl | ht := onLive_next ht
  · simp
  try dsimp only at ht
  subst ht
  simp

@[simp] theorem ecdsaStart_keeps (agent : Nat) (op : BitVec 2) (operands : List Byte) (s : State) {msk : Nat} (hm : butCipher &&& msk = butCipher) :
    kept msk (ecdsaStart agent op operands s) = kept msk s := by
  refine kept_mono hm ?_
  simp [ecdsaStart]

theorem execDgsEcdsaVerify_keeps (agent : Nat) (operands : List Byte) (s : State) (s' : State) (ht : execDgsEcdsaVerify agent operands s = .next s') :
    kept butCipher s' = kept butCipher s := by
  unfold execDgsEcdsaVerify at ht
  obtain rfl | ht := onLive_next ht
  · simp
  try dsimp only at ht
  subst ht
  simp

theorem execDgsEcdsaSign_keeps (agent : Nat) (operands : List Byte) (s : State) (s' : State) (ht : execDgsEcdsaSign agent operands s = .next s') :
    kept butCipher s' = kept butCipher s := by
  unfold execDgsEcdsaSign at ht
  obtain rfl | ht := onLive_next ht
  · simp
  try dsimp only at ht
  subst ht
  simp

theorem execEcdsaOperationDone_keeps (s : State) (s' : State) (ht : execEcdsaOperationDone s = .next s') :
    kept butCipher s' = kept butCipher s := by
  unfold execEcdsaOperationDone at ht
  obtain rfl | ht := onLive_next ht
  · simp
  try dsimp only at ht
  subst ht
  simp

/-! ## Hedgerow -/

@[simp] theorem createPool_keeps (pool : Nat) (k : Nat) (m : Nat) (mods : List Nat) (s : State) {msk : Nat} :
    kept msk (createPool pool k m mods s) = kept msk s := by
  simp [createPool]

theorem execPoolCreate_keeps (h : MbxHdr) (pool : Byte) (k : Byte) (m : Byte) (map : BitVec 96) (s : State) (s' : State) (ht : execPoolCreate h pool k m map s = .next s') :
    kept 0 s' = kept 0 s := by
  unfold execPoolCreate at ht
  obtain rfl | ht := onRun_next ht
  · simp
  try dsimp only at ht
  subst ht
  first | (simp; done) | (refine mbxStart_keeps _ _ _ _ _ (fun y0 => ?_) <;> (try dsimp only) <;> first | (simp; done) | ((repeat' split) <;> simp; done))

theorem execPoolDelete_keeps (h : MbxHdr) (pool : Byte) (s : State) (s' : State) (ht : execPoolDelete h pool s = .next s') :
    kept 0 s' = kept 0 s := by
  unfold execPoolDelete at ht
  obtain rfl | ht := onRun_next ht
  · simp
  try dsimp only at ht
  subst ht
  first | (simp; done) | ((first | refine tryDo_keeps _ _ _ (fun y0 => ?_) | refine mbxStart_keeps _ _ _ _ _ (fun y0 => ?_)) <;> (try dsimp only) <;> first | (simp; done) | ((repeat' split) <;> simp; done) | ((first | refine tryDo_keeps _ _ _ (fun y0 => ?_) | refine mbxStart_keeps _ _ _ _ _ (fun y0 => ?_)) <;> (try dsimp only) <;> (repeat' split) <;> simp; done))

@[simp] theorem trimModule_keeps (n : Nat) (s : State) {msk : Nat} :
    kept msk (trimModule n s) = kept msk s := by
  simp [trimModule]

theorem execMemberTrimDone_keeps (module : Fin 96) (s : State) (s' : State) (ht : execMemberTrimDone module s = .next s') :
    kept 0 s' = kept 0 s := by
  unfold execMemberTrimDone at ht
  obtain rfl | ht := onRun_next ht
  · simp
  try dsimp only at ht
  subst ht
  (repeat' split) <;> simp

theorem execPoolQuery_keeps (h : MbxHdr) (pool : Byte) (s : State) (s' : State) (ht : execPoolQuery h pool s = .next s') :
    kept 0 s' = kept 0 s := by
  unfold execPoolQuery at ht
  obtain rfl | ht := onRun_next ht
  · simp
  try dsimp only at ht
  subst ht
  simp

theorem execPoolModuleAdd_keeps (h : MbxHdr) (pool : Byte) (map : BitVec 96) (s : State) (s' : State) (ht : execPoolModuleAdd h pool map s = .next s') :
    kept 0 s' = kept 0 s := by
  unfold execPoolModuleAdd at ht
  obtain rfl | ht := onRun_next ht
  · simp
  try dsimp only at ht
  subst ht
  first | (simp; done) | ((first | refine tryDo_keeps _ _ _ (fun y0 => ?_) | refine mbxStart_keeps _ _ _ _ _ (fun y0 => ?_)) <;> (try dsimp only) <;> first | (simp; done) | ((repeat' split) <;> simp; done) | ((first | refine tryDo_keeps _ _ _ (fun y0 => ?_) | refine mbxStart_keeps _ _ _ _ _ (fun y0 => ?_)) <;> (try dsimp only) <;> (repeat' split) <;> simp; done))

theorem execPoolReshape_keeps (h : MbxHdr) (pool : Byte) (k : Byte) (m : Byte) (map : BitVec 96) (s : State) (s' : State) (ht : execPoolReshape h pool k m map s = .next s') :
    kept 0 s' = kept 0 s := by
  unfold execPoolReshape at ht
  obtain rfl | ht := onRun_next ht
  · simp
  try dsimp only at ht
  subst ht
  first | (simp; done) | ((first | refine tryDo_keeps _ _ _ (fun y0 => ?_) | refine mbxStart_keeps _ _ _ _ _ (fun y0 => ?_)) <;> (try dsimp only) <;> first | (simp; done) | ((repeat' split) <;> simp; done) | ((first | refine tryDo_keeps _ _ _ (fun y0 => ?_) | refine mbxStart_keeps _ _ _ _ _ (fun y0 => ?_)) <;> (try dsimp only) <;> (repeat' split) <;> simp; done))

theorem execModuleQuery_keeps (h : MbxHdr) (module : Byte) (s : State) (s' : State) (ht : execModuleQuery h module s = .next s') :
    kept 0 s' = kept 0 s := by
  unfold execModuleQuery at ht
  obtain rfl | ht := onRun_next ht
  · simp
  try dsimp only at ht
  subst ht
  simp

theorem execModuleRetire_keeps (h : MbxHdr) (module : Byte) (s : State) (s' : State) (ht : execModuleRetire h module s = .next s') :
    kept butNsRepls s' = kept butNsRepls s := by
  unfold execModuleRetire at ht
  obtain rfl | ht := onRun_next ht
  · simp
  try dsimp only at ht
  subst ht
  first | (simp; done) | (refine mbxStart_keeps _ _ _ _ _ (fun y0 => ?_) <;> (try dsimp only) <;> first | (simp; done) | ((repeat' split) <;> simp; done))

theorem execMemberFailed_keeps (module : Fin 96) (s : State) (s' : State) (ht : execMemberFailed module s = .next s') :
    kept butNsRepls s' = kept butNsRepls s := by
  unfold execMemberFailed at ht
  obtain rfl | ht := onRun_next ht
  · simp
  try dsimp only at ht
  subst ht
  (repeat' split) <;> simp

@[simp] theorem copyOver_keeps (p : Pool) (l : Layout) (key : Nat) (pool : Nat) (urgent : Bool) (idle : Bool) (s : State) (x : Nat × Nat × Nat × PageUse) {msk : Nat} (hm : butGov &&& msk = butGov) :
    kept msk (copyOver p l key pool urgent idle s x) = kept msk s := by
  refine kept_mono hm ?_
  unfold copyOver
  (repeat' split) <;> simp

@[simp] theorem feedJob_keeps (urgent : Bool) (idle : Bool) (n : Nat) (a0 : Nat) (a1 : State) {msk : Nat} (hm : butGov &&& msk = butGov) :
    kept msk (feedJob urgent idle n a0 a1) = kept msk a1 := by
  refine kept_mono hm ?_
  induction a0 generalizing a1 with
  | zero => simp [feedJob]
  | succ m ih =>
    unfold feedJob
    (repeat' split) <;> simp [ih]

@[simp] theorem admitWrites_keeps (pool : Nat) (urgent : Bool) (idle : Bool) (a0 : List (Nat × Nat × Nat × PageUse)) (a1 : State) {msk : Nat} (hm : butGov &&& msk = butGov) :
    kept msk ((admitWrites pool urgent idle a0 a1).2) = kept msk a1 := by
  refine kept_mono hm ?_
  induction a0 generalizing a1 with
  | nil => simp [admitWrites]
  | cons x l ih =>
    unfold admitWrites
    (repeat' split) <;> simp [ih]

@[simp] theorem reconstruct_keeps (p : Pool) (l : Layout) (key : Nat) (pool : Nat) (urgent : Bool) (idle : Bool) (work : List (Nat × Nat × Nat × PageUse)) (s : State) {msk : Nat} (hm : butGov &&& msk = butGov) :
    kept msk (reconstruct p l key pool urgent idle work s) = kept msk s := by
  refine kept_mono hm ?_
  unfold reconstruct
  (repeat' split) <;> simp

theorem execRebuildSegment_keeps (pool : Fin 8) (seg : Nat) (idle : Bool) (s : State) (s' : State) (ht : execRebuildSegment pool seg idle s = .next s') :
    kept butNsGov s' = kept butNsGov s := by
  unfold execRebuildSegment at ht
  obtain rfl | ht := onRun_next ht
  · simp
  try dsimp only at ht
  subst ht
  (repeat' split) <;> first | (simp; done) | (first | (simp; done) | (refine govRun_keeps _ _ _ _ (by simp) (fun y0 => ?_) <;> (try dsimp only) <;> (repeat' split) <;> simp; done))

@[simp] theorem releaseSeg_keeps (pool : Nat) (key : Nat) (s : State) {msk : Nat} :
    kept msk (releaseSeg pool key s) = kept msk s := by
  simp [releaseSeg]

theorem execSegmentRelease_keeps (pool : Fin 8) (seg : Nat) (s : State) (s' : State) (ht : execSegmentRelease pool seg s = .next s') :
    kept 0 s' = kept 0 s := by
  unfold execSegmentRelease at ht
  obtain rfl | ht := onRun_next ht
  · simp
  try dsimp only at ht
  subst ht
  (repeat' split) <;> simp

@[simp] theorem rewritePages_keeps (pool : Nat) (seg : Nat) (s : State) {msk : Nat} :
    kept msk (rewritePages pool seg s) = kept msk s := by
  simp [rewritePages]

theorem execTopiaryMove_keeps (pool : Fin 8) (seg : Nat) (idle : Bool) (s : State) (s' : State) (ht : execTopiaryMove pool seg idle s = .next s') :
    kept butGov s' = kept butGov s := by
  unfold execTopiaryMove at ht
  obtain rfl | ht := onRun_next ht
  · simp
  try dsimp only at ht
  subst ht
  (repeat' split) <;> first | (simp; done) | (first | (simp; done) | (refine govRun_keeps _ _ _ _ (by simp) (fun y0 => ?_) <;> (try dsimp only) <;> (repeat' split) <;> simp; done))

theorem execReshapeSwitchOver_keeps (pool : Fin 8) (s : State) (s' : State) (ht : execReshapeSwitchOver pool s = .next s') :
    kept 0 s' = kept 0 s := by
  unfold execReshapeSwitchOver at ht
  obtain rfl | ht := onRun_next ht
  · simp
  try dsimp only at ht
  subst ht
  (repeat' split) <;> simp

/-! ## SnapOps -/

@[simp] theorem treeGone_keeps (pool : Nat) (map : Tbl MapEnt) (before : State) (s : State) {msk : Nat} (hm : butNs &&& msk = butNs) :
    kept msk (treeGone pool map before s) = kept msk s := by
  refine kept_mono hm ?_
  simp [treeGone]

@[simp] theorem copyPoison_keeps (nsid : Nat) (ep : Option Nat) (nsid2 : Nat) (ep2 : Option Nat) (s : State) {msk : Nat} :
    kept msk (copyPoison nsid ep nsid2 ep2 s) = kept msk s := by
  simp [copyPoison]

@[simp] theorem cutSnapshot_keeps (n : Nat) (nsid : Nat) (held : Bool) (s : State) {msk : Nat} (hm : butNs &&& msk = butNs) :
    kept msk ((cutSnapshot n nsid held s).2) = kept msk s := by
  refine kept_mono hm ?_
  unfold cutSnapshot
  (repeat' split) <;> simp

@[simp] theorem dropView_keeps (e : Nat) (s : State) {msk : Nat} (hm : butNs &&& msk = butNs) :
    kept msk (dropView e s) = kept msk s := by
  refine kept_mono hm ?_
  unfold dropView
  (repeat' split) <;> simp

@[simp] theorem dropViewOpt_keeps (e : Option Nat) (s : State) {msk : Nat} (hm : butNs &&& msk = butNs) :
    kept msk (dropViewOpt e s) = kept msk s := by
  refine kept_mono hm ?_
  unfold dropViewOpt
  (repeat' split) <;> simp

@[simp] theorem cutRepl_keeps (rel : Nat) (e : Nat) (s : State) {msk : Nat} (hm : butNetNsReplsCluster &&& msk = butNetNsReplsCluster) :
    kept msk (cutRepl rel e s) = kept msk s := by
  refine kept_mono hm ?_
  unfold cutRepl
  (repeat' split) <;> simp

@[simp] theorem runJob_keeps (n : Nat) (s : State) {msk : Nat} (hm : butNetNsReplsClusterCipher &&& msk = butNetNsReplsClusterCipher) :
    kept msk (runJob n s) = kept msk s := by
  refine kept_mono hm ?_
  unfold runJob
  (repeat' split) <;> simp

theorem execPrivetLockGrant_keeps (n : Nat) (s : State) (s' : State) (ht : execPrivetLockGrant n s = .next s') :
    kept butNetNsReplsClusterCipher s' = kept butNetNsReplsClusterCipher s := by
  unfold execPrivetLockGrant at ht
  obtain rfl | ht := onRun_next ht
  · simp
  try dsimp only at ht
  subst ht
  (repeat' split) <;> simp

@[simp] theorem lockJob_keeps (nsid : Nat) (first : Nat) (last : Nat) (slice : Nat) (j : LockJob) (s : State) {msk : Nat} :
    kept msk ((lockJob nsid first last slice j s).2.2) = kept msk s := by
  unfold lockJob
  (repeat' split) <;> simp

@[simp] theorem dropViews_keeps (a0 : List Nat) (a1 : State) {msk : Nat} (hm : butNs &&& msk = butNs) :
    kept msk (dropViews a0 a1) = kept msk a1 := by
  refine kept_mono hm ?_
  induction a0 generalizing a1 with
  | nil => simp [dropViews]
  | cons x l ih => simp [dropViews, ih]

@[simp] theorem startCut_keeps (rel : Nat) (nsid : Nat) (s : State) {msk : Nat} (hm : butNetNsReplsClusterCipher &&& msk = butNetNsReplsClusterCipher) :
    kept msk (startCut rel nsid s) = kept msk s := by
  refine kept_mono hm ?_
  unfold startCut
  (repeat' split) <;> simp

@[simp] theorem startCycle_keeps (rel : Nat) (s : State) {msk : Nat} (hm : butNetNsReplsClusterCipher &&& msk = butNetNsReplsClusterCipher) :
    kept msk (startCycle rel s) = kept msk s := by
  refine kept_mono hm ?_
  unfold startCycle
  (repeat' split) <;> simp

@[simp] theorem dropCycle_keeps (rel : Nat) (s : State) {msk : Nat} (hm : butNsRepls &&& msk = butNsRepls) :
    kept msk (dropCycle rel s) = kept msk s := by
  refine kept_mono hm ?_
  unfold dropCycle
  (repeat' split) <;> simp

@[simp] theorem resumeRepls_keeps (a0 : List (Nat × Repl)) (a1 : State) {msk : Nat} (hm : butNetNsReplsClusterCipher &&& msk = butNetNsReplsClusterCipher) :
    kept msk (resumeRepls a0 a1) = kept msk a1 := by
  refine kept_mono hm ?_
  induction a0 generalizing a1 with
  | nil => simp [resumeRepls]
  | cons x l ih => simp [resumeRepls, ih]

/-! ## Volumes -/

@[simp] theorem tellNsChanged_keeps (slice : Nat) (nsid : Nat) (s : State) {msk : Nat} :
    kept msk (tellNsChanged slice nsid s) = kept msk s := by
  simp [tellNsChanged]

theorem execVolumeCreate_keeps (h : MbxHdr) (nsid : W32) (slice : W16) (pool : Byte) (unit : Byte) (size : W64) (compress : Byte) (level : Byte) (key : W32) (s : State) (s' : State) (ht : execVolumeCreate h nsid slice pool unit size compress level key s = .next s') :
    kept butNsCipher s' = kept butNsCipher s := by
  unfold execVolumeCreate at ht
  obtain rfl | ht := onRun_next ht
  · simp
  try dsimp only at ht
  subst ht
  refine mbxStart_keeps _ _ _ _ _ (fun x => ?_)
  refine tryDo_keeps _ _ _ (fun y => ?_)
  simp

@[simp] theorem dropNsWork_keeps (nsid : Nat) (s : State) {msk : Nat} :
    kept msk (dropNsWork nsid s) = kept msk s := by
  simp [dropNsWork]

@[simp] theorem removeVolume_keeps (n : Nat) (v : Ns) (s : State) {msk : Nat} (hm : butNsRepls &&& msk = butNsRepls) :
    kept msk (removeVolume n v s) = kept msk s := by
  refine kept_mono hm ?_
  simp [removeVolume]

@[simp] theorem deleteVolume_keeps (n : Nat) (v : Ns) (s : State) {msk : Nat} (hm : butNsRepls &&& msk = butNsRepls) :
    kept msk (deleteVolume n v s) = kept msk s := by
  refine kept_mono hm ?_
  simp [deleteVolume]

theorem execVolumeDelete_keeps (h : MbxHdr) (nsid : W32) (s : State) (s' : State) (ht : execVolumeDelete h nsid s = .next s') :
    kept butNsRepls s' = kept butNsRepls s := by
  unfold execVolumeDelete at ht
  obtain rfl | ht := onRun_next ht
  · simp
  try dsimp only at ht
  subst ht
  first | (simp; done) | ((first | refine tryDo_keeps _ _ _ (fun y0 => ?_) | refine mbxStart_keeps _ _ _ _ _ (fun y0 => ?_)) <;> (try dsimp only) <;> first | (simp; done) | ((repeat' split) <;> simp; done) | ((first | refine tryDo_keeps _ _ _ (fun y0 => ?_) | refine mbxStart_keeps _ _ _ _ _ (fun y0 => ?_)) <;> (try dsimp only) <;> (repeat' split) <;> simp; done))

@[simp] theorem shrinkHere_keeps (n : Nat) (size : Nat) (v : Ns) (s : State) {msk : Nat} (hm : butNetNsReplsClusterCipher &&& msk = butNetNsReplsClusterCipher) :
    kept msk (shrinkHere n size v s) = kept msk s := by
  refine kept_mono hm ?_
  simp [shrinkHere]

@[simp] theorem resizeVolume_keeps (n : Nat) (size : Nat) (s : State) {msk : Nat} (hm : butNetNsReplsClusterCipher &&& msk = butNetNsReplsClusterCipher) :
    kept msk ((resizeVolume n size s).2) = kept msk s := by
  refine kept_mono hm ?_
  unfold resizeVolume
  try dsimp only
  (repeat' split) <;> first | (simp; done) | (rcases Prod.ext_iff.mp ‹_ = (_, _)› with ⟨rfl, -⟩; simp; done) | (rcases Prod.ext_iff.mp ‹_ = (_, _)› with ⟨-, rfl⟩; simp; done) | (simp_all; done)

theorem execVolumeResize_keeps (h : MbxHdr) (nsid : W32) (size : W64) (s : State) (s' : State) (ht : execVolumeResize h nsid size s = .next s') :
    kept butNetNsReplsClusterCipher s' = kept butNetNsReplsClusterCipher s := by
  unfold execVolumeResize at ht
  obtain rfl | ht := onRun_next ht
  · simp
  try dsimp only at ht
  subst ht
  first | (simp; done) | (refine mbxStart_keeps _ _ _ _ _ (fun y0 => ?_) <;> (try dsimp only) <;> first | (simp; done) | ((repeat' split) <;> simp; done))

theorem execVolumeQuery_keeps (h : MbxHdr) (nsid : W32) (s : State) (s' : State) (ht : execVolumeQuery h nsid s = .next s') :
    kept 0 s' = kept 0 s := by
  unfold execVolumeQuery at ht
  obtain rfl | ht := onRun_next ht
  · simp
  try dsimp only at ht
  subst ht
  first | (simp; done) | (refine mbxStart_keeps _ _ _ _ _ (fun y0 => ?_) <;> (try dsimp only) <;> first | (simp; done) | ((repeat' split) <;> simp; done))

@[simp] theorem cutHere_keeps (n : Nat) (why : CutFor) (v : Ns) (s : State) {msk : Nat} (hm : butNetNsReplsClusterCipher &&& msk = butNetNsReplsClusterCipher) :
    kept msk (cutHere n why v s) = kept msk s := by
  refine kept_mono hm ?_
  simp [cutHere]

theorem execSnapshotCreate_keeps (h : MbxHdr) (nsid : W32) (s : State) (s' : State) (ht : execSnapshotCreate h nsid s = .next s') :
    kept butNs s' = kept butNs s := by
  unfold execSnapshotCreate at ht
  obtain rfl | ht := onRun_next ht
  · simp
  try dsimp only at ht
  subst ht
  first | (simp; done) | (refine mbxStart_keeps _ _ _ _ _ (fun y0 => ?_) <;> (try dsimp only) <;> first | (simp; done) | ((repeat' split) <;> simp; done))

@[simp] theorem cutLate_keeps (nsid : Nat) (why : CutFor) (since : Nat) (s : State) {msk : Nat} (hm : butNsRepls &&& msk = butNsRepls) :
    kept msk (cutLate nsid why since s) = kept msk s := by
  refine kept_mono hm ?_
  unfold cutLate
  (repeat' split) <;> simp

theorem execSnapshotCutTimeout_keeps (n : Nat) (s : State) (s' : State) (ht : execSnapshotCutTimeout n s = .next s') :
    kept butNsRepls s' = kept butNsRepls s := by
  unfold execSnapshotCutTimeout at ht
  obtain rfl | ht := onRun_next ht
  · simp
  try dsimp only at ht
  subst ht
  (repeat' split) <;> simp

theorem execSnapshotDelete_keeps (h : MbxHdr) (nsid : W32) (epoch : W64) (s : State) (s' : State) (ht : execSnapshotDelete h nsid epoch s = .next s') :
    kept butNs s' = kept butNs s := by
  unfold execSnapshotDelete at ht
  obtain rfl | ht := onRun_next ht
  · simp
  try dsimp only at ht
  subst ht
  first | (simp; done) | (refine mbxStart_keeps _ _ _ _ _ (fun y0 => ?_) <;> (try dsimp only) <;> first | (simp; done) | ((repeat' split) <;> simp; done))

@[simp] theorem cloneFrom_keeps (src : Nat) (new : Nat) (epoch : Nat) (v : Ns) (w : Snap) (s : State) {msk : Nat} (hm : butNs &&& msk = butNs) :
    kept msk (cloneFrom src new epoch v w s) = kept msk s := by
  refine kept_mono hm ?_
  simp [cloneFrom]

theorem execCloneCreate_keeps (h : MbxHdr) (src : W32) (new : W32) (epoch : W64) (s : State) (s' : State) (ht : execCloneCreate h src new epoch s = .next s') :
    kept butNs s' = kept butNs s := by
  unfold execCloneCreate at ht
  obtain rfl | ht := onRun_next ht
  · simp
  try dsimp only at ht
  subst ht
  first | (simp; done) | (refine mbxStart_keeps _ _ _ _ _ (fun y0 => ?_) <;> (try dsimp only) <;> first | (simp; done) | ((repeat' split) <;> simp; done))

/-! ## Slices -/

@[simp] theorem createSlice_keeps (slice : Nat) (tenant : Bool) (bind : Nat) (qp : Nat) (ns : Nat) (base : Nat) (count : Nat) (s : State) {msk : Nat} :
    kept msk (createSlice slice tenant bind qp ns base count s) = kept msk s := by
  unfold createSlice
  try dsimp only
  (repeat' split) <;> first | (simp; done) | (rcases Prod.ext_iff.mp ‹_ = (_, _)› with ⟨rfl, -⟩; simp; done) | (rcases Prod.ext_iff.mp ‹_ = (_, _)› with ⟨-, rfl⟩; simp; done) | (simp_all; done)

theorem execSliceCreate_keeps (h : MbxHdr) (slice : W16) (bindType : Byte) (bind : W32) (qp : W32) (ns : W32) (s : State) (s' : State) (ht : execSliceCreate h slice bindType bind qp ns s = .next s') :
    kept 0 s' = kept 0 s := by
  unfold execSliceCreate at ht
  obtain rfl | ht := onRun_next ht
  · simp
  try dsimp only at ht
  subst ht
  simp

theorem execSliceResize_keeps (h : MbxHdr) (slice : W16) (qp : W32) (ns : W32) (permille : W16) (s : State) (s' : State) (ht : execSliceResize h slice qp ns permille s = .next s') :
    kept 0 s' = kept 0 s := by
  unfold execSliceResize at ht
  obtain rfl | ht := onRun_next ht
  · rfl
  try dsimp only at ht
  subst ht
  refine mbxStart_keeps _ _ _ _ _ (fun y0 => ?_)
  (repeat' split) <;> simp

@[simp] theorem removeCmd_keeps (id : Nat) (s : State) {msk : Nat} (hm : butNetCipher &&& msk = butNetCipher) :
    kept msk (removeCmd id s) = kept msk s := by
  refine kept_mono hm ?_
  simp [removeCmd]

@[simp] theorem squashCmd_keeps (id : Nat) (c : Inflight) (s : State) {msk : Nat} (hm : butNetCipher &&& msk = butNetCipher) :
    kept msk (squashCmd id c s) = kept msk s := by
  refine kept_mono hm ?_
  unfold squashCmd
  (repeat' split) <;> simp

@[simp] theorem squashAll_keeps (a0 : List (Nat × Inflight)) (a1 : State) {msk : Nat} (hm : butNetCipher &&& msk = butNetCipher) :
    kept msk (squashAll a0 a1) = kept msk a1 := by
  refine kept_mono hm ?_
  induction a0 generalizing a1 with
  | nil => simp [squashAll]
  | cons x l ih => simp [squashAll, ih]

@[simp] theorem muteAll_keeps (ids : List Nat) (s : State) {msk : Nat} :
    kept msk (muteAll ids s) = kept msk s := by
  simp [muteAll]

@[simp] theorem squashSlice_keeps (slice : Nat) (s : State) {msk : Nat} (hm : butNetCipher &&& msk = butNetCipher) :
    kept msk (squashSlice slice s) = kept msk s := by
  refine kept_mono hm ?_
  simp [squashSlice]

@[simp] theorem discardPosted_keeps (slice : Nat) (s : State) {msk : Nat} :
    kept msk (discardPosted slice s) = kept msk s := by
  simp [discardPosted]

@[simp] theorem startReset_keeps (slice : Nat) (r : SliceRun) (s : State) {msk : Nat} (hm : butNetCipher &&& msk = butNetCipher) :
    kept msk (startReset slice r s) = kept msk s := by
  refine kept_mono hm ?_
  simp [startReset]

theorem execSliceReset_keeps (h : MbxHdr) (slice : W16) (mode : Byte) (s : State) (s' : State) (ht : execSliceReset h slice mode s = .next s') :
    kept butNetCipher s' = kept butNetCipher s := by
  unfold execSliceReset at ht
  obtain rfl | ht := onRun_next ht
  · simp
  try dsimp only at ht
  subst ht
  (repeat' split) <;> first | (simp; done) | (simp_all; done) | first | (simp; done) | (simp_all; done) | grind [mbxStart_keeps, finishReset_keeps, startReset_keeps]

theorem execSliceResetDrainTimeout_keeps (slice : Fin 4096) (s : State) (s' : State) (ht : execSliceResetDrainTimeout slice s = .next s') :
    kept butNetCipher s' = kept butNetCipher s := by
  unfold execSliceResetDrainTimeout at ht
  obtain rfl | ht := onRun_next ht
  · simp
  try dsimp only at ht
  subst ht
  (repeat' split) <;> simp

theorem execSliceDelete_keeps (h : MbxHdr) (slice : W16) (s : State) (s' : State) (ht : execSliceDelete h slice s = .next s') :
    kept butNetCipher s' = kept butNetCipher s := by
  unfold execSliceDelete at ht
  obtain rfl | ht := onRun_next ht
  · rfl
  try dsimp only at ht
  subst ht
  refine (finishReset_keeps _ _ (by simp)).trans (mbxStart_keeps _ _ _ _ _ (fun y => ?_))
  (repeat' split) <;> simp

theorem execSliceDirtyLogStart_keeps (h : MbxHdr) (slice : W16) (op : Byte) (s : State) (s' : State) (ht : execSliceDirtyLogStart h slice op s = .next s') :
    kept 0 s' = kept 0 s := by
  unfold execSliceDirtyLogStart at ht
  obtain rfl | ht := onRun_next ht
  · simp
  try dsimp only at ht
  subst ht
  first | (simp; done) | (refine mbxStart_keeps _ _ _ _ _ (fun y0 => ?_) <;> (try dsimp only) <;> first | (simp; done) | ((repeat' split) <;> simp; done))

theorem execSliceDirtyLogHarvest_keeps (h : MbxHdr) (slice : W16) (addr : W64) (len : W32) (ok : Bool) (s : State) (s' : State) (ht : execSliceDirtyLogHarvest h slice addr len ok s = .next s') :
    kept 0 s' = kept 0 s := by
  unfold execSliceDirtyLogHarvest at ht
  obtain rfl | ht := onRun_next ht
  · simp
  try dsimp only at ht
  subst ht
  first | (simp; done) | (refine mbxStart_keeps _ _ _ _ _ (fun y0 => ?_) <;> (try dsimp only) <;> first | (simp; done) | ((repeat' split) <;> simp; done))

@[simp] theorem dirtyStopBody_keeps (n : Nat) (addr : W64) (len : Nat) (late : Bool) (ok : Bool) (s : State) {msk : Nat} :
    kept msk ((dirtyStopBody n addr len late ok s).2) = kept msk s := by
  unfold dirtyStopBody
  (repeat' split) <;> simp

theorem execSliceDirtyLogStop_keeps (h : MbxHdr) (slice : W16) (addr : W64) (len : W32) (late : Bool) (ok : Bool) (s : State) (s' : State) (ht : execSliceDirtyLogStop h slice addr len late ok s = .next s') :
    kept 0 s' = kept 0 s := by
  unfold execSliceDirtyLogStop at ht
  obtain rfl | ht := onRun_next ht
  · simp
  try dsimp only at ht
  subst ht
  try dsimp only
  (repeat' split) <;> first | (simp; done) | (simp_all; done) | grind [mbxStart_keeps, finishStop_keeps, dirtyStopBody_keeps]

/-! ## PairOps -/

@[simp] theorem setPeerState_keeps (st : PeerSt) (s : State) {msk : Nat} :
    kept msk (setPeerState st s) = kept msk s := by
  simp [setPeerState]

@[simp] theorem setAnas_keeps (st : AnaState) (a0 : List Nat) (a1 : State) {msk : Nat} :
    kept msk (setAnas st a0 a1) = kept msk a1 := by
  induction a0 generalizing st a1 with
  | nil => simp [setAnas]
  | cons x l ih => simp [setAnas, ih]

@[simp] theorem claimAll_keeps (gen : W32) (a0 : List Nat) (a1 : State) {msk : Nat} :
    kept msk (claimAll gen a0 a1) = kept msk a1 := by
  induction a0 generalizing gen a1 with
  | nil => simp [claimAll]
  | cons x l ih => simp [claimAll, ih]

@[simp] theorem claimPool_keeps (pool : Nat) (above : W32) (s : State) {msk : Nat} :
    kept msk (claimPool pool above s) = kept msk s := by
  unfold claimPool
  (repeat' split) <;> simp

@[simp] theorem claimPools_keeps (a0 : List Nat) (a1 : State) {msk : Nat} :
    kept msk (claimPools a0 a1) = kept msk a1 := by
  induction a0 generalizing a1 with
  | nil => simp [claimPools]
  | cons x l ih => simp [claimPools, ih]

@[simp] theorem replayBlocks_keeps (a0 : List (Nat × Nat × Option MapEnt)) (a1 : State) {msk : Nat} (hm : butNs &&& msk = butNs) :
    kept msk (replayBlocks a0 a1) = kept msk a1 := by
  refine kept_mono hm ?_
  induction a0 generalizing a1 with
  | nil => simp [replayBlocks]
  | cons x l ih =>
    unfold replayBlocks
    (repeat' split) <;> simp [ih]

@[simp] theorem addRecs_keeps (a0 : List (Nat × UnitRec)) (a1 : State) {msk : Nat} :
    kept msk (addRecs a0 a1) = kept msk a1 := by
  induction a0 generalizing a1 with
  | nil => simp [addRecs]
  | cons x l ih => simp [addRecs, ih]

@[simp] theorem replayPrints_keeps (recs : List (Nat × UnitRec)) (s : State) {msk : Nat} :
    kept msk (replayPrints recs s) = kept msk s := by
  simp [replayPrints]

@[simp] theorem replayGroup_keeps (g : Group) (s0 : State) {msk : Nat} (hm : butNetNsReplsCluster &&& msk = butNetNsReplsCluster) :
    kept msk (replayGroup g s0) = kept msk s0 := by
  refine kept_mono hm ?_
  simp [replayGroup]

@[simp] theorem replayGroups_keeps (a0 : List (Nat × Group)) (a1 : State) {msk : Nat} (hm : butNetNsReplsCluster &&& msk = butNetNsReplsCluster) :
    kept msk (replayGroups a0 a1) = kept msk a1 := by
  refine kept_mono hm ?_
  induction a0 generalizing a1 with
  | nil => simp [replayGroups]
  | cons x l ih => simp [replayGroups, ih]

@[simp] theorem checkPeerSifs_keeps (pools : List Nat) (a0 : List (Nat × Sif)) (a1 : State) {msk : Nat} :
    kept msk (checkPeerSifs pools a0 a1) = kept msk a1 := by
  induction a0 generalizing pools a1 with
  | nil => simp [checkPeerSifs]
  | cons x l ih => simp [checkPeerSifs, ih]

@[simp] theorem adoptCopies_keeps (tell : Bool) (a0 : List (Nat × Desc)) (a1 : State) {msk : Nat} :
    kept msk ((adoptCopies tell a0 a1).2) = kept msk a1 := by
  induction a0 generalizing a1 with
  | nil => simp [adoptCopies]
  | cons x l ih =>
    unfold adoptCopies
    (repeat' split) <;> simp [ih]

@[simp] theorem renumberPoison_keeps (pools : List Nat) (f : Nat → Nat) (s : State) {msk : Nat} :
    kept msk (renumberPoison pools f s) = kept msk s := by
  simp [renumberPoison]

@[simp] theorem adoptPools_keeps (pools : List Nat) (tell : Bool) (s : State) {msk : Nat} (hm : butNetNsReplsCluster &&& msk = butNetNsReplsCluster) :
    kept msk (adoptPools pools tell s) = kept msk s := by
  refine kept_mono hm ?_
  simp [adoptPools]

@[simp] theorem sifsAlone_keeps (a0 : List (Nat × Sif)) (a1 : State) {msk : Nat} (hm : butRepls &&& msk = butRepls) :
    kept msk (sifsAlone a0 a1) = kept msk a1 := by
  refine kept_mono hm ?_
  induction a0 generalizing a1 with
  | nil => simp [sifsAlone]
  | cons x l ih => simp [sifsAlone, ih]

@[simp] theorem recallForwarded_keeps (a0 : List (Nat × Inflight)) (a1 : State) {msk : Nat} :
    kept msk (recallForwarded a0 a1) = kept msk a1 := by
  induction a0 generalizing a1 with
  | nil => simp [recallForwarded]
  | cons x l ih => simp [recallForwarded, ih]

@[simp] theorem dropForwarded_keeps (s : State) {msk : Nat} (hm : butNetCipher &&& msk = butNetCipher) :
    kept msk (dropForwarded s) = kept msk s := by
  refine kept_mono hm ?_
  simp [dropForwarded]

@[simp] theorem goAlone_keeps (s : State) {msk : Nat} (hm : butNetReplsClusterCipher &&& msk = butNetReplsClusterCipher) :
    kept msk (goAlone s) = kept msk s := by
  refine kept_mono hm ?_
  simp [goAlone]

@[simp] theorem failoverEnds_keeps (s : State) {msk : Nat} :
    kept msk (failoverEnds s) = kept msk s := by
  unfold failoverEnds
  (repeat' split) <;> simp

@[simp] theorem takeShrinks_keeps (pools : List Nat) (a0 : List (Nat × Ns)) (a1 : State) {msk : Nat} (hm : butNetNsReplsClusterCipher &&& msk = butNetNsReplsClusterCipher) :
    kept msk (takeShrinks pools a0 a1) = kept msk a1 := by
  refine kept_mono hm ?_
  induction a0 generalizing a1 with
  | nil => simp [takeShrinks]
  | cons x l ih =>
    unfold takeShrinks
    (repeat' split) <;> simp [ih]

@[simp] theorem forgetPeer_keeps (s : State) {msk : Nat} :
    kept msk (forgetPeer s) = kept msk s := by
  simp [forgetPeer]

@[simp] theorem takeover_keeps (s : State) {msk : Nat} (hm : butNetNsReplsClusterCipher &&& msk = butNetNsReplsClusterCipher) :
    kept msk (takeover s) = kept msk s := by
  refine kept_mono hm ?_
  simp [takeover]

@[simp] theorem peerLost_keeps (s : State) {msk : Nat} (hm : butNetNsReplsClusterCipher &&& msk = butNetNsReplsClusterCipher) :
    kept msk (peerLost s) = kept msk s := by
  refine kept_mono hm ?_
  simp [peerLost]

@[simp] theorem partition_keeps (s : State) {msk : Nat} :
    kept msk (partition s) = kept msk s := by
  simp [partition]

@[simp] theorem releasePool_keeps (pool : Nat) (s : State) {msk : Nat} :
    kept msk (releasePool pool s) = kept msk s := by
  simp [releasePool]

@[simp] theorem givePools_keeps (a0 : List Nat) (a1 : State) {msk : Nat} :
    kept msk (givePools a0 a1) = kept msk a1 := by
  induction a0 generalizing a1 with
  | nil => simp [givePools]
  | cons x l ih =>
    unfold givePools
    (repeat' split) <;> simp [ih]

@[simp] theorem handSettle_keeps (s : State) {msk : Nat} :
    kept msk (handSettle s) = kept msk s := by
  unfold handSettle
  (repeat' split) <;> simp

@[simp] theorem askPools_keeps (a0 : List Nat) (a1 : State) {msk : Nat} :
    kept msk (askPools a0 a1) = kept msk a1 := by
  induction a0 generalizing a1 with
  | nil => simp [askPools]
  | cons x l ih => simp [askPools, ih]

@[simp] theorem startGiving_keeps (pools : List Nat) (s : State) {msk : Nat} :
    kept msk (startGiving pools s) = kept msk s := by
  simp [startGiving]

@[simp] theorem handDone_keeps (pool : Nat) (s : State) {msk : Nat} :
    kept msk (handDone pool s) = kept msk s := by
  unfold handDone
  (repeat' split) <;> simp

@[simp] theorem takePool_keeps (pool : Nat) (gen : W32) (s : State) {msk : Nat} (hm : butNetNsReplsCluster &&& msk = butNetNsReplsCluster) :
    kept msk (takePool pool gen s) = kept msk s := by
  refine kept_mono hm ?_
  simp [takePool]

@[simp] theorem sendCopies_keeps (a0 : List (Nat × Desc)) (a1 : State) {msk : Nat} :
    kept msk (sendCopies a0 a1) = kept msk a1 := by
  induction a0 generalizing a1 with
  | nil => simp [sendCopies]
  | cons x l ih => simp [sendCopies, ih]

@[simp] theorem sendGroups_keeps (a0 : List (Nat × Group)) (a1 : State) {msk : Nat} :
    kept msk (sendGroups a0 a1) = kept msk a1 := by
  induction a0 generalizing a1 with
  | nil => simp [sendGroups]
  | cons x l ih => simp [sendGroups, ih]

@[simp] theorem sendSifs_keeps (a0 : List (Nat × Sif)) (a1 : State) {msk : Nat} :
    kept msk (sendSifs a0 a1) = kept msk a1 := by
  induction a0 generalizing a1 with
  | nil => simp [sendSifs]
  | cons x l ih => simp [sendSifs, ih]

@[simp] theorem startJoining_keeps (s : State) {msk : Nat} :
    kept msk (startJoining s) = kept msk s := by
  simp [startJoining]

@[simp] theorem linkBack_keeps (s : State) {msk : Nat} :
    kept msk (linkBack s) = kept msk s := by
  simp [linkBack]

@[simp] theorem linkGone_keeps (s : State) {msk : Nat} :
    kept msk (linkGone s) = kept msk s := by
  simp [linkGone]

@[simp] theorem checkMirrored_keeps (s : State) {msk : Nat} :
    kept msk (checkMirrored s) = kept msk s := by
  simp [checkMirrored]

@[simp] theorem resendJal_keeps (n : Nat) (a0 : List JalFrame) (a1 : State) {msk : Nat} :
    kept msk (resendJal n a0 a1) = kept msk a1 := by
  induction a0 generalizing n a1 with
  | nil => simp [resendJal]
  | cons x l ih => simp [resendJal, ih]

@[simp] theorem jalAcked_keeps (n : Nat) (ack : Nat) (s : State) {msk : Nat} :
    kept msk (jalAcked n ack s) = kept msk s := by
  simp [jalAcked]

@[simp] theorem jalRetrain_keeps (n : Nat) (s : State) {msk : Nat} :
    kept msk (jalRetrain n s) = kept msk s := by
  simp [jalRetrain]

@[simp] theorem proxyGone_keeps (s : State) {msk : Nat} (hm : butNetNsReplsClusterCipher &&& msk = butNetNsReplsClusterCipher) :
    kept msk (proxyGone s) = kept msk s := by
  refine kept_mono hm ?_
  unfold proxyGone
  try simp
  repeat' first | rfl | (simp; done) | split | refine (kept_foldl _ _ (fun y a => ?_) _ _).trans ?_

@[simp] theorem linkEmpty_keeps (s : State) {msk : Nat} (hm : butNetNsReplsClusterCipher &&& msk = butNetNsReplsClusterCipher) :
    kept msk (linkEmpty s) = kept msk s := by
  refine kept_mono hm ?_
  simp [linkEmpty]

@[simp] theorem subDown_keeps (n : Nat) (s : State) {msk : Nat} (hm : butNetNsReplsClusterCipher &&& msk = butNetNsReplsClusterCipher) :
    kept msk (subDown n s) = kept msk s := by
  refine kept_mono hm ?_
  simp [subDown]

@[simp] theorem subsDown_keeps (a0 : List Nat) (a1 : State) {msk : Nat} (hm : butNetNsReplsClusterCipher &&& msk = butNetNsReplsClusterCipher) :
    kept msk (subsDown a0 a1) = kept msk a1 := by
  refine kept_mono hm ?_
  induction a0 generalizing a1 with
  | nil => simp [subsDown]
  | cons x l ih => simp [subsDown, ih]

@[simp] theorem peerPortDown_keeps (i : Nat) (s : State) {msk : Nat} (hm : butNetNsReplsClusterCipher &&& msk = butNetNsReplsClusterCipher) :
    kept msk (peerPortDown i s) = kept msk s := by
  refine kept_mono hm ?_
  simp [peerPortDown]

@[simp] theorem jalPart_keeps (p : JalPart) (s : State) {msk : Nat} :
    kept msk ((jalPart p s).1) = kept msk s := by
  unfold jalPart
  (try dsimp only) <;> (repeat' split) <;> first | rfl | (simp; done) | ((repeat' split) <;> simp; done) | simp_all

@[simp] theorem jalParts_keeps (a0 : List JalPart) (a1 : State) {msk : Nat} :
    kept msk ((jalParts a0 a1).1) = kept msk a1 := by
  induction a0 generalizing a1 with
  | nil => simp [jalParts]
  | cons x l ih => simp [jalParts, ih]

/-! ## Kamard -/

@[simp] theorem sendHello_keeps (port : Nat) (s : State) {msk : Nat} :
    kept msk (sendHello port s) = kept msk s := by
  simp [sendHello]

theorem execKamardSignalDetect_keeps (port : Fin 96) (oneLane : Bool) (s : State) (s' : State) (ht : execKamardSignalDetect port oneLane s = .next s') :
    kept 0 s' = kept 0 s := by
  unfold execKamardSignalDetect at ht
  obtain rfl | ht := onRun_next ht
  · simp
  try dsimp only at ht
  subst ht
  simp

theorem execKamardAcquireDone_keeps (port : Fin 96) (s : State) (s' : State) (ht : execKamardAcquireDone port s = .next s') :
    kept 0 s' = kept 0 s := by
  unfold execKamardAcquireDone at ht
  obtain rfl | ht := onRun_next ht
  · simp
  try dsimp only at ht
  subst ht
  simp

theorem execKamardAcquireTimeout_keeps (port : Fin 96) (s : State) (s' : State) (ht : execKamardAcquireTimeout port s = .next s') :
    kept butNetNsReplsClusterCipher s' = kept butNetNsReplsClusterCipher s := by
  unfold execKamardAcquireTimeout at ht
  obtain rfl | ht := onRun_next ht
  · simp
  try dsimp only at ht
  subst ht
  simp

theorem execKamardHelloRetry_keeps (port : Fin 96) (s : State) (s' : State) (ht : execKamardHelloRetry port s = .next s') :
    kept butNetNsReplsClusterCipher s' = kept butNetNsReplsClusterCipher s := by
  unfold execKamardHelloRetry at ht
  obtain rfl | ht := onRun_next ht
  · simp
  try dsimp only at ht
  subst ht
  simp

@[simp] theorem freshModule_keeps (n : Nat) (serial : W64) (s : State) {msk : Nat} :
    kept msk (freshModule n serial s) = kept msk s := by
  simp [freshModule]

@[simp] theorem returnedMod_keeps (n : Nat) (s : State) {msk : Nat} :
    kept msk (returnedMod n s) = kept msk s := by
  simp [returnedMod]

@[simp] theorem pushReturned_keeps (n : Nat) (s : State) {msk : Nat} :
    kept msk (pushReturned n s) = kept msk s := by
  simp [pushReturned]

theorem execKamardHelloReply_keeps (port : Fin 96) (version : Nat) (limit : Nat) (serial : W64) (fw : W64) (s : State) (s' : State) (ht : execKamardHelloReply port version limit serial fw s = .next s') :
    kept butNetNsReplsClusterCipher s' = kept butNetNsReplsClusterCipher s := by
  unfold execKamardHelloReply at ht
  obtain rfl | ht := onRun_next ht
  · simp
  try dsimp only at ht
  subst ht
  (repeat' split) <;> simp

theorem execKamardModuleInfoResponse_keeps (port : Fin 96) (tag : Nat) (d : Descr) (temp : Byte) (dieTemp : Byte) (s : State) (s' : State) (ht : execKamardModuleInfoResponse port tag d temp dieTemp s = .next s') :
    kept 0 s' = kept 0 s := by
  unfold execKamardModuleInfoResponse at ht
  obtain rfl | ht := onLive_next ht
  · simp
  try dsimp only at ht
  subst ht
  (repeat' split) <;> first | (simp; done) | (simp_all; done) | first | (simp; done) | (simp_all; done) | grind [State_modK_keeps, State_modMod_keeps, kamAccept_keeps, kamTake_keeps, sendHello_keeps]

theorem execKamardClaimResponse_keeps (port : Fin 96) (tag : Nat) (st : KStatus) (held : W32) (s : State) (s' : State) (ht : execKamardClaimResponse port tag st held s = .next s') :
    kept 0 s' = kept 0 s := by
  unfold execKamardClaimResponse at ht
  obtain rfl | ht := onLive_next ht
  · simp
  try dsimp only at ht
  subst ht
  (repeat' split) <;> first | (simp; done) | (simp_all; done) | first | (simp; done) | (simp_all; done) | grind [bumpK_keeps, ownerFenced_keeps, kamAccept_keeps, kamTake_keeps, kamUp_keeps]

@[simp] theorem proxied_keeps (port : Nat) (st : KStatus) (slots : List KSlot) (r : Option KCmd × State) (s : State) {msk : Nat} (h0 : kept msk r.2 = kept msk s) :
    kept msk (proxied port st slots r s) = kept msk s := by
  unfold proxied
  split
  · simpa using h0
  · rfl

@[simp] theorem sendNak_keeps (port : Nat) (s : State) {msk : Nat} :
    kept msk (sendNak port s) = kept msk s := by
  simp [sendNak]

@[simp] theorem rxFault_keeps (port : Nat) (nak : Bool) (s : State) {msk : Nat} :
    kept msk (rxFault port nak s) = kept msk s := by
  simp [rxFault]

@[simp] theorem frameDropped_keeps (port : Nat) (fault : FrameFault) (s : State) {msk : Nat} :
    kept msk (frameDropped port fault s) = kept msk s := by
  unfold frameDropped
  (repeat' split) <;> simp

theorem execKamardReadResponse_keeps (port : Fin 96) (tag : Nat) (st : KStatus) (slots : List KSlot) (s : State) (s' : State) (ht : execKamardReadResponse port tag st slots s = .next s') :
    kept butNetNsReplsClusterCipher s' = kept butNetNsReplsClusterCipher s := by
  unfold execKamardReadResponse at ht
  obtain rfl | ht := onLive_next ht
  · simp
  try dsimp only at ht
  subst ht
  (repeat' split) <;> first | (simp; done) | (simp_all; done) | first | (simp; done) | (simp_all; done) | grind [kamAccept_keeps, kamTake_keeps, readAnswer_keeps, proxied_keeps]

theorem execKamardProgramResponse_keeps (port : Fin 96) (tag : Nat) (st : KStatus) (temp : Byte) (held : W32) (s : State) (s' : State) (ht : execKamardProgramResponse port tag st temp held s = .next s') :
    kept butNetNsReplsClusterCipher s' = kept butNetNsReplsClusterCipher s := by
  unfold execKamardProgramResponse at ht
  obtain rfl | ht := onLive_next ht
  · simp
  try dsimp only at ht
  subst ht
  (repeat' split) <;> first | (simp; done) | (simp_all; done) | first | (simp; done) | (simp_all; done) | grind [bumpK_keeps, ownerFenced_keeps, kamAccept_keeps, kamTake_keeps, programAnswer_keeps, poolsCreated_keeps, proxied_keeps]

theorem execKamardEraseResponse_keeps (port : Fin 96) (tag : Nat) (st : KStatus) (held : W32) (s : State) (s' : State) (ht : execKamardEraseResponse port tag st held s = .next s') :
    kept butNetNsReplsClusterCipher s' = kept butNetNsReplsClusterCipher s := by
  unfold execKamardEraseResponse at ht
  obtain rfl | ht := onLive_next ht
  · simp
  try dsimp only at ht
  subst ht
  (repeat' split) <;> first | (simp; done) | (simp_all; done) | first | (simp; done) | (simp_all; done) | grind [kamAccept_keeps, kamTake_keeps, eraseAnswer_keeps, proxied_keeps]

theorem execKamardThreshLoadResponse_keeps (port : Fin 96) (tag : Nat) (st : KStatus) (s : State) (s' : State) (ht : execKamardThreshLoadResponse port tag st s = .next s') :
    kept butNetNsReplsClusterCipher s' = kept butNetNsReplsClusterCipher s := by
  unfold execKamardThreshLoadResponse at ht
  obtain rfl | ht := onLive_next ht
  · simp
  try dsimp only at ht
  subst ht
  (repeat' split) <;> first | (simp; done) | (simp_all; done) | first | (simp; done) | (simp_all; done) | grind [kamAccept_keeps, kamTake_keeps, threshAnswer_keeps, proxied_keeps]

theorem execKamardVaultProgramResponse_keeps (port : Fin 96) (tag : Nat) (st : KStatus) (s : State) (s' : State) (ht : execKamardVaultProgramResponse port tag st s = .next s') :
    kept 0 s' = kept 0 s := by
  unfold execKamardVaultProgramResponse at ht
  obtain rfl | ht := onLive_next ht
  · simp
  try dsimp only at ht
  subst ht
  (repeat' split) <;> first | (simp; done) | (simp_all; done) | first | (simp; done) | (simp_all; done) | grind [vaultAck_keeps, vaultDrop_keeps, kamAccept_keeps, kamTake_keeps]

theorem execKamardVaultEraseResponse_keeps (port : Fin 96) (tag : Nat) (st : KStatus) (s : State) (s' : State) (ht : execKamardVaultEraseResponse port tag st s = .next s') :
    kept 0 s' = kept 0 s := by
  unfold execKamardVaultEraseResponse at ht
  obtain rfl | ht := onLive_next ht
  · simp
  try dsimp only at ht
  subst ht
  (repeat' split) <;> first | (simp; done) | (simp_all; done) | first | (simp; done) | (simp_all; done) | grind [State_modMod_keeps, vaultSetRecompute_keeps, kamAccept_keeps, kamTake_keeps]

theorem execKamardBridgeFwWriteResponse_keeps (port : Fin 96) (tag : Nat) (st : KStatus) (s : State) (s' : State) (ht : execKamardBridgeFwWriteResponse port tag st s = .next s') :
    kept 0 s' = kept 0 s := by
  unfold execKamardBridgeFwWriteResponse at ht
  obtain rfl | ht := onLive_next ht
  · simp
  try dsimp only at ht
  subst ht
  (repeat' split) <;> first | (simp; done) | (simp_all; done) | first | (simp; done) | (simp_all; done) | grind [State_modMod_keeps, kamAccept_keeps, kamTake_keeps, pushAll_keeps]

theorem execKamardBridgeFwActivateResponse_keeps (port : Fin 96) (tag : Nat) (st : KStatus) (s : State) (s' : State) (ht : execKamardBridgeFwActivateResponse port tag st s = .next s') :
    kept 0 s' = kept 0 s := by
  unfold execKamardBridgeFwActivateResponse at ht
  obtain rfl | ht := onLive_next ht
  · simp
  try dsimp only at ht
  subst ht
  (repeat' split) <;> first | (simp; done) | (simp_all; done) | first | (simp; done) | (simp_all; done) | grind [State_modMod_keeps, kamAccept_keeps, kamTake_keeps]

theorem execBridgeRestartTimeout_keeps (port : Fin 96) (s : State) (s' : State) (ht : execBridgeRestartTimeout port s = .next s') :
    kept butNsRepls s' = kept butNsRepls s := by
  unfold execBridgeRestartTimeout at ht
  obtain rfl | ht := onRun_next ht
  · simp
  try dsimp only at ht
  subst ht
  (repeat' split) <;> simp

@[simp] theorem kamAcked_keeps (port : Nat) (next : Nat) (s : State) {msk : Nat} :
    kept msk (kamAcked port next s) = kept msk s := by
  simp [kamAcked]

theorem execKamardAck_keeps (port : Fin 96) (next : W16) (s : State) (s' : State) (ht : execKamardAck port next s = .next s') :
    kept 0 s' = kept 0 s := by
  unfold execKamardAck at ht
  obtain rfl | ht := onLive_next ht
  · simp
  try dsimp only at ht
  subst ht
  simp

@[simp] theorem frameFailed_keeps (port : Nat) (seq : Nat) (s : State) {msk : Nat} :
    kept msk (frameFailed port seq s) = kept msk s := by
  unfold frameFailed
  (repeat' split) <;> simp

theorem execKamardNak_keeps (port : Fin 96) (seq : W16) (s : State) (s' : State) (ht : execKamardNak port seq s = .next s') :
    kept 0 s' = kept 0 s := by
  unfold execKamardNak at ht
  obtain rfl | ht := onLive_next ht
  · simp
  try dsimp only at ht
  subst ht
  simp

theorem execKamardNakRepeat_keeps (port : Fin 96) (s : State) (s' : State) (ht : execKamardNakRepeat port s = .next s') :
    kept 0 s' = kept 0 s := by
  unfold execKamardNakRepeat at ht
  obtain rfl | ht := onLive_next ht
  · simp
  try dsimp only at ht
  subst ht
  simp

theorem execKamardFrameDropped_keeps (port : Fin 96) (fault : FrameFault) (s : State) (s' : State) (ht : execKamardFrameDropped port fault s = .next s') :
    kept 0 s' = kept 0 s := by
  unfold execKamardFrameDropped at ht
  obtain rfl | ht := onLive_next ht
  · simp
  try dsimp only at ht
  subst ht
  (repeat' split) <;> simp

theorem execKamardRetransmitTimeout_keeps (port : Fin 96) (s : State) (s' : State) (ht : execKamardRetransmitTimeout port s = .next s') :
    kept 0 s' = kept 0 s := by
  unfold execKamardRetransmitTimeout at ht
  obtain rfl | ht := onLive_next ht
  · simp
  try dsimp only at ht
  subst ht
  simp

theorem execKamardKeepalive_keeps (port : Fin 96) (s : State) (s' : State) (ht : execKamardKeepalive port s = .next s') :
    kept 0 s' = kept 0 s := by
  unfold execKamardKeepalive at ht
  obtain rfl | ht := onLive_next ht
  · simp
  try dsimp only at ht
  subst ht
  simp

theorem execKamardLinkLoss_keeps (port : Fin 96) (s : State) (s' : State) (ht : execKamardLinkLoss port s = .next s') :
    kept 0 s' = kept 0 s := by
  unfold execKamardLinkLoss at ht
  obtain rfl | ht := onLive_next ht
  · simp
  try dsimp only at ht
  subst ht
  simp

@[simp] theorem readsAround_keeps (port : Nat) (s : State) {msk : Nat} (hm : butNetNsReplsClusterCipher &&& msk = butNetNsReplsClusterCipher) :
    kept msk (readsAround port s) = kept msk s := by
  refine kept_mono hm ?_
  unfold readsAround
  try dsimp only
  repeat' first | rfl | (simp; done) | split | refine (kept_foldl _ _ (fun y a => ?_) _ _).trans ?_

theorem execKamardRetrainDone_keeps (port : Fin 96) (how : RetrainEnd) (s : State) (s' : State) (ht : execKamardRetrainDone port how s = .next s') :
    kept butNetNsReplsClusterCipher s' = kept butNetNsReplsClusterCipher s := by
  unfold execKamardRetrainDone at ht
  obtain rfl | ht := onLive_next ht
  · simp
  try dsimp only at ht
  subst ht
  simp

theorem execKamardDownRetry_keeps (port : Fin 96) (management : Bool) (s : State) (s' : State) (ht : execKamardDownRetry port management s = .next s') :
    kept 0 s' = kept 0 s := by
  unfold execKamardDownRetry at ht
  obtain rfl | ht := onRun_next ht
  · simp
  try dsimp only at ht
  subst ht
  simp

/-! ## Peer -/

theorem execJalrasTrainingDone_keeps (sub : Fin 4) (s : State) (s' : State) (ht : execJalrasTrainingDone sub s = .next s') :
    kept 0 s' = kept 0 s := by
  unfold execJalrasTrainingDone at ht
  obtain rfl | ht := onRun_next ht
  · simp
  try dsimp only at ht
  subst ht
  simp

@[simp] theorem refusePartner_keeps (reason : Nat) (h : JalHello) (s : State) {msk : Nat} (hm : butNetNsReplsClusterCipher &&& msk = butNetNsReplsClusterCipher) :
    kept msk (refusePartner reason h s) = kept msk s := by
  refine kept_mono hm ?_
  simp [refusePartner]

@[simp] theorem helloChecked_keeps (sub : Nat) (h : JalHello) (f : Nat → Nat → State → State) (s : State) {msk : Nat} (hm : butNetNsReplsClusterCipher &&& msk = butNetNsReplsClusterCipher) (h0 : ∀ x0 x1 x2, kept msk (f x0 x1 x2) = kept msk x2) :
    kept msk (helloChecked sub h f s) = kept msk s := by
  have hb10 : msk / 1024 % 2 = 1 := bit_of_and hm 10 rfl
  have hb11 : msk / 2048 % 2 = 1 := bit_of_and hm 11 rfl
  have hb12 : msk / 4096 % 2 = 1 := bit_of_and hm 12 rfl
  have hb13 : msk / 8192 % 2 = 1 := bit_of_and hm 13 rfl
  have hb14 : msk / 16384 % 2 = 1 := bit_of_and hm 14 rfl
  unfold helloChecked
  (repeat' split) <;> simp [h0, hm, hb10, hb11, hb12, hb13, hb14]

theorem execJalrasHello_keeps (sub : Fin 4) (h : JalHello) (s : State) (s' : State) (ht : execJalrasHello sub h s = .next s') :
    kept butNetNsReplsClusterCipher s' = kept butNetNsReplsClusterCipher s := by
  unfold execJalrasHello at ht
  obtain rfl | ht := onRun_next ht
  · simp
  try dsimp only at ht
  subst ht
  simp

theorem execJalrasHelloReply_keeps (sub : Fin 4) (h : JalHello) (s : State) (s' : State) (ht : execJalrasHelloReply sub h s = .next s') :
    kept butNetNsReplsClusterCipher s' = kept butNetNsReplsClusterCipher s := by
  unfold execJalrasHelloReply at ht
  obtain rfl | ht := onRun_next ht
  · simp
  try dsimp only at ht
  subst ht
  simp

@[simp] theorem jalFailed_keeps (sub : Nat) (seq : Nat) (s : State) {msk : Nat} :
    kept msk (jalFailed sub seq s) = kept msk s := by
  unfold jalFailed
  (repeat' split) <;> simp

theorem execJalrasNak_keeps (sub : Fin 4) (seq : W32) (s : State) (s' : State) (ht : execJalrasNak sub seq s = .next s') :
    kept 0 s' = kept 0 s := by
  unfold execJalrasNak at ht
  obtain rfl | ht := onRun_next ht
  · simp
  try dsimp only at ht
  subst ht
  simp

theorem execJalrasRetransmitTimeout_keeps (sub : Fin 4) (s : State) (s' : State) (ht : execJalrasRetransmitTimeout sub s = .next s') :
    kept 0 s' = kept 0 s := by
  unfold execJalrasRetransmitTimeout at ht
  obtain rfl | ht := onRun_next ht
  · simp
  try dsimp only at ht
  subst ht
  (repeat' split) <;> simp

theorem execJalrasAckDue_keeps (sub : Fin 4) (s : State) (s' : State) (ht : execJalrasAckDue sub s = .next s') :
    kept 0 s' = kept 0 s := by
  unfold execJalrasAckDue at ht
  obtain rfl | ht := onRun_next ht
  · simp
  try dsimp only at ht
  subst ht
  simp

theorem execJalrasSublinkLoss_keeps (sub : Fin 4) (s : State) (s' : State) (ht : execJalrasSublinkLoss sub s = .next s') :
    kept 0 s' = kept 0 s := by
  unfold execJalrasSublinkLoss at ht
  obtain rfl | ht := onRun_next ht
  · simp
  try dsimp only at ht
  subst ht
  simp

theorem execJalrasRetrainDone_keeps (sub : Fin 4) (ok : Bool) (s : State) (s' : State) (ht : execJalrasRetrainDone sub ok s = .next s') :
    kept butNetNsReplsClusterCipher s' = kept butNetNsReplsClusterCipher s := by
  unfold execJalrasRetrainDone at ht
  obtain rfl | ht := onRun_next ht
  · simp
  try dsimp only at ht
  subst ht
  simp

@[simp] theorem peerStops_keeps (s : State) {msk : Nat} (hm : butNetNsReplsClusterCipher &&& msk = butNetNsReplsClusterCipher) :
    kept msk (peerStops s) = kept msk s := by
  refine kept_mono hm ?_
  simp [peerStops]

@[simp] theorem takeJalrasHeartbeat_keeps (failStopping : Bool) (owned : Byte) (session : W32) (s : State) {msk : Nat} (hm : butNetNsReplsClusterCipher &&& msk = butNetNsReplsClusterCipher) :
    kept msk (takeJalrasHeartbeat failStopping owned session s) = kept msk s := by
  refine kept_mono hm ?_
  simp [takeJalrasHeartbeat]

@[simp] theorem beatAll_keeps (failStopping : Bool) (a0 : List Nat) (a1 : State) {msk : Nat} :
    kept msk (beatAll failStopping a0 a1) = kept msk a1 := by
  induction a0 generalizing failStopping a1 with
  | nil => simp [beatAll]
  | cons x l ih => simp [beatAll, ih]

theorem execJalrasHeartbeatSend_keeps (s : State) (s' : State) (ht : execJalrasHeartbeatSend s = .next s') :
    kept 0 s' = kept 0 s := by
  unfold execJalrasHeartbeatSend at ht
  obtain rfl | ht := onRun_next ht
  · simp
  try dsimp only at ht
  subst ht
  simp

@[simp] theorem takeVaultNotice_keeps (session : W32) (s : State) {msk : Nat} (hm : butNetNsReplsClusterCipher &&& msk = butNetNsReplsClusterCipher) :
    kept msk (takeVaultNotice session s) = kept msk s := by
  refine kept_mono hm ?_
  simp [takeVaultNotice]

@[simp] theorem readSerials_keeps (a0 : List (W64 × Nat)) (a1 : State) {msk : Nat} (hm : butNetNsReplsClusterCipher &&& msk = butNetNsReplsClusterCipher) :
    kept msk (readSerials a0 a1) = kept msk a1 := by
  refine kept_mono hm ?_
  induction a0 generalizing a1 with
  | nil => simp [readSerials]
  | cons x l ih => simp [readSerials, ih]

@[simp] theorem takeSerials_keeps (list : List W64) (s : State) {msk : Nat} (hm : butNetNsReplsClusterCipher &&& msk = butNetNsReplsClusterCipher) :
    kept msk (takeSerials list s) = kept msk s := by
  refine kept_mono hm ?_
  simp [takeSerials]

@[simp] theorem takeOwnership_keeps (pool : Fin 8) (done : Bool) (gen : W32) (s : State) {msk : Nat} (hm : butNetNsReplsCluster &&& msk = butNetNsReplsCluster) :
    kept msk (takeOwnership pool done gen s) = kept msk s := by
  refine kept_mono hm ?_
  unfold takeOwnership
  (repeat' split) <;> simp

@[simp] theorem takeResyncDone_keeps (session : W32) (s : State) {msk : Nat} :
    kept msk (takeResyncDone session s) = kept msk s := by
  simp [takeResyncDone]

@[simp] theorem takeSifUpdate_keeps (seq : Nat) (x : Option Sif) (s : State) {msk : Nat} :
    kept msk (takeSifUpdate seq x s) = kept msk s := by
  simp [takeSifUpdate]

@[simp] theorem takeSifAck_keeps (seq : Nat) (s : State) {msk : Nat} (hm : butRepls &&& msk = butRepls) :
    kept msk (takeSifAck seq s) = kept msk s := by
  refine kept_mono hm ?_
  unfold takeSifAck
  (repeat' split) <;> simp

@[simp] theorem applySlice_keeps (e : Nat × Option Slice) (s : State) {msk : Nat} (hm : butNetCipher &&& msk = butNetCipher) :
    kept msk (applySlice e s) = kept msk s := by
  refine kept_mono hm ?_
  unfold applySlice
  (repeat' split) <;> simp

@[simp] theorem applySlices_keeps (a0 : List (Nat × Option Slice)) (a1 : State) {msk : Nat} (hm : butNetCipher &&& msk = butNetCipher) :
    kept msk (applySlices a0 a1) = kept msk a1 := by
  refine kept_mono hm ?_
  induction a0 generalizing a1 with
  | nil => simp [applySlices]
  | cons x l ih => simp [applySlices, ih]

@[simp] theorem shrinkAcross_keeps (nsid : Nat) (old : Option Ns) (s : State) {msk : Nat} (hm : butNetNsReplsClusterCipher &&& msk = butNetNsReplsClusterCipher) :
    kept msk (shrinkAcross nsid old s) = kept msk s := by
  refine kept_mono hm ?_
  unfold shrinkAcross
  (repeat' split) <;> simp

@[simp] theorem cutAcross_keeps (nsid : Nat) (old : Option Ns) (s : State) {msk : Nat} (hm : butNetNsReplsClusterCipher &&& msk = butNetNsReplsClusterCipher) :
    kept msk (cutAcross nsid old s) = kept msk s := by
  refine kept_mono hm ?_
  unfold cutAcross
  (repeat' split) <;> simp

@[simp] theorem cutAnswer_keeps (before : Tbl Ns) (views : List (Nat × Option Snap)) (s : State) {msk : Nat} :
    kept msk (cutAnswer before views s) = kept msk s := by
  unfold cutAnswer
  (repeat' split) <;> simp

@[simp] theorem viewGone_keeps (before : State) (s : State) (e : Nat × Option Snap) {msk : Nat} (hm : butNs &&& msk = butNs) :
    kept msk (viewGone before s e) = kept msk s := by
  refine kept_mono hm ?_
  unfold viewGone
  (repeat' split) <;> simp

@[simp] theorem applyNs_keeps (e : Nat × Option Ns) (s : State) {msk : Nat} (hm : butNetNsReplsClusterCipher &&& msk = butNetNsReplsClusterCipher) :
    kept msk (applyNs e s) = kept msk s := by
  refine kept_mono hm ?_
  unfold applyNs
  (try dsimp only) <;> (repeat' split) <;> first | rfl | (simp; done) | ((repeat' split) <;> simp; done) | simp_all

@[simp] theorem applyNss_keeps (a0 : List (Nat × Option Ns)) (a1 : State) {msk : Nat} (hm : butNetNsReplsClusterCipher &&& msk = butNetNsReplsClusterCipher) :
    kept msk (applyNss a0 a1) = kept msk a1 := by
  refine kept_mono hm ?_
  induction a0 generalizing a1 with
  | nil => simp [applyNss]
  | cons x l ih => simp [applyNss, ih]

@[simp] theorem joinReset_keeps (n : Nat) (squash : Bool) (deleting : Bool) (s : State) {msk : Nat} (hm : butNetCipher &&& msk = butNetCipher) :
    kept msk (joinReset n squash deleting s) = kept msk s := by
  refine kept_mono hm ?_
  unfold joinReset
  (repeat' split) <;> simp

@[simp] theorem joinResets_keeps (c : PairConfig) (a0 : List (Nat × Bool)) (a1 : State) {msk : Nat} (hm : butNetCipher &&& msk = butNetCipher) :
    kept msk (joinResets c a0 a1) = kept msk a1 := by
  refine kept_mono hm ?_
  induction a0 generalizing a1 with
  | nil => simp [joinResets]
  | cons x l ih => simp [joinResets, ih]

@[simp] theorem peersDone_keeps (a0 : List (Nat × Nat)) (a1 : State) {msk : Nat} (hm : butNetCipher &&& msk = butNetCipher) :
    kept msk (peersDone a0 a1) = kept msk a1 := by
  refine kept_mono hm ?_
  induction a0 generalizing a1 with
  | nil => simp [peersDone]
  | cons x l ih => simp [peersDone, ih]

@[simp] theorem applyKey_keeps (x : Nat × Option KeyEnt) (s : State) {msk : Nat} (hm : butNetReplsClusterCipher &&& msk = butNetReplsClusterCipher) :
    kept msk (applyKey x s) = kept msk s := by
  refine kept_mono hm ?_
  unfold applyKey
  (repeat' split) <;> simp

@[simp] theorem applyKtwk_keeps (w : List Byte) (s : State) {msk : Nat} (hm : butCipher &&& msk = butCipher) :
    kept msk (applyKtwk w s) = kept msk s := by
  refine kept_mono hm ?_
  unfold applyKtwk
  (repeat' split) <;> simp

@[simp] theorem applyPool_keeps (e : Nat × Option Pool) (s : State) {msk : Nat} :
    kept msk (applyPool e s) = kept msk s := by
  unfold applyPool
  (repeat' split) <;> simp

@[simp] theorem applyTables_keeps (c : PairConfig) (s : State) {msk : Nat} (hm : butNetReplsClusterCipherGov &&& msk = butNetReplsClusterCipherGov) :
    kept msk (applyTables c s) = kept msk s := by
  refine kept_mono hm ?_
  unfold applyTables
  (repeat' split) <;> simp

@[simp] theorem applyConfig_keeps (c : PairConfig) (s : State) {msk : Nat} (hm : butNetNsReplsClusterCipherGov &&& msk = butNetNsReplsClusterCipherGov) :
    kept msk (applyConfig c s) = kept msk s := by
  refine kept_mono hm ?_
  simp [applyConfig]

@[simp] theorem compactPeer_keeps (through : Nat) (s : State) {msk : Nat} (hm : butNetNsReplsCluster &&& msk = butNetNsReplsCluster) :
    kept msk (compactPeer through s) = kept msk s := by
  refine kept_mono hm ?_
  simp [compactPeer]

@[simp] theorem takeJournalGroup_keeps (gseq : Nat) (g : Group) (cfg : PairConfig) (s : State) {msk : Nat} (hm : butNetNsReplsClusterCipherGov &&& msk = butNetNsReplsClusterCipherGov) :
    kept msk (takeJournalGroup gseq g cfg s) = kept msk s := by
  refine kept_mono hm ?_
  unfold takeJournalGroup
  (repeat' split) <;> simp

@[simp] theorem takeJournalAck_keeps (gseq : Nat) (s : State) {msk : Nat} :
    kept msk (takeJournalAck gseq s) = kept msk s := by
  simp [takeJournalAck]

@[simp] theorem takeRelease_keeps (seqs : List Nat) (s : State) {msk : Nat} :
    kept msk (takeRelease seqs s) = kept msk s := by
  simp [takeRelease]

@[simp] theorem takeMirrorData_keeps (m : MirrorMsg) (s : State) {msk : Nat} :
    kept msk (takeMirrorData m s) = kept msk s := by
  simp [takeMirrorData]

@[simp] theorem ackWrites_keeps (a0 : List Nat) (a1 : State) {msk : Nat} :
    kept msk (ackWrites a0 a1) = kept msk a1 := by
  induction a0 generalizing a1 with
  | nil => simp [ackWrites]
  | cons x l ih => simp [ackWrites, ih]

@[simp] theorem takeMirrorAck_keeps (seqs : List Nat) (s : State) {msk : Nat} (hm : butNetReplsClusterCipher &&& msk = butNetReplsClusterCipher) :
    kept msk (takeMirrorAck seqs s) = kept msk s := by
  refine kept_mono hm ?_
  simp [takeMirrorAck]

@[simp] theorem forwardIn_keeps (id : Nat) (slice : Nat) (e : SubEntry) (s : State) {msk : Nat} :
    kept msk (forwardIn id slice e s) = kept msk s := by
  unfold forwardIn
  (repeat' split) <;> simp

@[simp] theorem forwardAborted_keeps (id : Nat) (s : State) {msk : Nat} (hm : butNetCipher &&& msk = butNetCipher) :
    kept msk (forwardAborted id s) = kept msk s := by
  refine kept_mono hm ?_
  unfold forwardAborted
  (repeat' split) <;> simp

@[simp] theorem takeForwardCmd_keeps (id : Nat) (slice : Nat) (e : Option SubEntry) (s : State) {msk : Nat} (hm : butNetCipher &&& msk = butNetCipher) :
    kept msk (takeForwardCmd id slice e s) = kept msk s := by
  refine kept_mono hm ?_
  unfold takeForwardCmd
  (repeat' split) <;> simp

@[simp] theorem forwardedData_keeps (id : Nat) (c : Inflight) (data : List Nat) (s : State) {msk : Nat} (hm : butNet &&& msk = butNet) :
    kept msk (forwardedData id c data s) = kept msk s := by
  refine kept_mono hm ?_
  simp [forwardedData]

@[simp] theorem takeForwardRsp_keeps (id : Nat) (sct : Nat) (sc : Nat) (err : Option (Nat × Nat)) (data : List Nat) (s : State) {msk : Nat} (hm : butNetCipher &&& msk = butNetCipher) :
    kept msk (takeForwardRsp id sct sc err data s) = kept msk s := by
  refine kept_mono hm ?_
  unfold takeForwardRsp
  (repeat' split) <;> simp

@[simp] theorem takeProxyMedia_keeps (module : Fin 96) (cmd : KCmd) (gen : W32) (s : State) {msk : Nat} :
    kept msk (takeProxyMedia module cmd gen s) = kept msk s := by
  simp [takeProxyMedia]

@[simp] theorem takeProxyRsp_keeps (module : Fin 96) (cmd : KCmd) (st : KStatus) (temp : Byte) (held : W32) (s : State) {msk : Nat} (hm : butNetNsReplsClusterCipher &&& msk = butNetNsReplsClusterCipher) :
    kept msk (takeProxyRsp module cmd st temp held s) = kept msk s := by
  refine kept_mono hm ?_
  unfold takeProxyRsp
  (repeat' split) <;> simp

theorem execPeerPartitionTimeout_keeps (s : State) (s' : State) (ht : execPeerPartitionTimeout s = .next s') :
    kept butNetNsReplsClusterCipher s' = kept butNetNsReplsClusterCipher s := by
  unfold execPeerPartitionTimeout at ht
  obtain rfl | ht := onRun_next ht
  · simp
  try dsimp only at ht
  subst ht
  (repeat' split) <;> simp

theorem execPeerStatusGet_keeps (h : MbxHdr) (s : State) (s' : State) (ht : execPeerStatusGet h s = .next s') :
    kept 0 s' = kept 0 s := by
  unfold execPeerStatusGet at ht
  obtain rfl | ht := onRun_next ht
  · simp
  try dsimp only at ht
  subst ht
  first | (simp; done) | (refine mbxStart_keeps _ _ _ _ _ (fun y0 => ?_) <;> (try dsimp only) <;> first | (simp; done) | ((repeat' split) <;> simp; done))

theorem execFailoverTakeOver_keeps (h : MbxHdr) (op : Byte) (s : State) (s' : State) (ht : execFailoverTakeOver h op s = .next s') :
    kept butNetNsReplsClusterCipher s' = kept butNetNsReplsClusterCipher s := by
  unfold execFailoverTakeOver at ht
  obtain rfl | ht := onRun_next ht
  · simp
  try dsimp only at ht
  subst ht
  first | (simp; done) | (refine mbxStart_keeps _ _ _ _ _ (fun y0 => ?_) <;> (try dsimp only) <;> first | (simp; done) | ((repeat' split) <;> simp; done))

theorem execFailoverGiveBack_keeps (h : MbxHdr) (s : State) (s' : State) (ht : execFailoverGiveBack h s = .next s') :
    kept 0 s' = kept 0 s := by
  unfold execFailoverGiveBack at ht
  obtain rfl | ht := onRun_next ht
  · simp
  try dsimp only at ht
  subst ht
  first | (simp; done) | (refine mbxStart_keeps _ _ _ _ _ (fun y0 => ?_) <;> (try dsimp only) <;> first | (simp; done) | ((repeat' split) <;> simp; done))

@[simp] theorem jalDeliver_keeps (m : JalMsg) (s : State) {msk : Nat} (hm : butNetNsReplsClusterCipherGov &&& msk = butNetNsReplsClusterCipherGov) :
    kept msk (jalDeliver m s) = kept msk s := by
  refine kept_mono hm ?_
  unfold jalDeliver
  (repeat' split) <;> simp

@[simp] theorem jalTurn_keeps (c : Nat) (s : State) {msk : Nat} :
    kept msk (jalTurn c s) = kept msk s := by
  simp [jalTurn]

@[simp] theorem jalHand_keeps (m : JalMsg) (s : State) {msk : Nat} (hm : butNetNsReplsClusterCipherGov &&& msk = butNetNsReplsClusterCipherGov) :
    kept msk (jalHand m s) = kept msk s := by
  refine kept_mono hm ?_
  simp [jalHand]

@[simp] theorem jalFollow_keeps (c : Nat) (a0 : Nat) (a1 : State) {msk : Nat} (hm : butNetNsReplsClusterCipherGov &&& msk = butNetNsReplsClusterCipherGov) :
    kept msk (jalFollow c a0 a1) = kept msk a1 := by
  refine kept_mono hm ?_
  induction a0 generalizing a1 with
  | zero => simp [jalFollow]
  | succ m ih =>
    unfold jalFollow
    (repeat' split) <;> simp [ih]

@[simp] theorem jalThen_keeps (c : Nat) (s : State) {msk : Nat} (hm : butNetNsReplsClusterCipherGov &&& msk = butNetNsReplsClusterCipherGov) :
    kept msk (jalThen c s) = kept msk s := by
  refine kept_mono hm ?_
  simp [jalThen]

@[simp] theorem onJal_keeps (rx : JalRx) (m : JalMsg) (s : State) {msk : Nat} (hm : butNetNsReplsClusterCipherGov &&& msk = butNetNsReplsClusterCipherGov) :
    kept msk (onJal rx m s) = kept msk s := by
  refine kept_mono hm ?_
  simp [onJal]

theorem execJalrasHeartbeat_keeps (rx : JalRx) (failStopping : Bool) (owned : Byte) (session : W32) (s : State) (s' : State) (ht : execJalrasHeartbeat rx failStopping owned session s = .next s') :
    kept butNetNsReplsClusterCipherGov s' = kept butNetNsReplsClusterCipherGov s := by
  unfold execJalrasHeartbeat at ht
  obtain rfl | ht := onRun_next ht
  · simp
  try dsimp only at ht
  subst ht
  simp

theorem execVaultNotice_keeps (rx : JalRx) (session : W32) (s : State) (s' : State) (ht : execVaultNotice rx session s = .next s') :
    kept butNetNsReplsClusterCipherGov s' = kept butNetNsReplsClusterCipherGov s := by
  unfold execVaultNotice at ht
  obtain rfl | ht := onRun_next ht
  · simp
  try dsimp only at ht
  subst ht
  simp

theorem execSerials_keeps (rx : JalRx) (list : List W64) (s : State) (s' : State) (ht : execSerials rx list s = .next s') :
    kept butNetNsReplsClusterCipherGov s' = kept butNetNsReplsClusterCipherGov s := by
  unfold execSerials at ht
  obtain rfl | ht := onRun_next ht
  · simp
  try dsimp only at ht
  subst ht
  simp

theorem execOwnership_keeps (rx : JalRx) (pool : Fin 8) (done : Bool) (gen : W32) (s : State) (s' : State) (ht : execOwnership rx pool done gen s = .next s') :
    kept butNetNsReplsClusterCipherGov s' = kept butNetNsReplsClusterCipherGov s := by
  unfold execOwnership at ht
  obtain rfl | ht := onRun_next ht
  · simp
  try dsimp only at ht
  subst ht
  first | (simp; done) | (refine onJal_keeps _ _ _ (fun y0 => ?_) <;> (try dsimp only) <;> first | (simp; done) | ((repeat' split) <;> simp; done))

theorem execResyncDone_keeps (rx : JalRx) (session : W32) (s : State) (s' : State) (ht : execResyncDone rx session s = .next s') :
    kept butNetNsReplsClusterCipherGov s' = kept butNetNsReplsClusterCipherGov s := by
  unfold execResyncDone at ht
  obtain rfl | ht := onRun_next ht
  · simp
  try dsimp only at ht
  subst ht
  simp

theorem execSifUpdate_keeps (rx : JalRx) (seq : Nat) (x : Option Sif) (s : State) (s' : State) (ht : execSifUpdate rx seq x s = .next s') :
    kept butNetNsReplsClusterCipherGov s' = kept butNetNsReplsClusterCipherGov s := by
  unfold execSifUpdate at ht
  obtain rfl | ht := onRun_next ht
  · simp
  try dsimp only at ht
  subst ht
  simp

theorem execSifAck_keeps (rx : JalRx) (seq : Nat) (s : State) (s' : State) (ht : execSifAck rx seq s = .next s') :
    kept butNetNsReplsClusterCipherGov s' = kept butNetNsReplsClusterCipherGov s := by
  unfold execSifAck at ht
  obtain rfl | ht := onRun_next ht
  · simp
  try dsimp only at ht
  subst ht
  first | (simp; done) | (refine onJal_keeps _ _ _ (fun y0 => ?_) <;> (try dsimp only) <;> first | (simp; done) | ((repeat' split) <;> simp; done))

theorem execJournalGroup_keeps (rx : JalRx) (gseq : Nat) (g : Group) (cfg : PairConfig) (s : State) (s' : State) (ht : execJournalGroup rx gseq g cfg s = .next s') :
    kept butNetNsReplsClusterCipherGov s' = kept butNetNsReplsClusterCipherGov s := by
  unfold execJournalGroup at ht
  obtain rfl | ht := onRun_next ht
  · simp
  try dsimp only at ht
  subst ht
  first | (simp; done) | (refine onJal_keeps _ _ _ (fun y0 => ?_) <;> (try dsimp only) <;> first | (simp; done) | ((repeat' split) <;> simp; done))

theorem execJournalAck_keeps (rx : JalRx) (gseq : Nat) (s : State) (s' : State) (ht : execJournalAck rx gseq s = .next s') :
    kept butNetNsReplsClusterCipherGov s' = kept butNetNsReplsClusterCipherGov s := by
  unfold execJournalAck at ht
  obtain rfl | ht := onRun_next ht
  · simp
  try dsimp only at ht
  subst ht
  simp

theorem execRelease_keeps (rx : JalRx) (seqs : List Nat) (s : State) (s' : State) (ht : execRelease rx seqs s = .next s') :
    kept butNetNsReplsClusterCipherGov s' = kept butNetNsReplsClusterCipherGov s := by
  unfold execRelease at ht
  obtain rfl | ht := onRun_next ht
  · simp
  try dsimp only at ht
  subst ht
  simp

theorem execMirrorData_keeps (rx : JalRx) (m : MirrorMsg) (s : State) (s' : State) (ht : execMirrorData rx m s = .next s') :
    kept butNetNsReplsClusterCipherGov s' = kept butNetNsReplsClusterCipherGov s := by
  unfold execMirrorData at ht
  obtain rfl | ht := onRun_next ht
  · simp
  try dsimp only at ht
  subst ht
  simp

theorem execMirrorAck_keeps (rx : JalRx) (seqs : List Nat) (s : State) (s' : State) (ht : execMirrorAck rx seqs s = .next s') :
    kept butNetNsReplsClusterCipherGov s' = kept butNetNsReplsClusterCipherGov s := by
  unfold execMirrorAck at ht
  obtain rfl | ht := onRun_next ht
  · simp
  try dsimp only at ht
  subst ht
  simp

theorem execForwardCmd_keeps (rx : JalRx) (id : Nat) (slice : Nat) (e : Option SubEntry) (s : State) (s' : State) (ht : execForwardCmd rx id slice e s = .next s') :
    kept butNetNsReplsClusterCipherGov s' = kept butNetNsReplsClusterCipherGov s := by
  unfold execForwardCmd at ht
  obtain rfl | ht := onRun_next ht
  · simp
  try dsimp only at ht
  subst ht
  first | (simp; done) | (refine onJal_keeps _ _ _ (fun y0 => ?_) <;> (try dsimp only) <;> first | (simp; done) | ((repeat' split) <;> simp; done))

theorem execForwardRsp_keeps (rx : JalRx) (id : Nat) (sct : Nat) (sc : Nat) (err : Option (Nat × Nat)) (data : List Nat) (s : State) (s' : State) (ht : execForwardRsp rx id sct sc err data s = .next s') :
    kept butNetNsReplsClusterCipherGov s' = kept butNetNsReplsClusterCipherGov s := by
  unfold execForwardRsp at ht
  obtain rfl | ht := onRun_next ht
  · simp
  try dsimp only at ht
  subst ht
  (repeat' split) <;> first | (simp; done) | (simp_all; done) | first | (simp; done) | (simp_all; done) | grind [emit_keeps, markPages_keeps, completeCmd_keeps, onJal_keeps]

theorem execProxyMedia_keeps (rx : JalRx) (module : Fin 96) (cmd : KCmd) (gen : W32) (s : State) (s' : State) (ht : execProxyMedia rx module cmd gen s = .next s') :
    kept butNetNsReplsClusterCipherGov s' = kept butNetNsReplsClusterCipherGov s := by
  unfold execProxyMedia at ht
  obtain rfl | ht := onRun_next ht
  · simp
  try dsimp only at ht
  subst ht
  simp

theorem execProxyRsp_keeps (rx : JalRx) (module : Fin 96) (cmd : KCmd) (st : KStatus) (temp : Byte) (held : W32) (s : State) (s' : State) (ht : execProxyRsp rx module cmd st temp held s = .next s') :
    kept butNetNsReplsClusterCipherGov s' = kept butNetNsReplsClusterCipherGov s := by
  unfold execProxyRsp at ht
  obtain rfl | ht := onRun_next ht
  · simp
  try dsimp only at ht
  subst ht
  first | (simp; done) | (refine onJal_keeps _ _ _ (fun y0 => ?_) <;> (try dsimp only) <;> first | (simp; done) | ((repeat' split) <;> simp; done))

/-! ## Grinder -/

@[simp] theorem State_grind_keeps (s : State) (f : Grinder → Grinder) {msk : Nat} :
    kept msk (State.grind s f) = kept msk s := by
  simp [State.grind]

@[simp] theorem resolveUnit_keeps (u : GUnit) (e : MapEnt) (s : State) {msk : Nat} :
    kept msk (resolveUnit u e s) = kept msk s := by
  simp [resolveUnit]

@[simp] theorem resolveZeros_keeps (a0 : List GUnit) (a1 : State) {msk : Nat} :
    kept msk (resolveZeros a0 a1) = kept msk a1 := by
  induction a0 generalizing a1 with
  | nil => simp [resolveZeros]
  | cons x l ih => simp [resolveZeros, ih]

theorem execBatchClose_keeps (nsid : Nat) (s : State) (s' : State) (ht : execBatchClose nsid s = .next s') :
    kept butRepls s' = kept butRepls s := by
  unfold execBatchClose at ht
  obtain rfl | ht := onRun_next ht
  · simp
  try dsimp only at ht
  subst ht
  (repeat' split) <;> simp

@[simp] theorem indexEvent_keeps (kind : Nat) (pair : Nat) (s : State) {msk : Nat} :
    kept msk (indexEvent kind pair s) = kept msk s := by
  simp [indexEvent]

@[simp] theorem clearBad_keeps (b : Nat) (a0 : List Nat) (a1 : State) {msk : Nat} :
    kept msk (clearBad b a0 a1) = kept msk a1 := by
  induction a0 generalizing a1 with
  | nil => simp [clearBad]
  | cons x l ih => simp [clearBad, ih]

@[simp] theorem lookupIn_keeps (b : Nat) (d : List Byte) (a0 : List Nat) (a1 : State) {msk : Nat} :
    kept msk ((lookupIn b d a0 a1).2) = kept msk a1 := by
  induction a0 generalizing b d a1 with
  | nil => simp [lookupIn]
  | cons x l ih =>
    unfold lookupIn
    (repeat' split) <;> simp [ih]

theorem newUnit_keeps {v : Ns} {nsid content : Nat} {d : List Byte} {s : State} {r : Nat × State} (h : newUnit v nsid content d s = some r) {msk : Nat} :
    kept msk r.2 = kept msk s := by
  unfold newUnit at h
  dsimp only at h
  obtain ⟨id, -, rfl⟩ := Option.map_eq_some_iff.mp h
  simp

@[simp] theorem setUnit_keeps (batch : Nat) (i : Nat) (e : MapEnt) (fresh : Bool) (s : State) {msk : Nat} :
    kept msk (setUnit batch i e fresh s) = kept msk s := by
  simp [setUnit]

@[simp] theorem spoilEntry_keeps (b : Nat) (damage : IndexDamage) (s : State) {msk : Nat} :
    kept msk (spoilEntry b damage s) = kept msk s := by
  unfold spoilEntry
  (repeat' split) <;> simp

@[simp] theorem storeUnit_keeps (batch : Nat) (i : Nat) (v : Ns) (u : GUnit) (d : List Byte) (enter : Nat → Grinder → Grinder) (s : State) {msk : Nat} :
    kept msk (storeUnit batch i v u d enter s) = kept msk s := by
  unfold storeUnit
  split
  · simp [newUnit_keeps ‹_›]
  · rfl

@[simp] theorem lookupUnit_keeps (batch i : Nat) (v : Ns) (u : GUnit) (damage : IndexDamage) (s : State) {msk : Nat} (hm : butRepls &&& msk = butRepls) :
    kept msk (lookupUnit batch i v u damage s) = kept msk s := by
  refine kept_mono hm ?_
  unfold lookupUnit
  split
  · simp
  · simp
  · try dsimp only
    split <;> (have e := congrArg (fun x => kept butRepls x.2) ‹lookupIn _ _ _ _ = _›; simp at e; simp [← e])

theorem execIndexLookup_keeps (batch : Nat) (i : Nat) (damage : IndexDamage) (s : State) (s' : State) (ht : execIndexLookup batch i damage s = .next s') :
    kept butRepls s' = kept butRepls s := by
  unfold execIndexLookup at ht
  obtain rfl | ht := onRun_next ht
  · simp
  try dsimp only at ht
  subst ht
  (repeat' split) <;> simp

@[simp] theorem placeSlots_keeps (v : Ns) (gen : Nat) (share : Nat) (a0 : List (Nat × Enc × List Byte)) (a1 : Nat) (a2 : State) {msk : Nat} (hm : butCipher &&& msk = butCipher) :
    kept msk (placeSlots v gen share a0 a1 a2) = kept msk a2 := by
  refine kept_mono hm ?_
  induction a0 generalizing v gen share a1 a2 with
  | nil => simp [placeSlots]
  | cons x l ih => simp [placeSlots, ih]

@[simp] theorem gatherGroup_keeps (v : Ns) (units : List GUnit) (encs : List (List Byte)) (s : State) {msk : Nat} (hm : butCipher &&& msk = butCipher) :
    kept msk (gatherGroup v units encs s) = kept msk s := by
  refine kept_mono hm ?_
  unfold gatherGroup
  try dsimp only
  (repeat' split) <;> (try (simp; done)) <;> (refine (kept_foldl _ _ (fun x a => ?_) _ _).trans ?_) <;> (repeat' split) <;> simp

theorem execDecompressDone_keeps (unit : Nat) (lane : Fin 40) (failures : Fin 4) (s : State) (s' : State) (ht : execDecompressDone unit lane failures s = .next s') :
    kept butNs s' = kept butNs s := by
  unfold execDecompressDone at ht
  obtain rfl | ht := onRun_next ht
  · simp
  try dsimp only at ht
  subst ht
  (repeat' split) <;> simp

@[simp] theorem passShards_keeps (pool : Nat) (s : State) {msk : Nat} :
    kept msk (passShards pool s) = kept msk s := by
  simp [passShards]

@[simp] theorem makeAlias_keeps (gone : Nat) (stays : Nat) (move : Effect) (s : State) {msk : Nat} (hm : butNs &&& msk = butNs) :
    kept msk (makeAlias gone stays move s) = kept msk s := by
  refine kept_mono hm ?_
  simp [makeAlias]

@[simp] theorem runBack_keeps (pair : Nat × Nat) (f : State → State) (s : State) {msk : Nat} (h0 : ∀ x0, kept msk (f x0) = kept msk x0) :
    kept msk (runBack pair f s) = kept msk s := by
  unfold runBack
  (repeat' split) <;> simp [h0]

@[simp] theorem mergePair_keeps (a : Nat) (b : Nat) (move : Effect) (s : State) {msk : Nat} (hm : butNs &&& msk = butNs) :
    kept msk (mergePair a b move s) = kept msk s := by
  refine kept_mono hm ?_
  unfold mergePair
  (repeat' split) <;> simp

theorem execColdDedupMatch_keeps (a : Nat) (b : Nat) (idle : Bool) (s : State) (s' : State) (ht : execColdDedupMatch a b idle s = .next s') :
    kept butNsGov s' = kept butNsGov s := by
  unfold execColdDedupMatch at ht
  obtain rfl | ht := onRun_next ht
  · rfl
  subst ht
  split
  · try dsimp only
    split
    · rfl
    · refine runBack_keeps _ _ _ fun x => govRun_keeps _ _ _ _ _ (by simp) fun y => ?_
      try dsimp only
      (repeat' split) <;> simp
  · rfl

end Sys2Proof.Machine
end

