-- ==== Sys2Proof/Laws/KeepsNet.lean ====
section
/-! SUPPORT. Laws/KeepsNet.lean: the parts of the state that each operation of volumes, slices, NVMe and the network leaves as they were. -/
namespace Sys2Proof.Machine
open Sys2Proof
set_option linter.all false
set_option maxHeartbeats 1000000

/-! ## NvmePages -/

@[simp] theorem smartPage_keeps (c : Ctrl) (s : State) {msk : Nat} :
    kept msk ((smartPage c s).2) = kept msk s := by
  simp [smartPage]

@[simp] theorem discoveryPage_keeps (c : Ctrl) (s : State) {msk : Nat} :
    kept msk ((discoveryPage c s).2) = kept msk s := by
  simp [discoveryPage]

theorem logPage_keeps (lid : Nat) (c : Ctrl) (s : State) (r : List Byte × State) (h : logPage lid c s = some r) {msk : Nat} :
    kept msk r.2 = kept msk s := by
  unfold logPage at h
  (repeat' split at h) <;> first | (cases h; done) | (cases h; simp)

/-! ## Nvme -/

@[simp] theorem onPage_keeps (g : PageId) (f : Nat → State → State) (s : State) {msk : Nat} (h0 : ∀ x0 x1, kept msk (f x0 x1) = kept msk x1) :
    kept msk (onPage g f s) = kept msk s := by
  unfold onPage
  (repeat' split) <;> simp [h0]

@[simp] theorem onDoorbell_keeps (g : PageId) (f : Nat → Ctrl → Option (Nat × (State → State))) (v : W32) (s : State) {msk : Nat}
    (h0 : ∀ n c x, f n c = some x → kept msk (x.2 s) = kept msk s) :
    kept msk (onDoorbell g f v s) = kept msk s := by
  unfold onDoorbell
  (repeat' split) <;> first | (simp; done) | (rename_i h _; simpa using h0 _ _ _ h)

theorem execSqTailDoorbell_keeps (g : PageId) (sq : Nat) (v : W32) (s : State) (s' : State) (ht : execSqTailDoorbell g sq v s = .next s') :
    kept 0 s' = kept 0 s := by
  unfold execSqTailDoorbell at ht
  obtain rfl | ht := onRun_next ht
  · simp
  try dsimp only at ht
  subst ht
  (repeat' split) <;> simp

@[simp] theorem postHeld_keeps (ctrl : Nat) (a0 : List Cpl) (a1 : State) {msk : Nat} :
    kept msk (postHeld ctrl a0 a1) = kept msk a1 := by
  induction a0 generalizing ctrl a1 with
  | nil => simp [postHeld]
  | cons x l ih => simp [postHeld, ih]

theorem execCqHeadDoorbell_keeps (g : PageId) (cq : Nat) (v : W32) (s : State) (s' : State) (ht : execCqHeadDoorbell g cq v s = .next s') :
    kept butNetCipher s' = kept butNetCipher s := by
  unfold execCqHeadDoorbell at ht
  obtain rfl | ht := onRun_next ht
  · simp
  try dsimp only at ht
  subst ht
  (repeat' split) <;> simp

@[simp] theorem quietCtrl_keeps (l : List (Nat × Inflight)) (s : State) {msk : Nat} (hm : butNetCipher &&& msk = butNetCipher) :
    kept msk (quietCtrl l s) = kept msk s := by
  refine kept_mono hm ?_
  simp [quietCtrl]

@[simp] theorem stopCtrl_keeps (ctrl : Nat) (s : State) {msk : Nat} (hm : butNetCipher &&& msk = butNetCipher) :
    kept msk (stopCtrl ctrl s) = kept msk s := by
  refine kept_mono hm ?_
  simp [stopCtrl]

@[simp] theorem endCtrl_keeps (ctrl : Nat) (s : State) {msk : Nat} (hm : butNetCipher &&& msk = butNetCipher) :
    kept msk (endCtrl ctrl s) = kept msk s := by
  refine kept_mono hm ?_
  unfold endCtrl
  try dsimp only
  (repeat' split) <;> first | (simp; done) | (rcases Prod.ext_iff.mp ‹_ = (_, _)› with ⟨rfl, -⟩; simp; done) | (rcases Prod.ext_iff.mp ‹_ = (_, _)› with ⟨-, rfl⟩; simp; done) | (simp_all; done)

@[simp] theorem writeCc_keeps (ctrl : Nat) (w : W32) (s : State) {msk : Nat} (hm : butNetCipher &&& msk = butNetCipher) :
    kept msk (writeCc ctrl w s) = kept msk s := by
  refine kept_mono hm ?_
  unfold writeCc
  (repeat' split) <;> simp

theorem execCcWrite_keeps (g : PageId) (v : W32) (s : State) (s' : State) (ht : execCcWrite g v s = .next s') :
    kept butNetCipher s' = kept butNetCipher s := by
  unfold execCcWrite at ht
  obtain rfl | ht := onRun_next ht
  · simp
  try dsimp only at ht
  subst ht
  simp

@[simp] theorem fabricsDo_keeps (ctrl : Nat) (sq : Nat) (f : Ctrl → State → State) (s : State) {msk : Nat} (h0 : ∀ x0 x1, kept msk (f x0 x1) = kept msk x1) :
    kept msk (fabricsDo ctrl sq f s) = kept msk s := by
  unfold fabricsDo
  (repeat' split) <;> simp [h0]

theorem execPropertyGet_keeps (ctrl : Nat) (cid : Nat) (off : Nat) (s : State) (s' : State) (ht : execPropertyGet ctrl cid off s = .next s') :
    kept 0 s' = kept 0 s := by
  unfold execPropertyGet at ht
  obtain rfl | ht := onRun_next ht
  · rfl
  try dsimp only at ht
  subst ht
  refine fabricsDo_keeps _ _ _ _ (fun y0 y1 => ?_)
  (repeat' split) <;> simp

theorem execPropertySet_keeps (ctrl : Nat) (cid : Nat) (off : Nat) (v : W32) (s : State) (s' : State) (ht : execPropertySet ctrl cid off v s = .next s') :
    kept butNetCipher s' = kept butNetCipher s := by
  unfold execPropertySet at ht
  obtain rfl | ht := onRun_next ht
  · simp
  try dsimp only at ht
  subst ht
  (repeat' split) <;> simp

@[simp] theorem pairsMove_keeps (f : State → State) (s : State) {msk : Nat} (h0 : ∀ x0, kept msk (f x0) = kept msk x0) :
    kept msk (pairsMove f s) = kept msk s := by
  simp [pairsMove, h0]

@[simp] theorem connectAdmin_keeps (slice : Nat) (total : Nat) (disc : Bool) (qp : Nat) (kato : Nat) (s : State) {msk : Nat} (hm : butNet &&& msk = butNet) :
    kept msk (connectAdmin slice total disc qp kato s) = kept msk s := by
  refine kept_mono hm ?_
  unfold connectAdmin
  (repeat' split) <;> simp

@[simp] theorem connectIo_keeps (ctrl : Nat) (qid : Nat) (size : Nat) (qp : Nat) (prio : Fin 4) (c : Ctrl) (sl : Slice) (s : State) {msk : Nat} (hm : butNet &&& msk = butNet) :
    kept msk (connectIo ctrl qid size qp prio c sl s) = kept msk s := by
  refine kept_mono hm ?_
  simp [connectIo]

@[simp] theorem connectCmd_keeps (qp : Nat) (cntlid : Nat) (qid : Nat) (size : Nat) (attr : ConnAttr) (host : List Byte) (sub : List Byte) (s : State) {msk : Nat} (hm : butNet &&& msk = butNet) :
    kept msk (connectCmd qp cntlid qid size attr host sub s) = kept msk s := by
  refine kept_mono hm ?_
  unfold connectCmd
  (repeat' split) <;> simp

theorem execConnect_keeps (qp : Nat) (cntlid : Nat) (qid : Nat) (size : Nat) (attr : ConnAttr) (host : List Byte) (sub : List Byte) (s : State) (s' : State) (ht : execConnect qp cntlid qid size attr host sub s = .next s') :
    kept butNet s' = kept butNet s := by
  unfold execConnect at ht
  obtain rfl | ht := onRun_next ht
  · rfl
  try dsimp only at ht
  subst ht
  (repeat' split) <;> first | (simp; done) | (refine pairsMove_keeps _ _ (fun y0 => ?_); (repeat' split) <;> simp)

theorem execDisconnect_keeps (ctrl : Nat) (qid : Nat) (cid : Nat) (s : State) (s' : State) (ht : execDisconnect ctrl qid cid s = .next s') :
    kept butNetCipher s' = kept butNetCipher s := by
  unfold execDisconnect at ht
  obtain rfl | ht := onRun_next ht
  · rfl
  try dsimp only at ht
  subst ht
  refine pairsMove_keeps _ _ (fun y0 => ?_)
  (repeat' split) <;> simp

theorem execKeepAliveTimeout_keeps (ctrl : Nat) (s : State) (s' : State) (ht : execKeepAliveTimeout ctrl s = .next s') :
    kept butNetCipher s' = kept butNetCipher s := by
  unfold execKeepAliveTimeout at ht
  obtain rfl | ht := onRun_next ht
  · rfl
  try dsimp only at ht
  subst ht
  refine pairsMove_keeps _ _ (fun y0 => ?_)
  (repeat' split) <;> simp

theorem execInterruptCoalescingTimeout_keeps (ctrl : Nat) (cq : Nat) (s : State) (s' : State) (ht : execInterruptCoalescingTimeout ctrl cq s = .next s') :
    kept 0 s' = kept 0 s := by
  unfold execInterruptCoalescingTimeout at ht
  obtain rfl | ht := onRun_next ht
  · simp
  try dsimp only at ht
  subst ht
  (repeat' split) <;> simp

@[simp] theorem adminDo_keeps (ctrl : Nat) (s : State) (f : Ctrl → State → State) {msk : Nat} (hm : butNetCipher &&& msk = butNetCipher) (h0 : ∀ x0 x1, kept msk (f x0 x1) = kept msk x1) :
    kept msk (adminDo ctrl s f) = kept msk s := by
  have hb10 : msk / 1024 % 2 = 1 := bit_of_and hm 10 rfl
  have hb14 : msk / 16384 % 2 = 1 := bit_of_and hm 14 rfl
  unfold adminDo
  (repeat' split) <;> simp [h0, hm, hb10, hb14]

theorem execCreateIoCompletionQueue_keeps (ctrl : Nat) (cid : Nat) (qid : Nat) (size : Nat) (contiguous : Bool) (base : W64) (iv : Option Nat) (s : State) (s' : State) (ht : execCreateIoCompletionQueue ctrl cid qid size contiguous base iv s = .next s') :
    kept butNetCipher s' = kept butNetCipher s := by
  unfold execCreateIoCompletionQueue at ht
  obtain rfl | ht := onRun_next ht
  · simp
  try dsimp only at ht
  subst ht
  simp

theorem execCreateIoSubmissionQueue_keeps (ctrl : Nat) (cid : Nat) (qid : Nat) (size : Nat) (cqid : Nat) (contiguous : Bool) (base : W64) (prio : Fin 4) (s : State) (s' : State) (ht : execCreateIoSubmissionQueue ctrl cid qid size cqid contiguous base prio s = .next s') :
    kept butNetCipher s' = kept butNetCipher s := by
  unfold execCreateIoSubmissionQueue at ht
  obtain rfl | ht := onRun_next ht
  · simp
  try dsimp only at ht
  subst ht
  simp

theorem execDeleteIoSubmissionQueue_keeps (ctrl : Nat) (cid : Nat) (qid : Nat) (s : State) (s' : State) (ht : execDeleteIoSubmissionQueue ctrl cid qid s = .next s') :
    kept butNetCipher s' = kept butNetCipher s := by
  unfold execDeleteIoSubmissionQueue at ht
  obtain rfl | ht := onRun_next ht
  · simp
  try dsimp only at ht
  subst ht
  simp

theorem execDeleteIoCompletionQueue_keeps (ctrl : Nat) (cid : Nat) (qid : Nat) (s : State) (s' : State) (ht : execDeleteIoCompletionQueue ctrl cid qid s = .next s') :
    kept butNetCipher s' = kept butNetCipher s := by
  unfold execDeleteIoCompletionQueue at ht
  obtain rfl | ht := onRun_next ht
  · simp
  try dsimp only at ht
  subst ht
  simp

theorem execAbort_keeps (ctrl : Nat) (cid : Nat) (sq : Nat) (tcid : Nat) (s : State) (s' : State) (ht : execAbort ctrl cid sq tcid s = .next s') :
    kept butNetCipher s' = kept butNetCipher s := by
  unfold execAbort at ht
  obtain rfl | ht := onRun_next ht
  · rfl
  try dsimp only at ht
  subst ht
  refine adminDo_keeps _ _ _ (by simp) (fun y0 y1 => ?_)
  (repeat' split) <;> simp

theorem execAsynchronousEventRequest_keeps (ctrl : Nat) (cid : Nat) (s : State) (s' : State) (ht : execAsynchronousEventRequest ctrl cid s = .next s') :
    kept butNetCipher s' = kept butNetCipher s := by
  unfold execAsynchronousEventRequest at ht
  obtain rfl | ht := onRun_next ht
  · rfl
  try dsimp only at ht
  subst ht
  refine adminDo_keeps _ _ _ (by simp) (fun y0 y1 => ?_)
  (repeat' split) <;> simp

theorem execKeepAlive_keeps (ctrl : Nat) (cid : Nat) (s : State) (s' : State) (ht : execKeepAlive ctrl cid s = .next s') :
    kept butNetCipher s' = kept butNetCipher s := by
  unfold execKeepAlive at ht
  obtain rfl | ht := onRun_next ht
  · simp
  try dsimp only at ht
  subst ht
  simp

@[simp] theorem dataCpl_keeps (ctrl : Nat) (cid : Nat) (c : Ctrl) (ptr : DataPtr) (st : NStatus) (location : Nat) (dw0 : W32) (s : State) {msk : Nat} :
    kept msk (dataCpl ctrl cid c ptr st location dw0 s) = kept msk s := by
  simp [dataCpl]

@[simp] theorem hostPage_keeps (ctrl : Nat) (cid : Nat) (page : Nat) (c : Ctrl) (d : List Byte) (ptr : DataPtr) (dw0 : W32) (s : State) {msk : Nat} :
    kept msk (hostPage ctrl cid page c d ptr dw0 s) = kept msk s := by
  unfold hostPage
  (repeat' split) <;> simp

@[simp] theorem setQueues_keeps (ctrl : Nat) (cid : Nat) (v : W32) (c : Ctrl) (s : State) {msk : Nat} :
    kept msk (setQueues ctrl cid v c s) = kept msk s := by
  simp [setQueues]

@[simp] theorem setVector_keeps (ctrl : Nat) (cid : Nat) (v : W32) (c : Ctrl) (s : State) {msk : Nat} :
    kept msk (setVector ctrl cid v c s) = kept msk s := by
  simp [setVector]

@[simp] theorem setHostId_keeps (ctrl : Nat) (cid : Nat) (v : W32) (data : List Byte) (ptr : DataPtr) (c : Ctrl) (s : State) {msk : Nat} :
    kept msk (setHostId ctrl cid v data ptr c s) = kept msk s := by
  unfold setHostId
  (try dsimp only) <;> (repeat' split) <;> first | rfl | (simp; done) | ((repeat' split) <;> simp; done) | simp_all

@[simp] theorem setFeature_keeps (ctrl : Nat) (cid : Nat) (f : Nat) (v : W32) (data : List Byte) (ptr : DataPtr) (c : Ctrl) (s : State) {msk : Nat} :
    kept msk (setFeature ctrl cid f v data ptr c s) = kept msk s := by
  simp [setFeature]

theorem execSetFeatures_keeps (ctrl : Nat) (cid : Nat) (fid : Nat) (v : W32) (data : List Byte) (ptr : DataPtr) (s : State) (s' : State) (ht : execSetFeatures ctrl cid fid v data ptr s = .next s') :
    kept butNetCipher s' = kept butNetCipher s := by
  unfold execSetFeatures at ht
  obtain rfl | ht := onRun_next ht
  · simp
  try dsimp only at ht
  subst ht
  simp

theorem execGetFeatures_keeps (ctrl : Nat) (cid : Nat) (fid : Nat) (arg : W32) (ptr : DataPtr) (s : State) (s' : State) (ht : execGetFeatures ctrl cid fid arg ptr s = .next s') :
    kept butNetCipher s' = kept butNetCipher s := by
  unfold execGetFeatures at ht
  obtain rfl | ht := onRun_next ht
  · simp
  try dsimp only at ht
  subst ht
  simp

theorem execGetLogPage_keeps (ctrl : Nat) (cid : Nat) (lid : Nat) (off : Nat) (len : Nat) (ptr : DataPtr) (s : State) (s' : State) (ht : execGetLogPage ctrl cid lid off len ptr s = .next s') :
    kept butNetCipher s' = kept butNetCipher s := by
  unfold execGetLogPage at ht
  obtain rfl | ht := onRun_next ht
  · rfl
  subst ht
  refine adminDo_keeps _ _ _ (by simp) fun c y => ?_
  try dsimp only
  split
  · simp
  · have e := logPage_keeps _ _ _ _ ‹_› (msk := butNetCipher)
    (repeat' split) <;> simp_all

theorem execIdentify_keeps (ctrl : Nat) (cid : Nat) (cns : Nat) (nsid : Nat) (ptr : DataPtr) (s : State) (s' : State) (ht : execIdentify ctrl cid cns nsid ptr s = .next s') :
    kept butNetCipher s' = kept butNetCipher s := by
  unfold execIdentify at ht
  obtain rfl | ht := onRun_next ht
  · rfl
  try dsimp only at ht
  subst ht
  refine adminDo_keeps _ _ _ (by simp) (fun y0 y1 => ?_)
  (repeat' split) <;> simp

theorem execFormatNvm_keeps (ctrl : Nat) (cid : Nat) (nsid : Nat) (lbaf : Nat) (ses : Nat) (s : State) (s' : State) (ht : execFormatNvm ctrl cid nsid lbaf ses s = .next s') :
    kept butNetNsCipher s' = kept butNetNsCipher s := by
  unfold execFormatNvm at ht
  obtain rfl | ht := onRun_next ht
  · rfl
  try dsimp only at ht
  subst ht
  refine adminDo_keeps _ _ _ (by simp) (fun y0 y1 => ?_)
  (repeat' split) <;> simp

/-! ## NetQp -/

@[simp] theorem touchQp_keeps (n : Nat) (s : State) {msk : Nat} (hm : butNet &&& msk = butNet) :
    kept msk (touchQp n s) = kept msk s := by
  refine kept_mono hm ?_
  simp [touchQp]

@[simp] theorem errorQp_keeps (n : Nat) (st : WrStatus) (s : State) {msk : Nat} (hm : butNetCipher &&& msk = butNetCipher) :
    kept msk (errorQp n st s) = kept msk s := by
  refine kept_mono hm ?_
  unfold errorQp
  (repeat' split) <;> simp

@[simp] theorem errorQps_keeps (st : WrStatus) (a0 : List Nat) (a1 : State) {msk : Nat} (hm : butNetCipher &&& msk = butNetCipher) :
    kept msk (errorQps st a0 a1) = kept msk a1 := by
  refine kept_mono hm ?_
  induction a0 generalizing st a1 with
  | nil => simp [errorQps]
  | cons x l ih => simp [errorQps, ih]

@[simp] theorem sendReq_keeps (n : Nat) (lport : Nat) (r : QpReq) (s : State) {msk : Nat} (hm : butNet &&& msk = butNet) :
    kept msk (sendReq n lport r s) = kept msk s := by
  refine kept_mono hm ?_
  simp [sendReq]

@[simp] theorem sendReqs_keeps (n : Nat) (lport : Nat) (a0 : List QpReq) (a1 : State) {msk : Nat} (hm : butNet &&& msk = butNet) :
    kept msk (sendReqs n lport a0 a1) = kept msk a1 := by
  refine kept_mono hm ?_
  induction a0 generalizing n lport a1 with
  | nil => simp [sendReqs]
  | cons x l ih => simp [sendReqs, ih]

@[simp] theorem transmit_keeps (n : Nat) (q : Qp) (op : WrOp) (wr : WorkReq) (s : State) {msk : Nat} (hm : butNet &&& msk = butNet) :
    kept msk (transmit n q op wr s) = kept msk s := by
  refine kept_mono hm ?_
  simp [transmit]

theorem launchQp_keeps (n : Nat) (s : State) (r : State × List NetQ) (h : launchQp n s = some r) :
    kept butNet r.1 = kept butNet s := by
  unfold launchQp at h
  dsimp only at h
  (repeat' split at h) <;> first | (cases h; done) | (cases h; simp; done)

@[simp] theorem completeReqs_keeps (n : Nat) (q : Qp) (rs : List QpReq) (s : State) {msk : Nat} (hm : butNet &&& msk = butNet) :
    kept msk ((completeReqs n q rs s).1) = kept msk s := by
  refine kept_mono hm ?_
  simp [completeReqs]

@[simp] theorem goBack_keeps (n : Nat) (s : State) {msk : Nat} (hm : butNet &&& msk = butNet) :
    kept msk (goBack n s) = kept msk s := by
  refine kept_mono hm ?_
  unfold goBack
  (repeat' split) <;> simp

/-! ## NetDg -/

theorem launchEp_keeps (n : Nat) (s : State) (r : State × List NetQ) (h : launchEp n s = some r) :
    kept butNetCluster r.1 = kept butNetCluster s := by
  unfold launchEp at h
  dsimp only at h
  (repeat' split at h) <;> first | (cases h; done) | (cases h; simp; done)

theorem launch_keeps (q : NetQ) (s : State) (r : State × List NetQ) (h : launch q s = some r) :
    kept butNetCluster r.1 = kept butNetCluster s := by
  cases q with
  | qp n => exact kept_mono rfl (launchQp_keeps n s r h)
  | ep n => exact launchEp_keeps n s r h

@[simp] theorem pump_keeps (a0 : Nat) (a1 : List NetQ) (a2 : State) {msk : Nat} (hm : butNetCluster &&& msk = butNetCluster) :
    kept msk (pump a0 a1 a2) = kept msk a2 := by
  refine kept_mono hm ?_
  induction a0 generalizing a1 a2 with
  | zero => cases a1 <;> simp [pump]
  | succ f ih =>
    cases a1 with
    | nil => simp [pump]
    | cons q qs =>
      unfold pump
      split
      · rename_i s1 more h
        have := launch_keeps _ _ _ h
        simp_all
      · simp [ih]

@[simp] theorem pumpQs_keeps (qs : List NetQ) (s : State) {msk : Nat} (hm : butNetCluster &&& msk = butNetCluster) :
    kept msk (pumpQs qs s) = kept msk s := by
  refine kept_mono hm ?_
  simp [pumpQs]

@[simp] theorem pumped_keeps (r : State × List NetQ) {msk : Nat} (hm : butNetCluster &&& msk = butNetCluster) :
    kept msk (pumped r) = kept msk r.1 := by
  refine kept_mono hm ?_
  simp [pumped]

@[simp] theorem openFailed_keeps (rel : Nat) (s : State) {msk : Nat} (hm : butRepls &&& msk = butRepls) :
    kept msk (openFailed rel s) = kept msk s := by
  refine kept_mono hm ?_
  unfold openFailed
  (repeat' split) <;> simp

@[simp] theorem lostMsg_keeps (m : Option CluMsg) (s : State) {msk : Nat} (hm : butRepls &&& msk = butRepls) :
    kept msk (lostMsg m s) = kept msk s := by
  refine kept_mono hm ?_
  unfold lostMsg
  (repeat' split) <;> simp

@[simp] theorem endMsg_keeps (node : Nat) (id : W32) (st : WrStatus) (s : State) {msk : Nat} (hm : butNetReplsCluster &&& msk = butNetReplsCluster) :
    kept msk (endMsg node id st s) = kept msk s := by
  refine kept_mono hm ?_
  unfold endMsg
  (repeat' split) <;> simp

@[simp] theorem returnBuffer_keeps (e : Reasm) (s : State) {msk : Nat} (hm : butNet &&& msk = butNet) :
    kept msk (returnBuffer e s) = kept msk s := by
  refine kept_mono hm ?_
  unfold returnBuffer
  (repeat' split) <;> simp

@[simp] theorem freeEntry_keeps (k : Nat) (s : State) {msk : Nat} (hm : butNet &&& msk = butNet) :
    kept msk (freeEntry k s) = kept msk s := by
  refine kept_mono hm ?_
  simp [freeEntry]

@[simp] theorem setEntry_keeps (k : Nat) (e : Reasm) (s : State) {msk : Nat} (hm : butNet &&& msk = butNet) :
    kept msk (setEntry k e s) = kept msk s := by
  refine kept_mono hm ?_
  simp [setEntry]

@[simp] theorem dropEntry_keeps (k : Nat) (s : State) {msk : Nat} (hm : butNet &&& msk = butNet) :
    kept msk (dropEntry k s) = kept msk s := by
  refine kept_mono hm ?_
  unfold dropEntry
  (repeat' split) <;> simp

@[simp] theorem dropEntries_keeps (a0 : List Nat) (a1 : State) {msk : Nat} (hm : butNet &&& msk = butNet) :
    kept msk (dropEntries a0 a1) = kept msk a1 := by
  refine kept_mono hm ?_
  induction a0 generalizing a1 with
  | nil => simp [dropEntries]
  | cons x l ih => simp [dropEntries, ih]

@[simp] theorem settleRegions_keeps (s : State) {msk : Nat} (hm : butNet &&& msk = butNet) :
    kept msk (settleRegions s) = kept msk s := by
  refine kept_mono hm ?_
  simp [settleRegions]

/-! ## Network -/

@[simp] theorem lportDown_keeps (l : Nat) (s : State) {msk : Nat} (hm : butNetCipher &&& msk = butNetCipher) :
    kept msk (lportDown l s) = kept msk s := by
  refine kept_mono hm ?_
  simp [lportDown]

@[simp] theorem lportsDown_keeps (a0 : List Nat) (a1 : State) {msk : Nat} (hm : butNetCipher &&& msk = butNetCipher) :
    kept msk (lportsDown a0 a1) = kept msk a1 := by
  refine kept_mono hm ?_
  induction a0 generalizing a1 with
  | nil => simp [lportsDown]
  | cons x l ih => simp [lportsDown, ih]

@[simp] theorem netPortDown_keeps (p : Nat) (s : State) {msk : Nat} (hm : butNetCipher &&& msk = butNetCipher) :
    kept msk (netPortDown p s) = kept msk s := by
  refine kept_mono hm ?_
  simp [netPortDown]

theorem execNetLinkDown_keeps (l : Fin 32) (s : State) (s' : State) (ht : execNetLinkDown l s = .next s') :
    kept butNetCipher s' = kept butNetCipher s := by
  unfold execNetLinkDown at ht
  obtain rfl | ht := onLive_next ht
  · simp
  try dsimp only at ht
  subst ht
  simp

theorem execNetLinkUp_keeps (l : Fin 32) (s : State) (s' : State) (ht : execNetLinkUp l s = .next s') :
    kept butNet s' = kept butNet s := by
  unfold execNetLinkUp at ht
  obtain rfl | ht := onRun_next ht
  · simp
  try dsimp only at ht
  subst ht
  simp

theorem execNetPortConfig_keeps (h : MbxHdr) (port : Byte) (breakout : Byte) (pfc : Byte) (mtu : W16) (s : State) (s' : State) (ht : execNetPortConfig h port breakout pfc mtu s = .next s') :
    kept butNetCipher s' = kept butNetCipher s := by
  unfold execNetPortConfig at ht
  obtain rfl | ht := onRun_next ht
  · simp
  try dsimp only at ht
  subst ht
  refine mbxStart_keeps _ _ _ _ _ (fun x => ?_)
  refine tryDo_keeps _ _ _ (fun y => ?_)
  simp

theorem execNetPortQuery_keeps (h : MbxHdr) (port : Byte) (corrected : Nat) (uncorrected : Nat) (s : State) (s' : State) (ht : execNetPortQuery h port corrected uncorrected s = .next s') :
    kept butNet s' = kept butNet s := by
  unfold execNetPortQuery at ht
  obtain rfl | ht := onRun_next ht
  · simp
  try dsimp only at ht
  subst ht
  first | (simp; done) | (refine mbxStart_keeps _ _ _ _ _ (fun y0 => ?_) <;> (try dsimp only) <;> first | (simp; done) | ((repeat' split) <;> simp; done))

@[simp] theorem onPort_keeps (l : Nat) (f : State → State) (s : State) {msk : Nat} (hm : butNet &&& msk = butNet) (h0 : ∀ x0, kept msk (f x0) = kept msk x0) :
    kept msk (onPort l f s) = kept msk s := by
  have hb10 : msk / 1024 % 2 = 1 := bit_of_and hm 10 rfl
  simp [onPort, h0, hm, hb10]

theorem execArpRequest_keeps (l : Fin 32) (target : W32) (s : State) (s' : State) (ht : execArpRequest l target s = .next s') :
    kept butNet s' = kept butNet s := by
  unfold execArpRequest at ht
  obtain rfl | ht := onRun_next ht
  · simp
  try dsimp only at ht
  subst ht
  simp

theorem execNeighborSolicitation_keeps (l : Fin 32) (target : BitVec 128) (s : State) (s' : State) (ht : execNeighborSolicitation l target s = .next s') :
    kept butNet s' = kept butNet s := by
  unfold execNeighborSolicitation at ht
  obtain rfl | ht := onRun_next ht
  · simp
  try dsimp only at ht
  subst ht
  simp

theorem execIcmpEcho_keeps (l : Fin 32) (dst : IpAddr) (s : State) (s' : State) (ht : execIcmpEcho l dst s = .next s') :
    kept butNet s' = kept butNet s := by
  unfold execIcmpEcho at ht
  obtain rfl | ht := onRun_next ht
  · simp
  try dsimp only at ht
  subst ht
  simp

theorem execRouterAdvertisement_keeps (l : Fin 32) (pre : BitVec 64) (autonomous : Bool) (valid : W32) (preferred : W32) (s : State) (s' : State) (ht : execRouterAdvertisement l pre autonomous valid preferred s = .next s') :
    kept butNet s' = kept butNet s := by
  unfold execRouterAdvertisement at ht
  obtain rfl | ht := onRun_next ht
  · simp
  try dsimp only at ht
  subst ht
  first | (simp; done) | (refine onPort_keeps _ _ _ (by simp) (fun y0 => ?_) <;> (try dsimp only) <;> first | (simp; done) | ((repeat' split) <;> simp; done))

theorem execDhcpv4Message_keeps (l : Fin 32) (kind : DhcpKind) (ip : W32) (lease : W32) (s : State) (s' : State) (ht : execDhcpv4Message l kind ip lease s = .next s') :
    kept butNet s' = kept butNet s := by
  unfold execDhcpv4Message at ht
  obtain rfl | ht := onRun_next ht
  · simp
  try dsimp only at ht
  subst ht
  first | (simp; done) | (refine onPort_keeps _ _ _ (by simp) (fun y0 => ?_) <;> (try dsimp only) <;> first | (simp; done) | ((repeat' split) <;> simp; done))

theorem execDhcpv4LeaseTimer_keeps (l : Fin 32) (s : State) (s' : State) (ht : execDhcpv4LeaseTimer l s = .next s') :
    kept butNet s' = kept butNet s := by
  unfold execDhcpv4LeaseTimer at ht
  obtain rfl | ht := onRun_next ht
  · simp
  try dsimp only at ht
  subst ht
  simp

theorem execPfcFrame_keeps (l : Fin 32) (prio : Option (Fin 8)) (quanta : W16) (s : State) (s' : State) (ht : execPfcFrame l prio quanta s = .next s') :
    kept butNet s' = kept butNet s := by
  unfold execPfcFrame at ht
  obtain rfl | ht := onRun_next ht
  · simp
  try dsimp only at ht
  subst ht
  first | (simp; done) | (refine onPort_keeps _ _ _ (by simp) (fun y0 => ?_) <;> (try dsimp only) <;> first | (simp; done) | ((repeat' split) <;> simp; done))

@[simp] theorem removeQp_keeps (n : Nat) (s : State) {msk : Nat} (hm : butNetCipher &&& msk = butNetCipher) :
    kept msk (removeQp n s) = kept msk s := by
  refine kept_mono hm ?_
  simp [removeQp]

@[simp] theorem registerOne_keeps (r : RegionReq) (s : State) {msk : Nat} (hm : butNet &&& msk = butNet) :
    kept msk (registerOne r s) = kept msk s := by
  refine kept_mono hm ?_
  simp [registerOne]

@[simp] theorem registerAll_keeps (a0 : List RegionReq) (a1 : State) {msk : Nat} (hm : butNet &&& msk = butNet) :
    kept msk (registerAll a0 a1) = kept msk a1 := by
  refine kept_mono hm ?_
  induction a0 generalizing a1 with
  | nil => simp [registerAll]
  | cons x l ih => simp [registerAll, ih]

@[simp] theorem destroyAll_keeps (a0 : List W32) (a1 : State) {msk : Nat} (hm : butNet &&& msk = butNet) :
    kept msk (destroyAll a0 a1) = kept msk a1 := by
  refine kept_mono hm ?_
  induction a0 generalizing a1 with
  | nil => simp [destroyAll]
  | cons x l ih => simp [destroyAll, ih]

@[simp] theorem applySetup_keeps (f : FwSetup) (s : State) {msk : Nat} (hm : butNet &&& msk = butNet) :
    kept msk (applySetup f s) = kept msk s := by
  refine kept_mono hm ?_
  simp [applySetup]

theorem execCmMad_keeps (kind : CmKind) (setup : FwSetup) (s : State) (s' : State) (ht : execCmMad kind setup s = .next s') :
    kept butNetClusterCipher s' = kept butNetClusterCipher s := by
  unfold execCmMad at ht
  obtain rfl | ht := onRun_next ht
  · simp
  try dsimp only at ht
  subst ht
  (repeat' split) <;> first | (simp; done) | (first | (simp; done) | (refine onPort_keeps _ _ _ (by simp) (fun y0 => ?_) <;> (try dsimp only) <;> (repeat' split) <;> simp; done))

@[simp] theorem noteCe_keeps (n : Nat) (q : Qp) (ce : Bool) (s : State) {msk : Nat} (hm : butNet &&& msk = butNet) :
    kept msk (noteCe n q ce s) = kept msk s := by
  refine kept_mono hm ?_
  simp [noteCe]

@[simp] theorem roceReply_keeps (n : Nat) (o : Out) (s : State) {msk : Nat} (hm : butNet &&& msk = butNet) :
    kept msk (roceReply n o s) = kept msk s := by
  refine kept_mono hm ?_
  unfold roceReply
  (repeat' split) <;> simp

@[simp] theorem roceViolation_keeps (n : Nat) (q : Qp) (psn : Nat) (addr : W64) (key : W32) (s : State) {msk : Nat} (hm : butNetCipher &&& msk = butNetCipher) :
    kept msk (roceViolation n q psn addr key s) = kept msk s := by
  refine kept_mono hm ?_
  simp [roceViolation]

@[simp] theorem roceAccept_keeps (n : Nat) (pk : RocePkt) (s : State) {msk : Nat} (hm : butNet &&& msk = butNet) :
    kept msk (roceAccept n pk s) = kept msk s := by
  refine kept_mono hm ?_
  simp [roceAccept]

@[simp] theorem capsuleIn_keeps (ctrl : Nat) (sq : Nat) (s : State) {msk : Nat} :
    kept msk (capsuleIn ctrl sq s) = kept msk s := by
  simp [capsuleIn]

@[simp] theorem roceSend_keeps (n : Nat) (q : Qp) (op : RoceOp) (pk : RocePkt) (s : State) {msk : Nat} (hm : butOnchipNetClusterCipher &&& msk = butOnchipNetClusterCipher) :
    kept msk (roceSend n q op pk s) = kept msk s := by
  refine kept_mono hm ?_
  unfold roceSend
  (repeat' split) <;> simp

@[simp] theorem roceReadAnswer_keeps (n : Nat) (pk : RocePkt) (s : State) {msk : Nat} (hm : butNet &&& msk = butNet) :
    kept msk (roceReadAnswer n pk s) = kept msk s := by
  refine kept_mono hm ?_
  simp [roceReadAnswer]

@[simp] theorem roceExecute_keeps (n : Nat) (q : Qp) (op : RoceOp) (pk : RocePkt) (s : State) {msk : Nat} (hm : butOnchipNetClusterCipher &&& msk = butOnchipNetClusterCipher) :
    kept msk (roceExecute n q op pk s) = kept msk s := by
  refine kept_mono hm ?_
  unfold roceExecute
  (repeat' split) <;> simp

@[simp] theorem roceJudge_keeps (op : RoceOp) (pk : RocePkt) (s : State) {msk : Nat} (hm : butOnchipNetClusterCipher &&& msk = butOnchipNetClusterCipher) :
    kept msk (roceJudge op pk s) = kept msk s := by
  refine kept_mono hm ?_
  unfold roceJudge
  (repeat' split) <;> simp

@[simp] theorem roceAckTo_keeps (n : Nat) (psn : Nat) (s : State) {msk : Nat} (hm : butNetCluster &&& msk = butNetCluster) :
    kept msk (roceAckTo n psn s) = kept msk s := by
  refine kept_mono hm ?_
  unfold roceAckTo
  (repeat' split) <;> simp

@[simp] theorem dataAcked_keeps (n : Nat) (psn : Nat) (s : State) {msk : Nat} (hm : butNetCipher &&& msk = butNetCipher) :
    kept msk (dataAcked n psn s) = kept msk s := by
  refine kept_mono hm ?_
  unfold dataAcked
  (repeat' split) <;> simp

@[simp] theorem takeAck_keeps (n : Nat) (psn : Nat) (s : State) {msk : Nat} (hm : butNetClusterCipher &&& msk = butNetClusterCipher) :
    kept msk (takeAck n psn s) = kept msk s := by
  refine kept_mono hm ?_
  unfold takeAck
  (repeat' split) <;> simp

@[simp] theorem hostData_keeps (id : Nat) (len : Nat) (s : State) {msk : Nat} (hm : butNetCipher &&& msk = butNetCipher) :
    kept msk (hostData id len s) = kept msk s := by
  refine kept_mono hm ?_
  unfold hostData
  (repeat' split) <;> simp

@[simp] theorem takeReadRsp_keeps (n : Nat) (psn : Nat) (data : List Byte) (cmd : Option Nat) (s : State) {msk : Nat} (hm : butOnchipNetClusterCipher &&& msk = butOnchipNetClusterCipher) :
    kept msk (takeReadRsp n psn data cmd s) = kept msk s := by
  refine kept_mono hm ?_
  unfold takeReadRsp
  (try dsimp only) <;> (repeat' split) <;> first | rfl | (simp; done) | ((repeat' split) <;> simp; done) | simp_all

@[simp] theorem takeNak_keeps (n : Nat) (psn : Nat) (why : RoceNak) (cmd : Option Nat) (s : State) {msk : Nat} (hm : butNetClusterCipher &&& msk = butNetClusterCipher) :
    kept msk (takeNak n psn why cmd s) = kept msk s := by
  refine kept_mono hm ?_
  unfold takeNak
  (try dsimp only) <;> (repeat' split) <;> first | rfl | (simp; done) | ((repeat' split) <;> simp; done) | simp_all

@[simp] theorem takeCnp_keeps (n : Nat) (s : State) {msk : Nat} (hm : butNet &&& msk = butNet) :
    kept msk (takeCnp n s) = kept msk s := by
  refine kept_mono hm ?_
  unfold takeCnp
  (repeat' split) <;> simp

@[simp] theorem qpJudge_keeps (n : Nat) (p : QpPkt) (s : State) {msk : Nat} (hm : butOnchipNetClusterCipher &&& msk = butOnchipNetClusterCipher) :
    kept msk (qpJudge n p s) = kept msk s := by
  refine kept_mono hm ?_
  unfold qpJudge
  (repeat' split) <;> simp

@[simp] theorem qpArrive_keeps (n : Nat) (q : Qp) (p : QpPkt) (s : State) {msk : Nat} (hm : butOnchipNetClusterCipher &&& msk = butOnchipNetClusterCipher) :
    kept msk (qpArrive n q p s) = kept msk s := by
  refine kept_mono hm ?_
  simp [qpArrive]

@[simp] theorem qpPacket_keeps (n : Nat) (p : QpPkt) (s : State) {msk : Nat} (hm : butOnchipNetClusterCipher &&& msk = butOnchipNetClusterCipher) :
    kept msk (qpPacket n p s) = kept msk s := by
  refine kept_mono hm ?_
  unfold qpPacket
  (repeat' split) <;> simp

@[simp] theorem roceIn_keeps (op : RoceOp) (pk : RocePkt) (s : State) {msk : Nat} (hm : butOnchipNetClusterCipher &&& msk = butOnchipNetClusterCipher) :
    kept msk (roceIn op pk s) = kept msk s := by
  refine kept_mono hm ?_
  unfold roceIn
  (repeat' split) <;> simp

theorem execRoceSend_keeps (pk : RocePkt) (s : State) (s' : State) (ht : execRoceSend pk s = .next s') :
    kept butOnchipNetClusterCipher s' = kept butOnchipNetClusterCipher s := by
  unfold execRoceSend at ht
  obtain rfl | ht := onRun_next ht
  · simp
  try dsimp only at ht
  subst ht
  simp

theorem execRoceSendWithImmediate_keeps (pk : RocePkt) (s : State) (s' : State) (ht : execRoceSendWithImmediate pk s = .next s') :
    kept butOnchipNetClusterCipher s' = kept butOnchipNetClusterCipher s := by
  unfold execRoceSendWithImmediate at ht
  obtain rfl | ht := onRun_next ht
  · simp
  try dsimp only at ht
  subst ht
  simp

theorem execRoceSendWithInvalidate_keeps (pk : RocePkt) (s : State) (s' : State) (ht : execRoceSendWithInvalidate pk s = .next s') :
    kept butOnchipNetClusterCipher s' = kept butOnchipNetClusterCipher s := by
  unfold execRoceSendWithInvalidate at ht
  obtain rfl | ht := onRun_next ht
  · simp
  try dsimp only at ht
  subst ht
  simp

theorem execRoceRdmaWrite_keeps (pk : RocePkt) (s : State) (s' : State) (ht : execRoceRdmaWrite pk s = .next s') :
    kept butOnchipNetClusterCipher s' = kept butOnchipNetClusterCipher s := by
  unfold execRoceRdmaWrite at ht
  obtain rfl | ht := onRun_next ht
  · simp
  try dsimp only at ht
  subst ht
  simp

theorem execRoceRdmaReadRequest_keeps (pk : RocePkt) (s : State) (s' : State) (ht : execRoceRdmaReadRequest pk s = .next s') :
    kept butOnchipNetClusterCipher s' = kept butOnchipNetClusterCipher s := by
  unfold execRoceRdmaReadRequest at ht
  obtain rfl | ht := onRun_next ht
  · simp
  try dsimp only at ht
  subst ht
  simp

theorem execRoceAck_keeps (n : Nat) (psn : Nat) (s : State) (s' : State) (ht : execRoceAck n psn s = .next s') :
    kept butOnchipNetClusterCipher s' = kept butOnchipNetClusterCipher s := by
  unfold execRoceAck at ht
  obtain rfl | ht := onRun_next ht
  · simp
  try dsimp only at ht
  subst ht
  (repeat' split) <;> first | (simp; done) | (first | (simp; done) | (refine onPort_keeps _ _ _ (by simp) (fun y0 => ?_) <;> (try dsimp only) <;> (repeat' split) <;> simp; done))

theorem execRoceReadResponse_keeps (n : Nat) (psn : Nat) (data : List Byte) (cmd : Option Nat) (s : State) (s' : State) (ht : execRoceReadResponse n psn data cmd s = .next s') :
    kept butOnchipNetClusterCipher s' = kept butOnchipNetClusterCipher s := by
  unfold execRoceReadResponse at ht
  obtain rfl | ht := onRun_next ht
  · simp
  try dsimp only at ht
  subst ht
  (repeat' split) <;> first | (simp; done) | (first | (simp; done) | (refine onPort_keeps _ _ _ (by simp) (fun y0 => ?_) <;> (try dsimp only) <;> (repeat' split) <;> simp; done))

theorem execRoceNak_keeps (n : Nat) (psn : Nat) (why : RoceNak) (cmd : Option Nat) (s : State) (s' : State) (ht : execRoceNak n psn why cmd s = .next s') :
    kept butOnchipNetClusterCipher s' = kept butOnchipNetClusterCipher s := by
  unfold execRoceNak at ht
  obtain rfl | ht := onRun_next ht
  · simp
  try dsimp only at ht
  subst ht
  (repeat' split) <;> first | (simp; done) | (first | (simp; done) | (refine onPort_keeps _ _ _ (by simp) (fun y0 => ?_) <;> (try dsimp only) <;> (repeat' split) <;> simp; done))

theorem execRoceCnp_keeps (n : Nat) (s : State) (s' : State) (ht : execRoceCnp n s = .next s') :
    kept butOnchipNetClusterCipher s' = kept butOnchipNetClusterCipher s := by
  unfold execRoceCnp at ht
  obtain rfl | ht := onRun_next ht
  · simp
  try dsimp only at ht
  subst ht
  (repeat' split) <;> first | (simp; done) | (first | (simp; done) | (refine onPort_keeps _ _ _ (by simp) (fun y0 => ?_) <;> (try dsimp only) <;> (repeat' split) <;> simp; done))

@[simp] theorem judgeAll_keeps (n : Nat) (a0 : List QpPkt) (a1 : State) {msk : Nat} (hm : butOnchipNetClusterCipher &&& msk = butOnchipNetClusterCipher) :
    kept msk (judgeAll n a0 a1) = kept msk a1 := by
  refine kept_mono hm ?_
  induction a0 generalizing a1 with
  | nil => simp [judgeAll]
  | cons x l ih => simp [judgeAll, ih]

theorem execQpContextFetched_keeps (n : Nat) (s : State) (s' : State) (ht : execQpContextFetched n s = .next s') :
    kept butOnchipNetClusterCipher s' = kept butOnchipNetClusterCipher s := by
  unfold execQpContextFetched at ht
  obtain rfl | ht := onRun_next ht
  · simp
  try dsimp only at ht
  subst ht
  split
  · simp
  · split
    · simp
    · split
      · simp
      · rename_i h
        split at h
        · cases h; simp
        · simp only [Option.map_eq_some_iff] at h
          obtain ⟨v, -, rfl⟩ := h
          simp

theorem execRateIncreaseTick_keeps (r : RateOf) (s : State) (s' : State) (ht : execRateIncreaseTick r s = .next s') :
    kept butNet s' = kept butNet s := by
  unfold execRateIncreaseTick at ht
  obtain rfl | ht := onRun_next ht
  · simp
  try dsimp only at ht
  subst ht
  (repeat' split) <;> simp

theorem execQpRetransmitTimeout_keeps (n : Nat) (s : State) (s' : State) (ht : execQpRetransmitTimeout n s = .next s') :
    kept butNetCipher s' = kept butNetCipher s := by
  unfold execQpRetransmitTimeout at ht
  obtain rfl | ht := onRun_next ht
  · simp
  try dsimp only at ht
  subst ht
  (repeat' split) <;> simp

@[simp] theorem postWr_keeps (q : NetQ) (op : WrOp) (wr : WorkReq) (s : State) {msk : Nat} (hm : butNetCluster &&& msk = butNetCluster) :
    kept msk (postWr q op wr s) = kept msk s := by
  refine kept_mono hm ?_
  simp [postWr]

theorem execWrSend_keeps (q : NetQ) (wr : WorkReq) (s : State) (s' : State) (ht : execWrSend q wr s = .next s') :
    kept butNetCluster s' = kept butNetCluster s := by
  unfold execWrSend at ht
  obtain rfl | ht := onRun_next ht
  · simp
  try dsimp only at ht
  subst ht
  simp

theorem execWrWrite_keeps (q : NetQ) (wr : WorkReq) (s : State) (s' : State) (ht : execWrWrite q wr s = .next s') :
    kept butNetCluster s' = kept butNetCluster s := by
  unfold execWrWrite at ht
  obtain rfl | ht := onRun_next ht
  · simp
  try dsimp only at ht
  subst ht
  simp

theorem execWrRead_keeps (qp : Nat) (wr : WorkReq) (s : State) (s' : State) (ht : execWrRead qp wr s = .next s') :
    kept butNetCluster s' = kept butNetCluster s := by
  unfold execWrRead at ht
  obtain rfl | ht := onRun_next ht
  · simp
  try dsimp only at ht
  subst ht
  simp

theorem execWrSendWithInvalidate_keeps (qp : Nat) (wr : WorkReq) (s : State) (s' : State) (ht : execWrSendWithInvalidate qp wr s = .next s') :
    kept butNetCluster s' = kept butNetCluster s := by
  unfold execWrSendWithInvalidate at ht
  obtain rfl | ht := onRun_next ht
  · simp
  try dsimp only at ht
  subst ht
  simp

theorem execWrNop_keeps (q : NetQ) (wr : WorkReq) (s : State) (s' : State) (ht : execWrNop q wr s = .next s') :
    kept butNetCluster s' = kept butNetCluster s := by
  unfold execWrNop at ht
  obtain rfl | ht := onRun_next ht
  · simp
  try dsimp only at ht
  subst ht
  simp

theorem execReceiveBufferPost_keeps (q : NetQ) (b : RecvBuf) (setup : FwSetup) (s : State) (s' : State) (ht : execReceiveBufferPost q b setup s = .next s') :
    kept butNet s' = kept butNet s := by
  unfold execReceiveBufferPost at ht
  obtain rfl | ht := onRun_next ht
  · simp
  try dsimp only at ht
  subst ht
  (repeat' split) <;> simp

@[simp] theorem ackTo_keeps (l : Nat) (pk : DataPkt) (echo : Bool) (done : Bool) (base : Nat) (bits : List Nat) (s : State) {msk : Nat} (hm : butNet &&& msk = butNet) :
    kept msk (ackTo l pk echo done base bits s) = kept msk s := by
  refine kept_mono hm ?_
  simp [ackTo]

@[simp] theorem nakTo_keeps (l : Nat) (pk : DataPkt) (r : NakReason) (detail : Nat) (s : State) {msk : Nat} (hm : butNet &&& msk = butNet) :
    kept msk (nakTo l pk r detail s) = kept msk s := by
  refine kept_mono hm ?_
  simp [nakTo]

@[simp] theorem ackEach_keeps (k : Nat) (e : Reasm) (a0 : List (Nat × List Nat)) (a1 : State) {msk : Nat} (hm : butNet &&& msk = butNet) :
    kept msk (ackEach k e a0 a1) = kept msk a1 := by
  refine kept_mono hm ?_
  induction a0 generalizing a1 with
  | nil => simp [ackEach]
  | cons x l ih => simp [ackEach, ih]

@[simp] theorem ackEntry_keeps (k : Nat) (e : Reasm) (s : State) {msk : Nat} (hm : butNet &&& msk = butNet) :
    kept msk (ackEntry k e s) = kept msk s := by
  refine kept_mono hm ?_
  simp [ackEntry]

@[simp] theorem completeMsg_keeps (l : Nat) (k : Nat) (e : Reasm) (pk : DataPkt) (s : State) {msk : Nat} (hm : butNetCluster &&& msk = butNetCluster) :
    kept msk (completeMsg l k e pk s) = kept msk s := by
  refine kept_mono hm ?_
  unfold completeMsg
  (repeat' split) <;> simp

@[simp] theorem lengthFault_keeps (l : Nat) (k : Nat) (e : Reasm) (pk : DataPkt) (s : State) {msk : Nat} (hm : butNet &&& msk = butNet) :
    kept msk (lengthFault l k e pk s) = kept msk s := by
  refine kept_mono hm ?_
  unfold lengthFault
  (repeat' split) <;> simp

theorem assign_keeps (e : Reasm) (pk : DataPkt) (s : State) (r : Reasm × State) (h : assign e pk s = .ok r) :
    kept butNet r.2 = kept butNet s := by
  unfold assign at h
  (repeat' split at h) <;> first | (cases h; done) | (cases h; simp; done)

@[simp] theorem refuseMsg_keeps (l : Nat) (k : Nat) (pk : DataPkt) (r : NakReason) (detail : Nat) (s : State) {msk : Nat} (hm : butNet &&& msk = butNet) :
    kept msk (refuseMsg l k pk r detail s) = kept msk s := by
  refine kept_mono hm ?_
  simp [refuseMsg]

@[simp] theorem placePacket_keeps (l : Nat) (k : Nat) (e : Reasm) (pk : DataPkt) (s : State) {msk : Nat} (hm : butOnchipNetCluster &&& msk = butOnchipNetCluster) :
    kept msk (placePacket l k e pk s) = kept msk s := by
  refine kept_mono hm ?_
  simp [placePacket]

@[simp] theorem takePacket_keeps (l : Nat) (k : Nat) (e : Reasm) (pk : DataPkt) (s : State) {msk : Nat} (hm : butOnchipNetCluster &&& msk = butOnchipNetCluster) :
    kept msk (takePacket l k e pk s) = kept msk s := by
  refine kept_mono hm ?_
  unfold takePacket
  split
  · simp
  · split
    · simp
    · rename_i h
      have := kept_mono (m := 9344) rfl (assign_keeps _ _ _ _ h)
      simp_all

theorem execDatagramData_keeps (l : Fin 32) (pk : DataPkt) (s : State) (s' : State) (ht : execDatagramData l pk s = .next s') :
    kept butOnchipNetCluster s' = kept butOnchipNetCluster s := by
  unfold execDatagramData at ht
  obtain rfl | ht := onRun_next ht
  · simp
  try dsimp only at ht
  subst ht
  first | (simp; done) | (refine onPort_keeps _ _ _ (by simp) (fun y0 => ?_) <;> (try dsimp only) <;> first | (simp; done) | ((repeat' split) <;> simp; done))

theorem execDatagramAckDue_keeps (node : Nat) (id : W32) (s : State) (s' : State) (ht : execDatagramAckDue node id s = .next s') :
    kept butNet s' = kept butNet s := by
  unfold execDatagramAckDue at ht
  obtain rfl | ht := onRun_next ht
  · simp
  try dsimp only at ht
  subst ht
  (repeat' split) <;> simp

theorem execReassemblyExpiry_keeps (node : Nat) (id : W32) (s : State) (s' : State) (ht : execReassemblyExpiry node id s = .next s') :
    kept butNet s' = kept butNet s := by
  unfold execReassemblyExpiry at ht
  obtain rfl | ht := onRun_next ht
  · simp
  try dsimp only at ht
  subst ht
  (repeat' split) <;> simp

@[simp] theorem ackPacket_keeps (node : Nat) (id : W32) (i : Nat) (s : State) {msk : Nat} (hm : butNet &&& msk = butNet) :
    kept msk (ackPacket node id i s) = kept msk s := by
  refine kept_mono hm ?_
  unfold ackPacket
  (repeat' split) <;> simp

@[simp] theorem ackPackets_keeps (node : Nat) (id : W32) (a0 : List Nat) (a1 : State) {msk : Nat} (hm : butNet &&& msk = butNet) :
    kept msk (ackPackets node id a0 a1) = kept msk a1 := by
  refine kept_mono hm ?_
  induction a0 generalizing node id a1 with
  | nil => simp [ackPackets]
  | cons x l ih => simp [ackPackets, ih]

theorem execDatagramAck_keeps (l : Fin 32) (node : Nat) (session : W32) (id : W32) (base : W32) (bitmap : W64) (done : Bool) (echo : Bool) (s : State) (s' : State) (ht : execDatagramAck l node session id base bitmap done echo s = .next s') :
    kept butNetReplsCluster s' = kept butNetReplsCluster s := by
  unfold execDatagramAck at ht
  obtain rfl | ht := onRun_next ht
  · simp
  try dsimp only at ht
  subst ht
  first | (simp; done) | (refine onPort_keeps _ _ _ (by simp) (fun y0 => ?_) <;> (try dsimp only) <;> first | (simp; done) | ((repeat' split) <;> simp; done))

theorem execDatagramNak_keeps (l : Fin 32) (node : Nat) (session : W32) (id : W32) (why : NakReason) (s : State) (s' : State) (ht : execDatagramNak l node session id why s = .next s') :
    kept butNetReplsCluster s' = kept butNetReplsCluster s := by
  unfold execDatagramNak at ht
  obtain rfl | ht := onRun_next ht
  · simp
  try dsimp only at ht
  subst ht
  first | (simp; done) | (refine onPort_keeps _ _ _ (by simp) (fun y0 => ?_) <;> (try dsimp only) <;> first | (simp; done) | ((repeat' split) <;> simp; done))

theorem execDatagramRetransmitTimeout_keeps (node : Nat) (id : W32) (i : Nat) (s : State) (s' : State) (ht : execDatagramRetransmitTimeout node id i s = .next s') :
    kept butNetReplsClusterCipher s' = kept butNetReplsClusterCipher s := by
  unfold execDatagramRetransmitTimeout at ht
  obtain rfl | ht := onRun_next ht
  · simp
  try dsimp only at ht
  subst ht
  (repeat' split) <;> simp

@[simp] theorem newTraffic_keeps (node : Nat) (s : State) {msk : Nat} (hm : butCluster &&& msk = butCluster) :
    kept msk (newTraffic node s) = kept msk s := by
  refine kept_mono hm ?_
  simp [newTraffic]

theorem execDatagramHello_keeps (l : Fin 32) (node : Nat) (lo : Nat) (hi : Nat) (paths : Nat) (session : W32) (peerSession : W32) (s : State) (s' : State) (ht : execDatagramHello l node lo hi paths session peerSession s = .next s') :
    kept butNetCluster s' = kept butNetCluster s := by
  unfold execDatagramHello at ht
  obtain rfl | ht := onRun_next ht
  · simp
  try dsimp only at ht
  subst ht
  simp

theorem execDatagramHelloReply_keeps (l : Fin 32) (node : Nat) (version : Nat) (paths : Nat) (session : W32) (s : State) (s' : State) (ht : execDatagramHelloReply l node version paths session s = .next s') :
    kept butNetCluster s' = kept butNetCluster s := by
  unfold execDatagramHelloReply at ht
  obtain rfl | ht := onRun_next ht
  · simp
  try dsimp only at ht
  subst ht
  simp

@[simp] theorem failWaiting_keeps (a0 : List SendReq) (a1 : State) {msk : Nat} (hm : butNetReplsCluster &&& msk = butNetReplsCluster) :
    kept msk (failWaiting a0 a1) = kept msk a1 := by
  refine kept_mono hm ?_
  induction a0 generalizing a1 with
  | nil => simp [failWaiting]
  | cons x l ih => simp [failWaiting, ih]

theorem execDatagramHelloRetry_keeps (node : Nat) (s : State) (s' : State) (ht : execDatagramHelloRetry node s = .next s') :
    kept butNetReplsCluster s' = kept butNetReplsCluster s := by
  unfold execDatagramHelloRetry at ht
  obtain rfl | ht := onRun_next ht
  · simp
  try dsimp only at ht
  subst ht
  (repeat' split) <;> simp

theorem execDatagramProbe_keeps (l : Fin 32) (node : Nat) (path : Nat) (s : State) (s' : State) (ht : execDatagramProbe l node path s = .next s') :
    kept butNet s' = kept butNet s := by
  unfold execDatagramProbe at ht
  obtain rfl | ht := onRun_next ht
  · simp
  try dsimp only at ht
  subst ht
  simp

theorem execDatagramProbeReply_keeps (l : Fin 32) (node : Nat) (path : Nat) (s : State) (s' : State) (ht : execDatagramProbeReply l node path s = .next s') :
    kept butNet s' = kept butNet s := by
  unfold execDatagramProbeReply at ht
  obtain rfl | ht := onRun_next ht
  · simp
  try dsimp only at ht
  subst ht
  first | (simp; done) | (refine onPort_keeps _ _ _ (by simp) (fun y0 => ?_) <;> (try dsimp only) <;> first | (simp; done) | ((repeat' split) <;> simp; done))

theorem execPathProbeTimeout_keeps (node : Nat) (path : Nat) (s : State) (s' : State) (ht : execPathProbeTimeout node path s = .next s') :
    kept butNet s' = kept butNet s := by
  unfold execPathProbeTimeout at ht
  obtain rfl | ht := onRun_next ht
  · simp
  try dsimp only at ht
  subst ht
  simp

theorem execPathDownProbe_keeps (node : Nat) (path : Nat) (s : State) (s' : State) (ht : execPathDownProbe node path s = .next s') :
    kept butNet s' = kept butNet s := by
  unfold execPathDownProbe at ht
  obtain rfl | ht := onRun_next ht
  · simp
  try dsimp only at ht
  subst ht
  simp

end Sys2Proof.Machine
end

