-- ==== Sys2Proof/Laws/KeepsChip.lean ====
section
/-! SUPPORT. Laws/KeepsChip.lean: the parts of the state that each operation of control ports, pins, power and boot leaves as they were. -/
namespace Sys2Proof.Machine
open Sys2Proof
set_option linter.all false
set_option maxHeartbeats 1000000

/-! ## RegPeek -/

@[simp] theorem State_modChan_keeps (s : State) (n : Nat) (f : Chan → Chan) {msk : Nat} (hm : butChans &&& msk = butChans) :
    kept msk (State.modChan s n f) = kept msk s := by
  refine kept_mono hm ?_
  simp [State.modChan]

@[simp] theorem writeSlot_keeps (r : EvrRec) (s : State) {msk : Nat} :
    kept msk (writeSlot r s) = kept msk s := by
  simp [writeSlot]

@[simp] theorem recordOut_keeps (r : EvrRec) (rest : List EvrRec) (s : State) {msk : Nat} :
    kept msk (recordOut r rest s) = kept msk s := by
  simp [recordOut]

@[simp] theorem recordsOut_keeps (a0 : List EvrRec) (a1 : State) {msk : Nat} :
    kept msk (recordsOut a0 a1) = kept msk a1 := by
  induction a0 generalizing a1 with
  | nil => simp [recordsOut]
  | cons x l ih => simp [recordsOut, ih]

/-! ## Control -/

@[simp] theorem semReadOne_keeps (n : Nat) (p : Port) (s : State) {msk : Nat} (hm : butSems &&& msk = butSems) :
    kept msk (semReadOne n p s) = kept msk s := by
  refine kept_mono hm ?_
  simp [semReadOne]

@[simp] theorem readersAsleep_keeps (who : Readers) (s : State) {msk : Nat} :
    kept msk (readersAsleep who s) = kept msk s := by
  unfold readersAsleep
  (repeat' split) <;> simp

theorem execSemRead_keeps (n : Fin 64) (who : Readers) (s0 : State) (s' : State) (ht : execSemRead n who s0 = .next s') :
    kept butSems s' = kept butSems s0 := by
  unfold execSemRead at ht
  obtain rfl | ht := onRun_next ht
  · simp
  try dsimp only at ht
  subst ht
  (repeat' split) <;> simp

theorem execSemReleaseWrite_keeps (p : Port) (n : Fin 64) (v : W32) (s : State) (s' : State) (ht : execSemReleaseWrite p n v s = .next s') :
    kept butSems s' = kept butSems s := by
  unfold execSemReleaseWrite at ht
  obtain rfl | ht := onRun_next ht
  · simp
  try dsimp only at ht
  subst ht
  simp

theorem execSemLeaseRenew_keeps (p : Port) (s : State) (s' : State) (ht : execSemLeaseRenew p s = .next s') :
    kept 0 s' = kept 0 s := by
  unfold execSemLeaseRenew at ht
  obtain rfl | rfl | rfl := onMem_next ht
  · rfl
  · simp
  try dsimp only
  (repeat' split) <;> simp

theorem execSemLeaseExpiry_keeps (p : Port) (s : State) (s' : State) (ht : execSemLeaseExpiry p s = .next s') :
    kept butSems s' = kept butSems s := by
  unfold execSemLeaseExpiry at ht
  obtain rfl | ht := onRun_next ht
  · simp
  try dsimp only at ht
  subst ht
  (repeat' split) <;> simp

@[simp] theorem takeMsg_keeps (h : MbxHdr) (op : Nat) (body : List Byte) (len : Nat) (s : State) {msk : Nat} :
    kept msk (takeMsg h op body len s) = kept msk s := by
  unfold takeMsg
  (repeat' split) <;> simp

@[simp] theorem serveImm_keeps (p : Port) (len : Nat) (s : State) {msk : Nat} :
    kept msk (serveImm p len s) = kept msk s := by
  simp [serveImm]

theorem execMbxImmDoorbell_keeps (p : Port) (len : BitVec 13) (s : State) (s' : State) (ht : execMbxImmDoorbell p len s = .next s') :
    kept 0 s' = kept 0 s := by
  unfold execMbxImmDoorbell at ht
  obtain rfl | ht := onRun_next ht
  · simp
  try dsimp only at ht
  subst ht
  simp

theorem execMbxImmDeferredServe_keeps (p : Port) (s : State) (s' : State) (ht : execMbxImmDeferredServe p s = .next s') :
    kept butBoot s' = kept butBoot s := by
  unfold execMbxImmDeferredServe at ht
  obtain rfl | ht := onRun_next ht
  · simp
  try dsimp only at ht
  subst ht
  (repeat' split) <;> simp

theorem execMbxReqTail_keeps (p : Port) (v : BitVec 20) (s : State) (s' : State) (ht : execMbxReqTail p v s = .next s') :
    kept 0 s' = kept 0 s := by
  unfold execMbxReqTail at ht
  obtain rfl | ht := onRun_next ht
  · simp
  try dsimp only at ht
  subst ht
  simp

@[simp] theorem settleStall_keeps (p : Port) (s : State) {msk : Nat} :
    kept msk (settleStall p s) = kept msk s := by
  simp [settleStall]

@[simp] theorem dropDone_keeps (d : MDone) (s : State) {msk : Nat} :
    kept msk (dropDone d s) = kept msk s := by
  simp [dropDone]

@[simp] theorem writeReply_keeps (d : MDone) (s : State) {msk : Nat} :
    kept msk (writeReply d s) = kept msk s := by
  simp [writeReply]

@[simp] theorem writeReplies_keeps (p : Port) (a0 : List MDone) (a1 : State) {msk : Nat} :
    kept msk (writeReplies p a0 a1) = kept msk a1 := by
  induction a0 generalizing p a1 with
  | nil => simp [writeReplies]
  | cons x l ih => simp [writeReplies, ih]

theorem execMailboxResponse_keeps (p : Port) (ring : Bool) (tag : W32) (s : State) (s' : State) (ht : execMailboxResponse p ring tag s = .next s') :
    kept 0 s' = kept 0 s := by
  unfold execMailboxResponse at ht
  obtain rfl | ht := onRun_next ht
  · simp
  try dsimp only at ht
  subst ht
  (repeat' split) <;> simp

theorem execRingRequestFetch_keeps (p : Port) (got : Option MbxMsg) (s : State) (s' : State) (ht : execRingRequestFetch p got s = .next s') :
    kept 0 s' = kept 0 s := by
  unfold execRingRequestFetch at ht
  obtain rfl | ht := onRun_next ht
  · simp
  try dsimp only at ht
  subst ht
  (repeat' split) <;> simp

theorem execMbxRspHead_keeps (p : Port) (v : BitVec 20) (s : State) (s' : State) (ht : execMbxRspHead p v s = .next s') :
    kept 0 s' = kept 0 s := by
  unfold execMbxRspHead at ht
  obtain rfl | ht := onRun_next ht
  · simp
  try dsimp only at ht
  subst ht
  simp

theorem execMbxRingCtrlWrite_keeps (p : Port) (v : W32) (s : State) (s' : State) (ht : execMbxRingCtrlWrite p v s = .next s') :
    kept 0 s' = kept 0 s := by
  unfold execMbxRingCtrlWrite at ht
  obtain rfl | ht := onRun_next ht
  · simp
  try dsimp only at ht
  subst ht
  simp

theorem execBusMasterEnableCleared_keeps (p : Port) (s : State) (s' : State) (ht : execBusMasterEnableCleared p s = .next s') :
    kept 0 s' = kept 0 s := by
  unfold execBusMasterEnableCleared at ht
  obtain rfl | ht := onRun_next ht
  · simp
  try dsimp only at ht
  subst ht
  simp

theorem execBusMasterEnableSet_keeps (p : Port) (s : State) (s' : State) (ht : execBusMasterEnableSet p s = .next s') :
    kept 0 s' = kept 0 s := by
  unfold execBusMasterEnableSet at ht
  obtain rfl | ht := onRun_next ht
  · simp
  try dsimp only at ht
  subst ht
  simp

@[simp] theorem sendEnabled_keeps (p : Port) (old : BitVec 11) (new : BitVec 11) (cause : BitVec 11) (a0 : List Nat) (a1 : State) {msk : Nat} :
    kept msk (sendEnabled p old new cause a0 a1) = kept msk a1 := by
  induction a0 generalizing p old new cause a1 with
  | nil => simp [sendEnabled]
  | cons x l ih => simp [sendEnabled, ih]

theorem execIntEnableWrite_keeps (p : Port) (v : W32) (s : State) (s' : State) (ht : execIntEnableWrite p v s = .next s') :
    kept 0 s' = kept 0 s := by
  unfold execIntEnableWrite at ht
  obtain rfl | ht := onRun_next ht
  · simp
  try dsimp only at ht
  subst ht
  simp

theorem execBar0AccessError_keeps (p : Port) (offset : BitVec 20) (kind : AccessErr) (s : State) (s' : State) (ht : execBar0AccessError p offset kind s = .next s') :
    kept 0 s' = kept 0 s := by
  unfold execBar0AccessError at ht
  obtain rfl | ht := onRun_next ht
  · simp
  try dsimp only at ht
  subst ht
  simp

@[simp] theorem mbxLeave_keeps (reset : Bool) (p : Port) (s : State) {msk : Nat} :
    kept msk (mbxLeave reset p s) = kept msk s := by
  simp [mbxLeave]

@[simp] theorem mbxLinkDown_keeps (p : Port) (s : State) {msk : Nat} :
    kept msk (mbxLinkDown p s) = kept msk s := by
  simp [mbxLinkDown]

@[simp] theorem portReset_keeps (p : Port) (s : State) {msk : Nat} :
    kept msk (portReset p s) = kept msk s := by
  simp [portReset]

/-! ## Udma -/

@[simp] theorem putPieces_keeps (n : Nat) (space : Nat) (a0 : List (Nat × List Byte)) (a1 : State) {msk : Nat} (hm : butOnchip &&& msk = butOnchip) :
    kept msk (putPieces n space a0 a1) = kept msk a1 := by
  refine kept_mono hm ?_
  induction a0 generalizing n space a1 with
  | nil => simp [putPieces]
  | cons x l ih => simp [putPieces, ih]

@[simp] theorem putRecord_keeps (n : Nat) (r : UdmaRec) (s : State) {msk : Nat} (hm : butChansOnchip &&& msk = butChansOnchip) :
    kept msk (putRecord n r s) = kept msk s := by
  refine kept_mono hm ?_
  simp [putRecord]

@[simp] theorem releaseAll_keeps (n : Nat) (a0 : List Nat) (a1 : State) {msk : Nat} (hm : butChans &&& msk = butChans) :
    kept msk (releaseAll n a0 a1) = kept msk a1 := by
  refine kept_mono hm ?_
  induction a0 generalizing n a1 with
  | nil => simp [releaseAll]
  | cons x l ih => simp [releaseAll, ih]

@[simp] theorem runIrq_keeps (n : Nat) (s : State) {msk : Nat} (hm : butChans &&& msk = butChans) :
    kept msk (runIrq n s) = kept msk s := by
  refine kept_mono hm ?_
  unfold runIrq
  try dsimp only
  (repeat' split) <;> first | (simp; done) | (rcases Prod.ext_iff.mp ‹_ = (_, _)› with ⟨rfl, -⟩; simp; done) | (rcases Prod.ext_iff.mp ‹_ = (_, _)› with ⟨-, rfl⟩; simp; done) | (simp_all; done)

@[simp] theorem afterRecord_keeps (n : Nat) (status : Nat) (s : State) {msk : Nat} (hm : butChans &&& msk = butChans) :
    kept msk (afterRecord n status s) = kept msk s := by
  refine kept_mono hm ?_
  simp [afterRecord]

@[simp] theorem endRun_keeps (n : Nat) (status : Nat) (s : State) {msk : Nat} (hm : butChansOnchip &&& msk = butChansOnchip) :
    kept msk (endRun n status s) = kept msk s := by
  refine kept_mono hm ?_
  simp [endRun]

@[simp] theorem startChan_keeps (n : Nat) (s : State) {msk : Nat} (hm : butChansOnchip &&& msk = butChansOnchip) :
    kept msk (startChan n s) = kept msk s := by
  refine kept_mono hm ?_
  simp [startChan]

@[simp] theorem stopChan_keeps (n : Nat) (s : State) {msk : Nat} (hm : butChansOnchip &&& msk = butChansOnchip) :
    kept msk (stopChan n s) = kept msk s := by
  refine kept_mono hm ?_
  simp [stopChan]

@[simp] theorem udmaDiscard_keeps (who : UdmaBy) (off : Nat) (s : State) {msk : Nat} :
    kept msk (udmaDiscard who off s) = kept msk s := by
  unfold udmaDiscard
  (repeat' split) <;> simp

@[simp] theorem writeCtrl_keeps (who : UdmaBy) (n : Nat) (v : W32) (s : State) {msk : Nat} (hm : butChansOnchip &&& msk = butChansOnchip) :
    kept msk (writeCtrl who n v s) = kept msk s := by
  refine kept_mono hm ?_
  simp [writeCtrl]

@[simp] theorem writeCqHead_keeps (n : Nat) (v : BitVec 12) (s : State) {msk : Nat} (hm : butChansOnchip &&& msk = butChansOnchip) :
    kept msk (writeCqHead n v s) = kept msk s := by
  refine kept_mono hm ?_
  unfold writeCqHead
  try dsimp only
  (repeat' split) <;> first | (simp; done) | (rcases Prod.ext_iff.mp ‹_ = (_, _)› with ⟨rfl, -⟩; simp; done) | (rcases Prod.ext_iff.mp ‹_ = (_, _)› with ⟨-, rfl⟩; simp; done) | (simp_all; done)

@[simp] theorem freeChan_keeps (n : Nat) (s : State) {msk : Nat} (hm : butChansOnchip &&& msk = butChansOnchip) :
    kept msk (freeChan n s) = kept msk s := by
  refine kept_mono hm ?_
  simp [freeChan]

@[simp] theorem udmaWrite_keeps (p : Port) (n : Nat) (off : Nat) (v : W32) (s : State) {msk : Nat} (hm : butChansOnchip &&& msk = butChansOnchip) :
    kept msk (udmaWrite p n off v s) = kept msk s := by
  refine kept_mono hm ?_
  unfold udmaWrite
  (repeat' split) <;> simp

@[simp] theorem ownerReadOne_keeps (n : Nat) (p : Port) (s : State) {msk : Nat} (hm : butChans &&& msk = butChans) :
    kept msk (ownerReadOne n p s) = kept msk s := by
  refine kept_mono hm ?_
  simp [ownerReadOne]

theorem execUdmaOwnerRead_keeps (n : Fin 32) (who : Readers) (s0 : State) (s' : State) (ht : execUdmaOwnerRead n who s0 = .next s') :
    kept butChans s' = kept butChans s0 := by
  unfold execUdmaOwnerRead at ht
  obtain rfl | ht := onRun_next ht
  · simp
  try dsimp only at ht
  subst ht
  (repeat' split) <;> simp

theorem execUdmaOwnerRelease_keeps (n : Fin 32) (p : Port) (s : State) (s' : State) (ht : execUdmaOwnerRelease n p s = .next s') :
    kept butChansOnchip s' = kept butChansOnchip s := by
  unfold execUdmaOwnerRelease at ht
  obtain rfl | ht := onRun_next ht
  · simp
  try dsimp only at ht
  subst ht
  simp

theorem onWriter_next {who : UdmaBy} {s t : State} {f : State → State} (h : onWriter who s f = .next t) : t = s ∨ t = f s ∨ ∃ p, t = unsupported p false true s := by
  unfold onWriter at h
  split at h
  · obtain h | h | h := onMem_next h
    · exact .inl h
    · exact .inr (.inr ⟨_, h⟩)
    · exact .inr (.inl h)
  · obtain h | h := onRun_next h
    · exact .inl h
    · exact .inr (.inl h)

theorem execUdmaStart_keeps (n : Fin 32) (who : UdmaBy) (ctrl : W32) (s : State) (s' : State) (ht : execUdmaStart n who ctrl s = .next s') :
    kept butChansOnchip s' = kept butChansOnchip s := by
  unfold execUdmaStart at ht
  obtain rfl | rfl | ⟨p, rfl⟩ := onWriter_next ht
  · rfl
  rotate_left
  · simp
  try dsimp only
  (repeat' split) <;> simp

theorem execUdmaEnableClear_keeps (n : Fin 32) (who : UdmaBy) (ctrl : W32) (s : State) (s' : State) (ht : execUdmaEnableClear n who ctrl s = .next s') :
    kept butChansOnchip s' = kept butChansOnchip s := by
  unfold execUdmaEnableClear at ht
  obtain rfl | rfl | ⟨p, rfl⟩ := onWriter_next ht
  · rfl
  rotate_left
  · simp
  try dsimp only
  simp

theorem execUdmaCqHeadWrite_keeps (n : Fin 32) (who : UdmaBy) (v : BitVec 12) (s : State) (s' : State) (ht : execUdmaCqHeadWrite n who v s = .next s') :
    kept butChansOnchip s' = kept butChansOnchip s := by
  unfold execUdmaCqHeadWrite at ht
  obtain rfl | rfl | ⟨p, rfl⟩ := onWriter_next ht
  · rfl
  rotate_left
  · simp
  try dsimp only
  simp

theorem execUdmaTimerTick_keeps (n : Fin 32) (s : State) (s' : State) (ht : execUdmaTimerTick n s = .next s') :
    kept butChans s' = kept butChans s := by
  unfold execUdmaTimerTick at ht
  obtain rfl | ht := onRun_next ht
  · simp
  try dsimp only at ht
  subst ht
  simp

@[simp] theorem hostFault_keeps (n : Nat) (p : Port) (cause : Nat) (addr : Nat) (s : State) {msk : Nat} :
    kept msk (hostFault n p cause addr s) = kept msk s := by
  simp [hostFault]

@[simp] theorem faultAt_keeps (n : Nat) (c : Chan) (status : Nat) (s : State) {msk : Nat} :
    kept msk (faultAt n c status s) = kept msk s := by
  unfold faultAt
  try dsimp only
  (repeat' split) <;> first | (simp; done) | (rcases Prod.ext_iff.mp ‹_ = (_, _)› with ⟨rfl, -⟩; simp; done) | (rcases Prod.ext_iff.mp ‹_ = (_, _)› with ⟨-, rfl⟩; simp; done) | (simp_all; done)

@[simp] theorem moveBurst_keeps (n : Nat) (host : List Byte) (s : State) {msk : Nat} (hm : butChansOnchip &&& msk = butChansOnchip) :
    kept msk (moveBurst n host s) = kept msk s := by
  refine kept_mono hm ?_
  simp [moveBurst]

@[simp] theorem burstDone_keeps (n : Nat) (host : List Byte) (s : State) {msk : Nat} (hm : butChansOnchip &&& msk = butChansOnchip) :
    kept msk (burstDone n host s) = kept msk s := by
  refine kept_mono hm ?_
  simp [burstDone]

theorem execUdmaRunComplete_keeps (n : Fin 32) (how : UdmaEnd) (s : State) (s' : State) (ht : execUdmaRunComplete n how s = .next s') :
    kept butChansOnchip s' = kept butChansOnchip s := by
  unfold execUdmaRunComplete at ht
  obtain rfl | ht := onRun_next ht
  · simp
  try dsimp only at ht
  subst ht
  (repeat' split) <;> simp

@[simp] theorem freeChans_keeps (p : Port) (a0 : List Nat) (a1 : State) {msk : Nat} (hm : butChansOnchip &&& msk = butChansOnchip) :
    kept msk (freeChans p a0 a1) = kept msk a1 := by
  refine kept_mono hm ?_
  induction a0 generalizing p a1 with
  | nil => simp [freeChans]
  | cons x l ih => simp [freeChans, ih]

@[simp] theorem udmaLeave_keeps (p : Port) (s : State) {msk : Nat} (hm : butChansOnchip &&& msk = butChansOnchip) :
    kept msk (udmaLeave p s) = kept msk s := by
  refine kept_mono hm ?_
  simp [udmaLeave]

/-! ## ChipOps -/

@[simp] theorem portDown_keeps (p : Port) (s : State) {msk : Nat} (hm : butChansOnchipSems &&& msk = butChansOnchipSems) :
    kept msk (portDown p s) = kept msk s := by
  refine kept_mono hm ?_
  simp [portDown]

@[simp] theorem portResetAll_keeps (p : Port) (s : State) {msk : Nat} (hm : butChansOnchipSems &&& msk = butChansOnchipSems) :
    kept msk (portResetAll p s) = kept msk s := by
  refine kept_mono hm ?_
  simp [portResetAll]

@[simp] theorem moveBatches_keeps (a0 : List (Nat × Batch)) (a1 : State) {msk : Nat} :
    kept msk (moveBatches a0 a1) = kept msk a1 := by
  induction a0 generalizing a1 with
  | nil => simp [moveBatches]
  | cons x l ih =>
    unfold moveBatches
    (repeat' split) <;> simp [ih]

@[simp] theorem quadDown_keeps (q : Nat) (s : State) {msk : Nat} (hm : butNetNsReplsClusterCipher &&& msk = butNetNsReplsClusterCipher) :
    kept msk (quadDown q s) = kept msk s := by
  refine kept_mono hm ?_
  simp [quadDown]

@[simp] theorem domainLost_keeps (d : Nat) (s : State) {msk : Nat} (hm : butThese162976 &&& msk = butThese162976) :
    kept msk (domainLost d s) = kept msk s := by
  refine kept_mono hm ?_
  unfold domainLost
  (repeat' split) <;> simp

@[simp] theorem gateOff_keeps (d : Nat) (s : State) {msk : Nat} (hm : butThese162976 &&& msk = butThese162976) :
    kept msk (gateOff d s) = kept msk s := by
  refine kept_mono hm ?_
  simp [gateOff]

@[simp] theorem gateOffAll_keeps (a0 : List Nat) (a1 : State) {msk : Nat} (hm : butThese162976 &&& msk = butThese162976) :
    kept msk (gateOffAll a0 a1) = kept msk a1 := by
  refine kept_mono hm ?_
  induction a0 generalizing a1 with
  | nil => simp [gateOffAll]
  | cons x l ih => simp [gateOffAll, ih]

@[simp] theorem hostLinkEnds_keeps (p : Port) (s : State) {msk : Nat} :
    kept msk (hostLinkEnds p s) = kept msk s := by
  simp [hostLinkEnds]

@[simp] theorem hostLinksEnd_keeps (s : State) {msk : Nat} :
    kept msk (hostLinksEnd s) = kept msk s := by
  simp [hostLinksEnd]

@[simp] theorem chipReset_keeps (s0 : State) {msk : Nat} (hm : butThese257518 &&& msk = butThese257518) :
    kept msk (chipReset s0) = kept msk s0 := by
  refine kept_mono hm ?_
  simp [chipReset]

@[simp] theorem erasePrimary_keeps (s : State) {msk : Nat} (hm : butFw &&& msk = butFw) :
    kept msk (erasePrimary s) = kept msk s := by
  refine kept_mono hm ?_
  simp [erasePrimary]

@[simp] theorem leaveVaulted_keeps (s : State) {msk : Nat} (hm : butThese257518 &&& msk = butThese257518) :
    kept msk (leaveVaulted s) = kept msk s := by
  refine kept_mono hm ?_
  simp [leaveVaulted]

@[simp] theorem flushEnd_keeps (s : State) {msk : Nat} (hm : butThese257518 &&& msk = butThese257518) :
    kept msk (flushEnd s) = kept msk s := by
  refine kept_mono hm ?_
  simp [flushEnd]

@[simp] theorem noticeSubs_keeps (a0 : List Nat) (a1 : State) {msk : Nat} :
    kept msk (noticeSubs a0 a1) = kept msk a1 := by
  induction a0 generalizing a1 with
  | nil => simp [noticeSubs]
  | cons x l ih => simp [noticeSubs, ih]

@[simp] theorem startFlush_keeps (cause : FlushCause) (s : State) {msk : Nat} (hm : butThese261614 &&& msk = butThese261614) :
    kept msk (startFlush cause s) = kept msk s := by
  refine kept_mono hm ?_
  simp [startFlush]

@[simp] theorem failStop_keeps (cause : FailStopCause) (code : W16) (s : State) {msk : Nat} :
    kept msk (failStop cause code s) = kept msk s := by
  simp [failStop]

@[simp] theorem fenceNotice_keeps (seq : W32) (d : Nat) (unit : Nat) (code : W16) (s : State) {msk : Nat} :
    kept msk (fenceNotice seq d unit code s) = kept msk s := by
  simp [fenceNotice]

@[simp] theorem fenceDomain_keeps (d : Nat) (s : State) {msk : Nat} (hm : butThese162976 &&& msk = butThese162976) :
    kept msk (fenceDomain d s) = kept msk s := by
  refine kept_mono hm ?_
  simp [fenceDomain]

@[simp] theorem fenceUnit_keeps (e : ErrObs) (nested : Bool) (repair : Bool) (s : State) {msk : Nat} (hm : butThese162976 &&& msk = butThese162976) :
    kept msk (fenceUnit e nested repair s) = kept msk s := by
  refine kept_mono hm ?_
  simp [fenceUnit]

@[simp] theorem fence_keeps (e : ErrObs) (nested : Bool) (repair : Bool) (s : State) {msk : Nat} (hm : butThese162976 &&& msk = butThese162976) :
    kept msk (fence e nested repair s) = kept msk s := by
  refine kept_mono hm ?_
  simp [fence]

@[simp] theorem fenceAlarmSettle_keeps (s : State) {msk : Nat} :
    kept msk (fenceAlarmSettle s) = kept msk s := by
  simp [fenceAlarmSettle]

/-! ## Pins -/

@[simp] theorem countIgnored_keeps (c : InputCond) (n : Nat) (s : State) {msk : Nat} (hm : butCond &&& msk = butCond) :
    kept msk (countIgnored c n s) = kept msk s := by
  refine kept_mono hm ?_
  simp [countIgnored]

@[simp] theorem alarmUp_keeps (k : Nat) (s : State) {msk : Nat} :
    kept msk (alarmUp k s) = kept msk s := by
  simp [alarmUp]

@[simp] theorem alarmDown_keeps (k : Nat) (s : State) {msk : Nat} :
    kept msk (alarmDown k s) = kept msk s := by
  simp [alarmDown]

@[simp] theorem powerGood_keeps (s : State) {msk : Nat} :
    kept msk (powerGood s) = kept msk s := by
  simp [powerGood]

@[simp] theorem powerBad_keeps (s : State) {msk : Nat} (hm : butThese258030 &&& msk = butThese258030) :
    kept msk (powerBad s) = kept msk s := by
  refine kept_mono hm ?_
  simp [powerBad]

theorem execPwrgoodAssert_keeps (at_ : Nat) (s : State) (s' : State) (ht : execPwrgoodAssert at_ s = .next s') :
    kept butCond s' = kept butCond s := by
  unfold execPwrgoodAssert at ht
  obtain rfl | ht := onAon_next ht
  · simp
  try dsimp only at ht
  subst ht
  simp

theorem execPwrgoodDeassert_keeps (at_ : Nat) (s : State) (s' : State) (ht : execPwrgoodDeassert at_ s = .next s') :
    kept butThese258030 s' = kept butThese258030 s := by
  unfold execPwrgoodDeassert at ht
  obtain rfl | ht := onAon_next ht
  · simp
  try dsimp only at ht
  subst ht
  simp

@[simp] theorem resetTakes_keeps (s : State) {msk : Nat} (hm : butThese257518 &&& msk = butThese257518) :
    kept msk (resetTakes s) = kept msk s := by
  refine kept_mono hm ?_
  simp [resetTakes]

@[simp] theorem pinsBack_keeps (s : State) {msk : Nat} (hm : butJtag &&& msk = butJtag) :
    kept msk (pinsBack s) = kept msk s := by
  refine kept_mono hm ?_
  simp [pinsBack]

@[simp] theorem resetEdge_keeps (level : Bool) (at_ : Nat) (s : State) {msk : Nat} (hm : butJtagCond &&& msk = butJtagCond) :
    kept msk ((resetEdge level at_ s).1) = kept msk s := by
  refine kept_mono hm ?_
  unfold resetEdge
  try dsimp only
  (repeat' split) <;> first | (simp; done) | (rcases Prod.ext_iff.mp ‹_ = (_, _)› with ⟨rfl, -⟩; simp; done) | (rcases Prod.ext_iff.mp ‹_ = (_, _)› with ⟨-, rfl⟩; simp; done) | (simp_all; done)

theorem execResetNAssert_keeps (at_ : Nat) (s : State) (s' : State) (ht : execResetNAssert at_ s = .next s') :
    kept butThese258046 s' = kept butThese258046 s := by
  unfold execResetNAssert at ht
  obtain rfl | ht := onAon_next ht
  · simp
  try dsimp only at ht
  subst ht
  simp

theorem execResetHoldOffExpiry_keeps (s : State) (s' : State) (ht : execResetHoldOffExpiry s = .next s') :
    kept butThese257518 s' = kept butThese257518 s := by
  unfold execResetHoldOffExpiry at ht
  obtain rfl | ht := onLive_next ht
  · simp
  try dsimp only at ht
  subst ht
  (repeat' split) <;> simp

@[simp] theorem pwrfailFirst_keeps (s : State) {msk : Nat} (hm : butThese262126 &&& msk = butThese262126) :
    kept msk (pwrfailFirst s) = kept msk s := by
  refine kept_mono hm ?_
  simp [pwrfailFirst]

theorem execPwrfailNAssert_keeps (asserted : Bool) (at_ : Nat) (s : State) (s' : State) (ht : execPwrfailNAssert asserted at_ s = .next s') :
    kept butThese262126 s' = kept butThese262126 s := by
  unfold execPwrfailNAssert at ht
  obtain rfl | ht := onAon_next ht
  · simp
  try dsimp only at ht
  subst ht
  simp

@[simp] theorem pwrfailStable_keeps (s : State) {msk : Nat} (hm : butThese258030 &&& msk = butThese258030) :
    kept msk (pwrfailStable s) = kept msk s := by
  refine kept_mono hm ?_
  simp [pwrfailStable]

theorem execPwrfailStableDeassert_keeps (s : State) (s' : State) (ht : execPwrfailStableDeassert s = .next s') :
    kept butThese258030 s' = kept butThese258030 s := by
  unfold execPwrfailStableDeassert at ht
  obtain rfl | ht := onAon_next ht
  · simp
  try dsimp only at ht
  subst ht
  simp

theorem execPwrfailStuck_keeps (s : State) (s' : State) (ht : execPwrfailStuck s = .next s') :
    kept butCond s' = kept butCond s := by
  unfold execPwrfailStuck at ht
  obtain rfl | ht := onAon_next ht
  · simp
  try dsimp only at ht
  subst ht
  simp

theorem execVaultFlushDone_keeps (s : State) (s' : State) (ht : execVaultFlushDone s = .next s') :
    kept butThese257518 s' = kept butThese257518 s := by
  unfold execVaultFlushDone at ht
  obtain rfl | ht := onLive_next ht
  · simp
  try dsimp only at ht
  subst ht
  (repeat' split) <;> simp

@[simp] theorem setPerst_keeps (p : Port) (c : InputCond) (s : State) {msk : Nat} (hm : butCond &&& msk = butCond) :
    kept msk (setPerst p c s) = kept msk s := by
  refine kept_mono hm ?_
  unfold setPerst
  (repeat' split) <;> simp

@[simp] theorem takeMode_keeps (p : Port) (s : State) {msk : Nat} :
    kept msk (takeMode p s) = kept msk s := by
  simp [takeMode]

@[simp] theorem perstReset_keeps (p : Port) (s : State) {msk : Nat} (hm : butChansOnchipSems &&& msk = butChansOnchipSems) :
    kept msk (perstReset p s) = kept msk s := by
  refine kept_mono hm ?_
  simp [perstReset]

@[simp] theorem perstRelease_keeps (p : Port) (s : State) {msk : Nat} :
    kept msk (perstRelease p s) = kept msk s := by
  simp [perstRelease]

@[simp] theorem perstEdge_keeps (p : Port) (level : Bool) (at_ : Nat) (s : State) {msk : Nat} (hm : butCond &&& msk = butCond) :
    kept msk (perstEdge p level at_ s) = kept msk s := by
  refine kept_mono hm ?_
  simp [perstEdge]

theorem execPerstAssert_keeps (p : Port) (at_ : Nat) (s : State) (s' : State) (ht : execPerstAssert p at_ s = .next s') :
    kept butChansOnchipCondSems s' = kept butChansOnchipCondSems s := by
  unfold execPerstAssert at ht
  obtain rfl | ht := onAon_next ht
  · simp
  try dsimp only at ht
  subst ht
  simp

theorem execPerstDeassert_keeps (p : Port) (at_ : Nat) (s : State) (s' : State) (ht : execPerstDeassert p at_ s = .next s') :
    kept butCond s' = kept butCond s := by
  unfold execPerstDeassert at ht
  obtain rfl | ht := onAon_next ht
  · simp
  try dsimp only at ht
  subst ht
  simp

theorem execPerstStuck_keeps (p : Port) (s : State) (s' : State) (ht : execPerstStuck p s = .next s') :
    kept butCond s' = kept butCond s := by
  unfold execPerstStuck at ht
  obtain rfl | ht := onAon_next ht
  · simp
  try dsimp only at ht
  subst ht
  simp

theorem execPeerAliveChange_keeps (alive : Bool) (at_ : Nat) (s : State) (s' : State) (ht : execPeerAliveChange alive at_ s = .next s') :
    kept butCondNetNsReplsClusterCipher s' = kept butCondNetNsReplsClusterCipher s := by
  unfold execPeerAliveChange at ht
  obtain rfl | ht := onAon_next ht
  · simp
  try dsimp only at ht
  subst ht
  simp

theorem execPeerAliveTimeout_keeps (s : State) (s' : State) (ht : execPeerAliveTimeout s = .next s') :
    kept butNetNsReplsClusterCipher s' = kept butNetNsReplsClusterCipher s := by
  unfold execPeerAliveTimeout at ht
  obtain rfl | ht := onRun_next ht
  · simp
  try dsimp only at ht
  subst ht
  simp

theorem execInputLatchRelease_keeps (x : Input) (s : State) (s' : State) (ht : execInputLatchRelease x s = .next s') :
    kept butThese258046 s' = kept butThese258046 s := by
  unfold execInputLatchRelease at ht
  obtain rfl | ht := onAon_next ht
  · simp
  try dsimp only at ht
  subst ht
  (repeat' split) <;> simp

/-! ## PowerClocks -/

theorem execDomainSwitchOnRequest_keeps (d : Fin 64) (s : State) (s' : State) (ht : execDomainSwitchOnRequest d s = .next s') :
    kept 0 s' = kept 0 s := by
  unfold execDomainSwitchOnRequest at ht
  obtain rfl | ht := onLive_next ht
  · simp
  try dsimp only at ht
  subst ht
  simp

theorem execDomainSwitchOffRequest_keeps (d : Fin 64) (idle : Bool) (s : State) (s' : State) (ht : execDomainSwitchOffRequest d idle s = .next s') :
    kept butThese162976 s' = kept butThese162976 s := by
  unfold execDomainSwitchOffRequest at ht
  obtain rfl | ht := onLive_next ht
  · simp
  try dsimp only at ht
  subst ht
  simp

@[simp] theorem domainUp_keeps (d : Nat) (s : State) {msk : Nat} (hm : butBootNet &&& msk = butBootNet) :
    kept msk (domainUp d s) = kept msk s := by
  refine kept_mono hm ?_
  simp [domainUp]

@[simp] theorem domainOn_keeps (d : Nat) (s : State) {msk : Nat} (hm : butBootNet &&& msk = butBootNet) :
    kept msk (domainOn d s) = kept msk s := by
  refine kept_mono hm ?_
  unfold domainOn
  (repeat' split) <;> simp

@[simp] theorem rampDone_keeps (d : Nat) (s : State) {msk : Nat} (hm : butBootNet &&& msk = butBootNet) :
    kept msk (rampDone d s) = kept msk s := by
  refine kept_mono hm ?_
  simp [rampDone]

theorem execDomainRampDone_keeps (d : Fin 64) (s : State) (s' : State) (ht : execDomainRampDone d s = .next s') :
    kept butBootNet s' = kept butBootNet s := by
  unfold execDomainRampDone at ht
  obtain rfl | ht := onSp_next ht
  · rfl
  try dsimp only at ht
  subst ht
  simp

theorem execPortDomainJudge_keeps (d : Fin 64) (signal : Bool) (s : State) (s' : State) (ht : execPortDomainJudge d signal s = .next s') :
    kept butThese162976 s' = kept butThese162976 s := by
  unfold execPortDomainJudge at ht
  obtain rfl | ht := onRun_next ht
  · simp
  try dsimp only at ht
  subst ht
  simp

theorem execUnusedDomainRetry_keeps (d : Fin 64) (s : State) (s' : State) (ht : execUnusedDomainRetry d s = .next s') :
    kept 0 s' = kept 0 s := by
  unfold execUnusedDomainRetry at ht
  obtain rfl | ht := onRun_next ht
  · simp
  try dsimp only at ht
  subst ht
  simp

@[simp] theorem fenceDark_keeps (seq : W32) (a0 : List Nat) (a1 : State) {msk : Nat} (hm : butThese162976 &&& msk = butThese162976) :
    kept msk (fenceDark seq a0 a1) = kept msk a1 := by
  refine kept_mono hm ?_
  induction a0 generalizing seq a1 with
  | nil => simp [fenceDark]
  | cons x l ih => simp [fenceDark, ih]

@[simp] theorem setRefLost_keeps (n : Nat) (b : Bool) (s : State) {msk : Nat} :
    kept msk (setRefLost n b s) = kept msk s := by
  simp [setRefLost]

theorem execRefclkLost_keeps (r : RefClk) (reading : W32) (s : State) (s' : State) (ht : execRefclkLost r reading s = .next s') :
    kept butThese162976 s' = kept butThese162976 s := by
  unfold execRefclkLost at ht
  obtain rfl | ht := onAon_next ht
  · simp
  try dsimp only at ht
  subst ht
  simp

@[simp] theorem unfenceDark_keeps (a0 : List Nat) (a1 : State) {msk : Nat} :
    kept msk (unfenceDark a0 a1) = kept msk a1 := by
  induction a0 generalizing a1 with
  | nil => simp [unfenceDark]
  | cons x l ih => simp [unfenceDark, ih]

theorem execRefclkRestored_keeps (r : RefClk) (s : State) (s' : State) (ht : execRefclkRestored r s = .next s') :
    kept 0 s' = kept 0 s := by
  unfold execRefclkRestored at ht
  obtain rfl | ht := onAon_next ht
  · simp
  try dsimp only at ht
  subst ht
  simp

theorem execCrystalLost_keeps (reading : W32) (s : State) (s' : State) (ht : execCrystalLost reading s = .next s') :
    kept 0 s' = kept 0 s := by
  unfold execCrystalLost at ht
  obtain rfl | ht := onAon_next ht
  · simp
  try dsimp only at ht
  subst ht
  simp

theorem execCrystalSwitchover_keeps (s : State) (s' : State) (ht : execCrystalSwitchover s = .next s') :
    kept 0 s' = kept 0 s := by
  unfold execCrystalSwitchover at ht
  obtain rfl | ht := onAon_next ht
  · simp
  try dsimp only at ht
  subst ht
  simp

theorem execSysrefLost_keeps (reading : W32) (s : State) (s' : State) (ht : execSysrefLost reading s = .next s') :
    kept butThese257518 s' = kept butThese257518 s := by
  unfold execSysrefLost at ht
  obtain rfl | ht := onAon_next ht
  · simp
  try dsimp only at ht
  subst ht
  simp

theorem execSysrefRestored_keeps (s : State) (s' : State) (ht : execSysrefRestored s = .next s') :
    kept 0 s' = kept 0 s := by
  unfold execSysrefRestored at ht
  obtain rfl | ht := onAon_next ht
  · simp
  try dsimp only at ht
  subst ht
  simp

theorem execRailAlarm_keeps (rail : Fin 11) (mV : W32) (s : State) (s' : State) (ht : execRailAlarm rail mV s = .next s') :
    kept 0 s' = kept 0 s := by
  unfold execRailAlarm at ht
  obtain rfl | ht := onLive_next ht
  · simp
  try dsimp only at ht
  subst ht
  simp

theorem execRailRestored_keeps (rail : Fin 11) (s : State) (s' : State) (ht : execRailRestored rail s = .next s') :
    kept 0 s' = kept 0 s := by
  unfold execRailRestored at ht
  obtain rfl | ht := onLive_next ht
  · simp
  try dsimp only at ht
  subst ht
  simp

@[simp] theorem tempRecords_keeps (r : List Byte) (level : Nat) (was : BitVec 5) (now : BitVec 5) (a0 : List Nat) (a1 : State) {msk : Nat} :
    kept msk (tempRecords r level was now a0 a1) = kept msk a1 := by
  induction a0 generalizing r level was now a1 with
  | nil => simp [tempRecords]
  | cons x l ih => simp [tempRecords, ih]

@[simp] theorem criticalTrip_keeps (s : State) {msk : Nat} (hm : butThese261614 &&& msk = butThese261614) :
    kept msk (criticalTrip s) = kept msk s := by
  refine kept_mono hm ?_
  simp [criticalTrip]

theorem execTempSample_keeps (dies : List Byte) (hbm : List Byte) (s : State) (s' : State) (ht : execTempSample dies hbm s = .next s') :
    kept butThese261614 s' = kept butThese261614 s := by
  unfold execTempSample at ht
  obtain rfl | ht := onLive_next ht
  · simp
  try dsimp only at ht
  subst ht
  simp

theorem execLifeCountTick_keeps (s : State) (s' : State) (ht : execLifeCountTick s = .next s') :
    kept 0 s' = kept 0 s := by
  unfold execLifeCountTick at ht
  obtain rfl | ht := onSp_next ht
  · rfl
  try dsimp only at ht
  subst ht
  simp

theorem execAonHourTick_keeps (elapsed : Nat) (s : State) (s' : State) (ht : execAonHourTick elapsed s = .next s') :
    kept 0 s' = kept 0 s := by
  unfold execAonHourTick at ht
  obtain rfl | ht := onAon_next ht
  · simp
  try dsimp only at ht
  subst ht
  simp

@[simp] theorem netRetrain_keeps (p : Nat) (lane : Nat) (again : Bool) (s : State) {msk : Nat} (hm : butNetCipher &&& msk = butNetCipher) :
    kept msk (netRetrain p lane again s) = kept msk s := by
  refine kept_mono hm ?_
  simp [netRetrain]

@[simp] theorem laneRetrain_keeps (d : Nat) (lane : Nat) (spare : Bool) (s : State) {msk : Nat} (hm : butNetCipher &&& msk = butNetCipher) :
    kept msk (laneRetrain d lane spare s) = kept msk s := by
  refine kept_mono hm ?_
  simp [laneRetrain]

@[simp] theorem takeSpare_keeps (d : Nat) (lane : Nat) (s : State) {msk : Nat} (hm : butNetCipher &&& msk = butNetCipher) :
    kept msk (takeSpare d lane s) = kept msk s := by
  refine kept_mono hm ?_
  simp [takeSpare]

@[simp] theorem markLane_keeps (d : Nat) (lane : Nat) (s : State) {msk : Nat} (hm : butNetCipher &&& msk = butNetCipher) :
    kept msk (markLane d lane s) = kept msk s := by
  refine kept_mono hm ?_
  simp [markLane]

theorem execLaneEyeCheck_keeps (d : Fin 64) (lane : Fin 16) (ok : Bool) (s : State) (s' : State) (ht : execLaneEyeCheck d lane ok s = .next s') :
    kept butNetCipher s' = kept butNetCipher s := by
  unfold execLaneEyeCheck at ht
  obtain rfl | ht := onRun_next ht
  · simp
  try dsimp only at ht
  subst ht
  simp

theorem execVddAonUp_keeps (s : State) (s' : State) (ht : execVddAonUp s = .next s') :
    kept butThese258030 s' = kept butThese258030 s := by
  unfold execVddAonUp at ht
  split at ht <;> injection ht with ht <;> subst ht <;> simp

theorem execVddAonDown_keeps (s : State) (s' : State) (ht : execVddAonDown s = .next s') :
    kept butThese258046 s' = kept butThese258046 s := by
  unfold execVddAonDown at ht
  obtain rfl | ht := onAon_next ht
  · simp
  try dsimp only at ht
  subst ht
  simp

/-! ## BootOps -/

@[simp] theorem State_setOwner_keeps (s : State) (n : Nat) (x : OwnerSlot) {msk : Nat} (hm : butFuses &&& msk = butFuses) :
    kept msk (State.setOwner s n x) = kept msk s := by
  refine kept_mono hm ?_
  simp [State.setOwner]

@[simp] theorem showPair_keeps (o : ImageObs) (s : State) {msk : Nat} (hm : butCipher &&& msk = butCipher) :
    kept msk (showPair o s) = kept msk s := by
  refine kept_mono hm ?_
  simp [showPair]

@[simp] theorem loadImage_keeps (t : ImageType) (o : ImageObs) (s : State) {msk : Nat} (hm : butOnchipBoot &&& msk = butOnchipBoot) :
    kept msk (loadImage t o s) = kept msk s := by
  refine kept_mono hm ?_
  simp [loadImage]

@[simp] theorem openDigest_keeps (len : Nat) (s : State) {msk : Nat} (hm : butCipher &&& msk = butCipher) :
    kept msk (openDigest len s) = kept msk s := by
  refine kept_mono hm ?_
  unfold openDigest
  (repeat' split) <;> simp

@[simp] theorem closeDigest_keeps (s : State) {msk : Nat} (hm : butCipher &&& msk = butCipher) :
    kept msk (closeDigest s) = kept msk s := by
  refine kept_mono hm ?_
  simp [closeDigest]

@[simp] theorem openStream_keeps (t : ImageType) (s : State) {msk : Nat} (hm : butBootCipher &&& msk = butBootCipher) :
    kept msk (openStream t s) = kept msk s := by
  refine kept_mono hm ?_
  simp [openStream]

@[simp] theorem endStream_keeps (s : State) {msk : Nat} (hm : butBootCipher &&& msk = butBootCipher) :
    kept msk (endStream s) = kept msk s := by
  refine kept_mono hm ?_
  simp [endStream]

@[simp] theorem noteImage_keeps (t : ImageType) (o : ImageObs) (s : State) {msk : Nat} (hm : butFw &&& msk = butFw) :
    kept msk (noteImage t o s) = kept msk s := by
  refine kept_mono hm ?_
  unfold noteImage
  (repeat' split) <;> simp

@[simp] theorem bootFails_keeps (c : Byte) (s : State) {msk : Nat} (hm : butBoot &&& msk = butBoot) :
    kept msk (bootFails c s) = kept msk s := by
  refine kept_mono hm ?_
  simp [bootFails]

@[simp] theorem enterRecovery_keeps (s : State) {msk : Nat} (hm : butBootCipher &&& msk = butBootCipher) :
    kept msk (enterRecovery s) = kept msk s := by
  refine kept_mono hm ?_
  simp [enterRecovery]

@[simp] theorem forceStage_keeps (st : Stage) (s : State) {msk : Nat} (hm : butBoot &&& msk = butBoot) :
    kept msk (forceStage st s) = kept msk s := by
  refine kept_mono hm ?_
  simp [forceStage]

@[simp] theorem deriveKeys_keeps (s : State) {msk : Nat} (hm : butTrust &&& msk = butTrust) :
    kept msk (deriveKeys s) = kept msk s := by
  refine kept_mono hm ?_
  simp [deriveKeys]

@[simp] theorem certifyAlias_keeps (meas : List Byte) (s : State) {msk : Nat} (hm : butTrustCipher &&& msk = butTrustCipher) :
    kept msk (certifyAlias meas s) = kept msk s := by
  refine kept_mono hm ?_
  unfold certifyAlias
  (repeat' split) <;> simp

@[simp] theorem certifyReport_keeps (s : State) {msk : Nat} (hm : butTrust &&& msk = butTrust) :
    kept msk (certifyReport s) = kept msk s := by
  refine kept_mono hm ?_
  simp [certifyReport]

@[simp] theorem acceptStage1_keeps (o : ImageObs) (s : State) {msk : Nat} (hm : butTrustChainFwOnchipBootCipher &&& msk = butTrustChainFwOnchipBootCipher) :
    kept msk (acceptStage1 o s) = kept msk s := by
  refine kept_mono hm ?_
  simp [acceptStage1]

@[simp] theorem acceptControl_keeps (o : ImageObs) (s : State) {msk : Nat} (hm : butTrustFwOnchipBootCipher &&& msk = butTrustFwOnchipBootCipher) :
    kept msk (acceptControl o s) = kept msk s := by
  refine kept_mono hm ?_
  simp [acceptControl]

@[simp] theorem memoriesDone_keeps (s : State) {msk : Nat} (hm : butBoot &&& msk = butBoot) :
    kept msk (memoriesDone s) = kept msk s := by
  refine kept_mono hm ?_
  simp [memoriesDone]

/-! ## Bundle -/

@[simp] theorem writeRecord_keeps (s : State) {msk : Nat} :
    kept msk (writeRecord s) = kept msk s := by
  simp [writeRecord]

@[simp] theorem State_saveFw_keeps (s : State) (f : FwUpdate → FwUpdate) {msk : Nat} (hm : butFw &&& msk = butFw) :
    kept msk (State.saveFw s f) = kept msk s := by
  refine kept_mono hm ?_
  simp [State.saveFw]

@[simp] theorem writeRegion_keeps (staging : Bool) (g : Region_) (s : State) {msk : Nat} :
    kept msk (writeRegion staging g s) = kept msk s := by
  simp [writeRegion]

@[simp] theorem startFw_keeps (s : State) {msk : Nat} (hm : butFw &&& msk = butFw) :
    kept msk (startFw s) = kept msk s := by
  refine kept_mono hm ?_
  simp [startFw]

/-! ## Boot -/

@[simp] theorem fuseRowEvent_keeps (row : Nat) (kind : Nat) (s : State) {msk : Nat} :
    kept msk (fuseRowEvent row kind s) = kept msk s := by
  simp [fuseRowEvent]

@[simp] theorem badRow_keeps (row : Nat) (s : State) {msk : Nat} (hm : butFuses &&& msk = butFuses) :
    kept msk (badRow row s) = kept msk s := by
  refine kept_mono hm ?_
  simp [badRow]

@[simp] theorem badRows_keeps (a0 : List Nat) (a1 : State) {msk : Nat} (hm : butFuses &&& msk = butFuses) :
    kept msk (badRows a0 a1) = kept msk a1 := by
  refine kept_mono hm ?_
  induction a0 generalizing a1 with
  | nil => simp [badRows]
  | cons x l ih => simp [badRows, ih]

@[simp] theorem settleTorn_keeps (torn : Bool) (s : State) {msk : Nat} :
    kept msk (settleTorn torn s) = kept msk s := by
  simp [settleTorn]

@[simp] theorem readRepairs_keeps (reads : List (Nat × List Byte)) (a0 : Nat) (a1 : List (List Byte)) (a2 : State) {msk : Nat} :
    kept msk (readRepairs reads a0 a1 a2) = kept msk a2 := by
  induction a1 generalizing a0 a2 with
  | nil => rfl
  | cons b bs ih =>
    unfold readRepairs
    dsimp only
    split
    · rfl
    · split <;> simp [ih]

@[simp] theorem factoryStep_keeps (obs : BootObs) (s : State) {msk : Nat} :
    kept msk (factoryStep obs s) = kept msk s := by
  simp [factoryStep]

@[simp] theorem tellFailStop_keeps (f : FailStopRec) (s : State) {msk : Nat} :
    kept msk (tellFailStop f s) = kept msk s := by
  unfold tellFailStop
  (repeat' split) <;> simp

@[simp] theorem tellCarafeLost_keeps (pools : Byte) (s : State) {msk : Nat} :
    kept msk (tellCarafeLost pools s) = kept msk s := by
  simp [tellCarafeLost]

@[simp] theorem heldEvents_keeps (s : State) {msk : Nat} (hm : butCond &&& msk = butCond) :
    kept msk (heldEvents s) = kept msk s := by
  refine kept_mono hm ?_
  unfold heldEvents
  (repeat' split) <;> simp

@[simp] theorem haltBoot_keeps (readable : Bool) (s0 : State) {msk : Nat} (hm : butBoot &&& msk = butBoot) :
    kept msk (haltBoot readable s0) = kept msk s0 := by
  refine kept_mono hm ?_
  unfold haltBoot
  (repeat' split) <;> simp

@[simp] theorem readFactory_keeps (obs : BootObs) (s : State) {msk : Nat} :
    kept msk (readFactory obs s) = kept msk s := by
  simp [readFactory]

@[simp] theorem readSfdp_keeps (obs : BootObs) (s : State) {msk : Nat} (hm : butBoot &&& msk = butBoot) :
    kept msk (readSfdp obs s) = kept msk s := by
  refine kept_mono hm ?_
  simp [readSfdp]

@[simp] theorem drawBoot_keeps (s : State) {msk : Nat} (hm : butNetCipher &&& msk = butNetCipher) :
    kept msk (drawBoot s) = kept msk s := by
  refine kept_mono hm ?_
  simp [drawBoot]

@[simp] theorem lostRefsAgain_keeps (s : State) {msk : Nat} :
    kept msk (lostRefsAgain s) = kept msk s := by
  simp [lostRefsAgain]

@[simp] theorem failUnits_keeps (a0 : List Nat) (a1 : State) {msk : Nat} (hm : butThese162976 &&& msk = butThese162976) :
    kept msk (failUnits a0 a1) = kept msk a1 := by
  refine kept_mono hm ?_
  induction a0 generalizing a1 with
  | nil => simp [failUnits]
  | cons x l ih => simp [failUnits, ih]

@[simp] theorem fusesStep_keeps (obs : BootObs) (s : State) {msk : Nat} (hm : butFusesTrustBoot &&& msk = butFusesTrustBoot) :
    kept msk (fusesStep obs s) = kept msk s := by
  refine kept_mono hm ?_
  simp [fusesStep]

@[simp] theorem bootStart_keeps (obs : BootObs) (s : State) {msk : Nat} (hm : butThese163811 &&& msk = butThese163811) :
    kept msk (bootStart obs s) = kept msk s := by
  refine kept_mono hm ?_
  simp [bootStart]

theorem execChipResetExit_keeps (obs : BootObs) (at_ : Nat) (s : State) (s' : State) (ht : execChipResetExit obs at_ s = .next s') :
    kept butThese163827 s' = kept butThese163827 s := by
  unfold execChipResetExit at ht
  obtain rfl | ht := onAon_next ht
  · simp
  try dsimp only at ht
  subst ht
  (repeat' split) <;> simp

theorem execBoardIdSample_keeps (straps : BitVec 4) (steady : Bool) (s : State) (s' : State) (ht : execBoardIdSample straps steady s = .next s') :
    kept butBoot s' = kept butBoot s := by
  unfold execBoardIdSample at ht
  obtain rfl | ht := onRun_next ht
  · simp
  try dsimp only at ht
  subst ht
  simp

@[simp] theorem refuseStage1_keeps (c : Byte) (s : State) {msk : Nat} (hm : butBootCipher &&& msk = butBootCipher) :
    kept msk (refuseStage1 c s) = kept msk s := by
  refine kept_mono hm ?_
  simp [refuseStage1]

@[simp] theorem judgeControl_keeps (o : ImageObs) (s : State) {msk : Nat} (hm : butTrustFwOnchipBootCipher &&& msk = butTrustFwOnchipBootCipher) :
    kept msk (judgeControl o s) = kept msk s := by
  refine kept_mono hm ?_
  unfold judgeControl
  (repeat' split) <;> simp

theorem execImageVerifyDone_keeps (t : ImageType) (o : ImageObs) (s : State) (s' : State) (ht : execImageVerifyDone t o s = .next s') :
    kept butTrustChainFwOnchipBootCipher s' = kept butTrustChainFwOnchipBootCipher s := by
  unfold execImageVerifyDone at ht
  obtain rfl | ht := onRun_next ht
  · rfl
  generalize List.replicate 256 (0xFF : Byte) = erasedHeader at ht
  subst ht
  dsimp only
  (repeat' split) <;> first | rfl | (simp; done)

theorem execHbmTrainingDone_keeps (s : State) (s' : State) (ht : execHbmTrainingDone s = .next s') :
    kept butBootCipher s' = kept butBootCipher s := by
  unfold execHbmTrainingDone at ht
  obtain rfl | ht := onRun_next ht
  · simp
  try dsimp only at ht
  subst ht
  simp

theorem execDdrTrainingDone_keeps (dimms : List Dimm) (ok : Bool) (s : State) (s' : State) (ht : execDdrTrainingDone dimms ok s = .next s') :
    kept butBoot s' = kept butBoot s := by
  unfold execDdrTrainingDone at ht
  obtain rfl | ht := onRun_next ht
  · simp
  try dsimp only at ht
  subst ht
  (repeat' split) <;> simp

theorem execControlCoreStart_keeps (s : State) (s' : State) (ht : execControlCoreStart s = .next s') :
    kept butBootCipher s' = kept butBootCipher s := by
  unfold execControlCoreStart at ht
  obtain rfl | ht := onRun_next ht
  · simp
  try dsimp only at ht
  subst ht
  simp

@[simp] theorem vaultLost_keeps (sections : Nat) (pools : Nat) (s : State) {msk : Nat} :
    kept msk (vaultLost sections pools s) = kept msk s := by
  simp [vaultLost]

@[simp] theorem offlineLost_keeps (hit : List Nat) (s : State) {msk : Nat} (hm : butNetReplsCluster &&& msk = butNetReplsCluster) :
    kept msk (offlineLost hit s) = kept msk s := by
  refine kept_mono hm ?_
  simp [offlineLost]

@[simp] theorem restoreImage_keeps (img : VaultImage) (bad : BitVec 5) (unread : List (Nat × Nat)) (found : VaultFound) (s : State) {msk : Nat} (hm : butBootNetReplsCluster &&& msk = butBootNetReplsCluster) :
    kept msk (restoreImage img bad unread found s) = kept msk s := by
  refine kept_mono hm ?_
  simp [restoreImage]

theorem execVaultReplay_keeps (anchor : AnchorRead) (bad : BitVec 5) (unread : List (Nat × Nat)) (found : VaultFound) (s : State) (s' : State) (ht : execVaultReplay anchor bad unread found s = .next s') :
    kept butBootNetReplsCluster s' = kept butBootNetReplsCluster s := by
  unfold execVaultReplay at ht
  obtain rfl | ht := onRun_next ht
  · rfl
  try dsimp only at ht
  subst ht
  (repeat' split) <;> simp

@[simp] theorem readSuper_keeps (x : SuperCopy) (s : State) {msk : Nat} :
    kept msk (readSuper x s) = kept msk s := by
  unfold readSuper
  (repeat' split) <;> simp

@[simp] theorem readSupers_keeps (l : List SuperCopy) (s : State) {msk : Nat} :
    kept msk (readSupers l s) = kept msk s := by
  simp [readSupers]

@[simp] theorem replayOwn_keeps (a0 : Nat) (a1 : List (Nat × Group)) (a2 : State) {msk : Nat} (hm : butNetNsReplsClusterCipher &&& msk = butNetNsReplsClusterCipher) :
    kept msk (replayOwn a0 a1 a2) = kept msk a2 := by
  refine kept_mono hm ?_
  induction a1 generalizing a0 a2 with
  | nil => simp [replayOwn]
  | cons x l ih =>
    unfold replayOwn
    (repeat' split) <;> simp [ih]

@[simp] theorem settleSifs_keeps (a0 : List (Nat × Sif)) (a1 : State) {msk : Nat} :
    kept msk (settleSifs a0 a1) = kept msk a1 := by
  induction a0 generalizing a1 with
  | nil => simp [settleSifs]
  | cons x l ih => simp [settleSifs, ih]

@[simp] theorem reduceAgain_keeps (a0 : List Nat) (a1 : State) {msk : Nat} :
    kept msk (reduceAgain a0 a1) = kept msk a1 := by
  induction a0 generalizing a1 with
  | nil => simp [reduceAgain]
  | cons x l ih => simp [reduceAgain, ih]

@[simp] theorem replayKeys_keeps (vault : Bool) (s : State) {msk : Nat} (hm : butCipher &&& msk = butCipher) :
    kept msk (replayKeys vault s) = kept msk s := by
  refine kept_mono hm ?_
  simp [replayKeys]

@[simp] theorem setUnpowered_keeps (a0 : List (Nat × Nat × Nat)) (a1 : State) {msk : Nat} :
    kept msk (setUnpowered a0 a1) = kept msk a1 := by
  induction a0 generalizing a1 with
  | nil => simp [setUnpowered]
  | cons x l ih => simp [setUnpowered, ih]

@[simp] theorem startChecks_keeps (s : State) {msk : Nat} :
    kept msk (startChecks s) = kept msk s := by
  simp [startChecks]

@[simp] theorem peerAtReady_keeps (s : State) {msk : Nat} :
    kept msk (peerAtReady s) = kept msk s := by
  simp [peerAtReady]

@[simp] theorem anaAtReady_keeps (s : State) {msk : Nat} :
    kept msk (anaAtReady s) = kept msk s := by
  simp [anaAtReady]

@[simp] theorem unconfirmedRuns_keeps (s : State) {msk : Nat} (hm : butFw &&& msk = butFw) :
    kept msk (unconfirmedRuns s) = kept msk s := by
  refine kept_mono hm ?_
  simp [unconfirmedRuns]

@[simp] theorem bootReady_keeps (s : State) {msk : Nat} (hm : butFwBoot &&& msk = butFwBoot) :
    kept msk (bootReady s) = kept msk s := by
  refine kept_mono hm ?_
  unfold bootReady
  extract_lets us s1 s2 s2' f3 s3 f4 s4
  have h2 : kept butFwBoot s2' = kept butFwBoot s := by simp [s2', s2, s1]
  have h3 : kept butFwBoot s3 = kept butFwBoot s := by
    rw [← h2]
    simp only [s3]
    split <;> simp
  have h4 : kept butFwBoot s4 = kept butFwBoot s := by
    rw [← h3]
    simp only [s4]
    split <;> simp
  rw [← h4]
  simp

theorem execJournalReplay_keeps (supers : List SuperCopy) (unpowered : List (Nat × Nat × Nat)) (s : State) (s' : State) (ht : execJournalReplay supers unpowered s = .next s') :
    kept butThese32064 s' = kept butThese32064 s := by
  unfold execJournalReplay at ht
  obtain rfl | ht := onRun_next ht
  · simp
  try dsimp only at ht
  subst ht
  simp

/-! ## Chain -/

@[simp] theorem State_chn_keeps (s : State) (f : Chain → Chain) {msk : Nat} (hm : butChain &&& msk = butChain) :
    kept msk (State.chn s f) = kept msk s := by
  refine kept_mono hm ?_
  simp [State.chn]

@[simp] theorem chainFault_keeps (s : State) {msk : Nat} (hm : butChain &&& msk = butChain) :
    kept msk (chainFault s) = kept msk s := by
  refine kept_mono hm ?_
  simp [chainFault]

theorem execChainHeadTaken_keeps (s : State) (s' : State) (ht : execChainHeadTaken s = .next s') :
    kept butChainCond s' = kept butChainCond s := by
  unfold execChainHeadTaken at ht
  obtain rfl | ht := onRun_next ht
  · simp
  try dsimp only at ht
  subst ht
  simp

@[simp] theorem chainSend_keeps (bits : W32) (s : State) {msk : Nat} :
    kept msk (chainSend bits s) = kept msk s := by
  simp [chainSend]

theorem execChainHeadFrameSend_keeps (s : State) (s' : State) (ht : execChainHeadFrameSend s = .next s') :
    kept 0 s' = kept 0 s := by
  unfold execChainHeadFrameSend at ht
  obtain rfl | ht := onSp_next ht
  · rfl
  try dsimp only at ht
  subst ht
  simp

@[simp] theorem noteBoard_keeps (b : Nat) (s : State) {msk : Nat} (hm : butChain &&& msk = butChain) :
    kept msk (noteBoard b s) = kept msk s := by
  refine kept_mono hm ?_
  simp [noteBoard]

@[simp] theorem takeEnclosure_keeps (e : BitVec 5) (s : State) {msk : Nat} (hm : butChain &&& msk = butChain) :
    kept msk (takeEnclosure e s) = kept msk s := by
  refine kept_mono hm ?_
  simp [takeEnclosure]

@[simp] theorem headFrame_keeps (p : Nat) (s : State) {msk : Nat} (hm : butChain &&& msk = butChain) :
    kept msk (headFrame p s) = kept msk s := by
  refine kept_mono hm ?_
  simp [headFrame]

@[simp] theorem takePosition_keeps (p : Nat) (s : State) {msk : Nat} (hm : butChain &&& msk = butChain) :
    kept msk (takePosition p s) = kept msk s := by
  refine kept_mono hm ?_
  simp [takePosition]

@[simp] theorem checkPosition_keeps (p : Nat) (held : Nat) (s : State) {msk : Nat} (hm : butChain &&& msk = butChain) :
    kept msk (checkPosition p held s) = kept msk s := by
  refine kept_mono hm ?_
  simp [checkPosition]

@[simp] theorem validFrame_keeps (bits : Nat) (s : State) {msk : Nat} (hm : butChain &&& msk = butChain) :
    kept msk (validFrame bits s) = kept msk s := by
  refine kept_mono hm ?_
  unfold validFrame
  try dsimp only
  (repeat' split) <;> first | (simp; done) | (rcases Prod.ext_iff.mp ‹_ = (_, _)› with ⟨rfl, -⟩; simp; done) | (rcases Prod.ext_iff.mp ‹_ = (_, _)› with ⟨-, rfl⟩; simp; done) | (simp_all; done)

@[simp] theorem chainTake_keeps (bits : Nat) (s : State) {msk : Nat} (hm : butChain &&& msk = butChain) :
    kept msk (chainTake bits s) = kept msk s := by
  refine kept_mono hm ?_
  simp [chainTake]

theorem execChainFrameReceived_keeps (lows : List Nat) (at_ : Nat) (s : State) (s' : State) (ht : execChainFrameReceived lows at_ s = .next s') :
    kept butChainCond s' = kept butChainCond s := by
  unfold execChainFrameReceived at ht
  obtain rfl | ht := onSp_next ht
  · rfl
  try dsimp only at ht
  subst ht
  (repeat' split) <;> simp

@[simp] theorem chainBroken_keeps (s : State) {msk : Nat} (hm : butChainCond &&& msk = butChainCond) :
    kept msk (chainBroken s) = kept msk s := by
  refine kept_mono hm ?_
  simp [chainBroken]

theorem execChainNoFrameTimeout_keeps (s : State) (s' : State) (ht : execChainNoFrameTimeout s = .next s') :
    kept butChainCond s' = kept butChainCond s := by
  unfold execChainNoFrameTimeout at ht
  obtain rfl | ht := onRun_next ht
  · simp
  try dsimp only at ht
  subst ht
  simp

theorem execChainInStuck_keeps (level : Bool) (s : State) (s' : State) (ht : execChainInStuck level s = .next s') :
    kept butChainCond s' = kept butChainCond s := by
  unfold execChainInStuck at ht
  obtain rfl | ht := onRun_next ht
  · simp
  try dsimp only at ht
  subst ht
  simp

end Sys2Proof.Machine
end

