-- ==== Sys2Proof/Laws/KeepsHost.lean ====
section
/-! SUPPORT. Laws/KeepsHost.lean: the parts of the state that each operation of the cluster, registers, trust, firmware, errors and the sideband leaves as they were. -/
namespace Sys2Proof.Machine
open Sys2Proof
set_option linter.all false
set_option maxHeartbeats 1000000

/-! ## Cluster -/

@[simp] theorem joinFails_keeps (r : MStatus) (s : State) {msk : Nat} (hm : butCluster &&& msk = butCluster) :
    kept msk (joinFails r s) = kept msk s := by
  refine kept_mono hm ?_
  simp [joinFails]

@[simp] theorem onClu_keeps (h : CluHdr) (m : CluMsg) (f : State → State) (s : State) {msk : Nat} (hm : butCluster &&& msk = butCluster) (h0 : ∀ x0, kept msk (f x0) = kept msk x0) :
    kept msk (onClu h m f s) = kept msk s := by
  have hb13 : msk / 8192 % 2 = 1 := bit_of_and hm 13 rfl
  unfold onClu <;> (try dsimp only) <;> (repeat' split) <;> first | (simp [h0, hm, hb13]; done) | simp_all

@[simp] theorem onMember_keeps (h : CluHdr) (m : CluMsg) (f : State → State) (s : State) {msk : Nat} (hm : butCluster &&& msk = butCluster) (h0 : ∀ x0, kept msk (f x0) = kept msk x0) :
    kept msk (onMember h m f s) = kept msk s := by
  have hb13 : msk / 8192 % 2 = 1 := bit_of_and hm 13 rfl
  simp [onMember, h0, hm, hb13]

@[simp] theorem viewEvents_keeps (view : Nat) (a0 : Nat) (a1 : List ViewChange) (a2 : State) {msk : Nat} :
    kept msk (viewEvents view a0 a1 a2) = kept msk a2 := by
  induction a0 generalizing view a1 a2 with
  | zero => simp [viewEvents]
  | succ x ih => simp [viewEvents, ih]

@[simp] theorem partnersMove_keeps (a0 : List (Nat × Repl)) (a1 : State) {msk : Nat} (hm : butNetNsReplsClusterCipher &&& msk = butNetNsReplsClusterCipher) :
    kept msk (partnersMove a0 a1) = kept msk a1 := by
  refine kept_mono hm ?_
  induction a0 generalizing a1 with
  | nil => simp [partnersMove]
  | cons x l ih => simp [partnersMove, ih]

@[simp] theorem dropMember_keeps (s : State) {msk : Nat} (hm : butNetNsReplsClusterCipher &&& msk = butNetNsReplsClusterCipher) :
    kept msk (dropMember s) = kept msk s := by
  refine kept_mono hm ?_
  simp [dropMember]

@[simp] theorem adoptView_keeps (view : Nat) (xs : List ViewChange) (s : State) {msk : Nat} (hm : butNetNsReplsClusterCipher &&& msk = butNetNsReplsClusterCipher) :
    kept msk (adoptView view xs s) = kept msk s := by
  refine kept_mono hm ?_
  simp [adoptView]

@[simp] theorem commitChange_keeps (x : Change) (s : State) {msk : Nat} (hm : butNetNsReplsClusterCipher &&& msk = butNetNsReplsClusterCipher) :
    kept msk (commitChange x s) = kept msk s := by
  refine kept_mono hm ?_
  unfold commitChange
  (repeat' split) <;> simp

@[simp] theorem sendChange_keeps (xs : List ViewChange) (joiner : Option Nat) (s : State) {msk : Nat} (hm : butNetNsReplsClusterCipher &&& msk = butNetNsReplsClusterCipher) :
    kept msk (sendChange xs joiner s) = kept msk s := by
  refine kept_mono hm ?_
  simp [sendChange]

@[simp] theorem nextChange_keeps (a0 : List (List ViewChange × Option Nat)) (a1 : State) {msk : Nat} (hm : butNetNsReplsClusterCipher &&& msk = butNetNsReplsClusterCipher) :
    kept msk (nextChange a0 a1) = kept msk a1 := by
  refine kept_mono hm ?_
  induction a0 generalizing a1 with
  | nil => simp [nextChange]
  | cons x l ih => simp [nextChange, ih]

@[simp] theorem startChange_keeps (xs : List ViewChange) (joiner : Option Nat) (s : State) {msk : Nat} (hm : butNetNsReplsClusterCipher &&& msk = butNetNsReplsClusterCipher) :
    kept msk (startChange xs joiner s) = kept msk s := by
  refine kept_mono hm ?_
  simp [startChange]

theorem execClusterJoin_keeps (h : MbxHdr) (clusterId : W64) (seed : W16) (s : State) (s' : State) (ht : execClusterJoin h clusterId seed s = .next s') :
    kept butNetNsReplsClusterCipher s' = kept butNetNsReplsClusterCipher s := by
  unfold execClusterJoin at ht
  obtain rfl | ht := onRun_next ht
  · simp
  try dsimp only at ht
  subst ht
  first | (simp; done) | (refine mbxStart_keeps _ _ _ _ _ (fun y0 => ?_) <;> (try dsimp only) <;> first | (simp; done) | ((repeat' split) <;> simp; done))

theorem execJoinRequest_keeps (h : CluHdr) (uid : BitVec 128) (session : W32) (node : Nat) (minV : Nat) (maxV : Nat) (partner : Nat) (s : State) (s' : State) (ht : execJoinRequest h uid session node minV maxV partner s = .next s') :
    kept butNetNsReplsClusterCipher s' = kept butNetNsReplsClusterCipher s := by
  unfold execJoinRequest at ht
  obtain rfl | ht := onRun_next ht
  · simp
  try dsimp only at ht
  subst ht
  simp

theorem execJoinAccept_keeps (h : CluHdr) (view : Nat) (leader : Nat) (members : Tbl Nat) (s : State) (s' : State) (ht : execJoinAccept h view leader members s = .next s') :
    kept butNetNsReplsClusterCipher s' = kept butNetNsReplsClusterCipher s := by
  unfold execJoinAccept at ht
  obtain rfl | ht := onRun_next ht
  · simp
  try dsimp only at ht
  subst ht
  simp

theorem execClusterJoinTimeout_keeps (answered : Bool) (s : State) (s' : State) (ht : execClusterJoinTimeout answered s = .next s') :
    kept butNetCluster s' = kept butNetCluster s := by
  unfold execClusterJoinTimeout at ht
  obtain rfl | ht := onRun_next ht
  · simp
  try dsimp only at ht
  subst ht
  (repeat' split) <;> simp

@[simp] theorem removeMember_keeps (n : Nat) (s : State) {msk : Nat} (hm : butNetNsReplsClusterCipher &&& msk = butNetNsReplsClusterCipher) :
    kept msk (removeMember n s) = kept msk s := by
  refine kept_mono hm ?_
  simp [removeMember]

theorem execClusterLeave_keeps (h : MbxHdr) (s : State) (s' : State) (ht : execClusterLeave h s = .next s') :
    kept butNetNsReplsClusterCipher s' = kept butNetNsReplsClusterCipher s := by
  unfold execClusterLeave at ht
  obtain rfl | ht := onRun_next ht
  · simp
  try dsimp only at ht
  subst ht
  first | (simp; done) | (refine mbxStart_keeps _ _ _ _ _ (fun y0 => ?_) <;> (try dsimp only) <;> first | (simp; done) | ((repeat' split) <;> simp; done))

theorem execClusterLeaveTimeout_keeps (s : State) (s' : State) (ht : execClusterLeaveTimeout s = .next s') :
    kept butCluster s' = kept butCluster s := by
  unfold execClusterLeaveTimeout at ht
  obtain rfl | ht := onRun_next ht
  · simp
  try dsimp only at ht
  subst ht
  simp

theorem execLeave_keeps (h : CluHdr) (s : State) (s' : State) (ht : execLeave h s = .next s') :
    kept butNetNsReplsClusterCipher s' = kept butNetNsReplsClusterCipher s := by
  unfold execLeave at ht
  obtain rfl | ht := onRun_next ht
  · rfl
  try dsimp only at ht
  subst ht
  refine onClu_keeps _ _ _ _ (by simp) (fun y0 => ?_)
  (repeat' split) <;> simp

theorem execViewUpdate_keeps (h : CluHdr) (view : Nat) (changes : List ViewChange) (s : State) (s' : State) (ht : execViewUpdate h view changes s = .next s') :
    kept butNetNsReplsClusterCipher s' = kept butNetNsReplsClusterCipher s := by
  unfold execViewUpdate at ht
  obtain rfl | ht := onRun_next ht
  · simp
  try dsimp only at ht
  subst ht
  simp

theorem execViewAck_keeps (h : CluHdr) (view : Nat) (s : State) (s' : State) (ht : execViewAck h view s = .next s') :
    kept butNetNsReplsClusterCipher s' = kept butNetNsReplsClusterCipher s := by
  unfold execViewAck at ht
  obtain rfl | ht := onRun_next ht
  · rfl
  try dsimp only at ht
  subst ht
  refine onMember_keeps _ _ _ _ (by simp) (fun y0 => ?_)
  (repeat' split) <;> simp

theorem execViewChangeTimeout_keeps (s : State) (s' : State) (ht : execViewChangeTimeout s = .next s') :
    kept butNetNsReplsClusterCipher s' = kept butNetNsReplsClusterCipher s := by
  unfold execViewChangeTimeout at ht
  obtain rfl | ht := onRun_next ht
  · simp
  try dsimp only at ht
  subst ht
  (repeat' split) <;> simp

@[simp] theorem nonceOf_keeps (s : State) {msk : Nat} :
    kept msk ((nonceOf s).2) = kept msk s := by
  simp [nonceOf]

@[simp] theorem probeMember_keeps (n : Nat) (s : State) {msk : Nat} (hm : butNetCluster &&& msk = butNetCluster) :
    kept msk (probeMember n s) = kept msk s := by
  refine kept_mono hm ?_
  simp [probeMember]

@[simp] theorem probeNext_keeps (s : State) {msk : Nat} (hm : butNetCluster &&& msk = butNetCluster) :
    kept msk (probeNext s) = kept msk s := by
  refine kept_mono hm ?_
  unfold probeNext
  (repeat' split) <;> simp

theorem execClusterProbeTick_keeps (s : State) (s' : State) (ht : execClusterProbeTick s = .next s') :
    kept butNetCluster s' = kept butNetCluster s := by
  unfold execClusterProbeTick at ht
  obtain rfl | ht := onRun_next ht
  · simp
  try dsimp only at ht
  subst ht
  simp

theorem execClusterProbe_keeps (h : CluHdr) (nonce : W64) (s : State) (s' : State) (ht : execClusterProbe h nonce s = .next s') :
    kept butNetCluster s' = kept butNetCluster s := by
  unfold execClusterProbe at ht
  obtain rfl | ht := onRun_next ht
  · simp
  try dsimp only at ht
  subst ht
  simp

@[simp] theorem passAcks_keeps (nonce : W64) (a0 : List (Nat × Probe)) (a1 : State) {msk : Nat} (hm : butNetCluster &&& msk = butNetCluster) :
    kept msk (passAcks nonce a0 a1) = kept msk a1 := by
  refine kept_mono hm ?_
  induction a0 generalizing nonce a1 with
  | nil => simp [passAcks]
  | cons x l ih =>
    unfold passAcks
    (repeat' split) <;> simp [ih]

theorem execClusterProbeAck_keeps (h : CluHdr) (nonce : W64) (s : State) (s' : State) (ht : execClusterProbeAck h nonce s = .next s') :
    kept butNetCluster s' = kept butNetCluster s := by
  unfold execClusterProbeAck at ht
  obtain rfl | ht := onRun_next ht
  · simp
  try dsimp only at ht
  subst ht
  simp

theorem execProbeIndirect_keeps (h : CluHdr) (target : Nat) (nonce : W64) (s : State) (s' : State) (ht : execProbeIndirect h target nonce s = .next s') :
    kept butNetCluster s' = kept butNetCluster s := by
  unfold execProbeIndirect at ht
  obtain rfl | ht := onRun_next ht
  · simp
  try dsimp only at ht
  subst ht
  simp

@[simp] theorem noteSuspect_keeps (n : Nat) (s : State) {msk : Nat} (hm : butNetCluster &&& msk = butNetCluster) :
    kept msk (noteSuspect n s) = kept msk s := by
  refine kept_mono hm ?_
  simp [noteSuspect]

@[simp] theorem reportSuspect_keeps (n : Nat) (s : State) {msk : Nat} (hm : butNetCluster &&& msk = butNetCluster) :
    kept msk (reportSuspect n s) = kept msk s := by
  refine kept_mono hm ?_
  simp [reportSuspect]

@[simp] theorem pickThree_keeps (s : State) (n : Nat) {msk : Nat} :
    kept msk ((pickThree s n).2) = kept msk s := by
  simp [pickThree]

theorem execClusterProbeTimeout_keeps (node : Nat) (s : State) (s' : State) (ht : execClusterProbeTimeout node s = .next s') :
    kept butNetCluster s' = kept butNetCluster s := by
  unfold execClusterProbeTimeout at ht
  obtain rfl | ht := onRun_next ht
  · simp
  try dsimp only at ht
  subst ht
  (repeat' split) <;> simp

theorem execSuspect_keeps (h : CluHdr) (node : Nat) (view : Nat) (s : State) (s' : State) (ht : execSuspect h node view s = .next s') :
    kept butNetCluster s' = kept butNetCluster s := by
  unfold execSuspect at ht
  obtain rfl | ht := onRun_next ht
  · simp
  try dsimp only at ht
  subst ht
  simp

theorem execSuspectTimeout_keeps (node : Nat) (s : State) (s' : State) (ht : execSuspectTimeout node s = .next s') :
    kept butNetNsReplsClusterCipher s' = kept butNetNsReplsClusterCipher s := by
  unfold execSuspectTimeout at ht
  obtain rfl | ht := onRun_next ht
  · simp
  try dsimp only at ht
  subst ht
  (repeat' split) <;> simp

theorem execTrafficKeyPreviousExpiry_keeps (node : Nat) (s : State) (s' : State) (ht : execTrafficKeyPreviousExpiry node s = .next s') :
    kept butCluster s' = kept butCluster s := by
  unfold execTrafficKeyPreviousExpiry at ht
  obtain rfl | ht := onRun_next ht
  · simp
  try dsimp only at ht
  subst ht
  (repeat' split) <;> simp

/-! ## Registers -/

@[simp] theorem clearRc_keeps (p : Port) (off : Nat) (s : State) {msk : Nat} (hm : butChansCondGovSems &&& msk = butChansCondGovSems) :
    kept msk (clearRc p off s) = kept msk s := by
  refine kept_mono hm ?_
  simp [clearRc]

@[simp] theorem advanceIndex_keeps (p : Port) (off : Nat) (s : State) {msk : Nat} :
    kept msk (advanceIndex p off s) = kept msk s := by
  simp [advanceIndex]

@[simp] theorem readWindow_keeps (p : Port) (off : Nat) (s : State) {msk : Nat} :
    kept msk ((readWindow p off s).2) = kept msk s := by
  unfold readWindow
  (repeat' split) <;> simp

@[simp] theorem readWord_keeps (p : Port) (off : Nat) (wide : Bool) (s : State) {msk : Nat} (hm : butChansCondGovSems &&& msk = butChansCondGovSems) :
    kept msk ((readWord p off wide s).2) = kept msk s := by
  refine kept_mono hm ?_
  unfold readWord
  (repeat' split) <;> simp

@[simp] theorem readOut_keeps (p : Port) (off : Nat) (v : Nat) (s : State) {msk : Nat} :
    kept msk (readOut p off v s) = kept msk s := by
  simp [readOut]

theorem readReg_keeps (p : Port) (off size : Nat) (s t : State) (ht : readReg p off size s = .next t) :
    kept butChansCondGovSems t = kept butChansCondGovSems s := by
  unfold readReg at ht
  (repeat' split at ht) <;> first | (injection ht with ht; subst ht; simp; done) | cases ht

@[simp] theorem pageRead_keeps (g : PageId) (off : Nat) (size : Nat) (s : State) {msk : Nat} :
    kept msk (pageRead g off size s) = kept msk s := by
  simp [pageRead]

theorem execRegisterRcRead_keeps (t : RegTarget) (size : Fin 4) (s : State) (s' : State) (ht : execRegisterRcRead t size s = .next s') :
    kept butChansCondGovSems s' = kept butChansCondGovSems s := by
  unfold execRegisterRcRead at ht
  split at ht
  · simpa using readReg_keeps _ _ _ _ _ ht
  all_goals
    obtain rfl | ht := onRun_next ht
    · simp
    · try dsimp only at ht
      subst ht
      simp

theorem execRegisterLowHalfRead_keeps (p : Port) (off : BitVec 20) (s : State) (s' : State) (ht : execRegisterLowHalfRead p off s = .next s') :
    kept butChansCondGovSems s' = kept butChansCondGovSems s := by
  simpa using readReg_keeps _ _ _ _ _ ht

theorem execEvrWindowRead_keeps (p : Port) (k : Fin 64) (s : State) (s' : State) (ht : execEvrWindowRead p k s = .next s') :
    kept 0 s' = kept 0 s := by
  unfold execEvrWindowRead at ht
  obtain rfl | ht := onRun_next ht
  · simp
  try dsimp only at ht
  subst ht
  simp

@[simp] theorem eraseRecorder_keeps (s : State) {msk : Nat} :
    kept msk (eraseRecorder s) = kept msk s := by
  simp [eraseRecorder]

theorem execEvrClear_keeps (p : Port) (s : State) (s' : State) (ht : execEvrClear p s = .next s') :
    kept 0 s' = kept 0 s := by
  unfold execEvrClear at ht
  obtain rfl | ht := onRun_next ht
  · simp
  try dsimp only at ht
  subst ht
  simp

theorem ranOn_cases (f : State → Res) (s : State) : ranOn f s = s ∨ f s = .next (ranOn f s) := by
  unfold ranOn
  split <;> simp_all

theorem ranOn_keeps (f : State → Res) (s : State) {msk : Nat} (h0 : ∀ t, f s = .next t → kept msk t = kept msk s) :
    kept msk (ranOn f s) = kept msk s := by
  unfold ranOn
  split
  · exact h0 _ ‹_›
  · rfl

@[simp] theorem ran_execMbxImmDoorbell_keeps (p : Port) (len : BitVec 13) (s : State) {msk : Nat} : kept msk (ranOn (execMbxImmDoorbell p len) s) = kept msk s :=
  ranOn_keeps _ _ fun _ h => kept_mono (Nat.zero_and msk) (execMbxImmDoorbell_keeps _ _ _ _ h)

@[simp] theorem ran_execMbxReqTail_keeps (p : Port) (v : BitVec 20) (s : State) {msk : Nat} : kept msk (ranOn (execMbxReqTail p v) s) = kept msk s :=
  ranOn_keeps _ _ fun _ h => kept_mono (Nat.zero_and msk) (execMbxReqTail_keeps _ _ _ _ h)

@[simp] theorem ran_execMbxRspHead_keeps (p : Port) (v : BitVec 20) (s : State) {msk : Nat} : kept msk (ranOn (execMbxRspHead p v) s) = kept msk s :=
  ranOn_keeps _ _ fun _ h => kept_mono (Nat.zero_and msk) (execMbxRspHead_keeps _ _ _ _ h)

@[simp] theorem ran_execMbxRingCtrlWrite_keeps (p : Port) (v : W32) (s : State) {msk : Nat} : kept msk (ranOn (execMbxRingCtrlWrite p v) s) = kept msk s :=
  ranOn_keeps _ _ fun _ h => kept_mono (Nat.zero_and msk) (execMbxRingCtrlWrite_keeps _ _ _ _ h)

@[simp] theorem mbxWrite_keeps (p : Port) (off : Nat) (v : W32) (s : State) {msk : Nat} :
    kept msk (mbxWrite p off v s) = kept msk s := by
  have hr (f : PortRegs → PortRegs) : kept msk (if ringClosed p s then accessError p off s else s.modPort p f) = kept msk s := by split <;> simp
  unfold mbxWrite
  extract_lets r ring
  have hr' (f : PortRegs → PortRegs) : kept msk (ring f) = kept msk s := hr f
  clear_value r ring
  split <;> simp [hr']

@[simp] theorem bufWrite_keeps (p : Port) (off : Nat) (v : W32) (s : State) {msk : Nat} :
    kept msk (bufWrite p off v s) = kept msk s := by
  simp [bufWrite]

@[simp] theorem condWrite_keeps (v : W32) (s : State) {msk : Nat} (hm : butCond &&& msk = butCond) :
    kept msk (condWrite v s) = kept msk s := by
  refine kept_mono hm ?_
  simp [condWrite]

@[simp] theorem upperWrite_keeps (p : Port) (off : Nat) (v : W32) (s : State) {msk : Nat} :
    kept msk (upperWrite p off v s) = kept msk s := by
  simp [upperWrite]

@[simp] theorem msixWrite_keeps (p : Port) (off : Nat) (v : W32) (s : State) {msk : Nat} :
    kept msk (msixWrite p off v s) = kept msk s := by
  simp [msixWrite]

@[simp] theorem ran_execSemReleaseWrite_keeps (p : Port) (n : Fin 64) (v : W32) (s : State) {msk : Nat} (hm : butSems &&& msk = butSems) : kept msk (ranOn (execSemReleaseWrite p n v) s) = kept msk s :=
  ranOn_keeps _ _ fun _ h => kept_mono hm (execSemReleaseWrite_keeps _ _ _ _ _ h)

@[simp] theorem ran_execSemLeaseRenew_keeps (p : Port) (s : State) {msk : Nat} : kept msk (ranOn (execSemLeaseRenew p) s) = kept msk s :=
  ranOn_keeps _ _ fun _ h => kept_mono (Nat.zero_and msk) (execSemLeaseRenew_keeps _ _ _ h)

@[simp] theorem ran_execEvrClear_keeps (p : Port) (s : State) {msk : Nat} : kept msk (ranOn (execEvrClear p) s) = kept msk s :=
  ranOn_keeps _ _ fun _ h => kept_mono (Nat.zero_and msk) (execEvrClear_keeps _ _ _ h)

@[simp] theorem ran_execIntEnableWrite_keeps (p : Port) (v : W32) (s : State) {msk : Nat} : kept msk (ranOn (execIntEnableWrite p v) s) = kept msk s :=
  ranOn_keeps _ _ fun _ h => kept_mono (Nat.zero_and msk) (execIntEnableWrite_keeps _ _ _ _ h)

@[simp] theorem writeWord_keeps (p : Port) (off : Nat) (v : W32) (s : State) {msk : Nat} (hm : butChansOnchipCondSems &&& msk = butChansOnchipCondSems) :
    kept msk (writeWord p off v s) = kept msk s := by
  refine kept_mono hm ?_
  simp [writeWord]

@[simp] theorem writeWide_keeps (p : Port) (off : Nat) (v : W64) (s : State) {msk : Nat} (hm : butChansOnchipCondSems &&& msk = butChansOnchipCondSems) :
    kept msk (writeWide p off v s) = kept msk s := by
  refine kept_mono hm ?_
  simp [writeWide]

@[simp] theorem ran_execSqTailDoorbell_keeps (g : PageId) (sq : Nat) (v : W32) (s : State) {msk : Nat} : kept msk (ranOn (execSqTailDoorbell g sq v) s) = kept msk s :=
  ranOn_keeps _ _ fun _ h => kept_mono (Nat.zero_and msk) (execSqTailDoorbell_keeps _ _ _ _ _ h)

@[simp] theorem ran_execCqHeadDoorbell_keeps (g : PageId) (cq : Nat) (v : W32) (s : State) {msk : Nat} (hm : butNetCipher &&& msk = butNetCipher) : kept msk (ranOn (execCqHeadDoorbell g cq v) s) = kept msk s :=
  ranOn_keeps _ _ fun _ h => kept_mono hm (execCqHeadDoorbell_keeps _ _ _ _ _ h)

@[simp] theorem ran_execCcWrite_keeps (g : PageId) (v : W32) (s : State) {msk : Nat} (hm : butNetCipher &&& msk = butNetCipher) : kept msk (ranOn (execCcWrite g v) s) = kept msk s :=
  ranOn_keeps _ _ fun _ h => kept_mono hm (execCcWrite_keeps _ _ _ _ h)

@[simp] theorem pageWrite_keeps (g : PageId) (off : Nat) (v : W32) (s : State) {msk : Nat} (hm : butNetCipher &&& msk = butNetCipher) :
    kept msk (pageWrite g off v s) = kept msk s := by
  refine kept_mono hm ?_
  unfold pageWrite
  (repeat' split) <;> simp

theorem execRegisterWrite_keeps (t : RegTarget) (wide : Bool) (v : W64) (s : State) (s' : State) (ht : execRegisterWrite t wide v s = .next s') :
    kept butChansOnchipCondNetCipherSems s' = kept butChansOnchipCondNetCipherSems s := by
  unfold execRegisterWrite at ht
  (repeat' split at ht) <;> first | (injection ht with ht; subst ht; (repeat' split) <;> simp; done) | cases ht

theorem execEvrRecordWritten_keeps (s : State) (s' : State) (ht : execEvrRecordWritten s = .next s') :
    kept 0 s' = kept 0 s := by
  unfold execEvrRecordWritten at ht
  obtain rfl | ht := onLive_next ht
  · simp
  try dsimp only at ht
  subst ht
  (repeat' split) <;> simp

theorem execEvrClearDone_keeps (s : State) (s' : State) (ht : execEvrClearDone s = .next s') :
    kept 0 s' = kept 0 s := by
  unfold execEvrClearDone at ht
  obtain rfl | ht := onRun_next ht
  · simp
  try dsimp only at ht
  subst ht
  (repeat' split) <;> simp

/-! ## HostPorts -/

@[simp] theorem endpointReset_keeps (p : Port) (s : State) {msk : Nat} (hm : butChansOnchipSems &&& msk = butChansOnchipSems) :
    kept msk (endpointReset p s) = kept msk s := by
  refine kept_mono hm ?_
  simp [endpointReset]

@[simp] theorem upperReset_keeps (p : Port) (s : State) {msk : Nat} :
    kept msk (upperReset p s) = kept msk s := by
  simp [upperReset]

theorem execHotReset_keeps (p : Port) (s : State) (s' : State) (ht : execHotReset p s = .next s') :
    kept butChansOnchipSems s' = kept butChansOnchipSems s := by
  unfold execHotReset at ht
  obtain rfl | ht := onRun_next ht
  · simp
  try dsimp only at ht
  subst ht
  simp

theorem execFunctionLevelReset_keeps (p : Port) (s : State) (s' : State) (ht : execFunctionLevelReset p s = .next s') :
    kept butChansOnchipSems s' = kept butChansOnchipSems s := by
  unfold execFunctionLevelReset at ht
  obtain rfl | ht := onRun_next ht
  · simp
  try dsimp only at ht
  subst ht
  simp

theorem execDataLinkDown_keeps (p : Port) (s : State) (s' : State) (ht : execDataLinkDown p s = .next s') :
    kept butChansOnchipSems s' = kept butChansOnchipSems s := by
  unfold execDataLinkDown at ht
  obtain rfl | ht := onRun_next ht
  · simp
  try dsimp only at ht
  subst ht
  simp

@[simp] theorem judgeLink_keeps (p : Port) (s : State) {msk : Nat} :
    kept msk (judgeLink p s) = kept msk s := by
  simp [judgeLink]

theorem execHostLinkUp_keeps (p : Port) (speed : BitVec 4) (width : BitVec 5) (s : State) (s' : State) (ht : execHostLinkUp p speed width s = .next s') :
    kept 0 s' = kept 0 s := by
  unfold execHostLinkUp at ht
  obtain rfl | ht := onRun_next ht
  · simp
  try dsimp only at ht
  subst ht
  simp

@[simp] theorem sendPending_keeps (p : Port) (a0 : List Nat) (a1 : State) {msk : Nat} :
    kept msk (sendPending p a0 a1) = kept msk a1 := by
  induction a0 generalizing p a1 with
  | nil => simp [sendPending]
  | cons x l ih => simp [sendPending, ih]

@[simp] theorem sendPendingUpper_keeps (p : Port) (a0 : List Nat) (a1 : State) {msk : Nat} :
    kept msk (sendPendingUpper p a0 a1) = kept msk a1 := by
  induction a0 generalizing p a1 with
  | nil => simp [sendPendingUpper]
  | cons x l ih => simp [sendPendingUpper, ih]

@[simp] theorem cfgRead_keeps (p : Port) (upper : Bool) (reg : Nat) (s : State) {msk : Nat} :
    kept msk (cfgRead p upper reg s) = kept msk s := by
  unfold cfgRead
  try dsimp only
  (repeat' split) <;> first | (simp; done) | (rcases Prod.ext_iff.mp ‹_ = (_, _)› with ⟨rfl, -⟩; simp; done) | (rcases Prod.ext_iff.mp ‹_ = (_, _)› with ⟨-, rfl⟩; simp; done) | (simp_all; done)

@[simp] theorem cfgWriteLow_keeps (p : Port) (reg : Nat) (v : W32) (s : State) {msk : Nat} :
    kept msk (cfgWriteLow p reg v s) = kept msk s := by
  simp [cfgWriteLow]

@[simp] theorem setPower_keeps (p : Port) (upper : Bool) (d3 : Bool) (s : State) {msk : Nat} :
    kept msk (setPower p upper d3 s) = kept msk s := by
  simp [setPower]

@[simp] theorem cfgServe_keeps (p : Port) (upper : Bool) (q : CfgReq) (s : State) {msk : Nat} (hm : butChansOnchipSems &&& msk = butChansOnchipSems) :
    kept msk (cfgServe p upper q s) = kept msk s := by
  refine kept_mono hm ?_
  unfold cfgServe
  (repeat' split) <;> simp

theorem execConfigurationRequest_keeps (p : Port) (upper : Bool) (q : CfgReq) (serves : Bool) (s : State) (s' : State) (ht : execConfigurationRequest p upper q serves s = .next s') :
    kept butChansOnchipBootSems s' = kept butChansOnchipBootSems s := by
  unfold execConfigurationRequest at ht
  obtain rfl | ht := onRun_next ht
  · simp
  try dsimp only at ht
  subst ht
  simp

theorem execAtsInvalidationRequest_keeps (p : Port) (upper : Bool) (pasid : BitVec 20) (page : BitVec 52) (count : Nat) (itag : BitVec 5) (s : State) (s' : State) (ht : execAtsInvalidationRequest p upper pasid page count itag s = .next s') :
    kept 0 s' = kept 0 s := by
  unfold execAtsInvalidationRequest at ht
  obtain rfl | ht := onRun_next ht
  · simp
  try dsimp only at ht
  subst ht
  simp

theorem execPageRequestGroupResponse_keeps (p : Port) (group : BitVec 9) (granted : Bool) (s : State) (s' : State) (ht : execPageRequestGroupResponse p group granted s = .next s') :
    kept butNetCipher s' = kept butNetCipher s := by
  unfold execPageRequestGroupResponse at ht
  obtain rfl | ht := onRun_next ht
  · simp
  try dsimp only at ht
  subst ht
  (repeat' split) <;> simp

/-! ## Trust -/

@[simp] theorem signedCheck_keeps (op : Nat) (fields : Option MReply) (slotAt : Nat) (fuse : Bool) (auth : Bool) (body : List Byte) (g : Signed) (s : State) {msk : Nat} (hm : butTrust &&& msk = butTrust) :
    kept msk ((signedCheck op fields slotAt fuse auth body g s).2) = kept msk s := by
  refine kept_mono hm ?_
  unfold signedCheck
  (repeat' split) <;> simp

@[simp] theorem signedRun_keeps (x : Option MReply × State) (f : State → MReply × State) {msk : Nat} (h0 : ∀ x0, kept msk (f x0).2 = kept msk x0) :
    kept msk ((signedRun x f).2) = kept msk x.2 := by
  unfold signedRun
  split <;> simp_all

theorem execFuseRead_keeps (h : MbxHdr) (s : State) (s' : State) (ht : execFuseRead h s = .next s') :
    kept 0 s' = kept 0 s := by
  unfold execFuseRead at ht
  obtain rfl | ht := onRun_next ht
  · simp
  try dsimp only at ht
  subst ht
  simp

theorem execFuseNonceGet_keeps (h : MbxHdr) (s : State) (s' : State) (ht : execFuseNonceGet h s = .next s') :
    kept butTrust s' = kept butTrust s := by
  unfold execFuseNonceGet at ht
  obtain rfl | ht := onRun_next ht
  · simp
  try dsimp only at ht
  subst ht
  simp

@[simp] theorem blowBit_keeps (i : Nat) (fuses : BitVec 3) (s : State) {msk : Nat} (hm : butFuses &&& msk = butFuses) :
    kept msk (blowBit i fuses s) = kept msk s := by
  refine kept_mono hm ?_
  simp [blowBit]

@[simp] theorem programSlot_keeps (n : Nat) (key : List Byte) (bad : Option (Fin 7)) (s : State) {msk : Nat} (hm : butFuses &&& msk = butFuses) :
    kept msk (programSlot n key bad s) = kept msk s := by
  refine kept_mono hm ?_
  unfold programSlot
  (repeat' split) <;> simp

@[simp] theorem deviceFault_keeps (d : Nat) (s : State) {msk : Nat} :
    kept msk ((deviceFault d s).2) = kept msk s := by
  simp [deviceFault]

@[simp] theorem fuseReply_keeps (ok : Bool) (body : List Byte) (s : State) {msk : Nat} :
    kept msk ((fuseReply ok body s).2) = kept msk s := by
  unfold fuseReply
  (repeat' split) <;> simp

theorem execFuseOwnerKeyProgram_keeps (h : MbxHdr) (slot : Byte) (key : List Byte) (g : Signed) (bad : Option (Fin 7)) (s : State) (s' : State) (ht : execFuseOwnerKeyProgram h slot key g bad s = .next s') :
    kept butFusesTrust s' = kept butFusesTrust s := by
  unfold execFuseOwnerKeyProgram at ht
  obtain rfl | ht := onRun_next ht
  · rfl
  try dsimp only at ht
  subst ht
  refine mbxStartWith_keeps _ _ _ _ _ (fun b0 y0 => ?_)
  refine (signedRun_keeps _ _ (fun z0 => ?_)).trans ?_ <;> (repeat' split) <;> simp

theorem execFuseOwnerKeyRevoke_keeps (h : MbxHdr) (slot : Byte) (g : Signed) (blown : BitVec 3) (s : State) (s' : State) (ht : execFuseOwnerKeyRevoke h slot g blown s = .next s') :
    kept butFusesTrust s' = kept butFusesTrust s := by
  unfold execFuseOwnerKeyRevoke at ht
  obtain rfl | ht := onRun_next ht
  · rfl
  try dsimp only at ht
  subst ht
  refine mbxStartWith_keeps _ _ _ _ _ (fun b0 y0 => ?_)
  refine (signedRun_keeps _ _ (fun z0 => ?_)).trans ?_ <;> (repeat' split) <;> simp

theorem execFuseRollbackAdvance_keeps (h : MbxHdr) (target : Byte) (blown : BitVec 3) (s : State) (s' : State) (ht : execFuseRollbackAdvance h target blown s = .next s') :
    kept butFuses s' = kept butFuses s := by
  unfold execFuseRollbackAdvance at ht
  obtain rfl | ht := onRun_next ht
  · simp
  try dsimp only at ht
  subst ht
  first | (simp; done) | (refine mbxStart_keeps _ _ _ _ _ (fun y0 => ?_) <;> (try dsimp only) <;> first | (simp; done) | ((repeat' split) <;> simp; done))

theorem execFuseDebugPermanent_keeps (h : MbxHdr) (g : Signed) (blown : BitVec 3) (s : State) (s' : State) (ht : execFuseDebugPermanent h g blown s = .next s') :
    kept butFusesTrust s' = kept butFusesTrust s := by
  unfold execFuseDebugPermanent at ht
  obtain rfl | ht := onRun_next ht
  · rfl
  try dsimp only at ht
  subst ht
  refine mbxStartWith_keeps _ _ _ _ _ (fun b0 y0 => ?_)
  refine (signedRun_keeps _ _ (fun z0 => ?_)).trans ?_ <;> (repeat' split) <;> simp

@[simp] theorem openDebug_keeps (s : State) {msk : Nat} (hm : butTrust &&& msk = butTrust) :
    kept msk (openDebug s) = kept msk s := by
  refine kept_mono hm ?_
  simp [openDebug]

theorem execDebugUnlock_keeps (h : MbxHdr) (g : Signed) (s : State) (s' : State) (ht : execDebugUnlock h g s = .next s') :
    kept butTrustCipher s' = kept butTrustCipher s := by
  unfold execDebugUnlock at ht
  obtain rfl | ht := onRun_next ht
  · rfl
  try dsimp only at ht
  subst ht
  refine mbxStartWith_keeps _ _ _ _ _ (fun b0 y0 => ?_)
  refine (signedRun_keeps _ _ (fun z0 => ?_)).trans ?_ <;> (repeat' split) <;> simp

@[simp] theorem attestTurn_keeps (s : State) {msk : Nat} (hm : butTrust &&& msk = butTrust) :
    kept msk ((attestTurn s).2) = kept msk s := by
  refine kept_mono hm ?_
  simp only [attestTurn]
  (repeat' split) <;> simp

@[simp] theorem attestReply_keeps (h : MbxHdr) (nonce : List Byte) (addr : W64) (ok : Bool) (a0 : Option Nat × State) {msk : Nat} :
    kept msk ((attestReply h nonce addr ok a0).2) = kept msk a0.2 := by
  unfold attestReply
  (repeat' split) <;> simp

@[simp] theorem attestBody_keeps (h : MbxHdr) (nonce : List Byte) (addr : W64) (len : W32) (ok : Bool) (s : State) {msk : Nat} (hm : butTrust &&& msk = butTrust) :
    kept msk ((attestBody h nonce addr len ok s).2) = kept msk s := by
  refine kept_mono hm ?_
  unfold attestBody
  (repeat' split) <;> simp

theorem execAttestReport_keeps (h : MbxHdr) (nonce : List Byte) (addr : W64) (len : W32) (ok : Bool) (s : State) (s' : State) (ht : execAttestReport h nonce addr len ok s = .next s') :
    kept butTrust s' = kept butTrust s := by
  unfold execAttestReport at ht
  obtain rfl | ht := onRun_next ht
  · simp
  try dsimp only at ht
  subst ht
  simp

@[simp] theorem recoverStage1_keeps (o : ImageObs) (s : State) {msk : Nat} (hm : butTrustChainFwOnchipBootCipher &&& msk = butTrustChainFwOnchipBootCipher) :
    kept msk (recoverStage1 o s) = kept msk s := by
  refine kept_mono hm ?_
  simp [recoverStage1]

@[simp] theorem recoverImage_keeps (t : ImageType) (o : ImageObs) (s : State) {msk : Nat} (hm : butTrustChainFwOnchipBootCipher &&& msk = butTrustChainFwOnchipBootCipher) :
    kept msk ((recoverImage t o s).2) = kept msk s := by
  refine kept_mono hm ?_
  unfold recoverImage
  (repeat' split) <;> simp

theorem execRecoveryLoad_keeps (h : MbxHdr) (imageType : W16) (len : W32) (addr : W64) (got : Option ImageObs) (s : State) (s' : State) (ht : execRecoveryLoad h imageType len addr got s = .next s') :
    kept butTrustChainFwOnchipBootCipher s' = kept butTrustChainFwOnchipBootCipher s := by
  unfold execRecoveryLoad at ht
  obtain rfl | ht := onRun_next ht
  · simp
  try dsimp only at ht
  subst ht
  first | (simp; done) | (refine mbxStart_keeps _ _ _ _ _ (fun y0 => ?_) <;> (try dsimp only) <;> first | (simp; done) | ((repeat' split) <;> simp; done))

/-! ## Firmware -/

@[simp] theorem State_modFw_keeps (s : State) (f : FwUpdate → FwUpdate) {msk : Nat} (hm : butFw &&& msk = butFw) :
    kept msk (State.modFw s f) = kept msk s := by
  refine kept_mono hm ?_
  simp [State.modFw]

@[simp] theorem norWork_keeps (b : Bool) (s : State) {msk : Nat} :
    kept msk (norWork b s) = kept msk s := by
  simp [norWork]

theorem execFwStage_keeps (h : MbxHdr) (addr : W64) (len : W32) (flags : W32) (got : Option (List Byte)) (s : State) (s' : State) (ht : execFwStage h addr len flags got s = .next s') :
    kept butFw s' = kept butFw s := by
  unfold execFwStage at ht
  obtain rfl | ht := onRun_next ht
  · simp
  try dsimp only at ht
  subst ht
  first | (simp; done) | (refine mbxStart_keeps _ _ _ _ _ (fun y0 => ?_) <;> (try dsimp only) <;> first | (simp; done) | ((repeat' split) <;> simp; done))

@[simp] theorem norFault_keeps (s : State) {msk : Nat} :
    kept msk ((norFault s).2) = kept msk s := by
  simp [norFault]

theorem execFwStagingDone_keeps (ok : Bool) (s : State) (s' : State) (ht : execFwStagingDone ok s = .next s') :
    kept butFw s' = kept butFw s := by
  unfold execFwStagingDone at ht
  obtain rfl | ht := onRun_next ht
  · simp
  try dsimp only at ht
  subst ht
  simp

@[simp] theorem freeHalf_keeps (h : Bool) (s : State) {msk : Nat} (hm : butCipher &&& msk = butCipher) :
    kept msk (freeHalf h s) = kept msk s := by
  refine kept_mono hm ?_
  simp [freeHalf]

theorem execFwActivateHitless_keeps (h : MbxHdr) (s : State) (s' : State) (ht : execFwActivateHitless h s = .next s') :
    kept butFwCipher s' = kept butFwCipher s := by
  unfold execFwActivateHitless at ht
  obtain rfl | ht := onRun_next ht
  · simp
  try dsimp only at ht
  subst ht
  first | (simp; done) | (refine mbxStart_keeps _ _ _ _ _ (fun y0 => ?_) <;> (try dsimp only) <;> first | (simp; done) | ((repeat' split) <;> simp; done))

@[simp] theorem renegotiate_keeps (p : Port) (s : State) {msk : Nat} :
    kept msk (renegotiate p s) = kept msk s := by
  unfold renegotiate
  (repeat' split) <;> simp

@[simp] theorem passControl_keeps (img : Option ImageInfo) (mbx : Nat × Nat) (s : State) {msk : Nat} (hm : butTrustFwBootCipher &&& msk = butTrustFwBootCipher) :
    kept msk (passControl img mbx s) = kept msk s := by
  refine kept_mono hm ?_
  simp [passControl]

theorem execFwHandoverFreeze_keeps (ok : Bool) (s : State) (s' : State) (ht : execFwHandoverFreeze ok s = .next s') :
    kept butTrustFwBootCipher s' = kept butTrustFwBootCipher s := by
  unfold execFwHandoverFreeze at ht
  obtain rfl | ht := onRun_next ht
  · simp
  try dsimp only at ht
  subst ht
  (repeat' split) <;> simp

theorem execFwActivateNextStart_keeps (h : MbxHdr) (mode : Byte) (s : State) (s' : State) (ht : execFwActivateNextStart h mode s = .next s') :
    kept butFw s' = kept butFw s := by
  unfold execFwActivateNextStart at ht
  obtain rfl | ht := onRun_next ht
  · simp
  try dsimp only at ht
  subst ht
  first | (simp; done) | (refine mbxStart_keeps _ _ _ _ _ (fun y0 => ?_) <;> (try dsimp only) <;> first | (simp; done) | ((repeat' split) <;> simp; done))

theorem execFwArmed_keeps (fail : Option (Fin 3)) (s : State) (s' : State) (ht : execFwArmed fail s = .next s') :
    kept butFw s' = kept butFw s := by
  unfold execFwArmed at ht
  obtain rfl | ht := onRun_next ht
  · simp
  try dsimp only at ht
  subst ht
  (repeat' split) <;> simp

@[simp] theorem fwFallback_keeps (s : State) {msk : Nat} (hm : butThese261614 &&& msk = butThese261614) :
    kept msk (fwFallback s) = kept msk s := by
  refine kept_mono hm ?_
  simp [fwFallback]

theorem execFwWindowExpiry_keeps (s : State) (s' : State) (ht : execFwWindowExpiry s = .next s') :
    kept butThese261614 s' = kept butThese261614 s := by
  unfold execFwWindowExpiry at ht
  obtain rfl | ht := onRun_next ht
  · simp
  try dsimp only at ht
  subst ht
  (repeat' split) <;> simp

theorem execFwHeartbeatGap_keeps (s : State) (s' : State) (ht : execFwHeartbeatGap s = .next s') :
    kept butThese261614 s' = kept butThese261614 s := by
  unfold execFwHeartbeatGap at ht
  obtain rfl | ht := onRun_next ht
  · simp
  try dsimp only at ht
  subst ht
  simp

theorem execFwConfirm_keeps (h : MbxHdr) (s : State) (s' : State) (ht : execFwConfirm h s = .next s') :
    kept butFw s' = kept butFw s := by
  unfold execFwConfirm at ht
  obtain rfl | ht := onRun_next ht
  · simp
  try dsimp only at ht
  subst ht
  refine mbxStart_keeps _ _ _ _ _ (fun x => ?_)
  refine tryDo_keeps _ _ _ (fun y => ?_)
  simp

@[simp] theorem finishCopy_keeps (s : State) {msk : Nat} (hm : butFw &&& msk = butFw) :
    kept msk (finishCopy s) = kept msk s := by
  refine kept_mono hm ?_
  simp [finishCopy]

theorem execFwRegionsSynced_keeps (s : State) (s' : State) (ht : execFwRegionsSynced s = .next s') :
    kept butFw s' = kept butFw s := by
  unfold execFwRegionsSynced at ht
  obtain rfl | ht := onRun_next ht
  · simp
  try dsimp only at ht
  subst ht
  simp

theorem execPrimaryRegionRestore_keeps (s : State) (s' : State) (ht : execPrimaryRegionRestore s = .next s') :
    kept butFw s' = kept butFw s := by
  unfold execPrimaryRegionRestore at ht
  obtain rfl | ht := onRun_next ht
  · simp
  try dsimp only at ht
  subst ht
  simp

theorem execFwStatusGet_keeps (h : MbxHdr) (s : State) (s' : State) (ht : execFwStatusGet h s = .next s') :
    kept 0 s' = kept 0 s := by
  unfold execFwStatusGet at ht
  obtain rfl | ht := onRun_next ht
  · simp
  try dsimp only at ht
  subst ht
  simp

@[simp] theorem abortTrial_keeps (h : MbxHdr) (s : State) {msk : Nat} (hm : butThese261614 &&& msk = butThese261614) :
    kept msk (abortTrial h s) = kept msk s := by
  refine kept_mono hm ?_
  unfold abortTrial
  (repeat' split) <;> simp

theorem execFwAbort_keeps (h : MbxHdr) (s : State) (s' : State) (ht : execFwAbort h s = .next s') :
    kept butThese261614 s' = kept butThese261614 s := by
  unfold execFwAbort at ht
  obtain rfl | ht := onRun_next ht
  · rfl
  try dsimp only at ht
  subst ht
  have aux (c : Prop) [Decidable c] (x : State) (hx : kept butThese261614 x = kept butThese261614 s) :
      kept butThese261614 (if c then abortTrial h x else x) = kept butThese261614 s := by
    split <;> simp [hx]
  refine aux _ _ (mbxStart_keeps _ _ _ _ _ fun x => ?_)
  refine tryDo_keeps _ _ _ (fun y => ?_)
  split <;> simp

/-! ## Repl -/

@[simp] theorem replSaved_keeps (nsid : Nat) (s : State) {msk : Nat} :
    kept msk (replSaved nsid s) = kept msk s := by
  simp [replSaved]

theorem execReplCreate_keeps (h : MbxHdr) (nsid : W32) (mode : Byte) (target : W16) (remote : W32) (interval : W32) (s : State) (s' : State) (ht : execReplCreate h nsid mode target remote interval s = .next s') :
    kept butNetReplsCluster s' = kept butNetReplsCluster s := by
  unfold execReplCreate at ht
  obtain rfl | ht := onRun_next ht
  · simp
  try dsimp only at ht
  subst ht
  first | (simp; done) | (refine mbxStart_keeps _ _ _ _ _ (fun y0 => ?_) <;> (try dsimp only) <;> first | (simp; done) | ((repeat' split) <;> simp; done))

@[simp] theorem controlBody_keeps (nsid : W32) (f : Nat → Repl → State → MReply × State) (s : State) {msk : Nat} (h0 : ∀ x0 x1 x2, kept msk (f x0 x1 x2).2 = kept msk x2) :
    kept msk ((controlBody nsid f s).2) = kept msk s := by
  unfold controlBody <;> (repeat' split) <;> simp [h0]

@[simp] theorem pauseRepl_keeps (rel : Nat) (x : Repl) (s : State) {msk : Nat} (hm : butNetNsReplsClusterCipher &&& msk = butNetNsReplsClusterCipher) :
    kept msk ((pauseRepl rel x s).2) = kept msk s := by
  refine kept_mono hm ?_
  unfold pauseRepl
  (repeat' split) <;> simp

@[simp] theorem resumeRepl_keeps (rel : Nat) (x : Repl) (s : State) {msk : Nat} (hm : butNetNsReplsClusterCipher &&& msk = butNetNsReplsClusterCipher) :
    kept msk ((resumeRepl rel x s).2) = kept msk s := by
  refine kept_mono hm ?_
  unfold resumeRepl
  (repeat' split) <;> simp

@[simp] theorem stopRepl_keeps (rel : Nat) (x : Repl) (s : State) {msk : Nat} (hm : butNetNsReplsClusterCipher &&& msk = butNetNsReplsClusterCipher) :
    kept msk ((stopRepl rel x s).2) = kept msk s := by
  refine kept_mono hm ?_
  simp [stopRepl]

theorem execReplControlPause_keeps (h : MbxHdr) (nsid : W32) (op : Byte) (s : State) (s' : State) (ht : execReplControlPause h nsid op s = .next s') :
    kept butNetNsReplsClusterCipher s' = kept butNetNsReplsClusterCipher s := by
  unfold execReplControlPause at ht
  obtain rfl | ht := onRun_next ht
  · rfl
  try dsimp only at ht
  subst ht
  refine mbxStart_keeps _ _ _ _ _ (fun y0 => ?_)
  (repeat' split) <;> simp

theorem execReplControlResume_keeps (h : MbxHdr) (nsid : W32) (s : State) (s' : State) (ht : execReplControlResume h nsid s = .next s') :
    kept butNetNsReplsClusterCipher s' = kept butNetNsReplsClusterCipher s := by
  unfold execReplControlResume at ht
  obtain rfl | ht := onRun_next ht
  · simp
  try dsimp only at ht
  subst ht
  refine mbxStart_keeps _ _ _ _ _ (fun x => ?_)
  refine controlBody_keeps _ _ _ (fun a b y => ?_)
  simp

theorem execReplControlStop_keeps (h : MbxHdr) (nsid : W32) (s : State) (s' : State) (ht : execReplControlStop h nsid s = .next s') :
    kept butNetNsReplsClusterCipher s' = kept butNetNsReplsClusterCipher s := by
  unfold execReplControlStop at ht
  obtain rfl | ht := onRun_next ht
  · simp
  try dsimp only at ht
  subst ht
  refine mbxStart_keeps _ _ _ _ _ (fun x => ?_)
  refine controlBody_keeps _ _ _ (fun a b y => ?_)
  simp

theorem execReplControlRepair_keeps (h : MbxHdr) (nsid : W32) (s : State) (s' : State) (ht : execReplControlRepair h nsid s = .next s') :
    kept butNetReplsCluster s' = kept butNetReplsCluster s := by
  unfold execReplControlRepair at ht
  obtain rfl | ht := onRun_next ht
  · simp
  try dsimp only at ht
  subst ht
  refine mbxStart_keeps _ _ _ _ _ (fun x => ?_)
  refine controlBody_keeps _ _ _ (fun a b y => ?_)
  simp

theorem execReplQuery_keeps (h : MbxHdr) (nsid : W32) (s : State) (s' : State) (ht : execReplQuery h nsid s = .next s') :
    kept 0 s' = kept 0 s := by
  unfold execReplQuery at ht
  obtain rfl | ht := onRun_next ht
  · simp
  try dsimp only at ht
  subst ht
  simp

theorem execReplCycleDue_keeps (rel : Nat) (s : State) (s' : State) (ht : execReplCycleDue rel s = .next s') :
    kept butNetNsReplsClusterCipher s' = kept butNetNsReplsClusterCipher s := by
  unfold execReplCycleDue at ht
  obtain rfl | ht := onRun_next ht
  · simp
  try dsimp only at ht
  subst ht
  (repeat' split) <;> simp

@[simp] theorem sendDeltas_keeps (rel : Nat) (node : Nat) (base : Nat) (epoch : Nat) (a0 : Nat) (a1 : List (Nat × WireEnt)) (a2 : State) {msk : Nat} (hm : butNetReplsCluster &&& msk = butNetReplsCluster) :
    kept msk (sendDeltas rel node base epoch a0 a1 a2) = kept msk a2 := by
  refine kept_mono hm ?_
  induction a0 generalizing rel node base epoch a1 a2 with
  | zero => simp [sendDeltas]
  | succ x ih => simp [sendDeltas, ih]

theorem execSnapshotSealed_keeps (epoch : Nat) (s : State) (s' : State) (ht : execSnapshotSealed epoch s = .next s') :
    kept butNetReplsCluster s' = kept butNetReplsCluster s := by
  unfold execSnapshotSealed at ht
  obtain rfl | ht := onRun_next ht
  · simp
  try dsimp only at ht
  subst ht
  (repeat' split) <;> simp

@[simp] theorem wireUnit_keeps (x : Repl) (key : Nat) (s : State) {msk : Nat} (hm : butCipher &&& msk = butCipher) :
    kept msk ((wireUnit x key s).2) = kept msk s := by
  refine kept_mono hm ?_
  unfold wireUnit
  try dsimp only
  (repeat' split) <;> first | (simp; done) | (rcases Prod.ext_iff.mp ‹_ = (_, _)› with ⟨rfl, -⟩; simp; done) | (rcases Prod.ext_iff.mp ‹_ = (_, _)› with ⟨-, rfl⟩; simp; done) | (simp_all; done)

@[simp] theorem wireUnits_keeps (x : Repl) (a0 : List Nat) (a1 : State) {msk : Nat} (hm : butCipher &&& msk = butCipher) :
    kept msk ((wireUnits x a0 a1).2) = kept msk a1 := by
  refine kept_mono hm ?_
  induction a0 generalizing x a1 with
  | nil => simp [wireUnits]
  | cons x l ih => simp [wireUnits, ih]

@[simp] theorem onSource_keeps (h : CluHdr) (m : CluMsg) (rel : Nat) (f : Repl → State → State) (s : State) {msk : Nat} (hm : butCluster &&& msk = butCluster) (h0 : ∀ x0 x1, kept msk (f x0 x1) = kept msk x1) :
    kept msk (onSource h m rel f s) = kept msk s := by
  unfold onSource
  refine onMember_keeps _ _ _ _ hm fun y => ?_
  (repeat' split) <;> simp [h0]

@[simp] theorem onTarget_keeps (h : CluHdr) (m : CluMsg) (rel : Nat) (f : Nat → Repl → State → State) (s : State) {msk : Nat} (hm : butCluster &&& msk = butCluster) (h0 : ∀ x0 x1 x2, kept msk (f x0 x1 x2) = kept msk x2) :
    kept msk (onTarget h m rel f s) = kept msk s := by
  unfold onTarget
  refine onMember_keeps _ _ _ _ hm fun y => ?_
  (repeat' split) <;> simp [h0]

@[simp] theorem flushUnits_keeps (rel : Nat) (x : Repl) (epoch : Nat) (us : List WireUnit) (last : Bool) (s : State) {msk : Nat} (hm : butNetReplsCluster &&& msk = butNetReplsCluster) :
    kept msk (flushUnits rel x epoch us last s) = kept msk s := by
  refine kept_mono hm ?_
  simp [flushUnits]

@[simp] theorem sendBlock_keeps (rel : Nat) (x : Repl) (epoch : Nat) (ks : List Nat) (s : State) {msk : Nat} (hm : butNetReplsClusterCipher &&& msk = butNetReplsClusterCipher) :
    kept msk (sendBlock rel x epoch ks s) = kept msk s := by
  refine kept_mono hm ?_
  simp [sendBlock]

@[simp] theorem sendUnits_keeps (idle : Bool) (rel : Nat) (a0 : Nat) (a1 : State) {msk : Nat} (hm : butNetReplsClusterCipherGov &&& msk = butNetReplsClusterCipherGov) :
    kept msk (sendUnits idle rel a0 a1) = kept msk a1 := by
  refine kept_mono hm ?_
  induction a0 generalizing a1 with
  | zero => simp [sendUnits]
  | succ m ih =>
    unfold sendUnits
    (repeat' split) <;> simp [ih]

@[simp] theorem commitCycle_keeps (rel : Nat) (s : State) {msk : Nat} (hm : butNetCluster &&& msk = butNetCluster) :
    kept msk (commitCycle rel s) = kept msk s := by
  refine kept_mono hm ?_
  unfold commitCycle
  (repeat' split) <;> simp

@[simp] theorem pushUnits_keeps (idle : Bool) (s : State) (e : Nat × Repl) {msk : Nat} (hm : butNetReplsClusterCipherGov &&& msk = butNetReplsClusterCipherGov) :
    kept msk (pushUnits idle s e) = kept msk s := by
  refine kept_mono hm ?_
  simp [pushUnits]

theorem execReplDeltaAck_keeps (h : CluHdr) (rel : Nat) (missing : List Nat) (changed : List (Nat × Nat)) (idle : Bool) (s : State) (s' : State) (ht : execReplDeltaAck h rel missing changed idle s = .next s') :
    kept butNetReplsClusterCipherGov s' = kept butNetReplsClusterCipherGov s := by
  unfold execReplDeltaAck at ht
  obtain rfl | ht := onRun_next ht
  · rfl
  try dsimp only at ht
  subst ht
  refine onSource_keeps _ _ _ _ _ (by simp) (fun y0 y1 => ?_)
  (repeat' split) <;> simp

theorem execReplCommitAck_keeps (h : CluHdr) (rel : Nat) (epoch : Nat) (s : State) (s' : State) (ht : execReplCommitAck h rel epoch s = .next s') :
    kept butNetNsReplsClusterCipher s' = kept butNetNsReplsClusterCipher s := by
  unfold execReplCommitAck at ht
  obtain rfl | ht := onRun_next ht
  · simp
  try dsimp only at ht
  subst ht
  simp

theorem execReplOpen_keeps (h : CluHdr) (rel : Nat) (src : Nat) (remote : Nat) (sync : Bool) (unitLog : Nat) (size : Nat) (kcv : List Byte) (s : State) (s' : State) (ht : execReplOpen h rel src remote sync unitLog size kcv s = .next s') :
    kept butNetReplsCluster s' = kept butNetReplsCluster s := by
  unfold execReplOpen at ht
  obtain rfl | ht := onRun_next ht
  · simp
  try dsimp only at ht
  subst ht
  simp

theorem execReplOpenAck_keeps (h : CluHdr) (rel : Nat) (status : W16) (s : State) (s' : State) (ht : execReplOpenAck h rel status s = .next s') :
    kept butNetNsReplsClusterCipher s' = kept butNetNsReplsClusterCipher s := by
  unfold execReplOpenAck at ht
  obtain rfl | ht := onRun_next ht
  · simp
  try dsimp only at ht
  subst ht
  simp

@[simp] theorem targetExhausted_keeps (key : Nat) (rel : Nat) (x : Repl) (s : State) {msk : Nat} (hm : butNetReplsCluster &&& msk = butNetReplsCluster) :
    kept msk (targetExhausted key rel x s) = kept msk s := by
  refine kept_mono hm ?_
  simp [targetExhausted]

theorem execReplDelta_keeps (h : CluHdr) (rel : Nat) (base : Nat) (epoch : Nat) (entries : List (Nat × WireEnt)) (s : State) (s' : State) (ht : execReplDelta h rel base epoch entries s = .next s') :
    kept butNetReplsCluster s' = kept butNetReplsCluster s := by
  unfold execReplDelta at ht
  obtain rfl | ht := onRun_next ht
  · simp
  try dsimp only at ht
  subst ht
  simp

@[simp] theorem placeReceived_keeps (v : Ns) (gen : Nat) (tgen : Nat) (share : Nat) (a0 : List (Nat × WireUnit)) (a1 : Nat) (a2 : State) {msk : Nat} (hm : butCipher &&& msk = butCipher) :
    kept msk (placeReceived v gen tgen share a0 a1 a2) = kept msk a2 := by
  refine kept_mono hm ?_
  induction a0 generalizing v gen share a1 a2 with
  | nil => simp [placeReceived]
  | cons x l ih => simp [placeReceived, ih]

@[simp] theorem takeUnits_keeps (key : Nat) (x : Repl) (v : Ns) (a0 : List WireUnit) (a1 : State) {msk : Nat} (hm : butRepls &&& msk = butRepls) :
    kept msk ((takeUnits key x v a0 a1).2) = kept msk a1 := by
  refine kept_mono hm ?_
  induction a0 generalizing a1 with
  | nil => simp [takeUnits]
  | cons w l ih =>
    simp only [takeUnits]
    (repeat' split) <;> first | (simp [ih]; done) | simp [ih, newUnit_keeps ‹_›]

@[simp] theorem storeGroups_keeps (v : Ns) (gen : Nat) (tgen : Nat) (a0 : Nat) (a1 : List (Nat × WireUnit)) (a2 : State) {msk : Nat} (hm : butCipher &&& msk = butCipher) :
    kept msk (storeGroups v gen tgen a0 a1 a2) = kept msk a2 := by
  refine kept_mono hm ?_
  induction a0 generalizing v gen a1 a2 with
  | zero => simp [storeGroups]
  | succ x ih => simp [storeGroups, ih]

theorem execReplUnits_keeps (h : CluHdr) (rel : Nat) (base : Nat) (epoch : Nat) (units : List WireUnit) (s : State) (s' : State) (ht : execReplUnits h rel base epoch units s = .next s') :
    kept butNetReplsClusterCipher s' = kept butNetReplsClusterCipher s := by
  unfold execReplUnits at ht
  obtain rfl | ht := onRun_next ht
  · rfl
  try dsimp only at ht
  subst ht
  refine onTarget_keeps _ _ _ _ _ (by simp) (fun y0 y1 y2 => ?_)
  (repeat' split) <;> simp

theorem execReplCommit_keeps (h : CluHdr) (rel : Nat) (epoch : Nat) (s : State) (s' : State) (ht : execReplCommit h rel epoch s = .next s') :
    kept butNetNsReplsClusterCipher s' = kept butNetNsReplsClusterCipher s := by
  unfold execReplCommit at ht
  obtain rfl | ht := onRun_next ht
  · simp
  try dsimp only at ht
  subst ht
  simp

theorem execReplWrite_keeps (h : CluHdr) (rel : Nat) (off : Nat) (seq : Nat) (len : Nat) (data : List Nat) (s : State) (s' : State) (ht : execReplWrite h rel off seq len data s = .next s') :
    kept butNetReplsClusterCipher s' = kept butNetReplsClusterCipher s := by
  unfold execReplWrite at ht
  obtain rfl | ht := onRun_next ht
  · rfl
  try dsimp only at ht
  subst ht
  refine onTarget_keeps _ _ _ _ _ (by simp) (fun y0 y1 y2 => ?_)
  (repeat' split) <;> simp

theorem execReplWriteAck_keeps (h : CluHdr) (rel : Nat) (seq : Nat) (s : State) (s' : State) (ht : execReplWriteAck h rel seq s = .next s') :
    kept butNetReplsClusterCipher s' = kept butNetReplsClusterCipher s := by
  unfold execReplWriteAck at ht
  obtain rfl | ht := onRun_next ht
  · simp
  try dsimp only at ht
  subst ht
  simp

@[simp] theorem rawUnit_keeps (x : Repl) (v : Ns) (i : Nat) (s : State) {msk : Nat} (hm : butCipher &&& msk = butCipher) :
    kept msk ((rawUnit x v i s).2) = kept msk s := by
  refine kept_mono hm ?_
  simp [rawUnit]

@[simp] theorem repairAnswer_keeps (x : Repl) (v : Ns) (a0 : List Nat) (a1 : State) {msk : Nat} (hm : butCipher &&& msk = butCipher) :
    kept msk ((repairAnswer x v a0 a1).2) = kept msk a1 := by
  refine kept_mono hm ?_
  induction a0 generalizing a1 with
  | nil => simp [repairAnswer]
  | cons x l ih =>
    unfold repairAnswer
    (repeat' split) <;> simp [ih]

theorem execRepairRequest_keeps (h : CluHdr) (rel : Nat) (ranges : List (Nat × Nat)) (s : State) (s' : State) (ht : execRepairRequest h rel ranges s = .next s') :
    kept butNetClusterCipher s' = kept butNetClusterCipher s := by
  unfold execRepairRequest at ht
  obtain rfl | ht := onRun_next ht
  · rfl
  try dsimp only at ht
  subst ht
  refine onMember_keeps _ _ _ _ (by simp) (fun y0 => ?_)
  (repeat' split) <;> simp

@[simp] theorem rewriteRun_keeps (rel : Nat) (nsid : Nat) (v : Ns) (run : Nat × List Nat) (s : State) {msk : Nat} (hm : butNetReplsClusterCipher &&& msk = butNetReplsClusterCipher) :
    kept msk (rewriteRun rel nsid v run s) = kept msk s := by
  refine kept_mono hm ?_
  simp [rewriteRun]

@[simp] theorem repairView_keeps (pool : Nat) (l : List Effect) (s : State) {msk : Nat} :
    kept msk (repairView pool l s) = kept msk s := by
  simp [repairView]

@[simp] theorem unrepaired_keeps (nsid : Nat) (slice : Nat) (left : List (Nat × Nat)) (s : State) {msk : Nat} :
    kept msk (unrepaired nsid slice left s) = kept msk s := by
  simp [unrepaired]

theorem execRepairData_keeps (h : CluHdr) (rel : Nat) (entries : List (Nat × WireEnt)) (units : List WireUnit) (s : State) (s' : State) (ht : execRepairData h rel entries units s = .next s') :
    kept butNetReplsClusterCipher s' = kept butNetReplsClusterCipher s := by
  unfold execRepairData at ht
  obtain rfl | ht := onRun_next ht
  · rfl
  try dsimp only at ht
  subst ht
  refine onMember_keeps _ _ _ _ (by simp) (fun y0 => ?_)
  (repeat' split) <;> simp

/-! ## Govern -/

theorem execGovPeriodBoundary_keeps (s : State) (s' : State) (ht : execGovPeriodBoundary s = .next s') :
    kept butNetReplsClusterCipherGov s' = kept butNetReplsClusterCipherGov s := by
  unfold execGovPeriodBoundary at ht
  obtain rfl | ht := onRun_next ht
  · simp
  try dsimp only at ht
  subst ht
  simp

theorem execGovSharesSet_keeps (h : MbxHdr) (activity : Byte) (share : W16) (ceiling : W16) (s : State) (s' : State) (ht : execGovSharesSet h activity share ceiling s = .next s') :
    kept butGov s' = kept butGov s := by
  unfold execGovSharesSet at ht
  obtain rfl | ht := onRun_next ht
  · rfl
  try dsimp only at ht
  subst ht
  refine mbxStart_keeps _ _ _ _ _ (fun y0 => ?_)
  (repeat' split) <;> simp

theorem execStatsGet_keeps (h : MbxHdr) (g : W16) (addr : W64) (len : W32) (ok : Bool) (s : State) (s' : State) (ht : execStatsGet h g addr len ok s = .next s') :
    kept 0 s' = kept 0 s := by
  unfold execStatsGet at ht
  obtain rfl | ht := onRun_next ht
  · simp
  try dsimp only at ht
  subst ht
  first | (simp; done) | (refine mbxStart_keeps _ _ _ _ _ (fun y0 => ?_) <;> (try dsimp only) <;> first | (simp; done) | ((repeat' split) <;> simp; done))

@[simp] theorem tracePut_keeps (path : Nat) (s : State) (e0 : TraceEnt) {msk : Nat} (hm : butTraces &&& msk = butTraces) :
    kept msk (tracePut path s e0) = kept msk s := by
  refine kept_mono hm ?_
  simp [tracePut]

@[simp] theorem traceExport_keeps (h : MbxHdr) (path : Nat) (addr : W64) (len : Nat) (s : State) {msk : Nat} (hm : butGovTraces &&& msk = butGovTraces) :
    kept msk ((traceExport h path addr len s).2) = kept msk s := by
  refine kept_mono hm ?_
  simp [traceExport]

theorem execStatsGetTrace_keeps (h : MbxHdr) (path : Fin 8) (addr : W64) (len : W32) (wrote : List TraceEnt) (ok : Bool) (s : State) (s' : State) (ht : execStatsGetTrace h path addr len wrote ok s = .next s') :
    kept butGovTraces s' = kept butGovTraces s := by
  unfold execStatsGetTrace at ht
  obtain rfl | ht := onRun_next ht
  · simp
  try dsimp only at ht
  subst ht
  (repeat' split) <;> first | (simp; done) | (first | (simp; done) | (refine mbxStart_keeps _ _ _ _ _ (fun y0 => ?_) <;> (try dsimp only) <;> (repeat' split) <;> simp; done))

/-! ## Errors -/

@[simp] theorem repairRow_keeps (e : ErrObs) (s : State) {msk : Nat} :
    kept msk (repairRow e s) = kept msk s := by
  unfold repairRow
  (repeat' split) <;> simp

@[simp] theorem retirePage_keeps (e : ErrObs) (s : State) {msk : Nat} :
    kept msk (retirePage e s) = kept msk s := by
  simp [retirePage]

@[simp] theorem removeLane_keeps (lane : Nat) (s : State) {msk : Nat} :
    kept msk (removeLane lane s) = kept msk s := by
  simp [removeLane]

@[simp] theorem unitRule_keeps (e : ErrObs) (s : State) {msk : Nat} (hm : butChansOnchipNetCipher &&& msk = butChansOnchipNetCipher) :
    kept msk (unitRule e s) = kept msk s := by
  refine kept_mono hm ?_
  simp [unitRule]

@[simp] theorem strand_keeps (e : ErrObs) (s : State) {msk : Nat} (hm : butNetCipher &&& msk = butNetCipher) :
    kept msk (strand e s) = kept msk s := by
  refine kept_mono hm ?_
  unfold strand
  (repeat' split) <;> simp

@[simp] theorem lastingOutcome_keeps (e : ErrObs) (s : State) {msk : Nat} (hm : butThese162976 &&& msk = butThese162976) :
    kept msk (lastingOutcome e s) = kept msk s := by
  refine kept_mono hm ?_
  simp [lastingOutcome]

@[simp] theorem openHandler_keeps (e : ErrObs) (s : State) {msk : Nat} :
    kept msk (openHandler e s) = kept msk s := by
  simp [openHandler]

@[simp] theorem closeHandler_keeps (d : Nat) (s : State) {msk : Nat} :
    kept msk (closeHandler d s) = kept msk s := by
  simp [closeHandler]

@[simp] theorem restartRun_keeps (e : ErrObs) (s : State) {msk : Nat} (hm : butChans &&& msk = butChans) :
    kept msk (restartRun e s) = kept msk s := by
  refine kept_mono hm ?_
  simp [restartRun]

@[simp] theorem secondError_keeps (e0 : ErrObs) (e : ErrObs) (s : State) {msk : Nat} (hm : butThese162976 &&& msk = butThese162976) :
    kept msk (secondError e0 e s) = kept msk s := by
  refine kept_mono hm ?_
  simp [secondError]

@[simp] theorem unsealed_keeps (s : State) {msk : Nat} :
    kept msk (unsealed s) = kept msk s := by
  simp [unsealed]

theorem execErrorDetected_keeps (e : ErrObs) (fatal : Option (Fin 3)) (s : State) (s' : State) (ht : execErrorDetected e fatal s = .next s') :
    kept butThese162976 s' = kept butThese162976 s := by
  unfold execErrorDetected at ht
  obtain rfl | ht := onLive_next ht
  · simp
  try dsimp only at ht
  subst ht
  (repeat' split) <;> simp

@[simp] theorem repeatPassed_keeps (e : ErrObs) (s : State) {msk : Nat} :
    kept msk (repeatPassed e s) = kept msk s := by
  simp [repeatPassed]

@[simp] theorem repeatFailed_keeps (e : ErrObs) (s : State) {msk : Nat} (hm : butThese162976 &&& msk = butThese162976) :
    kept msk (repeatFailed e s) = kept msk s := by
  refine kept_mono hm ?_
  simp [repeatFailed]

theorem execErrorRepeatResult_keeps (d : Fin 64) (pass : Bool) (s : State) (s' : State) (ht : execErrorRepeatResult d pass s = .next s') :
    kept butThese162976 s' = kept butThese162976 s := by
  unfold execErrorRepeatResult at ht
  obtain rfl | ht := onLive_next ht
  · simp
  try dsimp only at ht
  subst ht
  (repeat' split) <;> simp

theorem execHandlerTimeout_keeps (d : Fin 64) (s : State) (s' : State) (ht : execHandlerTimeout d s = .next s') :
    kept butThese162976 s' = kept butThese162976 s := by
  unfold execHandlerTimeout at ht
  obtain rfl | ht := onLive_next ht
  · simp
  try dsimp only at ht
  subst ht
  (repeat' split) <;> simp

theorem execFencedUnitRetry_keeps (d : Fin 64) (s : State) (s' : State) (ht : execFencedUnitRetry d s = .next s') :
    kept 0 s' = kept 0 s := by
  unfold execFencedUnitRetry at ht
  obtain rfl | ht := onRun_next ht
  · simp
  try dsimp only at ht
  subst ht
  simp

theorem execUnitSelfTestDone_keeps (d : Fin 64) (pass : Bool) (s : State) (s' : State) (ht : execUnitSelfTestDone d pass s = .next s') :
    kept butThese163232 s' = kept butThese163232 s := by
  unfold execUnitSelfTestDone at ht
  obtain rfl | ht := onRun_next ht
  · simp
  try dsimp only at ht
  subst ht
  simp

@[simp] theorem redoBatch_keeps (id : Nat) (b : Batch) (s : State) {msk : Nat} :
    kept msk (redoBatch id b s) = kept msk s := by
  unfold redoBatch
  (repeat' split) <;> simp

@[simp] theorem laneError_keeps (id : Nat) (b : Batch) (s : State) {msk : Nat} (hm : butThese162976 &&& msk = butThese162976) :
    kept msk (laneError id b s) = kept msk s := by
  refine kept_mono hm ?_
  unfold laneError
  try dsimp only
  (repeat' split) <;> first | (simp; done) | (rcases Prod.ext_iff.mp ‹_ = (_, _)› with ⟨rfl, -⟩; simp; done) | (rcases Prod.ext_iff.mp ‹_ = (_, _)› with ⟨-, rfl⟩; simp; done) | (simp_all; done)

@[simp] theorem batchRedone_keeps (id : Nat) (s : State) {msk : Nat} :
    kept msk (batchRedone id s) = kept msk s := by
  unfold batchRedone
  try dsimp only
  (repeat' split) <;> (try (simp; done)) <;> (refine (kept_foldl _ _ (fun x a => ?_) _ _).trans ?_) <;> (repeat' split) <;> simp

theorem execBatchDone_keeps (id : Nat) (res : Option (List (List Byte))) (s : State) (s' : State) (ht : execBatchDone id res s = .next s') :
    kept butThese162976 s' = kept butThese162976 s := by
  unfold execBatchDone at ht
  obtain rfl | ht := onRun_next ht
  · simp
  try dsimp only at ht
  subst ht
  (repeat' split) <;> simp

@[simp] theorem timeoutRecord_keeps (p : Port) (addr : W64) (tag : W32) (s : State) {msk : Nat} :
    kept msk (timeoutRecord p addr tag s) = kept msk s := by
  simp [timeoutRecord]

theorem execPcieCompletionTimeout_keeps (r : HostRead) (s : State) (s' : State) (ht : execPcieCompletionTimeout r s = .next s') :
    kept butNetCipher s' = kept butNetCipher s := by
  unfold execPcieCompletionTimeout at ht
  obtain rfl | ht := onRun_next ht
  · simp
  try dsimp only at ht
  subst ht
  (repeat' split) <;> simp

/-! ## JtagPort -/

@[simp] theorem jtagRun_keeps (i : JtagInstr) (s : State) {msk : Nat} (hm : butJtag &&& msk = butJtag) :
    kept msk (jtagRun i s) = kept msk s := by
  refine kept_mono hm ?_
  simp [jtagRun]

@[simp] theorem jtagPins_keeps (i : JtagInstr) (s : State) {msk : Nat} (hm : butJtag &&& msk = butJtag) :
    kept msk (jtagPins i s) = kept msk s := by
  refine kept_mono hm ?_
  simp [jtagPins]

theorem execJtagBypass_keeps (s : State) (s' : State) (ht : execJtagBypass s = .next s') :
    kept butJtag s' = kept butJtag s := by
  unfold execJtagBypass at ht
  obtain rfl | ht := onAon_next ht
  · simp
  try dsimp only at ht
  subst ht
  simp

theorem execJtagSamplePreload_keeps (cells : List Bool) (s : State) (s' : State) (ht : execJtagSamplePreload cells s = .next s') :
    kept butJtag s' = kept butJtag s := by
  unfold execJtagSamplePreload at ht
  obtain rfl | ht := onAon_next ht
  · simp
  try dsimp only at ht
  subst ht
  simp

theorem execJtagExtest_keeps (s : State) (s' : State) (ht : execJtagExtest s = .next s') :
    kept butJtag s' = kept butJtag s := by
  unfold execJtagExtest at ht
  obtain rfl | ht := onAon_next ht
  · simp
  try dsimp only at ht
  subst ht
  simp

theorem execJtagIdcode_keeps (s : State) (s' : State) (ht : execJtagIdcode s = .next s') :
    kept butJtag s' = kept butJtag s := by
  unfold execJtagIdcode at ht
  obtain rfl | ht := onAon_next ht
  · simp
  try dsimp only at ht
  subst ht
  simp

theorem execJtagClamp_keeps (s : State) (s' : State) (ht : execJtagClamp s = .next s') :
    kept butJtag s' = kept butJtag s := by
  unfold execJtagClamp at ht
  obtain rfl | ht := onAon_next ht
  · simp
  try dsimp only at ht
  subst ht
  simp

theorem execJtagHighz_keeps (s : State) (s' : State) (ht : execJtagHighz s = .next s') :
    kept butJtag s' = kept butJtag s := by
  unfold execJtagHighz at ht
  obtain rfl | ht := onAon_next ht
  · simp
  try dsimp only at ht
  subst ht
  simp

theorem execJtagExtestPulse_keeps (s : State) (s' : State) (ht : execJtagExtestPulse s = .next s') :
    kept butJtag s' = kept butJtag s := by
  unfold execJtagExtestPulse at ht
  obtain rfl | ht := onAon_next ht
  · simp
  try dsimp only at ht
  subst ht
  simp

theorem execJtagExtestTrain_keeps (s : State) (s' : State) (ht : execJtagExtestTrain s = .next s') :
    kept butJtag s' = kept butJtag s := by
  unfold execJtagExtestTrain at ht
  obtain rfl | ht := onAon_next ht
  · simp
  try dsimp only at ht
  subst ht
  simp

/-! ## Session -/

@[simp] theorem helloRun_keeps (h : MbxHdr) (minV : Nat) (maxV : Nat) (s : State) {msk : Nat} :
    kept msk ((helloRun h minV maxV s).2) = kept msk s := by
  unfold helloRun
  (repeat' split) <;> simp

theorem execMailboxHello_keeps (h : MbxHdr) (minV : Byte) (maxV : Byte) (hostId : W64) (s : State) (s' : State) (ht : execMailboxHello h minV maxV hostId s = .next s') :
    kept 0 s' = kept 0 s := by
  unfold execMailboxHello at ht
  obtain rfl | ht := onRun_next ht
  · rfl
  try dsimp only at ht
  subst ht
  (repeat' split) <;> simp

theorem execChipInfoGet_keeps (h : MbxHdr) (s : State) (s' : State) (ht : execChipInfoGet h s = .next s') :
    kept 0 s' = kept 0 s := by
  unfold execChipInfoGet at ht
  obtain rfl | ht := onRun_next ht
  · simp
  try dsimp only at ht
  subst ht
  simp

theorem execBootStatusGet_keeps (h : MbxHdr) (s : State) (s' : State) (ht : execBootStatusGet h s = .next s') :
    kept 0 s' = kept 0 s := by
  unfold execBootStatusGet at ht
  obtain rfl | ht := onRun_next ht
  · simp
  try dsimp only at ht
  subst ht
  simp

@[simp] theorem setEnclosure_keeps (e : BitVec 5) (s : State) {msk : Nat} (hm : butChain &&& msk = butChain) :
    kept msk (setEnclosure e s) = kept msk s := by
  refine kept_mono hm ?_
  simp [setEnclosure]

theorem execNodeEnclosureSet_keeps (h : MbxHdr) (enclosure : Byte) (s : State) (s' : State) (ht : execNodeEnclosureSet h enclosure s = .next s') :
    kept butChain s' = kept butChain s := by
  unfold execNodeEnclosureSet at ht
  obtain rfl | ht := onRun_next ht
  · simp
  try dsimp only at ht
  subst ht
  refine mbxStart_keeps _ _ _ _ _ (fun x => ?_)
  refine tryDo_keeps _ _ _ (fun y => ?_)
  simp

theorem execHostPortConfig_keeps (h : MbxHdr) (port : Byte) (mode : Byte) (s : State) (s' : State) (ht : execHostPortConfig h port mode s = .next s') :
    kept 0 s' = kept 0 s := by
  unfold execHostPortConfig at ht
  obtain rfl | ht := onRun_next ht
  · simp
  try dsimp only at ht
  subst ht
  refine mbxStart_keeps _ _ _ _ _ (fun x => ?_)
  refine tryDo_keeps _ _ _ (fun y => ?_)
  simp

theorem execAlarmList_keeps (h : MbxHdr) (first : Byte) (count : Byte) (s : State) (s' : State) (ht : execAlarmList h first count s = .next s') :
    kept 0 s' = kept 0 s := by
  unfold execAlarmList at ht
  obtain rfl | ht := onRun_next ht
  · simp
  try dsimp only at ht
  subst ht
  simp

@[simp] theorem ackSlot_keeps (k : Nat) (s : State) {msk : Nat} :
    kept msk (ackSlot k s) = kept msk s := by
  unfold ackSlot
  (repeat' split) <;> simp

theorem execAlarmAck_keeps (h : MbxHdr) (kind : Byte) (seen : W32) (s : State) (s' : State) (ht : execAlarmAck h kind seen s = .next s') :
    kept 0 s' = kept 0 s := by
  unfold execAlarmAck at ht
  obtain rfl | ht := onRun_next ht
  · simp
  try dsimp only at ht
  subst ht
  simp

@[simp] theorem releaseErrors_keeps (first : W32) (p : Port) (s : State) {msk : Nat} :
    kept msk (releaseErrors first p s) = kept msk s := by
  simp [releaseErrors]

theorem execErrorQueueRead_keeps (h : MbxHdr) (first : W32) (max_ : W16) (s : State) (s' : State) (ht : execErrorQueueRead h first max_ s = .next s') :
    kept 0 s' = kept 0 s := by
  unfold execErrorQueueRead at ht
  obtain rfl | ht := onRun_next ht
  · simp
  try dsimp only at ht
  subst ht
  first | (simp; done) | (refine mbxStart_keeps _ _ _ _ _ (fun y0 => ?_) <;> (try dsimp only) <;> first | (simp; done) | ((repeat' split) <;> simp; done))

/-! ## Sideband -/

theorem onSide_next {s t : State} {f : State → State} (h : onSide s f = .next t) : t = s ∨ t = f s := onSp_next h

@[simp] theorem sideSend_keeps (m : SideMsg) (bytes : List Byte) (s : State) {msk : Nat} :
    kept msk (sideSend m bytes s) = kept msk s := by
  simp [sideSend]

@[simp] theorem smbusBlock_keeps (m : SideMsg) (bytes : List Byte) (s : State) {msk : Nat} :
    kept msk (smbusBlock m bytes s) = kept msk s := by
  simp [smbusBlock]

@[simp] theorem sideRefuse_keeps (m : SideMsg) (s : State) {msk : Nat} :
    kept msk (sideRefuse m s) = kept msk s := by
  unfold sideRefuse
  (repeat' split) <;> simp

theorem execMctpSetEndpointId_keeps (m : SideMsg) (op : BitVec 2) (eid : Byte) (s : State) (s' : State) (ht : execMctpSetEndpointId m op eid s = .next s') :
    kept butSide s' = kept butSide s := by
  unfold execMctpSetEndpointId at ht
  obtain rfl | ht := onSide_next ht
  · simp
  try dsimp only at ht
  subst ht
  simp

theorem execMctpGetEndpointId_keeps (m : SideMsg) (s : State) (s' : State) (ht : execMctpGetEndpointId m s = .next s') :
    kept 0 s' = kept 0 s := by
  unfold execMctpGetEndpointId at ht
  obtain rfl | ht := onSide_next ht
  · simp
  try dsimp only at ht
  subst ht
  simp

theorem execMctpGetVersionSupport_keeps (m : SideMsg) (type : Byte) (s : State) (s' : State) (ht : execMctpGetVersionSupport m type s = .next s') :
    kept 0 s' = kept 0 s := by
  unfold execMctpGetVersionSupport at ht
  obtain rfl | ht := onSide_next ht
  · simp
  try dsimp only at ht
  subst ht
  simp

theorem execMctpGetMessageTypeSupport_keeps (m : SideMsg) (s : State) (s' : State) (ht : execMctpGetMessageTypeSupport m s = .next s') :
    kept 0 s' = kept 0 s := by
  unfold execMctpGetMessageTypeSupport at ht
  obtain rfl | ht := onSide_next ht
  · simp
  try dsimp only at ht
  subst ht
  simp

theorem execSmbusArp_keeps (m : SideMsg) (c : ArpCmd) (s : State) (s' : State) (ht : execSmbusArp m c s = .next s') :
    kept butSide s' = kept butSide s := by
  unfold execSmbusArp at ht
  obtain rfl | ht := onSide_next ht
  · simp
  try dsimp only at ht
  subst ht
  (repeat' split) <;> simp

theorem execPldmGetTid_keeps (m : SideMsg) (s : State) (s' : State) (ht : execPldmGetTid m s = .next s') :
    kept 0 s' = kept 0 s := by
  unfold execPldmGetTid at ht
  obtain rfl | ht := onSide_next ht
  · simp
  try dsimp only at ht
  subst ht
  simp

theorem execPldmGetPldmVersion_keeps (m : SideMsg) (type : Byte) (s : State) (s' : State) (ht : execPldmGetPldmVersion m type s = .next s') :
    kept 0 s' = kept 0 s := by
  unfold execPldmGetPldmVersion at ht
  obtain rfl | ht := onSide_next ht
  · simp
  try dsimp only at ht
  subst ht
  simp

theorem execPldmGetPldmTypes_keeps (m : SideMsg) (s : State) (s' : State) (ht : execPldmGetPldmTypes m s = .next s') :
    kept 0 s' = kept 0 s := by
  unfold execPldmGetPldmTypes at ht
  obtain rfl | ht := onSide_next ht
  · simp
  try dsimp only at ht
  subst ht
  simp

theorem execPldmGetPldmCommands_keeps (m : SideMsg) (type : Byte) (s : State) (s' : State) (ht : execPldmGetPldmCommands m type s = .next s') :
    kept 0 s' = kept 0 s := by
  unfold execPldmGetPldmCommands at ht
  obtain rfl | ht := onSide_next ht
  · simp
  try dsimp only at ht
  subst ht
  simp

@[simp] theorem sensorReading_keeps (x : Sensor) (s : State) {msk : Nat} :
    kept msk ((sensorReading x s).2.2) = kept msk s := by
  unfold sensorReading
  (repeat' split) <;> simp

theorem execPldmSensorRead_keeps (m : SideMsg) (x : Sensor) (s : State) (s' : State) (ht : execPldmSensorRead m x s = .next s') :
    kept 0 s' = kept 0 s := by
  unfold execPldmSensorRead at ht
  obtain rfl | ht := onSide_next ht
  · simp
  try dsimp only at ht
  subst ht
  simp

@[simp] theorem takeNotice_keeps (s : State) {msk : Nat} :
    kept msk ((takeNotice s).2) = kept msk s := by
  unfold takeNotice
  (repeat' split) <;> simp

theorem execPollForPlatformEventMessage_keeps (m : SideMsg) (s : State) (s' : State) (ht : execPollForPlatformEventMessage m s = .next s') :
    kept 0 s' = kept 0 s := by
  unfold execPollForPlatformEventMessage at ht
  obtain rfl | ht := onSide_next ht
  · simp
  try dsimp only at ht
  subst ht
  (repeat' split) <;> first | (simp; done) | (simp_all; done) | first | (simp; done) | (simp_all; done) | grind [draw_keeps, sideSend_keeps, takeNotice_keeps]

@[simp] theorem molzonReport_keeps (m : SideMsg) (nonce : List Byte) (a0 : Option Nat × State) {msk : Nat} :
    kept msk (molzonReport m nonce a0) = kept msk a0.2 := by
  unfold molzonReport
  (repeat' split) <;> simp

@[simp] theorem attestAnswer_keeps (m : SideMsg) (nonce : List Byte) (s : State) {msk : Nat} (hm : butTrust &&& msk = butTrust) :
    kept msk (attestAnswer m nonce s) = kept msk s := by
  refine kept_mono hm ?_
  unfold attestAnswer
  (repeat' split) <;> simp

theorem execMolzonAttestationRequest_keeps (m : SideMsg) (nonce : List Byte) (s : State) (s' : State) (ht : execMolzonAttestationRequest m nonce s = .next s') :
    kept butTrust s' = kept butTrust s := by
  unfold execMolzonAttestationRequest at ht
  obtain rfl | ht := onSide_next ht
  · simp
  try dsimp only at ht
  subst ht
  simp

theorem execMolzonAlarmNotificationRequest_keeps (m : SideMsg) (s : State) (s' : State) (ht : execMolzonAlarmNotificationRequest m s = .next s') :
    kept 0 s' = kept 0 s := by
  unfold execMolzonAlarmNotificationRequest at ht
  obtain rfl | ht := onSide_next ht
  · simp
  try dsimp only at ht
  subst ht
  simp

theorem execMolzonBootStatusRequest_keeps (m : SideMsg) (code : Byte) (s : State) (s' : State) (ht : execMolzonBootStatusRequest m code s = .next s') :
    kept 0 s' = kept 0 s := by
  unfold execMolzonBootStatusRequest at ht
  obtain rfl | ht := onSide_next ht
  · simp
  try dsimp only at ht
  subst ht
  simp

end Sys2Proof.Machine
end

