-- ==== Sys2Proof/Laws/Table.lean ====
section
/-! SUPPORT. Laws/Table.lean: reading a table after a change, and the canonical form that every change keeps. -/
namespace Sys2Proof

@[simp] theorem Tbl.find_set_same (t : Tbl α) (n : Nat) (a : α) : Tbl.find (Tbl.set t n a) n = some a := by
  induction t with
  | nil => simp [Tbl.set, Tbl.find]
  | cons x t ih =>
    obtain ⟨k, v⟩ := x
    unfold Tbl.set
    split
    · simp [Tbl.find]
    · split
      · simp [Tbl.find]
      · rename_i h1 h2
        simp [Tbl.find, ih, Ne.symm h2]

theorem Tbl.find_set_other (t : Tbl α) (n m : Nat) (a : α) (h : m ≠ n) : Tbl.find (Tbl.set t n a) m = Tbl.find t m := by
  induction t with
  | nil => simp [Tbl.set, Tbl.find, h.symm]
  | cons x t ih =>
    obtain ⟨k, v⟩ := x
    unfold Tbl.set
    split
    · simp [Tbl.find, h.symm]
    · split
      · rename_i h2
        subst h2
        simp [Tbl.find, h.symm]
      · simp [Tbl.find, ih]

@[simp] theorem Tbl.getD_set_same (t : Tbl α) (n : Nat) (a d : α) : Tbl.getD (Tbl.set t n a) n d = a := by simp [Tbl.getD]

theorem Tbl.getD_set_other (t : Tbl α) (n m : Nat) (a d : α) (h : m ≠ n) : Tbl.getD (Tbl.set t n a) m d = Tbl.getD t m d := by
  simp [Tbl.getD, Tbl.find_set_other t n m a h]

@[simp] theorem Tbl.has_set_same (t : Tbl α) (n : Nat) (a : α) : Tbl.has (Tbl.set t n a) n = true := by simp [Tbl.has]

theorem Tbl.find_del_other (t : Tbl α) (n m : Nat) (h : m ≠ n) : Tbl.find (Tbl.del t n) m = Tbl.find t m := by
  induction t with
  | nil => rfl
  | cons x t ih =>
    obtain ⟨k, v⟩ := x
    unfold Tbl.del
    split
    · rename_i h2
      subst h2
      simp [Tbl.find, h.symm]
    · simp [Tbl.find, ih]

/-- Every key of a canonical table is above the bound. -/
def Tbl.above (b : Nat) (t : Tbl α) : Prop := ∀ x ∈ t, b < x.1

/-- The canonical form, read from the front. -/
theorem Tbl.wf_cons (k : Nat) (v : α) (t : Tbl α) : Tbl.wf ((k, v) :: t) = true ↔ Tbl.above k t ∧ Tbl.wf t = true := by
  induction t generalizing k v with
  | nil => simp [Tbl.wf, Tbl.above]
  | cons x t ih =>
    obtain ⟨k', v'⟩ := x
    have h := ih k' v'
    simp only [Tbl.wf, Bool.and_eq_true, decide_eq_true_eq]
    constructor
    · rintro ⟨h1, h2⟩
      refine ⟨?_, h2⟩
      intro y hy
      rcases List.mem_cons.mp hy with rfl | hy
      · exact h1
      · exact Nat.lt_trans h1 ((h.mp h2).1 y hy)
    · rintro ⟨h1, h2⟩
      exact ⟨h1 (k', v') (by simp), h2⟩

theorem Tbl.mem_set (t : Tbl α) (n : Nat) (a : α) (x : Nat × α) (h : x ∈ Tbl.set t n a) : x = (n, a) ∨ x ∈ t := by
  induction t with
  | nil => simpa [Tbl.set] using h
  | cons y t ih =>
    obtain ⟨k, v⟩ := y
    unfold Tbl.set at h
    split at h
    · simpa using h
    · split at h
      · rcases List.mem_cons.mp h with rfl | h
        · simp
        · simp [h]
      · rcases List.mem_cons.mp h with rfl | h
        · simp
        · rcases ih h with h | h
          · exact .inl h
          · simp [h]

theorem Tbl.mem_del (t : Tbl α) (n : Nat) (x : Nat × α) (h : x ∈ Tbl.del t n) : x ∈ t := by
  induction t with
  | nil => exact h
  | cons y t ih =>
    obtain ⟨k, v⟩ := y
    unfold Tbl.del at h
    split at h
    · simp [h]
    · rcases List.mem_cons.mp h with rfl | h
      · simp
      · simp [ih h]

theorem Tbl.wf_set (t : Tbl α) (n : Nat) (a : α) (h : Tbl.wf t = true) : Tbl.wf (Tbl.set t n a) = true := by
  induction t with
  | nil => rfl
  | cons y t ih =>
    obtain ⟨k, v⟩ := y
    obtain ⟨h1, h2⟩ := (Tbl.wf_cons k v t).mp h
    unfold Tbl.set
    split
    · rename_i hk
      refine (Tbl.wf_cons _ _ _).mpr ⟨?_, h⟩
      intro x hx
      rcases List.mem_cons.mp hx with rfl | hx
      · exact hk
      · exact Nat.lt_trans hk (h1 x hx)
    · split
      · rename_i hk
        subst hk
        exact (Tbl.wf_cons _ _ _).mpr ⟨h1, h2⟩
      · rename_i hk1 hk2
        refine (Tbl.wf_cons _ _ _).mpr ⟨?_, ih h2⟩
        intro x hx
        rcases Tbl.mem_set _ _ _ _ hx with rfl | hx
        · show k < n
          omega
        · exact h1 x hx

theorem Tbl.wf_del (t : Tbl α) (n : Nat) (h : Tbl.wf t = true) : Tbl.wf (Tbl.del t n) = true := by
  induction t with
  | nil => rfl
  | cons y t ih =>
    obtain ⟨k, v⟩ := y
    obtain ⟨h1, h2⟩ := (Tbl.wf_cons k v t).mp h
    unfold Tbl.del
    split
    · exact h2
    · exact (Tbl.wf_cons _ _ _).mpr ⟨fun x hx => h1 x (Tbl.mem_del _ _ _ hx), ih h2⟩

theorem Tbl.find_above (t : Tbl α) (b : Nat) (h : Tbl.above b t) : Tbl.find t b = none := by
  induction t with
  | nil => rfl
  | cons y t ih =>
    obtain ⟨k, v⟩ := y
    have hk : b < k := h (k, v) (by simp)
    simp only [Tbl.find]
    rw [if_neg (by omega)]
    exact ih fun x hx => h x (by simp [hx])

theorem Tbl.find_del_same (t : Tbl α) (n : Nat) (h : Tbl.wf t = true) : Tbl.find (Tbl.del t n) n = none := by
  induction t with
  | nil => rfl
  | cons y t ih =>
    obtain ⟨k, v⟩ := y
    obtain ⟨h1, h2⟩ := (Tbl.wf_cons k v t).mp h
    unfold Tbl.del
    split
    · rename_i hk
      subst hk
      exact Tbl.find_above t k h1
    · rename_i hk
      simp [Tbl.find, hk, ih h2]

end Sys2Proof
end

