-- ==== Sys2Proof/Laws/Memory.lean ====
section
/-! SUPPORT. Laws/Memory.lean: every memory operation keeps the canonical form; reading after writing. -/
namespace Sys2Proof.Machine
open Sys2Proof
set_option linter.all false

theorem Mem.wf_iff (m : Mem) : Mem.wf m = true ↔ Tbl.wf m = true ∧ ∀ c ∈ m, c.2 ≠ 0 := by
  simp [Mem.wf]

theorem Mem.wf_nil : Mem.wf [] = true := rfl

theorem Mem.wf_put (m : Mem) (a : Nat) (b : Byte) (h : Mem.wf m = true) : Mem.wf (Mem.put m a b) = true := by
  obtain ⟨h1, h2⟩ := (Mem.wf_iff m).mp h
  unfold Mem.put
  split
  · exact (Mem.wf_iff _).mpr ⟨Tbl.wf_del _ _ h1, fun c hc => h2 c (Tbl.mem_del _ _ _ hc)⟩
  · rename_i hb
    refine (Mem.wf_iff _).mpr ⟨Tbl.wf_set _ _ _ h1, fun c hc => ?_⟩
    rcases Tbl.mem_set _ _ _ _ hc with rfl | hc
    · exact hb
    · exact h2 c hc

theorem Mem.wf_putBytes (m : Mem) (a : Nat) (l : List Byte) (h : Mem.wf m = true) : Mem.wf (Mem.putBytes m a l) = true := by
  induction l generalizing m a with
  | nil => exact h
  | cons b l ih => exact ih _ _ (Mem.wf_put m a b h)

theorem Mem.get_put_same (m : Mem) (a : Nat) (b : Byte) (h : Mem.wf m = true) : Mem.get (Mem.put m a b) a = b := by
  unfold Mem.put Mem.get
  split
  · rename_i hb
    simp [Tbl.getD, Tbl.find_del_same m a ((Mem.wf_iff m).mp h).1, hb]
  · simp

theorem Mem.get_put_other (m : Mem) (a c : Nat) (b : Byte) (h : c ≠ a) : Mem.get (Mem.put m a b) c = Mem.get m c := by
  unfold Mem.put Mem.get
  split
  · simp [Tbl.getD, Tbl.find_del_other m a c h]
  · exact Tbl.getD_set_other m a c b 0 h

theorem Mem.get_putBytes_outside (m : Mem) (a c : Nat) (l : List Byte) (h : c < a ∨ a + l.length ≤ c) :
    Mem.get (Mem.putBytes m a l) c = Mem.get m c := by
  induction l generalizing m a with
  | nil => rfl
  | cons b l ih =>
    simp only [List.length_cons] at h
    have h1 : c ≠ a := by omega
    simp only [Mem.putBytes]
    rw [ih (Mem.put m a b) (a + 1) (by omega), Mem.get_put_other m a c b h1]

end Sys2Proof.Machine
end

