-- ==== Sys2Proof/Laws/State.lean ====
section
/-! SUPPORT. Laws/State.lean: what each update of the state reads as, field by field; when the wrappers of a meaning run it; how a mailbox command that nothing holds back starts. -/
namespace Sys2Proof.Machine
open Sys2Proof
set_option linter.all false

@[simp] theorem update_emit (o : Out) (s : State) :
    (emit o s).time = s.time ∧ (emit o s).freeCtr = s.freeCtr ∧ (emit o s).phase = s.phase ∧ (emit o s).aon = s.aon ∧ (emit o s).cond = s.cond ∧ (emit o s).pins = s.pins ∧ (emit o s).power = s.power ∧ (emit o s).phys = s.phys ∧ (emit o s).flush = s.flush ∧ (emit o s).nor = s.nor ∧ (emit o s).boot = s.boot ∧ (emit o s).fuses = s.fuses ∧ (emit o s).trust = s.trust ∧ (emit o s).chain = s.chain ∧ (emit o s).side = s.side ∧ (emit o s).jtag = s.jtag ∧ (emit o s).peerOk = s.peerOk ∧ (emit o s).portA = s.portA ∧ (emit o s).portB = s.portB ∧ (emit o s).sems = s.sems ∧ (emit o s).mbx = s.mbx ∧ (emit o s).gov = s.gov ∧ (emit o s).err = s.err ∧ (emit o s).alarms = s.alarms ∧ (emit o s).evr = s.evr ∧ (emit o s).traces = s.traces ∧ (emit o s).slices = s.slices ∧ (emit o s).host = s.host ∧ (emit o s).ns = s.ns ∧ (emit o s).grinder = s.grinder ∧ (emit o s).carafe = s.carafe ∧ (emit o s).journal = s.journal ∧ (emit o s).mapCache = s.mapCache ∧ (emit o s).pools = s.pools ∧ (emit o s).kports = s.kports ∧ (emit o s).mods = s.mods ∧ (emit o s).ldpc = s.ldpc ∧ (emit o s).jobs = s.jobs ∧ (emit o s).peerState = s.peerState ∧ (emit o s).jal = s.jal ∧ (emit o s).snaps = s.snaps ∧ (emit o s).cluster = s.cluster ∧ (emit o s).repls = s.repls ∧ (emit o s).cipher = s.cipher ∧ (emit o s).net = s.net ∧ (emit o s).chans = s.chans ∧ (emit o s).fw = s.fw ∧ (emit o s).onchip = s.onchip ∧ (emit o s).pending = s.pending := by
  refine ⟨?_, ?_, ?_, ?_, ?_, ?_, ?_, ?_, ?_, ?_, ?_, ?_, ?_, ?_, ?_, ?_, ?_, ?_, ?_, ?_, ?_, ?_, ?_, ?_, ?_, ?_, ?_, ?_, ?_, ?_, ?_, ?_, ?_, ?_, ?_, ?_, ?_, ?_, ?_, ?_, ?_, ?_, ?_, ?_, ?_, ?_, ?_, ?_, ?_⟩ <;> rfl

theorem update_emit_out (o : Out) (s : State) : (emit o s).out = s.out ++ [o] := rfl

@[simp] theorem update_mbxUnqueue (c : MCmd) (s : State) :
    (mbxUnqueue c s).time = s.time ∧ (mbxUnqueue c s).freeCtr = s.freeCtr ∧ (mbxUnqueue c s).phase = s.phase ∧ (mbxUnqueue c s).aon = s.aon ∧ (mbxUnqueue c s).cond = s.cond ∧ (mbxUnqueue c s).pins = s.pins ∧ (mbxUnqueue c s).power = s.power ∧ (mbxUnqueue c s).phys = s.phys ∧ (mbxUnqueue c s).flush = s.flush ∧ (mbxUnqueue c s).nor = s.nor ∧ (mbxUnqueue c s).boot = s.boot ∧ (mbxUnqueue c s).fuses = s.fuses ∧ (mbxUnqueue c s).trust = s.trust ∧ (mbxUnqueue c s).chain = s.chain ∧ (mbxUnqueue c s).side = s.side ∧ (mbxUnqueue c s).jtag = s.jtag ∧ (mbxUnqueue c s).peerOk = s.peerOk ∧ (mbxUnqueue c s).portA = s.portA ∧ (mbxUnqueue c s).portB = s.portB ∧ (mbxUnqueue c s).sems = s.sems ∧ (mbxUnqueue c s).gov = s.gov ∧ (mbxUnqueue c s).err = s.err ∧ (mbxUnqueue c s).alarms = s.alarms ∧ (mbxUnqueue c s).evr = s.evr ∧ (mbxUnqueue c s).traces = s.traces ∧ (mbxUnqueue c s).slices = s.slices ∧ (mbxUnqueue c s).host = s.host ∧ (mbxUnqueue c s).ns = s.ns ∧ (mbxUnqueue c s).grinder = s.grinder ∧ (mbxUnqueue c s).carafe = s.carafe ∧ (mbxUnqueue c s).journal = s.journal ∧ (mbxUnqueue c s).mapCache = s.mapCache ∧ (mbxUnqueue c s).pools = s.pools ∧ (mbxUnqueue c s).kports = s.kports ∧ (mbxUnqueue c s).mods = s.mods ∧ (mbxUnqueue c s).ldpc = s.ldpc ∧ (mbxUnqueue c s).jobs = s.jobs ∧ (mbxUnqueue c s).peerState = s.peerState ∧ (mbxUnqueue c s).jal = s.jal ∧ (mbxUnqueue c s).snaps = s.snaps ∧ (mbxUnqueue c s).cluster = s.cluster ∧ (mbxUnqueue c s).repls = s.repls ∧ (mbxUnqueue c s).cipher = s.cipher ∧ (mbxUnqueue c s).net = s.net ∧ (mbxUnqueue c s).chans = s.chans ∧ (mbxUnqueue c s).fw = s.fw ∧ (mbxUnqueue c s).onchip = s.onchip ∧ (mbxUnqueue c s).pending = s.pending ∧ (mbxUnqueue c s).out = s.out := by
  refine ⟨?_, ?_, ?_, ?_, ?_, ?_, ?_, ?_, ?_, ?_, ?_, ?_, ?_, ?_, ?_, ?_, ?_, ?_, ?_, ?_, ?_, ?_, ?_, ?_, ?_, ?_, ?_, ?_, ?_, ?_, ?_, ?_, ?_, ?_, ?_, ?_, ?_, ?_, ?_, ?_, ?_, ?_, ?_, ?_, ?_, ?_, ?_, ?_, ?_⟩ <;> rfl

theorem update_mbxUnqueue_mbx (c : MCmd) (s : State) : (mbxUnqueue c s).mbx = { s.mbx with accepted := s.mbx.accepted.erase c } := rfl

@[simp] theorem update_mbxAnswer (c : MCmd) (r : MReply) (s : State) :
    (mbxAnswer c r s).time = s.time ∧ (mbxAnswer c r s).freeCtr = s.freeCtr ∧ (mbxAnswer c r s).phase = s.phase ∧ (mbxAnswer c r s).aon = s.aon ∧ (mbxAnswer c r s).cond = s.cond ∧ (mbxAnswer c r s).pins = s.pins ∧ (mbxAnswer c r s).power = s.power ∧ (mbxAnswer c r s).phys = s.phys ∧ (mbxAnswer c r s).flush = s.flush ∧ (mbxAnswer c r s).nor = s.nor ∧ (mbxAnswer c r s).boot = s.boot ∧ (mbxAnswer c r s).fuses = s.fuses ∧ (mbxAnswer c r s).trust = s.trust ∧ (mbxAnswer c r s).chain = s.chain ∧ (mbxAnswer c r s).side = s.side ∧ (mbxAnswer c r s).jtag = s.jtag ∧ (mbxAnswer c r s).peerOk = s.peerOk ∧ (mbxAnswer c r s).portA = s.portA ∧ (mbxAnswer c r s).portB = s.portB ∧ (mbxAnswer c r s).sems = s.sems ∧ (mbxAnswer c r s).gov = s.gov ∧ (mbxAnswer c r s).err = s.err ∧ (mbxAnswer c r s).alarms = s.alarms ∧ (mbxAnswer c r s).evr = s.evr ∧ (mbxAnswer c r s).traces = s.traces ∧ (mbxAnswer c r s).slices = s.slices ∧ (mbxAnswer c r s).host = s.host ∧ (mbxAnswer c r s).ns = s.ns ∧ (mbxAnswer c r s).grinder = s.grinder ∧ (mbxAnswer c r s).carafe = s.carafe ∧ (mbxAnswer c r s).journal = s.journal ∧ (mbxAnswer c r s).mapCache = s.mapCache ∧ (mbxAnswer c r s).pools = s.pools ∧ (mbxAnswer c r s).kports = s.kports ∧ (mbxAnswer c r s).mods = s.mods ∧ (mbxAnswer c r s).ldpc = s.ldpc ∧ (mbxAnswer c r s).jobs = s.jobs ∧ (mbxAnswer c r s).peerState = s.peerState ∧ (mbxAnswer c r s).jal = s.jal ∧ (mbxAnswer c r s).snaps = s.snaps ∧ (mbxAnswer c r s).cluster = s.cluster ∧ (mbxAnswer c r s).repls = s.repls ∧ (mbxAnswer c r s).cipher = s.cipher ∧ (mbxAnswer c r s).net = s.net ∧ (mbxAnswer c r s).chans = s.chans ∧ (mbxAnswer c r s).fw = s.fw ∧ (mbxAnswer c r s).onchip = s.onchip ∧ (mbxAnswer c r s).pending = s.pending ∧ (mbxAnswer c r s).out = s.out := by
  refine ⟨?_, ?_, ?_, ?_, ?_, ?_, ?_, ?_, ?_, ?_, ?_, ?_, ?_, ?_, ?_, ?_, ?_, ?_, ?_, ?_, ?_, ?_, ?_, ?_, ?_, ?_, ?_, ?_, ?_, ?_, ?_, ?_, ?_, ?_, ?_, ?_, ?_, ?_, ?_, ?_, ?_, ?_, ?_, ?_, ?_, ?_, ?_, ?_, ?_⟩ <;> rfl

theorem update_mbxAnswer_mbx (c : MCmd) (r : MReply) (s : State) : (mbxAnswer c r s).mbx = { s.mbx with done := s.mbx.done ++ [dressReply c r s] } := rfl

@[simp] theorem update_modUnitErr (s : State) (dom : Nat) (f : UnitErr → UnitErr) :
    (State.modUnitErr s dom f).time = s.time ∧ (State.modUnitErr s dom f).freeCtr = s.freeCtr ∧ (State.modUnitErr s dom f).phase = s.phase ∧ (State.modUnitErr s dom f).aon = s.aon ∧ (State.modUnitErr s dom f).cond = s.cond ∧ (State.modUnitErr s dom f).pins = s.pins ∧ (State.modUnitErr s dom f).power = s.power ∧ (State.modUnitErr s dom f).phys = s.phys ∧ (State.modUnitErr s dom f).flush = s.flush ∧ (State.modUnitErr s dom f).nor = s.nor ∧ (State.modUnitErr s dom f).boot = s.boot ∧ (State.modUnitErr s dom f).fuses = s.fuses ∧ (State.modUnitErr s dom f).trust = s.trust ∧ (State.modUnitErr s dom f).chain = s.chain ∧ (State.modUnitErr s dom f).side = s.side ∧ (State.modUnitErr s dom f).jtag = s.jtag ∧ (State.modUnitErr s dom f).peerOk = s.peerOk ∧ (State.modUnitErr s dom f).portA = s.portA ∧ (State.modUnitErr s dom f).portB = s.portB ∧ (State.modUnitErr s dom f).sems = s.sems ∧ (State.modUnitErr s dom f).mbx = s.mbx ∧ (State.modUnitErr s dom f).gov = s.gov ∧ (State.modUnitErr s dom f).alarms = s.alarms ∧ (State.modUnitErr s dom f).evr = s.evr ∧ (State.modUnitErr s dom f).traces = s.traces ∧ (State.modUnitErr s dom f).slices = s.slices ∧ (State.modUnitErr s dom f).host = s.host ∧ (State.modUnitErr s dom f).ns = s.ns ∧ (State.modUnitErr s dom f).grinder = s.grinder ∧ (State.modUnitErr s dom f).carafe = s.carafe ∧ (State.modUnitErr s dom f).journal = s.journal ∧ (State.modUnitErr s dom f).mapCache = s.mapCache ∧ (State.modUnitErr s dom f).pools = s.pools ∧ (State.modUnitErr s dom f).kports = s.kports ∧ (State.modUnitErr s dom f).mods = s.mods ∧ (State.modUnitErr s dom f).ldpc = s.ldpc ∧ (State.modUnitErr s dom f).jobs = s.jobs ∧ (State.modUnitErr s dom f).peerState = s.peerState ∧ (State.modUnitErr s dom f).jal = s.jal ∧ (State.modUnitErr s dom f).snaps = s.snaps ∧ (State.modUnitErr s dom f).cluster = s.cluster ∧ (State.modUnitErr s dom f).repls = s.repls ∧ (State.modUnitErr s dom f).cipher = s.cipher ∧ (State.modUnitErr s dom f).net = s.net ∧ (State.modUnitErr s dom f).chans = s.chans ∧ (State.modUnitErr s dom f).fw = s.fw ∧ (State.modUnitErr s dom f).onchip = s.onchip ∧ (State.modUnitErr s dom f).pending = s.pending ∧ (State.modUnitErr s dom f).out = s.out := by
  refine ⟨?_, ?_, ?_, ?_, ?_, ?_, ?_, ?_, ?_, ?_, ?_, ?_, ?_, ?_, ?_, ?_, ?_, ?_, ?_, ?_, ?_, ?_, ?_, ?_, ?_, ?_, ?_, ?_, ?_, ?_, ?_, ?_, ?_, ?_, ?_, ?_, ?_, ?_, ?_, ?_, ?_, ?_, ?_, ?_, ?_, ?_, ?_, ?_, ?_⟩ <;> rfl

theorem update_modUnitErr_err (s : State) (dom : Nat) (f : UnitErr → UnitErr) : (State.modUnitErr s dom f).err = { s.err with units := Tbl.set s.err.units dom (f (s.unitErr dom)) } := rfl

@[simp] theorem update_modK (s : State) (n : Nat) (f : KPort → KPort) :
    (State.modK s n f).time = s.time ∧ (State.modK s n f).freeCtr = s.freeCtr ∧ (State.modK s n f).phase = s.phase ∧ (State.modK s n f).aon = s.aon ∧ (State.modK s n f).cond = s.cond ∧ (State.modK s n f).pins = s.pins ∧ (State.modK s n f).power = s.power ∧ (State.modK s n f).phys = s.phys ∧ (State.modK s n f).flush = s.flush ∧ (State.modK s n f).nor = s.nor ∧ (State.modK s n f).boot = s.boot ∧ (State.modK s n f).fuses = s.fuses ∧ (State.modK s n f).trust = s.trust ∧ (State.modK s n f).chain = s.chain ∧ (State.modK s n f).side = s.side ∧ (State.modK s n f).jtag = s.jtag ∧ (State.modK s n f).peerOk = s.peerOk ∧ (State.modK s n f).portA = s.portA ∧ (State.modK s n f).portB = s.portB ∧ (State.modK s n f).sems = s.sems ∧ (State.modK s n f).mbx = s.mbx ∧ (State.modK s n f).gov = s.gov ∧ (State.modK s n f).err = s.err ∧ (State.modK s n f).alarms = s.alarms ∧ (State.modK s n f).evr = s.evr ∧ (State.modK s n f).traces = s.traces ∧ (State.modK s n f).slices = s.slices ∧ (State.modK s n f).host = s.host ∧ (State.modK s n f).ns = s.ns ∧ (State.modK s n f).grinder = s.grinder ∧ (State.modK s n f).carafe = s.carafe ∧ (State.modK s n f).journal = s.journal ∧ (State.modK s n f).mapCache = s.mapCache ∧ (State.modK s n f).pools = s.pools ∧ (State.modK s n f).mods = s.mods ∧ (State.modK s n f).ldpc = s.ldpc ∧ (State.modK s n f).jobs = s.jobs ∧ (State.modK s n f).peerState = s.peerState ∧ (State.modK s n f).jal = s.jal ∧ (State.modK s n f).snaps = s.snaps ∧ (State.modK s n f).cluster = s.cluster ∧ (State.modK s n f).repls = s.repls ∧ (State.modK s n f).cipher = s.cipher ∧ (State.modK s n f).net = s.net ∧ (State.modK s n f).chans = s.chans ∧ (State.modK s n f).fw = s.fw ∧ (State.modK s n f).onchip = s.onchip ∧ (State.modK s n f).pending = s.pending ∧ (State.modK s n f).out = s.out := by
  refine ⟨?_, ?_, ?_, ?_, ?_, ?_, ?_, ?_, ?_, ?_, ?_, ?_, ?_, ?_, ?_, ?_, ?_, ?_, ?_, ?_, ?_, ?_, ?_, ?_, ?_, ?_, ?_, ?_, ?_, ?_, ?_, ?_, ?_, ?_, ?_, ?_, ?_, ?_, ?_, ?_, ?_, ?_, ?_, ?_, ?_, ?_, ?_, ?_, ?_⟩ <;> rfl

theorem update_modK_kports (s : State) (n : Nat) (f : KPort → KPort) : (State.modK s n f).kports = Tbl.set s.kports n (f (s.kport n)) := rfl

@[simp] theorem update_modMod (s : State) (n : Nat) (f : Module → Module) :
    (State.modMod s n f).time = s.time ∧ (State.modMod s n f).freeCtr = s.freeCtr ∧ (State.modMod s n f).phase = s.phase ∧ (State.modMod s n f).aon = s.aon ∧ (State.modMod s n f).cond = s.cond ∧ (State.modMod s n f).pins = s.pins ∧ (State.modMod s n f).power = s.power ∧ (State.modMod s n f).phys = s.phys ∧ (State.modMod s n f).flush = s.flush ∧ (State.modMod s n f).nor = s.nor ∧ (State.modMod s n f).boot = s.boot ∧ (State.modMod s n f).fuses = s.fuses ∧ (State.modMod s n f).trust = s.trust ∧ (State.modMod s n f).chain = s.chain ∧ (State.modMod s n f).side = s.side ∧ (State.modMod s n f).jtag = s.jtag ∧ (State.modMod s n f).peerOk = s.peerOk ∧ (State.modMod s n f).portA = s.portA ∧ (State.modMod s n f).portB = s.portB ∧ (State.modMod s n f).sems = s.sems ∧ (State.modMod s n f).mbx = s.mbx ∧ (State.modMod s n f).gov = s.gov ∧ (State.modMod s n f).err = s.err ∧ (State.modMod s n f).alarms = s.alarms ∧ (State.modMod s n f).evr = s.evr ∧ (State.modMod s n f).traces = s.traces ∧ (State.modMod s n f).slices = s.slices ∧ (State.modMod s n f).host = s.host ∧ (State.modMod s n f).ns = s.ns ∧ (State.modMod s n f).grinder = s.grinder ∧ (State.modMod s n f).carafe = s.carafe ∧ (State.modMod s n f).journal = s.journal ∧ (State.modMod s n f).mapCache = s.mapCache ∧ (State.modMod s n f).pools = s.pools ∧ (State.modMod s n f).kports = s.kports ∧ (State.modMod s n f).ldpc = s.ldpc ∧ (State.modMod s n f).jobs = s.jobs ∧ (State.modMod s n f).peerState = s.peerState ∧ (State.modMod s n f).jal = s.jal ∧ (State.modMod s n f).snaps = s.snaps ∧ (State.modMod s n f).cluster = s.cluster ∧ (State.modMod s n f).repls = s.repls ∧ (State.modMod s n f).cipher = s.cipher ∧ (State.modMod s n f).net = s.net ∧ (State.modMod s n f).chans = s.chans ∧ (State.modMod s n f).fw = s.fw ∧ (State.modMod s n f).onchip = s.onchip ∧ (State.modMod s n f).pending = s.pending ∧ (State.modMod s n f).out = s.out := by
  refine ⟨?_, ?_, ?_, ?_, ?_, ?_, ?_, ?_, ?_, ?_, ?_, ?_, ?_, ?_, ?_, ?_, ?_, ?_, ?_, ?_, ?_, ?_, ?_, ?_, ?_, ?_, ?_, ?_, ?_, ?_, ?_, ?_, ?_, ?_, ?_, ?_, ?_, ?_, ?_, ?_, ?_, ?_, ?_, ?_, ?_, ?_, ?_, ?_, ?_⟩ <;> rfl

theorem update_modMod_mods (s : State) (n : Nat) (f : Module → Module) : (State.modMod s n f).mods = Tbl.set s.mods n (f (s.mod n)) := rfl

@[simp] theorem update_modSub (s : State) (n : Nat) (f : SubLink → SubLink) :
    (State.modSub s n f).time = s.time ∧ (State.modSub s n f).freeCtr = s.freeCtr ∧ (State.modSub s n f).phase = s.phase ∧ (State.modSub s n f).aon = s.aon ∧ (State.modSub s n f).cond = s.cond ∧ (State.modSub s n f).pins = s.pins ∧ (State.modSub s n f).power = s.power ∧ (State.modSub s n f).phys = s.phys ∧ (State.modSub s n f).flush = s.flush ∧ (State.modSub s n f).nor = s.nor ∧ (State.modSub s n f).boot = s.boot ∧ (State.modSub s n f).fuses = s.fuses ∧ (State.modSub s n f).trust = s.trust ∧ (State.modSub s n f).chain = s.chain ∧ (State.modSub s n f).side = s.side ∧ (State.modSub s n f).jtag = s.jtag ∧ (State.modSub s n f).peerOk = s.peerOk ∧ (State.modSub s n f).portA = s.portA ∧ (State.modSub s n f).portB = s.portB ∧ (State.modSub s n f).sems = s.sems ∧ (State.modSub s n f).mbx = s.mbx ∧ (State.modSub s n f).gov = s.gov ∧ (State.modSub s n f).err = s.err ∧ (State.modSub s n f).alarms = s.alarms ∧ (State.modSub s n f).evr = s.evr ∧ (State.modSub s n f).traces = s.traces ∧ (State.modSub s n f).slices = s.slices ∧ (State.modSub s n f).host = s.host ∧ (State.modSub s n f).ns = s.ns ∧ (State.modSub s n f).grinder = s.grinder ∧ (State.modSub s n f).carafe = s.carafe ∧ (State.modSub s n f).journal = s.journal ∧ (State.modSub s n f).mapCache = s.mapCache ∧ (State.modSub s n f).pools = s.pools ∧ (State.modSub s n f).kports = s.kports ∧ (State.modSub s n f).mods = s.mods ∧ (State.modSub s n f).ldpc = s.ldpc ∧ (State.modSub s n f).jobs = s.jobs ∧ (State.modSub s n f).peerState = s.peerState ∧ (State.modSub s n f).snaps = s.snaps ∧ (State.modSub s n f).cluster = s.cluster ∧ (State.modSub s n f).repls = s.repls ∧ (State.modSub s n f).cipher = s.cipher ∧ (State.modSub s n f).net = s.net ∧ (State.modSub s n f).chans = s.chans ∧ (State.modSub s n f).fw = s.fw ∧ (State.modSub s n f).onchip = s.onchip ∧ (State.modSub s n f).pending = s.pending ∧ (State.modSub s n f).out = s.out := by
  refine ⟨?_, ?_, ?_, ?_, ?_, ?_, ?_, ?_, ?_, ?_, ?_, ?_, ?_, ?_, ?_, ?_, ?_, ?_, ?_, ?_, ?_, ?_, ?_, ?_, ?_, ?_, ?_, ?_, ?_, ?_, ?_, ?_, ?_, ?_, ?_, ?_, ?_, ?_, ?_, ?_, ?_, ?_, ?_, ?_, ?_, ?_, ?_, ?_, ?_⟩ <;> rfl

theorem update_modSub_jal (s : State) (n : Nat) (f : SubLink → SubLink) : (State.modSub s n f).jal = { s.jal with subs := Tbl.set s.jal.subs n (f (s.sub n)) } := rfl

@[simp] theorem update_modJal (s : State) (f : Jalras → Jalras) :
    (State.modJal s f).time = s.time ∧ (State.modJal s f).freeCtr = s.freeCtr ∧ (State.modJal s f).phase = s.phase ∧ (State.modJal s f).aon = s.aon ∧ (State.modJal s f).cond = s.cond ∧ (State.modJal s f).pins = s.pins ∧ (State.modJal s f).power = s.power ∧ (State.modJal s f).phys = s.phys ∧ (State.modJal s f).flush = s.flush ∧ (State.modJal s f).nor = s.nor ∧ (State.modJal s f).boot = s.boot ∧ (State.modJal s f).fuses = s.fuses ∧ (State.modJal s f).trust = s.trust ∧ (State.modJal s f).chain = s.chain ∧ (State.modJal s f).side = s.side ∧ (State.modJal s f).jtag = s.jtag ∧ (State.modJal s f).peerOk = s.peerOk ∧ (State.modJal s f).portA = s.portA ∧ (State.modJal s f).portB = s.portB ∧ (State.modJal s f).sems = s.sems ∧ (State.modJal s f).mbx = s.mbx ∧ (State.modJal s f).gov = s.gov ∧ (State.modJal s f).err = s.err ∧ (State.modJal s f).alarms = s.alarms ∧ (State.modJal s f).evr = s.evr ∧ (State.modJal s f).traces = s.traces ∧ (State.modJal s f).slices = s.slices ∧ (State.modJal s f).host = s.host ∧ (State.modJal s f).ns = s.ns ∧ (State.modJal s f).grinder = s.grinder ∧ (State.modJal s f).carafe = s.carafe ∧ (State.modJal s f).journal = s.journal ∧ (State.modJal s f).mapCache = s.mapCache ∧ (State.modJal s f).pools = s.pools ∧ (State.modJal s f).kports = s.kports ∧ (State.modJal s f).mods = s.mods ∧ (State.modJal s f).ldpc = s.ldpc ∧ (State.modJal s f).jobs = s.jobs ∧ (State.modJal s f).peerState = s.peerState ∧ (State.modJal s f).snaps = s.snaps ∧ (State.modJal s f).cluster = s.cluster ∧ (State.modJal s f).repls = s.repls ∧ (State.modJal s f).cipher = s.cipher ∧ (State.modJal s f).net = s.net ∧ (State.modJal s f).chans = s.chans ∧ (State.modJal s f).fw = s.fw ∧ (State.modJal s f).onchip = s.onchip ∧ (State.modJal s f).pending = s.pending ∧ (State.modJal s f).out = s.out := by
  refine ⟨?_, ?_, ?_, ?_, ?_, ?_, ?_, ?_, ?_, ?_, ?_, ?_, ?_, ?_, ?_, ?_, ?_, ?_, ?_, ?_, ?_, ?_, ?_, ?_, ?_, ?_, ?_, ?_, ?_, ?_, ?_, ?_, ?_, ?_, ?_, ?_, ?_, ?_, ?_, ?_, ?_, ?_, ?_, ?_, ?_, ?_, ?_, ?_, ?_⟩ <;> rfl

theorem update_modJal_jal (s : State) (f : Jalras → Jalras) : (State.modJal s f).jal = f s.jal := rfl

@[simp] theorem update_modNet (s : State) (f : Net → Net) :
    (State.modNet s f).time = s.time ∧ (State.modNet s f).freeCtr = s.freeCtr ∧ (State.modNet s f).phase = s.phase ∧ (State.modNet s f).aon = s.aon ∧ (State.modNet s f).cond = s.cond ∧ (State.modNet s f).pins = s.pins ∧ (State.modNet s f).power = s.power ∧ (State.modNet s f).phys = s.phys ∧ (State.modNet s f).flush = s.flush ∧ (State.modNet s f).nor = s.nor ∧ (State.modNet s f).boot = s.boot ∧ (State.modNet s f).fuses = s.fuses ∧ (State.modNet s f).trust = s.trust ∧ (State.modNet s f).chain = s.chain ∧ (State.modNet s f).side = s.side ∧ (State.modNet s f).jtag = s.jtag ∧ (State.modNet s f).peerOk = s.peerOk ∧ (State.modNet s f).portA = s.portA ∧ (State.modNet s f).portB = s.portB ∧ (State.modNet s f).sems = s.sems ∧ (State.modNet s f).mbx = s.mbx ∧ (State.modNet s f).gov = s.gov ∧ (State.modNet s f).err = s.err ∧ (State.modNet s f).alarms = s.alarms ∧ (State.modNet s f).evr = s.evr ∧ (State.modNet s f).traces = s.traces ∧ (State.modNet s f).slices = s.slices ∧ (State.modNet s f).host = s.host ∧ (State.modNet s f).ns = s.ns ∧ (State.modNet s f).grinder = s.grinder ∧ (State.modNet s f).carafe = s.carafe ∧ (State.modNet s f).journal = s.journal ∧ (State.modNet s f).mapCache = s.mapCache ∧ (State.modNet s f).pools = s.pools ∧ (State.modNet s f).kports = s.kports ∧ (State.modNet s f).mods = s.mods ∧ (State.modNet s f).ldpc = s.ldpc ∧ (State.modNet s f).jobs = s.jobs ∧ (State.modNet s f).peerState = s.peerState ∧ (State.modNet s f).jal = s.jal ∧ (State.modNet s f).snaps = s.snaps ∧ (State.modNet s f).cluster = s.cluster ∧ (State.modNet s f).repls = s.repls ∧ (State.modNet s f).cipher = s.cipher ∧ (State.modNet s f).chans = s.chans ∧ (State.modNet s f).fw = s.fw ∧ (State.modNet s f).onchip = s.onchip ∧ (State.modNet s f).pending = s.pending ∧ (State.modNet s f).out = s.out := by
  refine ⟨?_, ?_, ?_, ?_, ?_, ?_, ?_, ?_, ?_, ?_, ?_, ?_, ?_, ?_, ?_, ?_, ?_, ?_, ?_, ?_, ?_, ?_, ?_, ?_, ?_, ?_, ?_, ?_, ?_, ?_, ?_, ?_, ?_, ?_, ?_, ?_, ?_, ?_, ?_, ?_, ?_, ?_, ?_, ?_, ?_, ?_, ?_, ?_, ?_⟩ <;> rfl

theorem update_modNet_net (s : State) (f : Net → Net) : (State.modNet s f).net = f s.net := rfl

@[simp] theorem update_modLane (s : State) (d : Nat) (lane : Nat) (f : Lane → Lane) :
    (State.modLane s d lane f).time = s.time ∧ (State.modLane s d lane f).freeCtr = s.freeCtr ∧ (State.modLane s d lane f).phase = s.phase ∧ (State.modLane s d lane f).aon = s.aon ∧ (State.modLane s d lane f).cond = s.cond ∧ (State.modLane s d lane f).pins = s.pins ∧ (State.modLane s d lane f).power = s.power ∧ (State.modLane s d lane f).flush = s.flush ∧ (State.modLane s d lane f).nor = s.nor ∧ (State.modLane s d lane f).boot = s.boot ∧ (State.modLane s d lane f).fuses = s.fuses ∧ (State.modLane s d lane f).trust = s.trust ∧ (State.modLane s d lane f).chain = s.chain ∧ (State.modLane s d lane f).side = s.side ∧ (State.modLane s d lane f).jtag = s.jtag ∧ (State.modLane s d lane f).peerOk = s.peerOk ∧ (State.modLane s d lane f).portA = s.portA ∧ (State.modLane s d lane f).portB = s.portB ∧ (State.modLane s d lane f).sems = s.sems ∧ (State.modLane s d lane f).mbx = s.mbx ∧ (State.modLane s d lane f).gov = s.gov ∧ (State.modLane s d lane f).err = s.err ∧ (State.modLane s d lane f).alarms = s.alarms ∧ (State.modLane s d lane f).evr = s.evr ∧ (State.modLane s d lane f).traces = s.traces ∧ (State.modLane s d lane f).slices = s.slices ∧ (State.modLane s d lane f).host = s.host ∧ (State.modLane s d lane f).ns = s.ns ∧ (State.modLane s d lane f).grinder = s.grinder ∧ (State.modLane s d lane f).carafe = s.carafe ∧ (State.modLane s d lane f).journal = s.journal ∧ (State.modLane s d lane f).mapCache = s.mapCache ∧ (State.modLane s d lane f).pools = s.pools ∧ (State.modLane s d lane f).kports = s.kports ∧ (State.modLane s d lane f).mods = s.mods ∧ (State.modLane s d lane f).ldpc = s.ldpc ∧ (State.modLane s d lane f).jobs = s.jobs ∧ (State.modLane s d lane f).peerState = s.peerState ∧ (State.modLane s d lane f).jal = s.jal ∧ (State.modLane s d lane f).snaps = s.snaps ∧ (State.modLane s d lane f).cluster = s.cluster ∧ (State.modLane s d lane f).repls = s.repls ∧ (State.modLane s d lane f).cipher = s.cipher ∧ (State.modLane s d lane f).net = s.net ∧ (State.modLane s d lane f).chans = s.chans ∧ (State.modLane s d lane f).fw = s.fw ∧ (State.modLane s d lane f).onchip = s.onchip ∧ (State.modLane s d lane f).pending = s.pending ∧ (State.modLane s d lane f).out = s.out := by
  refine ⟨?_, ?_, ?_, ?_, ?_, ?_, ?_, ?_, ?_, ?_, ?_, ?_, ?_, ?_, ?_, ?_, ?_, ?_, ?_, ?_, ?_, ?_, ?_, ?_, ?_, ?_, ?_, ?_, ?_, ?_, ?_, ?_, ?_, ?_, ?_, ?_, ?_, ?_, ?_, ?_, ?_, ?_, ?_, ?_, ?_, ?_, ?_, ?_, ?_⟩ <;> rfl

theorem update_modLane_phys (s : State) (d : Nat) (lane : Nat) (f : Lane → Lane) : (State.modLane s d lane f).phys = { s.phys with lanes := Tbl.set s.phys.lanes (d * 64 + lane) (f (s.lane d lane)) } := rfl

@[simp] theorem update_modSlice (s : State) (n : Nat) (f : Slice → Slice) :
    (State.modSlice s n f).time = s.time ∧ (State.modSlice s n f).freeCtr = s.freeCtr ∧ (State.modSlice s n f).phase = s.phase ∧ (State.modSlice s n f).aon = s.aon ∧ (State.modSlice s n f).cond = s.cond ∧ (State.modSlice s n f).pins = s.pins ∧ (State.modSlice s n f).power = s.power ∧ (State.modSlice s n f).phys = s.phys ∧ (State.modSlice s n f).flush = s.flush ∧ (State.modSlice s n f).nor = s.nor ∧ (State.modSlice s n f).boot = s.boot ∧ (State.modSlice s n f).fuses = s.fuses ∧ (State.modSlice s n f).trust = s.trust ∧ (State.modSlice s n f).chain = s.chain ∧ (State.modSlice s n f).side = s.side ∧ (State.modSlice s n f).jtag = s.jtag ∧ (State.modSlice s n f).peerOk = s.peerOk ∧ (State.modSlice s n f).portA = s.portA ∧ (State.modSlice s n f).portB = s.portB ∧ (State.modSlice s n f).sems = s.sems ∧ (State.modSlice s n f).mbx = s.mbx ∧ (State.modSlice s n f).gov = s.gov ∧ (State.modSlice s n f).err = s.err ∧ (State.modSlice s n f).alarms = s.alarms ∧ (State.modSlice s n f).evr = s.evr ∧ (State.modSlice s n f).traces = s.traces ∧ (State.modSlice s n f).host = s.host ∧ (State.modSlice s n f).ns = s.ns ∧ (State.modSlice s n f).grinder = s.grinder ∧ (State.modSlice s n f).carafe = s.carafe ∧ (State.modSlice s n f).journal = s.journal ∧ (State.modSlice s n f).mapCache = s.mapCache ∧ (State.modSlice s n f).pools = s.pools ∧ (State.modSlice s n f).kports = s.kports ∧ (State.modSlice s n f).mods = s.mods ∧ (State.modSlice s n f).ldpc = s.ldpc ∧ (State.modSlice s n f).jobs = s.jobs ∧ (State.modSlice s n f).peerState = s.peerState ∧ (State.modSlice s n f).jal = s.jal ∧ (State.modSlice s n f).snaps = s.snaps ∧ (State.modSlice s n f).cluster = s.cluster ∧ (State.modSlice s n f).repls = s.repls ∧ (State.modSlice s n f).cipher = s.cipher ∧ (State.modSlice s n f).net = s.net ∧ (State.modSlice s n f).chans = s.chans ∧ (State.modSlice s n f).fw = s.fw ∧ (State.modSlice s n f).onchip = s.onchip ∧ (State.modSlice s n f).pending = s.pending ∧ (State.modSlice s n f).out = s.out := by
  refine ⟨?_, ?_, ?_, ?_, ?_, ?_, ?_, ?_, ?_, ?_, ?_, ?_, ?_, ?_, ?_, ?_, ?_, ?_, ?_, ?_, ?_, ?_, ?_, ?_, ?_, ?_, ?_, ?_, ?_, ?_, ?_, ?_, ?_, ?_, ?_, ?_, ?_, ?_, ?_, ?_, ?_, ?_, ?_, ?_, ?_, ?_, ?_, ?_, ?_⟩ <;> rfl

theorem update_modSlice_slices (s : State) (n : Nat) (f : Slice → Slice) : (State.modSlice s n f).slices = Tbl.upd s.slices n f := rfl

@[simp] theorem update_modCtrl (s : State) (n : Nat) (f : Ctrl → Ctrl) :
    (State.modCtrl s n f).time = s.time ∧ (State.modCtrl s n f).freeCtr = s.freeCtr ∧ (State.modCtrl s n f).phase = s.phase ∧ (State.modCtrl s n f).aon = s.aon ∧ (State.modCtrl s n f).cond = s.cond ∧ (State.modCtrl s n f).pins = s.pins ∧ (State.modCtrl s n f).power = s.power ∧ (State.modCtrl s n f).phys = s.phys ∧ (State.modCtrl s n f).flush = s.flush ∧ (State.modCtrl s n f).nor = s.nor ∧ (State.modCtrl s n f).boot = s.boot ∧ (State.modCtrl s n f).fuses = s.fuses ∧ (State.modCtrl s n f).trust = s.trust ∧ (State.modCtrl s n f).chain = s.chain ∧ (State.modCtrl s n f).side = s.side ∧ (State.modCtrl s n f).jtag = s.jtag ∧ (State.modCtrl s n f).peerOk = s.peerOk ∧ (State.modCtrl s n f).portA = s.portA ∧ (State.modCtrl s n f).portB = s.portB ∧ (State.modCtrl s n f).sems = s.sems ∧ (State.modCtrl s n f).mbx = s.mbx ∧ (State.modCtrl s n f).gov = s.gov ∧ (State.modCtrl s n f).err = s.err ∧ (State.modCtrl s n f).alarms = s.alarms ∧ (State.modCtrl s n f).evr = s.evr ∧ (State.modCtrl s n f).traces = s.traces ∧ (State.modCtrl s n f).slices = s.slices ∧ (State.modCtrl s n f).ns = s.ns ∧ (State.modCtrl s n f).grinder = s.grinder ∧ (State.modCtrl s n f).carafe = s.carafe ∧ (State.modCtrl s n f).journal = s.journal ∧ (State.modCtrl s n f).mapCache = s.mapCache ∧ (State.modCtrl s n f).pools = s.pools ∧ (State.modCtrl s n f).kports = s.kports ∧ (State.modCtrl s n f).mods = s.mods ∧ (State.modCtrl s n f).ldpc = s.ldpc ∧ (State.modCtrl s n f).jobs = s.jobs ∧ (State.modCtrl s n f).peerState = s.peerState ∧ (State.modCtrl s n f).jal = s.jal ∧ (State.modCtrl s n f).snaps = s.snaps ∧ (State.modCtrl s n f).cluster = s.cluster ∧ (State.modCtrl s n f).repls = s.repls ∧ (State.modCtrl s n f).cipher = s.cipher ∧ (State.modCtrl s n f).net = s.net ∧ (State.modCtrl s n f).chans = s.chans ∧ (State.modCtrl s n f).fw = s.fw ∧ (State.modCtrl s n f).onchip = s.onchip ∧ (State.modCtrl s n f).pending = s.pending ∧ (State.modCtrl s n f).out = s.out := by
  refine ⟨?_, ?_, ?_, ?_, ?_, ?_, ?_, ?_, ?_, ?_, ?_, ?_, ?_, ?_, ?_, ?_, ?_, ?_, ?_, ?_, ?_, ?_, ?_, ?_, ?_, ?_, ?_, ?_, ?_, ?_, ?_, ?_, ?_, ?_, ?_, ?_, ?_, ?_, ?_, ?_, ?_, ?_, ?_, ?_, ?_, ?_, ?_, ?_, ?_⟩ <;> rfl

theorem update_modCtrl_host (s : State) (n : Nat) (f : Ctrl → Ctrl) : (State.modCtrl s n f).host = { s.host with ctrls := Tbl.upd s.host.ctrls n f } := rfl

@[simp] theorem update_modNs (s : State) (n : Nat) (f : Ns → Ns) :
    (State.modNs s n f).time = s.time ∧ (State.modNs s n f).freeCtr = s.freeCtr ∧ (State.modNs s n f).phase = s.phase ∧ (State.modNs s n f).aon = s.aon ∧ (State.modNs s n f).cond = s.cond ∧ (State.modNs s n f).pins = s.pins ∧ (State.modNs s n f).power = s.power ∧ (State.modNs s n f).phys = s.phys ∧ (State.modNs s n f).flush = s.flush ∧ (State.modNs s n f).nor = s.nor ∧ (State.modNs s n f).boot = s.boot ∧ (State.modNs s n f).fuses = s.fuses ∧ (State.modNs s n f).trust = s.trust ∧ (State.modNs s n f).chain = s.chain ∧ (State.modNs s n f).side = s.side ∧ (State.modNs s n f).jtag = s.jtag ∧ (State.modNs s n f).peerOk = s.peerOk ∧ (State.modNs s n f).portA = s.portA ∧ (State.modNs s n f).portB = s.portB ∧ (State.modNs s n f).sems = s.sems ∧ (State.modNs s n f).mbx = s.mbx ∧ (State.modNs s n f).gov = s.gov ∧ (State.modNs s n f).err = s.err ∧ (State.modNs s n f).alarms = s.alarms ∧ (State.modNs s n f).evr = s.evr ∧ (State.modNs s n f).traces = s.traces ∧ (State.modNs s n f).slices = s.slices ∧ (State.modNs s n f).host = s.host ∧ (State.modNs s n f).grinder = s.grinder ∧ (State.modNs s n f).carafe = s.carafe ∧ (State.modNs s n f).journal = s.journal ∧ (State.modNs s n f).mapCache = s.mapCache ∧ (State.modNs s n f).pools = s.pools ∧ (State.modNs s n f).kports = s.kports ∧ (State.modNs s n f).mods = s.mods ∧ (State.modNs s n f).ldpc = s.ldpc ∧ (State.modNs s n f).jobs = s.jobs ∧ (State.modNs s n f).peerState = s.peerState ∧ (State.modNs s n f).jal = s.jal ∧ (State.modNs s n f).snaps = s.snaps ∧ (State.modNs s n f).cluster = s.cluster ∧ (State.modNs s n f).repls = s.repls ∧ (State.modNs s n f).cipher = s.cipher ∧ (State.modNs s n f).net = s.net ∧ (State.modNs s n f).chans = s.chans ∧ (State.modNs s n f).fw = s.fw ∧ (State.modNs s n f).onchip = s.onchip ∧ (State.modNs s n f).pending = s.pending ∧ (State.modNs s n f).out = s.out := by
  refine ⟨?_, ?_, ?_, ?_, ?_, ?_, ?_, ?_, ?_, ?_, ?_, ?_, ?_, ?_, ?_, ?_, ?_, ?_, ?_, ?_, ?_, ?_, ?_, ?_, ?_, ?_, ?_, ?_, ?_, ?_, ?_, ?_, ?_, ?_, ?_, ?_, ?_, ?_, ?_, ?_, ?_, ?_, ?_, ?_, ?_, ?_, ?_, ?_, ?_⟩ <;> rfl

theorem update_modNs_ns (s : State) (n : Nat) (f : Ns → Ns) : (State.modNs s n f).ns = Tbl.upd s.ns n f := rfl

@[simp] theorem update_modPool (s : State) (n : Nat) (f : Pool → Pool) :
    (State.modPool s n f).time = s.time ∧ (State.modPool s n f).freeCtr = s.freeCtr ∧ (State.modPool s n f).phase = s.phase ∧ (State.modPool s n f).aon = s.aon ∧ (State.modPool s n f).cond = s.cond ∧ (State.modPool s n f).pins = s.pins ∧ (State.modPool s n f).power = s.power ∧ (State.modPool s n f).phys = s.phys ∧ (State.modPool s n f).flush = s.flush ∧ (State.modPool s n f).nor = s.nor ∧ (State.modPool s n f).boot = s.boot ∧ (State.modPool s n f).fuses = s.fuses ∧ (State.modPool s n f).trust = s.trust ∧ (State.modPool s n f).chain = s.chain ∧ (State.modPool s n f).side = s.side ∧ (State.modPool s n f).jtag = s.jtag ∧ (State.modPool s n f).peerOk = s.peerOk ∧ (State.modPool s n f).portA = s.portA ∧ (State.modPool s n f).portB = s.portB ∧ (State.modPool s n f).sems = s.sems ∧ (State.modPool s n f).mbx = s.mbx ∧ (State.modPool s n f).gov = s.gov ∧ (State.modPool s n f).err = s.err ∧ (State.modPool s n f).alarms = s.alarms ∧ (State.modPool s n f).evr = s.evr ∧ (State.modPool s n f).traces = s.traces ∧ (State.modPool s n f).slices = s.slices ∧ (State.modPool s n f).host = s.host ∧ (State.modPool s n f).ns = s.ns ∧ (State.modPool s n f).grinder = s.grinder ∧ (State.modPool s n f).carafe = s.carafe ∧ (State.modPool s n f).journal = s.journal ∧ (State.modPool s n f).mapCache = s.mapCache ∧ (State.modPool s n f).kports = s.kports ∧ (State.modPool s n f).mods = s.mods ∧ (State.modPool s n f).ldpc = s.ldpc ∧ (State.modPool s n f).jobs = s.jobs ∧ (State.modPool s n f).peerState = s.peerState ∧ (State.modPool s n f).jal = s.jal ∧ (State.modPool s n f).snaps = s.snaps ∧ (State.modPool s n f).cluster = s.cluster ∧ (State.modPool s n f).repls = s.repls ∧ (State.modPool s n f).cipher = s.cipher ∧ (State.modPool s n f).net = s.net ∧ (State.modPool s n f).chans = s.chans ∧ (State.modPool s n f).fw = s.fw ∧ (State.modPool s n f).onchip = s.onchip ∧ (State.modPool s n f).pending = s.pending ∧ (State.modPool s n f).out = s.out := by
  refine ⟨?_, ?_, ?_, ?_, ?_, ?_, ?_, ?_, ?_, ?_, ?_, ?_, ?_, ?_, ?_, ?_, ?_, ?_, ?_, ?_, ?_, ?_, ?_, ?_, ?_, ?_, ?_, ?_, ?_, ?_, ?_, ?_, ?_, ?_, ?_, ?_, ?_, ?_, ?_, ?_, ?_, ?_, ?_, ?_, ?_, ?_, ?_, ?_, ?_⟩ <;> rfl

theorem update_modPool_pools (s : State) (n : Nat) (f : Pool → Pool) : (State.modPool s n f).pools = Tbl.upd s.pools n f := rfl

@[simp] theorem update_modCmd (s : State) (n : Nat) (f : Inflight → Inflight) :
    (State.modCmd s n f).time = s.time ∧ (State.modCmd s n f).freeCtr = s.freeCtr ∧ (State.modCmd s n f).phase = s.phase ∧ (State.modCmd s n f).aon = s.aon ∧ (State.modCmd s n f).cond = s.cond ∧ (State.modCmd s n f).pins = s.pins ∧ (State.modCmd s n f).power = s.power ∧ (State.modCmd s n f).phys = s.phys ∧ (State.modCmd s n f).flush = s.flush ∧ (State.modCmd s n f).nor = s.nor ∧ (State.modCmd s n f).boot = s.boot ∧ (State.modCmd s n f).fuses = s.fuses ∧ (State.modCmd s n f).trust = s.trust ∧ (State.modCmd s n f).chain = s.chain ∧ (State.modCmd s n f).side = s.side ∧ (State.modCmd s n f).jtag = s.jtag ∧ (State.modCmd s n f).peerOk = s.peerOk ∧ (State.modCmd s n f).portA = s.portA ∧ (State.modCmd s n f).portB = s.portB ∧ (State.modCmd s n f).sems = s.sems ∧ (State.modCmd s n f).mbx = s.mbx ∧ (State.modCmd s n f).gov = s.gov ∧ (State.modCmd s n f).err = s.err ∧ (State.modCmd s n f).alarms = s.alarms ∧ (State.modCmd s n f).evr = s.evr ∧ (State.modCmd s n f).traces = s.traces ∧ (State.modCmd s n f).slices = s.slices ∧ (State.modCmd s n f).ns = s.ns ∧ (State.modCmd s n f).grinder = s.grinder ∧ (State.modCmd s n f).carafe = s.carafe ∧ (State.modCmd s n f).journal = s.journal ∧ (State.modCmd s n f).mapCache = s.mapCache ∧ (State.modCmd s n f).pools = s.pools ∧ (State.modCmd s n f).kports = s.kports ∧ (State.modCmd s n f).mods = s.mods ∧ (State.modCmd s n f).ldpc = s.ldpc ∧ (State.modCmd s n f).jobs = s.jobs ∧ (State.modCmd s n f).peerState = s.peerState ∧ (State.modCmd s n f).jal = s.jal ∧ (State.modCmd s n f).snaps = s.snaps ∧ (State.modCmd s n f).cluster = s.cluster ∧ (State.modCmd s n f).repls = s.repls ∧ (State.modCmd s n f).cipher = s.cipher ∧ (State.modCmd s n f).net = s.net ∧ (State.modCmd s n f).chans = s.chans ∧ (State.modCmd s n f).fw = s.fw ∧ (State.modCmd s n f).onchip = s.onchip ∧ (State.modCmd s n f).pending = s.pending ∧ (State.modCmd s n f).out = s.out := by
  refine ⟨?_, ?_, ?_, ?_, ?_, ?_, ?_, ?_, ?_, ?_, ?_, ?_, ?_, ?_, ?_, ?_, ?_, ?_, ?_, ?_, ?_, ?_, ?_, ?_, ?_, ?_, ?_, ?_, ?_, ?_, ?_, ?_, ?_, ?_, ?_, ?_, ?_, ?_, ?_, ?_, ?_, ?_, ?_, ?_, ?_, ?_, ?_, ?_, ?_⟩ <;> rfl

theorem update_modCmd_host (s : State) (n : Nat) (f : Inflight → Inflight) : (State.modCmd s n f).host = { s.host with inflight := Tbl.upd s.host.inflight n f } := rfl

@[simp] theorem update_modOwn (s : State) (n : Nat) (f : Desc → Desc) :
    (State.modOwn s n f).time = s.time ∧ (State.modOwn s n f).freeCtr = s.freeCtr ∧ (State.modOwn s n f).phase = s.phase ∧ (State.modOwn s n f).aon = s.aon ∧ (State.modOwn s n f).cond = s.cond ∧ (State.modOwn s n f).pins = s.pins ∧ (State.modOwn s n f).power = s.power ∧ (State.modOwn s n f).phys = s.phys ∧ (State.modOwn s n f).flush = s.flush ∧ (State.modOwn s n f).nor = s.nor ∧ (State.modOwn s n f).boot = s.boot ∧ (State.modOwn s n f).fuses = s.fuses ∧ (State.modOwn s n f).trust = s.trust ∧ (State.modOwn s n f).chain = s.chain ∧ (State.modOwn s n f).side = s.side ∧ (State.modOwn s n f).jtag = s.jtag ∧ (State.modOwn s n f).peerOk = s.peerOk ∧ (State.modOwn s n f).portA = s.portA ∧ (State.modOwn s n f).portB = s.portB ∧ (State.modOwn s n f).sems = s.sems ∧ (State.modOwn s n f).mbx = s.mbx ∧ (State.modOwn s n f).gov = s.gov ∧ (State.modOwn s n f).err = s.err ∧ (State.modOwn s n f).alarms = s.alarms ∧ (State.modOwn s n f).evr = s.evr ∧ (State.modOwn s n f).traces = s.traces ∧ (State.modOwn s n f).slices = s.slices ∧ (State.modOwn s n f).host = s.host ∧ (State.modOwn s n f).ns = s.ns ∧ (State.modOwn s n f).grinder = s.grinder ∧ (State.modOwn s n f).journal = s.journal ∧ (State.modOwn s n f).mapCache = s.mapCache ∧ (State.modOwn s n f).pools = s.pools ∧ (State.modOwn s n f).kports = s.kports ∧ (State.modOwn s n f).mods = s.mods ∧ (State.modOwn s n f).ldpc = s.ldpc ∧ (State.modOwn s n f).jobs = s.jobs ∧ (State.modOwn s n f).peerState = s.peerState ∧ (State.modOwn s n f).jal = s.jal ∧ (State.modOwn s n f).snaps = s.snaps ∧ (State.modOwn s n f).cluster = s.cluster ∧ (State.modOwn s n f).repls = s.repls ∧ (State.modOwn s n f).cipher = s.cipher ∧ (State.modOwn s n f).net = s.net ∧ (State.modOwn s n f).chans = s.chans ∧ (State.modOwn s n f).fw = s.fw ∧ (State.modOwn s n f).onchip = s.onchip ∧ (State.modOwn s n f).pending = s.pending ∧ (State.modOwn s n f).out = s.out := by
  refine ⟨?_, ?_, ?_, ?_, ?_, ?_, ?_, ?_, ?_, ?_, ?_, ?_, ?_, ?_, ?_, ?_, ?_, ?_, ?_, ?_, ?_, ?_, ?_, ?_, ?_, ?_, ?_, ?_, ?_, ?_, ?_, ?_, ?_, ?_, ?_, ?_, ?_, ?_, ?_, ?_, ?_, ?_, ?_, ?_, ?_, ?_, ?_, ?_, ?_⟩ <;> rfl

theorem update_modOwn_carafe (s : State) (n : Nat) (f : Desc → Desc) : (State.modOwn s n f).carafe = { s.carafe with own := Tbl.upd s.carafe.own n f } := rfl

@[simp] theorem update_modSif (s : State) (q : Nat) (f : Sif → Sif) :
    (State.modSif s q f).time = s.time ∧ (State.modSif s q f).freeCtr = s.freeCtr ∧ (State.modSif s q f).phase = s.phase ∧ (State.modSif s q f).aon = s.aon ∧ (State.modSif s q f).cond = s.cond ∧ (State.modSif s q f).pins = s.pins ∧ (State.modSif s q f).power = s.power ∧ (State.modSif s q f).phys = s.phys ∧ (State.modSif s q f).flush = s.flush ∧ (State.modSif s q f).nor = s.nor ∧ (State.modSif s q f).boot = s.boot ∧ (State.modSif s q f).fuses = s.fuses ∧ (State.modSif s q f).trust = s.trust ∧ (State.modSif s q f).chain = s.chain ∧ (State.modSif s q f).side = s.side ∧ (State.modSif s q f).jtag = s.jtag ∧ (State.modSif s q f).peerOk = s.peerOk ∧ (State.modSif s q f).portA = s.portA ∧ (State.modSif s q f).portB = s.portB ∧ (State.modSif s q f).sems = s.sems ∧ (State.modSif s q f).mbx = s.mbx ∧ (State.modSif s q f).gov = s.gov ∧ (State.modSif s q f).err = s.err ∧ (State.modSif s q f).alarms = s.alarms ∧ (State.modSif s q f).evr = s.evr ∧ (State.modSif s q f).traces = s.traces ∧ (State.modSif s q f).slices = s.slices ∧ (State.modSif s q f).host = s.host ∧ (State.modSif s q f).ns = s.ns ∧ (State.modSif s q f).grinder = s.grinder ∧ (State.modSif s q f).journal = s.journal ∧ (State.modSif s q f).mapCache = s.mapCache ∧ (State.modSif s q f).pools = s.pools ∧ (State.modSif s q f).kports = s.kports ∧ (State.modSif s q f).mods = s.mods ∧ (State.modSif s q f).ldpc = s.ldpc ∧ (State.modSif s q f).jobs = s.jobs ∧ (State.modSif s q f).peerState = s.peerState ∧ (State.modSif s q f).jal = s.jal ∧ (State.modSif s q f).snaps = s.snaps ∧ (State.modSif s q f).cluster = s.cluster ∧ (State.modSif s q f).repls = s.repls ∧ (State.modSif s q f).cipher = s.cipher ∧ (State.modSif s q f).net = s.net ∧ (State.modSif s q f).chans = s.chans ∧ (State.modSif s q f).fw = s.fw ∧ (State.modSif s q f).onchip = s.onchip ∧ (State.modSif s q f).pending = s.pending ∧ (State.modSif s q f).out = s.out := by
  refine ⟨?_, ?_, ?_, ?_, ?_, ?_, ?_, ?_, ?_, ?_, ?_, ?_, ?_, ?_, ?_, ?_, ?_, ?_, ?_, ?_, ?_, ?_, ?_, ?_, ?_, ?_, ?_, ?_, ?_, ?_, ?_, ?_, ?_, ?_, ?_, ?_, ?_, ?_, ?_, ?_, ?_, ?_, ?_, ?_, ?_, ?_, ?_, ?_, ?_⟩ <;> rfl

theorem update_modSif_carafe (s : State) (q : Nat) (f : Sif → Sif) : (State.modSif s q f).carafe = { s.carafe with sif := Tbl.upd s.carafe.sif q f } := rfl

@[simp] theorem update_modAct (s : State) (a : Nat) (f : GovAct → GovAct) :
    (State.modAct s a f).time = s.time ∧ (State.modAct s a f).freeCtr = s.freeCtr ∧ (State.modAct s a f).phase = s.phase ∧ (State.modAct s a f).aon = s.aon ∧ (State.modAct s a f).cond = s.cond ∧ (State.modAct s a f).pins = s.pins ∧ (State.modAct s a f).power = s.power ∧ (State.modAct s a f).phys = s.phys ∧ (State.modAct s a f).flush = s.flush ∧ (State.modAct s a f).nor = s.nor ∧ (State.modAct s a f).boot = s.boot ∧ (State.modAct s a f).fuses = s.fuses ∧ (State.modAct s a f).trust = s.trust ∧ (State.modAct s a f).chain = s.chain ∧ (State.modAct s a f).side = s.side ∧ (State.modAct s a f).jtag = s.jtag ∧ (State.modAct s a f).peerOk = s.peerOk ∧ (State.modAct s a f).portA = s.portA ∧ (State.modAct s a f).portB = s.portB ∧ (State.modAct s a f).sems = s.sems ∧ (State.modAct s a f).mbx = s.mbx ∧ (State.modAct s a f).err = s.err ∧ (State.modAct s a f).alarms = s.alarms ∧ (State.modAct s a f).evr = s.evr ∧ (State.modAct s a f).traces = s.traces ∧ (State.modAct s a f).slices = s.slices ∧ (State.modAct s a f).host = s.host ∧ (State.modAct s a f).ns = s.ns ∧ (State.modAct s a f).grinder = s.grinder ∧ (State.modAct s a f).carafe = s.carafe ∧ (State.modAct s a f).journal = s.journal ∧ (State.modAct s a f).mapCache = s.mapCache ∧ (State.modAct s a f).pools = s.pools ∧ (State.modAct s a f).kports = s.kports ∧ (State.modAct s a f).mods = s.mods ∧ (State.modAct s a f).ldpc = s.ldpc ∧ (State.modAct s a f).jobs = s.jobs ∧ (State.modAct s a f).peerState = s.peerState ∧ (State.modAct s a f).jal = s.jal ∧ (State.modAct s a f).snaps = s.snaps ∧ (State.modAct s a f).cluster = s.cluster ∧ (State.modAct s a f).repls = s.repls ∧ (State.modAct s a f).cipher = s.cipher ∧ (State.modAct s a f).net = s.net ∧ (State.modAct s a f).chans = s.chans ∧ (State.modAct s a f).fw = s.fw ∧ (State.modAct s a f).onchip = s.onchip ∧ (State.modAct s a f).pending = s.pending ∧ (State.modAct s a f).out = s.out := by
  refine ⟨?_, ?_, ?_, ?_, ?_, ?_, ?_, ?_, ?_, ?_, ?_, ?_, ?_, ?_, ?_, ?_, ?_, ?_, ?_, ?_, ?_, ?_, ?_, ?_, ?_, ?_, ?_, ?_, ?_, ?_, ?_, ?_, ?_, ?_, ?_, ?_, ?_, ?_, ?_, ?_, ?_, ?_, ?_, ?_, ?_, ?_, ?_, ?_, ?_⟩ <;> rfl

theorem update_modAct_gov (s : State) (a : Nat) (f : GovAct → GovAct) : (State.modAct s a f).gov = { s.gov with acts := s.gov.acts.modify a f } := rfl

@[simp] theorem update_ciph (s : State) (f : Cipher → Cipher) :
    (State.ciph s f).time = s.time ∧ (State.ciph s f).freeCtr = s.freeCtr ∧ (State.ciph s f).phase = s.phase ∧ (State.ciph s f).aon = s.aon ∧ (State.ciph s f).cond = s.cond ∧ (State.ciph s f).pins = s.pins ∧ (State.ciph s f).power = s.power ∧ (State.ciph s f).phys = s.phys ∧ (State.ciph s f).flush = s.flush ∧ (State.ciph s f).nor = s.nor ∧ (State.ciph s f).boot = s.boot ∧ (State.ciph s f).fuses = s.fuses ∧ (State.ciph s f).trust = s.trust ∧ (State.ciph s f).chain = s.chain ∧ (State.ciph s f).side = s.side ∧ (State.ciph s f).jtag = s.jtag ∧ (State.ciph s f).peerOk = s.peerOk ∧ (State.ciph s f).portA = s.portA ∧ (State.ciph s f).portB = s.portB ∧ (State.ciph s f).sems = s.sems ∧ (State.ciph s f).mbx = s.mbx ∧ (State.ciph s f).gov = s.gov ∧ (State.ciph s f).err = s.err ∧ (State.ciph s f).alarms = s.alarms ∧ (State.ciph s f).evr = s.evr ∧ (State.ciph s f).traces = s.traces ∧ (State.ciph s f).slices = s.slices ∧ (State.ciph s f).host = s.host ∧ (State.ciph s f).ns = s.ns ∧ (State.ciph s f).grinder = s.grinder ∧ (State.ciph s f).carafe = s.carafe ∧ (State.ciph s f).journal = s.journal ∧ (State.ciph s f).mapCache = s.mapCache ∧ (State.ciph s f).pools = s.pools ∧ (State.ciph s f).kports = s.kports ∧ (State.ciph s f).mods = s.mods ∧ (State.ciph s f).ldpc = s.ldpc ∧ (State.ciph s f).jobs = s.jobs ∧ (State.ciph s f).peerState = s.peerState ∧ (State.ciph s f).jal = s.jal ∧ (State.ciph s f).snaps = s.snaps ∧ (State.ciph s f).cluster = s.cluster ∧ (State.ciph s f).repls = s.repls ∧ (State.ciph s f).net = s.net ∧ (State.ciph s f).chans = s.chans ∧ (State.ciph s f).fw = s.fw ∧ (State.ciph s f).onchip = s.onchip ∧ (State.ciph s f).pending = s.pending ∧ (State.ciph s f).out = s.out := by
  refine ⟨?_, ?_, ?_, ?_, ?_, ?_, ?_, ?_, ?_, ?_, ?_, ?_, ?_, ?_, ?_, ?_, ?_, ?_, ?_, ?_, ?_, ?_, ?_, ?_, ?_, ?_, ?_, ?_, ?_, ?_, ?_, ?_, ?_, ?_, ?_, ?_, ?_, ?_, ?_, ?_, ?_, ?_, ?_, ?_, ?_, ?_, ?_, ?_, ?_⟩ <;> rfl

theorem update_ciph_cipher (s : State) (f : Cipher → Cipher) : (State.ciph s f).cipher = f s.cipher := rfl

@[simp] theorem update_clu (s : State) (f : Cluster → Cluster) :
    (State.clu s f).time = s.time ∧ (State.clu s f).freeCtr = s.freeCtr ∧ (State.clu s f).phase = s.phase ∧ (State.clu s f).aon = s.aon ∧ (State.clu s f).cond = s.cond ∧ (State.clu s f).pins = s.pins ∧ (State.clu s f).power = s.power ∧ (State.clu s f).phys = s.phys ∧ (State.clu s f).flush = s.flush ∧ (State.clu s f).nor = s.nor ∧ (State.clu s f).boot = s.boot ∧ (State.clu s f).fuses = s.fuses ∧ (State.clu s f).trust = s.trust ∧ (State.clu s f).chain = s.chain ∧ (State.clu s f).side = s.side ∧ (State.clu s f).jtag = s.jtag ∧ (State.clu s f).peerOk = s.peerOk ∧ (State.clu s f).portA = s.portA ∧ (State.clu s f).portB = s.portB ∧ (State.clu s f).sems = s.sems ∧ (State.clu s f).mbx = s.mbx ∧ (State.clu s f).gov = s.gov ∧ (State.clu s f).err = s.err ∧ (State.clu s f).alarms = s.alarms ∧ (State.clu s f).evr = s.evr ∧ (State.clu s f).traces = s.traces ∧ (State.clu s f).slices = s.slices ∧ (State.clu s f).host = s.host ∧ (State.clu s f).ns = s.ns ∧ (State.clu s f).grinder = s.grinder ∧ (State.clu s f).carafe = s.carafe ∧ (State.clu s f).journal = s.journal ∧ (State.clu s f).mapCache = s.mapCache ∧ (State.clu s f).pools = s.pools ∧ (State.clu s f).kports = s.kports ∧ (State.clu s f).mods = s.mods ∧ (State.clu s f).ldpc = s.ldpc ∧ (State.clu s f).jobs = s.jobs ∧ (State.clu s f).peerState = s.peerState ∧ (State.clu s f).jal = s.jal ∧ (State.clu s f).snaps = s.snaps ∧ (State.clu s f).repls = s.repls ∧ (State.clu s f).cipher = s.cipher ∧ (State.clu s f).net = s.net ∧ (State.clu s f).chans = s.chans ∧ (State.clu s f).fw = s.fw ∧ (State.clu s f).onchip = s.onchip ∧ (State.clu s f).pending = s.pending ∧ (State.clu s f).out = s.out := by
  refine ⟨?_, ?_, ?_, ?_, ?_, ?_, ?_, ?_, ?_, ?_, ?_, ?_, ?_, ?_, ?_, ?_, ?_, ?_, ?_, ?_, ?_, ?_, ?_, ?_, ?_, ?_, ?_, ?_, ?_, ?_, ?_, ?_, ?_, ?_, ?_, ?_, ?_, ?_, ?_, ?_, ?_, ?_, ?_, ?_, ?_, ?_, ?_, ?_, ?_⟩ <;> rfl

theorem update_clu_cluster (s : State) (f : Cluster → Cluster) : (State.clu s f).cluster = f s.cluster := rfl

@[simp] theorem update_modRepl (s : State) (r : Nat) (f : Repl → Repl) :
    (State.modRepl s r f).time = s.time ∧ (State.modRepl s r f).freeCtr = s.freeCtr ∧ (State.modRepl s r f).phase = s.phase ∧ (State.modRepl s r f).aon = s.aon ∧ (State.modRepl s r f).cond = s.cond ∧ (State.modRepl s r f).pins = s.pins ∧ (State.modRepl s r f).power = s.power ∧ (State.modRepl s r f).phys = s.phys ∧ (State.modRepl s r f).flush = s.flush ∧ (State.modRepl s r f).nor = s.nor ∧ (State.modRepl s r f).boot = s.boot ∧ (State.modRepl s r f).fuses = s.fuses ∧ (State.modRepl s r f).trust = s.trust ∧ (State.modRepl s r f).chain = s.chain ∧ (State.modRepl s r f).side = s.side ∧ (State.modRepl s r f).jtag = s.jtag ∧ (State.modRepl s r f).peerOk = s.peerOk ∧ (State.modRepl s r f).portA = s.portA ∧ (State.modRepl s r f).portB = s.portB ∧ (State.modRepl s r f).sems = s.sems ∧ (State.modRepl s r f).mbx = s.mbx ∧ (State.modRepl s r f).gov = s.gov ∧ (State.modRepl s r f).err = s.err ∧ (State.modRepl s r f).alarms = s.alarms ∧ (State.modRepl s r f).evr = s.evr ∧ (State.modRepl s r f).traces = s.traces ∧ (State.modRepl s r f).slices = s.slices ∧ (State.modRepl s r f).host = s.host ∧ (State.modRepl s r f).ns = s.ns ∧ (State.modRepl s r f).grinder = s.grinder ∧ (State.modRepl s r f).carafe = s.carafe ∧ (State.modRepl s r f).journal = s.journal ∧ (State.modRepl s r f).mapCache = s.mapCache ∧ (State.modRepl s r f).pools = s.pools ∧ (State.modRepl s r f).kports = s.kports ∧ (State.modRepl s r f).mods = s.mods ∧ (State.modRepl s r f).ldpc = s.ldpc ∧ (State.modRepl s r f).jobs = s.jobs ∧ (State.modRepl s r f).peerState = s.peerState ∧ (State.modRepl s r f).jal = s.jal ∧ (State.modRepl s r f).snaps = s.snaps ∧ (State.modRepl s r f).cluster = s.cluster ∧ (State.modRepl s r f).cipher = s.cipher ∧ (State.modRepl s r f).net = s.net ∧ (State.modRepl s r f).chans = s.chans ∧ (State.modRepl s r f).fw = s.fw ∧ (State.modRepl s r f).onchip = s.onchip ∧ (State.modRepl s r f).pending = s.pending ∧ (State.modRepl s r f).out = s.out := by
  refine ⟨?_, ?_, ?_, ?_, ?_, ?_, ?_, ?_, ?_, ?_, ?_, ?_, ?_, ?_, ?_, ?_, ?_, ?_, ?_, ?_, ?_, ?_, ?_, ?_, ?_, ?_, ?_, ?_, ?_, ?_, ?_, ?_, ?_, ?_, ?_, ?_, ?_, ?_, ?_, ?_, ?_, ?_, ?_, ?_, ?_, ?_, ?_, ?_, ?_⟩ <;> rfl

theorem update_modRepl_repls (s : State) (r : Nat) (f : Repl → Repl) : (State.modRepl s r f).repls = Tbl.upd s.repls r f := rfl

@[simp] theorem update_modUnit (s : State) (k : Nat) (f : UnitRec → UnitRec) :
    (State.modUnit s k f).time = s.time ∧ (State.modUnit s k f).freeCtr = s.freeCtr ∧ (State.modUnit s k f).phase = s.phase ∧ (State.modUnit s k f).aon = s.aon ∧ (State.modUnit s k f).cond = s.cond ∧ (State.modUnit s k f).pins = s.pins ∧ (State.modUnit s k f).power = s.power ∧ (State.modUnit s k f).phys = s.phys ∧ (State.modUnit s k f).flush = s.flush ∧ (State.modUnit s k f).nor = s.nor ∧ (State.modUnit s k f).boot = s.boot ∧ (State.modUnit s k f).fuses = s.fuses ∧ (State.modUnit s k f).trust = s.trust ∧ (State.modUnit s k f).chain = s.chain ∧ (State.modUnit s k f).side = s.side ∧ (State.modUnit s k f).jtag = s.jtag ∧ (State.modUnit s k f).peerOk = s.peerOk ∧ (State.modUnit s k f).portA = s.portA ∧ (State.modUnit s k f).portB = s.portB ∧ (State.modUnit s k f).sems = s.sems ∧ (State.modUnit s k f).mbx = s.mbx ∧ (State.modUnit s k f).gov = s.gov ∧ (State.modUnit s k f).err = s.err ∧ (State.modUnit s k f).alarms = s.alarms ∧ (State.modUnit s k f).evr = s.evr ∧ (State.modUnit s k f).traces = s.traces ∧ (State.modUnit s k f).slices = s.slices ∧ (State.modUnit s k f).host = s.host ∧ (State.modUnit s k f).ns = s.ns ∧ (State.modUnit s k f).carafe = s.carafe ∧ (State.modUnit s k f).journal = s.journal ∧ (State.modUnit s k f).mapCache = s.mapCache ∧ (State.modUnit s k f).pools = s.pools ∧ (State.modUnit s k f).kports = s.kports ∧ (State.modUnit s k f).mods = s.mods ∧ (State.modUnit s k f).ldpc = s.ldpc ∧ (State.modUnit s k f).jobs = s.jobs ∧ (State.modUnit s k f).peerState = s.peerState ∧ (State.modUnit s k f).jal = s.jal ∧ (State.modUnit s k f).snaps = s.snaps ∧ (State.modUnit s k f).cluster = s.cluster ∧ (State.modUnit s k f).repls = s.repls ∧ (State.modUnit s k f).cipher = s.cipher ∧ (State.modUnit s k f).net = s.net ∧ (State.modUnit s k f).chans = s.chans ∧ (State.modUnit s k f).fw = s.fw ∧ (State.modUnit s k f).onchip = s.onchip ∧ (State.modUnit s k f).pending = s.pending ∧ (State.modUnit s k f).out = s.out := by
  refine ⟨?_, ?_, ?_, ?_, ?_, ?_, ?_, ?_, ?_, ?_, ?_, ?_, ?_, ?_, ?_, ?_, ?_, ?_, ?_, ?_, ?_, ?_, ?_, ?_, ?_, ?_, ?_, ?_, ?_, ?_, ?_, ?_, ?_, ?_, ?_, ?_, ?_, ?_, ?_, ?_, ?_, ?_, ?_, ?_, ?_, ?_, ?_, ?_, ?_⟩ <;> rfl

theorem update_modUnit_grinder (s : State) (k : Nat) (f : UnitRec → UnitRec) : (State.modUnit s k f).grinder = { s.grinder with units := Tbl.upd s.grinder.units k f } := rfl

@[simp] theorem update_caraf (s : State) (f : Carafe → Carafe) :
    (State.caraf s f).time = s.time ∧ (State.caraf s f).freeCtr = s.freeCtr ∧ (State.caraf s f).phase = s.phase ∧ (State.caraf s f).aon = s.aon ∧ (State.caraf s f).cond = s.cond ∧ (State.caraf s f).pins = s.pins ∧ (State.caraf s f).power = s.power ∧ (State.caraf s f).phys = s.phys ∧ (State.caraf s f).flush = s.flush ∧ (State.caraf s f).nor = s.nor ∧ (State.caraf s f).boot = s.boot ∧ (State.caraf s f).fuses = s.fuses ∧ (State.caraf s f).trust = s.trust ∧ (State.caraf s f).chain = s.chain ∧ (State.caraf s f).side = s.side ∧ (State.caraf s f).jtag = s.jtag ∧ (State.caraf s f).peerOk = s.peerOk ∧ (State.caraf s f).portA = s.portA ∧ (State.caraf s f).portB = s.portB ∧ (State.caraf s f).sems = s.sems ∧ (State.caraf s f).mbx = s.mbx ∧ (State.caraf s f).gov = s.gov ∧ (State.caraf s f).err = s.err ∧ (State.caraf s f).alarms = s.alarms ∧ (State.caraf s f).evr = s.evr ∧ (State.caraf s f).traces = s.traces ∧ (State.caraf s f).slices = s.slices ∧ (State.caraf s f).host = s.host ∧ (State.caraf s f).ns = s.ns ∧ (State.caraf s f).grinder = s.grinder ∧ (State.caraf s f).journal = s.journal ∧ (State.caraf s f).mapCache = s.mapCache ∧ (State.caraf s f).pools = s.pools ∧ (State.caraf s f).kports = s.kports ∧ (State.caraf s f).mods = s.mods ∧ (State.caraf s f).ldpc = s.ldpc ∧ (State.caraf s f).jobs = s.jobs ∧ (State.caraf s f).peerState = s.peerState ∧ (State.caraf s f).jal = s.jal ∧ (State.caraf s f).snaps = s.snaps ∧ (State.caraf s f).cluster = s.cluster ∧ (State.caraf s f).repls = s.repls ∧ (State.caraf s f).cipher = s.cipher ∧ (State.caraf s f).net = s.net ∧ (State.caraf s f).chans = s.chans ∧ (State.caraf s f).fw = s.fw ∧ (State.caraf s f).onchip = s.onchip ∧ (State.caraf s f).pending = s.pending ∧ (State.caraf s f).out = s.out := by
  refine ⟨?_, ?_, ?_, ?_, ?_, ?_, ?_, ?_, ?_, ?_, ?_, ?_, ?_, ?_, ?_, ?_, ?_, ?_, ?_, ?_, ?_, ?_, ?_, ?_, ?_, ?_, ?_, ?_, ?_, ?_, ?_, ?_, ?_, ?_, ?_, ?_, ?_, ?_, ?_, ?_, ?_, ?_, ?_, ?_, ?_, ?_, ?_, ?_, ?_⟩ <;> rfl

theorem update_caraf_carafe (s : State) (f : Carafe → Carafe) : (State.caraf s f).carafe = f s.carafe := rfl

@[simp] theorem update_grind (s : State) (f : Grinder → Grinder) :
    (State.grind s f).time = s.time ∧ (State.grind s f).freeCtr = s.freeCtr ∧ (State.grind s f).phase = s.phase ∧ (State.grind s f).aon = s.aon ∧ (State.grind s f).cond = s.cond ∧ (State.grind s f).pins = s.pins ∧ (State.grind s f).power = s.power ∧ (State.grind s f).phys = s.phys ∧ (State.grind s f).flush = s.flush ∧ (State.grind s f).nor = s.nor ∧ (State.grind s f).boot = s.boot ∧ (State.grind s f).fuses = s.fuses ∧ (State.grind s f).trust = s.trust ∧ (State.grind s f).chain = s.chain ∧ (State.grind s f).side = s.side ∧ (State.grind s f).jtag = s.jtag ∧ (State.grind s f).peerOk = s.peerOk ∧ (State.grind s f).portA = s.portA ∧ (State.grind s f).portB = s.portB ∧ (State.grind s f).sems = s.sems ∧ (State.grind s f).mbx = s.mbx ∧ (State.grind s f).gov = s.gov ∧ (State.grind s f).err = s.err ∧ (State.grind s f).alarms = s.alarms ∧ (State.grind s f).evr = s.evr ∧ (State.grind s f).traces = s.traces ∧ (State.grind s f).slices = s.slices ∧ (State.grind s f).host = s.host ∧ (State.grind s f).ns = s.ns ∧ (State.grind s f).carafe = s.carafe ∧ (State.grind s f).journal = s.journal ∧ (State.grind s f).mapCache = s.mapCache ∧ (State.grind s f).pools = s.pools ∧ (State.grind s f).kports = s.kports ∧ (State.grind s f).mods = s.mods ∧ (State.grind s f).ldpc = s.ldpc ∧ (State.grind s f).jobs = s.jobs ∧ (State.grind s f).peerState = s.peerState ∧ (State.grind s f).jal = s.jal ∧ (State.grind s f).snaps = s.snaps ∧ (State.grind s f).cluster = s.cluster ∧ (State.grind s f).repls = s.repls ∧ (State.grind s f).cipher = s.cipher ∧ (State.grind s f).net = s.net ∧ (State.grind s f).chans = s.chans ∧ (State.grind s f).fw = s.fw ∧ (State.grind s f).onchip = s.onchip ∧ (State.grind s f).pending = s.pending ∧ (State.grind s f).out = s.out := by
  refine ⟨?_, ?_, ?_, ?_, ?_, ?_, ?_, ?_, ?_, ?_, ?_, ?_, ?_, ?_, ?_, ?_, ?_, ?_, ?_, ?_, ?_, ?_, ?_, ?_, ?_, ?_, ?_, ?_, ?_, ?_, ?_, ?_, ?_, ?_, ?_, ?_, ?_, ?_, ?_, ?_, ?_, ?_, ?_, ?_, ?_, ?_, ?_, ?_, ?_⟩ <;> rfl

theorem update_grind_grinder (s : State) (f : Grinder → Grinder) : (State.grind s f).grinder = f s.grinder := rfl

@[simp] theorem update_modChan (s : State) (n : Nat) (f : Chan → Chan) :
    (State.modChan s n f).time = s.time ∧ (State.modChan s n f).freeCtr = s.freeCtr ∧ (State.modChan s n f).phase = s.phase ∧ (State.modChan s n f).aon = s.aon ∧ (State.modChan s n f).cond = s.cond ∧ (State.modChan s n f).pins = s.pins ∧ (State.modChan s n f).power = s.power ∧ (State.modChan s n f).phys = s.phys ∧ (State.modChan s n f).flush = s.flush ∧ (State.modChan s n f).nor = s.nor ∧ (State.modChan s n f).boot = s.boot ∧ (State.modChan s n f).fuses = s.fuses ∧ (State.modChan s n f).trust = s.trust ∧ (State.modChan s n f).chain = s.chain ∧ (State.modChan s n f).side = s.side ∧ (State.modChan s n f).jtag = s.jtag ∧ (State.modChan s n f).peerOk = s.peerOk ∧ (State.modChan s n f).portA = s.portA ∧ (State.modChan s n f).portB = s.portB ∧ (State.modChan s n f).sems = s.sems ∧ (State.modChan s n f).mbx = s.mbx ∧ (State.modChan s n f).gov = s.gov ∧ (State.modChan s n f).err = s.err ∧ (State.modChan s n f).alarms = s.alarms ∧ (State.modChan s n f).evr = s.evr ∧ (State.modChan s n f).traces = s.traces ∧ (State.modChan s n f).slices = s.slices ∧ (State.modChan s n f).host = s.host ∧ (State.modChan s n f).ns = s.ns ∧ (State.modChan s n f).grinder = s.grinder ∧ (State.modChan s n f).carafe = s.carafe ∧ (State.modChan s n f).journal = s.journal ∧ (State.modChan s n f).mapCache = s.mapCache ∧ (State.modChan s n f).pools = s.pools ∧ (State.modChan s n f).kports = s.kports ∧ (State.modChan s n f).mods = s.mods ∧ (State.modChan s n f).ldpc = s.ldpc ∧ (State.modChan s n f).jobs = s.jobs ∧ (State.modChan s n f).peerState = s.peerState ∧ (State.modChan s n f).jal = s.jal ∧ (State.modChan s n f).snaps = s.snaps ∧ (State.modChan s n f).cluster = s.cluster ∧ (State.modChan s n f).repls = s.repls ∧ (State.modChan s n f).cipher = s.cipher ∧ (State.modChan s n f).net = s.net ∧ (State.modChan s n f).fw = s.fw ∧ (State.modChan s n f).onchip = s.onchip ∧ (State.modChan s n f).pending = s.pending ∧ (State.modChan s n f).out = s.out := by
  refine ⟨?_, ?_, ?_, ?_, ?_, ?_, ?_, ?_, ?_, ?_, ?_, ?_, ?_, ?_, ?_, ?_, ?_, ?_, ?_, ?_, ?_, ?_, ?_, ?_, ?_, ?_, ?_, ?_, ?_, ?_, ?_, ?_, ?_, ?_, ?_, ?_, ?_, ?_, ?_, ?_, ?_, ?_, ?_, ?_, ?_, ?_, ?_, ?_, ?_⟩ <;> rfl

theorem update_modChan_chans (s : State) (n : Nat) (f : Chan → Chan) : (State.modChan s n f).chans = Tbl.set s.chans n (f (s.chan n)) := rfl

@[simp] theorem update_dropDone (d : MDone) (s : State) :
    (dropDone d s).time = s.time ∧ (dropDone d s).freeCtr = s.freeCtr ∧ (dropDone d s).phase = s.phase ∧ (dropDone d s).aon = s.aon ∧ (dropDone d s).cond = s.cond ∧ (dropDone d s).pins = s.pins ∧ (dropDone d s).power = s.power ∧ (dropDone d s).phys = s.phys ∧ (dropDone d s).flush = s.flush ∧ (dropDone d s).nor = s.nor ∧ (dropDone d s).boot = s.boot ∧ (dropDone d s).fuses = s.fuses ∧ (dropDone d s).trust = s.trust ∧ (dropDone d s).chain = s.chain ∧ (dropDone d s).side = s.side ∧ (dropDone d s).jtag = s.jtag ∧ (dropDone d s).peerOk = s.peerOk ∧ (dropDone d s).portA = s.portA ∧ (dropDone d s).portB = s.portB ∧ (dropDone d s).sems = s.sems ∧ (dropDone d s).gov = s.gov ∧ (dropDone d s).err = s.err ∧ (dropDone d s).alarms = s.alarms ∧ (dropDone d s).evr = s.evr ∧ (dropDone d s).traces = s.traces ∧ (dropDone d s).slices = s.slices ∧ (dropDone d s).host = s.host ∧ (dropDone d s).ns = s.ns ∧ (dropDone d s).grinder = s.grinder ∧ (dropDone d s).carafe = s.carafe ∧ (dropDone d s).journal = s.journal ∧ (dropDone d s).mapCache = s.mapCache ∧ (dropDone d s).pools = s.pools ∧ (dropDone d s).kports = s.kports ∧ (dropDone d s).mods = s.mods ∧ (dropDone d s).ldpc = s.ldpc ∧ (dropDone d s).jobs = s.jobs ∧ (dropDone d s).peerState = s.peerState ∧ (dropDone d s).jal = s.jal ∧ (dropDone d s).snaps = s.snaps ∧ (dropDone d s).cluster = s.cluster ∧ (dropDone d s).repls = s.repls ∧ (dropDone d s).cipher = s.cipher ∧ (dropDone d s).net = s.net ∧ (dropDone d s).chans = s.chans ∧ (dropDone d s).fw = s.fw ∧ (dropDone d s).onchip = s.onchip ∧ (dropDone d s).pending = s.pending ∧ (dropDone d s).out = s.out := by
  refine ⟨?_, ?_, ?_, ?_, ?_, ?_, ?_, ?_, ?_, ?_, ?_, ?_, ?_, ?_, ?_, ?_, ?_, ?_, ?_, ?_, ?_, ?_, ?_, ?_, ?_, ?_, ?_, ?_, ?_, ?_, ?_, ?_, ?_, ?_, ?_, ?_, ?_, ?_, ?_, ?_, ?_, ?_, ?_, ?_, ?_, ?_, ?_, ?_, ?_⟩ <;> rfl

theorem update_dropDone_mbx (d : MDone) (s : State) : (dropDone d s).mbx = { s.mbx with done := s.mbx.done.erase d } := rfl

@[simp] theorem update_setOwner (s : State) (n : Nat) (x : OwnerSlot) :
    (State.setOwner s n x).time = s.time ∧ (State.setOwner s n x).freeCtr = s.freeCtr ∧ (State.setOwner s n x).phase = s.phase ∧ (State.setOwner s n x).aon = s.aon ∧ (State.setOwner s n x).cond = s.cond ∧ (State.setOwner s n x).pins = s.pins ∧ (State.setOwner s n x).power = s.power ∧ (State.setOwner s n x).phys = s.phys ∧ (State.setOwner s n x).flush = s.flush ∧ (State.setOwner s n x).nor = s.nor ∧ (State.setOwner s n x).boot = s.boot ∧ (State.setOwner s n x).trust = s.trust ∧ (State.setOwner s n x).chain = s.chain ∧ (State.setOwner s n x).side = s.side ∧ (State.setOwner s n x).jtag = s.jtag ∧ (State.setOwner s n x).peerOk = s.peerOk ∧ (State.setOwner s n x).portA = s.portA ∧ (State.setOwner s n x).portB = s.portB ∧ (State.setOwner s n x).sems = s.sems ∧ (State.setOwner s n x).mbx = s.mbx ∧ (State.setOwner s n x).gov = s.gov ∧ (State.setOwner s n x).err = s.err ∧ (State.setOwner s n x).alarms = s.alarms ∧ (State.setOwner s n x).evr = s.evr ∧ (State.setOwner s n x).traces = s.traces ∧ (State.setOwner s n x).slices = s.slices ∧ (State.setOwner s n x).host = s.host ∧ (State.setOwner s n x).ns = s.ns ∧ (State.setOwner s n x).grinder = s.grinder ∧ (State.setOwner s n x).carafe = s.carafe ∧ (State.setOwner s n x).journal = s.journal ∧ (State.setOwner s n x).mapCache = s.mapCache ∧ (State.setOwner s n x).pools = s.pools ∧ (State.setOwner s n x).kports = s.kports ∧ (State.setOwner s n x).mods = s.mods ∧ (State.setOwner s n x).ldpc = s.ldpc ∧ (State.setOwner s n x).jobs = s.jobs ∧ (State.setOwner s n x).peerState = s.peerState ∧ (State.setOwner s n x).jal = s.jal ∧ (State.setOwner s n x).snaps = s.snaps ∧ (State.setOwner s n x).cluster = s.cluster ∧ (State.setOwner s n x).repls = s.repls ∧ (State.setOwner s n x).cipher = s.cipher ∧ (State.setOwner s n x).net = s.net ∧ (State.setOwner s n x).chans = s.chans ∧ (State.setOwner s n x).fw = s.fw ∧ (State.setOwner s n x).onchip = s.onchip ∧ (State.setOwner s n x).pending = s.pending ∧ (State.setOwner s n x).out = s.out := by
  refine ⟨?_, ?_, ?_, ?_, ?_, ?_, ?_, ?_, ?_, ?_, ?_, ?_, ?_, ?_, ?_, ?_, ?_, ?_, ?_, ?_, ?_, ?_, ?_, ?_, ?_, ?_, ?_, ?_, ?_, ?_, ?_, ?_, ?_, ?_, ?_, ?_, ?_, ?_, ?_, ?_, ?_, ?_, ?_, ?_, ?_, ?_, ?_, ?_, ?_⟩ <;> rfl

theorem update_setOwner_fuses (s : State) (n : Nat) (x : OwnerSlot) : (State.setOwner s n x).fuses = if n = 0 then { s.fuses with owner0 := x } else if n = 1 then { s.fuses with owner1 := x } else if n = 2 then { s.fuses with owner2 := x } else { s.fuses with owner3 := x } := rfl

@[simp] theorem update_chn (s : State) (f : Chain → Chain) :
    (State.chn s f).time = s.time ∧ (State.chn s f).freeCtr = s.freeCtr ∧ (State.chn s f).phase = s.phase ∧ (State.chn s f).aon = s.aon ∧ (State.chn s f).cond = s.cond ∧ (State.chn s f).pins = s.pins ∧ (State.chn s f).power = s.power ∧ (State.chn s f).phys = s.phys ∧ (State.chn s f).flush = s.flush ∧ (State.chn s f).nor = s.nor ∧ (State.chn s f).boot = s.boot ∧ (State.chn s f).fuses = s.fuses ∧ (State.chn s f).trust = s.trust ∧ (State.chn s f).side = s.side ∧ (State.chn s f).jtag = s.jtag ∧ (State.chn s f).peerOk = s.peerOk ∧ (State.chn s f).portA = s.portA ∧ (State.chn s f).portB = s.portB ∧ (State.chn s f).sems = s.sems ∧ (State.chn s f).mbx = s.mbx ∧ (State.chn s f).gov = s.gov ∧ (State.chn s f).err = s.err ∧ (State.chn s f).alarms = s.alarms ∧ (State.chn s f).evr = s.evr ∧ (State.chn s f).traces = s.traces ∧ (State.chn s f).slices = s.slices ∧ (State.chn s f).host = s.host ∧ (State.chn s f).ns = s.ns ∧ (State.chn s f).grinder = s.grinder ∧ (State.chn s f).carafe = s.carafe ∧ (State.chn s f).journal = s.journal ∧ (State.chn s f).mapCache = s.mapCache ∧ (State.chn s f).pools = s.pools ∧ (State.chn s f).kports = s.kports ∧ (State.chn s f).mods = s.mods ∧ (State.chn s f).ldpc = s.ldpc ∧ (State.chn s f).jobs = s.jobs ∧ (State.chn s f).peerState = s.peerState ∧ (State.chn s f).jal = s.jal ∧ (State.chn s f).snaps = s.snaps ∧ (State.chn s f).cluster = s.cluster ∧ (State.chn s f).repls = s.repls ∧ (State.chn s f).cipher = s.cipher ∧ (State.chn s f).net = s.net ∧ (State.chn s f).chans = s.chans ∧ (State.chn s f).fw = s.fw ∧ (State.chn s f).onchip = s.onchip ∧ (State.chn s f).pending = s.pending ∧ (State.chn s f).out = s.out := by
  refine ⟨?_, ?_, ?_, ?_, ?_, ?_, ?_, ?_, ?_, ?_, ?_, ?_, ?_, ?_, ?_, ?_, ?_, ?_, ?_, ?_, ?_, ?_, ?_, ?_, ?_, ?_, ?_, ?_, ?_, ?_, ?_, ?_, ?_, ?_, ?_, ?_, ?_, ?_, ?_, ?_, ?_, ?_, ?_, ?_, ?_, ?_, ?_, ?_, ?_⟩ <;> rfl

theorem update_chn_chain (s : State) (f : Chain → Chain) : (State.chn s f).chain = f s.chain := rfl

@[simp] theorem update_modFw (s : State) (f : FwUpdate → FwUpdate) :
    (State.modFw s f).time = s.time ∧ (State.modFw s f).freeCtr = s.freeCtr ∧ (State.modFw s f).phase = s.phase ∧ (State.modFw s f).aon = s.aon ∧ (State.modFw s f).cond = s.cond ∧ (State.modFw s f).pins = s.pins ∧ (State.modFw s f).power = s.power ∧ (State.modFw s f).phys = s.phys ∧ (State.modFw s f).flush = s.flush ∧ (State.modFw s f).nor = s.nor ∧ (State.modFw s f).boot = s.boot ∧ (State.modFw s f).fuses = s.fuses ∧ (State.modFw s f).trust = s.trust ∧ (State.modFw s f).chain = s.chain ∧ (State.modFw s f).side = s.side ∧ (State.modFw s f).jtag = s.jtag ∧ (State.modFw s f).peerOk = s.peerOk ∧ (State.modFw s f).portA = s.portA ∧ (State.modFw s f).portB = s.portB ∧ (State.modFw s f).sems = s.sems ∧ (State.modFw s f).mbx = s.mbx ∧ (State.modFw s f).gov = s.gov ∧ (State.modFw s f).err = s.err ∧ (State.modFw s f).alarms = s.alarms ∧ (State.modFw s f).evr = s.evr ∧ (State.modFw s f).traces = s.traces ∧ (State.modFw s f).slices = s.slices ∧ (State.modFw s f).host = s.host ∧ (State.modFw s f).ns = s.ns ∧ (State.modFw s f).grinder = s.grinder ∧ (State.modFw s f).carafe = s.carafe ∧ (State.modFw s f).journal = s.journal ∧ (State.modFw s f).mapCache = s.mapCache ∧ (State.modFw s f).pools = s.pools ∧ (State.modFw s f).kports = s.kports ∧ (State.modFw s f).mods = s.mods ∧ (State.modFw s f).ldpc = s.ldpc ∧ (State.modFw s f).jobs = s.jobs ∧ (State.modFw s f).peerState = s.peerState ∧ (State.modFw s f).jal = s.jal ∧ (State.modFw s f).snaps = s.snaps ∧ (State.modFw s f).cluster = s.cluster ∧ (State.modFw s f).repls = s.repls ∧ (State.modFw s f).cipher = s.cipher ∧ (State.modFw s f).net = s.net ∧ (State.modFw s f).chans = s.chans ∧ (State.modFw s f).onchip = s.onchip ∧ (State.modFw s f).pending = s.pending ∧ (State.modFw s f).out = s.out := by
  refine ⟨?_, ?_, ?_, ?_, ?_, ?_, ?_, ?_, ?_, ?_, ?_, ?_, ?_, ?_, ?_, ?_, ?_, ?_, ?_, ?_, ?_, ?_, ?_, ?_, ?_, ?_, ?_, ?_, ?_, ?_, ?_, ?_, ?_, ?_, ?_, ?_, ?_, ?_, ?_, ?_, ?_, ?_, ?_, ?_, ?_, ?_, ?_, ?_, ?_⟩ <;> rfl

theorem update_modFw_fw (s : State) (f : FwUpdate → FwUpdate) : (State.modFw s f).fw = f s.fw := rfl

@[simp] theorem update_setPort_a (s : State) (r : PortRegs) :
    (s.setPort .a r).time = s.time ∧ (s.setPort .a r).freeCtr = s.freeCtr ∧ (s.setPort .a r).phase = s.phase ∧ (s.setPort .a r).aon = s.aon ∧ (s.setPort .a r).cond = s.cond ∧ (s.setPort .a r).pins = s.pins ∧ (s.setPort .a r).power = s.power ∧ (s.setPort .a r).phys = s.phys ∧ (s.setPort .a r).flush = s.flush ∧ (s.setPort .a r).nor = s.nor ∧ (s.setPort .a r).boot = s.boot ∧ (s.setPort .a r).fuses = s.fuses ∧ (s.setPort .a r).trust = s.trust ∧ (s.setPort .a r).chain = s.chain ∧ (s.setPort .a r).side = s.side ∧ (s.setPort .a r).jtag = s.jtag ∧ (s.setPort .a r).peerOk = s.peerOk ∧ (s.setPort .a r).portB = s.portB ∧ (s.setPort .a r).sems = s.sems ∧ (s.setPort .a r).mbx = s.mbx ∧ (s.setPort .a r).gov = s.gov ∧ (s.setPort .a r).err = s.err ∧ (s.setPort .a r).alarms = s.alarms ∧ (s.setPort .a r).evr = s.evr ∧ (s.setPort .a r).traces = s.traces ∧ (s.setPort .a r).slices = s.slices ∧ (s.setPort .a r).host = s.host ∧ (s.setPort .a r).ns = s.ns ∧ (s.setPort .a r).grinder = s.grinder ∧ (s.setPort .a r).carafe = s.carafe ∧ (s.setPort .a r).journal = s.journal ∧ (s.setPort .a r).mapCache = s.mapCache ∧ (s.setPort .a r).pools = s.pools ∧ (s.setPort .a r).kports = s.kports ∧ (s.setPort .a r).mods = s.mods ∧ (s.setPort .a r).ldpc = s.ldpc ∧ (s.setPort .a r).jobs = s.jobs ∧ (s.setPort .a r).peerState = s.peerState ∧ (s.setPort .a r).jal = s.jal ∧ (s.setPort .a r).snaps = s.snaps ∧ (s.setPort .a r).cluster = s.cluster ∧ (s.setPort .a r).repls = s.repls ∧ (s.setPort .a r).cipher = s.cipher ∧ (s.setPort .a r).net = s.net ∧ (s.setPort .a r).chans = s.chans ∧ (s.setPort .a r).fw = s.fw ∧ (s.setPort .a r).onchip = s.onchip ∧ (s.setPort .a r).pending = s.pending ∧ (s.setPort .a r).out = s.out := by
  refine ⟨?_, ?_, ?_, ?_, ?_, ?_, ?_, ?_, ?_, ?_, ?_, ?_, ?_, ?_, ?_, ?_, ?_, ?_, ?_, ?_, ?_, ?_, ?_, ?_, ?_, ?_, ?_, ?_, ?_, ?_, ?_, ?_, ?_, ?_, ?_, ?_, ?_, ?_, ?_, ?_, ?_, ?_, ?_, ?_, ?_, ?_, ?_, ?_, ?_⟩ <;> rfl

@[simp] theorem update_setPort_b (s : State) (r : PortRegs) :
    (s.setPort .b r).time = s.time ∧ (s.setPort .b r).freeCtr = s.freeCtr ∧ (s.setPort .b r).phase = s.phase ∧ (s.setPort .b r).aon = s.aon ∧ (s.setPort .b r).cond = s.cond ∧ (s.setPort .b r).pins = s.pins ∧ (s.setPort .b r).power = s.power ∧ (s.setPort .b r).phys = s.phys ∧ (s.setPort .b r).flush = s.flush ∧ (s.setPort .b r).nor = s.nor ∧ (s.setPort .b r).boot = s.boot ∧ (s.setPort .b r).fuses = s.fuses ∧ (s.setPort .b r).trust = s.trust ∧ (s.setPort .b r).chain = s.chain ∧ (s.setPort .b r).side = s.side ∧ (s.setPort .b r).jtag = s.jtag ∧ (s.setPort .b r).peerOk = s.peerOk ∧ (s.setPort .b r).portA = s.portA ∧ (s.setPort .b r).sems = s.sems ∧ (s.setPort .b r).mbx = s.mbx ∧ (s.setPort .b r).gov = s.gov ∧ (s.setPort .b r).err = s.err ∧ (s.setPort .b r).alarms = s.alarms ∧ (s.setPort .b r).evr = s.evr ∧ (s.setPort .b r).traces = s.traces ∧ (s.setPort .b r).slices = s.slices ∧ (s.setPort .b r).host = s.host ∧ (s.setPort .b r).ns = s.ns ∧ (s.setPort .b r).grinder = s.grinder ∧ (s.setPort .b r).carafe = s.carafe ∧ (s.setPort .b r).journal = s.journal ∧ (s.setPort .b r).mapCache = s.mapCache ∧ (s.setPort .b r).pools = s.pools ∧ (s.setPort .b r).kports = s.kports ∧ (s.setPort .b r).mods = s.mods ∧ (s.setPort .b r).ldpc = s.ldpc ∧ (s.setPort .b r).jobs = s.jobs ∧ (s.setPort .b r).peerState = s.peerState ∧ (s.setPort .b r).jal = s.jal ∧ (s.setPort .b r).snaps = s.snaps ∧ (s.setPort .b r).cluster = s.cluster ∧ (s.setPort .b r).repls = s.repls ∧ (s.setPort .b r).cipher = s.cipher ∧ (s.setPort .b r).net = s.net ∧ (s.setPort .b r).chans = s.chans ∧ (s.setPort .b r).fw = s.fw ∧ (s.setPort .b r).onchip = s.onchip ∧ (s.setPort .b r).pending = s.pending ∧ (s.setPort .b r).out = s.out := by
  refine ⟨?_, ?_, ?_, ?_, ?_, ?_, ?_, ?_, ?_, ?_, ?_, ?_, ?_, ?_, ?_, ?_, ?_, ?_, ?_, ?_, ?_, ?_, ?_, ?_, ?_, ?_, ?_, ?_, ?_, ?_, ?_, ?_, ?_, ?_, ?_, ?_, ?_, ?_, ?_, ?_, ?_, ?_, ?_, ?_, ?_, ?_, ?_, ?_, ?_⟩ <;> rfl

@[simp] theorem port_setPort (s : State) (p : Port) (r : PortRegs) : (s.setPort p r).port p = r := by cases p <;> rfl

theorem port_setPort_other (s : State) (p q : Port) (r : PortRegs) (h : q ≠ p) : (s.setPort p r).port q = s.port q := by
  cases p <;> cases q <;> first | rfl | exact absurd rfl h

@[simp] theorem port_modPort (s : State) (p : Port) (f : PortRegs → PortRegs) : (s.modPort p f).port p = f (s.port p) := by cases p <;> rfl

@[simp] theorem update_modPort (s : State) (p : Port) (f : PortRegs → PortRegs) :
    (s.modPort p f).time = s.time ∧ (s.modPort p f).freeCtr = s.freeCtr ∧ (s.modPort p f).phase = s.phase ∧ (s.modPort p f).aon = s.aon ∧ (s.modPort p f).cond = s.cond ∧ (s.modPort p f).pins = s.pins ∧ (s.modPort p f).power = s.power ∧ (s.modPort p f).phys = s.phys ∧ (s.modPort p f).flush = s.flush ∧ (s.modPort p f).nor = s.nor ∧ (s.modPort p f).boot = s.boot ∧ (s.modPort p f).fuses = s.fuses ∧ (s.modPort p f).trust = s.trust ∧ (s.modPort p f).chain = s.chain ∧ (s.modPort p f).side = s.side ∧ (s.modPort p f).jtag = s.jtag ∧ (s.modPort p f).peerOk = s.peerOk ∧ (s.modPort p f).sems = s.sems ∧ (s.modPort p f).mbx = s.mbx ∧ (s.modPort p f).gov = s.gov ∧ (s.modPort p f).err = s.err ∧ (s.modPort p f).alarms = s.alarms ∧ (s.modPort p f).evr = s.evr ∧ (s.modPort p f).traces = s.traces ∧ (s.modPort p f).slices = s.slices ∧ (s.modPort p f).host = s.host ∧ (s.modPort p f).ns = s.ns ∧ (s.modPort p f).grinder = s.grinder ∧ (s.modPort p f).carafe = s.carafe ∧ (s.modPort p f).journal = s.journal ∧ (s.modPort p f).mapCache = s.mapCache ∧ (s.modPort p f).pools = s.pools ∧ (s.modPort p f).kports = s.kports ∧ (s.modPort p f).mods = s.mods ∧ (s.modPort p f).ldpc = s.ldpc ∧ (s.modPort p f).peerState = s.peerState ∧ (s.modPort p f).jal = s.jal ∧ (s.modPort p f).snaps = s.snaps ∧ (s.modPort p f).cluster = s.cluster ∧ (s.modPort p f).repls = s.repls ∧ (s.modPort p f).cipher = s.cipher ∧ (s.modPort p f).net = s.net ∧ (s.modPort p f).chans = s.chans ∧ (s.modPort p f).fw = s.fw ∧ (s.modPort p f).onchip = s.onchip ∧ (s.modPort p f).pending = s.pending ∧ (s.modPort p f).out = s.out := by
  cases p <;> (refine ⟨?_, ?_, ?_, ?_, ?_, ?_, ?_, ?_, ?_, ?_, ?_, ?_, ?_, ?_, ?_, ?_, ?_, ?_, ?_, ?_, ?_, ?_, ?_, ?_, ?_, ?_, ?_, ?_, ?_, ?_, ?_, ?_, ?_, ?_, ?_, ?_, ?_, ?_, ?_, ?_, ?_, ?_, ?_, ?_, ?_, ?_, ?_⟩ <;> rfl)

@[simp] theorem update_taken (c : MCmd) (s : State) :
    (taken c s).time = s.time ∧ (taken c s).freeCtr = s.freeCtr ∧ (taken c s).phase = s.phase ∧ (taken c s).aon = s.aon ∧ (taken c s).cond = s.cond ∧ (taken c s).pins = s.pins ∧ (taken c s).power = s.power ∧ (taken c s).phys = s.phys ∧ (taken c s).flush = s.flush ∧ (taken c s).nor = s.nor ∧ (taken c s).boot = s.boot ∧ (taken c s).fuses = s.fuses ∧ (taken c s).trust = s.trust ∧ (taken c s).chain = s.chain ∧ (taken c s).side = s.side ∧ (taken c s).jtag = s.jtag ∧ (taken c s).peerOk = s.peerOk ∧ (taken c s).portA = s.portA ∧ (taken c s).portB = s.portB ∧ (taken c s).sems = s.sems ∧ (taken c s).gov = s.gov ∧ (taken c s).err = s.err ∧ (taken c s).alarms = s.alarms ∧ (taken c s).evr = s.evr ∧ (taken c s).traces = s.traces ∧ (taken c s).slices = s.slices ∧ (taken c s).host = s.host ∧ (taken c s).ns = s.ns ∧ (taken c s).grinder = s.grinder ∧ (taken c s).carafe = s.carafe ∧ (taken c s).journal = s.journal ∧ (taken c s).mapCache = s.mapCache ∧ (taken c s).pools = s.pools ∧ (taken c s).kports = s.kports ∧ (taken c s).mods = s.mods ∧ (taken c s).ldpc = s.ldpc ∧ (taken c s).jobs = s.jobs ∧ (taken c s).peerState = s.peerState ∧ (taken c s).jal = s.jal ∧ (taken c s).snaps = s.snaps ∧ (taken c s).cluster = s.cluster ∧ (taken c s).repls = s.repls ∧ (taken c s).cipher = s.cipher ∧ (taken c s).net = s.net ∧ (taken c s).chans = s.chans ∧ (taken c s).fw = s.fw ∧ (taken c s).onchip = s.onchip ∧ (taken c s).pending = s.pending ∧ (taken c s).out = s.out := by
  refine ⟨?_, ?_, ?_, ?_, ?_, ?_, ?_, ?_, ?_, ?_, ?_, ?_, ?_, ?_, ?_, ?_, ?_, ?_, ?_, ?_, ?_, ?_, ?_, ?_, ?_, ?_, ?_, ?_, ?_, ?_, ?_, ?_, ?_, ?_, ?_, ?_, ?_, ?_, ?_, ?_, ?_, ?_, ?_, ?_, ?_, ?_, ?_, ?_, ?_⟩ <;> rfl

/-! ## When a wrapper runs its meaning -/

theorem onRun_eq {s : State} {f : State → State} (h : s.phase = .run) : onRun s f = .next (f s) := if_pos h

theorem onLive_eq {s : State} {f : State → State} (h : s.phase = .run ∨ s.phase = .flushing) : onLive s f = .next (f s) := if_pos h

theorem onAon_eq {s : State} {f : State → State} (h : s.phase ≠ .unpowered) : onAon s f = .next (f s) := if_neg h

theorem onSp_eq {s : State} {f : State → State} (h : spRuns s = true) : onSp s f = .next (f s) := if_pos h

theorem onSide_eq {s : State} {f : State → State} (h : spRuns s = true) : onSide s f = .next (f s) := onSp_eq h

/-! ## How a mailbox command that nothing holds back starts -/

theorem startsNow_turn {info : CmdInfo} {h : MbxHdr} {fs : List BodyField} {c : MCmd} {s : State} (hs : startsNow info h fs c s) :
    (!ringTurn c s || (info.sem && !semTurn c s)) = false := by
  obtain ⟨-, -, ht, -, h2⟩ := hs
  cases hi : info.sem with
  | false => simp [ht]
  | true => simp [ht, (h2 hi).2]

theorem startsNow_owner {info : CmdInfo} {h : MbxHdr} {fs : List BodyField} {c : MCmd} {s : State} (hs : startsNow info h fs c s) :
    ¬(info.sem && decide ((s.sem 0).owner ≠ some h.port)) = true := by
  cases hi : info.sem with
  | false => simp
  | true => simp [(hs.2.2.2.2 hi).1]

theorem mbxStartWith_answers {info : CmdInfo} {h : MbxHdr} {fs : List BodyField} {c : MCmd} {body : List Byte → State → Option MReply × State} {s : State}
    (hs : startsNow info h fs c s) {r : MReply} {s2 : State} (hb : body c.body (taken c s) = (some r, s2)) :
    mbxStartWith info h fs body s = mbxAnswer c r s2 := by
  have h1 := startsNow_turn hs
  have h2 := startsNow_owner hs
  obtain ⟨-, hf, -, hr, -⟩ := hs
  simp only [taken] at hb
  simp only [mbxStartWith, hf, h1, hr, hb]
  rw [if_neg (by simp), if_neg h2]

theorem mbxStartWith_goes_on {info : CmdInfo} {h : MbxHdr} {fs : List BodyField} {c : MCmd} {body : List Byte → State → Option MReply × State} {s : State}
    (hs : startsNow info h fs c s) {s2 : State} (hb : body c.body (taken c s) = (none, s2)) :
    mbxStartWith info h fs body s = underWay c info s2 := by
  have h1 := startsNow_turn hs
  have h2 := startsNow_owner hs
  obtain ⟨-, hf, -, hr, -⟩ := hs
  simp only [taken] at hb
  simp only [mbxStartWith, hf, h1, hr, hb]
  rw [if_neg (by simp), if_neg h2]
  rfl

theorem mbxStart_answers {info : CmdInfo} {h : MbxHdr} {fs : List BodyField} {c : MCmd} {body : State → Option MReply × State} {s : State}
    (hs : startsNow info h fs c s) {r : MReply} {s2 : State} (hb : body (taken c s) = (some r, s2)) :
    mbxStart info h fs body s = mbxAnswer c r s2 := mbxStartWith_answers (body := fun _ => body) hs hb

theorem mbxStart_goes_on {info : CmdInfo} {h : MbxHdr} {fs : List BodyField} {c : MCmd} {body : State → Option MReply × State} {s : State}
    (hs : startsNow info h fs c s) {s2 : State} (hb : body (taken c s) = (none, s2)) :
    mbxStart info h fs body s = underWay c info s2 := mbxStartWith_goes_on (body := fun _ => body) hs hb

/-! ## When a message is taken -/

theorem onClu_runs {h : CluHdr} {m : CluMsg} {t : Traffic} {f : State → State} {s : State} (hs : fromMember h m t s) :
    onClu h m f s = f (heard h t s) := by
  obtain ⟨-, h1, h2, h3, h4, h5, h6, h7⟩ := hs
  unfold onClu
  dsimp only
  rw [if_neg (by simp [h1]), if_neg (by simp [h2, h3]), if_neg (by simp [h5]; omega)]
  simp only [h7]
  rfl

theorem onMember_runs {h : CluHdr} {m : CluMsg} {t : Traffic} {f : State → State} {s : State} (hs : fromMember h m t s) :
    onMember h m f s = f (heard h t s) := by
  rw [onMember, onClu_runs hs]
  have h3 : (heard h t s).cluster.member = true := hs.2.2.2.1
  have h4 : Tbl.has (heard h t s).cluster.members h.src = true := hs.2.2.2.2.1
  simp [h3, h4]

theorem onJal_runs {rx : JalRx} {m : JalMsg} {s : State} (hs : fromPeer rx (jalClass m) s) :
    onJal rx m s = jalThen (jalClass m) (jalDeliver m (jalNow rx (jalClass m) s)) := by
  obtain ⟨-, h1, h2, h3⟩ := hs
  simp [onJal, h1, h2, h3, jalHand, jalNow]

theorem onPort_runs {l : Nat} {f : State → State} {s : State} (hs : onLink l s) : onPort l f s = f (frameIn l s) := by
  simp [onPort, hs.2]

theorem roceIn_runs {op : RoceOp} {pk : RocePkt} {q : Qp} {s : State} (hs : atQp pk q s) :
    onPort pk.lport (roceIn op pk) s = roceExecute pk.qp q op pk (qpMet pk q s) := by
  obtain ⟨h0, h1, h2, h3, h4, h5, h6, h7⟩ := hs
  rw [onPort_runs h0]
  have e : Tbl.find (frameIn pk.lport s).net.qps pk.qp = some q := h1
  simp only [roceIn, e, h2, h3, qpArrive, h4, h5, qpJudge, roceJudge, h6, h7]
  simp [qpMet]

theorem adminDo_runs {ctrl : Nat} {c : Ctrl} {f : Ctrl → State → State} {s : State} (hs : adminOn ctrl c s) :
    adminDo ctrl s f = afterAdmin ctrl (f c) s := by
  obtain ⟨-, h1, h2⟩ := hs
  simp only [adminReady, Bool.and_eq_true] at h2
  obtain ⟨⟨h3, h4⟩, h5⟩ := h2
  unfold adminDo afterAdmin adminTaken
  cases hsl : Tbl.find s.slices c.slice with
  | none => simp [hsl] at h4
  | some sl =>
    have h7 : sl.state = .active := by simpa [hsl] using h4
    simp only [h1, h3, hsl, h7]
    cases hq : Tbl.find c.sqs 0 with
    | none => simp [hq] at h5
    | some q =>
      have h6 : q.head ≠ q.tail := by simpa [hq] using h5
      simp [h6]

theorem onSource_runs {h : CluHdr} {m : CluMsg} {t : Traffic} {rel : Nat} {x : Repl} {f : Repl → State → State} {s : State} (hs : fromTarget h m t rel x s) :
    onSource h m rel f s = f x (heard h t s) := by
  obtain ⟨hm, h1, h2, h3, h4⟩ := hs
  have h5 : Tbl.find (heard h t s).repls rel = some x := h1
  rw [onSource, onMember_runs hm]
  simp [h5, h2, h3, h4]

theorem onTarget_runs {h : CluHdr} {m : CluMsg} {t : Traffic} {rel : Nat} {x : Repl} {f : Nat → Repl → State → State} {s : State} (hs : fromSource h m t rel x s) :
    onTarget h m rel f s = f (targetKey h.src rel) x (heard h t s) := by
  obtain ⟨hm, h1, h2, h3⟩ := hs
  have h5 : Tbl.find (heard h t s).repls (targetKey h.src rel) = some x := h1
  rw [onTarget, onMember_runs hm]
  simp [h5, h2, h3]

end Sys2Proof.Machine
end

