-- ==== Sys2Proof/Tests/Base.lean ====
section
/-! SUPPORT. Tests/Base.lean: small states that tests and witnesses start from. -/
namespace Sys2Proof.Tests
open Sys2Proof Sys2Proof.Machine

/-- Out of reset, nothing else done. -/
def run : State := { phase := .run }

/-- Booted. -/
def up : State := { phase := .run, boot := { stage := .ready } }

/-- Booted, a version 3 session on port A, which holds semaphore 0. -/
def mb : State := { phase := .run, boot := { stage := .ready }, portA := { session := some 3 }, sems := [(0, { owner := some .a })] }

/-- A header of that session. -/
def hd : MbxHdr := ⟨.a, true, 7, 3⟩

/-- Bytes written over a request body at an offset. -/
def overlay (b : List Byte) (off : Nat) (x : List Byte) : List Byte :=
  (b ++ zeros (off - b.length)).take off ++ x ++ b.drop (off + x.length)

/-- A request body that carries these fields. -/
def bodyOf (fs : List BodyField) : List Byte := fs.foldl (fun b f => match f with
  | .num off n v => overlay b off (leBytes n v)
  | .bytes off x => overlay b off x) []

/-- The request with header `hd` that carries these fields. -/
def cmdOf (op : Nat) (fs : List BodyField) : MCmd := ⟨hd, op, bodyOf fs⟩

/-- A state in which that request has been received and its port has a version 3 session and semaphore 0. -/
def asked (op : Nat) (fs : List BodyField) (s : State) : State :=
  { s with phase := .run, boot := { s.boot with stage := .ready }, portA := { session := some 3 }, sems := [(0, { owner := some .a })], mbx := { accepted := [cmdOf op fs] } }

/-- A layout of twelve members. -/
def lay0 : Layout := { k := 8, m := 2, d := 1, n := 12, seed := 0, periods := 1000, members := List.range 12 }

/-- A pool of that layout. -/
def pool0 : Pool := { cur := lay0 }

/-- What a loader may see of an image. -/
def img0 : ImageObs := { header := List.replicate 256 0, payload := [] }

/-- What a region holds of an image. -/
def img1 : ImgRec := { header := List.replicate 256 0, payload := [] }

/-- A boot that finds nothing wrong. -/
def boot0 : BootObs := { selfTestOk := true, rowErrors := [], norReadable := true, sfdp := true, repairReads := [], unitFails := [], torn := false, factory := List.replicate 4096 0, devCert := [], intCert := [] }

def err0 : ErrObs := { code := 0x0101, domain := 9, unit := 0, agent := 0, address := 0, info0 := 0, info1 := 0, multi := false, host := false }

def sig0 : Signed := { signerSlot := 0, signerKey := [], nonce := [], signature := [] }

/-- A cluster header of node 1 in view 1. -/
def ch0 : CluHdr := { src := 1, version := 1, clusterId := 0, view := 1, keyGen := 0, counter := 1, tag := [] }

/-- A Jalras message of one frame, the next of its sub-link and of its class. -/
def jrx0 : JalRx := { msgSeq := 0, parts := [{ sub := 0, seq := 0, frames := 1, ack := 0 }] }

def wr0 : WorkReq := { length := 64, wrId := 1 }

def creq0 : CipherReq := { agent := 0, keyIndex := 0, data := [] }

def vimg0 : VaultImage := { gen := 1, bank := 0 }

/-- Node 0 of a cluster of nodes 0 and 1. -/
def clu1 : State := { phase := .run, chain := { enclosure := some 0, position := some 0 }, cluster := { member := true, view := 1, members := [(0, 2), (1, 2)] } }

def kgen0 : KeyGen := { wrapped := [], kind := 1, kcv := [] }
def kent0 : KeyEnt := { cur := kgen0 }

/-- A volume of pool 0 and slice 0. -/
def ns0 : Ns := { slice := 0, pool := 0, size := 8192 }

/-- A snapshot of volume 5 with no map entry. -/
def view0 : Snap := { nsid := 5, size := 0, map := [], pending := [] }

/-- A batch of volume 5 with no unit. -/
def bat0 : Batch := { nsid := 5, units := [], lane := 0 }

/-- A queue entry that names volume 5. -/
def okEntry : SubEntry :=
  { cid := 1, op := none, fieldsOk := true, nsid := 5, slba := 0, nlb := 1 }

/-- A running command of controller 1 on volume 5. -/
def inf0 (op : NvmOp) : Inflight := { ctrl := 1, sq := 1, cid := 9, op := op, nsid := 5, slba := 0, nlb := 1, slice := 0, stage := .running }

/-- A slice of weight 10. -/
def slice0 : Slice := { tenant := true, bind := 0, queuePairs := 4, namespaces := 4 }

/-- An enabled PCIe controller of slice 0 with an entry to fetch in each of its queues. -/
def ctrl0 : Ctrl := { slice := 0, fabrics := false, enabled := true, sqs := [(0, { cq := 0, size := 8, tail := 1 }), (1, { cq := 1, size := 8, tail := 1 })], cqs := [(0, { size := 8 }), (1, { size := 8 })] }

/-- Volume 5 in pool 0, and one command in flight that runs. -/
def io (op : NvmOp) : State :=
  { up with ns := [(5, ns0)], pools := [(0, pool0)], slices := [(0, slice0)], cipher := { keys := [(0, kent0)], ktwk := some [] }
            host := { ctrls := [(1, ctrl0)], inflight := [(1, inf0 op)], nextSeq := 2 } }

/-- A programmed page that its bridge has answered. -/
def vp0 : VPage := { strip := 0, pool := 0, use := .rebuild 0 0, answered := true }

/-- A band with one block. -/
def band0 : Band := { seq := 1, blocks := [(0, 0)] }

/-- A gathering segment that holds a group. -/
def gat0 : Gather := { granules := 4 }

/-- A governor whose period has its capacities. -/
def gv : State := { up with gov := { caps := [1875000, 1875000, 1250000, 2000000, 625000, 7656250, 640000, 609375, 312500, 353125] } }

/-- A key slot with a derived key. -/
def slot5 : KeySlot := { use := .derived, gcmKind := true, key := [] }

/-- Both cipher groups powered, slot 5 filled. -/
def cy : State := { up with power := { on := 0x3000000 }, cipher := { slots := [(5, slot5)] } }

/-- A digest context that agent 1 owns. -/
def dgs0 : DgsCtx := { owner := some 1 }

/-- A relationship whose source is volume 5 here and whose target is node 1. -/
def rel0 : Repl := { source := true, nsid := 5, sync := true, node := 1, remoteNsid := 6 }

/-- A relationship whose target is volume 6 here and whose source is node 1. -/
def tgt0 : Repl := { source := false, nsid := 6, sync := false, node := 1, remoteNsid := 5, opened := true }

/-- A settled segment without units. -/
def seg0 : Seg := { settled := true }

/-- A posted receive of 64 bytes. -/
def rb0 : RecvBuf := { wrId := 1, addr := 0, len := 64 }

/-- A ready queue pair on logical port 0 with one posted receive. -/
def qp0 : Qp := { state := .ready, lport := 0, recv := [rb0], cached := true }

/-- One byte for queue pair 2. -/
def pk0 : RocePkt := { qp := 2, lport := 0, psn := 0, packets := 1, payload := [1] }

/-- A request that waits for its acknowledgement. -/
def rq0 : QpReq := { op := .send, wr := wr0, firstPsn := 0, packets := 1, sentAt := 0 }

/-- A message of one packet to node 1. -/
def mo0 : MsgOut := { ep := 0, op := .send, wr := wr0, pktLog2 := 10, packets := 1 }

/-- An entry of a message of 64 bytes from node 1, with its buffer. -/
def re0 : Reasm := { write := false, srcEp := 0, dstEp := 0, totalLen := 64, pktLog2 := 10, imm := 0, trig := 0, rkey := 0, remoteAddr := 0, buffer := some rb0, lastAt := 0, lport := 0 }

/-- The packet of that message. -/
def dp0 : DataPkt :=
  { node := 1, session := 5, version := 1, write := false, attempt := 0, path := 0, pktLog2 := 10, srcEp := 0, dstEp := 0, msgId := 7, totalLen := 64, offset := 0
    payload := List.replicate 64 0, payloadLen := 64, trig := 0, imm := 0, rkey := 0, remoteAddr := 0, ce := false, dst := 0, udpLen := 124, crc := 0 }

/-- A head at chain position 0 with everything powered. -/
def pr : State := { up with chain := { position := some 0, enclosure := some 0 }, power := { on := 0xFFFFFFFFFFFFFFFF } }

/-- HELLO of its partner at position 1. -/
def jh0 : JalHello := { minV := 1, maxV := 2, journalMin := 1, journalMax := 2, head := 1, pair := 0, nodeId := 1, boardId := 0, enclosure := 0, uid := 7, session := 5, fwVersion := 0 }

/-- An opened stripe in flight. -/
def sf0 : Sif := { stripe := 0, pool := 0, k := 8, m := 2 }

/-- A unit on flash. -/
def ur0 : UnitRec := { pending := false, digest := [], crc := 0, creator := 5, content := 1 }

/-- Node 1's header with the tag that node 1 gives a message (R425). -/
def sealed1 (m : CluMsg) (s : State) : CluHdr :=
  let got := withReserved (cluReserved m) [] (cluHeader 1 (cluType m) 0 1 1 (ownNode s) 0 1 (cluBody m).length ++ cluBody m)
  { ch0 with tag := (cluSeal (trafficKey s 1 0) ((got.drop 0x20).take 12) (got.take 48) (got.drop 48)).2 }

/-- A member takes node 1's message. -/
theorem from1 (m : CluMsg) (s : State) (h : s.phase = .run ∧ 0 = s.cluster.id ∧ s.cluster.member = true ∧ Tbl.has s.cluster.members 1 = true ∧
    1 ≤ clusterVersion s 1 ∧ acceptGen s.time.toNat 0 (Tbl.getD s.cluster.traffic 1 {}) = some {}) : fromMember (sealed1 m s) m {} s :=
  ⟨h.1, decide_eq_true rfl, h.2.1, h.2.2.1, h.2.2.2.1, Nat.one_ne_zero, h.2.2.2.2.1, h.2.2.2.2.2⟩

/-- Metadata with the two CRCs of the codeword's data and of itself (R346). -/
def md1 (d : List Byte) : CwMeta :=
  let m : CwMeta := { index := 0, pool := 0, dataCrc := Config.crc32c d, metaCrc := 0 }
  { m with metaCrc := Config.crc32c (metaHead m) }

theorem md1_holds (d : List Byte) : cwHolds d (md1 d) = true := by simp [cwHolds, md1, metaHead]

/-- A page of 16 codewords that decode with no error. -/
def goodPage : List DecodeResult := List.replicate 16 (.ok 0 [] (md1 []))

theorem goodPage_passes : pagePasses goodPage = true := by simp [pagePasses, goodPage, md1_holds]

/-- A datagram packet with its CRC (R384). -/
def dp1 : DataPkt := { dp0 with crc := Config.crc32c (withReserved dgReserved [] (dataBytes 1 dp0)) }

theorem dp1_sound : pktSound dp1 = true := by simp [pktSound, dp1, dp0, dataBytes]

/-- A descriptor with its CRC (R353). -/
def descr0 : Descr := { magic := 0x444D5A4D, version := 1, serial := 1, dies := 1, blocksPerDie := 1, pagesPerBlock := 1, rawBytes := 0, peRated := 1, crc := 0 }
def descr1 : Descr := { descr0 with crc := Config.crc32c (descrBytes descr0) }

theorem descr1_holds : descrHolds descr1 = true := by simp [descrHolds, descr1, descr0, descrBytes]

/-- A sideband message to a chip at SMBus address 0x40, without PEC, that names a command. -/
def smOf (cmd : List Byte) : SideMsg := { head := [0x80, 0x0F, 0, 0x21, 1, 0, 8, 0xC8] ++ cmd }

/-- The page of slice 0 on port A. -/
def pg0 : PageId := { port := .a, slice := 0 }

/-- A frame's worth of an acknowledgement. -/
def piece0 : JalPiece := { type := 1, cls := 1, msgSeq := 0, payload := [] }

end Sys2Proof.Tests
end

