-- ==== Sys2Proof/Tests/Slice0.lean ====
section
/-! SUPPORT. Tests/Slice0.lean: the checks of WellFormed refuse ill-formed terms, single steps on small states, and a witness for the hypotheses of every statement. -/
set_option linter.all false
set_option maxRecDepth 20000
namespace Sys2Proof.Tests
open Sys2Proof Sys2Proof.Machine

/-! ## WellFormed refuses -/

/-- A header whose VERSION does not fit its byte. -/
def badHdr : MbxHdr := ⟨.a, true, 7, 256⟩

def key97 : List Byte := List.replicate 97 0
def okSigned : Signed := { signerSlot := 0, signerKey := key97, nonce := List.replicate 32 0, signature := List.replicate 96 0 }
def okPkt : RocePkt := { qp := 1, lport := 0, psn := 0, packets := 1, payload := [] }


theorem test_wf_terms_that_fit : (Instr.wf (.fuseRead hd) && okSigned.wf && img0.wf && boot0.wf && DataPtr.wf (.capsule 8) && jrx0.wf) = true := by decide

theorem test_wf_header : Instr.wf (.fuseRead badHdr) = false := by decide
theorem test_wf_message_opcode : MbxMsg.wf ⟨0x10000, 0, 1, 0, []⟩ = false := by decide
theorem test_wf_message_length : MbxMsg.wf ⟨0x0101, 0x10000, 1, 0, []⟩ = false := by decide
theorem test_wf_message_version : MbxMsg.wf ⟨0x0101, 0, 256, 0, []⟩ = false := by decide
theorem test_wf_signer_slot : Signed.wf { okSigned with signerSlot := 256 } = false := by decide
theorem test_wf_signer_key : Signed.wf { okSigned with signerKey := [4] } = false := by decide
theorem test_wf_nonce : Signed.wf { okSigned with nonce := [] } = false := by decide
theorem test_wf_signature : Signed.wf { okSigned with signature := [] } = false := by decide
theorem test_wf_image_header : ImageObs.wf { img0 with header := [] } = false := by decide
theorem test_wf_boot_rows : BootObs.wf { boot0 with rowErrors := [(256, 0)] } = false := by decide
theorem test_wf_boot_repair_place : BootObs.wf { boot0 with repairReads := [(2048, List.replicate 32 0)] } = false := by decide
theorem test_wf_boot_repair_bytes : BootObs.wf { boot0 with repairReads := [(0, [1])] } = false := by decide
theorem test_wf_boot_factory : BootObs.wf { boot0 with factory := [] } = false := by decide
theorem test_wf_boot_units : BootObs.wf { boot0 with unitFails := [4] } = false := by decide
theorem test_wf_data_pointer : DataPtr.wf (.capsule 0x100000000) = false := by decide
theorem test_wf_jalras_sub : JalPart.wf { sub := 4, seq := 0, frames := 1, ack := 0 } = false := by decide
theorem test_wf_jalras_message : JalRx.wf { jrx0 with msgSeq := 0x100000000 } = false := by decide
theorem test_wf_cluster_tag : CluHdr.wf { ch0 with tag := [] } = false := by decide
theorem test_wf_trace : TraceEnt.wf { time := 0, type := 0, source := 0, data := [] } = false := by decide
theorem test_wf_entry : SubEntry.wf { okEntry with cid := 0x10000 } = false := by decide
theorem test_wf_cluster_source : CluHdr.wf { ch0 with src := 8192 } = false := by decide
theorem test_wf_cluster_view : CluHdr.wf { ch0 with view := 0x100000000 } = false := by decide
theorem test_wf_work_length : WorkReq.wf { wr0 with length := 0x100000000 } = false := by decide
theorem test_wf_work_node : WorkReq.wf { wr0 with dstNode := 8192 } = false := by decide
theorem test_wf_entry_blocks : SubEntry.wf { okEntry with nlb := 65537 } = false := by decide
theorem test_wf_packet : RocePkt.wf { okPkt with psn := 0x1000000 } = false := by decide
theorem test_wf_packet_port : RocePkt.wf { okPkt with lport := 32 } = false := by decide
theorem test_wf_packet_count : RocePkt.wf { okPkt with packets := 0 } = false := by decide
theorem test_wf_queue_pair : NetQ.wf (.qp 0x1000000) = false := by decide
theorem test_wf_endpoint : NetQ.wf (.ep 0x10000) = false := by decide
theorem test_wf_agent : CipherReq.wf { creq0 with agent := 256 } = false := by decide
theorem test_wf_error_domain : errorOk { err0 with domain := 64 } none = false := by decide
theorem test_wf_error_class : errorOk { err0 with code := 0x0601 } none = false := by decide
theorem test_wf_error_fatal : errorOk { err0 with domain := 9 } (some 0) = false := by decide
theorem test_wf_page_offset : Instr.wf (.registerWrite (.page .a false 0 2) false 0) = false := by decide
theorem test_wf_udid : Instr.wf (.smbusArp (smOf []) (.assign [] 0x31)) = false := by decide
theorem test_wf_temp_sample : Instr.wf (.tempSample [] []) = false := by decide
theorem test_wf_dimms : Instr.wf (.ddrTrainingDone (List.replicate 17 ⟨false, 0, 0, 0⟩) true) = false := by decide
theorem test_wf_owner_key : Instr.wf (.fuseOwnerKeyProgram hd 0 [] okSigned none) = false := by decide
theorem test_wf_wrapped_key : Instr.wf (.ktwkLoad hd []) = false := by decide
theorem test_wf_key_kind : Instr.wf (.keyLoad hd 0 256 (List.replicate 72 0)) = false := by decide
theorem test_wf_activate_mode : Instr.wf (.fwActivateNextStart hd 0) = false := by decide
theorem test_wf_controller : Instr.wf (.keepAlive 0x10000 0) = false := by decide
theorem test_wf_serials : Instr.wf (.serials jrx0 (List.replicate 97 0)) = false := by decide
theorem test_wf_invalidations : Instr.wf (.atsInvalidationRequest .a false 0 0 0 0) = false := by decide

/-! ## Single steps

Expected values are read from the tables of the spec. -/

/-- The state after a command, for tests; a stop leaves the state as it was. -/
def after (c : Instr) (s : State) : State := match exec c s with
  | .next t => t
  | _ => s

/-- A read of a free semaphore takes it for the reading port (R116). -/
theorem test_sem_read_takes : ((after (.semRead 3 (.one .b)) up).sem 3).owner = some .b := by decide
/-- A write with bit 0 set releases nothing (R115). -/
theorem test_sem_write_one_keeps : ((after (.semReleaseWrite .a 0 1) mb).sem 0).owner = some .a := by decide
/-- VDD_AON_DOWN leaves the part unpowered. -/
theorem test_vdd_aon_down : (after .vddAonDown up).phase = .unpowered := by decide
/-- MCTP: endpoint identifier 9 is taken, and the answer says so. -/
theorem test_mctp_set_eid : (after (.mctpSetEndpointId (smOf [0, 0x80, 1]) 0 9) up).side.eid = 9 := by decide
/-- BOARD_ID is sampled once (R58). -/
theorem test_board_id_late_is_ignored : (after (.boardIdSample 5 true) { up with boot := { up.boot with boardSampled := true } }).boot.boardId = 0 := by decide
/-- The PEC of "123456789" is the check value of the CRC-8 x^8 + x^2 + x + 1 (R97). -/
theorem test_pec : pecOf [0x31, 0x32, 0x33, 0x34, 0x35, 0x36, 0x37, 0x38, 0x39] = 0xF4 := by decide
/-- LZ4: five literals, then a match of 4 bytes at distance 2 that overlaps itself, then five literals. -/
theorem test_lz4 : lz4Decode [0x20, 1, 2, 2, 0, 0x50, 3, 4, 5, 6, 7] = some [1, 2, 1, 2, 1, 2, 3, 4, 5, 6, 7] := by decide
/-- A discarded 64-bit write of GOV_PERIOD_COUNT is one access error (R12). -/
theorem test_wide_discard : ((after (.registerWrite (.bar0 .a 0x30008) true 0) up).port .a).errCount = 1 := by decide
/-- A function in D3hot takes no request: the semaphore stays free (R110). -/
theorem test_d3hot_read_grants_nothing : ((after (.semRead 3 (.one .a)) { up with portA := { caps := { d3hot := true } } }).sem 3).owner = none := by decide

/-! ## The standards that rules name

Expected values: the check values of the CRC-32C, CRC-32 and CRC-16/CCITT-FALSE of "123456789", and the examples of FIPS 180-4 (SHA-256 of "abc") and FIPS 197 (AES-256); RFC 8878 for a Zstandard frame of one raw block. -/

def nums (l : List Nat) : List Byte := l.map (BitVec.ofNat 8)
def digits : List Byte := (List.range 9).map fun i => BitVec.ofNat 8 (0x31 + i)

theorem test_crc32c : Config.crc32c digits = 0xE3069283 := by unfold Config.crc32c; decide
theorem test_crc32 : Config.crc32 digits = 0xCBF43926 := by unfold Config.crc32; decide
theorem test_crc16 : Config.crc16 digits = 0x29B1 := by unfold Config.crc16; decide
theorem test_sha256 : (Config.sha256 (nums [0x61, 0x62, 0x63])).take 4 = nums [0xBA, 0x78, 0x16, 0xBF] := by unfold Config.sha256; decide
theorem test_aes256 : (Config.aes true (nums (List.range 32)) (nums ((List.range 16).map (17 * ·)))).take 4 = nums [0x8E, 0xA2, 0xB7, 0xCA] := by unfold Config.aes; decide
theorem test_zstd_raw : Config.zstdDecode (nums [0x28, 0xB5, 0x2F, 0xFD, 0x20, 3, 0x19, 0, 0, 0x41, 0x42, 0x43]) = some (nums [0x41, 0x42, 0x43]) := by unfold Config.zstdDecode; decide

/-! ## The hypotheses of the statements can be met -/

/-- The hypotheses of Obligations.EmptyQueueIdles can hold. -/
theorem witness_EmptyQueueIdles :
    ∃ (s : State), s.pending = [] :=
  ⟨.reset, by decide⟩

/-- The hypotheses of Obligations.StepConsumesOneCommand can hold. -/
theorem witness_StepConsumesOneCommand :
    ∃ (s : State) (t : State) (c : Instr) (rest : List Instr), s.pending = c :: rest ∧ step s = .next t :=
  ⟨{ run with pending := [.busMasterEnableCleared .a] }, _, .busMasterEnableCleared .a, [], rfl, rfl⟩

/-- The hypotheses of Obligations.FusesOnlyGrow can hold. -/
theorem witness_FusesOnlyGrow :
    ∃ (s : State) (t : State), step s = .next t :=
  ⟨{ run with pending := [.busMasterEnableCleared .a] }, _, rfl⟩

/-- Each clause of Obligations.OwnedStaysOwned has hypotheses that a state meets. -/
theorem witness_OwnedStaysOwned :
    (∃ (s : State), isOwned s = false) ∧
    (∃ (s : State), isOwned s = true) ∧
    (∃ (s : State) (t : State), isOwned s = true ∧ step s = .next t) :=
  ⟨⟨.reset, rfl⟩,
    ⟨{ run with fuses := { owner2 := { programmed := true } } }, rfl⟩,
    ⟨{ run with fuses := { owner2 := { programmed := true } }, pending := [.busMasterEnableCleared .a] }, _, rfl, rfl⟩⟩

/-- The hypotheses of Obligations.OnchipMemoryStaysCanonical can hold. -/
theorem witness_OnchipMemoryStaysCanonical :
    ∃ (s : State) (t : State), Mem.wf s.onchip = true ∧ step s = .next t :=
  ⟨{ run with onchip := [(4, 1), (9, 2)], pending := [.busMasterEnableCleared .a] }, _, rfl, rfl⟩

/-- The hypotheses of Obligations.ResetHoldsTheInvariants can hold. -/
theorem witness_ResetHoldsTheInvariants :
    ∃ (l : List Instr) (n : Nat) (t : State), leadsTo n { State.reset with pending := l } t :=
  ⟨[.busMasterEnableCleared .a, .busMasterEnableCleared .a], 1, _, ⟨_, rfl, rfl⟩⟩

/-- The hypotheses of Obligations.MemoriesThatReadAlikeAreEqual can hold. -/
theorem witness_MemoriesThatReadAlikeAreEqual :
    ∃ (m : Mem) (n : Mem), Mem.wf m = true ∧ Mem.wf n = true ∧ (∀ a, Mem.get m a = Mem.get n a) :=
  ⟨[(3, 7)], [(3, 7)], rfl, rfl, fun _ => rfl⟩

/-- Each clause of Obligations.EveryCommandGoesOn has hypotheses that a state meets. -/
theorem witness_EveryCommandGoesOn :
    (∃ (c : Instr) (s : State) (r : Refusal), exec c s = .refused r) ∧
    (∃ (s : State), debugIsOpen s = false) :=
  ⟨⟨.registerRcRead (.bar0 .a 0x40000) 2, { run with trust := { debugOpen := true } }, _, rfl⟩,
    ⟨.reset, rfl⟩⟩

/-- Each clause of Obligations.SemaphoreCommandsComplete has hypotheses that a state meets. -/
theorem witness_SemaphoreCommandsComplete :
    (∃ (n : Fin 64) (p : Port) (s : State), s.phase = .run ∧ (s.port p).caps.d3hot = false ∧ (s.sem n.val).owner = none) ∧
    (∃ (n : Fin 64) (s : State), s.phase = .run ∧ (s.port .a).caps.d3hot = false ∧ (s.port .b).caps.d3hot = false ∧ (s.sem n.val).owner = none ∧ (s.sem n.val).lastTie = some .a) ∧
    (∃ (p : Port) (n : Fin 64) (v : W32) (s : State), s.phase = .run ∧ (s.port p).caps.d3hot = false ∧ (s.sem n.val).owner = some p ∧ v[0] = false) ∧
    (∃ (p : Port) (e : Nat) (s : State), s.phase = .run ∧ (s.port p).caps.d3hot = false ∧ (s.port p).leaseEnd = some e ∧ s.time.toNat < e) ∧
    (∃ (p : Port) (e : Nat) (s : State), s.phase = .run ∧ (s.port p).leaseEnd = some e) :=
  ⟨⟨0, .a, run, by decide, by decide, by decide⟩,
    ⟨0, { run with sems := [(0, { lastTie := some .a })] }, by decide, by decide, by decide, by decide, by decide⟩,
    ⟨.a, 0, 0, mb, by decide, by decide, by decide, by decide⟩,
    ⟨.a, 5, { mb with portA := { session := some 3, leaseEnd := some 5 } }, by decide, by decide, by decide, by decide⟩,
    ⟨.a, 5, { mb with portA := { session := some 3, leaseEnd := some 5 } }, by decide, by decide⟩⟩

/-- Each clause of Obligations.MailboxPortCommandsComplete has hypotheses that a state meets. -/
theorem witness_MailboxPortCommandsComplete :
    (∃ (p : Port) (s : State), s.phase = .run ∧ (s.port p).caps.d3hot = false ∧ (s.port p).immBusy = false ∧ s.boot.served = false) ∧
    (∃ (p : Port) (len : Nat) (s : State), s.phase = .run ∧ (s.port p).immDeferred = some len ∧ canServe s = true) ∧
    (∃ (p : Port) (v : BitVec 20) (s : State), s.phase = .run ∧ (s.port p).caps.d3hot = false ∧ v.toNat % 64 = 0 ∧ v.toNat < ringSize (s.port p).reqCfg) ∧
    (∃ (p : Port) (ring : Bool) (tag : W32) (d : MDone) (s : State), s.phase = .run ∧ s.mbx.done.find? (fun d => d.cmd.hdr.port = p && d.cmd.hdr.ring = ring && d.cmd.hdr.tag = tag) = some d) ∧
    (∃ (p : Port) (m : MbxMsg) (s : State), s.phase = .run ∧ canFetch p s = true ∧ (s.port p).busMaster = true ∧ ringExtent m.length ≤ ringSpan (s.port p).reqHead (s.port p).reqTail (ringSize (s.port p).reqCfg)) ∧
    (∃ (p : Port) (v : BitVec 20) (s : State), s.phase = .run ∧ (s.port p).caps.d3hot = false ∧ v.toNat % 64 = 0 ∧ v.toNat < ringSize (s.port p).rspCfg) ∧
    (∃ (p : Port) (v : W32) (s : State), s.phase = .run ∧ (s.port p).caps.d3hot = false ∧ v[0] = true ∧ (s.port p).enable = false ∧ ringIdle s p = true) ∧
    (∃ (s : State), s.phase = .run) ∧
    (∃ (s : State), s.phase = .run) ∧
    (∃ (p : Port) (s : State), s.phase = .run ∧ (s.port p).caps.d3hot = false) ∧
    (∃ (p : Port) (kind : AccessErr) (s : State), s.phase = .run ∧ (s.port p).caps.d3hot = false ∧ kind ≠ .misalignedRead) :=
  ⟨⟨.a, run, by decide, by decide, by decide, by decide⟩,
    ⟨.a, 16, { run with boot := { stage := .recovery }, portA := { immDeferred := some 16 } }, by decide, by decide, by decide⟩,
    ⟨.a, 64, run, by decide, by decide, by decide, by decide⟩,
    ⟨.a, true, 7, ⟨⟨hd, 2, []⟩, ⟨.success, 0, []⟩, 1⟩, { mb with mbx := { done := [⟨⟨hd, 2, []⟩, ⟨.success, 0, []⟩, 1⟩] } }, by decide, by decide⟩,
    ⟨.a, { opcode := 2, length := 0, tag := 7, version := 3, body := [] }, { mb with portA := { session := some 3, enable := true, busMaster := true, reqTail := 64 } }, by decide, by decide, by decide, by decide⟩,
    ⟨.a, 64, run, by decide, by decide, by decide, by decide⟩,
    ⟨.a, 1, run, by decide, by decide, by decide, by decide, by decide⟩,
    ⟨run, by decide⟩,
    ⟨run, by decide⟩,
    ⟨.a, run, by decide, by decide⟩,
    ⟨.a, .misalignedWrite, run, by decide, by decide, by decide⟩⟩

/-- Each clause of Obligations.PinCommandsComplete has hypotheses that a state meets. -/
theorem witness_PinCommandsComplete :
    (∃ (at_ : Nat) (s : State), s.phase ≠ .unpowered ∧ s.cond.pwrgood.latched = false ∧ s.cond.pwrgood.level = false ∧ (noteEdges 4 10000000 1 at_ s.cond.pwrgood).2 = false) ∧
    (∃ (s : State), s.phase ≠ .unpowered ∧ s.cond.pwrgood.latched = false ∧ s.cond.pwrgood.level = true) ∧
    (∃ (at_ : Nat) (s : State), s.phase ≠ .unpowered ∧ (resetEdge true at_ s).2 = true) ∧
    (∃ (e : Nat) (s : State), s.phase = .flushing ∧ s.flush.firstAt = some e ∧ s.flush.resetHeld = true) ∧
    (∃ (at_ : Nat) (s : State), s.phase ≠ .unpowered ∧ s.cond.pwrfail.level = false ∧ s.cond.pwrfail.latched = false ∧ spRuns s = true ∧ (noteEdges 4 10000000 1 at_ s.cond.pwrfail).2 = false) ∧
    (∃ (s : State), s.phase ≠ .unpowered) ∧
    (∃ (s : State), s.phase ≠ .unpowered ∧ s.cond.pwrfail.level = true ∧ spRuns s = true) ∧
    (∃ (r : VaultRun) (s : State), s.phase = .flushing ∧ s.carafe.run = some r ∧ r.outstanding = 0) ∧
    (∃ (p : Port) (at_ : Nat) (s : State), s.phase ≠ .unpowered ∧ (perstCond s p).level = false ∧ ((perstEdge p true at_ s).port p).inReset = false) ∧
    (∃ (p : Port) (at_ : Nat) (s : State), s.phase ≠ .unpowered ∧ (perstCond s p).level = true ∧ (perstCond (alarmDown (5 + portNum p) (perstEdge p false at_ s)) p).latched = false) ∧
    (∃ (p : Port) (s : State), s.phase ≠ .unpowered ∧ (perstCond s p).level = true) ∧
    (∃ (at_ : Nat) (s : State), s.phase ≠ .unpowered ∧ s.cond.peerAlive.level = false ∧ (noteEdges 4 100000000 1 at_ s.cond.peerAlive).2 = false) ∧
    (∃ (s : State), s.phase = .run ∧ s.boot.stage = .ready ∧ s.peerState = .alone ∧ peerSubs s = [] ∧ foreignPools s ≠ [] ∧ peerGone s = true) ∧
    (∃ (s : State), s.phase ≠ .unpowered ∧ s.cond.pwrgood.latched = true) :=
  ⟨⟨0, {}, by decide, by decide, by decide, by decide⟩,
    ⟨{ cond := { pwrgood := { level := true } } }, by decide, by decide, by decide⟩,
    ⟨0, { run with cond := { resetN := { level := false } } }, by decide, by decide⟩,
    ⟨0, { phase := .flushing, flush := { firstAt := some 0, resetHeld := true } }, by decide, by decide, by decide⟩,
    ⟨0, run, by decide, by decide, by decide, by decide, by decide⟩,
    ⟨{}, by decide⟩,
    ⟨{ run with cond := { pwrfail := { level := true } } }, by decide, by decide, by decide⟩,
    ⟨⟨[], 0, []⟩, { phase := .flushing, carafe := { run := some ⟨[], 0, []⟩ } }, by decide, by decide, by decide⟩,
    ⟨.a, 0, { cond := { perstA := { level := false } } }, by decide, by decide, by decide⟩,
    ⟨.a, 0, { cond := { perstA := { level := true } } }, by decide, by decide, by decide⟩,
    ⟨.a, { cond := { perstA := { level := true } } }, by decide, by decide⟩,
    ⟨0, {}, by decide, by decide, by decide⟩,
    ⟨{ up with pools := [(0, { pool0 with owned := false })] }, by decide, by decide, by decide, by decide, by decide, by decide⟩,
    ⟨{ cond := { pwrgood := { latched := true } } }, by decide, by decide⟩⟩

/-- Each clause of Obligations.PowerAndClockCommandsComplete has hypotheses that a state meets. -/
theorem witness_PowerAndClockCommandsComplete :
    (∃ (s : State), (s.phase = .run ∨ s.phase = .flushing)) ∧
    (∃ (d : Fin 64) (s : State), (s.phase = .run ∨ s.phase = .flushing) ∧ 5 ≤ d.val ∧ hasBit s.power.ramping d.val = false ∧ s.power.waiting.contains d.val = false ∧ workIn d.val s = false) ∧
    (∃ (s : State), (s.phase = .run ∨ s.phase = .flushing)) ∧
    (∃ (d : Fin 64) (signal : Bool) (s : State), s.phase = .run ∧ hasBit s.power.judging d.val = true ∧ domainInUse d.val signal s = true) ∧
    (∃ (d : Fin 64) (s : State), s.phase = .run ∧ s.boot.stage = .ready ∧ hasBit s.power.unused d.val = true ∧ portsSettling s = false) ∧
    (∃ (r : RefClk) (s : State), s.phase ≠ .unpowered ∧ s.phys.refLost.getLsbD (refNum r) = false ∧ spRuns s = true) ∧
    (∃ (r : RefClk) (s : State), s.phase ≠ .unpowered ∧ s.phys.refLost.getLsbD (refNum r) = true ∧ refDark (fenceAlarmSettle (unfenceDark (refDomains r) (setRefLost (refNum r) false s))) = []) ∧
    (∃ (s : State), s.phase ≠ .unpowered ∧ s.phys.refLost.getLsbD 8 = false ∧ spRuns s = true) ∧
    (∃ (s : State), s.phase ≠ .unpowered) ∧
    (∃ (s : State), s.phase = .run ∧ s.phys.refLost.getLsbD 0 = false) ∧
    (∃ (s : State), s.phase = .refHold) ∧
    (∃ (rail : Fin 11) (s : State), (s.phase = .run ∨ s.phase = .flushing) ∧ s.phys.railAlarm.getLsbD rail.val = false) ∧
    (∃ (rail : Fin 11) (s : State), (s.phase = .run ∨ s.phase = .flushing) ∧ s.phys.railAlarm &&& ~~~ BitVec.ofNat 11 (2 ^ rail.val) = 0) ∧
    (∃ (dies : List Byte) (hbm : List Byte) (s : State), (s.phase = .run ∨ s.phase = .flushing) ∧ threshMask s 2 s.phys.critical (readings dies hbm) = 0) ∧
    (∃ (s : State), spRuns s = true) ∧
    (∃ (s : State), s.phase ≠ .unpowered) ∧
    (∃ (d : Fin 64) (lane : Fin 16) (s : State), s.phase = .run ∧ hasBit s.power.on d.val = true ∧ (s.lane d.val lane.val).marked = false ∧ (s.lane d.val lane.val).fails = 0) ∧
    (∃ (s : State), s.phase = .unpowered) ∧
    (∃ (s : State), s.phase ≠ .unpowered) :=
  ⟨⟨run, by decide⟩,
    ⟨9, run, by decide, by decide, by decide, by decide, by decide⟩,
    ⟨run, by decide⟩,
    ⟨33, true, { run with power := { judging := -1 } }, by decide, by decide, by decide⟩,
    ⟨60, { up with power := { unused := -1 } }, by decide, by decide, by decide, by decide⟩,
    ⟨.pcieB, run, by decide, by decide, by decide⟩,
    ⟨.pcieB, { run with phys := { refLost := BitVec.ofNat 9 (2 ^ refNum .pcieB) } }, by decide, by decide, by decide⟩,
    ⟨run, by decide, by decide, by decide⟩,
    ⟨{}, by decide⟩,
    ⟨run, by decide, by decide⟩,
    ⟨{ phase := .refHold }, by decide⟩,
    ⟨3, run, by decide, by decide⟩,
    ⟨3, { run with phys := { railAlarm := 8 } }, by decide, by decide⟩,
    ⟨[], [], run, by decide, by decide⟩,
    ⟨run, by decide⟩,
    ⟨{}, by decide⟩,
    ⟨60, 0, { run with power := { on := -1 } }, by decide, by decide, by decide, by decide⟩,
    ⟨{ phase := .unpowered }, by decide⟩,
    ⟨{}, by decide⟩⟩

/-- Each clause of Obligations.BootCommandsComplete has hypotheses that a state meets. -/
theorem witness_BootCommandsComplete :
    (∃ (s : State), s.phase = .reset ∧ s.cond.pwrgood.level = true ∧ s.cond.resetN.level = false) ∧
    (∃ (s : State), s.phase = .run ∧ s.boot.boardSampled = false) ∧
    (∃ (o : ImageObs) (s : State) (u : State), s.phase = .run ∧ s.boot.stream = some .bridge ∧ hdrAbsent o.header = false ∧ u = showPair o (endStream s)) ∧
    (∃ (s : State), s.phase = .run ∧ s.boot.sp.isSome = true ∧ (List.range 4).all (fun i => hasBit s.power.on (13 + i)) = true ∧ s.boot.hbmTrained = false ∧ s.boot.cc = none ∧ s.boot.src ≠ .download ∧ s.boot.stage ≠ .recovery) ∧
    (∃ (dimms : List Dimm) (ok : Bool) (s : State), s.phase = .run ∧ s.boot.sp.isSome = true ∧ s.boot.ddrTrained = false ∧ s.boot.held = false ∧ hasBit s.power.on 17 = true ∧ hasBit s.power.on 18 = true ∧ ddrRefused dimms ok = none) ∧
    (∃ (s : State), s.phase = .run ∧ s.boot.cc.isSome = true ∧ s.boot.hbmTrained = true ∧ s.boot.ddrTrained = true ∧ s.boot.held = false ∧ s.boot.started = false ∧ s.boot.stage ≠ .recovery) ∧
    (∃ (img : VaultImage) (s : State), s.phase = .run ∧ s.carafe.image = some img ∧ s.boot.started = true ∧ s.boot.vaultRead = false ∧ s.boot.stage = .units ∧ portsSettling s = false) ∧
    (∃ (s : State), s.phase = .run ∧ s.boot.started = true ∧ stageNum s.boot.stage < stageNum .ready ∧ portsSettling s = false ∧ s.carafe.image = none) :=
  ⟨⟨{ cond := { pwrgood := { level := true }, resetN := { level := false } } }, by decide, by decide, by decide⟩,
    ⟨run, by decide, by decide⟩,
    ⟨img0, { run with boot := { stream := some .bridge } }, _, by decide, by decide, by decide, rfl⟩,
    ⟨{ run with boot := { sp := some {} }, power := { on := -1 } }, by decide, by decide, by decide, by decide, by decide, by decide, by decide⟩,
    ⟨(List.replicate 16 ⟨true, 2, 4800, 64⟩), true, { run with boot := { sp := some {} }, power := { on := -1 } }, by decide, by decide, by decide, by decide, by decide, by decide, by decide⟩,
    ⟨{ run with boot := { cc := some {}, hbmTrained := true, ddrTrained := true } }, by decide, by decide, by decide, by decide, by decide, by decide, by decide⟩,
    ⟨vimg0, { run with carafe := { image := some vimg0 }, boot := { started := true, stage := .units } }, by decide, by decide, by decide, by decide, by decide, by decide⟩,
    ⟨{ run with boot := { started := true, stage := .units } }, by decide, by decide, by decide, by decide, by decide⟩⟩

/-- Each clause of Obligations.ChainCommandsComplete has hypotheses that a state meets. -/
theorem witness_ChainCommandsComplete :
    (∃ (s : State), s.phase = .run ∧ s.chain.started = false ∧ s.chain.position = none) ∧
    (∃ (s : State), spRuns s = true ∧ s.chain.head = true ∧ chainRuns s = true) ∧
    (∃ (lows : List Nat) (at_ : Nat) (bits : Nat) (x : InputCond × Bool) (s : State), s.phase = .run ∧ x = noteEdges 600 1000000 (2 * lows.length) at_ s.cond.chainIn ∧ x.2 = false ∧ chainRuns s = true ∧ chainDecode none lows = some bits ∧ crc8 (lowBits bits 24) 0 = BitVec.ofNat 8 (bits / 2 ^ 24) ∧ bits % 16 ≠ 0) ∧
    (∃ (s : State), s.phase = .run ∧ s.chain.started = true ∧ s.chain.head = false ∧ s.chain.version = 0) ∧
    (∃ (s : State), s.phase = .run ∧ s.chain.started = true ∧ s.chain.head = false) :=
  ⟨⟨run, by decide, by decide, by decide⟩,
    ⟨{ run with chain := { head := true, position := some 0, started := true }, boot := { stage := .ready, boardSampled := true } }, by decide, by decide, by decide⟩,
    ⟨(10000 :: (List.range 32).map fun i => if (1 + 2 ^ 24 * (crc8 (lowBits 1 24) 0).toNat).testBit i then 3000 else 1000), 0, (1 + 2 ^ 24 * (crc8 (lowBits 1 24) 0).toNat), _, { run with chain := { head := true, position := some 0, started := true }, boot := { stage := .ready, boardSampled := true } }, by decide, rfl, by decide, by decide, by decide, by decide, by decide⟩,
    ⟨{ run with chain := { started := true } }, by decide, by decide, by decide, by decide⟩,
    ⟨{ run with chain := { started := true } }, by decide, by decide, by decide⟩⟩

/-- Each clause of Obligations.JtagCommandsComplete has hypotheses that a state meets. -/
theorem witness_JtagCommandsComplete :
    (∃ (s : State), s.phase ≠ .unpowered) ∧
    (∃ (s : State), s.phase ≠ .unpowered) ∧
    (∃ (s : State), s.phase ≠ .unpowered) ∧
    (∃ (s : State), s.phase ≠ .unpowered) ∧
    (∃ (s : State), s.phase ≠ .unpowered) ∧
    (∃ (s : State), s.phase ≠ .unpowered) ∧
    (∃ (s : State), s.phase ≠ .unpowered) ∧
    (∃ (s : State), s.phase ≠ .unpowered) :=
  ⟨⟨{}, by decide⟩,
    ⟨{}, by decide⟩,
    ⟨{}, by decide⟩,
    ⟨{}, by decide⟩,
    ⟨{}, by decide⟩,
    ⟨{}, by decide⟩,
    ⟨{}, by decide⟩,
    ⟨{}, by decide⟩⟩

/-- Each clause of Obligations.RegisterAccessesComplete has hypotheses that a state meets. -/
theorem witness_RegisterAccessesComplete :
    (∃ (p : Port) (off : BitVec 20) (size : Fin 4) (s : State), s.phase = .run ∧ (s.port p).caps.d3hot = false ∧ size.val < 3 ∧ off.toNat % 2 ^ size.val = 0 ∧ (isDbg off.toNat && debugIsOpen s) = false) ∧
    (∃ (p : Port) (off : BitVec 20) (s : State) (u : State) (lo : W32) (hi : W32), s.phase = .run ∧ (s.port p).caps.d3hot = false ∧ off.toNat % 8 = 0 ∧ (isDbg off.toNat && debugIsOpen s) = false ∧ (readWord p off.toNat (lowHalf off.toNat) s).1 = lo ∧ readWord p (off.toNat + 4) (lowHalf off.toNat) (readWord p off.toNat (lowHalf off.toNat) s).2 = (hi, u)) ∧
    (∃ (port : Port) (upper : Bool) (s : State), s.phase = .run ∧ (capsOf port upper s).d3hot = false) ∧
    (∃ (p : Port) (s : State), s.phase = .run ∧ (s.port p).caps.d3hot = true) ∧
    (∃ (p : Port) (s : State), s.phase = .run ∧ (s.port p).caps.d3hot = true) ∧
    (∃ (p : Port) (off : BitVec 20) (s : State), s.phase = .run ∧ (s.port p).caps.d3hot = false ∧ off.toNat % 4 = 0 ∧ (isDbg off.toNat && debugIsOpen s) = false) ∧
    (∃ (p : Port) (off : BitVec 20) (s : State), s.phase = .run ∧ (s.port p).caps.d3hot = false ∧ off.toNat % 4 = 0 ∧ (isDbg off.toNat && debugIsOpen s) = false) ∧
    (∃ (p : Port) (off : BitVec 20) (s : State), s.phase = .run ∧ (s.port p).caps.d3hot = false ∧ off.toNat % 8 = 0 ∧ (isDbg off.toNat && debugIsOpen s) = false ∧ (lowHalf off.toNat && wideDiscarded p off.toNat s) = false) ∧
    (∃ (port : Port) (upper : Bool) (s : State), s.phase = .run ∧ (capsOf port upper s).d3hot = false) ∧
    (∃ (p : Port) (s : State), s.phase = .run ∧ (s.port p).caps.d3hot = false) ∧
    (∃ (p : Port) (s : State), s.phase = .run ∧ (s.port p).caps.d3hot = false ∧ (s.sem 0).owner = some p ∧ s.cond.pwrfail.level = false ∧ s.evr.clearing = none) ∧
    (∃ (r : EvrRec) (rest : List EvrRec) (s : State), (s.phase = .run ∨ s.phase = .flushing) ∧ s.evr.buffer = r :: rest ∧ s.evr.clearing = none ∧ norFrozen s = false) ∧
    (∃ (next : Nat) (sup : W32) (torn : Nat) (s : State) (u : State), s.phase = .run ∧ s.evr.clearing = some (next, sup, torn) ∧ norFrozen s = false ∧ u = { s with evr := { s.evr with clearing := none, slots := [], tornSlots := [], torn := 0, fullNoted := false, nextSlot := 0, buffer := [] }, aon := { s.aon with suppressed := 0 } }) :=
  ⟨⟨.a, 0x1C, 2, run, by decide, by decide, by decide, by decide, by decide⟩,
    ⟨.a, 0, run, _, _, _, by decide, by decide, by decide, by decide, rfl, rfl⟩,
    ⟨.a, false, run, by decide, by decide⟩,
    ⟨.a, { run with portA := { caps := { d3hot := true } } }, by decide, by decide⟩,
    ⟨.a, { run with portA := { caps := { d3hot := true } } }, by decide, by decide⟩,
    ⟨.a, 0, run, by decide, by decide, by decide, by decide⟩,
    ⟨.a, 0x2010, run, by decide, by decide, by decide, by decide⟩,
    ⟨.a, 0x2010, run, by decide, by decide, by decide, by decide, by decide⟩,
    ⟨.a, false, run, by decide, by decide⟩,
    ⟨.a, run, by decide, by decide⟩,
    ⟨.a, mb, by decide, by decide, by decide, by decide, by decide⟩,
    ⟨(mkEvent 0 1 0 false 0 [] 0 run), [], { run with evr := { buffer := [mkEvent 0 1 0 false 0 [] 0 run] } }, by decide, by decide, by decide, by decide⟩,
    ⟨1, 0, 0, { run with evr := { clearing := some (1, 0, 0) } }, _, by decide, by decide, by decide, rfl⟩⟩

/-- Each clause of Obligations.DebugBlockStops has hypotheses that a state meets. -/
theorem witness_DebugBlockStops :
    (∃ (p : Port) (off : BitVec 20) (s : State), s.phase = .run ∧ (s.port p).caps.d3hot = false ∧ off.toNat % 4 = 0 ∧ 0x40000 ≤ off.toNat ∧ debugIsOpen s = true) ∧
    (∃ (p : Port) (off : BitVec 20) (s : State), s.phase = .run ∧ (s.port p).caps.d3hot = false ∧ off.toNat % 4 = 0 ∧ 0x40000 ≤ off.toNat ∧ debugIsOpen s = true) ∧
    (∃ (p : Port) (off : BitVec 20) (s : State), s.phase = .run ∧ (s.port p).caps.d3hot = false ∧ off.toNat % 4 = 0 ∧ 0x40000 ≤ off.toNat ∧ debugIsOpen s = true) :=
  ⟨⟨.a, 0x40000, { run with trust := { debugOpen := true } }, by decide, by decide, by decide, by decide, by decide⟩,
    ⟨.a, 0x40000, { run with trust := { debugOpen := true } }, by decide, by decide, by decide, by decide, by decide⟩,
    ⟨.a, 0x40000, { run with trust := { debugOpen := true } }, by decide, by decide, by decide, by decide, by decide⟩⟩

/-- Each clause of Obligations.HostPortCommandsComplete has hypotheses that a state meets. -/
theorem witness_HostPortCommandsComplete :
    (∃ (p : Port) (s : State), s.phase = .run ∧ (s.port p).linkUp = true) ∧
    (∃ (p : Port) (s : State), s.phase = .run ∧ (s.port p).linkUp = true) ∧
    (∃ (p : Port) (s : State), s.phase = .run ∧ (s.port p).linkUp = true) ∧
    (∃ (p : Port) (s : State), s.phase = .run ∧ hasBit s.power.on (hostDomain p) = true ∧ (s.port p).inReset = false) ∧
    (∃ (p : Port) (s : State), s.phase = .run ∧ (s.port p).linkUp = true ∧ (s.port p).inReset = false ∧ canServe s = true) ∧
    (∃ (p : Port) (s : State), s.phase = .run ∧ (s.port p).linkUp = true) ∧
    (∃ (p : Port) (group : BitVec 9) (pasid : Nat) (page : Nat) (id : Nat) (s : State) (u : State), s.phase = .run ∧ Tbl.find (s.port p).pageReqs group.toNat = some (pasid, page, id) ∧ (s.port p).linkUp = true ∧ u = emit (.pageDone p group.toNat true) (s.modPort p fun r => { r with pageReqs := Tbl.del r.pageReqs group.toNat })) :=
  ⟨⟨.a, { run with portA := { linkUp := true } }, by decide, by decide⟩,
    ⟨.a, { run with portA := { linkUp := true } }, by decide, by decide⟩,
    ⟨.a, { run with portA := { linkUp := true } }, by decide, by decide⟩,
    ⟨.a, { run with power := { on := -1 } }, by decide, by decide, by decide⟩,
    ⟨.a, { run with portA := { linkUp := true }, boot := { stage := .recovery } }, by decide, by decide, by decide, by decide⟩,
    ⟨.a, { run with portA := { linkUp := true } }, by decide, by decide⟩,
    ⟨.a, 3, 5, 9, 0, { run with portA := { linkUp := true, pageReqs := [(3, 5, 9, 0)] } }, _, by decide, rfl, by decide, rfl⟩⟩

/-- Each clause of Obligations.SessionCommandsComplete has hypotheses that a state meets. -/
theorem witness_SessionCommandsComplete :
    (∃ (h : MbxHdr) (minV : Byte) (maxV : Byte) (hostId : W64) (n : Nat) (c : MCmd) (s : State), s.phase = .run ∧ mbxFind 1 h [.num 0 1 minV.toNat, .num 1 1 maxV.toNat, .num 4 8 hostId.toNat] s = some c ∧ ringTurn c s = true ∧ h.version = 1 ∧ othersOut h (taken c s) = 0 ∧ chooseVersion (taken c s) minV.toNat maxV.toNat = some n) ∧
    (∃ (h : MbxHdr) (c : MCmd) (s : State), startsNow { opcode := 0x0002, since := 1, sem := false, group := .session } h [] c s) ∧
    (∃ (h : MbxHdr) (c : MCmd) (s : State), startsNow { opcode := 0x0003, since := 1, sem := false, group := .session, recovery := true } h [] c s) ∧
    (∃ (h : MbxHdr) (enclosure : Byte) (c : MCmd) (s : State), startsNow { opcode := 0x0004, since := 1, sem := true, group := .session } h [.num 0 1 enclosure.toNat] c s ∧ enclosure.toNat ≤ 31 ∧ s.cluster.member = false) ∧
    (∃ (h : MbxHdr) (mode : Byte) (c : MCmd) (s : State), startsNow { opcode := 0x0005, since := 1, sem := true, group := .session } h [.num 0 1 (0 : Byte).toNat, .num 1 1 mode.toNat] c s ∧ mode.toNat ≤ 1) ∧
    (∃ (h : MbxHdr) (first : Byte) (count : Byte) (c : MCmd) (s : State), startsNow { opcode := 0x0006, since := 2, sem := false, group := .session } h [.num 0 1 first.toNat, .num 1 1 count.toNat] c s ∧ count ≠ 0 ∧ count.toNat ≤ 160 ∧ first.toNat + count.toNat ≤ 256) ∧
    (∃ (h : MbxHdr) (kind : Byte) (seen : W32) (c : MCmd) (s : State), startsNow { opcode := 0x0007, since := 2, sem := true, group := .session } h [.num 0 1 kind.toNat, .num 4 4 seen.toNat] c s ∧ (Tbl.getD s.alarms.slots kind.toNat emptySlot).count = seen) ∧
    (∃ (h : MbxHdr) (first : W32) (max_ : W16) (c : MCmd) (s : State), startsNow { opcode := 0x0008, since := 2, sem := false, group := .session } h [.num 0 4 first.toNat, .num 4 2 max_.toNat] c s ∧ max_ ≠ 0 ∧ max_.toNat ≤ 64) :=
  ⟨⟨⟨.a, true, 7, 1⟩, 1, 3, 0, 3, ⟨⟨.a, true, 7, 1⟩, 1, bodyOf [.num 0 1 (1 : Byte).toNat, .num 1 1 (3 : Byte).toNat, .num 4 8 (0 : W64).toNat]⟩, { mb with mbx := { accepted := [⟨⟨.a, true, 7, 1⟩, 1, bodyOf [.num 0 1 (1 : Byte).toNat, .num 1 1 (3 : Byte).toNat, .num 4 8 (0 : W64).toNat]⟩] } }, by decide, by decide, by decide, by decide, by decide, by decide⟩,
    ⟨hd, cmdOf 0x0002 [], asked 0x0002 [] run, by decide⟩,
    ⟨hd, cmdOf 0x0003 [], asked 0x0003 [] run, by decide⟩,
    ⟨hd, 4, cmdOf 0x0004 [.num 0 1 (4 : Byte).toNat], asked 0x0004 [.num 0 1 (4 : Byte).toNat] run, by decide, by decide, by decide⟩,
    ⟨hd, 1, cmdOf 0x0005 [.num 0 1 (0 : Byte).toNat, .num 1 1 (1 : Byte).toNat], asked 0x0005 [.num 0 1 (0 : Byte).toNat, .num 1 1 (1 : Byte).toNat] run, by decide, by decide⟩,
    ⟨hd, 0, 16, cmdOf 0x0006 [.num 0 1 (0 : Byte).toNat, .num 1 1 (16 : Byte).toNat], asked 0x0006 [.num 0 1 (0 : Byte).toNat, .num 1 1 (16 : Byte).toNat] run, by decide, by decide, by decide, by decide⟩,
    ⟨hd, 1, 0, cmdOf 0x0007 [.num 0 1 (1 : Byte).toNat, .num 4 4 (0 : W32).toNat], asked 0x0007 [.num 0 1 (1 : Byte).toNat, .num 4 4 (0 : W32).toNat] run, by decide, by decide⟩,
    ⟨hd, 0, 4, cmdOf 0x0008 [.num 0 4 (0 : W32).toNat, .num 4 2 (4 : W16).toNat], asked 0x0008 [.num 0 4 (0 : W32).toNat, .num 4 2 (4 : W16).toNat] run, by decide, by decide, by decide⟩⟩

/-- Each clause of Obligations.SidebandCommandsComplete has hypotheses that a state meets. -/
theorem witness_SidebandCommandsComplete :
    (∃ (op : BitVec 2) (eid : Byte) (m : SideMsg) (s : State), spRuns s = true ∧ sideMine m [0, 1] [op.setWidth 8, eid] s = true ∧ op.toNat < 2 ∧ eid ≠ 0 ∧ eid ≠ 0xFF) ∧
    (∃ (m : SideMsg) (s : State), spRuns s = true ∧ sideMine m [0, 2] [] s = true) ∧
    (∃ (m : SideMsg) (s : State), spRuns s = true ∧ sideMine m [0, 4] [0] s = true) ∧
    (∃ (m : SideMsg) (s : State), spRuns s = true ∧ sideMine m [0, 5] [] s = true) ∧
    (∃ (m : SideMsg) (addr : BitVec 7) (s : State), spRuns s = true ∧ arpMine m (.assign (smbusUdid s) addr) = true) ∧
    (∃ (m : SideMsg) (s : State), spRuns s = true ∧ sideMine m [1, 0, 2] [] s = true) ∧
    (∃ (m : SideMsg) (s : State), spRuns s = true ∧ sideMine m [1, 0, 3] [2] s = true) ∧
    (∃ (m : SideMsg) (s : State), spRuns s = true ∧ sideMine m [1, 0, 4] [] s = true) ∧
    (∃ (m : SideMsg) (s : State), spRuns s = true ∧ sideMine m [1, 0, 5] [2] s = true) ∧
    (∃ (m : SideMsg) (s : State), spRuns s = true ∧ sideMine m [1, 2, 0x11] [] s = true) ∧
    (∃ (k : Nat) (slot : List Byte) (m : SideMsg) (s : State), spRuns s = true ∧ sideMine m [1, 2, 0x0B] [] s = true ∧ (takeNotice s).1 = some (k, slot)) ∧
    (∃ (nonce : List Byte) (at_ : Nat) (m : SideMsg) (s : State), spRuns s = true ∧ sideMine m [0x7E, 0x1F, 0x6D] ([1] ++ nonce) s = true ∧ s.trust.reportKey = true ∧ (attestTurn s).1 = some at_) ∧
    (∃ (k : Nat) (slot : List Byte) (m : SideMsg) (s : State), spRuns s = true ∧ sideMine m [0x7E, 0x1F, 0x6D] [2] s = true ∧ (takeNotice s).1 = some (k, slot)) ∧
    (∃ (m : SideMsg) (s : State), spRuns s = true ∧ sideMine m [0x7E, 0x1F, 0x6D] [3] s = true) :=
  ⟨⟨0, 9, (smOf [0, 0x80, 1]), run, by decide, by decide, by decide, by decide, by decide⟩,
    ⟨(smOf [0, 0x80, 2]), run, by decide, by decide⟩,
    ⟨(smOf [0, 0x80, 4]), run, by decide, by decide⟩,
    ⟨(smOf [0, 0x80, 5]), run, by decide, by decide⟩,
    ⟨{ head := [0xC2, 4] }, 0x31, run, by decide, by decide⟩,
    ⟨(smOf [1, 0x80, 0, 2]), run, by decide, by decide⟩,
    ⟨(smOf [1, 0x80, 0, 3]), run, by decide, by decide⟩,
    ⟨(smOf [1, 0x80, 0, 4]), run, by decide, by decide⟩,
    ⟨(smOf [1, 0x80, 0, 5]), run, by decide, by decide⟩,
    ⟨(smOf [1, 0x80, 2, 0x11]), run, by decide, by decide⟩,
    ⟨1, (slotBytes 1 {}), (smOf [1, 0x80, 2, 0x0B]), { run with alarms := { pending := [(1, ())] } }, by decide, by decide, by decide⟩,
    ⟨[], 0, (smOf [0x7E, 0x1F, 0x6D]), { run with trust := { reportKey := true } }, by decide, by decide, by decide, by decide⟩,
    ⟨1, (slotBytes 1 {}), (smOf [0x7E, 0x1F, 0x6D]), { run with alarms := { pending := [(1, ())] } }, by decide, by decide, by decide⟩,
    ⟨(smOf [0x7E, 0x1F, 0x6D]), run, by decide, by decide⟩⟩

/-- Each clause of Obligations.ClusterCommandsComplete has hypotheses that a state meets. -/
theorem witness_ClusterCommandsComplete :
    (∃ (h : MbxHdr) (clusterId : W64) (seed : W16) (c : MCmd) (s : State), startsNow ⟨0x0803, 3, true, .other, false⟩ h [.num 0 8 clusterId.toNat, .num 8 2 seed.toNat] c s ∧ clusterId ≠ 0#64 ∧ seed.toNat ≤ 8191 ∧ nodeId s = some seed.toNat ∧ s.cluster.member = false ∧ Tbl.has s.cipher.keys 1048575 = true) ∧
    (∃ (h : CluHdr) (uid : BitVec 128) (session : W32) (node : Nat) (minV : Nat) (maxV : Nat) (partner : Nat) (u : Traffic) (s : State), fromMember h (.joinRequest uid session node minV maxV partner) u s ∧ minV ≤ 2 ∧ 1 ≤ maxV ∧ leads (heard h u s) = true) ∧
    (∃ (h : CluHdr) (view : Nat) (leader : Nat) (members : Tbl Nat) (u : Traffic) (n : Nat) (s : State), fromMember h (.joinAccept view leader members) u s ∧ s.cluster.joining = some n) ∧
    (∃ (n : Nat) (s : State), s.phase = .run ∧ s.cluster.joining = some n) ∧
    (∃ (h : MbxHdr) (c : MCmd) (s : State), startsNow ⟨0x0804, 3, true, .other, false⟩ h [] c s ∧ s.cluster.member = true ∧ (s.repls.any fun e => e.2.state ≠ .stopped) = false ∧ leads s = true ∧ s.cluster.members.length = 1 ∧ s.cluster.change = none) ∧
    (∃ (s : State), s.phase = .run ∧ s.cluster.leaving = true) ∧
    (∃ (h : CluHdr) (u : Traffic) (s : State), fromMember h .leave u s ∧ leads (heard h u s) = true ∧ s.cluster.change = none) ∧
    (∃ (h : CluHdr) (view : Nat) (changes : List ViewChange) (u : Traffic) (s : State), fromMember h (.viewUpdate view changes) u s ∧ s.cluster.view ≤ view) ∧
    (∃ (h : CluHdr) (view : Nat) (u : Traffic) (x : Change) (s : State), fromMember h (.viewAck view) u s ∧ s.cluster.change = some x ∧ x.view = view ∧ quorum (x.acks ++ [h.src]).eraseDups.length s.cluster.members.length = true) ∧
    (∃ (x : Change) (s : State), s.phase = .run ∧ s.cluster.change = some x) ∧
    (∃ (s : State), s.phase = .run ∧ s.cluster.member = true) ∧
    (∃ (h : CluHdr) (nonce : W64) (u : Traffic) (s : State), fromMember h (.probe nonce) u s) ∧
    (∃ (h : CluHdr) (nonce : W64) (u : Traffic) (s : State), fromMember h (.probeAck nonce) u s) ∧
    (∃ (h : CluHdr) (target : Nat) (nonce : W64) (u : Traffic) (s : State), fromMember h (.probeIndirect target nonce) u s) ∧
    (∃ (node : Nat) (x : Probe) (s : State), s.phase = .run ∧ Tbl.find s.cluster.probes node = some x ∧ x.indirect = true) ∧
    (∃ (h : CluHdr) (node : Nat) (view : Nat) (u : Traffic) (s : State), fromMember h (.suspect node view) u s ∧ node ≠ ownNode s ∧ Tbl.has s.cluster.members node = true ∧ leaderBut s [node] = ownNode s) ∧
    (∃ (node : Nat) (e : Nat) (s : State), s.phase = .run ∧ Tbl.find s.cluster.suspects node = some e ∧ leads s = true) ∧
    (∃ (node : Nat) (u : Traffic) (s : State), s.phase = .run ∧ Tbl.find s.cluster.traffic node = some u ∧ u.prevOk = true) :=
  ⟨⟨hd, 5, 0, cmdOf 0x0803 [.num 0 8 (5 : W64).toNat, .num 8 2 (0 : W16).toNat], asked 0x0803 [.num 0 8 (5 : W64).toNat, .num 8 2 (0 : W16).toNat] { mb with chain := { enclosure := some 0, position := some 0 }, cipher := { keys := [(1048575, kent0)] } }, by decide, by decide, by decide, by decide, by decide, by decide⟩,
    ⟨sealed1 (.joinRequest (0 : BitVec 128) (0 : W32) (2 : Nat) (1 : Nat) (2 : Nat) (65535 : Nat)) clu1, 0, 0, 2, 1, 2, 65535, {}, clu1, from1 _ _ (by decide), by decide, by decide, by decide⟩,
    ⟨sealed1 (.joinAccept (2 : Nat) (0 : Nat) ([] : Tbl Nat)) { clu1 with cluster := { clu1.cluster with joining := some 1 } }, 2, 0, [], {}, 1, { clu1 with cluster := { clu1.cluster with joining := some 1 } }, from1 _ _ (by decide), by decide⟩,
    ⟨1, { run with cluster := { joining := some 1 } }, by decide, by decide⟩,
    ⟨hd, cmdOf 0x0804 [], asked 0x0804 [] { mb with chain := { enclosure := some 0, position := some 0 }, cluster := { member := true, members := [(0, 2)] } }, by decide, by decide, by decide, by decide, by decide, by decide⟩,
    ⟨{ run with cluster := { leaving := true } }, by decide, by decide⟩,
    ⟨sealed1 .leave clu1, {}, clu1, from1 _ _ (by decide), by decide, by decide⟩,
    ⟨sealed1 (.viewUpdate (2 : Nat) ([] : List ViewChange)) clu1, 2, [], {}, clu1, from1 _ _ (by decide), by decide⟩,
    ⟨sealed1 (.viewAck (2 : Nat)) { clu1 with cluster := { clu1.cluster with change := some ⟨2, [], [0], none, 0⟩ } }, 2, {}, ⟨2, [], [0], none, 0⟩, { clu1 with cluster := { clu1.cluster with change := some ⟨2, [], [0], none, 0⟩ } }, from1 _ _ (by decide), by decide, by decide, by decide⟩,
    ⟨⟨2, [], [0], none, 0⟩, { run with cluster := { change := some ⟨2, [], [0], none, 0⟩ } }, by decide, by decide⟩,
    ⟨{ run with cluster := { member := true } }, by decide, by decide⟩,
    ⟨sealed1 (.probe (7 : W64)) clu1, 7, {}, clu1, from1 _ _ (by decide)⟩,
    ⟨sealed1 (.probeAck (7 : W64)) clu1, 7, {}, clu1, from1 _ _ (by decide)⟩,
    ⟨sealed1 (.probeIndirect (3 : Nat) (7 : W64)) clu1, 3, 7, {}, clu1, from1 _ _ (by decide)⟩,
    ⟨3, { nonce := 1, sentAt := 0, indirect := true }, { run with cluster := { probes := [(3, { nonce := 1, sentAt := 0, indirect := true })] } }, by decide, by decide, by decide⟩,
    ⟨sealed1 (.suspect (1 : Nat) (1 : Nat)) clu1, 1, 1, {}, clu1, from1 _ _ (by decide), by decide, by decide, by decide⟩,
    ⟨1, 0, { clu1 with cluster := { clu1.cluster with suspects := [(1, 0)] } }, by decide, by decide, by decide⟩,
    ⟨1, { prevOk := true }, { run with cluster := { traffic := [(1, { prevOk := true })] } }, by decide, by decide, by decide⟩⟩

/-- Each clause of Obligations.TrustCommandsComplete has hypotheses that a state meets. -/
theorem witness_TrustCommandsComplete :
    (∃ (h : MbxHdr) (c : MCmd) (s : State), startsNow { opcode := 0x0101, since := 1, sem := false, group := .trust } h [] c s) ∧
    (∃ (h : MbxHdr) (c : MCmd) (s : State), startsNow { opcode := 0x0102, since := 1, sem := true, group := .trust } h [] c s) ∧
    (∃ (h : MbxHdr) (slot : Byte) (key : List Byte) (g : Signed) (c : MCmd) (s : State), startsNow { opcode := 0x0103, since := 1, sem := true, group := .trust } h [.num 0 1 slot.toNat, .num 1 1 g.signerSlot, .bytes 4 key, .bytes 104 g.signerKey, .bytes 204 g.nonce, .bytes 236 g.signature] c s ∧ slot.toNat ≤ 3 ∧ g.signerSlot ≤ 3 ∧ powerRefused s = false ∧ s.trust.nonce = some g.nonce ∧ isOwned s = false) ∧
    (∃ (h : MbxHdr) (slot : Byte) (g : Signed) (blown : BitVec 3) (c : MCmd) (s : State) (u : State), startsNow { opcode := 0x0104, since := 1, sem := true, group := .trust } h [.num 0 1 slot.toNat, .num 1 1 g.signerSlot, .bytes 4 g.signerKey, .bytes 104 g.nonce, .bytes 136 g.signature] c s ∧ slot.toNat ≤ 3 ∧ signerBad g = false ∧ powerRefused s = false ∧ s.trust.nonce = some g.nonce ∧ (ownerSlot s slot.toNat).programmed = true ∧ s.fuses.revoke.getLsbD slot.toNat = false ∧ otherUsable slot.toNat s = true ∧ u = blowBit (64 + slot.toNat) blown { taken c s with trust := { s.trust with nonce := none } }) ∧
    (∃ (h : MbxHdr) (target : Byte) (blown : BitVec 3) (c : MCmd) (s : State) (u : State), startsNow { opcode := 0x0105, since := 1, sem := true, group := .trust } h [.num 0 1 target.toNat] c s ∧ powerRefused s = false ∧ target.toNat = rollbackValue s + 1 ∧ confirmedState s = true ∧ rollbackValue s + 1 ≤ runningSecurity s ∧ rollbackValue s < 64 ∧ u = blowBit (lowestRollback s) blown (taken c s) ∧ u.fuses.bit (lowestRollback s) = true) ∧
    (∃ (h : MbxHdr) (g : Signed) (blown : BitVec 3) (c : MCmd) (s : State) (u : State), startsNow { opcode := 0x0106, since := 1, sem := true, group := .trust } h [.num 0 1 g.signerSlot, .bytes 4 g.signerKey, .bytes 104 g.nonce, .bytes 136 g.signature] c s ∧ signerBad g = false ∧ powerRefused s = false ∧ s.trust.nonce = some g.nonce ∧ s.fuses.debugPermanent = false ∧ u = blowBit 69 blown { taken c s with fuses := s.fuses.blow 68 7, trust := { s.trust with nonce := none } }) ∧
    (∃ (h : MbxHdr) (g : Signed) (c : MCmd) (s : State), startsNow { opcode := 0x0107, since := 1, sem := true, group := .trust } h [.num 0 1 g.signerSlot, .bytes 4 g.signerKey, .bytes 104 g.nonce, .bytes 136 g.signature] c s ∧ signerBad g = false ∧ s.trust.nonce = some g.nonce ∧ s.fuses.debugPermanent = false ∧ debugIsOpen s = false) ∧
    (∃ (h : MbxHdr) (nonce : List Byte) (addr : W64) (len : W32) (at_ : Nat) (c : MCmd) (s : State), startsNow { opcode := 0x0108, since := 1, sem := false, group := .attest } h [.bytes 0 nonce, .num 32 8 addr.toNat, .num 40 4 len.toNat] c s ∧ 8192 ≤ len.toNat ∧ (attestTurn (taken c s)).1 = some at_) ∧
    (∃ (h : MbxHdr) (imageType : W16) (len : W32) (addr : W64) (k : ImageType) (c : MCmd) (s : State), startsNow { opcode := 0x0109, since := 1, sem := true, group := .trust, recovery := true } h [.num 0 2 imageType.toNat, .num 4 4 len.toNat, .num 8 8 addr.toNat] c s ∧ imageTypeOf imageType.toNat = some k ∧ recoveryNext s = some k) :=
  ⟨⟨hd, cmdOf 0x0101 [], asked 0x0101 [] run, by decide⟩,
    ⟨hd, cmdOf 0x0102 [], asked 0x0102 [] run, by decide⟩,
    ⟨hd, 0, [], sig0, cmdOf 0x0103 [.num 0 1 (0 : Byte).toNat, .num 1 1 (sig0 : Signed).signerSlot, .bytes 4 ([] : List Byte), .bytes 104 (sig0 : Signed).signerKey, .bytes 204 (sig0 : Signed).nonce, .bytes 236 (sig0 : Signed).signature], asked 0x0103 [.num 0 1 (0 : Byte).toNat, .num 1 1 (sig0 : Signed).signerSlot, .bytes 4 ([] : List Byte), .bytes 104 (sig0 : Signed).signerKey, .bytes 204 (sig0 : Signed).nonce, .bytes 236 (sig0 : Signed).signature] { mb with trust := { nonce := some [] } }, by decide, by decide, by decide, by decide, by decide, by decide⟩,
    ⟨hd, 0, sig0, 7, cmdOf 0x0104 [.num 0 1 (0 : Byte).toNat, .num 1 1 (sig0 : Signed).signerSlot, .bytes 4 (sig0 : Signed).signerKey, .bytes 104 (sig0 : Signed).nonce, .bytes 136 (sig0 : Signed).signature], asked 0x0104 [.num 0 1 (0 : Byte).toNat, .num 1 1 (sig0 : Signed).signerSlot, .bytes 4 (sig0 : Signed).signerKey, .bytes 104 (sig0 : Signed).nonce, .bytes 136 (sig0 : Signed).signature] { mb with trust := { nonce := some [] }, fuses := { owner0 := { programmed := true }, owner1 := { programmed := true } } }, _, by decide, by decide, by decide, by decide, by decide, by decide, by decide, by decide, rfl⟩,
    ⟨hd, 1, 7, cmdOf 0x0105 [.num 0 1 (1 : Byte).toNat], asked 0x0105 [.num 0 1 (1 : Byte).toNat] { mb with boot := { stage := .ready, sp := some { securityVersion := 1 }, cc := some { securityVersion := 1 } } }, _, by decide, by decide, by decide, by decide, by decide, by decide, rfl, by decide⟩,
    ⟨hd, sig0, 7, cmdOf 0x0106 [.num 0 1 (sig0 : Signed).signerSlot, .bytes 4 (sig0 : Signed).signerKey, .bytes 104 (sig0 : Signed).nonce, .bytes 136 (sig0 : Signed).signature], asked 0x0106 [.num 0 1 (sig0 : Signed).signerSlot, .bytes 4 (sig0 : Signed).signerKey, .bytes 104 (sig0 : Signed).nonce, .bytes 136 (sig0 : Signed).signature] { mb with trust := { nonce := some [] } }, _, by decide, by decide, by decide, by decide, by decide, rfl⟩,
    ⟨hd, sig0, cmdOf 0x0107 [.num 0 1 (sig0 : Signed).signerSlot, .bytes 4 (sig0 : Signed).signerKey, .bytes 104 (sig0 : Signed).nonce, .bytes 136 (sig0 : Signed).signature], asked 0x0107 [.num 0 1 (sig0 : Signed).signerSlot, .bytes 4 (sig0 : Signed).signerKey, .bytes 104 (sig0 : Signed).nonce, .bytes 136 (sig0 : Signed).signature] { mb with trust := { nonce := some [] } }, by decide, by decide, by decide, by decide, by decide⟩,
    ⟨hd, [], 0, 8192, 0, cmdOf 0x0108 [.bytes 0 ([] : List Byte), .num 32 8 (0 : W64).toNat, .num 40 4 (8192 : W32).toNat], asked 0x0108 [.bytes 0 ([] : List Byte), .num 32 8 (0 : W64).toNat, .num 40 4 (8192 : W32).toNat] run, by decide, by decide, by decide⟩,
    ⟨hd, 1, 0, 0, .stage1, cmdOf 0x0109 [.num 0 2 (1 : W16).toNat, .num 4 4 (0 : W32).toNat, .num 8 8 (0 : W64).toNat], { asked 0x0109 [.num 0 2 (1 : W16).toNat, .num 4 4 (0 : W32).toNat, .num 8 8 (0 : W64).toNat] { mb with boot := { stage := .recovery } } with boot := { stage := .recovery } }, by decide, by decide, by decide⟩⟩

/-- Each clause of Obligations.FirmwareCommandsComplete has hypotheses that a state meets. -/
theorem witness_FirmwareCommandsComplete :
    (∃ (h : MbxHdr) (addr : W64) (len : W32) (c : MCmd) (s : State), startsNow { opcode := 0x0201, since := 1, sem := true } h [.num 0 8 addr.toNat, .num 8 4 len.toNat, .num 12 4 (0 : W32).toNat] c s ∧ (s.fw.state = 0 ∨ s.fw.state = 3 ∨ s.fw.state = 9) ∧ 512 ≤ len.toNat ∧ len.toNat ≤ 67108864) ∧
    (∃ (s : State), s.phase = .run ∧ s.fw.state = 2) ∧
    (∃ (h : MbxHdr) (c : MCmd) (s : State), startsNow { opcode := 0x0202, since := 1, sem := true } h [.num 0 1 0] c s ∧ activateCheck 0 s = none) ∧
    (∃ (r : ImgRec) (s : State), s.phase = .run ∧ s.fw.state = 4 ∧ s.fw.mode = 0 ∧ s.fw.staging.control = some r) ∧
    (∃ (h : MbxHdr) (c : MCmd) (s : State), startsNow { opcode := 0x0202, since := 1, sem := true } h [.num 0 1 (1 : Byte).toNat] c s ∧ activateCheck 1 s = none) ∧
    (∃ (s : State), s.phase = .run ∧ s.fw.state = 4 ∧ s.fw.mode = 1) ∧
    (∃ (e : Nat) (s : State), s.phase = .run ∧ s.fw.windowEnd = some e ∧ inTrial s = true) ∧
    (∃ (s : State), s.phase = .run ∧ inTrial s = true) ∧
    (∃ (h : MbxHdr) (c : MCmd) (s : State), startsNow { opcode := 0x0203, since := 1, sem := true } h [] c s ∧ (s.fw.state = 5 ∨ s.fw.state = 7)) ∧
    (∃ (s : State), s.phase = .run ∧ s.fw.copying = true ∧ s.fw.state = 9 ∧ s.boot.src = .primary) ∧
    (∃ (s : State), s.phase = .run ∧ s.boot.stage = .ready ∧ s.boot.src = .staging ∧ s.fw.copying = true ∧ s.fw.state = 9) ∧
    (∃ (h : MbxHdr) (c : MCmd) (s : State), startsNow { opcode := 0x0204, since := 1, sem := false, group := .fwStatus } h [] c s) ∧
    (∃ (h : MbxHdr) (c : MCmd) (s : State), startsNow { opcode := 0x0205, since := 1, sem := true } h [] c s ∧ (s.fw.state = 3 ∨ s.fw.state = 6)) :=
  ⟨⟨hd, 0, 512, cmdOf 0x0201 [.num 0 8 (0 : W64).toNat, .num 8 4 (512 : W32).toNat, .num 12 4 (0 : W32).toNat], asked 0x0201 [.num 0 8 (0 : W64).toNat, .num 8 4 (512 : W32).toNat, .num 12 4 (0 : W32).toNat] run, by decide, by decide, by decide, by decide⟩,
    ⟨{ mb with fw := { state := 2 } }, by decide, by decide⟩,
    ⟨hd, cmdOf 0x0202 [.num 0 1 0], { asked 0x0202 [.num 0 1 0] { mb with fw := { state := 3, staging := { stage1 := some img1 }, iface := [(1, 3), (1, 3), (1, 3), (1, 3), (1, 3), (1, 3), (1, 3), (1, 3)] } } with boot := { stage := .ready, sp := some { securityVersion := 1, payload := Config.sha384 [] }, cc := some { securityVersion := 1 } } }, by decide, by simp [activateCheck, stage1Differs, asked, img1]; decide⟩,
    ⟨img1, { mb with fw := { state := 4, mode := 0, staging := { control := some img1 } } }, by decide, by decide, by decide, by decide⟩,
    ⟨hd, cmdOf 0x0202 [.num 0 1 (1 : Byte).toNat], asked 0x0202 [.num 0 1 (1 : Byte).toNat] { mb with fw := { state := 3 } }, by decide, by decide⟩,
    ⟨{ mb with fw := { state := 4, mode := 1 } }, by decide, by decide, by decide⟩,
    ⟨600000000000, { mb with fw := { state := 5, mode := 0, windowEnd := some 600000000000 } }, by decide, by decide, by decide⟩,
    ⟨{ mb with fw := { state := 5, mode := 0 } }, by decide, by decide⟩,
    ⟨hd, cmdOf 0x0203 [], asked 0x0203 [] { mb with fw := { state := 5 } }, by decide, by decide⟩,
    ⟨{ mb with fw := { state := 9, copying := true } }, by decide, by decide, by decide, by decide⟩,
    ⟨{ mb with boot := { stage := .ready, src := .staging }, fw := { state := 9, copying := true } }, by decide, by decide, by decide, by decide, by decide⟩,
    ⟨hd, cmdOf 0x0204 [], asked 0x0204 [] run, by decide⟩,
    ⟨hd, cmdOf 0x0205 [], asked 0x0205 [] { mb with fw := { state := 3 } }, by decide, by decide⟩⟩

/-- Each clause of Obligations.ReplicationControlCompletes has hypotheses that a state meets. -/
theorem witness_ReplicationControlCompletes :
    (∃ (h : MbxHdr) (nsid : W32) (mode : Byte) (target : W16) (remote : W32) (interval : W32) (v : Ns) (c : MCmd) (s : State), startsNow ⟨0x0704, 3, true, .other, false⟩ h [.num 0 4 nsid.toNat, .num 4 1 mode.toNat, .num 6 2 target.toNat, .num 8 4 remote.toNat, .num 12 4 interval.toNat] c s ∧ createRefusal nsid.toNat mode.toNat target.toNat remote.toNat interval.toNat s = none ∧ Tbl.find s.ns nsid.toNat = some v) ∧
    (∃ (h : MbxHdr) (nsid : W32) (op : Byte) (rel : Nat) (x : Repl) (c : MCmd) (s : State), startsNow ⟨0x0705, 3, true, .other, false⟩ h [.num 0 4 nsid.toNat, .num 4 1 op.toNat] c s ∧ op = 0 ∧ nsidBad nsid.toNat = false ∧ replOf nsid.toNat s = some (rel, x) ∧ replHalted x = false) ∧
    (∃ (h : MbxHdr) (nsid : W32) (rel : Nat) (x : Repl) (c : MCmd) (s : State), startsNow ⟨0x0705, 3, true, .other, false⟩ h [.num 0 4 nsid.toNat, .num 4 1 1] c s ∧ nsidBad nsid.toNat = false ∧ replOf nsid.toNat s = some (rel, x) ∧ x.state = .paused) ∧
    (∃ (h : MbxHdr) (nsid : W32) (rel : Nat) (x : Repl) (c : MCmd) (s : State), startsNow ⟨0x0705, 3, true, .other, false⟩ h [.num 0 4 nsid.toNat, .num 4 1 2] c s ∧ nsidBad nsid.toNat = false ∧ replOf nsid.toNat s = some (rel, x)) ∧
    (∃ (h : MbxHdr) (nsid : W32) (rel : Nat) (x : Repl) (c : MCmd) (s : State), startsNow ⟨0x0705, 3, true, .other, false⟩ h [.num 0 4 nsid.toNat, .num 4 1 3] c s ∧ nsidBad nsid.toNat = false ∧ replOf nsid.toNat s = some (rel, x)) ∧
    (∃ (h : MbxHdr) (nsid : W32) (rel : Nat) (x : Repl) (c : MCmd) (s : State), startsNow ⟨0x0706, 3, false, .other, false⟩ h [.num 0 4 nsid.toNat] c s ∧ nsidBad nsid.toNat = false ∧ replNamed nsid.toNat s = some (rel, x)) ∧
    (∃ (rel : Nat) (x : Repl) (s : State), s.phase = .run ∧ Tbl.find s.repls rel = some x ∧ x.source = true ∧ x.state ≠ .stopped) ∧
    (∃ (epoch : Nat) (w : Snap) (s : State), s.phase = .run ∧ Tbl.find s.snaps.views epoch = some w ∧ w.pending = [] ∧ w.sealed_ = false ∧ (s.repls.find? fun e => e.2.source && e.2.cycle = some epoch) = none) :=
  ⟨⟨hd, 5, 1, 2, 6, 1000, ns0, cmdOf 0x0704 [.num 0 4 (5 : W32).toNat, .num 4 1 (1 : Byte).toNat, .num 6 2 (2 : W16).toNat, .num 8 4 (6 : W32).toNat, .num 12 4 (1000 : W32).toNat], asked 0x0704 [.num 0 4 (5 : W32).toNat, .num 4 1 (1 : Byte).toNat, .num 6 2 (2 : W16).toNat, .num 8 4 (6 : W32).toNat, .num 12 4 (1000 : W32).toNat] { mb with cluster := { member := true, members := [(0, 2), (2, 2)] }, chain := { enclosure := some 0, position := some 0 }, ns := [(5, ns0)] }, by decide, by decide, by decide⟩,
    ⟨hd, 5, 0, 0, { source := true, nsid := 5, sync := true, node := 2, remoteNsid := 6 }, cmdOf 0x0705 [.num 0 4 (5 : W32).toNat, .num 4 1 (0 : Byte).toNat], asked 0x0705 [.num 0 4 (5 : W32).toNat, .num 4 1 (0 : Byte).toNat] { mb with repls := [(0, { source := true, nsid := 5, sync := true, node := 2, remoteNsid := 6 })] }, by decide, by decide, by decide, by decide, by decide⟩,
    ⟨hd, 5, 0, { source := true, nsid := 5, sync := true, node := 2, remoteNsid := 6, state := .paused }, cmdOf 0x0705 [.num 0 4 (5 : W32).toNat, .num 4 1 1], asked 0x0705 [.num 0 4 (5 : W32).toNat, .num 4 1 1] { mb with repls := [(0, { source := true, nsid := 5, sync := true, node := 2, remoteNsid := 6, state := .paused })] }, by decide, by decide, by decide, by decide⟩,
    ⟨hd, 5, 0, { source := true, nsid := 5, sync := true, node := 2, remoteNsid := 6 }, cmdOf 0x0705 [.num 0 4 (5 : W32).toNat, .num 4 1 2], asked 0x0705 [.num 0 4 (5 : W32).toNat, .num 4 1 2] { mb with repls := [(0, { source := true, nsid := 5, sync := true, node := 2, remoteNsid := 6 })] }, by decide, by decide, by decide⟩,
    ⟨hd, 5, 0, { source := true, nsid := 5, sync := true, node := 2, remoteNsid := 6 }, cmdOf 0x0705 [.num 0 4 (5 : W32).toNat, .num 4 1 3], asked 0x0705 [.num 0 4 (5 : W32).toNat, .num 4 1 3] { mb with repls := [(0, { source := true, nsid := 5, sync := true, node := 2, remoteNsid := 6 })] }, by decide, by decide, by decide⟩,
    ⟨hd, 5, 0, { source := true, nsid := 5, sync := true, node := 2, remoteNsid := 6 }, cmdOf 0x0706 [.num 0 4 (5 : W32).toNat], asked 0x0706 [.num 0 4 (5 : W32).toNat] { mb with repls := [(0, { source := true, nsid := 5, sync := true, node := 2, remoteNsid := 6 })] }, by decide, by decide, by decide⟩,
    ⟨0, { source := true, nsid := 5, sync := true, node := 2, remoteNsid := 6 }, { mb with repls := [(0, { source := true, nsid := 5, sync := true, node := 2, remoteNsid := 6 })] }, by decide, by decide, by decide, by decide⟩,
    ⟨4, view0, { run with snaps := { views := [(4, view0)] } }, by decide, by decide, by decide, by decide, by decide⟩⟩

/-- Each clause of Obligations.ReplicationMessagesComplete has hypotheses that a state meets. -/
theorem witness_ReplicationMessagesComplete :
    (∃ (h : CluHdr) (u : Traffic) (rel : Nat) (src : Nat) (remote : Nat) (sync : Bool) (unitLog : Nat) (size : Nat) (kcv : List Byte) (s : State), fromMember h (.replOpen rel src remote sync unitLog size kcv) u s ∧ openBad remote unitLog size kcv (heard h u s) = false) ∧
    (∃ (h : CluHdr) (u : Traffic) (rel : Nat) (x : Repl) (s : State), fromTarget h (.replOpenAck rel 0) u rel x s ∧ x.opened = false) ∧
    (∃ (h : CluHdr) (u : Traffic) (rel : Nat) (base : Nat) (epoch : Nat) (entries : List (Nat × WireEnt)) (x : Repl) (s : State), fromSource h (.replDelta rel base epoch entries) u rel x s ∧ (base = x.base ∨ base = 0)) ∧
    (∃ (h : CluHdr) (u : Traffic) (rel : Nat) (missing : List Nat) (changed : List (Nat × Nat)) (x : Repl) (e : Nat) (w : Snap) (v : Ns) (s : State), fromTarget h (.replDeltaAck rel missing changed) u rel x s ∧ x.cycle = some e ∧ Tbl.find s.snaps.views e = some w ∧ Tbl.find s.ns x.nsid = some v) ∧
    (∃ (h : CluHdr) (u : Traffic) (rel : Nat) (base : Nat) (epoch : Nat) (units : List WireUnit) (x : Repl) (v : Ns) (s : State), fromSource h (.replUnits rel base epoch units) u rel x s ∧ Tbl.find s.ns x.nsid = some v ∧ keyBlocks (heard h u s) v = false) ∧
    (∃ (h : CluHdr) (u : Traffic) (rel : Nat) (epoch : Nat) (x : Repl) (s : State), fromSource h (.replCommit rel epoch) u rel x s ∧ x.builtEpoch = epoch ∧ x.reported = true) ∧
    (∃ (h : CluHdr) (u : Traffic) (rel : Nat) (epoch : Nat) (x : Repl) (s : State), fromTarget h (.replCommitAck rel epoch) u rel x s ∧ x.cycle = some epoch) ∧
    (∃ (h : CluHdr) (u : Traffic) (rel : Nat) (off : Nat) (seq : Nat) (len : Nat) (data : List Nat) (x : Repl) (v : Ns) (s : State), fromSource h (.replWrite rel off seq len data) u rel x s ∧ Tbl.find s.ns x.nsid = some v ∧ x.sync = true ∧ (x.staged.any fun y => y.1 = seq) = false ∧ keyBlocks (heard h u s) v = false) ∧
    (∃ (h : CluHdr) (u : Traffic) (rel : Nat) (seq : Nat) (x : Repl) (s : State), fromTarget h (.replWriteAck rel seq) u rel x s) ∧
    (∃ (h : CluHdr) (u : Traffic) (rel : Nat) (ranges : List (Nat × Nat)) (key : Nat) (x : Repl) (v : Ns) (s : State), fromMember h (.repairRequest rel ranges) u s ∧ repairRel h.src rel s = some (key, x) ∧ Tbl.find s.ns x.nsid = some v) ∧
    (∃ (h : CluHdr) (u : Traffic) (rel : Nat) (entries : List (Nat × WireEnt)) (units : List WireUnit) (key : Nat) (x : Repl) (v : Ns) (s : State), fromMember h (.repairData rel entries units) u s ∧ repairRel h.src rel s = some (key, x) ∧ Tbl.find s.ns x.nsid = some v ∧ x.repairing = true) :=
  ⟨⟨sealed1 (.replOpen (0 : Nat) (5 : Nat) (6 : Nat) (false : Bool) (12 : Nat) (8192 : Nat) ([] : List Byte)) { clu1 with ns := [(6, ns0)], cipher := { keys := [(0, kent0)], ktwk := some [] } }, {}, 0, 5, 6, false, 12, 8192, [], { clu1 with ns := [(6, ns0)], cipher := { keys := [(0, kent0)], ktwk := some [] } }, from1 _ _ (by decide), by decide⟩,
    ⟨sealed1 (.replOpenAck (0 : Nat) 0) { clu1 with repls := [(0, rel0)] }, {}, 0, rel0, { clu1 with repls := [(0, rel0)] }, ⟨from1 _ _ (by decide), by decide⟩, by decide⟩,
    ⟨sealed1 (.replDelta (0 : Nat) (0 : Nat) (3 : Nat) ([(0, .zero)] : List (Nat × WireEnt))) { clu1 with repls := [(targetKey 1 0, tgt0)] }, {}, 0, 0, 3, [(0, .zero)], tgt0, { clu1 with repls := [(targetKey 1 0, tgt0)] }, ⟨from1 _ _ (by decide), by decide⟩, by decide⟩,
    ⟨sealed1 (.replDeltaAck (0 : Nat) ([] : List Nat) ([] : List (Nat × Nat))) { clu1 with repls := [(0, { rel0 with cycle := some 4 })], ns := [(5, ns0)], snaps := { views := [(4, view0)] } }, {}, 0, [], [], { rel0 with cycle := some 4 }, 4, view0, ns0, { clu1 with repls := [(0, { rel0 with cycle := some 4 })], ns := [(5, ns0)], snaps := { views := [(4, view0)] } }, ⟨from1 _ _ (by decide), by decide⟩, by decide, by decide, by decide⟩,
    ⟨sealed1 (.replUnits (0 : Nat) (0 : Nat) (3 : Nat) ([] : List WireUnit)) { clu1 with repls := [(targetKey 1 0, tgt0)], ns := [(6, ns0)], cipher := { keys := [(0, kent0)], ktwk := some [] } }, {}, 0, 0, 3, [], tgt0, ns0, { clu1 with repls := [(targetKey 1 0, tgt0)], ns := [(6, ns0)], cipher := { keys := [(0, kent0)], ktwk := some [] } }, ⟨from1 _ _ (by decide), by decide⟩, by decide, by decide⟩,
    ⟨sealed1 (.replCommit (0 : Nat) (3 : Nat)) { clu1 with repls := [(targetKey 1 0, { tgt0 with builtEpoch := 3, reported := true })] }, {}, 0, 3, { tgt0 with builtEpoch := 3, reported := true }, { clu1 with repls := [(targetKey 1 0, { tgt0 with builtEpoch := 3, reported := true })] }, ⟨from1 _ _ (by decide), by decide⟩, by decide, by decide⟩,
    ⟨sealed1 (.replCommitAck (0 : Nat) (4 : Nat)) { clu1 with repls := [(0, { rel0 with cycle := some 4 })] }, {}, 0, 4, { rel0 with cycle := some 4 }, { clu1 with repls := [(0, { rel0 with cycle := some 4 })] }, ⟨from1 _ _ (by decide), by decide⟩, by decide⟩,
    ⟨sealed1 (.replWrite (0 : Nat) (0 : Nat) (1 : Nat) (4096 : Nat) ([7] : List Nat)) { clu1 with repls := [(targetKey 1 0, { tgt0 with sync := true })], ns := [(6, ns0)], cipher := { keys := [(0, kent0)], ktwk := some [] } }, {}, 0, 0, 1, 4096, [7], { tgt0 with sync := true }, ns0, { clu1 with repls := [(targetKey 1 0, { tgt0 with sync := true })], ns := [(6, ns0)], cipher := { keys := [(0, kent0)], ktwk := some [] } }, ⟨from1 _ _ (by decide), by decide⟩, by decide, by decide, by decide, by decide⟩,
    ⟨sealed1 (.replWriteAck (0 : Nat) (1 : Nat)) { clu1 with repls := [(0, rel0)] }, {}, 0, 1, rel0, { clu1 with repls := [(0, rel0)] }, ⟨from1 _ _ (by decide), by decide⟩⟩,
    ⟨sealed1 (.repairRequest (0 : Nat) ([(0, 1)] : List (Nat × Nat))) { clu1 with repls := [(0, rel0)], ns := [(5, ns0)] }, {}, 0, [(0, 1)], 0, rel0, ns0, { clu1 with repls := [(0, rel0)], ns := [(5, ns0)] }, from1 _ _ (by decide), by decide, by decide⟩,
    ⟨sealed1 (.repairData (0 : Nat) ([] : List (Nat × WireEnt)) ([] : List WireUnit)) { clu1 with repls := [(0, { rel0 with repairing := true })], ns := [(5, ns0)] }, {}, 0, [], [], 0, { rel0 with repairing := true }, ns0, { clu1 with repls := [(0, { rel0 with repairing := true })], ns := [(5, ns0)] }, from1 _ _ (by decide), by decide, by decide, by decide⟩⟩

/-- Each clause of Obligations.GovernorAndStatisticsComplete has hypotheses that a state meets. -/
theorem witness_GovernorAndStatisticsComplete :
    (∃ (s : State), s.phase = .run) ∧
    (∃ (h : MbxHdr) (activity : Byte) (share : W16) (ceiling : W16) (c : MCmd) (s : State), startsNow { opcode := 0x0903, since := 3, sem := true, group := .other } h [.num 0 1 activity.toNat, .num 2 2 share.toNat, .num 4 2 ceiling.toNat] c s ∧ sharesCheck activity.toNat share.toNat ceiling.toNat s = none) ∧
    (∃ (h : MbxHdr) (g : W16) (addr : W64) (len : W32) (l : List Nat) (c : MCmd) (s : State), startsNow { opcode := 0x0904, since := 2, sem := false, group := .other } h [.num 0 2 g.toNat, .num 4 8 addr.toNat, .num 12 4 len.toNat] c s ∧ statsOf g.toNat s = some l) ∧
    (∃ (h : MbxHdr) (path : Fin 8) (addr : W64) (len : W32) (wrote : List TraceEnt) (c : MCmd) (s : State), startsNow { opcode := 0x0904, since := 2, sem := false, group := .other } h [.num 0 2 (0x4000 + path.val), .num 4 8 addr.toNat, .num 12 4 len.toNat] c (wrote.foldl (tracePut path.val) s) ∧ s.phase = .run) :=
  ⟨⟨run, by decide⟩,
    ⟨hd, 0, 0, 1000, cmdOf 0x0903 [.num 0 1 (0 : Byte).toNat, .num 2 2 (0 : W16).toNat, .num 4 2 (1000 : W16).toNat], asked 0x0903 [.num 0 1 (0 : Byte).toNat, .num 2 2 (0 : W16).toNat, .num 4 2 (1000 : W16).toNat] run, by decide, by decide⟩,
    ⟨hd, 0x1000, 0, 64, (({} : KPort).counters), cmdOf 0x0904 [.num 0 2 (0x1000 : W16).toNat, .num 4 8 (0 : W64).toNat, .num 12 4 (64 : W32).toNat], asked 0x0904 [.num 0 2 (0x1000 : W16).toNat, .num 4 8 (0 : W64).toNat, .num 12 4 (64 : W32).toNat] run, by decide, by decide⟩,
    ⟨hd, 0, 0, 64, [], cmdOf 0x0904 [.num 0 2 (0x4000 + (0 : Fin 8).val), .num 4 8 (0 : W64).toNat, .num 12 4 (64 : W32).toNat], asked 0x0904 [.num 0 2 (0x4000 + (0 : Fin 8).val), .num 4 8 (0 : W64).toNat, .num 12 4 (64 : W32).toNat] run, by decide, by decide⟩⟩

/-- Each clause of Obligations.ErrorCommandsComplete has hypotheses that a state meets. -/
theorem witness_ErrorCommandsComplete :
    (∃ (e : ErrObs) (s : State) (u : State), (s.phase = .run ∨ s.phase = .flushing) ∧ u = (if e.code = 0x0102 && (e.domain = 17 || e.domain = 18) then fillLost e.address.toNat s else s) ∧ hasBit u.power.fenced e.domain = false ∧ e.code.toNat / 256 ≠ 5 ∧ e.code.toNat / 256 ≠ 4 ∧ (u.unitErr e.domain).handler = none ∧ secondHit e u = false) ∧
    (∃ (s : State), (s.phase = .run ∨ s.phase = .flushing)) ∧
    (∃ (d : Fin 64) (e : ErrObs) (s : State), (s.phase = .run ∨ s.phase = .flushing) ∧ (s.unitErr d).handler = some e) ∧
    (∃ (d : Fin 64) (e : ErrObs) (s : State), (s.phase = .run ∨ s.phase = .flushing) ∧ (s.unitErr d).handler = some e) ∧
    (∃ (d : Fin 64) (s : State), s.phase = .run ∧ mayReturn d s = true ∧ hasBit s.power.on d = false ∧ hasBit s.power.ramping d = false ∧ s.power.waiting.contains d.val = false ∧ switchRefused d s = false) ∧
    (∃ (d : Fin 64) (s : State), s.phase = .run ∧ mayReturn d s = true ∧ hasBit s.power.on d = true) ∧
    (∃ (id : Nat) (encs : List (List Byte)) (b : Batch) (v : Ns) (s : State), s.phase = .run ∧ Tbl.find s.grinder.batches id = some b ∧ Tbl.find s.ns b.nsid = some v ∧ (b.units.any fun u => u.ent.isNone) = false ∧ batchEmitted v b encs = true ∧ gatherRoom s v.pool = true ∧ batchVerified v b encs = true) ∧
    (∃ (p : Port) (s : State), s.phase = .run ∧ canFetch p s = true) ∧
    (∃ (p : Port) (ring : Bool) (tag : W32) (c : MCmd) (s : State), s.phase = .run ∧ (s.mbx.accepted.find? fun c => c.hdr.port = p && c.hdr.ring = ring && c.hdr.tag = tag && readsHost c.opcode) = some c) :=
  ⟨⟨err0, mb, _, by decide, rfl, by decide, by decide, by decide, by decide, by decide⟩,
    ⟨mb, by decide⟩,
    ⟨9, err0, { mb with err := { units := [(9, { handler := some err0 })] } }, by decide, by decide⟩,
    ⟨9, err0, { mb with err := { units := [(9, { handler := some err0 })] } }, by decide, by decide⟩,
    ⟨24, { mb with power := { fenced := 0x1000000, repairable := 0x1000000, on := 0 } }, by decide, by decide, by decide, by decide, by decide, by decide⟩,
    ⟨24, { mb with power := { fenced := 0x1000000, repairable := 0x1000000, on := 0x1000000 } }, by decide, by decide, by decide⟩,
    ⟨1, [], bat0, ns0, { mb with ns := [(5, ns0)], pools := [(0, pool0)], grinder := { batches := [(1, bat0)] } }, by decide, by decide, by decide, by decide, by decide, by decide, by decide⟩,
    ⟨.a, { mb with portA := { mb.portA with enable := true, reqTail := 16 } }, by decide, by decide⟩,
    ⟨.a, true, 7, ⟨hd, 0x0201, []⟩, { mb with mbx := { accepted := [⟨hd, 0x0201, []⟩] } }, by decide, by decide⟩⟩

/-- Each clause of Obligations.UtilityDmaComplete has hypotheses that a state meets. -/
theorem witness_UtilityDmaComplete :
    (∃ (n : Fin 32) (p : Port) (s : State), s.phase = .run ∧ (s.port p).caps.d3hot = false ∧ 24 ≤ n.val ∧ (s.chan n).owner = none) ∧
    (∃ (n : Fin 32) (p : Port) (s : State), s.phase = .run ∧ (s.port p).caps.d3hot = false ∧ 24 ≤ n.val ∧ (s.chan n).owner = some p) ∧
    (∃ (n : Fin 32) (p : Port) (ctrl : W32) (s : State), s.phase = .run ∧ (s.port p).caps.d3hot = false ∧ 24 ≤ n.val ∧ (s.chan n).owner = some p ∧ (s.chan n).busy = false ∧ (s.chan n).armed = false ∧ (ctrl ||| 1).getLsbD 1 = true ∧ (ctrl ||| 1).getLsbD 0 = true) ∧
    (∃ (n : Fin 32) (who : UdmaBy) (ctrl : W32) (s : State), s.phase = .run ∧ (∀ p, who = .port p → (s.port p).caps.d3hot = false) ∧ udmaMay who n (s.chan n) = true ∧ ((s.chan n).busy || (s.chan n).armed) = true ∧ (ctrl &&& ~~~ 2).getLsbD 1 = false ∧ (ctrl &&& ~~~ 2).getLsbD 0 = false) ∧
    (∃ (n : Fin 32) (who : UdmaBy) (s : State), s.phase = .run ∧ (∀ p, who = .port p → (s.port p).caps.d3hot = false) ∧ udmaMay who n (s.chan n) = true) ∧
    (∃ (n : Fin 32) (s : State), s.phase = .run ∧ paceMode (s.chan n) = 1 ∧ ((s.chan n).busy || (s.chan n).armed) = true) ∧
    (∃ (n : Fin 32) (s : State), s.phase = .run ∧ (s.chan n).busy = true ∧ (s.chan n).held = none) :=
  ⟨⟨24, .a, mb, by decide, by decide, by decide, by decide⟩,
    ⟨24, .a, { mb with chans := [(24, { owner := some .a })] }, by decide, by decide, by decide, by decide⟩,
    ⟨24, .a, 3, { mb with chans := [(24, { owner := some .a })] }, by decide, by decide, by decide, by decide, by decide, by decide, by decide, by decide⟩,
    ⟨24, .port .a, 0, { mb with chans := [(24, { owner := some .a, busy := true })] }, by decide, fun p hp => by cases hp; decide, by decide, by decide, by decide, by decide⟩,
    ⟨24, .port .a, { mb with chans := [(24, { owner := some .a })] }, by decide, fun p hp => by cases hp; decide, by decide⟩,
    ⟨24, { mb with chans := [(24, { owner := some .a, armed := true, pace := 1 })] }, by decide, by decide, by decide⟩,
    ⟨24, { mb with chans := [(24, { owner := some .a, busy := true })] }, by decide, by decide, by decide⟩⟩

/-- Each clause of Obligations.HostCommandsComplete has hypotheses that a state meets. -/
theorem witness_HostCommandsComplete :
    (∃ (ctrl : Nat) (sq : Nat) (e : SubEntry) (c : Ctrl) (left : List Nat) (s : State), s.phase = .run ∧ Tbl.find s.host.ctrls ctrl = some c ∧ mayFetch c s = true ∧ sq ≠ 0 ∧ arbNext c = some (sq, left) ∧ (e.op ≠ some .compareWrite ∨ 2 ≤ queued c sq) ∧ (findTurn s).host.turn = some c.slice ∧ hasWork (findTurn s) c.slice = true) ∧
    (∃ (id : Nat) (c : Inflight) (v : Ns) (x : Pool) (s : State), s.phase = .run ∧ runningCmd s id .write = some c ∧ Tbl.find s.ns c.nsid = some v ∧ Tbl.find s.pools v.pool = some x ∧ (writeLayout x).reserve ≤ freeSegs x ∧ keyBlocks s v = false ∧ writeGone s = false) ∧
    (∃ (id : Nat) (rest : List Nat) (c : Inflight) (v : Ns) (s : State), s.phase = .run ∧ s.carafe.waiting = id :: rest ∧ cmdAt s id = some c ∧ Tbl.find s.ns c.nsid = some v) ∧
    (∃ (id : Nat) (data : List Nat) (c : Inflight) (s : State), s.phase = .run ∧ cmdAt s id = some c ∧ c.stage = .staging ∧ listBad c s = false ∧ data.length = c.nlb) ∧
    (∃ (id : Nat) (c : Inflight) (s : State), s.phase = .run ∧ runningCmd s id .read = some c ∧ firstPoison s c.nsid c.slba c.nlb = none ∧ readGone s = false ∧ listBad c s = false) ∧
    (∃ (id : Nat) (c : Inflight) (s : State), s.phase = .run ∧ runningCmd s id .read = some c ∧ firstPoison s c.nsid c.slba c.nlb = none ∧ readGone s = false ∧ listBad c s = false ∧ Tbl.has s.ns c.nsid = true ∧ storedUnits s c = []) ∧
    (∃ (id : Nat) (c : Inflight) (s : State), s.phase = .run ∧ runningCmd s id .verify = some c ∧ firstPoison s c.nsid c.slba c.nlb = none ∧ readGone s = false ∧ listBad c s = false) ∧
    (∃ (id : Nat) (c : Inflight) (s : State), s.phase = .run ∧ runningCmd s id .verify = some c ∧ firstPoison s c.nsid c.slba c.nlb = none ∧ readGone s = false ∧ listBad c s = false ∧ Tbl.has s.ns c.nsid = true ∧ storedUnits s c = []) ∧
    (∃ (id : Nat) (c : Inflight) (s : State), s.phase = .run ∧ runningCmd s id .compare = some c ∧ firstPoison s c.nsid c.slba c.nlb = none ∧ readGone s = false ∧ listBad c s = false) ∧
    (∃ (id : Nat) (host : List Nat) (c : Inflight) (s : State), s.phase = .run ∧ runningCmd s id .compare = some c ∧ firstPoison s c.nsid c.slba c.nlb = none ∧ readGone s = false ∧ listBad c s = false ∧ Tbl.has s.ns c.nsid = true ∧ storedUnits (hostGiven id c host s) { c with data := host } = []) ∧
    (∃ (id : Nat) (c : Inflight) (s : State), s.phase = .run ∧ runningCmd s id .compareWrite = some c ∧ firstPoison s c.nsid c.slba c.nlb = none ∧ readGone s = false ∧ listBad c s = false) ∧
    (∃ (id : Nat) (host : List Nat) (c : Inflight) (s : State), s.phase = .run ∧ runningCmd s id .compareWrite = some c ∧ firstPoison s c.nsid c.slba c.nlb = none ∧ readGone s = false ∧ listBad c s = false ∧ Tbl.has s.ns c.nsid = true ∧ storedUnits (hostGiven id c host s) { c with data := host } = []) ∧
    (∃ (id : Nat) (c : Inflight) (v : Ns) (s : State), s.phase = .run ∧ runningCmd s id .writeZeroes = some c ∧ Tbl.find s.ns c.nsid = some v ∧ stagedOver c.nsid c.slba c.nlb s = false) ∧
    (∃ (id : Nat) (c : Inflight) (v : Ns) (a : Nat) (n : Nat) (rest : List (Nat × Nat)) (s : State), s.phase = .run ∧ runningCmd s id .dsm = some c ∧ Tbl.find s.ns c.nsid = some v ∧ c.ranges = (a, n) :: rest ∧ c.deac = true ∧ listBad c s = false ∧ stagedOver c.nsid a n s = false) ∧
    (∃ (id : Nat) (c : Inflight) (v : Ns) (s : State), s.phase = .run ∧ runningCmd s id .writeUncorrectable = some c ∧ Tbl.find s.ns c.nsid = some v) ∧
    (∃ (id : Nat) (c : Inflight) (s : State), s.phase = .run ∧ runningCmd s id .flush = some c) :=
  ⟨⟨1, 1, okEntry, ctrl0, _, io .read, by decide, rfl, by decide, by decide, rfl, by decide, by decide⟩,
    ⟨1, inf0 .write, ns0, pool0, io .write, by decide, by decide, by decide, by decide, by decide, by decide, by decide⟩,
    ⟨1, [], inf0 .write, ns0, { io .write with carafe := { waiting := [1] } }, by decide, by decide, by decide, by decide⟩,
    ⟨1, [7], { inf0 .write with stage := .staging }, { io .write with host := { (io .write).host with inflight := [(1, { inf0 .write with stage := .staging })] } }, by decide, by decide, by decide, by decide, by decide⟩,
    ⟨1, inf0 .read, io .read, by decide, by decide, by decide, by decide, by decide⟩,
    ⟨1, inf0 .read, io .read, by decide, by decide, by decide, by decide, by decide, by decide, by decide⟩,
    ⟨1, inf0 .verify, io .verify, by decide, by decide, by decide, by decide, by decide⟩,
    ⟨1, inf0 .verify, io .verify, by decide, by decide, by decide, by decide, by decide, by decide, by decide⟩,
    ⟨1, inf0 .compare, io .compare, by decide, by decide, by decide, by decide, by decide⟩,
    ⟨1, [0], inf0 .compare, io .compare, by decide, by decide, by decide, by decide, by decide, by decide, by decide⟩,
    ⟨1, inf0 .compareWrite, io .compareWrite, by decide, by decide, by decide, by decide, by decide⟩,
    ⟨1, [0], inf0 .compareWrite, io .compareWrite, by decide, by decide, by decide, by decide, by decide, by decide, by decide⟩,
    ⟨1, inf0 .writeZeroes, ns0, io .writeZeroes, by decide, by decide, by decide, by decide⟩,
    ⟨1, { inf0 .dsm with ranges := [(0, 1)], deac := true }, ns0, 0, 1, [], { io .dsm with host := { (io .dsm).host with inflight := [(1, { inf0 .dsm with ranges := [(0, 1)], deac := true })] } }, by decide, by decide, by decide, by decide, by decide, by decide, by decide⟩,
    ⟨1, inf0 .writeUncorrectable, ns0, io .writeUncorrectable, by decide, by decide, by decide⟩,
    ⟨1, inf0 .flush, io .flush, by decide, by decide⟩⟩

/-- Each clause of Obligations.FlashCommandsComplete has hypotheses that a state meets. -/
theorem witness_FlashCommandsComplete :
    (∃ (m : Fin 96) (page : Nat) (v : VPage) (res : List DecodeResult) (s : State), (s.phase = .run ∨ s.phase = .flushing) ∧ Tbl.find (s.mod m).media.verify page = some v ∧ v.answered = true ∧ v.done = false ∧ pagePasses res = true) ∧
    (∃ (m : Fin 96) (page : Nat) (v : VPage) (res : List DecodeResult) (s : State), (s.phase = .run ∨ s.phase = .flushing) ∧ Tbl.find (s.mod m).media.verify page = some v ∧ v.answered = true ∧ v.done = false ∧ v.failed = true ∧ pagePasses res = false) ∧
    (∃ (m : Fin 96) (cw : Nat) (res : DecodeResult) (corrected : Nat) (stage : Nat) (again : Bool) (dec : Nat) (job : DecJob) (s : State), (s.phase = .run ∨ s.phase = .flushing) ∧ Tbl.find (s.mod m).media.decodes cw = some (stage, again) ∧ holderOf s m cw = some (dec, job) ∧ decodedBits res = some corrected) ∧
    (∃ (m : Fin 96) (cw : Nat) (res : DecodeResult) (stage : Nat) (again : Bool) (dec : Nat) (job : DecJob) (s : State), (s.phase = .run ∨ s.phase = .flushing) ∧ Tbl.find (s.mod m).media.decodes cw = some (stage, again) ∧ holderOf s m cw = some (dec, job) ∧ decodedBits res = none ∧ stage < 3) ∧
    (∃ (m : Fin 96) (inReloc : Bool) (b : Band) (s : State), s.phase = .run ∧ bandOf (s.mod m).media inReloc = some b) ∧
    (∃ (m : Fin 96) (s : State), s.phase = .run ∧ (s.kport m).state = .up) ∧
    (∃ (m : Fin 96) (b : Nat) (s : State) (u : State), s.phase = .run ∧ (block (s.mod m) b).copying = false ∧ (block (s.mod m) b).state = .closed ∧ reclaimTakes (s.mod m) b = true ∧ validStrips (s.mod m) b ≠ [] ∧ u = relocReady m ((s.modBlock m b fun b => { b with state := if b.state = .closed then .source else b.state, intent := true }).modMedia m fun d => { d with reloc := d.reloc.filter (· ≠ b) }) ∧ relocTargets u m b ≠ []) ∧
    (∃ (pool : Fin 8) (seg : Nat) (p : Pool) (g : Seg) (s : State), s.phase = .run ∧ Tbl.find s.pools pool = some p ∧ Tbl.find p.segs seg = some g ∧ cleanTakes s p (seg, g) = true) ∧
    (∃ (m : Fin 96) (page : Nat) (idle : Bool) (s : State), s.phase = .run ∧ scrubNext (s.mod m) = some page ∧ govMay 2 idle [(1, 1152), (2, 1152)] s = true) :=
  ⟨⟨3, 0, vp0, goodPage, { mb with mods := [(3, { media := { verify := [(0, vp0)] } })] }, by decide, by decide, by decide, by decide, goodPage_passes⟩,
    ⟨3, 0, { vp0 with failed := true }, [], { mb with mods := [(3, { media := { verify := [(0, { vp0 with failed := true })] } })] }, by decide, by decide, by decide, by decide, by decide, by decide⟩,
    ⟨3, 0, (.ok 0 [] (md1 [])), 0, 1, false, 2, { module := 3, cw := 0, stage := 1, background := false }, { mb with mods := [(3, { media := { decodes := [(0, (1, false))] } })], ldpc := [(2, { holds := some { module := 3, cw := 0, stage := 1, background := false } })] }, by decide, by decide, by decide, by simp [decodedBits, md1_holds]⟩,
    ⟨3, 0, .failed, 1, false, 2, { module := 3, cw := 0, stage := 1, background := false }, { mb with mods := [(3, { media := { decodes := [(0, (1, false))] } })], ldpc := [(2, { holds := some { module := 3, cw := 0, stage := 1, background := false } })] }, by decide, by decide, by decide, by decide, by decide⟩,
    ⟨3, true, band0, { mb with mods := [(3, { media := { relocBand := some band0 } })] }, by decide, by decide⟩,
    ⟨3, { mb with kports := [(3, { state := .up })] }, by decide, by decide⟩,
    ⟨3, 0, { gv with mods := [(3, { descr := some { descr0 with pagesPerBlock := 6, blocksPerDie := 4 }, media := { blocks := [(0, { state := .closed })], map := [(0, 0)], reloc := [0], relocBand := some { band0 with blocks := [(0, 1)] } } })] }, _, by decide, by decide, by decide, by decide, by decide, rfl, by decide⟩,
    ⟨0, 0, { pool0 with segs := [(0, { seg0 with units := [1] })] }, { seg0 with units := [1] }, { gv with pools := [(0, { pool0 with segs := [(0, { seg0 with units := [1] })] })] }, by decide, by decide, by decide, by decide⟩,
    ⟨3, 0, true, { gv with mods := [(3, { media := { blocks := [(0, { state := .closed, written := 3 })] } })] }, by decide, by decide, by decide⟩⟩

/-- Each clause of Obligations.CarafeAndJournalComplete has hypotheses that a state meets. -/
theorem witness_CarafeAndJournalComplete :
    (∃ (pool : Fin 8) (gather : Nat) (p : Pool) (g : Gather) (s : State), s.phase = .run ∧ Tbl.find s.pools pool = some p ∧ Tbl.find p.gathers gather = some g ∧ g.granules ≠ 0 ∧ g.through = none ∧ g.closing = false) ∧
    (∃ (n : Nat) (g : Group) (s : State), s.phase = .run ∧ nextCommit s = some (n, g) ∧ mayCommit s n g = true) ∧
    (∃ (s : State) (u : State), s.phase = .run ∧ s.journal.compacting = none ∧ u = (if 2 ^ 28 < liveJournal s then s else reachTime (s.journal.lastCompact + 2000000000) s)) ∧
    (∃ (g : Nat) (s : State), s.phase = .run ∧ s.journal.compacting = some g) ∧
    (∃ (g : Nat) (s : State), s.phase = .run ∧ s.journal.compacting = some g ∧ pagesOut s = false ∧ ((openGroups s).any fun x => x.effects.contains (.compact g)) = false) ∧
    (∃ (s : State), s.phase = .run ∧ s.mapCache.ways < 8) ∧
    (∃ (s : State), s.phase = .run ∧ 0 < s.mapCache.ways) ∧
    (∃ (pool : Fin 8) (p : Pool) (s : State), s.phase = .run ∧ Tbl.find s.pools pool = some p ∧ p.checking = true) :=
  ⟨⟨0, 0, { pool0 with gathers := [(0, gat0)] }, gat0, { mb with pools := [(0, { pool0 with gathers := [(0, gat0)] })] }, by decide, by decide, by decide, by decide, by decide, by decide⟩,
    ⟨1, { pool := 0, bytes := 64, whole := true, peerAck := true }, { mb with journal := { groups := [(1, { pool := 0, bytes := 64, whole := true, peerAck := true })] } }, by decide, by decide, by decide⟩,
    ⟨gv, _, by decide, by decide, rfl⟩,
    ⟨1, { mb with journal := { compacting := some 1 } }, by decide, by decide⟩,
    ⟨0, { mb with journal := { compacting := some 0 } }, by decide, by decide, by decide, by decide⟩,
    ⟨mb, by decide, by decide⟩,
    ⟨{ mb with mapCache := { ways := 1 } }, by decide, by decide⟩,
    ⟨0, { pool0 with checking := true }, { mb with pools := [(0, { pool0 with checking := true })] }, by decide, by decide, by decide⟩⟩

/-- Each clause of Obligations.KeyCommandsComplete has hypotheses that a state meets. -/
theorem witness_KeyCommandsComplete :
    (∃ (h : MbxHdr) (index : W32) (kind : Nat) (wrapped : List Byte) (k : List Byte) (c : MCmd) (s : State), startsNow ⟨0x0601, 2, true, .other, false⟩ h [.num 0 4 index.toNat, .num 4 1 kind, .bytes 8 wrapped] c s ∧ index.toNat ≤ 1048575 ∧ keysRefused s = false ∧ kind ≤ 1 ∧ Tbl.has s.cipher.keys index.toNat = false ∧ s.cipher.ktwk = some k) ∧
    (∃ (h : MbxHdr) (wrapped : List Byte) (c : MCmd) (s : State), startsNow ⟨0x0601, 2, true, .other, false⟩ h [.num 0 4 0xFFFFFFFF, .bytes 8 wrapped] c s ∧ keysRefused s = false ∧ s.cipher.ktwk = none) ∧
    (∃ (h : MbxHdr) (index : W32) (wrapped : List Byte) (k : List Byte) (e : KeyEnt) (c : MCmd) (s : State), startsNow ⟨0x0602, 2, true, .other, false⟩ h [.num 0 4 index.toNat, .bytes 8 wrapped] c s ∧ index.toNat ≤ 1048575 ∧ keysRefused s = false ∧ s.cipher.ktwk = some k ∧ Tbl.find s.cipher.keys index.toNat = some e ∧ e.retired.length < 255 ∧ retiredCount s < 1048576) ∧
    (∃ (h : MbxHdr) (wrapped : List Byte) (k : List Byte) (c : MCmd) (s : State), startsNow ⟨0x0602, 2, true, .other, false⟩ h [.num 0 4 0xFFFFFFFF, .bytes 8 wrapped] c s ∧ keysRefused s = false ∧ s.cipher.ktwk = some k) ∧
    (∃ (h : MbxHdr) (index : W32) (c : MCmd) (s : State), startsNow ⟨0x0603, 2, true, .other, false⟩ h [.num 0 4 index.toNat] c s ∧ keyIndexBad index.toNat = false ∧ Tbl.has s.cipher.keys index.toNat = true ∧ keyNamed index.toNat s = false) ∧
    (∃ (h : MbxHdr) (index : W32) (e : KeyEnt) (c : MCmd) (s : State), startsNow ⟨0x0604, 2, false, .other, false⟩ h [.num 0 4 index.toNat] c s ∧ keyIndexBad index.toNat = false ∧ Tbl.find s.cipher.keys index.toNat = some e) ∧
    (∃ (index : Nat) (gen : Nat) (e : KeyEnt) (g : KeyGen) (n : Nat) (s : State), (s.phase = .run ∨ s.phase = .flushing) ∧ Tbl.find s.cipher.keys index = some e ∧ genOf e gen = some g ∧ slotOf (.gen index gen) s = none ∧ victimSlot s = some n) :=
  ⟨⟨hd, 5, 0, [], [], cmdOf 0x0601 [.num 0 4 (5 : W32).toNat, .num 4 1 (0 : Nat), .bytes 8 ([] : List Byte)], asked 0x0601 [.num 0 4 (5 : W32).toNat, .num 4 1 (0 : Nat), .bytes 8 ([] : List Byte)] { mb with cipher := { ktwk := some [] } }, by decide, by decide, by decide, by decide, by decide, by decide⟩,
    ⟨hd, [], cmdOf 0x0601 [.num 0 4 0xFFFFFFFF, .bytes 8 ([] : List Byte)], asked 0x0601 [.num 0 4 0xFFFFFFFF, .bytes 8 ([] : List Byte)] run, by decide, by decide, by decide⟩,
    ⟨hd, 5, [], [], kent0, cmdOf 0x0602 [.num 0 4 (5 : W32).toNat, .bytes 8 ([] : List Byte)], asked 0x0602 [.num 0 4 (5 : W32).toNat, .bytes 8 ([] : List Byte)] { mb with cipher := { ktwk := some [], keys := [(5, kent0)] } }, by decide, by decide, by decide, by decide, by decide, by decide, by decide⟩,
    ⟨hd, [], [], cmdOf 0x0602 [.num 0 4 0xFFFFFFFF, .bytes 8 ([] : List Byte)], asked 0x0602 [.num 0 4 0xFFFFFFFF, .bytes 8 ([] : List Byte)] { mb with cipher := { ktwk := some [] } }, by decide, by decide, by decide⟩,
    ⟨hd, 5, cmdOf 0x0603 [.num 0 4 (5 : W32).toNat], asked 0x0603 [.num 0 4 (5 : W32).toNat] { mb with cipher := { keys := [(5, kent0)] } }, by decide, by decide, by decide, by decide⟩,
    ⟨hd, 5, kent0, cmdOf 0x0604 [.num 0 4 (5 : W32).toNat], asked 0x0604 [.num 0 4 (5 : W32).toNat] { mb with cipher := { keys := [(5, kent0)] } }, by decide, by decide, by decide⟩,
    ⟨5, 0, kent0, kgen0, 0, { mb with cipher := { keys := [(5, kent0)] } }, by decide, by decide, by decide, by decide, by decide⟩⟩

/-- Each clause of Obligations.CipherRequestsComplete has hypotheses that a state meets. -/
theorem witness_CipherRequestsComplete :
    (∃ (r : CipherReq) (n : Nat) (k : KeySlot) (s : State), (s.phase = .run ∨ s.phase = .flushing) ∧ groupUp s 0 = true ∧ xtsBad r = false ∧ keyRef s r.keyIndex r.gen (some r.tweakIv.toNat) = .slot n k) ∧
    (∃ (r : CipherReq) (n : Nat) (k : KeySlot) (s : State), (s.phase = .run ∨ s.phase = .flushing) ∧ groupUp s 0 = true ∧ xtsBad r = false ∧ keyRef s r.keyIndex r.gen (some r.tweakIv.toNat) = .slot n k) ∧
    (∃ (r : CipherReq) (n : Nat) (k : KeySlot) (n2 : Nat) (k2 : KeySlot) (s : State), (s.phase = .run ∨ s.phase = .flushing) ∧ groupUp s 0 = true ∧ xtsBad r = false ∧ keyRef s r.keyIndex r.gen (some r.tweakIv.toNat) = .slot n k ∧ keyRef s r.keyIndex2 r.gen2 (some r.tweak2.toNat) = .slot n2 k2) ∧
    (∃ (r : CipherReq) (m : Nat) (k : KeySlot) (s : State), (s.phase = .run ∨ s.phase = .flushing) ∧ r.ctx < 64 ∧ groupUp s (r.ctx / 32) = true ∧ Tbl.find s.cipher.gcm r.ctx = none ∧ keyRef s r.keyIndex r.gen none = .slot m k ∧ k.gcmKind = true ∧ k.use = .derived) ∧
    (∃ (r : CipherReq) (c : GcmCtx) (s : State), (s.phase = .run ∨ s.phase = .flushing) ∧ Tbl.find s.cipher.gcm r.ctx = some c ∧ c.owner = r.agent ∧ c.failed = false ∧ r.aad = true ∧ c.aad.length + r.data.length ≤ 65536) ∧
    (∃ (r : CipherReq) (c : GcmCtx) (s : State), (s.phase = .run ∨ s.phase = .flushing) ∧ Tbl.find s.cipher.gcm r.ctx = some c ∧ c.owner = r.agent ∧ c.failed = false ∧ r.aad = false ∧ c.final = false ∧ c.text.length + r.data.length < 4294967296) ∧
    (∃ (r : CipherReq) (c : GcmCtx) (s : State), (s.phase = .run ∨ s.phase = .flushing) ∧ Tbl.find s.cipher.gcm r.ctx = some c ∧ c.owner = r.agent ∧ c.failed = false) ∧
    (∃ (r : CipherReq) (n : Nat) (k : KeySlot) (s : State), (s.phase = .run ∨ s.phase = .flushing) ∧ groupUp s 0 = true ∧ r.data.length ≠ 0 ∧ r.data.length % 16 = 0 ∧ r.data.length ≤ 4294967280 ∧ keyRef s r.keyIndex r.gen none = .slot n k ∧ k.gcmKind = true) ∧
    (∃ (r : CipherReq) (n : Nat) (k : KeySlot) (s : State), (s.phase = .run ∨ s.phase = .flushing) ∧ groupUp s 0 = true ∧ r.data.length ≠ 0 ∧ r.data.length % 16 = 0 ∧ r.data.length ≤ 4294967280 ∧ keyRef s r.keyIndex r.gen none = .slot n k ∧ k.gcmKind = true) :=
  ⟨⟨{ creq0 with keyIndex := 0x80000005, data := zeros 16 }, 5, slot5, cy, by decide, by decide, by decide, by decide⟩,
    ⟨{ creq0 with keyIndex := 0x80000005, data := zeros 16 }, 5, slot5, cy, by decide, by decide, by decide, by decide⟩,
    ⟨{ creq0 with keyIndex := 0x80000005, keyIndex2 := 0x80000005, data := zeros 16 }, 5, slot5, 5, slot5, cy, by decide, by decide, by decide, by decide, by decide⟩,
    ⟨{ creq0 with keyIndex := 0x80000005 }, 5, slot5, cy, by decide, by decide, by decide, by decide, by decide, by decide, by decide⟩,
    ⟨{ creq0 with aad := true }, { owner := 0, slot := 5, iv := [] }, { cy with cipher := { gcm := [(0, { owner := 0, slot := 5, iv := [] })] } }, by decide, by decide, by decide, by decide, by decide, by decide⟩,
    ⟨creq0, { owner := 0, slot := 5, iv := [] }, { cy with cipher := { gcm := [(0, { owner := 0, slot := 5, iv := [] })] } }, by decide, by decide, by decide, by decide, by decide, by decide, by decide⟩,
    ⟨creq0, { owner := 0, slot := 5, iv := [] }, { cy with cipher := { gcm := [(0, { owner := 0, slot := 5, iv := [] })] } }, by decide, by decide, by decide, by decide⟩,
    ⟨{ creq0 with keyIndex := 0x80000005, data := zeros 16 }, 5, slot5, cy, by decide, by decide, by decide, by decide, by decide, by decide, by decide⟩,
    ⟨{ creq0 with keyIndex := 0x80000005, data := zeros 16 }, 5, slot5, cy, by decide, by decide, by decide, by decide, by decide, by decide, by decide⟩⟩

/-- Each clause of Obligations.DigestCommandsComplete has hypotheses that a state meets. -/
theorem witness_DigestCommandsComplete :
    (∃ (n : Nat) (s : State), (s.phase = .run ∨ s.phase = .flushing) ∧ ((List.range 8).find? fun n => !Tbl.has s.cipher.dgs n) = some n) ∧
    (∃ (agent : Nat) (n : Fin 8) (s : State), (s.phase = .run ∨ s.phase = .flushing) ∧ (Tbl.find s.cipher.dgs n = none ∨ ∃ c, Tbl.find s.cipher.dgs n = some c ∧ c.owner = some agent)) ∧
    (∃ (agent : Nat) (n : Fin 8) (c : DgsCtx) (s : State), (s.phase = .run ∨ s.phase = .flushing) ∧ Tbl.find s.cipher.dgs n = some c ∧ c.owner = some agent) ∧
    (∃ (agent : Nat) (n : Fin 8) (c : DgsCtx) (s : State), (s.phase = .run ∨ s.phase = .flushing) ∧ Tbl.find s.cipher.dgs n = some c ∧ c.owner = some agent ∧ c.msg = [] ∧ c.padTaken = 0) ∧
    (∃ (agent : Nat) (n : Fin 8) (c : DgsCtx) (s : State), (s.phase = .run ∨ s.phase = .flushing) ∧ Tbl.find s.cipher.dgs n = some c ∧ c.owner = some agent) ∧
    (∃ (agent : Nat) (n : Fin 8) (c : DgsCtx) (s : State), (s.phase = .run ∨ s.phase = .flushing) ∧ Tbl.find s.cipher.dgs n = some c ∧ c.owner = some agent ∧ c.done = true) ∧
    (∃ (s : State), (s.phase = .run ∨ s.phase = .flushing) ∧ s.cipher.ecdsa.busy = false) ∧
    (∃ (s : State), (s.phase = .run ∨ s.phase = .flushing) ∧ s.cipher.ecdsa.busy = false) ∧
    (∃ (s : State), (s.phase = .run ∨ s.phase = .flushing) ∧ s.cipher.ecdsa.busy = true ∧ s.cipher.ecdsa.op = 1) :=
  ⟨⟨0, cy, by decide, by decide⟩,
    ⟨1, 0, cy, by decide, by decide⟩,
    ⟨1, 0, dgs0, { cy with cipher := { dgs := [(0, dgs0)] } }, by decide, by decide, by decide⟩,
    ⟨1, 0, dgs0, { cy with cipher := { dgs := [(0, dgs0)] } }, by decide, by decide, by decide, by decide, by decide⟩,
    ⟨1, 0, dgs0, { cy with cipher := { dgs := [(0, dgs0)] } }, by decide, by decide, by decide⟩,
    ⟨1, 0, { dgs0 with done := true }, { cy with cipher := { dgs := [(0, { dgs0 with done := true })] } }, by decide, by decide, by decide, by decide⟩,
    ⟨cy, by decide, by decide⟩,
    ⟨cy, by decide, by decide⟩,
    ⟨{ cy with cipher := { ecdsa := { op := 1, busy := true } } }, by decide, by decide, by decide⟩⟩

/-- Each clause of Obligations.PoolCommandsComplete has hypotheses that a state meets. -/
theorem witness_PoolCommandsComplete :
    (∃ (h : MbxHdr) (pool : Byte) (k : Byte) (m : Byte) (map : BitVec 96) (c : MCmd) (s : State), startsNow ⟨0x0301, 2, true, .other, false⟩ h [.num 0 1 pool.toNat, .num 1 1 k.toNat, .num 2 1 m.toNat, .num 4 12 map.toNat] c s ∧ pool.toNat ≤ 7 ∧ 2 ≤ k.toNat ∧ k.toNat ≤ 32 ∧ 1 ≤ m.toNat ∧ m.toNat ≤ 4 ∧ k.toNat + m.toNat ≤ 36 ∧ k.toNat + m.toNat + spareDepth (mapModules map).length ≤ (mapModules map).length ∧ ((mapModules map).any fun n => !present s n) = false ∧ ((mapModules map).any fun n => moduleState s n ≠ 1) = false ∧ Tbl.has s.pools pool.toNat = false) ∧
    (∃ (h : MbxHdr) (pool : Byte) (p : Pool) (c : MCmd) (s : State), startsNow ⟨0x0302, 2, true, .other, false⟩ h [.num 0 1 pool.toNat] c s ∧ pool.toNat ≤ 7 ∧ Tbl.find s.pools pool.toNat = some p ∧ (s.ns.any fun e => e.2.pool = pool.toNat) = false) ∧
    (∃ (module : Fin 96) (s : State), s.phase = .run ∧ (s.mod module).stand = .releasing) ∧
    (∃ (h : MbxHdr) (pool : Byte) (p : Pool) (c : MCmd) (s : State), startsNow ⟨0x0303, 2, false, .other, false⟩ h [.num 0 1 pool.toNat] c s ∧ pool.toNat ≤ 7 ∧ Tbl.find s.pools pool.toNat = some p) ∧
    (∃ (h : MbxHdr) (pool : Byte) (map : BitVec 96) (p : Pool) (c : MCmd) (s : State), startsNow ⟨0x0304, 2, true, .other, false⟩ h [.num 0 1 pool.toNat, .num 4 12 map.toNat] c s ∧ pool.toNat ≤ 7 ∧ Tbl.find s.pools pool.toNat = some p ∧ (mapModules map).length ≤ openFails p ∧ ((mapModules map).any fun n => moduleState s n ≠ 1) = false) ∧
    (∃ (h : MbxHdr) (module : Byte) (c : MCmd) (s : State), startsNow ⟨0x0306, 2, false, .other, false⟩ h [.num 0 1 module.toNat] c s ∧ module.toNat ≤ 95) ∧
    (∃ (h : MbxHdr) (module : Byte) (c : MCmd) (s : State), startsNow ⟨0x0307, 2, true, .other, false⟩ h [.num 0 1 module.toNat] c s ∧ module.toNat ≤ 95 ∧ moduleState s module.toNat = 1) ∧
    (∃ (module : Fin 96) (pool : Nat) (p : Pool) (s : State), s.phase = .run ∧ poolOf s module = some pool ∧ Tbl.find s.pools pool = some p ∧ p.owned = true ∧ (p.failed.any fun f => f.module = module.val && (f.state = 1 || f.state = 2 || (f.state = 4 && f.replacement ≠ some module.val))) = false ∧ reachable s module = false) ∧
    (∃ (n : Nat) (e : Privet) (s : State), s.phase = .run ∧ Tbl.find s.host.privet n = some e ∧ e.granted = false ∧ privetFree s.host.privet n e = true ∧ entryMay n s = true) :=
  ⟨⟨hd, 0, 2, 1, 0xF, cmdOf 0x0301 [.num 0 1 (0 : Byte).toNat, .num 1 1 (2 : Byte).toNat, .num 2 1 (1 : Byte).toNat, .num 4 12 (0xF : BitVec 96).toNat], asked 0x0301 [.num 0 1 (0 : Byte).toNat, .num 1 1 (2 : Byte).toNat, .num 2 1 (1 : Byte).toNat, .num 4 12 (0xF : BitVec 96).toNat] { mb with kports := [(0, { state := .up }), (1, { state := .up }), (2, { state := .up }), (3, { state := .up })] }, by decide, by decide, by decide, by decide, by decide, by decide, by decide, by decide, by decide, by decide, by decide⟩,
    ⟨hd, 0, pool0, cmdOf 0x0302 [.num 0 1 (0 : Byte).toNat], asked 0x0302 [.num 0 1 (0 : Byte).toNat] { mb with pools := [(0, pool0)] }, by decide, by decide, by decide, by decide⟩,
    ⟨3, { mb with mods := [(3, { stand := .releasing })] }, by decide, by decide⟩,
    ⟨hd, 0, pool0, cmdOf 0x0303 [.num 0 1 (0 : Byte).toNat], asked 0x0303 [.num 0 1 (0 : Byte).toNat] { mb with pools := [(0, pool0)] }, by decide, by decide, by decide⟩,
    ⟨hd, 0, 0x1000, { pool0 with failed := [{ module := 3, state := 1 }] }, cmdOf 0x0304 [.num 0 1 (0 : Byte).toNat, .num 4 12 (0x1000 : BitVec 96).toNat], asked 0x0304 [.num 0 1 (0 : Byte).toNat, .num 4 12 (0x1000 : BitVec 96).toNat] { mb with pools := [(0, { pool0 with failed := [{ module := 3, state := 1 }] })], kports := [(12, { state := .up })] }, by decide, by decide, by decide, by decide, by decide⟩,
    ⟨hd, 95, cmdOf 0x0306 [.num 0 1 (95 : Byte).toNat], asked 0x0306 [.num 0 1 (95 : Byte).toNat] run, by decide, by decide⟩,
    ⟨hd, 3, cmdOf 0x0307 [.num 0 1 (3 : Byte).toNat], asked 0x0307 [.num 0 1 (3 : Byte).toNat] { mb with kports := [(3, { state := .up })] }, by decide, by decide, by decide⟩,
    ⟨3, 0, pool0, { mb with pools := [(0, pool0)] }, by decide, by decide, by decide, by decide, by decide, by decide⟩,
    ⟨1, { nsid := 5, first := 0, last := 0, excl := true, granted := false, slice := 0, owner := none }, { mb with host := { privet := [(1, { nsid := 5, first := 0, last := 0, excl := true, granted := false, slice := 0, owner := none })] } }, by decide, by decide, by decide, by decide, by decide⟩⟩

/-- Each clause of Obligations.RebuildAndReshapeComplete has hypotheses that a state meets. -/
theorem witness_RebuildAndReshapeComplete :
    (∃ (h : MbxHdr) (pool : Byte) (k : Byte) (m : Byte) (map : BitVec 96) (p : Pool) (c : MCmd) (s : State), startsNow ⟨0x0305, 3, true, .other, false⟩ h [.num 0 1 pool.toNat, .num 1 1 k.toNat, .num 2 1 m.toNat, .num 4 12 map.toNat] c s ∧ pool.toNat ≤ 7 ∧ 2 ≤ k.toNat ∧ k.toNat ≤ 32 ∧ 1 ≤ m.toNat ∧ m.toNat ≤ 4 ∧ k.toNat + m.toNat ≤ 36 ∧ k.toNat + m.toNat + spareDepth (mapModules map).length ≤ (mapModules map).length ∧ Tbl.find s.pools pool.toNat = some p ∧ ((mapModules map).any fun x => !present s x) = false ∧ ((mapModules map).any fun x => moduleState s x ≠ 1 && !(p.cur.members.contains x && moduleState s x = 2)) = false ∧ (p.reshaping || anyExposed p || p.failed ≠ []) = false ∧ 10 * poolUsed p ≤ 9 * (targetLayout s p k.toNat m.toNat (mapModules map) 0).capacity) ∧
    (∃ (pool : Fin 8) (seg : Nat) (p : Pool) (g : Seg) (l : Layout) (s : State), s.phase = .run ∧ Tbl.find s.pools pool = some p ∧ Tbl.find p.segs seg = some g ∧ layoutOf p (segLayout seg) = some l ∧ (!p.owned || p.fenced || p.offline || p.checking || g.lost || releasing s pool seg || (sifOfSeg s pool seg).any (fun x => x.2.state ≠ .committed)) = false ∧ (redundancy l g).isNone = false ∧ openJobs s pool seg = [] ∧ stripWork s p l seg g ≠ [] ∧ rebuildTakes s p (seg, g) = true) ∧
    (∃ (pool : Fin 8) (seg : Nat) (p : Pool) (s : State), s.phase = .run ∧ Tbl.find s.pools pool = some p ∧ mayRelease s pool p seg = true) ∧
    (∃ (pool : Fin 8) (seg : Nat) (p : Pool) (s : State), s.phase = .run ∧ Tbl.find s.pools pool = some p ∧ p.reshaping = true ∧ anyExposed p = false ∧ segLayout seg = p.cur.id ∧ (mayRelease s pool p seg = true ∨ ((oldMoving p < 1024 ∨ (Tbl.find p.segs seg).any (·.moving) = true) ∧ topiaryTakes s p seg = true))) ∧
    (∃ (pool : Fin 8) (p : Pool) (t : Layout) (s : State), s.phase = .run ∧ Tbl.find s.pools pool = some p ∧ p.target = some t ∧ p.reshaping = true ∧ (p.segs.any fun e => segLayout e.1 = p.cur.id) = false ∧ switchReady p t = true ∧ ((openGroups s).any fun g => g.effects.contains (.switchOver pool)) = false) :=
  ⟨⟨hd, 0, 2, 1, 0xF, { pool0 with cur := { lay0 with n := 0, members := [] } }, cmdOf 0x0305 [.num 0 1 (0 : Byte).toNat, .num 1 1 (2 : Byte).toNat, .num 2 1 (1 : Byte).toNat, .num 4 12 (0xF : BitVec 96).toNat], asked 0x0305 [.num 0 1 (0 : Byte).toNat, .num 1 1 (2 : Byte).toNat, .num 2 1 (1 : Byte).toNat, .num 4 12 (0xF : BitVec 96).toNat] { mb with pools := [(0, { pool0 with cur := { lay0 with n := 0, members := [] } })], kports := [(0, { state := .up }), (1, { state := .up }), (2, { state := .up }), (3, { state := .up })] }, by decide, by decide, by decide, by decide, by decide, by decide, by decide, by decide, by decide, by decide, by decide, by decide, by decide⟩,
    ⟨0, 0, { pool0 with segs := [(0, { seg0 with missing := 1 })] }, { seg0 with missing := 1 }, lay0, { gv with pools := [(0, { pool0 with segs := [(0, { seg0 with missing := 1 })] })] }, by decide, by decide, by decide, by decide, by decide, by decide, by decide, by decide, by decide⟩,
    ⟨0, 0, { pool0 with segs := [(0, seg0)] }, { mb with pools := [(0, { pool0 with segs := [(0, seg0)] })] }, by decide, by decide, by decide⟩,
    ⟨0, 0, { pool0 with reshaping := true, segs := [(0, seg0)] }, { mb with pools := [(0, { pool0 with reshaping := true, segs := [(0, seg0)] })] }, by decide, by decide, by decide, by decide, by decide, by decide⟩,
    ⟨0, { pool0 with reshaping := true, target := some { lay0 with id := 1 } }, { lay0 with id := 1 }, { mb with pools := [(0, { pool0 with reshaping := true, target := some { lay0 with id := 1 } })] }, by decide, by decide, by decide, by decide, by decide, by decide, by decide⟩⟩

/-- Each clause of Obligations.VolumeCommandsComplete has hypotheses that a state meets. -/
theorem witness_VolumeCommandsComplete :
    (∃ (h : MbxHdr) (nsid : W32) (slice : W16) (pool : Byte) (unit : Byte) (size : W64) (compress : Byte) (level : Byte) (key : W32) (sl : Slice) (c : MCmd) (s : State), startsNow ⟨0x0401, 2, true, .other, false⟩ h [.num 0 4 nsid.toNat, .num 4 2 slice.toNat, .num 6 1 pool.toNat, .num 7 1 unit.toNat, .num 8 8 size.toNat, .num 16 1 compress.toNat, .num 17 1 level.toNat, .num 20 4 key.toNat] c s ∧ nsidBad nsid.toNat = false ∧ slice.toNat ≤ 4095 ∧ pool.toNat ≤ 7 ∧ unit.toNat ≤ 2 ∧ sizeBad size.toNat = false ∧ compress.toNat ≤ 2 ∧ levelBad compress.toNat level.toNat = false ∧ key.toNat ≤ 1048575 ∧ Tbl.find s.slices slice.toNat = some sl ∧ Tbl.has s.pools pool.toNat = true ∧ Tbl.has s.ns nsid.toNat = false ∧ keyTaken s key.toNat slice.toNat = false ∧ xtsHeld s key.toNat = true ∧ nsCount s slice.toNat < sl.namespaces) ∧
    (∃ (h : MbxHdr) (nsid : W32) (v : Ns) (c : MCmd) (s : State), startsNow ⟨0x0402, 2, true, .other, false⟩ h [.num 0 4 nsid.toNat] c s ∧ nsidBad nsid.toNat = false ∧ Tbl.find s.ns nsid.toNat = some v ∧ (replOf nsid.toNat s).isSome = false) ∧
    (∃ (h : MbxHdr) (nsid : W32) (size : W64) (v : Ns) (c : MCmd) (s : State), startsNow ⟨0x0403, 2, true, .other, false⟩ h [.num 0 4 nsid.toNat, .num 8 8 size.toNat] c s ∧ nsidBad nsid.toNat = false ∧ sizeBad size.toNat = false ∧ Tbl.find s.ns nsid.toNat = some v ∧ v.size ≤ size.toNat) ∧
    (∃ (h : MbxHdr) (nsid : W32) (size : W64) (v : Ns) (c : MCmd) (s : State), startsNow ⟨0x0403, 2, true, .other, false⟩ h [.num 0 4 nsid.toNat, .num 8 8 size.toNat] c s ∧ nsidBad nsid.toNat = false ∧ sizeBad size.toNat = false ∧ Tbl.find s.ns nsid.toNat = some v ∧ size.toNat < v.size ∧ (ownsPool s v.pool || !peerPresent s) = true) ∧
    (∃ (h : MbxHdr) (nsid : W32) (size : W64) (v : Ns) (c : MCmd) (s : State), startsNow ⟨0x0403, 2, true, .other, false⟩ h [.num 0 4 nsid.toNat, .num 8 8 size.toNat] c s ∧ nsidBad nsid.toNat = false ∧ sizeBad size.toNat = false ∧ Tbl.find s.ns nsid.toNat = some v ∧ size.toNat < v.size ∧ ownsPool s v.pool = false ∧ peerPresent s = true) ∧
    (∃ (h : MbxHdr) (nsid : W32) (v : Ns) (c : MCmd) (s : State), startsNow ⟨0x0404, 2, false, .other, false⟩ h [.num 0 4 nsid.toNat] c s ∧ nsidBad nsid.toNat = false ∧ Tbl.find s.ns nsid.toNat = some v) ∧
    (∃ (h : MbxHdr) (nsid : W32) (v : Ns) (c : MCmd) (s : State), startsNow ⟨0x0701, 2, true, .other, false⟩ h [.num 0 4 nsid.toNat] c s ∧ nsidBad nsid.toNat = false ∧ Tbl.find s.ns nsid.toNat = some v ∧ s.snaps.views.length < 1048576 ∧ (viewsOf s nsid.toNat).length < 16384 ∧ (ownsPool s v.pool || !peerPresent s) = true) ∧
    (∃ (h : MbxHdr) (nsid : W32) (v : Ns) (c : MCmd) (s : State), startsNow ⟨0x0701, 2, true, .other, false⟩ h [.num 0 4 nsid.toNat] c s ∧ nsidBad nsid.toNat = false ∧ Tbl.find s.ns nsid.toNat = some v ∧ s.snaps.views.length < 1048576 ∧ (viewsOf s nsid.toNat).length < 16384 ∧ ownsPool s v.pool = false ∧ peerPresent s = true) ∧
    (∃ (n : Nat) (a : Nat) (why : CutFor) (since : Nat) (s : State), s.phase = .run ∧ n ≠ 0 ∧ Tbl.find s.snaps.jobs n = some (.cut a why since)) ∧
    (∃ (a : Nat) (b : Nat) (c : Nat) (d : Nat) (v : Nat) (why : CutFor) (since : Nat) (rest : List (Nat × Nat × Nat × Nat × LockJob)) (s : State), s.phase = .run ∧ s.snaps.jobWait = (a, b, c, d, .cut v why since) :: rest) ∧
    (∃ (h : MbxHdr) (nsid : W32) (epoch : W64) (w : Snap) (c : MCmd) (s : State), startsNow ⟨0x0702, 2, true, .other, false⟩ h [.num 0 4 nsid.toNat, .num 8 8 epoch.toNat] c s ∧ nsidBad nsid.toNat = false ∧ Tbl.find s.snaps.views epoch.toNat = some w ∧ w.nsid = nsid.toNat ∧ w.held = false) ∧
    (∃ (h : MbxHdr) (src : W32) (new : W32) (epoch : W64) (v : Ns) (w : Snap) (sl : Slice) (c : MCmd) (s : State), startsNow ⟨0x0703, 2, true, .other, false⟩ h [.num 0 4 src.toNat, .num 4 4 new.toNat, .num 8 8 epoch.toNat] c s ∧ nsidBad src.toNat = false ∧ nsidBad new.toNat = false ∧ Tbl.find s.ns src.toNat = some v ∧ Tbl.find s.snaps.views epoch.toNat = some w ∧ w.nsid = src.toNat ∧ Tbl.has s.ns new.toNat = false ∧ Tbl.find s.slices v.slice = some sl ∧ nsCount s v.slice < sl.namespaces) :=
  ⟨⟨hd, 5, 0, 0, 0, 0x100000, 0, 0, 0, slice0, cmdOf 0x0401 [.num 0 4 (5 : W32).toNat, .num 4 2 (0 : W16).toNat, .num 6 1 (0 : Byte).toNat, .num 7 1 (0 : Byte).toNat, .num 8 8 (0x100000 : W64).toNat, .num 16 1 (0 : Byte).toNat, .num 17 1 (0 : Byte).toNat, .num 20 4 (0 : W32).toNat], asked 0x0401 [.num 0 4 (5 : W32).toNat, .num 4 2 (0 : W16).toNat, .num 6 1 (0 : Byte).toNat, .num 7 1 (0 : Byte).toNat, .num 8 8 (0x100000 : W64).toNat, .num 16 1 (0 : Byte).toNat, .num 17 1 (0 : Byte).toNat, .num 20 4 (0 : W32).toNat] { mb with slices := [(0, slice0)], pools := [(0, pool0)], cipher := { ktwk := some [], keys := [(0, { kent0 with cur := { kgen0 with kind := 0 } })] } }, by decide, by decide, by decide, by decide, by decide, by decide, by decide, by decide, by decide, by decide, by decide, by decide, by decide, by decide, by decide⟩,
    ⟨hd, 5, ns0, cmdOf 0x0402 [.num 0 4 (5 : W32).toNat], asked 0x0402 [.num 0 4 (5 : W32).toNat] { mb with ns := [(5, ns0)] }, by decide, by decide, by decide, by decide⟩,
    ⟨hd, 5, 0x100000, ns0, cmdOf 0x0403 [.num 0 4 (5 : W32).toNat, .num 8 8 (0x100000 : W64).toNat], asked 0x0403 [.num 0 4 (5 : W32).toNat, .num 8 8 (0x100000 : W64).toNat] { mb with ns := [(5, ns0)] }, by decide, by decide, by decide, by decide, by decide⟩,
    ⟨hd, 5, 0x100000, { ns0 with size := 0x200000 }, cmdOf 0x0403 [.num 0 4 (5 : W32).toNat, .num 8 8 (0x100000 : W64).toNat], asked 0x0403 [.num 0 4 (5 : W32).toNat, .num 8 8 (0x100000 : W64).toNat] { mb with ns := [(5, { ns0 with size := 0x200000 })] }, by decide, by decide, by decide, by decide, by decide, by decide⟩,
    ⟨hd, 5, 0x100000, { ns0 with size := 0x200000 }, cmdOf 0x0403 [.num 0 4 (5 : W32).toNat, .num 8 8 (0x100000 : W64).toNat], { asked 0x0403 [.num 0 4 (5 : W32).toNat, .num 8 8 (0x100000 : W64).toNat] { mb with ns := [(5, { ns0 with size := 0x200000 })] } with peerState := .mirrored }, by decide, by decide, by decide, by decide, by decide, by decide, by decide⟩,
    ⟨hd, 5, ns0, cmdOf 0x0404 [.num 0 4 (5 : W32).toNat], asked 0x0404 [.num 0 4 (5 : W32).toNat] { mb with ns := [(5, ns0)] }, by decide, by decide, by decide⟩,
    ⟨hd, 5, ns0, cmdOf 0x0701 [.num 0 4 (5 : W32).toNat], asked 0x0701 [.num 0 4 (5 : W32).toNat] { mb with ns := [(5, ns0)] }, by decide, by decide, by decide, by decide, by decide, by decide⟩,
    ⟨hd, 5, ns0, cmdOf 0x0701 [.num 0 4 (5 : W32).toNat], { asked 0x0701 [.num 0 4 (5 : W32).toNat] { mb with ns := [(5, ns0)] } with peerState := .mirrored }, by decide, by decide, by decide, by decide, by decide, by decide, by decide⟩,
    ⟨1, 5, .mailbox, 0, { mb with snaps := { jobs := [(1, .cut 5 .mailbox 0)] } }, by decide, by decide, by decide⟩,
    ⟨0, 0, 0, 0, 5, .mailbox, 0, [], { mb with snaps := { jobWait := [(0, 0, 0, 0, .cut 5 .mailbox 0)] } }, by decide, by decide⟩,
    ⟨hd, 5, 1, view0, cmdOf 0x0702 [.num 0 4 (5 : W32).toNat, .num 8 8 (1 : W64).toNat], asked 0x0702 [.num 0 4 (5 : W32).toNat, .num 8 8 (1 : W64).toNat] { mb with snaps := { views := [(1, view0)] } }, by decide, by decide, by decide, by decide, by decide⟩,
    ⟨hd, 5, 6, 1, ns0, view0, slice0, cmdOf 0x0703 [.num 0 4 (5 : W32).toNat, .num 4 4 (6 : W32).toNat, .num 8 8 (1 : W64).toNat], asked 0x0703 [.num 0 4 (5 : W32).toNat, .num 4 4 (6 : W32).toNat, .num 8 8 (1 : W64).toNat] { mb with ns := [(5, ns0)], slices := [(0, slice0)], snaps := { views := [(1, view0)] } }, by decide, by decide, by decide, by decide, by decide, by decide, by decide, by decide, by decide⟩⟩

/-- Each clause of Obligations.SliceCommandsComplete has hypotheses that a state meets. -/
theorem witness_SliceCommandsComplete :
    (∃ (h : MbxHdr) (slice : W16) (bindType : Byte) (bind : W32) (qp : W32) (ns : W32) (c : MCmd) (s : State), startsNow ⟨0x0501, 2, true, .other, false⟩ h [.num 0 2 slice.toNat, .num 2 1 bindType.toNat, .num 4 4 bind.toNat, .num 8 4 qp.toNat, .num 12 4 ns.toNat] c s ∧ slice.toNat ≤ 4095 ∧ bindType.toNat ≤ 1 ∧ (bindType = 0 → bind.toNat ≤ 0xFFFFF) ∧ bind ≠ 0 ∧ 2 ≤ qp.toNat ∧ qp.toNat ≤ 65536 ∧ ns ≠ 0 ∧ ns.toNat ≤ 65536 ∧ Tbl.has s.slices slice.toNat = false ∧ (s.slices.any fun e => e.2.tenant = decide (bindType.toNat = 1) && e.2.bind = bind.toNat) = false ∧ pairsReserved s none + qp.toNat ≤ 65536 ∧ nsReserved s none + ns.toNat ≤ 65536 ∧ (bindType = 0 → (vectorRun s (min qp.toNat 16)).isSome = true)) ∧
    (∃ (h : MbxHdr) (slice : W16) (qp : W32) (ns : W32) (permille : W16) (c : MCmd) (s : State), startsNow ⟨0x0502, 3, true, .other, false⟩ h [.num 0 2 slice.toNat, .num 4 4 qp.toNat, .num 8 4 ns.toNat, .num 12 2 permille.toNat] c s ∧ slice.toNat ≤ 4095 ∧ 2 ≤ qp.toNat ∧ qp.toNat ≤ 65536 ∧ ns ≠ 0 ∧ ns.toNat ≤ 65536 ∧ permille ≠ 0 ∧ permille.toNat ≤ 1000 ∧ Tbl.has s.slices slice.toNat = true ∧ mostPairs s slice.toNat ≤ qp.toNat ∧ nsCount s slice.toNat ≤ ns.toNat ∧ pairsReserved s (some slice.toNat) + qp.toNat ≤ 65536 ∧ nsReserved s (some slice.toNat) + ns.toNat ≤ 65536) ∧
    (∃ (h : MbxHdr) (slice : W16) (mode : Byte) (c : MCmd) (s : State), startsNow ⟨0x0503, 2, true, .other, false⟩ h [.num 0 2 slice.toNat, .num 2 1 mode.toNat] c s ∧ slice.toNat ≤ 4095 ∧ mode.toNat ≤ 1 ∧ Tbl.has s.slices slice.toNat = true ∧ sliceRunning s slice.toNat = false) ∧
    (∃ (slice : Fin 4096) (sl : Slice) (r : SliceRun) (s : State), s.phase = .run ∧ Tbl.find s.slices slice = some sl ∧ sl.run = some r ∧ r.squash = false ∧ r.torn = false) ∧
    (∃ (h : MbxHdr) (slice : W16) (c : MCmd) (s : State), startsNow ⟨0x0504, 2, true, .other, false⟩ h [.num 0 2 slice.toNat] c s ∧ slice.toNat ≤ 4095 ∧ Tbl.has s.slices slice.toNat = true ∧ nsCount s slice.toNat = 0 ∧ sliceRunning s slice.toNat = false) ∧
    (∃ (h : MbxHdr) (slice : W16) (op : Byte) (c : MCmd) (s : State), startsNow ⟨0x0505, 3, true, .other, false⟩ h [.num 0 2 slice.toNat, .num 2 1 op.toNat] c s ∧ op = 0 ∧ firstFail (dirtyChecks s slice.toNat) = none ∧ isLogging s slice.toNat = false ∧ loggingSlices s < 64 ∧ isTenant s slice.toNat = false) ∧
    (∃ (h : MbxHdr) (slice : W16) (addr : W64) (len : W32) (c : MCmd) (s : State), startsNow ⟨0x0505, 3, true, .other, false⟩ h [.num 0 2 slice.toNat, .num 2 1 2, .num 4 8 addr.toNat, .num 12 4 len.toNat] c s ∧ firstFail (dirtyChecks s slice.toNat) = none ∧ isLogging s slice.toNat = true ∧ 88 ≤ len.toNat) ∧
    (∃ (h : MbxHdr) (slice : W16) (addr : W64) (len : W32) (late : Bool) (c : MCmd) (s : State), startsNow ⟨0x0505, 3, true, .other, false⟩ h [.num 0 2 slice.toNat, .num 2 1 1, .num 4 8 addr.toNat, .num 12 4 len.toNat] c s ∧ firstFail (dirtyChecks s slice.toNat) = none ∧ isLogging s slice.toNat = true ∧ 88 ≤ len.toNat ∧ (late && sliceLeft s slice.toNat) = false) :=
  ⟨⟨hd, 1, 0, 1, 2, 1, cmdOf 0x0501 [.num 0 2 (1 : W16).toNat, .num 2 1 (0 : Byte).toNat, .num 4 4 (1 : W32).toNat, .num 8 4 (2 : W32).toNat, .num 12 4 (1 : W32).toNat], asked 0x0501 [.num 0 2 (1 : W16).toNat, .num 2 1 (0 : Byte).toNat, .num 4 4 (1 : W32).toNat, .num 8 4 (2 : W32).toNat, .num 12 4 (1 : W32).toNat] run, by decide, by decide, by decide, by decide, by decide, by decide, by decide, by decide, by decide, by decide, by decide, by decide, by decide, by decide⟩,
    ⟨hd, 0, 2, 1, 100, cmdOf 0x0502 [.num 0 2 (0 : W16).toNat, .num 4 4 (2 : W32).toNat, .num 8 4 (1 : W32).toNat, .num 12 2 (100 : W16).toNat], asked 0x0502 [.num 0 2 (0 : W16).toNat, .num 4 4 (2 : W32).toNat, .num 8 4 (1 : W32).toNat, .num 12 2 (100 : W16).toNat] { mb with slices := [(0, slice0)] }, by decide, by decide, by decide, by decide, by decide, by decide, by decide, by decide, by decide, by decide, by decide, by decide, by decide⟩,
    ⟨hd, 0, 1, cmdOf 0x0503 [.num 0 2 (0 : W16).toNat, .num 2 1 (1 : Byte).toNat], asked 0x0503 [.num 0 2 (0 : W16).toNat, .num 2 1 (1 : Byte).toNat] { mb with slices := [(0, slice0)] }, by decide, by decide, by decide, by decide, by decide⟩,
    ⟨0, { slice0 with run := some { squash := false } }, { squash := false }, { mb with slices := [(0, { slice0 with run := some { squash := false } })] }, by decide, by decide, by decide, by decide, by decide⟩,
    ⟨hd, 0, cmdOf 0x0504 [.num 0 2 (0 : W16).toNat], asked 0x0504 [.num 0 2 (0 : W16).toNat] { mb with slices := [(0, slice0)] }, by decide, by decide, by decide, by decide, by decide⟩,
    ⟨hd, 0, 0, cmdOf 0x0505 [.num 0 2 (0 : W16).toNat, .num 2 1 (0 : Byte).toNat], asked 0x0505 [.num 0 2 (0 : W16).toNat, .num 2 1 (0 : Byte).toNat] { mb with slices := [(0, { slice0 with tenant := false })] }, by decide, by decide, by decide, by decide, by decide, by decide⟩,
    ⟨hd, 0, 0x1000, 88, cmdOf 0x0505 [.num 0 2 (0 : W16).toNat, .num 2 1 2, .num 4 8 (0x1000 : W64).toNat, .num 12 4 (88 : W32).toNat], asked 0x0505 [.num 0 2 (0 : W16).toNat, .num 2 1 2, .num 4 8 (0x1000 : W64).toNat, .num 12 4 (88 : W32).toNat] { mb with slices := [(0, { slice0 with dirty := some {} })] }, by decide, by decide, by decide, by decide⟩,
    ⟨hd, 0, 0x1000, 88, false, cmdOf 0x0505 [.num 0 2 (0 : W16).toNat, .num 2 1 1, .num 4 8 (0x1000 : W64).toNat, .num 12 4 (88 : W32).toNat], asked 0x0505 [.num 0 2 (0 : W16).toNat, .num 2 1 1, .num 4 8 (0x1000 : W64).toNat, .num 12 4 (88 : W32).toNat] { mb with slices := [(0, { slice0 with dirty := some {} })] }, by decide, by decide, by decide, by decide, by decide⟩⟩

/-- Each clause of Obligations.KamardLinkComplete has hypotheses that a state meets. -/
theorem witness_KamardLinkComplete :
    (∃ (port : Fin 96) (s : State), s.phase = .run ∧ (s.kport port).state = .detect) ∧
    (∃ (port : Fin 96) (s : State), s.phase = .run ∧ (s.kport port).state = .detect) ∧
    (∃ (port : Fin 96) (s : State), s.phase = .run ∧ (s.kport port).state = .acquire) ∧
    (∃ (port : Fin 96) (s : State), s.phase = .run ∧ (s.kport port).state = .acquire) ∧
    (∃ (port : Fin 96) (s : State), s.phase = .run ∧ (s.kport port).state = .negotiate) ∧
    (∃ (port : Fin 96) (version : Nat) (s : State), s.phase = .run ∧ (s.kport port).state = .negotiate ∧ (version = 1 ∨ version = 2) ∧ (s.kport port).peerSerial = none ∧ peerSubs s = []) ∧
    (∃ (s : State), (s.phase = .run ∨ s.phase = .flushing)) ∧
    (∃ (s : State), (s.phase = .run ∨ s.phase = .flushing)) ∧
    (∃ (port : Fin 96) (s : State), (s.phase = .run ∨ s.phase = .flushing) ∧ (s.kport port).nakSent = true) ∧
    (∃ (s : State), (s.phase = .run ∨ s.phase = .flushing)) ∧
    (∃ (s : State), (s.phase = .run ∨ s.phase = .flushing)) ∧
    (∃ (s : State), (s.phase = .run ∨ s.phase = .flushing)) ∧
    (∃ (s : State), (s.phase = .run ∨ s.phase = .flushing)) ∧
    (∃ (port : Fin 96) (s : State), (s.phase = .run ∨ s.phase = .flushing) ∧ (s.kport port).state = .retrain) ∧
    (∃ (port : Fin 96) (s : State), s.phase = .run ∧ (s.kport port).state = .down) :=
  ⟨⟨3, { mb with kports := [(3, { state := .detect })] }, by decide, by decide⟩,
    ⟨3, { mb with kports := [(3, { state := .detect })] }, by decide, by decide⟩,
    ⟨3, { mb with kports := [(3, { state := .acquire })] }, by decide, by decide⟩,
    ⟨3, { mb with kports := [(3, { state := .acquire })] }, by decide, by decide⟩,
    ⟨3, { mb with kports := [(3, { state := .negotiate })] }, by decide, by decide⟩,
    ⟨3, 2, { mb with kports := [(3, { state := .negotiate })] }, by decide, by decide, by decide, by decide, by decide⟩,
    ⟨mb, by decide⟩,
    ⟨mb, by decide⟩,
    ⟨3, { mb with kports := [(3, { state := .up, nakSent := true })] }, by decide, by decide⟩,
    ⟨mb, by decide⟩,
    ⟨mb, by decide⟩,
    ⟨mb, by decide⟩,
    ⟨mb, by decide⟩,
    ⟨3, { mb with kports := [(3, { state := .retrain })] }, by decide, by decide⟩,
    ⟨3, { mb with kports := [(3, { state := .down })] }, by decide, by decide⟩⟩

/-- Each clause of Obligations.KamardAnswersComplete has hypotheses that a state meets. -/
theorem witness_KamardAnswersComplete :
    (∃ (port : Fin 96) (tag : Nat) (d : Descr) (s : State), (s.phase = .run ∨ s.phase = .flushing) ∧ (kamTake port tag (kamAccept port s)).1 = some .moduleInfo ∧ descrHolds d = true) ∧
    (∃ (port : Fin 96) (tag : Nat) (g : W32) (b : Bool) (s : State), (s.phase = .run ∨ s.phase = .flushing) ∧ (kamTake port tag (kamAccept port s)).1 = some (.claim g b)) ∧
    (∃ (port : Fin 96) (tag : Nat) (st : KStatus) (slots : List KSlot) (a : Nat) (sense : Nat) (x : Nat) (mask : Nat) (bg : Bool) (s : State), (s.phase = .run ∨ s.phase = .flushing) ∧ ((Tbl.find (s.kport port).cmds tag).bind fun c => slotsFault c st slots) = none ∧ (kamTake port tag (kamAccept port s)).1 = some (.read a sense x mask bg)) ∧
    (∃ (port : Fin 96) (tag : Nat) (area : Nat) (a : Nat) (g : Bool) (cws : List (List Byte)) (s : State), (s.phase = .run ∨ s.phase = .flushing) ∧ (kamTake port tag (kamAccept port s)).1 = some (.program area a g cws)) ∧
    (∃ (port : Fin 96) (tag : Nat) (area : Nat) (a : Nat) (s : State), (s.phase = .run ∨ s.phase = .flushing) ∧ (kamTake port tag (kamAccept port s)).1 = some (.erase area a)) ∧
    (∃ (port : Fin 96) (tag : Nat) (die : Nat) (set : Nat) (offs : List Int) (s : State), (s.phase = .run ∨ s.phase = .flushing) ∧ (kamTake port tag (kamAccept port s)).1 = some (.threshLoad die set offs)) ∧
    (∃ (port : Fin 96) (tag : Nat) (x : Nat) (y : Nat) (z : Nat) (cws : List (List Byte)) (s : State), (s.phase = .run ∨ s.phase = .flushing) ∧ (kamTake port tag (kamAccept port s)).1 = some (.vaultProgram x y z cws)) ∧
    (∃ (port : Fin 96) (tag : Nat) (x : Nat) (bank : Nat) (s : State), (s.phase = .run ∨ s.phase = .flushing) ∧ (kamTake port tag (kamAccept port s)).1 = some (.vaultErase x bank)) ∧
    (∃ (port : Fin 96) (tag : Nat) (off : Nat) (data : List Byte) (s : State), (s.phase = .run ∨ s.phase = .flushing) ∧ (kamTake port tag (kamAccept port s)).1 = some (.fwWrite off data)) ∧
    (∃ (port : Fin 96) (tag : Nat) (x : Nat) (crc : W32) (s : State), (s.phase = .run ∨ s.phase = .flushing) ∧ (kamTake port tag (kamAccept port s)).1 = some (.fwActivate x crc)) ∧
    (∃ (port : Fin 96) (e : Nat) (s : State), s.phase = .run ∧ (s.mod port).restartAt = some e) :=
  ⟨⟨3, 0, descr1, { mb with kports := [(3, { state := .up, cmds := [(0, .moduleInfo)] })] }, by decide, by decide, descr1_holds⟩,
    ⟨3, 0, 1, false, { mb with kports := [(3, { state := .claimed, cmds := [(0, .claim 1 false)] })] }, by decide, by decide⟩,
    ⟨3, 0, .dieFault, [], 0, 0, 0, 1, false, { mb with kports := [(3, { state := .up, cmds := [(0, .read 0 0 0 1 false)] })] }, by decide, by decide, by decide⟩,
    ⟨3, 0, 0, 0, true, [], { mb with kports := [(3, { state := .up, cmds := [(0, .program 0 0 true [])] })] }, by decide, by decide⟩,
    ⟨3, 0, 0, 0, { mb with kports := [(3, { state := .up, cmds := [(0, .erase 0 0)] })] }, by decide, by decide⟩,
    ⟨3, 0, 0, 0, [], { mb with kports := [(3, { state := .up, cmds := [(0, .threshLoad 0 0 [])] })] }, by decide, by decide⟩,
    ⟨3, 0, 0, 0, 0, [], { mb with kports := [(3, { state := .up, cmds := [(0, .vaultProgram 0 0 0 [])] })] }, by decide, by decide⟩,
    ⟨3, 0, 0, 0, { mb with kports := [(3, { state := .up, cmds := [(0, .vaultErase 0 0)] })] }, by decide, by decide⟩,
    ⟨3, 0, 0, [], { mb with kports := [(3, { state := .up, cmds := [(0, .fwWrite 0 [])] })] }, by decide, by decide⟩,
    ⟨3, 0, 1, 0, { mb with kports := [(3, { state := .up, cmds := [(0, .fwActivate 1 0)] })] }, by decide, by decide⟩,
    ⟨3, 5, { mb with mods := [(3, { restartAt := some 5 })] }, by decide, by decide⟩⟩

/-- Each clause of Obligations.NvmeQueuesComplete has hypotheses that a state meets. -/
theorem witness_NvmeQueuesComplete :
    (∃ (g : PageId) (ctrl : Nat) (sq : Nat) (v : W32) (y : Slice) (c : Ctrl) (x : Sq) (s : State), s.phase = .run ∧ (capsOf g.port g.upper s).d3hot = false ∧ liveSlice g s = some y ∧ ctrlOfPage g s = some (ctrl, c) ∧ c.enabled = true ∧ Tbl.find c.sqs sq = some x ∧ v.toNat < x.size) ∧
    (∃ (g : PageId) (ctrl : Nat) (cq : Nat) (v : W32) (y : Slice) (c : Ctrl) (x : Cq) (s : State), s.phase = .run ∧ (capsOf g.port g.upper s).d3hot = false ∧ liveSlice g s = some y ∧ ctrlOfPage g s = some (ctrl, c) ∧ c.enabled = true ∧ Tbl.find c.cqs cq = some x ∧ v.toNat < x.size) ∧
    (∃ (g : PageId) (ctrl : Nat) (v : W32) (c : Ctrl) (y : Slice) (sl : Slice) (s : State), s.phase = .run ∧ (capsOf g.port g.upper s).d3hot = false ∧ liveSlice g s = some y ∧ y.state = .active ∧ ctrlOfPage g s = some (ctrl, c) ∧ Tbl.find s.host.ctrls ctrl = some c ∧ Tbl.find s.slices c.slice = some sl ∧ sl.state = .active ∧ c.enabled = false ∧ v.getLsbD 0 = true) ∧
    (∃ (ctrl : Nat) (c : Ctrl) (s : State), s.phase = .run ∧ Tbl.find s.host.ctrls ctrl = some c ∧ c.fabrics = true ∧ (Tbl.find c.sqs 0).any (fun q => q.head ≠ q.tail) = true) ∧
    (∃ (ctrl : Nat) (c : Ctrl) (s : State), s.phase = .run ∧ Tbl.find s.host.ctrls ctrl = some c ∧ c.fabrics = true ∧ (Tbl.find c.sqs 0).any (fun q => q.head ≠ q.tail) = true) ∧
    (∃ (qp : Nat) (q : Qp) (s : State), s.phase = .run ∧ s.boot.stage = .ready ∧ Tbl.find s.net.qps qp = some q ∧ q.state = .ready ∧ q.nvme = none) ∧
    (∃ (ctrl : Nat) (qid : Nat) (c : Ctrl) (s : State), s.phase = .run ∧ Tbl.find s.host.ctrls ctrl = some c ∧ c.fabrics = true ∧ (Tbl.find c.sqs qid).any (fun q => q.head ≠ q.tail) = true) ∧
    (∃ (ctrl : Nat) (qid : Nat) (size : Nat) (iv : Nat) (c : Ctrl) (sl : Slice) (s : State), adminOn ctrl c s ∧ c.fabrics = false ∧ qidBad c true qid = false ∧ Tbl.has c.cqs qid = false ∧ overReserved (adminTaken ctrl s) c (decide (c.sqs.length ≤ c.cqs.length)) = false ∧ qsizeBad size = false ∧ Tbl.find (adminTaken ctrl s).slices c.slice = some sl ∧ iv < sl.vecCount) ∧
    (∃ (ctrl : Nat) (qid : Nat) (size : Nat) (cqid : Nat) (c : Ctrl) (s : State), adminOn ctrl c s ∧ c.fabrics = false ∧ qidBad c false qid = false ∧ Tbl.has c.sqs qid = false ∧ overReserved (adminTaken ctrl s) c (decide (c.cqs.length ≤ c.sqs.length)) = false ∧ qsizeBad size = false ∧ cqid ≠ 0 ∧ Tbl.has c.cqs cqid = true) ∧
    (∃ (ctrl : Nat) (qid : Nat) (c : Ctrl) (s : State), adminOn ctrl c s ∧ c.fabrics = false ∧ qidBad c false qid = false ∧ Tbl.has c.sqs qid = true) ∧
    (∃ (ctrl : Nat) (qid : Nat) (c : Ctrl) (x : Cq) (s : State), adminOn ctrl c s ∧ c.fabrics = false ∧ qidBad c true qid = false ∧ Tbl.find c.cqs qid = some x ∧ (c.sqs.any fun x => x.2.cq = qid) = false) :=
  ⟨⟨pg0, 1, 1, 2, { slice0 with tenant := false }, ctrl0, { cq := 1, size := 8, tail := 1 }, { io .read with slices := [(0, { slice0 with tenant := false })] }, by decide, by decide, by decide, by decide, by decide, by decide, by decide⟩,
    ⟨pg0, 1, 1, 0, { slice0 with tenant := false }, ctrl0, { size := 8 }, { io .read with slices := [(0, { slice0 with tenant := false })] }, by decide, by decide, by decide, by decide, by decide, by decide, by decide⟩,
    ⟨pg0, 1, 1, { ctrl0 with enabled := false }, { slice0 with tenant := false }, { slice0 with tenant := false }, { io .read with slices := [(0, { slice0 with tenant := false })], host := { ctrls := [(1, { ctrl0 with enabled := false })] } }, by decide, by decide, by decide, by decide, by decide, by decide, by decide, by decide, by decide, by decide⟩,
    ⟨1, { ctrl0 with fabrics := true }, { io .read with host := { ctrls := [(1, { ctrl0 with fabrics := true })] } }, by decide, by decide, by decide, by decide⟩,
    ⟨1, { ctrl0 with fabrics := true }, { io .read with host := { ctrls := [(1, { ctrl0 with fabrics := true })] } }, by decide, by decide, by decide, by decide⟩,
    ⟨2, qp0, { mb with net := { qps := [(2, qp0)] } }, by decide, by decide, by decide, by decide, by decide⟩,
    ⟨1, 0, { ctrl0 with fabrics := true }, { io .read with host := { ctrls := [(1, { ctrl0 with fabrics := true })] } }, by decide, by decide, by decide, by decide⟩,
    ⟨1, 2, 8, 0, ctrl0, { slice0 with vecCount := 4 }, { io .read with slices := [(0, { slice0 with vecCount := 4 })] }, by decide, by decide, by decide, by decide, by decide, by decide, by decide, by decide⟩,
    ⟨1, 2, 8, 1, ctrl0, io .read, by decide, by decide, by decide, by decide, by decide, by decide, by decide, by decide⟩,
    ⟨1, 1, ctrl0, io .read, by decide, by decide, by decide, by decide⟩,
    ⟨1, 1, { ctrl0 with sqs := [(0, { cq := 0, size := 8, tail := 1 })] }, { size := 8 }, { io .read with host := { ctrls := [(1, { ctrl0 with sqs := [(0, { cq := 0, size := 8, tail := 1 })] })] } }, by decide, by decide, by decide, by decide, by decide⟩⟩

/-- Each clause of Obligations.AdminCommandsComplete has hypotheses that a state meets. -/
theorem witness_AdminCommandsComplete :
    (∃ (ctrl : Nat) (c : Ctrl) (s : State), adminOn ctrl c s) ∧
    (∃ (ctrl : Nat) (lid : Nat) (off : Nat) (d : List Byte) (u : State) (c : Ctrl) (s : State), adminOn ctrl c s ∧ logPage lid c (adminTaken ctrl s) = some (d, u) ∧ off ≤ d.length) ∧
    (∃ (ctrl : Nat) (c : Ctrl) (s : State), adminOn ctrl c s) ∧
    (∃ (ctrl : Nat) (fid : Nat) (c : Ctrl) (s : State), adminOn ctrl c s ∧ (fid = 6 ∨ featureKnown c fid = true) ∧ fid ≠ 0x81) ∧
    (∃ (ctrl : Nat) (sq : Nat) (tcid : Nat) (c : Ctrl) (id : Nat) (d : Inflight) (s : State), adminOn ctrl c s ∧ ((adminTaken ctrl s).host.inflight.find? fun e => e.2.ctrl = ctrl && e.2.sq = sq && e.2.cid = tcid && !e.2.forwarded && !e.2.mute) = some (id, d) ∧ d.away = false) ∧
    (∃ (ctrl : Nat) (c : Ctrl) (s : State), adminOn ctrl c s ∧ c.held = [] ∧ c.aers.length < 4) ∧
    (∃ (ctrl : Nat) (c : Ctrl) (s : State), adminOn ctrl c s) ∧
    (∃ (ctrl : Nat) (nsid : Nat) (lbaf : Nat) (c : Ctrl) (x : Ns) (s : State), adminOn ctrl c s ∧ Tbl.find (adminTaken ctrl s).ns nsid = some x ∧ x.slice = c.slice ∧ (anaCheck (adminTaken ctrl s) x.pool = .execute ∨ anaCheck (adminTaken ctrl s) x.pool = .forward) ∧ lbaf ≤ 1 ∧ nuse (adminTaken ctrl s) nsid x = 0) ∧
    (∃ (ctrl : Nat) (c : Ctrl) (e : Nat) (s : State), s.phase = .run ∧ Tbl.find s.host.ctrls ctrl = some c ∧ c.kaEnd = some e) ∧
    (∃ (ctrl : Nat) (cq : Nat) (c : Ctrl) (x : Cq) (sl : Slice) (iv : Nat) (s : State), s.phase = .run ∧ Tbl.find s.host.ctrls ctrl = some c ∧ Tbl.find c.cqs cq = some x ∧ Tbl.find s.slices c.slice = some sl ∧ x.iv = some iv ∧ x.coalesced ≠ 0) :=
  ⟨⟨1, ctrl0, io .read, by decide⟩,
    ⟨1, 4, 0, _, _, ctrl0, io .read, by decide, rfl, by decide⟩,
    ⟨1, ctrl0, io .read, by decide⟩,
    ⟨1, 7, ctrl0, io .read, by decide, by decide, by decide⟩,
    ⟨1, 1, 9, ctrl0, 1, inf0 .read, io .read, by decide, by decide, by decide⟩,
    ⟨1, ctrl0, io .read, by decide, by decide, by decide⟩,
    ⟨1, ctrl0, io .read, by decide⟩,
    ⟨1, 5, 1, ctrl0, ns0, io .read, by decide, by decide, by decide, by decide, by decide, by decide⟩,
    ⟨1, { ctrl0 with kaEnd := some 5 }, 5, { io .read with host := { ctrls := [(1, { ctrl0 with kaEnd := some 5 })] } }, by decide, by decide, by decide⟩,
    ⟨1, 1, { ctrl0 with cqs := [(1, { size := 8, iv := some 0, coalesced := 1 })] }, { size := 8, iv := some 0, coalesced := 1 }, slice0, 0, { io .read with host := { ctrls := [(1, { ctrl0 with cqs := [(1, { size := 8, iv := some 0, coalesced := 1 })] })] } }, by decide, by decide, by decide, by decide, by decide, by decide⟩⟩

/-- Each clause of Obligations.NetworkPortsComplete has hypotheses that a state meets. -/
theorem witness_NetworkPortsComplete :
    (∃ (h : MbxHdr) (port : Byte) (breakout : Byte) (pfc : Byte) (mtu : W16) (c : MCmd) (s : State), startsNow ⟨0x0901, 2, true, .other, false⟩ h [.num 0 1 port.toNat, .num 1 1 breakout.toNat, .num 2 1 pfc.toNat, .num 4 2 mtu.toNat] c s ∧ port.toNat ≤ 7 ∧ breakout.toNat ≤ 2 ∧ countBits pfc.toNat 8 ≤ 3 ∧ 1500 ≤ mtu.toNat ∧ mtu.toNat ≤ 9000 ∧ hasBit s.power.fenced (netDomain port.toNat) = false ∧ (s.net.qps.any fun e => e.2.lport / 4 = port.toNat) = false) ∧
    (∃ (h : MbxHdr) (port : Byte) (c : MCmd) (s : State), startsNow ⟨0x0902, 2, false, .other, false⟩ h [.num 0 1 port.toNat] c s ∧ port.toNat ≤ 7) ∧
    (∃ (l : Fin 32) (s : State), (s.phase = .run ∨ s.phase = .flushing) ∧ lportUp s l = true) ∧
    (∃ (l : Fin 32) (s : State), s.phase = .run ∧ lportExists s l = true ∧ hasBit s.power.on (netDomain (l / 4)) = true ∧ laneDead s l = false) ∧
    (∃ (l : Fin 32) (target : W32) (s : State), onLink l s ∧ (s.lport l).ipv4 = some target) ∧
    (∃ (l : Fin 32) (target : BitVec 128) (s : State), onLink l s ∧ holdsV6 (frameIn l s) l target = true) ∧
    (∃ (l : Fin 32) (a : W32) (s : State), onLink l s ∧ ((frameIn l s).lport l).ipv4 = some a) ∧
    (∃ (l : Fin 32) (pre : BitVec 64) (valid : W32) (preferred : W32) (s : State), onLink l s ∧ pre.toNat / 2 ^ 54 ≠ 0x3FA ∧ preferred.toNat ≤ valid.toNat) ∧
    (∃ (l : Fin 32) (s : State), onLink l s ∧ ((frameIn l s).lport l).dhcpAsking = true) ∧
    (∃ (l : Fin 32) (s : State), s.phase = .run ∧ (s.lport l).ipv4.isNone = false) ∧
    (∃ (l : Fin 32) (s : State), onLink l s) :=
  ⟨⟨hd, 0, 1, 8, 1500, cmdOf 0x0901 [.num 0 1 (0 : Byte).toNat, .num 1 1 (1 : Byte).toNat, .num 2 1 (8 : Byte).toNat, .num 4 2 (1500 : W16).toNat], asked 0x0901 [.num 0 1 (0 : Byte).toNat, .num 1 1 (1 : Byte).toNat, .num 2 1 (8 : Byte).toNat, .num 4 2 (1500 : W16).toNat] run, by decide, by decide, by decide, by decide, by decide, by decide, by decide, by decide⟩,
    ⟨hd, 7, cmdOf 0x0902 [.num 0 1 (7 : Byte).toNat], asked 0x0902 [.num 0 1 (7 : Byte).toNat] run, by decide, by decide⟩,
    ⟨0, { mb with net := { lports := [(0, { up := true })] } }, by decide, by decide⟩,
    ⟨0, { mb with power := { on := 0xFFFFFFFFFFFFFFFF } }, by decide, by decide, by decide, by decide⟩,
    ⟨0, 5, { mb with net := { lports := [(0, { up := true, ipv4 := some 5 })] } }, by decide, by decide⟩,
    ⟨0, 5, { mb with net := { lports := [(0, { up := true, ipv6 := [(5, none)] })] } }, by decide, by decide⟩,
    ⟨0, 5, { mb with net := { lports := [(0, { up := true, ipv4 := some 5 })] } }, by decide, by decide⟩,
    ⟨0, 1, 7200, 3600, { mb with net := { lports := [(0, { up := true })] } }, by decide, by decide, by decide⟩,
    ⟨0, { mb with net := { lports := [(0, { up := true })] } }, by decide, by decide⟩,
    ⟨0, { mb with net := { lports := [(0, { up := true, ipv4 := some 5 })] } }, by decide, by decide⟩,
    ⟨0, { mb with net := { lports := [(0, { up := true })] } }, by decide⟩⟩

/-- Each clause of Obligations.ConnectedRequestsComplete has hypotheses that a state meets. -/
theorem witness_ConnectedRequestsComplete :
    (∃ (l : Nat) (s : State), onLink l s ∧ s.net.qps.length < 262144) ∧
    (∃ (pk : RocePkt) (x : Qp) (ctrl : Nat) (s : State), s.phase = .run ∧ atQp pk x s ∧ x.nvme = some ctrl) ∧
    (∃ (pk : RocePkt) (x : Qp) (b : RecvBuf) (rest : List RecvBuf) (s : State), s.phase = .run ∧ atQp pk x s ∧ x.nvme = none ∧ x.recv = b :: rest ∧ pk.payload.length ≤ b.len) ∧
    (∃ (pk : RocePkt) (x : Qp) (b : RecvBuf) (rest : List RecvBuf) (s : State), s.phase = .run ∧ atQp pk x s ∧ x.nvme = none ∧ x.recv = b :: rest ∧ pk.payload.length ≤ b.len) ∧
    (∃ (pk : RocePkt) (x : Qp) (b : RecvBuf) (rest : List RecvBuf) (key : W32) (r : Region) (s : State), s.phase = .run ∧ atQp pk x s ∧ x.nvme = none ∧ x.recv = b :: rest ∧ pk.payload.length ≤ b.len ∧ pk.invKey = some key ∧ Tbl.find (qpMet pk x s).net.regions key.toNat = some r ∧ r.qp = some pk.qp) ∧
    (∃ (pk : RocePkt) (x : Qp) (s : State), s.phase = .run ∧ atQp pk x s ∧ roceAllowed (qpMet pk x s) pk.qp x pk.rkey pk.remoteAddr pk.payload.length true = true) ∧
    (∃ (pk : RocePkt) (x : Qp) (s : State), s.phase = .run ∧ atQp pk x s ∧ roceAllowed (qpMet pk x s) pk.qp x pk.rkey pk.remoteAddr pk.readLen false = true) ∧
    (∃ (n : Nat) (x : Qp) (s : State), s.phase = .run ∧ Tbl.find s.net.qps n = some x ∧ x.cached = false ∧ cachedCount s < 16384) :=
  ⟨⟨0, { mb with net := { lports := [(0, { up := true })] } }, by decide, by decide⟩,
    ⟨pk0, { qp0 with nvme := some 1 }, 1, { mb with net := { lports := [(0, { up := true })], qps := [(2, { qp0 with nvme := some 1 })] } }, by decide, by decide, by decide⟩,
    ⟨pk0, qp0, rb0, [], { mb with net := { lports := [(0, { up := true })], qps := [(2, qp0)] } }, by decide, by decide, by decide, by decide, by decide⟩,
    ⟨{ pk0 with imm := some 4 }, qp0, rb0, [], { mb with net := { lports := [(0, { up := true })], qps := [(2, qp0)] } }, by decide, by decide, by decide, by decide, by decide⟩,
    ⟨{ pk0 with invKey := some 4 }, qp0, rb0, [], 4, { qp := some 2, base := 0, len := 64 }, { mb with net := { lports := [(0, { up := true })], qps := [(2, qp0)], regions := [(4, { qp := some 2, base := 0, len := 64 })] } }, by decide, by decide, by decide, by decide, by decide, by decide, by decide, by decide⟩,
    ⟨{ pk0 with rkey := 4 }, qp0, { mb with net := { lports := [(0, { up := true })], qps := [(2, qp0)], regions := [(4, { qp := some 2, base := 0, len := 64 })] } }, by decide, by decide, by decide⟩,
    ⟨{ pk0 with rkey := 4, readLen := 8 }, qp0, { mb with net := { lports := [(0, { up := true })], qps := [(2, qp0)], regions := [(4, { qp := some 2, base := 0, len := 64 })] } }, by decide, by decide, by decide⟩,
    ⟨2, { qp0 with cached := false }, { mb with net := { lports := [(0, { up := true })], qps := [(2, { qp0 with cached := false })] } }, by decide, by decide, by decide, by decide⟩⟩

/-- Each clause of Obligations.ConnectedRequesterCompletes has hypotheses that a state meets. -/
theorem witness_ConnectedRequesterCompletes :
    (∃ (n : Nat) (psn : Nat) (x : Qp) (s : State), s.phase = .run ∧ Tbl.find s.net.qps n = some x ∧ onLink x.lport s ∧ x.cached = true ∧ x.parked = [] ∧ x.state = .ready ∧ ackedReqs psn x.sent ≠ []) ∧
    (∃ (n : Nat) (psn : Nat) (data : List Byte) (x : Qp) (y : Qp) (r : QpReq) (more : List QpReq) (s : State), s.phase = .run ∧ Tbl.find s.net.qps n = some x ∧ onLink x.lport s ∧ x.cached = true ∧ x.parked = [] ∧ x.state = .ready ∧ Tbl.find (roceAckTo n (psnAdd psn (2 ^ 24 - 1)) (touchQp n (frameIn x.lport s))).net.qps n = some y ∧ y.sent = r :: more ∧ r.op = .read ∧ r.firstPsn = psn ∧ data.length = r.wr.length) ∧
    (∃ (n : Nat) (psn : Nat) (x : Qp) (y : Qp) (r : QpReq) (more : List QpReq) (s : State), s.phase = .run ∧ Tbl.find s.net.qps n = some x ∧ onLink x.lport s ∧ x.cached = true ∧ x.parked = [] ∧ x.state = .ready ∧ Tbl.find (roceAckTo n (psnAdd psn (2 ^ 24 - 1)) (touchQp n (frameIn x.lport s))).net.qps n = some y ∧ y.sent = r :: more) ∧
    (∃ (n : Nat) (x : Qp) (s : State), s.phase = .run ∧ Tbl.find s.net.qps n = some x ∧ onLink x.lport s ∧ x.cached = true ∧ x.parked = []) ∧
    (∃ (n : Nat) (x : Qp) (s : State), s.phase = .run ∧ Tbl.find s.net.qps n = some x ∧ x.rate ≠ 1000000000) ∧
    (∃ (n : Nat) (x : Qp) (s : State), s.phase = .run ∧ Tbl.find s.net.qps n = some x ∧ x.state = .ready ∧ x.sent ≠ [] ∧ x.rnrUntil = none ∧ x.retries = 0) ∧
    (∃ (wr : WorkReq) (s : State), s.phase = .run ∧ wr.triggered = false) ∧
    (∃ (wr : WorkReq) (s : State), s.phase = .run ∧ wr.triggered = false) ∧
    (∃ (wr : WorkReq) (s : State), s.phase = .run ∧ wr.triggered = false) ∧
    (∃ (wr : WorkReq) (s : State), s.phase = .run ∧ wr.triggered = false) ∧
    (∃ (wr : WorkReq) (s : State), s.phase = .run ∧ wr.triggered = false) ∧
    (∃ (n : Nat) (setup : FwSetup) (x : Qp) (s : State), s.phase = .run ∧ Tbl.find (applySetup setup s).net.qps n = some x ∧ x.state ≠ .error ∧ x.recv.length < 4096) :=
  ⟨⟨2, 0, { qp0 with sent := [rq0] }, { mb with net := { lports := [(0, { up := true })], qps := [(2, { qp0 with sent := [rq0] })] } }, by decide, by decide, by decide, by decide, by decide, by decide, by decide⟩,
    ⟨2, 0, [1], { qp0 with sent := [{ rq0 with op := .read, wr := { wr0 with length := 1 } }] }, _, { rq0 with op := .read, wr := { wr0 with length := 1 } }, [], { mb with net := { lports := [(0, { up := true })], qps := [(2, { qp0 with sent := [{ rq0 with op := .read, wr := { wr0 with length := 1 } }] })] } }, by decide, by decide, by decide, by decide, by decide, by decide, rfl, by decide, by decide, by decide, by decide⟩,
    ⟨2, 0, { qp0 with sent := [rq0] }, _, rq0, [], { mb with net := { lports := [(0, { up := true })], qps := [(2, { qp0 with sent := [rq0] })] } }, by decide, by decide, by decide, by decide, by decide, by decide, rfl, by decide⟩,
    ⟨2, qp0, { mb with net := { lports := [(0, { up := true })], qps := [(2, qp0)] } }, by decide, by decide, by decide, by decide, by decide⟩,
    ⟨2, { qp0 with rate := 500000000 }, { mb with net := { qps := [(2, { qp0 with rate := 500000000 })] } }, by decide, by decide, by decide⟩,
    ⟨2, { qp0 with sent := [rq0] }, { mb with net := { qps := [(2, { qp0 with sent := [rq0] })] } }, by decide, by decide, by decide, by decide, by decide, by decide⟩,
    ⟨wr0, mb, by decide, by decide⟩,
    ⟨wr0, mb, by decide, by decide⟩,
    ⟨wr0, mb, by decide, by decide⟩,
    ⟨wr0, mb, by decide, by decide⟩,
    ⟨wr0, mb, by decide, by decide⟩,
    ⟨2, {}, qp0, { mb with net := { qps := [(2, qp0)] } }, by decide, by decide, by decide, by decide⟩⟩

/-- Each clause of Obligations.DatagramReceiverCompletes has hypotheses that a state meets. -/
theorem witness_DatagramReceiverCompletes :
    (∃ (l : Fin 32) (pk : DataPkt) (e : Reasm) (e1 : Reasm) (s1 : State) (s : State), s.phase = .run ∧ dgWelcome l pk s ∧ Tbl.find (frameIn l s).net.reasm (reKey pk.node pk.msgId) = some e ∧ faulty e pk = false ∧ assign e pk (dgMet l pk s) = .ok (e1, s1)) ∧
    (∃ (node : Nat) (id : W32) (e : Reasm) (s : State), s.phase = .run ∧ Tbl.find s.net.reasm (reKey node id) = some e ∧ e.unacked ≠ []) ∧
    (∃ (node : Nat) (id : W32) (e : Reasm) (s : State), s.phase = .run ∧ Tbl.find s.net.reasm (reKey node id) = some e) ∧
    (∃ (l : Fin 32) (lo : Nat) (hi : Nat) (s : State), onLink l s ∧ max 1 lo ≤ min 2 hi) ∧
    (∃ (l : Fin 32) (node : Nat) (version : Nat) (s : State), onLink l s ∧ (version = 1 ∨ version = 2) ∧ (s.dpeer node).helloAt.isNone = false) ∧
    (∃ (node : Nat) (e : Nat) (s : State), s.phase = .run ∧ (s.dpeer node).helloAt = some e) ∧
    (∃ (l : Fin 32) (s : State), onLink l s) ∧
    (∃ (l : Fin 32) (node : Nat) (path : Nat) (s : State), onLink l s ∧ path < (s.dpeer node).paths.length ∧ ((s.dpeer node).paths.getD path {}).state = .down) ∧
    (∃ (node : Nat) (path : Nat) (s : State), s.phase = .run ∧ path < (s.dpeer node).paths.length ∧ ((s.dpeer node).paths.getD path {}).state = .suspect) ∧
    (∃ (node : Nat) (path : Nat) (s : State), s.phase = .run ∧ path < (s.dpeer node).paths.length ∧ ((s.dpeer node).paths.getD path {}).state = .down) ∧
    (∃ (l : Fin 32) (node : Nat) (session : W32) (id : W32) (m : MsgOut) (s : State), onLink l s ∧ session = s.net.session ∧ Tbl.find (s.dpeer node).out id.toNat = some m) ∧
    (∃ (l : Fin 32) (node : Nat) (session : W32) (id : W32) (m : MsgOut) (s : State), onLink l s ∧ session = s.net.session ∧ Tbl.find (s.dpeer node).out id.toNat = some m) ∧
    (∃ (node : Nat) (id : W32) (i : Nat) (m : MsgOut) (path : Nat) (t0 : Nat) (s : State), s.phase = .run ∧ Tbl.find (s.dpeer node).out id.toNat = some m ∧ Tbl.find m.tries i = some (0, path, t0) ∧ Tbl.has m.acked i = false ∧ m.rnr = some 0) :=
  ⟨⟨0, dp1, re0, re0, _, { mb with chain := { enclosure := some 0, position := some 0 }, net := { lports := [(0, { up := true })], peers := [(1, { session := some 5 })], reasm := [(reKey 1 7, re0)] } }, by decide, ⟨by decide, by decide, dp1_sound, by decide, by decide, by decide, by decide⟩, by decide, by decide, rfl⟩,
    ⟨1, 7, { re0 with unacked := [0] }, { mb with net := { reasm := [(reKey 1 7, { re0 with unacked := [0] })] } }, by decide, by decide, by decide⟩,
    ⟨1, 7, re0, { mb with net := { reasm := [(reKey 1 7, re0)] } }, by decide, by decide⟩,
    ⟨0, 1, 2, { mb with net := { lports := [(0, { up := true })] } }, by decide, by decide⟩,
    ⟨0, 1, 2, { mb with net := { lports := [(0, { up := true })], peers := [(1, { helloAt := some 0 })] } }, by decide, by decide, by decide⟩,
    ⟨1, 0, { mb with net := { peers := [(1, { helloAt := some 0 })] } }, by decide, by decide⟩,
    ⟨0, { mb with net := { lports := [(0, { up := true })] } }, by decide⟩,
    ⟨0, 1, 0, { mb with net := { lports := [(0, { up := true })], peers := [(1, { paths := [{ state := .down }] })] } }, by decide, by decide, by decide⟩,
    ⟨1, 0, { mb with net := { peers := [(1, { paths := [{ state := .suspect }] })] } }, by decide, by decide, by decide⟩,
    ⟨1, 0, { mb with net := { peers := [(1, { paths := [{ state := .down }] })] } }, by decide, by decide, by decide⟩,
    ⟨0, 1, 5, 7, mo0, { mb with net := { session := 5, lports := [(0, { up := true })], peers := [(1, { out := [(7, mo0)] })] } }, by decide, by decide, by decide⟩,
    ⟨0, 1, 5, 7, mo0, { mb with net := { session := 5, lports := [(0, { up := true })], peers := [(1, { out := [(7, mo0)] })] } }, by decide, by decide, by decide⟩,
    ⟨1, 7, 0, { mo0 with tries := [(0, (0, 0, 0))], rnr := some 0 }, 0, 0, { mb with net := { peers := [(1, { paths := [{}], out := [(7, { mo0 with tries := [(0, (0, 0, 0))], rnr := some 0 })] })] } }, by decide, by decide, by decide, by decide, by decide⟩⟩

/-- Each clause of Obligations.PeerLinkComplete has hypotheses that a state meets. -/
theorem witness_PeerLinkComplete :
    (∃ (sub : Fin 4) (s : State), s.phase = .run ∧ jalReady s sub = true ∧ (s.sub sub).state = .detect) ∧
    (∃ (sub : Fin 4) (x : JalHello) (v : Nat) (j : Nat) (s : State), s.phase = .run ∧ jalReady s sub = true ∧ (s.sub sub).state = .hello ∧ commonOf 1 2 x.minV x.maxV = some v ∧ commonOf 1 2 x.journalMin x.journalMax = some j ∧ partnerFault s sub x = 0) ∧
    (∃ (sub : Fin 4) (x : JalHello) (v : Nat) (j : Nat) (s : State), s.phase = .run ∧ jalReady s sub = true ∧ (s.sub sub).state = .hello ∧ commonOf 1 2 x.minV x.maxV = some v ∧ commonOf 1 2 x.journalMin x.journalMax = some j ∧ partnerFault s sub x = 0 ∧ isCross s sub x = false) ∧
    (∃ (sub : Fin 4) (s : State), s.phase = .run ∧ (s.sub sub).state = .up) ∧
    (∃ (sub : Fin 4) (f : JalFrame) (more : List JalFrame) (s : State), s.phase = .run ∧ (s.sub sub).state = .up ∧ (s.sub sub).unacked = f :: more) ∧
    (∃ (sub : Fin 4) (s : State), s.phase = .run ∧ (s.sub sub).ackDue = true ∧ (s.sub sub).state = .up) ∧
    (∃ (sub : Fin 4) (s : State), s.phase = .run ∧ (s.sub sub).state = .up) ∧
    (∃ (sub : Fin 4) (s : State), s.phase = .run ∧ (s.sub sub).state = .retrain) ∧
    (∃ (rx : JalRx) (session : W32) (s : State), fromPeer rx 0 s ∧ session = (jalNow rx 0 s).jal.peerSession) ∧
    (∃ (s : State), s.phase = .run) ∧
    (∃ (rx : JalRx) (session : W32) (s : State), fromPeer rx 0 s ∧ session = (jalNow rx 0 s).jal.peerSession) ∧
    (∃ (e : Nat) (s : State), s.phase = .run ∧ s.jal.heard = some e ∧ s.peerState = .mirrored) ∧
    (∃ (h : MbxHdr) (c : MCmd) (s : State), startsNow ⟨0x0801, 2, false, .other, false⟩ h [] c s) ∧
    (∃ (h : MbxHdr) (op : Byte) (c : MCmd) (s : State), startsNow ⟨0x0802, 2, true, .other, false⟩ h [.num 0 1 op.toNat] c s ∧ op = 0 ∧ s.peerState = .partitioned) ∧
    (∃ (h : MbxHdr) (c : MCmd) (s : State), startsNow ⟨0x0802, 2, true, .other, false⟩ h [.num 0 1 1] c s ∧ s.peerState = .mirrored ∧ (s.pools.filter fun e => e.2.owned && !e.2.created && !e.2.deleting) ≠ []) :=
  ⟨⟨0, pr, by decide, by decide, by decide⟩,
    ⟨0, jh0, 2, 2, { pr with jal := { subs := [(0, { state := .hello })] } }, by decide, by decide, by decide, by decide, by decide, by decide⟩,
    ⟨0, jh0, 2, 2, { pr with jal := { subs := [(0, { state := .hello })] } }, by decide, by decide, by decide, by decide, by decide, by decide, by decide⟩,
    ⟨0, { pr with jal := { subs := [(0, { state := .up })] } }, by decide, by decide⟩,
    ⟨0, { seq := 0, piece := piece0, sentAt := 0 }, [], { pr with jal := { subs := [(0, { state := .up, unacked := [{ seq := 0, piece := piece0, sentAt := 0 }] })] } }, by decide, by decide, by decide⟩,
    ⟨0, { pr with jal := { subs := [(0, { state := .up, ackDue := true })] } }, by decide, by decide, by decide⟩,
    ⟨0, { pr with jal := { subs := [(0, { state := .up })] } }, by decide, by decide⟩,
    ⟨0, { pr with jal := { subs := [(0, { state := .retrain })] } }, by decide, by decide⟩,
    ⟨jrx0, 0, { pr with jal := { subs := [(0, { state := .up })] } }, by decide, by decide⟩,
    ⟨pr, by decide⟩,
    ⟨jrx0, 0, { pr with jal := { subs := [(0, { state := .up })] } }, by decide, by decide⟩,
    ⟨0, { pr with peerState := .mirrored, jal := { heard := some 0 } }, by decide, by decide, by decide⟩,
    ⟨hd, cmdOf 0x0801 [], asked 0x0801 [] run, by decide⟩,
    ⟨hd, 0, cmdOf 0x0802 [.num 0 1 (0 : Byte).toNat], asked 0x0802 [.num 0 1 (0 : Byte).toNat] { mb with peerState := .partitioned }, by decide, by decide, by decide⟩,
    ⟨hd, cmdOf 0x0802 [.num 0 1 1], asked 0x0802 [.num 0 1 1] { mb with peerState := .mirrored, pools := [(0, { pool0 with created := false })] }, by decide, by decide, by decide⟩⟩

/-- Each clause of Obligations.PeerMessagesComplete has hypotheses that a state meets. -/
theorem witness_PeerMessagesComplete :
    (∃ (rx : JalRx) (s : State), fromPeer rx 0 s) ∧
    (∃ (rx : JalRx) (pool : Fin 8) (p : Pool) (s : State), fromPeer rx 0 s ∧ Tbl.find (jalNow rx 0 s).pools pool = some p ∧ p.owned = false ∧ (jalNow rx 0 s).jal.hand = none) ∧
    (∃ (rx : JalRx) (session : W32) (s : State), fromPeer rx 0 s ∧ session = (jalNow rx 0 s).jal.peerSession) ∧
    (∃ (rx : JalRx) (s : State), fromPeer rx 1 s) ∧
    (∃ (rx : JalRx) (seq : Nat) (x : Sif) (s : State), fromPeer rx 1 s ∧ (jalNow rx 1 s).sifAt seq = some x) ∧
    (∃ (rx : JalRx) (g : Group) (s : State), fromPeer rx 1 s ∧ compactOf g = none) ∧
    (∃ (rx : JalRx) (s : State), fromPeer rx 1 s) ∧
    (∃ (rx : JalRx) (s : State), fromPeer rx 1 s) ∧
    (∃ (rx : JalRx) (s : State), fromPeer rx 2 s) ∧
    (∃ (rx : JalRx) (s : State), fromPeer rx 2 s) ∧
    (∃ (rx : JalRx) (s : State), fromPeer rx 3 s) ∧
    (∃ (rx : JalRx) (s : State), fromPeer rx 3 s) ∧
    (∃ (rx : JalRx) (id : Nat) (sct : Nat) (sc : Nat) (c : Inflight) (s : State), fromPeer rx 3 s ∧ cmdAt (jalNow rx 3 s) id = some c ∧ c.away = true ∧ ¬(c.op = .flush ∧ sct = 0 ∧ sc = 0) ∧ listBad c (jalNow rx 3 s) = false) ∧
    (∃ (rx : JalRx) (module : Fin 96) (s : State), fromPeer rx 3 s ∧ ((jalNow rx 3 s).kport module).state = .up) ∧
    (∃ (rx : JalRx) (s : State), fromPeer rx 3 s) :=
  ⟨⟨jrx0, { pr with jal := { subs := [(0, { state := .up })] } }, by decide⟩,
    ⟨jrx0, 0, { pool0 with owned := false }, { pr with jal := { subs := [(0, { state := .up })] }, pools := [(0, { pool0 with owned := false })] }, by decide, by decide, by decide, by decide⟩,
    ⟨jrx0, 0, { pr with jal := { subs := [(0, { state := .up })] } }, by decide, by decide⟩,
    ⟨jrx0, { pr with jal := { subs := [(0, { state := .up })] } }, by decide⟩,
    ⟨jrx0, 1, sf0, { pr with jal := { subs := [(0, { state := .up })] }, carafe := { sif := [(1, sf0)] } }, by decide, by decide⟩,
    ⟨jrx0, { pool := 0, bytes := 64 }, { pr with jal := { subs := [(0, { state := .up })] } }, by decide, by decide⟩,
    ⟨jrx0, { pr with jal := { subs := [(0, { state := .up })] } }, by decide⟩,
    ⟨jrx0, { pr with jal := { subs := [(0, { state := .up })] } }, by decide⟩,
    ⟨jrx0, { pr with jal := { subs := [(0, { state := .up })] } }, by decide⟩,
    ⟨jrx0, { pr with jal := { subs := [(0, { state := .up })] } }, by decide⟩,
    ⟨jrx0, { io .read with jal := { subs := [(0, { state := .up })] } }, by decide⟩,
    ⟨jrx0, { io .read with jal := { subs := [(0, { state := .up })] } }, by decide⟩,
    ⟨jrx0, 1, 0, 0, { inf0 .read with away := true }, { io .read with jal := { subs := [(0, { state := .up })] }, host := { ctrls := [(1, ctrl0)], inflight := [(1, { inf0 .read with away := true })], nextSeq := 2 } }, by decide, by decide, by decide, by decide, by decide⟩,
    ⟨jrx0, 3, { pr with jal := { subs := [(0, { state := .up })] }, kports := [(3, { state := .up })] }, by decide, by decide⟩,
    ⟨jrx0, { pr with jal := { subs := [(0, { state := .up })] } }, by decide⟩⟩

/-- Each clause of Obligations.GrinderEventsComplete has hypotheses that a state meets. -/
theorem witness_GrinderEventsComplete :
    (∃ (nsid : Nat) (x : Ns) (lane : Nat) (s : State), s.phase = .run ∧ Tbl.find s.ns nsid = some x ∧ pickLane s none = some lane ∧ (s.grinder.ready.filter fun u => u.nsid = nsid).take (groupUnits x) ≠ []) ∧
    (∃ (batch : Nat) (i : Nat) (b : Batch) (u : GUnit) (x : Ns) (s : State), s.phase = .run ∧ Tbl.find s.grinder.batches batch = some b ∧ b.units[i]? = some u ∧ Tbl.find s.ns b.nsid = some x ∧ u.ent.isSome = false) ∧
    (∃ (unit : Nat) (x : UnitRec) (s : State), s.phase = .run ∧ Tbl.find s.grinder.units unit = some x) ∧
    (∃ (a : Nat) (b : Nat) (lane : Nat) (idle : Bool) (wraps : Bool) (x : UnitRec) (y : UnitRec) (s : State) (s1 : State), s.phase = .run ∧ Tbl.find s.grinder.units a = some x ∧ Tbl.find s.grinder.units b = some y ∧ unitPool a = unitPool b ∧ a < b ∧ x.digest = y.digest ∧ backLane s (a, b) = some lane ∧ laneBatches s lane = [] ∧ govMay 6 idle [(1, 1152), (2, 1152), (4, 1024), (6, 1)] (laneTaken lane (a, b) s) = true ∧ s1 = passShards (unitPool a) (govIssue 6 [(1, 1152), (2, 1152), (4, 1024), (6, 1)] (laneTaken lane (a, b) s)) ∧ (∀ k ∈ [a, b], printRecord k x.digest ∈ (Tbl.getD s1.grinder.shards (unitPool a) []).flatMap (·.records) ∧ mergeable s1 k = true ∧ isTarget s1 k = false) ∧ digestTurn s1 (unitPool a) x.digest = some wraps) :=
  ⟨⟨5, ns0, 0, { up with ns := [(5, ns0)], power := { on := 0xFFFFFFFFFFFFFFFF }, grinder := { ready := [{ write := 1, nsid := 5, index := 0, content := 1 }] } }, by decide, by decide, by decide, by decide⟩,
    ⟨1, 0, { bat0 with units := [{ write := 1, nsid := 5, index := 0, content := 1 }] }, { write := 1, nsid := 5, index := 0, content := 1 }, ns0, { up with ns := [(5, ns0)], grinder := { batches := [(1, { bat0 with units := [{ write := 1, nsid := 5, index := 0, content := 1 }] })] } }, by decide, by decide, by decide, by decide, by decide⟩,
    ⟨1, { digest := [], crc := 0, creator := 5, content := 1 }, { up with grinder := { units := [(1, { digest := [], crc := 0, creator := 5, content := 1 })] } }, by decide, by decide⟩,
    ⟨1, 2, 0, true, false, ur0, ur0, { gv with power := { on := 0xFFFFFFFFFFFFFFFF }, grinder := { units := [(1, ur0), (2, ur0)], log := [(0, printRecord 1 []), (0, printRecord 2 [])] } }, _, by decide, by decide, by decide, by decide, by decide, by decide, by decide, by decide, by decide, rfl, by decide, by decide⟩⟩

/-- The hypotheses of Obligations.FusesChangeOnlyBy can hold. -/
theorem witness_FusesChangeOnlyBy :
    ∃ (c : Instr) (s : State) (t : State), exec c s = .next t :=
  ⟨.busMasterEnableCleared .a, run, _, rfl⟩

/-- The hypotheses of Obligations.TrustStateChangesOnlyBy can hold. -/
theorem witness_TrustStateChangesOnlyBy :
    ∃ (c : Instr) (s : State) (t : State), exec c s = .next t :=
  ⟨.busMasterEnableCleared .a, run, _, rfl⟩

/-- The hypotheses of Obligations.JtagStateChangesOnlyBy can hold. -/
theorem witness_JtagStateChangesOnlyBy :
    ∃ (c : Instr) (s : State) (t : State), exec c s = .next t :=
  ⟨.busMasterEnableCleared .a, run, _, rfl⟩

/-- Each clause of Obligations.ChainAndSidebandChangeOnlyBy has hypotheses that a state meets. -/
theorem witness_ChainAndSidebandChangeOnlyBy :
    (∃ (c : Instr) (s : State) (t : State), exec c s = .next t) ∧
    (∃ (c : Instr) (s : State) (t : State), exec c s = .next t) :=
  ⟨⟨.busMasterEnableCleared .a, run, _, rfl⟩,
    ⟨.busMasterEnableCleared .a, run, _, rfl⟩⟩

/-- The hypotheses of Obligations.SemaphoresChangeOnlyBy can hold. -/
theorem witness_SemaphoresChangeOnlyBy :
    ∃ (c : Instr) (s : State) (t : State), exec c s = .next t :=
  ⟨.busMasterEnableCleared .a, run, _, rfl⟩

/-- The hypotheses of Obligations.UpdateStateChangesOnlyBy can hold. -/
theorem witness_UpdateStateChangesOnlyBy :
    ∃ (c : Instr) (s : State) (t : State), exec c s = .next t :=
  ⟨.busMasterEnableCleared .a, run, _, rfl⟩

/-- The hypotheses of Obligations.KeysAndContextsChangeOnlyBy can hold. -/
theorem witness_KeysAndContextsChangeOnlyBy :
    ∃ (c : Instr) (s : State) (t : State), exec c s = .next t :=
  ⟨.busMasterEnableCleared .a, run, _, rfl⟩

/-- The hypotheses of Obligations.OnchipMemoryChangesOnlyBy can hold. -/
theorem witness_OnchipMemoryChangesOnlyBy :
    ∃ (c : Instr) (s : State) (t : State), exec c s = .next t :=
  ⟨.busMasterEnableCleared .a, run, _, rfl⟩

/-- Each clause of Obligations.SemaphoreReadActsAsStated has hypotheses that a state meets. -/
theorem witness_SemaphoreReadActsAsStated :
    (∃ (n : Fin 64) (p : Port) (s : State), s.phase = .run ∧ (s.port p).caps.d3hot = false ∧ (s.sem n).owner = none) ∧
    (∃ (n : Fin 64) (p : Port) (q : Port) (s : State), s.phase = .run ∧ (s.port p).caps.d3hot = false ∧ (s.sem n).owner = some q) ∧
    (∃ (n : Fin 64) (s : State), s.phase = .run ∧ (s.port .a).caps.d3hot = false ∧ (s.port .b).caps.d3hot = false ∧ (s.sem n).owner = none) :=
  ⟨⟨63, .a, run, by decide, by decide, by decide⟩,
    ⟨0, .a, .a, mb, by decide, by decide, by decide⟩,
    ⟨63, run, by decide, by decide, by decide, by decide⟩⟩

/-- Each clause of Obligations.RollbackAdvanceNeedsConfirmation has hypotheses that a state meets. -/
theorem witness_RollbackAdvanceNeedsConfirmation :
    (∃ (h : MbxHdr) (target : Byte) (c : MCmd) (s : State), startsNow { opcode := 0x0105, since := 1, sem := true, group := .trust } h [.num 0 1 target.toNat] c s ∧ powerRefused s = false ∧ target.toNat = rollbackValue s + 1 ∧ (s.fw.state ≠ 0 ∨ s.fw.copying = true)) ∧
    (∃ (h : MbxHdr) (target : Byte) (blown : BitVec 3) (s : State) (t : State), exec (.fuseRollbackAdvance h target blown) s = .next t ∧ t.fuses.rollback ≠ s.fuses.rollback) :=
  ⟨⟨hd, 1, cmdOf 0x0105 [.num 0 1 (1 : Byte).toNat], asked 0x0105 [.num 0 1 (1 : Byte).toNat] { mb with fw := { state := 3 } }, by decide, by decide, by decide, by decide⟩,
    ⟨hd, 1, 7, asked 0x0105 [.num 0 1 1] { mb with boot := { sp := some { securityVersion := 1 }, cc := some { securityVersion := 1 } } }, _, rfl, by decide⟩⟩

end Sys2Proof.Tests
end

/-! PROOFS of O13 (R29 to R45, R53, R62, R66 to R70, R500, R531, R532): what each row of power, clocks and temperatures does when its conditions hold. -/
section
namespace Sys2Proof.Machine
open Sys2Proof

theorem spRuns_of_live {s : State} (hp : s.phase = .run ∨ s.phase = .flushing) : spRuns s = true := by
  rcases hp with h | h <;> simp [spRuns, h]

/-! ## Domains -/

theorem execDomainSwitchOffRequest_idle {d : Fin 64} {s : State} (hp : s.phase = .run ∨ s.phase = .flushing) (hd : 5 ≤ d.val)
    (hr : hasBit s.power.ramping d.val = false) (hw : s.power.waiting.contains d.val = false) (hi : workIn d.val s = false) :
    execDomainSwitchOffRequest d true s = .next (gateOff d s) := by
  rw [execDomainSwitchOffRequest, onLive_eq hp, if_neg (by omega), if_neg (Bool.eq_false_iff.mp hr),
    if_neg (Bool.eq_false_iff.mp hw), if_pos (by simp [hi])]

/-- A judged domain that is in use stays on: only its marks change (R531). -/
theorem execPortDomainJudge_inUse {d : Fin 64} {signal : Bool} {s : State} (hp : s.phase = .run)
    (hj : hasBit s.power.judging d.val = true) (hu : domainInUse d.val signal s = true) :
    execPortDomainJudge d signal s =
      .next { s with power := { s.power with judging := clrBit s.power.judging d, unused := clrBit s.power.unused d } } := by
  rw [execPortDomainJudge, onRun_eq hp, if_neg (by simp [hj])]
  exact congrArg _ (if_pos hu)

theorem execUnusedDomainRetry_retries {d : Fin 64} {s : State} (hp : s.phase = .run) (hb : s.boot.stage = .ready)
    (hu : hasBit s.power.unused d.val = true) (hs : portsSettling s = false) :
    execUnusedDomainRetry d s = .next (switchOn d s) := by
  rw [execUnusedDomainRetry, onRun_eq hp, if_pos (by simp [hb, hu, hs])]

/-! ## Reference clocks -/

theorem setRefLost_false_getLsbD (n : Nat) (s : State) : (setRefLost n false s).phys.refLost.getLsbD n = false := by
  rcases Nat.lt_or_ge n 9 with h | h
  · have hb : (BitVec.ofNat 9 (2 ^ n)).getLsbD n = true := by
      rw [BitVec.getLsbD_ofNat, Nat.testBit_two_pow_self, decide_eq_true h, Bool.true_and]
    simp only [setRefLost, Bool.false_eq_true, if_false, BitVec.getLsbD_and, BitVec.getLsbD_not, hb, h, decide_true, Bool.not_true, Bool.and_false]
  · exact BitVec.getLsbD_of_ge _ n h

theorem execRefclkLost_noted {r : RefClk} {reading : W32} {s : State} (hp : s.phase ≠ .unpowered)
    (hl : s.phys.refLost.getLsbD (refNum r) = false) (hs : spRuns s = true) :
    execRefclkLost r reading s = .next (fenceDark (powerRecordSeq 3 1 (refNum r) (reading.setWidth 64) (setRefLost (refNum r) true s)).1
      (refDomains r) (raiseAlarm 0x0A (powerRecordSeq 3 1 (refNum r) (reading.setWidth 64) (setRefLost (refNum r) true s)).2)) := by
  rw [execRefclkLost, onAon_eq hp, if_neg (Bool.eq_false_iff.mp hl)]
  exact congrArg _ (if_pos hs)

theorem execRefclkRestored_last {r : RefClk} {s : State} (hp : s.phase ≠ .unpowered) (hl : s.phys.refLost.getLsbD (refNum r) = true)
    (hd : refDark (fenceAlarmSettle (unfenceDark (refDomains r) (setRefLost (refNum r) false s))) = []) :
    execRefclkRestored r s = .next (clearAlarm 0x0A (fenceAlarmSettle (unfenceDark (refDomains r) (setRefLost (refNum r) false s)))) := by
  rw [execRefclkRestored, onAon_eq hp, if_neg (by simp [hl])]
  exact congrArg _ (if_pos hd)

theorem execCrystalLost_noted {reading : W32} {s : State} (hp : s.phase ≠ .unpowered) (hl : s.phys.refLost.getLsbD 8 = false)
    (hs : spRuns s = true) :
    execCrystalLost reading s = .next (raiseAlarm 0x0B (powerRecord 2 1 8 (reading.setWidth 64)
      (setRefLost 8 true { s with aon := { s.aon with onCrystal := false } }))) := by
  rw [execCrystalLost, onAon_eq hp]
  exact congrArg _ ((if_neg (Bool.eq_false_iff.mp hl)).trans (if_pos hs))

/-- A chip that runs when it loses its system reference keeps the fail-stop record as one that was held by it (R53). -/
theorem execSysrefLost_running {reading : W32} {s : State} (hp : s.phase = .run) (hl : s.phys.refLost.getLsbD 0 = false) :
    execSysrefLost reading s = .next (chipReset (setRefLost 0 true { s with
      aon := keepFailStop { cause := failStopNum .sysref, code := 0x060A, faultReg := 0, reading := reading } true s })) := by
  rw [execSysrefLost, onAon_eq (by simp [hp]), if_neg (Bool.eq_false_iff.mp hl)]
  simp [hp]

theorem execCrystalSwitchover_powered {s : State} (hp : s.phase ≠ .unpowered) :
    execCrystalSwitchover s = .next (clearAlarm 0x0B (setRefLost 8 false { s with aon := { s.aon with onCrystal := true } })) := by
  rw [execCrystalSwitchover, onAon_eq hp]

theorem execSysrefRestored_held {s : State} (hp : s.phase = .refHold) :
    execSysrefRestored s = .next { setRefLost 0 false s with phase := .reset } := by
  rw [execSysrefRestored, onAon_eq (by simp [hp]), if_pos hp]

/-! ## Rails and temperatures -/

theorem execRailAlarm_first {rail : Fin 11} {mV : W32} {s : State} (hp : s.phase = .run ∨ s.phase = .flushing)
    (hr : s.phys.railAlarm.getLsbD rail.val = false) :
    execRailAlarm rail mV s = .next (raiseAlarm 0x0F (powerRecord 2 0 rail (mV.setWidth 64)
      { s with phys := { s.phys with railAlarm := s.phys.railAlarm ||| BitVec.ofNat 11 (2 ^ rail.val) } })) := by
  rw [execRailAlarm, onLive_eq hp, if_neg (Bool.eq_false_iff.mp hr)]

theorem execRailRestored_last {rail : Fin 11} {s : State} (hp : s.phase = .run ∨ s.phase = .flushing)
    (hr : s.phys.railAlarm &&& ~~~ BitVec.ofNat 11 (2 ^ rail.val) = 0) :
    execRailRestored rail s = .next (clearAlarm 0x0F { s with phys := { s.phys with railAlarm := 0 } }) := by
  rw [execRailRestored, onLive_eq hp]
  simp only [hr, if_true]

/-- The state of the sensors after a sample that crosses no critical set point (R62). -/
def sampled (r : List Byte) (s : State) : State :=
  { s with
    phys := { s.phys with
      dieMax := r.getD 0 0, hbm := r.drop 1, alert := threshMask s 0 s.phys.alert r, throttle := threshMask s 1 s.phys.throttle r, critical := 0
      refresh := BitVec.ofNat 5 (((List.range 5).map fun i => if i ≠ 0 && decide (85 ≤ tempOf (r.getD i 0)) then 2 ^ i else 0).sum)
      clockEighths := clockStep (threshMask s 1 s.phys.throttle r != 0) s.phys.clockEighths }
    pins := { s.pins with tempAlert := threshMask s 0 s.phys.alert r != 0 } }

/-- The sample makes the first alert or the first throttle crossing, or ends the last one: what raises the thermal interrupt (R62). -/
def thermalChange (r : List Byte) (s : State) : Bool :=
  decide ((threshMask s 0 s.phys.alert r ≠ 0) ≠ (s.phys.alert ≠ 0)) || decide ((threshMask s 1 s.phys.throttle r ≠ 0) ≠ (s.phys.throttle ≠ 0))

/-- The state of a sample with its interrupt and the records of the thresholds newly crossed (R62, R532). -/
def sampleNoted (r : List Byte) (s : State) : State :=
  tempRecords r 2 s.phys.critical 0 (List.range 5)
    (tempRecords r 1 s.phys.throttle (threshMask s 1 s.phys.throttle r) (List.range 5)
      (tempRecords r 0 s.phys.alert (threshMask s 0 s.phys.alert r) (List.range 5)
        (if thermalChange r s then raiseBoth cThermal (sampled r s) else sampled r s)))

theorem execTempSample_uncritical {dies hbm : List Byte} {s : State} (hp : s.phase = .run ∨ s.phase = .flushing)
    (hc : threshMask s 2 s.phys.critical (readings dies hbm) = 0) :
    execTempSample dies hbm s = .next (alarmIs 0x0E false
      (alarmIs 0x0D (threshMask s 1 s.phys.throttle (readings dies hbm) != 0)
        (alarmIs 0x0C (threshMask s 0 s.phys.alert (readings dies hbm) != 0) (sampleNoted (readings dies hbm) s)))) := by
  rw [execTempSample, onLive_eq hp]
  simp only [hc]
  rfl

/-! ## The counts of the always-on domain -/

theorem execLifeCountTick_counts {s : State} (hs : spRuns s = true) :
    execLifeCountTick s = .next { s with aon := { s.aon with
      lifeHours := s.aon.lifeHours + BitVec.ofNat 32 ((s.aon.lifeFrac + lifeWeight (tempOf s.phys.dieMax)) / (3600 * 2 ^ 32))
      lifeFrac := (s.aon.lifeFrac + lifeWeight (tempOf s.phys.dieMax)) % (3600 * 2 ^ 32) } } := by
  rw [execLifeCountTick, onSp_eq hs]

theorem execAonHourTick_counts {elapsed : Nat} {s : State} (hp : s.phase ≠ .unpowered) :
    execAonHourTick elapsed s = .next { s with aon := { s.aon with
      ms := BitVec.ofNat 32 ((s.aon.ms.toNat + elapsed) % 3600000)
      hours := s.aon.hours + BitVec.ofNat 32 ((s.aon.ms.toNat + elapsed) / 3600000) } } := by
  rw [execAonHourTick, onAon_eq hp]

/-! ## Lanes and the standby rail -/

theorem execLaneEyeCheck_firstFail {d : Fin 64} {lane : Fin 16} {s : State} (hp : s.phase = .run) (hon : hasBit s.power.on d.val = true)
    (hm : (s.lane d.val lane.val).marked = false) (hf : (s.lane d.val lane.val).fails = 0) :
    execLaneEyeCheck d lane false s = .next (s.modLane d.val lane.val fun l => { l with fails := 1 }) := by
  rw [execLaneEyeCheck, onRun_eq hp]
  exact congrArg _ ((if_neg (by simp [hon, hm])).trans (if_pos hf))

theorem execVddAonUp_unpowered {s : State} (hp : s.phase = .unpowered) :
    execVddAonUp s = .next (chipReset { s with
      phase := .reset, aon := {}, cond := {}, time := 0, phys := { s.phys with refLost := 0 }
      host := { s.host with ended := Tbl.mapVals s.host.ended fun _ _ => 0 } }) := if_pos hp

theorem execVddAonDown_powered {s : State} (hp : s.phase ≠ .unpowered) :
    ∃ t, execVddAonDown s = .next t ∧ t.phase = .unpowered ∧ t.aon = {} ∧ t.jtag = {} ∧ t.power.on = 0 :=
  ⟨_, onAon_eq hp, rfl, rfl, rfl, rfl⟩

/-! ## The obligation -/

/-- Settles O13: each row runs its meaning in the phases that allow it, and the conditions name the branch that it takes. -/
theorem powerAndClockCommandsComplete : Obligations.PowerAndClockCommandsComplete := by
  unfold Obligations.PowerAndClockCommandsComplete
  refine ⟨?switchOn, ?switchOff, ?rampDone, ?judge, ?retry, ?refLost, ?refBack, ?crystalLost, ?crystalBack, ?sysrefLost, ?sysrefBack,
    ?railAlarm, ?railBack, ?sample, ?lifeCount, ?hours, ?lane, ?aonUp, ?aonDown⟩
  case switchOn => exact fun _ _ hp => onLive_eq hp
  case switchOff => exact fun _ _ hp hd hr hw hi => execDomainSwitchOffRequest_idle hp hd hr hw hi
  case rampDone => exact fun _ _ hp => onSp_eq (spRuns_of_live hp)
  case judge => exact fun _ _ _ hp hj hu => ⟨_, execPortDomainJudge_inUse hp hj hu, rfl, rfl⟩
  case retry => exact fun _ _ hp hb hu hs => execUnusedDomainRetry_retries hp hb hu hs
  case refLost => exact fun _ _ _ hp hl hs => execRefclkLost_noted hp hl hs
  case refBack => exact fun _ _ hp hl hd => execRefclkRestored_last hp hl hd
  case crystalLost => exact fun _ _ hp hl hs => execCrystalLost_noted hp hl hs
  case crystalBack => exact fun _ hp => execCrystalSwitchover_powered hp
  case sysrefLost => exact fun _ _ hp hl => execSysrefLost_running hp hl
  case sysrefBack => exact fun s hp => ⟨_, execSysrefRestored_held hp, rfl, setRefLost_false_getLsbD 0 s⟩
  case railAlarm => exact fun _ _ _ hp hr => execRailAlarm_first hp hr
  case railBack => exact fun _ _ hp hr => execRailRestored_last hp hr
  case sample => exact fun _ _ _ hp hc => execTempSample_uncritical hp hc
  case lifeCount => exact fun _ hs => ⟨_, execLifeCountTick_counts hs, rfl, rfl⟩
  case hours => exact fun _ _ hp => execAonHourTick_counts hp
  case lane => exact fun _ _ _ hp hon hm hf => execLaneEyeCheck_firstFail hp hon hm hf
  case aonUp => exact fun _ hp => execVddAonUp_unpowered hp
  case aonDown => exact fun _ hp => execVddAonDown_powered hp

end Sys2Proof.Machine
end

/-! PROOFS of O17 (R12 to R14, R110, R116, R117, R189, R503 to R507): accesses to registers and pages by a function that is awake or in D3hot, and the recorder's own steps. -/
section
namespace Sys2Proof.Machine
open Sys2Proof

/-! ## Memory requests to an endpoint (R110) -/

theorem onMem_awake {p : Port} {upper posted : Bool} {s : State} {f : State → State} (hp : s.phase = .run)
    (hd : (capsOf p upper s).d3hot = false) : onMem p upper posted s f = .next (f s) := by
  rw [onMem, onRun_eq hp, if_neg (Bool.eq_false_iff.mp hd)]

theorem onMem_asleep {p : Port} {upper posted : Bool} {s : State} {f : State → State} (hp : s.phase = .run)
    (hd : (capsOf p upper s).d3hot = true) : onMem p upper posted s f = .next (unsupported p upper posted s) := by
  rw [onMem, onRun_eq hp, if_pos hd]

theorem onMem_lower_awake {p : Port} {posted : Bool} {s : State} {f : State → State} (hp : s.phase = .run)
    (hd : (s.port p).caps.d3hot = false) : onMem p false posted s f = .next (f s) := onMem_awake hp hd

theorem onMem_lower_asleep {p : Port} {posted : Bool} {s : State} {f : State → State} (hp : s.phase = .run)
    (hd : (s.port p).caps.d3hot = true) : onMem p false posted s f = .next (unsupported p false posted s) := onMem_asleep hp hd

/-- Noting an unsupported request does not wake the function. -/
theorem unsupported_lower_d3hot (p : Port) (posted : Bool) (s : State) :
    ((unsupported p false posted s).port p).caps.d3hot = (s.port p).caps.d3hot := by
  simp [unsupported, modCaps]

theorem execSemRead_asleep {n : Fin 64} {p : Port} {s : State} (hp : s.phase = .run) (hd : (s.port p).caps.d3hot = true) :
    execSemRead n (.one p) s = .next (unsupported p false false s) := by
  have hs : readersAsleep (.one p) s = unsupported p false false s := if_pos hd
  rw [execSemRead, onRun_eq hp, hs]
  exact congrArg _ (if_pos ((unsupported_lower_d3hot p false s).trans hd))

theorem execSemReleaseWrite_asleep {p : Port} {n : Fin 64} {v : W32} {s : State} (hp : s.phase = .run)
    (hd : (s.port p).caps.d3hot = true) : execSemReleaseWrite p n v s = .next (unsupported p false true s) := onMem_lower_asleep hp hd

theorem execIntEnableWrite_asleep {p : Port} {v : W32} {s : State} (hp : s.phase = .run)
    (hd : (s.port p).caps.d3hot = true) : execIntEnableWrite p v s = .next (unsupported p false true s) := onMem_lower_asleep hp hd

/-! ## Reads of BAR0 (R12, R13) -/

theorem readReg_asleep {p : Port} {off size : Nat} {s : State} (hp : s.phase = .run) (hd : (s.port p).caps.d3hot = true) :
    readReg p off size s = .next (unsupported p false false s) := by
  rw [readReg, if_neg (not_not.mpr hp), if_pos hd]

section
variable {p : Port} {off size : Nat} {s : State} (hp : s.phase = .run) (hd : (s.port p).caps.d3hot = false) (ha : off % size = 0)
  (hg : (isDbg off && debugIsOpen s) = false)
include hp hd ha hg

theorem readReg_narrow (hz : size ≠ 8) :
    readReg p off size s = .next (readOut p off ((readWord p (off / 4 * 4) false s).1.toNat / 2 ^ (8 * (off % 4)) % 2 ^ (8 * size))
      (readWord p (off / 4 * 4) false s).2) := by
  rw [readReg, if_neg (not_not.mpr hp), if_neg (Bool.eq_false_iff.mp hd), if_neg (not_not.mpr ha), if_neg (Bool.eq_false_iff.mp hg), if_neg hz]

theorem readReg_wide {lo hi : W32} {u : State} (hz : size = 8) (hlo : (readWord p off (lowHalf off) s).1 = lo)
    (hhi : readWord p (off + 4) (lowHalf off) (readWord p off (lowHalf off) s).2 = (hi, u)) :
    readReg p off size s = .next (readOut p off (lo.toNat + 2 ^ 32 * hi.toNat) u) := by
  rw [readReg, if_neg (not_not.mpr hp), if_neg (Bool.eq_false_iff.mp hd), if_neg (not_not.mpr ha), if_neg (Bool.eq_false_iff.mp hg), if_pos hz]
  simp only [hlo, hhi]

end

/-! ## Writes (R12, R189) -/

theorem execRegisterWrite_asleep {p : Port} {off : BitVec 20} {wide : Bool} {v : W64} {s : State} (hp : s.phase = .run)
    (hd : (s.port p).caps.d3hot = true) : execRegisterWrite (.bar0 p off) wide v s = .next (unsupported p false true s) := by
  rw [execRegisterWrite, if_neg (not_not.mpr hp)]
  exact if_pos hd

theorem execRegisterWrite_bar0 {p : Port} {off : BitVec 20} {wide : Bool} {v : W64} {s : State} (hp : s.phase = .run)
    (hd : (s.port p).caps.d3hot = false) (ha : off.toNat % (if wide then 8 else 4) = 0) (hg : (isDbg off.toNat && debugIsOpen s) = false) :
    execRegisterWrite (.bar0 p off) wide v s =
      .next (if wide then writeWide p off.toNat v s else writeWord p off.toNat (lo32 v) s) := by
  rw [execRegisterWrite, if_neg (not_not.mpr hp)]
  exact (if_neg (Bool.eq_false_iff.mp hd)).trans ((if_neg (not_not.mpr ha)).trans (if_neg (Bool.eq_false_iff.mp hg)))

theorem writeWide_taken {p : Port} {off : Nat} {v : W64} {s : State} (h : (lowHalf off && wideDiscarded p off s) = false) :
    writeWide p off v s = writeWord p (off + 4) (hi32 v) (writeWord p off (lo32 v) s) := if_neg (Bool.eq_false_iff.mp h)

theorem execRegisterWrite_page_narrow {port : Port} {upper : Bool} {slice : BitVec 12} {off : BitVec 14} {v : W64} {s : State}
    (hp : s.phase = .run) (hd : (capsOf port upper s).d3hot = false) :
    execRegisterWrite (.page port upper slice off) false v s = .next (pageWrite ⟨port, upper, slice⟩ off.toNat (lo32 v) s) := by
  rw [execRegisterWrite, if_neg (not_not.mpr hp)]
  exact if_neg (Bool.eq_false_iff.mp hd)

/-! ## The recorder (R503 to R507) -/

theorem execEvrWindowRead_awake {p : Port} {k : Fin 64} {s : State} (hp : s.phase = .run) (hd : (s.port p).caps.d3hot = false) :
    execEvrWindowRead p k s = .next (readOut p (0x4100 + 4 * k.val) (readWindow p (0x4100 + 4 * k.val) s).1.toNat
      (readWindow p (0x4100 + 4 * k.val) s).2) := by
  rw [execEvrWindowRead, onMem_lower_awake hp hd]

theorem execEvrClear_begins {p : Port} {s : State} (hp : s.phase = .run) (hd : (s.port p).caps.d3hot = false)
    (ho : (s.sem 0).owner = some p) (hf : s.cond.pwrfail.level = false) (hc : s.evr.clearing = none) :
    execEvrClear p s = .next (eraseRecorder { s with evr := { s.evr with
      clearing := some (evrNextToWrite s, s.aon.suppressed, s.evr.torn)
      buffer := s.evr.buffer.zipIdx.map fun x => { x.1 with index := x.2 + 1 } } }) := by
  rw [execEvrClear, onMem_lower_awake hp hd, if_neg (by simp [ho, hf, hc])]

theorem execEvrRecordWritten_oldest {r : EvrRec} {rest : List EvrRec} {s : State} (hp : s.phase = .run ∨ s.phase = .flushing)
    (hb : s.evr.buffer = r :: rest) (hc : s.evr.clearing = none) (hn : norFrozen s = false) :
    execEvrRecordWritten s = .next (recordOut r rest s) := by
  rw [execEvrRecordWritten, onLive_eq hp]
  simp only [hb]
  rw [if_neg (by simp [hc, hn])]

/-- The recorder after a clear, before its own record (R507). -/
def recorderCleared (s : State) : State :=
  { s with
    evr := { s.evr with clearing := none, slots := [], tornSlots := [], torn := 0, fullNoted := false, nextSlot := 0, buffer := [] }
    aon := { s.aon with suppressed := 0 } }

theorem execEvrClearDone_ends {next torn : Nat} {sup : W32} {s : State} (hp : s.phase = .run)
    (hc : s.evr.clearing = some (next, sup, torn)) (hn : norFrozen s = false) :
    execEvrClearDone s = .next (clearAlarm 0x17 { recorderCleared s with evr := { (recorderCleared s).evr with
      buffer := mkEvent 0 9 0xFF false 0 (le32 next ++ le32 sup.toNat ++ le32 torn) 0 (recorderCleared s) :: s.evr.buffer
      nextSlot := s.evr.buffer.length + 1 } }) := by
  rw [execEvrClearDone, onRun_eq hp]
  simp only [hc]
  rw [if_neg (Bool.eq_false_iff.mp hn)]
  rfl

/-! ## The obligation -/

/-- Settles O17: each access reaches the one branch that its phase, power state, alignment and offset leave. -/
theorem registerAccessesComplete : Obligations.RegisterAccessesComplete := by
  unfold Obligations.RegisterAccessesComplete
  refine ⟨?readNarrow, ?readWide, ?readPage, ?asleepBar0, ?asleepRows, ?readLow, ?writeNarrow, ?writeWide, ?writePage, ?window,
    ?clear, ?written, ?clearDone⟩
  case readNarrow =>
    intro p off size s hp hd hz ha hg
    have h8 : 2 ^ size.val ≠ 8 := (Nat.pow_lt_pow_right Nat.one_lt_two hz).ne
    exact readReg_narrow hp hd ha hg h8
  case readWide => exact fun _ _ _ _ _ _ hp hd ha hg hlo hhi => readReg_wide hp hd ha hg rfl hlo hhi
  case readPage => exact fun _ _ _ _ _ _ hp hd => onMem_awake hp hd
  case asleepBar0 => exact fun _ _ _ _ _ _ hp hd => ⟨readReg_asleep hp hd, readReg_asleep hp hd, execRegisterWrite_asleep hp hd⟩
  case asleepRows => exact fun _ _ _ _ hp hd => ⟨execSemRead_asleep hp hd, execSemReleaseWrite_asleep hp hd, execIntEnableWrite_asleep hp hd⟩
  case readLow => exact fun _ _ _ hp hd ha hg => readReg_narrow hp hd ha hg (by decide)
  case writeNarrow => exact fun _ _ _ _ hp hd ha hg => execRegisterWrite_bar0 hp hd ha hg
  case writeWide =>
    intro p off v s hp hd ha hg hw
    exact (execRegisterWrite_bar0 hp hd ha hg).trans (congrArg _ (writeWide_taken hw))
  case writePage => exact fun _ _ _ _ _ _ hp hd => execRegisterWrite_page_narrow hp hd
  case window => exact fun _ _ _ hp hd => execEvrWindowRead_awake hp hd
  case clear => exact fun _ _ hp hd ho hf hc => execEvrClear_begins hp hd ho hf hc
  case written => exact fun _ _ _ hp hb hc hn => execEvrRecordWritten_oldest hp hb hc hn
  case clearDone =>
    rintro next sup torn s u hp hc hn rfl
    exact execEvrClearDone_ends hp hc hn

end Sys2Proof.Machine
end

/-! PROOFS of O1 to O3 (R27, log entry 4): what a step takes out of the queue, and the parts of the state that each command may change. -/
section
namespace Sys2Proof.Machine
open Sys2Proof

/-! ## What a step does with the queue -/

theorem step_empty {s : State} (h : s.pending = []) : step s = .next s := by
  rw [step, h]

theorem step_front {s : State} {c : Instr} {rest : List Instr} (h : s.pending = c :: rest) :
    step s = exec c { s with pending := rest } := by
  rw [step, h]

/-! ## The parts that a command may change -/

/-- The mask of the parts of the state that a command may change (the numbering of `kept`); the queue is in none. -/
def touches : Instr → Nat
  | .fuseRollbackAdvance .. => butFuses
  | .fuseNonceGet .. | .attestReport .. | .molzonAttestationRequest .. => butTrust
  | .fuseOwnerKeyProgram .. | .fuseOwnerKeyRevoke .. | .fuseDebugPermanent .. => butFusesTrust
  | .nodeEnclosureSet .. => butChain
  | .mctpSetEndpointId .. | .smbusArp .. => butSide
  | .jtagBypass | .jtagSamplePreload .. | .jtagExtest | .jtagIdcode | .jtagClamp | .jtagHighz | .jtagExtestPulse | .jtagExtestTrain => butJtag
  | .udmaOwnerRead .. | .udmaTimerTick .. => butChans
  | .primaryRegionRestore | .fwStage .. | .fwStagingDone .. | .fwActivateNextStart .. | .fwConfirm .. | .fwRegionsSynced | .fwArmed .. => butFw
  | .scratchpadConvert | .scratchpadReturn => butOnchip
  | .udmaOwnerRelease .. | .udmaStart .. | .udmaEnableClear .. | .udmaCqHeadWrite .. | .udmaRunComplete .. => butChansOnchip
  | .boardIdSample .. | .ddrTrainingDone .. | .mbxImmDeferredServe .. => butBoot
  | .pwrgoodAssert .. | .pwrfailStuck | .perstStuck .. | .perstDeassert .. => butCond
  | .chainHeadTaken | .chainFrameReceived .. | .chainNoFrameTimeout | .chainInStuck .. => butChainCond
  | .netPortQuery .. | .connect .. | .netLinkUp .. | .arpRequest .. | .neighborSolicitation .. | .icmpEcho .. | .rateIncreaseTick ..
  | .receiveBufferPost .. | .datagramProbe .. | .datagramProbeReply .. | .datagramAckDue .. | .pathProbeTimeout .. | .pathDownProbe ..
  | .reassemblyExpiry .. | .routerAdvertisement .. | .dhcpv4Message .. | .dhcpv4LeaseTimer .. | .pfcFrame .. => butNet
  | .domainRampDone .. => butBootNet
  | .snapshotCreate .. | .snapshotDelete .. | .cloneCreate .. | .decompressDone .. | .openSegmentCheck .. => butNs
  | .writeUncorrectable .. | .writeZeroes .. | .batchClose .. | .indexLookup .. => butRepls
  | .moduleRetire .. | .volumeDelete .. | .snapshotCutTimeout .. | .memberFailed .. | .bridgeRestartTimeout .. | .pageVerify .. => butNsRepls
  | .trafficKeyPreviousExpiry .. | .clusterLeaveTimeout => butCluster
  | .wrSend .. | .wrWrite .. | .wrRead .. | .wrSendWithInvalidate .. | .wrNop .. | .datagramHello .. | .datagramHelloReply .. | .clusterProbeTick
  | .clusterProbe .. | .clusterProbeAck .. | .clusterProbeTimeout .. | .probeIndirect .. | .suspect .. | .clusterJoinTimeout .. => butNetCluster
  | .datagramData .. => butOnchipNetCluster
  | .snapshotSealed .. | .replCreate .. | .replControlRepair .. | .datagramAck .. | .datagramNak .. | .datagramHelloRetry .. | .replOpen ..
  | .replDelta .. => butNetReplsCluster
  | .vaultReplay .. => butBootNetReplsCluster
  | .keyLoad .. | .ktwkLoad .. | .ktwkRotate .. | .keyDestroy .. | .dgsAlloc .. | .dgsCtxOpen .. | .dgsCtxClose .. | .dgsCtxLengthWrite ..
  | .dgsDataPortWrite .. | .dgsCtxCmp .. | .dgsEcdsaVerify .. | .dgsEcdsaSign .. | .ecdsaOperationDone => butCipher
  | .debugUnlock .. => butTrustCipher
  | .fwActivateHitless .. => butFwCipher
  | .xtsEncrypt .. | .xtsDecrypt .. | .xtsReencrypt .. | .gcmOpen .. | .gcmData .. | .gcmClose .. | .rawEncrypt .. | .rawDecrypt ..
  | .keySlotFill .. => butOnchipCipher
  | .hbmTrainingDone | .controlCoreStart => butBootCipher
  | .fwHandoverFreeze .. => butTrustFwBootCipher
  | .imageVerifyDone .. | .recoveryLoad .. => butTrustChainFwOnchipBootCipher
  | .laneEyeCheck .. | .sliceReset .. | .sliceResetDrainTimeout .. | .sliceDelete .. | .netPortConfig .. | .cqHeadDoorbell .. | .ccWrite ..
  | .nvmeCommandFetch .. | .deleteIoSubmissionQueue .. | .createIoSubmissionQueue .. | .getLogPage .. | .deleteIoCompletionQueue ..
  | .createIoCompletionQueue .. | .identify .. | .abort .. | .setFeatures .. | .getFeatures .. | .asynchronousEventRequest .. | .keepAlive ..
  | .keepAliveTimeout .. | .propertySet .. | .disconnect .. | .flush .. | .netLinkDown .. | .qpRetransmitTimeout .. | .pcieCompletionTimeout ..
  | .pageRequestGroupResponse .. => butNetCipher
  | .volumeCreate .. => butNsCipher
  | .formatNvm .. => butNetNsCipher
  | .datasetManagement .. => butNetReplsCipher
  | .cmMad .. | .repairRequest .. => butNetClusterCipher
  | .roceSend .. | .roceSendWithImmediate .. | .roceSendWithInvalidate .. | .roceRdmaWrite .. | .roceRdmaReadRequest .. | .roceReadResponse ..
  | .roceAck .. | .roceNak .. | .roceCnp .. | .qpContextFetched .. => butOnchipNetClusterCipher
  | .keyRotate .. | .write .. | .writeAdmission | .writeStagedWhole .. | .datagramRetransmitTimeout .. | .replUnits .. | .repairData ..
  | .replWrite .. | .replWriteAck .. => butNetReplsClusterCipher
  | .peerAliveTimeout | .volumeResize .. | .replControlPause .. | .replControlResume .. | .replControlStop .. | .replCycleDue ..
  | .failoverTakeOver .. | .clusterJoin .. | .clusterLeave .. | .read .. | .compare .. | .compareAndWrite .. | .verify .. | .privetLockGrant ..
  | .journalGroupCommit | .kamardAcquireTimeout .. | .kamardHelloRetry .. | .kamardHelloReply .. | .kamardReadResponse .. | .kamardProgramResponse ..
  | .kamardEraseResponse .. | .kamardThreshLoadResponse .. | .kamardRetrainDone .. | .ldpcDecodeDone .. | .jalrasHello .. | .jalrasHelloReply ..
  | .peerPartitionTimeout | .joinRequest .. | .joinAccept .. | .viewUpdate .. | .viewAck .. | .suspectTimeout .. | .leave .. | .replOpenAck ..
  | .replCommit .. | .replCommitAck .. | .jalrasRetrainDone .. | .viewChangeTimeout => butNetNsReplsClusterCipher
  | .journalReplay .. => butThese32064
  | .peerAliveChange .. => butCondNetNsReplsClusterCipher
  | .govSharesSet .. | .compactionStart .. | .topiaryMove .. | .blockReclaim .. | .segmentCleaning .. | .scrubPage .. => butGov
  | .coldDedupMatch .. | .rebuildSegment .. => butNsGov
  | .replDeltaAck .. | .govPeriodBoundary => butNetReplsClusterCipherGov
  | .jalrasHeartbeat .. | .vaultNotice .. | .serials .. | .ownership .. | .resyncDone .. | .sifUpdate .. | .sifAck .. | .journalGroup ..
  | .journalAck .. | .release .. | .mirrorData .. | .mirrorAck .. | .forwardCmd .. | .forwardRsp .. | .proxyMedia ..
  | .proxyRsp .. => butNetNsReplsClusterCipherGov
  | .statsGetTrace .. => butGovTraces
  | .semRead .. | .semReleaseWrite .. | .semLeaseExpiry .. => butSems
  | .hotReset .. | .functionLevelReset .. | .dataLinkDown .. => butChansOnchipSems
  | .configurationRequest .. => butChansOnchipBootSems
  | .perstAssert .. => butChansOnchipCondSems
  | .registerWrite .. => butChansOnchipCondNetCipherSems
  | .domainSwitchOffRequest .. | .portDomainJudge .. | .refclkLost .. | .batchDone .. | .errorDetected .. | .errorRepeatResult ..
  | .handlerTimeout .. => butThese162976
  | .unitSelfTestDone .. => butThese163232
  | .chipResetExit .. => butThese163827
  | .registerRcRead .. | .registerLowHalfRead .. => butChansCondGovSems
  | .sysrefLost .. | .vaultFlushDone | .resetHoldOffExpiry => butThese257518
  | .pwrgoodDeassert .. | .pwrfailStableDeassert | .vddAonUp => butThese258030
  | .resetNAssert .. | .inputLatchRelease .. | .vddAonDown => butThese258046
  | .tempSample .. | .fwAbort .. | .fwWindowExpiry | .fwHeartbeatGap => butThese261614
  | .pwrfailNAssert .. => butThese262126
  | _ => 0

/-- Every command leaves the queue, and each part of the state that is not among those it touches, as it found them: the lemma of its meaning says so. (HELLO's answer names its operands, which unification finds only by unfolding its meaning.) -/
theorem exec_keeps {c : Instr} {s t : State} (h : exec c s = .next t) : kept (touches c) t = kept (touches c) s := by
  cases c with
  | pwrgoodAssert => exact execPwrgoodAssert_keeps (ht := h)
  | pwrgoodDeassert => exact execPwrgoodDeassert_keeps (ht := h)
  | resetNAssert => exact execResetNAssert_keeps (ht := h)
  | chipResetExit => exact execChipResetExit_keeps (ht := h)
  | boardIdSample => exact execBoardIdSample_keeps (ht := h)
  | pwrfailNAssert => exact execPwrfailNAssert_keeps (ht := h)
  | pwrfailStableDeassert => exact execPwrfailStableDeassert_keeps (ht := h)
  | pwrfailStuck => exact execPwrfailStuck_keeps (ht := h)
  | inputLatchRelease => exact execInputLatchRelease_keeps (ht := h)
  | perstAssert => exact execPerstAssert_keeps (ht := h)
  | perstStuck => exact execPerstStuck_keeps (ht := h)
  | peerAliveChange => exact execPeerAliveChange_keeps (ht := h)
  | peerAliveTimeout => exact execPeerAliveTimeout_keeps (ht := h)
  | chainHeadTaken => exact execChainHeadTaken_keeps (ht := h)
  | chainHeadFrameSend => exact execChainHeadFrameSend_keeps (ht := h)
  | chainFrameReceived => exact execChainFrameReceived_keeps (ht := h)
  | chainNoFrameTimeout => exact execChainNoFrameTimeout_keeps (ht := h)
  | domainSwitchOnRequest => exact execDomainSwitchOnRequest_keeps (ht := h)
  | domainSwitchOffRequest => exact execDomainSwitchOffRequest_keeps (ht := h)
  | domainRampDone => exact execDomainRampDone_keeps (ht := h)
  | portDomainJudge => exact execPortDomainJudge_keeps (ht := h)
  | unusedDomainRetry => exact execUnusedDomainRetry_keeps (ht := h)
  | refclkLost => exact execRefclkLost_keeps (ht := h)
  | refclkRestored => exact execRefclkRestored_keeps (ht := h)
  | crystalLost => exact execCrystalLost_keeps (ht := h)
  | crystalSwitchover => exact execCrystalSwitchover_keeps (ht := h)
  | sysrefLost => exact execSysrefLost_keeps (ht := h)
  | sysrefRestored => exact execSysrefRestored_keeps (ht := h)
  | railAlarm => exact execRailAlarm_keeps (ht := h)
  | railRestored => exact execRailRestored_keeps (ht := h)
  | tempSample => exact execTempSample_keeps (ht := h)
  | lifeCountTick => exact execLifeCountTick_keeps (ht := h)
  | aonHourTick => exact execAonHourTick_keeps (ht := h)
  | laneEyeCheck => exact execLaneEyeCheck_keeps (ht := h)
  | imageVerifyDone => exact execImageVerifyDone_keeps (ht := h)
  | hbmTrainingDone => exact execHbmTrainingDone_keeps (ht := h)
  | ddrTrainingDone => exact execDdrTrainingDone_keeps (ht := h)
  | controlCoreStart => exact execControlCoreStart_keeps (ht := h)
  | vaultReplay => exact execVaultReplay_keeps (ht := h)
  | journalReplay => exact execJournalReplay_keeps (ht := h)
  | primaryRegionRestore => exact execPrimaryRegionRestore_keeps (ht := h)
  | hotReset => exact execHotReset_keeps (ht := h)
  | functionLevelReset => exact execFunctionLevelReset_keeps (ht := h)
  | dataLinkDown => exact execDataLinkDown_keeps (ht := h)
  | hostLinkUp => exact execHostLinkUp_keeps (ht := h)
  | busMasterEnableCleared => exact execBusMasterEnableCleared_keeps (ht := h)
  | busMasterEnableSet => exact execBusMasterEnableSet_keeps (ht := h)
  | semRead => exact execSemRead_keeps (ht := h)
  | semReleaseWrite => exact execSemReleaseWrite_keeps (ht := h)
  | semLeaseRenew => exact execSemLeaseRenew_keeps (ht := h)
  | semLeaseExpiry => exact execSemLeaseExpiry_keeps (ht := h)
  | mbxImmDoorbell => exact execMbxImmDoorbell_keeps (ht := h)
  | mbxImmDeferredServe => exact execMbxImmDeferredServe_keeps (ht := h)
  | mbxReqTail => exact execMbxReqTail_keeps (ht := h)
  | ringRequestFetch => exact execRingRequestFetch_keeps (ht := h)
  | mbxRspHead => exact execMbxRspHead_keeps (ht := h)
  | mbxRingCtrlWrite => exact execMbxRingCtrlWrite_keeps (ht := h)
  | mailboxResponse => exact execMailboxResponse_keeps (ht := h)
  | intEnableWrite => exact execIntEnableWrite_keeps (ht := h)
  | bar0AccessError => exact execBar0AccessError_keeps (ht := h)
  | registerWrite => exact execRegisterWrite_keeps (ht := h)
  | registerRcRead => exact execRegisterRcRead_keeps (ht := h)
  | registerLowHalfRead => exact execRegisterLowHalfRead_keeps (ht := h)
  | mailboxHello => exact execMailboxHello_keeps (ht := h)
  | chipInfoGet => exact execChipInfoGet_keeps (ht := h)
  | bootStatusGet => exact execBootStatusGet_keeps (ht := h)
  | nodeEnclosureSet => exact execNodeEnclosureSet_keeps (ht := h)
  | hostPortConfig => exact execHostPortConfig_keeps (ht := h)
  | alarmList => exact execAlarmList_keeps (ht := h)
  | alarmAck => exact execAlarmAck_keeps (ht := h)
  | errorQueueRead => exact execErrorQueueRead_keeps (ht := h)
  | fuseRead => exact execFuseRead_keeps (ht := h)
  | fuseNonceGet => exact execFuseNonceGet_keeps (ht := h)
  | fuseOwnerKeyProgram => exact execFuseOwnerKeyProgram_keeps (ht := h)
  | fuseOwnerKeyRevoke => exact execFuseOwnerKeyRevoke_keeps (ht := h)
  | fuseRollbackAdvance => exact execFuseRollbackAdvance_keeps (ht := h)
  | fuseDebugPermanent => exact execFuseDebugPermanent_keeps (ht := h)
  | debugUnlock => exact execDebugUnlock_keeps (ht := h)
  | attestReport => exact execAttestReport_keeps (ht := h)
  | recoveryLoad => exact execRecoveryLoad_keeps (ht := h)
  | fwStage => exact execFwStage_keeps (ht := h)
  | fwStagingDone => exact execFwStagingDone_keeps (ht := h)
  | fwActivateHitless => exact execFwActivateHitless_keeps (ht := h)
  | fwHandoverFreeze => exact execFwHandoverFreeze_keeps (ht := h)
  | fwActivateNextStart => exact execFwActivateNextStart_keeps (ht := h)
  | fwConfirm => exact execFwConfirm_keeps (ht := h)
  | fwRegionsSynced => exact execFwRegionsSynced_keeps (ht := h)
  | fwStatusGet => exact execFwStatusGet_keeps (ht := h)
  | fwAbort => exact execFwAbort_keeps (ht := h)
  | fwWindowExpiry => exact execFwWindowExpiry_keeps (ht := h)
  | fwHeartbeatGap => exact execFwHeartbeatGap_keeps (ht := h)
  | poolCreate => exact execPoolCreate_keeps (ht := h)
  | poolDelete => exact execPoolDelete_keeps (ht := h)
  | memberTrimDone => exact execMemberTrimDone_keeps (ht := h)
  | poolQuery => exact execPoolQuery_keeps (ht := h)
  | poolModuleAdd => exact execPoolModuleAdd_keeps (ht := h)
  | poolReshape => exact execPoolReshape_keeps (ht := h)
  | moduleQuery => exact execModuleQuery_keeps (ht := h)
  | moduleRetire => exact execModuleRetire_keeps (ht := h)
  | volumeCreate => exact execVolumeCreate_keeps (ht := h)
  | volumeDelete => exact execVolumeDelete_keeps (ht := h)
  | volumeResize => exact execVolumeResize_keeps (ht := h)
  | volumeQuery => exact execVolumeQuery_keeps (ht := h)
  | sliceCreate => exact execSliceCreate_keeps (ht := h)
  | sliceResize => exact execSliceResize_keeps (ht := h)
  | sliceReset => exact execSliceReset_keeps (ht := h)
  | sliceResetDrainTimeout => exact execSliceResetDrainTimeout_keeps (ht := h)
  | sliceDelete => exact execSliceDelete_keeps (ht := h)
  | sliceDirtyLogStart => exact execSliceDirtyLogStart_keeps (ht := h)
  | sliceDirtyLogHarvest => exact execSliceDirtyLogHarvest_keeps (ht := h)
  | sliceDirtyLogStop => exact execSliceDirtyLogStop_keeps (ht := h)
  | keyLoad => exact execKeyLoad_keeps (ht := h)
  | ktwkLoad => exact execKtwkLoad_keeps (ht := h)
  | keyRotate => exact execKeyRotate_keeps (ht := h)
  | ktwkRotate => exact execKtwkRotate_keeps (ht := h)
  | keyDestroy => exact execKeyDestroy_keeps (ht := h)
  | keyQuery => exact execKeyQuery_keeps (ht := h)
  | snapshotCreate => exact execSnapshotCreate_keeps (ht := h)
  | snapshotCutTimeout => exact execSnapshotCutTimeout_keeps (ht := h)
  | snapshotSealed => exact execSnapshotSealed_keeps (ht := h)
  | snapshotDelete => exact execSnapshotDelete_keeps (ht := h)
  | cloneCreate => exact execCloneCreate_keeps (ht := h)
  | replCreate => exact execReplCreate_keeps (ht := h)
  | replControlPause => exact execReplControlPause_keeps (ht := h)
  | replControlResume => exact execReplControlResume_keeps (ht := h)
  | replControlStop => exact execReplControlStop_keeps (ht := h)
  | replControlRepair => exact execReplControlRepair_keeps (ht := h)
  | replQuery => exact execReplQuery_keeps (ht := h)
  | replCycleDue => exact execReplCycleDue_keeps (ht := h)
  | peerStatusGet => exact execPeerStatusGet_keeps (ht := h)
  | failoverTakeOver => exact execFailoverTakeOver_keeps (ht := h)
  | failoverGiveBack => exact execFailoverGiveBack_keeps (ht := h)
  | clusterJoin => exact execClusterJoin_keeps (ht := h)
  | clusterLeave => exact execClusterLeave_keeps (ht := h)
  | netPortConfig => exact execNetPortConfig_keeps (ht := h)
  | netPortQuery => exact execNetPortQuery_keeps (ht := h)
  | govSharesSet => exact execGovSharesSet_keeps (ht := h)
  | statsGet => exact execStatsGet_keeps (ht := h)
  | statsGetTrace => exact execStatsGetTrace_keeps (ht := h)
  | mctpSetEndpointId => exact execMctpSetEndpointId_keeps (ht := h)
  | mctpGetEndpointId => exact execMctpGetEndpointId_keeps (ht := h)
  | mctpGetVersionSupport => exact execMctpGetVersionSupport_keeps (ht := h)
  | mctpGetMessageTypeSupport => exact execMctpGetMessageTypeSupport_keeps (ht := h)
  | smbusArp => exact execSmbusArp_keeps (ht := h)
  | pldmGetTid => exact execPldmGetTid_keeps (ht := h)
  | pldmGetPldmVersion => exact execPldmGetPldmVersion_keeps (ht := h)
  | pldmGetPldmTypes => exact execPldmGetPldmTypes_keeps (ht := h)
  | pldmGetPldmCommands => exact execPldmGetPldmCommands_keeps (ht := h)
  | pldmSensorRead => exact execPldmSensorRead_keeps (ht := h)
  | pollForPlatformEventMessage => exact execPollForPlatformEventMessage_keeps (ht := h)
  | molzonAttestationRequest => exact execMolzonAttestationRequest_keeps (ht := h)
  | molzonAlarmNotificationRequest => exact execMolzonAlarmNotificationRequest_keeps (ht := h)
  | molzonBootStatusRequest => exact execMolzonBootStatusRequest_keeps (ht := h)
  | jtagBypass => exact execJtagBypass_keeps (ht := h)
  | jtagSamplePreload => exact execJtagSamplePreload_keeps (ht := h)
  | jtagExtest => exact execJtagExtest_keeps (ht := h)
  | jtagIdcode => exact execJtagIdcode_keeps (ht := h)
  | jtagClamp => exact execJtagClamp_keeps (ht := h)
  | jtagHighz => exact execJtagHighz_keeps (ht := h)
  | jtagExtestPulse => exact execJtagExtestPulse_keeps (ht := h)
  | jtagExtestTrain => exact execJtagExtestTrain_keeps (ht := h)
  | sqTailDoorbell => exact execSqTailDoorbell_keeps (ht := h)
  | cqHeadDoorbell => exact execCqHeadDoorbell_keeps (ht := h)
  | ccWrite => exact execCcWrite_keeps (ht := h)
  | nvmeCommandFetch => exact execNvmeCommandFetch_keeps (ht := h)
  | deleteIoSubmissionQueue => exact execDeleteIoSubmissionQueue_keeps (ht := h)
  | createIoSubmissionQueue => exact execCreateIoSubmissionQueue_keeps (ht := h)
  | getLogPage => exact execGetLogPage_keeps (ht := h)
  | deleteIoCompletionQueue => exact execDeleteIoCompletionQueue_keeps (ht := h)
  | createIoCompletionQueue => exact execCreateIoCompletionQueue_keeps (ht := h)
  | identify => exact execIdentify_keeps (ht := h)
  | abort => exact execAbort_keeps (ht := h)
  | setFeatures => exact execSetFeatures_keeps (ht := h)
  | getFeatures => exact execGetFeatures_keeps (ht := h)
  | asynchronousEventRequest => exact execAsynchronousEventRequest_keeps (ht := h)
  | keepAlive => exact execKeepAlive_keeps (ht := h)
  | keepAliveTimeout => exact execKeepAliveTimeout_keeps (ht := h)
  | formatNvm => exact execFormatNvm_keeps (ht := h)
  | connect => exact execConnect_keeps (ht := h)
  | propertyGet => exact execPropertyGet_keeps (ht := h)
  | propertySet => exact execPropertySet_keeps (ht := h)
  | disconnect => exact execDisconnect_keeps (ht := h)
  | flush => exact execFlush_keeps (ht := h)
  | write => exact execWrite_keeps (ht := h)
  | read => exact execRead_keeps (ht := h)
  | writeUncorrectable => exact execWriteUncorrectable_keeps (ht := h)
  | compare => exact execCompare_keeps (ht := h)
  | compareAndWrite => exact execCompareAndWrite_keeps (ht := h)
  | writeZeroes => exact execWriteZeroes_keeps (ht := h)
  | datasetManagement => exact execDatasetManagement_keeps (ht := h)
  | verify => exact execVerify_keeps (ht := h)
  | privetLockGrant => exact execPrivetLockGrant_keeps (ht := h)
  | writeAdmission => exact execWriteAdmission_keeps (ht := h)
  | writeStagedWhole => exact execWriteStagedWhole_keeps (ht := h)
  | batchClose => exact execBatchClose_keeps (ht := h)
  | indexLookup => exact execIndexLookup_keeps (ht := h)
  | batchDone => exact execBatchDone_keeps (ht := h)
  | decompressDone => exact execDecompressDone_keeps (ht := h)
  | coldDedupMatch => exact execColdDedupMatch_keeps (ht := h)
  | segmentClose => exact execSegmentClose_keeps (ht := h)
  | journalGroupCommit => exact execJournalGroupCommit_keeps (ht := h)
  | compactionStart => exact execCompactionStart_keeps (ht := h)
  | compactionPagesProgrammed => exact execCompactionPagesProgrammed_keeps (ht := h)
  | scratchpadConvert => exact execScratchpadConvert_keeps (ht := h)
  | scratchpadReturn => exact execScratchpadReturn_keeps (ht := h)
  | vaultFlushDone => exact execVaultFlushDone_keeps (ht := h)
  | openSegmentCheck => exact execOpenSegmentCheck_keeps (ht := h)
  | memberFailed => exact execMemberFailed_keeps (ht := h)
  | rebuildSegment => exact execRebuildSegment_keeps (ht := h)
  | segmentRelease => exact execSegmentRelease_keeps (ht := h)
  | topiaryMove => exact execTopiaryMove_keeps (ht := h)
  | reshapeSwitchOver => exact execReshapeSwitchOver_keeps (ht := h)
  | kamardSignalDetect => exact execKamardSignalDetect_keeps (ht := h)
  | kamardAcquireDone => exact execKamardAcquireDone_keeps (ht := h)
  | kamardAcquireTimeout => exact execKamardAcquireTimeout_keeps (ht := h)
  | kamardHelloRetry => exact execKamardHelloRetry_keeps (ht := h)
  | kamardHelloReply port version limit serial fw => exact execKamardHelloReply_keeps port version limit serial fw s t h
  | kamardModuleInfoResponse => exact execKamardModuleInfoResponse_keeps (ht := h)
  | kamardClaimResponse => exact execKamardClaimResponse_keeps (ht := h)
  | kamardReadResponse => exact execKamardReadResponse_keeps (ht := h)
  | kamardProgramResponse => exact execKamardProgramResponse_keeps (ht := h)
  | kamardEraseResponse => exact execKamardEraseResponse_keeps (ht := h)
  | kamardThreshLoadResponse => exact execKamardThreshLoadResponse_keeps (ht := h)
  | kamardVaultProgramResponse => exact execKamardVaultProgramResponse_keeps (ht := h)
  | kamardVaultEraseResponse => exact execKamardVaultEraseResponse_keeps (ht := h)
  | kamardBridgeFwWriteResponse => exact execKamardBridgeFwWriteResponse_keeps (ht := h)
  | kamardBridgeFwActivateResponse => exact execKamardBridgeFwActivateResponse_keeps (ht := h)
  | bridgeRestartTimeout => exact execBridgeRestartTimeout_keeps (ht := h)
  | kamardAck => exact execKamardAck_keeps (ht := h)
  | kamardNak => exact execKamardNak_keeps (ht := h)
  | kamardFrameDropped => exact execKamardFrameDropped_keeps (ht := h)
  | kamardRetransmitTimeout => exact execKamardRetransmitTimeout_keeps (ht := h)
  | kamardKeepalive => exact execKamardKeepalive_keeps (ht := h)
  | kamardLinkLoss => exact execKamardLinkLoss_keeps (ht := h)
  | kamardRetrainDone => exact execKamardRetrainDone_keeps (ht := h)
  | kamardDownRetry => exact execKamardDownRetry_keeps (ht := h)
  | pageVerify => exact execPageVerify_keeps (ht := h)
  | ldpcDecodeDone => exact execLdpcDecodeDone_keeps (ht := h)
  | bandIdleClose => exact execBandIdleClose_keeps (ht := h)
  | moduleInfoPoll => exact execModuleInfoPoll_keeps (ht := h)
  | blockReclaim => exact execBlockReclaim_keeps (ht := h)
  | segmentCleaning => exact execSegmentCleaning_keeps (ht := h)
  | scrubPage => exact execScrubPage_keeps (ht := h)
  | netLinkDown => exact execNetLinkDown_keeps (ht := h)
  | netLinkUp => exact execNetLinkUp_keeps (ht := h)
  | arpRequest => exact execArpRequest_keeps (ht := h)
  | neighborSolicitation => exact execNeighborSolicitation_keeps (ht := h)
  | icmpEcho => exact execIcmpEcho_keeps (ht := h)
  | cmMad => exact execCmMad_keeps (ht := h)
  | roceSend => exact execRoceSend_keeps (ht := h)
  | roceSendWithImmediate => exact execRoceSendWithImmediate_keeps (ht := h)
  | roceSendWithInvalidate => exact execRoceSendWithInvalidate_keeps (ht := h)
  | roceRdmaWrite => exact execRoceRdmaWrite_keeps (ht := h)
  | roceRdmaReadRequest => exact execRoceRdmaReadRequest_keeps (ht := h)
  | roceReadResponse => exact execRoceReadResponse_keeps (ht := h)
  | roceAck => exact execRoceAck_keeps (ht := h)
  | roceNak => exact execRoceNak_keeps (ht := h)
  | roceCnp => exact execRoceCnp_keeps (ht := h)
  | rateIncreaseTick => exact execRateIncreaseTick_keeps (ht := h)
  | qpContextFetched => exact execQpContextFetched_keeps (ht := h)
  | qpRetransmitTimeout => exact execQpRetransmitTimeout_keeps (ht := h)
  | wrSend => exact execWrSend_keeps (ht := h)
  | wrWrite => exact execWrWrite_keeps (ht := h)
  | wrRead => exact execWrRead_keeps (ht := h)
  | wrSendWithInvalidate => exact execWrSendWithInvalidate_keeps (ht := h)
  | wrNop => exact execWrNop_keeps (ht := h)
  | receiveBufferPost => exact execReceiveBufferPost_keeps (ht := h)
  | datagramData => exact execDatagramData_keeps (ht := h)
  | datagramAck => exact execDatagramAck_keeps (ht := h)
  | datagramNak => exact execDatagramNak_keeps (ht := h)
  | datagramHello => exact execDatagramHello_keeps (ht := h)
  | datagramHelloReply => exact execDatagramHelloReply_keeps (ht := h)
  | datagramHelloRetry => exact execDatagramHelloRetry_keeps (ht := h)
  | datagramProbe => exact execDatagramProbe_keeps (ht := h)
  | datagramProbeReply => exact execDatagramProbeReply_keeps (ht := h)
  | datagramRetransmitTimeout => exact execDatagramRetransmitTimeout_keeps (ht := h)
  | datagramAckDue => exact execDatagramAckDue_keeps (ht := h)
  | pathProbeTimeout => exact execPathProbeTimeout_keeps (ht := h)
  | pathDownProbe => exact execPathDownProbe_keeps (ht := h)
  | reassemblyExpiry => exact execReassemblyExpiry_keeps (ht := h)
  | jalrasHello => exact execJalrasHello_keeps (ht := h)
  | jalrasHelloReply => exact execJalrasHelloReply_keeps (ht := h)
  | jalrasHeartbeat => exact execJalrasHeartbeat_keeps (ht := h)
  | jalrasHeartbeatSend => exact execJalrasHeartbeatSend_keeps (ht := h)
  | vaultNotice => exact execVaultNotice_keeps (ht := h)
  | serials => exact execSerials_keeps (ht := h)
  | ownership => exact execOwnership_keeps (ht := h)
  | resyncDone => exact execResyncDone_keeps (ht := h)
  | sifUpdate => exact execSifUpdate_keeps (ht := h)
  | sifAck => exact execSifAck_keeps (ht := h)
  | journalGroup => exact execJournalGroup_keeps (ht := h)
  | journalAck => exact execJournalAck_keeps (ht := h)
  | release => exact execRelease_keeps (ht := h)
  | mirrorData => exact execMirrorData_keeps (ht := h)
  | mirrorAck => exact execMirrorAck_keeps (ht := h)
  | forwardCmd => exact execForwardCmd_keeps (ht := h)
  | forwardRsp => exact execForwardRsp_keeps (ht := h)
  | proxyMedia => exact execProxyMedia_keeps (ht := h)
  | proxyRsp => exact execProxyRsp_keeps (ht := h)
  | jalrasRetransmitTimeout => exact execJalrasRetransmitTimeout_keeps (ht := h)
  | jalrasSublinkLoss => exact execJalrasSublinkLoss_keeps (ht := h)
  | peerPartitionTimeout => exact execPeerPartitionTimeout_keeps (ht := h)
  | joinRequest => exact execJoinRequest_keeps (ht := h)
  | joinAccept => exact execJoinAccept_keeps (ht := h)
  | viewUpdate => exact execViewUpdate_keeps (ht := h)
  | viewAck => exact execViewAck_keeps (ht := h)
  | clusterProbeTick => exact execClusterProbeTick_keeps (ht := h)
  | clusterProbe => exact execClusterProbe_keeps (ht := h)
  | clusterProbeAck => exact execClusterProbeAck_keeps (ht := h)
  | clusterProbeTimeout => exact execClusterProbeTimeout_keeps (ht := h)
  | probeIndirect => exact execProbeIndirect_keeps (ht := h)
  | suspect => exact execSuspect_keeps (ht := h)
  | suspectTimeout => exact execSuspectTimeout_keeps (ht := h)
  | leave => exact execLeave_keeps (ht := h)
  | trafficKeyPreviousExpiry => exact execTrafficKeyPreviousExpiry_keeps (ht := h)
  | replOpen => exact execReplOpen_keeps (ht := h)
  | replOpenAck => exact execReplOpenAck_keeps (ht := h)
  | replDelta => exact execReplDelta_keeps (ht := h)
  | replDeltaAck => exact execReplDeltaAck_keeps (ht := h)
  | replUnits => exact execReplUnits_keeps (ht := h)
  | replCommit => exact execReplCommit_keeps (ht := h)
  | replCommitAck => exact execReplCommitAck_keeps (ht := h)
  | repairRequest => exact execRepairRequest_keeps (ht := h)
  | repairData => exact execRepairData_keeps (ht := h)
  | replWrite => exact execReplWrite_keeps (ht := h)
  | replWriteAck => exact execReplWriteAck_keeps (ht := h)
  | xtsEncrypt => exact execXtsEncrypt_keeps (ht := h)
  | xtsDecrypt => exact execXtsDecrypt_keeps (ht := h)
  | xtsReencrypt => exact execXtsReencrypt_keeps (ht := h)
  | gcmOpen => exact execGcmOpen_keeps (ht := h)
  | gcmData => exact execGcmData_keeps (ht := h)
  | gcmClose => exact execGcmClose_keeps (ht := h)
  | rawEncrypt => exact execRawEncrypt_keeps (ht := h)
  | rawDecrypt => exact execRawDecrypt_keeps (ht := h)
  | keySlotFill => exact execKeySlotFill_keeps (ht := h)
  | dgsAlloc => exact execDgsAlloc_keeps (ht := h)
  | dgsCtxOpen => exact execDgsCtxOpen_keeps (ht := h)
  | dgsCtxClose => exact execDgsCtxClose_keeps (ht := h)
  | dgsCtxLengthWrite => exact execDgsCtxLengthWrite_keeps (ht := h)
  | dgsDataPortWrite => exact execDgsDataPortWrite_keeps (ht := h)
  | dgsCtxCmp => exact execDgsCtxCmp_keeps (ht := h)
  | dgsEcdsaVerify => exact execDgsEcdsaVerify_keeps (ht := h)
  | dgsEcdsaSign => exact execDgsEcdsaSign_keeps (ht := h)
  | ecdsaOperationDone => exact execEcdsaOperationDone_keeps (ht := h)
  | udmaOwnerRead => exact execUdmaOwnerRead_keeps (ht := h)
  | udmaOwnerRelease => exact execUdmaOwnerRelease_keeps (ht := h)
  | udmaStart => exact execUdmaStart_keeps (ht := h)
  | udmaEnableClear => exact execUdmaEnableClear_keeps (ht := h)
  | udmaCqHeadWrite => exact execUdmaCqHeadWrite_keeps (ht := h)
  | udmaTimerTick => exact execUdmaTimerTick_keeps (ht := h)
  | udmaRunComplete => exact execUdmaRunComplete_keeps (ht := h)
  | errorDetected => exact execErrorDetected_keeps (ht := h)
  | errorRepeatResult => exact execErrorRepeatResult_keeps (ht := h)
  | handlerTimeout => exact execHandlerTimeout_keeps (ht := h)
  | fencedUnitRetry => exact execFencedUnitRetry_keeps (ht := h)
  | unitSelfTestDone => exact execUnitSelfTestDone_keeps (ht := h)
  | govPeriodBoundary => exact execGovPeriodBoundary_keeps (ht := h)
  | evrRecordWritten => exact execEvrRecordWritten_keeps (ht := h)
  | evrClear => exact execEvrClear_keeps (ht := h)
  | evrClearDone => exact execEvrClearDone_keeps (ht := h)
  | evrWindowRead => exact execEvrWindowRead_keeps (ht := h)
  | perstDeassert => exact execPerstDeassert_keeps (ht := h)
  | resetHoldOffExpiry => exact execResetHoldOffExpiry_keeps (ht := h)
  | chainInStuck => exact execChainInStuck_keeps (ht := h)
  | kamardNakRepeat => exact execKamardNakRepeat_keeps (ht := h)
  | jalrasNak => exact execJalrasNak_keeps (ht := h)
  | jalrasAckDue => exact execJalrasAckDue_keeps (ht := h)
  | jalrasTrainingDone => exact execJalrasTrainingDone_keeps (ht := h)
  | jalrasRetrainDone => exact execJalrasRetrainDone_keeps (ht := h)
  | routerAdvertisement => exact execRouterAdvertisement_keeps (ht := h)
  | dhcpv4Message => exact execDhcpv4Message_keeps (ht := h)
  | dhcpv4LeaseTimer => exact execDhcpv4LeaseTimer_keeps (ht := h)
  | pfcFrame => exact execPfcFrame_keeps (ht := h)
  | clusterJoinTimeout => exact execClusterJoinTimeout_keeps (ht := h)
  | clusterLeaveTimeout => exact execClusterLeaveTimeout_keeps (ht := h)
  | viewChangeTimeout => exact execViewChangeTimeout_keeps (ht := h)
  | fwArmed => exact execFwArmed_keeps (ht := h)
  | interruptCoalescingTimeout => exact execInterruptCoalescingTimeout_keeps (ht := h)
  | pcieCompletionTimeout => exact execPcieCompletionTimeout_keeps (ht := h)
  | configurationRequest => exact execConfigurationRequest_keeps (ht := h)
  | atsInvalidationRequest => exact execAtsInvalidationRequest_keeps (ht := h)
  | pageRequestGroupResponse => exact execPageRequestGroupResponse_keeps (ht := h)
  | vddAonUp => exact execVddAonUp_keeps (ht := h)
  | vddAonDown => exact execVddAonDown_keeps (ht := h)

/-- No command's meaning changes the queue. -/
theorem exec_pending {c : Instr} {s t : State} (h : exec c s = .next t) : t.pending = s.pending := kept_pending (exec_keeps h)

/-! ## The obligations -/

/-- Settles O1: the state with the command in front of its queue is, with that command taken out, the state itself. -/
theorem stepTakesTheFront : Obligations.StepTakesTheFront := by
  unfold Obligations.StepTakesTheFront
  exact fun _ _ => step_front rfl

/-- Settles O2: a step reads nothing but the queue before it idles. -/
theorem emptyQueueIdles : Obligations.EmptyQueueIdles := by
  unfold Obligations.EmptyQueueIdles
  exact fun _ => step_empty

/-- Settles O3: the step takes the front command out, and by `exec_keeps` the command's meaning leaves the rest alone. -/
theorem stepConsumesOneCommand : Obligations.StepConsumesOneCommand := by
  unfold Obligations.StepConsumesOneCommand
  intro s t c rest hq hs
  rw [step_front hq] at hs
  exact exec_pending hs

end Sys2Proof.Machine
end

/-! PROOFS of O49 (R30, R162, R183, R244, R258, R264, R315, R335, R411, R415, R417): what each message of the peer does when it is handed over in its turn. -/
section
namespace Sys2Proof.Machine
open Sys2Proof

/-! ## The effect of a message under its conditions -/

theorem takeOwnership_unasked {pool : Fin 8} {gen : W32} {p : Pool} {s : State} (hp : Tbl.find s.pools pool = some p)
    (ho : p.owned = false) (hh : s.jal.hand = none) : takeOwnership pool true gen s = takePool pool gen s := by
  simp [takeOwnership, hp, ho, hh]

theorem takeSifAck_found {seq : Nat} {x : Sif} {s : State} (hx : s.sifAt seq = some x) :
    takeSifAck seq s = if x.state = .opened then sifOpened seq (s.modSif seq sifAcked) else s.modSif seq sifAcked := by
  simp [takeSifAck, hx]

/-- The answer of the other head ends a forwarded command, unless it is a Flush that is judged here or its data has no place to go. -/
theorem takeForwardRsp_completes {id sct sc : Nat} {err : Option (Nat × Nat)} {data : List Nat} {c : Inflight} {s : State}
    (hc : cmdAt s id = some c) (ha : c.away = true) (hf : ¬(c.op = .flush ∧ sct = 0 ∧ sc = 0)) (hl : listBad c s = false) :
    takeForwardRsp id sct sc err data s = completeCmd id ⟨sct, sc⟩ (match err with
      | some (location, lba) => errLog c.ctrl c ⟨sct, sc⟩ location lba (forwardedData id c data s)
      | none => forwardedData id c data s) := by
  have hflush : ¬(decide (c.op = .flush) && decide ((sct, sc) = (0, 0))) = true := by simpa using hf
  simp only [takeForwardRsp, hc]
  exact (if_neg (by simp [ha])).trans ((if_neg hflush).trans (if_neg (by simp [hl])))

theorem takeProxyMedia_up {module : Fin 96} {cmd : KCmd} {gen : W32} {s : State} (hk : (s.kport module).state = .up) :
    takeProxyMedia module cmd gen s = kamSend module (.proxy cmd gen) s := if_pos (by simp [hk])

/-! ## The delivery of a message -/

/-- A message that is the next of its class has its effect `u`, and what came early follows it (R409). -/
theorem onRun_onJal_delivers {rx : JalRx} {m : JalMsg} {c : Nat} {s u : State} (hm : jalClass m = c) (hs : fromPeer rx c s)
    (hu : jalDeliver m (jalNow rx c s) = u) : onRun s (onJal rx m) = .next (jalThen c u) := by
  subst hm hu
  exact (onRun_eq hs.1).trans (congrArg _ (onJal_runs hs))

/-! ## The obligation -/

/-- Settles O49: each message is delivered in its turn, and its conditions name the branch of its effect. -/
theorem peerMessagesComplete : Obligations.PeerMessagesComplete := by
  unfold Obligations.PeerMessagesComplete
  refine ⟨?serials, ?ownership, ?resyncDone, ?sifUpdate, ?sifAck, ?journalGroup, ?journalAck, ?release, ?mirrorData, ?mirrorAck,
    ?forwardCmd, ?forwardAbort, ?forwardRsp, ?proxyMedia, ?proxyRsp⟩
  case serials => exact fun _ _ _ hs => onRun_onJal_delivers rfl hs rfl
  case ownership => exact fun _ _ _ _ _ hs hp ho hh => onRun_onJal_delivers rfl hs (takeOwnership_unasked hp ho hh)
  case resyncDone => exact fun _ _ _ hs he => onRun_onJal_delivers rfl hs (if_pos he)
  case sifUpdate => exact fun _ _ _ _ hs => onRun_onJal_delivers rfl hs rfl
  case sifAck => exact fun _ _ _ _ hs hx => onRun_onJal_delivers rfl hs (takeSifAck_found hx)
  case journalGroup =>
    intro rx gseq g cfg s hs hc
    refine onRun_onJal_delivers rfl hs ?_
    rw [jalDeliver, takeJournalGroup, hc]
  case journalAck => exact fun _ _ _ hs => onRun_onJal_delivers rfl hs rfl
  case release => exact fun _ _ _ hs => onRun_onJal_delivers rfl hs rfl
  case mirrorData => exact fun _ _ _ hs => onRun_onJal_delivers rfl hs rfl
  case mirrorAck => exact fun _ _ _ hs => onRun_onJal_delivers rfl hs rfl
  case forwardCmd => exact fun _ _ _ _ _ hs => onRun_onJal_delivers rfl hs rfl
  case forwardAbort => exact fun _ _ _ _ hs => onRun_onJal_delivers rfl hs rfl
  case forwardRsp =>
    intro rx id sct sc err data c s hs hc ha hf hl
    exact onRun_onJal_delivers rfl hs (takeForwardRsp_completes hc ha hf hl)
  case proxyMedia => exact fun _ _ _ _ _ hs hk => onRun_onJal_delivers rfl hs (takeProxyMedia_up hk)
  case proxyRsp => exact fun _ _ _ _ _ _ _ _ _ _ _ hs => onRun_onJal_delivers rfl hs rfl

end Sys2Proof.Machine
end

/-! PROOFS of O53 (R71; log entry 62): which commands may change the test access port and the boundary cells. -/
section
namespace Sys2Proof.Machine
open Sys2Proof

/-- Settles O53: a command other than the listed ones touches parts of the state (`touches`) among which the test access port is not, and leaves the other parts as they were (`exec_keeps`). -/
theorem jtagStateChangesOnlyBy : Obligations.JtagStateChangesOnlyBy := by
  unfold Obligations.JtagStateChangesOnlyBy
  intro c s t h
  cases c with
  | resetNAssert | inputLatchRelease | vddAonDown | chipResetExit => trivial
  | jtagBypass | jtagSamplePreload | jtagExtest | jtagIdcode | jtagClamp | jtagHighz | jtagExtestPulse | jtagExtestTrain => trivial
  | _ =>
    have hk := exec_keeps h
    dsimp only [touches] at hk
    exact kept_jtag hk rfl

end Sys2Proof.Machine
end

/-! PROOFS of O12 (R44 to R51, R54, R57, R59, R111, R112, R183, R411): what an accepted edge of a discrete input does, and the ends of a flush and of a latch. -/
section
namespace Sys2Proof.Machine
open Sys2Proof

/-! ## PWRGOOD and RESET_N -/

section
variable {at_ : Nat} {s : State} (hp : s.phase ≠ .unpowered)
include hp

theorem execPwrgoodAssert_powers (hf : s.cond.pwrgood.latched = false) (hl : s.cond.pwrgood.level = false)
    (hx : (noteEdges 4 10000000 1 at_ s.cond.pwrgood).2 = false) :
    execPwrgoodAssert at_ s = .next (powerGood { s with cond := { s.cond with
      pwrgood := { (noteEdges 4 10000000 1 at_ s.cond.pwrgood).1 with level := true } } }) := by
  rw [execPwrgoodAssert, onAon_eq hp]
  exact congrArg _ ((if_neg (Bool.eq_false_iff.mp hf)).trans ((if_neg (Bool.eq_false_iff.mp hl)).trans (if_neg (Bool.eq_false_iff.mp hx))))

theorem execPwrgoodDeassert_resets (hf : s.cond.pwrgood.latched = false) (hl : s.cond.pwrgood.level = true) :
    execPwrgoodDeassert at_ s = .next (powerBad { s with cond := { s.cond with pwrgood :=
      { (noteEdges 4 10000000 1 at_ s.cond.pwrgood).1 with latched := (noteEdges 4 10000000 1 at_ s.cond.pwrgood).2 } } }) := by
  rw [execPwrgoodDeassert, onAon_eq hp]
  exact congrArg _ ((if_neg (Bool.eq_false_iff.mp hf)).trans (if_neg (by simp [hl])))

theorem execResetNAssert_takes (hx : (resetEdge true at_ s).2 = true) :
    execResetNAssert at_ s = .next (resetTakes (resetEdge true at_ s).1) := by
  rw [execResetNAssert, onAon_eq hp]
  exact congrArg _ (if_pos hx)

theorem execInputLatchRelease_pwrgood (hf : s.cond.pwrgood.latched = true) :
    execInputLatchRelease .pwrgood s = .next (powerGood { s with cond := { s.cond with
      pwrgood := { s.cond.pwrgood with latched := false, level := true, edges := [] } } }) := by
  rw [execInputLatchRelease, onAon_eq hp]
  exact congrArg _ (if_pos hf)

end

theorem execResetHoldOffExpiry_held {e : Nat} {s : State} (hp : s.phase = .flushing) (he : s.flush.firstAt = some e)
    (hr : s.flush.resetHeld = true) : execResetHoldOffExpiry s = .next (chipReset (reachTime (e + 450000000) s)) := by
  rw [execResetHoldOffExpiry, onLive_eq (.inr hp)]
  simp only [he]
  rw [if_pos (by simp [hp, hr])]

/-! ## PWRFAIL_N and the vault flush -/

/-- The first assertion of PWRFAIL_N since the input was last free, within its rate limit, starts the flush (R51). -/
theorem execPwrfailNAssert_first {at_ : Nat} {s : State} (hp : s.phase ≠ .unpowered) (hl : s.cond.pwrfail.level = false)
    (hf : s.cond.pwrfail.latched = false) (hs : spRuns s = true) (hx : (noteEdges 4 10000000 1 at_ s.cond.pwrfail).2 = false) :
    execPwrfailNAssert true at_ s = .next (pwrfailFirst (countIgnored s.cond.pwrfail 1 { s with cond := { s.cond with pwrfail :=
      { (noteEdges 4 10000000 1 at_ s.cond.pwrfail).1 with level := true, chatter := s.cond.pwrfail.chatter || false } } })) := by
  rw [execPwrfailNAssert, onAon_eq hp]
  refine congrArg _ ((if_neg (by simp [hl])).trans ((if_pos (by simp [hf, hs])).trans ?_))
  simp [hx]

theorem execPwrfailStuck_alarms {s : State} (hp : s.phase ≠ .unpowered) (hl : s.cond.pwrfail.level = true) (hs : spRuns s = true) :
    execPwrfailStuck s = .next (raiseAlarm 0x02 { s with cond := { s.cond with pwrfail := { s.cond.pwrfail with stuck := true } } }) := by
  rw [execPwrfailStuck, onAon_eq hp, if_pos (by simp [hl, hs])]

theorem execVaultFlushDone_ends {r : VaultRun} {s : State} (hp : s.phase = .flushing) (hr : s.carafe.run = some r)
    (ho : r.outstanding = 0) : execVaultFlushDone s = .next (flushEnd (vaultSeal s)) := by
  rw [execVaultFlushDone, onLive_eq (.inr hp), if_pos hp]
  simp only [hr]
  rw [if_pos ho]

/-! ## PERST -/

section
variable {p : Port} {at_ : Nat} {s : State} (hp : s.phase ≠ .unpowered)
include hp

theorem execPerstAssert_resets (hl : (perstCond s p).level = false) (hr : ((perstEdge p true at_ s).port p).inReset = false) :
    execPerstAssert p at_ s = .next (perstReset p (perstEdge p true at_ s)) := by
  rw [execPerstAssert, onAon_eq hp]
  exact congrArg _ ((if_neg (Bool.eq_false_iff.mp hl)).trans (if_neg (Bool.eq_false_iff.mp hr)))

theorem execPerstDeassert_releases (hl : (perstCond s p).level = true)
    (hf : (perstCond (alarmDown (5 + portNum p) (perstEdge p false at_ s)) p).latched = false) :
    execPerstDeassert p at_ s = .next (perstRelease p (alarmDown (5 + portNum p) (perstEdge p false at_ s))) := by
  rw [execPerstDeassert, onAon_eq hp]
  exact congrArg _ ((if_neg (by simp [hl])).trans (if_neg (Bool.eq_false_iff.mp hf)))

theorem execPerstStuck_alarms (hl : (perstCond s p).level = true) :
    execPerstStuck p s = .next (alarmUp (5 + portNum p) (setPerst p { perstCond s p with stuck := true } s)) := by
  rw [execPerstStuck, onAon_eq hp]
  exact congrArg _ (if_pos hl)

end

/-! ## PEER_ALIVE -/

/-- A peer that shows itself within the rate limit changes the conditioned level and nothing but the count of ignored edges besides (R57, R59). -/
theorem execPeerAliveChange_alive {at_ : Nat} {s : State} (hp : s.phase ≠ .unpowered) (hl : s.cond.peerAlive.level = false)
    (hx : (noteEdges 4 100000000 1 at_ s.cond.peerAlive).2 = false) :
    execPeerAliveChange true at_ s = .next (countIgnored s.cond.peerAlive 1 { s with cond := { s.cond with peerAlive :=
      { (noteEdges 4 100000000 1 at_ s.cond.peerAlive).1 with
        level := true, chatter := s.cond.peerAlive.chatter, latched := s.cond.peerAlive.latched } } }) := by
  have hh : (noteEdges 4 100000000 1 at_ s.cond.peerAlive).1.held = s.cond.peerAlive.held := rfl
  rw [execPeerAliveChange, onAon_eq hp]
  refine congrArg _ ((if_neg (by simp [hl])).trans ((if_neg (by simp)).trans ?_))
  simp [hx, hh]

theorem execPeerAliveTimeout_takesOver {s : State} (hp : s.phase = .run) (hb : s.boot.stage = .ready) (ha : s.peerState = .alone)
    (hl : peerSubs s = []) (hf : foreignPools s ≠ []) (hg : peerGone s = true) : execPeerAliveTimeout s = .next (takeover s) := by
  rw [execPeerAliveTimeout, onRun_eq hp, if_pos (by simp [hb, ha, hl, hf, hg])]

/-! ## The obligation -/

/-- Settles O12: an edge whose hypotheses exclude the latch and the rate limit takes the one branch in which it acts. -/
theorem pinCommandsComplete : Obligations.PinCommandsComplete := by
  unfold Obligations.PinCommandsComplete
  refine ⟨?powerGood, ?powerBad, ?reset, ?holdOff, ?pwrfail, ?pwrfailStable, ?pwrfailStuck, ?flushDone, ?perst, ?perstOff, ?perstStuck,
    ?peerAlive, ?peerTimeout, ?latch⟩
  case powerGood => exact fun _ _ hp hf hl hx => execPwrgoodAssert_powers hp hf hl hx
  case powerBad => exact fun _ _ hp hf hl => execPwrgoodDeassert_resets hp hf hl
  case reset => exact fun _ _ hp hx => execResetNAssert_takes hp hx
  case holdOff => exact fun _ _ hp he hr => execResetHoldOffExpiry_held hp he hr
  case pwrfail => exact fun _ _ hp hl hf hs hx => execPwrfailNAssert_first hp hl hf hs hx
  case pwrfailStable => exact fun _ hp => onAon_eq hp
  case pwrfailStuck => exact fun _ hp hl hs => execPwrfailStuck_alarms hp hl hs
  case flushDone => exact fun _ _ hp hr ho => execVaultFlushDone_ends hp hr ho
  case perst => exact fun _ _ _ hp hl hr => execPerstAssert_resets hp hl hr
  case perstOff => exact fun _ _ _ hp hl hf => execPerstDeassert_releases hp hl hf
  case perstStuck => exact fun _ _ hp hl => execPerstStuck_alarms hp hl
  case peerAlive => exact fun _ _ hp hl hx => execPeerAliveChange_alive hp hl hx
  case peerTimeout => exact fun _ hp hb ha hl hf hg => execPeerAliveTimeout_takesOver hp hb ha hl hf hg
  case latch => exact fun _ hp hf => execInputLatchRelease_pwrgood hp hf

end Sys2Proof.Machine
end

/-! PROOFS of O14 (R24, R45, R58, R72 to R84, R215, R249, R261 to R276): the steps of the boot from reset exit to READY. -/
section
namespace Sys2Proof.Machine
open Sys2Proof

/-! ## Reset exit and straps -/

theorem execChipResetExit_boots {obs : BootObs} {at_ : Nat} {s : State} (hp : s.phase = .reset) (hg : s.cond.pwrgood.level = true)
    (hr : s.cond.resetN.level = false) : execChipResetExit obs at_ s = .next (bootStart obs s) := by
  rw [execChipResetExit, onAon_eq (by simp [hp])]
  simp [hp, hg, hr]

theorem execBoardIdSample_steady {straps : BitVec 4} {s : State} (hp : s.phase = .run) (hb : s.boot.boardSampled = false) :
    execBoardIdSample straps true s = .next { s with boot := { s.boot with boardId := straps, boardSampled := true } } := by
  rw [execBoardIdSample, onRun_eq hp, if_neg (Bool.eq_false_iff.mp hb)]
  rfl

/-! ## The bridge image (R72 step 13, R81, R84) -/

section
variable {o : ImageObs} {s : State} (hp : s.phase = .run) (hs : s.boot.stream = some .bridge) (hh : hdrAbsent o.header = false)
include hp hs hh

theorem execImageVerifyDone_bridge_refused {f : Byte} (hf : imageFail .bridge o (showPair o (endStream s)) = some f) :
    execImageVerifyDone .bridge o s = .next (bootFails f (showPair o (endStream s))) := by
  rw [execImageVerifyDone, onRun_eq hp, if_neg (not_not.mpr hs)]
  refine congrArg _ ((if_neg (Bool.eq_false_iff.mp hh)).trans ?_)
  simp only [hf]

theorem execImageVerifyDone_bridge_accepted (hf : imageFail .bridge o (showPair o (endStream s)) = none) :
    execImageVerifyDone .bridge o s = .next (noteImage .bridge o (loadImage .bridge o { showPair o (endStream s) with
      boot := { (showPair o (endStream s)).boot with bridge := some (imageInfo o) } })) := by
  rw [execImageVerifyDone, onRun_eq hp, if_neg (not_not.mpr hs)]
  refine congrArg _ ((if_neg (Bool.eq_false_iff.mp hh)).trans ?_)
  simp only [hf]

end

/-! ## Memories and firmware (R24, R72 steps 11, 12 and 14) -/

/-- Stacks that are on need not be fenced to count as trained; the first training lets the control-core image stream (R72 steps 11 and 13). -/
theorem execHbmTrainingDone_streams {s : State} (hp : s.phase = .run) (hs : s.boot.sp.isSome = true)
    (hon : (List.range 4).all (fun i => hasBit s.power.on (13 + i)) = true) (ht : s.boot.hbmTrained = false) (hc : s.boot.cc = none)
    (hd : s.boot.src ≠ .download) (hr : s.boot.stage ≠ .recovery) : execHbmTrainingDone s =
      .next (openStream .controlCore (memoriesDone (setStage .training { s with boot := { s.boot with hbmTrained := true } }))) := by
  have hall : (List.range 4).all (fun i => hasBit s.power.on (13 + i) || hasBit s.power.fenced (13 + i)) = true :=
    List.all_eq_true.mpr fun i hi => Bool.or_eq_true_iff.mpr (.inl (List.all_eq_true.mp hon i hi))
  rw [execHbmTrainingDone, onRun_eq hp, if_pos (by rw [hs, hall]; rfl)]
  exact congrArg _ (if_neg (by simp [ht, hc, hd, hr]))

theorem execDdrTrainingDone_accepts {dimms : List Dimm} {ok : Bool} {s : State} (hp : s.phase = .run) (hs : s.boot.sp.isSome = true)
    (ht : s.boot.ddrTrained = false) (hh : s.boot.held = false) (h17 : hasBit s.power.on 17 = true) (h18 : hasBit s.power.on 18 = true)
    (hd : ddrRefused dimms ok = none) : execDdrTrainingDone dimms ok s =
      .next (memoriesDone { s with boot := { s.boot with ddrTrained := true, ddrBytes := dimmTotal dimms * 2 ^ 30 } }) := by
  have hn : s.boot.sp.isNone = false := by simpa using hs
  rw [execDdrTrainingDone, onRun_eq hp, if_neg (by simp [hn, ht, hh, h17, h18])]
  simp only [hd]

/-- The firmware of cluster 0 runs, and the Carafe, the hash table and the map cache are laid out (R72 step 14, R215, R241, R249). -/
def firmwareRuns (s : State) : State :=
  { s with
    boot := { s.boot with started := true, served := true }
    grinder := { s.grinder with bucketBits := if s.boot.ddrBytes < 2 ^ 40 then 29 else 30 }
    carafe := { s.carafe with areas := carafeAreas }
    mapCache := { s.mapCache with regions := regionsFor s.boot.ddrBytes } }

theorem execControlCoreStart_starts {s : State} (hp : s.phase = .run) (hc : s.boot.cc.isSome = true) (hb : s.boot.hbmTrained = true)
    (hd : s.boot.ddrTrained = true) (hh : s.boot.held = false) (hs : s.boot.started = false) (hr : s.boot.stage ≠ .recovery) :
    execControlCoreStart s = .next (switchOnAll ([5, 6, 7, 8, 9, 10, 11, 12, 19, 20, 21, 22, 23, 24, 25, 26, 27]
      ++ (List.range 34).map (30 + ·)) (unsealKtwk (setStage .units (firmwareRuns s)))) := by
  rw [execControlCoreStart, onRun_eq hp, if_pos (by simp [hc, hb, hd, hh, hs, hr])]
  rfl

/-! ## Vault replay (R273 to R276) -/

/-- The restored vault, or its loss, is noted as read, and what follows leaves the boot's record alone. -/
theorem execVaultReplay_reads {anchor : AnchorRead} {bad : BitVec 5} {unread : List (Nat × Nat)} {found : VaultFound} {img : VaultImage}
    {s : State} (hp : s.phase = .run) (hi : s.carafe.image = some img) (hb : s.boot.started = true) (hr : s.boot.vaultRead = false)
    (hg : s.boot.stage = .units) (hs : portsSettling s = false) :
    ∃ t, execVaultReplay anchor bad unread found s = .next t ∧ t.boot.vaultRead = true := by
  rw [execVaultReplay, onRun_eq hp]
  simp only [hi]
  rw [if_neg (by simp [hb, hr, hg, hs])]
  refine ⟨_, rfl, ?_⟩
  rw [kept_boot (kept_foldl 0 _ (fun u n => eraseUnused_keeps n u) _ _) rfl]
  split
  · rw [kept_boot (vaultLost_keeps (msk := 0) _ _ _) rfl]
    split
    · rfl
    · rw [kept_boot (event_keeps (msk := 0) _ _ _ _) rfl]
  · split
    · rfl
    · rw [kept_boot (event_keeps (msk := 0) _ _ _ _) rfl]

/-! ## Journal replay and READY (R72 step 17, R261) -/

theorem setStage_boot_of_lt {st : Stage} {s : State} (h : stageNum s.boot.stage < stageNum st) :
    (setStage st s).boot = { s.boot with stage := st } := by
  rw [setStage, if_pos h, kept_boot (raiseBoth_keeps (msk := 0) _ _) rfl]

theorem setStage_stage_lt {st u : Stage} {s : State} (h : stageNum s.boot.stage < stageNum u) (hst : stageNum st < stageNum u) :
    stageNum (setStage st s).boot.stage < stageNum u := by
  by_cases hlt : stageNum s.boot.stage < stageNum st
  · rwa [setStage_boot_of_lt hlt]
  · rwa [setStage, if_neg hlt]

/-- The chip that becomes READY sets its stage first; its event, its trial and its peer leave the boot's record alone (R72, R508, R522). -/
theorem bootReady_boot (s : State) : (bootReady s).boot = (setStage .ready s).boot := by
  refine kept_boot (m := butFw) ?_ rfl
  unfold bootReady
  extract_lets us s1 s2 s2' f3 s3 f4 s4
  have h2 : kept butFw s2' = kept butFw s1 := by simp [s2', s2]
  have h3 : kept butFw s3 = kept butFw s2' := by
    simp only [s3]
    split <;> simp [f3]
  have h4 : kept butFw s4 = kept butFw s3 := by
    simp only [s4]
    split <;> simp [f4]
  calc kept butFw (anaAtReady (peerAtReady s4)) = kept butFw s4 := by simp
    _ = kept butFw s1 := h4.trans (h3.trans h2)

theorem bootReady_stage {s : State} (h : stageNum s.boot.stage < stageNum .ready) : (bootReady s).boot.stage = .ready := by
  rw [bootReady_boot, setStage_boot_of_lt h]

/-- What the replay of the journals does between its stage and READY leaves the boot's record alone. -/
theorem execJournalReplay_boots {supers : List SuperCopy} {unpowered : List (Nat × Nat × Nat)} {s : State} (hp : s.phase = .run)
    (hb : s.boot.started = true) (hg : stageNum s.boot.stage < stageNum .ready) (hs : portsSettling s = false)
    (hi : s.carafe.image = none) :
    ∃ u, execJournalReplay supers unpowered s = .next (bootReady u) ∧ u.boot = (setStage .journalReplay s).boot := by
  rw [execJournalReplay, onRun_eq hp, if_neg (by simp [hb, hg, hs, hi])]
  refine ⟨_, rfl, kept_boot (m := butNetNsReplsClusterCipher) ?_ rfl⟩
  simp

/-! ## The obligation -/

/-- Settles O14: each step of the boot takes the branch that its conditions name; the two replays are followed through the boot's record alone. -/
theorem bootCommandsComplete : Obligations.BootCommandsComplete := by
  unfold Obligations.BootCommandsComplete
  refine ⟨?resetExit, ?straps, ?bridge, ?hbm, ?ddr, ?start, ?vault, ?journal⟩
  case resetExit => exact fun _ _ _ hp hg hr => execChipResetExit_boots hp hg hr
  case straps => exact fun _ _ hp hb => execBoardIdSample_steady hp hb
  case bridge =>
    rintro o s u hp hs hh rfl
    cases hf : imageFail .bridge o (showPair o (endStream s)) with
    | none => exact execImageVerifyDone_bridge_accepted hp hs hh hf
    | some f => exact execImageVerifyDone_bridge_refused hp hs hh hf
  case hbm => exact fun _ hp hs hon ht hc hd hr => execHbmTrainingDone_streams hp hs hon ht hc hd hr
  case ddr => exact fun _ _ _ hp hs ht hh h17 h18 hd => execDdrTrainingDone_accepts hp hs ht hh h17 h18 hd
  case start => exact fun _ hp hc hb hd hh hs hr => execControlCoreStart_starts hp hc hb hd hh hs hr
  case vault => exact fun _ _ _ _ _ _ hp hi hb hr hg hs => execVaultReplay_reads hp hi hb hr hg hs
  case journal =>
    intro supers unpowered s hp hb hg hs hi
    obtain ⟨u, he, hu⟩ := execJournalReplay_boots hp hb hg hs hi
    exact ⟨_, he, bootReady_stage (hu ▸ setStage_stage_lt hg (by decide))⟩

end Sys2Proof.Machine
end

/-! PROOFS of O16 (R71; log entries 1, 62 and 208): the instructions of the test access port. -/
section
namespace Sys2Proof.Machine
open Sys2Proof

/-- What SAMPLE captures is drawn, which leaves the test access port alone (log entry 208). -/
theorem execJtagSamplePreload_powered {cells : List Bool} {s : State} (hp : s.phase ≠ .unpowered) :
    execJtagSamplePreload cells s = .next (emit (.jtagSampled (lowBits (draw s).1 cells.length)) (jtagRun .samplePreload
      { (draw s).2 with jtag := { s.jtag with cells := cells, sampled := lowBits (draw s).1 cells.length } })) := by
  rw [execJtagSamplePreload, onAon_eq hp]
  rfl

theorem execJtagIdcode_powered {s : State} (hp : s.phase ≠ .unpowered) :
    execJtagIdcode s = .next (emit (.jtagId (BitVec.ofNat 32 (s.fuses.stepping.toNat * 2 ^ 28 + 0x9600 * 2 ^ 12
      + Config.jtagManufacturer.toNat * 2 + 1))) (jtagRun .idcode s)) := by
  rw [execJtagIdcode, onAon_eq hp]

/-- Settles O16: each instruction is its meaning of the always-on domain, which runs while VDD_AON is there. -/
theorem jtagCommandsComplete : Obligations.JtagCommandsComplete := by
  unfold Obligations.JtagCommandsComplete
  refine ⟨?bypass, ?sample, ?extest, ?idcode, ?clamp, ?highz, ?pulse, ?train⟩
  case bypass => exact fun _ hp => onAon_eq hp
  case sample => exact fun _ _ hp => execJtagSamplePreload_powered hp
  case extest => exact fun _ hp => onAon_eq hp
  case idcode => exact fun _ hp => execJtagIdcode_powered hp
  case clamp => exact fun _ hp => onAon_eq hp
  case highz => exact fun _ hp => onAon_eq hp
  case pulse => exact fun _ hp => onAon_eq hp
  case train => exact fun _ hp => onAon_eq hp

end Sys2Proof.Machine
end

/-! PROOFS of O19 (R47, R68, R72, R73, R109 to R112): resets, link, configuration space and address translation of a host port. -/
section
namespace Sys2Proof.Machine
open Sys2Proof

section
variable {p : Port} {s : State} (hp : s.phase = .run)
include hp

theorem execHotReset_linkUp (hl : (s.port p).linkUp = true) : execHotReset p s = .next (endpointReset p s) := by
  rw [execHotReset, onRun_eq hp, if_pos hl]

theorem execFunctionLevelReset_linkUp (hl : (s.port p).linkUp = true) : execFunctionLevelReset p s = .next (endpointReset p s) := by
  rw [execFunctionLevelReset, onRun_eq hp, if_pos hl]

theorem execDataLinkDown_linkUp (hl : (s.port p).linkUp = true) : execDataLinkDown p s = .next (portDown p s) := by
  rw [execDataLinkDown, onRun_eq hp, if_pos hl]

theorem execHostLinkUp_trains {speed : BitVec 4} {width : BitVec 5} (hon : hasBit s.power.on (hostDomain p) = true)
    (hr : (s.port p).inReset = false) : execHostLinkUp p speed width s =
      .next (judgeLink p ((hostSpare p s).modPort p fun r => { r with linkUp := true, speed := speed, width := width })) := by
  rw [execHostLinkUp, onRun_eq hp, if_neg (by simp [hon, hr])]

theorem execConfigurationRequest_serves {q : CfgReq} (hl : (s.port p).linkUp = true) (hr : (s.port p).inReset = false)
    (hc : canServe s = true) : execConfigurationRequest p false q false s = .next (cfgServe p false q s) := by
  rw [execConfigurationRequest, onRun_eq hp, if_neg (by simp [hl, hr]), if_neg (by simp [hc]), if_neg Bool.false_ne_true]

/-- An invalidation drops the translations from its first page on that its count and its PASID bound (R110). -/
theorem execAtsInvalidationRequest_linkUp {upper : Bool} {pasid : BitVec 20} {page : BitVec 52} {count : Nat} {itag : BitVec 5}
    (hl : (s.port p).linkUp = true) : execAtsInvalidationRequest p upper pasid page count itag s =
      .next (emit (.atsDone p itag.toNat) (s.modPort p fun r => { r with ats := Tbl.keep r.ats (fun k _ =>
        decide (k < atsKey upper pasid.toNat page.toNat)
          || decide (min (atsKey upper pasid.toNat page.toNat + count) (atsKey upper (pasid.toNat + 1) 0) ≤ k)) })) := by
  rw [execAtsInvalidationRequest, onRun_eq hp, if_neg (by simp [hl])]

/-- A granted response ends its request and translates the page again, and its command waits for it no more (R110, R187). -/
theorem execPageRequestGroupResponse_granted {group : BitVec 9} {pasid page id : Nat}
    (hq : Tbl.find (s.port p).pageReqs group.toNat = some (pasid, page, id)) (hl : (s.port p).linkUp = true) :
    execPageRequestGroupResponse p group true s = .next ((translate p (cmdUpper id s) pasid [page]
      (emit (.pageDone p group.toNat true) (s.modPort p fun r => { r with pageReqs := Tbl.del r.pageReqs group.toNat }))).modCmd id
        fun c => { c with waits := c.waits.filter (· ≠ group.toNat) }) := by
  rw [execPageRequestGroupResponse, onRun_eq hp]
  simp only [hq]
  rw [if_neg (by simp [hl]), if_true]

end

/-! ## The obligation -/

/-- Settles O19: on a port whose link is up each row takes the branch that acts. -/
theorem hostPortCommandsComplete : Obligations.HostPortCommandsComplete := by
  unfold Obligations.HostPortCommandsComplete
  refine ⟨?hotReset, ?functionReset, ?linkDown, ?linkUp, ?config, ?invalidate, ?pages⟩
  case hotReset => exact fun _ _ hp hl => execHotReset_linkUp hp hl
  case functionReset => exact fun _ _ hp hl => execFunctionLevelReset_linkUp hp hl
  case linkDown => exact fun _ _ hp hl => execDataLinkDown_linkUp hp hl
  case linkUp => exact fun _ _ _ _ hp hon hr => execHostLinkUp_trains hp hon hr
  case config => exact fun _ _ _ hp hl hr hc => execConfigurationRequest_serves hp hl hr hc
  case invalidate => exact fun _ _ _ _ _ _ _ hp hl => execAtsInvalidationRequest_linkUp hp hl
  case pages =>
    rintro p group pasid page id s u hp hq hl rfl
    exact execPageRequestGroupResponse_granted hp hq hl

end Sys2Proof.Machine
end

/-! PROOFS of O21 (R51, R96 to R100; log entries 46 and 210): the answers to the messages of the sideband port. -/
section
namespace Sys2Proof.Machine
open Sys2Proof

/-! ## A message that is the row's -/

theorem onMsg_mine {m : SideMsg} {want data : List Byte} {s : State} {f : State → State} (hs : spRuns s = true)
    (hm : sideMine m want data s = true) : onMsg m want data s f = .next (f s) := by
  rw [onMsg, onSide_eq hs, if_pos hm]

/-- An identifier that may be assigned is taken and reported as accepted (R97). -/
theorem execMctpSetEndpointId_sets {m : SideMsg} {op : BitVec 2} {eid : Byte} {s : State} (hs : spRuns s = true)
    (hm : sideMine m [0, 1] [op.setWidth 8, eid] s = true) (ho : op.toNat < 2) (h0 : eid ≠ 0) (hF : eid ≠ 0xFF) :
    execMctpSetEndpointId m op eid s = .next (sideSend m ([0, 0] ++ [eid] ++ [0]) { s with side := { s.side with eid := eid } }) := by
  rw [execMctpSetEndpointId, onMsg_mine hs hm, if_neg (not_or.mpr ⟨not_le.mpr ho, not_or.mpr ⟨h0, hF⟩⟩)]
  rfl

section
variable {m : SideMsg} {s : State} (hs : spRuns s = true)
include hs

theorem execMctpGetVersionSupport_base (hm : sideMine m [0, 4] [0] s = true) :
    execMctpGetVersionSupport m 0 s = .next (sideSend m [0, 1, 0xF1, 0xF3, 0xF0, 0] s) := by
  rw [execMctpGetVersionSupport, onMsg_mine hs hm, if_pos (.inr rfl)]

theorem execPldmGetPldmVersion_monitoring (hm : sideMine m [1, 0, 3] [2] s = true) :
    execPldmGetPldmVersion m 2 s = .next (sideSend m (pldmVersion [0xF1, 0xF2, 0xF0, 0]) s) := by
  rw [execPldmGetPldmVersion, onMsg_mine hs hm, if_neg (by decide), if_pos rfl]

theorem execPldmGetPldmCommands_monitoring (hm : sideMine m [1, 0, 5] [2] s = true) :
    execPldmGetPldmCommands m 2 s = .next (sideSend m ([0, 0, 0x08, 0x02] ++ zeros 29) s) := by
  rw [execPldmGetPldmCommands, onMsg_mine hs hm, if_neg (by decide), if_pos rfl]

theorem execPldmSensorRead_mine {x : Sensor} (hm : sideMine m [1, 2, 0x11] [] s = true) :
    execPldmSensorRead m x s = .next (sideSend m ([0, (sensorReading x (draw s).2).1, 0] ++ le32 (draw s).1
      ++ (sensorReading x (draw s).2).2.1) (sensorReading x (draw s).2).2.2) := by
  rw [execPldmSensorRead, onMsg_mine hs hm]

theorem execMolzonBootStatusRequest_listed (hm : sideMine m [0x7E, 0x1F, 0x6D] [3] s = true) :
    execMolzonBootStatusRequest m 3 s =
      .next (sideSend m (molzonHead 3 0 ++ le32 (bootStatus s).toNat ++ le32 (nodeIdReg s).toNat) s) := by
  rw [execMolzonBootStatusRequest, onMsg_mine hs hm, if_pos rfl]

end

theorem execSmbusArp_assigned {m : SideMsg} {addr : BitVec 7} {s : State} (hs : spRuns s = true)
    (hm : arpMine m (.assign (smbusUdid s) addr) = true) : execSmbusArp m (.assign (smbusUdid s) addr) s =
      .next { s with side := { s.side with arpAddr := some addr, arpResolved := true } } := by
  rw [execSmbusArp, onSide_eq hs, if_neg (by simp [hm])]
  exact congrArg _ (if_pos rfl)

/-! ## Notices and reports (R96, R498) -/

theorem takeNotice_some {x : Nat × List Byte} {s : State} (hn : (takeNotice s).1 = some x) : takeNotice s = (some x, (takeNotice s).2) :=
  Prod.ext hn rfl

theorem execPollForPlatformEventMessage_notice {k : Nat} {slot : List Byte} {m : SideMsg} {s : State} (hs : spRuns s = true)
    (hm : sideMine m [1, 2, 0x0B] [] s = true) (hn : (takeNotice s).1 = some (k, slot)) :
    execPollForPlatformEventMessage m s = .next (sideSend m ([0, s.side.tid] ++ le16 (draw (takeNotice s).2).1 ++ zeros 4 ++ [5, 0xF0]
      ++ le32 slot.length ++ slot ++ le32 (Config.crc32 slot).toNat) (draw (takeNotice s).2).2) := by
  rw [execPollForPlatformEventMessage, onMsg_mine hs hm, takeNotice_some hn]

theorem execMolzonAlarmNotificationRequest_notice {k : Nat} {slot : List Byte} {m : SideMsg} {s : State} (hs : spRuns s = true)
    (hm : sideMine m [0x7E, 0x1F, 0x6D] [2] s = true) (hn : (takeNotice s).1 = some (k, slot)) :
    execMolzonAlarmNotificationRequest m s = .next (sideSend m (molzonHead 2 0 ++ slot) (takeNotice s).2) := by
  rw [execMolzonAlarmNotificationRequest, onMsg_mine hs hm, takeNotice_some hn]

/-- With the report key, a request that the window of R96 lets in is answered by its report and the certificates. -/
theorem attestAnswer_reports {m : SideMsg} {nonce : List Byte} {at_ : Nat} {s : State} (hk : s.trust.reportKey = true)
    (ht : (attestTurn s).1 = some at_) : attestAnswer m nonce s =
      sideSend m (molzonHead 1 0 ++ attestReport nonce at_ (attestTurn s).2 ++ attestChain (attestTurn s).2) (attestTurn s).2 := by
  rw [attestAnswer, if_pos hk]
  generalize attestTurn s = turn at ht ⊢
  obtain ⟨_, u⟩ := turn
  subst ht
  rfl

/-! ## The obligation -/

/-- Settles O21: a message that is the row's has the answer of its meaning, and the other conditions name the branch of that answer. -/
theorem sidebandCommandsComplete : Obligations.SidebandCommandsComplete := by
  unfold Obligations.SidebandCommandsComplete
  refine ⟨?setEid, ?getEid, ?versions, ?types, ?arp, ?tid, ?pldmVersion, ?pldmTypes, ?pldmCommands, ?sensor, ?poll, ?attest, ?alarm, ?boot⟩
  case setEid => exact fun _ _ _ _ hs hm ho h0 hF => execMctpSetEndpointId_sets hs hm ho h0 hF
  case getEid => exact fun _ _ hs hm => onMsg_mine hs hm
  case versions => exact fun _ _ hs hm => execMctpGetVersionSupport_base hs hm
  case types => exact fun _ _ hs hm => onMsg_mine hs hm
  case arp => exact fun _ _ _ hs hm => execSmbusArp_assigned hs hm
  case tid => exact fun _ _ hs hm => onMsg_mine hs hm
  case pldmVersion => exact fun _ _ hs hm => execPldmGetPldmVersion_monitoring hs hm
  case pldmTypes => exact fun _ _ hs hm => onMsg_mine hs hm
  case pldmCommands => exact fun _ _ hs hm => execPldmGetPldmCommands_monitoring hs hm
  case sensor => exact fun _ _ _ hs hm => execPldmSensorRead_mine hs hm
  case poll => exact fun _ _ _ _ hs hm hn => execPollForPlatformEventMessage_notice hs hm hn
  case attest => exact fun _ _ _ _ hs hm hk ht => (onMsg_mine hs hm).trans (congrArg _ (attestAnswer_reports hk ht))
  case alarm => exact fun _ _ _ _ hs hm hn => execMolzonAlarmNotificationRequest_notice hs hm hn
  case boot => exact fun _ _ hs hm => execMolzonBootStatusRequest_listed hs hm

end Sys2Proof.Machine
end

/-! PROOFS of O18 (R92, R113; log entry 160): an aligned access to the debug block stops while debug is open. -/
section
namespace Sys2Proof.Machine
open Sys2Proof

theorem isDbg_and_open {off : Nat} {s : State} (ho : 0x40000 ≤ off) (hd : debugIsOpen s = true) : (isDbg off && debugIsOpen s) = true := by
  simp [isDbg, ho, hd]

section
variable {p : Port} {s : State} (hp : s.phase = .run) (hd : (s.port p).caps.d3hot = false) (hg : debugIsOpen s = true)
include hp hd hg

theorem readReg_debugBlock {off size : Nat} (ha : off % size = 0) (ho : 0x40000 ≤ off) :
    readReg p off size s = .refused (.dbgBlock off) := by
  rw [readReg, if_neg (not_not.mpr hp), if_neg (Bool.eq_false_iff.mp hd), if_neg (not_not.mpr ha), if_pos (isDbg_and_open ho hg)]

theorem execRegisterWrite_debugBlock {off : BitVec 20} {wide : Bool} {v : W64} (ha : off.toNat % (if wide then 8 else 4) = 0)
    (ho : 0x40000 ≤ off.toNat) : execRegisterWrite (.bar0 p off) wide v s = .refused (.dbgBlock off.toNat) := by
  rw [execRegisterWrite, if_neg (not_not.mpr hp)]
  exact (if_neg (Bool.eq_false_iff.mp hd)).trans ((if_neg (not_not.mpr ha)).trans (if_pos (isDbg_and_open ho hg)))

end

/-- Settles O18: on an awake port an aligned offset in the debug block reaches the refusal of the write and of both reads. -/
theorem debugBlockStops : Obligations.DebugBlockStops := by
  unfold Obligations.DebugBlockStops
  refine ⟨?write, ?read, ?readLow⟩
  case write => exact fun _ _ _ _ hp hd ha ho hg => execRegisterWrite_debugBlock hp hd hg ha ho
  case read => exact fun _ _ _ hp hd ha ho hg => readReg_debugBlock hp hd hg ha ho
  case readLow => exact fun _ _ _ hp hd ha ho hg => readReg_debugBlock hp hd hg ha ho

end Sys2Proof.Machine
end

/-! PROOFS of O15 (R57, R101 to R107): the head of the address chain, a frame that is taken, and the breaks of the chain. -/
section
namespace Sys2Proof.Machine
open Sys2Proof

/-! ## Heads -/

theorem execChainHeadTaken_silent {s : State} (hp : s.phase = .run) (hs : s.chain.started = false) (hn : s.chain.position = none) :
    execChainHeadTaken s = .next { s.chn (fun c => { c with head := true, position := some 0 }) with
      cond := { s.cond with chainIn := { s.cond.chainIn with level := false } } } := by
  rw [execChainHeadTaken, onRun_eq hp, if_neg (by simp [hs, hn])]

theorem execChainHeadFrameSend_sends {s : State} (hs : spRuns s = true) (hh : s.chain.head = true) (hr : chainRuns s = true) :
    execChainHeadFrameSend s = .next (chainSend (chainFrame chainTop 0 s.boot.boardId.toNat s.chain.enclosure) s) := by
  rw [execChainHeadFrameSend, onSp_eq hs, if_pos (by simp [hh, hr])]

/-! ## Frames (R102 to R104) -/

theorem spRuns_of_run {s : State} (hp : s.phase = .run) : spRuns s = true := spRuns_of_live (.inl hp)

/-- A frame whose check byte and version hold is a valid one (R103, R104). -/
theorem chainTake_valid {bits : Nat} {s : State} (hc : crc8 (lowBits bits 24) 0 = BitVec.ofNat 8 (bits / 2 ^ 24)) (hv : bits % 16 ≠ 0) :
    chainTake bits s = validFrame bits s := by
  rw [chainTake, if_neg (not_not.mpr hc), if_neg hv]

theorem execChainFrameReceived_decodes {lows : List Nat} {at_ bits : Nat} {s : State} (hs : spRuns s = true)
    (hx : (noteEdges 600 1000000 (2 * lows.length) at_ s.cond.chainIn).2 = false) (hr : chainRuns s = true)
    (hd : chainDecode none lows = some bits) :
    execChainFrameReceived lows at_ s = .next (chainTake bits (countIgnored s.cond.chainIn (2 * lows.length)
      { s with cond := { s.cond with chainIn := { (noteEdges 600 1000000 (2 * lows.length) at_ s.cond.chainIn).1 with
        level := true, chatter := s.cond.chainIn.chatter, latched := s.cond.chainIn.latched } } })) := by
  rw [execChainFrameReceived, onSp_eq hs]
  simp [hx, hr, hd]

/-! ## Breaks (R57, R105) -/

theorem execChainNoFrameTimeout_breaks {s : State} (hp : s.phase = .run) (hs : s.chain.started = true) (hh : s.chain.head = false)
    (hv : s.chain.version = 0) : execChainNoFrameTimeout s = .next (chainBroken s) := by
  rw [execChainNoFrameTimeout, onRun_eq hp, if_pos (by simp [hs, hh, hv])]

theorem execChainInStuck_breaks {level : Bool} {s : State} (hp : s.phase = .run) (hs : s.chain.started = true)
    (hh : s.chain.head = false) : execChainInStuck level s =
      .next (chainBroken { s with cond := { s.cond with chainIn := { s.cond.chainIn with level := level } } }) := by
  rw [execChainInStuck, onRun_eq hp, if_pos (by simp [hs, hh])]

/-! ## The obligation -/

/-- Settles O15: each row takes the branch in which the chain acts. -/
theorem chainCommandsComplete : Obligations.ChainCommandsComplete := by
  unfold Obligations.ChainCommandsComplete
  refine ⟨?head, ?send, ?frame, ?noFrame, ?stuck⟩
  case head => exact fun _ hp hs hn => ⟨_, execChainHeadTaken_silent hp hs hn, rfl, rfl, rfl, rfl, rfl⟩
  case send => exact fun _ hs hh hr => execChainHeadFrameSend_sends hs hh hr
  case frame =>
    rintro lows at_ bits x s hp rfl hx hr hd hc hv
    exact (execChainFrameReceived_decodes (spRuns_of_run hp) hx hr hd).trans (congrArg _ (chainTake_valid hc hv))
  case noFrame => exact fun _ hp hs hh hv => execChainNoFrameTimeout_breaks hp hs hh hv
  case stuck => exact fun _ _ hp hs hh => execChainInStuck_breaks hp hs hh

end Sys2Proof.Machine
end

/-! PROOFS of O51, O52 and O54 (R72, R85 to R87, R90 to R98, R100 to R106): which commands may change the fuses, the trust state, the chain and the sideband. -/
section
namespace Sys2Proof.Machine
open Sys2Proof

/-- Settles O51: a command other than the listed ones does not touch the fuses (`touches`), and leaves what it does not touch as it was (`exec_keeps`). -/
theorem fusesChangeOnlyBy : Obligations.FusesChangeOnlyBy := by
  unfold Obligations.FusesChangeOnlyBy
  intro c s t h
  cases c with
  | chipResetExit | fuseOwnerKeyProgram | fuseOwnerKeyRevoke | fuseRollbackAdvance | fuseDebugPermanent => trivial
  | _ =>
    have hk := exec_keeps h
    dsimp only [touches] at hk
    exact kept_fuses hk rfl

/-- Settles O52: a command other than the listed ones does not touch the trust state. -/
theorem trustStateChangesOnlyBy : Obligations.TrustStateChangesOnlyBy := by
  unfold Obligations.TrustStateChangesOnlyBy
  intro c s t h
  cases c with
  | pwrgoodDeassert | resetNAssert | chipResetExit | pwrfailNAssert | pwrfailStableDeassert | inputLatchRelease | sysrefLost | tempSample
  | vaultFlushDone | resetHoldOffExpiry | vddAonUp | vddAonDown | imageVerifyDone | recoveryLoad => trivial
  | fuseNonceGet | fuseOwnerKeyProgram | fuseOwnerKeyRevoke | fuseDebugPermanent | debugUnlock | attestReport | molzonAttestationRequest => trivial
  | fwHandoverFreeze | fwAbort | fwWindowExpiry | fwHeartbeatGap => trivial
  | _ =>
    have hk := exec_keeps h
    dsimp only [touches] at hk
    exact kept_trust hk rfl

/-- Settles O54: a command outside the first list does not touch the chain, one outside the second not the sideband. -/
theorem chainAndSidebandChangeOnlyBy : Obligations.ChainAndSidebandChangeOnlyBy := by
  unfold Obligations.ChainAndSidebandChangeOnlyBy
  refine ⟨?chain, ?side⟩
  case chain =>
    intro c s t h
    cases c with
    | pwrgoodDeassert | resetNAssert | resetHoldOffExpiry | pwrfailNAssert | pwrfailStableDeassert | vaultFlushDone | inputLatchRelease
    | sysrefLost | tempSample | vddAonUp | vddAonDown | fwWindowExpiry | fwHeartbeatGap | fwAbort => trivial
    | imageVerifyDone | recoveryLoad | chainHeadTaken | chainFrameReceived | chainNoFrameTimeout | chainInStuck | nodeEnclosureSet => trivial
    | _ =>
      have hk := exec_keeps h
      dsimp only [touches] at hk
      exact kept_chain hk rfl
  case side =>
    intro c s t h
    cases c with
    | pwrgoodDeassert | resetNAssert | resetHoldOffExpiry | pwrfailNAssert | pwrfailStableDeassert | vaultFlushDone | inputLatchRelease
    | sysrefLost | tempSample | vddAonUp | vddAonDown | fwWindowExpiry | fwHeartbeatGap | fwAbort => trivial
    | mctpSetEndpointId | smbusArp => trivial
    | _ =>
      have hk := exec_keeps h
      dsimp only [touches] at hk
      exact kept_side hk rfl

end Sys2Proof.Machine
end

/-! PROOFS of O4 and O5 (R85 to R89): the fuses only grow, and an owned chip stays owned. -/
section
namespace Sys2Proof.Machine
open Sys2Proof

/-! ## How a mailbox command ends -/

/-- A mailbox command leaves the tracked parts of the state as they were, or as its body leaves those of a state that agrees with the one before in them. -/
theorem mbxStartWith_ends (info : CmdInfo) (h : MbxHdr) (fs : List BodyField) (body : List Byte → State → Option MReply × State) (s : State) :
    kept 0 (mbxStartWith info h fs body s) = kept 0 s ∨
      ∃ b y, kept 0 y = kept 0 s ∧ kept 0 (mbxStartWith info h fs body s) = kept 0 (body b y).2 := by
  unfold mbxStartWith
  split
  · exact .inl rfl
  next c _ =>
    split
    · exact .inl rfl
    · split
      · exact .inl (by simp)
      · split
        · exact .inl (by simp)
        · refine .inr ⟨c.body, mbxUnqueue c s, by simp, ?_⟩
          dsimp only
          generalize body c.body (mbxUnqueue c s) = x
          obtain ⟨_ | r, t⟩ := x <;> simp

theorem signedRun_ends (x : Option MReply × State) (f : State → MReply × State) :
    (signedRun x f).2 = x.2 ∨ (signedRun x f).2 = (f x.2).2 := by
  obtain ⟨_ | r, s⟩ := x
  · exact .inr rfl
  · exact .inl rfl

/-! ## Growth of the fuses (R86, R87) -/

theorem fusesGrow_refl (a : Fuses) : fusesGrow a a :=
  ⟨rfl, rfl, rfl, rfl, fun _ h => h, fun h => ⟨h, rfl⟩, fun h => ⟨h, rfl⟩, fun h => ⟨h, rfl⟩, fun h => ⟨h, rfl⟩⟩

theorem slotKeeps_trans {a b c : OwnerSlot} (hab : slotKeeps a b) (hbc : slotKeeps b c) : slotKeeps a c := fun ha =>
  have hb := hab ha
  have hc := hbc hb.1
  ⟨hc.1, hc.2.trans hb.2⟩

theorem fusesGrow_trans {a b c : Fuses} (hab : fusesGrow a b) (hbc : fusesGrow b c) : fusesGrow a c := by
  obtain ⟨u, v, s, r, i, o0, o1, o2, o3⟩ := hab
  obtain ⟨u', v', s', r', i', o0', o1', o2', o3'⟩ := hbc
  exact ⟨u'.trans u, v'.trans v, s'.trans s, r'.trans r, fun n hn => i' n (i n hn), slotKeeps_trans o0 o0', slotKeeps_trans o1 o1',
    slotKeeps_trans o2 o2', slotKeeps_trans o3 o3'⟩

theorem fusesGrow_of_eq {a b : Fuses} (h : b = a) : fusesGrow a b := h ▸ fusesGrow_refl a

theorem fusesGrow_blow (f : Fuses) (i : Nat) (x : BitVec 3) : fusesGrow f (f.blow i x) := by
  refine ⟨rfl, rfl, rfl, rfl, fun n hn => ?_, fun h => ⟨h, rfl⟩, fun h => ⟨h, rfl⟩, fun h => ⟨h, rfl⟩, fun h => ⟨h, rfl⟩⟩
  simp [Fuses.blow, hn]

theorem fusesGrow_completeBits (f : Fuses) (n : Nat) : fusesGrow f (completeBits f n) := by
  induction n with
  | zero => exact fusesGrow_refl f
  | succ n ih =>
    rw [completeBits]
    split
    · exact fusesGrow_trans ih (fusesGrow_blow _ _ _)
    · exact ih

theorem slotKeeps_of_blank {a b : OwnerSlot} (h : a.programmed = false) : slotKeeps a b := fun ha => absurd ha (by simp [h])

/-- A slot's new value that keeps its old one takes nothing back. -/
theorem fusesGrow_setOwner {n : Nat} {x : OwnerSlot} {s : State} (h : slotKeeps (ownerSlot s n) x) :
    fusesGrow s.fuses (s.setOwner n x).fuses := by
  obtain ⟨u, v, c, r, i, o0, o1, o2, o3⟩ := fusesGrow_refl s.fuses
  unfold ownerSlot at h
  unfold State.setOwner
  split_ifs at h ⊢
  · exact ⟨u, v, c, r, i, h, o1, o2, o3⟩
  · exact ⟨u, v, c, r, i, o0, h, o2, o3⟩
  · exact ⟨u, v, c, r, i, o0, o1, h, o3⟩
  · exact ⟨u, v, c, r, i, o0, o1, o2, h⟩

/-! ## The operations on the fuses -/

theorem blowBit_fuses (i : Nat) (x : BitVec 3) (s : State) : (blowBit i x s).fuses = s.fuses.blow i x := by
  have hk : kept 0 (blowBit i x s) = kept 0 { s with fuses := s.fuses.blow i x } := by
    simp only [blowBit]
    split <;> simp
  exact kept_fuses hk rfl

theorem programSlot_fuses (n : Nat) (key : List Byte) (bad : Option (Fin 7)) (s : State) :
    (programSlot n key bad s).fuses =
      (s.setOwner n { hash := Config.sha384 key, programmed := true, damaged := bad.isSome }).fuses := by
  unfold programSlot
  cases bad with
  | none => rfl
  | some r => exact kept_fuses (m := 0) (by simp) rfl

theorem fuseReply_fuses (ok : Bool) (body : List Byte) (s : State) : (fuseReply ok body s).2.fuses = s.fuses :=
  kept_fuses (fuseReply_keeps (msk := 0) ok body s) rfl

theorem signedCheck_fuses (op : Nat) (fields : Option MReply) (slotAt : Nat) (fuse auth : Bool) (body : List Byte) (g : Signed) (s : State) :
    (signedCheck op fields slotAt fuse auth body g s).2.fuses = s.fuses :=
  kept_fuses (signedCheck_keeps (msk := butTrust) op fields slotAt fuse auth body g s rfl) rfl

/-- All parts but the fuses are left out. -/
@[simp] abbrev onlyFuses : Nat := 262142

/-- At reset exit the boot completes the partly blown bits (R86). -/
theorem fusesStep_fuses (obs : BootObs) (s : State) : (fusesStep obs s).fuses = completeBits s.fuses 341 := by
  unfold fusesStep
  extract_lets p s1 s2
  have h1 : s1.fuses = s.fuses := kept_fuses (m := onlyFuses) (by simp [s1]) rfl
  have h2 : s2.fuses = completeBits s1.fuses 341 :=
    kept_fuses (m := onlyFuses) (t := s2) (s := { s1 with fuses := completeBits s1.fuses 341 }) (by simp [s2]) rfl
  have h3 : (settleTorn obs.torn (readSfdp obs (readFactory obs s2))).fuses = s2.fuses := kept_fuses (m := onlyFuses) (by simp) rfl
  rw [h3, h2, h1]

/-- A row that cannot be corrected makes its owner slot one that counts as revoked, and leaves the slot's hash (R86). -/
theorem badRow_fusesGrow (row : Nat) (s : State) : fusesGrow s.fuses (badRow row s).fuses := by
  unfold badRow
  extract_lets n slot s1
  have he : (fuseRowEvent row 1 s1).fuses = s1.fuses := kept_fuses (m := onlyFuses) (by simp) rfl
  rw [he]
  simp only [s1]
  split
  · exact fusesGrow_setOwner fun _ => ⟨rfl, rfl⟩
  · exact fusesGrow_refl _

theorem badRows_fusesGrow (rows : List Nat) (s : State) : fusesGrow s.fuses (badRows rows s).fuses := by
  induction rows generalizing s with
  | nil => exact fusesGrow_refl _
  | cons row rows ih => exact fusesGrow_trans (badRow_fusesGrow row s) (ih (badRow row s))

theorem bootStart_fusesGrow (obs : BootObs) (s : State) : fusesGrow s.fuses (bootStart obs s).fuses := by
  unfold bootStart
  extract_lets b s0 dead s1 s2 net s3
  have h1 : fusesGrow s.fuses s1.fuses := by
    have hh : (heldEvents (fusesStep obs s0)).fuses = completeBits s.fuses 341 :=
      (kept_fuses (m := onlyFuses) (by simp) rfl).trans (fusesStep_fuses obs s0)
    exact fusesGrow_trans (fusesGrow_completeBits s.fuses 341) (hh ▸ badRows_fusesGrow _ _)
  have h3 : fusesGrow s.fuses s3.fuses :=
    fusesGrow_trans h1 (fusesGrow_of_eq (kept_fuses (m := onlyFuses) (by simp [s3, net, s2]) rfl))
  split
  · exact fusesGrow_of_eq (kept_fuses (m := onlyFuses) (by simp [dead, s0]) rfl)
  · split
    · exact fusesGrow_trans h1 (fusesGrow_of_eq (kept_fuses (m := onlyFuses) (by simp) rfl))
    · split
      · exact h3
      · split <;> exact fusesGrow_trans h3 (fusesGrow_of_eq (kept_fuses (m := onlyFuses) (by simp) rfl))

/-! ## The commands that change the fuses -/

theorem execChipResetExit_fusesGrow {obs : BootObs} {at_ : Nat} {s t : State} (h : execChipResetExit obs at_ s = .next t) :
    fusesGrow s.fuses t.fuses := by
  unfold execChipResetExit at h
  obtain rfl | rfl := onAon_next h
  · exact fusesGrow_refl _
  extract_lets x s1
  have hx : s1.fuses = s.fuses := kept_fuses (m := onlyFuses) (by simp only [s1, x]; split <;> simp) rfl
  split
  · exact hx ▸ bootStart_fusesGrow obs s1
  · exact fusesGrow_of_eq hx

/-- A mailbox command takes no fuse back if its body takes none back. -/
theorem mbxStartWith_fusesGrow {info : CmdInfo} {h : MbxHdr} {fs : List BodyField} {body : List Byte → State → Option MReply × State}
    {s : State} (hb : ∀ b y, fusesGrow y.fuses (body b y).2.fuses) : fusesGrow s.fuses (mbxStartWith info h fs body s).fuses := by
  obtain hk | ⟨b, y, hy, hk⟩ := mbxStartWith_ends info h fs body s
  · exact fusesGrow_of_eq (kept_fuses hk rfl)
  · rw [kept_fuses hk rfl, ← kept_fuses hy rfl]
    exact hb b y

/-- A signed command takes no fuse back if what it does after its checks takes none back. -/
theorem signedRun_fusesGrow {op : Nat} {fields : Option MReply} {slotAt : Nat} {fuse auth : Bool} {body : List Byte} {g : Signed}
    {f : State → MReply × State} {s : State} (hf : ∀ y, fusesGrow y.fuses (f y).2.fuses) :
    fusesGrow s.fuses (signedRun (signedCheck op fields slotAt fuse auth body g s) f).2.fuses := by
  obtain he | he := signedRun_ends (signedCheck op fields slotAt fuse auth body g s) f
  · exact fusesGrow_of_eq (he ▸ signedCheck_fuses ..)
  · rw [he, ← signedCheck_fuses op fields slotAt fuse auth body g s]
    exact hf _

theorem fuseReply_blowBit_fusesGrow (ok : Bool) (body : List Byte) (i : Nat) (x : BitVec 3) (s : State) :
    fusesGrow s.fuses (fuseReply ok body (blowBit i x s)).2.fuses := by
  rw [fuseReply_fuses, blowBit_fuses]
  exact fusesGrow_blow _ _ _

theorem execFuseOwnerKeyProgram_fusesGrow {h : MbxHdr} {slot : Byte} {key : List Byte} {g : Signed} {bad : Option (Fin 7)} {s t : State}
    (he : execFuseOwnerKeyProgram h slot key g bad s = .next t) : fusesGrow s.fuses t.fuses := by
  unfold execFuseOwnerKeyProgram at he
  obtain rfl | rfl := onRun_next he
  · exact fusesGrow_refl _
  refine mbxStartWith_fusesGrow fun _ _ => signedRun_fusesGrow fun y => ?_
  split
  · exact fusesGrow_refl _
  next hn =>
    rw [fuseReply_fuses, programSlot_fuses]
    exact fusesGrow_setOwner (slotKeeps_of_blank (Bool.eq_false_iff.mpr hn))

theorem execFuseOwnerKeyRevoke_fusesGrow {h : MbxHdr} {slot : Byte} {g : Signed} {blown : BitVec 3} {s t : State}
    (he : execFuseOwnerKeyRevoke h slot g blown s = .next t) : fusesGrow s.fuses t.fuses := by
  unfold execFuseOwnerKeyRevoke at he
  obtain rfl | rfl := onRun_next he
  · exact fusesGrow_refl _
  refine mbxStartWith_fusesGrow fun _ _ => signedRun_fusesGrow fun y => ?_
  dsimp only
  split_ifs
  · exact fusesGrow_refl _
  · exact fusesGrow_refl _
  · exact fusesGrow_refl _
  · exact fuseReply_blowBit_fusesGrow _ _ _ _ _

theorem execFuseRollbackAdvance_fusesGrow {h : MbxHdr} {target : Byte} {blown : BitVec 3} {s t : State}
    (he : execFuseRollbackAdvance h target blown s = .next t) : fusesGrow s.fuses t.fuses := by
  unfold execFuseRollbackAdvance mbxStart at he
  obtain rfl | rfl := onRun_next he
  · exact fusesGrow_refl _
  refine mbxStartWith_fusesGrow fun _ y => ?_
  dsimp only
  split_ifs
  · exact fusesGrow_refl _
  · exact fusesGrow_refl _
  · exact fusesGrow_refl _
  · exact fuseReply_blowBit_fusesGrow _ _ _ _ _

theorem execFuseDebugPermanent_fusesGrow {h : MbxHdr} {g : Signed} {blown : BitVec 3} {s t : State}
    (he : execFuseDebugPermanent h g blown s = .next t) : fusesGrow s.fuses t.fuses := by
  unfold execFuseDebugPermanent at he
  obtain rfl | rfl := onRun_next he
  · exact fusesGrow_refl _
  refine mbxStartWith_fusesGrow fun _ _ => signedRun_fusesGrow fun y => ?_
  split
  · exact fusesGrow_refl _
  · exact fusesGrow_trans (fusesGrow_blow y.fuses 68 7) (fuseReply_blowBit_fusesGrow _ _ _ _ _)

/-! ## Every step -/

theorem exec_fusesGrow {c : Instr} {s t : State} (h : exec c s = .next t) : fusesGrow s.fuses t.fuses := by
  have ho := fusesChangeOnlyBy c s t h
  cases c with
  | chipResetExit => exact execChipResetExit_fusesGrow h
  | fuseOwnerKeyProgram => exact execFuseOwnerKeyProgram_fusesGrow h
  | fuseOwnerKeyRevoke => exact execFuseOwnerKeyRevoke_fusesGrow h
  | fuseRollbackAdvance => exact execFuseRollbackAdvance_fusesGrow h
  | fuseDebugPermanent => exact execFuseDebugPermanent_fusesGrow h
  | _ => exact fusesGrow_of_eq ho

theorem step_fusesGrow {s t : State} (h : step s = .next t) : fusesGrow s.fuses t.fuses := by
  cases hq : s.pending with
  | nil =>
    rw [step_empty hq] at h
    injection h with h
    exact fusesGrow_of_eq (h ▸ rfl)
  | cons c rest =>
    rw [step_front hq] at h
    have hg := exec_fusesGrow h
    exact hg

/-- Settles O4: the commands that change the fuses blow bits of the incremental area or program a blank owner slot, and no other command touches them (O51). -/
theorem fusesOnlyGrow : Obligations.FusesOnlyGrow := by
  unfold Obligations.FusesOnlyGrow
  exact fun _ _ => step_fusesGrow

/-! ## Ownership (R88) -/

theorem isOwned_iff (s : State) : isOwned s = true ↔ ∃ n, n < 4 ∧ (ownerSlot s n).programmed = true := by
  constructor
  · intro h
    simp only [isOwned, Bool.or_eq_true] at h
    rcases h with ((h | h) | h) | h
    · exact ⟨0, by decide, h⟩
    · exact ⟨1, by decide, h⟩
    · exact ⟨2, by decide, h⟩
    · exact ⟨3, by decide, h⟩
  · rintro ⟨n, -, h⟩
    unfold ownerSlot at h
    split_ifs at h <;> simp [isOwned, h]

theorem ownerSlot_slotKeeps {s t : State} (h : fusesGrow s.fuses t.fuses) (n : Nat) : slotKeeps (ownerSlot s n) (ownerSlot t n) := by
  obtain ⟨-, -, -, -, -, o0, o1, o2, o3⟩ := h
  unfold ownerSlot
  split_ifs
  · exact o0
  · exact o1
  · exact o2
  · exact o3

theorem step_isOwned {s t : State} (ho : isOwned s = true) (h : step s = .next t) : isOwned t = true := by
  obtain ⟨n, hn, hs⟩ := (isOwned_iff s).mp ho
  have ht := ownerSlot_slotKeeps (step_fusesGrow h) n hs
  exact (isOwned_iff t).mpr ⟨n, hn, ht.1⟩

theorem keyOfSlot_vendor (s : State) (key : List Byte) :
    keyOfSlot s 255 key = (!isOwned s && decide (Config.sha384 key = s.fuses.vendorHash)) := if_pos rfl

/-- Settles O5: slot 0xFF names the vendor key of an unowned chip alone, and a programmed slot stays programmed because the fuses only grow (O4). -/
theorem ownedStaysOwned : Obligations.OwnedStaysOwned := by
  unfold Obligations.OwnedStaysOwned
  refine ⟨isOwned_iff, ?vendor, ?owned, ?step⟩
  case vendor => exact fun s key ho => by simp [keyOfSlot_vendor, ho]
  case owned => exact fun s key ho => by simp [keyOfSlot_vendor, ho]
  case step => exact fun _ _ => step_isOwned

end Sys2Proof.Machine
end

/-! PROOFS for O7 (R467; log entry 3): every command keeps the on-chip memory in its one form. -/
section
namespace Sys2Proof.Machine
open Sys2Proof

/-! ## The canonical on-chip memory -/

/-- All parts but the on-chip memory are left out. -/
@[simp] abbrev onlyOnchip : Nat := 262015

/-- The tracked parts are those of a state whose on-chip memory is canonical. -/
def canonicalIn (k : type_of% (kept onlyOnchip State.reset)) : Prop := ∃ s, kept onlyOnchip s = k ∧ Mem.wf s.onchip = true

/-- The on-chip memory is canonical, said of the tracked parts: an operation that leaves the memory alone drops out of it by its `_keeps` lemma. -/
@[simp] abbrev canonical (s : State) : Prop := canonicalIn (kept onlyOnchip s)

theorem canonical_iff (s : State) : canonical s ↔ Mem.wf s.onchip = true :=
  ⟨fun ⟨_, hk, hw⟩ => kept_onchip hk rfl ▸ hw, fun hw => ⟨s, rfl, hw⟩⟩

theorem canonical_of_keeps {s t : State} (hk : kept onlyOnchip t = kept onlyOnchip s) (h : canonical s) : canonical t := by
  rwa [canonical, hk]

@[simp] theorem canonicalIn_ite (c : Prop) [Decidable c] (x y : type_of% (kept onlyOnchip State.reset)) :
    canonicalIn (if c then x else y) ↔ if c then canonicalIn x else canonicalIn y := by
  split <;> rfl

theorem canonical_onRun {s t : State} {f : State → State} (h : canonical s) (ht : onRun s f = .next t) (hf : canonical (f s)) :
    canonical t := by
  obtain rfl | rfl := onRun_next ht
  · exact h
  · exact hf

theorem canonical_onLive {s t : State} {f : State → State} (h : canonical s) (ht : onLive s f = .next t) (hf : canonical (f s)) :
    canonical t := by
  obtain rfl | rfl := onLive_next ht
  · exact h
  · exact hf

theorem canonical_onAon {s t : State} {f : State → State} (h : canonical s) (ht : onAon s f = .next t) (hf : canonical (f s)) :
    canonical t := by
  obtain rfl | rfl := onAon_next ht
  · exact h
  · exact hf

theorem canonical_onWriter {who : UdmaBy} {s t : State} {f : State → State} (h : canonical s) (ht : onWriter who s f = .next t)
    (hf : canonical (f s)) : canonical t := by
  obtain rfl | rfl | ⟨p, rfl⟩ := onWriter_next ht
  · exact h
  · exact hf
  · simp [h]

/-- A mailbox command keeps the memory canonical if its body does. -/
theorem canonical_mbxStart {info : CmdInfo} {hd : MbxHdr} {fs : List BodyField} {body : State → Option MReply × State} {s : State}
    (h : canonical s) (hb : ∀ y, canonical y → canonical (body y).2) : canonical (mbxStart info hd fs body s) := by
  obtain hk | ⟨_, y, hy, hk⟩ := mbxStartWith_ends info hd fs (fun _ => body) s
  · exact canonical_of_keeps (kept_mono rfl hk) h
  · exact canonical_of_keeps (kept_mono rfl hk) (hb y (canonical_of_keeps (kept_mono rfl hy) h))

theorem canonical_onPort {l : Nat} {f : State → State} {s : State} (h : canonical s) (hf : ∀ y, canonical y → canonical (f y)) :
    canonical (onPort l f s) := by
  unfold onPort
  split
  · exact hf _ (by simp [h])
  · exact h

theorem canonical_foldl {α : Type} {g : State → α → State} (hg : ∀ x a, canonical x → canonical (g x a)) (l : List α) {s : State}
    (h : canonical s) : canonical (l.foldl g s) := by
  induction l generalizing s with
  | nil => exact h
  | cons a l ih => exact ih (hg s a h)

/-! ## What is written into the memory -/

theorem wf_filter {α : Type} (p : Nat × α → Bool) {t : Tbl α} (h : Tbl.wf t = true) : Tbl.wf (t.filter p) = true := by
  induction t with
  | nil => rfl
  | cons x t ih =>
    obtain ⟨k, v⟩ := x
    obtain ⟨ha, ht⟩ := (Tbl.wf_cons k v t).mp h
    rw [List.filter_cons]
    split
    · exact (Tbl.wf_cons _ _ _).mpr ⟨fun y hy => ha y (List.mem_of_mem_filter hy), ih ht⟩
    · exact ih ht

/-- Clearing a scratchpad way takes entries out of the memory and leaves the others as they stand (R253). -/
theorem wf_zeroWay (k : Nat) {m : Mem} (h : Mem.wf m = true) : Mem.wf (zeroWay k m) = true := by
  obtain ⟨ht, hn⟩ := (Mem.wf_iff m).mp h
  exact (Mem.wf_iff _).mpr ⟨wf_filter _ ht, fun c hc => hn c (List.mem_of_mem_filter hc)⟩

theorem wf_zeroWays (l : List Nat) {m : Mem} (h : Mem.wf m = true) : Mem.wf (l.foldl (fun m k => zeroWay k m) m) = true := by
  induction l generalizing m with
  | nil => exact h
  | cons k l ih => exact ih (wf_zeroWay k h)

section
variable {s : State} (h : canonical s)
include h

@[simp] theorem chipPut_canonical (a : Nat) (l : List Byte) : canonical (chipPut a l s) := by
  unfold chipPut
  split
  · exact h
  · exact (canonical_iff _).mpr (Mem.wf_putBytes _ _ _ ((canonical_iff s).mp h))

@[simp] theorem scratchWithdraw_canonical : canonical (scratchWithdraw s) :=
  (canonical_iff _).mpr (wf_zeroWays _ ((canonical_iff s).mp h))

@[simp] theorem loadImage_canonical (t : ImageType) (o : ImageObs) : canonical (loadImage t o s) := by
  unfold loadImage
  extract_lets a e b s1
  have h1 : canonical s1 := by
    refine (canonical_iff _).mpr ?_
    show Mem.wf (if loadsToSram t then s.onchip else Mem.putBytes s.onchip a.toNat o.payload) = true
    split
    · exact (canonical_iff s).mp h
    · exact Mem.wf_putBytes _ _ _ ((canonical_iff s).mp h)
  simp [h1]

omit h in
/-- A chip reset empties the memory, whatever it held (R11). -/
@[simp] theorem chipReset_canonical : canonical (chipReset s) := (canonical_iff _).mpr Mem.wf_nil

/-! ## Cipher requests (R442, R455 to R458)

Each lemma follows the branches of one operation. In a branch `simp` passes what leaves the memory alone by its `_keeps` lemma, and what writes it by the lemma above. -/

@[simp] theorem cipherDone_canonical (r : CipherReq) (st : EngStatus) (ctx bytes : Nat) (data : List Byte) :
    canonical (cipherDone r st ctx bytes data s) := by
  simp [cipherDone, h]

@[simp] theorem runXts_canonical (enc : Bool) (r : CipherReq) : canonical (runXts enc r s) := by
  unfold runXts
  (repeat' split) <;> simp [h]

@[simp] theorem runReencrypt_canonical (r : CipherReq) : canonical (runReencrypt r s) := by
  unfold runReencrypt
  (repeat' split) <;> simp [h]

@[simp] theorem runGcmOpen_canonical (r : CipherReq) : canonical (runGcmOpen r s) := by
  have hp := canonical_of_keeps (pickContext_keeps r s rfl) h
  unfold runGcmOpen
  generalize pickContext r s = x at hp ⊢
  obtain ⟨s0, _ | n, st⟩ := x
  · simp [hp]
  · dsimp only at hp ⊢
    (repeat' split) <;> simp [hp, h]

@[simp] theorem runGcmData_canonical (r : CipherReq) : canonical (runGcmData r s) := by
  have ho := canonical_of_keeps (ownCtx_keeps r s) h
  unfold runGcmData
  generalize ownCtx r s = x at ho ⊢
  obtain ⟨_ | c, st, s0⟩ := x
  · simp [ho]
  · dsimp only at ho ⊢
    (repeat' split) <;> simp [ho]

@[simp] theorem runGcmClose_canonical (r : CipherReq) : canonical (runGcmClose r s) := by
  have ho := canonical_of_keeps (ownCtx_keeps r s) h
  unfold runGcmClose
  generalize ownCtx r s = x at ho ⊢
  obtain ⟨_ | c, st, s0⟩ := x
  · simp [ho]
  · simp [ho]

@[simp] theorem runRaw_canonical (enc : Bool) (r : CipherReq) : canonical (runRaw enc r s) := by
  unfold runRaw
  (repeat' split) <;> simp [h]

@[simp] theorem runCipher_canonical (op : CipherOp) (r : CipherReq) : canonical (runCipher op r s) := by
  unfold runCipher
  split <;> simp [h]

omit h in
@[simp] theorem runWaits_canonical (l : List CipherWait) {s : State} (h : canonical s) : canonical (runWaits l s) := by
  induction l generalizing s with
  | nil => exact h
  | cons w l ih => exact ih (by simp [h])

@[simp] theorem retryWaits_canonical : canonical (retryWaits s) := by
  simp [retryWaits, h]

/-! ## The connected class (R374 to R380, R394) and the datagram class (R383 to R388) -/

@[simp] theorem roceSend_canonical (n : Nat) (q : Qp) (op : RoceOp) (pk : RocePkt) : canonical (roceSend n q op pk s) := by
  unfold roceSend
  (repeat' split) <;> simp [h]

@[simp] theorem roceExecute_canonical (n : Nat) (q : Qp) (op : RoceOp) (pk : RocePkt) : canonical (roceExecute n q op pk s) := by
  unfold roceExecute
  (repeat' split) <;> simp [h]

@[simp] theorem roceJudge_canonical (op : RoceOp) (pk : RocePkt) : canonical (roceJudge op pk s) := by
  unfold roceJudge
  (repeat' split) <;> simp [h]

@[simp] theorem takeReadRsp_canonical (n psn : Nat) (data : List Byte) (cmd : Option Nat) : canonical (takeReadRsp n psn data cmd s) := by
  unfold takeReadRsp
  dsimp only
  (repeat' split) <;> simp [h]

@[simp] theorem qpJudge_canonical (n : Nat) (p : QpPkt) : canonical (qpJudge n p s) := by
  unfold qpJudge
  split <;> simp [h]

@[simp] theorem qpArrive_canonical (n : Nat) (q : Qp) (p : QpPkt) : canonical (qpArrive n q p s) := by
  simp [qpArrive, h]

@[simp] theorem qpPacket_canonical (n : Nat) (p : QpPkt) : canonical (qpPacket n p s) := by
  unfold qpPacket
  split
  · exact h
  · exact canonical_onPort h fun _ hy => qpArrive_canonical hy _ _ _

@[simp] theorem roceIn_canonical (op : RoceOp) (pk : RocePkt) : canonical (roceIn op pk s) := by
  unfold roceIn
  (repeat' split) <;> simp [h]

omit h in
@[simp] theorem judgeAll_canonical (n : Nat) (l : List QpPkt) {s : State} (h : canonical s) : canonical (judgeAll n l s) := by
  induction l generalizing s with
  | nil => exact h
  | cons p l ih => exact ih (by simp [h])

@[simp] theorem placePacket_canonical (l k : Nat) (e : Reasm) (pk : DataPkt) : canonical (placePacket l k e pk s) := by
  simp [placePacket, h]

@[simp] theorem takePacket_canonical (l k : Nat) (e : Reasm) (pk : DataPkt) : canonical (takePacket l k e pk s) := by
  unfold takePacket
  split
  · simp [h]
  · split
    · simp [h]
    next e1 s1 ha =>
      have h1 : canonical s1 := canonical_of_keeps (kept_mono rfl (assign_keeps _ _ _ _ ha)) h
      simp [h1]

/-! ## The utility DMA (R465 to R479) -/

omit h in
@[simp] theorem putPieces_canonical (n space : Nat) (l : List (Nat × List Byte)) {s : State} (h : canonical s) :
    canonical (putPieces n space l s) := by
  induction l generalizing s with
  | nil => exact h
  | cons x l ih => exact ih (by simp [h])

@[simp] theorem putRecord_canonical (n : Nat) (r : UdmaRec) : canonical (putRecord n r s) := by
  simp [putRecord, h]

@[simp] theorem endRun_canonical (n status : Nat) : canonical (endRun n status s) := by
  simp [endRun, h]

@[simp] theorem startChan_canonical (n : Nat) : canonical (startChan n s) := by
  simp [startChan, h]

@[simp] theorem stopChan_canonical (n : Nat) : canonical (stopChan n s) := by
  unfold stopChan
  extract_lets c a b r m hd put s1
  have hput : ∀ x i, canonical x → canonical (put x i) := fun x i hx => by simp [put, hx]
  have h1 : canonical s1 := by
    simp only [s1]
    split
    · exact canonical_foldl hput _ (by simp [hd, m, r, b, a, h])
    · simp [hd, m, r, b, a, h]
  split <;> simp [h1, h]

@[simp] theorem writeCtrl_canonical (who : UdmaBy) (n : Nat) (v : W32) : canonical (writeCtrl who n v s) := by
  simp [writeCtrl, h]

@[simp] theorem writeCqHead_canonical (n : Nat) (v : BitVec 12) : canonical (writeCqHead n v s) := by
  unfold writeCqHead
  dsimp only
  (repeat' split) <;> simp [h]

@[simp] theorem freeChan_canonical (n : Nat) : canonical (freeChan n s) := by
  simp [freeChan, h]

@[simp] theorem udmaWrite_canonical (p : Port) (n off : Nat) (v : W32) : canonical (udmaWrite p n off v s) := by
  unfold udmaWrite
  (repeat' split) <;> simp [h]

@[simp] theorem moveBurst_canonical (n : Nat) (host : List Byte) : canonical (moveBurst n host s) := by
  simp [moveBurst, h]

@[simp] theorem burstDone_canonical (n : Nat) (host : List Byte) : canonical (burstDone n host s) := by
  simp [burstDone, h]

omit h in
@[simp] theorem freeChans_canonical (p : Port) (l : List Nat) {s : State} (h : canonical s) : canonical (freeChans p l s) := by
  induction l generalizing s with
  | nil => exact h
  | cons n l ih => exact ih (by simp [h])

@[simp] theorem udmaLeave_canonical (p : Port) : canonical (udmaLeave p s) := by
  simp [udmaLeave, h]

/-! ## Ports and domains that go down (R41, R47, R491 to R493) -/

@[simp] theorem portDown_canonical (p : Port) : canonical (portDown p s) := by
  simp [portDown, h]

@[simp] theorem portResetAll_canonical (p : Port) : canonical (portResetAll p s) := by
  simp [portResetAll, h]

@[simp] theorem perstReset_canonical (p : Port) : canonical (perstReset p s) := by
  simp [perstReset, h]

@[simp] theorem domainLost_canonical (d : Nat) : canonical (domainLost d s) := by
  unfold domainLost
  (repeat' split) <;> simp [h]

@[simp] theorem gateOff_canonical (d : Nat) : canonical (gateOff d s) := by
  simp [gateOff, h]

omit h in
@[simp] theorem gateOffAll_canonical (l : List Nat) {s : State} (h : canonical s) : canonical (gateOffAll l s) := by
  induction l generalizing s with
  | nil => exact h
  | cons d l ih => exact ih (by simp [h])

@[simp] theorem fenceDomain_canonical (d : Nat) : canonical (fenceDomain d s) := by
  simp [fenceDomain, h]

@[simp] theorem fenceUnit_canonical (e : ErrObs) (nested repair : Bool) : canonical (fenceUnit e nested repair s) := by
  simp [fenceUnit, h]

@[simp] theorem fence_canonical (e : ErrObs) (nested repair : Bool) : canonical (fence e nested repair s) := by
  simp [fence, h]

omit h in
@[simp] theorem fenceDark_canonical (seq : W32) (l : List Nat) {s : State} (h : canonical s) : canonical (fenceDark seq l s) := by
  induction l generalizing s with
  | nil => exact h
  | cons d l ih =>
    unfold fenceDark
    split
    · exact ih h
    · exact ih (by simp [h])

@[simp] theorem unitRule_canonical (e : ErrObs) : canonical (unitRule e s) := by
  simp [unitRule, h]

@[simp] theorem lastingOutcome_canonical (e : ErrObs) : canonical (lastingOutcome e s) := by
  simp [lastingOutcome, h]

@[simp] theorem secondError_canonical (e0 e : ErrObs) : canonical (secondError e0 e s) := by
  unfold secondError
  extract_lets same s1 s2
  have h1 : canonical s1 := by simp [s1, h]
  have h2 : canonical s2 := by simp [s2, h1]
  simp [h2]

@[simp] theorem repeatFailed_canonical (e : ErrObs) : canonical (repeatFailed e s) := by
  simp [repeatFailed, h]

@[simp] theorem laneError_canonical (id : Nat) (b : Batch) : canonical (laneError id b s) := by
  unfold laneError
  dsimp only
  (repeat' split) <;> simp [h]

@[simp] theorem writeWord_canonical (p : Port) (off : Nat) (v : W32) : canonical (writeWord p off v s) := by
  simp [writeWord, h]

@[simp] theorem writeWide_canonical (p : Port) (off : Nat) (v : W64) : canonical (writeWide p off v s) := by
  simp [writeWide, h]

@[simp] theorem endpointReset_canonical (p : Port) : canonical (endpointReset p s) := by
  simp [endpointReset, h]

@[simp] theorem cfgServe_canonical (p : Port) (upper : Bool) (q : CfgReq) : canonical (cfgServe p upper q s) := by
  unfold cfgServe
  (repeat' split) <;> simp [h]

/-! ## Flush, reset and boot (R45 to R51, R72, R84, R522 to R525) -/

omit h in
@[simp] theorem leaveVaulted_canonical : canonical (leaveVaulted s) := chipReset_canonical

@[simp] theorem flushEnd_canonical : canonical (flushEnd s) := by
  simp [flushEnd, h]

@[simp] theorem startFlush_canonical (cause : FlushCause) : canonical (startFlush cause s) := by
  simp [startFlush, h]

omit h in
@[simp] theorem powerBad_canonical : canonical (powerBad s) := chipReset_canonical

@[simp] theorem resetTakes_canonical : canonical (resetTakes s) := by
  simp [resetTakes, h]

@[simp] theorem pwrfailFirst_canonical : canonical (pwrfailFirst s) := by
  simp [pwrfailFirst, h]

@[simp] theorem pwrfailStable_canonical : canonical (pwrfailStable s) := by
  simp [pwrfailStable, h]

@[simp] theorem criticalTrip_canonical : canonical (criticalTrip s) := by
  simp [criticalTrip, h]

@[simp] theorem fwFallback_canonical : canonical (fwFallback s) := by
  simp [fwFallback, h]

@[simp] theorem abortTrial_canonical (hd : MbxHdr) : canonical (abortTrial hd s) := by
  unfold abortTrial
  split <;> simp [h]

@[simp] theorem acceptStage1_canonical (o : ImageObs) : canonical (acceptStage1 o s) := by
  simp [acceptStage1, h]

@[simp] theorem acceptControl_canonical (o : ImageObs) : canonical (acceptControl o s) := by
  simp [acceptControl, h]

@[simp] theorem judgeControl_canonical (o : ImageObs) : canonical (judgeControl o s) := by
  unfold judgeControl
  (repeat' split) <;> simp [h]

@[simp] theorem recoverStage1_canonical (o : ImageObs) : canonical (recoverStage1 o s) := by
  simp [recoverStage1, h]

@[simp] theorem recoverImage_canonical (t : ImageType) (o : ImageObs) : canonical (recoverImage t o s).2 := by
  unfold recoverImage
  (repeat' split) <;> simp [h]

omit h in
@[simp] theorem failUnits_canonical (l : List Nat) {s : State} (h : canonical s) : canonical (failUnits l s) := by
  induction l generalizing s with
  | nil => exact h
  | cons d l ih => exact ih (by split <;> simp [h])

@[simp] theorem bootStart_canonical (obs : BootObs) : canonical (bootStart obs s) := by
  simp [bootStart, h]

end

/-! ## Commands whose meaning takes more than one of these operations -/

theorem execVddAonUp_canonical {s t : State} (h : canonical s) (ht : execVddAonUp s = .next t) : canonical t := by
  unfold execVddAonUp at ht
  split at ht <;> cases ht
  · exact chipReset_canonical
  · exact h

theorem execScratchpadConvert_canonical {s t : State} (h : canonical s) (ht : execScratchpadConvert s = .next t) : canonical t := by
  refine canonical_onRun h ht ?_
  split
  · exact (canonical_iff _).mpr (wf_zeroWay _ ((canonical_iff s).mp h))
  · exact h

theorem execScratchpadReturn_canonical {s t : State} (h : canonical s) (ht : execScratchpadReturn s = .next t) : canonical t := by
  refine canonical_onRun h ht ?_
  split
  · exact (canonical_iff _).mpr (wf_zeroWay _ ((canonical_iff s).mp h))
  · exact h

theorem execImageVerifyDone_canonical {i : ImageType} {o : ImageObs} {s t : State} (h : canonical s)
    (ht : execImageVerifyDone i o s = .next t) : canonical t := by
  refine canonical_onRun h ht ?_
  split
  · exact h
  · extract_lets s1
    have h1 : canonical s1 := by simp [s1, h]
    cases i with
    | stage1 =>
      dsimp only
      split <;> simp [h1]
    | controlCore => exact judgeControl_canonical h1 o
    | bridge =>
      dsimp only
      (repeat' split) <;> simp [h1]

theorem execRegisterWrite_canonical {target : RegTarget} {wide : Bool} {v : W64} {s t : State} (h : canonical s)
    (ht : execRegisterWrite target wide v s = .next t) : canonical t := by
  unfold execRegisterWrite at ht
  (repeat' split at ht) <;> cases ht <;> simp [h]

theorem execFwAbort_canonical {hd : MbxHdr} {s t : State} (h : canonical s) (ht : execFwAbort hd s = .next t) : canonical t := by
  refine canonical_onRun h ht ?_
  extract_lets n ok s1
  have h1 : canonical s1 := canonical_mbxStart h fun y hy => canonical_of_keeps (tryDo_keeps _ _ _ fun z => by split <;> simp) hy
  split
  · exact abortTrial_canonical h1 hd
  · exact h1

theorem execRecoveryLoad_canonical {hd : MbxHdr} {imageType : W16} {len : W32} {addr : W64} {got : Option ImageObs} {s t : State}
    (h : canonical s) (ht : execRecoveryLoad hd imageType len addr got s = .next t) : canonical t := by
  refine canonical_onRun h ht (canonical_mbxStart h fun y hy => ?_)
  (repeat' split) <;> simp [hy]

theorem execDatagramData_canonical {l : Fin 32} {pk : DataPkt} {s t : State} (h : canonical s)
    (ht : execDatagramData l pk s = .next t) : canonical t := by
  refine canonical_onRun h ht (canonical_onPort h fun y hy => ?_)
  dsimp only
  (repeat' split) <;> simp [hy]

theorem execQpContextFetched_canonical {n : Nat} {s t : State} (h : canonical s) (ht : execQpContextFetched n s = .next t) :
    canonical t := by
  refine canonical_onRun h ht ?_
  split
  · exact h
  next q _ =>
    split
    · exact h
    · extract_lets place
      have hp : ∀ s1, place = some s1 → canonical s1 := by
        intro s1 hs
        simp only [place] at hs
        split at hs
        · cases hs
          exact h
        · obtain ⟨v, -, rfl⟩ := Option.map_eq_some_iff.mp hs
          simp [h]
      clear_value place
      cases place with
      | none => exact h
      | some s1 => simp [hp s1 rfl]

/-! ## Every command -/

/-- Every command keeps the memory canonical: one that may write it by the operations that its meaning runs, any other because it does not touch it (`touches`). -/
theorem exec_canonical {c : Instr} {s t : State} (h : canonical s) (ht : exec c s = .next t) : canonical t := by
  cases c with
  | vddAonUp => exact execVddAonUp_canonical h ht
  | scratchpadConvert => exact execScratchpadConvert_canonical h ht
  | scratchpadReturn => exact execScratchpadReturn_canonical h ht
  | imageVerifyDone => exact execImageVerifyDone_canonical h ht
  | registerWrite => exact execRegisterWrite_canonical h ht
  | fwAbort => exact execFwAbort_canonical h ht
  | recoveryLoad => exact execRecoveryLoad_canonical h ht
  | datagramData => exact execDatagramData_canonical h ht
  | qpContextFetched => exact execQpContextFetched_canonical h ht
  | roceSend | roceSendWithImmediate | roceSendWithInvalidate | roceRdmaWrite | roceRdmaReadRequest =>
    dsimp only [exec] at ht
    exact canonical_onRun h ht (canonical_onPort h fun _ hy => roceIn_canonical hy _ _)
  | roceAck | roceReadResponse | roceNak | roceCnp =>
    dsimp only [exec] at ht
    exact canonical_onRun h ht (qpPacket_canonical h _ _)
  | pwrgoodDeassert | resetNAssert | pwrfailNAssert | pwrfailStableDeassert | perstAssert | sysrefLost | refclkLost | vddAonDown =>
    dsimp only [exec] at ht
    exact canonical_onAon h ht (by simp [h])
  | inputLatchRelease | chipResetExit =>
    dsimp only [exec] at ht
    refine canonical_onAon h ht ?_
    dsimp only
    (repeat' split) <;> simp [h]
  | tempSample | domainSwitchOffRequest | xtsEncrypt | xtsDecrypt | xtsReencrypt | gcmOpen | gcmData | gcmClose | rawEncrypt | rawDecrypt =>
    dsimp only [exec] at ht
    exact canonical_onLive h ht (by simp [h])
  | resetHoldOffExpiry | vaultFlushDone | errorRepeatResult | handlerTimeout =>
    dsimp only [exec] at ht
    refine canonical_onLive h ht ?_
    (repeat' split) <;> simp [h]
  | errorDetected | keySlotFill =>
    dsimp only [exec] at ht
    refine canonical_onLive h ht ?_
    dsimp only
    (repeat' split) <;> simp [h]
  | portDomainJudge | fwHeartbeatGap | hotReset | functionLevelReset | dataLinkDown | unitSelfTestDone =>
    dsimp only [exec] at ht
    exact canonical_onRun h ht (by simp [h])
  | fwWindowExpiry | configurationRequest | batchDone | udmaRunComplete =>
    dsimp only [exec] at ht
    refine canonical_onRun h ht ?_
    (repeat' split) <;> simp [h]
  | udmaOwnerRelease n p =>
    dsimp only [exec] at ht
    exact canonical_onWriter (who := .port p) h ht (by simp [h])
  | udmaEnableClear | udmaCqHeadWrite =>
    dsimp only [exec] at ht
    exact canonical_onWriter h ht (by simp [h])
  | udmaStart =>
    dsimp only [exec] at ht
    refine canonical_onWriter h ht ?_
    split <;> simp [h]
  | _ =>
    have hk := exec_keeps ht
    dsimp only [touches] at hk
    exact (canonical_iff t).mpr (kept_onchip hk rfl ▸ (canonical_iff s).mp h)

end Sys2Proof.Machine
end

/-! PROOFS of O7 (R86 to R88, R467; log entries 3, 4 and 60): what every run from reset keeps. -/
section
namespace Sys2Proof.Machine
open Sys2Proof

/-! ## One step -/

theorem step_pending {s t : State} (h : step s = .next t) : t.pending = s.pending.drop 1 := by
  cases hq : s.pending with
  | nil =>
    rw [step_empty hq] at h
    cases h
    exact hq
  | cons c rest =>
    rw [step_front hq] at h
    exact exec_pending h

theorem step_canonical {s t : State} (h : step s = .next t) (hs : canonical s) : canonical t := by
  cases hq : s.pending with
  | nil =>
    rw [step_empty hq] at h
    cases h
    exact hs
  | cons c rest =>
    rw [step_front hq] at h
    have hr : canonical { s with pending := rest } := (canonical_iff _).mpr ((canonical_iff s).mp hs)
    exact exec_canonical hr h

/-! ## Runs -/

theorem leadsTo_pending {n : Nat} {s t : State} (h : leadsTo n s t) : t.pending = s.pending.drop n := by
  induction n generalizing s with
  | zero => exact congrArg State.pending h
  | succ n ih =>
    obtain ⟨u, hu, hr⟩ := h
    rw [ih hr, step_pending hu, List.drop_drop, Nat.add_comm]

/-- What is reflexive and transitive and holds over every step holds over every run. -/
theorem leadsTo_of_step {R : State → State → Prop} (hrefl : ∀ s, R s s) (htrans : ∀ s u t, R s u → R u t → R s t)
    (hstep : ∀ s t, step s = .next t → R s t) {n : Nat} {s t : State} (h : leadsTo n s t) : R s t := by
  induction n generalizing s with
  | zero =>
    cases h
    exact hrefl t
  | succ n ih =>
    obtain ⟨u, hu, hr⟩ := h
    exact htrans s u t (hstep s u hu) (ih hr)

theorem leadsTo_fusesGrow {n : Nat} {s t : State} (h : leadsTo n s t) : fusesGrow s.fuses t.fuses :=
  leadsTo_of_step (R := fun s t => fusesGrow s.fuses t.fuses) (fun _ => fusesGrow_refl _) (fun _ _ _ => fusesGrow_trans)
    (fun _ _ => step_fusesGrow) h

theorem leadsTo_canonical {n : Nat} {s t : State} (h : leadsTo n s t) (hs : canonical s) : canonical t :=
  leadsTo_of_step (R := fun s t => canonical s → canonical t) (fun _ => id) (fun _ _ _ hsu hut => hut ∘ hsu)
    (fun _ _ => step_canonical) h hs

/-! ## The obligation -/

/-- Settles O7: reset meets the invariants as it stands, and each of them goes over from step to step. -/
theorem resetHoldsTheInvariants : Obligations.ResetHoldsTheInvariants := by
  unfold Obligations.ResetHoldsTheInvariants
  refine ⟨⟨rfl, rfl, rfl, Mem.wf_nil⟩, fun l n t h => ?_⟩
  have hf := leadsTo_fusesGrow h
  have hm := leadsTo_canonical h ((canonical_iff _).mpr Mem.wf_nil)
  exact ⟨leadsTo_pending h, hf, (canonical_iff t).mp hm⟩

end Sys2Proof.Machine
end

/-! PROOFS of O55, O10 and O59 (R114 to R119): which commands may change the semaphores, and what reads, releases, renewals and expiries do to them. -/
section
namespace Sys2Proof.Machine
open Sys2Proof

/-- Settles O55: a command other than the listed ones does not touch the semaphores (`touches`), and leaves what it does not touch as it was (`exec_keeps`). -/
theorem semaphoresChangeOnlyBy : Obligations.SemaphoresChangeOnlyBy := by
  unfold Obligations.SemaphoresChangeOnlyBy
  intro c s t h
  cases c with
  | pwrgoodDeassert | resetNAssert | chipResetExit | pwrfailNAssert | pwrfailStableDeassert | inputLatchRelease | perstAssert => trivial
  | domainSwitchOffRequest | portDomainJudge | refclkLost | sysrefLost | tempSample | hotReset | functionLevelReset | dataLinkDown => trivial
  | semRead | semReleaseWrite | semLeaseExpiry | registerWrite | registerRcRead | registerLowHalfRead => trivial
  | fwAbort | fwWindowExpiry | fwHeartbeatGap | batchDone | vaultFlushDone | errorDetected | errorRepeatResult | handlerTimeout
  | unitSelfTestDone | resetHoldOffExpiry | configurationRequest | vddAonUp | vddAonDown => trivial
  | _ =>
    have hk := exec_keeps h
    dsimp only [touches] at hk
    exact kept_sems hk rfl

/-! ## What a read of SEM_n returns (R115) -/

theorem semReg_toNat (s : State) (n : Nat) :
    (semReg s n).toNat = flag 0 (s.sem n).owner.isSome + 2 * ownerNum (s.sem n).owner + 65536 * (s.sem n).grants.toNat := by
  have hg := (s.sem n).grants.isLt
  rw [semReg, BitVec.toNat_ofNat]
  rcases (s.sem n).owner with _ | _ | _ <;> simp [flag, ownerNum] <;> omega

theorem semValue_toNat (s : State) (n : Nat) :
    ((semReg s n).setWidth 64).toNat = flag 0 (s.sem n).owner.isSome + 2 * ownerNum (s.sem n).owner + 65536 * (s.sem n).grants.toNat := by
  rw [BitVec.toNat_setWidth_of_le (by decide), semReg_toNat]

theorem semValue_locked (s : State) (n : Nat) : ((semReg s n).setWidth 64).getLsbD 0 = (s.sem n).owner.isSome := by
  rw [← BitVec.testBit_toNat, semValue_toNat]
  cases (s.sem n).owner <;> simp [flag, Nat.testBit_zero] <;> omega

theorem semValue_owner (s : State) (n : Nat) : ((semReg s n).setWidth 64).toNat / 2 % 4 = ownerNum (s.sem n).owner := by
  rw [semValue_toNat]
  rcases (s.sem n).owner with _ | _ | _ <;> simp [flag, ownerNum] <;> omega

theorem semValue_grants (s : State) (n : Nat) : ((semReg s n).setWidth 64).toNat / 65536 = (s.sem n).grants.toNat := by
  rw [semValue_toNat]
  rcases (s.sem n).owner with _ | _ | _ <;> simp [flag, ownerNum] <;> omega

/-! ## Grants (R116) -/

theorem sem_setSem_same (n : Nat) (m : Sem) (s : State) : State.sem { s with sems := Tbl.set s.sems n m } n = m :=
  Tbl.getD_set_same s.sems n m {}

theorem sem_setSem_other {n k : Nat} (m : Sem) (s : State) (h : k ≠ n) :
    State.sem { s with sems := Tbl.set s.sems n m } k = s.sem k := Tbl.getD_set_other s.sems n k m {} h

theorem renewLease_sems (p : Port) (s : State) : (renewLease p s).sems = s.sems := by
  simp [renewLease]

theorem grantSem_sem_same (n : Nat) (p : Port) (s : State) :
    (grantSem n p s).sem n = { s.sem n with owner := some p, grants := (s.sem n).grants + 1 } := by
  rw [grantSem, State.sem, renewLease_sems]
  exact sem_setSem_same n _ s

theorem grantSem_sem_other {n k : Nat} (p : Port) (s : State) (h : k ≠ n) : (grantSem n p s).sem k = s.sem k := by
  rw [grantSem, State.sem, renewLease_sems]
  exact sem_setSem_other _ s h

theorem grantSem_out (n : Nat) (p : Port) (s : State) : (grantSem n p s).out = s.out := by
  simp [grantSem, renewLease]

theorem grantSem_leaseEnd (n : Nat) (p : Port) (s : State) :
    ((grantSem n p s).port p).leaseEnd = some (s.time.toNat + leaseTime (s.port p)) := by
  cases p <;> rfl

theorem semReadOne_free {n : Nat} {s : State} (p : Port) (h : (s.sem n).owner = none) :
    semReadOne n p s = grantSem n p (emit (.readData p (0x1000 + 4 * n) ((semReg s n).setWidth 64)) s) := if_pos h

theorem semReadOne_held {n : Nat} {q : Port} {s : State} (p : Port) (h : (s.sem n).owner = some q) :
    semReadOne n p s = emit (.readData p (0x1000 + 4 * n) ((semReg s n).setWidth 64)) s := if_neg (by simp [h])

theorem semReadOne_free_sem {n : Nat} {s : State} (p : Port) (h : (s.sem n).owner = none) :
    (semReadOne n p s).sem n = { s.sem n with owner := some p, grants := (s.sem n).grants + 1 } := by
  rw [semReadOne_free p h, grantSem_sem_same]
  rfl

theorem semReadOne_sem_other {n k : Nat} (p : Port) (s : State) (h : k ≠ n) : (semReadOne n p s).sem k = s.sem k := by
  unfold semReadOne
  split
  · exact grantSem_sem_other p _ h
  · rfl

/-! ## Reads by awake ports -/

theorem execSemRead_awake {n : Fin 64} {p : Port} {s : State} (hp : s.phase = .run) (hd : (s.port p).caps.d3hot = false) :
    execSemRead n (.one p) s = .next (semReadOne n p s) := by
  have hr : readersAsleep (.one p) s = s := if_neg (by simp [hd])
  rw [execSemRead, onRun_eq hp, hr]
  exact congrArg _ (if_neg (by simp [hd]))

/-- The winner of a tie reads first and is granted the semaphore, and its win is noted (R116). -/
def tieRead (n : Nat) (w : Port) (s : State) : State :=
  semReadOne n (otherPort w) (semReadOne n w { s with sems := Tbl.set s.sems n { s.sem n with lastTie := some w } })

theorem execSemRead_tie {n : Fin 64} {s : State} (hp : s.phase = .run) (ha : (s.port .a).caps.d3hot = false)
    (hb : (s.port .b).caps.d3hot = false) (ho : (s.sem n).owner = none) :
    execSemRead n .both s = .next (tieRead n (tieWinner (s.sem n).lastTie) s) := by
  have hr : readersAsleep .both s = s := by simp [readersAsleep, ha, hb]
  have hw : readersAwake .both s = .both := by simp [readersAwake, ha, hb]
  rw [execSemRead, onRun_eq hp, hr]
  simp only [hw]
  exact congrArg _ (if_pos ho)

theorem tieRead_sem_same {n : Nat} {w : Port} {s : State} (ho : (s.sem n).owner = none) :
    (tieRead n w s).sem n = { owner := some w, grants := (s.sem n).grants + 1, lastTie := some w } := by
  have hs := sem_setSem_same n { s.sem n with lastTie := some w } s
  have hg := semReadOne_free_sem w ((congrArg Sem.owner hs).trans ho)
  rw [hs] at hg
  rw [tieRead, semReadOne_held (otherPort w) (congrArg Sem.owner hg)]
  exact hg

theorem tieRead_sem_other {n k : Nat} {w : Port} {s : State} (h : k ≠ n) : (tieRead n w s).sem k = s.sem k := by
  rw [tieRead, semReadOne_sem_other _ _ h, semReadOne_sem_other _ _ h, sem_setSem_other _ _ h]

theorem tieRead_chans (n : Nat) (w : Port) (s : State) : (tieRead n w s).chans = s.chans :=
  kept_chans (m := butSems) (by simp [tieRead]) rfl

/-! ## Releases, renewals and expiries (R117 to R119) -/

theorem execSemReleaseWrite_owner {p : Port} {n : Fin 64} {v : W32} {s : State} (hp : s.phase = .run)
    (hd : (s.port p).caps.d3hot = false) (ho : (s.sem n.val).owner = some p) (hv : v[0] = false) :
    execSemReleaseWrite p n v s = .next (settleLease p { s with sems := Tbl.set s.sems n.val { s.sem n.val with owner := none } }) := by
  rw [execSemReleaseWrite, onMem_lower_awake hp hd, if_pos ho, if_neg (by simp [BitVec.getLsbD_eq_getElem, hv])]

theorem execSemLeaseRenew_runs {p : Port} {e : Nat} {s : State} (hp : s.phase = .run) (hd : (s.port p).caps.d3hot = false)
    (he : (s.port p).leaseEnd = some e) (ht : s.time.toNat < e) : execSemLeaseRenew p s = .next (renewLease p s) := by
  rw [execSemLeaseRenew, onMem_lower_awake hp hd]
  simp only [he]
  rw [if_pos ht]

theorem execSemLeaseExpiry_ends {p : Port} {e : Nat} {s : State} (hp : s.phase = .run) (he : (s.port p).leaseEnd = some e) :
    execSemLeaseExpiry p s = .next (loseSems p .lease (reachTime e s)) := by
  rw [execSemLeaseExpiry, onRun_eq hp]
  simp only [he]

/-! ## The obligations -/

/-- Settles O10: each row takes the branch in which the semaphore or its lease changes. -/
theorem semaphoreCommandsComplete : Obligations.SemaphoreCommandsComplete := by
  unfold Obligations.SemaphoreCommandsComplete
  refine ⟨?read, ?tie, ?release, ?renew, ?expiry⟩
  case read =>
    intro n p s hp hd ho
    have hs := semReadOne_free_sem p ho
    exact ⟨_, execSemRead_awake hp hd, semReadOne_free p ho, congrArg Sem.owner hs, congrArg Sem.grants hs⟩
  case tie =>
    intro n s hp ha hb ho hl
    have hw : tieWinner (s.sem n).lastTie = .b := if_pos hl
    exact (execSemRead_tie hp ha hb ho).trans (by rw [hw]; rfl)
  case release => exact fun _ _ _ _ hp hd ho hv => execSemReleaseWrite_owner hp hd ho hv
  case renew => exact fun _ _ _ hp hd he ht => execSemLeaseRenew_runs hp hd he ht
  case expiry => exact fun _ _ _ hp he => execSemLeaseExpiry_ends hp he

/-- Settles O59: the fields of the value that is read are those of the semaphore before the read, and the grant changes that semaphore and its port's lease alone. -/
theorem semaphoreReadActsAsStated : Obligations.SemaphoreReadActsAsStated := by
  unfold Obligations.SemaphoreReadActsAsStated
  refine ⟨?free, ?held, ?tie, fun _ => rfl⟩
  case free =>
    intro n p s hp hd ho
    have hs := grantSem_sem_same n p (emit (.readData p (0x1000 + 4 * n) ((semReg s n).setWidth 64)) s)
    refine ⟨_, _, (execSemRead_awake hp hd).trans (congrArg _ (semReadOne_free p ho)), grantSem_out _ _ _, ?_, ?_, semValue_grants s n,
      congrArg Sem.owner hs, congrArg Sem.grants hs, grantSem_leaseEnd _ _ _⟩
    · rw [semValue_locked, ho]
      rfl
    · rw [semValue_owner, ho]
      rfl
  case held =>
    intro n p q s hp hd ho
    refine ⟨_, (execSemRead_awake hp hd).trans (congrArg _ (semReadOne_held p ho)), ?_, ?_⟩
    · rw [semValue_locked, ho]
      rfl
    · rw [semValue_owner, ho]
  case tie =>
    intro n s hp ha hb ho
    have hs := tieRead_sem_same (w := tieWinner (s.sem n).lastTie) ho
    exact ⟨_, execSemRead_tie hp ha hb ho, congrArg Sem.owner hs, (congrArg Sem.lastTie hs).trans (congrArg Sem.owner hs).symm,
      fun _ hm => tieRead_sem_other hm, tieRead_chans _ _ _⟩

end Sys2Proof.Machine
end

/-! PROOFS of O20 (R130, R131, R135, R137, R496, R497): the session and chip commands of the mailbox, with the lemmas about mailbox commands that the other families use. -/
section
namespace Sys2Proof.Machine
open Sys2Proof

/-! ## A mailbox command that nothing holds back -/

section
variable {info : CmdInfo} {h : MbxHdr} {fs : List BodyField} {c : MCmd} {body : State → Option MReply × State} {s u : State}
  (hs : startsNow info h fs c s)
include hs

theorem onRun_mbxStart_answers {r : MReply} (hb : body (taken c s) = (some r, u)) :
    onRun s (mbxStart info h fs body) = .next (mbxAnswer c r u) := by
  rw [onRun_eq hs.1, mbxStart_answers hs hb]

theorem onRun_mbxStart_goes_on (hb : body (taken c s) = (none, u)) :
    onRun s (mbxStart info h fs body) = .next (underWay c info u) := by
  rw [onRun_eq hs.1, mbxStart_goes_on hs hb]

/-- A body that answers or goes on by a condition. -/
theorem onRun_mbxStart_ite {b : Bool} {r : MReply} {w : State} (hb : body (taken c s) = if b then (some r, u) else (none, w)) :
    onRun s (mbxStart info h fs body) = .next (if b then mbxAnswer c r u else underWay c info w) := by
  cases b with
  | true => exact onRun_mbxStart_answers hs hb
  | false => exact onRun_mbxStart_goes_on hs hb

end

theorem firstFail_cons_none {bad : Bool} {r : MReply} {t : List (Bool × MReply)} (hb : bad = false) (ht : firstFail t = none) :
    firstFail ((bad, r) :: t) = none := (if_neg (Bool.eq_false_iff.mp hb)).trans ht

theorem tryDo_none {r : Option MReply} {f : State → State} {s : State} (hr : r = none) : tryDo r f s = (some (replyOk []), f s) := by
  rw [hr]
  rfl

theorem decide_lt_false {a b : Nat} (h : b ≤ a) : decide (a < b) = false := decide_eq_false (not_lt.mpr h)

theorem not_has_of_find {α : Type} {t : Tbl α} {n : Nat} {a : α} (h : Tbl.find t n = some a) : (!Tbl.has t n) = false := by
  rw [Tbl.has, h]
  rfl

/-! ## MAILBOX_HELLO (R130, R131) -/

/-- A HELLO of version 1 with no other request outstanding and a common version opens the session. -/
theorem helloRun_opens {h : MbxHdr} {minV maxV n : Nat} {s : State} (hv : h.version = 1) (ho : othersOut h s = 0)
    (hn : chooseVersion s minV maxV = some n) : helloRun h minV maxV s = (replyOk (helloBody n (draw s).1 s),
      (draw s).2.modPort h.port fun r => { r with session := some n, renegotiate := false }) := by
  rw [helloRun, if_neg (not_not.mpr hv), if_neg (not_not.mpr ho), hn]

theorem execMailboxHello_answers {h : MbxHdr} {minV maxV : Byte} {hostId : W64} {c : MCmd} {s : State} (hp : s.phase = .run)
    (hf : mbxFind 1 h [.num 0 1 minV.toNat, .num 1 1 maxV.toNat, .num 4 8 hostId.toNat] s = some c) (ht : ringTurn c s = true) :
    execMailboxHello h minV maxV hostId s = .next (mbxAnswer c (helloRun h minV.toNat maxV.toNat (taken c s)).1
      (helloRun h minV.toNat maxV.toNat (taken c s)).2) := by
  rw [execMailboxHello, onRun_eq hp]
  simp only [hf]
  rw [if_neg (by simp [ht])]
  rfl

/-! ## The obligation -/

/-- Settles O20: a command that nothing holds back runs its body on the state in which its request has been taken, and its conditions pass that body's checks. -/
theorem sessionCommandsComplete : Obligations.SessionCommandsComplete := by
  unfold Obligations.SessionCommandsComplete
  refine ⟨?hello, ?info, ?bootStatus, ?enclosure, ?portConfig, ?alarms, ?ack, ?errors⟩
  case hello =>
    intro h minV maxV hostId n c s hp hf ht hv ho hn
    exact (execMailboxHello_answers hp hf ht).trans (by rw [helloRun_opens hv ho hn])
  case info => exact fun _ _ _ hs => onRun_mbxStart_answers hs rfl
  case bootStatus => exact fun _ _ _ hs => onRun_mbxStart_answers hs rfl
  case enclosure =>
    intro h enclosure c s hs he hm
    exact onRun_mbxStart_answers hs (tryDo_none (firstFail_cons_none (decide_lt_false he) (firstFail_cons_none hm rfl)))
  case portConfig =>
    intro h mode c s hs hm
    exact onRun_mbxStart_answers hs (tryDo_none (firstFail_cons_none rfl (firstFail_cons_none (decide_lt_false hm) rfl)))
  case alarms =>
    intro h first count c s hs h0 hc hl
    exact onRun_mbxStart_answers hs (congrArg (some · , _) (if_neg (not_or.mpr ⟨h0, not_or.mpr ⟨not_lt.mpr hc, not_lt.mpr hl⟩⟩)))
  case ack =>
    intro h kind seen c s hs hk
    exact onRun_mbxStart_answers hs (tryDo_none (firstFail_cons_none (decide_eq_false (not_not.mpr hk)) rfl))
  case errors =>
    intro h first max_ c s hs h0 hm
    exact onRun_mbxStart_answers hs (if_neg (not_or.mpr ⟨h0, not_lt.mpr hm⟩))

end Sys2Proof.Machine
end

/-! PROOFS of O33 (R141, R446, R448, R449, R454; log entries 9 and 34): keys that are loaded, rotated, destroyed, reported and filled into slots. -/
section
namespace Sys2Proof.Machine
open Sys2Proof

/-! ## What a wrapped key is answered with (R446, R449) -/

/-- The run of a wrapped key whose wrap opens to `u`: AUTH_FAILED where it does not open, INVALID_FIELD where its contents are not admitted, else the key is taken. -/
def wrapRun (u : Option (List Byte × Nat)) (bad : List Byte → Bool) (take : List Byte → Nat → State) (s : State) : Option MReply × State :=
  match u with
  | none => (some (replyErr .authFailed 0), s)
  | some x => if bad x.1 then (some (fieldAt 8), s) else (some (replyOk []), take x.1 x.2)

/-- The state that the answer to such a run leaves. -/
def wrapAnswered (c : MCmd) (u : Option (List Byte × Nat)) (bad : List Byte → Bool) (take : List Byte → Nat → State) (s : State) : State :=
  match u with
  | none => mbxAnswer c (replyErr .authFailed 0) s
  | some x => if bad x.1 then mbxAnswer c (fieldAt 8) s else mbxAnswer c (replyOk []) (take x.1 x.2)

theorem onRun_mbxStart_wrapRun {info : CmdInfo} {h : MbxHdr} {fs : List BodyField} {c : MCmd} {body : State → Option MReply × State}
    {u : Option (List Byte × Nat)} {bad : List Byte → Bool} {take : List Byte → Nat → State} {s : State}
    (hs : startsNow info h fs c s) (hb : body (taken c s) = wrapRun u bad take (taken c s)) :
    onRun s (mbxStart info h fs body) = .next (wrapAnswered c u bad take (taken c s)) := by
  cases u with
  | none => exact onRun_mbxStart_answers hs hb
  | some x =>
    by_cases hx : bad x.1 = true
    · exact (onRun_mbxStart_answers hs (hb.trans (if_pos hx))).trans (congrArg _ (if_pos hx).symm)
    · exact (onRun_mbxStart_answers hs (hb.trans (if_neg hx))).trans (congrArg _ (if_neg hx).symm)

theorem tenantIndex_ne_ktwk {i : Nat} (hi : i ≤ 1048575) : i ≠ ktwkIndex := by
  have : ktwkIndex = 0xFFFFFFFF := rfl
  omega

theorem keyIndexBad_tenant {i : Nat} (hi : i ≤ 1048575) : keyIndexBad i = false := by
  simp [keyIndexBad, hi]

section
variable {wrapped k : List Byte} {s : State} (hr : keysRefused s = false)
include hr

/-- KEY_LOAD of a free tenant index under a held KTWK (R449). -/
theorem keyLoad_free {index kind : Nat} (hi : index ≤ 1048575) (hk : kind ≤ 1) (hn : Tbl.has s.cipher.keys index = false)
    (hh : s.cipher.ktwk = some k) :
    keyLoad index kind wrapped s = wrapRun (unwrapAs k wrapped kind index) (plainBad kind)
      (fun plain lim => configGroup 255 0x12 (s.ciph fun c => { c with
        keys := Tbl.set c.keys index { cur := { wrapped := wrapped, kind := kind, limitLog2 := lim, kcv := kcvOf plain } } })) s := by
  simp only [keyLoad, keyIndexBad_tenant hi, hr, hn, hh, if_neg (not_lt.mpr hk), Bool.false_eq_true, if_false]
  cases unwrapAs k wrapped kind index <;> rfl

/-- KEY_LOAD of the KTWK while none is held (R446). -/
theorem ktwkLoad_free (hh : s.cipher.ktwk = none) :
    ktwkLoad wrapped s = wrapRun (unwrapAs zeroKey wrapped 3 ktwkIndex) (plainBad 3)
      (fun plain _ => recheckKeys (writeKtwk (plain.take 32) none s)) s := by
  simp only [ktwkLoad, hr, hh, Option.isSome_none, Bool.false_eq_true, if_false]
  cases unwrapAs zeroKey wrapped 3 ktwkIndex <;> rfl

/-- KEY_ROTATE of a held tenant index with room for another retired generation (R448, R449). -/
theorem keyRotate_held {index : Nat} {e : KeyEnt} (hi : index ≤ 1048575) (hh : s.cipher.ktwk = some k)
    (he : Tbl.find s.cipher.keys index = some e) (hl : e.retired.length < 255) (hc : retiredCount s < 1048576) :
    keyRotate index wrapped s = wrapRun (unwrapAs k wrapped e.cur.kind index)
      (fun plain => plainBad e.cur.kind plain || (e.cur :: e.retired).any fun g => g.kcv = kcvOf plain)
      (fun plain lim => rekeyed index s.repls (keyLimitAlarm (configGroup 255 0x12 (s.ciph fun c => { c with
        keys := Tbl.set c.keys index { e with
          cur := { wrapped := wrapped, kind := e.cur.kind, gen := e.cur.gen + 1, limitLog2 := lim, kcv := kcvOf plain, firstUnit := firstUnits s }
          retired := { e.cur with state := 5 } :: e.retired } })))) s := by
  have hroom : ¬(decide (255 ≤ e.retired.length) || decide (1048576 ≤ retiredCount s)) = true := by simp [hl, hc]
  simp only [keyRotate, keyIndexBad_tenant hi, hr, hh, he, if_neg hroom, Bool.false_eq_true, if_false]
  cases unwrapAs k wrapped e.cur.kind index <;> rfl

/-- KEY_ROTATE of the held KTWK (R446). -/
theorem ktwkRotate_held (hh : s.cipher.ktwk = some k) :
    ktwkRotate wrapped s = wrapRun (unwrapAs k wrapped 3 ktwkIndex)
      (fun plain => plainBad 3 plain || plain.take 32 == k)
      (fun plain _ => configGroup 255 0x12 (recheckKeys (rekeyTable k (plain.take 32) s))) s := by
  simp only [ktwkRotate, hr, hh, Bool.false_eq_true, if_false]
  cases unwrapAs k wrapped 3 ktwkIndex <;> rfl

end

/-! ## KEY_QUERY and slot fills (R448, R454) -/

theorem execKeyQuery_held {h : MbxHdr} {index : W32} {e : KeyEnt} {c : MCmd} {s : State}
    (hs : startsNow ⟨0x0604, 2, false, .other, false⟩ h [.num 0 4 index.toNat] c s) (hi : keyIndexBad index.toNat = false)
    (he : Tbl.find s.cipher.keys index.toNat = some e) : execKeyQuery h index s = .next (mbxAnswer c
      (replyOk (le8 e.cur.kind ++ le8 e.cur.state ++ zeros 2 ++ le64 e.cur.uses ++ le64 (genLimit e.cur))) (taken c s)) := by
  have ht : Tbl.find (taken c s).cipher.keys index.toNat = some e := he
  refine onRun_mbxStart_answers hs (congrArg (fun r => (some r, taken c s)) ((if_neg (Bool.eq_false_iff.mp hi)).trans ?_))
  simp only [ht]

theorem slotOf_of_cipher {s t : State} (h : t.cipher = s.cipher) (u : SlotUse) : slotOf u t = slotOf u s := by
  rw [slotOf, slotOf, h]

theorem victimSlot_of_cipher {s t : State} (h : t.cipher = s.cipher) : victimSlot t = victimSlot s := by
  unfold victimSlot slotPinned
  rw [h]

theorem cacheRead_cipher (region key : Nat) (s : State) : (cacheRead region key s).cipher = s.cipher :=
  kept_cipher (m := 0) (cacheRead_keeps region key s) rfl

section
variable {index gen n : Nat} {e : KeyEnt} {g : KeyGen} {s : State} (hp : s.phase = .run ∨ s.phase = .flushing)
  (he : Tbl.find s.cipher.keys index = some e) (hg : genOf e gen = some g) (hf : slotOf (.gen index gen) s = none)
  (hv : victimSlot s = some n)
include hp he hg hf hv

/-- The map cache reads the key's entry before the slot is chosen, and leaves the slots alone. -/
theorem execKeySlotFill_opens {key : List Byte} (hk : genPlain (cacheRead 5 index s) index g = some key) :
    execKeySlotFill index gen s = .next (retryWaits (fillSlot n { use := .gen index gen, gcmKind := decide (g.kind = 1), key := key }
      (cacheRead 5 index s))) := by
  have hc := cacheRead_cipher 5 index s
  rw [execKeySlotFill, onLive_eq hp]
  simp only [he, hg, slotOf_of_cipher hc, hf, victimSlot_of_cipher hc, hv, hk]

theorem execKeySlotFill_fails (hk : genPlain (cacheRead 5 index s) index g = none) :
    execKeySlotFill index gen s = .next (retryWaits (keyUnusable index gen 1 ((cacheRead 5 index s).ciph fun c =>
      { c with fillFails := satAdd 65535 c.fillFails 1 }))) := by
  have hc := cacheRead_cipher 5 index s
  rw [execKeySlotFill, onLive_eq hp]
  simp only [he, hg, slotOf_of_cipher hc, hf, victimSlot_of_cipher hc, hv, hk]

end

/-! ## The obligation -/

/-- Settles O33: the conditions pass the checks before the wrap, whose outcome is then the answer; a slot fill goes by what its wrap opens to. -/
theorem keyCommandsComplete : Obligations.KeyCommandsComplete := by
  unfold Obligations.KeyCommandsComplete
  refine ⟨?load, ?ktwkLoad, ?rotate, ?ktwkRotate, ?destroy, ?query, ?fill⟩
  case load =>
    intro h index kind wrapped k c s hs hi hr hk hn hh
    refine (onRun_mbxStart_wrapRun hs ((if_neg (tenantIndex_ne_ktwk hi)).trans (keyLoad_free (s := taken c s) hr hi hk hn hh))).trans (congrArg _ ?_)
    cases unwrapAs k wrapped kind index.toNat <;> rfl
  case ktwkLoad =>
    intro h wrapped c s hs hr hh
    refine (onRun_mbxStart_wrapRun hs (ktwkLoad_free hr hh)).trans (congrArg _ ?_)
    cases unwrapAs zeroKey wrapped 3 ktwkIndex <;> rfl
  case rotate =>
    intro h index wrapped k e c s hs hi hr hh he hl hc
    refine (onRun_mbxStart_wrapRun hs ((if_neg (tenantIndex_ne_ktwk hi)).trans (keyRotate_held (s := taken c s) hr hi hh he hl hc))).trans (congrArg _ ?_)
    cases unwrapAs k wrapped e.cur.kind index.toNat <;> rfl
  case ktwkRotate =>
    intro h wrapped k c s hs hr hh
    refine (onRun_mbxStart_wrapRun hs (ktwkRotate_held hr hh)).trans (congrArg _ ?_)
    cases unwrapAs k wrapped 3 ktwkIndex <;> rfl
  case destroy =>
    intro h index c s hs hi hn hu
    have hh : (!Tbl.has (taken c s).cipher.keys index.toNat) = false := congrArg not hn
    exact onRun_mbxStart_answers hs (tryDo_none (firstFail_cons_none hi (firstFail_cons_none hh (firstFail_cons_none hu rfl))))
  case query => exact fun _ _ _ _ _ hs hi he => execKeyQuery_held hs hi he
  case fill =>
    intro index gen e g n s hp he hg hf hv
    cases hk : genPlain (cacheRead 5 index s) index g with
    | none => exact execKeySlotFill_fails hp he hg hf hv hk
    | some key => exact execKeySlotFill_opens hp he hg hf hv hk

end Sys2Proof.Machine
end

/-! PROOFS of O36 (R140, R160, R288 to R291, R306, R307, R311): pools and modules that are made, asked about, extended and ended, and Privet entries that are granted. -/
section
namespace Sys2Proof.Machine
open Sys2Proof

/-! ## Pools (R288, R289, R306) -/

/-- The limits of a pool's shape (R288). -/
theorem shapeLimits_pass {k m n a b c : Nat} {t : List (Bool × MReply)} (hk : 2 ≤ k) (hk' : k ≤ 32) (hm : 1 ≤ m) (hm' : m ≤ 4)
    (hkm : k + m ≤ 36) (hd : k + m + spareDepth n ≤ n) (ht : firstFail t = none) : firstFail (shapeLimits k m n a b c ++ t) = none := by
  refine firstFail_cons_none ?_ (firstFail_cons_none ?_ (firstFail_cons_none (decide_lt_false hd) ht))
  · rw [decide_lt_false hk, decide_lt_false hk', Bool.or_false]
  · rw [decide_lt_false hm, decide_lt_false hm', decide_lt_false hkm, Bool.or_false, Bool.or_false]

theorem execPoolCreate_makes {h : MbxHdr} {pool k m : Byte} {map : BitVec 96} {c : MCmd} {s : State}
    (hs : startsNow ⟨0x0301, 2, true, .other, false⟩ h [.num 0 1 pool.toNat, .num 1 1 k.toNat, .num 2 1 m.toNat, .num 4 12 map.toNat] c s)
    (hf : firstFail ((decide (7 < pool.toNat), limitAt 0) :: shapeLimits k.toNat m.toNat (mapModules map).length 1 2 4 ++ [
      ((mapModules map).any fun n => !present s n, replyErr .notFound 0), ((mapModules map).any fun n => moduleState s n ≠ 1, replyErr .inUse 0),
      (Tbl.has s.pools pool.toNat, replyErr .existsAlready 0)]) = none) :
    execPoolCreate h pool k m map s = .next (underWay c ⟨0x0301, 2, true, .other, false⟩
      (createPool pool.toNat k.toNat m.toNat (mapModules map) (taken c s))) := by
  refine onRun_mbxStart_goes_on hs ?_
  change firstFail (_ :: shapeLimits _ _ _ _ _ _ ++ [((mapModules map).any fun n => !present (taken c s) n, _),
    ((mapModules map).any fun n => moduleState (taken c s) n ≠ 1, _), (Tbl.has (taken c s).pools _, _)]) = none at hf
  simp only [hf]

/-- Modules in state 1 are free: none of them is absent (R306). -/
theorem moduleState_any_absent {mods : List Nat} {s : State} (hm : (mods.any fun n => moduleState s n ≠ 1) = false) :
    (mods.any fun n => moduleState s n = 0) = false := by
  simp only [List.any_eq_false, decide_eq_true_eq, not_not] at hm ⊢
  intro n hn
  rw [hm n hn]
  exact one_ne_zero

section
variable {h : MbxHdr} {pool : Byte} {p : Pool} {c : MCmd} {s : State} (hl : pool.toNat ≤ 7) (hp : Tbl.find s.pools pool.toNat = some p)
include hl hp

theorem execPoolDelete_empty (hs : startsNow ⟨0x0302, 2, true, .other, false⟩ h [.num 0 1 pool.toNat] c s)
    (hn : (s.ns.any fun e => e.2.pool = pool.toNat) = false) :
    execPoolDelete h pool s = .next (mbxAnswer c (replyOk []) (kamAlarms (configGroup pool.toNat 0x14 (superWrite pool.toNat
      (((poolMembers p).foldl (fun s n => s.modMod n (releaseMod pool.toNat)) (taken c s)).modPool pool.toNat fun x =>
        { x with deleting := true, offline := false }))))) := by
  have hf : Tbl.find (taken c s).pools pool.toNat = some p := hp
  refine onRun_mbxStart_answers hs ((tryDo_none (firstFail_cons_none (decide_lt_false hl) (firstFail_cons_none (not_has_of_find hf)
    (firstFail_cons_none hn rfl)))).trans ?_)
  simp only [hf]

theorem execPoolQuery_known (hs : startsNow ⟨0x0303, 2, false, .other, false⟩ h [.num 0 1 pool.toNat] c s) :
    execPoolQuery h pool s = .next (mbxAnswer c (replyOk (le8 p.cur.k ++ le8 p.cur.m
      ++ le8 (poolState s p) ++ zeros 1 ++ le32 p.lost ++ (exposedCounts p).flatMap le32 ++ le64 p.cur.capacity ++ le64 (poolUsed p)))
      (taken c s)) := by
  have hf : Tbl.find (taken c s).pools pool.toNat = some p := hp
  refine onRun_mbxStart_answers hs (congrArg (fun r => (some r, taken c s)) ((if_neg (not_lt.mpr hl)).trans ?_))
  simp only [hf]
  rfl

/-- POOL_MODULE_ADD of free modules, no more of them than failed entries that wait for one (R306). -/
theorem execPoolModuleAdd_replaces {map : BitVec 96}
    (hs : startsNow ⟨0x0304, 2, true, .other, false⟩ h [.num 0 1 pool.toNat, .num 4 12 map.toNat] c s)
    (ho : (mapModules map).length ≤ openFails p) (hm : ((mapModules map).any fun n => moduleState s n ≠ 1) = false) :
    execPoolModuleAdd h pool map s = .next (mbxAnswer c (replyOk []) (settleFails pool.toNat (configGroup pool.toNat 0x14
      (superWrite pool.toNat ((mapModules map).foldl (fun s m => kamSend m (.claim p.ownerGen true) (s.modMod m fun x => { x with returned := false }))
        ((taken c s).modPool pool.toNat fun _ => recount (keepBits p (replaceMods (mapModules map) p)))))))) := by
  have hf : Tbl.find (taken c s).pools pool.toNat = some p := hp
  have h0 : ((mapModules map).any fun n => moduleState (taken c s) n = 0) = false := moduleState_any_absent hm
  refine onRun_mbxStart_answers hs ((tryDo_none (firstFail_cons_none (decide_lt_false hl) (firstFail_cons_none (not_has_of_find hf)
    (firstFail_cons_none ?_ (firstFail_cons_none h0 (firstFail_cons_none hm rfl)))))).trans ?_)
  · simp only [hf]
    exact decide_lt_false ho
  · simp only [hf]

end

/-! ## Modules (R160, R289, R290, R307, R311) -/

theorem execModuleRetire_free {h : MbxHdr} {module : Byte} {c : MCmd} {s : State}
    (hs : startsNow ⟨0x0307, 2, true, .other, false⟩ h [.num 0 1 module.toNat] c s) (hl : module.toNat ≤ 95)
    (hm : moduleState s module.toNat = 1) : execModuleRetire h module s = .next (mbxAnswer c (replyOk []) (configGroup 255 0x14
      ((taken c s).modMod module.toNat fun m => { m with
        stand := .retired, retiredSerial := match m.descr with | some d => d.serial | none => (s.kport module.toNat).serial }))) := by
  have hm' : moduleState (taken c s) module.toNat = 1 := hm
  refine onRun_mbxStart_answers hs ((if_neg (not_lt.mpr hl)).trans ?_)
  generalize moduleState (taken c s) module.toNat = m at hm' ⊢
  subst hm'
  rfl

theorem execMemberFailed_unreachable {module : Fin 96} {pool : Nat} {p : Pool} {s : State} (hp : s.phase = .run)
    (hq : poolOf s module = some pool) (hf : Tbl.find s.pools pool = some p) (ho : p.owned = true)
    (hn : (p.failed.any fun f => f.module = module.val && (f.state = 1 || f.state = 2 || (f.state = 4 && f.replacement ≠ some module.val))) = false)
    (hr : reachable s module = false) : execMemberFailed module s = .next (declareFailed module 1 s) := by
  rw [execMemberFailed, onRun_eq hp]
  simp only [hq, hf]
  exact congrArg _ ((if_neg (Bool.eq_false_iff.mp (Bool.or_eq_false_iff.mpr ⟨hn, by simp [ho]⟩))).trans (if_pos (by simp [hr])))

/-! ## Privet entries (R160) -/

theorem execPrivetLockGrant_grants {n : Nat} {e : Privet} {s : State} (hp : s.phase = .run) (he : Tbl.find s.host.privet n = some e)
    (hg : e.granted = false) (hf : privetFree s.host.privet n e = true) (hm : entryMay n s = true) :
    execPrivetLockGrant n s = .next (
      match e.owner with
      | some id => State.modCmd { s with host := { s.host with privet := Tbl.set s.host.privet n { e with granted := true } } } id
          fun c => { c with stage := if c.stage = .lockWait then .running else c.stage }
      | none => runJob n { s with host := { s.host with privet := Tbl.set s.host.privet n { e with granted := true } } }) := by
  rw [execPrivetLockGrant, onRun_eq hp]
  simp only [he]
  exact congrArg _ (if_neg (by simp [hg, hf, hm]))

/-! ## The obligation -/

/-- Settles O36: the conditions pass each command's checks; the end of a trim goes by the pool that its module has left. -/
theorem poolCommandsComplete : Obligations.PoolCommandsComplete := by
  unfold Obligations.PoolCommandsComplete
  refine ⟨?create, ?delete, ?trim, ?query, ?add, ?moduleQuery, ?retire, ?failed, ?grant⟩
  case create =>
    intro h pool k m map c s hs hp hk hk' hm hm' hkm hd hpres hfree hnew
    exact execPoolCreate_makes hs (firstFail_cons_none (decide_lt_false hp) (shapeLimits_pass hk hk' hm hm' hkm hd
      (firstFail_cons_none hpres (firstFail_cons_none hfree (firstFail_cons_none hnew rfl)))))
  case delete => exact fun _ _ _ _ _ hs hl hp hn => execPoolDelete_empty hl hp hs hn
  case trim =>
    intro module s hp hr
    refine (onRun_eq hp).trans (congrArg _ ((if_pos hr).trans ?_))
    dsimp only
    cases (s.mod module).left with
    | none => rfl
    | some pool =>
      cases hq : Tbl.find ((trimModule module s).modMod module fun m => { m with stand := .free, left := none }).pools pool with
      | none => simp only [Option.bind_some, hq, Option.map_none]
      | some p =>
        simp only [Option.bind_some, hq, Option.map_some]
        cases p.deleting <;> rfl
  case query => exact fun _ _ _ _ _ hs hl hp => execPoolQuery_known hl hp hs
  case add => exact fun _ _ _ _ _ _ hs hl hp ho hm => execPoolModuleAdd_replaces hl hp hs ho hm
  case moduleQuery =>
    intro h module c s hs hl
    exact onRun_mbxStart_answers hs (congrArg (fun r => (some r, taken c s)) (if_neg (not_lt.mpr hl)))
  case retire => exact fun _ _ _ _ hs hl hm => execModuleRetire_free hs hl hm
  case failed => exact fun _ _ _ _ hp hq hf ho hn hr => execMemberFailed_unreachable hp hq hf ho hn hr
  case grant => exact fun _ _ _ hp he hg hf hm => execPrivetLockGrant_grants hp he hg hf hm

end Sys2Proof.Machine
end

/-! PROOFS of O38 (R141, R152, R153, R210, R239, R418, R419, R421, R422, R450; log entries 1, 47 and 232): volumes, snapshots and clones that are made, changed and removed. -/
section
namespace Sys2Proof.Machine
open Sys2Proof

/-! ## Volumes (R152, R210) -/

section
variable {h : MbxHdr} {nsid : W32} {c : MCmd} {v : Ns} {s : State} (hb : nsidBad nsid.toNat = false)
  (hv : Tbl.find s.ns nsid.toNat = some v)
include hb hv

theorem execVolumeDelete_deletes (hs : startsNow ⟨0x0402, 2, true, .other, false⟩ h [.num 0 4 nsid.toNat] c s)
    (hr : (replOf nsid.toNat s).isSome = false) :
    execVolumeDelete h nsid s = .next (mbxAnswer c (replyOk []) (deleteVolume nsid.toNat v (taken c s))) := by
  have hf : Tbl.find (taken c s).ns nsid.toNat = some v := hv
  refine onRun_mbxStart_answers hs ((tryDo_none (firstFail_cons_none hb (firstFail_cons_none (not_has_of_find hf)
    (firstFail_cons_none hr rfl)))).trans ?_)
  simp only [hf]

theorem execVolumeQuery_answers (hs : startsNow ⟨0x0404, 2, false, .other, false⟩ h [.num 0 4 nsid.toNat] c s) :
    execVolumeQuery h nsid s = .next (mbxAnswer c (replyOk (le16 v.slice ++ le8 v.pool ++ le8 (draw (taken c s)).1 ++ le64 v.size
      ++ le64 (usedLogical s nsid.toNat v) ++ le64 (usedPhysical s nsid.toNat) ++ le32 (poisonRanges nsid.toNat s) ++ zeros 4))
      (draw (taken c s)).2) := by
  have hf : Tbl.find (taken c s).ns nsid.toNat = some v := hv
  refine onRun_mbxStart_answers hs ((if_neg (Bool.eq_false_iff.mp hb)).trans ?_)
  simp only [hf]
  rfl

end

/-! ## Sizes (R153, R239) -/

/-- The Privet entry that a shrink asks for. -/
def shrinkLock (n size : Nat) (v : Ns) (s : State) : Nat × Bool × State :=
  lockJob n (size / blockBytes v) (nsBlocks v - 1) v.slice (.shrink n size) (s.modNs n fun v => { v with shrinkTo := some size })

/-- A pool whose records this head writes is not the other head's. -/
theorem here_not_far {pool : Nat} {s : State} (h : (ownsPool s pool || !peerPresent s) = true) :
    (!ownsPool s pool && peerPresent s) = false := by
  rw [← Bool.not_not (peerPresent s), ← Bool.not_or, h]
  rfl

section
variable {n size : Nat} {v : Ns} {s : State} (hv : Tbl.find s.ns n = some v)
include hv

theorem resizeVolume_grows (hz : v.size ≤ size) : resizeVolume n size s =
    (some (replyOk []), tellNsChanged v.slice n (configGroup v.pool 0x10 (s.modNs n fun v => { v with size := size }))) := by
  simp only [resizeVolume, hv]
  exact if_pos hz

/-- A volume of a pool that the other head owns shrinks there (log entry 232). -/
theorem resizeVolume_shrinks_far (hz : size < v.size) (ho : ownsPool s v.pool = false) (hp : peerPresent s = true) : resizeVolume n size s =
    (none, configGroup v.pool 0x10 (s.modNs n fun v => { v with shrinkTo := some size })) := by
  simp only [resizeVolume, hv]
  exact (if_neg (not_le.mpr hz)).trans (if_pos (by simp [ho, hp]))

/-- A volume that shrinks on this head runs once its exclusive Privet entry is granted (R153). -/
theorem resizeVolume_shrinks_here (hz : size < v.size) (ho : (ownsPool s v.pool || !peerPresent s) = true) : resizeVolume n size s =
    if (shrinkLock n size v s).2.1 then (some (replyOk []), runJob (shrinkLock n size v s).1 (shrinkLock n size v s).2.2)
    else (none, (shrinkLock n size v s).2.2) := by
  simp only [resizeVolume, hv]
  exact (if_neg (not_le.mpr hz)).trans (if_neg (by rw [here_not_far ho]; decide))

end

/-! ## Snapshots and clones (R418, R419, R421, R422) -/

/-- The Privet entry that a cut asks for. -/
def cutLock (n : Nat) (v : Ns) (s : State) : Nat × Bool × State :=
  lockJob n 0 (nsBlocks v - 1) v.slice (.cut n .mailbox s.time.toNat) s

/-- The cut under the entry: its epoch and the state that it leaves. -/
def cutUnder (n : Nat) (r : Nat × Bool × State) : Nat × State :=
  cutSnapshot r.1 n false { r.2.2 with snaps := { r.2.2.snaps with jobs := Tbl.del r.2.2.snaps.jobs r.1 } }

/-- The checks of SNAPSHOT_CREATE pass for a known volume while views are left (R418). -/
theorem snapshotCreate_checks_pass {n : Nat} {v : Ns} {s : State} (hb : nsidBad n = false) (hv : Tbl.find s.ns n = some v)
    (hn : s.snaps.views.length < 1048576) (hw : (viewsOf s n).length < 16384) :
    firstFail [(nsidBad n, limitAt 0), (!Tbl.has s.ns n, replyErr .notFound 0),
      (decide (1048576 ≤ s.snaps.views.length) || decide (16384 ≤ (viewsOf s n).length), replyErr .noResource 0)] = none :=
  firstFail_cons_none hb (firstFail_cons_none (not_has_of_find hv) (firstFail_cons_none
    (Bool.or_eq_false_iff.mpr ⟨decide_eq_false (not_le.mpr hn), decide_eq_false (not_le.mpr hw)⟩) rfl))

section
variable {h : MbxHdr} {nsid : W32} {c : MCmd} {v : Ns} {s : State} (hs : startsNow ⟨0x0701, 2, true, .other, false⟩ h [.num 0 4 nsid.toNat] c s)
  (hv : Tbl.find s.ns nsid.toNat = some v) (hf : firstFail [(nsidBad nsid.toNat, limitAt 0), (!Tbl.has (taken c s).ns nsid.toNat, replyErr .notFound 0),
    (decide (1048576 ≤ (taken c s).snaps.views.length) || decide (16384 ≤ (viewsOf (taken c s) nsid.toNat).length), replyErr .noResource 0)] = none)
include hs hv hf

/-- A snapshot of a volume whose pool this head writes is cut at once where its entry is granted, and waits for it else (R418, R419). -/
theorem execSnapshotCreate_here (ho : (ownsPool s v.pool || !peerPresent s) = true) :
    execSnapshotCreate h nsid s = .next (if (cutLock nsid.toNat v (taken c s)).2.1 then
      mbxAnswer c (replyOk (le64 (cutUnder nsid.toNat (cutLock nsid.toNat v (taken c s))).1)) (cutUnder nsid.toNat (cutLock nsid.toNat v (taken c s))).2
      else underWay c ⟨0x0701, 2, true, .other, false⟩ (cutLock nsid.toNat v (taken c s)).2.2) := by
  have hv' : Tbl.find (taken c s).ns nsid.toNat = some v := hv
  refine onRun_mbxStart_ite hs ?_
  simp only [hf, hv']
  exact if_neg (Bool.eq_false_iff.mp (here_not_far ho))

/-- The head that owns the pool is asked to cut (log entry 232). -/
theorem execSnapshotCreate_far (ho : ownsPool s v.pool = false) (hp : peerPresent s = true) :
    execSnapshotCreate h nsid s = .next (underWay c ⟨0x0701, 2, true, .other, false⟩
      (configGroup v.pool 0x13 ((taken c s).modNs nsid.toNat fun v => { v with cutAsked := v.cutAsked + 1 }))) := by
  have hv' : Tbl.find (taken c s).ns nsid.toNat = some v := hv
  refine onRun_mbxStart_goes_on hs ?_
  simp only [hf, hv']
  exact if_pos (Bool.and_eq_true_iff.mpr ⟨congrArg not ho, hp⟩)

end

theorem execSnapshotCutTimeout_entered {n a since : Nat} {why : CutFor} {s : State} (hp : s.phase = .run) (hn : n ≠ 0)
    (hj : Tbl.find s.snaps.jobs n = some (.cut a why since)) : execSnapshotCutTimeout n s =
      .next (fillEntries (cutLate a why since (dropPrivet n { s with snaps := { s.snaps with jobs := Tbl.del s.snaps.jobs n } }))) := by
  rw [execSnapshotCutTimeout, onRun_eq hp, if_neg hn]
  simp only [hj]

theorem execSnapshotCutTimeout_waiting {a b c d v since : Nat} {why : CutFor} {rest : List (Nat × Nat × Nat × Nat × LockJob)} {s : State}
    (hp : s.phase = .run) (hj : s.snaps.jobWait = (a, b, c, d, .cut v why since) :: rest) :
    execSnapshotCutTimeout 0 s = .next (cutLate v why since { s with snaps := { s.snaps with jobWait := rest } }) := by
  rw [execSnapshotCutTimeout, onRun_eq hp, if_pos rfl]
  simp only [hj]

theorem execSnapshotDelete_drops {h : MbxHdr} {nsid : W32} {epoch : W64} {w : Snap} {c : MCmd} {s : State}
    (hs : startsNow ⟨0x0702, 2, true, .other, false⟩ h [.num 0 4 nsid.toNat, .num 8 8 epoch.toNat] c s) (hb : nsidBad nsid.toNat = false)
    (hw : Tbl.find s.snaps.views epoch.toNat = some w) (hn : w.nsid = nsid.toNat) (hh : w.held = false) :
    execSnapshotDelete h nsid epoch s = .next (mbxAnswer c (replyOk []) (configGroup 255 0x13 (dropView epoch.toNat (taken c s)))) := by
  have hw' : Tbl.find (taken c s).snaps.views epoch.toNat = some w := hw
  refine onRun_mbxStart_answers hs ((if_neg (Bool.eq_false_iff.mp hb)).trans ?_)
  simp only [hw']
  exact (if_neg (not_not.mpr hn)).trans (if_neg (Bool.eq_false_iff.mp hh))

/-- A clone of a snapshot whose slice has room for another namespace (R422). -/
theorem execCloneCreate_clones {h : MbxHdr} {src new : W32} {epoch : W64} {v : Ns} {w : Snap} {sl : Slice} {c : MCmd} {s : State}
    (hs : startsNow ⟨0x0703, 2, true, .other, false⟩ h [.num 0 4 src.toNat, .num 4 4 new.toNat, .num 8 8 epoch.toNat] c s)
    (hb : nsidBad src.toNat = false) (hb' : nsidBad new.toNat = false) (hv : Tbl.find s.ns src.toNat = some v)
    (hw : Tbl.find s.snaps.views epoch.toNat = some w) (hn : w.nsid = src.toNat) (hx : Tbl.has s.ns new.toNat = false)
    (hl : Tbl.find s.slices v.slice = some sl) (hr : nsCount s v.slice < sl.namespaces) : execCloneCreate h src new epoch s =
      .next (mbxAnswer c (replyOk []) (cloneFrom src.toNat new.toNat epoch.toNat v w (taken c s))) := by
  have hv' : Tbl.find (taken c s).ns src.toNat = some v := hv
  have hw' : Tbl.find (taken c s).snaps.views epoch.toNat = some w := hw
  have hl' : Tbl.find (taken c s).slices v.slice = some sl := hl
  have hroom : decide (sl.namespaces ≤ nsCount (taken c s) v.slice) = false := decide_eq_false (not_le.mpr hr)
  refine onRun_mbxStart_answers hs ((if_neg (Bool.eq_false_iff.mp hb)).trans ((if_neg (Bool.eq_false_iff.mp hb')).trans ?_))
  simp only [hv', hw', hl']
  exact (if_neg (not_not.mpr hn)).trans ((if_neg (Bool.eq_false_iff.mp hx)).trans (if_neg (Bool.eq_false_iff.mp hroom)))

/-! ## The obligation -/

/-- Settles O38: the conditions pass each command's checks, and say whether this head writes the pool's records; whether an entry is granted decides between the answer and the wait. -/
theorem volumeCommandsComplete : Obligations.VolumeCommandsComplete := by
  unfold Obligations.VolumeCommandsComplete
  refine ⟨?create, ?delete, ?grow, ?shrinkHere, ?shrinkFar, ?query, ?snapHere, ?snapFar, ?cutEntered, ?cutWaiting, ?snapDelete, ?clone⟩
  case create =>
    intro h nsid slice pool unit size compress level key sl c s hs hb hsl hp hu hz hc hv hk hf hpool hn ht hx hr
    have hslices : (!Tbl.has (taken c s).slices slice.toNat || !Tbl.has (taken c s).pools pool.toNat) = false :=
      Bool.or_eq_false_iff.mpr ⟨not_has_of_find hf, congrArg not hpool⟩
    have hf' : Tbl.find (taken c s).slices slice.toNat = some sl := hf
    refine onRun_mbxStart_answers hs (tryDo_none (firstFail_cons_none hb (firstFail_cons_none (decide_lt_false hsl)
      (firstFail_cons_none (decide_lt_false hp) (firstFail_cons_none (decide_lt_false hu) (firstFail_cons_none hz
      (firstFail_cons_none (decide_lt_false hc) (firstFail_cons_none hv (firstFail_cons_none (decide_lt_false hk)
      (firstFail_cons_none hslices (firstFail_cons_none hn (firstFail_cons_none ht (firstFail_cons_none (congrArg not hx)
      (firstFail_cons_none ?_ rfl))))))))))))))
    simp only [hf']
    exact decide_eq_false (not_le.mpr hr)
  case delete => exact fun _ _ _ _ _ hs hb hv hr => execVolumeDelete_deletes hb hv hs hr
  case grow =>
    intro h nsid size v c s hs hb hz hv hg
    exact onRun_mbxStart_answers hs ((if_neg (Bool.eq_false_iff.mp hb)).trans ((if_neg (Bool.eq_false_iff.mp hz)).trans
      (resizeVolume_grows (s := taken c s) hv hg)))
  case shrinkHere =>
    intro h nsid size v c s hs hb hz hv hg ho
    exact onRun_mbxStart_ite hs ((if_neg (Bool.eq_false_iff.mp hb)).trans ((if_neg (Bool.eq_false_iff.mp hz)).trans
      (resizeVolume_shrinks_here (s := taken c s) hv hg ho)))
  case shrinkFar =>
    intro h nsid size v c s hs hb hz hv hg ho hp
    exact onRun_mbxStart_goes_on hs ((if_neg (Bool.eq_false_iff.mp hb)).trans ((if_neg (Bool.eq_false_iff.mp hz)).trans
      (resizeVolume_shrinks_far (s := taken c s) hv hg ho hp)))
  case query => exact fun _ _ _ _ _ hs hb hv => execVolumeQuery_answers hb hv hs
  case snapHere =>
    intro h nsid v c s hs hb hv hn hw ho
    exact execSnapshotCreate_here hs hv (snapshotCreate_checks_pass (s := taken c s) hb hv hn hw) ho
  case snapFar =>
    intro h nsid v c s hs hb hv hn hw ho hp
    exact execSnapshotCreate_far hs hv (snapshotCreate_checks_pass (s := taken c s) hb hv hn hw) ho hp
  case cutEntered => exact fun _ _ _ _ _ hp hn hj => execSnapshotCutTimeout_entered hp hn hj
  case cutWaiting => exact fun _ _ _ _ _ _ _ _ _ hp hj => execSnapshotCutTimeout_waiting hp hj
  case snapDelete => exact fun _ _ _ _ _ _ hs hb hw hn hh => execSnapshotDelete_drops hs hb hw hn hh
  case clone => exact fun _ _ _ _ _ _ _ _ _ hs hb hb' hv hw hn hx hl hr => execCloneCreate_clones hs hb hb' hv hw hn hx hl hr

end Sys2Proof.Machine
end

/-! PROOFS of O43 (R147 to R149, R153, R154, R164, R175, R176; log entry 8): the admin commands that read and set what a controller shows, and its timers. -/
section
namespace Sys2Proof.Machine
open Sys2Proof

/-! ## Admin commands -/

/-- An admin command's meaning is judged on the state in which the command has left its queue. -/
theorem afterAdmin_congr {ctrl : Nat} {f g : State → State} {s : State} (h : f (adminTaken ctrl s) = g (adminTaken ctrl s)) :
    afterAdmin ctrl f s = afterAdmin ctrl g s := by
  simp only [afterAdmin, pairsMove, h]

section
variable {ctrl cid : Nat} {c : Ctrl} {s : State} (hs : adminOn ctrl c s)
include hs

theorem onRun_adminDo_runs {f : Ctrl → State → State} {g : State → State} (hf : f c (adminTaken ctrl s) = g (adminTaken ctrl s)) :
    onRun s (fun s => adminDo ctrl s f) = .next (afterAdmin ctrl g s) := by
  rw [onRun_eq hs.1, adminDo_runs hs, afterAdmin_congr hf]

/-- A log page that the controller has, from an offset within it (R176). -/
theorem execGetLogPage_sends {lid off len : Nat} {ptr : DataPtr} {d : List Byte} {u : State}
    (hd : logPage lid c (adminTaken ctrl s) = some (d, u)) (ho : off ≤ d.length) : execGetLogPage ctrl cid lid off len ptr s =
      .next (afterAdmin ctrl (fun _ => hostPage ctrl cid lid c (fit len (d.drop off)) ptr 0
        (if lid = 4 then u.modCtrl ctrl (fun c => { c with changed := [] }) else u)) s) := by
  refine onRun_adminDo_runs hs ?_
  simp only [hd]
  exact if_neg (not_lt.mpr ho)

/-- A feature whose value the completion itself carries. -/
theorem execGetFeatures_answers {fid : Nat} {arg : W32} {ptr : DataPtr} (hk : fid = 6 ∨ featureKnown c fid = true) (hid : fid ≠ 0x81) :
    execGetFeatures ctrl cid fid arg ptr s =
      .next (afterAdmin ctrl (fun t => adminCpl ctrl cid nsOk (if fid = 6 then 0 else featureValue t c fid arg) t) s) := by
  refine onRun_adminDo_runs hs ?_
  by_cases h6 : fid = 6
  · simp only [if_pos h6]
  · have hknown : ¬(!featureKnown c fid) = true := by simp [hk.resolve_left h6]
    simp only [if_neg h6, if_neg hknown, if_neg hid]

/-- An Abort of a command that this head runs itself ends it while it waits for its turn, and answers else that it was not aborted. -/
theorem execAbort_here {sq tcid id : Nat} {d : Inflight}
    (hd : ((adminTaken ctrl s).host.inflight.find? fun e => e.2.ctrl = ctrl && e.2.sq = sq && e.2.cid = tcid && !e.2.forwarded && !e.2.mute) = some (id, d))
    (ha : d.away = false) : execAbort ctrl cid sq tcid s =
      .next (afterAdmin ctrl (fun t => if d.stage = .lockWait || d.stage = .entryWait
        then adminCpl ctrl cid nsOk 0 (completeCmd id nsAborted (leaveEntry id d t)) else adminCpl ctrl cid nsOk 1 t) s) := by
  refine onRun_adminDo_runs hs ?_
  simp only [hd]
  exact if_neg (Bool.eq_false_iff.mp ha)

/-- With no notice held and fewer than four requests waiting, the request waits (R149, R175). -/
theorem execAsynchronousEventRequest_waits (hh : c.held = []) (hl : c.aers.length < 4) : execAsynchronousEventRequest ctrl cid s =
    .next (afterAdmin ctrl (fun t => t.modCtrl ctrl fun c => { c with aers := c.aers ++ [cid] }) s) := by
  refine onRun_adminDo_runs hs ?_
  simp only [hh]
  exact if_neg (not_le.mpr hl)

/-- A format of an empty namespace of the controller's slice whose group is not refused (R153). -/
theorem execFormatNvm_formats {nsid lbaf : Nat} {x : Ns} (hx : Tbl.find (adminTaken ctrl s).ns nsid = some x) (hsl : x.slice = c.slice)
    (ha : anaCheck (adminTaken ctrl s) x.pool = .execute ∨ anaCheck (adminTaken ctrl s) x.pool = .forward) (hf : lbaf ≤ 1)
    (hn : nuse (adminTaken ctrl s) nsid x = 0) : execFormatNvm ctrl cid nsid lbaf 0 s =
      .next (afterAdmin ctrl (fun t => adminCpl ctrl cid nsOk 0 (tellNsChanged c.slice nsid (configGroup x.pool 0x10
        (t.modNs nsid fun x => { x with fmt512 := lbaf = 1 })))) s) := by
  have hvalid : ¬(decide (0 ≠ 0) || decide (1 < lbaf) || decide (nuse (adminTaken ctrl s) nsid x ≠ 0)) = true := by
    simp [hf, hn]
  refine onRun_adminDo_runs hs ?_
  simp only [hx]
  refine (if_neg (not_not.mpr hsl)).trans ?_
  cases ha with
  | inl h => simp only [h]; exact if_neg hvalid
  | inr h => simp only [h]; exact if_neg hvalid

end

/-! ## Timers -/

/-- The keep-alive timer of a controller over the network ends it; that of a controller of a host port stops and disables it (R164). -/
theorem execKeepAliveTimeout_ends {ctrl e : Nat} {c : Ctrl} {s : State} (hp : s.phase = .run) (hc : Tbl.find s.host.ctrls ctrl = some c)
    (he : c.kaEnd = some e) : execKeepAliveTimeout ctrl s = .next (pairsMove (fun s => if c.fabrics then endCtrl ctrl (reachTime e s)
      else (stopCtrl ctrl (reachTime e s)).modCtrl ctrl fun c => { disabledCtrl 0 c with kaEnd := none }) s) := by
  rw [execKeepAliveTimeout, onRun_eq hp]
  simp only [pairsMove, hc, he]

theorem execInterruptCoalescingTimeout_sends {ctrl cq iv : Nat} {c : Ctrl} {x : Cq} {sl : Slice} {s : State} (hp : s.phase = .run)
    (hc : Tbl.find s.host.ctrls ctrl = some c) (hq : Tbl.find c.cqs cq = some x) (hl : Tbl.find s.slices c.slice = some sl)
    (hv : x.iv = some iv) (hn : x.coalesced ≠ 0) : execInterruptCoalescingTimeout ctrl cq s =
      .next (sendVia c.port c.upper (sl.vecBase + iv)
        (s.modCtrl ctrl fun c => { c with cqs := Tbl.upd c.cqs cq fun q => { q with coalesced := 0 } })) := by
  rw [execInterruptCoalescingTimeout, onRun_eq hp]
  simp only [hc, hq, hl, hv, if_neg hn]

/-! ## The obligation -/

/-- Settles O43: a command of an admin queue that is ready runs its meaning on the state in which it has left the queue, and the conditions name the branch. -/
theorem adminCommandsComplete : Obligations.AdminCommandsComplete := by
  unfold Obligations.AdminCommandsComplete
  refine ⟨?identify, ?logPage, ?setFeatures, ?getFeatures, ?abort, ?eventRequest, ?keepAlive, ?format, ?keepAliveEnd, ?coalescingEnd⟩
  case identify => exact fun _ _ _ _ _ _ _ hs => onRun_adminDo_runs hs rfl
  case logPage => exact fun _ _ _ _ _ _ _ _ _ _ hs hd ho => execGetLogPage_sends hs hd ho
  case setFeatures => exact fun _ _ _ _ _ _ _ _ hs => onRun_adminDo_runs hs rfl
  case getFeatures => exact fun _ _ _ _ _ _ _ hs hk hid => execGetFeatures_answers hs hk hid
  case abort => exact fun _ _ _ _ _ _ _ _ hs hd ha => execAbort_here hs hd ha
  case eventRequest => exact fun _ _ _ _ hs hh hl => execAsynchronousEventRequest_waits hs hh hl
  case keepAlive => exact fun _ _ _ _ hs => onRun_adminDo_runs hs rfl
  case format => exact fun _ _ _ _ _ _ _ hs hx hsl ha hf hn => execFormatNvm_formats hs hx hsl ha hf hn
  case keepAliveEnd => exact fun _ _ _ _ hp hc he => execKeepAliveTimeout_ends hp hc he
  case coalescingEnd => exact fun _ _ _ _ _ _ _ hp hc hq hl hv hn => execInterruptCoalescingTimeout_sends hp hc hq hl hv hn

end Sys2Proof.Machine
end

/-! PROOFS of O30 (R156 to R172, R179, R244, R431; log entries 112 and 113): host commands that are fetched, staged, read, compared, grouped and waited for. -/
section
namespace Sys2Proof

theorem Tbl.find_upd_same {α : Type} {t : Tbl α} {n : Nat} {a : α} (f : α → α) (h : Tbl.find t n = some a) :
    Tbl.find (Tbl.upd t n f) n = some (f a) := by
  simp [Tbl.upd, h]

end Sys2Proof

namespace Sys2Proof.Machine
open Sys2Proof

/-! ## Fetching (R156, R157) -/

theorem execNvmeCommandFetch_fetches {ctrl sq : Nat} {e : SubEntry} {c : Ctrl} {left : List Nat} {s : State} (hp : s.phase = .run)
    (hc : Tbl.find s.host.ctrls ctrl = some c) (hm : mayFetch c s = true) (hq : sq ≠ 0) (ha : arbNext c = some (sq, left))
    (he : e.op ≠ some .compareWrite ∨ 2 ≤ queued c sq) (ht : (findTurn s).host.turn = some c.slice)
    (hw : hasWork (findTurn s) c.slice = true) :
    execNvmeCommandFetch ctrl sq e s = .next (fetchCmd ctrl sq left c e (findTurn s)) := by
  rw [execNvmeCommandFetch, onRun_eq hp]
  simp only [hc, ha]
  rw [if_neg (by simp [hm]), if_neg hq, if_pos (by simpa [ht, hw] using he)]

/-! ## The command that runs -/

/-- A command that runs is in flight and has the operation that is asked for. -/
theorem runningCmd_some {s : State} {id : Nat} {op : NvmOp} {c : Inflight} (h : runningCmd s id op = some c) :
    cmdAt s id = some c ∧ c.op = op := by
  unfold runningCmd at h
  cases hd : cmdAt s id with
  | none => simp [hd] at h
  | some d =>
    simp only [hd, Option.ite_none_right_eq_some, Option.some.injEq, Bool.and_eq_true, decide_eq_true_eq] at h
    obtain ⟨⟨⟨⟨⟨⟨hop, -⟩, -⟩, -⟩, -⟩, -⟩, rfl⟩ := h
    exact ⟨rfl, hop⟩

/-! ## Writes (R165, R166, R244, R431) -/

/-- A write with space in its pool, a usable key and the units that it needs is staged or waits for admission. -/
theorem startWrite_starts {id : Nat} {c : Inflight} {v : Ns} {x : Pool} {s : State} (hv : Tbl.find s.ns c.nsid = some v)
    (hx : Tbl.find s.pools v.pool = some x) (hr : (writeLayout x).reserve ≤ freeSegs x) (hk : keyBlocks s v = false)
    (hg : writeGone s = false) : startWrite id c s =
      (let s1 := if c.replica then s else divergeTarget c.nsid s
      if s1.carafe.waiting = [] && admits (granules (c.nlb * blockBytes v)) s1 then stageWrite id c s1 else { s1.modCmd id (fun c => { c with stage := .admitWait }) with carafe := { s1.carafe with waiting := sortBy (fun a b => decide (a < b)) (s1.carafe.waiting ++ [id]) } }) := by
  unfold startWrite
  simp only [hv, hx]
  rw [if_neg (not_lt.mpr hr), if_neg (by simp [hk, hg])]

theorem execWrite_starts {id : Nat} {c : Inflight} {s : State} (hp : s.phase = .run) (hc : runningCmd s id .write = some c) :
    execWrite id s = .next (startWrite id c s) := by
  rw [execWrite, onRun_eq hp]
  simp only [hc]

/-- The write at the head of the line is admitted where there is room for its data. -/
theorem execWriteAdmission_judges {id : Nat} {rest : List Nat} {c : Inflight} {v : Ns} {s : State} (hp : s.phase = .run)
    (hw : s.carafe.waiting = id :: rest) (hc : cmdAt s id = some c) (hv : Tbl.find s.ns c.nsid = some v) :
    execWriteAdmission s = .next (if admits (granules (c.nlb * blockBytes v)) s
      then stageWrite id c { s with carafe := { s.carafe with waiting := rest } } else s) := by
  rw [execWriteAdmission, onRun_eq hp]
  simp only [hw, hc, hv]

theorem execWriteStagedWhole_mirrors {id : Nat} {data : List Nat} {c : Inflight} {s : State} (hp : s.phase = .run)
    (hc : cmdAt s id = some c) (hst : c.stage = .staging) (hl : listBad c s = false) (hd : data.length = c.nlb) :
    execWriteStagedWhole id (some data) s = .next (let s1 := (s.modOwn id fun d => { d with whole := true, data := data }).modCmd id fun c => { c with stage := .staged }
      tryFinish id (sendSync id c data (if peerPresent s1 then jalSend (.mirrorData id c.nsid c.slba data) s1 else s1))) := by
  rw [execWriteStagedWhole, onRun_eq hp]
  simp only [hc]
  rw [if_neg (by simp [hst]), if_neg (by simp [hst]), if_neg (by simp [hl]), if_neg (by simp [hd])]

/-! ## Reads (R168, R171) -/

/-- Nothing stops a command that may read its range before it looks at the data. -/
theorem ifReadable_reads {id : Nat} {c : Inflight} {f : State → State} {s : State} (hf : firstPoison s c.nsid c.slba c.nlb = none)
    (hg : readGone s = false) (hl : listBad c s = false) : ifReadable id c f s = f s := by
  unfold ifReadable
  simp only [hf]
  rw [if_neg (by simp [hg]), if_neg (by simp [hl])]

section
variable {id : Nat} {c : Inflight} {s : State} (hp : s.phase = .run) (hf : firstPoison s c.nsid c.slba c.nlb = none)
  (hg : readGone s = false) (hl : listBad c s = false)
include hp hf hg hl

theorem execRead_reads (hc : runningCmd s id .read = some c) : execRead id s = .next (startRead id c s) := by
  rw [execRead, onRun_eq hp]
  simp only [hc, ifReadable_reads hf hg hl]

theorem execVerify_reads (hc : runningCmd s id .verify = some c) : execVerify id s = .next (startRead id c s) := by
  rw [execVerify, onRun_eq hp]
  simp only [hc, ifReadable_reads hf hg hl]

theorem execCompare_reads {host : List Nat} (hc : runningCmd s id .compare = some c) :
    execCompare id (some host) s = .next (startRead id { c with data := host } (hostGiven id c host s)) := by
  rw [execCompare, onRun_eq hp]
  simp only [hc, ifReadable_reads hf hg hl]
  rfl

theorem execCompareAndWrite_reads {host : List Nat} (hc : runningCmd s id .compareWrite = some c) :
    execCompareAndWrite id (some host) s = .next (startRead id { c with data := host } (hostGiven id c host s)) := by
  rw [execCompareAndWrite, onRun_eq hp]
  simp only [hc, ifReadable_reads hf hg hl]
  rfl

end

/-! ## Reads of a range of which nothing is stored (R32) -/

theorem cacheRead_changes_mapCache (region key : Nat) (s : State) : ∃ m, cacheRead region key s = { s with mapCache := m } := by
  unfold cacheRead cacheAccess
  dsimp only
  split
  · exact ⟨_, rfl⟩
  · split
    · exact ⟨_, rfl⟩
    · exact ⟨_, rfl⟩

theorem foldl_cacheRead_changes_mapCache (region : Nat) (key : Nat → Nat) (l : List Nat) (s : State) :
    ∃ m, l.foldl (fun s u => cacheRead region (key u) s) s = { s with mapCache := m } := by
  induction l generalizing s with
  | nil => exact ⟨_, rfl⟩
  | cons u l ih =>
    obtain ⟨m, hm⟩ := cacheRead_changes_mapCache region (key u) s
    obtain ⟨m', hm'⟩ := ih (cacheRead region (key u) s)
    exact ⟨m', by rw [List.foldl_cons, hm', hm]⟩

theorem mapsRead_changes_mapCache (c : Inflight) (s : State) : ∃ m, mapsRead c s = { s with mapCache := m } :=
  foldl_cacheRead_changes_mapCache 0 (mapItem c.nsid) _ s

/-- With no stored unit in its range, a command that reads ends at once. -/
theorem finishRead_ends {id : Nat} {c : Inflight} {s : State} (hc : cmdAt s id = some c) (hn : Tbl.has s.ns c.nsid = true)
    (hf : firstPoison s c.nsid c.slba c.nlb = none) (hu : storedUnits s c = []) : finishRead id s = readEnd id c s := by
  obtain ⟨v, hv⟩ := Option.isSome_iff_exists.mp hn
  simp only [finishRead, hc, hv, hf, hu]
  rfl

/-- The look-up of the map leaves what the command reads as it was. -/
theorem startRead_ends {id : Nat} {c : Inflight} {s : State} (hc : cmdAt s id = some c) (hn : Tbl.has s.ns c.nsid = true)
    (hf : firstPoison s c.nsid c.slba c.nlb = none) (hu : storedUnits s c = []) :
    startRead id c s = readEnd id c (mapsRead c s) := by
  have hstart : startRead id c s = finishRead id (mapsRead c s) := by
    simp only [startRead, hu]
    rfl
  obtain ⟨m, hm⟩ := mapsRead_changes_mapCache c s
  rw [hstart, hm]
  exact finishRead_ends hc hn hf hu

/-! ## Comparisons (R159, R171) -/

theorem hostHalf_changes_out (c : Inflight) (s : State) : ∃ o, hostHalf c s = { s with out := o } := by
  unfold hostHalf askData fetchList
  split
  · exact ⟨_, rfl⟩
  · split
    · split
      · exact ⟨_, rfl⟩
      · exact ⟨_, rfl⟩
    · exact ⟨_, rfl⟩

/-- The host's blocks come with the command; what it is compared with stays as it was. -/
theorem startRead_hostGiven_ends {id : Nat} {c : Inflight} {host : List Nat} {s : State} (hc : cmdAt s id = some c)
    (hn : Tbl.has s.ns c.nsid = true) (hf : firstPoison s c.nsid c.slba c.nlb = none)
    (hu : storedUnits (hostGiven id c host s) { c with data := host } = []) :
    startRead id { c with data := host } (hostGiven id c host s) =
      readEnd id { c with data := host } (mapsRead { c with data := host } (hostGiven id c host s)) := by
  obtain ⟨o, ho⟩ := hostHalf_changes_out c s
  refine startRead_ends ?_ ?_ ?_ hu <;> rw [hostGiven, ho]
  · exact Tbl.find_upd_same _ hc
  · exact hn
  · exact hf

/-! ## Commands that go into record groups, and Flush (R170, R172, R179) -/

theorem execWriteZeroes_groups {id : Nat} {c : Inflight} {v : Ns} {s : State} (hp : s.phase = .run)
    (hc : runningCmd s id .writeZeroes = some c) (hv : Tbl.find s.ns c.nsid = some v) (hs : stagedOver c.nsid c.slba c.nlb s = false) :
    execWriteZeroes id s = .next (zeroGroup id c v c.slba c.nlb (if c.deac then none else some .zero) s) := by
  rw [execWriteZeroes, onRun_eq hp]
  simp only [hc, hv, hs]
  rfl

theorem execDatasetManagement_groups {id : Nat} {c : Inflight} {v : Ns} {a n : Nat} {rest : List (Nat × Nat)} {s : State}
    (hp : s.phase = .run) (hc : runningCmd s id .dsm = some c) (hv : Tbl.find s.ns c.nsid = some v) (hr : c.ranges = (a, n) :: rest)
    (hd : c.deac = true) (hl : listBad c s = false) (hs : stagedOver c.nsid a n s = false) :
    execDatasetManagement id s = .next (zeroGroup id c v a n none s) := by
  rw [execDatasetManagement, onRun_eq hp]
  simp only [hc, hv, hr, hd, hl, hs]
  rfl

theorem execWriteUncorrectable_groups {id : Nat} {c : Inflight} {v : Ns} {s : State} (hp : s.phase = .run)
    (hc : runningCmd s id .writeUncorrectable = some c) (hv : Tbl.find s.ns c.nsid = some v) : execWriteUncorrectable id s =
      .next (addGroup { pool := v.pool, cmds := [id], effects := [.poison c.nsid none c.slba c.nlb (c.lock.getD id)] }
        (divergeTarget c.nsid (s.modCmd id fun c => { c with stage := .grouped }))) := by
  rw [execWriteUncorrectable, onRun_eq hp]
  simp only [hc, hv]

theorem execFlush_waits {id : Nat} {c : Inflight} {s : State} (hp : s.phase = .run) (hc : runningCmd s id .flush = some c) :
    execFlush id s = .next (let before := (s.host.inflight.filter fun e => decide (e.1 < id) && (flushNs c s).contains e.2.nsid && [NvmOp.write, .compareWrite, .writeZeroes, .dsm].contains e.2.op).map (·.1)
      if before = [] then finishFlush id c s else s.modCmd id fun c => { c with stage := .grouped, after := before }) := by
  rw [execFlush, onRun_eq hp]
  simp only [hc]

/-! ## The obligation -/

/-- Settles O30: the conditions name the branch of each command; a read of a range of which nothing is stored ends at once, because the look-up of its map entries changes the map cache alone. -/
theorem hostCommandsComplete : Obligations.HostCommandsComplete := by
  unfold Obligations.HostCommandsComplete
  refine ⟨?fetch, ?write, ?admission, ?staged, ?read, ?readEnd, ?verify, ?verifyEnd, ?compare, ?compareEnd, ?compareWrite,
    ?compareWriteEnd, ?zeroes, ?deallocate, ?uncorrectable, ?flush⟩
  case fetch => exact fun _ _ _ _ _ _ hp hc hm hq ha he ht hw => execNvmeCommandFetch_fetches hp hc hm hq ha he ht hw
  case write =>
    intro id c v x s hp hc hv hx hr hk hg
    exact (execWrite_starts hp hc).trans (congrArg _ (startWrite_starts hv hx hr hk hg))
  case admission => exact fun _ _ _ _ _ hp hw hc hv => execWriteAdmission_judges hp hw hc hv
  case staged => exact fun _ _ _ _ hp hc hst hl hd => execWriteStagedWhole_mirrors hp hc hst hl hd
  case read => exact fun _ _ _ hp hc hf hg hl => execRead_reads hp hf hg hl hc
  case readEnd =>
    intro id c s hp hc hf hg hl hn hu
    obtain ⟨hcmd, hop⟩ := runningCmd_some hc
    refine (execRead_reads hp hf hg hl hc).trans (congrArg _ ((startRead_ends hcmd hn hf hu).trans ?_))
    simp only [readEnd, hop]
  case verify => exact fun _ _ _ hp hc hf hg hl => execVerify_reads hp hf hg hl hc
  case verifyEnd =>
    intro id c s hp hc hf hg hl hn hu
    obtain ⟨hcmd, hop⟩ := runningCmd_some hc
    refine (execVerify_reads hp hf hg hl hc).trans (congrArg _ ((startRead_ends hcmd hn hf hu).trans ?_))
    simp only [readEnd, hop]
  case compare => exact fun _ _ _ _ hp hc hf hg hl => execCompare_reads hp hf hg hl hc
  case compareEnd =>
    intro id host c s hp hc hf hg hl hn hu
    obtain ⟨hcmd, hop⟩ := runningCmd_some hc
    refine (execCompare_reads hp hf hg hl hc).trans (congrArg _ ((startRead_hostGiven_ends hcmd hn hf hu).trans ?_))
    simp only [readEnd, hop]
  case compareWrite => exact fun _ _ _ _ hp hc hf hg hl => execCompareAndWrite_reads hp hf hg hl hc
  case compareWriteEnd =>
    intro id host c s hp hc hf hg hl hn hu
    obtain ⟨hcmd, hop⟩ := runningCmd_some hc
    refine (execCompareAndWrite_reads hp hf hg hl hc).trans (congrArg _ ((startRead_hostGiven_ends hcmd hn hf hu).trans ?_))
    simp only [readEnd, hop]
  case zeroes => exact fun _ _ _ _ hp hc hv hs => execWriteZeroes_groups hp hc hv hs
  case deallocate => exact fun _ _ _ _ _ _ _ hp hc hv hr hd hl hs => execDatasetManagement_groups hp hc hv hr hd hl hs
  case uncorrectable => exact fun _ _ _ _ hp hc hv => execWriteUncorrectable_groups hp hc hv
  case flush => exact fun _ _ _ hp hc => execFlush_waits hp hc

end Sys2Proof.Machine
end

/-! PROOFS of O39 (R185, R186, R190, R197, R198, R201, R203): slices that are made, resized, reset and removed, and the log of their dirty pages. -/
section
namespace Sys2Proof.Machine
open Sys2Proof

/-! ## Checks before a body goes on -/

theorem firstFail_match_none {α : Type} {l : List (Bool × MReply)} {refuse : MReply → α} {a : α} (h : firstFail l = none) :
    (match firstFail l with | some r => refuse r | none => a) = a := by rw [h]

/-- A command that goes on, and whose outcome is then looked at once. -/
theorem onRun_mbxStart_goes_on_then {info : CmdInfo} {h : MbxHdr} {fs : List BodyField} {c : MCmd} {body : State → Option MReply × State} {s u : State}
    (hs : startsNow info h fs c s) (f : State → State) (hb : body (taken c s) = (none, u)) :
    onRun s (fun s => f (mbxStart info h fs body s)) = .next (f (underWay c info u)) := by
  rw [onRun_eq hs.1, mbxStart_goes_on hs hb]

theorem decide_lt_or_lt_false {a b c d : Nat} (h : b ≤ a) (h' : d ≤ c) : (decide (a < b) || decide (c < d)) = false :=
  Bool.or_eq_false_iff.mpr ⟨decide_lt_false h, decide_lt_false h'⟩

/-! ## SLICE_CREATE (R185, R186, R190, R197) -/

/-- The limits of a new slice (R186); only a PASID is bounded by 20 bits. -/
theorem sliceLimits_pass {slice bind qp ns a b c : Nat} {pasid : Bool} {t : List (Bool × MReply)} (hl : slice ≤ 4095)
    (hb : pasid = true → bind ≤ 0xFFFFF) (hq : qp ≤ 65536) (hn : ns ≠ 0) (hn' : ns ≤ 65536) (ht : firstFail t = none) :
    firstFail (sliceLimits slice a bind b qp c ns pasid ++ t) = none := by
  refine firstFail_cons_none (decide_lt_false hl) (firstFail_cons_none ?_ (firstFail_cons_none (decide_lt_false hq)
    (firstFail_cons_none (Bool.or_eq_false_iff.mpr ⟨decide_eq_false hn, decide_lt_false hn'⟩) ht)))
  cases pasid with
  | false => rfl
  | true => exact decide_lt_false (hb rfl)

/-- A flag compared with a condition as propositions, and as Booleans. -/
theorem decide_eq_prop (b : Bool) (p : Prop) [Decidable p] : decide ((b = true) = p) = decide (b = decide p) :=
  decide_eq_decide.mpr (eq_iff_iff.trans (by rw [Bool.eq_iff_iff (b := decide p), decide_eq_true_eq]))

section
variable {tenant : Prop} [Decidable tenant] {w : Option Nat}

/-- A PASID slice takes a run of free vectors, a tenant's slice none (R190). -/
theorem window_found (h : ¬tenant → w.isSome = true) : (if tenant then some 0 else w).isNone = false := by
  by_cases ht : tenant
  · rw [if_pos ht]
    rfl
  · rw [if_neg ht, ← Option.not_isSome, h ht]
    rfl

theorem window_base : (if tenant then 0 else (if tenant then some 0 else w).getD 0) = if tenant then 0 else w.getD 0 := by
  by_cases ht : tenant
  · rw [if_pos ht, if_pos ht]
  · rw [if_neg ht, if_neg ht, if_neg ht]

end

theorem eq_zero_of_toNat_le_one {b : Byte} (hb : b.toNat ≤ 1) (h1 : ¬b.toNat = 1) : b = 0 := by bv_omega

/-! ## SLICE_RESET and SLICE_DELETE (R198, R201) -/

section
variable {h : MbxHdr} {slice : W16} {c : MCmd} {s : State} (hl : slice.toNat ≤ 4095) (hx : Tbl.has s.slices slice.toNat = true)
  (hr : sliceRunning s slice.toNat = false)
include hl hx hr

theorem execSliceReset_goes_on {mode : Byte} (hs : startsNow ⟨0x0503, 2, true, .other, false⟩ h [.num 0 2 slice.toNat, .num 2 1 mode.toNat] c s)
    (hm : mode.toNat ≤ 1) : execSliceReset h slice mode s = .next (finishReset slice.toNat (underWay c ⟨0x0503, 2, true, .other, false⟩
      (startReset slice.toNat { squash := mode.toNat = 1 } (taken c s)))) :=
  onRun_mbxStart_goes_on_then hs (finishReset slice.toNat) (firstFail_match_none (firstFail_cons_none (decide_lt_false hl)
    (firstFail_cons_none (decide_lt_false hm) (firstFail_cons_none (congrArg not hx) (firstFail_cons_none hr rfl)))))

theorem execSliceDelete_goes_on (hs : startsNow ⟨0x0504, 2, true, .other, false⟩ h [.num 0 2 slice.toNat] c s)
    (hn : nsCount s slice.toNat = 0) : execSliceDelete h slice s = .next (finishReset slice.toNat (underWay c ⟨0x0504, 2, true, .other, false⟩
      (startReset slice.toNat { squash := true, deleting := true } (taken c s)))) :=
  onRun_mbxStart_goes_on_then hs (finishReset slice.toNat) (firstFail_match_none (firstFail_cons_none (decide_lt_false hl)
    (firstFail_cons_none (congrArg not hx) (firstFail_cons_none (decide_lt_false hn.le) (firstFail_cons_none hr rfl)))))

end

/-- A drain that has neither squashed nor ended is squashed when its second is over (R198). -/
theorem execSliceResetDrainTimeout_squashes {slice : Fin 4096} {sl : Slice} {r : SliceRun} {s : State} (hp : s.phase = .run)
    (hf : Tbl.find s.slices slice = some sl) (hr : sl.run = some r) (hq : r.squash = false) (ht : r.torn = false) :
    execSliceResetDrainTimeout slice s = .next (finishReset slice (squashSlice slice (reachTime r.limit s))) := by
  rw [execSliceResetDrainTimeout, onRun_eq hp]
  simp only [hf, hr]
  exact congrArg _ (if_neg (Bool.eq_false_iff.mp (Bool.or_eq_false_iff.mpr ⟨hq, ht⟩)))

/-! ## SLICE_DIRTY_LOG (R203) -/

/-- The checks that every OP makes hold the slice to its limit. -/
theorem slice_limit_of_dirtyChecks {n : Nat} {s : State} (hd : firstFail (dirtyChecks s n) = none) : decide (4095 < n) = false := by
  by_contra hb
  rw [Bool.not_eq_false] at hb
  rw [dirtyChecks, firstFail, if_pos hb] at hd
  nomatch hd

theorem firstFail_append_none {l t : List (Bool × MReply)} (hl : firstFail l = none) (ht : firstFail t = none) : firstFail (l ++ t) = none := by
  induction l with
  | nil => exact ht
  | cons x l ih =>
    obtain ⟨_ | _, r⟩ := x
    · exact ih hl
    · nomatch hl

section
variable {h : MbxHdr} {slice : W16} {c : MCmd} {s : State} (hd : firstFail (dirtyChecks s slice.toNat) = none)
include hd

theorem execSliceDirtyLogStart_starts (hs : startsNow ⟨0x0505, 3, true, .other, false⟩ h [.num 0 2 slice.toNat, .num 2 1 (0 : Byte).toNat] c s)
    (hi : isLogging s slice.toNat = false) (hn : loggingSlices s < 64) (ht : isTenant s slice.toNat = false) :
    execSliceDirtyLogStart h slice 0 s =
      .next (mbxAnswer c (replyOk (le64 0)) (tellSlice ((taken c s).modSlice slice.toNat fun sl => { sl with dirty := some {} }))) :=
  onRun_mbxStart_answers hs (firstFail_match_none (firstFail_cons_none (slice_limit_of_dirtyChecks hd) (firstFail_cons_none rfl
    (firstFail_append_none (l := dirtyChecks (taken c s) slice.toNat) hd (firstFail_cons_none hi
    (firstFail_cons_none (decide_eq_false (not_le.mpr hn)) (firstFail_cons_none ht rfl)))))))

variable {len : W32} (hi : isLogging s slice.toNat = true) (hlen : 88 ≤ len.toNat)
include hi hlen

/-- A buffer that a log in progress can be harvested into passes the checks (R203, R204). -/
theorem dirtyBuffer_checks_pass : firstFail (dirtyChecks (taken c s) slice.toNat ++
    [(!isLogging (taken c s) slice.toNat, fieldAt 2), (decide (len.toNat < 88), fieldAt 12)]) = none :=
  firstFail_append_none hd (firstFail_cons_none (congrArg not hi) (firstFail_cons_none (decide_lt_false hlen) rfl))

theorem execSliceDirtyLogHarvest_harvests {addr : W64} (hs : startsNow ⟨0x0505, 3, true, .other, false⟩ h
      [.num 0 2 slice.toNat, .num 2 1 2, .num 4 8 addr.toNat, .num 12 4 len.toNat] c s) :
    execSliceDirtyLogHarvest h slice addr len true s = .next (mbxAnswer c (replyOk (le64 (harvest h.port slice.toNat addr len.toNat (taken c s)).1))
      (harvest h.port slice.toNat addr len.toNat (taken c s)).2) :=
  onRun_mbxStart_answers hs (firstFail_match_none (dirtyBuffer_checks_pass hd hi hlen))

theorem execSliceDirtyLogStop_goes_on {addr : W64} {late ok : Bool} (hs : startsNow ⟨0x0505, 3, true, .other, false⟩ h
      [.num 0 2 slice.toNat, .num 2 1 1, .num 4 8 addr.toNat, .num 12 4 len.toNat] c s) (hw : (late && sliceLeft s slice.toNat) = false) :
    execSliceDirtyLogStop h slice addr len late ok s = .next (finishStop slice.toNat (underWay c ⟨0x0505, 3, true, .other, false⟩
      ((taken c s).modSlice slice.toNat fun sl => { sl with dirtyStop := some (addr, len.toNat, ok) }))) :=
  onRun_mbxStart_goes_on_then hs (finishStop slice.toNat) ((firstFail_match_none (dirtyBuffer_checks_pass hd hi hlen)).trans
    (if_neg (Bool.eq_false_iff.mp hw)))

end

/-! ## The obligation -/

/-- Settles O39: the conditions pass each command's checks; a reset, a removal and a stop of the log go under way and are then looked at once, as they may have ended already. -/
theorem sliceCommandsComplete : Obligations.SliceCommandsComplete := by
  unfold Obligations.SliceCommandsComplete
  refine ⟨?create, ?resize, ?reset, ?drain, ?delete, ?logStart, ?harvest, ?logStop⟩
  case create =>
    intro h slice bindType bind qp ns c s hs hl ht hp hb hq hq' hn hn' hx hu hqr hnr hv
    have hu' : (s.slices.any fun e => decide ((e.2.tenant = true) = (bindType.toNat = 1)) && e.2.bind = bind.toNat) = false := by
      simpa only [decide_eq_prop] using hu
    have hw : (if bindType.toNat = 1 then some 0 else vectorRun s (min qp.toNat 16)).isNone = false :=
      window_found fun h1 => hv (eq_zero_of_toNat_le_one ht h1)
    refine onRun_mbxStart_answers hs ((tryDo_none (sliceLimits_pass hl (fun h => hp (of_decide_eq_true h)) hq' (BitVec.toNat_ne_iff_ne.mpr hn) hn'
      (firstFail_cons_none (decide_lt_false ht) (firstFail_cons_none (decide_eq_false hb) (firstFail_cons_none (decide_lt_false hq)
      (firstFail_cons_none (Bool.or_eq_false_iff.mpr ⟨hx, hu'⟩) (firstFail_cons_none
      (Bool.or_eq_false_iff.mpr ⟨decide_lt_or_lt_false hqr hnr, hw⟩) rfl))))))).trans ?_)
    exact congrArg (fun base => (some (replyOk []), createSlice _ _ _ _ _ base _ (taken c s))) window_base
  case resize =>
    intro h slice qp ns permille c s hs hl hq hq' hn hn' hw hw' hx ho hc hqr hnr
    exact onRun_mbxStart_goes_on hs (firstFail_match_none (firstFail_cons_none (decide_lt_false hl) (firstFail_cons_none (decide_lt_false hq')
      (firstFail_cons_none (Bool.or_eq_false_iff.mpr ⟨decide_eq_false hn, decide_lt_false hn'⟩)
      (firstFail_cons_none (Bool.or_eq_false_iff.mpr ⟨decide_eq_false hw, decide_lt_false hw'⟩) (firstFail_cons_none (decide_lt_false hq)
      (firstFail_cons_none (congrArg not hx) (firstFail_cons_none (decide_lt_or_lt_false ho hc)
      (firstFail_cons_none (decide_lt_or_lt_false hqr hnr) rfl)))))))))
  case reset => exact fun _ _ _ _ _ hs hl hm hx hr => execSliceReset_goes_on hl hx hr hs hm
  case drain => exact fun _ _ _ _ hp hf hr hq ht => execSliceResetDrainTimeout_squashes hp hf hr hq ht
  case delete => exact fun _ _ _ _ hs hl hx hn hr => execSliceDelete_goes_on hl hx hr hs hn
  case logStart =>
    rintro h slice _ c s hs rfl hd hi hn ht
    exact execSliceDirtyLogStart_starts hd hs hi hn ht
  case harvest => exact fun _ _ _ _ _ _ hs hd hi hlen => execSliceDirtyLogHarvest_harvests hd hi hlen hs
  case logStop => exact fun _ _ _ _ _ _ _ _ hs hd hi hlen hw => execSliceDirtyLogStop_goes_on hd hi hlen hs hw

end Sys2Proof.Machine
end

/-! PROOFS of O32 (R253, R256, R258, R259, R277, R292; log entries 126, 127 and 223): segments that close, groups that commit, compaction, scratchpad, and the check of open segments. -/
section
namespace Sys2Proof.Machine
open Sys2Proof

/-! ## Gathering segments and the journal (R258, R292) -/

/-- A segment with groups that is neither a compaction's nor already closing closes: at once where it is full or dirty data presses, else when its 50 ms are over. -/
theorem execSegmentClose_closes {pool : Fin 8} {gather : Nat} {p : Pool} {g : Gather} {s : State} (hp : s.phase = .run)
    (hpool : Tbl.find s.pools pool = some p) (hg : Tbl.find p.gathers gather = some g) (hn : g.granules ≠ 0) (ht : g.through = none)
    (hc : g.closing = false) : execSegmentClose pool gather s = .next (if g.full || decide (9 * ownLimit s < 10 * ownDirty s)
      then closeGather pool gather s else closeGather pool gather (reachTime (g.opened.toNat + 50000000) s)) := by
  rw [execSegmentClose, onRun_eq hp]
  simp only [hpool, hg]
  rw [if_neg (by simp [hn, ht, hc])]

theorem execJournalGroupCommit_commits {n : Nat} {g : Group} {s : State} (hp : s.phase = .run) (hn : nextCommit s = some (n, g))
    (hm : mayCommit s n g = true) : execJournalGroupCommit s = .next (afterCommit (commitGroup n g s)) := by
  rw [execJournalGroupCommit, onRun_eq hp]
  simp only [hn]
  rw [if_pos hm]

/-! ## Compaction (R256, R259; log entries 126 and 223) -/

section
variable {s : State} (hp : s.phase = .run)
include hp

/-- With no compaction under way, one starts where the live journal is large, or else when 2 s have passed since the last start. -/
theorem execCompactionStart_starts {idle : Bool} (hc : s.journal.compacting = none) : execCompactionStart idle s =
    .next (let u := if 2 ^ 28 < liveJournal s then s else reachTime (s.journal.lastCompact + 2000000000) s
      payAll idle ((u.pools.map (·.1)).foldl (pageGathers (highestCommitted u)) { u with
        journal := { u.journal with compacting := some (highestCommitted u), lastCompact := u.time.toNat } })) := by
  rw [execCompactionStart, onRun_eq hp, if_neg (by simp [hc])]

theorem execCompactionStart_goes_on {idle : Bool} {g : Nat} (hc : s.journal.compacting = some g) :
    execCompactionStart idle s = .next (payAll idle s) := by
  rw [execCompactionStart, onRun_eq hp, if_pos (by simp [hc])]

/-- Once none of its pages is on the way and its COMPACT records do not wait already, the records are journaled. -/
theorem execCompactionPagesProgrammed_records {g : Nat} (hc : s.journal.compacting = some g) (ho : pagesOut s = false)
    (hr : ((openGroups s).any fun x => x.effects.contains (.compact g)) = false) :
    execCompactionPagesProgrammed s = .next (compactGroups g ((s.pools.filter fun p => p.2.owned).map (·.1)) s) := by
  rw [execCompactionPagesProgrammed, onRun_eq hp]
  simp only [hc]
  rw [if_neg (by rw [ho, hr]; decide)]

/-! ## Scratchpad and the check of open segments (R253, R277; log entry 127) -/

theorem execScratchpadConvert_converts (hw : s.mapCache.ways < 8) : execScratchpadConvert s = .next { s with
    mapCache := { s.mapCache with ways := s.mapCache.ways + 1, banks := dropWay (15 - s.mapCache.ways) s.mapCache.banks }
    onchip := zeroWay s.mapCache.ways s.onchip } := by
  rw [execScratchpadConvert, onRun_eq hp, if_pos hw]

theorem execScratchpadReturn_returns (hw : 0 < s.mapCache.ways) : execScratchpadReturn s = .next { s with
    mapCache := { s.mapCache with ways := s.mapCache.ways - 1 }, onchip := zeroWay (s.mapCache.ways - 1) s.onchip } := by
  rw [execScratchpadReturn, onRun_eq hp, if_pos hw]

theorem execOpenSegmentCheck_ends {pool : Fin 8} {bad : List Nat} {p : Pool} (hpool : Tbl.find s.pools pool = some p)
    (hc : p.checking = true) : execOpenSegmentCheck pool bad s =
      .next (poolsReach ((suspectSegs pool (bad.filter (inOpenList p)) s).modPool pool fun p => { p with checking := false })) := by
  rw [execOpenSegmentCheck, onRun_eq hp]
  simp only [hpool]
  rw [if_pos hc]

end

/-! ## The obligation -/

/-- Settles O32: the chip runs, and the conditions of each clause name the branch that its command takes. -/
theorem carafeAndJournalComplete : Obligations.CarafeAndJournalComplete := by
  unfold Obligations.CarafeAndJournalComplete
  refine ⟨?close, ?commit, ?start, ?goesOn, ?programmed, ?convert, ?giveBack, ?check⟩
  case close => exact fun _ _ _ _ _ hp hpool hg hn ht hc => execSegmentClose_closes hp hpool hg hn ht hc
  case commit => exact fun _ _ _ hp hn hm => execJournalGroupCommit_commits hp hn hm
  case start =>
    rintro idle s _ hp hc rfl
    exact execCompactionStart_starts hp hc
  case goesOn => exact fun _ _ _ hp hc => execCompactionStart_goes_on hp hc
  case programmed => exact fun _ _ hp hc ho hr => execCompactionPagesProgrammed_records hp hc ho hr
  case convert => exact fun _ hp hw => execScratchpadConvert_converts hp hw
  case giveBack => exact fun _ hp hw => execScratchpadReturn_returns hp hw
  case check => exact fun _ _ _ _ hp hpool hc => execOpenSegmentCheck_ends hp hpool hc

end Sys2Proof.Machine
end

/-! PROOFS of O41 (R264, R273, R328, R334, R337, R343, R350, R353, R356, R357): what each answer of a bridge does to the command that its TAG names. -/
section
namespace Sys2Proof.Machine
open Sys2Proof

/-! ## The command that an answer takes away -/

theorem kamTake_eq_of_fst {port tag : Nat} {c : KCmd} {s : State} (h : (kamTake port tag s).1 = some c) :
    kamTake port tag s = (some c, (kamTake port tag s).2) := Prod.ext h rfl

/-! ## The effect of each answer; `s1` is the state from which the answered command has been taken -/

section
variable {port : Fin 96} {tag : Nat} {st : KStatus} {held : W32} {s s1 : State} (hp : s.phase = .run ∨ s.phase = .flushing)
include hp

theorem execKamardModuleInfoResponse_notes {d : Descr} {temp dieTemp : Byte}
    (ht : kamTake port tag (kamAccept port s) = (some .moduleInfo, s1)) (hd : descrHolds d = true) :
    execKamardModuleInfoResponse port tag d temp dieTemp s = .next (s1.modMod port fun m =>
      { m with descr := some d, rawBytes := d.rawBytes, temp := temp, dieTemp := dieTemp }) := by
  rw [execKamardModuleInfoResponse, onLive_eq hp]
  simp only [ht]
  rw [if_pos hd]

theorem execKamardClaimResponse_claims {g : W32} {b : Bool} (ht : kamTake port tag (kamAccept port s) = (some (.claim g b), s1)) :
    execKamardClaimResponse port tag st held s = .next (
      let s2 := if (s1.kport port).state = .claimed then kamUp port s1 else s1
      if st = .ownerFenced then ownerFenced port held (bumpK port 13 1 s2) else s2) := by
  rw [execKamardClaimResponse, onLive_eq hp]
  simp only [ht]

/-- A READ's answer of which no slot is faulty hands its codewords to the decoders. -/
theorem execKamardReadResponse_reads {slots : List KSlot} {a sense x mask : Nat} {bg : Bool}
    (hf : ((Tbl.find (s.kport port).cmds tag).bind fun c => slotsFault c st slots) = none)
    (ht : kamTake port tag (kamAccept port s) = (some (.read a sense x mask bg), s1)) :
    execKamardReadResponse port tag st slots s = .next (readAnswer port a sense mask bg st s1) := by
  rw [execKamardReadResponse, onLive_eq hp]
  simp only [hf, ht]

theorem execKamardProgramResponse_programs {temp : Byte} {area a : Nat} {g : Bool} {cws : List (List Byte)}
    (ht : kamTake port tag (kamAccept port s) = (some (.program area a g cws), s1)) :
    execKamardProgramResponse port tag st temp held s = .next (
      if area = 0 then programAnswer port a st (progTemp s1 port temp) held s1
      else poolsCreated (if st = .ownerFenced then ownerFenced port held (bumpK port 13 1 s1) else s1)) := by
  rw [execKamardProgramResponse, onLive_eq hp]
  simp only [ht]

theorem execKamardEraseResponse_erases {area a : Nat} (ht : kamTake port tag (kamAccept port s) = (some (.erase area a), s1)) :
    execKamardEraseResponse port tag st held s = .next (eraseAnswer port area a st held s1) := by
  rw [execKamardEraseResponse, onLive_eq hp]
  simp only [ht]

theorem execKamardThreshLoadResponse_loads {die set : Nat} {offs : List Int}
    (ht : kamTake port tag (kamAccept port s) = (some (.threshLoad die set offs), s1)) :
    execKamardThreshLoadResponse port tag st s = .next (threshAnswer port die set offs st s1) := by
  rw [execKamardThreshLoadResponse, onLive_eq hp]
  simp only [ht]

theorem execKamardVaultProgramResponse_acks {x y z : Nat} {cws : List (List Byte)}
    (ht : kamTake port tag (kamAccept port s) = (some (.vaultProgram x y z cws), s1)) :
    execKamardVaultProgramResponse port tag st s =
      .next (if st = .ok then vaultAck port true s1 else vaultDrop port (vaultAck port false s1)) := by
  rw [execKamardVaultProgramResponse, onLive_eq hp]
  simp only [ht]

theorem execKamardVaultEraseResponse_counts {x bank : Nat}
    (ht : kamTake port tag (kamAccept port s) = (some (.vaultErase x bank), s1)) :
    execKamardVaultEraseResponse port tag .ok s = .next (vaultSetRecompute (s1.modMod port fun m =>
      if bank = 0 then { m with erased0 := true } else { m with erased1 := true })) := by
  rw [execKamardVaultEraseResponse, onLive_eq hp]
  simp only [ht, ↓reduceIte]

theorem execKamardBridgeFwWriteResponse_pushes {off : Nat} {data : List Byte}
    (ht : kamTake port tag (kamAccept port s) = (some (.fwWrite off data), s1)) :
    execKamardBridgeFwWriteResponse port tag .ok s = .next (pushAll (s1.modMod port fun m =>
      { m with push := m.push.map fun _ => off + pushStep (s1.kport port) })) := by
  rw [execKamardBridgeFwWriteResponse, onLive_eq hp]
  simp only [ht, ↓reduceIte]

theorem execKamardBridgeFwActivateResponse_restarts {x : Nat} {crc : W32}
    (ht : kamTake port tag (kamAccept port s) = (some (.fwActivate x crc), s1)) :
    execKamardBridgeFwActivateResponse port tag .ok s = .next (s1.modMod port fun m =>
      { m with push := none, restartAt := some (s1.time.toNat + 1000000000) }) := by
  rw [execKamardBridgeFwActivateResponse, onLive_eq hp]
  simp only [ht, ↓reduceIte]

end

/-- A bridge that is not back at the end of its wait has failed (R337). -/
theorem execBridgeRestartTimeout_fails {port : Fin 96} {e : Nat} {s : State} (hp : s.phase = .run)
    (he : (s.mod port).restartAt = some e) : execBridgeRestartTimeout port s =
      .next (pushAll (declareFailed port 3 ((reachTime e s).modMod port fun m => { m with restartAt := none }))) := by
  rw [execBridgeRestartTimeout, onRun_eq hp]
  simp only [he]

/-! ## The obligation -/

/-- Settles O41: the TAG names a command of the answer's kind, and its taking leaves the state on which the command's own effect acts. -/
theorem kamardAnswersComplete : Obligations.KamardAnswersComplete := by
  unfold Obligations.KamardAnswersComplete
  refine ⟨?moduleInfo, ?claim, ?read, ?program, ?erase, ?threshLoad, ?vaultProgram, ?vaultErase, ?fwWrite, ?fwActivate, ?restart⟩
  case moduleInfo => exact fun _ _ _ _ _ _ hp ht hd => execKamardModuleInfoResponse_notes hp (kamTake_eq_of_fst ht) hd
  case claim => exact fun _ _ _ _ _ _ _ hp ht => execKamardClaimResponse_claims hp (kamTake_eq_of_fst ht)
  case read => exact fun _ _ _ _ _ _ _ _ _ _ hp hf ht => execKamardReadResponse_reads hp hf (kamTake_eq_of_fst ht)
  case program => exact fun _ _ _ _ _ _ _ _ _ _ hp ht => execKamardProgramResponse_programs hp (kamTake_eq_of_fst ht)
  case erase => exact fun _ _ _ _ _ _ _ hp ht => execKamardEraseResponse_erases hp (kamTake_eq_of_fst ht)
  case threshLoad => exact fun _ _ _ _ _ _ _ hp ht => execKamardThreshLoadResponse_loads hp (kamTake_eq_of_fst ht)
  case vaultProgram => exact fun _ _ _ _ _ _ _ _ hp ht => execKamardVaultProgramResponse_acks hp (kamTake_eq_of_fst ht)
  case vaultErase => exact fun _ _ _ _ _ hp ht => execKamardVaultEraseResponse_counts hp (kamTake_eq_of_fst ht)
  case fwWrite => exact fun _ _ _ _ _ hp ht => execKamardBridgeFwWriteResponse_pushes hp (kamTake_eq_of_fst ht)
  case fwActivate => exact fun _ _ _ _ _ hp ht => execKamardBridgeFwActivateResponse_restarts hp (kamTake_eq_of_fst ht)
  case restart => exact fun _ _ _ hp he => execBridgeRestartTimeout_fails hp he

end Sys2Proof.Machine
end

/-! PROOFS of O37 (R295, R299, R300, R308, R310 to R312): rebuild and release of segments, and the reshape of a pool from its request to the switch-over. -/
section
namespace Sys2Proof.Machine
open Sys2Proof

/-! ## Rebuild (R295, R299, R300, R306) -/

theorem execRebuildSegment_rebuilds {pool : Fin 8} {seg : Nat} {idle : Bool} {p : Pool} {g : Seg} {l : Layout} {s : State} (hp : s.phase = .run)
    (hq : Tbl.find s.pools pool = some p) (hg : Tbl.find p.segs seg = some g) (hl : layoutOf p (segLayout seg) = some l)
    (hb : (!p.owned || p.fenced || p.offline || p.checking || g.lost || releasing s pool seg
      || (sifOfSeg s pool seg).any (fun x => x.2.state ≠ .committed)) = false)
    (hr : (redundancy l g).isNone = false) (hj : openJobs s pool seg = []) (hw : stripWork s p l seg g ≠ [])
    (ht : rebuildTakes s p (seg, g) = true) : execRebuildSegment pool seg idle s = .next (
      reconstruct p l seg pool (decide (redundancy l g = some 0)) idle ((stripWork s p l seg g).filter fun x => !(stripAt s p l seg x.1).isSome)
        (((stripWork s p l seg g).filter fun x => (stripAt s p l seg x.1).isSome).foldl
          (copyOver p l seg pool (decide (redundancy l g = some 0)) idle) s)) := by
  have ready : ¬(stripWork s p l seg g = [] || !rebuildTakes s p (seg, g)) = true := by simp [hw, ht]
  rw [execRebuildSegment, onRun_eq hp]
  simp only [hq, hg, hl]
  rw [if_neg (Bool.eq_false_iff.mp hb), if_neg (Bool.eq_false_iff.mp hr), if_neg (not_not.mpr hj), if_neg ready]

/-! ## Release (R295) -/

theorem execSegmentRelease_releases {pool : Fin 8} {seg : Nat} {p : Pool} {s : State} (hp : s.phase = .run)
    (hq : Tbl.find s.pools pool = some p) (hm : mayRelease s pool p seg = true) :
    execSegmentRelease pool seg s = .next (releaseSeg pool seg s) := by
  rw [execSegmentRelease, onRun_eq hp]
  simp only [hq]
  rw [if_pos hm]

/-! ## Topiary and the switch-over (R310 to R312) -/

/-- Topiary goes on with a segment of the old layout that it may release, or may begin or go on to copy. -/
theorem execTopiaryMove_goes_on {pool : Fin 8} {seg : Nat} {idle : Bool} {p : Pool} {s : State} (hp : s.phase = .run)
    (hq : Tbl.find s.pools pool = some p) (hr : p.reshaping = true) (he : anyExposed p = false) (hl : segLayout seg = p.cur.id)
    (hm : mayRelease s pool p seg = true ∨ ((oldMoving p < 1024 ∨ (Tbl.find p.segs seg).any (·.moving) = true) ∧ topiaryTakes s p seg = true)) :
    execTopiaryMove pool seg idle s = .next (
      if mayRelease s pool p seg then configGroup pool 0x15 (releaseSeg pool seg (s.modPool pool fun p => { p with cursor := nextOld p seg }))
      else rewritePages pool seg (moveSegment 3 idle pool seg s)) := by
  have here : ¬(!p.reshaping || anyExposed p || decide (segLayout seg ≠ p.cur.id)) = true := by simp [hr, he, hl]
  rw [execTopiaryMove, onRun_eq hp]
  simp only [hq]
  rw [if_neg here]
  by_cases hn : mayRelease s pool p seg = true
  · rw [if_pos hn, if_pos hn]
  · have copies : ((oldMoving p < 1024 || (Tbl.find p.segs seg).any (·.moving)) && topiaryTakes s p seg) = true := by
      simpa using hm.resolve_left hn
    rw [if_neg hn, if_neg hn, if_pos copies]

theorem execReshapeSwitchOver_switches {pool : Fin 8} {p : Pool} {t : Layout} {s : State} (hp : s.phase = .run)
    (hq : Tbl.find s.pools pool = some p) (ht : p.target = some t) (hr : p.reshaping = true)
    (hold : (p.segs.any fun e => segLayout e.1 = p.cur.id) = false) (hs : switchReady p t = true)
    (hn : ((openGroups s).any fun g => g.effects.contains (.switchOver pool)) = false) :
    execReshapeSwitchOver pool s = .next (
      addGroup { pool := pool, effects := [.switchOver pool] } (s.modPool pool fun p => { p with cursor := p.cur.segs })) := by
  rw [execReshapeSwitchOver, onRun_eq hp]
  simp only [hq, ht, hr, hold, hs, hn]
  rfl

/-! ## The obligation -/

/-- Settles O37: the conditions of each clause are the guards of its command, in the order in which the command asks them. -/
theorem rebuildAndReshapeComplete : Obligations.RebuildAndReshapeComplete := by
  unfold Obligations.RebuildAndReshapeComplete
  refine ⟨?reshape, ?rebuild, ?release, ?topiary, ?switchOver⟩
  case reshape =>
    intro h pool k m map p c s hs hpool hk hk' hm hm' hkm hd hp hpres hfree hbusy hcap
    have hf : Tbl.find (taken c s).pools pool.toNat = some p := hp
    refine onRun_mbxStart_answers hs ((tryDo_none ?_).trans ?_)
    · simp only [hf]
      exact firstFail_cons_none (decide_lt_false hpool) (shapeLimits_pass hk hk' hm hm' hkm hd (firstFail_cons_none hpres
        (firstFail_cons_none hfree (firstFail_cons_none hbusy (firstFail_cons_none (decide_lt_false hcap) rfl)))))
    · simp only [hf]
  case rebuild => exact fun _ _ _ _ _ _ _ hp hq hg hl hb hr hj hw ht => execRebuildSegment_rebuilds hp hq hg hl hb hr hj hw ht
  case release => exact fun _ _ _ _ hp hq hm => execSegmentRelease_releases hp hq hm
  case topiary => exact fun _ _ _ _ _ hp hq hr he hl hm => execTopiaryMove_goes_on hp hq hr he hl hm
  case switchOver => exact fun _ _ _ _ hp hq ht hr hold hs hn => execReshapeSwitchOver_switches hp hq ht hr hold hs hn

end Sys2Proof.Machine
end

/-! PROOFS of O40 (R315, R318, R320 to R329): what each event of a Kamard port's training, acknowledgements and losses does in the state that it belongs to. -/
section
namespace Sys2Proof

/-- Of two entries put at one key the later one stays. -/
theorem Tbl.set_set_same {α : Type} (t : Tbl α) (n : Nat) (a b : α) : Tbl.set (Tbl.set t n a) n b = Tbl.set t n b := by
  induction t with
  | nil => simp [Tbl.set]
  | cons x t ih =>
    obtain ⟨k, v⟩ := x
    rcases Nat.lt_trichotomy n k with h | rfl | h
    · simp [Tbl.set, h]
    · simp [Tbl.set]
    · simp [Tbl.set, h.ne', h.not_gt, ih]

end Sys2Proof

namespace Sys2Proof.Machine
open Sys2Proof

@[simp] theorem kport_modK_same (s : State) (n : Nat) (f : KPort → KPort) : (s.modK n f).kport n = f (s.kport n) :=
  Tbl.getD_set_same _ _ _ _

/-- Two changes of one port in a row are one change. -/
theorem modK_modK (s : State) (n : Nat) (f g : KPort → KPort) : (s.modK n f).modK n g = s.modK n fun k => g (f k) := by
  rw [State.modK, kport_modK_same, State.modK, Tbl.set_set_same]
  rfl

/-! ## A module whose HELLO is accepted (R315, R328) -/

/-- The module is CLAIMED and asked for its descriptor. -/
def greeted (port : Nat) (serial : W64) (s : State) : State :=
  returnedMod port (kamSend port .moduleInfo
    ((pushReturned port (freshModule port serial (serialAlarm s))).modK port fun k => { k with state := .claimed }))

/-- The pool that claims the module: the one that it is a member of, unless it was declared failed and has come back. -/
def claimingPool (port : Nat) (s : State) : Option Pool :=
  if (s.mod port).returned then none else (poolOf s port).bind (Tbl.find s.pools)

/-- A pool's member is sent CLAIM, and a free module's port is UP. -/
def claimOrUp (port : Nat) (s : State) : State :=
  (claimingPool port s).elim (kamUp port s) fun p => kamSend port (.claim p.ownerGen false) s

theorem claimOrUp_of_member {port : Nat} {p : Pool} {s : State} (h : claimingPool port s = some p) :
    claimOrUp port s = kamSend port (.claim p.ownerGen false) s := by
  rw [claimOrUp, h, Option.elim_some]

theorem claimOrUp_of_free {port : Nat} {s : State} (h : claimingPool port s = none) : claimOrUp port s = kamUp port s := by
  rw [claimOrUp, h, Option.elim_none]

/-! ## Training (R318, R328, R329) -/

section
variable {port : Fin 96} {s : State} (hp : s.phase = .run)
include hp

theorem execKamardSignalDetect_both (hk : (s.kport port).state = .detect) : execKamardSignalDetect port false s =
    .next (s.modK port fun k => { k with state := .acquire, oneLane := false }) := by
  rw [execKamardSignalDetect, onRun_eq hp, if_pos hk]
  rfl

theorem execKamardSignalDetect_oneLane (hk : (s.kport port).state = .detect) : execKamardSignalDetect port true s =
    .next (raiseAlarm 0x62 (s.modK port fun k => { k with state := .acquire, oneLane := true })) := by
  rw [execKamardSignalDetect, onRun_eq hp, if_pos hk]
  simp only [↓reduceIte, kamNarrow, modK_modK]

theorem execKamardAcquireDone_sends_hello (hk : (s.kport port).state = .acquire) : execKamardAcquireDone port s =
    .next (sendHello port (s.modK port fun k => { k with state := .negotiate, hellos := 1 })) := by
  rw [execKamardAcquireDone, onRun_eq hp, if_pos hk]

/-- The third attempt that does not converge takes the port DOWN; before that it starts over (R328). -/
theorem execKamardAcquireTimeout_counts (hk : (s.kport port).state = .acquire) : execKamardAcquireTimeout port s =
    .next (if 2 ≤ (s.kport port).attempts then kamDownAlarm port s
      else s.modK port fun k => { k with state := .detect, attempts := (s.kport port).attempts + 1 }) := by
  rw [execKamardAcquireTimeout, onRun_eq hp]
  simp only [hk, ↓reduceIte, Nat.reduceLeDiff]
  rfl

theorem execKamardHelloRetry_repeats (hk : (s.kport port).state = .negotiate) : execKamardHelloRetry port s =
    .next (if 100 ≤ (s.kport port).hellos then kamDownAlarm port s
      else sendHello port (s.modK port fun k => { k with hellos := (s.kport port).hellos + 1 })) := by
  rw [execKamardHelloRetry, onRun_eq hp]
  simp only [hk, ↓reduceIte]
  rfl

/-- A reply with a version of this head's, of a module that the peer says nothing against and that need not be told to the peer, claims a member and brings a free module UP (R315, R328). -/
theorem execKamardHelloReply_agrees {version limit : Nat} {serial fw : W64} (hk : (s.kport port).state = .negotiate)
    (hv : version = 1 ∨ version = 2) (hc : (s.kport port).peerSerial = none) (hj : peerSubs s = []) :
    execKamardHelloReply port version limit serial fw s = .next (claimOrUp port (greeted port serial (s.modK port fun k =>
      { k with version := version, limit := min limit (if version = 1 then 256 else 1024), serial := serial, fwVersion := fw }))) := by
  have common : ¬(decide (version = 0) || decide (2 < version)) = true := by
    rcases hv with rfl | rfl <;> decide
  have unshared (f : KPort → KPort) : peerSubs (s.modK port f) = [] := hj
  have agrees : serialClash (s.kport port) serial = none := by rw [serialClash, hc]
  rw [execKamardHelloReply, onRun_eq hp]
  dsimp only
  rw [if_neg (not_not.mpr hk), if_neg common, if_pos (unshared _), agrees, greeted]
  dsimp only
  split
  case h_1 p h => rw [claimOrUp_of_member (p := p) h]
  case h_2 h => rw [claimOrUp_of_free h]

theorem execKamardDownRetry_detects {management : Bool} (hk : (s.kport port).state = .down) : execKamardDownRetry port management s =
    .next (kamAlarms ((if management then s else reachTime ((s.kport port).downAt + 1000000000) s).modK port fun k =>
      { k with state := .detect })) := by
  rw [execKamardDownRetry, onRun_eq hp]
  simp only [hk, ↓reduceIte]

end

/-! ## Acknowledgements and the end of a retrain (R325, R326, R328) -/

section
variable {port : Fin 96} {s : State} (hp : s.phase = .run ∨ s.phase = .flushing)
include hp

theorem execKamardAck_acks {next : W16} : execKamardAck port next s =
    .next (kamFlow port (kamAcked port next.toNat (bumpK port 1 1 s))) := by
  rw [execKamardAck, onLive_eq hp]

/-- What a NAK leaves unacknowledged is resent, but not while the port is in RETRAIN, where the second failure of a frame takes it (R325, R326). -/
theorem execKamardNak_resends {seq : W16} : execKamardNak port seq s = .next (
    let s1 := frameFailed port seq.toNat (kamAcked port seq.toNat (bumpK port 1 1 s))
    if (s1.kport port).state = .retrain then s1 else resendFrames port (s1.kport port).unacked s1) := by
  rw [execKamardNak, onLive_eq hp]

theorem execKamardNakRepeat_repeats (hn : (s.kport port).nakSent = true) : execKamardNakRepeat port s =
    .next (kamControl port (.nak (s.kport port).rxSeq) s) := by
  rw [execKamardNakRepeat, onLive_eq hp, if_pos hn]

theorem execKamardRetrainDone_both (hk : (s.kport port).state = .retrain) : execKamardRetrainDone port .both s =
    .next (resendFrames port (s.kport port).unacked (kamFlow port (kamAlarms (vaultSetRecompute (s.modK port fun k =>
      { k with state := .up, retrainFails := 0 }))))) := by
  rw [execKamardRetrainDone, onLive_eq hp]
  dsimp only
  rw [if_neg (not_not.mpr hk), if_neg (by decide), if_neg (by decide)]

end

/-! ## The obligation -/

/-- Settles O40: training goes by the state that the port is in; an acknowledgement, a lost frame and a lost link have their effect in any state of the port. -/
theorem kamardLinkComplete : Obligations.KamardLinkComplete := by
  unfold Obligations.KamardLinkComplete
  refine ⟨?signal, ?oneLane, ?acquired, ?acquireTimeout, ?helloRetry, ?helloReply, ?ack, ?nak, ?nakRepeat, ?dropped, ?resend, ?keepalive,
    ?loss, ?retrained, ?downRetry⟩
  case signal => exact fun _ _ hp hk => execKamardSignalDetect_both hp hk
  case oneLane => exact fun _ _ hp hk => execKamardSignalDetect_oneLane hp hk
  case acquired => exact fun _ _ hp hk => execKamardAcquireDone_sends_hello hp hk
  case acquireTimeout => exact fun _ _ hp hk => execKamardAcquireTimeout_counts hp hk
  case helloRetry => exact fun _ _ hp hk => execKamardHelloRetry_repeats hp hk
  case helloReply =>
    intro port version limit serial fw s hp hk hv hc hj
    refine (execKamardHelloReply_agrees (limit := limit) (serial := serial) (fw := fw) hp hk hv hc hj).trans (Eq.symm ?_)
    rw [greeted]
    dsimp only
    split
    case h_1 p h => rw [claimOrUp_of_member (p := p) h]
    case h_2 h => rw [claimOrUp_of_free h]
  case ack => exact fun _ _ _ hp => execKamardAck_acks hp
  case nak => exact fun _ _ _ hp => execKamardNak_resends hp
  case nakRepeat => exact fun _ _ hp hn => execKamardNakRepeat_repeats hp hn
  case dropped =>
    intro port fault s hp
    refine (onLive_eq hp).trans (congrArg _ ?_)
    cases fault <;> rfl
  case resend => exact fun _ _ hp => onLive_eq hp
  case keepalive => exact fun _ _ hp => onLive_eq hp
  case loss => exact fun _ _ hp => onLive_eq hp
  case retrained => exact fun _ _ hp hk => execKamardRetrainDone_both hp hk
  case downRetry => exact fun _ _ _ hp hk => execKamardDownRetry_detects hp hk

end Sys2Proof.Machine
end

/-! PROOFS of O31 (R347, R352, R353, R355, R356, R358, R361, R362, R365): verification, decoding, bands, reclaim, cleaning, scrubbing and polling of flash. -/
section
namespace Sys2Proof.Machine
open Sys2Proof

/-! ## Read-back verification (R352) -/

section
variable {m : Fin 96} {page : Nat} {v : VPage} {res : List DecodeResult} {s : State} (hp : s.phase = .run ∨ s.phase = .flushing)
  (hv : Tbl.find (s.mod m).media.verify page = some v) (ha : v.answered = true) (hd : v.done = false)
include hp hv ha hd

/-- A page that passes is verified; a first failure before it was a transient fault. -/
theorem execPageVerify_passes (hr : pagePasses res = true) : execPageVerify m page res s = .next (
    pageVerified m page v (if v.failed then transientFault (plainErr 0x0106 (quadDomain (quadOf m)) (m % 4) page 0 0)
      (readPage false m page 0xFFFF 0 (verifyTime m page v s)) else readPage false m page 0xFFFF 0 (verifyTime m page v s))) := by
  rw [execPageVerify, onLive_eq hp]
  simp only [hv]
  rw [if_neg (by simp [ha, hd]), if_pos hr]

theorem execPageVerify_fails_again (hf : v.failed = true) (hr : pagePasses res = false) : execPageVerify m page res s = .next (
    verifyLost m page v (readPage false m page 0xFFFF 0 (verifyTime m page v s))) := by
  rw [execPageVerify, onLive_eq hp]
  simp only [hv]
  rw [if_neg (by simp [ha, hd]), if_neg (Bool.eq_false_iff.mp hr), if_pos hf]

end

/-! ## Decoding (R353, R355) -/

section
variable {m : Fin 96} {cw : Nat} {res : DecodeResult} {offsets : List Int} {stage : Nat} {again : Bool} {dec : Nat} {job : DecJob} {s : State}
  (hp : s.phase = .run ∨ s.phase = .flushing) (hc : Tbl.find (s.mod m).media.decodes cw = some (stage, again))
  (hj : holderOf s m cw = some (dec, job))
include hp hc hj

theorem execLdpcDecodeDone_decodes {corrected : Nat} (hr : decodedBits res = some corrected) : execLdpcDecodeDone m cw res offsets s = .next (
    decodeOk m cw stage again corrected offsets (checkCw m cw
      (placeOfPage (decoderFree dec (bumpMedia m (stage - 1) 1 s)) m (cw / 16 * 16)) (decodedData res)
      (decoderFree dec (bumpMedia m (stage - 1) 1 s)))) := by
  rw [execLdpcDecodeDone, onLive_eq hp]
  simp only [hc, hj, hr]

/-- Before the exchange stage, a failure reads the page again for the next stage. -/
theorem execLdpcDecodeDone_next_stage (hr : decodedBits res = none) (ht : stage < 3) : execLdpcDecodeDone m cw res offsets s = .next (
    readPage job.background m (cw / 16 * 16) (2 ^ (cw % 16)) stage ((decoderFree dec (bumpMedia m (stage - 1) 1 s)).modMedia m fun d =>
      { d with decodes := Tbl.set d.decodes cw (stage + 1, again) })) := by
  rw [execLdpcDecodeDone, onLive_eq hp]
  simp only [hc, hj, hr]
  rw [if_pos ht]

end

/-! ## Bands and temperatures (R347, R356) -/

/-- The state after the band `b` has had no write for 1 h: its current wordlines are filled, it is no open band any more, and its open blocks are closed. -/
def bandIdled (m : Fin 96) (inReloc : Bool) (b : Band) (s : State) : State :=
  let filled := fillBand m b (reachTime (b.lastWrite.toNat + 3600000000000) s)
  let left := filled.modMedia m fun d => { if inReloc then { d with relocBand := none } else { d with newBand := none } with closing := d.closing ++ [b] }
  let closed := b.blocks.foldl (fun s x => s.modBlock m (x.1 * 2 ^ 14 + x.2) fun k =>
    { k with state := if k.state = .opened then .closed else k.state }) left
  drainWait m (b.blocks.foldl (fun s x => levelWear m x.1 s) closed)

theorem execBandIdleClose_closes {m : Fin 96} {inReloc : Bool} {b : Band} {s : State} (hp : s.phase = .run)
    (hb : bandOf (s.mod m).media inReloc = some b) : execBandIdleClose m inReloc s = .next (bandIdled m inReloc b s) := by
  rw [execBandIdleClose, onRun_eq hp]
  simp only [hb]
  rfl

theorem execModuleInfoPoll_up {m : Fin 96} {s : State} (hp : s.phase = .run) (hk : (s.kport m).state = .up) :
    execModuleInfoPoll m s = .next (kamSend m .moduleInfo s) := by
  rw [execModuleInfoPoll, onRun_eq hp, if_pos hk]

/-! ## Garbage collection (R361, R362) -/

/-- The state in which the GC_INTENT of a block is journaled: the closed block is a source with its intent noted, and the relocation queue has passed it. -/
def reclaimTaken (m : Fin 96) (b : Nat) (s : State) : State :=
  relocReady m ((s.modBlock m b fun k => { k with state := if k.state = .closed then .source else k.state, intent := true }).modMedia m fun d =>
    { d with reloc := d.reloc.filter (· ≠ b) })

theorem execBlockReclaim_journals {m : Fin 96} {b : Nat} {idle : Bool} {s : State} (hp : s.phase = .run)
    (hc : (block (s.mod m) b).copying = false) (hs : (block (s.mod m) b).state = .closed) (hr : reclaimTakes (s.mod m) b = true)
    (hv : validStrips (s.mod m) b ≠ []) (ht : relocTargets (reclaimTaken m b s) m b ≠ []) : execBlockReclaim m b idle s = .next (
      addGroup { pool := (poolOf s m).getD 255, intents := [(m.val, b)], notes := [intentRecord m b (relocTargets (reclaimTaken m b s) m b)] }
        (reclaimTaken m b s)) := by
  rw [execBlockReclaim, onRun_eq hp]
  dsimp only
  rw [if_neg (Bool.eq_false_iff.mp hc), if_pos ⟨.inl ⟨hs, hr⟩, hv⟩]
  exact congrArg _ (if_neg ht)

theorem execSegmentCleaning_moves {pool : Fin 8} {seg : Nat} {idle : Bool} {p : Pool} {g : Seg} {s : State} (hp : s.phase = .run)
    (hq : Tbl.find s.pools pool = some p) (hg : Tbl.find p.segs seg = some g) (ht : cleanTakes s p (seg, g) = true) :
    execSegmentCleaning pool seg idle s = .next (moveSegment 0 idle pool seg s) := by
  rw [execSegmentCleaning, onRun_eq hp]
  simp only [hq, hg]
  rw [if_pos ht]

/-! ## Scrubbing (R35, R358, R365) -/

theorem govRun_issues {a : Nat} {idle : Bool} {cost : List (Nat × Nat)} {f : State → State} {s : State} (h : govMay a idle cost s = true) :
    govRun a idle cost f s = f (govIssue a cost s) := if_pos h

/-! ## The obligation -/

/-- Settles O31: in each clause the command's conditions decide its guards in the order in which it asks them; scrubbing reads its page under the governor's issue. -/
theorem flashCommandsComplete : Obligations.FlashCommandsComplete := by
  unfold Obligations.FlashCommandsComplete
  refine ⟨?passes, ?failsAgain, ?decodes, ?nextStage, ?bandIdle, ?poll, ?reclaim, ?cleaning, ?scrub⟩
  case passes => exact fun _ _ _ _ _ hp hv ha hd hr => execPageVerify_passes hp hv ha hd hr
  case failsAgain => exact fun _ _ _ _ _ hp hv ha hd hf hr => execPageVerify_fails_again hp hv ha hd hf hr
  case decodes => exact fun _ _ _ _ _ _ _ _ _ _ hp hc hj hr => execLdpcDecodeDone_decodes hp hc hj hr
  case nextStage => exact fun _ _ _ _ _ _ _ _ _ hp hc hj hr ht => execLdpcDecodeDone_next_stage hp hc hj hr ht
  case bandIdle => exact fun _ _ _ _ hp hb => execBandIdleClose_closes hp hb
  case poll => exact fun _ _ hp hk => execModuleInfoPoll_up hp hk
  case reclaim =>
    rintro m b idle s u hp hc hs hr hv rfl ht
    exact execBlockReclaim_journals hp hc hs hr hv ht
  case cleaning => exact fun _ _ _ _ _ _ hp hq hg ht => execSegmentCleaning_moves hp hq hg ht
  case scrub => exact fun _ _ _ _ hp hn hm => (onRun_eq hp).trans (congrArg _ ((if_pos hn).trans (govRun_issues hm)))

end Sys2Proof.Machine
end

/-! PROOFS of O6, O56, O57 and O58 (R83, R253, R383, R440 to R458, R467, R470, R511 to R529; log entry 3): the canonical form of the on-chip memory at every step, and which commands may change it, the firmware update state, and the keys and contexts. -/
section
namespace Sys2Proof.Machine
open Sys2Proof

/-- Settles O6: a step runs the front command, and every command keeps the memory canonical (`exec_canonical`). -/
theorem onchipMemoryStaysCanonical : Obligations.OnchipMemoryStaysCanonical := by
  unfold Obligations.OnchipMemoryStaysCanonical
  intro s t hw hs
  exact (canonical_iff t).mp (step_canonical hs ((canonical_iff s).mpr hw))

/-- Settles O56: a command other than the listed ones does not touch the firmware update state (`touches`), and leaves what it does not touch as it was (`exec_keeps`). -/
theorem updateStateChangesOnlyBy : Obligations.UpdateStateChangesOnlyBy := by
  unfold Obligations.UpdateStateChangesOnlyBy
  intro c s t h
  cases c with
  | pwrgoodDeassert | resetNAssert | resetHoldOffExpiry | pwrfailNAssert | pwrfailStableDeassert | vaultFlushDone | inputLatchRelease
  | sysrefLost | tempSample | vddAonUp | vddAonDown | chipResetExit => trivial
  | imageVerifyDone | journalReplay | recoveryLoad => trivial
  | fwStage | fwStagingDone | fwActivateHitless | fwHandoverFreeze | fwActivateNextStart | fwArmed | fwWindowExpiry | fwHeartbeatGap
  | fwConfirm | fwRegionsSynced | primaryRegionRestore | fwAbort => trivial
  | _ =>
    have hk := exec_keeps h
    dsimp only [touches] at hk
    exact kept_fw hk rfl

/-! ## Packets of a queue pair (R378) -/

/-- A packet on a queue pair leaves, besides the network state, what its processing leaves: parking it or dropping it changes no other part (R378). -/
theorem qpPacket_keeps_of_qpJudge {n msk : Nat} {p : QpPkt} (hm : butNet &&& msk = butNet)
    (hj : ∀ y, kept msk (qpJudge n p y) = kept msk y) (s : State) : kept msk (qpPacket n p s) = kept msk s := by
  have ha : ∀ q y, kept msk (qpArrive n q p y) = kept msk y := by
    intro q y
    unfold qpArrive
    split
    · exact hj y
    · (repeat' split) <;> simp [hm]
  unfold qpPacket
  split
  · rfl
  · exact onPort_keeps _ _ _ hm (ha _)

theorem onRun_qpPacket_keeps {n msk : Nat} {p : QpPkt} {s t : State} (hm : butNet &&& msk = butNet)
    (hj : ∀ y, kept msk (qpJudge n p y) = kept msk y) (h : onRun s (qpPacket n p) = .next t) : kept msk t = kept msk s := by
  obtain rfl | rfl := onRun_next h
  · rfl
  · exact qpPacket_keeps_of_qpJudge hm hj s

theorem qpJudge_ack_keeps (n psn : Nat) (s : State) : kept butNetClusterCipher (qpJudge n (.ack psn) s) = kept butNetClusterCipher s := by
  simp [qpJudge]

theorem qpJudge_nak_keeps (n psn : Nat) (why : RoceNak) (cmd : Option Nat) (s : State) :
    kept butNetClusterCipher (qpJudge n (.nak psn why cmd) s) = kept butNetClusterCipher s := by
  simp [qpJudge]

theorem qpJudge_cnp_keeps (n : Nat) (s : State) : kept butNet (qpJudge n .cnp s) = kept butNet s := by
  simp [qpJudge]

/-! ## The memory, the keys and the contexts -/

/-- Settles O58: of the commands outside the list, an acknowledgement, a NAK and a CNP are packets of a queue pair that place no data; any other does not touch the on-chip memory (`touches`). -/
theorem onchipMemoryChangesOnlyBy : Obligations.OnchipMemoryChangesOnlyBy := by
  unfold Obligations.OnchipMemoryChangesOnlyBy
  intro c s t h
  cases c with
  | pwrgoodDeassert | resetNAssert | chipResetExit | pwrfailNAssert | pwrfailStableDeassert | inputLatchRelease | perstAssert
  | resetHoldOffExpiry | vaultFlushDone | sysrefLost | refclkLost | tempSample | vddAonUp | vddAonDown => trivial
  | domainSwitchOffRequest | portDomainJudge | hotReset | functionLevelReset | dataLinkDown | registerWrite | configurationRequest => trivial
  | errorDetected | errorRepeatResult | handlerTimeout | unitSelfTestDone | batchDone => trivial
  | imageVerifyDone | recoveryLoad | fwAbort | fwWindowExpiry | fwHeartbeatGap => trivial
  | roceSend | roceSendWithImmediate | roceSendWithInvalidate | roceRdmaWrite | roceRdmaReadRequest | roceReadResponse
  | qpContextFetched | datagramData => trivial
  | udmaOwnerRelease | udmaStart | udmaEnableClear | udmaCqHeadWrite | udmaRunComplete | scratchpadConvert | scratchpadReturn => trivial
  | xtsEncrypt | xtsDecrypt | xtsReencrypt | gcmOpen | gcmData | gcmClose | rawEncrypt | rawDecrypt | keySlotFill => trivial
  | roceAck n psn => exact kept_onchip (onRun_qpPacket_keeps rfl (qpJudge_ack_keeps n psn) h) rfl
  | roceNak n psn why cmd => exact kept_onchip (onRun_qpPacket_keeps rfl (qpJudge_nak_keeps n psn why cmd) h) rfl
  | roceCnp n => exact kept_onchip (onRun_qpPacket_keeps rfl (qpJudge_cnp_keeps n) h) rfl
  | _ =>
    have hk := exec_keeps h
    dsimp only [touches] at hk
    exact kept_onchip hk rfl

/-- Settles O57: of the commands outside the list, a CNP changes the network state alone; any other does not touch the cipher and digest state (`touches`). -/
theorem keysAndContextsChangeOnlyBy : Obligations.KeysAndContextsChangeOnlyBy := by
  unfold Obligations.KeysAndContextsChangeOnlyBy
  intro c s t h
  cases c with
  | pwrgoodDeassert | resetNAssert | chipResetExit | pwrfailNAssert | pwrfailStableDeassert | inputLatchRelease | peerAliveChange
  | peerAliveTimeout | domainSwitchOffRequest | portDomainJudge | refclkLost | sysrefLost | tempSample | laneEyeCheck
  | imageVerifyDone | controlCoreStart | journalReplay | registerWrite | debugUnlock | recoveryLoad | fwActivateHitless
  | fwHandoverFreeze | fwAbort | fwWindowExpiry | fwHeartbeatGap | volumeCreate | volumeResize | sliceReset
  | sliceResetDrainTimeout | sliceDelete | keyLoad | ktwkLoad | keyRotate | ktwkRotate | keyDestroy | replControlPause
  | replControlResume | replControlStop | replCycleDue | failoverTakeOver | clusterJoin | clusterLeave | netPortConfig | ccWrite
  | deleteIoSubmissionQueue | abort | keepAliveTimeout | propertySet | disconnect | flush | write | read | compare
  | compareAndWrite | datasetManagement | verify | privetLockGrant | writeAdmission | writeStagedWhole | batchDone
  | journalGroupCommit | vaultFlushDone | netLinkDown | cmMad | roceSend | roceSendWithImmediate | roceSendWithInvalidate
  | roceRdmaWrite | roceRdmaReadRequest | roceReadResponse | roceAck | roceNak | qpContextFetched | qpRetransmitTimeout
  | datagramRetransmitTimeout | jalrasHeartbeat | vaultNotice | serials | ownership | resyncDone | sifUpdate | sifAck
  | journalGroup | journalAck | release | mirrorData | mirrorAck | forwardCmd | forwardRsp | proxyMedia | proxyRsp
  | peerPartitionTimeout | joinRequest | joinAccept | viewUpdate | viewAck | suspectTimeout | leave | replOpenAck | replDeltaAck
  | replUnits | replCommit | replCommitAck | repairData | replWrite | replWriteAck | xtsEncrypt | xtsDecrypt | xtsReencrypt
  | gcmOpen | gcmData | gcmClose | rawEncrypt | rawDecrypt | keySlotFill | dgsAlloc | dgsCtxOpen | dgsCtxClose
  | dgsCtxLengthWrite | dgsDataPortWrite | dgsCtxCmp | dgsEcdsaVerify | dgsEcdsaSign | ecdsaOperationDone | errorDetected
  | errorRepeatResult | handlerTimeout | unitSelfTestDone | govPeriodBoundary | resetHoldOffExpiry | viewChangeTimeout
  | pcieCompletionTimeout | pageRequestGroupResponse | asynchronousEventRequest | cqHeadDoorbell | createIoCompletionQueue
  | createIoSubmissionQueue | deleteIoCompletionQueue | formatNvm | getFeatures | getLogPage | hbmTrainingDone | identify
  | jalrasHello | jalrasHelloReply | jalrasRetrainDone | kamardAcquireTimeout | kamardEraseResponse | kamardHelloReply
  | kamardHelloRetry | kamardProgramResponse | kamardReadResponse | kamardRetrainDone | kamardThreshLoadResponse | keepAlive
  | ldpcDecodeDone | nvmeCommandFetch | repairRequest | setFeatures | vddAonUp | vddAonDown => trivial
  | roceCnp n => exact kept_cipher (onRun_qpPacket_keeps rfl (qpJudge_cnp_keeps n) h) rfl
  | _ =>
    have hk := exec_keeps h
    dsimp only [touches] at hk
    exact kept_cipher hk rfl

end Sys2Proof.Machine
end

/-! PROOFS of O60 (R91, R527; log entry 110): the rollback floor and the confirmation of an update. -/
section
namespace Sys2Proof.Machine
open Sys2Proof

theorem confirmedState_iff (s : State) : confirmedState s = true ↔ s.fw.state = 0 ∧ s.fw.copying = false := by
  simp [confirmedState]

section
variable {h : MbxHdr} {target : Byte} {blown : BitVec 3} {s t : State}

theorem execFuseRollbackAdvance_refuses {c : MCmd}
    (hs : startsNow { opcode := 0x0105, since := 1, sem := true, group := .trust } h [.num 0 1 target.toNat] c s)
    (hp : powerRefused s = false) (ht : target.toNat = rollbackValue s + 1) (hc : confirmedState s = false) :
    execFuseRollbackAdvance h target blown s = .next (mbxAnswer c (replyErr .rollbackRefused (rollbackValue s)) (taken c s)) := by
  have hrefused : (!confirmedState s || decide (runningSecurity s < rollbackValue s + 1) || decide (64 ≤ rollbackValue s)) = true := by
    rw [hc]
    rfl
  exact onRun_mbxStart_answers hs ((if_neg (Bool.eq_false_iff.mp hp)).trans ((if_neg (not_not.mpr ht)).trans (if_pos hrefused)))

/-- Each way in which an unconfirmed request ends leaves every fuse as it is. -/
theorem execFuseRollbackAdvance_fuses (he : execFuseRollbackAdvance h target blown s = .next t) (hc : confirmedState s = false) :
    t.fuses = s.fuses := by
  unfold execFuseRollbackAdvance mbxStart at he
  obtain rfl | rfl := onRun_next he
  · rfl
  obtain hk | ⟨_, y, hy, hk⟩ := mbxStartWith_ends _ h _ _ s
  · exact kept_fuses hk rfl
  · have hcy : confirmedState y = false := by rwa [confirmedState, kept_fw hy rfl]
    rw [kept_fuses hk rfl, ← kept_fuses hy rfl]
    dsimp only
    rw [hcy]
    split_ifs with _ _ hconf
    · rfl
    · rfl
    · rfl
    · exact absurd rfl hconf

end

/-- Settles O60: without the confirmation a request is refused before it comes to the fuses. -/
theorem rollbackAdvanceNeedsConfirmation : Obligations.RollbackAdvanceNeedsConfirmation := by
  unfold Obligations.RollbackAdvanceNeedsConfirmation
  refine ⟨?refused, ?blown⟩
  case refused =>
    intro h target blown c s hs hp ht hf
    have hc : confirmedState s = false := by
      rw [Bool.eq_false_iff, ne_eq, confirmedState_iff]
      rintro ⟨hstate, hcopying⟩
      simp [hstate, hcopying] at hf
    exact execFuseRollbackAdvance_refuses hs hp ht hc
  case blown =>
    intro h target blown s t he hne
    by_contra hn
    have hc : confirmedState s = false := Bool.eq_false_iff.mpr fun hc => hn ((confirmedState_iff s).mp hc)
    exact hne (congrArg Fuses.rollback (execFuseRollbackAdvance_fuses he hc))

end Sys2Proof.Machine
end

/-! PROOFS of O24 (R511, R516): the end of staging rewrites the update record in the NOR, which the statement leaves out. -/
section
namespace Sys2Proof.Machine
open Sys2Proof

theorem norFrozen_writeRegion (staging : Bool) (g : Region_) (s : State) : norFrozen (writeRegion staging g s) = norFrozen s := by
  unfold writeRegion norWrites
  split <;> rfl

theorem runningOp_writeRegion (op : Nat) (staging : Bool) (g : Region_) (s : State) :
    runningOp op (writeRegion staging g s) = runningOp op s := by
  unfold writeRegion norWrites
  split <;> rfl

theorem runningOp_saveFw (op : Nat) (f : FwUpdate → FwUpdate) (s : State) : runningOp op (s.saveFw f) = runningOp op s := by
  unfold State.saveFw writeRecord norWrites
  split <;> rfl

/-- Rewriting the update record is an erasure and a programming that leave for the NOR (R511). -/
theorem saveFw_out_length {s : State} (f : FwUpdate → FwUpdate) (hn : norFrozen s = false) :
    (s.saveFw f).out.length = s.out.length + 2 := by
  have hu : norFrozen { s with fw := fwRecord (f s.fw) } = false := hn
  rw [State.saveFw, writeRecord, norWrites, if_neg (Bool.eq_false_iff.mp hu), List.length_append]
  rfl

/-- A staging that ends writes the record, where the NOR takes writes (R511, R516). -/
theorem execFwStagingDone_writes {s t : State} (hp : s.phase = .run) (hf : s.fw.state = 2) (hn : norFrozen s = false)
    (hr : runningOp 0x0201 s = none) (ht : execFwStagingDone true s = .next t) : 2 ≤ t.out.length := by
  rw [execFwStagingDone, onRun_eq hp, if_neg (not_not.mpr hf)] at ht
  have hidle : runningOp 0x0201 (writeRegion true s.fw.next (norWork false s)) = none := (runningOp_writeRegion _ _ _ _).trans hr
  have hfree : norFrozen (writeRegion true s.fw.next (norWork false s)) = false := (norFrozen_writeRegion _ _ _).trans hn
  simp only [if_true, finishOp, runningOp_saveFw, hidle] at ht
  cases ht
  rw [saveFw_out_length _ hfree]
  exact Nat.le_add_left 2 _

/-- Refutes O24: FW_STAGING_DONE in STATE 2 writes the staged region and the update record to the NOR, where the statement's next state has written nothing. -/
theorem not_firmwareCommandsComplete : ¬ Obligations.FirmwareCommandsComplete := by
  unfold Obligations.FirmwareCommandsComplete
  rintro ⟨-, hstaged, -⟩
  have h := hstaged { State.reset with phase := .run, fw := { state := 2 } } rfl rfl
  have hwrites := execFwStagingDone_writes rfl rfl rfl rfl h
  exact absurd hwrites (by decide)

end Sys2Proof.Machine
end

/-! PROOFS of O34 (R442, R451 to R458): cipher requests of a key that a slot holds. -/
section
namespace Sys2Proof.Machine
open Sys2Proof

section
variable {r : CipherReq} {s : State}

/-! ## XTS (R451, R455) -/

theorem runXts_slot {enc : Bool} {n : Nat} {k : KeySlot} (hg : groupUp s 0 = true) (hb : xtsBad r = false)
    (hk : keyRef s r.keyIndex r.gen (some r.tweakIv.toNat) = .slot n k) :
    runXts enc r s = cipherDone r .ok 0 r.data.length (Config.xts enc k.key r.tweakIv r.data)
      (if enc then countSlotUse k (touchSlot n s) else touchSlot n s) := by
  simp only [runXts, hg, hb, hk]
  rfl

theorem runReencrypt_slots {n n2 : Nat} {k k2 : KeySlot} (hg : groupUp s 0 = true) (hb : xtsBad r = false)
    (hk : keyRef s r.keyIndex r.gen (some r.tweakIv.toNat) = .slot n k)
    (hk2 : keyRef s r.keyIndex2 r.gen2 (some r.tweak2.toNat) = .slot n2 k2) :
    runReencrypt r s = cipherDone r .ok 0 r.data.length
      (Config.xts true k2.key (r.tweak2.setWidth 128) (Config.xts false k.key r.tweakIv r.data))
      (countSlotUse k2 (touchSlot n2 (touchSlot n s))) := by
  simp only [runReencrypt, hg, hb, hk, hk2]
  rfl

/-! ## GCM contexts (R453, R455 to R458) -/

theorem pickContext_free (hc : r.ctx < 64) (hg : groupUp s (r.ctx / 32) = true) (hf : Tbl.find s.cipher.gcm r.ctx = none) :
    pickContext r s = (s, some r.ctx, .ok) := by
  rw [pickContext, if_neg (by omega), if_neg (by omega), if_neg (by simp [hg]), hf]

/-- A context of the agent that asks, opened with a derived key: the key's own count of uses sets no bound on it (R452). -/
theorem runGcmOpen_derived {m : Nat} {k : KeySlot} (hp : pickContext r s = (s, some r.ctx, .ok))
    (hk : keyRef s r.keyIndex r.gen none = .slot m k) (hkind : k.gcmKind = true) (huse : k.use = .derived) :
    runGcmOpen r s = cipherDone r .ok r.ctx 0 [] ((if r.decrypt then touchSlot m s else countSlotUse k (touchSlot m s)).ciph fun c =>
      { c with gcm := Tbl.set c.gcm r.ctx {
        owner := r.agent, decrypt := r.decrypt, weight := max 1 r.weight, slot := m, iv := leBytes 12 r.tweakIv.toNat } }) := by
  simp only [runGcmOpen, hp, hk, hkind, huse]
  rfl

variable {c : GcmCtx}

theorem ownCtx_own (hc : Tbl.find s.cipher.gcm r.ctx = some c) (ho : c.owner = r.agent) : ownCtx r s = (some c, .ok, s) := by
  simp only [ownCtx, hc, ho, if_true]

section
variable (hc : ownCtx r s = (some c, .ok, s)) (hf : c.failed = false)
include hc hf

theorem runGcmData_aad (ha : r.aad = true) (hl : c.aad.length + r.data.length ≤ 65536) :
    runGcmData r s = cipherDone r .ok r.ctx r.data.length []
      (s.ciph fun k => { k with gcm := Tbl.set k.gcm r.ctx { c with aad := c.aad ++ r.data } }) := by
  simp only [runGcmData, hc, hf, ha]
  exact if_neg (not_lt.mpr hl)

theorem runGcmData_text (ha : r.aad = false) (hn : c.final = false) (hl : c.text.length + r.data.length < 4294967296) :
    runGcmData r s = cipherDone r .ok r.ctx r.data.length (Config.gcmText (slotKey s c.slot) c.iv c.text.length r.data)
      (s.ciph fun k => { k with gcm := Tbl.set k.gcm r.ctx { c with
        text := c.text ++ (if c.decrypt then r.data else Config.gcmText (slotKey s c.slot) c.iv c.text.length r.data)
        final := c.final || decide (r.data.length % 16 ≠ 0) } }) := by
  have hfit : ¬(c.final = true ∨ 2 ^ 32 - 1 < c.text.length + r.data.length) := by
    simp only [hn, Bool.false_eq_true, false_or]
    omega
  simp only [runGcmData, hc, hf, ha]
  exact if_neg hfit

theorem runGcmClose_own :
    runGcmClose r s =
      if c.decrypt then
        cipherDone r (if Config.gcmTag (slotKey s c.slot) c.iv c.aad c.text = leBytes 16 r.tweakIv.toNat then .ok else .tagFail) r.ctx
          c.text.length [] (s.ciph fun k => { k with gcm := Tbl.del k.gcm r.ctx })
      else
        cipherDone r .ok r.ctx c.text.length (Config.gcmTag (slotKey s c.slot) c.iv c.aad c.text)
          (s.ciph fun k => { k with gcm := Tbl.del k.gcm r.ctx }) := by
  simp only [runGcmClose, hc, hf]
  rfl

end

/-! ## Raw blocks (R442, R454) -/

theorem runRaw_slot {enc : Bool} {n : Nat} {k : KeySlot} (hg : groupUp s 0 = true) (h0 : r.data.length ≠ 0)
    (h16 : r.data.length % 16 = 0) (hl : r.data.length ≤ 4294967280) (hk : keyRef s r.keyIndex r.gen none = .slot n k)
    (hkind : k.gcmKind = true) :
    runRaw enc r s = cipherDone r .ok 0 r.data.length (Config.aes enc k.key r.data) (touchSlot n s) := by
  have hfit : ¬(r.data.length = 0 ∨ r.data.length % 16 ≠ 0 ∨ 2 ^ 32 - 16 < r.data.length) := by omega
  simp only [runRaw, hg, hk, hkind]
  exact if_neg hfit

end

/-! ## The obligation -/

/-- Settles O34: each request runs while the chip is live, and its conditions pass the checks of group, length, key and context. -/
theorem cipherRequestsComplete : Obligations.CipherRequestsComplete := by
  unfold Obligations.CipherRequestsComplete
  refine ⟨?encrypt, ?decrypt, ?reencrypt, ?gcmOpen, ?aad, ?text, ?close, ?rawEncrypt, ?rawDecrypt⟩
  case encrypt => exact fun _ _ _ _ hp hg hb hk => (onLive_eq hp).trans (congrArg _ (runXts_slot hg hb hk))
  case decrypt => exact fun _ _ _ _ hp hg hb hk => (onLive_eq hp).trans (congrArg _ (runXts_slot hg hb hk))
  case reencrypt => exact fun _ _ _ _ _ _ hp hg hb hk hk2 => (onLive_eq hp).trans (congrArg _ (runReencrypt_slots hg hb hk hk2))
  case gcmOpen =>
    intro r m k s hp hc hg hf hk hkind huse
    exact (onLive_eq hp).trans (congrArg _ (runGcmOpen_derived (pickContext_free hc hg hf) hk hkind huse))
  case aad => exact fun _ _ _ hp hc ho hf ha hl => (onLive_eq hp).trans (congrArg _ (runGcmData_aad (ownCtx_own hc ho) hf ha hl))
  case text => exact fun _ _ _ hp hc ho hf ha hn hl => (onLive_eq hp).trans (congrArg _ (runGcmData_text (ownCtx_own hc ho) hf ha hn hl))
  case close => exact fun _ _ _ hp hc ho hf => (onLive_eq hp).trans (congrArg _ (runGcmClose_own (ownCtx_own hc ho) hf))
  case rawEncrypt => exact fun _ _ _ _ hp hg h0 h16 hl hk hkind => (onLive_eq hp).trans (congrArg _ (runRaw_slot hg h0 h16 hl hk hkind))
  case rawDecrypt => exact fun _ _ _ _ hp hg h0 h16 hl hk hkind => (onLive_eq hp).trans (congrArg _ (runRaw_slot hg h0 h16 hl hk hkind))

end Sys2Proof.Machine
end

/-! PROOFS of O44 (R369 to R372, R387, R401; log entries 1, 10, 77 and 78): network ports, the addresses of a logical port, and priority pauses. -/
section
namespace Sys2Proof.Machine
open Sys2Proof

/-! ## Frames that an up logical port takes (R369, R371) -/

theorem onRun_onPort_takes {l : Nat} {f : State → State} {s : State} (hs : onLink l s) :
    onRun s (onPort l f) = .next (f (frameIn l s)) := (onRun_eq hs.1).trans (congrArg _ (onPort_runs hs))

theorem lport_modLport (s : State) (l : Nat) (f : LPort → LPort) : (s.modLport l f).lport l = f (s.lport l) :=
  Tbl.getD_set_same _ _ _ _

theorem bumpL_ipv4 (l i n : Nat) (s : State) : ((bumpL l i n s).lport l).ipv4 = (s.lport l).ipv4 := by
  rw [bumpL, lport_modLport]

/-- Counting a frame in keeps the port's address. -/
theorem frameIn_ipv4 (l : Nat) (s : State) : ((frameIn l s).lport l).ipv4 = (s.lport l).ipv4 := by
  rw [frameIn, bumpL_ipv4, bumpL_ipv4]
  rfl

/-! ## Ports and links (R369, R370, R401) -/

section
variable {h : MbxHdr} {port breakout pfc : Byte} {mtu : W16} {s : State}

theorem netPortConfig_passes (hp : port.toNat ≤ 7) (hb : breakout.toNat ≤ 2) (hc : countBits pfc.toNat 8 ≤ 3) (hlo : 1500 ≤ mtu.toNat)
    (hhi : mtu.toNat ≤ 9000) (hf : hasBit s.power.fenced (netDomain port.toNat) = false)
    (hq : (s.net.qps.any fun e => e.2.lport / 4 = port.toNat) = false) :
    firstFail [
      (decide (7 < port.toNat), limitAt 0), (decide (2 < breakout.toNat), fieldAt 1), (decide (3 < countBits pfc.toNat 8), fieldAt 2),
      (decide (mtu.toNat < 1500) || decide (9000 < mtu.toNat), fieldAt 4),
      (hasBit s.power.fenced (netDomain port.toNat), replyErr .fenced (netDomain port.toNat)),
      (s.net.qps.any fun e => e.2.lport / 4 = port.toNat, replyErr .inUse 0)] = none := by
  simp only [firstFail, decide_lt_false hp, decide_lt_false hb, decide_lt_false hc, decide_lt_false hlo, decide_lt_false hhi, hf, hq]
  rfl

theorem execNetLinkDown_up {l : Fin 32} (hp : s.phase = .run ∨ s.phase = .flushing) (hu : lportUp s l = true) :
    execNetLinkDown l s = .next (lportDown l s) := (onLive_eq hp).trans (congrArg _ (if_pos hu))

theorem execNetLinkUp_trained {l : Fin 32} (hp : s.phase = .run) (he : lportExists s l = true)
    (hon : hasBit s.power.on (netDomain (l / 4)) = true) (hd : laneDead s l = false) :
    execNetLinkUp l s = .next (netEmit l 0 (.dhcpRequest l) (s.modLport l fun p => { p with
      up := true, training := false, dhcpAsking := true
      ipv6 := if p.ipv6.any (fun e => e.1 = linkLocal s l) then p.ipv6 else (linkLocal s l, none) :: p.ipv6 })) :=
  (onRun_eq hp).trans (congrArg _ (if_neg (by simp [he, hon, hd])))

/-! ## Addresses (R372) -/

variable {l : Fin 32}

theorem routerAdvertisement_heeded {pre : BitVec 64} {valid preferred : W32} (hl : pre.toNat / 2 ^ 54 ≠ 0x3FA)
    (hv : preferred.toNat ≤ valid.toNat) :
    ¬(!true || decide (pre.toNat / 2 ^ 54 = 0x3FA) || decide (valid.toNat < preferred.toNat)) = true := by
  rw [decide_eq_false hl, decide_lt_false hv]
  exact Bool.false_ne_true

theorem execDhcpv4LeaseTimer_leased (hp : s.phase = .run) (ha : (s.lport l).ipv4.isNone = false) :
    execDhcpv4LeaseTimer l s = .next (
      let s1 := if (s.lport l).dhcpAsking then (reachTime (s.lport l).expireAt s).modLport l (fun p => { p with ipv4 := none })
        else (reachTime (s.lport l).renewAt s).modLport l fun p => { p with dhcpAsking := true }
      if lportUp s1 l then netEmit l 0 (.dhcpRequest l) s1 else s1) := by
  rw [execDhcpv4LeaseTimer, onRun_eq hp]
  refine congrArg _ ((if_neg (Bool.eq_false_iff.mp ha)).trans ?_)
  split <;> rfl

variable (hs : onLink l s)
include hs

theorem execArpRequest_own {target : W32} (ht : (s.lport l).ipv4 = some target) :
    execArpRequest l target s = .next (netEmit l 0 (.arpReply l (macOf s l) target) (frameIn l s)) :=
  (onRun_onPort_takes hs).trans (congrArg _ (if_pos ((frameIn_ipv4 l s).trans ht)))

theorem execNeighborSolicitation_own {target : BitVec 128} (ht : holdsV6 (frameIn l s) l target = true) :
    execNeighborSolicitation l target s = .next (netEmit l 0 (.ndReply l (macOf s l) target) (frameIn l s)) :=
  (onRun_onPort_takes hs).trans (congrArg _ (if_pos ht))

theorem execIcmpEcho_own {a : W32} (ha : ((frameIn l s).lport l).ipv4 = some a) :
    execIcmpEcho l (.v4 a) s = .next (netEmit l 0 (.echoReply l) (frameIn l s)) :=
  (onRun_onPort_takes hs).trans (congrArg _ (if_pos (decide_eq_true ha)))

end

/-! ## The obligation -/

/-- Settles O44: each row runs in its phase on an up port, and its conditions name the branch that it takes. -/
theorem networkPortsComplete : Obligations.NetworkPortsComplete := by
  unfold Obligations.NetworkPortsComplete
  refine ⟨?config, ?query, ?linkDown, ?linkUp, ?arp, ?neighbor, ?echo, ?router, ?dhcp, ?lease, ?pfc⟩
  case config =>
    exact fun _ _ _ _ _ _ _ hs hp hb hc hlo hhi hf hq => onRun_mbxStart_answers hs (tryDo_none (netPortConfig_passes hp hb hc hlo hhi hf hq))
  case query => exact fun _ _ _ _ _ _ hs hp => onRun_mbxStart_answers hs (if_neg (not_lt.mpr hp))
  case linkDown => exact fun _ _ hp hu => execNetLinkDown_up hp hu
  case linkUp => exact fun _ _ hp he hon hd => execNetLinkUp_trained hp he hon hd
  case arp => exact fun _ _ _ hs ht => execArpRequest_own hs ht
  case neighbor => exact fun _ _ _ hs ht => execNeighborSolicitation_own hs ht
  case echo => exact fun _ _ _ hs ha => execIcmpEcho_own hs ha
  case router => exact fun _ _ _ _ _ hs hl hv => (onRun_onPort_takes hs).trans (congrArg _ (if_neg (routerAdvertisement_heeded hl hv)))
  case dhcp => exact fun _ _ _ _ hs ha => (onRun_onPort_takes hs).trans (congrArg _ (if_neg (by simp [ha])))
  case lease => exact fun _ _ hp ha => execDhcpv4LeaseTimer_leased hp ha
  case pfc => exact fun _ _ _ _ hs => onRun_onPort_takes hs

end Sys2Proof.Machine
end

/-! PROOFS of O45 (R377 to R379, R394, R399, R400; log entries 68 and 69): connections that are made, requests at the expected PSN, and contexts that are fetched. -/
section
namespace Sys2Proof.Machine
open Sys2Proof

/-! ## Connections and contexts (R377, R378) -/

theorem execCmMad_accepts {l remote psn : Nat} {setup : FwSetup} {s : State} (hs : onLink l s) (hq : s.net.qps.length < 262144) :
    execCmMad (.connectRequest l servicePort remote psn) setup s = .next (
      let u := frameIn l s
      let n := Tbl.freshFrom u.net.qps 262146 u.net.nextQp
      let d := draw u
      let q : Qp := { lport := l, remoteQp := remote, ePsn := psn % 2 ^ 24, sPsn := d.1 % 2 ^ 24, trig := setup.bind }
      netEmit l prioData (.cm l n true) (applySetup setup (d.2.modNet fun t => { t with qps := Tbl.set t.qps n q, nextQp := n + 1 }))) := by
  have hroom : ¬(decide (servicePort ≠ servicePort) || decide (262144 ≤ (frameIn l s).net.qps.length)) = true := by
    have hfew : ¬262144 ≤ (frameIn l s).net.qps.length := not_le.mpr hq
    simp [hfew]
  exact (onRun_eq hs.1).trans (congrArg _ ((onPort_runs hs).trans (if_neg hroom)))

theorem execQpContextFetched_room {n : Nat} {x : Qp} {s : State} (hp : s.phase = .run) (hx : Tbl.find s.net.qps n = some x)
    (hc : x.cached = false) (hr : cachedCount s < 16384) :
    execQpContextFetched n s = .next (pumpQs [.qp n] (judgeAll n x.parked
      (touchQp n ((cacheRead 4 n s).modQp n fun x => { x with cached := true, parked := [] })))) := by
  rw [execQpContextFetched, onRun_eq hp]
  simp only [hx, hc, if_pos hr]
  rfl

/-! ## Requests at the expected PSN (R379, R394, R399) -/

section
variable {n : Nat} {q : Qp} {op : RoceOp} {pk : RocePkt} {s : State}

theorem roceSend_toController {ctrl : Nat} (hc : q.nvme = some ctrl) :
    roceSend n q op pk s = capsuleIn ctrl q.nvmeSq (roceAccept n pk s) := by
  simp only [roceSend, hc]

/-- The key that a SEND WITH INVALIDATE names is one of the queue pair's (R399). -/
def invalidates (n : Nat) (pk : RocePkt) (s : State) : Prop :=
  ∃ r, Tbl.find s.net.regions (pk.invKey.getD 0).toNat = some r ∧ r.qp = some n

theorem roceSend_lands {b : RecvBuf} {rest : List RecvBuf} (hn : q.nvme = none) (hb : q.recv = b :: rest)
    (hl : pk.payload.length ≤ b.len) (hk : op = .sendInv → invalidates n pk s) :
    roceSend n q op pk s = (
      let s2 := roceAccept n pk ((chipPut b.addr.toNat pk.payload s).modQp n fun q => { q with recv := rest })
      let s3 := if op = .sendInv then s2.modNet fun t => { t with regions := Tbl.del t.regions (pk.invKey.getD 0).toNat } else s2
      let s4 := record (.qp n) b.wrId pk.payload.length (if op = .sendImm then pk.imm.getD 0 else 0) .ok 1 0 0 s3
      match q.trig with
      | some c => pumped (countTrig c s4)
      | none => s4) := by
  simp only [roceSend, hn, hb]
  refine (if_neg ?_).trans (if_neg (not_lt.mpr hl))
  intro hbad
  obtain ⟨hop, hbad⟩ := (Bool.and_eq_true _ _).mp hbad
  obtain ⟨r, hr, hqp⟩ := hk (of_decide_eq_true hop)
  simp only [hr, hqp, decide_true, Bool.not_true, Bool.false_eq_true] at hbad

theorem roceExecute_write (ha : roceAllowed s n q pk.rkey pk.remoteAddr pk.payload.length true = true) :
    roceExecute n q .write pk s = roceAccept n pk (chipPut pk.remoteAddr.toNat pk.payload s) := if_pos ha

theorem roceExecute_readReq (ha : roceAllowed s n q pk.rkey pk.remoteAddr pk.readLen false = true) :
    roceExecute n q .readReq pk s = roceReadAnswer n pk (s.modQp n fun q => { q with ePsn := psnAdd q.ePsn pk.packets, nakSent := false }) :=
  if_pos ha

end

theorem onRun_roceIn_executes {x : Qp} {op : RoceOp} {pk : RocePkt} {s t : State} (hp : s.phase = .run) (hx : atQp pk x s)
    (ht : roceExecute pk.qp x op pk (qpMet pk x s) = t) : onRun s (onPort pk.lport (roceIn op pk)) = .next t := by
  rw [onRun_eq hp, roceIn_runs hx, ht]

/-! ## The obligation -/

/-- Settles O45: a request at the expected PSN is executed on the state in which its queue pair has met it, and its conditions name the branch of its execution. -/
theorem connectedRequestsComplete : Obligations.ConnectedRequestsComplete := by
  unfold Obligations.ConnectedRequestsComplete
  refine ⟨?connect, ?capsule, ?send, ?sendImm, ?sendInv, ?write, ?read, ?fetched⟩
  case connect => exact fun _ _ _ _ _ hs hq => execCmMad_accepts hs hq
  case capsule => exact fun _ _ _ _ hp hx hc => onRun_roceIn_executes hp hx (roceSend_toController hc)
  case send =>
    intro pk x b rest s hp hx hn hb hl
    exact onRun_roceIn_executes (op := .send) hp hx (roceSend_lands hn hb hl nofun)
  case sendImm =>
    intro pk x b rest s hp hx hn hb hl
    exact onRun_roceIn_executes (op := .sendImm) hp hx (roceSend_lands hn hb hl nofun)
  case sendInv =>
    intro pk x b rest key r s hp hx hn hb hl hkey hr hqp
    have hk : invalidates pk.qp pk (qpMet pk x s) := ⟨r, by rw [hkey]; exact hr, hqp⟩
    have hlands := roceSend_lands (op := .sendInv) hn hb hl fun _ => hk
    rw [hkey] at hlands
    exact onRun_roceIn_executes (op := .sendInv) hp hx hlands
  case write => exact fun _ _ _ hp hx ha => onRun_roceIn_executes hp hx (roceExecute_write ha)
  case read => exact fun _ _ _ hp hx ha => onRun_roceIn_executes hp hx (roceExecute_readReq ha)
  case fetched => exact fun _ _ _ hp hx hc hr => execQpContextFetched_room hp hx hc hr

end Sys2Proof.Machine
end

/-! PROOFS of O47 (R381 to R383, R385 to R389): sessions, packets and their entries, acknowledgements, and the probing of paths. -/
section
namespace Sys2Proof.Machine
open Sys2Proof

/-! ## Packets and their entries (R383, R385, R388) -/

/-- A packet of the version that its sender and this chip agreed on, and no write in version 1 (R388). -/
theorem version_agreed {p : DPeer} {pk : DataPkt} (hv : p.rxVersion = pk.version) (hw : p.rxVersion = 1 → pk.write = false) :
    ¬(decide (p.rxVersion ≠ pk.version) || (decide (p.rxVersion = 1) && pk.write)) = true := by
  simp only [Bool.or_eq_true, Bool.and_eq_true, decide_eq_true_eq]
  rintro (hne | ⟨h1, hwrite⟩)
  · exact hne hv
  · exact Bool.false_ne_true ((hw h1).symm.trans hwrite)

theorem execDatagramData_places {l : Fin 32} {pk : DataPkt} {e e1 : Reasm} {s s1 : State} (hw : dgWelcome l pk s)
    (he : Tbl.find (frameIn l s).net.reasm (reKey pk.node pk.msgId) = some e) (hf : faulty e pk = false)
    (ha : assign e pk (dgMet l pk s) = .ok (e1, s1)) :
    execDatagramData l pk s = .next (placePacket l (reKey pk.node pk.msgId) e1 pk (setEntry (reKey pk.node pk.msgId) e1 s1)) := by
  obtain ⟨hs, hdst, hsound, hsession, hversion, hwrite, hopen⟩ := hw
  have htake : takePacket l (reKey pk.node pk.msgId) e pk (dgMet l pk s) =
      placePacket l (reKey pk.node pk.msgId) e1 pk (setEntry (reKey pk.node pk.msgId) e1 s1) := by
    rw [takePacket, if_neg (Bool.eq_false_iff.mp hf), ha]
  rw [execDatagramData, onRun_eq hs.1, onPort_runs hs]
  refine congrArg _ ?_
  refine (if_neg (not_not.mpr hdst)).trans ((if_neg (by simp [hsound])).trans ((if_neg (not_not.mpr hsession)).trans
    ((if_neg (version_agreed hversion hwrite)).trans ((if_neg (Bool.eq_false_iff.mp hopen)).trans ?_))))
  simp only [he]
  exact htake

theorem execDatagramAckDue_owes {node : Nat} {id : W32} {e : Reasm} {s : State} (hp : s.phase = .run)
    (he : Tbl.find s.net.reasm (reKey node id) = some e) (hu : e.unacked ≠ []) :
    execDatagramAckDue node id s = .next (ackEntry (reKey node id) e (reachTime (e.ackFrom + 2000) s)) := by
  rw [execDatagramAckDue, onRun_eq hp]
  simp only [he, if_neg hu]

theorem execReassemblyExpiry_drops {node : Nat} {id : W32} {e : Reasm} {s : State} (hp : s.phase = .run)
    (he : Tbl.find s.net.reasm (reKey node id) = some e) :
    execReassemblyExpiry node id s =
      .next (settleRegions (dropEntry (reKey node id) (bumpDg 2 1 (reachTime (e.lastAt + 32500000) s)))) := by
  rw [execReassemblyExpiry, onRun_eq hp]
  simp only [he]

/-! ## Sessions (R381, R382) -/

theorem execDatagramHelloRetry_waits {node e : Nat} {s : State} (hp : s.phase = .run) (he : (s.dpeer node).helloAt = some e) :
    execDatagramHelloRetry node s = .next (
      let s1 := reachTime ((s.dpeer node).helloLast + 1000000) s
      if e + 100000000 ≤ s1.time.toNat then
        raiseAlarm 0x63 (failWaiting (s.dpeer node).waiting (s1.modPeer node fun p => { p with helloAt := none, waiting := [] }))
      else sendHelloTo node s1) := by
  rw [execDatagramHelloRetry, onRun_eq hp]
  simp only [he]

theorem execDatagramHelloReply_agrees {l : Fin 32} {node version paths : Nat} {session : W32} {s : State} (hs : onLink l s)
    (hv : version = 1 ∨ version = 2) (hw : (s.dpeer node).helloAt.isNone = false) :
    execDatagramHelloReply l node version paths session s = .next (
      let u := frameIn l s
      let n := max 1 (min (if version = 1 then 8 else 16) paths)
      let s1 := if (u.dpeer node).seen ≠ session && (u.dpeer node).session ≠ some session then newTraffic node u else u
      pumped (startWaitingMsgs node (s1.modPeer node fun p => { p with
        version := some version, helloAt := none, seen := session, paths := List.replicate n {} }))) := by
  have hknown : ¬(decide (version = 0) || decide (2 < version)) = true := by
    simp only [Bool.or_eq_true, decide_eq_true_eq]
    omega
  exact (onRun_onPort_takes hs).trans (congrArg _ ((if_neg (Bool.eq_false_iff.mp hw)).trans (if_neg hknown)))

/-! ## Paths (R387) -/

section
variable {node path : Nat} {s : State} (hl : path < (s.dpeer node).paths.length)
include hl

theorem execDatagramProbeReply_revives {l : Fin 32} (hs : onLink l s) (hd : ((s.dpeer node).paths.getD path {}).state = .down) :
    execDatagramProbeReply l node path s = .next (modPath node path (fun x => { x with state := .up, probes := 0 }) (frameIn l s)) := by
  have hd' : (((frameIn l s).dpeer node).paths.getD path {}).state = .down := hd
  refine (onRun_onPort_takes hs).trans (congrArg _ ((if_neg (not_le.mpr hl)).trans ?_))
  simp only [hd']

theorem path_judged {st : PathState} (hst : ((s.dpeer node).paths.getD path {}).state = st) :
    ¬(decide ((s.dpeer node).paths.length ≤ path) || decide (((s.dpeer node).paths.getD path {}).state ≠ st)) = true := by
  rw [hst, decide_eq_false (not_le.mpr hl)]
  simp

variable (hp : s.phase = .run)
include hp

theorem execPathProbeTimeout_suspect (hst : ((s.dpeer node).paths.getD path {}).state = .suspect) :
    execPathProbeTimeout node path s = .next (
      let p := s.dpeer node
      let x := p.paths.getD path {}
      let s1 := reachTime (x.probeAt + 2 * rto0 p.srtt) s
      let s2 := modPath node path (fun x => { x with lastFail := s1.time.toNat }) s1
      if x.probes ≤ 1 then
        pathEmit path prioCtl (probeOut s2 .probe node path) (modPath node path (fun x => { x with probes := 2, probeAt := s1.time.toNat }) s2)
      else event 1 0x53 (le16 node ++ le8 path) (bumpDg 12 1 (lastingFault (pathErr s2 node path) (pathDown node path s2)))) :=
  (onRun_eq hp).trans (congrArg _ (if_neg (path_judged hl hst)))

theorem execPathDownProbe_down (hst : ((s.dpeer node).paths.getD path {}).state = .down) :
    execPathDownProbe node path s = .next (
      let s1 := reachTime (((s.dpeer node).paths.getD path {}).probeAt + 1000000) s
      pathEmit path prioCtl (probeOut s1 .probe node path) (modPath node path (fun x => { x with
        probes := 1, probeAt := s1.time.toNat, lastFail := if x.probes = 0 then x.lastFail else s1.time.toNat }) s1)) :=
  (onRun_eq hp).trans (congrArg _ (if_neg (path_judged hl hst)))

end

/-! ## Answers to this device's messages (R384 to R386) -/

section
variable {l : Fin 32} {node : Nat} {session id : W32} {m : MsgOut} {s : State}

theorem execDatagramAck_acknowledges {base : W32} {bitmap : W64} {done : Bool} (hs : onLink l s) (hss : session = s.net.session)
    (hm : Tbl.find (s.dpeer node).out id.toNat = some m) :
    execDatagramAck l node session id base bitmap done false s = .next (
      let s2 := ackPackets node id ((bitsOf bitmap.toNat 64).map (base.toNat + ·)) (frameIn l s)
      if done then endMsg node id .ok s2 else s2) := by
  have hm' : Tbl.find ((frameIn l s).dpeer node).out id.toNat = some m := hm
  refine (onRun_onPort_takes hs).trans (congrArg _ ((if_neg (not_not.mpr hss)).trans ?_))
  simp only [hm']
  rfl

theorem execDatagramNak_notReady (hs : onLink l s) (hss : session = s.net.session)
    (hm : Tbl.find (s.dpeer node).out id.toNat = some m) :
    execDatagramNak l node session id .rnr s = .next ((frameIn l s).modPeer node fun p => { p with
      out := Tbl.set p.out id.toNat { m with rnr := some ((m.tries.map fun e => e.2.1).foldl max 0) } }) := by
  have hm' : Tbl.find ((frameIn l s).dpeer node).out id.toNat = some m := hm
  refine (onRun_onPort_takes hs).trans (congrArg _ ((if_neg (not_not.mpr hss)).trans ?_))
  simp only [hm']

/-- The first try of a packet whose receiver was not ready is repeated on the next path, and its path stays trusted. -/
theorem execDatagramRetransmitTimeout_notReady {i path t0 : Nat} (hp : s.phase = .run)
    (hm : Tbl.find (s.dpeer node).out id.toNat = some m) (ht : Tbl.find m.tries i = some (0, path, t0))
    (ha : Tbl.has m.acked i = false) (hr : m.rnr = some 0) :
    execDatagramRetransmitTimeout node id i s = .next (
      let s1 := reachTime (t0 + rto0 (s.dpeer node).srtt) s
      sendPacket node id i 1 (nextPath (s1.dpeer node) path) (bumpDg 10 1 s1)) := by
  rw [execDatagramRetransmitTimeout, onRun_eq hp]
  simp only [hm, ht, ha, hr, Nat.pow_zero, Nat.mul_one]
  rfl

end

/-! ## The obligation -/

/-- Settles O47: each row runs on an up port or at its time, and its conditions pass the checks of session, entry and path. -/
theorem datagramReceiverCompletes : Obligations.DatagramReceiverCompletes := by
  unfold Obligations.DatagramReceiverCompletes
  refine ⟨?data, ?ackDue, ?expiry, ?hello, ?helloReply, ?helloRetry, ?probe, ?probeReply, ?probeTimeout, ?downProbe, ?ack, ?nak, ?timeout⟩
  case data => exact fun _ _ _ _ _ _ _ hw he hf ha => execDatagramData_places hw he hf ha
  case ackDue => exact fun _ _ _ _ hp he hu => execDatagramAckDue_owes hp he hu
  case expiry => exact fun _ _ _ _ hp he => execReassemblyExpiry_drops hp he
  case hello => exact fun _ _ _ _ _ _ _ _ hs hv => (onRun_onPort_takes hs).trans (congrArg _ (if_neg (not_lt.mpr hv)))
  case helloReply => exact fun _ _ _ _ _ _ hs hv hw => execDatagramHelloReply_agrees hs hv hw
  case helloRetry => exact fun _ _ _ hp he => execDatagramHelloRetry_waits hp he
  case probe => exact fun _ _ _ _ hs => onRun_onPort_takes hs
  case probeReply => exact fun _ _ _ _ hs hl hd => execDatagramProbeReply_revives hl hs hd
  case probeTimeout => exact fun _ _ _ hp hl hst => execPathProbeTimeout_suspect hl hp hst
  case downProbe => exact fun _ _ _ hp hl hst => execPathDownProbe_down hl hp hst
  case ack => exact fun _ _ _ _ _ _ _ _ _ hs hss hm => execDatagramAck_acknowledges hs hss hm
  case nak => exact fun _ _ _ _ _ _ hs hss hm => execDatagramNak_notReady hs hss hm
  case timeout => exact fun _ _ _ _ _ _ _ hp hm ht ha hr => execDatagramRetransmitTimeout_notReady hp hm ht ha hr

end Sys2Proof.Machine
end

/-! PROOFS of O25 (R420, R430 to R433, R436, R437, R439): replication relationships that are made, paused, resumed, stopped, repaired and asked about, and the cycles and epochs of their sources. -/
section
namespace Sys2Proof.Machine
open Sys2Proof

/-! ## A new relationship (R430) -/

/-- The key check value that a source names: of the current key of the volume, or zero (R430). -/
def sourceKcv (v : Ns) (s : State) : List Byte :=
  match (Tbl.find s.cipher.keys v.key).map (·.cur) with
  | some k => k.kcv
  | none => zeros 8

theorem execReplCreate_opens {h : MbxHdr} {nsid remote interval : W32} {mode : Byte} {target : W16} {v : Ns} {c : MCmd} {s : State}
    (hs : startsNow ⟨0x0704, 3, true, .other, false⟩ h
      [.num 0 4 nsid.toNat, .num 4 1 mode.toNat, .num 6 2 target.toNat, .num 8 4 remote.toNat, .num 12 4 interval.toNat] c s)
    (hr : createRefusal nsid.toNat mode.toNat target.toNat remote.toNat interval.toNat s = none)
    (hv : Tbl.find s.ns nsid.toNat = some v) :
    execReplCreate h nsid mode target remote interval s = .next (underWay c ⟨0x0704, 3, true, .other, false⟩ (
      let n := nsid.toNat
      let live := s.repls.filter fun e => e.2.state ≠ .stopped || e.2.nsid ≠ n
      let rel := Tbl.freshFrom live live.length 0
      let x : Repl := {
        source := true, nsid := n, sync := mode = 0, node := target.toNat, remoteNsid := remote.toNat, interval := interval.toNat,
        nextDue := s.time.toNat + interval.toNat * 1000000, kcv := sourceKcv v s
        transferGen := match (Tbl.find s.cipher.keys v.key).map (·.cur) with
          | some k => k.gen
          | none => 0 }
      cluSend target.toNat (.replOpen rel n remote.toNat (mode = 0) v.unitLog v.size (sourceKcv v s))
        { taken c s with repls := Tbl.set live rel x })) := by
  have hr' : createRefusal nsid.toNat mode.toNat target.toNat remote.toNat interval.toNat (taken c s) = none := hr
  have hv' : Tbl.find (taken c s).ns nsid.toNat = some v := hv
  refine onRun_mbxStart_goes_on hs ?_
  simp only [hr', hv']
  rfl

/-! ## Control of a relationship (R432, R433, R436) -/

section
variable {nsid : W32} {rel : Nat} {x : Repl} {s t : State}

theorem controlBody_runs {f : Nat → Repl → State → MReply × State} (hb : nsidBad nsid.toNat = false)
    (hx : replOf nsid.toNat s = some (rel, x)) (hf : f rel x s = (replyOk [], t)) :
    controlBody nsid f s = (some (replyOk []), t) := by
  rw [controlBody, if_neg (Bool.eq_false_iff.mp hb), hx]
  simp only [hf]

theorem pauseRepl_running (hh : replHalted x = false) :
    pauseRepl rel x s = (replyOk [], replSaved x.nsid (suspendRepl rel .paused
      ((dropCycle rel s).modRepl rel fun y => { y with resumeTo := if y.state = .transferring then .idle else y.state }))) :=
  if_neg (Bool.eq_false_iff.mp hh)

theorem resumeRepl_paused (hp : x.state = .paused) :
    resumeRepl rel x s = (replyOk [], replSaved x.nsid (startCycle rel
      (setRepl rel (if x.source && x.resumeTo = .inSync then .suspended else x.resumeTo) s))) := if_neg (not_not.mpr hp)

theorem execReplControlPause_pauses {h : MbxHdr} {op : Byte} {c : MCmd}
    (hs : startsNow ⟨0x0705, 3, true, .other, false⟩ h [.num 0 4 nsid.toNat, .num 4 1 op.toNat] c s) (ho : op = 0)
    (hb : nsidBad nsid.toNat = false) (hx : replOf nsid.toNat s = some (rel, x)) (hh : replHalted x = false) :
    execReplControlPause h nsid op s = .next (mbxAnswer c (replyOk []) (replSaved x.nsid (suspendRepl rel .paused
      ((dropCycle rel (taken c s)).modRepl rel fun y => { y with resumeTo := if y.state = .transferring then .idle else y.state })))) :=
  onRun_mbxStart_answers hs ((if_neg (by simp [ho])).trans (controlBody_runs hb hx (pauseRepl_running hh)))

theorem execReplQuery_answers {h : MbxHdr} {c : MCmd}
    (hs : startsNow ⟨0x0706, 3, false, .other, false⟩ h [.num 0 4 nsid.toNat] c s)
    (hb : nsidBad nsid.toNat = false) (hx : replNamed nsid.toNat s = some (rel, x)) :
    execReplQuery h nsid s = .next (mbxAnswer c (replyOk (le8 (replNum x.state) ++ zeros 3 ++ le64 x.lag ++ le64 x.base)) (taken c s)) := by
  have hx' : replNamed nsid.toNat (taken c s) = some (rel, x) := hx
  refine onRun_mbxStart_answers hs (congrArg (some · , _) ((if_neg (Bool.eq_false_iff.mp hb)).trans ?_))
  simp only [hx']

end

/-! ## Cycles and epochs (R420, R431, R439) -/

theorem execReplCycleDue_starts {rel : Nat} {x : Repl} {s : State} (hp : s.phase = .run) (hx : Tbl.find s.repls rel = some x)
    (hsrc : x.source = true) (hst : x.state ≠ .stopped) :
    execReplCycleDue rel s =
      .next (startCycle rel ((reachTime x.nextDue s).modRepl rel fun y => { y with nextDue := y.nextDue + y.interval * 1000000 })) := by
  rw [execReplCycleDue, onRun_eq hp]
  simp only [hx]
  rw [if_neg (by simp [hsrc, hst])]

/-- The state in which a view is marked as sealed and its map has been read through the cache (R420). -/
def viewSealed (epoch : Nat) (w : Snap) (s : State) : State :=
  ((w.map.map fun e => e.1 / 512).eraseDups).foldl (fun s i => cacheRead 2 (mapItem epoch i) s)
    { s with snaps := { s.snaps with views := Tbl.set s.snaps.views epoch { w with sealed_ := true } } }

theorem viewSealed_repls (epoch : Nat) (w : Snap) (s : State) : (viewSealed epoch w s).repls = s.repls :=
  kept_repls (kept_foldl 0 _ (fun x i => cacheRead_keeps 2 (mapItem epoch i) x) _ _) rfl

theorem execSnapshotSealed_unreplicated {epoch : Nat} {w : Snap} {s : State} (hp : s.phase = .run)
    (hw : Tbl.find s.snaps.views epoch = some w) (hpend : w.pending = []) (hs : w.sealed_ = false)
    (hn : (s.repls.find? fun e => e.2.source && e.2.cycle = some epoch) = none) :
    execSnapshotSealed epoch s = .next (viewSealed epoch w s) := by
  rw [execSnapshotSealed, onRun_eq hp]
  refine congrArg _ ?_
  simp only [hw]
  rw [if_neg (by simp [hpend, hs])]
  have hn' := hn
  rw [← viewSealed_repls epoch w s, viewSealed] at hn'
  simp only [hn']
  rfl

/-! ## The obligation -/

/-- Settles O25: each command that nothing holds back passes the checks that its conditions answer, and each event meets the relationship or view that it names. -/
theorem replicationControlCompletes : Obligations.ReplicationControlCompletes := by
  unfold Obligations.ReplicationControlCompletes
  refine ⟨?create, ?pause, ?resume, ?stop, ?repair, ?query, ?due, ?sealed_⟩
  case create => exact fun _ _ _ _ _ _ _ _ _ hs hr hv => execReplCreate_opens hs hr hv
  case pause => exact fun _ _ _ _ _ _ _ hs ho hb hx hh => execReplControlPause_pauses hs ho hb hx hh
  case resume => exact fun _ _ _ _ _ _ hs hb hx hp => onRun_mbxStart_answers hs (controlBody_runs hb hx (resumeRepl_paused hp))
  case stop => exact fun _ _ _ _ _ _ hs hb hx => onRun_mbxStart_answers hs (controlBody_runs hb hx rfl)
  case repair => exact fun _ _ _ _ _ _ hs hb hx => onRun_mbxStart_answers hs (controlBody_runs hb hx rfl)
  case query => exact fun _ _ _ _ _ _ hs hb hx => execReplQuery_answers hs hb hx
  case due => exact fun _ _ _ hp hx hsrc hst => execReplCycleDue_starts hp hx hsrc hst
  case sealed_ => exact fun _ _ _ hp hw hpend hs hn => execSnapshotSealed_unreplicated hp hw hpend hs hn

end Sys2Proof.Machine
end

/-! PROOFS of O26 (R430 to R436, R438): what each replication message does that the partner of a relationship sends. -/
section
namespace Sys2Proof.Machine
open Sys2Proof

/-! ## A message of the partner (R426, R430)

`u` is the state that its effect leaves. -/

section
variable {h : CluHdr} {m : CluMsg} {t : Traffic} {rel : Nat} {x : Repl} {s u : State}

theorem onRun_onMember_does {f : State → State} (hs : fromMember h m t s) (hu : f (heard h t s) = u) :
    onRun s (onMember h m f) = .next u := by
  rw [onRun_eq hs.1, onMember_runs hs, hu]

theorem onRun_onSource_does {f : Repl → State → State} (hs : fromTarget h m t rel x s) (hu : f x (heard h t s) = u) :
    onRun s (onSource h m rel f) = .next u := by
  rw [onRun_eq hs.1.1, onSource_runs hs, hu]

theorem onRun_onTarget_does {f : Nat → Repl → State → State} (hs : fromSource h m t rel x s)
    (hu : f (targetKey h.src rel) x (heard h t s) = u) : onRun s (onTarget h m rel f) = .next u := by
  rw [onRun_eq hs.1.1, onTarget_runs hs, hu]

end

/-! ## The target (R430, R431, R434 to R436) -/

section
variable {h : CluHdr} {u : Traffic} {rel base epoch : Nat} {x : Repl} {v : Ns} {s : State}

/-- A delta that starts from the target's own epoch, or from nothing, is taken (R431). -/
theorem deltaBase_fits (hb : base = x.base ∨ base = 0) : ¬(decide (base ≠ x.base) && decide (base ≠ 0)) = true := by
  simp only [Bool.and_eq_true, decide_eq_true_eq]
  exact fun hn => hb.elim hn.1 hn.2

theorem execReplUnits_stores {units : List WireUnit} (hs : fromSource h (.replUnits rel base epoch units) u rel x s)
    (hv : Tbl.find s.ns x.nsid = some v) (hk : keyBlocks (heard h u s) v = false) :
    execReplUnits h rel base epoch units s = .next (
      let gen := match Tbl.find s.cipher.keys v.key with
        | some e => e.cur.gen
        | none => 0
      let t := takeUnits (targetKey h.src rel) x v units (heard h u s)
      storeGroups v gen x.transferGen t.1.length t.1 t.2) := by
  have hv' : Tbl.find (heard h u s).ns x.nsid = some v := hv
  refine onRun_onTarget_does hs ?_
  simp only [hv']
  exact if_neg (Bool.eq_false_iff.mp hk)

theorem execReplCommit_forms (hs : fromSource h (.replCommit rel epoch) u rel x s) (he : x.builtEpoch = epoch)
    (hr : x.reported = true) :
    execReplCommit h rel epoch s = .next (formAll (volumePool (heard h u s) x.nsid)
      ((heard h u s).modRepl (targetKey h.src rel) fun y => { y with wanted := true })) :=
  onRun_onTarget_does hs (if_pos (by simp [he, hr]))

/-- The write that a target starts for its source's synchronous write (R434). -/
def replicaWrite (x : Repl) (v : Ns) (off : Nat) (data : List Nat) : Inflight :=
  { ctrl := 65536, sq := 0, cid := 0, op := .write, nsid := x.nsid, slba := off / blockBytes v, nlb := data.length, slice := v.slice,
    stage := .running, data := data, mute := true, replica := true }

theorem execReplWrite_stages {off seq len : Nat} {data : List Nat} (hs : fromSource h (.replWrite rel off seq len data) u rel x s)
    (hv : Tbl.find s.ns x.nsid = some v) (hsync : x.sync = true) (hnew : (x.staged.any fun y => y.1 = seq) = false)
    (hk : keyBlocks (heard h u s) v = false) :
    execReplWrite h rel off seq len data s = .next (
      let id := s.host.nextSeq
      let s1 := enterCmd (replicaWrite x v off data)
        ((heard h u s).modRepl (targetKey h.src rel) fun y => { y with staged := y.staged ++ [(seq, id)] })
      match runningCmd s1 id .write with
      | some c1 => startWrite id c1 s1
      | none => s1) := by
  have hv' : Tbl.find (heard h u s).ns x.nsid = some v := hv
  refine onRun_onTarget_does hs ?_
  simp only [hv']
  exact (if_neg (by simp [hsync, hnew])).trans (if_neg (Bool.eq_false_iff.mp hk))

/-! ## The source (R430, R432, R433) -/

theorem execReplOpenAck_starts (hs : fromTarget h (.replOpenAck rel 0) u rel x s) (ho : x.opened = false) :
    execReplOpenAck h rel 0 s = .next (startCycle rel (finishOp 0x0704 (replyOk []) (replSaved x.nsid
      ((heard h u s).modRepl rel fun y => { y with opened := true })))) :=
  onRun_onSource_does hs ((if_pos (by simp [ho])).trans (if_pos rfl))

theorem execReplDeltaAck_sends {missing : List Nat} {changed : List (Nat × Nat)} {idle : Bool} {e : Nat} {w : Snap}
    (hs : fromTarget h (.replDeltaAck rel missing changed) u rel x s) (hc : x.cycle = some e) (hw : Tbl.find s.snaps.views e = some w)
    (hv : Tbl.find s.ns x.nsid = some v) :
    execReplDeltaAck h rel missing changed idle s = .next (
      let s1 := (heard h u s).modRepl rel fun y => { y with deltasOut := y.deltasOut - 1 }
      let extra := (unitsTouched v changed).map fun i => (i, wireOf (Tbl.find w.map i))
      let s2 := if extra = [] then s1 else sendDeltas rel x.node x.base e (extra.length + 1) extra s1
      let s3 := s2.modRepl rel fun y => { y with toSend := y.toSend ++ missing.filter fun k => !y.toSend.contains k }
      commitCycle rel (sendUnits idle rel (x.toSend.length + missing.length) s3)) := by
  have hw' : Tbl.find (heard h u s).snaps.views e = some w := hw
  have hv' : Tbl.find (heard h u s).ns x.nsid = some v := hv
  refine onRun_onSource_does hs ?_
  simp only [hc, hw', hv']

/-! ## Repair (R435, R436) -/

theorem execRepairRequest_answers {ranges : List (Nat × Nat)} {key : Nat} (hs : fromMember h (.repairRequest rel ranges) u s)
    (hx : repairRel h.src rel s = some (key, x)) (hv : Tbl.find s.ns x.nsid = some v) :
    execRepairRequest h rel ranges s = .next (
      let r := repairAnswer x v (unitsTouched v ranges) (heard h u s)
      cluSend h.src (.repairData rel r.1.1 r.1.2) r.2) := by
  have hx' : repairRel h.src rel (heard h u s) = some (key, x) := hx
  have hv' : Tbl.find (heard h u s).ns x.nsid = some v := hv
  refine onRun_onMember_does hs ?_
  simp only [hx', hv']

/-- The volume's poisoned ranges (R436). -/
def poisonedRanges (nsid : Nat) (s : State) : List (Nat × Nat) :=
  (s.host.poison.filter fun p => p.nsid = nsid && p.epoch = none).map fun p => (p.slba, p.nlb)

/-- The runs of blocks that the partner's data restores (R436). -/
def restoredRuns (x : Repl) (v : Ns) (entries : List (Nat × WireEnt)) (units : List WireUnit) (s : State) : List (Nat × List Nat) :=
  (poisonedRanges x.nsid s).flatMap fun r => repairRuns x v entries units s r.1 r.2

/-- The poisoned ranges of which a block stays poisoned. -/
def leftRanges (nsid : Nat) (runs : List (Nat × List Nat)) (s : State) : List (Nat × Nat) :=
  (poisonedRanges nsid s).filter fun r =>
    !(List.range r.2).all fun j => runs.any fun q => decide (q.1 ≤ r.1 + j) && decide (r.1 + j < q.1 + q.2.length)

theorem execRepairData_restores {entries : List (Nat × WireEnt)} {units : List WireUnit} {key : Nat}
    (hs : fromMember h (.repairData rel entries units) u s) (hx : repairRel h.src rel s = some (key, x))
    (hv : Tbl.find s.ns x.nsid = some v) (hr : x.repairing = true) :
    execRepairData h rel entries units s = .next (
      let runs := restoredRuns x v entries units (heard h u s)
      let s1 := repairView v.pool (viewRepairs x v entries units (heard h u s))
        (unrepaired x.nsid v.slice (leftRanges x.nsid runs (heard h u s)) (heard h u s))
      let s2 := runs.foldl (fun s r => rewriteRun key x.nsid v r s) s1
      if runs = [] then s2.modRepl key fun y => { y with repairing := false } else s2) := by
  have hx' : repairRel h.src rel (heard h u s) = some (key, x) := hx
  have hv' : Tbl.find (heard h u s).ns x.nsid = some v := hv
  refine onRun_onMember_does hs ?_
  simp only [hx', hv']
  exact if_neg (by simp [hr])

end

/-! ## The obligation -/

/-- Settles O26: each message comes from the partner that its conditions name, and has its effect on the state in which its sender has been heard. -/
theorem replicationMessagesComplete : Obligations.ReplicationMessagesComplete := by
  unfold Obligations.ReplicationMessagesComplete
  refine ⟨?open_, ?openAck, ?delta, ?deltaAck, ?units, ?commit, ?commitAck, ?write, ?writeAck, ?repairRequest, ?repairData⟩
  case open_ => exact fun _ _ _ _ _ _ _ _ _ _ hs hb => onRun_onMember_does hs (if_neg (Bool.eq_false_iff.mp hb))
  case openAck => exact fun _ _ _ _ _ hs ho => execReplOpenAck_starts hs ho
  case delta => exact fun _ _ _ _ _ _ _ _ hs hb => onRun_onTarget_does hs (if_neg (deltaBase_fits hb))
  case deltaAck => exact fun _ _ _ _ _ _ _ _ _ _ _ hs hc hw hv => execReplDeltaAck_sends hs hc hw hv
  case units => exact fun _ _ _ _ _ _ _ _ _ hs hv hk => execReplUnits_stores hs hv hk
  case commit => exact fun _ _ _ _ _ _ hs he hr => execReplCommit_forms hs he hr
  case commitAck => exact fun _ _ _ _ _ _ hs hc => onRun_onSource_does hs (if_neg (not_not.mpr hc))
  case write => exact fun _ _ _ _ _ _ _ _ _ _ hs hv hsync hnew hk => execReplWrite_stages hs hv hsync hnew hk
  case writeAck => exact fun _ _ _ _ _ _ hs => onRun_onSource_does hs rfl
  case repairRequest => exact fun _ _ _ _ _ _ _ _ hs hx hv => execRepairRequest_answers hs hx hv
  case repairData => exact fun _ _ _ _ _ _ _ _ _ hs hx hv hr => execRepairData_restores hs hx hv hr

end Sys2Proof.Machine
end

/-! PROOFS of O48 (R402 to R405, R407, R410 to R412, R414, R416; log entries 13, 14 and 138): the training, the frames and the watch of the peer link, and the commands about the peer. -/
section
namespace Sys2Proof.Machine
open Sys2Proof

/-! ## Training (R402 to R405) -/

section
variable {sub : Fin 4} {s : State}

theorem execJalrasTrainingDone_greets (hp : s.phase = .run) (hr : jalReady s sub = true) (hst : (s.sub sub).state = .detect) :
    execJalrasTrainingDone sub s = .next (jalHello sub (s.modSub sub fun l => { l with
      state := .hello, txSeq := 0, rxSeq := 0, unacked := [], ackDue := false, nakSent := false })) :=
  (onRun_eq hp).trans (congrArg _ (if_pos (by simp [hr, hst])))

section
variable {x : JalHello} {v j : Nat} (hv : commonOf 1 2 x.minV x.maxV = some v) (hj : commonOf 1 2 x.journalMin x.journalMax = some j)
  (hf : partnerFault s sub x = 0)
include hv hj hf

theorem helloChecked_passes (f : Nat → Nat → State → State) : helloChecked sub x f s = f v j s := by
  simp only [helloChecked, hv, hj, hf]

variable (hp : s.phase = .run) (hr : jalReady s sub = true) (hst : (s.sub sub).state = .hello)
include hp hr hst

/-- A sub-link that waits for its partner's HELLO is not up, so the HELLO names no new session of an up link. -/
theorem execJalrasHello_answers : execJalrasHello sub x s = .next (jalHelloReply sub v j
    ((s.modSub sub fun l => { l with partner := some x.uid }).modJal fun y =>
      if isCross s sub x then y else { y with peerRange := (x.minV, x.maxV, x.journalMin, x.journalMax) })) := by
  rw [execJalrasHello, onRun_eq hp]
  refine congrArg _ ((if_neg (by simp [hr, hst])).trans ((helloChecked_passes hv hj hf _).trans ?_))
  simp only [hst]
  rfl

theorem execJalrasHelloReply_comesUp (hc : isCross s sub x = false) : execJalrasHelloReply sub x s = .next (
    let s2 := (s.modSub sub fun l => { l with
        state := .up, cross := false, retrainFails := 0, lastFrame := s.time.toNat, partner := some x.uid, node := x.nodeId }).modJal fun y =>
      { y with version := v, journalVersion := j, partnerUid := some x.uid, partnerNode := x.nodeId, peerSession := x.session
               heard := some s.time.toNat }
    linkBack (startJoining (jalQueue (some sub) (.serials (ownSerials s)) { s2 with journal := { s2.journal with version := j } }))) := by
  rw [execJalrasHelloReply, onRun_eq hp]
  refine congrArg _ ((if_neg (by simp [hr, hst])).trans ((helloChecked_passes hv hj hf _).trans ?_))
  simp only [hc]
  rfl

end

/-! ## Frames (R407, R410, R411) -/

variable (hp : s.phase = .run)
include hp

theorem execJalrasRetransmitTimeout_fails {f : JalFrame} {more : List JalFrame} (hu : (s.sub sub).state = .up)
    (hf : (s.sub sub).unacked = f :: more) :
    execJalrasRetransmitTimeout sub s = .next (jalFailed sub f.seq (reachTime (f.sentAt + 4000) s)) := by
  rw [execJalrasRetransmitTimeout, onRun_eq hp]
  simp only [hu, hf]

theorem execJalrasRetrainDone_resends (hr : (s.sub sub).state = .retrain) :
    execJalrasRetrainDone sub true s = .next (resendJal sub (s.sub sub).unacked (s.modSub sub fun l => { l with
      state := .up, retrainFails := 0, lastFrame := s.time.toNat
      unacked := l.unacked.map fun f => { f with failedOnce := false, sentAt := s.time.toNat } })) :=
  (onRun_eq hp).trans (congrArg _ ((if_neg (not_not.mpr hr)).trans (if_pos rfl)))

/-! ## The watch of the peer (R411, R412, R414) -/

theorem execPeerPartitionTimeout_mirrored {e : Nat} (he : s.jal.heard = some e) (hm : s.peerState = .mirrored) :
    execPeerPartitionTimeout s = .next (
      if peerGone (reachTime (e + 50000000) s) then takeover (reachTime (e + 50000000) s) else partition (reachTime (e + 50000000) s)) := by
  rw [execPeerPartitionTimeout, onRun_eq hp]
  simp only [he, hm]

end

/-! ## Commands about the peer (R416) -/

section
variable {h : MbxHdr} {c : MCmd} {s : State}

theorem execFailoverTakeOver_partitioned {op : Byte} (hs : startsNow ⟨0x0802, 2, true, .other, false⟩ h [.num 0 1 op.toNat] c s)
    (ho : op = 0) (hp : s.peerState = .partitioned) :
    execFailoverTakeOver h op s = .next (mbxAnswer c (replyOk []) (takeover (taken c s))) := by
  have hp' : (taken c s).peerState = .partitioned := hp
  refine onRun_mbxStart_answers hs ((if_neg (not_not.mpr ho)).trans ?_)
  simp only [hp']

theorem execFailoverGiveBack_gives (hs : startsNow ⟨0x0802, 2, true, .other, false⟩ h [.num 0 1 1] c s) (hm : s.peerState = .mirrored)
    (hpools : (s.pools.filter fun e => e.2.owned && !e.2.created && !e.2.deleting) ≠ []) :
    execFailoverGiveBack h s = .next (underWay c ⟨0x0802, 2, true, .other, false⟩
      (startGiving ((s.pools.filter fun e => e.2.owned && !e.2.created && !e.2.deleting).map (·.1)) (taken c s))) :=
  onRun_mbxStart_goes_on hs ((if_neg (not_not.mpr hm)).trans (if_neg fun hnil => hpools (List.map_eq_nil_iff.mp hnil)))

end

/-! ## The obligation -/

/-- Settles O48: each event meets a sub-link or a peer in the state that it belongs to, and each command that nothing holds back answers by the peer state. -/
theorem peerLinkComplete : Obligations.PeerLinkComplete := by
  unfold Obligations.PeerLinkComplete
  refine ⟨?training, ?hello, ?helloReply, ?nak, ?timeout, ?ackDue, ?loss, ?retrained, ?heartbeat, ?heartbeatSend, ?vaultNotice, ?partition,
    ?status, ?takeOver, ?giveBack⟩
  case training => exact fun _ _ hp hr hst => execJalrasTrainingDone_greets hp hr hst
  case hello => exact fun _ _ _ _ _ hp hr hst hv hj hf => execJalrasHello_answers hv hj hf hp hr hst
  case helloReply => exact fun _ _ _ _ _ hp hr hst hv hj hf hc => execJalrasHelloReply_comesUp hv hj hf hp hr hst hc
  case nak => exact fun _ _ _ hp hu => (onRun_eq hp).trans (congrArg _ (if_pos hu))
  case timeout => exact fun _ _ _ _ hp hu hf => execJalrasRetransmitTimeout_fails hp hu hf
  case ackDue => exact fun _ _ hp ha hu => (onRun_eq hp).trans (congrArg _ (if_pos (by simp [ha, hu])))
  case loss => exact fun _ _ hp hu => (onRun_eq hp).trans (congrArg _ (if_pos hu))
  case retrained => exact fun _ _ hp hr => execJalrasRetrainDone_resends hp hr
  case heartbeat => exact fun _ _ _ _ _ hs he => onRun_onJal_delivers rfl hs (if_neg (not_not.mpr he))
  case heartbeatSend =>
    intro s hp
    show execJalrasHeartbeatSend s = _
    rw [execJalrasHeartbeatSend, onRun_eq hp]
  case vaultNotice => exact fun _ _ _ hs he => onRun_onJal_delivers rfl hs (if_pos he)
  case partition => exact fun _ _ hp he hm => execPeerPartitionTimeout_mirrored hp he hm
  case status => exact fun _ _ _ hs => onRun_mbxStart_answers hs rfl
  case takeOver => exact fun _ _ _ _ hs ho hp => execFailoverTakeOver_partitioned hs ho hp
  case giveBack => exact fun _ _ _ hs hm hpools => execFailoverGiveBack_gives hs hm hpools

end Sys2Proof.Machine
end

/-! PROOFS of O27 (R142, R482, R483, R485, R486, R501, R502; log entries 24, 43 and 199): the governor's period and shares, the statistics and the traces. -/
section
namespace Sys2Proof.Machine
open Sys2Proof

section
variable {h : MbxHdr} {addr : W64} {len : W32} {c : MCmd} {s : State}

theorem execGovSharesSet_takes {activity : Byte} {share ceiling : W16}
    (hs : startsNow { opcode := 0x0903, since := 3, sem := true, group := .other } h
      [.num 0 1 activity.toNat, .num 2 2 share.toNat, .num 4 2 ceiling.toNat] c s)
    (hk : sharesCheck activity.toNat share.toNat ceiling.toNat s = none) :
    execGovSharesSet h activity share ceiling s = .next (underWay c { opcode := 0x0903, since := 3, sem := true, group := .other }
      (configReply 0x15 0x0903 ((taken c s).modAct activity.toNat fun x => { x with newShare := share.toNat, newCeiling := ceiling.toNat }))) := by
  have hk' : sharesCheck activity.toNat share.toNat ceiling.toNat (taken c s) = none := hk
  refine onRun_mbxStart_goes_on hs ?_
  simp only [hk']

theorem execStatsGet_writes {g : W16} {l : List Nat}
    (hs : startsNow { opcode := 0x0904, since := 2, sem := false, group := .other } h
      [.num 0 2 g.toNat, .num 4 8 addr.toNat, .num 12 4 len.toNat] c s)
    (hl : statsOf g.toNat s = some l) :
    execStatsGet h g addr len true s = .next (mbxAnswer c (replyOk (le32 ((l.flatMap le64).take len.toNat).length))
      (hostWrite h.port addr ((l.flatMap le64).take len.toNat) (taken c s))) := by
  have hl' : statsOf g.toNat (taken c s) = some l := hl
  refine onRun_mbxStart_answers hs ?_
  simp only [hl']
  rfl

/-- The entries that firmware wrote are in the ring when the command starts (R502). -/
theorem execStatsGetTrace_exports {path : Fin 8} {wrote : List TraceEnt}
    (hs : startsNow { opcode := 0x0904, since := 2, sem := false, group := .other } h
      [.num 0 2 (0x4000 + path.val), .num 4 8 addr.toNat, .num 12 4 len.toNat] c (wrote.foldl (tracePut path.val) s))
    (hp : s.phase = .run) :
    execStatsGetTrace h path addr len wrote true s = .next (mbxAnswer c
      (traceExport h path.val addr len.toNat (taken c (wrote.foldl (tracePut path.val) s))).1
      (traceExport h path.val addr len.toNat (taken c (wrote.foldl (tracePut path.val) s))).2) :=
  (onRun_eq hp).trans (congrArg _ (mbxStart_answers hs rfl))

end

/-- Settles O27: the boundary runs while the chip does, and each command that nothing holds back passes its checks. -/
theorem governorAndStatisticsComplete : Obligations.GovernorAndStatisticsComplete := by
  unfold Obligations.GovernorAndStatisticsComplete
  refine ⟨?boundary, ?shares, ?stats, ?traces⟩
  case boundary =>
    intro s hp
    show execGovPeriodBoundary s = _
    rw [execGovPeriodBoundary, onRun_eq hp]
  case shares => exact fun _ _ _ _ _ _ hs hk => execGovSharesSet_takes hs hk
  case stats => exact fun _ _ _ _ _ _ _ hs hl => execStatsGet_writes hs hl
  case traces => exact fun _ _ _ _ _ _ _ hs hp => execStatsGetTrace_exports hs hp

end Sys2Proof.Machine
end
